-- ==== Sys2Proof/Word.lean ====
section
/-! DEFINITION. Sys2Proof/Word.lean: the byte and word types and the plainest arithmetic on unsigned fields. -/

namespace Sys2Proof

/-- A byte of an addressed memory. -/
abbrev Byte := BitVec 8

/-- A 64-bit word, as the host writes and reads registers (R26). -/
abbrev Word := BitVec 64

/-- The `w` bits of `v` from bit `lo` up, as an unsigned number. -/
def slice (v lo w : Nat) : Nat := v / 2 ^ lo % 2 ^ w

/-- Bit `i` of `v`. -/
def bit (v i : Nat) : Bool := v / 2 ^ i % 2 == 1

/-- `v` kept to `w` bits. -/
def wrap (w v : Nat) : Nat := v % 2 ^ w

/-- `v`, or the greatest `w`-bit number where `v` exceeds it (a saturating counter). -/
def sat (w v : Nat) : Nat := min v (2 ^ w - 1)

/-- The signed reading of a `w`-bit field. -/
def toSigned (w v : Nat) : Int := if v % 2 ^ w < 2 ^ (w - 1) then (v % 2 ^ w : Nat) else (v % 2 ^ w : Nat) - (2 ^ w : Nat)

/-- The `w`-bit field that holds an integer, modulo `2 ^ w`. -/
def ofSigned (w : Nat) (i : Int) : Nat := (i % (2 ^ w : Nat)).toNat

/-- 1 for true, 0 for false. -/
def b2n (b : Bool) : Nat := if b then 1 else 0

/-- The `n` bytes of `v`, least significant first (R7). -/
def toBytes : Nat → Nat → List Byte
  | 0, _ => []
  | n + 1, v => BitVec.ofNat 8 v :: toBytes n (v / 256)

/-- The number that a list of bytes spells, least significant first (R7). -/
def ofBytes : List Byte → Nat
  | [] => 0
  | b :: t => b.toNat + 256 * ofBytes t

end Sys2Proof
end

