-- ==== Sys2Proof/Operand.lean ====
section
/-! DEFINITION. Sys2Proof/Operand.lean: the types of the commands' operands: status codes, what a read of host
memory answers, ruling exchange cells, and the small records that outside parties hand to the hub. -/

namespace Sys2Proof

/-- Status codes (spec/00_scope.md Table 4). -/
inductive Status where
  | ok | timeout | pageFault | dataErr | unsupported | accessDenied | aborted | refused | unreachable | late | quota
  deriving DecidableEq, Repr

/-- The 4-bit code of a status (Table 4). -/
def Status.code : Status → Nat
  | .ok => 0x0 | .timeout => 0x1 | .pageFault => 0x2 | .dataErr => 0x3 | .unsupported => 0x4 | .accessDenied => 0x5
  | .aborted => 0x6 | .refused => 0x7 | .unreachable => 0x8 | .late => 0x9 | .quota => 0xA

/-- The status of a received code; a reserved code is taken as UNSUPPORTED (R18). -/
def Status.ofCode : Nat → Status
  | 0x0 => .ok | 0x1 => .timeout | 0x2 => .pageFault | 0x3 => .dataErr | 0x4 => .unsupported | 0x5 => .accessDenied
  | 0x6 => .aborted | 0x7 => .refused | 0x8 => .unreachable | 0x9 => .late | 0xA => .quota | _ => .unsupported

/-- A received code that Table 4 reserves (R18). -/
def Status.reservedCode (c : Nat) : Bool := decide (c > 0xA)

/-- The place of a status in Table 4, which stands in order of precedence (R17): 0 is the lowest. -/
def Status.rank : Status → Nat
  | .ok => 0 | .late => 1 | .aborted => 2 | .timeout => 3 | .dataErr => 4 | .pageFault => 5 | .unreachable => 6
  | .refused => 7 | .quota => 8 | .unsupported => 9 | .accessDenied => 10

/-- The status to report where two conditions apply (R17). -/
def Status.worse (a b : Status) : Status := if a.rank < b.rank then b else a

/-- The status to report where a list of conditions apply (R17). -/
def Status.worst (l : List Status) : Status := l.foldl Status.worse .ok

/-- Data of the request is valid with this status (Table 4). -/
def Status.good : Status → Bool
  | .ok | .late => true
  | _ => false

/-- What a read the hub made outside answers: its bytes, or the status it failed with. -/
inductive Answer where
  | data (bytes : List Byte)
  | fail (s : Status)
  deriving DecidableEq, Repr

/-- A ruling segment (spec/02_ruling_and_calendar.md R29, Table 1); `rate` is the 24-bit field. -/
structure Seg where
  startRef : Nat := 0
  startPos : Nat := 0
  rate : Nat := 0
  kind : Nat := 0
  seq : Nat := 0
  deriving DecidableEq, Repr

/-- A RULE cell (spec/11_syrel_fabric.md R276, Table 4). -/
structure RuleCell where
  state : Nat
  depth : Nat
  exseq : Nat
  txT : Nat
  echo : Option (Nat × Nat)
  seg : Seg
  pend : Option Seg
  deriving DecidableEq, Repr

/-- A RULE_SYNC frame (spec/02_ruling_and_calendar.md R37, Table 3), as its fields in table order. -/
structure SyncFrame where
  preamble : Nat
  refAtMark : Nat
  segStartRef : Nat
  segStartPos : Nat
  segRate : Nat
  segSeqKind : Nat
  crc : Nat
  deriving DecidableEq, Repr

/-- A Syrel packet: the fields of its header and its payload (spec/11_syrel_fabric.md R281, Tables 6 and 7). `dst` and
`src` are 13 bits: the twin bit above the hub ID. `rsvd`: a reserved bit of the header is set. -/
structure Pkt where
  opc : Nat
  vn : Nat
  dl : Bool := false
  phase : Bool := false
  pool : Bool := false
  viaEn : Bool := false
  masked : Bool := false
  dst : Nat
  src : Nat
  via : Nat := 0
  tag : Nat := 0
  fn : Nat := 0
  status : Nat := 0
  hops : Nat := 0
  seq : Nat := 0
  addr : Nat := 0
  aux : Nat := 0
  data : List Byte := []
  rsvd : Bool := false
  /-- No part of the packet: it came in on a port with SECURE = 1, and on which. -/
  secure : Bool := false
  port : Nat := 0
  deriving DecidableEq, Repr

/-- What the cells of a codeword carry, packets whole (R275, Table 3). `auth` says whether the tag verifies. -/
inductive Cell where
  | idle
  | pkt (p : Pkt)
  | credit (vcs : List Nat) (shared : Nat)
  | rule (c : RuleCell)
  | auth (ok : Bool)
  | reserved (kind : Nat)
  deriving DecidableEq, Repr

/-- What training and discovery find at a site after its reset is released (spec/09_chiplet_sites.md R214, R215, R234,
R235): modules that trained, those at x8, the rate, the identity record and whether attestation passes. -/
structure SiteFound where
  mods : Nat
  x8 : Nat := 0
  rate32 : Bool := true
  ident : List Byte := []
  attested : Bool := true
  deriving DecidableEq, Repr

/-- What Herva firmware does for a management packet of another hub's firmware (spec/05_sessions_and_kv_pages.md R127, R128;
their format is firmware's own): nothing the hub's registers show; create a replica of function `fn` from the words of
the primary's entry, whose index is `idx`; delete replica `idx`; end the mirroring of primary `idx`, whose replica is
gone; take a migrating session with the first 36 bytes of its root (its pending range) and its frames by directory entry. -/
inductive MgmtAct where
  | other
  | createReplica (fn idx : Nat) (words : List Nat)
  | deleteReplica (fn idx : Nat)
  | replicaGone (fn idx : Nat)
  | takeSession (fn : Nat) (words : List Nat) (pending : List Byte) (frames : List (Nat × List Byte))
  /-- A power group's report and its answer (spec/18_power_and_thermal.md R468). -/
  | powerReport (cap power late maxLate : Nat)
  | powerCap (cap : Nat)
  /-- A broadcast (spec/17_bringup_reset_service.md R441): a missing chunk of the broadcast of hub `origin` is asked for, a chunk
  comes, a hub reports. -/
  | chunkRequest (target transfer : Nat) (manifest : Bool) (idx origin : Nat)
  | chunk (target transfer : Nat) (manifest : Bool) (idx : Nat) (data : List Byte)
  | staged (transfer : Nat)
  /-- A route or a multicast group that firmware has computed is installed (spec/11_syrel_fabric.md R286, R291): the words of
  SYR_ROUTE_d and MC_GROUP_g. -/
  | route (d word : Nat)
  | group (g word : Nat)
  deriving DecidableEq, Repr

/-- Who arms or cancels a calendar entry (spec/02_ruling_and_calendar.md R45, R56): the descriptor of ring `g` and count `k`, or
Herva firmware, with an entry image and, for a cancel, an index. -/
inductive CalAsk where
  | desc (g k : Nat)
  | herva (image : List Nat) (entry : Nat)
  deriving DecidableEq, Repr

/-- What the manual names of a function's configuration space (spec/12_host_endpoint.md R312 to R315, R326), by register:
Vendor and Device ID; class code and Revision ID; Subsystem IDs; a half of the Device Serial Number; Command ([1] Memory Space
Enable, [2] Bus Master Enable); Power Management control ([1:0] PowerState); Device Control ([15] Initiate FLR), Device Status ([5]
Transactions Pending) and Device Control 2 ([3:0] Completion Timeout Value); SR-IOV control ([0] VF Enable, [3] VF MSE) and VF Device
ID; MSI-X control; ATS, PRI and PASID control; the copies in the Vangux DVSEC; any other. `hdmDecoder` is the host's commit of its
HDM decoder, which stands in the CXL component registers (R321). -/
inductive CfgReg where
  | ids | classRev | subsystem | serial (high : Bool) | command | pmcs | devctl | devsta | devctl2 | sriovCtl | vfDevice
  | msixCtl | ats | pri | priAlloc | pasid | dvsec (k : Nat) | hdmDecoder
  | other (off : Nat)
  deriving DecidableEq, Repr

/-- What the host link trains to (spec/12_host_endpoint.md Table 8): RATE (0: down), lanes, flit mode, and the CXL protocols. -/
structure HostLink where
  rate : Nat
  width : Nat := 16
  flit : Bool := true
  cxlCache : Bool := false
  cxlMem : Bool := false
  deriving DecidableEq, Repr

/-- What training, enumeration and attestation find at a downstream port (spec/12_host_endpoint.md R330): RATE (0: no link) and the
WIDTH code, whether it is a CXL memory expander, its IDs and class, whether enumeration and the enabling of the controller succeed,
and whether attestation passes. -/
structure DsFound where
  rate : Nat
  width : Nat := 3
  cxl : Bool := false
  vendor : Nat := 0
  device : Nat := 0
  cls : Nat := 0x010802
  enabled : Bool := true
  attested : Bool := true
  deriving DecidableEq, Repr

/-- What an SPDM requester asks of the RTP (spec/15_security_and_isolation.md R397 to R399): the requests of SPDM 1.3 that the
responder's capabilities name, IDE_KM key programming and the TDISP requests that have no row of their own. `sid` is the
secured session a request came in; `ok` says that the requester's algorithms, chain or signature are acceptable. -/
inductive SpdmReq where
  | getVersion
  | getCapabilities
  | negotiateAlgorithms (ok : Bool)
  | getDigests
  | getCertificate (slot : Nat)
  | challenge (slot : Nat)
  | getMeasurements (index : Nat) (signed : Bool)
  | keyExchange (ok : Bool)
  | finish (sid : Nat) (ok : Bool)
  | heartbeat (sid : Nat)
  | keyUpdate (sid : Nat)
  | chunk
  | endSession (sid : Nat)
  | ideKeyProg (sid stream : Nat)
  | interfaceState (sid fn : Nat)
  | interfaceReport (sid fn : Nat)
  | startInterface (sid fn nonce : Nat)
  | other (code : Nat)
  deriving DecidableEq, Repr

/-- A bank of the configuration store (spec/17_bringup_reset_service.md R428): SEQ, LENGTH, the digest as a number, and the
bytes of the body. -/
structure CfgBank where
  seq : Nat := 0
  len : Nat := 2 ^ 32 - 1
  digest : Nat := 0
  body : List Byte := []
  deriving DecidableEq, Repr

/-- A firmware bank (R437): manifest and image. -/
structure FwBank where
  man : List Byte := []
  img : List Byte := []
  deriving DecidableEq, Repr

/-- The private flash: the two banks of the configuration store, and per target (1 Herva firmware, 2 RTP firmware, 3 Graver
program set, in this order) the two firmware banks and the one the image directory names active. -/
structure Flash where
  cfgA : CfgBank := {}
  cfgB : CfgBank := {}
  fw : List (FwBank × FwBank) := [({}, {}), ({}, {}), ({}, {})]
  active : List Nat := [0, 0, 0]
  deriving DecidableEq, Repr

/-- What training finds at a memory site (spec/07_memory_and_system_cache.md R159, R160): MEM_CFG.PKG (0: no package), whether the
channels are dual rank, raw granules per channel, and the channels that trained. -/
structure MemFound where
  pkg : Nat := 1
  dual : Bool := false
  raw : Nat := 0
  ok : Nat := 255
  deriving DecidableEq, Repr

/-- What bring-up finds (spec/17_bringup_reset_service.md Table 1): whether the RTP's self-tests passed, the logical tiles that
passed their proof pass, the memory sites by number, what the host link trained to, and the words of the routes and groups that
firmware computes. -/
structure BringUp where
  selftest : Bool := true
  tiles : Nat := 2 ^ 64 - 1
  mem : List MemFound := []
  link : HostLink := { rate := 6 }
  routes : List (Nat × Nat) := []
  groups : List (Nat × Nat) := []
  /-- RULE_REF is fitted and runs (spec/02_ruling_and_calendar.md R60). -/
  ruleRef : Bool := false
  deriving DecidableEq, Repr

end Sys2Proof
end

