-- ==== Sys2Proof/Syntax.lean ====
section
/-! DEFINITION. Sys2Proof/Syntax.lean: the commands, one constructor for each row of spec/opcode_table.json. -/

namespace Sys2Proof

/-- A command: one row of spec/opcode_table.json, with what the row's words leave to the party that sends it. -/
inductive Instr where
  /-- REG_WRITE (R10). Function, offset in its BAR 0, bytes, the value written, and whether the write is poisoned. -/
  | regWrite (fn : Nat) (off : Nat) (size : Nat) (v : Nat) (poison : Bool)
  /-- SETUP_LOCK_SET (R13). The PF writes 1 to HUB_GLOBAL.SETUP_LOCK. -/
  | setupLockSet
  /-- REG_LOW_HALF_READ (R503). Function, offset in its BAR 0, bytes, and the request's tag. -/
  | regLowHalfRead (fn : Nat) (off : Nat) (size : Nat) (tag : Nat)
  /-- BAR_ACCESS_INVALID (R26). Function, BAR (none: outside every BAR), offset, bytes, tag, direction. -/
  | barAccessInvalid (fn : Nat) (bar : Option Nat) (off : Nat) (size : Nat) (tag : Nat) (write : Bool)
  /-- RULE_CTL_WRITE (R504). The fields written. -/
  | ruleCtlWrite (role : Nat) (parent : Nat) (alt : Nat) (altEn : Bool)
  /-- RULE_SEGMENT (R31). The descriptor of count `k` of ring `g`. -/
  | ruleSegment (g : Nat) (k : Nat)
  /-- EXCHANGE_SYMBOL_TX (R35). Port `p` is due to send its RULE cell. -/
  | exchangeSymbolTx (p : Nat)
  /-- EXCHANGE_SYMBOL_RX (R36). Cell `c` arrives on port `p`. -/
  | exchangeSymbolRx (p : Nat) (c : RuleCell)
  /-- DELAY_REMEASURE (R36). The hop delay of port `p` is measured anew. -/
  | delayRemeasure (p : Nat)
  /-- SEGMENT_APPLY (R33). The pending segment's START_REF is reached. -/
  | segmentApply
  /-- RULE_SYNC_MARK (R500). RULE_SYNC is sampled high at an edge of RULE_REF. -/
  | ruleSyncMark
  /-- RULE_SYNC_FRAME (R38). The frame received. -/
  | ruleSyncFrame (f : SyncFrame)
  /-- PARENT_SILENCE_TIMEOUT (R40). The parent has been silent for the limit of R40. -/
  | parentSilenceTimeout
  /-- LOCK_LOSS_TIMEOUT (R40). No LOCKED symbol within the limit of R40, or 16 exchanges out of bounds. -/
  | lockLossTimeout
  /-- RULE_REF_LOSS (R40). RULE_REF has been absent for 1 µs. -/
  | ruleRefLoss
  /-- HOLD_RELEASE (R41). The root's position has reached the held value. -/
  | holdRelease
  /-- BEACON_SEND (R227). The position crosses a multiple of 65,536 ru. -/
  | beaconSend
  /-- CAL_ARM (R46). The CAL_ARM descriptor, or Herva firmware with an entry image. -/
  | calArm (a : CalAsk)
  /-- CAL_CANCEL (R56). The CAL_CANCEL descriptor, or Herva firmware with an entry image and an index. -/
  | calCancel (a : CalAsk)
  /-- CAL_FIRE (R49). Entry `i`. -/
  | calFire (i : Nat)
  /-- CAL_GATE_TIMEOUT (R48). Entry `i`. -/
  | calGateTimeout (i : Nat)
  /-- CAL_CTL_WRITE (R49). The value written to ENABLE. -/
  | calCtlWrite (en : Bool)
  /-- ARRIVAL_WRITE (R47). Arrival word `g` and the value written. -/
  | arrivalWrite (g : Nat) (v : Nat)
  /-- CAL_LOW_POWER_EXIT (R58). A mark comes within the exit bound of the state. -/
  | calLowPowerExit
  /-- GRAVER_LOAD (R73). The started descriptor of ring `g` and count `k`. -/
  | graverLoad (g : Nat) (k : Nat)
  /-- GRAVER_LAUNCH (R70). The started descriptor of ring `g` and count `k`. -/
  | graverLaunch (g : Nat) (k : Nat)
  /-- LAUNCH_START (R91). The engine of TILE_t takes the head of its queue. -/
  | launchStart (t : Nat)
  /-- GRAVER_NOP (R78). The next instruction of TILE_t's launch. -/
  | graverNop (t : Nat)
  /-- FMA (R80). The next instruction of TILE_t's launch. -/
  | fma (t : Nat)
  /-- ADD (R79). The next instruction of TILE_t's launch. -/
  | add (t : Nat)
  /-- MUL (R79). The next instruction of TILE_t's launch. -/
  | mul (t : Nat)
  /-- MIN (R81). The next instruction of TILE_t's launch. -/
  | min (t : Nat)
  /-- MAX (R81). The next instruction of TILE_t's launch. -/
  | max (t : Nat)
  /-- CMP (R81). The next instruction of TILE_t's launch. -/
  | cmp (t : Nat)
  /-- SEL (R81). The next instruction of TILE_t's launch. -/
  | sel (t : Nat)
  /-- CVT (R84). The next instruction of TILE_t's launch. -/
  | cvt (t : Nat)
  /-- SCALE2 (R83). The next instruction of TILE_t's launch. -/
  | scale2 (t : Nat)
  /-- EX2 (R82). The next instruction of TILE_t's launch. -/
  | ex2 (t : Nat)
  /-- RCP (R82). The next instruction of TILE_t's launch. -/
  | rcp (t : Nat)
  /-- MOV (R78). The next instruction of TILE_t's launch. -/
  | mov (t : Nat)
  /-- MOP (R78). The next instruction of TILE_t's launch. -/
  | mop (t : Nat)
  /-- PWAIT (R77). The next instruction of TILE_t's launch. -/
  | pwait (t : Nat)
  /-- PREL (R77). The next instruction of TILE_t's launch. -/
  | prel (t : Nat)
  /-- LAUNCH_COMPLETE (R89). The launch that ends on TILE_t. -/
  | launchComplete (t : Nat)
  /-- LAUNCH_TIMEOUT (R89). The launch that runs on TILE_t. -/
  | launchTimeout (t : Nat)
  /-- PANEL_LOAD_DONE (R63). Panel buffer `b` of TILE_t. -/
  | panelLoadDone (t : Nat) (b : Nat)
  /-- PANEL_DRAIN_DONE (R77). Panel buffer `b` of TILE_t. -/
  | panelDrainDone (t : Nat) (b : Nat)
  /-- KV_POOL_ADD (R116). The descriptor of count `k` of ring `g`. -/
  | kvPoolAdd (g : Nat) (k : Nat)
  /-- SES_CREATE (R120). The descriptor of count `k` of ring `g`. -/
  | sesCreate (g : Nat) (k : Nat)
  /-- KV_APPEND (R121). The descriptor of count `k` of ring `g`. -/
  | kvAppend (g : Nat) (k : Nat)
  /-- SES_FORK (R123). The descriptor of count `k` of ring `g`. -/
  | sesFork (g : Nat) (k : Nat)
  /-- SES_PARK (R125). The descriptor of count `k` of ring `g`. -/
  | sesPark (g : Nat) (k : Nat)
  /-- SES_RESTORE (R126). The descriptor of count `k` of ring `g`. -/
  | sesRestore (g : Nat) (k : Nat)
  /-- SES_MIRROR (R127). The descriptor of count `k` of ring `g`, and the twin's answer: a status and the replica's handle. -/
  | sesMirror (g : Nat) (k : Nat) (ans : Option (Status × Nat))
  /-- SES_MIGRATE (R128). The descriptor of count `k` of ring `g`, and the other hub's answer: a status and the new handle. -/
  | sesMigrate (g : Nat) (k : Nat) (ans : Option (Status × Nat))
  /-- SES_DELETE (R129). The descriptor of count `k` of ring `g`. -/
  | sesDelete (g : Nat) (k : Nat)
  /-- SES_QUERY (R117). The descriptor of count `k` of ring `g`. -/
  | sesQuery (g : Nat) (k : Nat)
  /-- STREAM_ADMIT (R131). The descriptor of count `k` of ring `g`. -/
  | streamAdmit (g : Nat) (k : Nat)
  /-- STREAM_RETIRE (R131). The descriptor of count `k` of ring `g`. -/
  | streamRetire (g : Nat) (k : Nat)
  /-- DS_DEVICE_COMPLETION (R333). The device at DSP_p answers the request with a tag: outcome 0 success, 1 LBA out of range, 2 invalid field, opcode or namespace, 3 namespace not ready, 4 controller fatal or link down, else an error. -/
  | dsDeviceCompletion (p : Nat) (tag : Nat) (outcome : Nat) (data : List Byte)
  /-- ATTN_BATCH (R140). The descriptor of count `k` of ring `g`. -/
  | attnBatch (g : Nat) (k : Nat)
  /-- ATTN_BATCH_START (R141). The first batch in acceptance order that may start. -/
  | attnBatchStart
  /-- ATTN_ITEM_COMPLETE (R145). The item that TILE_t runs. -/
  | attnItemComplete (t : Nat)
  /-- MEM_READ (R187). Engine `ch` of MEM_j; `errs` symbols of the granule are in error, and a second time with `again`; `slot`: the class that owns the slot in static regulation. -/
  | memRead (j : Nat) (ch : Nat) (errs : Nat) (again : Bool) (slot : Nat)
  /-- MEM_WRITE (R172). Engine `ch` of MEM_j, with the operands of MEM_READ. -/
  | memWrite (j : Nat) (ch : Nat) (errs : Nat) (again : Bool) (slot : Nat)
  /-- PATROL_SCRUB (R168). `errs` symbols of the granule are in error, and a second time with `again`. -/
  | patrolScrub (errs : Nat) (again : Bool)
  /-- MR4_POLL (R180). Channel `ch` of MEM_j: the hottest rank's value and its row of Table 3. -/
  | mr4Poll (j : Nat) (ch : Nat) (raw : Nat) (cat : Nat)
  /-- CHAN_RETRAIN_DONE (R177). Channel `ch` of MEM_j; `ok`: it trained. -/
  | chanRetrainDone (j : Nat) (ch : Nat) (ok : Bool)
  /-- MOVE_FRAME_COPY (R179). The frame under copy: `errs` symbols of the granule are in error, and a second time with `again`. -/
  | moveFrameCopy (errs : Nat) (again : Bool)
  /-- KEY_SLOT_WITHDRAW (R171). Slot `k`; `fresh`: it is replaced, not emptied. -/
  | keySlotWithdraw (k : Nat) (fresh : Bool)
  /-- SC_REQUEST (R183). Master port `k`, function `fn`; `err`: what the slice's SECDED finds (0 nothing, 1 corrected, 2 not); `flit`: what the request meets on the mesh (0 nothing, 1 a corrected, 2 a payload, 3 a header error); `dl`: the deadline carried. -/
  | scRequest (k : Nat) (fn : Nat) (line : Nat) (wrt : Bool) (data : List Byte) (mask : Nat) (err : Nat) (flit : Nat) (dl : Option Nat)
  /-- BUCKET_MOVE_DONE (R186). The bucket in front of the moves. -/
  | bucketMoveDone
  /-- RD_S (R200). The oldest such message of SITE_j; `err`: what its home finds in the line: 0 nothing, 1 a corrected, 2 an uncorrectable error of the slice, 2 + n an error in n symbols of the granule. -/
  | rdS (j : Nat) (err : Nat)
  /-- RD_X (R200). The same operands. -/
  | rdX (j : Nat) (err : Nat)
  /-- UPG (R200). The same operands. -/
  | upg (j : Nat) (err : Nat)
  /-- RD_ONCE (R200). The same operands. -/
  | rdOnce (j : Nat) (err : Nat)
  /-- WR_P (R200). The same operands. -/
  | wrP (j : Nat) (err : Nat)
  /-- WB (R201). The oldest such message of SITE_j. -/
  | wb (j : Nat)
  /-- INV_ACK (R201). The oldest such message of SITE_j. -/
  | invAck (j : Nat)
  /-- SNP_DATA (R201). The oldest such message of SITE_j. -/
  | snpData (j : Nat)
  /-- GRANT_ACK (R201). The oldest such message of SITE_j. -/
  | grantAck (j : Nat)
  /-- LINE_DEQUEUE (R198). The line that is no longer busy. -/
  | lineDequeue (line : Nat)
  /-- HOME_READ (R200). Master port `k`, request `id`, function `fn`: `len` bytes at `off`. -/
  | homeRead (k : Nat) (id : Nat) (fn : Nat) (off : Nat) (len : Nat) (flit : Nat) (err : Nat)
  /-- HOME_WRITE (R200). The bytes of the line that `mask` names. -/
  | homeWrite (k : Nat) (id : Nat) (fn : Nat) (line : Nat) (data : List Byte) (mask : Nat) (flit : Nat) (err : Nat)
  /-- HOME_ATOMIC (R205). Operation 0 FADD, 1 SWAP, 2 CAS on `len` bytes. -/
  | homeAtomic (k : Nat) (id : Nat) (fn : Nat) (off : Nat) (len : Nat) (op : Nat) (a : Nat) (b : Nat) (flit : Nat) (err : Nat)
  /-- CXL_CACHE_MESSAGE (R209). A message of Table 9, by number (Machine/Coherence.lean); `err` as in RD_S. -/
  | cxlCacheMessage (j : Nat) (msg : Nat) (tag : Nat) (line : Nat) (data : List Byte) (mask : Nat) (err : Nat)
  /-- ZCP_FLIT_RX (R219). SITE_j's flit on module `k`: control slot and message slots as 128-bit numbers; `retries`: replays of the adapter, 5 where the CRC failed after all four. -/
  | zcpFlitRx (j : Nat) (k : Nat) (retries : Nat) (ctrl : Nat) (slots : List Nat)
  /-- ARRIVE (R225). The oldest such message of SITE_j. -/
  | arrive (j : Nat)
  /-- PWR_REQ (R228). The oldest such message of SITE_j. -/
  | pwrReq (j : Nat)
  /-- MGMT_ACK (R230). The oldest such message of SITE_j. -/
  | mgmtAck (j : Nat)
  /-- CHIP_EVENT (R231). The oldest such message of SITE_j. -/
  | chipEvent (j : Nat)
  /-- MMIO_DATA (R229). The oldest such message of SITE_j. -/
  | mmioData (j : Nat)
  /-- ZCP_CMP (R229). The oldest such message of SITE_j. -/
  | zcpCmp (j : Nat)
  /-- MODULE_DOWN (R233). Module `k` of SITE_j; FSEQs of the flits the hub sent that have not been acknowledged. -/
  | moduleDown (j : Nat) (k : Nat) (unacked : List Nat)
  /-- SITE_RETRAIN_DONE (R233). The modules of SITE_j that trained. -/
  | siteRetrainDone (j : Nat) (mods : Nat)
  /-- SITE_FENCE (R237). SITE_CTL.FENCE of SITE_j is written. -/
  | siteFence (j : Nat)
  /-- SITE_RESET (R238). SITE_CTL.RESET of SITE_j is written, or firmware resets it. -/
  | siteReset (j : Nat)
  /-- SITE_QUIESCE_TIMEOUT (R238). QUIESCE_LIMIT has passed at SITE_j. -/
  | siteQuiesceTimeout (j : Nat)
  /-- SITE_RESET_RELEASE (R238). What training and discovery find at SITE_j. -/
  | siteResetRelease (j : Nat) (f : SiteFound)
  /-- SITE_READY (R238). SITE_j's discovery and credit exchange are complete. -/
  | siteReady (j : Nat)
  /-- CXL_IO_WRITE (R240). A CXL.io memory request of SITE_j, a write or a read. -/
  | cxlIoWrite (j : Nat) (tag : Nat) (off : Nat) (len : Nat) (wrt : Bool) (data : List Byte)
  /-- MESH_PACKET_DELIVER (R246). Virtual network `vn`, on data plane `plane`, from port `src` to port `dst`; `err` 0 clean, 1 corrected, 2 uncorrectable payload, 3 uncorrectable header. -/
  | meshPacketDeliver (vn : Nat) (plane : Nat) (src : Nat) (dst : Nat) (err : Nat)
  /-- ROUTER_GATE (R250). The router of PTILE_r. -/
  | routerGate (r : Nat)
  /-- INITIATOR_TIMEOUT (R254). The request of initiator class `cls` at master port `port` with a tag. -/
  | initiatorTimeout (cls : Nat) (port : Nat) (tag : Nat)
  /-- TOMBSTONE_EXPIRE (R255). The tombstone of a tag. -/
  | tombstoneExpire (cls : Nat) (port : Nat) (tag : Nat)
  /-- LATE_COMPLETION_DROP (R255). A completion with the tag. -/
  | lateCompletionDrop (cls : Nat) (port : Nat) (tag : Nat)
  /-- HELD_NOTICE (R253). The target of request `id` of master port `k`. -/
  | heldNotice (k : Nat) (id : Nat)
  /-- RESUMED_NOTICE (R253). The target of request `id` of master port `k`. -/
  | resumedNotice (k : Nat) (id : Nat)
  /-- TARGET_ABANDON (R256). The target of request `id` of master port `k`. -/
  | targetAbandon (k : Nat) (id : Nat)
  /-- TMO_WRITE (R252). Class 0 TMO_ONDIE, 1 TMO_SITE, 2 TMO_SYREL; the value written. -/
  | tmoWrite (cls : Nat) (v : Nat)
  /-- STATIC_BOUNDARY (R265). The position has crossed a multiple of 1,000,000 ru. -/
  | staticBoundary
  /-- QUOTA_RELEASE (R260). Master port `k`. -/
  | quotaRelease (k : Nat)
  /-- CODEWORD_RX (R273). A codeword at PORT_p: `fec` 0 clean, 1 corrected, 2 not correctable; its control field and its cells, packets whole. -/
  | codewordRx (p : Nat) (fec : Nat) (cseq : Nat) (ack : Nat) (nak : Bool) (cells : List Cell)
  /-- PORT_SIGNAL_LOSS (R274). Signal has been lost on PORT_p for 100 ns. -/
  | portSignalLoss (p : Nat)
  /-- PORT_TRAIN_DONE (R272). PORT_p ends training at `lanes` lanes (0 failed) with the partner's hub ID, twin bit and port; `secureOk`: both sides agree on security; `delay`: the one-way delay that training measures, in 1/16 ns. -/
  | portTrainDone (p : Nat) (lanes : Nat) (hub : Nat) (twin : Bool) (q : Nat) (secureOk : Bool) (delay : Nat)
  /-- CREDIT_CELL (R280). The oldest cell received at PORT_p. -/
  | creditCell (p : Nat)
  /-- AUTH_CELL (R307). The oldest AUTH cell received at PORT_p. -/
  | authCell (p : Nat)
  /-- SYREL_PACKET_FORWARD (R283). The oldest cell received at PORT_p. -/
  | syrelPacketForward (p : Nat)
  /-- FABRIC_WINDOW_REQUEST (R288). Master port `k`, request `id`, function `fn`: `op` 0 coherent, 1 read of `len` bytes, 2 write of `data`, 3 atomic with operation `aux`. -/
  | fabricWindowRequest (k : Nat) (id : Nat) (fn : Nat) (off : Nat) (op : Nat) (len : Nat) (data : List Byte) (aux : Nat)
  /-- RREAD (R289). The oldest RREAD packet for this hub. -/
  | rread
  /-- RWRITE (R289). The oldest RWRITE packet for this hub. -/
  | rwrite
  /-- RATOMIC (R289). The oldest RATOMIC packet for this hub. -/
  | ratomic
  /-- RDATA (R289). The oldest RDATA packet for this hub. -/
  | rdata
  /-- RCMP (R289). The oldest RCMP packet for this hub. -/
  | rcmp
  /-- MIRROR (R301). The oldest MIRROR packet for this hub. -/
  | mirror
  /-- MIR_ACK (R303). The oldest MIR_ACK packet for this hub. -/
  | mirAck
  /-- RED_UP (R293). The oldest RED_UP packet that can be taken. -/
  | redUp
  /-- RED_DOWN (R293). The oldest RED_DOWN packet that can be taken. -/
  | redDown
  /-- MCAST (R291). The oldest multicast packet that came in. -/
  | mcast
  /-- MGMT (R278). What Herva firmware does for the packet. -/
  | mgmt (act : MgmtAct)
  /-- COLL_TIMEOUT (R294). Collective `n`. -/
  | collTimeout (n : Nat)
  /-- SYR_HOLD_EXPIRE (R297). Direction `d` (6: the twin). -/
  | syrHoldExpire (d : Nat)
  /-- HUB_ALIVE_RELEASE (R298). An alive condition ceases; `clk`: the fabric reference clock has lost lock. -/
  | hubAliveRelease (clk : Bool)
  /-- JOIN (R299). The JOIN bits written. -/
  | join (axes : Nat)
  /-- SYR_FENCE (R298). SYR_CTL.FENCE is written. -/
  | syrFence
  /-- MIRROR_LAG_EXPIRE (R303). The session with index `i`. -/
  | mirrorLagExpire (i : Nat)
  /-- TWIN_LOST (R304). Both twin ports have been down for CP_CTL.DEAD_MS. -/
  | twinLost
  /-- CP_PROMOTE (R305). The descriptor of count `k` of ring `g`. -/
  | cpPromote (g : Nat) (k : Nat)
  /-- WAKE_PATTERN (R306). PORT_p. -/
  | wakePattern (p : Nat)
  /-- CONFIG_REQUEST (R313). Function, register, the value of a write, and the request's tag. -/
  | configRequest (n : Nat) (r : CfgReg) (w : Option Nat) (tag : Nat)
  /-- DEVCTL2_WRITE (R314). The PF's Completion Timeout Value. -/
  | devctl2Write (v : Nat)
  /-- BAR2_ACCESS (R317). Offset in the BAR, bytes, direction, value written, tag; whether the write is poisoned. -/
  | bar2Access (off : Nat) (size : Nat) (write : Bool) (v : Nat) (tag : Nat) (poison : Bool)
  /-- BAR4_SITE_WINDOW_ACCESS (R317). Offset in the BAR, bytes, direction, data written, tag; whether a Stylus coherent window asks; whether the write is poisoned. -/
  | bar4SiteWindowAccess (off : Nat) (size : Nat) (write : Bool) (data : List Byte) (tag : Nat) (stylus : Bool) (poison : Bool)
  /-- APERTURE_ACCESS (R317). Aperture offset, bytes read, direction, data written, tag; whether the write is poisoned. -/
  | apertureAccess (a : Nat) (len : Nat) (write : Bool) (data : List Byte) (tag : Nat) (poison : Bool)
  /-- ATOMICOP (R317). Whether it is aimed at the aperture, offset, operation, bytes, operands, tag. -/
  | atomicop (aperture : Bool) (a : Nat) (op : Nat) (n : Nat) (x : Nat) (y : Nat) (tag : Nat)
  /-- WATCH_SNOOP (R319). The host snoops ring `g`'s line: 0 SnpInv, 1 SnpData, 2 SnpCur. -/
  | watchSnoop (g : Nat) (kind : Nat)
  /-- WATCH_READ_DATA (R319). The line ring `g` watches arrives. -/
  | watchReadData (g : Nat) (a : Answer)
  /-- CXL_MEM_REQUEST (R322). Device physical address, direction, data written, tag. -/
  | cxlMemRequest (d : Nat) (write : Bool) (data : List Byte) (tag : Nat)
  /-- HOST_HDM_WRITE (R321). BASE_GIB and EXTENTS. -/
  | hostHdmWrite (base : Nat) (k : Nat)
  /-- WARM_RESET (R425). PERST# is asserted, or released. -/
  | warmReset (release : Bool)
  /-- HOT_RESET (R324). A hot reset, or link-down and what the link then trains to. -/
  | hotReset (link : Option HostLink)
  /-- FLR_INITIATE (R326). The function. -/
  | flrInitiate (n : Nat)
  /-- FLR_COMPLETE (R326). The function. -/
  | flrComplete (n : Nat)
  /-- DS_PRESENCE_CHANGE (R330). DSP_p and its debounced presence. -/
  | dsPresenceChange (p : Nat) (present : Bool)
  /-- POWER_ON (R330). DSP_p. -/
  | powerOn (p : Nat)
  /-- DS_PERST_RELEASE (R330). DSP_p. -/
  | dsPerstRelease (p : Nat)
  /-- DS_BUTTON (R331). DSP_p. -/
  | dsButton (p : Nat)
  /-- DS_BUTTON_TIMEOUT (R331). DSP_p. -/
  | dsButtonTimeout (p : Nat)
  /-- REMOVE (R331). DSP_p. -/
  | remove (p : Nat)
  /-- DS_SHUTDOWN_TIMEOUT (R331). DSP_p. -/
  | dsShutdownTimeout (p : Nat)
  /-- CLEAR (R332). DSP_p. -/
  | clear (p : Nat)
  /-- DS_POWER_FAULT (R332). DSP_p. -/
  | dsPowerFault (p : Nat)
  /-- DS_LINK_DOWN (R332). DSP_p. -/
  | dsLinkDown (p : Nat)
  /-- DOORBELL_POLL (R339). Ring `g`'s doorbell line is read, with what host memory answers. -/
  | doorbellPoll (g : Nat) (a : Answer)
  /-- DESCRIPTOR_FETCHED (R345). The fetch of count `k` of ring `g` is answered. -/
  | descriptorFetched (g : Nat) (k : Nat) (a : Answer)
  /-- DESCRIPTOR_START (R341). The descriptor of count `k` of ring `g` starts. -/
  | descriptorStart (g : Nat) (k : Nat)
  /-- NOP (R348). The descriptor of count `k` of ring `g`. -/
  | nopDesc (g : Nat) (k : Nat)
  /-- COPY (R349). The started descriptor of ring `g` and count `k`, on the panel mover of TILE_t. -/
  | copy (g : Nat) (k : Nat) (t : Nat)
  /-- ATOMIC (R350). The started descriptor of ring `g` and count `k`. -/
  | atomic (g : Nat) (k : Nat)
  /-- COLL_SETUP (R292). The descriptor of count `k` of ring `g`. -/
  | collSetup (g : Nat) (k : Nat)
  /-- INVALIDATE (R375). The started descriptor of ring `g` and count `k`. -/
  | invalidate (g : Nat) (k : Nat)
  /-- HEAD_LINE_READ (R342). Completion ring `g`'s head line is read. -/
  | headLineRead (g : Nat) (a : Answer)
  /-- QUEUED_RECORD_WRITE (R356). The oldest record of function `n`'s queue. -/
  | queuedRecordWrite (n : Nat)
  /-- IRQ_MOD_TIMEOUT (R358). MOD_US has passed on ring `g`. -/
  | irqModTimeout (g : Nat)
  /-- RING_ENABLE (R359). RING_CTL.ENABLE = 1 is written to ring `g`. -/
  | ringEnable (g : Nat)
  /-- RING_DISABLE (R360). RING_CTL.ENABLE = 0 is written to ring `g`. -/
  | ringDisable (g : Nat)
  /-- RING_STOPPED (R359). Ring `g`'s fetched descriptors have completed. -/
  | ringStopped (g : Nat)
  /-- RING_IDX_WRITE (R361). The halves of RING_IDX that the write covers. -/
  | ringIdxWrite (g : Nat) (next : Option Nat) (release : Option Nat)
  /-- ATS_COMPLETION (R366). The answer for 4 KiB page `page`: a range of 2^`size` bytes at translated page `tp`, with its permissions. -/
  | atsCompletion (fn : Nat) (pasid : Nat) (page : Nat) (size : Nat) (tp : Nat) (r : Bool) (w : Bool)
  /-- PRI_GATHER_EXPIRE (R370). The batch that gathers for the function and PASID. -/
  | priGatherExpire (fn : Nat) (pasid : Nat)
  /-- PAGE_GROUP_RESPONSE (R371). 0 Success, 1 Invalid Request, 2 Response Failure. -/
  | pageGroupResponse (fn : Nat) (prg : Nat) (code : Nat)
  /-- PRG_TIMEOUT (R371). The batch with this index. -/
  | prgTimeout (fn : Nat) (prg : Nat)
  /-- ATS_INVALIDATE (R376). Pages `lo` on of the function (of one PASID, or all), or every page; the request's tag. -/
  | atsInvalidate (fn : Nat) (pasid : Option Nat) (lo : Nat) (pages : Option Nat) (itag : Nat)
  /-- INVAL_COMPLETE (R376). The invalidation. -/
  | invalComplete (id : Nat)
  /-- INVAL_DRAIN_ABANDON (R377). The invalidation. -/
  | invalDrainAbandon (id : Nat)
  /-- EXTENT_ASSIGN (R390). Arguments in MBX_DATA_0 and MBX_DATA_1. -/
  | extentAssign
  /-- EXTENT_RELEASE (R393). Arguments in MBX_DATA_0. -/
  | extentRelease
  /-- PART_ASSIGN (R385). Arguments in MBX_DATA_0. -/
  | partAssign
  /-- PART_RELEASE (R391). Arguments in MBX_DATA_0. -/
  | partRelease
  /-- FUNC_BIND (R386). Arguments in MBX_DATA_0. -/
  | funcBind
  /-- CONF_ENTER (R395). The mailbox command. -/
  | confEnter
  /-- CONF_ENTER_TIMEOUT (R395). 20 ms have passed since CONF_ENTER was accepted. -/
  | confEnterTimeout
  /-- PORT_REKEY (R384). Arguments in MBX_DATA_0. -/
  | portRekey
  /-- ZEROIZE (R406). The mailbox command. -/
  | zeroize
  /-- BURNISH_DONE (R392). The oldest burnish. -/
  | burnishDone
  /-- SPDM_REQUEST (R397). What is asked. -/
  | spdmRequest (r : SpdmReq)
  /-- LOCK_INTERFACE_REQUEST (R398). Secured session `sid`, VF `n`. -/
  | lockInterfaceRequest (sid : Nat) (n : Nat)
  /-- STOP_INTERFACE_REQUEST (R399). Secured session `sid`, VF `n`. -/
  | stopInterfaceRequest (sid : Nat) (n : Nat)
  /-- FIPS_ERROR_ENTER (R405). A self-test has failed. -/
  | fipsErrorEnter
  /-- LC_TOKEN_LOAD (R419). `bmc`: none for the mailbox, else the words of the board management controller's message. -/
  | lcTokenLoad (bmc : Option (List Nat))
  /-- LC_TRANSITION (R413). `bmc`: none for the mailbox, else the words of the board management controller's message. -/
  | lcTransition (bmc : Option (List Nat))
  /-- LC_CHALLENGE (R419). `bmc`: none for the mailbox, else the words of the board management controller's message. -/
  | lcChallenge (bmc : Option (List Nat))
  /-- DEBUG_GRANT (R411). `bmc`: none for the mailbox, else the words of the board management controller's message. -/
  | debugGrant (bmc : Option (List Nat))
  /-- DEBUG_REVOKE (R411). `bmc`: none for the mailbox, else the words of the board management controller's message. -/
  | debugRevoke (bmc : Option (List Nat))
  /-- LC_SELECT_COMPAT (R422). `bmc`: none for the mailbox, else the words of the board management controller's message. -/
  | lcSelectCompat (bmc : Option (List Nat))
  /-- CFG_READ (R430). The mailbox command CFG_READ. -/
  | cfgRead
  /-- CFG_WRITE (R430). The mailbox command CFG_WRITE. -/
  | cfgWrite
  /-- IMAGE_LOAD (R430). The mailbox command IMAGE_LOAD. -/
  | imageLoad
  /-- COLD_RESET (R424). What the private flash holds, where it has been fitted anew. -/
  | coldReset (flash : Option Flash)
  /-- SOFT_RESET (R425). HUB_RST.SOFT is written, or a control-cluster error is unrecoverable. -/
  | softReset
  /-- PARTIAL_RESET (R434). HUB_RST.PARTIAL is written, or an engine fails. -/
  | partialReset
  /-- RTP_RESET (R433). The RTP is reset. -/
  | rtpReset
  /-- BRINGUP_COMPLETE (R424). What training, proof passes and self-tests find. -/
  | bringupComplete (f : BringUp)
  /-- TILE_OUT (R446). The SERVICE descriptor of ring `g` and count `k`. -/
  | tileOut (g : Nat) (k : Nat)
  /-- TILE_LAUNCH_GRACE_TIMEOUT (R446). 1 ms has passed since TILE_OUT began. -/
  | tileLaunchGraceTimeout
  /-- TILE_IN (R447). The SERVICE descriptor of ring `g` and count `k`; `pass`: the proof pass finds the tile good. -/
  | tileIn (g : Nat) (k : Nat) (pass : Bool)
  /-- MEMSITE_OUT (R448). The SERVICE descriptor of ring `g` and count `k`. -/
  | memsiteOut (g : Nat) (k : Nat)
  /-- MEMSITE_IN (R448). The SERVICE descriptor of ring `g` and count `k`; `trained`: the channels that the retraining finds good. -/
  | memsiteIn (g : Nat) (k : Nat) (trained : Nat)
  /-- CHAN_RETRAIN (R448). The SERVICE descriptor of ring `g` and count `k`. -/
  | chanRetrain (g : Nat) (k : Nat)
  /-- PORT_RETRAIN (R448). The SERVICE descriptor of ring `g` and count `k`. -/
  | portRetrain (g : Nat) (k : Nat)
  /-- FW_STAGE (R440). The SERVICE descriptor of ring `g` and count `k`. -/
  | fwStage (g : Nat) (k : Nat)
  /-- FW_BROADCAST (R441). The SERVICE descriptor of ring `g` and count `k`. -/
  | fwBroadcast (g : Nat) (k : Nat)
  /-- FW_STATUS (R441). The SERVICE descriptor of ring `g` and count `k`. -/
  | fwStatus (g : Nat) (k : Nat)
  /-- FW_CHUNK_TIMEOUT (R441). The broadcast of target `t` lacks a chunk for 500 ms. -/
  | fwChunkTimeout (t : Nat)
  /-- ENTER (R457). The POWER descriptor of ring `g` and count `k`. -/
  | enter (g : Nat) (k : Nat)
  /-- EXIT (R453). The POWER descriptor of ring `g` and count `k`. -/
  | exit (g : Nat) (k : Nat)
  /-- SET_CAP (R454). The POWER descriptor of ring `g` and count `k`. -/
  | setCap (g : Nat) (k : Nat)
  /-- GROUP (R468). The POWER descriptor of ring `g` and count `k`. -/
  | group (g : Nat) (k : Nat)
  /-- POWER_AT_REACHED (R453). The POWER descriptor of ring `g` and count `k`. -/
  | powerAtReached (g : Nat) (k : Nat)
  /-- WAKE_EVENT (R458). Waker code and INDEX of Table 3. -/
  | wakeEvent (code : Nat) (idx : Nat)
  /-- POWER_EXIT_WAKE (R451). Waker code of Table 3. -/
  | powerExitWake (code : Nat)
  /-- H1_IDLE_EXPIRE (R461). H1_IDLE_US have passed without work. -/
  | h1IdleExpire
  /-- AVS_ACK (R463). Rail `r`: VDone is set, Read Voltage gives `mv`. -/
  | avsAck (r : Nat) (mv : Nat)
  /-- AVS_RETRY_TIMEOUT (R463). Rail `r`. -/
  | avsRetryTimeout (r : Nat)
  /-- AVS_ACK_TIMEOUT (R463). Rail `r`. -/
  | avsAckTimeout (r : Nat)
  /-- PMBUS_POLL (R463). READ_VOUT in mV and READ_IOUT in mA of rails 0 to 5. -/
  | pmbusPoll (mv : List Nat) (ma : List Nat)
  /-- DROOP_DETECT (R464). TILE_t. -/
  | droopDetect (t : Nat)
  /-- DROOP_CLEAR (R464). TILE_t. -/
  | droopClear (t : Nat)
  /-- SUPPLY_DIP_START (R464). The rails that warn, VR_WARN_N at bit 6. -/
  | supplyDipStart (rails : Nat)
  /-- SUPPLY_DIP_END (R465). Every monitor and VR_WARN_N have been clear for 10 µs. -/
  | supplyDipEnd
  /-- POWER_PERIOD (R466). 100 µs have passed. -/
  | powerPeriod
  /-- THROTTLE_EPOCH (R467). The position has crossed a multiple of 1,000,000 ru. -/
  | throttleEpoch
  /-- POWER_GROUP_REPORT (R468). The position has crossed a multiple of 10,000,000 ru. -/
  | powerGroupReport
  /-- POWER_GROUP_DECIDE (R468). The leader decides. -/
  | powerGroupDecide
  /-- POWER_GROUP_APPLY (R468). The position has crossed a multiple of 10,000,000 ru. -/
  | powerGroupApply
  /-- ENERGY_TICK (R469). 1 ms has passed. -/
  | energyTick
  /-- THERMAL_SAMPLE (R470). The hottest junction, `t` °C. -/
  | thermalSample (t : Nat)
  /-- PROCHOT_ASSERT (R471). The board drives PROCHOT_N low. -/
  | prochotAssert
  /-- PROCHOT_DEASSERT (R498). The board releases PROCHOT_N. -/
  | prochotDeassert
  /-- COUNTER_OVERFLOW (R478). The oldest wrap not yet taken. -/
  | counterOverflow
  /-- SNAPSHOT_WRITTEN (R480). The oldest set that is frozen. -/
  | snapshotWritten
  /-- DS_PORT_READY (R330). DSP_p and what was found there. -/
  | dsPortReady (p : Nat) (f : DsFound)
  /-- HOST_COMPLETION (R323). The read's tag; 0 data, 1 Unsupported Request, 2 Completer Abort, 3 poisoned. -/
  | hostCompletion (tag : Nat) (kind : Nat) (data : List Byte)
  /-- DRIFT_TRACKING_LIMIT (R177). Channel `ch` of MEM_j: its drift, or with `link` its link-ECC error rate, passes the limit. -/
  | driftTrackingLimit (j : Nat) (ch : Nat) (link : Bool)
  /-- CODEWORD_COUNT_REKEY (R384). PORT_p. -/
  | codewordCountRekey (p : Nat)
  /-- CXL_SITE_RESPONSE (R239). The answer of SITE_j to the access with this tag. -/
  | cxlSiteResponse (j : Nat) (tag : Nat) (a : Answer)
  deriving DecidableEq, Repr

end Sys2Proof
end

