-- ==== Sys2Proof/Config.lean ====
section
/-! DEFINITION. Sys2Proof/Config.lean: what an implementation fixes and the values the spec leaves open: opaque
constants with no body, so that nothing can be proved of a value of them. -/

namespace Sys2Proof.Config

/-- The free values the hub's step takes, by the number drawn so far (log entry 5). -/
opaque freeValue : Nat → Word

/-- The set of a translation cache that a page falls in; the spec gives the number of sets and no index function
(spec/14_translation.md R365). Arguments: function, PASID key, virtual page number, log2 of the page size. -/
opaque xlatSet : Nat → Nat → Nat → Nat → Nat

/-- The data key and the tweak key of a key slot (spec/07_memory_and_system_cache.md R170), as numbers whose bytes they are:
random secrets of the root of trust. Argument: the key's number. -/
opaque slotKey : Nat → Nat × Nat

/-- How EX2 chooses among the results that Table 9 of spec/03_graver_engine.md allows, as a monotonic function of its operand
(R82). Argument: a half of the operands. -/
opaque ex2Split : Nat → Nat

/-- How RCP chooses among the results that Table 9 of spec/03_graver_engine.md allows, as a monotonic function of its operand's
magnitude (R82). Arguments: the sign, a half of the magnitudes. -/
opaque rcpSplit : Nat → Nat → Nat

/-- An instruction of a built-in bank, from the image of its Graver program set (spec/03_graver_engine.md R72): the layout of
an image is not given. Arguments: the image, the bank, the instruction's number in the bank. -/
opaque setInstr : List Byte → Nat → Nat → Nat

/-- A step-table entry of a built-in bank, from the image of its Graver program set. Arguments: the image, the entry's number
in the bank. -/
opaque setStep : List Byte → Nat → Nat

/-- The sign of the NaN that a scale byte of 0xFF makes of an element (spec/03_graver_engine.md R64); the spec gives none. -/
opaque scaleNanNeg : Nat → Bool

/-- The park key of an image (spec/15_security_and_isolation.md R383), as a number: its root is a random secret.
Arguments: the root's number, the function, the nonce. -/
opaque parkKey : Nat → Nat → Nat → Nat

/-- A byte of the work area of an attention batch (spec/06_attention_service.md R138: never defined). Arguments: draw, offset. -/
opaque workByte : Nat → Nat → Byte

/-- Where a built-in attention kernel puts product `i` of a sum of `n` (spec/06_attention_service.md R143 gives its arithmetic and
no order of accumulation): the lane is the value mod 256, the step within the lane the rest. Arguments: the sum (0 q·K, 1 the
denominator, 2 the output), n, i. -/
opaque kernelSlot : Nat → Nat → Nat → Nat

/-- Tokens that a built-in kernel takes in one round of online softmax, less one. Arguments: head dimension, KV format. -/
opaque kernelRound : Nat → Nat → Nat

/-- A built-in kernel multiplies the query by σ before q·K is summed, and not the sum after. -/
opaque kernelScalesQuery : Bool

/-- σ of spec/06_attention_service.md R143 is rounded up to a binary32 value, and not down. Argument: SM_SCALE. -/
opaque sigmaUp : Nat → Bool

/-- The draw of what a built-in kernel leaves in the engine and the flags it raises: the same for the same engine and inputs
(R92). -/
opaque kernelDraw : List Nat → Nat

/-- Where in the work area a segment's results stand (spec/06_attention_service.md R145), in units of 16,384 bytes. Arguments: the
batch, the item. -/
opaque workPlace : Nat → Nat → Nat

/-- A word that a built-in kernel leaves in an engine's operand space, scale stores or masks, or its flags: the kernel programs are
not given (spec/06_attention_service.md R143). Arguments: draw, word. -/
opaque kernelLeft : Nat → Nat → Nat

/-- SHA-384 of a list of bytes, as a number. -/
opaque sha384 : List Byte → Nat

/-- A signature block verifies (spec/16_lifecycle_and_debug.md R416, R417: both of its signatures). Arguments: signer (0
Vangux, 1 integrator), the signer's public keys where the die does not hold them, the message, the block. -/
opaque signatureOk : Nat → List Byte → List Byte → List Byte → Bool

/-- The power in µW that the hub draws in H1 (spec/18_power_and_thermal.md R469); the spec gives no figure. -/
opaque h1Power : Nat

/-- The erase and program times, in µs, of a bank of the private flash that the integrator fits
(spec/18_power_and_thermal.md Table 1). -/
opaque flashTimes : Nat

/-- The bytes that a firmware bank of a target holds in the private flash that the integrator fits
(spec/17_bringup_reset_service.md R438, R440). -/
opaque bankSize : Nat → Nat

/-- The extents, less one, that Herva firmware takes at bring-up, mod 4 (spec/15_security_and_isolation.md R389: 1 to 4, by the
variant, the configuration and the firmware version). -/
opaque firmwareRun : Nat → Nat → Nat

end Sys2Proof.Config
end

