-- ==== Sys2Proof/Machine/Maps.lean ====
section
/-! DEFINITION. Sys2Proof/Machine/Maps.lean: finite maps from numbers, as lists of pairs with strictly rising keys. -/

namespace Sys2Proof.Machine

/-- A finite map from numbers: pairs with strictly rising keys (`sortedKeys`). -/
abbrev SMap (α : Type) := List (Nat × α)

/-- The value listed for `k`. -/
def look (m : SMap α) (k : Nat) : Option α :=
  match m with
  | [] => none
  | (j, a) :: t => if k = j then some a else look t k

/-- The value listed for `k`, or `d`. -/
def lookD (d : α) (m : SMap α) (k : Nat) : α := (look m k).getD d

/-- `m` with `a` listed for `k`. -/
def put (k : Nat) (a : α) (m : SMap α) : SMap α :=
  match m with
  | [] => [(k, a)]
  | (j, b) :: t => if k < j then (k, a) :: (j, b) :: t else if k = j then (k, a) :: t else (j, b) :: put k a t

/-- `m` with nothing listed for `k`. -/
def del (k : Nat) (m : SMap α) : SMap α := m.filter (fun p => p.1 != k)

/-- `m` with `a` for `k`, listed only where it differs from what an unlisted key reads as. -/
def putD [DecidableEq α] (d : α) (k : Nat) (a : α) (m : SMap α) : SMap α := if a = d then del k m else put k a m

/-- `m` with the value of `k` (`d` where unlisted) changed by `f`. -/
def modD (d : α) (k : Nat) (f : α → α) (m : SMap α) : SMap α := put k (f (lookD d m k)) m

/-- `m` with the listed value of `k` changed by `f`; `m` itself where `k` is unlisted. -/
def modAt (k : Nat) (f : α → α) (m : SMap α) : SMap α := m.map (fun p => if p.1 = k then (p.1, f p.2) else p)

/-- The keys rise strictly. -/
def sortedKeys : SMap α → Bool
  | [] => true
  | [_] => true
  | (i, _) :: (j, b) :: t => decide (i < j) && sortedKeys ((j, b) :: t)

/-- Element `i` of a list, `d` past its end. -/
def nth (d : α) (l : List α) (i : Nat) : α := (l[i]?).getD d

/-- `l` with element `i` changed by `f`. -/
def modNth (i : Nat) (f : α → α) (l : List α) : List α :=
  match l, i with
  | [], _ => []
  | a :: t, 0 => f a :: t
  | a :: t, i + 1 => a :: modNth i f t

/-- The least index below `n` that satisfies `p`. -/
def firstBelow (n : Nat) (p : Nat → Bool) : Option Nat := (List.range n).find? p

/-- `f` applied for each element of a list, left to right. -/
def forEach (l : List β) (f : β → σ → σ) (s : σ) : σ := l.foldl (fun s b => f b s) s

end Sys2Proof.Machine
end

