-- ==== Sys2Proof/Machine/Fp.lean ====
section
/-! DEFINITION. Sys2Proof/Machine/Fp.lean: exact values of the element formats, their decoding, and every rounding the hub
makes (spec/04_number_formats.md R94 to R97, R106 to R108; spec/03_graver_engine.md R79 to R87). -/

namespace Sys2Proof.Machine

open Sys2Proof

/-- The value of an element: a NaN with its sign (and whether it is signalling), an infinity, or (−1)^neg × mag × 2^exp. -/
inductive Fv where
  | nan (neg sig : Bool)
  | inf (neg : Bool)
  | fin (neg : Bool) (mag : Nat) (exp : Int)
  deriving DecidableEq, Repr

/-- A floating format (R94, Table 1): exponent and mantissa bits, bias, the greatest finite code without its sign, whether
the code above it is infinity, and whether codes above the finite ones exist. -/
structure FF where
  eb : Nat
  mb : Nat
  bias : Nat
  maxCode : Nat
  hasInf : Bool
  deriving DecidableEq, Repr

/-- FP32 (Table 1). -/
def fp32 : FF := ⟨8, 23, 127, 0x7F7FFFFF, true⟩
/-- BF16 (Table 1). -/
def bf16 : FF := ⟨8, 7, 127, 0x7F7F, true⟩
/-- FP16 (Table 1). -/
def fp16 : FF := ⟨5, 10, 15, 0x7BFF, true⟩
/-- E4M3 (Table 1). -/
def e4m3 : FF := ⟨4, 3, 7, 0x7E, false⟩
/-- E5M2 (Table 1). -/
def e5m2 : FF := ⟨5, 2, 15, 0x7B, true⟩
/-- E2M3 (Table 1). -/
def e2m3 : FF := ⟨2, 3, 1, 0x1F, false⟩
/-- E3M2 (Table 1). -/
def e3m2 : FF := ⟨3, 2, 3, 0x1F, false⟩
/-- E2M1 (Table 1). -/
def e2m1 : FF := ⟨2, 1, 1, 0x7, false⟩

/-- Bits of a format below its sign. -/
def FF.bits (f : FF) : Nat := f.eb + f.mb

/-- The magnitude of a finite code: mantissa and exponent (R94). -/
def codeMag (f : FF) (c : Nat) : Nat × Int :=
  let e := c / 2 ^ f.mb
  let m := c % 2 ^ f.mb
  if e = 0 then (m, 1 - (f.bias : Int) - f.mb) else (2 ^ f.mb + m, (e : Int) - f.bias - f.mb)

/-- The value of a bit pattern (R94). -/
def decodeF (f : FF) (bits : Nat) : Fv :=
  let neg := bit bits f.bits
  let c := bits % 2 ^ f.bits
  if c ≤ f.maxCode then .fin neg (codeMag f c).1 (codeMag f c).2
  else if f.hasInf ∧ c = f.maxCode + 1 then .inf neg
  else .nan neg (f.hasInf && !bit c (f.mb - 1))

/-- The value of an 8-bit two's-complement integer. -/
def decodeI8 (v : Nat) : Fv := .fin (decide (128 ≤ v % 256)) (if 128 ≤ v % 256 then 256 - v % 256 else v % 256) 0

/-- A value multiplied by 2^n. -/
def Fv.shift (n : Int) : Fv → Fv
  | .fin s m e => .fin s m (e + n)
  | v => v

/-- A value negated (NEG_A, NEG_B). -/
def Fv.negate : Fv → Fv
  | .nan s g => .nan (!s) g
  | .inf s => .inf (!s)
  | .fin s m e => .fin (!s) m e

/-- The value is a signalling NaN. -/
def Fv.signals : Fv → Bool
  | .nan _ g => g
  | _ => false

/-- The value is a NaN. -/
def Fv.isNan : Fv → Bool
  | .nan _ _ => true
  | _ => false

/-- `m × 2^e` as an integer count of 2^b; `b ≤ e`. -/
def aligned (b : Int) (m : Nat) (e : Int) : Nat := m * 2 ^ (e - b).toNat

/-- `m1 × 2^e1 ≤ m2 × 2^e2`. -/
def magLe (m1 : Nat) (e1 : Int) (m2 : Nat) (e2 : Int) : Bool :=
  decide (aligned (min e1 e2) m1 e1 ≤ aligned (min e1 e2) m2 e2)

/-- A signed count of 2^b. -/
def signedAt (b : Int) (s : Bool) (m : Nat) (e : Int) : Int :=
  if s then -(aligned b m e : Int) else (aligned b m e : Int)

/-- The values are the same number: zeros of either sign are. -/
def Fv.same : Fv → Fv → Bool
  | .fin s m e, .fin t n g => signedAt (min e g) s m e == signedAt (min e g) t n g
  | .inf s, .inf t => s == t
  | _, _ => false

/-! ## Flags (Table 10) -/

/-- INVALID. -/
def flI : Nat := 1
/-- OVERFLOW. -/
def flO : Nat := 2
/-- UNDERFLOW. -/
def flU : Nat := 4
/-- INEXACT. -/
def flX : Nat := 8
/-- SATURATION. -/
def flS : Nat := 16

/-- A flag where a condition holds. -/
def flagIf (b : Bool) (f : Nat) : Nat := if b then f else 0

/-! ## Rounding (R106, R79, R85) -/

/-- The count of quanta of `f` that a magnitude holds: whole quanta, the quantum's exponent, what is left over and the
quantum, in the magnitude's own units. -/
def quanta (f : FF) (m : Nat) (e : Int) : Nat × Int × Nat × Nat :=
  let q : Int := max ((Nat.log2 m : Int) + e - f.mb) (1 - (f.bias : Int) - f.mb)
  if q ≤ e then (m * 2 ^ (e - q).toNat, q, 0, 1)
  else
    let d := 2 ^ (q - e).toNat
    (m / d, q, m % d, d)

/-- The code of `n` quanta of exponent `q`: `n` may be one binade more than the mantissa holds. -/
def quantaCode (f : FF) (n : Nat) (q : Int) : Nat :=
  ((q + f.bias + f.mb - 1) * (2 : Int) ^ f.mb + n).toNat

/-- The code of a magnitude rounded to nearest even, unlimited above (R106), and whether it is inexact. -/
def roundNear (f : FF) (m : Nat) (e : Int) : Nat × Bool :=
  if m = 0 then (0, false) else
  let (n, q, r, d) := quanta f m e
  let up := decide (d < 2 * r) || (decide (2 * r = d) && n % 2 == 1)
  (quantaCode f (n + b2n up) q, r != 0)

/-- The code of a magnitude under stipple rounding with generator state `g` (R85). -/
def roundStipple (f : FF) (g m : Nat) (e : Int) : Nat :=
  if m = 0 then 0 else
  let (n, q, r, d) := quanta f m e
  if r = 0 then quantaCode f n q
  else quantaCode f (n + b2n (decide (g / 256 < r * 2 ^ 24 / d))) q

/-- A format's sign bit. -/
def signBit (f : FF) (neg : Bool) : Nat := if neg then 2 ^ f.bits else 0

/-- The magnitude is below 2^n. -/
def below2 (m : Nat) (e n : Int) : Bool := m == 0 || decide ((Nat.log2 m : Int) + e < n)

/-- The canonical NaN (R79). -/
def qnan : Nat := 0x7FC00000

/-- An exact finite value rounded to binary32 with its flags (R79). -/
def toF32 (neg : Bool) (m : Nat) (e : Int) : Nat × Nat :=
  let (c, inexact) := roundNear fp32 m e
  if fp32.maxCode < c then (signBit fp32 neg + fp32.maxCode + 1, flO)
  else (signBit fp32 neg + c, flagIf (inexact && below2 m e (-126)) flU)

/-- Any value as binary32; every NaN is the canonical one. -/
def valF32 : Fv → Nat × Nat
  | .nan _ _ => (qnan, 0)
  | .inf s => (signBit fp32 s + fp32.maxCode + 1, 0)
  | .fin s m e => toF32 s m e

/-- The value of a binary32 word. -/
def f32 (w : Nat) : Fv := decodeF fp32 w

/-! ## Arithmetic (R79 to R83) -/

/-- The exact sum of finite terms, counted in 2^b for the least exponent `b` among them. -/
def sumFin (l : List Fv) : Int × Int :=
  let b := l.foldl (fun b v => match v with | .fin _ m e => if m = 0 then b else min b e | _ => b) 0
  (l.foldl (fun a v => match v with | .fin s m e => if m = 0 then a else a + signedAt b s m e | _ => a) 0, b)

/-- A negative zero. -/
def Fv.negZero : Fv → Bool
  | .fin s m _ => s && m == 0
  | _ => false

/-- The sum of exact terms, rounded once (R79, R80). -/
def addTerms (l : List Fv) : Nat × Nat :=
  let opp := l.any (fun v => decide (v = .inf false)) && l.any (fun v => decide (v = .inf true))
  let fl := flagIf (opp || l.any Fv.signals) flI
  if opp || l.any Fv.isNan then (qnan, fl)
  else if l.any (fun v => decide (v = .inf false)) then (fp32.maxCode + 1, fl)
  else if l.any (fun v => decide (v = .inf true)) then (2 ^ 31 + fp32.maxCode + 1, fl)
  else
    let (n, b) := sumFin l
    if n = 0 then (if l.all Fv.negZero then 2 ^ 31 else 0, fl)
    else toF32 (decide (n < 0)) n.natAbs b

/-- The exact product; an infinity times zero is a NaN that raises INVALID (R80). -/
def mulExact : Fv → Fv → Fv
  | .nan s g, b => .nan s (g || b.signals)
  | a, .nan s g => .nan s (g || a.signals)
  | .inf s, .inf t => .inf (s != t)
  | .inf s, .fin t m _ => if m = 0 then .nan false true else .inf (s != t)
  | .fin t m _, .inf s => if m = 0 then .nan false true else .inf (s != t)
  | .fin s m e, .fin t n g => .fin (s != t) (m * n) (e + g)

/-- `a` lies below `b`; −0 lies below +0 where `zeros` says so. Neither is a NaN. -/
def fvLt (zeros : Bool) (a b : Fv) : Bool :=
  match a, b with
  | .inf s, .inf t => s && !t
  | .inf s, _ => s
  | _, .inf t => !t
  | .fin s m e, .fin t n g =>
    let x := signedAt (min e g) s m e
    let y := signedAt (min e g) t n g
    decide (x < y) || (zeros && x == y && decide (x = 0) && s && !t)
  | _, _ => false

/-- MIN (`wantMax` false) or MAX of two values (R81). -/
def minMax (wantMax : Bool) (a b : Fv) : Nat × Nat :=
  let fl := flagIf (a.signals || b.signals) flI
  if a.isNan || b.isNan then (qnan, fl)
  else
    let less := fvLt true a b
    ((valF32 (if less == wantMax then b else a)).1, fl)

/-- CMP (R81): 0 LT, 1 LE, 2 EQ, 3 NE. -/
def compareFv (cond : Nat) (a b : Fv) : Bool :=
  if a.isNan || b.isNan then cond == 3 else
  match cond with
  | 0 => fvLt false a b
  | 1 => !fvLt false b a
  | 2 => !fvLt false a b && !fvLt false b a
  | _ => fvLt false a b || fvLt false b a

/-- The integer that a value truncates to, within −512 and 512 (R83). -/
def truncClamp : Fv → Int
  | .nan _ _ => 0
  | .inf s => if s then -512 else 512
  | .fin s m e =>
    let n : Nat := if 0 ≤ e then (if m = 0 then 0 else m * 2 ^ min e.toNat 600) else m / 2 ^ (-e).toNat
    if s then -(min n 512 : Nat) else (min n 512 : Nat)

/-- SCALE2 (R83). -/
def scale2 (a b : Fv) : Nat × Nat :=
  if b.isNan then (qnan, flI)
  else match a with
    | .nan _ g => (qnan, flagIf g flI)
    | .inf s => valF32 (.inf s)
    | .fin s m e => toF32 s m (e + truncClamp b)

/-- The greatest binary32 code whose value is at most `m × 2^e`, unlimited above. -/
def codeFloor (m : Nat) (e : Int) : Nat :=
  if m = 0 then 0 else
  let (n, q, _, _) := quanta fp32 m e
  quantaCode fp32 n q

/-- The least binary32 code whose value is at least `m × 2^e`, unlimited above. -/
def codeCeil (m : Nat) (e : Int) : Nat :=
  if m = 0 then 0 else
  let (n, q, r, _) := quanta fp32 m e
  quantaCode fp32 (n + b2n (r != 0)) q

/-- The least and the greatest code that Table 9 allows for an exact magnitude that lies from `y × 2^e` up to less than
`(y + 1) × 2^e`; `y` holds far more bits than decide this. -/
def tableNine (y : Nat) (e : Int) : Nat × Nat :=
  if below2 y e (-126) then
    let tol := 2 ^ (-149 - e).toNat
    (codeCeil (y - tol) e, codeFloor (y + 1 + tol) e)
  else (codeCeil (y * 2 ^ 22 - y) (e - 22), codeFloor (y * 2 ^ 22 + y + 2 ^ 23) (e - 22))

/-- A free monotonic function of `i` with values from `lo` to `hi`: `g` splits the values between the two halves of the
indices, down to single ones; `node` names a half. -/
def freeMonotone (g : Nat → Nat) : Nat → Nat → Nat → Nat → Nat → Nat
  | 0, node, lo, hi, _ => lo + g node % (hi - lo + 1)
  | k + 1, node, lo, hi, i =>
    let mid := lo + g node % (hi - lo + 1)
    if bit i k then freeMonotone g k (2 * node + 1) mid hi i else freeMonotone g k (2 * node) lo mid i

/-- The code of 2^n: 0 below the least value, the greatest finite code above it. -/
def powCode (n : Int) : Nat := if n < -149 then 0 else min (roundNear fp32 1 n).1 fp32.maxCode

/-- A result of EX2 or RCP, strictly between 2^n and 2^(n + 1), whose exact magnitude is close to `y × 2^e` (R82, Table 9): a
free monotonic choice `pick`, kept within the bounds, which are monotonic themselves. -/
def approxF32 (y : Nat) (e n : Int) (pick : Nat) : Nat × Nat :=
  let (lo, hi) := tableNine y e
  (max (max lo (powCode n)) (min (min hi (powCode (n + 1))) pick), flagIf (below2 y e (-126)) flU)

/-- ln 2 in units of 2^-200. -/
def ln2 : Nat := 1113844574712631719546256151097547306333272293549090750737802

/-- 2^(k / 2^149) for `k` below 2^149, in units of 2^-200: the first 50 terms of the exponential series of k × ln 2. -/
def exp2Frac (k : Nat) : Nat :=
  let x := k * ln2 / 2 ^ 149
  ((List.range 50).foldl (fun (p : Nat × Nat) i => (p.1 + p.2, p.2 * x / 2 ^ 200 / (i + 1))) (0, 2 ^ 200)).1

/-- EX2 of a binary32 value (R82, Table 9), which is a whole number of 2^-149. -/
def ex2 (v : Fv) : Nat × Nat :=
  match v with
  | .nan _ g => (qnan, flagIf g flI)
  | .inf s => (if s then 0 else fp32.maxCode + 1, 0)
  | .fin s m e =>
    if m = 0 then (0x3F800000, 0)
    else if !s ∧ magLe 128 0 m e then (fp32.maxCode + 1, flO)
    else if s ∧ magLe 150 0 m e then (0, flU)
    else
      let n := signedAt (-149) s m e
      let ip := n / (2 ^ 149 : Int)
      let fr := (n % (2 ^ 149 : Int)).toNat
      if fr = 0 then (toF32 false 1 ip)
      else
        let c := (valF32 v).1 % 2 ^ 31
        approxF32 (exp2Frac fr) (ip - 200) ip
          (freeMonotone Config.ex2Split 32 1 0 fp32.maxCode (if s then 2 ^ 31 - 1 - c else 2 ^ 31 + c))

/-- RCP of a binary32 value (R82, Table 9). -/
def rcp (v : Fv) : Nat × Nat :=
  match v with
  | .nan _ g => (qnan, flagIf g flI)
  | .inf s => (signBit fp32 s, 0)
  | .fin s m e =>
    if m = 0 then (signBit fp32 s + fp32.maxCode + 1, 0)
    else
      let l := Nat.log2 m
      if m = 2 ^ l then toF32 s 1 (-(l : Int) - e)
      else
        let y := 2 ^ (200 + l) / m
        let x := -(200 + l : Int) - e
        -- an exact result of 2^128 or more overflows
        if !below2 y x 128 then (signBit fp32 s + fp32.maxCode + 1, flO)
        else
          let r := approxF32 y x (-(l : Int) - 1 - e)
            (freeMonotone (Config.rcpSplit (b2n s)) 31 1 0 fp32.maxCode (2 ^ 31 - 1 - (valF32 v).1 % 2 ^ 31))
          (signBit fp32 s + r.1, r.2)

/-! ## Conversions (R84, R85, R107) -/

/-- How a conversion rounds: to nearest even, or by stipple with a generator's state. -/
inductive Rnd where
  | near
  | stipple (g : Nat)
  deriving DecidableEq, Repr

/-- The canonical NaN of a format, sign kept (Table 10a); of FP32 it has no sign. -/
def fmtNan (f : FF) (neg : Bool) : Nat :=
  if f = fp32 then qnan
  else if f.hasInf then signBit f neg + f.maxCode + 1 + 2 ^ (f.mb - 1)
  else signBit f neg + f.maxCode + 1

/-- A code beyond range gives infinity, or the largest finite value in the formats of Table 10a that saturate. -/
def beyond (f : FF) (neg : Bool) : Nat × Nat :=
  if f = fp32 ∨ f = bf16 ∨ f = fp16 then (signBit f neg + f.maxCode + 1, flO) else (signBit f neg + f.maxCode, flS)

/-- A value converted to a floating format: its code, and OVERFLOW, SATURATION and INVALID (Table 10a). -/
def cvtFloat (f : FF) (r : Rnd) (v : Fv) : Nat × Nat :=
  match v with
  | .nan s g => (fmtNan f s, flagIf g flI)
  | .inf s => if f.hasInf then (signBit f s + f.maxCode + 1, 0) else (signBit f s + f.maxCode, flS)
  | .fin s m e =>
    match r with
    | .near =>
      let c := (roundNear f m e).1
      if f.maxCode < c then beyond f s else (signBit f s + c, 0)
    | .stipple g =>
      let (mm, me) := codeMag f f.maxCode
      if !magLe m e mm me then beyond f s else (signBit f s + roundStipple f g m e, 0)

/-- The nearest even integer to a magnitude. -/
def nearInt (m : Nat) (e : Int) : Nat :=
  if 0 ≤ e then m * 2 ^ e.toNat
  else
    let d := 2 ^ (-e).toNat
    let n := m / d
    let r := m % d
    n + b2n (decide (d < 2 * r) || (decide (2 * r = d) && n % 2 == 1))

/-- A magnitude as an integer under stipple rounding. -/
def stippleInt (g m : Nat) (e : Int) : Nat :=
  if 0 ≤ e then m * 2 ^ e.toNat
  else
    let d := 2 ^ (-e).toNat
    m / d + b2n (decide (g / 256 < m % d * 2 ^ 24 / d))

/-- A value converted to INT8 (Table 10a). -/
def cvtInt8 (r : Rnd) (v : Fv) : Nat × Nat :=
  let lim := fun (s : Bool) => if s then 128 else 127
  let enc := fun (s : Bool) n => if s then (256 - n) % 256 else n
  match v with
  | .nan _ _ => (0, flI)
  | .inf s => (enc s (lim s), flS)
  | .fin s m e =>
    if !below2 m e 9 then (enc s (lim s), flS) else
    let n := match r with
      | .near => nearInt m e
      | .stipple g => stippleInt g m e
    let ended := match r with
      | .near => decide (lim s < n)
      | .stipple _ => !magLe m e (lim s) 0
    if ended then (enc s (lim s), flS) else (enc s n, 0)

/-! ## Element formats by code (R64, Table 3) -/

/-- Bytes of an element of a format code. -/
def fmtWidth (fmt : Nat) : Nat := if fmt = 0 then 4 else if fmt ≤ 2 then 2 else 1

/-- Elements per lane in FMA (k). -/
def fmtK (fmt : Nat) : Nat := 4 / fmtWidth fmt

/-- The format code is scaled. -/
def fmtScaled (fmt : Nat) : Bool := decide (6 ≤ fmt)

/-- The value of an element's bits in a format code, with its scale byte (Table 3). -/
def elemVal (fmt bits scale : Nat) : Fv :=
  let base := match fmt with
    | 0 => decodeF fp32 bits
    | 1 => decodeF bf16 bits
    | 2 => decodeF fp16 bits
    | 3 | 6 => decodeF e4m3 bits
    | 4 | 7 => decodeF e5m2 bits
    | _ => decodeI8 bits
  if fmtScaled fmt then
    (if scale = 0xFF then .nan (Config.scaleNanNeg bits) false
     else base.shift ((scale : Int) - (if fmt = 8 then 133 else 127)))
  else base

/-- A value converted to an unscaled format code (R84). -/
def cvtFmt (fmt : Nat) (r : Rnd) (v : Fv) : Nat × Nat :=
  match fmt with
  | 0 => cvtFloat fp32 r v
  | 1 => cvtFloat bf16 r v
  | 2 => cvtFloat fp16 r v
  | 3 => cvtFloat e4m3 r v
  | 4 => cvtFloat e5m2 r v
  | _ => cvtInt8 r v

/-- The exponent of a format code's smallest normal (Table 1). -/
def minNormal (fmt : Nat) : Int :=
  match fmt with
  | 0 | 1 => -126
  | 2 | 4 => -14
  | _ => -6

/-- CVT (R84): the value `x` that A supplies, a scaled element's exact one, converted to an unscaled format code, with the
flags. -/
def cvtFlags (fmt : Nat) (r : Rnd) (x : Fv) : Nat × Nat :=
  let (c, fl) := cvtFmt fmt r x
  let inexact := !x.isNan && !(elemVal fmt c 127).same x
  let tiny := match x with
    | .fin _ m e => m != 0 && below2 m e (minNormal fmt) && fmt != 5
    | _ => false
  (c, Nat.lor fl (Nat.lor (flagIf inexact flX) (flagIf (inexact && tiny) flU)))

/-! ## Reduction tree (R87) -/

/-- One combination of the tree: 1 SUM, 2 MAX, 3 MIN. -/
def treePair (kind a b : Nat) : Nat × Nat :=
  if kind = 1 then addTerms [f32 a, f32 b] else minMax (kind == 2) (f32 a) (f32 b)

/-- What a masked lane contributes. -/
def treeIdentity (kind : Nat) : Nat :=
  match kind with
  | 1 => 2 ^ 31
  | 2 => 0xFF800000
  | _ => 0x7F800000

/-- One stage over neighbouring pairs, with its flags. -/
def treeStage (kind : Nat) : List Nat → List Nat × Nat
  | a :: b :: t =>
    let x := treePair kind a b
    let r := treeStage kind t
    (x.1 :: r.1, Nat.lor x.2 r.2)
  | l => (l, 0)

/-- `n` stages. -/
def treeRun (kind : Nat) : Nat → List Nat → List Nat × Nat
  | 0, l => (l, 0)
  | n + 1, l =>
    let x := treeStage kind l
    let r := treeRun kind n x.1
    (r.1, Nat.lor x.2 r.2)

/-! ## Stipple generators (R85) -/

/-- The state of lane `i` at launch. -/
def stippleSeed (seed i : Nat) : Nat :=
  let s := Nat.xor seed ((i + 1) * 0x9E3779B9 % 2 ^ 32)
  if s = 0 then 1 else s

/-- One advance. -/
def stippleNext (s : Nat) : Nat :=
  let s := Nat.xor s (s * 8192 % 2 ^ 32)
  let s := Nat.xor s (s / 131072)
  Nat.xor s (s * 32 % 2 ^ 32)

end Sys2Proof.Machine
end

