-- ==== Sys2Proof/Machine/Hatch.lean ====
section
/-! DEFINITION. Sys2Proof/Machine/Hatch.lean: Hatch and microscaling blocks: decoding, widening, encoding
(spec/04_number_formats.md R95 to R101, R104, R108), and the bounds of a sketch (spec/05_sessions_and_kv_pages.md R111). -/

namespace Sys2Proof.Machine

open Sys2Proof

/-- Byte `i` of a list, 0 past its end. -/
def byteAt (l : List Byte) (i : Nat) : Nat := (nth 0 l i).toNat

/-- Bytes from numbers. -/
def bytesOf (l : List Nat) : List Byte := l.map (fun n => BitVec.ofNat 8 n)

/-! ## Decoding and widening -/

/-- Bits of a Hatch code: 4 or 3. -/
def hatchBits (h4 : Bool) : Nat := if h4 then 4 else 3

/-- Bytes of a Hatch block (Table 4). -/
def hatchSize (h4 : Bool) : Nat := if h4 then 22 else 18

/-- The E4M3 byte of a small integer. -/
def intE4m3 (i : Int) : Nat := (cvtFloat e4m3 .near (.fin (decide (i < 0)) i.natAbs 0)).1

/-- A Hatch block is malformed (R100). -/
def hatchBad (h4 : Bool) (b : List Byte) : Bool :=
  let o := if h4 then 17 else 13
  let v0 := byteAt b o
  let v1 := byteAt b (o + 1)
  let idx := byteAt b (o + 2) + 256 * byteAt b (o + 3)
  let fl := byteAt b (o + 4)
  let nout := fl % 4
  decide (idx / 1024 ≠ 0) || decide (fl / 8 ≠ 0) || nout == 3 || (nout == 2 && idx % 32 == idx / 32 % 32) ||
  (decide (nout < 1) && (v0 != 0 || idx % 32 != 0)) || (decide (nout < 2) && (v1 != 0 || idx / 32 % 32 != 0))

/-- Code `e` of a Hatch block. -/
def hatchCode (h4 : Bool) (b : List Byte) (e : Nat) : Int :=
  let w := hatchBits h4
  toSigned w (ofBytes ((b.drop 1).take (4 * w)) / 2 ^ (w * e))

/-- The 32 E4M3 bytes and the scale byte that a block widens to (R99); none where it is malformed. -/
def hatchWiden (h4 : Bool) (b : List Byte) : Option (List Byte × Byte) :=
  if hatchBad h4 b then none else
  let o := if h4 then 17 else 13
  let idx := byteAt b (o + 2) + 256 * byteAt b (o + 3)
  let nout := byteAt b (o + 4) % 4
  let el := fun e =>
    if 1 < nout ∧ e = idx / 32 % 32 then byteAt b (o + 1)
    else if 0 < nout ∧ e = idx % 32 then byteAt b o
    else intE4m3 (hatchCode h4 b e)
  some ((List.range 32).map (fun e => BitVec.ofNat 8 (el e)), nth 0 b 0)

/-- The E4M3 byte of the same value as an element of a narrower format, the sign of a zero kept (R97). -/
def widenElem (f : FF) (bits : Nat) : Nat := (cvtFloat e4m3 .near (decodeF f bits)).1

/-- The INT8 byte of an INT4 element (R97). -/
def widenInt4 (bits : Nat) : Nat := ofSigned 8 (toSigned 4 bits)

/-- Bytes of INT4 elements, packed two to a byte, the even index in the low nibble (R95), as INT8 elements. -/
def int4Widen (b : List Byte) : List Byte :=
  b.flatMap (fun x => bytesOf [widenInt4 (x.toNat % 16), widenInt4 (x.toNat / 16)])

/-- A packed microscaling block (R95, Table 2) as SE4M3, SE5M2 or SINT8 elements and its scale byte: 0 MXFP8 and MXINT8,
1 MXFP6 E2M3, 2 MXFP6 E3M2, 3 MXFP4. -/
def mxWiden (kind : Nat) (b : List Byte) : List Byte × Byte :=
  let v := ofBytes (b.drop 1)
  let el := fun e =>
    match kind with
    | 0 => byteAt b (1 + e)
    | 1 => widenElem e2m3 (v / 2 ^ (6 * e) % 64)
    | 2 => widenElem e3m2 (v / 2 ^ (6 * e) % 64)
    | _ => widenElem e2m1 (v / 2 ^ (4 * e) % 16)
  ((List.range 32).map (fun e => BitVec.ofNat 8 (el e)), nth 0 b 0)

/-! ## Encoding -/

/-- The magnitude of `a` exceeds that of `b`. -/
def magGt (a b : Fv) : Bool :=
  match a, b with
  | .inf _, .inf _ => false
  | .inf _, _ => true
  | .fin _ m e, .fin _ n g => !magLe m e n g
  | _, _ => false

/-- A value that is not a zero. -/
def Fv.nonzero : Fv → Bool
  | .fin _ m _ => m != 0
  | _ => true

/-- The first index of greatest magnitude among those not in `skip`, where that is not a zero. -/
def largestAt (x : List Fv) (skip : List Nat) : Option Nat :=
  (x.zipIdx.foldl (fun (best : Option (Fv × Nat)) p =>
    if skip.contains p.2 ∨ !p.1.nonzero then best else
    match best with
    | none => some p
    | some q => if magGt p.1 q.1 then some p else best) none).map Prod.snd

/-- The largest finite magnitude among the values at the indices that satisfy `p`. -/
def largestFin (x : List Fv) (p : Nat → Bool) : Nat × Int :=
  x.zipIdx.foldl (fun b q =>
    match q.1 with
    | .fin _ m e => if p q.2 && !magLe m e b.1 b.2 then (m, e) else b
    | _ => b) (0, 0)

/-- The outliers of R101: the two largest magnitudes, where they are not zero. -/
def outliers (x : List Fv) : List Nat :=
  match largestAt x [] with
  | none => []
  | some a => match largestAt x [a] with
    | none => [a]
    | some b => [a, b]

/-- The scale of R101. -/
def hatchScale (q : Nat) (m mo : Nat × Int) : Nat :=
  (firstBelow 255 (fun s =>
    magLe m.1 m.2 q ((s : Int) - 127) && magLe mo.1 mo.2 448 ((s : Int) - 127))).getD 254

/-- The bytes of a Hatch block from its parts (Tables 4 and 5). -/
def hatchBytes (h4 : Bool) (scale : Nat) (codes : List Int) (vals idxs : List Nat) (nout : Nat) (sat : Bool) : List Byte :=
  let w := hatchBits h4
  let field := (codes.zipIdx).foldl (fun a p => a + ofSigned w p.1 * 2 ^ (w * p.2)) 0
  BitVec.ofNat 8 scale :: toBytes (4 * w) field ++ bytesOf [nth 0 vals 0, nth 0 vals 1] ++
    toBytes 2 (nth 0 idxs 0 + 32 * nth 0 idxs 1) ++ bytesOf [nout + 4 * b2n sat]

/-- A Hatch block from 32 values (R101). -/
def hatchEncode (h4 : Bool) (x : List Fv) : List Byte :=
  if x.any Fv.isNan then BitVec.ofNat 8 0xFF :: List.replicate (hatchSize h4 - 1) 0 else
  let q := if h4 then 7 else 3
  let out := outliers x
  let scale := hatchScale q (largestFin x (fun e => !out.contains e)) (largestFin x (fun e => out.contains e))
  let u : Int := (scale : Int) - 127
  let code := fun (p : Fv × Nat) =>
    if out.contains p.2 then 0 else
    match p.1 with
    | .inf s => if s then -(q : Int) else (q : Int)
    | .fin s m e => if s then -(nearInt m (e - u) : Int) else (nearInt m (e - u) : Int)
    | .nan _ _ => 0
  let val := fun k => match nth (.fin false 0 0) x k with
    | .inf s => if s then 0xFE else 0x7E
    | v => (cvtFloat e4m3 .near (v.shift (-u))).1
  let isInf := fun v => match v with | Fv.inf _ => true | _ => false
  let kept := if (out.drop 1).any (fun k => val k % 128 == 0) then out.take 1 else out
  let kept := if (kept.take 1).any (fun k => val k % 128 == 0) && kept.length == 1 then [] else kept
  hatchBytes h4 scale (x.zipIdx.map code) (kept.map val) kept kept.length (x.any isInf)

/-- A microscaling block from 32 values (R108): `fmt` 3 E4M3, 4 E5M2 or 5 INT8. -/
def mxEncode (fmt : Nat) (x : List Fv) : List Byte :=
  if x.any Fv.isNan then BitVec.ofNat 8 0xFF :: List.replicate 32 0 else
  let a := largestFin x (fun _ => true)
  let emax : Int := if fmt = 3 then 8 else if fmt = 4 then 15 else 0
  let scale : Nat := if a.1 = 0 then 0 else min 254 ((Nat.log2 a.1 : Int) + a.2 - emax + 127).toNat
  let u : Int := (scale : Int) - (if fmt = 5 then 133 else 127)
  let el := fun (v : Fv) =>
    match v with
    | .inf s => if fmt = 5 then (if s then 0x80 else 0x7F) else if fmt = 3 then (if s then 0xFE else 0x7E)
                else (if s then 0xFB else 0x7B)
    | v => if a.1 = 0 then 0 else (cvtFmt fmt .near (v.shift (-u))).1
  BitVec.ofNat 8 scale :: x.map (fun v => BitVec.ofNat 8 (el v))

/-! ## Rows of a KV page (R104, R110) -/

/-- Consecutive parts of `n` elements. -/
def chunks (n : Nat) : Nat → List α → List (List α)
  | 0, _ => []
  | fuel + 1, l => if l.isEmpty then [] else l.take n :: chunks n fuel (l.drop n)

/-- The bytes of a row of values in a KV format: 0 Hatch-4, 1 Hatch-3, 2 MXFP8 E4M3, 3 BF16. -/
def encodeRow (kv : Nat) (x : List Fv) : List Byte :=
  if kv = 3 then x.flatMap (fun v => toBytes 2 (cvtFloat bf16 .near v).1)
  else (chunks 32 8 x).flatMap (fun b => if kv = 2 then mxEncode 3 b else hatchEncode (kv == 0) b)

/-- Bytes of a block of 32 elements in a KV format. -/
def kvBlock (kv : Nat) : Nat := match kv with | 0 => 22 | 1 => 18 | 2 => 33 | _ => 64

/-- A stored row widened for a panel: its element bytes and scale bytes; none where a Hatch block is malformed (R100). -/
def widenRow (kv : Nat) (row : List Byte) : Option (List Byte × List Byte) :=
  if kv = 3 then some (row, []) else
  (chunks (kvBlock kv) 8 row).foldl (fun acc b =>
    match acc, (if kv = 2 then some (mxWiden 0 b) else hatchWiden (kv == 0) b) with
    | some (els, sc), some (e, s) => some (els ++ e, sc ++ [s])
    | _, _ => none) (some ([], []))

/-- The values that a stored row decodes to. -/
def rowVals (kv : Nat) (row : List Byte) : List Fv :=
  match widenRow kv row with
  | none => []
  | some (els, sc) =>
    if kv = 3 then (chunks 2 256 els).map (fun b => elemVal 1 (ofBytes b) 127)
    else els.zipIdx.map (fun p => elemVal 6 p.1.toNat (byteAt sc (p.2 / 32)))

/-! ## Sketches (R111) -/

/-- The BF16 word that bounds a value from above (`up`) or below. -/
def bf16Toward (up : Bool) (v : Fv) : Nat :=
  match v with
  | .nan _ _ => if up then 0x7F80 else 0xFF80
  | .inf s => if s then 0xFF80 else 0x7F80
  | .fin s m e =>
    if m = 0 then signBit bf16 s else
    let (n, q, r, _) := quanta bf16 m e
    -- away from zero where the direction is the value's own sign
    let away := up != s
    let c := quantaCode bf16 (n + b2n (r != 0 && away)) q
    signBit bf16 s + min c (if away then bf16.maxCode + 1 else bf16.maxCode)

/-- The bounds of a sketch element after a row's value joins it: maximum and minimum. -/
def sketchJoin (b : Nat × Nat) (v : Fv) : Nat × Nat :=
  if v.isNan then (0x7F80, 0xFF80) else
  (if fvLt false (decodeF bf16 b.1) v then bf16Toward true v else b.1,
   if fvLt false v (decodeF bf16 b.2) then bf16Toward false v else b.2)

end Sys2Proof.Machine
end

