-- ==== Sys2Proof/Machine/RegTable.lean ====
section
/-! DEFINITION. Sys2Proof/Machine/RegTable.lean: every register field the spec's tables list, with its place,
access code (R10), reset class (R14) and reset value, and every register block with its place in BAR 0 (R25). -/

namespace Sys2Proof.Machine

/-- Access codes (spec/00_scope.md Table 2, R10). -/
inductive Acc where
  | rw | ro | wo | rw1c | rws | rwl
  deriving DecidableEq, Repr

/-- The reset class a field's Reset column names (R14, Table 3). `unit` is the class of R475 (TILE for the
counters of a tile, SOFT for the others); `fuse` and `fixed` are "Fuse" and "—". -/
inductive RstClass where
  | cold | warm | soft | partialRst | flr | site | tile | rtp | unit | fuse | fixed
  deriving DecidableEq, Repr

/-- How a field's reset value is found. -/
inductive RV where
  | const (n : Nat) | fuse | index | portClass | portFollow | shareZero | tdp | debugLevel | debugSource
  deriving DecidableEq, Repr

/-- A register field: its number, its register's number, its place, access code, reset class and reset value. -/
structure Fld where
  code : Nat
  reg : Nat
  lo : Nat
  w : Nat
  acc : Acc
  rst : RstClass
  rv : RV
  deriving DecidableEq, Repr

/-- The window a register stands in: PF BAR 0 (R25), the tenant page (R334), the ring set-up window of a
function (R363) or one ring's part of it. -/
inductive Win where
  | pf | ten | ringFn | ring
  deriving DecidableEq, Repr

/-- A register, or a row of like registers: `count` by `count2` of them at `base + i * stride + j * stride2`. -/
structure RegBlk where
  code : Nat
  name : String
  win : Win
  base : Nat
  stride : Nat
  count : Nat
  stride2 : Nat
  count2 : Nat
  bits : Nat
  flds : List Fld
  deriving DecidableEq, Repr

def HUB_IDENT_VARIANT : Fld := ⟨0, 0, 0, 4, .ro, .fuse, .fuse⟩
def HUB_IDENT_STEPPING : Fld := ⟨1, 0, 4, 4, .ro, .fuse, .fuse⟩
def HUB_IDENT_PART : Fld := ⟨2, 0, 16, 16, .ro, .fixed, .const 0x1840⟩
def HUB_ID_ID : Fld := ⟨3, 1, 0, 12, .ro, .cold, .const 0⟩
def HUB_ID_TWIN : Fld := ⟨4, 1, 12, 1, .ro, .cold, .const 0⟩
def HUB_ID_ID_VALID : Fld := ⟨5, 1, 13, 1, .ro, .cold, .const 0⟩
def HUB_GLOBAL_SETUP_LOCK : Fld := ⟨6, 2, 0, 1, .rw, .soft, .const 0⟩
def HUB_GLOBAL_READY : Fld := ⟨7, 2, 1, 1, .ro, .soft, .const 0⟩
def HUB_GLOBAL_DEGRADED : Fld := ⟨8, 2, 2, 1, .ro, .soft, .const 0⟩
def HUB_RES_TILES : Fld := ⟨9, 3, 0, 7, .ro, .fuse, .fuse⟩
def HUB_RES_MEM_SITES : Fld := ⟨10, 3, 7, 5, .ro, .fuse, .fuse⟩
def HUB_RES_CHIPLET_SITES : Fld := ⟨11, 3, 12, 4, .ro, .fuse, .fuse⟩
def HUB_RES_SYREL_PORTS : Fld := ⟨12, 3, 16, 5, .ro, .fuse, .fuse⟩
def HUB_RES_PARTITIONS : Fld := ⟨13, 3, 21, 5, .ro, .fuse, .fuse⟩
def DIE_SERIAL_SERIAL : Fld := ⟨14, 4, 0, 64, .ro, .fuse, .fuse⟩
def TILE_MAP_PTILE : Fld := ⟨15, 5, 0, 7, .ro, .fuse, .fuse⟩
def TILE_MAP_VALID : Fld := ⟨16, 5, 31, 1, .ro, .fuse, .fuse⟩
def RULE_CTL_ROLE : Fld := ⟨17, 6, 0, 2, .rwl, .cold, .const 0⟩
def RULE_CTL_PARENT_PORT : Fld := ⟨18, 6, 2, 5, .rwl, .cold, .const 0⟩
def RULE_CTL_ALT_PORT : Fld := ⟨19, 6, 7, 5, .rwl, .cold, .const 0⟩
def RULE_CTL_ALT_EN : Fld := ⟨20, 6, 12, 1, .rwl, .cold, .const 0⟩
def RULE_STATUS_STATE : Fld := ⟨21, 7, 0, 3, .ro, .cold, .const 0⟩
def RULE_STATUS_PARENT_USED : Fld := ⟨22, 7, 3, 5, .ro, .cold, .const 0⟩
def RULE_STATUS_PIN_REF_OK : Fld := ⟨23, 7, 8, 1, .ro, .cold, .const 0⟩
def RULE_STATUS_SEG_PENDING : Fld := ⟨24, 7, 9, 1, .ro, .cold, .const 0⟩
def RULE_STATUS_DEPTH : Fld := ⟨25, 7, 10, 6, .ro, .cold, .const 0⟩
def RULE_POS_POS : Fld := ⟨26, 8, 0, 64, .ro, .cold, .const 0⟩
def RULE_REFCNT_REFCNT : Fld := ⟨27, 9, 0, 64, .ro, .cold, .const 0⟩
def RULE_SEG_KIND : Fld := ⟨28, 10, 0, 2, .ro, .cold, .const 0⟩
def RULE_SEG_RATE : Fld := ⟨29, 10, 2, 24, .ro, .cold, .const 0⟩
def RULE_SEG_SEQ : Fld := ⟨30, 10, 26, 6, .ro, .cold, .const 0⟩
def RULE_OFFSET_OFFSET : Fld := ⟨31, 11, 0, 16, .ro, .cold, .const 0⟩
def RULE_OFFSET_DELAY : Fld := ⟨32, 11, 16, 16, .ro, .cold, .const 0⟩
def RULE_START_START : Fld := ⟨33, 12, 0, 64, .rwl, .cold, .const 0⟩
def RULE_PIN_DELAY_DELAY : Fld := ⟨34, 13, 0, 16, .rwl, .cold, .const 0⟩
def RULE_EVENT_RULING_UNLOCKED : Fld := ⟨35, 14, 0, 1, .rw1c, .cold, .const 0⟩
def RULE_EVENT_RELOCKED : Fld := ⟨36, 14, 1, 1, .rw1c, .cold, .const 0⟩
def RULE_EVENT_PARENT_SWITCH : Fld := ⟨37, 14, 2, 1, .rw1c, .cold, .const 0⟩
def RULE_EVENT_SEG_APPLIED : Fld := ⟨38, 14, 3, 1, .rw1c, .cold, .const 0⟩
def RULE_EVENT_SEG_REFUSED : Fld := ⟨39, 14, 4, 1, .rw1c, .cold, .const 0⟩
def RULE_EVENT_STEP_SEEN : Fld := ⟨40, 14, 5, 1, .rw1c, .cold, .const 0⟩
def RULE_EVENT_PIN_FRAME_ERR : Fld := ⟨41, 14, 6, 1, .rw1c, .cold, .const 0⟩
def RULE_EVENT_RULE_REF_LOST : Fld := ⟨42, 14, 7, 1, .rw1c, .cold, .const 0⟩
def CAL_CTL_ENABLE : Fld := ⟨43, 15, 0, 1, .rw, .soft, .const 1⟩
def CAL_GATE_LIMIT_LIMIT : Fld := ⟨44, 16, 0, 32, .rwl, .soft, .const 10000000⟩
def CAL_STATUS_USED : Fld := ⟨45, 17, 0, 14, .ro, .soft, .const 0⟩
def CAL_QUOTA_MAX : Fld := ⟨46, 18, 0, 14, .rwl, .soft, .const 128⟩
def CAL_LATE_COUNT : Fld := ⟨47, 19, 0, 32, .ro, .flr, .const 0⟩
def CAL_LATE_MAX_LATE : Fld := ⟨48, 19, 32, 32, .ro, .flr, .const 0⟩
def ARRIVAL_VALUE : Fld := ⟨49, 20, 0, 32, .rw, .soft, .const 0⟩
def ARRIVAL_CFG_FUNCTION : Fld := ⟨50, 21, 0, 6, .rwl, .soft, .const 0⟩
def ARRIVAL_CFG_EN : Fld := ⟨51, 21, 31, 1, .rwl, .soft, .const 0⟩
def GRV_CTL_DISPATCH_EN : Fld := ⟨52, 22, 0, 1, .rw, .soft, .const 1⟩
def GRV_STATUS_STATE : Fld := ⟨53, 23, 0, 2, .ro, .tile, .const 0⟩
def GRV_STATUS_PC : Fld := ⟨54, 23, 2, 12, .ro, .tile, .const 0⟩
def GRV_STATUS_OWNER : Fld := ⟨55, 23, 14, 6, .ro, .tile, .const 0⟩
def GRV_FLAGS_FLAGS : Fld := ⟨56, 24, 0, 5, .ro, .tile, .const 0⟩
def GRV_LIMIT_LIMIT : Fld := ⟨57, 25, 0, 24, .rwl, .soft, .const 50000⟩
def GRV_PROG_BANK : Fld := ⟨58, 26, 0, 1, .ro, .tile, .const 0⟩
def GRV_PROG_CUSTOM_LOADED : Fld := ⟨59, 26, 1, 1, .ro, .tile, .const 0⟩
def GRV_PROG_CUSTOM_OWNER : Fld := ⟨60, 26, 2, 6, .ro, .tile, .const 0⟩
def GRV_BUILTIN_VER_VERSION : Fld := ⟨61, 27, 0, 32, .ro, .tile, .const 0⟩
def GRV_LAUNCHES_COUNT : Fld := ⟨62, 28, 0, 32, .ro, .tile, .const 0⟩
def SES_CTL_ENABLE : Fld := ⟨63, 29, 0, 1, .rw, .soft, .const 1⟩
def SES_STATUS_USED : Fld := ⟨64, 30, 0, 19, .ro, .soft, .const 0⟩
def STR_STATUS_USED : Fld := ⟨65, 31, 0, 18, .ro, .soft, .const 0⟩
def SES_QUOTA_MAX : Fld := ⟨66, 32, 0, 19, .rwl, .soft, .const 4096⟩
def STR_QUOTA_MAX : Fld := ⟨67, 33, 0, 18, .rwl, .soft, .const 2048⟩
def POOL_FREE : Fld := ⟨68, 34, 0, 29, .ro, .flr, .const 0⟩
def POOL_TOTAL : Fld := ⟨69, 34, 32, 29, .ro, .flr, .const 0⟩
def ATTN_CTL_ENABLE : Fld := ⟨70, 35, 0, 1, .rw, .soft, .const 1⟩
def ATTN_CTL_SPLIT_EN : Fld := ⟨71, 35, 1, 1, .rwl, .soft, .const 1⟩
def ATTN_STATUS_RUNNING : Fld := ⟨72, 36, 0, 5, .ro, .soft, .const 0⟩
def ATTN_STATUS_WAITING : Fld := ⟨73, 36, 5, 16, .ro, .soft, .const 0⟩
def ATTN_COUNT_BATCHES : Fld := ⟨74, 37, 0, 32, .ro, .flr, .const 0⟩
def ATTN_COUNT_FAILED : Fld := ⟨75, 37, 32, 32, .ro, .flr, .const 0⟩
def MEM_CTL_PERIODIC_RT : Fld := ⟨76, 38, 0, 1, .rw, .soft, .const 1⟩
def MEM_CTL_CE_LIMIT : Fld := ⟨77, 38, 16, 16, .rw, .soft, .const 1024⟩
def MEM_STATUS_STATE : Fld := ⟨78, 39, 0, 3, .ro, .cold, .const 0⟩
def MEM_STATUS_HALF_HIGH : Fld := ⟨79, 39, 3, 1, .ro, .cold, .const 0⟩
def MEM_STATUS_CH_OK : Fld := ⟨80, 39, 4, 8, .ro, .cold, .const 0⟩
def MEM_STATUS_THROTTLE : Fld := ⟨81, 39, 12, 2, .ro, .soft, .const 0⟩
def MEM_STATUS_RETRAINING : Fld := ⟨82, 39, 14, 1, .ro, .soft, .const 0⟩
def MEM_CFG_PKG : Fld := ⟨83, 40, 0, 2, .ro, .cold, .const 0⟩
def MEM_CFG_DUAL_RANK : Fld := ⟨84, 40, 2, 1, .ro, .cold, .const 0⟩
def MEM_CHCAP_GRANULES : Fld := ⟨85, 41, 0, 36, .ro, .cold, .const 0⟩
def MEM_TEMP_MR4_0 : Fld := ⟨86, 42, 0, 8, .ro, .soft, .const 0⟩
def MEM_TEMP_MR4_1 : Fld := ⟨87, 42, 8, 8, .ro, .soft, .const 0⟩
def MEM_TEMP_MR4_2 : Fld := ⟨88, 42, 16, 8, .ro, .soft, .const 0⟩
def MEM_TEMP_MR4_3 : Fld := ⟨89, 42, 24, 8, .ro, .soft, .const 0⟩
def MEM_TEMP_MR4_4 : Fld := ⟨90, 42, 32, 8, .ro, .soft, .const 0⟩
def MEM_TEMP_MR4_5 : Fld := ⟨91, 42, 40, 8, .ro, .soft, .const 0⟩
def MEM_TEMP_MR4_6 : Fld := ⟨92, 42, 48, 8, .ro, .soft, .const 0⟩
def MEM_TEMP_MR4_7 : Fld := ⟨93, 42, 56, 8, .ro, .soft, .const 0⟩
def MEM_ERRCNT_CE : Fld := ⟨94, 43, 0, 32, .ro, .soft, .const 0⟩
def MEM_ERRCNT_UE : Fld := ⟨95, 43, 32, 32, .ro, .soft, .const 0⟩
def MEM_ERRLOG_VALID : Fld := ⟨96, 44, 0, 1, .rw1c, .cold, .const 0⟩
def MEM_ERRLOG_KIND : Fld := ⟨97, 44, 1, 1, .ro, .cold, .const 0⟩
def MEM_ERRLOG_CH : Fld := ⟨98, 44, 2, 3, .ro, .cold, .const 0⟩
def MEM_ERRLOG_RANK : Fld := ⟨99, 44, 5, 1, .ro, .cold, .const 0⟩
def MEM_ERRLOG_RAW : Fld := ⟨100, 44, 6, 26, .ro, .cold, .const 0⟩
def MEM_RETRAIN_COUNT : Fld := ⟨101, 45, 0, 16, .ro, .soft, .const 0⟩
def MEM_RETRAIN_LONGEST : Fld := ⟨102, 45, 16, 16, .ro, .soft, .const 0⟩
def MEM_GLOBAL_RATE : Fld := ⟨103, 46, 0, 4, .rwl, .cold, .const 0x4⟩
def MEM_GLOBAL_SPARE : Fld := ⟨104, 46, 4, 4, .rwl, .cold, .const 0⟩
def MEM_GEOM_NE : Fld := ⟨105, 47, 0, 11, .ro, .cold, .const 0⟩
def MEM_NF_NF : Fld := ⟨106, 48, 0, 32, .ro, .cold, .const 0⟩
def MEM_SIZE_BYTES : Fld := ⟨107, 49, 0, 44, .ro, .cold, .const 0⟩
def MEM_SCRUB_HOURS : Fld := ⟨108, 50, 0, 16, .rwl, .soft, .const 24⟩
def MEM_MOVE_ENTRY : Fld := ⟨109, 51, 0, 11, .ro, .cold, .const 0⟩
def MEM_MOVE_ACTIVE : Fld := ⟨110, 51, 11, 1, .ro, .cold, .const 0⟩
def MEM_MOVE_FRAME : Fld := ⟨111, 51, 12, 32, .ro, .cold, .const 0⟩
def SITE_STEER_SITE : Fld := ⟨112, 52, 0, 5, .ro, .cold, .const 0⟩
def SITE_STEER_SLOT : Fld := ⟨113, 52, 5, 11, .ro, .cold, .const 0⟩
def SITE_STEER_VALID : Fld := ⟨114, 52, 31, 1, .ro, .cold, .const 0⟩
def SITE_SLOTS_SLOTS : Fld := ⟨115, 53, 0, 11, .ro, .cold, .const 0⟩
def SITE_SLOTS_WEIGHT : Fld := ⟨116, 53, 11, 2, .ro, .cold, .const 0⟩
def SC_CTL_ALLOC_EN : Fld := ⟨117, 54, 0, 1, .rwl, .soft, .const 1⟩
def SC_STATUS_SLICES : Fld := ⟨118, 55, 0, 7, .ro, .soft, .const 0⟩
def SC_STATUS_MOVING : Fld := ⟨119, 55, 7, 1, .ro, .soft, .const 0⟩
def SC_ERRCNT_CE : Fld := ⟨120, 56, 0, 16, .ro, .soft, .const 0⟩
def SC_ERRCNT_UE : Fld := ⟨121, 56, 16, 16, .ro, .soft, .const 0⟩
def SC_WAYS_ALLOC_MASK : Fld := ⟨122, 57, 0, 16, .rwl, .soft, .const 0xFFFF⟩
def SLICE_STEER_TILE : Fld := ⟨123, 58, 0, 6, .ro, .soft, .const 0⟩
def SLICE_STEER_MOVING : Fld := ⟨124, 58, 31, 1, .ro, .soft, .const 0⟩
def DIR_CTL_COH_EN : Fld := ⟨125, 59, 0, 8, .rwl, .soft, .const 0xFF⟩
def DIR_STATUS_USED : Fld := ⟨126, 60, 0, 23, .ro, .soft, .const 0⟩
def DIR_LOST_LINES : Fld := ⟨127, 61, 0, 23, .ro, .soft, .const 0⟩
def DIR_EVICT_COUNT : Fld := ⟨128, 62, 0, 48, .ro, .soft, .const 0⟩
def DIR_LOSTLOG_VALID : Fld := ⟨129, 63, 0, 1, .rw1c, .cold, .const 0⟩
def DIR_LOSTLOG_SITE : Fld := ⟨130, 63, 1, 3, .ro, .cold, .const 0⟩
def DIR_LOSTLOG_LINE : Fld := ⟨131, 63, 4, 38, .ro, .cold, .const 0⟩
def DIR_LOSTLOG_KIND : Fld := ⟨132, 63, 42, 1, .ro, .cold, .const 0⟩
def COH_SITE_SNOOPS : Fld := ⟨133, 64, 0, 32, .ro, .soft, .const 0⟩
def COH_SITE_LOST : Fld := ⟨134, 64, 32, 32, .ro, .soft, .const 0⟩
def SITE_CTL_RESET : Fld := ⟨135, 65, 0, 1, .wo, .fixed, .const 0⟩
def SITE_CTL_FENCE : Fld := ⟨136, 65, 1, 1, .wo, .fixed, .const 0⟩
def SITE_CTL_ENABLE : Fld := ⟨137, 65, 2, 1, .rwl, .soft, .const 1⟩
def SITE_STATUS_STATE : Fld := ⟨138, 66, 0, 3, .ro, .site, .const 0⟩
def SITE_STATUS_GANGED : Fld := ⟨139, 66, 3, 1, .ro, .soft, .const 0⟩
def SITE_STATUS_MOD_OK : Fld := ⟨140, 66, 4, 4, .ro, .site, .const 0⟩
def SITE_STATUS_MOD_X8 : Fld := ⟨141, 66, 8, 4, .ro, .site, .const 0⟩
def SITE_STATUS_RATE32 : Fld := ⟨142, 66, 12, 1, .ro, .site, .const 0⟩
def SITE_STATUS_ATTESTED : Fld := ⟨143, 66, 13, 1, .ro, .site, .const 0⟩
def SITE_CFG_PERSONALITY : Fld := ⟨144, 67, 0, 1, .rwl, .soft, .const 0⟩
def SITE_CFG_GANG : Fld := ⟨145, 67, 1, 1, .rwl, .soft, .const 0⟩
def SITE_CFG_MAX_RATE : Fld := ⟨146, 67, 2, 1, .rwl, .soft, .const 1⟩
def SITE_CFG_ATTEST_REQ : Fld := ⟨147, 67, 3, 1, .rwl, .soft, .const 1⟩
def SITE_CFG_PARTITION : Fld := ⟨148, 67, 4, 4, .rwl, .soft, .const 0⟩
def SITE_CFG_QUIESCE_LIMIT : Fld := ⟨149, 67, 16, 16, .rwl, .soft, .const 1000⟩
def SITE_PWR_CAP : Fld := ⟨150, 68, 0, 16, .ro, .site, .const 0⟩
def SITE_PWR_MEASURED : Fld := ⟨151, 68, 16, 16, .ro, .site, .const 0⟩
def SITE_IDENT_RECORD : Fld := ⟨152, 69, 0, 64, .ro, .site, .const 0⟩
def SITE_CREDIT_FWD : Fld := ⟨153, 70, 0, 8, .ro, .site, .const 0⟩
def SITE_CREDIT_RSP : Fld := ⟨154, 70, 8, 8, .ro, .site, .const 0⟩
def SITE_CREDIT_DAT : Fld := ⟨155, 70, 16, 8, .ro, .site, .const 0⟩
def SITE_CREDIT_TIM : Fld := ⟨156, 70, 24, 8, .ro, .site, .const 0⟩
def SITE_EVENT_READY : Fld := ⟨157, 71, 0, 1, .rw1c, .soft, .const 0⟩
def SITE_EVENT_FENCED : Fld := ⟨158, 71, 1, 1, .rw1c, .soft, .const 0⟩
def SITE_EVENT_MODULE_LOST : Fld := ⟨159, 71, 2, 1, .rw1c, .soft, .const 0⟩
def SITE_EVENT_ATTEST_FAIL : Fld := ⟨160, 71, 3, 1, .rw1c, .soft, .const 0⟩
def SITE_EVENT_PROTOCOL : Fld := ⟨161, 71, 4, 1, .rw1c, .soft, .const 0⟩
def SITE_EVENT_MMIO_TIMEOUT : Fld := ⟨162, 71, 5, 1, .rw1c, .soft, .const 0⟩
def SITE_CXL_DB_ADDR : Fld := ⟨163, 72, 0, 64, .rwl, .soft, .const 0⟩
def SITE_MWIN_HDM_BASE : Fld := ⟨164, 73, 0, 40, .rwl, .soft, .const 0⟩
def SITE_MWIN_SIZE : Fld := ⟨165, 73, 40, 7, .rwl, .soft, .const 0⟩
def SITE_BOOT_ADDR : Fld := ⟨166, 74, 0, 44, .rwl, .soft, .const 0⟩
def SITE_BOOT_PAGES : Fld := ⟨167, 74, 44, 20, .rwl, .soft, .const 0⟩
def SITE_ERR_RETRIES : Fld := ⟨168, 75, 0, 16, .ro, .site, .const 0⟩
def SITE_ERR_MOD_LOSS : Fld := ⟨169, 75, 16, 16, .ro, .site, .const 0⟩
def SITE_ERR_MMIO_FAIL : Fld := ⟨170, 75, 32, 16, .ro, .soft, .const 0⟩
def SITE_ERR_FENCES : Fld := ⟨171, 75, 48, 16, .ro, .soft, .const 0⟩
def MESH_CTL_GATE_EN : Fld := ⟨172, 76, 0, 1, .rw, .soft, .const 1⟩
def MESH_CTL_GATE_IDLE : Fld := ⟨173, 76, 8, 8, .rw, .soft, .const 16⟩
def MESH_STATUS_FLIT_CE : Fld := ⟨174, 77, 0, 16, .ro, .soft, .const 0⟩
def MESH_STATUS_FLIT_UE : Fld := ⟨175, 77, 16, 16, .ro, .soft, .const 0⟩
def TMO_ONDIE_US : Fld := ⟨176, 78, 0, 10, .rwl, .soft, .const 20⟩
def TMO_SITE_US : Fld := ⟨177, 79, 0, 14, .rwl, .soft, .const 200⟩
def TMO_SYREL_MS : Fld := ⟨178, 80, 0, 7, .rwl, .soft, .const 5⟩
def TMO_HOST_US : Fld := ⟨179, 81, 0, 32, .ro, .flr, .const 50000⟩
def TMO_LOG_VALID : Fld := ⟨180, 82, 0, 1, .rw1c, .cold, .const 0⟩
def TMO_LOG_CLASS : Fld := ⟨181, 82, 1, 2, .ro, .cold, .const 0⟩
def TMO_LOG_PORT : Fld := ⟨182, 82, 3, 7, .ro, .cold, .const 0⟩
def TMO_LOG_TAG : Fld := ⟨183, 82, 10, 12, .ro, .cold, .const 0⟩
def TMO_LOG_FUNCTION : Fld := ⟨184, 82, 22, 6, .ro, .cold, .const 0⟩
def TMO_LOG_AT : Fld := ⟨185, 82, 32, 32, .ro, .cold, .const 0⟩
def TMO_COUNT_TIMEOUTS : Fld := ⟨186, 83, 0, 32, .ro, .soft, .const 0⟩
def TMO_COUNT_LATE_DROP : Fld := ⟨187, 83, 32, 32, .ro, .soft, .const 0⟩
def REG_CTL_STATIC : Fld := ⟨188, 84, 0, 1, .rw, .soft, .const 0⟩
def REG_STATUS_STATIC_ACTIVE : Fld := ⟨189, 85, 0, 1, .ro, .soft, .const 0⟩
def REG_STATUS_OVERSUB : Fld := ⟨190, 85, 1, 1, .ro, .soft, .const 0⟩
def REG_STATUS_STATIC_REFUSED : Fld := ⟨191, 85, 2, 1, .rw1c, .soft, .const 0⟩
def REG_STATUS_SHARE_SUM : Fld := ⟨192, 85, 3, 16, .ro, .soft, .const 0⟩
def REG_STATIC_CLASS_MASK : Fld := ⟨193, 86, 0, 32, .rwl, .soft, .const 0xC000_0001⟩
def REG_PORT_CLASS : Fld := ⟨194, 87, 0, 5, .rwl, .soft, .portClass⟩
def REG_PORT_FOLLOW_FUNC : Fld := ⟨195, 87, 5, 1, .rwl, .soft, .portFollow⟩
def REG_FUNC_CLASS : Fld := ⟨196, 88, 0, 5, .rwl, .soft, .const 0⟩
def REG_CLASS_SLICE_OT : Fld := ⟨197, 89, 0, 8, .rwl, .soft, .const 64⟩
def REG_CLASS_MEM_OT : Fld := ⟨198, 89, 8, 8, .rwl, .soft, .const 64⟩
def REG_CLASS_BW_SHARE : Fld := ⟨199, 89, 16, 11, .rwl, .soft, .shareZero⟩
def REG_CLASS_DL_OFFSET : Fld := ⟨200, 89, 32, 32, .rwl, .soft, .const 0⟩
def SYR_CTL_JOIN : Fld := ⟨201, 90, 0, 3, .wo, .fixed, .const 0⟩
def SYR_CTL_FENCE : Fld := ⟨202, 90, 3, 1, .wo, .fixed, .const 0⟩
def SYR_STATUS_ALIVE : Fld := ⟨203, 91, 0, 3, .ro, .soft, .const 0⟩
def SYR_STATUS_FENCED : Fld := ⟨204, 91, 3, 1, .ro, .soft, .const 1⟩
def SYR_STATUS_CLK_OK : Fld := ⟨205, 91, 4, 1, .ro, .soft, .const 0⟩
def SYR_STATUS_DIR_DOWN : Fld := ⟨206, 91, 5, 6, .ro, .soft, .const 0⟩
def SYR_STATUS_TWIN_UP : Fld := ⟨207, 91, 11, 1, .ro, .soft, .const 0⟩
def SYR_EVENT_PORT_DOWN : Fld := ⟨208, 92, 0, 1, .rw1c, .soft, .const 0⟩
def SYR_EVENT_PARTNER_CHANGE : Fld := ⟨209, 92, 1, 1, .rw1c, .soft, .const 0⟩
def SYR_EVENT_MISWIRED : Fld := ⟨210, 92, 2, 1, .rw1c, .soft, .const 0⟩
def SYR_EVENT_TWIN_LOST : Fld := ⟨211, 92, 3, 1, .rw1c, .soft, .const 0⟩
def SYR_EVENT_MIRROR_BROKEN : Fld := ⟨212, 92, 4, 1, .rw1c, .soft, .const 0⟩
def SYR_EVENT_MC_DROP : Fld := ⟨213, 92, 5, 1, .rw1c, .soft, .const 0⟩
def SYR_EVENT_COLL_FAIL : Fld := ⟨214, 92, 6, 1, .rw1c, .soft, .const 0⟩
def SYR_EVENT_HOLD_EXPIRED : Fld := ⟨215, 92, 7, 1, .rw1c, .soft, .const 0⟩
def SYR_EVENT_AUTH_FAIL : Fld := ⟨216, 92, 8, 1, .rw1c, .soft, .const 0⟩
def SYR_HOLD_US : Fld := ⟨217, 93, 0, 16, .rwl, .soft, .const 3000⟩
def CP_CTL_LAG_MS : Fld := ⟨218, 94, 0, 16, .rwl, .soft, .const 10⟩
def CP_CTL_DEAD_MS : Fld := ⟨219, 94, 16, 16, .rwl, .soft, .const 5⟩
def CP_STATUS_MIRRORED : Fld := ⟨220, 95, 0, 19, .ro, .soft, .const 0⟩
def SYR_PORT_LANES : Fld := ⟨221, 96, 0, 3, .ro, .soft, .const 0⟩
def SYR_PORT_UP : Fld := ⟨222, 96, 3, 1, .ro, .soft, .const 0⟩
def SYR_PORT_DATELINE : Fld := ⟨223, 96, 4, 1, .ro, .soft, .const 0⟩
def SYR_PORT_SECURE : Fld := ⟨224, 96, 5, 1, .rwl, .soft, .const 0⟩
def SYR_PORT_MISWIRED : Fld := ⟨225, 96, 6, 1, .ro, .soft, .const 0⟩
def SYR_PORT_LPI : Fld := ⟨226, 96, 7, 1, .ro, .soft, .const 0⟩
def SYR_PORT_PARTNER_HUB : Fld := ⟨227, 96, 8, 12, .ro, .soft, .const 0⟩
def SYR_PORT_PARTNER_TWIN : Fld := ⟨228, 96, 20, 1, .ro, .soft, .const 0⟩
def SYR_PORT_PARTNER_PORT : Fld := ⟨229, 96, 21, 5, .ro, .soft, .const 0⟩
def SYR_PORT_PARTNER_VALID : Fld := ⟨230, 96, 26, 1, .ro, .soft, .const 0⟩
def SYR_PORT_DELAY : Fld := ⟨231, 96, 32, 16, .ro, .soft, .const 0⟩
def SYR_PERR_FEC_CORR : Fld := ⟨232, 97, 0, 16, .ro, .soft, .const 0⟩
def SYR_PERR_REPLAYS : Fld := ⟨233, 97, 16, 16, .ro, .soft, .const 0⟩
def SYR_PERR_DOWNS : Fld := ⟨234, 97, 32, 16, .ro, .soft, .const 0⟩
def SYR_PERR_AUTH_FAIL : Fld := ⟨235, 97, 48, 16, .ro, .soft, .const 0⟩
def SYR_FWIN_VALID : Fld := ⟨236, 98, 0, 1, .rwl, .soft, .const 0⟩
def SYR_FWIN_TWIN : Fld := ⟨237, 98, 1, 1, .rwl, .soft, .const 0⟩
def SYR_FWIN_HUB : Fld := ⟨238, 98, 2, 12, .rwl, .soft, .const 0⟩
def SYR_FWIN_FUNCTION : Fld := ⟨239, 98, 14, 6, .rwl, .soft, .const 0⟩
def SYR_FWIN_BASE_HI : Fld := ⟨240, 98, 20, 6, .rwl, .soft, .const 0⟩
def MC_GROUP_OUT_DIRS : Fld := ⟨241, 99, 0, 6, .ro, .soft, .const 0⟩
def MC_GROUP_OUT_TWIN : Fld := ⟨242, 99, 6, 1, .ro, .soft, .const 0⟩
def MC_GROUP_LOCAL : Fld := ⟨243, 99, 7, 1, .ro, .soft, .const 0⟩
def MC_GROUP_VALID : Fld := ⟨244, 99, 31, 1, .ro, .soft, .const 0⟩
def COLL_STAT_STATUS : Fld := ⟨245, 100, 0, 4, .ro, .soft, .const 0⟩
def COLL_STAT_RUNNING : Fld := ⟨246, 100, 4, 1, .ro, .soft, .const 0⟩
def COLL_STAT_VALID : Fld := ⟨247, 100, 5, 1, .ro, .soft, .const 0⟩
def COLL_STAT_FUNCTION : Fld := ⟨248, 100, 6, 6, .ro, .soft, .const 0⟩
def COLL_STAT_LAST_SEQ : Fld := ⟨249, 100, 32, 32, .ro, .soft, .const 0⟩
def SYR_ROUTE_VALID : Fld := ⟨250, 101, 0, 1, .ro, .soft, .const 0⟩
def SYR_ROUTE_VIA_EN : Fld := ⟨251, 101, 1, 1, .ro, .soft, .const 0⟩
def SYR_ROUTE_VIA_HUB : Fld := ⟨252, 101, 2, 12, .ro, .soft, .const 0⟩
def HOST_CTL_WATCH_EN : Fld := ⟨253, 102, 0, 1, .rwl, .soft, .const 1⟩
def HOST_STATUS_RATE : Fld := ⟨254, 103, 0, 3, .ro, .warm, .const 0⟩
def HOST_STATUS_WIDTH : Fld := ⟨255, 103, 3, 5, .ro, .warm, .const 0⟩
def HOST_STATUS_FLIT : Fld := ⟨256, 103, 8, 1, .ro, .warm, .const 0⟩
def HOST_STATUS_CXL_CACHE : Fld := ⟨257, 103, 9, 1, .ro, .warm, .const 0⟩
def HOST_STATUS_CXL_MEM : Fld := ⟨258, 103, 10, 1, .ro, .warm, .const 0⟩
def HOST_WATCH_USED : Fld := ⟨259, 104, 0, 13, .ro, .soft, .const 0⟩
def HOST_APERTURE_BASE_GIB : Fld := ⟨260, 105, 0, 14, .rwl, .soft, .const 0⟩
def HOST_APERTURE_SIZE_GIB : Fld := ⟨261, 105, 14, 10, .rwl, .soft, .const 0⟩
def HOST_APERTURE_FUNCTION : Fld := ⟨262, 105, 24, 6, .rwl, .soft, .const 0⟩
def HOST_APERTURE_ENABLE : Fld := ⟨263, 105, 31, 1, .rwl, .soft, .const 0⟩
def HOST_HDM_BASE_GIB : Fld := ⟨264, 106, 0, 14, .rwl, .soft, .const 0⟩
def HOST_HDM_EXTENTS : Fld := ⟨265, 106, 14, 11, .rwl, .soft, .const 0⟩
def HOST_HDM_COMMITTED : Fld := ⟨266, 106, 31, 1, .ro, .soft, .const 0⟩
def HOST_ERRLOG_VALID : Fld := ⟨267, 107, 0, 1, .rw1c, .cold, .const 0⟩
def HOST_ERRLOG_KIND : Fld := ⟨268, 107, 1, 3, .ro, .cold, .const 0⟩
def HOST_ERRLOG_FUNCTION : Fld := ⟨269, 107, 4, 6, .ro, .cold, .const 0⟩
def HOST_ERRLOG_BAR : Fld := ⟨270, 107, 10, 3, .ro, .cold, .const 0⟩
def HOST_ERRLOG_OFFSET : Fld := ⟨271, 107, 24, 40, .ro, .cold, .const 0⟩
def HOST_COUNT_UR : Fld := ⟨272, 108, 0, 16, .ro, .soft, .const 0⟩
def HOST_COUNT_CA : Fld := ⟨273, 108, 16, 16, .ro, .soft, .const 0⟩
def HOST_COUNT_POISON : Fld := ⟨274, 108, 32, 16, .ro, .soft, .const 0⟩
def HOST_COUNT_LINK_DOWN : Fld := ⟨275, 108, 48, 16, .ro, .soft, .const 0⟩
def TEN_STATUS_FUNCTION : Fld := ⟨276, 109, 0, 6, .ro, .fixed, .index⟩
def TEN_STATUS_READY : Fld := ⟨277, 109, 6, 1, .ro, .soft, .const 0⟩
def TEN_STATUS_TDI_RUN : Fld := ⟨278, 109, 7, 1, .ro, .flr, .const 0⟩
def DS_CTL_AUTO_ON : Fld := ⟨279, 110, 0, 1, .rwl, .soft, .const 1⟩
def DS_CTL_POWER_ON : Fld := ⟨280, 110, 1, 1, .wo, .fixed, .const 0⟩
def DS_CTL_REMOVE : Fld := ⟨281, 110, 2, 1, .wo, .fixed, .const 0⟩
def DS_CTL_CLEAR : Fld := ⟨282, 110, 3, 1, .wo, .fixed, .const 0⟩
def DS_CTL_ATTEST_REQ : Fld := ⟨283, 110, 4, 1, .rwl, .soft, .const 0⟩
def DS_CTL_ATTN_LED : Fld := ⟨284, 110, 5, 2, .rw, .soft, .const 0⟩
def DS_STATUS_STATE : Fld := ⟨285, 111, 0, 3, .ro, .soft, .const 0⟩
def DS_STATUS_PRESENT : Fld := ⟨286, 111, 3, 1, .ro, .soft, .const 0⟩
def DS_STATUS_POWERED : Fld := ⟨287, 111, 4, 1, .ro, .soft, .const 0⟩
def DS_STATUS_RATE : Fld := ⟨288, 111, 5, 3, .ro, .soft, .const 0⟩
def DS_STATUS_WIDTH : Fld := ⟨289, 111, 8, 3, .ro, .soft, .const 0⟩
def DS_STATUS_CXL : Fld := ⟨290, 111, 11, 1, .ro, .soft, .const 0⟩
def DS_STATUS_ATTESTED : Fld := ⟨291, 111, 12, 1, .ro, .soft, .const 0⟩
def DS_EVENT_INSERTED : Fld := ⟨292, 112, 0, 1, .rw1c, .soft, .const 0⟩
def DS_EVENT_READY : Fld := ⟨293, 112, 1, 1, .rw1c, .soft, .const 0⟩
def DS_EVENT_BUTTON : Fld := ⟨294, 112, 2, 1, .rw1c, .soft, .const 0⟩
def DS_EVENT_REMOVED : Fld := ⟨295, 112, 3, 1, .rw1c, .soft, .const 0⟩
def DS_EVENT_SURPRISE : Fld := ⟨296, 112, 4, 1, .rw1c, .soft, .const 0⟩
def DS_EVENT_POWER_FAULT : Fld := ⟨297, 112, 5, 1, .rw1c, .soft, .const 0⟩
def DS_EVENT_UNSUPPORTED_DEV : Fld := ⟨298, 112, 6, 1, .rw1c, .soft, .const 0⟩
def DS_EVENT_ATTEST_FAIL : Fld := ⟨299, 112, 7, 1, .rw1c, .soft, .const 0⟩
def DS_DEV_VENDOR : Fld := ⟨300, 113, 0, 16, .ro, .soft, .const 0⟩
def DS_DEV_DEVICE : Fld := ⟨301, 113, 16, 16, .ro, .soft, .const 0⟩
def DS_DEV_CLASS : Fld := ⟨302, 113, 32, 24, .ro, .soft, .const 0⟩
def DS_ASSIGN_VALID : Fld := ⟨303, 114, 0, 1, .rw, .soft, .const 0⟩
def DS_ASSIGN_PORT : Fld := ⟨304, 114, 1, 2, .rw, .soft, .const 0⟩
def DS_ASSIGN_KIND : Fld := ⟨305, 114, 3, 1, .rw, .soft, .const 0⟩
def DS_ASSIGN_FUNCTION : Fld := ⟨306, 114, 4, 6, .rw, .soft, .const 0⟩
def DS_ASSIGN_NSID : Fld := ⟨307, 114, 32, 32, .rw, .soft, .const 0⟩
def RING_FN_CTL_CAL_CQ : Fld := ⟨308, 115, 0, 7, .rw, .flr, .const 0⟩
def RING_FN_CTL_CAL_EN : Fld := ⟨309, 115, 7, 1, .rw, .flr, .const 0⟩
def RING_FN_CTL_EVENT_CQ : Fld := ⟨310, 115, 8, 7, .rw, .flr, .const 0⟩
def RING_FN_CTL_EVENT_EN : Fld := ⟨311, 115, 15, 1, .rw, .flr, .const 0⟩
def RING_FN_STATUS_RUNNING : Fld := ⟨312, 116, 0, 8, .ro, .flr, .const 0⟩
def RING_FN_STATUS_WATCHED : Fld := ⟨313, 116, 8, 13, .ro, .flr, .const 0⟩
def RING_FN_COUNT_EVENT_DROP : Fld := ⟨314, 117, 0, 32, .ro, .flr, .const 0⟩
def RING_FN_COUNT_CAL_DROP : Fld := ⟨315, 117, 32, 16, .ro, .flr, .const 0⟩
def RING_FN_COUNT_CQ_LOST : Fld := ⟨316, 117, 48, 16, .ro, .flr, .const 0⟩
def RING_BASE_BASE : Fld := ⟨317, 118, 12, 52, .rw, .flr, .const 0⟩
def RING_DB_ADDR : Fld := ⟨318, 119, 6, 58, .rw, .flr, .const 0⟩
def RING_CFG_KIND : Fld := ⟨319, 120, 0, 1, .rw, .flr, .const 0⟩
def RING_CFG_SIZE_LOG2 : Fld := ⟨320, 120, 1, 5, .rw, .flr, .const 0⟩
def RING_CFG_MODE : Fld := ⟨321, 120, 6, 1, .rw, .flr, .const 0⟩
def RING_CFG_CAL_HELD : Fld := ⟨322, 120, 7, 1, .rw, .flr, .const 0⟩
def RING_CFG_CQ : Fld := ⟨323, 120, 8, 7, .rw, .flr, .const 0⟩
def RING_CFG_POLL_US : Fld := ⟨324, 120, 15, 16, .rw, .flr, .const 0⟩
def RING_PASID_PASID : Fld := ⟨325, 121, 0, 20, .rw, .flr, .const 0⟩
def RING_PASID_PASID_EN : Fld := ⟨326, 121, 20, 1, .rw, .flr, .const 0⟩
def RING_EPOCH_EPOCH : Fld := ⟨327, 122, 0, 32, .rw, .flr, .const 0⟩
def RING_CTL_ENABLE : Fld := ⟨328, 123, 0, 1, .rw, .flr, .const 0⟩
def RING_STATUS_STATE : Fld := ⟨329, 124, 0, 3, .ro, .flr, .const 0⟩
def RING_STATUS_CAUSE : Fld := ⟨330, 124, 3, 3, .ro, .flr, .const 0⟩
def RING_STATUS_FAIL_STATUS : Fld := ⟨331, 124, 6, 4, .ro, .flr, .const 0⟩
def RING_STATUS_WATCHED : Fld := ⟨332, 124, 10, 1, .ro, .flr, .const 0⟩
def RING_STATUS_INFLIGHT : Fld := ⟨333, 124, 11, 16, .ro, .flr, .const 0⟩
def RING_MOD_VECTOR : Fld := ⟨334, 125, 0, 11, .rw, .flr, .const 0⟩
def RING_MOD_IRQ_EN : Fld := ⟨335, 125, 11, 1, .rw, .flr, .const 0⟩
def RING_MOD_MOD_COUNT : Fld := ⟨336, 125, 12, 8, .rw, .flr, .const 1⟩
def RING_MOD_MOD_US : Fld := ⟨337, 125, 20, 12, .rw, .flr, .const 0⟩
def RING_IDX_NEXT : Fld := ⟨338, 126, 0, 32, .rw, .flr, .const 0⟩
def RING_IDX_RELEASE : Fld := ⟨339, 126, 32, 32, .rw, .flr, .const 0⟩
def TRN_CTL_GATHER_US : Fld := ⟨340, 127, 0, 8, .rwl, .soft, .const 2⟩
def TRN_CTL_GROUP_MAX : Fld := ⟨341, 127, 8, 6, .rwl, .soft, .const 32⟩
def TRN_CTL_SHARED_PART : Fld := ⟨342, 127, 14, 1, .rwl, .soft, .const 0⟩
def TRN_STATUS_PRI_OUT : Fld := ⟨343, 128, 0, 12, .ro, .soft, .const 0⟩
def TRN_STATUS_PARKED : Fld := ⟨344, 128, 12, 11, .ro, .soft, .const 0⟩
def TRN_STATUS_INVAL : Fld := ⟨345, 128, 23, 6, .ro, .soft, .const 0⟩
def TRN_COUNT_REFUSED : Fld := ⟨346, 129, 0, 16, .ro, .soft, .const 0⟩
def TRN_COUNT_PRG_TIMEOUT : Fld := ⟨347, 129, 16, 16, .ro, .soft, .const 0⟩
def TRN_COUNT_DRAIN_ABANDON : Fld := ⟨348, 129, 32, 16, .ro, .soft, .const 0⟩
def TRN_COUNT_INVALIDATIONS : Fld := ⟨349, 129, 48, 16, .ro, .soft, .const 0⟩
def TRN_LOG_VALID : Fld := ⟨350, 130, 0, 1, .rw1c, .cold, .const 0⟩
def TRN_LOG_FUNCTION : Fld := ⟨351, 130, 1, 6, .ro, .cold, .const 0⟩
def TRN_LOG_PASID : Fld := ⟨352, 130, 7, 20, .ro, .cold, .const 0⟩
def TRN_LOG_PASID_EN : Fld := ⟨353, 130, 27, 1, .ro, .cold, .const 0⟩
def TRN_LOG_KIND : Fld := ⟨354, 130, 28, 2, .ro, .cold, .const 0⟩
def TRN_LOG_AT : Fld := ⟨355, 130, 32, 32, .ro, .cold, .const 0⟩
def TRN_LOG_VA_PAGE : Fld := ⟨356, 131, 12, 52, .ro, .cold, .const 0⟩
def MBX_CTL_OPCODE : Fld := ⟨357, 132, 0, 8, .wo, .fixed, .const 0⟩
def MBX_CTL_GO : Fld := ⟨358, 132, 8, 1, .wo, .fixed, .const 0⟩
def MBX_STATUS_BUSY : Fld := ⟨359, 133, 0, 1, .ro, .rtp, .const 0⟩
def MBX_STATUS_STATUS : Fld := ⟨360, 133, 1, 4, .ro, .rtp, .const 0⟩
def MBX_STATUS_OPCODE : Fld := ⟨361, 133, 8, 8, .ro, .rtp, .const 0⟩
def MBX_STATUS_RESULT : Fld := ⟨362, 133, 16, 16, .ro, .rtp, .const 0⟩
def SEC_STATUS_CONFIDENTIAL : Fld := ⟨363, 134, 0, 1, .ro, .soft, .const 0⟩
def SEC_STATUS_CONF_PENDING : Fld := ⟨364, 134, 1, 1, .ro, .soft, .const 0⟩
def SEC_STATUS_FIPS_ERROR : Fld := ⟨365, 134, 2, 1, .ro, .rtp, .const 0⟩
def SEC_STATUS_SELFTEST_OK : Fld := ⟨366, 134, 3, 1, .ro, .rtp, .const 0⟩
def SEC_STATUS_BURNISHING : Fld := ⟨367, 134, 4, 1, .ro, .soft, .const 0⟩
def SEC_STATUS_PARTITIONS : Fld := ⟨368, 134, 5, 5, .ro, .soft, .const 0⟩
def SEC_COUNT_BURNISHED : Fld := ⟨369, 135, 0, 32, .ro, .cold, .const 0⟩
def SEC_COUNT_SELFTEST_FAIL : Fld := ⟨370, 135, 32, 16, .ro, .cold, .const 0⟩
def SEC_COUNT_ZEROIZE : Fld := ⟨371, 135, 48, 16, .ro, .cold, .const 0⟩
def KEYSLOT_ACTIVE : Fld := ⟨372, 136, 0, 32, .ro, .soft, .const 0⟩
def TGRP_PARTITION : Fld := ⟨373, 137, 0, 4, .ro, .soft, .const 0⟩
def TGRP_VALID : Fld := ⟨374, 137, 4, 1, .ro, .soft, .const 0⟩
def PART_CFG_OWNER : Fld := ⟨375, 138, 0, 6, .ro, .soft, .const 0⟩
def PART_CFG_VALID : Fld := ⟨376, 138, 6, 1, .ro, .soft, .const 0⟩
def FUNC_CFG_PARTITION : Fld := ⟨377, 139, 0, 4, .ro, .soft, .const 0⟩
def FUNC_CFG_BOUND : Fld := ⟨378, 139, 4, 1, .ro, .soft, .const 0⟩
def FUNC_CFG_TDI : Fld := ⟨379, 139, 5, 2, .ro, .flr, .const 0⟩
def MBX_DATA_DATA : Fld := ⟨380, 140, 0, 32, .rw, .rtp, .const 0⟩
def EXT_KIND : Fld := ⟨381, 141, 0, 2, .ro, .cold, .const 0⟩
def EXT_FUNCTION : Fld := ⟨382, 141, 2, 6, .ro, .cold, .const 0⟩
def EXT_KEY_EN : Fld := ⟨383, 141, 8, 1, .ro, .cold, .const 0⟩
def EXT_REMOTE : Fld := ⟨384, 141, 9, 1, .ro, .cold, .const 0⟩
def EXT_SITE_OK : Fld := ⟨385, 141, 10, 1, .ro, .cold, .const 0⟩
def EXT_BURNISH : Fld := ⟨386, 141, 11, 1, .ro, .cold, .const 0⟩
def LC_STATUS_STATE : Fld := ⟨387, 142, 0, 3, .ro, .fuse, .fuse⟩
def LC_STATUS_COMPAT : Fld := ⟨388, 142, 3, 1, .ro, .fuse, .fuse⟩
def LC_STATUS_GROUPS : Fld := ⟨389, 142, 4, 8, .ro, .cold, .const 0⟩
def LC_STATUS_TARGET : Fld := ⟨390, 142, 12, 3, .ro, .cold, .const 0⟩
def LC_STATUS_PENDING : Fld := ⟨391, 142, 15, 1, .ro, .cold, .const 0⟩
def LC_STATUS_LCB : Fld := ⟨392, 142, 16, 8, .ro, .fuse, .fuse⟩
def LC_DEBUG_LEVEL : Fld := ⟨393, 143, 0, 2, .ro, .rtp, .debugLevel⟩
def LC_DEBUG_SOURCE : Fld := ⟨394, 143, 2, 2, .ro, .rtp, .debugSource⟩
def LC_COUNT_TOKEN_FAIL : Fld := ⟨395, 144, 0, 16, .ro, .cold, .const 0⟩
def LC_COUNT_DEBUG_GRANTS : Fld := ⟨396, 144, 16, 16, .ro, .cold, .const 0⟩
def HUB_RST_SOFT : Fld := ⟨397, 145, 0, 1, .wo, .fixed, .const 0⟩
def HUB_RST_PARTIAL : Fld := ⟨398, 145, 1, 1, .wo, .fixed, .const 0⟩
def HUB_BOOT_LAST : Fld := ⟨399, 146, 0, 2, .ro, .soft, .const 0⟩
def HUB_BOOT_CFG_BANK : Fld := ⟨400, 146, 2, 1, .ro, .soft, .const 0⟩
def HUB_BOOT_CFG_NONE : Fld := ⟨401, 146, 3, 1, .ro, .soft, .const 0⟩
def HUB_BOOT_FALLBACK : Fld := ⟨402, 146, 4, 3, .ro, .soft, .const 0⟩
def HUB_BOOT_PARTIALS : Fld := ⟨403, 146, 16, 16, .ro, .soft, .const 0⟩
def HUB_BOOT_READY_MS : Fld := ⟨404, 146, 32, 32, .ro, .soft, .const 0⟩
def FW_ACTIVE_VERSION : Fld := ⟨405, 147, 0, 32, .ro, .cold, .const 0⟩
def FW_STAGE_STATE : Fld := ⟨406, 148, 0, 2, .ro, .cold, .const 0⟩
def FW_STAGE_ACTIVE_BANK : Fld := ⟨407, 148, 2, 1, .ro, .cold, .const 0⟩
def FW_STAGE_MISSING : Fld := ⟨408, 148, 3, 15, .ro, .cold, .const 0⟩
def FW_STAGE_VERSION : Fld := ⟨409, 148, 32, 32, .ro, .cold, .const 0⟩
def PWR_CTL_H1_AUTO : Fld := ⟨410, 149, 0, 1, .rwl, .soft, .const 0⟩
def PWR_CTL_H1_IDLE_US : Fld := ⟨411, 149, 4, 12, .rwl, .soft, .const 100⟩
def PWR_CTL_GUARD_US : Fld := ⟨412, 149, 16, 16, .rwl, .soft, .const 100⟩
def PWR_STATUS_STATE : Fld := ⟨413, 150, 0, 2, .ro, .soft, .const 0⟩
def PWR_STATUS_ENTERING : Fld := ⟨414, 150, 2, 1, .ro, .soft, .const 0⟩
def PWR_STATUS_POINT : Fld := ⟨415, 150, 3, 2, .ro, .soft, .const 0⟩
def PWR_STATUS_STRETCH : Fld := ⟨416, 150, 5, 1, .ro, .soft, .const 0⟩
def PWR_STATUS_PROCHOT_IN : Fld := ⟨417, 150, 6, 1, .ro, .soft, .const 0⟩
def PWR_STATUS_PROCHOT_OUT : Fld := ⟨418, 150, 7, 1, .ro, .soft, .const 0⟩
def PWR_STATUS_LEVEL : Fld := ⟨419, 150, 8, 2, .ro, .soft, .const 0⟩
def PWR_STATUS_RAIL_FAULT : Fld := ⟨420, 150, 10, 1, .ro, .soft, .const 0⟩
def PWR_CAP_PKG_CAP : Fld := ⟨421, 151, 0, 16, .ro, .soft, .const 3600⟩
def PWR_CAP_HUB_CAP : Fld := ⟨422, 151, 16, 16, .ro, .soft, .tdp⟩
def PWR_MEAS_PKG_W : Fld := ⟨423, 152, 0, 16, .ro, .soft, .const 0⟩
def PWR_MEAS_HUB_W : Fld := ⟨424, 152, 16, 16, .ro, .soft, .const 0⟩
def PWR_LAST_TARGET : Fld := ⟨425, 153, 0, 2, .ro, .soft, .const 0⟩
def PWR_LAST_OUTCOME : Fld := ⟨426, 153, 2, 2, .ro, .soft, .const 0⟩
def PWR_LAST_CAUSE : Fld := ⟨427, 153, 4, 8, .ro, .soft, .const 0⟩
def PWR_LAST_INDEX : Fld := ⟨428, 153, 12, 16, .ro, .soft, .const 0⟩
def PWR_LAST_AT : Fld := ⟨429, 153, 32, 32, .ro, .soft, .const 0⟩
def PWR_DIP_COUNT : Fld := ⟨430, 154, 0, 16, .ro, .cold, .const 0⟩
def PWR_DIP_LONGEST : Fld := ⟨431, 154, 16, 32, .ro, .cold, .const 0⟩
def PWR_THERM_LIMIT : Fld := ⟨432, 155, 0, 7, .rwl, .soft, .const 100⟩
def PWR_THERM_HOTTEST : Fld := ⟨433, 155, 8, 8, .ro, .soft, .const 0⟩
def PWR_GROUP_ENABLE : Fld := ⟨434, 156, 0, 1, .ro, .soft, .const 0⟩
def PWR_GROUP_LEADER : Fld := ⟨435, 156, 1, 12, .ro, .soft, .const 0⟩
def PWR_GROUP_MEMBERS : Fld := ⟨436, 156, 13, 13, .ro, .soft, .const 0⟩
def PWR_GROUP_FUNCTION : Fld := ⟨437, 156, 26, 6, .ro, .soft, .const 0⟩
def PWR_GROUP_CAP_MIN : Fld := ⟨438, 156, 32, 16, .ro, .soft, .const 0⟩
def PWR_GROUP_SHIFT_W : Fld := ⟨439, 156, 48, 16, .ro, .soft, .const 0⟩
def PKG_ENERGY_UJ : Fld := ⟨440, 157, 0, 64, .ro, .soft, .const 0⟩
def PWR_VT_MV : Fld := ⟨441, 158, 0, 12, .ro, .fuse, .fuse⟩
def PWR_RAIL_AVS_SEL : Fld := ⟨442, 159, 0, 4, .rwl, .soft, .index⟩
def PWR_RAIL_SET_MV : Fld := ⟨443, 159, 4, 12, .ro, .soft, .const 0⟩
def PWR_RAIL_READ_MV : Fld := ⟨444, 159, 16, 12, .ro, .soft, .const 0⟩
def PWR_RAIL_FAULT : Fld := ⟨445, 159, 28, 1, .rw1c, .soft, .const 0⟩
def PWR_CAUSE_COUNT : Fld := ⟨446, 160, 0, 16, .ro, .soft, .const 0⟩
def PWR_ENERGY_UJ : Fld := ⟨447, 161, 0, 64, .ro, .flr, .const 0⟩
def CYC_COUNT : Fld := ⟨448, 162, 0, 64, .ro, .unit, .const 0⟩
def CNT_COUNT : Fld := ⟨449, 163, 0, 48, .rw, .unit, .const 0⟩
def CNT_SEL_EVENT : Fld := ⟨450, 164, 0, 8, .rw, .unit, .const 0⟩
def CNT_SEL_FUNC : Fld := ⟨451, 164, 8, 6, .rw, .unit, .const 0⟩
def CNT_SEL_FUNC_EN : Fld := ⟨452, 164, 14, 1, .rw, .unit, .const 0⟩
def CNT_SEL_CHAIN : Fld := ⟨453, 164, 15, 1, .rw, .unit, .const 0⟩
def CNT_SEL_OVF_IRQ : Fld := ⟨454, 164, 16, 1, .rw, .unit, .const 0⟩
def CNT_OWN_FUNCTION : Fld := ⟨455, 165, 0, 6, .rw, .soft, .const 0⟩
def CNT_OWN_USER_RD : Fld := ⟨456, 165, 6, 1, .rw, .soft, .const 0⟩
def CNT_OWN_VECTOR : Fld := ⟨457, 165, 7, 11, .rw, .soft, .const 0⟩
def CNT_OVF_OVF : Fld := ⟨458, 166, 0, 8, .rw1c, .unit, .const 0⟩
def CNT_SAMPLE_PC : Fld := ⟨459, 167, 0, 12, .ro, .unit, .const 0⟩
def CNT_SAMPLE_OWNER : Fld := ⟨460, 167, 12, 6, .ro, .unit, .const 0⟩
def CNT_SAMPLE_COUNTER : Fld := ⟨461, 167, 18, 3, .ro, .unit, .const 0⟩
def CNT_SAMPLE_POS : Fld := ⟨462, 167, 32, 32, .ro, .unit, .const 0⟩
def CNT_CTL_FREEZE : Fld := ⟨463, 168, 0, 1, .rw, .soft, .const 0⟩
def CNT_SNAP_VALID : Fld := ⟨464, 169, 0, 1, .rw, .flr, .const 0⟩
def CNT_SNAP_PAGE_EN : Fld := ⟨465, 169, 1, 1, .rw, .flr, .const 0⟩
def CNT_SNAP_BASE : Fld := ⟨466, 169, 18, 26, .rw, .flr, .const 0⟩

def HUB_IDENT_blk : RegBlk := ⟨0, "HUB_IDENT", .pf, 0x0, 0, 1, 0, 1, 32, [HUB_IDENT_VARIANT, HUB_IDENT_STEPPING, HUB_IDENT_PART]⟩
def HUB_ID_blk : RegBlk := ⟨1, "HUB_ID", .pf, 0x8, 0, 1, 0, 1, 32, [HUB_ID_ID, HUB_ID_TWIN, HUB_ID_ID_VALID]⟩
def HUB_GLOBAL_blk : RegBlk := ⟨2, "HUB_GLOBAL", .pf, 0x10, 0, 1, 0, 1, 32, [HUB_GLOBAL_SETUP_LOCK, HUB_GLOBAL_READY, HUB_GLOBAL_DEGRADED]⟩
def HUB_RES_blk : RegBlk := ⟨3, "HUB_RES", .pf, 0x18, 0, 1, 0, 1, 32, [HUB_RES_TILES, HUB_RES_MEM_SITES, HUB_RES_CHIPLET_SITES, HUB_RES_SYREL_PORTS, HUB_RES_PARTITIONS]⟩
def DIE_SERIAL_blk : RegBlk := ⟨4, "DIE_SERIAL", .pf, 0x20, 0, 1, 0, 1, 64, [DIE_SERIAL_SERIAL]⟩
def TILE_MAP_blk : RegBlk := ⟨5, "TILE_MAP", .pf, 0x100, 0x4, 64, 0, 1, 32, [TILE_MAP_PTILE, TILE_MAP_VALID]⟩
def RULE_CTL_blk : RegBlk := ⟨6, "RULE_CTL", .pf, 0x100000, 0, 1, 0, 1, 32, [RULE_CTL_ROLE, RULE_CTL_PARENT_PORT, RULE_CTL_ALT_PORT, RULE_CTL_ALT_EN]⟩
def RULE_STATUS_blk : RegBlk := ⟨7, "RULE_STATUS", .pf, 0x100004, 0, 1, 0, 1, 32, [RULE_STATUS_STATE, RULE_STATUS_PARENT_USED, RULE_STATUS_PIN_REF_OK, RULE_STATUS_SEG_PENDING, RULE_STATUS_DEPTH]⟩
def RULE_POS_blk : RegBlk := ⟨8, "RULE_POS", .pf, 0x100008, 0, 1, 0, 1, 64, [RULE_POS_POS]⟩
def RULE_REFCNT_blk : RegBlk := ⟨9, "RULE_REFCNT", .pf, 0x100010, 0, 1, 0, 1, 64, [RULE_REFCNT_REFCNT]⟩
def RULE_SEG_blk : RegBlk := ⟨10, "RULE_SEG", .pf, 0x100018, 0, 1, 0, 1, 32, [RULE_SEG_KIND, RULE_SEG_RATE, RULE_SEG_SEQ]⟩
def RULE_OFFSET_blk : RegBlk := ⟨11, "RULE_OFFSET", .pf, 0x10001c, 0, 1, 0, 1, 32, [RULE_OFFSET_OFFSET, RULE_OFFSET_DELAY]⟩
def RULE_START_blk : RegBlk := ⟨12, "RULE_START", .pf, 0x100020, 0, 1, 0, 1, 64, [RULE_START_START]⟩
def RULE_PIN_DELAY_blk : RegBlk := ⟨13, "RULE_PIN_DELAY", .pf, 0x100028, 0, 1, 0, 1, 32, [RULE_PIN_DELAY_DELAY]⟩
def RULE_EVENT_blk : RegBlk := ⟨14, "RULE_EVENT", .pf, 0x10002c, 0, 1, 0, 1, 32, [RULE_EVENT_RULING_UNLOCKED, RULE_EVENT_RELOCKED, RULE_EVENT_PARENT_SWITCH, RULE_EVENT_SEG_APPLIED, RULE_EVENT_SEG_REFUSED, RULE_EVENT_STEP_SEEN, RULE_EVENT_PIN_FRAME_ERR, RULE_EVENT_RULE_REF_LOST]⟩
def CAL_CTL_blk : RegBlk := ⟨15, "CAL_CTL", .pf, 0x100030, 0, 1, 0, 1, 32, [CAL_CTL_ENABLE]⟩
def CAL_GATE_LIMIT_blk : RegBlk := ⟨16, "CAL_GATE_LIMIT", .pf, 0x100034, 0, 1, 0, 1, 32, [CAL_GATE_LIMIT_LIMIT]⟩
def CAL_STATUS_blk : RegBlk := ⟨17, "CAL_STATUS", .pf, 0x100038, 0, 1, 0, 1, 32, [CAL_STATUS_USED]⟩
def CAL_QUOTA_blk : RegBlk := ⟨18, "CAL_QUOTA", .pf, 0x100100, 0x4, 64, 0, 1, 32, [CAL_QUOTA_MAX]⟩
def CAL_LATE_blk : RegBlk := ⟨19, "CAL_LATE", .pf, 0x100200, 0x8, 64, 0, 1, 64, [CAL_LATE_COUNT, CAL_LATE_MAX_LATE]⟩
def ARRIVAL_blk : RegBlk := ⟨20, "ARRIVAL", .pf, 0x101000, 0x4, 1024, 0, 1, 32, [ARRIVAL_VALUE]⟩
def ARRIVAL_CFG_blk : RegBlk := ⟨21, "ARRIVAL_CFG", .pf, 0x102000, 0x4, 1024, 0, 1, 32, [ARRIVAL_CFG_FUNCTION, ARRIVAL_CFG_EN]⟩
def GRV_CTL_blk : RegBlk := ⟨22, "GRV_CTL", .pf, 0x400000, 0x8000, 64, 0, 1, 32, [GRV_CTL_DISPATCH_EN]⟩
def GRV_STATUS_blk : RegBlk := ⟨23, "GRV_STATUS", .pf, 0x400004, 0x8000, 64, 0, 1, 32, [GRV_STATUS_STATE, GRV_STATUS_PC, GRV_STATUS_OWNER]⟩
def GRV_FLAGS_blk : RegBlk := ⟨24, "GRV_FLAGS", .pf, 0x400008, 0x8000, 64, 0, 1, 32, [GRV_FLAGS_FLAGS]⟩
def GRV_LIMIT_blk : RegBlk := ⟨25, "GRV_LIMIT", .pf, 0x40000c, 0x8000, 64, 0, 1, 32, [GRV_LIMIT_LIMIT]⟩
def GRV_PROG_blk : RegBlk := ⟨26, "GRV_PROG", .pf, 0x400010, 0x8000, 64, 0, 1, 32, [GRV_PROG_BANK, GRV_PROG_CUSTOM_LOADED, GRV_PROG_CUSTOM_OWNER]⟩
def GRV_BUILTIN_VER_blk : RegBlk := ⟨27, "GRV_BUILTIN_VER", .pf, 0x400014, 0x8000, 64, 0, 1, 32, [GRV_BUILTIN_VER_VERSION]⟩
def GRV_LAUNCHES_blk : RegBlk := ⟨28, "GRV_LAUNCHES", .pf, 0x400018, 0x8000, 64, 0, 1, 32, [GRV_LAUNCHES_COUNT]⟩
def SES_CTL_blk : RegBlk := ⟨29, "SES_CTL", .pf, 0x600000, 0, 1, 0, 1, 32, [SES_CTL_ENABLE]⟩
def SES_STATUS_blk : RegBlk := ⟨30, "SES_STATUS", .pf, 0x600004, 0, 1, 0, 1, 32, [SES_STATUS_USED]⟩
def STR_STATUS_blk : RegBlk := ⟨31, "STR_STATUS", .pf, 0x600008, 0, 1, 0, 1, 32, [STR_STATUS_USED]⟩
def SES_QUOTA_blk : RegBlk := ⟨32, "SES_QUOTA", .pf, 0x600100, 0x4, 64, 0, 1, 32, [SES_QUOTA_MAX]⟩
def STR_QUOTA_blk : RegBlk := ⟨33, "STR_QUOTA", .pf, 0x600200, 0x4, 64, 0, 1, 32, [STR_QUOTA_MAX]⟩
def POOL_blk : RegBlk := ⟨34, "POOL", .pf, 0x600400, 0x8, 64, 0, 1, 64, [POOL_FREE, POOL_TOTAL]⟩
def ATTN_CTL_blk : RegBlk := ⟨35, "ATTN_CTL", .pf, 0x600800, 0, 1, 0, 1, 32, [ATTN_CTL_ENABLE, ATTN_CTL_SPLIT_EN]⟩
def ATTN_STATUS_blk : RegBlk := ⟨36, "ATTN_STATUS", .pf, 0x600804, 0, 1, 0, 1, 32, [ATTN_STATUS_RUNNING, ATTN_STATUS_WAITING]⟩
def ATTN_COUNT_blk : RegBlk := ⟨37, "ATTN_COUNT", .pf, 0x600900, 0x8, 64, 0, 1, 64, [ATTN_COUNT_BATCHES, ATTN_COUNT_FAILED]⟩
def MEM_CTL_blk : RegBlk := ⟨38, "MEM_CTL", .pf, 0x700000, 0x8000, 20, 0, 1, 32, [MEM_CTL_PERIODIC_RT, MEM_CTL_CE_LIMIT]⟩
def MEM_STATUS_blk : RegBlk := ⟨39, "MEM_STATUS", .pf, 0x700004, 0x8000, 20, 0, 1, 32, [MEM_STATUS_STATE, MEM_STATUS_HALF_HIGH, MEM_STATUS_CH_OK, MEM_STATUS_THROTTLE, MEM_STATUS_RETRAINING]⟩
def MEM_CFG_blk : RegBlk := ⟨40, "MEM_CFG", .pf, 0x700008, 0x8000, 20, 0, 1, 32, [MEM_CFG_PKG, MEM_CFG_DUAL_RANK]⟩
def MEM_CHCAP_blk : RegBlk := ⟨41, "MEM_CHCAP", .pf, 0x700010, 0x8000, 20, 0, 1, 64, [MEM_CHCAP_GRANULES]⟩
def MEM_TEMP_blk : RegBlk := ⟨42, "MEM_TEMP", .pf, 0x700018, 0x8000, 20, 0, 1, 64, [MEM_TEMP_MR4_0, MEM_TEMP_MR4_1, MEM_TEMP_MR4_2, MEM_TEMP_MR4_3, MEM_TEMP_MR4_4, MEM_TEMP_MR4_5, MEM_TEMP_MR4_6, MEM_TEMP_MR4_7]⟩
def MEM_ERRCNT_blk : RegBlk := ⟨43, "MEM_ERRCNT", .pf, 0x700020, 0x8000, 20, 0, 1, 64, [MEM_ERRCNT_CE, MEM_ERRCNT_UE]⟩
def MEM_ERRLOG_blk : RegBlk := ⟨44, "MEM_ERRLOG", .pf, 0x700028, 0x8000, 20, 0, 1, 64, [MEM_ERRLOG_VALID, MEM_ERRLOG_KIND, MEM_ERRLOG_CH, MEM_ERRLOG_RANK, MEM_ERRLOG_RAW]⟩
def MEM_RETRAIN_blk : RegBlk := ⟨45, "MEM_RETRAIN", .pf, 0x700030, 0x8000, 20, 0, 1, 32, [MEM_RETRAIN_COUNT, MEM_RETRAIN_LONGEST]⟩
def MEM_GLOBAL_blk : RegBlk := ⟨46, "MEM_GLOBAL", .pf, 0x7f0000, 0, 1, 0, 1, 32, [MEM_GLOBAL_RATE, MEM_GLOBAL_SPARE]⟩
def MEM_GEOM_blk : RegBlk := ⟨47, "MEM_GEOM", .pf, 0x7f0004, 0, 1, 0, 1, 32, [MEM_GEOM_NE]⟩
def MEM_NF_blk : RegBlk := ⟨48, "MEM_NF", .pf, 0x7f0008, 0, 1, 0, 1, 32, [MEM_NF_NF]⟩
def MEM_SIZE_blk : RegBlk := ⟨49, "MEM_SIZE", .pf, 0x7f0010, 0, 1, 0, 1, 64, [MEM_SIZE_BYTES]⟩
def MEM_SCRUB_blk : RegBlk := ⟨50, "MEM_SCRUB", .pf, 0x7f0018, 0, 1, 0, 1, 32, [MEM_SCRUB_HOURS]⟩
def MEM_MOVE_blk : RegBlk := ⟨51, "MEM_MOVE", .pf, 0x7f0020, 0, 1, 0, 1, 64, [MEM_MOVE_ENTRY, MEM_MOVE_ACTIVE, MEM_MOVE_FRAME]⟩
def SITE_STEER_blk : RegBlk := ⟨52, "SITE_STEER", .pf, 0x7f1000, 0x4, 1024, 0, 1, 32, [SITE_STEER_SITE, SITE_STEER_SLOT, SITE_STEER_VALID]⟩
def SITE_SLOTS_blk : RegBlk := ⟨53, "SITE_SLOTS", .pf, 0x7f2000, 0x4, 20, 0, 1, 32, [SITE_SLOTS_SLOTS, SITE_SLOTS_WEIGHT]⟩
def SC_CTL_blk : RegBlk := ⟨54, "SC_CTL", .pf, 0x800000, 0, 1, 0, 1, 32, [SC_CTL_ALLOC_EN]⟩
def SC_STATUS_blk : RegBlk := ⟨55, "SC_STATUS", .pf, 0x800004, 0, 1, 0, 1, 32, [SC_STATUS_SLICES, SC_STATUS_MOVING]⟩
def SC_ERRCNT_blk : RegBlk := ⟨56, "SC_ERRCNT", .pf, 0x800008, 0, 1, 0, 1, 32, [SC_ERRCNT_CE, SC_ERRCNT_UE]⟩
def SC_WAYS_blk : RegBlk := ⟨57, "SC_WAYS", .pf, 0x800100, 0x4, 32, 0, 1, 32, [SC_WAYS_ALLOC_MASK]⟩
def SLICE_STEER_blk : RegBlk := ⟨58, "SLICE_STEER", .pf, 0x804000, 0x4, 4096, 0, 1, 32, [SLICE_STEER_TILE, SLICE_STEER_MOVING]⟩
def DIR_CTL_blk : RegBlk := ⟨59, "DIR_CTL", .pf, 0x808000, 0, 1, 0, 1, 32, [DIR_CTL_COH_EN]⟩
def DIR_STATUS_blk : RegBlk := ⟨60, "DIR_STATUS", .pf, 0x808004, 0, 1, 0, 1, 32, [DIR_STATUS_USED]⟩
def DIR_LOST_blk : RegBlk := ⟨61, "DIR_LOST", .pf, 0x808008, 0, 1, 0, 1, 32, [DIR_LOST_LINES]⟩
def DIR_EVICT_blk : RegBlk := ⟨62, "DIR_EVICT", .pf, 0x808010, 0, 1, 0, 1, 64, [DIR_EVICT_COUNT]⟩
def DIR_LOSTLOG_blk : RegBlk := ⟨63, "DIR_LOSTLOG", .pf, 0x808018, 0, 1, 0, 1, 64, [DIR_LOSTLOG_VALID, DIR_LOSTLOG_SITE, DIR_LOSTLOG_LINE, DIR_LOSTLOG_KIND]⟩
def COH_SITE_blk : RegBlk := ⟨64, "COH_SITE", .pf, 0x808100, 0x8, 8, 0, 1, 64, [COH_SITE_SNOOPS, COH_SITE_LOST]⟩
def SITE_CTL_blk : RegBlk := ⟨65, "SITE_CTL", .pf, 0x900000, 0x10000, 8, 0, 1, 32, [SITE_CTL_RESET, SITE_CTL_FENCE, SITE_CTL_ENABLE]⟩
def SITE_STATUS_blk : RegBlk := ⟨66, "SITE_STATUS", .pf, 0x900004, 0x10000, 8, 0, 1, 32, [SITE_STATUS_STATE, SITE_STATUS_GANGED, SITE_STATUS_MOD_OK, SITE_STATUS_MOD_X8, SITE_STATUS_RATE32, SITE_STATUS_ATTESTED]⟩
def SITE_CFG_blk : RegBlk := ⟨67, "SITE_CFG", .pf, 0x900008, 0x10000, 8, 0, 1, 32, [SITE_CFG_PERSONALITY, SITE_CFG_GANG, SITE_CFG_MAX_RATE, SITE_CFG_ATTEST_REQ, SITE_CFG_PARTITION, SITE_CFG_QUIESCE_LIMIT]⟩
def SITE_PWR_blk : RegBlk := ⟨68, "SITE_PWR", .pf, 0x90000c, 0x10000, 8, 0, 1, 32, [SITE_PWR_CAP, SITE_PWR_MEASURED]⟩
def SITE_IDENT_blk : RegBlk := ⟨69, "SITE_IDENT", .pf, 0x900010, 0x10000, 8, 0, 1, 64, [SITE_IDENT_RECORD]⟩
def SITE_CREDIT_blk : RegBlk := ⟨70, "SITE_CREDIT", .pf, 0x900018, 0x10000, 8, 0, 1, 32, [SITE_CREDIT_FWD, SITE_CREDIT_RSP, SITE_CREDIT_DAT, SITE_CREDIT_TIM]⟩
def SITE_EVENT_blk : RegBlk := ⟨71, "SITE_EVENT", .pf, 0x90001c, 0x10000, 8, 0, 1, 32, [SITE_EVENT_READY, SITE_EVENT_FENCED, SITE_EVENT_MODULE_LOST, SITE_EVENT_ATTEST_FAIL, SITE_EVENT_PROTOCOL, SITE_EVENT_MMIO_TIMEOUT]⟩
def SITE_CXL_DB_blk : RegBlk := ⟨72, "SITE_CXL_DB", .pf, 0x900020, 0x10000, 8, 0, 1, 64, [SITE_CXL_DB_ADDR]⟩
def SITE_MWIN_blk : RegBlk := ⟨73, "SITE_MWIN", .pf, 0x900028, 0x10000, 8, 0, 1, 64, [SITE_MWIN_HDM_BASE, SITE_MWIN_SIZE]⟩
def SITE_BOOT_blk : RegBlk := ⟨74, "SITE_BOOT", .pf, 0x900030, 0x10000, 8, 0, 1, 64, [SITE_BOOT_ADDR, SITE_BOOT_PAGES]⟩
def SITE_ERR_blk : RegBlk := ⟨75, "SITE_ERR", .pf, 0x900038, 0x10000, 8, 0, 1, 64, [SITE_ERR_RETRIES, SITE_ERR_MOD_LOSS, SITE_ERR_MMIO_FAIL, SITE_ERR_FENCES]⟩
def MESH_CTL_blk : RegBlk := ⟨76, "MESH_CTL", .pf, 0xa00000, 0, 1, 0, 1, 32, [MESH_CTL_GATE_EN, MESH_CTL_GATE_IDLE]⟩
def MESH_STATUS_blk : RegBlk := ⟨77, "MESH_STATUS", .pf, 0xa00004, 0, 1, 0, 1, 32, [MESH_STATUS_FLIT_CE, MESH_STATUS_FLIT_UE]⟩
def TMO_ONDIE_blk : RegBlk := ⟨78, "TMO_ONDIE", .pf, 0xa00010, 0, 1, 0, 1, 32, [TMO_ONDIE_US]⟩
def TMO_SITE_blk : RegBlk := ⟨79, "TMO_SITE", .pf, 0xa00014, 0, 1, 0, 1, 32, [TMO_SITE_US]⟩
def TMO_SYREL_blk : RegBlk := ⟨80, "TMO_SYREL", .pf, 0xa00018, 0, 1, 0, 1, 32, [TMO_SYREL_MS]⟩
def TMO_HOST_blk : RegBlk := ⟨81, "TMO_HOST", .pf, 0xa0001c, 0, 1, 0, 1, 32, [TMO_HOST_US]⟩
def TMO_LOG_blk : RegBlk := ⟨82, "TMO_LOG", .pf, 0xa00020, 0, 1, 0, 1, 64, [TMO_LOG_VALID, TMO_LOG_CLASS, TMO_LOG_PORT, TMO_LOG_TAG, TMO_LOG_FUNCTION, TMO_LOG_AT]⟩
def TMO_COUNT_blk : RegBlk := ⟨83, "TMO_COUNT", .pf, 0xa00028, 0, 1, 0, 1, 64, [TMO_COUNT_TIMEOUTS, TMO_COUNT_LATE_DROP]⟩
def REG_CTL_blk : RegBlk := ⟨84, "REG_CTL", .pf, 0xa00040, 0, 1, 0, 1, 32, [REG_CTL_STATIC]⟩
def REG_STATUS_blk : RegBlk := ⟨85, "REG_STATUS", .pf, 0xa00044, 0, 1, 0, 1, 32, [REG_STATUS_STATIC_ACTIVE, REG_STATUS_OVERSUB, REG_STATUS_STATIC_REFUSED, REG_STATUS_SHARE_SUM]⟩
def REG_STATIC_blk : RegBlk := ⟨86, "REG_STATIC", .pf, 0xa00048, 0, 1, 0, 1, 32, [REG_STATIC_CLASS_MASK]⟩
def REG_PORT_blk : RegBlk := ⟨87, "REG_PORT", .pf, 0xa00100, 0x4, 101, 0, 1, 32, [REG_PORT_CLASS, REG_PORT_FOLLOW_FUNC]⟩
def REG_FUNC_blk : RegBlk := ⟨88, "REG_FUNC", .pf, 0xa00300, 0x4, 64, 0, 1, 32, [REG_FUNC_CLASS]⟩
def REG_CLASS_blk : RegBlk := ⟨89, "REG_CLASS", .pf, 0xa00400, 0x8, 32, 0, 1, 64, [REG_CLASS_SLICE_OT, REG_CLASS_MEM_OT, REG_CLASS_BW_SHARE, REG_CLASS_DL_OFFSET]⟩
def SYR_CTL_blk : RegBlk := ⟨90, "SYR_CTL", .pf, 0xb00000, 0, 1, 0, 1, 32, [SYR_CTL_JOIN, SYR_CTL_FENCE]⟩
def SYR_STATUS_blk : RegBlk := ⟨91, "SYR_STATUS", .pf, 0xb00004, 0, 1, 0, 1, 32, [SYR_STATUS_ALIVE, SYR_STATUS_FENCED, SYR_STATUS_CLK_OK, SYR_STATUS_DIR_DOWN, SYR_STATUS_TWIN_UP]⟩
def SYR_EVENT_blk : RegBlk := ⟨92, "SYR_EVENT", .pf, 0xb00008, 0, 1, 0, 1, 32, [SYR_EVENT_PORT_DOWN, SYR_EVENT_PARTNER_CHANGE, SYR_EVENT_MISWIRED, SYR_EVENT_TWIN_LOST, SYR_EVENT_MIRROR_BROKEN, SYR_EVENT_MC_DROP, SYR_EVENT_COLL_FAIL, SYR_EVENT_HOLD_EXPIRED, SYR_EVENT_AUTH_FAIL]⟩
def SYR_HOLD_blk : RegBlk := ⟨93, "SYR_HOLD", .pf, 0xb0000c, 0, 1, 0, 1, 32, [SYR_HOLD_US]⟩
def CP_CTL_blk : RegBlk := ⟨94, "CP_CTL", .pf, 0xb00010, 0, 1, 0, 1, 32, [CP_CTL_LAG_MS, CP_CTL_DEAD_MS]⟩
def CP_STATUS_blk : RegBlk := ⟨95, "CP_STATUS", .pf, 0xb00014, 0, 1, 0, 1, 32, [CP_STATUS_MIRRORED]⟩
def SYR_PORT_blk : RegBlk := ⟨96, "SYR_PORT", .pf, 0xb00100, 0x8, 20, 0, 1, 64, [SYR_PORT_LANES, SYR_PORT_UP, SYR_PORT_DATELINE, SYR_PORT_SECURE, SYR_PORT_MISWIRED, SYR_PORT_LPI, SYR_PORT_PARTNER_HUB, SYR_PORT_PARTNER_TWIN, SYR_PORT_PARTNER_PORT, SYR_PORT_PARTNER_VALID, SYR_PORT_DELAY]⟩
def SYR_PERR_blk : RegBlk := ⟨97, "SYR_PERR", .pf, 0xb00200, 0x8, 20, 0, 1, 64, [SYR_PERR_FEC_CORR, SYR_PERR_REPLAYS, SYR_PERR_DOWNS, SYR_PERR_AUTH_FAIL]⟩
def SYR_FWIN_blk : RegBlk := ⟨98, "SYR_FWIN", .pf, 0xb00400, 0x8, 16, 0, 1, 64, [SYR_FWIN_VALID, SYR_FWIN_TWIN, SYR_FWIN_HUB, SYR_FWIN_FUNCTION, SYR_FWIN_BASE_HI]⟩
def MC_GROUP_blk : RegBlk := ⟨99, "MC_GROUP", .pf, 0xb01000, 0x4, 256, 0, 1, 32, [MC_GROUP_OUT_DIRS, MC_GROUP_OUT_TWIN, MC_GROUP_LOCAL, MC_GROUP_VALID]⟩
def COLL_STAT_blk : RegBlk := ⟨100, "COLL_STAT", .pf, 0xb02000, 0x8, 256, 0, 1, 64, [COLL_STAT_STATUS, COLL_STAT_RUNNING, COLL_STAT_VALID, COLL_STAT_FUNCTION, COLL_STAT_LAST_SEQ]⟩
def SYR_ROUTE_blk : RegBlk := ⟨101, "SYR_ROUTE", .pf, 0xb10000, 0x4, 4096, 0, 1, 32, [SYR_ROUTE_VALID, SYR_ROUTE_VIA_EN, SYR_ROUTE_VIA_HUB]⟩
def HOST_CTL_blk : RegBlk := ⟨102, "HOST_CTL", .pf, 0x200000, 0, 1, 0, 1, 32, [HOST_CTL_WATCH_EN]⟩
def HOST_STATUS_blk : RegBlk := ⟨103, "HOST_STATUS", .pf, 0x200004, 0, 1, 0, 1, 32, [HOST_STATUS_RATE, HOST_STATUS_WIDTH, HOST_STATUS_FLIT, HOST_STATUS_CXL_CACHE, HOST_STATUS_CXL_MEM]⟩
def HOST_WATCH_blk : RegBlk := ⟨104, "HOST_WATCH", .pf, 0x200008, 0, 1, 0, 1, 32, [HOST_WATCH_USED]⟩
def HOST_APERTURE_blk : RegBlk := ⟨105, "HOST_APERTURE", .pf, 0x200010, 0, 1, 0, 1, 64, [HOST_APERTURE_BASE_GIB, HOST_APERTURE_SIZE_GIB, HOST_APERTURE_FUNCTION, HOST_APERTURE_ENABLE]⟩
def HOST_HDM_blk : RegBlk := ⟨106, "HOST_HDM", .pf, 0x200018, 0, 1, 0, 1, 64, [HOST_HDM_BASE_GIB, HOST_HDM_EXTENTS, HOST_HDM_COMMITTED]⟩
def HOST_ERRLOG_blk : RegBlk := ⟨107, "HOST_ERRLOG", .pf, 0x200020, 0, 1, 0, 1, 64, [HOST_ERRLOG_VALID, HOST_ERRLOG_KIND, HOST_ERRLOG_FUNCTION, HOST_ERRLOG_BAR, HOST_ERRLOG_OFFSET]⟩
def HOST_COUNT_blk : RegBlk := ⟨108, "HOST_COUNT", .pf, 0x200028, 0, 1, 0, 1, 64, [HOST_COUNT_UR, HOST_COUNT_CA, HOST_COUNT_POISON, HOST_COUNT_LINK_DOWN]⟩
def TEN_STATUS_blk : RegBlk := ⟨109, "TEN_STATUS", .ten, 0x40000, 0, 1, 0, 1, 32, [TEN_STATUS_FUNCTION, TEN_STATUS_READY, TEN_STATUS_TDI_RUN]⟩
def DS_CTL_blk : RegBlk := ⟨110, "DS_CTL", .pf, 0xf00000, 0x100, 4, 0, 1, 32, [DS_CTL_AUTO_ON, DS_CTL_POWER_ON, DS_CTL_REMOVE, DS_CTL_CLEAR, DS_CTL_ATTEST_REQ, DS_CTL_ATTN_LED]⟩
def DS_STATUS_blk : RegBlk := ⟨111, "DS_STATUS", .pf, 0xf00004, 0x100, 4, 0, 1, 32, [DS_STATUS_STATE, DS_STATUS_PRESENT, DS_STATUS_POWERED, DS_STATUS_RATE, DS_STATUS_WIDTH, DS_STATUS_CXL, DS_STATUS_ATTESTED]⟩
def DS_EVENT_blk : RegBlk := ⟨112, "DS_EVENT", .pf, 0xf00008, 0x100, 4, 0, 1, 32, [DS_EVENT_INSERTED, DS_EVENT_READY, DS_EVENT_BUTTON, DS_EVENT_REMOVED, DS_EVENT_SURPRISE, DS_EVENT_POWER_FAULT, DS_EVENT_UNSUPPORTED_DEV, DS_EVENT_ATTEST_FAIL]⟩
def DS_DEV_blk : RegBlk := ⟨113, "DS_DEV", .pf, 0xf00010, 0x100, 4, 0, 1, 64, [DS_DEV_VENDOR, DS_DEV_DEVICE, DS_DEV_CLASS]⟩
def DS_ASSIGN_blk : RegBlk := ⟨114, "DS_ASSIGN", .pf, 0xf01000, 0x8, 64, 0, 1, 64, [DS_ASSIGN_VALID, DS_ASSIGN_PORT, DS_ASSIGN_KIND, DS_ASSIGN_FUNCTION, DS_ASSIGN_NSID]⟩
def RING_FN_CTL_blk : RegBlk := ⟨115, "RING_FN_CTL", .ringFn, 0x0, 0, 1, 0, 1, 32, [RING_FN_CTL_CAL_CQ, RING_FN_CTL_CAL_EN, RING_FN_CTL_EVENT_CQ, RING_FN_CTL_EVENT_EN]⟩
def RING_FN_STATUS_blk : RegBlk := ⟨116, "RING_FN_STATUS", .ringFn, 0x4, 0, 1, 0, 1, 32, [RING_FN_STATUS_RUNNING, RING_FN_STATUS_WATCHED]⟩
def RING_FN_COUNT_blk : RegBlk := ⟨117, "RING_FN_COUNT", .ringFn, 0x8, 0, 1, 0, 1, 64, [RING_FN_COUNT_EVENT_DROP, RING_FN_COUNT_CAL_DROP, RING_FN_COUNT_CQ_LOST]⟩
def RING_BASE_blk : RegBlk := ⟨118, "RING_BASE", .ring, 0x1000, 0x40, 128, 0, 1, 64, [RING_BASE_BASE]⟩
def RING_DB_blk : RegBlk := ⟨119, "RING_DB", .ring, 0x1008, 0x40, 128, 0, 1, 64, [RING_DB_ADDR]⟩
def RING_CFG_blk : RegBlk := ⟨120, "RING_CFG", .ring, 0x1010, 0x40, 128, 0, 1, 32, [RING_CFG_KIND, RING_CFG_SIZE_LOG2, RING_CFG_MODE, RING_CFG_CAL_HELD, RING_CFG_CQ, RING_CFG_POLL_US]⟩
def RING_PASID_blk : RegBlk := ⟨121, "RING_PASID", .ring, 0x1014, 0x40, 128, 0, 1, 32, [RING_PASID_PASID, RING_PASID_PASID_EN]⟩
def RING_EPOCH_blk : RegBlk := ⟨122, "RING_EPOCH", .ring, 0x1018, 0x40, 128, 0, 1, 32, [RING_EPOCH_EPOCH]⟩
def RING_CTL_blk : RegBlk := ⟨123, "RING_CTL", .ring, 0x101c, 0x40, 128, 0, 1, 32, [RING_CTL_ENABLE]⟩
def RING_STATUS_blk : RegBlk := ⟨124, "RING_STATUS", .ring, 0x1020, 0x40, 128, 0, 1, 32, [RING_STATUS_STATE, RING_STATUS_CAUSE, RING_STATUS_FAIL_STATUS, RING_STATUS_WATCHED, RING_STATUS_INFLIGHT]⟩
def RING_MOD_blk : RegBlk := ⟨125, "RING_MOD", .ring, 0x1024, 0x40, 128, 0, 1, 32, [RING_MOD_VECTOR, RING_MOD_IRQ_EN, RING_MOD_MOD_COUNT, RING_MOD_MOD_US]⟩
def RING_IDX_blk : RegBlk := ⟨126, "RING_IDX", .ring, 0x1028, 0x40, 128, 0, 1, 64, [RING_IDX_NEXT, RING_IDX_RELEASE]⟩
def TRN_CTL_blk : RegBlk := ⟨127, "TRN_CTL", .pf, 0x300000, 0, 1, 0, 1, 32, [TRN_CTL_GATHER_US, TRN_CTL_GROUP_MAX, TRN_CTL_SHARED_PART]⟩
def TRN_STATUS_blk : RegBlk := ⟨128, "TRN_STATUS", .pf, 0x300004, 0, 1, 0, 1, 32, [TRN_STATUS_PRI_OUT, TRN_STATUS_PARKED, TRN_STATUS_INVAL]⟩
def TRN_COUNT_blk : RegBlk := ⟨129, "TRN_COUNT", .pf, 0x300008, 0, 1, 0, 1, 64, [TRN_COUNT_REFUSED, TRN_COUNT_PRG_TIMEOUT, TRN_COUNT_DRAIN_ABANDON, TRN_COUNT_INVALIDATIONS]⟩
def TRN_LOG_blk : RegBlk := ⟨130, "TRN_LOG", .pf, 0x300010, 0, 1, 0, 1, 64, [TRN_LOG_VALID, TRN_LOG_FUNCTION, TRN_LOG_PASID, TRN_LOG_PASID_EN, TRN_LOG_KIND, TRN_LOG_AT]⟩
def TRN_LOG_VA_blk : RegBlk := ⟨131, "TRN_LOG_VA", .pf, 0x300018, 0, 1, 0, 1, 64, [TRN_LOG_VA_PAGE]⟩
def MBX_CTL_blk : RegBlk := ⟨132, "MBX_CTL", .pf, 0xe00000, 0, 1, 0, 1, 32, [MBX_CTL_OPCODE, MBX_CTL_GO]⟩
def MBX_STATUS_blk : RegBlk := ⟨133, "MBX_STATUS", .pf, 0xe00004, 0, 1, 0, 1, 32, [MBX_STATUS_BUSY, MBX_STATUS_STATUS, MBX_STATUS_OPCODE, MBX_STATUS_RESULT]⟩
def SEC_STATUS_blk : RegBlk := ⟨134, "SEC_STATUS", .pf, 0xe00008, 0, 1, 0, 1, 32, [SEC_STATUS_CONFIDENTIAL, SEC_STATUS_CONF_PENDING, SEC_STATUS_FIPS_ERROR, SEC_STATUS_SELFTEST_OK, SEC_STATUS_BURNISHING, SEC_STATUS_PARTITIONS]⟩
def SEC_COUNT_blk : RegBlk := ⟨135, "SEC_COUNT", .pf, 0xe00010, 0, 1, 0, 1, 64, [SEC_COUNT_BURNISHED, SEC_COUNT_SELFTEST_FAIL, SEC_COUNT_ZEROIZE]⟩
def KEYSLOT_blk : RegBlk := ⟨136, "KEYSLOT", .pf, 0xe00020, 0x4, 4, 0, 1, 32, [KEYSLOT_ACTIVE]⟩
def TGRP_blk : RegBlk := ⟨137, "TGRP", .pf, 0xe00100, 0x4, 16, 0, 1, 32, [TGRP_PARTITION, TGRP_VALID]⟩
def PART_CFG_blk : RegBlk := ⟨138, "PART_CFG", .pf, 0xe00200, 0x4, 16, 0, 1, 32, [PART_CFG_OWNER, PART_CFG_VALID]⟩
def FUNC_CFG_blk : RegBlk := ⟨139, "FUNC_CFG", .pf, 0xe00300, 0x4, 64, 0, 1, 32, [FUNC_CFG_PARTITION, FUNC_CFG_BOUND, FUNC_CFG_TDI]⟩
def MBX_DATA_blk : RegBlk := ⟨140, "MBX_DATA", .pf, 0xe01000, 0x4, 1024, 0, 1, 32, [MBX_DATA_DATA]⟩
def EXT_blk : RegBlk := ⟨141, "EXT", .pf, 0xe04000, 0x4, 2560, 0, 1, 32, [EXT_KIND, EXT_FUNCTION, EXT_KEY_EN, EXT_REMOTE, EXT_SITE_OK, EXT_BURNISH]⟩
def LC_STATUS_blk : RegBlk := ⟨142, "LC_STATUS", .pf, 0xe00040, 0, 1, 0, 1, 32, [LC_STATUS_STATE, LC_STATUS_COMPAT, LC_STATUS_GROUPS, LC_STATUS_TARGET, LC_STATUS_PENDING, LC_STATUS_LCB]⟩
def LC_DEBUG_blk : RegBlk := ⟨143, "LC_DEBUG", .pf, 0xe00044, 0, 1, 0, 1, 32, [LC_DEBUG_LEVEL, LC_DEBUG_SOURCE]⟩
def LC_COUNT_blk : RegBlk := ⟨144, "LC_COUNT", .pf, 0xe00048, 0, 1, 0, 1, 32, [LC_COUNT_TOKEN_FAIL, LC_COUNT_DEBUG_GRANTS]⟩
def HUB_RST_blk : RegBlk := ⟨145, "HUB_RST", .pf, 0x40, 0, 1, 0, 1, 32, [HUB_RST_SOFT, HUB_RST_PARTIAL]⟩
def HUB_BOOT_blk : RegBlk := ⟨146, "HUB_BOOT", .pf, 0x48, 0, 1, 0, 1, 64, [HUB_BOOT_LAST, HUB_BOOT_CFG_BANK, HUB_BOOT_CFG_NONE, HUB_BOOT_FALLBACK, HUB_BOOT_PARTIALS, HUB_BOOT_READY_MS]⟩
def FW_ACTIVE_blk : RegBlk := ⟨147, "FW_ACTIVE", .pf, 0x80, 0x10, 3, 0, 1, 32, [FW_ACTIVE_VERSION]⟩
def FW_STAGE_blk : RegBlk := ⟨148, "FW_STAGE", .pf, 0x88, 0x10, 3, 0, 1, 64, [FW_STAGE_STATE, FW_STAGE_ACTIVE_BANK, FW_STAGE_MISSING, FW_STAGE_VERSION]⟩
def PWR_CTL_blk : RegBlk := ⟨149, "PWR_CTL", .pf, 0xc00000, 0, 1, 0, 1, 32, [PWR_CTL_H1_AUTO, PWR_CTL_H1_IDLE_US, PWR_CTL_GUARD_US]⟩
def PWR_STATUS_blk : RegBlk := ⟨150, "PWR_STATUS", .pf, 0xc00004, 0, 1, 0, 1, 32, [PWR_STATUS_STATE, PWR_STATUS_ENTERING, PWR_STATUS_POINT, PWR_STATUS_STRETCH, PWR_STATUS_PROCHOT_IN, PWR_STATUS_PROCHOT_OUT, PWR_STATUS_LEVEL, PWR_STATUS_RAIL_FAULT]⟩
def PWR_CAP_blk : RegBlk := ⟨151, "PWR_CAP", .pf, 0xc00008, 0, 1, 0, 1, 32, [PWR_CAP_PKG_CAP, PWR_CAP_HUB_CAP]⟩
def PWR_MEAS_blk : RegBlk := ⟨152, "PWR_MEAS", .pf, 0xc0000c, 0, 1, 0, 1, 32, [PWR_MEAS_PKG_W, PWR_MEAS_HUB_W]⟩
def PWR_LAST_blk : RegBlk := ⟨153, "PWR_LAST", .pf, 0xc00010, 0, 1, 0, 1, 64, [PWR_LAST_TARGET, PWR_LAST_OUTCOME, PWR_LAST_CAUSE, PWR_LAST_INDEX, PWR_LAST_AT]⟩
def PWR_DIP_blk : RegBlk := ⟨154, "PWR_DIP", .pf, 0xc00018, 0, 1, 0, 1, 64, [PWR_DIP_COUNT, PWR_DIP_LONGEST]⟩
def PWR_THERM_blk : RegBlk := ⟨155, "PWR_THERM", .pf, 0xc00020, 0, 1, 0, 1, 32, [PWR_THERM_LIMIT, PWR_THERM_HOTTEST]⟩
def PWR_GROUP_blk : RegBlk := ⟨156, "PWR_GROUP", .pf, 0xc00028, 0, 1, 0, 1, 64, [PWR_GROUP_ENABLE, PWR_GROUP_LEADER, PWR_GROUP_MEMBERS, PWR_GROUP_FUNCTION, PWR_GROUP_CAP_MIN, PWR_GROUP_SHIFT_W]⟩
def PKG_ENERGY_blk : RegBlk := ⟨157, "PKG_ENERGY", .pf, 0xc00030, 0, 1, 0, 1, 64, [PKG_ENERGY_UJ]⟩
def PWR_VT_blk : RegBlk := ⟨158, "PWR_VT", .pf, 0xc00040, 0x4, 9, 0, 1, 32, [PWR_VT_MV]⟩
def PWR_RAIL_blk : RegBlk := ⟨159, "PWR_RAIL", .pf, 0xc00080, 0x4, 6, 0, 1, 32, [PWR_RAIL_AVS_SEL, PWR_RAIL_SET_MV, PWR_RAIL_READ_MV, PWR_RAIL_FAULT]⟩
def PWR_CAUSE_blk : RegBlk := ⟨160, "PWR_CAUSE", .pf, 0xc00100, 0x4, 32, 0, 1, 32, [PWR_CAUSE_COUNT]⟩
def PWR_ENERGY_blk : RegBlk := ⟨161, "PWR_ENERGY", .pf, 0xc00200, 0x8, 64, 0, 1, 64, [PWR_ENERGY_UJ]⟩
def CYC_blk : RegBlk := ⟨162, "CYC", .pf, 0xd00000, 0x80, 100, 0, 1, 64, [CYC_COUNT]⟩
def CNT_blk : RegBlk := ⟨163, "CNT", .pf, 0xd00008, 0x80, 100, 0x8, 8, 64, [CNT_COUNT]⟩
def CNT_SEL_blk : RegBlk := ⟨164, "CNT_SEL", .pf, 0xd00050, 0x80, 100, 0x4, 8, 32, [CNT_SEL_EVENT, CNT_SEL_FUNC, CNT_SEL_FUNC_EN, CNT_SEL_CHAIN, CNT_SEL_OVF_IRQ]⟩
def CNT_OWN_blk : RegBlk := ⟨165, "CNT_OWN", .pf, 0xd00070, 0x80, 100, 0, 1, 32, [CNT_OWN_FUNCTION, CNT_OWN_USER_RD, CNT_OWN_VECTOR]⟩
def CNT_OVF_blk : RegBlk := ⟨166, "CNT_OVF", .pf, 0xd00074, 0x80, 100, 0, 1, 32, [CNT_OVF_OVF]⟩
def CNT_SAMPLE_blk : RegBlk := ⟨167, "CNT_SAMPLE", .pf, 0xd00078, 0x80, 100, 0, 1, 64, [CNT_SAMPLE_PC, CNT_SAMPLE_OWNER, CNT_SAMPLE_COUNTER, CNT_SAMPLE_POS]⟩
def CNT_CTL_blk : RegBlk := ⟨168, "CNT_CTL", .pf, 0xd08000, 0, 1, 0, 1, 32, [CNT_CTL_FREEZE]⟩
def CNT_SNAP_blk : RegBlk := ⟨169, "CNT_SNAP", .pf, 0xd08100, 0x8, 64, 0, 1, 64, [CNT_SNAP_VALID, CNT_SNAP_PAGE_EN, CNT_SNAP_BASE]⟩

/-- Register blocks, part 0. -/
def regBlocks0 : List RegBlk := [HUB_IDENT_blk, HUB_ID_blk, HUB_GLOBAL_blk, HUB_RES_blk, DIE_SERIAL_blk, TILE_MAP_blk, RULE_CTL_blk, RULE_STATUS_blk, RULE_POS_blk, RULE_REFCNT_blk, RULE_SEG_blk, RULE_OFFSET_blk, RULE_START_blk, RULE_PIN_DELAY_blk, RULE_EVENT_blk, CAL_CTL_blk, CAL_GATE_LIMIT_blk, CAL_STATUS_blk, CAL_QUOTA_blk, CAL_LATE_blk, ARRIVAL_blk, ARRIVAL_CFG_blk, GRV_CTL_blk, GRV_STATUS_blk, GRV_FLAGS_blk]
/-- Register blocks, part 1. -/
def regBlocks1 : List RegBlk := [GRV_LIMIT_blk, GRV_PROG_blk, GRV_BUILTIN_VER_blk, GRV_LAUNCHES_blk, SES_CTL_blk, SES_STATUS_blk, STR_STATUS_blk, SES_QUOTA_blk, STR_QUOTA_blk, POOL_blk, ATTN_CTL_blk, ATTN_STATUS_blk, ATTN_COUNT_blk, MEM_CTL_blk, MEM_STATUS_blk, MEM_CFG_blk, MEM_CHCAP_blk, MEM_TEMP_blk, MEM_ERRCNT_blk, MEM_ERRLOG_blk, MEM_RETRAIN_blk, MEM_GLOBAL_blk, MEM_GEOM_blk, MEM_NF_blk, MEM_SIZE_blk]
/-- Register blocks, part 2. -/
def regBlocks2 : List RegBlk := [MEM_SCRUB_blk, MEM_MOVE_blk, SITE_STEER_blk, SITE_SLOTS_blk, SC_CTL_blk, SC_STATUS_blk, SC_ERRCNT_blk, SC_WAYS_blk, SLICE_STEER_blk, DIR_CTL_blk, DIR_STATUS_blk, DIR_LOST_blk, DIR_EVICT_blk, DIR_LOSTLOG_blk, COH_SITE_blk, SITE_CTL_blk, SITE_STATUS_blk, SITE_CFG_blk, SITE_PWR_blk, SITE_IDENT_blk, SITE_CREDIT_blk, SITE_EVENT_blk, SITE_CXL_DB_blk, SITE_MWIN_blk, SITE_BOOT_blk]
/-- Register blocks, part 3. -/
def regBlocks3 : List RegBlk := [SITE_ERR_blk, MESH_CTL_blk, MESH_STATUS_blk, TMO_ONDIE_blk, TMO_SITE_blk, TMO_SYREL_blk, TMO_HOST_blk, TMO_LOG_blk, TMO_COUNT_blk, REG_CTL_blk, REG_STATUS_blk, REG_STATIC_blk, REG_PORT_blk, REG_FUNC_blk, REG_CLASS_blk, SYR_CTL_blk, SYR_STATUS_blk, SYR_EVENT_blk, SYR_HOLD_blk, CP_CTL_blk, CP_STATUS_blk, SYR_PORT_blk, SYR_PERR_blk, SYR_FWIN_blk, MC_GROUP_blk]
/-- Register blocks, part 4. -/
def regBlocks4 : List RegBlk := [COLL_STAT_blk, SYR_ROUTE_blk, HOST_CTL_blk, HOST_STATUS_blk, HOST_WATCH_blk, HOST_APERTURE_blk, HOST_HDM_blk, HOST_ERRLOG_blk, HOST_COUNT_blk, TEN_STATUS_blk, DS_CTL_blk, DS_STATUS_blk, DS_EVENT_blk, DS_DEV_blk, DS_ASSIGN_blk, RING_FN_CTL_blk, RING_FN_STATUS_blk, RING_FN_COUNT_blk, RING_BASE_blk, RING_DB_blk, RING_CFG_blk, RING_PASID_blk, RING_EPOCH_blk, RING_CTL_blk, RING_STATUS_blk]
/-- Register blocks, part 5. -/
def regBlocks5 : List RegBlk := [RING_MOD_blk, RING_IDX_blk, TRN_CTL_blk, TRN_STATUS_blk, TRN_COUNT_blk, TRN_LOG_blk, TRN_LOG_VA_blk, MBX_CTL_blk, MBX_STATUS_blk, SEC_STATUS_blk, SEC_COUNT_blk, KEYSLOT_blk, TGRP_blk, PART_CFG_blk, FUNC_CFG_blk, MBX_DATA_blk, EXT_blk, LC_STATUS_blk, LC_DEBUG_blk, LC_COUNT_blk, HUB_RST_blk, HUB_BOOT_blk, FW_ACTIVE_blk, FW_STAGE_blk, PWR_CTL_blk]
/-- Register blocks, part 6. -/
def regBlocks6 : List RegBlk := [PWR_STATUS_blk, PWR_CAP_blk, PWR_MEAS_blk, PWR_LAST_blk, PWR_DIP_blk, PWR_THERM_blk, PWR_GROUP_blk, PKG_ENERGY_blk, PWR_VT_blk, PWR_RAIL_blk, PWR_CAUSE_blk, PWR_ENERGY_blk, CYC_blk, CNT_blk, CNT_SEL_blk, CNT_OWN_blk, CNT_OVF_blk, CNT_SAMPLE_blk, CNT_CTL_blk, CNT_SNAP_blk]

/-- Every register the manual lays out in PF BAR 0 and VF BAR 0. -/
def regBlocks : List RegBlk := regBlocks0 ++ regBlocks1 ++ regBlocks2 ++ regBlocks3 ++ regBlocks4 ++ regBlocks5 ++ regBlocks6

end Sys2Proof.Machine
end

