-- ==== Sys2Proof/Machine/State.lean ====
section
/-! DEFINITION. Sys2Proof/Machine/State.lean: every piece of state the spec gives the hub, as plain data, the reasons a
step can stop, and the state after reset. -/

namespace Sys2Proof.Machine

/-- Why a step stops with a fault. No meaning of this model faults: an event that cannot happen leaves the state as it
is (log entry 2), and the manual's errors are statuses, events and log records, which are state. -/
inductive Fault where
  /-- An address outside every memory the spec lays out; raised by no meaning, kept for the interface. Safe. -/
  | noSuchAddress
  deriving DecidableEq, Repr

/-- Why a step answers with a refusal. -/
inductive Refusal where
  /-- The command has no meaning yet; raised by Machine/Dispatch.lean alone. Safe. -/
  | notModelled (mnemonic : String)
  deriving DecidableEq, Repr

/-! ## Shared machinery -/

/-- The kinds of things the hub sends out of the block. -/
inductive OutKind where
  | hostWrite | hostRead | atsRequest | pageRequest | invalComplete | msix | hostCpl | cfgCpl | cxlCache | cxlMem
  | zcp | sideband | cxlSite | syrCell | syrPacket | ds | pin | avs | pmbus | mailbox | spdm | flash | mesh | firmware | mem
  deriving DecidableEq, Repr

/-- One thing sent out of the block: to `dest` (a function, site, port or pin), with its numbers and its bytes. -/
structure Out where
  kind : OutKind
  dest : Nat := 0
  tag : Nat := 0
  args : List Nat := []
  data : List Byte := []
  deriving DecidableEq, Repr

/-- What the manual says is "logged" where it names no register that holds the record. -/
inductive LogKind where
  | segmentRefused | arrivalDisabled | reservedStatus | portError | hdmRefused | readAbandoned | protocol | slotReserved
  | siteEvent | memEvent | collective | mirror | security | power | downstream | firmware | mesh | cxlMedia | aer
  deriving DecidableEq, Repr

/-- One log entry. -/
structure LogRec where
  kind : LogKind
  args : List Nat := []
  deriving DecidableEq, Repr

/-- Why an outstanding request was made: what its answer, its refusal or its timeout acts on. -/
inductive Purpose where
  /-- Descriptor of count `k` of ring `g` (R341). -/
  | descFetch (g k : Nat)
  /-- Doorbell line of a polled ring (R339). -/
  | doorbell (g : Nat)
  /-- Doorbell line of a watched ring (R319). -/
  | watch (g : Nat)
  /-- Head line of completion ring `g` (R342). -/
  | headLine (g : Nat)
  /-- Record write of completion ring `g`, for the descriptor of ring `sub` and count `k` (`sub` 8192 or more: none). -/
  | recordWrite (g sub k : Nat) (data : List Byte) (now : Bool)
  /-- Piece `p` of the panel mover's job `job` (R349, R372). -/
  | piece (job p : Nat)
  /-- Access to a chiplet's register or memory window on behalf of host request `id` (R229, R241). -/
  | window (site id : Nat) (write : Bool)
  /-- Snoop of `line` sent to `site` (R198). -/
  | snoop (site line : Nat)
  /-- QUIESCE sent to `site`, and RESUME sent to it (R230). -/
  | quiesce (site reason : Nat)
  | resume (site reason : Nat)
  /-- Request number `id` sent to another hub (R288). -/
  | remote (id : Nat)
  /-- ATS Translation Request for a page (R366). -/
  | ats (fn pasid page : Nat)
  /-- Page request group `prg` of function `fn` (R370). -/
  | pri (fn prg : Nat)
  /-- Downstream request of operation `id` (R333). -/
  | device (port id : Nat)
  /-- An on-die request with no further effect in the model than its answer. -/
  | onDie (id : Nat)
  deriving DecidableEq, Repr

/-- An outstanding request of an initiator and its timer (spec/10_mesh_and_regulation.md R252 to R254). -/
structure Req where
  cls : Nat
  port : Nat
  tag : Nat
  fn : Nat
  purpose : Purpose
  limit : Nat
  deadline : Nat
  pausedAt : Option Nat := none
  /-- The translation the request goes through: function, PASID key and page (R376). -/
  xkey : Option (Nat × Nat × Nat) := none
  deriving DecidableEq, Repr

/-- A tag in quarantine (R254, R255). -/
structure Tomb where
  cls : Nat
  port : Nat
  tag : Nat
  till : Nat
  deriving DecidableEq, Repr

/-- A request held before it leaves: what it will be and, once it leaves, what is sent. -/
structure HeldReq where
  cls : Nat
  port : Nat
  fn : Nat
  purpose : Purpose
  out : Out
  xkey : Option (Nat × Nat × Nat) := none
  deriving DecidableEq, Repr

/-- Initiators: outstanding requests, tombstones, and requests that wait for a free tag (R255), for Bus Master
Enable (R315) or for an edge agent (R251). -/
structure Timers where
  reqs : List Req := []
  tombs : List Tomb := []
  waiting : List HeldReq := []
  deriving DecidableEq, Repr

/-! ## Ruling time and the calendar (spec/02_ruling_and_calendar.md) -/

/-- What the ruling block keeps of one Syrel port's RULE cells (R35, R36, R276, R277). Times are in 1/16 ns. -/
structure ExPort where
  /-- Arrival of the last RULE cell, and its EXSEQ. -/
  rxAt : Option Nat := none
  rxSeq : Nat := 0
  /-- State, depth and segments its sender gave. -/
  state : Nat := 0
  depth : Nat := 0
  seg : Seg := {}
  pend : Option Seg := none
  /-- EXSEQ and departure of the last cell sent. -/
  txSeq : Nat := 0
  txAt : Option Nat := none
  /-- The exchange being paired: t1 and t2 of the received cell a. -/
  t1 : Nat := 0
  t2 : Option Nat := none
  /-- EXSEQ and departure t3 of the first cell sent after a. -/
  t3 : Option (Nat × Nat) := none
  /-- One-way delay in force, the exchanges averaged since the last measurement and when that was. -/
  delay : Nat := 0
  delaySum : Nat := 0
  delayN : Nat := 0
  delayAt : Nat := 0
  /-- Arrival of the last cell whose sender was LOCKED. -/
  lockedAt : Option Nat := none
  /-- The port has been in low-power idle, and no cell has come at the full rate since (R40). -/
  slow : Bool := false
  deriving DecidableEq, Repr

/-- The ruling block's own state. The reference count is in 1/16 ns; `dev` is the local position less the
position of the segment, in 1/2000 ru. -/
structure Ruling where
  refT : Nat := 0
  everSet : Bool := false
  everLocked : Bool := false
  pos : Nat := 0
  seg : Seg := {}
  pend : Option Seg := none
  /-- The segment before the current one, and the last one refused (R30): a reference may still carry them. -/
  prev : Option Seg := none
  refused : Option Seg := none
  /-- The role has changed, and no reference has given its segment since (R504). -/
  rebase : Bool := false
  dev : Int := 0
  holding : Bool := false
  /-- Offset still to be removed by the rate correction of R36, in 1/16 ns (positive: the hub runs ahead). -/
  corr : Int := 0
  corrPhase : Nat := 0
  good : Nat := 0
  bad : Nat := 0
  ports : SMap ExPort := []
  /-- PIN_ROOT: local count at the last mark, good and bad frames in a row, frames discarded, last RULE_REF edge. -/
  markAt : Option Nat := none
  framesGood : Nat := 0
  framesBad : Nat := 0
  frameErrs : Nat := 0
  /-- Position at the last beacon's multiple of 65,536 (R227) and at the last static boundary (R265). -/
  beaconAt : Nat := 0
  staticAt : Nat := 0
  deriving DecidableEq, Repr

/-- A calendar entry (R45, Table 6) with what the hub keeps of its firings. -/
structure CalEntry where
  mark : Nat
  action : Nat
  gateEn : Bool
  localOk : Bool
  stepDiscard : Bool
  notify : Bool
  fn : Nat
  gate : Nat
  thresh : Nat
  period : Nat
  rep : Nat
  thrStep : Nat
  tag : Nat
  arg : Nat
  /-- Firings made, or completed without firing; firings made. -/
  firing : Nat := 0
  made : Nat := 0
  /-- Reference count (1/16 ns) at which the position reached MARK. -/
  dueAt : Option Nat := none
  /-- The firing is late on a ground other than its delay: armed past its mark, advanced past it (R51, R53), or
  passed by a step (R57). -/
  late : Bool := false
  /-- The mark was passed by a step (R57). -/
  stepped : Bool := false
  /-- Intervals that steps have skipped, in which later firings of a STEP_DISCARD entry are discarded (R57). -/
  skips : List (Nat × Nat) := []
  /-- The gate was not satisfied CAL_GATE_LIMIT ru after the mark (R48): the firing is to complete TIMEOUT. -/
  gateMiss : Bool := false
  deriving DecidableEq, Repr

/-- A firing that has been issued and is not yet complete: delayed doorbells (R54, R233), a snapshot being
written (R480), a collective (R293), an operation that a firing started (R442, R454). -/
structure Firing where
  id : Nat
  entry : Nat
  fn : Nat
  tag : Nat
  index : Nat
  notify : Bool
  pos : Nat
  /-- Status so far, and the sites, buffer or collective the firing still waits on. -/
  status : Status := .ok
  sites : List Nat := []
  action : Nat := 0
  arg : Nat := 0
  /-- Lateness at issue, and whether the firing has been counted as late already (R51). -/
  lateness : Nat := 0
  counted : Bool := false
  deriving DecidableEq, Repr

/-- The Timed Action Calendar. -/
structure Cal where
  entries : SMap CalEntry := []
  firings : List Firing := []
  nextId : Nat := 0
  /-- The 64 ru window of R52: where it starts and how many entries have fired in it. -/
  winStart : Nat := 0
  winCount : Nat := 0
  deriving DecidableEq, Repr

/-! ## Rings and descriptors (spec/13_rings_and_descriptors.md) -/

/-- A completion record before its PHASE is known (R353). -/
structure Rec where
  kind : Nat
  status : Status
  flags : Nat := 0
  index : Nat := 0
  tag : Nat := 0
  ring : Nat := 0
  aux : Nat := 0
  result : Nat := 0
  mask : Nat := 0
  irq : Bool := false
  deriving DecidableEq, Repr

/-- What the hub keeps of a ring beside its registers. -/
structure RingRt where
  /-- Submission: PRODUCER last taken (R338); when it was last polled (1/16 ns). -/
  producer : Nat := 0
  polledAt : Option Nat := none
  /-- Completion: CONSUMED last read, slots reserved, when the head line was last read. -/
  consumed : Nat := 0
  reserved : Nat := 0
  headAt : Option Nat := none
  /-- Records written and not signalled, when the oldest of them was written (R358). -/
  unsignalled : Nat := 0
  oldest : Nat := 0
  /-- Records for this ring were dropped (R356). -/
  overflow : Bool := false
  /-- Watched: a read of the line is outstanding, and one more is owed (R319). -/
  watchBusy : Bool := false
  watchAgain : Bool := false
  deriving DecidableEq, Repr

/-- How far a fetched descriptor has come. -/
inductive DescSt where
  | fetching | ready | started
  deriving DecidableEq, Repr

/-- A descriptor the hub has begun to fetch and whose record it has not written (R341, R342). -/
structure Desc where
  ring : Nat
  count : Nat
  words : List Nat := []
  st : DescSt := .fetching
  /-- Place in the order in which descriptors started (R341). -/
  seq : Nat := 0
  deriving DecidableEq, Repr

/-- Rings and the descriptors in them. -/
structure Rings where
  rt : SMap RingRt := []
  descs : List Desc := []
  /-- Calendar and event records that wait, per function, oldest first, with their completion ring (R356). -/
  queued : SMap (List (Nat × Rec)) := []
  /-- Descriptors started since reset. -/
  nextSeq : Nat := 0
  deriving DecidableEq, Repr

/-! ## Address translation (spec/14_translation.md) -/

/-- A translation entry (R365): page size as its log2 (12, 21 or 30). -/
structure XEntry where
  fn : Nat
  pasid : Nat
  size : Nat
  vpage : Nat
  tpage : Nat
  r : Bool
  w : Bool
  set : Nat := 0
  way : Nat := 0
  deriving DecidableEq, Repr

/-- A host access that waits for its translation (R366) or for its batch (R370). -/
structure XWait where
  fn : Nat
  pasid : Nat
  page : Nat
  write : Bool
  purpose : Purpose
  /-- Address, length and, for a write, the bytes of the access. -/
  va : Nat := 0
  len : Nat := 0
  data : List Byte := []
  /-- The tile whose cache is to be filled; 64 or more: the host endpoint. -/
  tile : Nat := 64
  /-- The completion in flight is to be discarded and asked for again (R376). -/
  stale : Bool := false
  /-- It is translated again after its batch was granted: no further page request (R371). -/
  retry : Bool := false
  deriving DecidableEq, Repr

/-- A page-request batch (R370). -/
structure Batch where
  fn : Nat
  pasid : Nat
  prg : Nat
  openedAt : Nat
  sent : Bool := false
  sentAt : Nat := 0
  waits : List XWait := []
  deriving DecidableEq, Repr

/-- An invalidation that waits for accesses to retire (R376): `host` carries the Invalidate Request's tag, `desc`
the INVALIDATE descriptor. -/
structure Inval where
  id : Nat
  fn : Nat
  pasid : Option Nat
  lo : Nat
  pages : Option Nat
  host : Option Nat := none
  desc : Option (Nat × Nat) := none
  at16 : Nat := 0
  tags : List Nat := []
  deriving DecidableEq, Repr

/-- One side of a piece of a move: a host virtual address, a hub address (R349), or a byte of a panel buffer. -/
inductive MLoc where
  | host (va : Nat)
  | hub (off : Nat)
  | buf (off : Nat)
  deriving DecidableEq, Repr

/-- How far a piece of a move has come: to be read, being read, read, being written, in place, its page refused (R373), or
failed. -/
inductive PieceSt where
  | waiting
  | reading
  | have (data : List Byte)
  | writing
  | moved
  | refused
  | failed (s : Status)
  deriving DecidableEq, Repr

/-- A piece of a move: it lies within one 4 KiB page of the host, numbered `page` (R349), and within one 512-byte block of a
fabric window (R288). -/
structure Piece where
  src : MLoc
  dst : MLoc
  len : Nat
  page : Nat := 0
  st : PieceSt := .waiting
  deriving DecidableEq, Repr

/-- What a panel mover moves for: the COPY of ring `g` and count `k`, or the load or drain of panel buffer `b` of tile `t`. -/
inductive JobFor where
  | copy (g k : Nat)
  | load (t b : Nat)
  | drain (t b : Nat)
  deriving DecidableEq, Repr

/-- A move of a panel mover (R349, R372). -/
structure Job where
  who : JobFor
  fn : Nat
  pasid : Nat
  tile : Nat
  alloc : Bool := false
  deadline : Option Nat := none
  pieces : List Piece
  deriving DecidableEq, Repr

/-- Translation caches, waiting accesses, batches and invalidations. -/
structure Xlat where
  shared : List XEntry := []
  tile : SMap (List XEntry) := []
  waits : List XWait := []
  batches : List Batch := []
  faults : List XWait := []
  blocked : List Nat := []
  invals : List Inval := []
  queuedInvals : List Inval := []
  nextInval : Nat := 0
  jobs : SMap Job := []
  nextJob : Nat := 0
  deriving DecidableEq, Repr

/-! ## Host endpoint (spec/12_host_endpoint.md) -/

/-- What the manual names of one function's configuration space. -/
structure FnCfg where
  mse : Bool := false
  bme : Bool := false
  d3 : Bool := false
  msixEn : Bool := false
  msixMask : Bool := false
  atsEn : Bool := false
  priEn : Bool := false
  priAlloc : Nat := 0
  pasidEn : Bool := false
  devctl2 : Nat := 0
  /-- An FLR of the function is running, and when it began (R326). -/
  flrAt : Option Nat := none
  deriving DecidableEq, Repr

/-- One MSI-X table entry. -/
structure MsixEnt where
  addr : Nat := 0
  data : Nat := 0
  masked : Bool := true
  pend : Bool := false
  deriving DecidableEq, Repr

/-- A host access the hub has not yet answered. -/
structure HostAcc where
  id : Nat
  site : Nat
  write : Bool
  size : Nat
  tag : Nat
  /-- A Stylus coherent window asks, and not the host (R241). -/
  stylus : Bool := false
  deriving DecidableEq, Repr

/-- What the hub keeps of a downstream port beside its registers (R330, R331): when the slot was powered and when DS_PERST_N was
released, when the attention button was pressed, when the shutdown notification was sent and whether the device has answered
it. -/
structure DsPort where
  poweredAt : Option Nat := none
  perstAt : Option Nat := none
  pressedAt : Option Nat := none
  shutAt : Option Nat := none
  shutDone : Bool := false
  deriving DecidableEq, Repr

/-- A host access to hub memory that waits for its lines to come home, or for one before it (R198): 0 a read, 1 a write, 2 an
AtomicOp of the aperture, 3 a read, 4 a write of CXL.mem; its offset in the aperture or device address, length, data, tag, and
an AtomicOp's operation and operands. -/
structure HostReq where
  kind : Nat
  a : Nat
  len : Nat := 0
  data : List Byte := []
  tag : Nat
  op : Nat := 0
  x : Nat := 0
  y : Nat := 0
  deriving DecidableEq, Repr

/-- Host endpoint: configuration space, MSI-X, BAR accesses in progress. -/
structure HostIf where
  /-- Configuration space is ready (R313). -/
  cfgReady : Bool := false
  vfEnable : Bool := false
  vfMse : Bool := false
  fns : SMap FnCfg := []
  msix : SMap MsixEnt := []
  /-- Messages held by Bus Master Enable (R315): function and vector. -/
  heldMsix : List (Nat × Nat) := []
  accs : List HostAcc := []
  nextAcc : Nat := 0
  /-- Accesses to hub memory that wait, oldest first. -/
  waits : List HostReq := []
  /-- Errors reported through AER (Table 5), per function. -/
  aer : List (Nat × Nat) := []
  ds : SMap DsPort := []
  deriving DecidableEq, Repr

/-! ## Life cycle (spec/16_lifecycle_and_debug.md) -/

/-- The groups of OTP bits that are programmed in the field: the native life-cycle groups LCG_0 to LCG_3, the group LCC and
the byte LCB of the compatible encoding, the integrator key digest, and the version floor of each firmware target. -/
inductive OtpGroup where
  | lcg (k : Nat)
  | lcc
  | lcb
  | digest
  | floor (target : Nat)
  deriving DecidableEq, Repr

/-- OTP programming under way (R413): bits still to be programmed in order, when the next one is due, and what it is for:
a transition to a state, the compatible encoding (LC_SELECT_COMPAT), or a version floor; `bmc`: the board management
controller asked. -/
structure OtpProg where
  bits : List (OtpGroup × Nat)
  due : Nat
  target : Option Nat := none
  select : Bool := false
  bmc : Bool := false
  deriving DecidableEq, Repr

/-- OTP and what it decodes to (R408, R412, R422): `state` 0 MAKER, 1 INTEGRATOR, 2 FIELDED, 3 ANALYSIS, 4 SCRAPPED,
5 LOCKED, as fuse decode set it at the last cold power-on. -/
structure Life where
  lcg : List Nat := [2 ^ 32 - 1, 0, 0, 0]
  lcc : Nat := 0
  lcb : Nat := 0
  digest : Nat := 0
  floors : List Nat := [0, 0, 0]
  state : Nat := 1
  compat : Bool := false
  lcbRead : Nat := 0
  prog : List OtpProg := []
  /-- The RTP stays in the error state until the next cold power-on (R421). -/
  stuck : Bool := false
  deriving DecidableEq, Repr

/-! ## Chiplet sites (spec/09_chiplet_sites.md) -/

/-- A ZCP message the hub has not been able to send yet, or that it has received: code, class (0 REQ, 1 FWD, 2 RSP,
3 DAT, 4 WBK, 5 TIM), header as a 128-bit number, line data and byte mask. -/
structure ZMsg where
  opc : Nat
  cls : Nat
  hdr : Nat
  data : List Byte := []
  mask : Nat := 0
  /-- A hub request: what its answer acts on, and the function it serves. -/
  purpose : Option Purpose := none
  fn : Nat := 0
  deriving DecidableEq, Repr

/-- How far a site's reset has come (R238, Table 7). -/
inductive SiteRst where
  | none
  /-- Step 1: QUIESCE sent, the wait ends at the time given. -/
  | quiescing (till : Nat)
  /-- Step 4: SITE_RST_N low since the time given. -/
  | low (since : Nat)
  /-- Step 5: training, discovery and attestation. -/
  | bringing
  deriving DecidableEq, Repr

/-- What the hub keeps of a site beside its registers. -/
structure Site where
  /-- Identity record of the chiplet, 64 bytes (R234). -/
  ident : List Byte := []
  /-- Credits left toward the chiplet, by class (R222). -/
  crd : List Nat := [0, 0, 0, 0, 0, 0]
  /-- The chiplet's first flit has given its grant. -/
  granted : Bool := false
  /-- Messages that wait for a credit or for retraining, oldest first. -/
  txq : List ZMsg := []
  /-- Messages received whole and not yet taken, oldest first. -/
  rx : List ZMsg := []
  /-- Next FSEQ to deliver, flits received early, and the slots of a message not yet whole (R218, R219). -/
  rxSeq : Nat := 0
  early : SMap (List Nat) := []
  slots : List Nat := []
  /-- Slots laid down for the next flits, each with its kind; the next FSEQ; credits freed since the last flit, by class; the last
  256 flits sent; and FSEQs to send again once the site has retrained (R217 to R219, R222, R233). -/
  txSlots : List (Nat × Nat) := []
  txSeq : Nat := 0
  freed : List Nat := [0, 0, 0, 0, 0, 0]
  sent : List (List Nat) := []
  resend : List Nat := []
  /-- MOD_4 to MOD_7 of a ganged pair that are up (R216). -/
  upper : Nat := 0
  rst : SiteRst := .none
  /-- MOD_OK before the modules lost since the last site reset (R233). -/
  lost : Nat := 0
  /-- QUIESCE with REASON 1 answered OK: the site is quiesced for low power (R230). -/
  quiesced : Bool := false
  /-- STATUS of the last answer to QUIESCE with REASON 1 or RESUME (R230). -/
  lpAns : Option Nat := none
  /-- Power cap asked for by the last PWR_REQ, and when that came (R228, R466). -/
  want : Nat := 0
  reqAt : Option Nat := none
  deriving DecidableEq, Repr

/-! ## Memory, system cache and coherence (spec/07_memory_and_system_cache.md, spec/08_coherence.md) -/

/-- Who asked the home, or another hub, for something, and so how it is answered. -/
inductive Who where
  /-- A ZCP chiplet's request, by its tag. -/
  | site (j tag : Nat)
  /-- A CXL chiplet's request, by its identifier. -/
  | cxl (j tag : Nat)
  /-- A CXL chiplet's CXL.io read, by its tag. -/
  | cxlIo (j tag : Nat)
  /-- An on-die agent at master port `k`, by its request number. -/
  | mesh (k id : Nat)
  /-- The ATOMIC descriptor of ring `g` and count `k`. -/
  | desc (g k : Nat)
  /-- Piece `p` of the panel mover's job `job`, in a fabric window. -/
  | piece (job p : Nat)
  /-- Part `p` of request `id` that another hub has sent (R289). -/
  | inbound (id p : Nat)
  /-- The hub itself: a forced eviction (R204), or lines an operation of the hub's own needs at home. -/
  | hub
  deriving DecidableEq, Repr

/-- A request to another hub: who asked, and its deadline (R224, R288). -/
structure OutReq where
  who : Who
  write : Bool := false
  deadline : Option Nat := none
  deriving DecidableEq, Repr

/-- What is asked of the home (R193, R200). -/
inductive HKind where
  | rdS | rdX | upg | ownNoData | rdOnce | homeRead | wrP | homeWrite | homeAtomic
  /-- Forced eviction (R204); an operation of the hub's own that needs the line at home; a lost line's sharers (R206). -/
  | evict | claim | lose
  deriving DecidableEq, Repr

/-- A request at the home of a line. `data` and `mask` are the bytes written; `op` is an atomic's operation (0 FADD,
1 SWAP, 2 CAS), `off` and `len` the bytes concerned, `a` and `b` an atomic's operands. -/
structure HReq where
  kind : HKind
  line : Nat
  who : Who
  off : Nat := 0
  len : Nat := 64
  data : List Byte := []
  mask : Nat := 0
  op : Nat := 0
  a : Nat := 0
  b : Nat := 0
  /-- Size in bytes of an atomic, regulation class, deadline (R258, R224) and, for a CXL RdShared, that only S may be
  granted. -/
  cls : Nat := 0
  deadline : Option Nat := none
  onlyS : Bool := false
  /-- The line whose entry is being evicted for it (R204). -/
  victim : Option Nat := none
  deriving DecidableEq, Repr

/-- A directory entry (R199, Table 5): STATE 1 S, 2 X, 3 O, 4 L. -/
structure DEnt where
  st : Nat
  owner : Nat := 0
  sharers : Nat := 0
  use : Bool := true
  way : Nat := 0
  deriving DecidableEq, Repr

/-- Where a transaction stands (R200). -/
inductive TPhase where
  | ba | bd | bg
  deriving DecidableEq, Repr

/-- A transaction on a line (R198). -/
structure Trans where
  req : HReq
  phase : TPhase
  /-- Sites whose answer is awaited; the owner among them, in BD. -/
  waits : List Nat := []
  owner : Option Nat := none
  sharers : Nat := 0
  /-- The owner's answer, once it has come: none for INV_ACK, else D, KEEP and the data. -/
  ans : Option (Nat × Nat × List Byte) := none
  ownerDone : Bool := false
  /-- UPG by a recorded holder: it is answered without data (R197). -/
  holder : Bool := false
  /-- Holders whose WB was accepted meanwhile (R201). -/
  wbs : List Nat := []
  /-- A lost owner was taken as an INV_ACK (R206). -/
  lostOwner : Bool := false
  /-- BG: what is recorded when GRANT_ACK comes, and whether M was granted with data that now exists nowhere else. -/
  record : Option DEnt := none
  grantedM : Bool := false
  deriving DecidableEq, Repr

/-- A line of the system cache. -/
structure CLine where
  data : List Byte
  dirty : Bool := false
  use : Bool := true
  way : Nat := 0
  deriving DecidableEq, Repr

/-- A request in a channel engine's queue (R187): a read of a granule for one of its lines, or a write. -/
structure MReq where
  gran : Nat
  write : Bool
  /-- Read: line wanted. Write: bytes (address within the granule, byte); on a read they are merged into the line it
  fills (an allocating write that missed). -/
  line : Nat := 0
  bytes : List (Nat × Byte) := []
  port : Nat := 0
  id : Nat := 0
  fn : Nat := 0
  cls : Nat := 0
  alloc : Bool := false
  deadline : Option Nat := none
  at16 : Nat := 0
  deriving DecidableEq, Repr

/-- A channel engine. -/
structure Chan where
  queue : List MReq := []
  /-- Open row of each bank (rank and bank as the key) and row hits in a row. -/
  rows : SMap Nat := []
  hits : Nat := 0
  /-- Bytes served to each class, with the time (R262). -/
  served : List (Nat × Nat × Nat) := []
  /-- Check granules held, by their blocks, newest first (R167). -/
  checks : List Nat := []
  /-- When each corrected error of the last second came (R176). -/
  ceTimes : List Nat := []
  /-- Full retraining since (R177), and how long the last one held requests, in µs. -/
  retrainAt : Option Nat := none
  hold : Nat := 0
  /-- Thermal level, and whether the last read of MR4 would have set a lower one (R180). -/
  level : Nat := 0
  cooler : Bool := false
  refresh : Nat := 0
  late : Nat := 0
  deriving DecidableEq, Repr

/-- Attached memory by hub-local offset: contents, the key under which each granule was stored (0: in the clear) and the
granules that are uncorrectable. An unlisted byte reads 0 (log entry 6). -/
structure Mem where
  bytes : SMap Byte := []
  /-- Work areas of attention batches, whose contents are never defined (R138): first byte, bytes, draw. A byte there that
  nothing has written since is a free value. -/
  junk : List (Nat × Nat × Nat) := []
  keys : SMap Nat := []
  ue : List Nat := []
  /-- Lines whose dirty data a slice has lost (R185). -/
  lost : List Nat := []
  /-- Frames of 32 KiB that session engines hold: function, first frame, frames (R116). -/
  held : List (Nat × Nat × Nat) := []
  chans : SMap Chan := []
  /-- The rate that each channel was trained at (R160); a channel not listed: 0x4. -/
  rates : SMap Nat := []
  /-- Where MEM_MOVE's entry goes; moves that wait; by entry, its moves that ended part way, newest first: site, slot, and the
  frame below which frames are there (R179). -/
  moveTo : Option (Nat × Nat) := none
  moves : List (Nat × Nat × Nat) := []
  partMoves : SMap (List (Nat × Nat × Nat)) := []
  /-- Buckets to be moved and the tile each goes to (R186). -/
  buckets : List (Nat × Nat) := []
  /-- Next granule of the patrol scrubber, and when its pass began (R168). -/
  scrub : Nat := 0
  scrubAt : Nat := 0
  /-- Channels that wait for a full retraining (R177, R396). -/
  retrain : List (Nat × Nat) := []
  mr4At : SMap Nat := []
  deriving DecidableEq, Repr

/-- A request that has departed for a slice and is not answered: its class, slice, controller, and who made it (R260). -/
structure Outst where
  cls : Nat
  slice : Nat
  mc : Nat
  who : Who
  deriving DecidableEq, Repr

/-- A home request held at its master port (R251, R255, R260): what the home is to take, the port's request number, the
function, whether it writes, the status that its form gives, and for a request of another hub whether it came in on a secure
port. -/
structure HomeHeld where
  req : HReq
  port : Nat
  id : Nat
  fn : Nat
  off : Nat
  write : Bool
  form : Status
  remote : Option Bool := none
  deriving DecidableEq, Repr

/-- System cache, directory and home transactions, by line address. -/
structure Coh where
  cache : SMap CLine := []
  dir : SMap DEnt := []
  trans : SMap Trans := []
  queue : SMap (List HReq) := []
  /-- Requests held at their master port by a quota or by static regulation (R260, R266): oldest first. -/
  held : List MReq := []
  /-- Home requests held at their master port, oldest first. -/
  heldHome : List HomeHeld := []
  /-- Lines that an owner in O has shown to a reader of the hub's own: the data stands until the line's next transaction (R200). -/
  seen : SMap (List Byte) := []
  outst : List Outst := []
  nextId : Nat := 0
  deriving DecidableEq, Repr

/-! ## Security (spec/15_security_and_isolation.md) -/

/-- A burnish that runs (R392): its extents and, for the cryptographic method, the key slot with the key it held. -/
structure Burn where
  id : Nat
  exts : List Nat
  slot : Option (Nat × Nat) := none
  deriving DecidableEq, Repr

/-- What follows when burnishes and site resets are complete: a mailbox or board management controller command ends with a
RESULT, a TDI reads CONFIG_UNLOCKED (its response goes to a secured session, if one asked), a debug level opens, the wipe
before ANALYSIS goes on (R399, R411, R420); the last two say whether the board management controller asked. -/
inductive SecAct where
  | done (bmc : Bool) (op result : Nat)
  | unlock (fn : Nat) (sid : Option Nat)
  | grant (bmc : Bool) (level : Nat)
  | analysis (bmc : Bool)
  deriving DecidableEq, Repr

/-- It waits for burnishes and for site resets. -/
structure SecWait where
  act : SecAct
  burns : List Nat
  sites : List Nat := []
  deriving DecidableEq, Repr

/-- The root-of-trust island. -/
structure Sec where
  /-- Key slots: the key each holds, as a number that no other key has (R381); a slot not listed is empty. -/
  keys : SMap Nat := []
  nextKey : Nat := 1
  /-- Park roots by function, as numbers that no other key has (R383). -/
  parkRoots : SMap Nat := []
  burns : List Burn := []
  nextBurn : Nat := 0
  waits : List SecWait := []
  /-- When CONF_ENTER was accepted (R395). -/
  confAt : Option Nat := none
  /-- IDE key store (R398): 0 the link stream, n a VF's selective stream. -/
  ide : SMap Nat := []
  /-- SPDM secured sessions (at most four), those still in the handshake, and the Alias key (R397). -/
  sessions : List Nat := []
  handshakes : List Nat := []
  nextSid : Nat := 0
  aliasKey : Option Nat := none
  /-- Nonce of each accepted interface lock. -/
  tdiNonce : SMap Nat := []
  /-- Token bytes held, and the nonce of the latest challenge (R416, R419). -/
  token : SMap Byte := []
  nonce : Option Nat := none
  /-- A command of the board management controller runs. -/
  bmcBusy : Bool := false
  /-- An RTP reset runs since, and the RTP found the life cycle LOCKED at a restart (R433, R414). -/
  rtpAt : Option Nat := none
  recovery : Bool := false
  deriving DecidableEq, Repr


/-! ## Syrel fabric (spec/11_syrel_fabric.md) -/

/-- A Syrel port (R272, R273, R280, R306, R307). -/
structure SyrPort where
  /-- Sender: next CSEQ, codewords sent and not acknowledged (CSEQ, replays made, packet or none). -/
  txSeq : Nat := 0
  unacked : List (Nat × Nat × Option Pkt) := []
  /-- Receiver: CSEQ of the last codeword taken, NAK owed. -/
  rxSeq : Nat := 511
  nak : Bool := false
  /-- Cells received and not yet taken, oldest first; on a secure port those whose tag is not yet verified. -/
  rx : List Cell := []
  unverified : List Cell := []
  /-- Credits toward the partner: reserved by VC, shared (R280). -/
  crd : List Nat := List.replicate 24 0
  shared : Nat := 0
  /-- Packets that wait for credits, oldest first. -/
  txq : List Pkt := []
  /-- The port is training since (1/16 ns). -/
  training : Option Nat := none
  /-- Codewords since the key epoch began and the epoch itself (R384). -/
  cwCount : Nat := 0
  epoch : Nat := 0
  deriving DecidableEq, Repr

/-- A collective record (R292, Table 8). -/
structure Coll where
  fn : Nat
  op : Nat
  fmt : Nat
  unit : Nat
  parent : Nat
  childs : Nat
  arrive : Option Nat
  lines : Nat
  src : Nat
  dst : Nat
  deriving DecidableEq, Repr

/-- A collective that runs (R293): blocks of each child received (direction, block, bytes), own blocks sent or written,
and blocks in DST. -/
structure CollRun where
  seq : Nat
  firing : Nat
  start : Nat
  limit : Nat := 0
  sent : Nat := 0
  got : List (Nat × Nat × List Byte) := []
  done : Nat := 0
  deriving DecidableEq, Repr

/-- A mirror record sent and not acknowledged (R303): session, TAG, when it was sent. -/
structure MirPend where
  ses : Nat
  tag : Nat
  at16 : Nat
  deriving DecidableEq, Repr

/-- A request of another hub that the home serves (R289): parts not yet answered, worst status, bytes of each part. -/
structure Inbound where
  pkt : Pkt
  left : Nat
  st : Status := .ok
  parts : SMap (List Byte) := []
  deriving DecidableEq, Repr

/-- A request in a fabric window that its port holds (R251): master port, request, function, offset, operation, length, data and
the atomic's operation. -/
structure WinReq where
  port : Nat
  id : Nat
  fn : Nat
  off : Nat
  op : Nat
  len : Nat
  data : List Byte
  aux : Nat
  deriving DecidableEq, Repr

/-- The Syrel block. -/
structure Syr where
  ports : SMap SyrPort := []
  /-- Packets for this hub, oldest first. -/
  inbox : List Pkt := []
  /-- Packets held for a direction with no good port (R297): direction (6: the twin), since, packet. -/
  held : List (Nat × Nat × Pkt) := []
  /-- Requests from other hubs that the home serves: number and packet. -/
  inbound : SMap Inbound := []
  nextIn : Nat := 0
  /-- Requests to other hubs: number, and who asked. -/
  outbound : SMap OutReq := []
  nextOut : Nat := 0
  heldWin : List WinReq := []
  /-- Collective records and the collectives that run (R292, R293). -/
  colls : SMap Coll := []
  runs : SMap CollRun := []
  /-- SEQ_NO of the last firing that ended under each record (R293). -/
  ended : SMap Nat := []
  mirPend : List MirPend := []
  /-- Records that wait while both twin ports are down (R303), and since when both have been down (R304). -/
  mirQueue : List Pkt := []
  twinDownAt : Option Nat := none
  twinLost : Bool := false
  /-- K halves that wait for their V half: session, layer, head, position, bytes (R302). -/
  halves : List (Nat × Nat × Nat × Nat × List Byte) := []
  /-- Packets delivered to Herva firmware's queues (R278, R291). -/
  mgmt : List Pkt := []
  deriving DecidableEq, Repr


/-! ## Bring-up, resets and service (spec/17_bringup_reset_service.md) -/

/-- An in-service change (R445): its SUBOP, its descriptor, the tile, memory site, channel or port, how far it has come, when
that step began, how many buckets or entries it moves, and what the proof pass or the training found: 1 a pass, or the channels
that trained. -/
structure Svc where
  sub : Nat
  g : Nat
  k : Nat
  idx : Nat
  phase : Nat := 0
  since : Nat := 0
  moved : Nat := 0
  found : Nat := 0
  deriving DecidableEq, Repr

/-- A broadcast that is being received (R441): the hub that sends it and its number, the packets received (by manifest or
image, chunk and part), when the last came and how often missing chunks have been asked for. -/
structure FwXfer where
  origin : Nat
  transfer : Nat
  parts : SMap (List Byte) := []
  lastAt : Nat
  tries : Nat := 0
  deriving DecidableEq, Repr

/-- A broadcast that was sent (R441): its target and number, and the hubs that have reported. -/
structure FwSent where
  target : Nat
  transfer : Nat
  hubs : List Nat := []
  deriving DecidableEq, Repr

/-- Bring-up and in-service change. -/
structure Boot where
  /-- The bring-up under way: 0 COLD, 1 WARM, 2 SOFT, and when it began (R424, R425). The class of the last one. -/
  bring : Option (Nat × Nat) := some (0, 0)
  cls : Nat := 0
  /-- A compute-partial reset runs since (R434). -/
  partialAt : Option Nat := none
  /-- Entries of the bring-up record: KIND, INDEX, OUTCOME, DETAIL (R432); an item of unknown TYPE was skipped. -/
  entries : List (Nat × Nat × Nat × Nat) := []
  /-- Bytes 32 to 63 of the identity record that each chiplet site gave (R234). -/
  vendor : SMap (List Byte) := []
  skipped : Bool := false
  /-- The private flash; the bank of the configuration store in use (0 CFG_A, 1 CFG_B); the body the RTP assembles; the
  staging image that IMAGE_LOAD writes: its target and bytes. -/
  flash : Flash := {}
  cfgUse : Option Nat := none
  cfgBuf : SMap Byte := []
  imgFor : Nat := 0
  imgBuf : SMap Byte := []
  /-- Subsystem Vendor ID and Subsystem ID (R312). -/
  subsys : Nat := 0
  /-- In-service changes in acceptance order: the first runs (R445). -/
  svc : List Svc := []
  /-- Steering entries of a memory site before it went out, by site: entry and slot (R448). -/
  steered : SMap (List (Nat × Nat)) := []
  /-- Broadcasts being received, by target, and sent. -/
  xfers : SMap FwXfer := []
  sent : List FwSent := []
  nextTransfer : Nat := 0
  /-- Chunks that other hubs have asked for and this hub does not hold yet: hub, target, of the manifest, index. -/
  asks : List (Nat × Nat × Bool × Nat) := []
  /-- The image directory is to be written, by target, since the activation (R442). -/
  dirs : SMap Nat := []
  /-- A commit of the store or of a bank waits for a supply dip to end (R430): 17 CFG_WRITE, 18 IMAGE_LOAD. -/
  commits : List Nat := []
  /-- Retrainings asked for by descriptor (R448): SUBOP, descriptor, memory site and channel, or port. -/
  retrains : List Svc := []
  /-- PERST# is low: warm bring-up begins at its release (R425). -/
  perst : Bool := false
  deriving DecidableEq, Repr


/-! ## Graver engines (spec/03_graver_engine.md) -/

/-- Where a panel buffer stands (R62, R77): held by the engine; being filled, filled, or its load failed; being drained for
the PREL at an index; given back for good. -/
inductive PanelSt where
  | engine
  | loading
  | ready
  | failed (st : Status)
  | draining (prel : Nat)
  | gone
  deriving DecidableEq, Repr

/-- A panel buffer in a launch: its list's entries (four words each) and the one it stands at, the job that fills or
drains it, and the contents it is to be filled with. -/
structure PBuf where
  entries : List (List Nat) := []
  k : Nat := 0
  st : PanelSt := .engine
  job : Option Nat := none
  deriving DecidableEq, Repr

/-- Work queued on an engine (R74, R89): 0 a load or 1 a launch of ring `g` and count `k`, or 2 item `k` of attention batch
`g` (R145). -/
structure GWork where
  kind : Nat
  fn : Nat
  g : Nat
  k : Nat
  /-- The ring whose PASID its host addresses use (R364). -/
  ring : Nat
  deriving DecidableEq, Repr

/-- A running launch. -/
structure GRun where
  work : GWork
  /-- The sixteen words of the launch block (Table 6). -/
  blk : List Nat
  /-- Next instruction (R71 numbering), loop indices i0 to i3, and whether every instruction has issued. -/
  x : Nat
  idx : List Nat := [0, 0, 0, 0]
  ended : Bool := false
  startAt : Nat
  /-- Time the launch timer has been paused for (R90), in 1/16 ns. -/
  paused : Nat := 0
  flags : Nat := 0
  /-- Issue cycles used; results not yet readable: first and last word, cycle (R75); rows last written by an accumulating
  FMA (R76). -/
  cycles : Nat := 0
  inflight : List (Nat × Nat × Nat) := []
  fwdRows : List Nat := []
  bufs : List PBuf := []
  drained : Nat := 0
  status : Status := .ok
  stop : Nat := 0
  deriving DecidableEq, Repr

/-- A Graver engine (Table 1): operand space by row of 256 words (R61), scale stores by buffer row, masks, stipple
generators, program memory and step table by number, versions of the two built-in banks, and the bank to switch to at the
next launch (R72). -/
structure Grv where
  rows : SMap (List Nat) := []
  scales : SMap (List Nat) := []
  masks : List Nat := [0, 0, 0, 0]
  gens : List Nat := []
  prog : SMap Nat := []
  steps : SMap Nat := []
  vers : List Nat := [0, 0]
  /-- The images whose programs and step tables stand in the built-in banks; none where a bank is empty. -/
  sets : List (List Byte) := [[], []]
  nextBank : Option Nat := none
  /-- A set staged into the bank that the running launch still uses: the bank, the version and the image. -/
  restage : Option (Nat × Nat × List Byte) := none
  queue : List GWork := []
  run : Option GRun := none
  prevFn : Option Nat := none
  /-- A built-in kernel has run since the last change of owner, or since all was written: words not listed are free values of
  this draw (the kernel programs are not given; log entry 5). -/
  junk : Option Nat := none
  deriving DecidableEq, Repr



/-! ## Sessions (spec/05_sessions_and_kv_pages.md) -/

/-- A Session Table entry in use (R115, Table 5); its index is its key. -/
structure SesEnt where
  state : Nat := 0
  fn : Nat
  mirror : Bool := false
  replica : Bool := false
  kvFmt : Nat
  dim : Nat
  layersM1 : Nat
  headsM1 : Nat
  gen : Nat
  len : Nat := 0
  maxTokens : Nat
  root : Nat
  frames : Nat := 0
  twinIndex : Nat := 0
  twinValid : Bool := false
  stream : Nat := 0
  streamValid : Bool := false
  /-- GEN of the counterpart at the twin, and records sent to it, mod 4,096 (R301). -/
  twinGen : Nat := 0
  mirTag : Nat := 0
  deriving DecidableEq, Repr

/-- A Stream Table entry in use (R131, Table 10). -/
structure StrEnt where
  session : Nat
  gen : Nat
  fn : Nat
  sketchSel : Bool
  pageBudget : Nat
  batch : Nat
  pos : Nat
  qSlot : Nat
  deriving DecidableEq, Repr

/-- A session operation that waits on a device or on another hub: a park or restore (R125, R126), a mirror or migration
(R127, R128). -/
structure SesOp where
  /-- Descriptor type, ring and count; session index (of an import: none, 262,144). -/
  ty : Nat
  g : Nat
  k : Nat
  ses : Nat
  /-- Where the image stands (R125): KIND 1 NVMe, 2 CXL memory. -/
  kind : Nat := 0
  port : Nat := 0
  nsid : Nat := 0
  target : Nat := 0
  /-- What it waits for. Park: 0 the write, 1 the flush. Restore: 0 the first 4,096 bytes, 1 the rest. Mirror: 0 the
  twin's answer, 1 the acknowledgements of the copy. Migrate: 0 the other hub's answer. -/
  phase : Nat := 0
  /-- Bytes of the image written, or the first 4,096 bytes read. -/
  image : List Byte := []
  deriving DecidableEq, Repr

/-- The session engine: Session Table and GEN of each entry (missing: 1), Stream Table, and the pool frames in use with the
function they belong to (R116). -/
structure Ses where
  tab : SMap SesEnt := []
  gens : SMap Nat := []
  streams : SMap StrEnt := []
  used : SMap Nat := []
  ops : List SesOp := []
  /-- Replicas that the twin was asked for by SES_MIRROR operations that have ended before its answer: ring, count, function. -/
  orphans : List (Nat × Nat × Nat) := []
  deriving DecidableEq, Repr



/-! ## Attention batches (spec/06_attention_service.md) -/

/-- A running maximum, denominator and output of online softmax (R143, R145), each in FP32. -/
structure Soft where
  m : Nat
  l : Nat
  o : List Nat
  deriving DecidableEq, Repr

/-- A work item (R145): the units from `lo` to `hi - 1` of pass `pass` of KV head `head` of the stream at place `str` of
the batch, dealt to TILE_`tile`. `segs` is the number of segments of its pass. -/
structure AItem where
  str : Nat
  head : Nat
  pass : Nat
  lo : Nat
  hi : Nat
  segs : Nat := 1
  tile : Nat
  /-- The tile it was first dealt to, in whose share it counts (R146). -/
  home : Nat := 0
  /-- It has been run before and ended ABORTED (R147). -/
  again : Bool := false
  done : Bool := false
  status : Status := .ok
  /-- What its segment gives each query row of the pass (R145). -/
  res : List Soft := []
  deriving DecidableEq, Repr

/-- A stream of a batch (R141, R142): Stream Table index, session with its GEN, slot and snapshot length; PAGE_BUDGET where it
selects; whether it is served; the pages that selection gives each KV head (none: every page); what its record holds (Table 3);
and, once its append is taken, its place among the operations that start (R144). -/
structure AStr where
  idx : Nat
  ses : Nat
  slot : Nat
  len : Nat
  gen : Nat := 1
  budget : Option Nat := none
  served : Bool
  picks : List (Option (List Nat)) := []
  status : Status := .ok
  selected : Bool := false
  appended : Bool := false
  pages : Nat := 0
  ended : Bool := false
  seq : Option Nat := none
  deriving DecidableEq, Repr

/-- A batch (R141): its descriptor, function and BATCH number, whether it runs, its streams and items, the tiles it was
accepted with that have not yet added to ARRIVE, and the flags of its launches. -/
structure ABatch where
  id : Nat
  g : Nat
  k : Nat
  fn : Nat
  num : Nat
  running : Bool := false
  streams : List AStr := []
  items : List AItem := []
  owing : List Nat := []
  flags : Nat := 0
  deriving DecidableEq, Repr

/-- The attention service: its batches in acceptance order. -/
structure Attn where
  batches : List ABatch := []
  nextId : Nat := 0
  deriving DecidableEq, Repr



/-! ## Performance counters (spec/19_counters.md) -/

/-- A frozen set of counters that is being written (R480): the firing it completes, its owner, the buffer's address, the
units it holds and the words of the buffer. -/
structure Snap where
  firing : Nat
  fn : Nat
  base : Nat
  units : List Nat
  words : List Nat
  deriving DecidableEq, Repr

/-- Cycles of each unit's clock (R474) in quarters of a cycle; how much of that a Graver engine has
been without a launch (R461);
overflows not yet taken (unit, counter); frozen sets, oldest first. -/
structure Cnt where
  cyc : SMap Nat := []
  idle : SMap Nat := []
  ovf : List (Nat × Nat) := []
  snaps : List Snap := []
  deriving DecidableEq, Repr



/-! ## On-die network (spec/10_mesh_and_regulation.md) -/

/-- An on-die request that its target has not answered: the master port and request number it came from, its tag (none for a
request to another hub, whose timer is of the Syrel class), the port number of its target, its line, when it came, how long
the target has held it and since when it holds it (R253, R256). -/
structure OnDie where
  port : Nat
  id : Nat
  tag : Option Nat := none
  tgt : Nat
  line : Nat := 0
  at16 : Nat := 0
  /-- The on-die timeout that applied when it was issued (R252, R256). -/
  limit : Nat := 0
  heldFor : Nat := 0
  heldSince : Option Nat := none
  deriving DecidableEq, Repr

/-- A response on its way: virtual network (2 RSP, 3 DAT) and data plane, injection and ejection port, and what it answers
(R245, R246). -/
structure Flight where
  vn : Nat
  plane : Nat := 0
  src : Nat
  dst : Nat
  id : Nat
  tag : Option Nat
  st : Status
  data : List Byte
  deriving DecidableEq, Repr

/-- The mesh: requests that targets hold, responses in flight in the order injected, routers that gate their clock and when
each router last forwarded (R250). -/
structure Mesh where
  held : List OnDie := []
  flight : List Flight := []
  gated : List Nat := []
  used : SMap Nat := []
  deriving DecidableEq, Repr



/-! ## Power and thermal (spec/18_power_and_thermal.md) -/

/-- Who asked for a power operation: the POWER descriptor of ring `g` and count `k`, a calendar firing (R454), or the hub
itself under H1_AUTO (R461). -/
inductive PwrWho where
  | desc (g k : Nat)
  | firing (id : Nat)
  | auto
  deriving DecidableEq, Repr

/-- An entry to H2 or H3 under way (Table 4): the state asked for, the last step that is complete, when the entry began. -/
structure PEntry where
  target : Nat
  who : PwrWho
  step : Nat := 1
  since : Nat
  deriving DecidableEq, Repr

/-- A change of a rail's voltage on AVSBus (R463): the rail, its target, the operating point whose clock follows the
acknowledgement, when it began, when the Write Voltage frame was last sent and how often. -/
structure Avs where
  rail : Nat
  mv : Nat
  point : Option Nat := none
  since : Nat
  sentAt : Nat
  sends : Nat := 1
  deriving DecidableEq, Repr

/-- What a member of a power group reports (R468). -/
structure GrpRep where
  hub : Nat
  cap : Nat
  power : Nat
  late : Nat
  maxLate : Nat
  deriving DecidableEq, Repr

/-- The power manager. -/
structure Power where
  entry : Option PEntry := none
  /-- Wake events not yet taken: code and index. -/
  wakes : List (Nat × Nat) := []
  /-- POWER descriptors that wait for AT (R453). -/
  waits : List (Nat × Nat) := []
  /-- Doorbell pickup and dispatch are stopped (Table 4, step 2). -/
  held : Bool := false
  /-- Every clock is stopped (R472). -/
  stopped : Bool := false
  /-- Axes that were joined when H3 was entered. -/
  axes : Nat := 0
  /-- Tiles that a droop stretches, and since when (R464). -/
  droops : SMap Nat := []
  /-- The supply dip that lasts: since when, and the rails that warned with VR_WARN_N at bit 6; dips not yet posted. -/
  dipAt : Option Nat := none
  dipRails : Nat := 0
  dipsOwed : List Nat := []
  avs : List Avs := []
  /-- The operating point whose raise a supply dip defers (R464). -/
  raiseTo : Option Nat := none
  /-- Last READ_IOUT of each rail, in mA. -/
  iout : List Nat := [0, 0, 0, 0, 0, 0]
  /-- Periods in a row below 90 % of the cap, and below LIMIT - 5 °C; the limit holds the point down (R466, R470). -/
  lowN : Nat := 0
  coolN : Nat := 0
  hot : Bool := false
  /-- When each periodic action last ran, in 1/16 ns. -/
  pollAt : Option Nat := none
  periodAt : Option Nat := none
  sampleAt : Option Nat := none
  lowerAt : Option Nat := none
  energyAt : Nat := 0
  shownAt : Option Nat := none
  /-- Throttle epoch: index of the last boundary; package power summed over its periods, and periods; whether a condition
  of R467 other than power has held in it. -/
  epoch : Nat := 0
  epSum : Nat := 0
  epN : Nat := 0
  epHot : Bool := false
  epProchot : Bool := false
  /-- The board drives PROCHOT_N low; when the hub last let go of the pin, in 1/16 ns (R498). -/
  board : Bool := false
  letGoAt : Option Nat := none
  /-- Power group: index of the last report, whether the leader has decided since, what FUNCTION's counters read at the last
  report, the reports held, and the cap to be applied next with the period it was decided in. -/
  grpAt : Nat := 0
  grpDone : Bool := true
  grpCount : Nat := 0
  grpMax : Nat := 0
  reports : List GrpRep := []
  nextCap : Option (Nat × Nat) := none
  /-- Graver issue cycles done since the last attribution of energy, by function, and the functions a panel mover has moved
  for (R469). -/
  work : SMap Nat := []
  movers : List Nat := []
  /-- When work that R461 names last ran. -/
  workAt : Nat := 0
  deriving DecidableEq, Repr

/-! ## The whole state -/

/-- The fuses (R2, R20, R27): variant code (1 F, 2 M, 3 S), stepping, serial number, and the enabled physical tiles as
a 72-bit mask. -/
structure Fuses where
  variant : Nat := 1
  stepping : Nat := 0
  serial : Nat := 0
  ptiles : Nat := 2 ^ 64 - 1
  /-- The per-chip voltage table in mV (R462). -/
  vt : List Nat := [0, 0, 0, 0, 0, 0, 0, 0, 0]
  deriving DecidableEq, Repr

/-- Every site's SITE_RST_N is low until bring-up (R238, R424). -/
def resetSites : SMap Site := (List.range 8).map (fun j => (j, { rst := .low 0 }))

/-- The hub. -/
structure State where
  fuses : Fuses := {}
  life : Life := {}
  /-- Register fields that differ from their reset values: key 65536 * field number + index (log entry 3). -/
  regs : SMap Nat := []
  /-- Latched high halves of 64-bit registers: key 65536 * register number + index (R503). -/
  latches : SMap Nat := []
  ruling : Ruling := {}
  cal : Cal := {}
  rings : Rings := {}
  xlat : Xlat := {}
  host : HostIf := {}
  sites : SMap Site := resetSites
  mem : Mem := {}
  coh : Coh := {}
  syr : Syr := {}
  grv : SMap Grv := []
  ses : Ses := {}
  attn : Attn := {}
  cnt : Cnt := {}
  mesh : Mesh := {}
  power : Power := {}
  boot : Boot := {}
  sec : Sec := {}
  timers : Timers := {}
  /-- What the hub has sent out of the block, oldest first. -/
  out : List Out := []
  /-- What the hub has logged, oldest first. -/
  log : List LogRec := []
  /-- The model's own counter: the index of the next free value (log entry 5). -/
  freeCtr : Nat := 0
  /-- Commands that wait, first in first out. -/
  pending : List Instr := []
  deriving DecidableEq, Repr

/-- The state after cold reset, before bring-up: every field at its reset value, memory with nothing listed, no
command waiting. -/
def State.reset : State := {}

end Sys2Proof.Machine
end

