-- ==== Sys2Proof/Machine/Ops.lean ====
section
/-! DEFINITION. Sys2Proof/Machine/Ops.lean: the operations every meaning is written in: reading and writing register
fields, resetting them by class, time, outputs, logs, free values and the tables that say which resources exist. -/

namespace Sys2Proof.Machine

open Sys2Proof

/-! ## Variants and reset values -/

/-- Logical tiles the variant enables (R2, Table 1). -/
def tiles (s : State) : Nat := match s.fuses.variant with | 1 => 64 | 2 => 56 | _ => 48
/-- Memory sites the variant enables (R2, Table 1). -/
def memSites (s : State) : Nat := match s.fuses.variant with | 1 => 20 | 2 => 16 | _ => 12
/-- Chiplet sites the variant enables (R2, Table 1). -/
def chipSites (s : State) : Nat := match s.fuses.variant with | 1 => 8 | 2 => 8 | _ => 4
/-- Partitions the variant offers (R2, Table 1). -/
def partitions (s : State) : Nat := match s.fuses.variant with | 1 => 16 | 2 => 14 | _ => 12
/-- Syrel ports the variant enables (R2, Table 1). -/
def syrPorts (s : State) : Nat := match s.fuses.variant with | 1 => 20 | 2 => 20 | _ => 2
/-- Syrel port `p` is enabled: all twenty, or only the twin ports on the S variant (R2, Table 1). -/
def syrPortOk (p : Nat) (s : State) : Bool := if s.fuses.variant = 3 then p == 18 || p == 19 else decide (p < 20)
/-- The hub power limit of the variant in watts (R2, Table 1). -/
def tdp (s : State) : Nat := match s.fuses.variant with | 1 => 420 | 2 => 380 | _ => 300

/-- The enabled physical tiles in ascending order (R20). -/
def enabledPtiles (s : State) : List Nat := (List.range 72).filter (bit s.fuses.ptiles)
/-- The physical tile that holds TILE_n (R20). -/
def ptileOf (n : Nat) (s : State) : Nat := nth 0 (enabledPtiles s) n

/-- The debug level a life-cycle state opens without a token (R408, Table 1). -/
def openLevel (lc : Nat) : Nat := if lc = 0 ∨ lc = 3 then 2 else 0

/-- The values that fuse decode loads, by field number (R27, R423). -/
def fuseVal (code i : Nat) (s : State) : Nat :=
  if code = HUB_IDENT_VARIANT.code then s.fuses.variant
  else if code = HUB_IDENT_STEPPING.code then s.fuses.stepping
  else if code = HUB_RES_TILES.code then tiles s
  else if code = HUB_RES_MEM_SITES.code then memSites s
  else if code = HUB_RES_CHIPLET_SITES.code then chipSites s
  else if code = HUB_RES_SYREL_PORTS.code then syrPorts s
  else if code = HUB_RES_PARTITIONS.code then partitions s
  else if code = DIE_SERIAL_SERIAL.code then s.fuses.serial
  else if code = TILE_MAP_PTILE.code then (if i < tiles s then ptileOf i s else 0)
  else if code = TILE_MAP_VALID.code then b2n (decide (i < tiles s))
  else if code = LC_STATUS_STATE.code then s.life.state
  else if code = LC_STATUS_COMPAT.code then b2n s.life.compat
  else if code = LC_STATUS_LCB.code then s.life.lcbRead
  else if code = PWR_VT_MV.code then nth 0 s.fuses.vt i
  else 0

/-- The reset value of field `f`, index `i` (the Reset and Meaning columns of its table). -/
def rstVal (f : Fld) (i : Nat) (s : State) : Nat :=
  match f.rv with
  | .const n => n
  | .fuse => fuseVal f.code i s
  | .index => i
  | .portClass => if i = 79 then 30 else if i = 80 then 31 else if 81 ≤ i then 30 else 0
  | .portFollow => b2n (decide (i < 64) || i == 77 || i == 78 || i == 79)
  | .shareZero => if i = 0 then 1024 else 0
  | .tdp => tdp s
  | .debugLevel => openLevel s.life.state
  | .debugSource => if openLevel s.life.state = 0 then 0 else 1

/-! ## Register fields -/

/-- The key of field `f`, index `i`, in the register store. -/
def Fld.key (f : Fld) (i : Nat) : Nat := f.code * 65536 + i

/-- Field `f`, index `i`. -/
def rd (f : Fld) (i : Nat) (s : State) : Nat := (look s.regs (f.key i)).getD (rstVal f i s)

/-- A one-bit field as a truth value. -/
def rdb (f : Fld) (i : Nat) (s : State) : Bool := rd f i s != 0

/-- The life-cycle state that governs the RTP: LOCKED, where its last restart decoded LOCKED (R414). -/
def lifeState (s : State) : Nat := if s.sec.recovery then 5 else s.life.state

/-- The RTP gives no cryptographic service: it is in the error state (R405), or runs only its recovery path (R414). -/
def noCrypto (s : State) : Bool := rdb SEC_STATUS_FIPS_ERROR 0 s || lifeState s == 5

/-- `s` with field `f`, index `i`, holding `v` (kept to the field's width). -/
def wr (f : Fld) (i v : Nat) (s : State) : State :=
  { s with regs := if wrap f.w v = rstVal f i s then del (f.key i) s.regs else put (f.key i) (wrap f.w v) s.regs }

/-- A saturating counter field rises by `n`. -/
def bumpSat (f : Fld) (i n : Nat) (s : State) : State := wr f i (sat f.w (rd f i s + n)) s

/-- A wrapping counter field rises by `n`. -/
def bump (f : Fld) (i n : Nat) (s : State) : State := wr f i (rd f i s + n) s

/-- A field set to 1. -/
def setB (f : Fld) (i : Nat) (s : State) : State := wr f i 1 s

/-- A field set to 0. -/
def clrB (f : Fld) (i : Nat) (s : State) : State := wr f i 0 s

/-- A field set to a truth value. -/
def wrb (f : Fld) (i : Nat) (b : Bool) (s : State) : State := wr f i (b2n b) s

/-- Field `f`, index `i`, back at its reset value. -/
def rst (f : Fld) (i : Nat) (s : State) : State := { s with regs := del (f.key i) s.regs }

/-- The indices of field `f` that differ from reset, with their values. -/
def listed (f : Fld) (s : State) : List (Nat × Nat) :=
  (s.regs.filter (fun p => p.1 / 65536 == f.code)).map (fun p => (p.1 % 65536, p.2))

/-- The field with number `code`. -/
def fldOf (code : Nat) : Option Fld := (regBlocks.flatMap RegBlk.flds).find? (fun f => f.code == code)

/-- Every field entry of the store that satisfies `p` (its field and index) goes back to its reset value. -/
def resetWhere (p : Fld → Nat → Bool) (s : State) : State :=
  { s with regs := s.regs.filter (fun e => match fldOf (e.1 / 65536) with
      | some f => !(p f (e.1 % 65536))
      | none => true) }

/-! ## Time -/

/-- Units of the reference count in one microsecond: the count is held in 1/16 ns. -/
def us16 (n : Nat) : Nat := n * 16000

/-- The reference count, in 1/16 ns. -/
def now16 (s : State) : Nat := s.ruling.refT

/-- The reference count in nanoseconds (RULE_REFCNT). -/
def nowNs (s : State) : Nat := wrap 64 (s.ruling.refT / 16)

/-- The local ruling position (RULE_POS). -/
def pos (s : State) : Nat := s.ruling.pos

/-- Bits [41:10] of the reference count, as the logs record the time of an event (R268, R379). -/
def logAt (s : State) : Nat := slice (nowNs s) 10 32

/-- `t` (1/16 ns) has come. -/
def due (t : Nat) (s : State) : Bool := decide (t ≤ now16 s)

/-! ## Outputs, logs and free values -/

/-- `s` after sending `o`. -/
def emit (o : Out) (s : State) : State := { s with out := s.out ++ [o] }

/-- `s` after logging a record. -/
def logRec (k : LogKind) (args : List Nat) (s : State) : State := { s with log := s.log ++ [⟨k, args⟩] }

/-- The next free value, kept to `w` bits: a value the spec leaves open (log entry 5). -/
def freeVal (w : Nat) (s : State) : Nat := wrap w (Config.freeValue s.freeCtr).toNat

/-- `s` with the next free value drawn. -/
def drew (s : State) : State := { s with freeCtr := s.freeCtr + 1 }

/-- `n` free bytes, from free value `c` on. -/
def freeBytes (c : Nat) : Nat → List Byte
  | 0 => []
  | n + 1 => BitVec.ofNat 8 (Config.freeValue c).toNat :: freeBytes (c + 1) n

/-- `s` with `n` free values drawn. -/
def drewN (n : Nat) (s : State) : State := { s with freeCtr := s.freeCtr + n }

/-! ## Functions, extents and partitions -/

/-- KIND of extent `e` (R387): 0 FREE, 1 FUNCTION, 2 FIRMWARE, 3 HOST_HDM. -/
def extKind (e : Nat) (s : State) : Nat := rd EXT_KIND e s

/-- Extent `e` belongs to function `n`. -/
def extOwned (n e : Nat) (s : State) : Bool := extKind e s == 1 && rd EXT_FUNCTION e s == n

/-- The extents that are not FREE. -/
def usedExts (s : State) : List Nat := (listed EXT_KIND s).map Prod.fst

/-- Function `n` holds an extent. -/
def holdsExtent (n : Nat) (s : State) : Bool := (usedExts s).any (fun e => extOwned n e s)

/-- The functions that hold an extent, in order. -/
def extentHolders (s : State) : List Nat := (List.range 64).filter (fun n => holdsExtent n s)

/-- The partition function `n` is bound to (R386). -/
def partOf (n : Nat) (s : State) : Option Nat := if rdb FUNC_CFG_BOUND n s then some (rd FUNC_CFG_PARTITION n s) else none

/-- SITE_j's partition (R243), where the site has one. -/
def sitePart (j : Nat) (s : State) : Nat := rd SITE_CFG_PARTITION j s

/-- The partition of TILE_t: that of its tile group of four (R385). -/
def tilePart (t : Nat) (s : State) : Option Nat :=
  if rdb TGRP_VALID (t / 4) s then some (rd TGRP_PARTITION (t / 4) s) else none

/-- TILE_t lies in the partition function `n` is bound to. -/
def tileOwned (n t : Nat) (s : State) : Bool := (partOf n s).isSome && tilePart t s == partOf n s

/-- Function `n` is bound to the partition of SITE_j. -/
def siteOwned (n j : Nat) (s : State) : Bool := partOf n s == some (sitePart j s)

/-- The owner of the partition of SITE_j, where it has one. -/
def siteOwner (j : Nat) (s : State) : Option Nat :=
  if rdb PART_CFG_VALID (sitePart j s) s then some (rd PART_CFG_OWNER (sitePart j s) s) else none

/-- Configuration space of function `n`. -/
def fnCfg (n : Nat) (s : State) : FnCfg := lookD {} s.host.fns n

/-- `s` with the configuration space of function `n` changed. -/
def setFnCfg (n : Nat) (f : FnCfg → FnCfg) (s : State) : State :=
  { s with host := { s.host with fns := modD {} n f s.host.fns } }

/-- Function `n` may issue host requests: Bus Master Enable is 1, D0, no FLR of it runs and its TDI is not in ERROR (R315,
R326, R399). -/
def busMaster (n : Nat) (s : State) : Bool :=
  (fnCfg n s).bme && !(fnCfg n s).d3 && (fnCfg n s).flrAt.isNone && rd FUNC_CFG_TDI n s != 3

/-- BAR accesses of function `n` are decoded: Memory Space Enable is 1 (for a VF, VF MSE), D0 (R315), and its TDI is not in
ERROR (R327). -/
def memSpace (n : Nat) (s : State) : Bool :=
  if n = 0 then (fnCfg 0 s).mse && !(fnCfg 0 s).d3
  else decide (n < 64) && s.host.vfEnable && s.host.vfMse && rd FUNC_CFG_TDI n s != 3

/-- The lock state is LOCKED (R39, Table 4). -/
def locked (s : State) : Bool := rd RULE_STATUS_STATE 0 s == 2

/-! ## What runs -/

/-- `s` with the power manager changed. -/
def setPower (f : Power → Power) (s : State) : State := { s with power := f s.power }

/-- Doorbell pickup and dispatch run: not during bring-up, nor from step 2 of an entry to H2 or H3 until the hub is back in
H0 (Table 4 of spec/18_power_and_thermal.md). -/
def dispatching (s : State) : Bool := rdb HUB_GLOBAL_READY 0 s && !s.power.held

/-- A compute-partial reset holds what needs tiles (R434). -/
def tilesHeld (s : State) : Bool := s.boot.partialAt.isSome

/-- A wake event of an edge agent, where an entry to a low-power state is under way or the hub is in H2 or H3 (R251, R457). -/
def noteWake (code idx : Nat) (s : State) : State :=
  if s.power.entry.isSome || decide (2 ≤ rd PWR_STATUS_STATE 0 s) then
    setPower (fun p => { p with wakes := if p.wakes.contains (code, idx) then p.wakes else p.wakes ++ [(code, idx)] }) s
  else s

/-- The mesh takes requests: the hub is not in H2 or H3 (R251). -/
def meshUp (s : State) : Bool := decide (rd PWR_STATUS_STATE 0 s < 2)

/-- What a clocked unit does: nothing once every clock is stopped (R472). -/
def clocked (f : State → State) (s : State) : State := if s.power.stopped then s else f s

end Sys2Proof.Machine
end

