-- ==== Sys2Proof/Machine/Count.lean ====
section
/-! DEFINITION. Sys2Proof/Machine/Count.lean: counting events in the performance counters
(spec/19_counters.md R474 to R477). -/

namespace Sys2Proof.Machine

open Sys2Proof

/-- The unit of MEM_j. -/
def memUnit (j : Nat) : Nat := 64 + j
/-- The unit of SITE_j's agent. -/
def siteUnit (j : Nat) : Nat := 84 + j
/-- The unit of the Syrel port agent of PORT_p. -/
def spaUnit (p : Nat) : Nat := 92 + p / 4
/-- The unit of the host endpoint. -/
def hostUnit : Nat := 97
/-- The unit of the downstream port agent. -/
def dsUnit : Nat := 98
/-- The unit of the control cluster. -/
def ctlUnit : Nat := 99

/-- The unit exists on this variant (R474). -/
def unitOn (u : Nat) (s : State) : Bool :=
  if u < 64 then decide (u < tiles s) else if u < 84 then decide (u - 64 < memSites s)
  else if u < 92 then decide (u - 84 < chipSites s) else if u < 97 then (List.range 4).any (fun i => syrPortOk (4 * (u - 92) + i) s)
  else decide (u < 100)

/-- The event codes of a unit's kind (R475, Table 2); the others are reserved. -/
def eventOk (u ev : Nat) : Bool :=
  if ev = 0 then true
  else if u < 64 then decide (ev ≤ 0x0F) else if u < 84 then decide (0x20 ≤ ev) && decide (ev ≤ 0x28)
  else if u < 92 then decide (0x40 ≤ ev) && decide (ev ≤ 0x44) else if u < 97 then decide (0x60 ≤ ev) && decide (ev ≤ 0x64)
  else if u = 97 then decide (0x80 ≤ ev) && decide (ev ≤ 0x84) else if u = 98 then ev == 0xA0 || ev == 0xA1
  else u == 99 && decide (0xC0 ≤ ev) && decide (ev ≤ 0xC4)

/-- The index of CNT_k of unit `u`, and of its CNT_SEL_k. -/
def cntIx (u k : Nat) : Nat := 8 * u + k

/-- CNT_k of unit `u` is chained to the counter below it (R476). -/
def chained (u k : Nat) (s : State) : Bool := k % 2 == 1 && rdb CNT_SEL_CHAIN (cntIx u k) s

/-- CNT_k of unit `u` adds `n` and wraps at 2^48; a wrap that is its own is an overflow to be taken (R478). -/
def cntAdd (u k n : Nat) (own : Bool) (s : State) : State :=
  let v := rd CNT_COUNT (cntIx u k) s + n
  let s := wr CNT_COUNT (cntIx u k) v s
  if own && decide (2 ^ 48 ≤ v) then { s with cnt := { s.cnt with ovf := s.cnt.ovf ++ [(u, k)] } } else s

/-- CNT_k of unit `u` counts `n` events: its wrap is counted by a counter chained to it (R476). -/
def cntHit (u k n : Nat) (s : State) : State :=
  let up := k % 2 == 0 && chained u (k + 1) s
  let ended := decide (2 ^ 48 ≤ rd CNT_COUNT (cntIx u k) s + n)
  let s := cntAdd u k n (!up) s
  if up && ended then cntAdd u (k + 1) 1 true s else s

/-- CNT_k of unit `u` counts event `ev` on behalf of `fn` (none: the event has no function; R475). -/
def cntWants (u k ev : Nat) (fn : Option Nat) (s : State) : Bool :=
  rd CNT_SEL_EVENT (cntIx u k) s == ev && !chained u k s &&
  (!rdb CNT_SEL_FUNC_EN (cntIx u k) s || fn == some (rd CNT_SEL_FUNC (cntIx u k) s))

/-- `n` events `ev` occur in unit `u` (R474 to R477). -/
def count (u ev : Nat) (fn : Option Nat) (n : Nat) (s : State) : State :=
  if rdb CNT_CTL_FREEZE 0 s || n == 0 || !unitOn u s then s
  else forEach (List.range 8) (fun k s => if cntWants u k ev fn s then cntHit u k n s else s) s

/-! ## Cycles (R474) -/

/-- Quarters of a cycle that unit `u`'s clock makes in a nanosecond; `g` Graver, `m` mesh, `c` Stylus clock. -/
def unitRate (u g m c : Nat) : Nat := if u < 64 then g else if u = 99 then c else m

/-- Cycles of unit `u` as CYC reads. -/
def cycOf (u : Nat) (s : State) : Nat := wrap 64 (lookD 0 s.cnt.cyc u / 4)

/-- A nanosecond in which unit `u`'s clock makes `q` quarters of a cycle. -/
def addCycles (u q : Nat) (s : State) : State :=
  if q = 0 then s else { s with cnt := { s.cnt with cyc := modD 0 u (fun v => v + q) s.cnt.cyc } }

/-- An event of a launch or a panel mover is counted by TILE_t for its owner; Graver issue cycles and the movers' work are
noted for the attribution of energy (R469). -/
def countTile (t ev fn n : Nat) (s : State) : State :=
  let s := if ev = 0x01 then setPower (fun p => { p with work := modD 0 fn (· + n) p.work }) s
    else if ev = 0x06 ∧ !s.power.movers.contains fn then setPower (fun p => { p with movers := p.movers ++ [fn] }) s
    else s
  count t ev (some fn) n s

end Sys2Proof.Machine
end

