-- ==== Sys2Proof/Machine/Records.lean ====
section
/-! DEFINITION. Sys2Proof/Machine/Records.lean: requests and their timers, translated host accesses, interrupts,
completion records, event records and the completion of a descriptor: what every family answers with. -/

namespace Sys2Proof.Machine

open Sys2Proof

/-! ## Error records -/

/-- A value as a hub log may show it for function `n`: 0 where confidential mode hides it (R396, Table 7a). -/
def redact (n v : Nat) (s : State) : Nat :=
  if rdb SEC_STATUS_CONFIDENTIAL 0 s && (rd FUNC_CFG_TDI n s == 1 || rd FUNC_CFG_TDI n s == 2) then 0 else v

/-- A value as a hub log may show it that concerns the hub-local offset `off`, by the function of its extent (R396, Table 7a). -/
def redactAt (off v : Nat) (s : State) : Nat :=
  if extKind (off / 2 ^ 30) s = 1 then redact (rd EXT_FUNCTION (off / 2 ^ 30) s) v s else v

/-- HOST_ERRLOG takes the record if it holds none (R334). -/
def hostErr (kind fn bar off : Nat) (s : State) : State :=
  if rdb HOST_ERRLOG_VALID 0 s then s else
  s |> setB HOST_ERRLOG_VALID 0 |> wr HOST_ERRLOG_KIND 0 kind |> wr HOST_ERRLOG_FUNCTION 0 fn
    |> wr HOST_ERRLOG_BAR 0 (redact fn bar s) |> wr HOST_ERRLOG_OFFSET 0 (redact fn off s)

/-- TMO_LOG takes the record if it holds none (R254). -/
def tmoLog (cls port tag fn : Nat) (s : State) : State :=
  if rdb TMO_LOG_VALID 0 s then s else
  s |> setB TMO_LOG_VALID 0 |> wr TMO_LOG_CLASS 0 cls |> wr TMO_LOG_PORT 0 (redact fn port s)
    |> wr TMO_LOG_TAG 0 (redact fn tag s) |> wr TMO_LOG_FUNCTION 0 fn |> wr TMO_LOG_AT 0 (redact fn (logAt s) s)

/-- TRN_LOG takes the record if it holds none (R373, R379); `pasid` has PASID_EN at bit 20. -/
def trnLog (kind fn pasid page : Nat) (s : State) : State :=
  if rdb TRN_LOG_VALID 0 s then s else
  s |> setB TRN_LOG_VALID 0 |> wr TRN_LOG_KIND 0 kind |> wr TRN_LOG_FUNCTION 0 fn
    |> wr TRN_LOG_PASID 0 (redact fn pasid s) |> wr TRN_LOG_PASID_EN 0 (redact fn (pasid / 2 ^ 20) s)
    |> wr TRN_LOG_AT 0 (redact fn (logAt s) s) |> wr TRN_LOG_VA_PAGE 0 (redact fn page s)

/-- A refused translation of the page of `va` (R369, R373): counted, and the first one logged. -/
def noteRefused (fn pasid va : Nat) (s : State) : State := trnLog 0 fn pasid (va / 4096) (bumpSat TRN_COUNT_REFUSED 0 1 s)

/-- A read of host address `va` that the host refused without a translation (R368). -/
def noteAnswer (a : Answer) (fn pasid va : Nat) (s : State) : State :=
  match a with
  | .fail .pageFault => noteRefused fn pasid va s
  | _ => s

/-- An error reported through AER by function `fn` (R323, Table 5): 1 corrected internal error, 2 Unsupported Request,
3 Completer Abort, 4 Completion Timeout, 5 Unexpected Completion, 6 poisoned TLP, 7 uncorrectable internal error. -/
def reportAer (fn code : Nat) (s : State) : State := { s with host := { s.host with aer := s.host.aer ++ [(fn, code)] } }

/-- A poisoned TLP from the host (R323, Table 5): counted, logged and reported by function `fn`. -/
def poisonedTlp (fn bar off : Nat) (s : State) : State := reportAer fn 6 (hostErr 2 fn bar off (bumpSat HOST_COUNT_POISON 0 1 s))

/-! ## Initiators: tags and timers (R252 to R255) -/

/-- The timeout of an initiator class now, in 1/16 ns (Table 2). -/
def classLimit (cls : Nat) (s : State) : Nat :=
  match cls with
  | 0 => us16 (rd TMO_ONDIE_US 0 s)
  | 1 => us16 (rd TMO_SITE_US 0 s)
  | 2 => us16 (1000 * rd TMO_SYREL_MS 0 s)
  | _ => us16 (rd TMO_HOST_US 0 s)

/-- Tags that `port` has for a class: 4,096 of them (R311; TMO_LOG.TAG has 12 bits). -/
def tagCount : Nat := 4096

/-- The ports share one tag space for the class: Syrel responses carry a tag alone (R281). -/
def samePort (cls a b : Nat) : Bool := cls == 2 || a == b

/-- The tag is outstanding or in quarantine. -/
def tagBusy (cls port tag : Nat) (s : State) : Bool :=
  s.timers.reqs.any (fun r => r.cls == cls && samePort cls r.port port && r.tag == tag) ||
  s.timers.tombs.any (fun t => t.cls == cls && samePort cls t.port port && t.tag == tag)

/-- The lowest free tag. -/
def freeTag (cls port : Nat) (s : State) : Option Nat := firstBelow tagCount (fun t => !tagBusy cls port t s)

/-- The invalidations under way await the read that had host tag `t` no more: it has retired, and the tag is given anew
(R376). -/
def reuseTag (t : Nat) (s : State) : State :=
  { s with xlat := { s.xlat with invals := s.xlat.invals.map (fun i => { i with tags := i.tags.filter (· != t) }) } }

/-- A request takes tag `t` and its timer starts (R253). -/
def startReq (t : Nat) (h : HeldReq) (s : State) : State :=
  let s := if h.cls = 3 ∧ h.port = 77 then reuseTag t s else s
  { s with timers := { s.timers with reqs := s.timers.reqs ++
    [{ cls := h.cls, port := h.port, tag := t, fn := h.fn, purpose := h.purpose, limit := classLimit h.cls s,
       deadline := now16 s + classLimit h.cls s, xkey := h.xkey }] } }

/-- A request leaves its port with a tag (R253). Without a free tag it waits (R255). -/
def sendReq (h : HeldReq) (s : State) : State :=
  match freeTag h.cls h.port s with
  | none => { s with timers := { s.timers with waiting := s.timers.waiting ++ [h] } }
  | some t => emit { h.out with tag := t } (startReq t h s)

/-- A request of a function to the host: Bus Master Enable at 0 holds it (R315). -/
def hostReq (h : HeldReq) (s : State) : State :=
  if busMaster h.fn s then sendReq h s else { s with timers := { s.timers with waiting := s.timers.waiting ++ [h] } }

/-- The outstanding request with a tag. -/
def reqOf (cls port tag : Nat) (s : State) : Option Req :=
  s.timers.reqs.find? (fun r => r.cls == cls && samePort cls r.port port && r.tag == tag)

/-- The outstanding request made for a purpose. -/
def reqFor (p : Purpose) (s : State) : Option Req := s.timers.reqs.find? (fun r => decide (r.purpose = p))

/-- The request is answered: its tag is free. -/
def retireReq (r : Req) (s : State) : State :=
  { s with timers := { s.timers with reqs := s.timers.reqs.filter (fun q => !decide (q = r)) } }

/-- The request made for `p` is answered. -/
def retireFor (p : Purpose) (s : State) : State :=
  { s with timers := { s.timers with reqs := s.timers.reqs.filter (fun q => !decide (q.purpose = p)) } }

/-- The request's tag enters a tombstone for twice its timeout (R254). -/
def entomb (r : Req) (s : State) : State :=
  { retireReq r s with timers := { (retireReq r s).timers with tombs := s.timers.tombs ++
      [{ cls := r.cls, port := r.port, tag := r.tag, till := now16 s + 2 * r.limit }] } }

/-- The timer of the requests that satisfy `p` pauses (R253). -/
def pauseReqs (p : Req → Bool) (s : State) : State :=
  { s with timers := { s.timers with reqs := s.timers.reqs.map (fun r =>
      if p r && r.pausedAt.isNone then { r with pausedAt := some (now16 s) } else r) } }

/-- The timer of the requests that satisfy `p` goes on (R253). -/
def resumeReqs (p : Req → Bool) (s : State) : State :=
  { s with timers := { s.timers with reqs := s.timers.reqs.map (fun r =>
      match p r, r.pausedAt with
      | true, some t => { r with pausedAt := none, deadline := r.deadline + (now16 s - t) }
      | _, _ => r) } }

/-- The request's timer has run out (R254). -/
def expired (r : Req) (s : State) : Bool := r.pausedAt.isNone && due r.deadline s

/-! ## Interrupts (R358, R315) -/

/-- MSI-X vectors a function has (R311, Table 1). -/
def vectorCount (n : Nat) : Nat := if n = 0 then 2048 else 64

/-- The key of a function's MSI-X entry. -/
def msixKey (n v : Nat) : Nat := 2048 * n + v

/-- Vector `v` of function `n` sends its message; masked, it sets its pending bit; while Bus Master Enable is 0 it
is held. -/
def sendMsix (n v : Nat) (s : State) : State :=
  let e := lookD {} s.host.msix (msixKey n v)
  if !(fnCfg n s).msixEn then s
  else if !busMaster n s then { s with host := { s.host with heldMsix := s.host.heldMsix ++ [(n, v)] } }
  else if e.masked || (fnCfg n s).msixMask then
    { s with host := { s.host with msix := put (msixKey n v) { e with pend := true } s.host.msix } }
  else emit { kind := .msix, dest := n, args := [v, e.addr, e.data] } s

/-! ## Rings: derived figures -/

/-- The function that ring `g` belongs to (R335). -/
def ringFn (g : Nat) : Nat := g / 128
/-- What the hub keeps of ring `g`. -/
def rt (g : Nat) (s : State) : RingRt := lookD {} s.rings.rt g
/-- `s` with what it keeps of ring `g` changed. -/
def setRt (g : Nat) (f : RingRt → RingRt) (s : State) : State :=
  { s with rings := { s.rings with rt := modD {} g f s.rings.rt } }
/-- SIZE of ring `g` in entries. -/
def ringSize (g : Nat) (s : State) : Nat := 2 ^ rd RING_CFG_SIZE_LOG2 g s
/-- The PASID key of ring `g`: PASID with PASID_EN at bit 20. -/
def ringPasid (g : Nat) (s : State) : Nat :=
  if rdb RING_PASID_PASID_EN g s then 2 ^ 20 + rd RING_PASID_PASID g s else 0
/-- The completion ring of submission ring `g`, by its global number. -/
def ringCq (g : Nat) (s : State) : Nat := 128 * ringFn g + rd RING_CFG_CQ g s
/-- Address of the doorbell or head line of ring `g`. -/
def ringDb (g : Nat) (s : State) : Nat := rd RING_DB_ADDR g s * 64
/-- FREE of completion ring `g` (R342). -/
def ringFree (g : Nat) (s : State) : Nat :=
  ringSize g s - wrap 32 (rd RING_IDX_NEXT g s + 2 ^ 32 - (rt g s).consumed) - (rt g s).reserved
/-- Ring `g` runs. -/
def ringRunning (g : Nat) (s : State) : Bool := rd RING_STATUS_STATE g s == 1
/-- Completion ring `g` still writes records: it runs, or ENABLE = 0 is stopping it (R359, R360). -/
def cqWrites (g : Nat) (s : State) : Bool :=
  ringRunning g s || (rd RING_STATUS_STATE g s == 2 && rd RING_STATUS_CAUSE g s == 0)

/-- The oldest unsignalled records of ring `g` are signalled with one message (R358). -/
def signalRing (g : Nat) (s : State) : State :=
  sendMsix (ringFn g) (rd RING_MOD_VECTOR g s) (setRt g (fun r => { r with unsignalled := 0 }) s)

/-- A record of ring `g` has become visible; `now`: it triggers the message by itself (R358). -/
def recordVisible (g : Nat) (now : Bool) (s : State) : State :=
  if !rdb RING_MOD_IRQ_EN g s then s else
  let s := setRt g (fun r => { r with unsignalled := r.unsignalled + 1,
                                      oldest := if r.unsignalled = 0 then now16 s else r.oldest }) s
  if now || rd RING_MOD_MOD_US g s == 0 || decide (max 1 (rd RING_MOD_MOD_COUNT g s) ≤ (rt g s).unsignalled) then
    signalRing g s
  else s

/-! ## Translated host accesses (R364 to R368) -/

/-- The regime of R367 is in force. -/
def sharedSplit (s : State) : Bool := rdb REG_STATUS_STATIC_ACTIVE 0 s && rdb TRN_CTL_SHARED_PART 0 s

/-- An entry covers the access (R366). -/
def xCovers (fn pasid va : Nat) (write : Bool) (e : XEntry) : Bool :=
  e.fn == fn && e.pasid == pasid && e.vpage == va / 2 ^ e.size && (if write then e.w else e.r)

/-- The shared cache may serve function `fn` from this entry (R367). -/
def sharedOk (fn : Nat) (s : State) (e : XEntry) : Bool := !sharedSplit s || partOf fn s == some e.way

/-- The translated address an entry gives. -/
def xAddr (va : Nat) (e : XEntry) : Nat := e.tpage * 2 ^ e.size + va % 2 ^ e.size

/-- `l` with `e` as its most recently used entry, kept to `ways` entries a set: a free way among `allowed`, else the
way least recently used (R365). -/
def xFill (allowed : List Nat) (e : XEntry) (l : List XEntry) : List XEntry :=
  let l := l.filter (fun x => !(x.fn == e.fn && x.pasid == e.pasid && x.vpage == e.vpage && x.size == e.size))
  match allowed.find? (fun w => !(l.any (fun x => x.set == e.set && x.way == w))) with
  | some w => { e with way := w } :: l
  | none =>
    match (l.reverse).find? (fun x => x.set == e.set && allowed.contains x.way) with
    | some v => { e with way := v.way } :: l.filter (fun x => !(x.set == e.set && x.way == v.way))
    | none => l

/-- An entry granted by the host enters the shared cache: 16 ways of 4,096 sets (R365, R367). -/
def fillShared (e : XEntry) (s : State) : State :=
  let allowed := if sharedSplit s then (partOf e.fn s).toList else List.range 16
  { s with xlat := { s.xlat with
      shared := xFill allowed { e with set := Config.xlatSet e.fn e.pasid e.vpage e.size % 4096 } s.xlat.shared } }

/-- An entry enters the cache of tile `t`: 8 ways of 128 sets (R365). -/
def fillTile (t : Nat) (e : XEntry) (s : State) : State :=
  let e := { e with set := Config.xlatSet e.fn e.pasid e.vpage e.size % 128 }
  { s with xlat := { s.xlat with tile := modD [] t (xFill (List.range 8) e) s.xlat.tile } }

/-- The entry that serves an access of tile `t` (64 or more: the host endpoint), if either level holds one (R366). -/
def xLookup (fn pasid va : Nat) (write : Bool) (t : Nat) (s : State) : Option XEntry :=
  let own := if t < 64 then (lookD [] s.xlat.tile t).find? (xCovers fn pasid va write) else none
  own <|> s.xlat.shared.find? (fun e => xCovers fn pasid va write e && sharedOk fn s e)

/-- The entry used becomes the most recently used of its set, and fills the tile's cache after a tile miss. -/
def xTouch (e : XEntry) (t : Nat) (s : State) : State :=
  let own := (lookD [] s.xlat.tile t).any (fun x => x.fn == e.fn && x.pasid == e.pasid && x.vpage == e.vpage && x.size == e.size)
  let s := if t < 64 && !own then count t 0x0B (some e.fn) 1 s else s
  let l := if s.xlat.shared.contains e then e :: s.xlat.shared.erase e else s.xlat.shared
  let s := { s with xlat := { s.xlat with shared := l } }
  if t < 64 then fillTile t e s else s

/-- Put an access among those that wait for a translation; the first of a page sends the ATS request (R366). -/
def xMiss (w : XWait) (s : State) : State :=
  let s := if w.tile < 64 then count w.tile 0x0B (some w.fn) 1 s else s
  let asked := s.xlat.waits.any (fun x => x.fn == w.fn && x.pasid == w.pasid && x.page == w.page)
  let s := { s with xlat := { s.xlat with waits := s.xlat.waits ++ [w] } }
  if asked then s else
  hostReq { cls := 3, port := 77, fn := w.fn, purpose := .ats w.fn w.pasid w.page,
            out := { kind := .atsRequest, dest := w.fn, args := [w.pasid, w.page] } } (count hostUnit 0x83 (some w.fn) 1 s)

/-- Piece `p` of job `j` comes to stand at `st`. -/
def setPiece (j p : Nat) (st : PieceSt) (s : State) : State :=
  { s with xlat := { s.xlat with jobs := modAt j (fun x =>
      { x with pieces := modNth p (fun q => { q with st := st }) x.pieces }) s.xlat.jobs } }

/-- The bytes of a write have left for the host: a record becomes visible (R355, R358), a piece of a move is in place. -/
def hostWrote (p : Purpose) (s : State) : State :=
  match p with
  | .recordWrite g _ _ _ now => recordVisible g now s
  | .piece j p => setPiece j p .moved s
  | _ => s

/-- An access whose address is settled leaves on the host link; Bus Master Enable at 0 holds it (R315). -/
def hostIssue (fn pasid va len : Nat) (write : Bool) (p : Purpose) (data : List Byte) (xl : Option Nat) (s : State) :
    State :=
  let o : Out := { kind := if write then .hostWrite else .hostRead, dest := fn,
                   args := [pasid, xl.getD va, len, b2n xl.isSome], data := data }
  let h : HeldReq := { cls := 3, port := 77, fn := fn, purpose := p, out := o,
                       xkey := if xl.isSome then some (fn, pasid, va / 4096) else none }
  if write && busMaster fn s then hostWrote p (emit o s) else hostReq h s

/-- A host access under a function and PASID: through the translation caches with ATS enabled, untranslated
otherwise (R366, R368). -/
def hostAccess (fn pasid va len : Nat) (write : Bool) (p : Purpose) (data : List Byte) (tile : Nat) (s : State) :
    State :=
  if !(fnCfg fn s).atsEn then hostIssue fn pasid va len write p data none s else
  match xLookup fn pasid va write tile s with
  | some e => hostIssue fn pasid va len write p data (some (xAddr va e)) (xTouch e tile s)
  | none => xMiss { fn := fn, pasid := pasid, page := va / 4096, write := write, purpose := p, va := va, len := len,
                    data := data, tile := tile } s

/-! ## Completion records (R353 to R356) -/

/-- The four words of a record of count `k` (R353, R354). -/
def recWords (r : Rec) (k sizeLog2 : Nat) (overflow : Bool) : List Nat :=
  [ (1 - k / 2 ^ sizeLog2 % 2) + 2 * r.kind + 16 * r.status.code + 256 * wrap 5 r.flags + 8192 * b2n overflow
      + 65536 * wrap 16 r.index + 2 ^ 32 * wrap 32 r.tag,
    wrap 13 r.ring + 2 ^ 32 * wrap 32 r.aux,
    wrap 64 r.result, wrap 64 r.mask ]

/-- Count `n` of lost records rises (R359). -/
def cqLost (fn : Nat) (s : State) : State := bumpSat RING_FN_COUNT_CQ_LOST fn 1 s

/-- A record is written to completion ring `g`; `sub` and `k` name its descriptor. -/
def writeRec (g sub k : Nat) (r : Rec) (s : State) : State :=
  if !cqWrites g s then cqLost (ringFn g) s else
  let n := rd RING_IDX_NEXT g s
  let data := (recWords r n (rd RING_CFG_SIZE_LOG2 g s) (rt g s).overflow).flatMap (toBytes 8)
  let now := r.irq || !r.status.good || r.kind == 2
  s |> count hostUnit 0x82 (some (ringFn g)) 1 |> wr RING_IDX_NEXT g (n + 1) |> setRt g (fun x => { x with overflow := false })
    |> hostAccess (ringFn g) (ringPasid g s) (rd RING_BASE_BASE g s * 4096 + n % ringSize g s * 32) 32 true
         (.recordWrite g sub k data now) data 64

/-- A calendar or event record of function `n` for its completion ring `g`: written while a slot is free and none
waits before it, else queued, else dropped (R356). -/
def postTo (n g : Nat) (r : Rec) (s : State) : State :=
  let q := lookD [] s.rings.queued n
  let drop := fun s => if r.kind = 1 then bumpSat RING_FN_COUNT_CAL_DROP n 1 s else bump RING_FN_COUNT_EVENT_DROP n 1 s
  if !cqWrites g s then cqLost n s
  else if q.isEmpty && decide (0 < ringFree g s) then writeRec g 8192 0 r s
  else if q.length < 64 then
    { s with rings := { s.rings with queued := put n (q ++ [(g, r)]) s.rings.queued } }
  else drop (setRt g (fun x => { x with overflow := true }) s)

/-- A calendar record of function `n` (R55, R356). -/
def postCal (n : Nat) (r : Rec) (s : State) : State :=
  if rdb RING_FN_CTL_CAL_EN n s then postTo n (128 * n + rd RING_FN_CTL_CAL_CQ n s) r s
  else bumpSat RING_FN_COUNT_CAL_DROP n 1 s

/-- An event record of function `n` (R357, Table 6): code, what AUX [31:16] holds, status and RESULT. -/
def postEvent (n code aux : Nat) (st : Status) (result : Nat) (s : State) : State :=
  if rdb RING_FN_CTL_EVENT_EN n s then
    postTo n (128 * n + rd RING_FN_CTL_EVENT_CQ n s)
      { kind := 2, status := st, aux := code + 65536 * aux, result := result } s
  else bump RING_FN_COUNT_EVENT_DROP n 1 s

/-- A HUB_EVENT record (R449, Table 10) to each of a list of functions. -/
def hubEvent (fns : List Nat) (code : Nat) (st : Status) (result : Nat) (s : State) : State :=
  forEach fns (fun n => postEvent n 0x000B code st result) s

/-- A THERMAL record (R470) to every function that holds an extent: KIND, the point or level, and the hottest junction, which
confidential mode hides. -/
def thermalEvent (kind val : Nat) (s : State) : State :=
  let hot := if rdb SEC_STATUS_CONFIDENTIAL 0 s then 0 else rd PWR_THERM_HOTTEST 0 s
  hubEvent (extentHolders s) 0x000A .ok (kind + 2 ^ 8 * val + 2 ^ 16 * hot) s

/-! ## Arrival words (R47, R60) -/

/-- `n` is added to arrival word `g`, modulo 2^32; a disabled word discards and logs the addition. -/
def arrivalAdd (g n : Nat) (s : State) : State :=
  if rdb ARRIVAL_CFG_EN g s then bump ARRIVAL_VALUE g n s else logRec .arrivalDisabled [g, n] s

/-- Arrival word `g` belongs to function `n`. -/
def arrivalOwned (n g : Nat) (s : State) : Bool := rd ARRIVAL_CFG_FUNCTION g s == n

/-! ## Descriptors -/

/-- The descriptor of count `k` of ring `g`. -/
def descOf (g k : Nat) (s : State) : Option Desc := s.rings.descs.find? (fun d => d.ring == g && d.count == k)

/-- The started descriptor of count `k` of ring `g`, if its TYPE is `ty`. -/
def runningDesc (g k ty : Nat) (s : State) : Option Desc :=
  match descOf g k s with
  | some d => if d.st = .started ∧ wrap 8 (nth 0 d.words 0) = ty then some d else none
  | none => none

/-- `s` with the descriptor of count `k` of ring `g` changed. -/
def setDesc (g k : Nat) (f : Desc → Desc) (s : State) : State :=
  { s with rings := { s.rings with descs := s.rings.descs.map (fun d => if d.ring = g ∧ d.count = k then f d else d) } }

/-- `s` without that descriptor. -/
def dropDesc (g k : Nat) (s : State) : State :=
  { s with rings := { s.rings with descs := s.rings.descs.filter (fun d => !(d.ring == g && d.count == k)) } }

/-- Word `i` of a descriptor. -/
def Desc.word (d : Desc) (i : Nat) : Nat := nth 0 d.words i

/-- DEADLINE of a descriptor with DL_EN = 1 (Table 2). -/
def Desc.deadline (d : Desc) : Option Nat := if bit (d.word 0) 10 then some (d.word 1) else none

/-- The status a descriptor's record carries: LATE in place of OK once the position has reached DEADLINE, but not for
GRAVER_LAUNCH and ATTN_BATCH (R346). -/
def lateStatus (d : Desc) (st : Status) (s : State) : Status :=
  if bit (d.word 0) 10 && !(wrap 8 (d.word 0) == 0x09 || wrap 8 (d.word 0) == 0x0A) && decide (d.word 1 ≤ pos s) then
    Status.worse st .late
  else st

/-- A descriptor completes: its arrival addition (R347), LATE (R346), its one record and its slot (R355). -/
def completeDesc (g k : Nat) (st : Status) (result mask flags : Nat) (s : State) : State :=
  match descOf g k s with
  | none => s
  | some d =>
    let cq := ringCq g s
    let s := if st.good && bit (d.word 0) 11 then arrivalAdd (slice (d.word 0) 12 10) 1 s else s
    let r : Rec := { kind := 0, status := lateStatus d st s, flags := flags, index := k % ringSize g s,
                     tag := slice (d.word 0) 32 32, ring := g, result := result, mask := mask, irq := bit (d.word 0) 9 }
    dropDesc g k (writeRec cq g k r (setRt cq (fun x => { x with reserved := x.reserved - 1 }) s))

/-- A descriptor completes with no effect but its status. -/
def failDesc (g k : Nat) (st : Status) (s : State) : State := completeDesc g k st 0 0 0 s

end Sys2Proof.Machine
end

