-- ==== Sys2Proof/Machine/CalCore.lean ====
section
/-! DEFINITION. Sys2Proof/Machine/CalCore.lean: what every calendar rule uses: gates, advancing an entry, completing a
firing with its record and its lateness (spec/02_ruling_and_calendar.md R47 to R55). -/

namespace Sys2Proof.Machine

open Sys2Proof

/-- The calendar entry `i`. -/
def calEntry (i : Nat) (s : State) : Option CalEntry := look s.cal.entries i

/-- `s` with entry `i` set. -/
def putCal (i : Nat) (e : CalEntry) (s : State) : State :=
  { s with cal := { s.cal with entries := put i e s.cal.entries } }

/-- `s` with entry `i` free. -/
def freeCal (i : Nat) (s : State) : State := { s with cal := { s.cal with entries := del i s.cal.entries } }

/-- The gate is satisfied: ARRIVAL_GATE - THRESH, as a signed 32-bit value, is zero or positive (R47). -/
def gateOpen (e : CalEntry) (s : State) : Bool :=
  !e.gateEn || decide (wrap 32 (rd ARRIVAL_VALUE e.gate s + 2 ^ 32 - wrap 32 e.thresh) < 2 ^ 31)

/-- The action acts on other hubs: COLLECTIVE_LAUNCH and FW_ACTIVATE (Table 7). -/
def remoteFacing (action : Nat) : Bool := action == 3 || action == 5

/-- R50 or CAL_CTL.ENABLE = 0 holds the entry; a due FW_ACTIVATE is not held (it completes REFUSED). -/
def calHeld (e : CalEntry) (s : State) : Bool :=
  !rdb CAL_CTL_ENABLE 0 s ||
  (!locked s && e.action != 5 && (remoteFacing e.action || !e.localOk))

/-- The bound after which a firing is late, in 1/16 ns: 24 ns (Table 9), and 32 ns more for a local action in
confidential mode (R396). -/
def lateBound (e : CalEntry) (s : State) : Nat :=
  16 * (24 + if rdb SEC_STATUS_CONFIDENTIAL 0 s && !remoteFacing e.action then 32 else 0)

/-- The firing that occurs now is late (R51, R53, R57). -/
def firingLate (e : CalEntry) (s : State) : Bool :=
  e.late || e.stepped || (match e.dueAt with
    | some t => decide (t + lateBound e s < now16 s)
    | none => false)

/-- The position is held, by the hub (R32, R41) or by a segment of kind HOLD that it follows: no entry falls due (R57). -/
def posHeld (s : State) : Bool := s.ruling.holding || (s.ruling.seg.kind == 1 && (s.ruling.dev == 0 || !locked s))

/-- The entry after a firing at its next mark, or none after its last (R53). A mark already reached falls due at once, and one
already past completes LATE (log entry 112). -/
def nextCal (e : CalEntry) (s : State) : Option CalEntry :=
  if e.period = 0 ∨ e.rep = 0 then none else
  let m := e.mark + e.period
  some { e with mark := m, thresh := wrap 32 (e.thresh + e.thrStep), rep := e.rep - 1, firing := e.firing + 1,
                dueAt := if m ≤ pos s && !posHeld s then some (now16 s) else none, late := decide (m < pos s),
                stepped := false, gateMiss := false, skips := e.skips.filter (fun x => decide (m < x.2)) }

/-- The mark of a STEP_DISCARD entry lies in an interval that a step skipped (R57). -/
def markSkipped (e : CalEntry) : Bool := e.stepDiscard && e.skips.any (fun x => decide (x.1 < e.mark) && decide (e.mark < x.2))

/-- The record of a firing: posted for every status but OK, and for every firing with NOTIFY = 1 (R55). -/
def calRecord (fn i tag firing : Nat) (notify : Bool) (st : Status) (at' : Nat) (s : State) : State :=
  if st == .ok && !notify then s else
  postCal fn { kind := 1, status := st, index := i, tag := tag, aux := firing, result := at' } s

/-- The late-launch counter of function `n` (R51): one more, and the greatest lateness. -/
def countLate (n lateness : Nat) (s : State) : State :=
  s |> bump CAL_LATE_COUNT n 1
    |> wr CAL_LATE_MAX_LATE n (max (rd CAL_LATE_MAX_LATE n s) (sat 32 lateness))

/-- Entry `i` stands as `e`; the firings of a STEP_DISCARD entry that a step passed complete ABORTED without firing (R57).
`fuel` bounds the firings left. -/
def settleCal (i : Nat) : Nat → CalEntry → State → State
  | 0, e, s => putCal i e s
  | fuel + 1, e, s =>
    if markSkipped e then
      let s := calRecord e.fn i e.tag e.firing e.notify .aborted (pos s) s
      match nextCal e s with
      | none => freeCal i s
      | some e => settleCal i fuel e s
    else putCal i e s

/-- Entry `i` after a firing of `e`: at its next mark, or free after its last (R53). -/
def advanceCal (i : Nat) (e : CalEntry) (s : State) : State :=
  match nextCal e s with
  | none => freeCal i s
  | some e => settleCal i (e.rep + 1) e s

/-- The firing of entry `i` completes with `st`; the entry is advanced (R53, R55). -/
def endFiring (i : Nat) (e : CalEntry) (st : Status) (s : State) : State :=
  advanceCal i e (calRecord e.fn i e.tag e.firing e.notify st (pos s) s)

/-- What a step from `lo` to `hi` does to the calendar (R57): an entry whose mark it passes is due at once and late, or with
STEP_DISCARD = 1 its firings in the skipped interval complete ABORTED, now or when an earlier firing of it is over. -/
def stepEntries (lo hi : Nat) (s : State) : State :=
  forEach s.cal.entries (fun p s =>
    let e := p.2
    if e.stepDiscard then settleCal p.1 (e.rep + 1) { e with skips := e.skips ++ [(lo, hi)] } s
    else if lo < e.mark ∧ e.mark < hi then putCal p.1 { e with dueAt := some (now16 s), stepped := true } s
    else s) s

/-- Entries whose mark the position has reached fall due; none does while the position is held (R49, R57). A firing whose gate is
not satisfied CAL_GATE_LIMIT ru after its mark will not be made (R48). -/
def markDue (s : State) : State :=
  { s with cal := { s.cal with entries := s.cal.entries.map (fun p =>
      let e := p.2
      let e := if e.dueAt.isNone && decide (e.mark ≤ pos s) && !posHeld s then { e with dueAt := some (now16 s) } else e
      (p.1, if e.dueAt.isSome && !gateOpen e s && decide (e.mark + rd CAL_GATE_LIMIT_LIMIT 0 s ≤ pos s) then { e with gateMiss := true }
            else e)) } }

/-- The functions that hold a calendar entry, and the PF (R449). -/
def calHolders (s : State) : List Nat :=
  (List.range 64).filter (fun n => n == 0 || s.cal.entries.any (fun p => p.2.fn == n))

/-- An issued firing completes (R55). -/
def endIssued (f : Firing) (s : State) : State :=
  calRecord f.fn f.entry f.tag f.index f.notify f.status f.pos
    { s with cal := { s.cal with firings := s.cal.firings.filter (fun x => x.id != f.id) } }

/-- What SITE_j was to deliver of issued doorbells now has outcome `st` (R54): the firings that wait for no other site
complete. A firing late only through this adds to the count with the lateness of its issue (R51). -/
def siteOutcome (j : Nat) (st : Status) (s : State) : State :=
  let hit := s.cal.firings.filter (fun f => f.action == 1 && f.sites.contains j)
  forEach hit (fun f s =>
    let late := st == .late && !f.counted
    let f2 := { f with sites := f.sites.filter (· != j), status := Status.worse f.status st, counted := f.counted || late }
    let s := if late then countLate f.fn f.lateness s else s
    if f2.sites.isEmpty then endIssued f2 s
    else { s with cal := { s.cal with firings := s.cal.firings.map (fun x => if x.id = f.id then f2 else x) } }) s

end Sys2Proof.Machine
end

