-- ==== Sys2Proof/Machine/Cipher.lean ====
section
/-! DEFINITION. Sys2Proof/Machine/Cipher.lean: AES-256, XTS-AES-256 of IEEE 1619 over the 256-byte data unit of a granule
(spec/07_memory_and_system_cache.md R170), and AES-256-GCM (spec/05_sessions_and_kv_pages.md R125, spec/11_syrel_fabric.md R307). -/

namespace Sys2Proof.Machine

open Sys2Proof

/-! ## AES-256 on blocks of 16 bytes, column by column -/

/-- The product of two bytes in GF(2^8) with polynomial x^8 + x^4 + x^3 + x + 1; `n` bits of `b` are taken. -/
def gf8Mul : Nat → Nat → Nat → Nat
  | 0, _, _ => 0
  | n + 1, a, b =>
    Nat.xor (if b % 2 = 1 then a else 0) (gf8Mul n (if a < 128 then 2 * a else Nat.xor (2 * a) 0x11B) (b / 2))

/-- The inverse of a byte: its power 254; 0 for 0. -/
def gf8Inv (a : Nat) : Nat :=
  ((List.range 7).foldl (fun (p : Nat × Nat) _ => let q := gf8Mul 8 p.1 p.1; (q, gf8Mul 8 p.2 q)) (a, 1)).2

/-- A byte rotated left by `k`. -/
def rot8 (k b : Nat) : Nat := b * 2 ^ k % 256 + b * 2 ^ k / 256

/-- The XOR of some numbers. -/
def xorAll (l : List Nat) : Nat := l.foldl Nat.xor 0

/-- The substitution of a byte. -/
def subByte (a : Nat) : Nat := xorAll (0x63 :: (List.range 5).map (fun k => rot8 k (gf8Inv a)))

/-- Its inverse. -/
def unsubByte (y : Nat) : Nat := gf8Inv (xorAll [0x05, rot8 1 y, rot8 3 y, rot8 6 y])

/-- Byte `i` of a block. -/
def aesByte (l : List Nat) (i : Nat) : Nat := l.getD i 0

/-- Row `r` of the block is rotated left by `r`. -/
def shiftRows (l : List Nat) : List Nat := (List.range 16).map (fun i => aesByte l (i % 4 + 4 * ((i / 4 + i % 4) % 4)))

/-- Row `r` of the block is rotated right by `r`. -/
def unshiftRows (l : List Nat) : List Nat := (List.range 16).map (fun i => aesByte l (i % 4 + 4 * ((i / 4 + 4 - i % 4) % 4)))

/-- Each column is multiplied by the circulant matrix with the first row given. -/
def mixWith (m l : List Nat) : List Nat :=
  (List.range 16).map (fun i => xorAll ((List.range 4).map (fun k => gf8Mul 8 (aesByte m ((k + 4 - i % 4) % 4)) (aesByte l (i / 4 * 4 + k)))))

/-- Two blocks are added. -/
def xorBlocks (a b : List Nat) : List Nat := List.zipWith Nat.xor a b

/-- The sixty words of the key schedule, each four bytes. -/
def keyWords (key : List Nat) : List (List Nat) :=
  (List.range 52).foldl (fun ws n =>
    let i := n + 8
    let t := ws.getD (i - 1) []
    let t := if i % 8 = 0 then xorBlocks ((t.drop 1 ++ t.take 1).map subByte) [2 ^ (i / 8 - 1), 0, 0, 0]
      else if i % 8 = 4 then t.map subByte else t
    ws ++ [xorBlocks (ws.getD n []) t]) ((List.range 8).map (fun i => (key.drop (4 * i)).take 4))

/-- The key of round `r`. -/
def roundKey (ws : List (List Nat)) (r : Nat) : List Nat := ((ws.drop (4 * r)).take 4).flatten

/-- A block enciphered under a key schedule. -/
def aesEnc (ws : List (List Nat)) (b : List Nat) : List Nat :=
  let mid := (List.range 13).foldl (fun b r =>
    xorBlocks (mixWith [2, 3, 1, 1] (shiftRows (b.map subByte))) (roundKey ws (r + 1))) (xorBlocks b (roundKey ws 0))
  xorBlocks (shiftRows (mid.map subByte)) (roundKey ws 14)

/-- A block deciphered under a key schedule. -/
def aesDec (ws : List (List Nat)) (b : List Nat) : List Nat :=
  let mid := (List.range 13).foldl (fun b r =>
    mixWith [14, 11, 13, 9] (xorBlocks ((unshiftRows b).map unsubByte) (roundKey ws (13 - r)))) (xorBlocks b (roundKey ws 14))
  xorBlocks ((unshiftRows mid).map unsubByte) (roundKey ws 0)

/-! ## XTS over sixteen blocks -/

/-- The bytes of a number, least significant first. -/
def natBytes (n v : Nat) : List Nat := (toBytes n v).map BitVec.toNat

/-- The tweak of the next block: times α in GF(2^128). -/
def nextTweak (t : Nat) : Nat := if 2 * t < 2 ^ 128 then 2 * t else Nat.xor (2 * t - 2 ^ 128) 0x87

/-- Blocks of sixteen bytes, each through `f` between two additions of its tweak. -/
def xtsBlocks (f : List Nat → List Nat) : Nat → Nat → List Nat → List Nat
  | 0, _, _ => []
  | n + 1, t, l =>
    xorBlocks (f (xorBlocks (l.take 16) (natBytes 16 t))) (natBytes 16 t) ++ xtsBlocks f n (nextTweak t) (l.drop 16)

/-- A data unit of 256 bytes under XTS-AES-256 with tweak `g`: data key `k1`, tweak key `k2` (numbers whose bytes are the keys,
least significant first); `enc`: enciphered, else deciphered. -/
def xts256 (enc : Bool) (k1 k2 g : Nat) (l : List Byte) : List Byte :=
  let ws := keyWords (natBytes 32 k1)
  let t := ofBytes ((aesEnc (keyWords (natBytes 32 k2)) (natBytes 16 g)).map (BitVec.ofNat 8))
  (xtsBlocks (if enc then aesEnc ws else aesDec ws) 16 t (l.map BitVec.toNat)).map (BitVec.ofNat 8)

/-! ## GCM (Galois/Counter Mode) under AES-256 with an IV of 96 bits -/

/-- The number whose bytes, most significant first, are `l`. -/
def bigNat (l : List Nat) : Nat := l.foldl (fun a b => 256 * a + b) 0

/-- `l` made a multiple of sixteen bytes long with zeros. -/
def padBlocks (l : List Nat) : List Nat := l ++ List.replicate ((16 - l.length % 16) % 16) 0

/-- The product of two blocks in GF(2^128), bit 0 of a block the most significant. -/
def ghashMul (x y : Nat) : Nat :=
  ((List.range 128).foldl (fun (p : Nat × Nat) i =>
    (if x / 2 ^ (127 - i) % 2 = 1 then Nat.xor p.1 p.2 else p.1,
     if p.2 % 2 = 0 then p.2 / 2 else Nat.xor (p.2 / 2) (0xE1 * 2 ^ 120))) (0, y)).1

/-- `n` blocks of `l` are taken into the hash `a` under `h`. -/
def ghash (h : Nat) : Nat → List Nat → Nat → Nat
  | 0, _, a => a
  | n + 1, l, a => ghash h n (l.drop 16) (ghashMul (Nat.xor a (bigNat (l.take 16))) h)

/-- The enciphered counter block `c` of an IV, whose bytes are the number's, least significant first. -/
def gcmCounter (ws : List (List Nat)) (iv c : Nat) : List Nat := aesEnc ws (natBytes 12 iv ++ (natBytes 4 c).reverse)

/-- `n` blocks from counter `c` on, enciphered or deciphered. -/
def gcmBlocks (ws : List (List Nat)) (iv : Nat) : Nat → Nat → List Nat → List Nat
  | 0, _, _ => []
  | n + 1, c, l => xorBlocks (l.take 16) (gcmCounter ws iv c) ++ gcmBlocks ws iv n (c + 1) (l.drop 16)

/-- Bytes enciphered, or deciphered, under AES-256-GCM. -/
def gcmCrypt (key iv : Nat) (l : List Byte) : List Byte :=
  (gcmBlocks (keyWords (natBytes 32 key)) iv (l.length / 16 + 1) 2 (l.map BitVec.toNat)).map (BitVec.ofNat 8)

/-- The tag over associated data and ciphertext, as the number whose bytes, least significant first, it is. -/
def gcmTag (key iv : Nat) (aad ct : List Byte) : Nat :=
  let ws := keyWords (natBytes 32 key)
  let l := padBlocks (aad.map BitVec.toNat) ++ padBlocks (ct.map BitVec.toNat) ++
    (natBytes 8 (8 * aad.length)).reverse ++ (natBytes 8 (8 * ct.length)).reverse
  let h := ghash (bigNat (aesEnc ws (List.replicate 16 0))) (l.length / 16) l 0
  ofBytes ((xorBlocks (gcmCounter ws iv 1) (natBytes 16 h).reverse).map (BitVec.ofNat 8))

end Sys2Proof.Machine
end

