-- ==== Sys2Proof/Machine/Route.lean ====
section
/-! DEFINITION. Sys2Proof/Machine/Route.lean: where agents attach to the mesh, and the route of a packet
(spec/01_hub_and_package.md R20, R21; spec/10_mesh_and_regulation.md R244, R245, R250). -/

namespace Sys2Proof.Machine

open Sys2Proof

/-- The physical router of an edge memory controller (R21). -/
def memRouter (m : Nat) : Nat := if m < 10 then 63 + (1 + 7 * m / 10) else 1 + 7 * (m - 10) / 10

/-- The physical router that serves master port `k` (Table 2 of R21, Table 3 of R259); a chiplet site uses that of its two
rows that `row`, the other end's row, selects (R245). -/
def portRouter (k row : Nat) (s : State) : Nat :=
  if k < 64 then ptileOf k s
  else if k < 72 then
    let j := k - 64
    9 * (if row ≤ 2 * (j % 4) then 2 * (j % 4) else 2 * (j % 4) + 1) + (if j < 4 then 0 else 8)
  else if k < 77 then nth 0 [65, 67, 69, 2, 4] (k - 72)
  else if k = 77 then 6 else if k = 78 then 7 else if k = 79 then 70 else if k = 80 then 8
  else memRouter (k - 81)

/-- The numbers from `a` to `b`, either way. -/
def span (a b : Nat) : List Nat :=
  if a ≤ b then (List.range (b - a + 1)).map (a + ·) else (List.range (a - b + 1)).map (a - ·)

/-- The routers of a packet's path: along its row, then along the column (R244). -/
def routeOf (src dst : Nat) : List Nat :=
  ((span (src % 9) (dst % 9)).map (fun x => 9 * (src / 9) + x) ++ (span (src / 9) (dst / 9)).map (fun y => 9 * y + dst % 9)).eraseDups

/-- The path between two ports. -/
def portRoute (src dst : Nat) (s : State) : List Nat :=
  let a := portRouter src (portRouter dst 0 s / 9) s
  let b := portRouter dst (a / 9) s
  routeOf a b

/-- The logical tile at a physical one, where it is enabled (R20). -/
def tileAt (p : Nat) (s : State) : Option Nat := (enabledPtiles s).findIdx? (· == p)

/-- A router forwards a packet: it wakes if its clock was gated (R250). -/
def forward (r : Nat) (s : State) : State :=
  let woke := s.mesh.gated.contains r
  let s := { s with mesh := { s.mesh with gated := s.mesh.gated.filter (· != r), used := put r (now16 s) s.mesh.used } }
  match tileAt r s with
  | some t => count t 0x0F none (b2n woke) (count t 0x0E none 1 s)
  | none => s

/-- A packet travels from a port to another. -/
def travel (src dst : Nat) (s : State) : State := forEach (portRoute src dst s) forward s

end Sys2Proof.Machine
end

