-- ==== Sys2Proof/Machine/Memory.lean ====
section
/-! DEFINITION. Sys2Proof/Machine/Memory.lean: attached memory: where a byte lives, keys, granule reads and writes, error
reports, the channel engines' queues and the system cache (spec/07_memory_and_system_cache.md R159 to R188). -/

namespace Sys2Proof.Machine

open Sys2Proof

/-- `s` with the memory state changed. -/
def setMem (f : Mem → Mem) (s : State) : State := { s with mem := f s.mem }

/-- `s` with the cache and directory state changed. -/
def setCoh (f : Coh → Coh) (s : State) : State := { s with coh := f s.coh }

/-! ## Placement (R162, R163, R165) -/

/-- MEM_SIZE (R162). -/
def memSize (s : State) : Nat := rd MEM_SIZE_BYTES 0 s

/-- The XOR of the `w`-bit fields of a number of up to `n` fields. -/
def foldXor (w : Nat) : Nat → Nat → Nat
  | 0, _ => 0
  | n + 1, x => Nat.xor (x % 2 ^ w) (foldXor w n (x / 2 ^ w))

/-- Where a granule stands: site, channel, rank, raw granule, bank, row and column granule (R163). -/
structure Loc where
  site : Nat
  ch : Nat
  rank : Nat
  raw : Nat
  bank : Nat
  row : Nat
  col : Nat := 0
  deriving DecidableEq, Repr

/-- The error-correction block of a place: 32 raw granules of its channel (R166). -/
def Loc.block (l : Loc) : Nat := l.raw / 32

/-- Where the check bytes of a place stand: the raw granule, and the first of the eight bytes in it (R163). -/
def Loc.checkAt (l : Loc) : Nat × Nat := (32 * l.block + 31, 8 * (l.raw % 32))

/-- The steering entry and the frame of granule `g` (R163). -/
def steerOf (g : Nat) (s : State) : Nat × Nat :=
  let ne := rd MEM_GEOM_NE 0 s
  let f := g / ne
  let h := Nat.xor (Nat.xor f (f / 2 ^ 10)) (Nat.xor (f / 2 ^ 20) (f / 2 ^ 30)) % 1024
  ((g % ne + h) % ne, f)

/-- The site and slot that hold frame `f` of entry `e`: the move under way, and before it the moves that ended part way, the
latest first, give the frames below their copy position the new place (R179). -/
def placeOf (e f : Nat) (s : State) : Nat × Nat :=
  let old := match (lookD [] s.mem.partMoves e).find? (fun p => decide (f < p.2.2)) with
    | some p => (p.1, p.2.1)
    | none => (rd SITE_STEER_SITE e s, rd SITE_STEER_SLOT e s)
  if rdb MEM_MOVE_ACTIVE 0 s && rd MEM_MOVE_ENTRY 0 s == e && decide (f < rd MEM_MOVE_FRAME 0 s) then s.mem.moveTo.getD old
  else old

/-- Where the byte at a hub-local offset lives (R163). -/
def locate (off : Nat) (s : State) : Loc :=
  let (e, f) := steerOf (off / 256) s
  let (j, slot) := placeOf e f s
  let x := f * rd SITE_SLOTS_SLOTS j s + slot
  let full := rd MEM_STATUS_STATE j s != 2
  let ch := if full then foldXor 3 16 x else 4 * rd MEM_STATUS_HALF_HIGH j s + foldXor 2 24 x
  let c := if full then x / 8 else x / 4
  let raw := 32 * (c / 31) + c % 31
  let dual := rdb MEM_CFG_DUAL_RANK j s
  let q := if dual then raw / 2 else raw
  { site := j, ch := ch, rank := if dual then raw % 2 else 0, raw := raw,
    bank := Nat.xor (q / 8) (q / 4096) % 16, row := q / 128, col := q % 8 }

/-- The bucket of a hub-local offset (R165). -/
def bucketOf (off : Nat) : Nat :=
  let g := off / 256
  Nat.xor (Nat.xor g (g / 2 ^ 12)) (g / 2 ^ 24) % 4096

/-- The tile whose slice is home for an offset (R165). -/
def homeTile (off : Nat) (s : State) : Nat := rd SLICE_STEER_TILE (bucketOf off) s

/-- The set of a line in its slice (R182). -/
def scSet (line : Nat) : Nat :=
  Nat.xor (Nat.xor line (line / 2 ^ 12)) (Nat.xor (line / 2 ^ 24) (line / 2 ^ 36)) % 4096

/-! ## Inline error correction (R166) -/

/-- The product of two elements of GF(2^16) with polynomial x^16 + x^12 + x^3 + x + 1. -/
def gfMul : Nat → Nat → Nat → Nat
  | 0, _, _ => 0
  | n + 1, a, b =>
    let a2 := if a < 2 ^ 15 then 2 * a else Nat.xor (2 * a) 0x1100B
    Nat.xor (if b % 2 = 1 then a else 0) (gfMul n a2 (b / 2))

/-- Coefficients of (x − α)(x − α^2)(x − α^3)(x − α^4) below x^4, highest degree first. -/
def rsGen : List Nat :=
  let step := fun (p : List Nat) (r : Nat) => List.zipWith Nat.xor (p ++ [0]) (0 :: p.map (fun c => gfMul 16 c r))
  ([2, 4, 8, 16].foldl step [1]).drop 1

/-- The check symbols of a message, highest degree first. -/
def rsRemainder (msg : List Nat) : List Nat :=
  msg.foldl (fun r m =>
    let f := Nat.xor (r.headD 0) m
    List.zipWith Nat.xor (r.drop 1 ++ [0]) (rsGen.map (fun c => gfMul 16 c f))) [0, 0, 0, 0]

/-- The 16-bit symbols of bytes, little-endian. -/
def symbols : List Byte → List Nat
  | a :: b :: t => (a.toNat + 256 * b.toNat) :: symbols t
  | [a] => [a.toNat]
  | [] => []

/-- The eight check bytes of granule `g` with the stored bytes given (R166). -/
def checkBytes (g : Nat) (stored : List Byte) : List Byte :=
  (rsRemainder ([slice g 32 16, slice g 16 16, slice g 0 16] ++ symbols stored)).flatMap (toBytes 2)

/-! ## Keys and access (R170, R171, R387, R388, R116) -/

/-- The key of slot `k`, while the RTP offers key service (R171, R405, R414). -/
def slotKey (k : Nat) (s : State) : Option Nat := if noCrypto s then none else look s.sec.keys k

/-- The key in force for an offset: 0 in the clear; none where the extent's key slot gives none (R170, R171). -/
def keyFor (off : Nat) (s : State) : Option Nat :=
  let e := off / 2 ^ 30
  match extKind e s with
  | 1 => if rdb EXT_KEY_EN e s then slotKey (rd EXT_FUNCTION e s) s else some 0
  | 2 => if rdb EXT_KEY_EN e s then slotKey 84 s else some 0
  | _ => some 0

/-- Who requests an access to hub-local memory (R388, Table 3). -/
inductive Reqr where
  /-- The agent at master port `k`, for function `n`: the control cluster where none is named. -/
  | agent (n : Nat) (k : Nat := 79)
  /-- The panel mover of TILE_`t`, of a COPY: `alloc` says whether its accesses allocate in the system cache (R349). -/
  | mover (n : Nat) (alloc : Bool) (t : Nat)
  /-- The session engine for function `n`, through master port `k` (R116, R119): a gather's reads do not allocate (R149). -/
  | engine (n : Nat) (alloc : Bool := true) (k : Nat := 79)
  /-- The chiplet at SITE_j. -/
  | site (j : Nat)
  /-- A Syrel request carrying function `n`, through the agent SPA_`a`; `secure`: it came in on a port with SECURE = 1. -/
  | syrel (n : Nat) (secure : Bool) (a : Nat)
  /-- CXL.mem of the host. -/
  | hdm
  /-- Herva firmware for itself, the RTP, the scrubber, moves. -/
  | firmware
  deriving DecidableEq, Repr

/-- The extent rule of Table 3 (R388). -/
def extAllows (r : Reqr) (off : Nat) (s : State) : Bool :=
  let e := off / 2 ^ 30
  match r with
  | .agent n _ | .engine n _ _ | .mover n _ _ => extOwned n e s
  | .site j => extKind e s == 1 && rdb EXT_SITE_OK e s && siteOwned (rd EXT_FUNCTION e s) j s
  | .syrel n secure _ => extOwned n e s && rdb EXT_REMOTE e s && (!rdb SEC_STATUS_CONFIDENTIAL 0 s || secure)
  | .hdm => extKind e s == 3
  | .firmware => true

/-- The frame of an offset is held by a session engine (R116). -/
def frameHeld (off : Nat) (s : State) : Bool :=
  s.mem.held.any (fun h => decide (h.2.1 ≤ off / 32768) && decide (off / 32768 < h.2.1 + h.2.2))

/-- The held-frame rule (R116). -/
def heldAllows (r : Reqr) (off : Nat) (write : Bool) (s : State) : Bool :=
  !frameHeld off s || (match r with
    | .engine _ _ _ | .firmware => true
    | .agent _ _ | .mover _ _ _ => !write
    | _ => false)

/-- Channel `ch` of MEM_j has failed (R178). -/
def chanFailed (j ch : Nat) (s : State) : Bool := !bit (rd MEM_STATUS_CH_OK j s) ch

/-- What the address itself makes a request complete with (R162, R171, R178), the worst of what applies (R17). -/
def addrStatus (off : Nat) (s : State) : Status :=
  if memSize s ≤ off then .unreachable
  else if rdb EXT_BURNISH (off / 2 ^ 30) s || (keyFor off s).isNone then .accessDenied
  else if chanFailed (locate off s).site (locate off s).ch s then .unreachable
  else .ok

/-- What the requester and the address make an access complete with. An offset beyond the last extent is held by none, so only
the address itself counts (R387, R162). -/
def accessStatus (r : Reqr) (off : Nat) (write : Bool) (s : State) : Status :=
  if decide (2560 * 2 ^ 30 ≤ off) || (extAllows r off s && heldAllows r off write s) then addrStatus off s else .accessDenied

/-- The offsets of the lines that `len` bytes from `off` touch. -/
def lineOffs (off len : Nat) : List Nat :=
  if len = 0 then [] else (List.range ((off + len - 1) / 64 - off / 64 + 1)).map (fun i => (off / 64 + i) * 64)

/-- The worst status over a range. -/
def rangeStatus (r : Reqr) (off len : Nat) (write : Bool) (s : State) : Status :=
  Status.worst ((lineOffs off len).map (fun o => accessStatus r o write s))

/-! ## Granules -/

/-- What an unlisted byte reads as: 0 (log entry 6), or, in the work area of an attention batch, a free value (R138). -/
def unlistedByte (m : Mem) (off : Nat) : Byte :=
  match m.junk.find? (fun j => decide (j.1 ≤ off) && decide (off < j.1 + j.2.1)) with
  | some j => Config.workByte j.2.2 off
  | none => 0

/-- The memory is in canonical form: addresses rise strictly, and no byte is listed that an unlisted address reads as. -/
abbrev Mem.wf (m : Mem) : Prop := sortedKeys m.bytes = true ∧ ∀ p ∈ m.bytes, p.2 ≠ unlistedByte m p.1

/-- The byte stored at an offset, as it was before encryption. -/
def storedByte (off : Nat) (s : State) : Byte := (look s.mem.bytes off).getD (unlistedByte s.mem off)

/-- The 256 bytes of granule `g` as stored before encryption. -/
def storedGran (g : Nat) (s : State) : List Byte := (List.range 256).map (fun i => storedByte (256 * g + i) s)

/-- The key granule `g` was stored under. -/
def granKey (g : Nat) (s : State) : Nat := lookD 0 s.mem.keys g

/-- A granule's bytes enciphered (`enc`) or deciphered under key `k`, with tweak G; key 0: in the clear (R170). -/
def cipherGran (enc : Bool) (k g : Nat) (l : List Byte) : List Byte :=
  if k = 0 then l else xts256 enc (Config.slotKey k).1 (Config.slotKey k).2 g l

/-- The 256 bytes of granule `g` as they stand in the device (R170). A move relocates them as they are (R179). -/
def deviceGran (g : Nat) (s : State) : List Byte := cipherGran true (granKey g s) g (storedGran g s)

/-- The 256 bytes that granule `g` decrypts to under the key now in force (R170). -/
def granBytes (g : Nat) (s : State) : List Byte :=
  let k := (keyFor (256 * g) s).getD 0
  if granKey g s = k then storedGran g s else cipherGran false k g (deviceGran g s)

/-- The eight check bytes that stand with granule `g` (R166). -/
def granCheck (g : Nat) (s : State) : List Byte := checkBytes g (deviceGran g s)

/-- The granule at a raw granule of channel `ch` of MEM_j. -/
def granAt (j ch raw : Nat) (s : State) : Option Nat :=
  (List.range (memSize s / 256)).find? (fun g => let l := locate (256 * g) s; l.site == j && l.ch == ch && l.raw == raw)

/-- What a raw granule of channel `ch` of MEM_j holds (R166): a data granule, or the check bytes of its block and eight zero
bytes. Where no granule stands there, the spec says nothing of it: none. -/
def rawGranule (j ch raw : Nat) (s : State) : Option (List Byte) :=
  if raw % 32 = 31 then
    some ((List.range 31).flatMap (fun p => match granAt j ch (raw - 31 + p) s with
      | some g => granCheck g s
      | none => List.replicate 8 0) ++ List.replicate 8 0)
  else (granAt j ch raw s).map (fun g => deviceGran g s)

/-- Granule `g` is uncorrectable. -/
def granBad (g : Nat) (s : State) : Bool := s.mem.ue.contains g

/-- The bytes listed are stored from an offset on. -/
def pokeBytes (off : Nat) (l : List Byte) (s : State) : State :=
  setMem (fun m => { m with bytes := (l.zipIdx).foldl (fun b p => putD (unlistedByte m (off + p.2)) (off + p.2) p.1 b) m.bytes }) s

/-- What the bytes of a range hold is not defined any more (R138). -/
def spoil (lo len : Nat) (s : State) : State :=
  let inside := fun a => decide (lo ≤ a) && decide (a < lo + len)
  let s := setCoh (fun h => { h with cache := h.cache.filter (fun p => !inside (64 * p.1)) }) s
  drew (setMem (fun m =>
    { m with bytes := m.bytes.filter (fun p => !inside p.1),
             junk := (lo, len, s.freeCtr) :: m.junk.filter (fun j => !(decide (lo ≤ j.1) && decide (j.1 + j.2.1 ≤ lo + len))) }) s)

/-- Granule `g` is written whole with the bytes given, under the key in force (R172). -/
def putGran (g : Nat) (l : List Byte) (s : State) : State :=
  let k := (keyFor (256 * g) s).getD 0
  setMem (fun m => { m with keys := putD 0 g k m.keys, ue := m.ue.filter (· != g) }) (pokeBytes (256 * g) l s)

/-- `l` with the bytes of a partial write merged in. -/
def mergeBytes (l : List Byte) (w : List (Nat × Byte)) : List Byte :=
  w.foldl (fun l p => l.set p.1 p.2) l

/-! ## Error reports (R174, R175) -/

/-- The first error since MEM_ERRLOG.VALID was cleared is recorded (R175). -/
def memErrLog (kind : Nat) (l : Loc) (s : State) : State :=
  if rdb MEM_ERRLOG_VALID l.site s then s else
  s |> setB MEM_ERRLOG_VALID l.site |> wr MEM_ERRLOG_KIND l.site kind |> wr MEM_ERRLOG_CH l.site l.ch
    |> wr MEM_ERRLOG_RANK l.site l.rank |> wr MEM_ERRLOG_RAW l.site l.raw

/-- The tenant fault MEM_UE at an offset (R174). -/
def postMemUe (off : Nat) (s : State) : State :=
  let e := off / 2 ^ 30
  let site := (locate off s).site
  if extKind e s = 1 then postEvent (rd EXT_FUNCTION e s) 0x0001 site .dataErr off s
  else logRec .memEvent [site, off] s

/-- An uncorrectable granule is met (R174, R175); in confidential mode the record of a locked function's data shows no place
(R396). -/
def meetUe (g : Nat) (s : State) : State :=
  let l := locate (256 * g) s
  let show' := fun v => redactAt (256 * g) v s
  postMemUe (256 * g) (memErrLog 0 { l with ch := show' l.ch, rank := show' l.rank, raw := show' l.raw } (bump MEM_ERRCNT_UE l.site 1 s))

/-- A write reaches granule `g` (R172): whole, or merged into what the granule holds; an uncorrectable granule takes
no partial write. -/
def writeGran (g : Nat) (w : List (Nat × Byte)) (s : State) : Status × State :=
  if w.length = 256 then (.ok, putGran g (mergeBytes (List.replicate 256 0) w) s)
  else if granBad g s then (.dataErr, meetUe g s)
  else (.ok, putGran g (mergeBytes (granBytes g s) w) s)

/-! ## The system cache (R182 to R185) -/

/-- The line as the system cache holds it. -/
def cached (line : Nat) (s : State) : Option CLine := look s.coh.cache line

/-- `s` with the line as given in the cache. -/
def setLine (line : Nat) (c : CLine) (s : State) : State := setCoh (fun h => { h with cache := put line c h.cache }) s

/-- `s` with the line absent from the cache. -/
def dropLine (line : Nat) (s : State) : State := setCoh (fun h => { h with cache := del line h.cache }) s

/-- Key of a channel engine. -/
def chanKey (j ch : Nat) : Nat := 8 * j + ch

/-- A channel engine. -/
def chan (k : Nat) (s : State) : Chan := lookD {} s.mem.chans k

/-- `s` with a channel engine changed. -/
def setChan (k : Nat) (f : Chan → Chan) (s : State) : State := setMem (fun m => { m with chans := modD {} k f m.chans }) s

/-- Channel `ch` of MEM_j works: it is not being retrained (R177). -/
def chanOpen (j ch : Nat) (s : State) : Bool := (chan (chanKey j ch) s).retrainAt.isNone

/-- A channel of MEM_j is being retrained. -/
def siteRetraining (j : Nat) (s : State) : Bool := rdb MEM_STATUS_RETRAINING j s

/-- The move stands still: a channel of one of its two sites is being retrained (R179). -/
def movePaused (s : State) : Bool :=
  siteRetraining (rd SITE_STEER_SITE (rd MEM_MOVE_ENTRY 0 s) s) s || (match s.mem.moveTo with
    | some p => siteRetraining p.1 s
    | none => false)

/-- Granule `g` is the one under copy (R179). -/
def underCopy (g : Nat) (s : State) : Bool :=
  rdb MEM_MOVE_ACTIVE 0 s && !movePaused s && steerOf g s == (rd MEM_MOVE_ENTRY 0 s, rd MEM_MOVE_FRAME 0 s)

/-- Requests to granule `g` are held at its channel (R177, R179). -/
def granHeld (g : Nat) (s : State) : Bool := !chanOpen (locate (256 * g) s).site (locate (256 * g) s).ch s || underCopy g s

/-- The bucket of a line is being moved (R186). -/
def bucketMoving (line : Nat) (s : State) : Bool := rdb SLICE_STEER_MOVING (bucketOf (64 * line)) s

/-- Requests to a line are held: its bucket moves (R186), or the slice does not have it and its channel holds requests. -/
def lineHeld (line : Nat) (s : State) : Bool :=
  bucketMoving line s || ((cached line s).isNone && granHeld (line / 4) s)

/-- A request enters the queue of the engine that its granule lives at. -/
def enqueue (r : MReq) (s : State) : State :=
  let l := locate (256 * r.gran) s
  setChan (chanKey l.site l.ch) (fun c => { c with queue := c.queue ++ [{ r with at16 := now16 s }] }) s

/-- The dirty line `line` leaves for memory with every other dirty line of its granule present in the slice; the others
stay, clean (R184). A whole granule present makes a whole-granule write. -/
def writeBack (line cls : Nat) (s : State) : State :=
  let g := line / 4
  let ls := (List.range 4).map (fun i => 4 * g + i)
  let whole := ls.all (fun l => (cached l s).isSome)
  let out := ls.filter (fun l => match cached l s with | some c => whole || c.dirty | none => false)
  let bytes := out.flatMap (fun l => match cached l s with
    | some c => (c.data.zipIdx).map (fun p => (l % 4 * 64 + p.2, p.1))
    | none => [])
  let s := forEach out (fun l s => match cached l s with
    | some c => setLine l { c with dirty := false } s
    | none => s) s
  enqueue { gran := g, write := true, bytes := bytes, port := 255, cls := cls % 32 } s

/-- A line leaves the slice. -/
def evictLine (line cls : Nat) (s : State) : State :=
  match cached line s with
  | some c => dropLine line (if c.dirty then writeBack line cls s else s)
  | none => s

/-- Ways that class `cls` may allocate in (R183); 32 and more: the class of an access that does not allocate (R349). -/
def allocMask (cls : Nat) (s : State) : Nat :=
  if cls < 32 ∧ rdb SC_CTL_ALLOC_EN 0 s then rd SC_WAYS_ALLOC_MASK cls s else 0

/-- The lines of a line's slice and set. -/
def setMates (line : Nat) (s : State) : List (Nat × CLine) :=
  s.coh.cache.filter (fun p => scSet p.1 == scSet line && homeTile (64 * p.1) s == homeTile (64 * line) s)

/-- A line is allocated for class `cls` (R183); nothing is where the class has no way. -/
def allocLine (line cls : Nat) (data : List Byte) (dirty : Bool) (s : State) : State :=
  let ways := (List.range 16).filter (bit (allocMask cls s))
  match ways with
  | [] => s
  | w0 :: _ =>
    let mates := setMates line s
    match ways.find? (fun w => !mates.any (fun p => p.2.way == w)) with
    | some w => setLine line { data := data, dirty := dirty, way := w } s
    | none =>
      match ways.find? (fun w => mates.any (fun p => p.2.way == w && !p.2.use)) with
      | some w =>
        let s := forEach (mates.filter (fun p => p.2.way == w)) (fun p s => evictLine p.1 cls s) s
        setLine line { data := data, dirty := dirty, way := w } s
      | none =>
        let s := forEach (mates.filter (fun p => ways.contains p.2.way)) (fun p s => setLine p.1 { p.2 with use := false } s) s
        let s := forEach (mates.filter (fun p => p.2.way == w0)) (fun p s => evictLine p.1 cls s) s
        setLine line { data := data, dirty := dirty, way := w0 } s

/-- The lines of a granule that are absent are filled from what the controller returned (R182); none while its bucket moves. -/
def fillGran (g cls : Nat) (data : List Byte) (s : State) : State :=
  if bucketMoving (4 * g) s then s else
  forEach (List.range 4) (fun i s =>
    if (cached (4 * g + i) s).isSome || s.mem.lost.contains (4 * g + i) then s
    else allocLine (4 * g + i) cls ((data.drop (64 * i)).take 64) false s) s

/-! ## Serving the queues (R184, R187, R188) -/

/-! ## The mesh, as requesters and targets see it (R246, R249, R253) -/

/-- `s` with the mesh changed. -/
def setMesh (f : Mesh → Mesh) (s : State) : State := { s with mesh := f s.mesh }

/-- The request number `id` of master port `k` is at its target. -/
def atTarget (k id : Nat) (s : State) : Option OnDie := s.mesh.held.find? (fun o => o.port == k && o.id == id)

/-- Master port `k` may issue an on-die request `id` now: a tag is free (R255), and the mesh is up (R251). -/
def mayIssue (k id : Nat) (s : State) : Bool :=
  (freeTag 0 k s).isSome && (atTarget k id s).isNone && decide (rd PWR_STATUS_STATE 0 s < 2)

/-- Request `id` of master port `k` departs for the unit at port `tgt`: it takes a tag and its timer starts (R253). -/
def departMesh (k id fn tgt line : Nat) (s : State) : State :=
  let t := (freeTag 0 k s).getD 0
  setMesh (fun m => { m with held := m.held ++
    [{ port := k, id := id, tag := some t, tgt := tgt, line := line, at16 := now16 s, limit := classLimit 0 s }] })
    (travel k tgt { s with timers := { s.timers with reqs := s.timers.reqs ++
      [{ cls := 0, port := k, tag := t, fn := fn, purpose := .onDie id, limit := classLimit 0 s,
         deadline := now16 s + classLimit 0 s }] } })

/-- The data plane of a packet about line `line`: bit 7 of its offset (R245). -/
def dataPlane (line : Nat) : Nat := line / 2 % 2

/-- The target answers: the response is in flight. A request it has abandoned has no answer (R256). -/
def meshAnswer (k id : Nat) (st : Status) (data : List Byte) (s : State) : State :=
  match atTarget k id s with
  | none => s
  | some o => setMesh (fun m => { m with
      held := m.held.filter (fun x => !(x.port == k && x.id == id)),
      flight := m.flight ++ [{ vn := if data.isEmpty then 2 else 3, plane := if data.isEmpty then 0 else dataPlane o.line,
                               src := o.tgt, dst := k, id := id, tag := o.tag, st := st, data := data }] }) s

/-- A request reaches its target through the mesh: `flit` 0 clean, 1 a corrected error, 2 an uncorrectable payload (the
target does not perform it and answers DATA_ERR), 3 an uncorrectable header (it is lost) (R249). -/
def arriveAt (flit k id : Nat) (f : State → State) (s : State) : State :=
  match flit with
  | 0 => f s
  | 1 => f (bumpSat MESH_STATUS_FLIT_CE 0 1 s)
  | 2 => meshAnswer k id .dataErr [] (bumpSat MESH_STATUS_FLIT_UE 0 1 s)
  | _ => bumpSat MESH_STATUS_FLIT_UE 0 1 s


/-- The answer comes after its deadline (R188). -/
def lateFor (deadline : Option Nat) (s : State) : Bool :=
  match deadline with
  | some d => decide (d < pos s)
  | none => false

/-- The controller of line `line` counts a LATE completion for function `fn` (R188). -/
def noteLate (line : Nat) (fn : Option Nat) (s : State) : State :=
  let l := locate (64 * line) s
  count (memUnit l.site) 0x23 fn 1 (setChan (chanKey l.site l.ch) (fun c => { c with late := c.late + 1 }) s)

/-- The request of `w` is outstanding no more (R260). -/
def doneOut (w : Who) (s : State) : State :=
  setCoh (fun h => { h with outst := h.outst.filter (fun o => !decide (o.who = w)) }) s

/-- A completed request of master port `port` is answered: LATE where it has no error and its deadline has passed, which is
counted (R188); port 255 has no requester. -/
def answerMem (r : MReq) (st : Status) (data : List Byte) (s : State) : State :=
  if r.port = 255 then s else
  let late := st == .ok && lateFor r.deadline s
  let s := if late then noteLate (4 * r.gran) (some r.fn) s else s
  meshAnswer r.port r.id (if late then Status.late else st) data (doneOut (.mesh r.port r.id) s)

/-- A read of a granule completes; `bad`: it is uncorrectable now (R173). -/
def serveRead (r : MReq) (s : State) : State :=
  let off := 256 * r.gran
  let st := addrStatus off s
  if st ≠ .ok then answerMem r st [] s
  else if granBad r.gran s then answerMem r .dataErr [] (meetUe r.gran s)
  else
    let data := granBytes r.gran s
    let s := if r.alloc then fillGran r.gran r.cls data s else s
    match r.bytes with
    | [] => answerMem r .ok ((data.drop (r.line % 4 * 64)).take 64) s
    | w =>
      -- an allocating write that missed: its bytes go into the line now present
      match cached r.line s with
      | some c =>
        answerMem r .ok [] (setLine r.line { c with data := mergeBytes c.data (w.map (fun p => (p.1 % 64, p.2))), dirty := true } s)
      | none => let x := writeGran r.gran w s; answerMem r x.1 [] x.2

/-- A write of a granule completes (R172). -/
def serveWrite (r : MReq) (s : State) : State :=
  let st := addrStatus (256 * r.gran) s
  if st ≠ .ok then answerMem r st [] s
  else let x := writeGran r.gran r.bytes s; answerMem r x.1 [] x.2

/-- A request leaves its queue and is served. -/
def serve (k : Nat) (r : MReq) (s : State) : State :=
  let s := setChan k (fun c => { c with queue := c.queue.erase r }) s
  if r.write then serveWrite r s else serveRead r s

/-- Every request to granule `g` that is already queued completes, in order, before the hub's own access (R184) or the move of
the granule (R179). -/
def drainGran (g : Nat) (s : State) : State :=
  let l := locate (256 * g) s
  let k := chanKey l.site l.ch
  forEach ((chan k s).queue.filter (fun r => r.gran == g)) (serve k) s

/-! ## Accesses at the home -/

/-- The function that the extent of an offset belongs to: whose accesses within it are counted (R259). -/
def offFn (off : Nat) (s : State) : Option Nat :=
  if extKind (off / 2 ^ 30) s = 1 then some (rd EXT_FUNCTION (off / 2 ^ 30) s) else none

/-- The home slice of a line is looked up: a hit or a miss (R475, Table 2). -/
def countSlice (line : Nat) (fn : Option Nat) (s : State) : State :=
  count (homeTile (64 * line) s) (if (cached line s).isSome then 0x07 else 0x08) fn 1 s


/-- A line read at its home for a request of class `cls`: its 64 bytes, as its owner in O has shown them, from the slice, or from
memory with the fill of R182. -/
def readLine (line cls : Nat) (s : State) : Status × List Byte × State :=
  match look s.coh.seen line with
  | some d => (.ok, d, s)
  | none =>
  let s := countSlice line (offFn (64 * line) s) s
  match cached line s with
  | some c => (.ok, c.data, if allocMask cls s = 0 then s else setLine line { c with use := true } s)
  | none =>
    if s.mem.lost.contains line then (.dataErr, [], s)
    else
      let s := drainGran (line / 4) s
      let st := addrStatus (64 * line) s
      if st ≠ .ok then (st, [], s)
      else if granBad (line / 4) s then (.dataErr, [], meetUe (line / 4) s)
      else
        let data := granBytes (line / 4) s
        (.ok, (data.drop (line % 4 * 64)).take 64, fillGran (line / 4) cls data s)

/-- A write of the whole of line `line` allocates: the other absent lines of its granule are filled too, where the controller can
read it (R182, R173). -/
def fillRest (line cls : Nat) (s : State) : State :=
  if granBad (line / 4) s || granHeld (line / 4) s then s else fillGran (line / 4) cls (granBytes (line / 4) s) s

/-- Bytes of one line are written at its home for a request of class `cls`: in the slice where the line is present or
can be allocated, else in memory (R172, R182). -/
def writeLine (line cls : Nat) (w : List (Nat × Byte)) (s : State) : Status × State :=
  let s := countSlice line (offFn (64 * line) s) s
  match cached line s with
  | some c =>
    (.ok, setLine line { c with data := mergeBytes c.data w, dirty := true, use := c.use || allocMask cls s != 0 } s)
  | none =>
    if s.mem.lost.contains line && w.length != 64 then (.dataErr, s)
    else
      let s := setMem (fun m => { m with lost := m.lost.filter (· != line) }) (drainGran (line / 4) s)
      let st := addrStatus (64 * line) s
      if st ≠ .ok then (st, s)
      else if allocMask cls s = 0 then writeGran (line / 4) (w.map (fun p => (line % 4 * 64 + p.1, p.2))) s
      else if w.length = 64 then (.ok, fillRest line cls (allocLine line cls (mergeBytes (List.replicate 64 0) w) true s))
      else
        let x := readLine line cls s
        if x.1 ≠ .ok then (x.1, x.2.2)
        else match cached line x.2.2 with
          | some c => (.ok, setLine line { c with data := mergeBytes c.data w, dirty := true } x.2.2)
          | none => writeGran (line / 4) (w.map (fun p => (line % 4 * 64 + p.1, p.2))) x.2.2

/-- A line lies in an extent under burnish (R392). -/
def burning (line : Nat) (s : State) : Bool := rdb EXT_BURNISH (64 * line / 2 ^ 30) s

/-- Dirty data of a line goes to the home copy (R202): into the slice, or where the class allocates nowhere to memory, in the
order of its channel; the home discards it for a line under burnish (R392). -/
def writeHome (line cls : Nat) (data : List Byte) (s : State) : State :=
  if burning line s then s
  else if (cached line s).isNone ∧ allocMask cls s = 0 then
    enqueue { gran := line / 4, write := true, bytes := data.zipIdx.map (fun p => (line % 4 * 64 + p.2, p.1)), port := 255, cls := cls % 32 }
      (setMem (fun m => { m with lost := m.lost.filter (· != line) }) s)
  else if (cached line s).isNone ∧ data.length = 64 then
    allocLine line cls data true (setMem (fun m => { m with lost := m.lost.filter (· != line) }) s)
  else (writeLine line cls (data.zipIdx.map (fun p => (p.2, p.1))) s).2

/-- A whole granule is written at its home: the slice's copies of its lines are replaced too (R172). -/
def writeWhole (g : Nat) (data : List Byte) (s : State) : Status × State :=
  let s := drainGran g s
  let st := addrStatus (256 * g) s
  if st ≠ .ok then (st, s) else
  let s := forEach (List.range 4) (fun i s =>
    match cached (4 * g + i) s with
    | some c => setLine (4 * g + i) { c with data := (data.drop (64 * i)).take 64, dirty := false } s
    | none => s) s
  (.ok, putGran g data (setMem (fun m => { m with lost := m.lost.filter (fun l => l / 4 != g) }) s))

/-- The lines `ls` are read in order; the worst status, and the bytes read. -/
def readLines (cls : Nat) : List Nat → State → Status × List Byte × State
  | [], s => (.ok, [], s)
  | l :: t, s =>
    let a := readLine l cls s
    let b := readLines cls t a.2.2
    (Status.worse a.1 b.1, a.2.1 ++ b.2.1, b.2.2)

/-- The class of a request made at master port `k` for function `n` (R259). -/
def portClass (k n : Nat) (s : State) : Nat :=
  if rdb REG_PORT_FOLLOW_FUNC k s then rd REG_FUNC_CLASS n s else rd REG_PORT_CLASS k s

/-- The class of the scrubber's and the moves' accesses at MEM_j (R168, R179). -/
def fwClass (j : Nat) (s : State) : Nat := rd REG_PORT_CLASS (81 + j) s

/-- The class of a requester's accesses (R259). -/
def reqrClass (r : Reqr) (s : State) : Nat :=
  match r with
  | .agent n k => portClass k n s
  | .engine n alloc k => if alloc then portClass k n s else 32 + portClass k n s
  | .mover n alloc t => if alloc then portClass t n s else 32 + portClass t n s
  | .site j => portClass (64 + j) 0 s
  | .syrel n _ a => portClass (72 + a) n s
  | .hdm => portClass 77 0 s
  | .firmware => rd REG_PORT_CLASS 79 s

/-- `len` bytes from `off` are read for requester `r`. -/
def hubRead (r : Reqr) (off len : Nat) (s : State) : Status × List Byte × State :=
  let st := rangeStatus r off len false s
  if st ≠ .ok then (st, [], s) else
  let x := readLines (reqrClass r s) ((lineOffs off len).map (· / 64)) s
  if x.1 = .ok then (.ok, (x.2.1.drop (off % 64)).take len, x.2.2) else (x.1, [], x.2.2)

/-- The parts of a write, granule by granule: granule, first byte in it, bytes. `fuel` is the number of granules. -/
def granParts : Nat → Nat → List Byte → List (Nat × Nat × List Byte)
  | 0, _, _ => []
  | fuel + 1, off, l =>
    if l.isEmpty then [] else
    (off / 256, off % 256, l.take (256 - off % 256)) :: granParts fuel ((off / 256 + 1) * 256) (l.drop (256 - off % 256))

/-- One part of a write is made. -/
def writePart (cls : Nat) (p : Nat × Nat × List Byte) (s : State) : Status × State :=
  let (g, o, l) := p
  if l.length = 256 then writeWhole g l s else
  let pairs := (l.zipIdx).map (fun q => (o + q.2, q.1))
  (List.range 4).foldl (fun acc i =>
    let w := pairs.filter (fun q => q.1 / 64 == i)
    if w.isEmpty then acc else
    let x := writeLine (4 * g + i) cls (w.map (fun q => (q.1 % 64, q.2))) acc.2
    (Status.worse acc.1 x.1, x.2)) (Status.ok, s)

/-- The slice meets an error in the line it holds (R185): 1 a single bit, 2 uncorrectable. -/
def sliceError (line err : Nat) (s : State) : State :=
  match cached line s with
  | none => s
  | some c =>
    if err = 1 then bumpSat SC_ERRCNT_CE 0 1 s
    else if err = 2 then
      let s := dropLine line (bumpSat SC_ERRCNT_UE 0 1 s)
      if c.dirty then postMemUe (64 * line) (setMem (fun m => { m with lost := line :: m.lost }) s) else s
    else s

/-- Bytes are written from `off` on for requester `r`: nothing where the address or the access is refused. -/
def hubWrite (r : Reqr) (off : Nat) (l : List Byte) (s : State) : Status × State :=
  let st := rangeStatus r off l.length true s
  if st ≠ .ok then (st, s) else
  let cls := reqrClass r s
  (granParts (l.length / 256 + 2) off l).foldl (fun acc p =>
    let x := writePart cls p acc.2
    (Status.worse acc.1 x.1, x.2)) (Status.ok, s)

/-! ## Channel engines: choosing (R187, R262, R266) -/

/-- The rate that the channel with key `k` was trained at (R160). -/
def trainedRate (k : Nat) (s : State) : Nat := lookD 4 s.mem.rates k

/-- A channel trains at MEM_GLOBAL.RATE (R160). -/
def trainRate (j ch : Nat) (s : State) : State :=
  setMem (fun m => { m with rates := putD 4 (chanKey j ch) (rd MEM_GLOBAL_RATE 0 s) m.rates }) s

/-- Transfers per µs at a rate (Table 1). -/
def rateMts (code : Nat) : Nat :=
  match code with
  | 0 => 10667 | 1 => 9600 | 2 => 8533 | 3 => 7500 | _ => 6400

/-- Bytes that a channel moves in 4 µs at its rate: 2 bytes a transfer. -/
def chanBytes (k : Nat) (s : State) : Nat := rateMts (trainedRate k s) * 2 * 4

/-- BW_SHARE of class `c`; values above 1,024 act as 1,024 (Table 5 of R268). -/
def share (c : Nat) (s : State) : Nat := min 1024 (rd REG_CLASS_BW_SHARE c s)

/-- The shares of all classes together, and whether they exceed the whole (R261). -/
def shareSum (s : State) : Nat := ((List.range 32).map (fun c => share c s)).sum
/-- REG_STATUS.OVERSUB (R261). -/
def oversub (s : State) : Bool := decide (1024 < shareSum s)

/-- Static regulation is in force (R265). -/
def staticOn (s : State) : Bool := rdb REG_STATUS_STATIC_ACTIVE 0 s

/-- Bytes served to class `c` at a channel over the last 4 µs (R262). -/
def servedBytes (c : Nat) (ch : Chan) (s : State) : Nat :=
  ((ch.served.filter (fun p => p.1 == c && decide (now16 s < p.2.1 + us16 4))).map (fun p => p.2.2)).sum

/-- Class `c` is eligible at the channel with key `k` (R262): below its share of the channel's bandwidth. -/
def eligible (c k : Nat) (s : State) : Bool :=
  decide (servedBytes c (chan k s) s * 1024 < share c s * chanBytes k s)

/-- Static regulation in confidential mode: R181 holds. -/
def confStatic (s : State) : Bool := rdb SEC_STATUS_CONFIDENTIAL 0 s && staticOn s

/-- The share of a channel's bandwidth, in percent, that a thermal level leaves (R180, Table 3). -/
def levelCap (level : Nat) : Nat :=
  match level with
  | 0 => 100 | 1 => 75 | 2 => 50 | _ => 25

/-- The level that caps a channel: its own (R180), but under R181; the package's in confidential mode (R467). -/
def capLevel (k : Nat) (s : State) : Nat :=
  max (if confStatic s then 0 else (chan k s).level) (if rdb SEC_STATUS_CONFIDENTIAL 0 s then rd PWR_STATUS_LEVEL 0 s else 0)

/-- The thermal level of the channel with key `k` leaves room for a request (R180, R467). -/
def underCap (k : Nat) (s : State) : Bool :=
  let bytes := (((chan k s).served.filter (fun p => decide (now16 s < p.2.1 + us16 4))).map (fun p => p.2.2)).sum
  capLevel k s == 0 || decide (bytes * 100 < levelCap (capLevel k s) * chanBytes k s)

/-- The refresh rate of a channel, as Table 3 lists it: 4× at all times under R181. -/
def refreshOf (k : Nat) (s : State) : Nat := if confStatic s then 2 else (chan k s).refresh

/-- The requests that an engine has in its queues (R187): the oldest `r` reads and `w` writes. -/
def windowOf : Nat → Nat → List MReq → List MReq
  | _, _, [] => []
  | r, w, q :: t =>
    if q.write then (if w = 0 then windowOf r w t else q :: windowOf r (w - 1) t)
    else (if r = 0 then windowOf r w t else q :: windowOf (r - 1) w t)

/-- Requests that may issue: no earlier request to the same granule waits (R184). -/
def issuable : List MReq → List Nat → List MReq
  | [], _ => []
  | r :: t, seen => if seen.contains r.gran then issuable t seen else r :: issuable t (r.gran :: seen)

/-- The earliest deadline first, then arrival order. -/
def earliest (l : List MReq) : Option MReq :=
  l.foldl (fun best r =>
    match best with
    | none => some r
    | some b =>
      match r.deadline, b.deadline with
      | some x, some y => if x < y then some r else some b
      | some _, none => some r
      | none, _ => some b) none

/-- The request's deadline lies at most 2,000 ru ahead, or it is older than 4 µs (R187, step 1). -/
def urgent (s : State) (r : MReq) : Bool :=
  (match r.deadline with
    | some d => decide (d ≤ pos s + 2000)
    | none => false) || decide (r.at16 + us16 4 < now16 s)

/-- The request hits the open row of its bank. -/
def rowHit (ch : Chan) (s : State) (r : MReq) : Bool :=
  let l := locate (256 * r.gran) s
  look ch.rows (16 * l.rank + l.bank) == some l.row

/-- The choice of R187 among candidates. -/
def chooseReq (ch : Chan) (l : List MReq) (s : State) : Option MReq :=
  earliest (l.filter (urgent s)) <|>
  (if ch.hits < 4 ∧ !staticOn s then (l.filter (rowHit ch s)).head? else none) <|>
  earliest l

/-- The candidates that the classes leave (R262); in static regulation those of the class whose slot it is (R266). -/
def byClass (k slot : Nat) (l : List MReq) (s : State) : List MReq :=
  if staticOn s then l.filter (fun r => r.cls == slot) else
  let e := l.filter (fun r => eligible r.cls k s)
  let nz := l.filter (fun r => share r.cls s != 0)
  if !e.isEmpty then e else if !nz.isEmpty then nz else l

/-- The requests that engine `k` chooses among (R187, R262, R177, R179): those of its queues that no earlier request to the
granule holds back and that are not under copy, as the classes leave them; of these the reads, and the writes once 48 are pending
or no read can issue. -/
def candidates (k slot : Nat) (s : State) : List MReq :=
  let q := (chan k s).queue
  let w := windowOf 64 64 q
  let l := byClass k slot ((issuable q []).filter (fun r => w.contains r && !underCopy r.gran s)) s
  let rs := l.filter (fun r => !r.write)
  if 48 ≤ (q.filter MReq.write).length ∨ rs.isEmpty then l else rs

/-- The request that engine `k` serves next (R187), where the thermal cap lets it (R180). -/
def nextReq (k slot : Nat) (s : State) : Option MReq :=
  if underCap k s then chooseReq (chan k s) (candidates k slot s) s else none

/-- 256 bytes are served to class `c` at engine `k` (R262). -/
def serveBytes (k c : Nat) (s : State) : State :=
  setChan k (fun h => { h with
    served := (h.served.filter (fun p => decide (now16 s < p.2.1 + us16 4))) ++ [(c, now16 s, 256)] }) s

/-- Engine `k` has read the check granule of a block: its cache holds those of the 64 latest (R167). -/
def noteCheck (k block : Nat) (s : State) : State :=
  setChan k (fun h => { h with checks := (block :: h.checks.filter (· != block)).take 64 }) s

/-- Engine `k` notes what it serves: open row, row hits in a row, bytes of the class, the check granule. -/
def noteServed (k : Nat) (r : MReq) (s : State) : State :=
  let l := locate (256 * r.gran) s
  let hit := rowHit (chan k s) s r
  let u := memUnit l.site
  let s := count u (if !r.write then 0x20 else if r.bytes.length = 256 then 0x21 else 0x22) (some r.fn) 1 s
  let s := if hit then count u 0x24 none 1 s else s
  let s := setChan k (fun c => { c with
    rows := if staticOn s then c.rows else put (16 * l.rank + l.bank) l.row c.rows,
    hits := if hit then c.hits + 1 else 0 }) s
  noteCheck k l.block (serveBytes k r.cls s)

/-- A full retraining of channel `ch` of MEM_j begins if none runs at the site, else it waits (R177); in static
confidential mode it waits for an epoch boundary (R181). -/
def startRetrain (j ch : Nat) (s : State) : State :=
  if (chan (chanKey j ch) s).retrainAt.isSome then s
  else if rdb MEM_STATUS_RETRAINING j s || confStatic s then
    setMem (fun m => if m.retrain.contains (j, ch) then m else { m with retrain := m.retrain ++ [(j, ch)] }) s
  else setChan (chanKey j ch) (fun c => { c with retrainAt := some (now16 s) }) (setB MEM_STATUS_RETRAINING j s)

/-- A corrected error of channel `ch` of MEM_j (R167, R175, R176). -/
def countCe (j ch : Nat) (s : State) : State :=
  let k := chanKey j ch
  let s := count (memUnit j) 0x25 none 1 (bump MEM_ERRCNT_CE j 1 s)
  let s := setChan k (fun c => { c with
    ceTimes := now16 s :: c.ceTimes.filter (fun t => decide (now16 s < t + us16 1000000)) }) s
  if rd MEM_CTL_CE_LIMIT j s ≠ 0 ∧ rd MEM_CTL_CE_LIMIT j s < (chan k s).ceTimes.length then
    setChan k (fun c => { c with ceTimes := [] }) (startRetrain j ch s)
  else s

/-- A granule in which one symbol was corrected is read again (R167): where the error recurs it is corrected once more, and the
granule, corrected, is written back, which leaves what it holds. Both accesses are the class's. -/
def readAgain (j ch cls : Nat) (again : Bool) (s : State) : State :=
  let k := chanKey j ch
  let s := serveBytes k cls s
  if again then serveBytes k cls (countCe j ch s) else s

/-- The 16-bit symbols of a granule in which a read met an error decide how it completes (R167): one is corrected, and `again`
says whether the error recurs on the second read; two or three are detected; of more the hub makes no claim, and a free value
decides whether they are detected. -/
def meetErrors (j ch g errs cls : Nat) (again : Bool) (s : State) : State :=
  if errs = 0 then s
  else if errs = 1 then readAgain j ch cls again (countCe j ch s)
  else if errs ≤ 3 ∨ freeVal 1 s = 0 then
    setMem (fun m => if m.ue.contains g then m else { m with ue := g :: m.ue }) (if errs ≤ 3 then s else drew s)
  else
    -- undetected: the granule reads as free values
    pokeBytes (256 * g) (freeBytes (s.freeCtr + 1) 256) (drewN 257 s)

/-- MEM_READ (R187, R188): engine `ch` of MEM_j serves a read; `errs` symbols of the granule are in error, and once more with
`again`; `slot` is the class whose slot it is in static regulation. -/
def doMemRead (j ch errs : Nat) (again : Bool) (slot : Nat) (s : State) : State :=
  match nextReq (chanKey j ch) slot s with
  | some r =>
    if r.write || !chanOpen j ch s then s
    else serve (chanKey j ch) r (meetErrors j ch r.gran errs r.cls again (noteServed (chanKey j ch) r s))
  | none => s

/-- MEM_READ. -/
def execMemRead (j ch errs : Nat) (again : Bool) (slot : Nat) (s : State) : Host.Outcome State Fault Refusal :=
  .next (clocked (doMemRead j ch errs again slot) s)

/-- MEM_WRITE (R172): engine `ch` of MEM_j serves a write; `errs` symbols are in error in the read of a partial one. -/
def doMemWrite (j ch errs : Nat) (again : Bool) (slot : Nat) (s : State) : State :=
  match nextReq (chanKey j ch) slot s with
  | some r =>
    if !r.write || !chanOpen j ch s then s
    else
      let s := noteServed (chanKey j ch) r s
      serve (chanKey j ch) r (if r.bytes.length = 256 then s else meetErrors j ch r.gran errs r.cls again s)
  | none => s

/-- MEM_WRITE. -/
def execMemWrite (j ch errs : Nat) (again : Bool) (slot : Nat) (s : State) : Host.Outcome State Fault Refusal :=
  .next (clocked (doMemWrite j ch errs again slot) s)

/-- A pass of the scrubber in 1/16 ns: MEM_SCRUB.HOURS. -/
def scrubPeriod (s : State) : Nat := us16 (rd MEM_SCRUB_HOURS 0 s * 3600000000)

/-- The scrubber's next granule is due: a pass reads every granule at an even pace (R168). -/
def scrubDue (s : State) : Bool := due (s.mem.scrubAt + s.mem.scrub * scrubPeriod s / (memSize s / 256)) s

/-- The scrubber has read granule `g`; after the last a new pass begins. -/
def nextScrub (s : State) : State :=
  setMem (fun m => if memSize s ≤ 256 * (m.scrub + 1) then { m with scrub := 0, scrubAt := m.scrubAt + scrubPeriod s }
                   else { m with scrub := m.scrub + 1 }) s

/-- PATROL_SCRUB (R168): the scrubber reads its next granule once it is due, under its class, corrects and counts. It yields to
every request that waits at the channel, but under R181, where its rate is fixed; HOURS = 0 disables it. -/
def doPatrolScrub (errs : Nat) (again : Bool) (s : State) : State :=
  let g := s.mem.scrub
  let l := locate (256 * g) s
  let k := chanKey l.site l.ch
  if rd MEM_SCRUB_HOURS 0 s = 0 ∨ memSize s = 0 ∨ !scrubDue s ∨ (!(chan k s).queue.isEmpty ∧ !confStatic s) ∨ granHeld g s then s else
  let s := nextScrub s
  if chanFailed l.site l.ch s then s else
  let s := meetErrors l.site l.ch g errs (fwClass l.site s) again (noteCheck k l.block (serveBytes k (fwClass l.site s) s))
  if granBad g s then meetUe g s else s

/-- PATROL_SCRUB. -/
def execPatrolScrub (errs : Nat) (again : Bool) (s : State) : Host.Outcome State Fault Refusal :=
  .next (clocked (doPatrolScrub errs again) s)

/-! ## Temperature (R180, R181) -/

/-- The fields of MEM_TEMP. -/
def mr4Flds : List Fld := [MEM_TEMP_MR4_0, MEM_TEMP_MR4_1, MEM_TEMP_MR4_2, MEM_TEMP_MR4_3, MEM_TEMP_MR4_4, MEM_TEMP_MR4_5,
  MEM_TEMP_MR4_6, MEM_TEMP_MR4_7]

/-- Level and refresh rate of Table 3 for what MR4 reports: 0 1× or less, 1 2×, 2 4×, 3 above 4×, 4 limit exceeded. -/
def mr4Level (cat : Nat) : Nat :=
  match cat with
  | 0 | 1 => 0
  | 2 => 1
  | 3 => 2
  | _ => 3

/-- MR4_POLL (R180): every 4 ms the ranks of channel `ch` of MEM_j are read: `raw` is the hottest rank's value, `cat`
what it reports. A level falls one step only after two reads in a row that would set a lower one. Under R181 no channel is
throttled: the level counts for the package (R467). -/
def doMr4Poll (j ch raw cat : Nat) (s : State) : State :=
  let k := chanKey j ch
  let ready := match look s.mem.mr4At k with
    | some t => due (t + us16 4000) s
    | none => true
  if !ready then s else
  let s := setMem (fun m => { m with mr4At := put k (now16 s) m.mr4At }) s
  let s := match mr4Flds[ch]? with
    | some f => wr f j raw s
    | none => s
  let old := (chan k s).level
  let new := mr4Level cat
  let lvl := if old ≤ new then new else if (chan k s).cooler then old - 1 else old
  let s := setChan k (fun c => { c with
    level := lvl,
    cooler := decide (new < old) && !(c.cooler && decide (new < old)), refresh := cat }) s
  if confStatic s then wr MEM_STATUS_THROTTLE j 0 s else
  let worst := ((List.range 8).map (fun i => (chan (chanKey j i) s).level)).foldl max 0
  let s := wr MEM_STATUS_THROTTLE j worst s
  if lvl = 3 ∧ old ≠ 3 then thermalEvent 5 lvl s else s

/-- MR4_POLL. -/
def execMr4Poll (j ch raw cat : Nat) (s : State) : Host.Outcome State Fault Refusal := .next (clocked (doMr4Poll j ch raw cat) s)

/-! ## Retraining and failed channels (R177, R178) -/

/-- Every request queued at a channel completes as its address now makes it. -/
def flushChan (j ch : Nat) (s : State) : State :=
  let k := chanKey j ch
  forEach (chan k s).queue (serve k) s

/-- The failure of channel `ch` of MEM_j is recorded, and every owner of an extent has a MEM_LOST (R178). -/
def noteFailed (j ch : Nat) (s : State) : State :=
  let s := memErrLog 1 { site := j, ch := ch, rank := 0, raw := 0, bank := 0, row := 0 } s
  forEach (extentHolders s) (fun n s => postEvent n 0x0002 j .unreachable ch s) s

/-- A channel fails (R178): requests complete UNREACHABLE, the failure is recorded and told, and a move on the site ends where it
stands. -/
def failChannel (j ch : Nat) (s : State) : State :=
  let s := wr MEM_STATUS_CH_OK j (rd MEM_STATUS_CH_OK j s - (if bit (rd MEM_STATUS_CH_OK j s) ch then 2 ^ ch else 0)) s
  let s := noteFailed j ch s
  let e := rd MEM_MOVE_ENTRY 0 s
  let involved := rd SITE_STEER_SITE e s == j || (s.mem.moveTo.map Prod.fst) == some j
  let s := if rdb MEM_MOVE_ACTIVE 0 s && involved then
      match s.mem.moveTo with
      | some (j2, k2) =>
        clrB MEM_MOVE_ACTIVE 0 (setMem (fun m => { m with
          moveTo := none, moves := [], partMoves := modD [] e (fun l => (j2, k2, rd MEM_MOVE_FRAME 0 s) :: l) m.partMoves }) s)
      | none => s
    else s
  flushChan j ch s

/-- CHAN_RETRAIN_DONE (R177, R178): the full retraining of channel `ch` of MEM_j ends; `ok`: it trained. Another channel
of the site that waits then retrains. -/
def doChanRetrainDone (j ch : Nat) (ok : Bool) (s : State) : State :=
  match (chan (chanKey j ch) s).retrainAt with
  | none => s
  | some t =>
    let s := setChan (chanKey j ch) (fun c => { c with retrainAt := none, ceTimes := [], hold := (now16 s - t) / 16000 }) s
    let s := clrB MEM_STATUS_RETRAINING j s
    let s := bump MEM_RETRAIN_COUNT j 1 s
    let s := wr MEM_RETRAIN_LONGEST j (max (rd MEM_RETRAIN_LONGEST j s) (sat 16 ((now16 s - t) / 16000))) s
    let s := if ok then trainRate j ch s else failChannel j ch s
    match s.mem.retrain.find? (fun p => p.1 == j) with
    | some p => startRetrain j p.2 (setMem (fun m => { m with retrain := m.retrain.erase p }) s)
    | none => s

/-- CHAN_RETRAIN_DONE. -/
def execChanRetrainDone (j ch : Nat) (ok : Bool) (s : State) : Host.Outcome State Fault Refusal :=
  .next (clocked (doChanRetrainDone j ch ok) s)

/-- DRIFT_TRACKING_LIMIT (R177): drift beyond the tracking range starts full retraining with PERIODIC_RT = 1; with `link` a
link-ECC error rate above the device's limit does, where the channel's rate uses link ECC (Table 2). -/
def doDriftTrackingLimit (j ch : Nat) (link : Bool) (s : State) : State :=
  if (if link then decide (trainedRate (chanKey j ch) s ≤ 1) else rdb MEM_CTL_PERIODIC_RT j s) then startRetrain j ch s else s

/-- DRIFT_TRACKING_LIMIT. -/
def execDriftTrackingLimit (j ch : Nat) (link : Bool) (s : State) : Host.Outcome State Fault Refusal :=
  .next (clocked (doDriftTrackingLimit j ch link) s)

/-! ## Moves (R179) -/

/-- The next steering move that waits begins. -/
def nextMove (s : State) : State :=
  if rdb MEM_MOVE_ACTIVE 0 s then s else
  match s.mem.moves with
  | [] => s
  | (e, j, k) :: t =>
    s |> wr MEM_MOVE_ENTRY 0 e |> wr MEM_MOVE_FRAME 0 0 |> setB MEM_MOVE_ACTIVE 0
      |> setMem (fun m => { m with moveTo := some (j, k), moves := t })

/-- The granule at entry `e` and frame `f`: the one whose steering entry and frame they are (R163). -/
def granOf (e f : Nat) (s : State) : Nat :=
  let ne := rd MEM_GEOM_NE 0 s
  let h := Nat.xor (Nat.xor f (f / 2 ^ 10)) (Nat.xor (f / 2 ^ 20) (f / 2 ^ 30)) % 1024
  f * ne + (e + 1024 * ne - h) % ne

/-- Granule `g` is copied for a move (R179): its correctable error is corrected and counted; an uncorrectable one is counted and
stays so, and nobody's read has met it. What was queued for it at the old place is served there, and both channels have moved a
granule under the firmware class. -/
def copyGran (g errs : Nat) (again : Bool) (j k : Nat) (s : State) : State :=
  let l := locate (256 * g) s
  let c := fwClass l.site s
  let s := meetErrors l.site l.ch g errs c again (noteCheck (chanKey l.site l.ch) l.block (serveBytes (chanKey l.site l.ch) c s))
  let s := if granBad g s then memErrLog 0 l (bump MEM_ERRCNT_UE l.site 1 s) else s
  let s := drainGran g s
  let x := rd MEM_MOVE_FRAME 0 s * rd SITE_SLOTS_SLOTS j s + k
  let ch := if rd MEM_STATUS_STATE j s = 2 then 4 * rd MEM_STATUS_HALF_HIGH j s + foldXor 2 24 x else foldXor 3 16 x
  serveBytes (chanKey j ch) c s

/-- MOVE_FRAME_COPY (R179): the copy of the granule at FRAME completes and FRAME advances; after the last frame the entry
is switched and the next move that waits begins. A retraining on either site pauses the move. `errs` and `again`: what the read
meets. -/
def doMoveFrameCopy (errs : Nat) (again : Bool) (s : State) : State :=
  let e := rd MEM_MOVE_ENTRY 0 s
  match rdb MEM_MOVE_ACTIVE 0 s, s.mem.moveTo with
  | true, some (j, k) =>
    if movePaused s then s else
    let s := copyGran (granOf e (rd MEM_MOVE_FRAME 0 s) s) errs again j k s
    let f := rd MEM_MOVE_FRAME 0 s + 1
    if f < rd MEM_NF_NF 0 s then wr MEM_MOVE_FRAME 0 f s
    else
      s |> wr SITE_STEER_SITE e j |> wr SITE_STEER_SLOT e k |> clrB MEM_MOVE_ACTIVE 0 |> wr MEM_MOVE_FRAME 0 f
        |> setMem (fun m => { m with moveTo := none, partMoves := del e m.partMoves }) |> nextMove
  | _, _ => s

/-- MOVE_FRAME_COPY. -/
def execMoveFrameCopy (errs : Nat) (again : Bool) (s : State) : Host.Outcome State Fault Refusal :=
  .next (clocked (doMoveFrameCopy errs again) s)

/-! ## Key slots (R171) -/

/-- The granules of the requests queued under key slot `k`. -/
def slotOf (off : Nat) (s : State) : Option Nat :=
  let e := off / 2 ^ 30
  if !rdb EXT_KEY_EN e s then none
  else match extKind e s with
    | 1 => some (rd EXT_FUNCTION e s)
    | 2 => some 84
    | _ => none

/-- Every cached line of the slot's extents is written back, and every request accepted under the slot's key finishes
(R171). -/
def drainSlot (k : Nat) (s : State) : State :=
  let ls := (s.coh.cache.filter (fun p => slotOf (64 * p.1) s == some k)).map Prod.fst
  let s := forEach ls (fun l s => evictLine l (portClass 80 0 s) s) s
  forEach s.mem.chans (fun c s => forEach (c.2.queue.filter (fun r => slotOf (256 * r.gran) s == some k)) (serve c.1) s) s

/-- A fresh key enters slot `k`. -/
def newKey (k : Nat) (s : State) : State :=
  { s with sec := { s.sec with keys := put k s.sec.nextKey s.sec.keys, nextKey := s.sec.nextKey + 1 } }

/-- Slot `k` is emptied. -/
def dropKey (k : Nat) (s : State) : State := { s with sec := { s.sec with keys := del k s.sec.keys } }

/-- The root of trust empties slot `k` (R171): the controllers finish what was accepted under its key, accept no more, and
confirm. -/
def withdrawKey (k : Nat) (s : State) : State := emit { kind := .mem, dest := 80, tag := k } (dropKey k (drainSlot k s))

/-- KEY_SLOT_WITHDRAW (R171): slot `k` is empty or, with `fresh`, holds a new key. -/
def doKeySlotWithdraw (k : Nat) (fresh : Bool) (s : State) : State :=
  let s := withdrawKey k s
  if fresh then newKey k s else s

/-- KEY_SLOT_WITHDRAW. -/
def execKeySlotWithdraw (k : Nat) (fresh : Bool) (s : State) : Host.Outcome State Fault Refusal :=
  .next (clocked (doKeySlotWithdraw k fresh) s)

end Sys2Proof.Machine
end

