-- ==== Sys2Proof/Machine/SyrCore.lean ====
section
/-! DEFINITION. Sys2Proof/Machine/SyrCore.lean: sending and routing Syrel packets (spec/11_syrel_fabric.md R269, R278 to
R290, R296, R297): directions, port choice, credits, and answering a packet's source. -/

namespace Sys2Proof.Machine

open Sys2Proof

/-- `s` with the Syrel block changed. -/
def setSyr (f : Syr → Syr) (s : State) : State := { s with syr := f s.syr }

/-- What the hub keeps of PORT_p. -/
def syrPort (p : Nat) (s : State) : SyrPort := lookD {} s.syr.ports p

/-- `s` with what it keeps of PORT_p changed. -/
def setPort (p : Nat) (f : SyrPort → SyrPort) (s : State) : State :=
  setSyr (fun y => { y with ports := modD {} p f y.ports }) s

/-- This hub's 13-bit identity: twin bit above the hub ID. -/
def selfId (s : State) : Nat := 4096 * rd HUB_ID_TWIN 0 s + rd HUB_ID_ID 0 s

/-- Coordinate `a` (0 x, 1 y, 2 z) of a hub ID (Table of HUB_ID, R27). -/
def coord (a hub : Nat) : Nat := hub / 16 ^ a % 16

/-! ## Ports and directions (R269, R285) -/

/-- PORT_p carries traffic. -/
def portGood (p : Nat) (s : State) : Bool :=
  rdb SYR_PORT_UP p s && !rdb SYR_PORT_MISWIRED p s && rd SYR_PORT_LANES p s != 0

/-- The ports of direction `d` (6: the twin), ascending (Table 1). -/
def dirPorts (d : Nat) : List Nat := if d = 6 then [18, 19] else [3 * d, 3 * d + 1, 3 * d + 2]

/-- The good ports of direction `d`, ascending. -/
def goodPorts (d : Nat) (s : State) : List Nat := (dirPorts d).filter (fun p => portGood p s)

/-- The flow value of a packet (R285). -/
def pktFlow (p : Pkt) : Nat :=
  match p.vn with
  | 0 => slice p.addr 9 10
  | 1 => if p.opc = 0x7 then slice p.addr 0 18 else p.tag
  | 2 => slice p.addr 0 18
  | 3 => slice p.addr 16 20
  | 4 => if p.opc = 0x9 then slice p.addr 16 20 else 0
  | _ => 0

/-- The place, among `g` good ports, of the one a packet takes (R285). -/
def portSel (p : Pkt) (g : Nat) : Nat :=
  let key := Nat.xor (Nat.xor p.dst (p.src * 8)) (Nat.xor (p.vn * 65536) (pktFlow p))
  Nat.xor (Nat.xor key (key / 2 ^ 8)) (key / 2 ^ 16) % g

/-- The direction of a packet that has `from` and `target` hub IDs (R283): the first dimension that differs, by fewer
hops, + at a distance of 8; none where they are equal. -/
def dirTo (here target : Nat) : Option Nat :=
  match [0, 1, 2].find? (fun a => coord a here != coord a target) with
  | none => none
  | some a => some (2 * a + b2n (decide (8 < (coord a target + 16 - coord a here) % 16)))

/-- The partner hub of direction `d`, where a good port of it is up. -/
def dirPartner (d : Nat) (s : State) : Option Nat :=
  ((goodPorts d s).filter (fun p => rdb SYR_PORT_PARTNER_VALID p s)).head?.map (fun p => rd SYR_PORT_PARTNER_HUB p s)

/-- The target lies strictly between this hub and the partner of the chosen direction: it is bypassed (R284). -/
def skipped (d target : Nat) (s : State) : Bool :=
  match dirPartner d s with
  | none => false
  | some q =>
    let a := d / 2
    let dist := fun x => if d % 2 = 0 then (coord a x + 16 - coord a (rd HUB_ID_ID 0 s)) % 16
                         else (coord a (rd HUB_ID_ID 0 s) + 16 - coord a x) % 16
    let dq := if dist q = 0 then 16 else dist q
    decide (0 < dist target) && decide (dist target < dq)

/-! ## Credits and sending (R279, R280) -/

/-- Cells of a packet (R281). -/
def pktCells (p : Pkt) : Nat := if p.data.length ≤ 32 then 1 else 1 + (p.data.length + 63) / 64

/-- The virtual channel of a packet (R278). -/
def pktVc (p : Pkt) : Nat := 4 * p.vn + 2 * b2n p.phase + b2n p.dl

/-- A cell of `l`, filled up with zeros. -/
def cellOf (l : List Nat) : List Byte := (l ++ List.replicate (64 - l.length) 0).map (BitVec.ofNat 8)

/-- The four words of a packet's header (R281, Table 6). -/
def pktWords (k : Pkt) : List Nat :=
  [1 + 2 ^ 4 * k.opc + 2 ^ 8 * k.vn + 2 ^ 11 * b2n k.dl + 2 ^ 12 * b2n k.phase + 2 ^ 13 * b2n k.pool + 2 ^ 14 * b2n k.viaEn +
     2 ^ 15 * b2n k.masked + 2 ^ 16 * k.dst + 2 ^ 29 * k.src + 2 ^ 42 * k.via + 2 ^ 54 * k.data.length,
   k.tag + 2 ^ 12 * k.fn + 2 ^ 18 * k.status + 2 ^ 22 * k.hops + 2 ^ 32 * k.seq, k.addr, k.aux]

/-- A packet's cells (R281): the header and, inline or in data cells after it, the payload. -/
def pktImage (k : Pkt) : List Byte :=
  let head := (pktWords k).flatMap (toBytes 8)
  let zeros := fun n => List.replicate n (0 : Byte)
  if k.data.length ≤ 32 then head ++ k.data ++ zeros (32 - k.data.length)
  else head ++ zeros 32 ++ k.data ++ zeros ((64 - k.data.length % 64) % 64)

/-- A codeword with the cells `l` leaves PORT_p (R275). On a secure port they are encrypted under the port's key, with the IV
of R307, and their AUTH cell follows. -/
def sendCells (p : Nat) (o : Out) (l : List Byte) (s : State) : State :=
  if rdb SYR_PORT_SECURE p s then
    let x := syrPort p s
    let key := (Config.slotKey (lookD 0 s.sec.keys (64 + p))).1
    let iv := wrap 32 x.epoch + 2 ^ 32 * wrap 64 x.cwCount
    let ct := gcmCrypt key iv l
    let s := setPort p (fun x => { x with cwCount := x.cwCount + 1 }) s
    emit { kind := .syrCell, dest := p, tag := o.tag, args := [0x4],
           data := toBytes 16 4 ++ toBytes 16 (gcmTag key iv [] ct) ++ List.replicate 32 0 }
      (emit { o with dest := p, data := ct } s)
  else emit { o with dest := p, data := l } s

/-- A CREDIT cell (Table 3): cells returned for each VC and to the shared pool. -/
def sendCredit (p : Nat) (vcs : List Nat) (shared : Nat) (s : State) : State :=
  sendCells p { kind := .syrCell, args := 0x2 :: vcs ++ [shared] } (cellOf (2 :: vcs ++ [shared % 256, shared / 256])) s

/-- The port can take the packet: it is up, a codeword is free and credits cover every cell (R273, R279). -/
def canSendPkt (p : Nat) (k : Pkt) (s : State) : Bool :=
  portGood p s && decide ((syrPort p s).unacked.length < 256) &&
  (decide (pktCells k ≤ nth 0 (syrPort p s).crd (pktVc k)) || decide (pktCells k ≤ (syrPort p s).shared))

/-- The packet leaves on the port, in a codeword of its own (log entry 20); it charges the reserved pool where that
holds it, else the shared pool. -/
def leavePort (p : Nat) (k : Pkt) (s : State) : State :=
  let c := pktCells k
  let resv := decide (c ≤ nth 0 (syrPort p s).crd (pktVc k))
  let k := { k with pool := !resv }
  let q := (syrPort p s).txSeq
  let s := setPort p (fun x => { x with
    crd := if resv then modNth (pktVc k) (· - c) x.crd else x.crd,
    shared := if resv then x.shared else x.shared - c,
    txSeq := (q + 1) % 512, unacked := x.unacked ++ [(q, 0, some k)] }) s
  let s := count (spaUnit p) 0x60 none (c + b2n (rdb SYR_PORT_SECURE p s)) s
  let s := if k.opc = 0x8 ∨ k.opc = 0x9 then count (spaUnit p) 0x63 (some k.fn) 1 s
           else if k.opc = 0x6 then count (spaUnit p) 0x64 (some k.fn) 1 s else s
  sendCells p { kind := .syrPacket, tag := q,
                args := [k.opc, k.vn, b2n k.dl, b2n k.phase, b2n k.pool, b2n k.viaEn, b2n k.masked, k.dst, k.src, k.via,
                         k.tag, k.fn, k.status, k.hops, k.seq, k.addr, k.aux] } (pktImage k) s

/-- A packet that leaves through a port with DATELINE = 1 has DL set (R284). -/
def dated (p : Nat) (k : Pkt) (s : State) : Pkt := if p < 18 ∧ rdb SYR_PORT_DATELINE p s then { k with dl := true } else k

/-- Packets that wait leave in order within each virtual channel; `stuck` are the channels held back. -/
def drainPort (p : Nat) : List Pkt → List Nat → State → List Pkt × State
  | [], _, s => ([], s)
  | k :: t, stuck, s =>
    let x := dated p k s
    if !stuck.contains (pktVc x) && canSendPkt p x s then drainPort p t stuck (leavePort p x s)
    else
      let r := drainPort p t (pktVc x :: stuck) s
      (k :: r.1, r.2)

/-- Every packet that may leave PORT_p leaves. -/
def pumpPort (p : Nat) (s : State) : State :=
  let r := drainPort p (syrPort p s).txq [] s
  setPort p (fun x => { x with txq := r.1 }) r.2

/-- PORT_p leaves low-power idle with the wake pattern (R306): 128 UI of alternating levels 0 and 3. -/
def wakePattern (p : Nat) (s : State) : State :=
  if rdb SYR_PORT_LPI p s then clrB SYR_PORT_LPI p (emit { kind := .syrCell, dest := p, args := [0xFF, 128] } s) else s

/-- A packet is given to PORT_p; a port in low-power idle is woken first (R306). -/
def queuePort (p : Nat) (k : Pkt) (s : State) : State :=
  pumpPort p (setPort p (fun x => { x with txq := x.txq ++ [k] }) (wakePattern p s))

/-- A packet leaves in direction `d` (6: the twin), on the port of R285; without a good port it is held (R297). -/
def sendDir (d : Nat) (k : Pkt) (s : State) : State :=
  match goodPorts d s with
  | [] => setSyr (fun y => { y with held := y.held ++ [(d, now16 s, k)] }) s
  | ps => queuePort (nth 0 ps (portSel k ps.length)) k s

/-- The packet that answers the source of `k` with a status and no data: RCMP for a request, MIR_ACK for a mirror
record; none for any other kind (R284, R289). -/
def refusalOf (k : Pkt) (st : Status) : Option Pkt :=
  match k.vn with
  | 0 => some { opc := 0x5, vn := 1, dst := k.src, src := k.dst, tag := k.tag, fn := k.fn, status := st.code }
  | 2 => some { opc := 0x7, vn := 1, dst := k.src, src := k.dst, tag := k.tag, fn := k.fn, status := st.code, addr := k.addr }
  | _ => none

/-- A packet that the hub takes in for itself. -/
def deliver (k : Pkt) (s : State) : State := setSyr (fun y => { y with inbox := y.inbox ++ [k] }) s

/-- The hub that a packet makes for (R283): its VIA hub, then its destination. -/
def pktTarget (k : Pkt) : Nat := if k.viaEn && !k.phase then k.via else k.dst % 4096

/-- The direction that a packet takes for hub `d` has no good port. -/
def deadEnd (d : Nat) (s : State) : Bool :=
  match dirTo (rd HUB_ID_ID 0 s) d with
  | some x => (goodPorts x s).isEmpty
  | none => false

/-- The VIA hub of SYR_ROUTE (R286): for every packet at its source and, as a detour, for one that meets a direction without a
good port and has no VIA hub yet. -/
def viaRoute (source : Bool) (k : Pkt) (s : State) : Pkt :=
  let here := rd HUB_ID_ID 0 s
  let d := k.dst % 4096
  let k := if (source || (deadEnd d s && !k.viaEn)) && rdb SYR_ROUTE_VALID d s && rdb SYR_ROUTE_VIA_EN d s && d != here then
      { k with viaEn := true, phase := false, via := rd SYR_ROUTE_VIA_HUB d s } else k
  if k.viaEn && !k.phase && k.via == here then { k with phase := true, dl := false } else k

/-- One routing decision (R283, R284, R286, R290). `fuel` bounds the answers that answer nothing. `source`: the packet
starts its way in this system here; `came`: the torus port it arrived on, whose dimension's dateline bit it keeps (R284) and
which counts its discard (R283). -/
def routePkt : Nat → Bool → Option Nat → Pkt → State → State
  | 0, _, _, _, s => s
  | fuel + 1, source, came, k, s =>
    let refuse := fun s => match refusalOf k .unreachable with
      | some a => routePkt fuel true none a s
      | none => s
    if k.dst / 4096 ≠ rd HUB_ID_TWIN 0 s then (if (goodPorts 6 s).isEmpty then refuse s else sendDir 6 k s) else
    let k := viaRoute source k s
    match dirTo (rd HUB_ID_ID 0 s) (pktTarget k) with
    | none => deliver k s
    | some dir =>
      if source && !rdb SYR_ROUTE_VALID (k.dst % 4096) s || skipped dir (pktTarget k) s then refuse s
      else if 63 ≤ k.hops + 1 then
        match came with
        | some p => bumpSat SYR_PERR_REPLAYS p 1 s
        | none => s
      else sendDir dir { k with hops := k.hops + 1, dl := k.dl && came.map (· / 6) == some (dir / 2) } s

/-- The source of a packet that goes no further is answered UNREACHABLE, where its kind has an answer (R284, R297). -/
def bounce (k : Pkt) (s : State) : State :=
  match refusalOf k .unreachable with
  | some a => routePkt 3 true none a s
  | none => s

/-- A packet that starts here is sent (R286): to this hub itself it is simply delivered. -/
def syrSend (k : Pkt) (s : State) : State :=
  if k.dst = selfId s then deliver k s else routePkt 3 true none k s

/-- The answer to a request packet: its status and data (R289). -/
def syrAnswer (k : Pkt) (st : Status) (data : List Byte) (s : State) : State :=
  syrSend { opc := if data.isEmpty then 0x5 else 0x4, vn := 1, dst := k.src, src := selfId s, tag := k.tag, fn := k.fn,
            status := st.code, data := data } s

/-- A packet's cells are freed: the receiver returns them to the pool the header names, in a CREDIT cell (R280). -/
def freeCells (p : Nat) (k : Pkt) (s : State) : State :=
  let c := pktCells k
  sendCredit p ((List.range 24).map (fun v => if v = pktVc k ∧ !k.pool then c else 0)) (if k.pool then c else 0) s

end Sys2Proof.Machine
end

