-- ==== Sys2Proof/Machine/Zcp.lean ====
section
/-! DEFINITION. Sys2Proof/Machine/Zcp.lean: sending ZCP messages to a chiplet site: header formats, classes, credits and
what is held while a site retrains (spec/09_chiplet_sites.md R220 to R223, R227, R233). -/

namespace Sys2Proof.Machine

open Sys2Proof

/-- What the hub keeps of SITE_j. -/
def site (j : Nat) (s : State) : Site := lookD {} s.sites j

/-- `s` with what it keeps of SITE_j changed. -/
def setSite (j : Nat) (f : Site → Site) (s : State) : State := { s with sites := modD {} j f s.sites }

/-- SITE_STATUS.STATE of SITE_j: 0 EMPTY, 1 IN_RESET, 2 ATTESTING, 3 READY, 4 FENCED, 5 RETRAINING, 6 ATTEST_FAIL. -/
def siteState (j : Nat) (s : State) : Nat := rd SITE_STATUS_STATE j s

/-- SITE_j is READY. -/
def siteReady (j : Nat) (s : State) : Bool := siteState j s == 3

/-- SITE_j runs the CXL personality (R239). -/
def siteCxl (j : Nat) (s : State) : Bool := rdb SITE_CFG_PERSONALITY j s

/-- SITE_j is enabled on this variant. -/
def siteOn (j : Nat) (s : State) : Bool := decide (j < chipSites s)

/-! ## Header formats (R220, Table 3) -/

/-- Format R: the answer to the message with tag `tag`. -/
def hdrR (opc tag : Nat) (st : Status) (grant d value : Nat) : Nat :=
  opc + 2 ^ 8 * tag + 2 ^ 20 * st.code + 2 ^ 24 * grant + 2 ^ 26 * d + 2 ^ 64 * value

/-- Format Q: a snoop of `line` (its tag is added as it leaves). -/
def hdrQ (opc line : Nat) : Nat := opc + 2 ^ 20 * line

/-- Format M: an access to a chiplet register (its tag is added as it leaves). -/
def hdrM (opc : Nat) (eight : Bool) (addr data : Nat) : Nat :=
  opc + 2 ^ 20 * b2n eight + 2 ^ 24 * addr + 2 ^ 64 * data

/-- Format T: DOORBELL. -/
def hdrDoorbell (chan value : Nat) (late : Bool) (mark : Nat) : Nat :=
  0x20 + 2 ^ 8 * chan + 2 ^ 16 * value + 2 ^ 48 * b2n late + 2 ^ 64 * wrap 64 mark

/-- Format T: BEACON. -/
def hdrBeacon (g : Seg) (state pos : Nat) : Nat :=
  0x21 + 2 ^ 6 * g.kind + 2 ^ 8 * g.seq + 2 ^ 14 * g.rate + 2 ^ 38 * state + 2 ^ 64 * wrap 64 pos

/-- Format T: PWR_CAP. -/
def hdrPwrCap (cap : Nat) : Nat := 0x22 + 2 ^ 8 * cap

/-- Format A: QUIESCE (0x0D) and RESUME (0x0E) (their tag is added as they leave). -/
def hdrQuiesce (opc reason : Nat) : Nat := opc + 2 ^ 20 * reason

/-! ## Sending -/

/-- One credit of class `c` is used. -/
def useCredit (j c : Nat) (s : State) : State := setSite j (fun x => { x with crd := modNth c (· - 1) x.crd }) s

/-- The slots of a message (R218): its header and its data, each with its kind in SLOT_MAP. -/
def msgSlots (m : ZMsg) (hdr : Nat) : List (Nat × Nat) :=
  (1, hdr) :: (List.range (m.data.length / 16)).map (fun i => (2, ofBytes ((m.data.drop (16 * i)).take 16)))

/-- A message leaves for the chiplet: its slots follow those that leave with it; a hub request takes its tag and starts its
timer (R218, R221, R253). -/
def zcpLeave (j : Nat) (m : ZMsg) (s : State) : State :=
  let s := useCredit j m.cls s
  let s := if m.opc = 0x20 then count (siteUnit j) 0x43 none 1 s else s
  let lay := fun hdr s => setSite j (fun x => { x with txSlots := x.txSlots ++ msgSlots m hdr }) s
  match m.purpose with
  | none => lay m.hdr s
  | some p =>
    let t := (freeTag 1 (64 + j) s).getD 0
    lay (m.hdr + 2 ^ 8 * t) (startReq t { cls := 1, port := 64 + j, fn := m.fn, purpose := p, out := { kind := .zcp, dest := j } } s)

/-- Every credit that the hub grants a site (R222), by class. -/
def hubGrant : List Nat := [128, 0, 128, 64, 64, 0]

/-- The control slot of a flit (Table 2): FSEQ, the credits returned, and SLOT_MAP. -/
def controlSlot (seq : Nat) (cr kinds : List Nat) : Nat :=
  seq + (cr.zipIdx.map (fun p => p.1 * 2 ^ (16 + 8 * p.2))).sum + 2 ^ 64 * (kinds.zipIdx.map (fun p => p.1 * 4 ^ p.2)).sum

/-- A flit leaves (R217): the next FSEQ, the credits freed since the flit before, and up to fourteen slots, the rest idle. The
last 256 are kept, which may have to be sent again (R219, R233). -/
def zcpFlit (j : Nat) (slots : List (Nat × Nat)) (s : State) : State :=
  let x := site j s
  let cr := x.freed.map (min 255)
  let f := controlSlot x.txSeq cr (slots.map Prod.fst) :: (slots.map Prod.snd ++ List.replicate (14 - slots.length) 0)
  let sent := x.sent ++ [f]
  emit { kind := .zcp, dest := j, args := f } (count (siteUnit j) 0x40 none 1 (setSite j (fun x =>
    { x with txSeq := (x.txSeq + 1) % 65536, freed := List.zipWith (· - ·) x.freed cr, sent := sent.drop (sent.length - 256) }) s))

/-- The slots laid down leave in flits, a message going on in the next flit where one ends (R218). -/
def zcpFlits (j : Nat) (s : State) : State :=
  let l := (site j s).txSlots
  forEach (List.range ((l.length + 13) / 14)) (fun i => zcpFlit j ((l.drop (14 * i)).take 14)) (setSite j (fun x => { x with txSlots := [] }) s)

/-- The first flit after link-up carries the hub's full grant (R222). -/
def zcpLinkUp (j : Nat) (s : State) : State := zcpFlit j [] (setSite j (fun x => { x with freed := hubGrant }) s)

/-- A credit of class `c` is free again, and returns with the next flit (R222). -/
def returnCredit (j c : Nat) (s : State) : State := setSite j (fun x => { x with freed := modNth c (· + 1) x.freed }) s

/-- A READY site that has credits to return and no message to send sends a flit of idle slots (R222). -/
def zcpIdleFlit (j : Nat) (s : State) : State :=
  if siteReady j s && !siteCxl j s && (site j s).freed.any (· != 0) then zcpFlit j [] s else s

/-- Every site's freed credits go back. -/
def settleCredits (s : State) : State := forEach (s.sites.map Prod.fst) zcpIdleFlit s

/-- The site may be sent a message of class `c` now. -/
def canSend (j c : Nat) (s : State) : Bool := siteReady j s && decide (0 < nth 0 (site j s).crd c)

/-- The messages that wait leave while their class has credits, in order within each class (R223): what still waits,
and the state. `held` are the classes already held back. -/
def zcpDrain (j : Nat) : List ZMsg → List Nat → State → List ZMsg × State
  | [], _, s => ([], s)
  | m :: t, held, s =>
    if !held.contains m.cls && canSend j m.cls s && (m.purpose.isNone || (freeTag 1 (64 + j) s).isSome) then zcpDrain j t held (zcpLeave j m s)
    else
      let r := zcpDrain j t (m.cls :: held) s
      (m :: r.1, r.2)

/-- Every message that may leave SITE_j now leaves. -/
def zcpPump (j : Nat) (s : State) : State :=
  let q := (site j s).txq
  let r := zcpDrain j q [] s
  zcpFlits j (setSite j (fun x => { x with txq := r.1 }) r.2)

/-- A message for the chiplet at SITE_j: it waits its turn for a credit. Nothing is sent to a site that is neither
READY nor RETRAINING (R233, R237). -/
def zcpSend (j : Nat) (m : ZMsg) (s : State) : State :=
  if siteReady j s || siteState j s == 5 then
    zcpPump j (setSite j (fun x => { x with txq := x.txq ++ [m] }) s)
  else s

/-- Format R answers: their class is RSP, or DAT with data. -/
def zcpAnswer (j opc tag : Nat) (st : Status) (s : State) : State :=
  zcpSend j { opc := opc, cls := 2, hdr := hdrR opc tag st 0 0 0 } s

/-- The hub sends a BEACON with POS `p` to every READY or RETRAINING ZCP site (R227). -/
def sendBeacons (p : Nat) (s : State) : State :=
  forEach (List.range (chipSites s)) (fun j s =>
    if siteCxl j s then s
    else zcpSend j { opc := 0x21, cls := 5, hdr := hdrBeacon s.ruling.seg (rd RULE_STATUS_STATE 0 s) p } s) s

end Sys2Proof.Machine
end

