-- ==== Sys2Proof/Machine/Coherence.lean ====
section
/-! DEFINITION. Sys2Proof/Machine/Coherence.lean: the home of each line: directory, transactions, snoops, forced eviction,
lost lines, fences of a site, and the system cache's requests (spec/08_coherence.md, R183, R186, R237, R260). -/

namespace Sys2Proof.Machine

open Sys2Proof

/-! ## Directory (R199) -/

/-- The directory entry of a line; state 0 where there is none. -/
def dent (line : Nat) (s : State) : DEnt := lookD { st := 0 } s.coh.dir line

/-- `s` with the entry of a line replaced; an entry with no holder is freed. What an owner has shown of the line stands no more. -/
def setDent (line : Nat) (e : DEnt) (s : State) : State :=
  setCoh (fun h => { h with
    dir := if e.st = 0 ∨ (e.st = 1 ∧ e.sharers = 0) then del line h.dir else put line e h.dir, seen := del line h.seen }) s

/-- The entries in state L (R212): DIR_LOST.LINES. -/
def lostLines (s : State) : Nat := (s.coh.dir.filter (fun p => p.2.st == 4)).length

/-- The transaction on a line. -/
def trans (line : Nat) (s : State) : Option Trans := look s.coh.trans line

/-- `s` with the transaction of a line replaced. -/
def setTrans (line : Nat) (t : Trans) (s : State) : State :=
  setCoh (fun h => { h with trans := put line t h.trans, seen := del line h.seen }) s

/-- The line's transaction ends. -/
def endTrans (line : Nat) (s : State) : State := setCoh (fun h => { h with trans := del line h.trans }) s

/-- The sites of a sharer set. -/
def sitesOf (m : Nat) : List Nat := (List.range 8).filter (bit m)

/-- A sharer set with a site in it. -/
def addSite (m j : Nat) : Nat := if bit m j then m else m + 2 ^ j

/-- A sharer set with a site out of it. -/
def subSite (m j : Nat) : Nat := if bit m j then m - 2 ^ j else m

/-- The function that owns a line's extent. -/
def lineOwner (line : Nat) (s : State) : Option Nat :=
  let e := 64 * line / 2 ^ 30
  if extKind e s = 1 then some (rd EXT_FUNCTION e s) else none

/-! ## Answers -/

/-- STATUS that an answer with no error carries: LATE after the request's deadline (R188, R224). -/
def withDeadline (r : HReq) (s : State) : Status := if lateFor r.deadline s then .late else .ok

/-- A home request has ended with no error: a LATE completion is counted (R188). -/
def countLateReq (r : HReq) (s : State) : State := if lateFor r.deadline s then noteLate r.line (lineOwner r.line s) s else s

/-- A part of another hub's request is answered (R289): after the last, the packet's source has its RDATA or RCMP. -/
def inboundPart (id p : Nat) (st : Status) (data : List Byte) (s : State) : State :=
  match look s.syr.inbound id with
  | none => s
  | some x =>
    let x := { x with left := x.left - 1, st := Status.worse x.st st, parts := put p data x.parts }
    if x.left ≠ 0 then { s with syr := { s.syr with inbound := put id x s.syr.inbound } } else
    syrAnswer x.pkt x.st (if x.st.good && x.pkt.opc != 0x2 then x.parts.flatMap Prod.snd else [])
      { s with syr := { s.syr with inbound := del id s.syr.inbound } }

/-- A request that takes no copy is answered: with data, done, or with a status (Table 1). -/
def answer (w : Who) (st : Status) (data : List Byte) (s : State) : State :=
  let s := doneOut w s
  match w with
  | .site j tag =>
    if !st.good then zcpAnswer j 0x15 tag st s
    else if data.isEmpty then zcpAnswer j 0x14 tag st s
    else zcpSend j { opc := 0x19, cls := 3, hdr := hdrR 0x19 tag st 0 0 0, data := data } s
  -- a failed CXL.cache request has GO-Err, any data being zeros; a failed CXL.io read a Completer Abort (R239)
  | .cxl j tag => emit { kind := .cxlSite, dest := j, tag := tag, args := [if st.good then 0 else 2],
                         data := if st.good then data else List.replicate 64 0 } s
  | .cxlIo j tag => emit { kind := .cxlSite, dest := j, tag := tag, args := [if st.good then 3 else 4],
                           data := if st.good then data else [] } s
  | .mesh k id => meshAnswer k id st data s
  | .desc g k => completeDesc g k st (if st.good then ofBytes data else 0) 0 0 s
  | .piece j p => setPiece j p (if !st.good then .failed st else if data.isEmpty then .moved else .have data) s
  | .inbound id p => inboundPart id p st data s
  | .hub => s

/-- A request at the home is answered: LATE where it has no error and its deadline has passed. -/
def answerReq (r : HReq) (st : Status) (data : List Byte) (s : State) : State :=
  if st = .ok then answer r.who (withDeadline r s) data (countLateReq r s) else answer r.who st data s

/-- The site that made a request. -/
def whoSite : Who → Option Nat
  | .site j _ | .cxl j _ | .cxlIo j _ => some j
  | _ => none

/-- A copy is granted: DATA with GRANT (1 S, 2 E, 3 M), or for a CXL site GO with that state. -/
def grantData (r : HReq) (g : Nat) (data : List Byte) (s : State) : State :=
  let st := withDeadline r s
  let s := doneOut r.who (countLateReq r s)
  match r.who with
  | .site j tag => zcpSend j { opc := 0x19, cls := 3, hdr := hdrR 0x19 tag st g 0 0, data := data } s
  | .cxl j tag => emit { kind := .cxlSite, dest := j, tag := tag, args := [1, g, st.code], data := data } s
  | _ => s

/-- A copy is granted without data: GNT_X, or GO-E. -/
def grantOnly (w : Who) (s : State) : State :=
  let s := doneOut w s
  match w with
  | .site j tag => zcpAnswer j 0x12 tag .ok s
  | .cxl j tag => emit { kind := .cxlSite, dest := j, tag := tag, args := [1, 2, 0] } s
  | _ => s

/-! ## Snoops and transactions (R198, R200) -/

/-- A snoop leaves for SITE_j; its timer is of the chiplet-site class (R252). -/
def sendSnoop (opc line j : Nat) (s : State) : State :=
  let s := count (siteUnit j) 0x44 none 1 (count (homeTile (64 * line) s) 0x09 none 1 (bump COH_SITE_SNOOPS j 1 s))
  let fn := (lineOwner line s).getD 0
  if siteCxl j s then
    sendReq { cls := 1, port := 64 + j, fn := fn, purpose := .snoop j line,
              out := { kind := .cxlSite, dest := j, args := [2, opc, line] } } s
  else zcpSend j { opc := opc, cls := 1, hdr := hdrQ opc line, purpose := some (.snoop j line), fn := fn } s

/-- The grant is out: GRANT_ACK is awaited, or counted at once for a CXL site (R210). USE is set at a grant (R204). -/
def awaitAck (line : Nat) (t : Trans) (e : DEnt) (m : Bool) (s : State) : State :=
  let e := { e with use := true, way := (dent line s).way }
  match t.req.who with
  | .cxl _ _ => endTrans line (setDent line e s)
  | _ => setTrans line { t with phase := .bg, waits := [], record := some e, grantedM := m } s

/-- An X record of site `j`. -/
def recX (j : Nat) : DEnt := { st := 2, owner := j }

/-- Data of class and deadline of `r` is granted, from the home copy; an error answers ERR and ends it. -/
def grantHome (line g : Nat) (t : Trans) (e : DEnt) (s : State) : State :=
  let x := readLine line t.req.cls s
  if x.1 = .ok then awaitAck line t e false (grantData t.req g x.2.1 x.2.2)
  else
    let s := endTrans line (answer t.req.who x.1 [] x.2.2)
    -- an entry allocated for the request alone is freed again
    if (dent line s).st = 1 ∧ (dent line s).sharers = 0 then setDent line { st := 0 } s else s

/-- What an atomic stores (R205, R350): 0 FADD, 1 SWAP, 2 CAS, on `n` bytes. -/
def atomicNew (op n old a b : Nat) : Nat :=
  match op with
  | 0 => wrap (8 * n) (old + a)
  | 1 => wrap (8 * n) a
  | _ => if old = wrap (8 * n) b then wrap (8 * n) a else old

/-- The bytes of a masked write: the line's byte numbers and values. -/
def maskedBytes (mask : Nat) (data : List Byte) : List (Nat × Byte) :=
  (data.zipIdx.filter (fun p => bit mask p.2)).map (fun p => (p.2, p.1))

/-- A write or an atomic is performed at the home: status and what is returned (R200, R205). -/
def performReq (r : HReq) (s : State) : Status × List Byte × State :=
  match r.kind with
  | .homeAtomic =>
    let x := readLine r.line r.cls s
    if x.1 ≠ .ok then (x.1, [], x.2.2) else
    let old := (x.2.1.drop r.off).take r.len
    let new := toBytes r.len (atomicNew r.op r.len (ofBytes old) r.a r.b)
    let w := writeLine r.line r.cls (new.zipIdx.map (fun p => (r.off + p.2, p.1))) x.2.2
    (w.1, if w.1 = .ok then old else [], w.2)
  | _ =>
    let w := writeLine r.line r.cls (maskedBytes r.mask r.data) s
    (w.1, [], w.2)

/-- The write or atomic of a transaction is performed, answered, and the line has no entry (Table 6). -/
def performEnd (line : Nat) (r : HReq) (s : State) : State :=
  let x := performReq r s
  answerReq r x.1 x.2.1 (endTrans line (setDent line { st := 0 } x.2.2))

/-- A lost line (R206): the entry becomes L, its owner learns it, the first is recorded and all are counted. -/
def loseLine (line j : Nat) (s : State) : State :=
  -- a line under burnish never becomes L (R392)
  if burning line s then setDent line { st := 0 } s else
  let s := setDent line { (dent line s) with st := 4, owner := 0, sharers := 0 } s
  let s := bump COH_SITE_LOST j 1 s
  let s := if rdb DIR_LOSTLOG_VALID 0 s then s else
    s |> setB DIR_LOSTLOG_VALID 0 |> wr DIR_LOSTLOG_SITE 0 (redactAt (64 * line) j s)
      |> wr DIR_LOSTLOG_LINE 0 (redactAt (64 * line) line s) |> wr DIR_LOSTLOG_KIND 0 0
  match lineOwner line s with
  | some n => postEvent n 0x0003 j .dataErr (64 * line) s
  | none => logRec .memEvent [j, line] s

/-- Every invalidation of a BA transaction has been answered (Table 6). A requester that is lost takes no copy, and where it was the
owner in O the line is lost (R206). -/
def finishBA (line : Nat) (t : Trans) (s : State) : State :=
  if t.lostOwner then endTrans line (loseLine line (dent line s).owner s) else
  match t.req.kind with
  | .upg | .rdX | .rdS =>
    match whoSite t.req.who with
    | some j =>
      if t.holder then awaitAck line t (recX j) false (grantOnly t.req.who s)
      else grantHome line 2 t (recX j) s
    | none => endTrans line (setDent line { st := 0 } s)
  | .ownNoData =>
    match whoSite t.req.who with
    | some j => awaitAck line t (recX j) false (grantOnly t.req.who s)
    | none => endTrans line (setDent line { st := 0 } s)
  | .wrP | .homeWrite | .homeAtomic => performEnd line t.req s
  | .lose => endTrans line s
  | _ => endTrans line (setDent line { st := 0 } s)

/-- Data of the owner's answer, where it gave D = 1. -/
def dirtyAns (t : Trans) : Option (List Byte) :=
  match t.ans with
  | some (1, _, d) => some d
  | _ => none

/-- The owner keeps a copy after its answer: 1 S, 2 O. -/
def ansKeep (t : Trans) : Nat :=
  match t.ans with
  | some (d, k, _) => if d = 1 ∧ k = 1 then 1 else k
  | none => 0

/-- Dirty data that no site keeps dirty goes to the home copy (R202, Table 8's last row). -/
def homeDirty (line : Nat) (t : Trans) (s : State) : State :=
  match dirtyAns t with
  | some d => if ansKeep t = 2 then s else writeHome line t.req.cls d s
  | none => s

/-- The snoop sent to the owner in a transaction was SNP_SH (Table 6). -/
def askedShare (t : Trans) : Bool := t.req.kind == .rdS || t.req.kind == .rdOnce || t.req.kind == .homeRead

/-- The sharers of a line that has lost its owner in O are invalidated (R206). -/
def loseSharers (line sh : Nat) (s : State) : State :=
  if sitesOf sh = [] then s else
  forEach (sitesOf sh) (sendSnoop 0x0A line)
    (setTrans line { req := { kind := .lose, line := line, who := .hub }, phase := .ba, waits := sitesOf sh } s)

/-- What is recorded after a read that leaves the requester without a copy (Table 8). -/
def readRecord (line : Nat) (t : Trans) (s : State) : DEnt :=
  let o := t.owner.getD 0
  let e : DEnt := if ansKeep t = 1 then { st := 1, sharers := addSite t.sharers o }
    else if ansKeep t = 2 then { st := 3, owner := o, sharers := t.sharers } else { st := 1, sharers := t.sharers }
  { e with way := (dent line s).way, use := (dent line s).use }

/-- A BD transaction whose requester takes nothing ends: it was lost (R206), or is the hub itself, to which an owner that keeps O has
shown the line. -/
def endOrphan (line : Nat) (t : Trans) (s : State) : State :=
  if askedShare t then
    let s := endTrans line (setDent line (readRecord line t s) (homeDirty line t s))
    match t.req.who, ansKeep t, dirtyAns t with
    | .hub, 2, some d => setCoh (fun h => { h with seen := put line d h.seen }) s
    | _, _, _ => s
  else endTrans line (setDent line { st := 0 } (homeDirty line t s))

/-- A BD transaction has every answer (Table 8). -/
def finishBD (line : Nat) (t : Trans) (s : State) : State :=
  let o := t.owner.getD 0
  let sh := t.sharers
  let keep := ansKeep t
  if t.lostOwner then
    -- the sharers that the transaction has not invalidated are invalidated now (R206)
    loseSharers line (if askedShare t then sh else 0) (answer t.req.who .dataErr [] (endTrans line (loseLine line o s)))
  else
  match t.req.kind with
  | .rdS =>
    match whoSite t.req.who with
    | none => endOrphan line t s
    | some r =>
      if keep = 1 then
        grantHome line 1 t { st := 1, sharers := addSite (addSite sh o) r } (homeDirty line t s)
      else if keep = 2 then
        awaitAck line t { st := 3, owner := o, sharers := addSite sh r } false (grantData t.req 1 ((dirtyAns t).getD []) s)
      else if subSite sh r = 0 ∧ !t.req.onlyS then grantHome line 2 t (recX r) (homeDirty line t s)
      else grantHome line 1 t { st := 1, sharers := addSite sh r } (homeDirty line t s)
  | .rdX =>
    match whoSite t.req.who, dirtyAns t with
    | some r, some d => awaitAck line t (recX r) true (grantData t.req 3 d s)
    | some r, none => grantHome line 2 t (recX r) s
    | none, _ => endOrphan line t s
  | .upg =>
    match whoSite t.req.who, dirtyAns t with
    | some r, ans =>
      if t.holder then awaitAck line t (recX r) false (grantOnly t.req.who s)
      else match ans with
        | some d => awaitAck line t (recX r) true (grantData t.req 3 d s)
        | none => grantHome line 2 t (recX r) s
    | none, _ => endOrphan line t s
  | .ownNoData =>
    match whoSite t.req.who with
    | some r => awaitAck line t (recX r) false (grantOnly t.req.who s)
    | none => endOrphan line t s
  | .rdOnce | .homeRead =>
    if t.req.who = .hub then endOrphan line t s
    else if keep = 2 then
      answerReq t.req .ok ((((dirtyAns t).getD []).drop t.req.off).take t.req.len) (endTrans line (setDent line (readRecord line t s) s))
    else
      let x := readLine line t.req.cls (homeDirty line t s)
      answerReq t.req x.1 ((x.2.1.drop t.req.off).take t.req.len) (endTrans line (setDent line (readRecord line t s) x.2.2))
  | .wrP | .homeWrite | .homeAtomic => performEnd line t.req (homeDirty line t s)
  | .evict | .claim | .lose => endTrans line (setDent line { st := 0 } (homeDirty line t s))

/-- A transaction starts with its snoops: to the owner with `opc`, invalidations to the sharers named; with no site to
snoop it goes straight on (R200). -/
def startTrans (line : Nat) (t : Trans) (opc : Nat) (inv : List Nat) (s : State) : State :=
  let all := t.owner.toList ++ inv
  let t := { t with waits := all, phase := if t.owner.isSome then .bd else .ba }
  if all.isEmpty then finishBA line t s else
  let s := setTrans line t s
  let s := match t.owner with | some o => sendSnoop opc line o s | none => s
  forEach inv (sendSnoop 0x0A line) s

/-- An entry is needed in the set of `line`: a free way, or a victim to evict first, or none (R204). -/
inductive EntryRoom where
  | way (w : Nat)
  | victim (line : Nat) (sweep : Bool)
  | waiting
  | full
  deriving DecidableEq, Repr

/-- The entries of a line's set, and those that may be victims. -/
def dirMates (line : Nat) (s : State) : List (Nat × DEnt) :=
  s.coh.dir.filter (fun p => scSet p.1 == scSet line && homeTile (64 * p.1) s == homeTile (64 * line) s)

/-- Ways that class `cls` may take an entry in (R266, Table 4). -/
def dirWays (cls : Nat) (s : State) : List Nat :=
  if staticOn s then (List.range 16).filter (bit (rd SC_WAYS_ALLOC_MASK cls s)) else List.range 16

/-- Where a new entry for `line` can go (R204). -/
def entryRoom (line cls : Nat) (s : State) : EntryRoom :=
  let mates := dirMates line s
  let ways := dirWays cls s
  match ways.find? (fun w => !mates.any (fun p => p.2.way == w)) with
  | some w => .way w
  | none =>
    let inWays := mates.filter (fun p => ways.contains p.2.way)
    if inWays.all (fun p => p.2.st == 4) then .full else
    let cand := inWays.filter (fun p => p.2.st != 4 && (trans p.1 s).isNone)
    let lowest := fun (l : List (Nat × DEnt)) => (ways.findSome? (fun w => l.find? (fun p => p.2.way == w)))
    match lowest (cand.filter (fun p => !p.2.use)), lowest cand with
    | some p, _ => .victim p.1 false
    | none, some p => .victim p.1 true
    | none, none => .waiting

/-- USE is cleared in every way of a line's set that is neither busy nor L (R204). -/
def sweepUse (line : Nat) (s : State) : State :=
  let mates := (dirMates line s).filter (fun p => p.2.st != 4 && (trans p.1 s).isNone)
  setCoh (fun h => { h with dir := h.dir.map (fun p => if mates.contains p then (p.1, { p.2 with use := false }) else p) }) s

/-- A line's holders are invalidated and its entry freed (R204); `kind` is `evict` or `claim`. -/
def startEvict (line : Nat) (kind : HKind) (cls : Nat) (s : State) : State :=
  let e := dent line s
  let t : Trans := { req := { kind := kind, line := line, who := .hub, cls := cls }, phase := .ba,
                     owner := if e.st = 2 ∨ e.st = 3 then some e.owner else none, sharers := e.sharers }
  let s := if kind = .evict then count (homeTile (64 * line) s) 0x0A none 1 (bump DIR_EVICT_COUNT 0 1 s) else s
  startTrans line t 0x0A (sitesOf e.sharers) s

/-- The hub itself reads a line of class `cls` that a chiplet owns: the owner shows it and keeps S or O (Table 6, home read). -/
def startShow (line cls : Nat) (s : State) : State :=
  let e := dent line s
  startTrans line { req := { kind := .homeRead, line := line, who := .hub, cls := cls }, phase := .bd, owner := some e.owner,
                    sharers := e.sharers } 0x08 [] s

/-- A request waits in its line's queue (R198). -/
def queueReq (r : HReq) (s : State) : State :=
  setCoh (fun h => { h with queue := modD [] r.line (fun q => q ++ [r]) h.queue }) s

/-- A request that was taken goes back to the front of its line's queue: it waits for an entry (R204). -/
def requeue (r : HReq) (s : State) : State :=
  setCoh (fun h => { h with queue := modD [] r.line (fun q => r :: q) h.queue }) s

/-- A chiplet breaks a rule of R203: the record is made; the fence follows. -/
def violation (j line : Nat) (s : State) : State :=
  if rdb DIR_LOSTLOG_VALID 0 s then s else
  s |> setB DIR_LOSTLOG_VALID 0 |> wr DIR_LOSTLOG_SITE 0 (redactAt (64 * line) j s)
    |> wr DIR_LOSTLOG_LINE 0 (redactAt (64 * line) line s) |> wr DIR_LOSTLOG_KIND 0 1

/-! ## Lost sites and fences (R206, R237) -/

/-- What losing SITE_j does to a stable entry. -/
def loseStable (j line : Nat) (s : State) : State :=
  let e := dent line s
  if e.st = 2 ∧ e.owner = j then loseLine line j s
  else if e.st = 3 ∧ e.owner = j then
    let sh := sitesOf (subSite e.sharers j)
    let s := loseLine line j s
    startTrans line { req := { kind := .lose, line := line, who := .hub }, phase := .ba } 0x0A sh s
  else if (e.st = 1 ∨ e.st = 3) ∧ bit e.sharers j then setDent line { e with sharers := subSite e.sharers j } s
  else s

/-- The end of a transaction reads or writes memory at the home. -/
def needsHome (t : Trans) : Bool :=
  !t.lostOwner && (match t.req.kind with
    | .rdS | .rdOnce | .homeRead => ansKeep t != 2
    | .rdX | .upg => !t.holder && (dirtyAns t).isNone
    | .wrP | .homeWrite | .homeAtomic => true
    | .ownNoData | .evict | .claim | .lose => false)

/-- A BD or BA transaction goes on once no answer is awaited, and the line's channel does not hold requests (R177, R179). -/
def advanceTrans (line : Nat) (t : Trans) (s : State) : State :=
  if t.waits.isEmpty && !(needsHome t && (cached line s).isNone && granHeld (line / 4) s) then
    (if t.phase = .bd then finishBD line t s else finishBA line t s)
  else setTrans line t s

/-- The grant's record, without the holders marked written back (Table 7). -/
def finalRecord (t : Trans) : DEnt :=
  match t.record with
  | none => { st := 0 }
  | some e =>
    let sh := t.wbs.foldl subSite e.sharers
    if e.st = 2 ∧ t.wbs.contains e.owner then { st := 0 }
    else if e.st = 3 ∧ t.wbs.contains e.owner then { e with st := 1, owner := 0, sharers := sh }
    else { e with sharers := sh }

/-- A grant's transaction ends with its record; where the owner in O was lost meanwhile the line is lost (R206). -/
def closeGrant (line : Nat) (t : Trans) (s : State) : State :=
  let e := finalRecord t
  if t.lostOwner then loseSharers line e.sharers (endTrans line (loseLine line e.owner s))
  else endTrans line (setDent line e s)

/-- What losing SITE_j does to a transaction (R206). -/
def loseTrans (j line : Nat) (t : Trans) (s : State) : State :=
  match t.phase with
  | .bg =>
    if whoSite t.req.who = some j then
      if t.grantedM && !t.wbs.contains j then endTrans line (loseLine line j s)
      else closeGrant line { t with wbs := j :: t.wbs } s
    else
      match t.record with
      | some e => setTrans line { t with record := some { e with sharers := subSite e.sharers j },
                                         lostOwner := t.lostOwner || (e.st == 3 && e.owner == j && !t.wbs.contains j) } s
      | none => s
  | _ =>
    let e := dent line s
    let owned := t.owner.isNone && (e.st == 2 || e.st == 3) && e.owner == j
    let gone := whoSite t.req.who == some j
    let t := { t with req := if gone then { t.req with who := .hub } else t.req,
                      waits := t.waits.filter (· != j), sharers := subSite t.sharers j,
                      lostOwner := t.lostOwner || (owned && !t.wbs.contains j) ||
                        (t.owner == some j && t.waits.contains j && !t.wbs.contains j) }
    advanceTrans line t s

/-- SITE_j resets, is fenced or does not answer: every line that names it (R206). -/
def siteLost (j : Nat) (s : State) : State :=
  let s := setCoh (fun h => { h with queue := (h.queue.map (fun p =>
    (p.1, p.2.filter (fun r => whoSite r.who != some j)))).filter (fun p => !p.2.isEmpty) }) s
  let s := { s with timers := { s.timers with reqs := s.timers.reqs.filter (fun r =>
    match r.purpose with | .snoop k _ => k != j | _ => true) } }
  let s := setCoh (fun h => { h with outst := h.outst.filter (fun o => whoSite o.who != some j),
                                     heldHome := h.heldHome.filter (fun o => whoSite o.req.who != some j) }) s
  let s := forEach s.coh.trans (fun p s => match trans p.1 s with
    | some t => loseTrans j p.1 t s
    | none => s) s
  forEach s.coh.dir (fun p s => if (trans p.1 s).isNone then loseStable j p.1 s else s) s

/-- An access of a chiplet window ends: a read has its data, a write of the host's has no answer, and one of a Stylus window
(R241) is done. -/
def answerAcc (stylus write : Bool) (tag : Nat) (data : List Byte) (s : State) : State :=
  if stylus then emit { kind := .mesh, dest := 79, tag := tag, args := [0], data := if write then [] else data } s
  else if write then s else emit { kind := .hostCpl, tag := tag, args := [0], data := data } s

/-- A host access still waiting for SITE_j is completed with all ones (R229, R237). -/
def endSiteAccesses (j : Nat) (s : State) : State :=
  let accs := s.host.accs.filter (fun a => a.site == j)
  let s := { s with host := { s.host with accs := s.host.accs.filter (fun a => a.site != j) } }
  let s := { s with timers := { s.timers with reqs := s.timers.reqs.filter (fun r =>
    match r.purpose with | .window k _ _ => k != j | .quiesce k _ => k != j | .resume k _ => k != j | _ => true) } }
  forEach accs (fun a s => answerAcc a.stylus a.write a.tag (List.replicate a.size 0xFF) s) s

/-- The site is fenced (R237): nothing more is sent or taken, its lines are lost, its accesses end. -/
def forceFence (j : Nat) (s : State) : State :=
  let s := s |> wr SITE_STATUS_STATE j 4 |> setB SITE_EVENT_FENCED j |> bumpSat SITE_ERR_FENCES j 1
  let s := setSite j (fun x =>
    { x with txq := [], rx := [], slots := [], early := [], quiesced := false, reqAt := none,
             rst := if x.rst = .bringing then .none else x.rst }) s
  -- TIMED_DOORBELL firings that name the site complete UNREACHABLE (R54)
  siteOutcome j .unreachable (endSiteAccesses j (siteLost j s))

/-- A fence of a site that is neither EMPTY, IN_RESET nor FENCED already (R237). -/
def fenceSite (j : Nat) (s : State) : State :=
  if siteState j s = 0 ∨ siteState j s = 1 ∨ siteState j s = 4 then s else forceFence j s

/-- A rule of R203, R221 or R222 is broken: SITE_EVENT.PROTOCOL, and the fence. -/
def fenceProtocol (j line : Nat) (s : State) : State := fenceSite j (setB SITE_EVENT_PROTOCOL j (violation j line s))

/-- The default deadline of a class (R264). -/
def classDeadline (cls : Nat) (dl : Option Nat) (s : State) : Option Nat :=
  match dl with
  | some d => some d
  | none => if rd REG_CLASS_DL_OFFSET cls s = 0 then none else some (pos s + rd REG_CLASS_DL_OFFSET cls s)

/-! ## Requests at the home (R192, R200) -/

/-- The request is taken in a stable state (Table 6). -/
def takeStable (r : HReq) (s : State) : State :=
  let line := r.line
  let e := dent line s
  let t : Trans := { req := r, phase := .ba, owner := none, sharers := e.sharers }
  if e.st = 4 then
    match r.kind with
    | .wrP | .homeWrite =>
      if r.mask = 2 ^ 64 - 1 then performEnd line r s else answer r.who .dataErr [] s
    | .evict | .claim | .lose => s
    | _ => answer r.who .dataErr [] s
  else
  match r.kind with
  | .rdS | .rdX | .upg | .ownNoData =>
    match whoSite r.who with
    | none => s
    | some j =>
      let sharer := bit e.sharers j
      match e.st with
      | 0 =>
        if (r.victim.bind (fun v => trans v s)).any (fun t => t.req.kind == .evict) then requeue r s else
        match entryRoom line r.cls s with
        | .full => answer r.who .quota [] s
        | .waiting => requeue r s
        | .victim v sweep => startEvict v .evict r.cls (requeue { r with victim := some v } (if sweep then sweepUse line s else s))
        | .way w =>
          let s := setCoh (fun h => { h with dir := put line { st := 1, way := w } h.dir }) s
          if r.kind = .ownNoData then awaitAck line t (recX j) false (grantOnly r.who s)
          else if r.kind = .rdS ∧ r.onlyS then grantHome line 1 t { st := 1, sharers := 2 ^ j } s
          else grantHome line 2 t (recX j) s
      | 1 =>
        if r.kind = .rdS then grantHome line 1 t { st := 1, sharers := addSite e.sharers j } s
        else startTrans line { t with holder := r.kind == .upg && sharer } 0x0A (sitesOf (subSite e.sharers j)) s
      | 2 =>
        if e.owner = j then
          if r.kind = .upg then fenceProtocol j line s
          else if r.kind = .ownNoData then awaitAck line t (recX j) false (grantOnly r.who s)
          else if r.kind = .rdS ∧ r.onlyS then grantHome line 1 t { st := 1, sharers := 2 ^ j } s
          else grantHome line 2 t (recX j) s
        else
          let opc := if r.kind = .rdS then 0x08 else if r.kind = .ownNoData then 0x0A else 0x09
          startTrans line { t with owner := some e.owner } opc [] s
      | _ =>
        if e.owner = j then
          if r.kind = .upg then startTrans line { t with holder := true } 0x0A (sitesOf e.sharers) s
          else fenceProtocol j line s
        else if r.kind = .rdS then startTrans line { t with owner := some e.owner } 0x08 [] s
        else if r.kind = .upg ∧ sharer then
          startTrans line { t with owner := some e.owner, holder := true } 0x0A (sitesOf (subSite e.sharers j)) s
        else
          startTrans line { t with owner := some e.owner } (if r.kind = .ownNoData then 0x0A else 0x09)
            (sitesOf (subSite e.sharers j)) s
  | .rdOnce | .homeRead =>
    if e.st ≤ 1 then
      let x := readLine line r.cls s
      answerReq r x.1 ((x.2.1.drop r.off).take r.len) x.2.2
    else startTrans line { t with owner := some e.owner } 0x08 [] s
  | .wrP | .homeWrite | .homeAtomic =>
    if e.st = 0 then performEnd line r s
    else startTrans line { t with owner := if e.st = 1 then none else some e.owner } 0x0A (sitesOf e.sharers) s
  | .evict | .claim | .lose => s

/-- A line's home is not free for a request: a transaction runs on it, earlier requests wait (R198), its bucket moves, or its
channel holds requests (R177, R179, R186). -/
def lineBusy (line : Nat) (s : State) : Bool :=
  (trans line s).isSome || !(lookD [] s.coh.queue line).isEmpty || lineHeld line s

/-- A request arrives at the home: it is taken, or waits its turn. -/
def homeArrive (r : HReq) (s : State) : State := if lineBusy r.line s then queueReq r s else takeStable r s

/-- The next request of a line that is no longer busy is taken; a transaction that waited for its channel goes on. -/
def nextOfLine (line : Nat) (s : State) : State :=
  match trans line s with
  | some t => if t.phase ≠ .bg ∧ t.waits.isEmpty then advanceTrans line t s else s
  | none =>
    if lineHeld line s then s else
    match lookD [] s.coh.queue line with
    | [] => s
    | r :: rest =>
      takeStable r (setCoh (fun h => { h with queue := if rest.isEmpty then del line h.queue else put line rest h.queue }) s)

/-! ## Quotas and holding at the master port (R251, R260, R266) -/

/-- A class is below both its quotas at a slice and a controller (R260); a quota of 0 acts as 1. -/
def belowQuota (cls tile mc : Nat) (s : State) : Bool :=
  decide ((s.coh.outst.filter (fun o => o.cls == cls && o.slice == tile)).length < max 1 (rd REG_CLASS_SLICE_OT cls s)) &&
  decide ((s.coh.outst.filter (fun o => o.cls == cls && o.mc == mc)).length < max 1 (rd REG_CLASS_MEM_OT cls s))

/-- The class may issue requests now: under static regulation only those of CLASS_MASK (R266). -/
def classOpen (cls : Nat) (s : State) : Bool := !staticOn s || bit (rd REG_STATIC_CLASS_MASK 0 s) cls

/-- A request of class `cls` for a line may leave its master port: the mesh is up, and the class is open and below its quotas. -/
def mayLeaveMesh (cls line : Nat) (s : State) : Bool :=
  meshUp s && classOpen cls s && belowQuota cls (homeTile (64 * line) s) (locate (64 * line) s).site s

/-- The request counts as outstanding until it is answered (R260). -/
def addOut (w : Who) (cls line : Nat) (s : State) : State :=
  setCoh (fun h => { h with outst := h.outst ++
    [{ cls := cls, slice := homeTile (64 * line) s, mc := (locate (64 * line) s).site, who := w }] }) s

/-- A request meets what its home finds in the line (R167, R185): 0 nothing, 1 and 2 a corrected and an uncorrectable error of
the slice, 2 + n an error in n symbols of the granule, where the slice does not have the line. -/
def meetAt (err : Nat) (r : HReq) (s : State) : State :=
  if err ≤ 2 then sliceError r.line err s
  else if (cached r.line s).isSome then s
  else
    let l := locate (64 * r.line) s
    meetErrors l.site l.ch (r.line / 4) (err - 2) r.cls false s

/-- A request that has left its port is taken at the home, and is outstanding. -/
def enterHome (err : Nat) (r : HReq) (s : State) : State := homeArrive r (meetAt err r (addOut r.who r.cls r.line s))

/-- The home slice of an offset is on a tile that answers: an engine out of service makes its router answer UNREACHABLE
(R248). -/
def sliceStatus (off : Nat) (s : State) : Status :=
  if decide (homeTile off s < tiles s) && rd GRV_STATUS_STATE (homeTile off s) s != 3 then .ok else .unreachable

/-- An access status, with what the line's slice makes of it. -/
def homeStatus (r : Reqr) (off : Nat) (write : Bool) (s : State) : Status :=
  Status.worse (accessStatus r off write s) (sliceStatus off s)

/-! ## Messages from a ZCP chiplet -/

/-- The deadline of a Format Q header (R224): the ruling value with these low bits nearest the position. -/
def deadlineOf (dl : Nat) (s : State) : Nat :=
  let b := pos s / 2 ^ 32 * 2 ^ 32 + dl
  if b + 2 ^ 31 < pos s then b + 2 ^ 32
  else if pos s + 2 ^ 31 ≤ b ∧ 2 ^ 32 ≤ b then b - 2 ^ 32
  else b


/-- The oldest message of its class that SITE_j has sent, if its code is `opc`, and the state without it. Messages of one
class are taken in order (R223). -/
def takeRx (j opc : Nat) (s : State) : Option (ZMsg × State) :=
  match (site j s).rx.find? (fun m => m.opc == opc) with
  | none => none
  | some m =>
    if (siteState j s != 3 && siteState j s != 5) || !meshUp s then none
    else if ((site j s).rx.find? (fun x => x.cls == m.cls)) == some m then
      some (m, returnCredit j m.cls (setSite j (fun x => { x with rx := x.rx.erase m }) s))
    else none

/-- TAG, LINE and the deadline of a Format Q header. -/
def qTag (h : Nat) : Nat := slice h 8 12
/-- LINE of a Format Q header. -/
def qLine (h : Nat) : Nat := slice h 20 38
/-- The deadline of a Format Q header, where DL_EN = 1. -/
def qDeadline (h : Nat) (s : State) : Option Nat := if bit h 6 then some (deadlineOf (slice h 64 32) s) else none

/-- A fabric window's number, for an offset in one (R288). -/
def fabricWindow (off : Nat) : Option Nat :=
  if 2 ^ 43 ≤ off ∧ off < 2 ^ 43 + 2 ^ 42 then some ((off - 2 ^ 43) / 2 ^ 38) else none

/-- The fabric address of an offset in window `w` (R288). -/
def fabricAddr (w off : Nat) (s : State) : Nat :=
  rd SYR_FWIN_TWIN w s * 2 ^ 56 + rd SYR_FWIN_HUB w s * 2 ^ 44 + rd SYR_FWIN_BASE_HI w s * 2 ^ 38 + off % 2 ^ 38

/-- The hub of a fabric address, with its twin bit. -/
def fabricHub (a : Nat) : Nat := a / 2 ^ 56 % 2 * 4096 + slice a 44 12

/-- A packet for the hub `dst` can leave at all (R286, R290). -/
def reachable (dst : Nat) (s : State) : Bool :=
  if dst / 4096 ≠ rd HUB_ID_TWIN 0 s then !(goodPorts 6 s).isEmpty
  else dst == selfId s || rdb SYR_ROUTE_VALID (dst % 4096) s

/-- A fabric request takes its tag, its timer starts and its packet leaves (R253, R288). `b`: byte mask of a masked write, else
the length of a read or an atomic's operation. -/
def fabricGo (t id fn w off opc : Nat) (masked : Bool) (b : Nat) (data : List Byte) (s : State) : State :=
  let a := fabricAddr w off s
  let s := { s with timers := { s.timers with reqs := s.timers.reqs ++
    [{ cls := 2, port := 72, tag := t, fn := fn, purpose := .remote id, limit := classLimit 2 s,
       deadline := now16 s + classLimit 2 s }] } }
  syrSend { opc := opc, vn := 0, masked := masked, dst := fabricHub a, src := selfId s, tag := t, fn := fn,
            addr := a, aux := b, data := data } s

/-- What the source completes a request of `len` bytes in fabric window `w` with (R288, R286, R290); OK where its packet
leaves. -/
def windowStatus (fn w off len : Nat) (s : State) : Status :=
  Status.worst [ if !rdb SYR_FWIN_VALID w s then .unreachable else if rd SYR_FWIN_FUNCTION w s ≠ fn then .accessDenied
                 else if !reachable (fabricHub (fabricAddr w off s)) s then .unreachable else .ok,
                 if 512 < off % 512 + len then .unsupported else .ok ]

/-- A request in fabric window `w` for function `fn` leaves as packet `opc` (R288): RREAD of `len` bytes, RWRITE of
`data`, masked where `mask` is given, or RATOMIC. Its timer is of the Syrel remote class, and its answer is LATE after `dl`. -/
def fabricSend (who : Who) (fn w off opc len : Nat) (data : List Byte) (mask : Option Nat) (aux : Nat) (dl : Option Nat) (s : State) : State :=
  if windowStatus fn w off len s ≠ .ok then answer who (windowStatus fn w off len s) [] s
  else
    let id := s.syr.nextOut
    let s := setSyr (fun y => { y with outbound := put id { who := who, deadline := dl, write := opc == 2 } y.outbound, nextOut := id + 1 }) s
    match freeTag 2 0 s with
    | some t => fabricGo t id fn w off opc mask.isSome (mask.getD aux) data s
    | none =>
      -- no tag is free: the request waits, with no error (R255)
      { s with timers := { s.timers with waiting := s.timers.waiting ++
        [{ cls := 2, port := 72, fn := fn, purpose := .remote id,
           out := { kind := .syrPacket, dest := w, args := [off, opc, b2n mask.isSome, mask.getD aux], data := data } }] } }

/-- Request `id` to another hub has its answer, which is LATE where it has no error and its deadline has passed (R224). -/
def answerOut (id : Nat) (o : OutReq) (st : Status) (data : List Byte) (s : State) : State :=
  answer o.who (if st = .ok ∧ lateFor o.deadline s then .late else st) data (setSyr (fun y => { y with outbound := del id y.outbound }) s)

/-- The function in whose name a chiplet uses window `w`: the window's own, where it is bound to the site's partition. -/
def siteWindowFn (j w : Nat) (s : State) : Nat :=
  if siteOwned (rd SYR_FWIN_FUNCTION w s) j s then rd SYR_FWIN_FUNCTION w s else 64

/-- What a coherent request of SITE_j for a line completes with before the home takes it (R192, R288, DIR_CTL.COH_EN). -/
def coherentRefusal (j line : Nat) (s : State) : Status :=
  match fabricWindow (64 * line) with
  | some w => Status.worse .unsupported (windowStatus (siteWindowFn j w s) w (64 * line) 0 s)
  | none =>
    if !bit (rd DIR_CTL_COH_EN 0 s) j then
      (if accessStatus (.site j) (64 * line) true s == .accessDenied then .accessDenied else .unsupported)
    else homeStatus (.site j) (64 * line) false s

/-- The deadline of a site's request (R224), or its class's default (R264). -/
def siteDeadline (j h : Nat) (s : State) : Option Nat := classDeadline (portClass (64 + j) 0 s) (qDeadline h s) s

/-- A request of SITE_j with header `h` is taken at the home, or answered with the status that refuses it. -/
def siteRequest (j h err : Nat) (st : Status) (r : HReq) (s : State) : State :=
  if st ≠ .ok then answer r.who st [] s
  else enterHome err { r with cls := portClass (64 + j) 0 s, deadline := siteDeadline j h s } s

/-- RD_S, RD_X or UPG of SITE_j. It stays where it is while it may not leave (R251, R260). -/
def doCoherent (j opc err : Nat) (kind : HKind) (s : State) : State :=
  match takeRx j opc s with
  | none => s
  | some (m, t) =>
    let line := qLine m.hdr
    if !mayLeaveMesh (portClass (64 + j) 0 s) line s then s
    else siteRequest j m.hdr err (coherentRefusal j line t) { kind := kind, line := line, who := .site j (qTag m.hdr) } t

/-- RD_S (R200); `err`: what the home finds in the line (`meetAt`). -/
def execRdS (j err : Nat) (s : State) : Host.Outcome State Fault Refusal := .next (clocked (doCoherent j 0x01 err .rdS) s)
/-- RD_X (R200). -/
def execRdX (j err : Nat) (s : State) : Host.Outcome State Fault Refusal := .next (clocked (doCoherent j 0x02 err .rdX) s)
/-- UPG (R200). -/
def execUpg (j err : Nat) (s : State) : Host.Outcome State Fault Refusal := .next (clocked (doCoherent j 0x03 err .upg) s)

/-- RD_ONCE (R200); in a fabric window it becomes RREAD (R288). -/
def doRdOnce (j err : Nat) (s : State) : State :=
  match takeRx j 0x04 s with
  | none => s
  | some (m, t) =>
    let line := qLine m.hdr
    let who := Who.site j (qTag m.hdr)
    match fabricWindow (64 * line) with
    | some w => if meshUp s then fabricSend who (siteWindowFn j w t) w (64 * line) 0x1 64 [] none 64 (siteDeadline j m.hdr t) t else s
    | none =>
      if !mayLeaveMesh (portClass (64 + j) 0 s) line s then s
      else siteRequest j m.hdr err (homeStatus (.site j) (64 * line) false t) { kind := .rdOnce, line := line, who := who } t

/-- RD_ONCE. -/
def execRdOnce (j err : Nat) (s : State) : Host.Outcome State Fault Refusal := .next (clocked (doRdOnce j err) s)

/-- WR_P (R200); in a fabric window it becomes a masked RWRITE (R288). -/
def doWrP (j err : Nat) (s : State) : State :=
  match takeRx j 0x05 s with
  | none => s
  | some (m, t) =>
    let line := qLine m.hdr
    let who := Who.site j (qTag m.hdr)
    match fabricWindow (64 * line) with
    | some w => if meshUp s then fabricSend who (siteWindowFn j w t) w (64 * line) 0x2 64 m.data (some m.mask) 0 (siteDeadline j m.hdr t) t else s
    | none =>
      if !mayLeaveMesh (portClass (64 + j) 0 s) line s then s
      else siteRequest j m.hdr err (homeStatus (.site j) (64 * line) true t)
        { kind := .wrP, line := line, who := who, data := m.data, mask := m.mask } t

/-- WR_P. -/
def execWrP (j err : Nat) (s : State) : Host.Outcome State Fault Refusal := .next (clocked (doWrP j err) s)

/-- A write-back of SITE_j reaches the home (Tables 6 and 7). -/
def takeWb (j line : Nat) (data : List Byte) (s : State) : State :=
  let cls := portClass (64 + j) 0 s
  match trans line s with
  | some t =>
    match t.phase with
    | .bd =>
      if t.owner = some j ∧ !t.wbs.contains j then
        setTrans line { t with wbs := j :: t.wbs } (writeHome line cls data s)
      else s
    | .bg =>
      if whoSite t.req.who = some j ∧ !t.wbs.contains j then
        setTrans line { t with wbs := j :: t.wbs } (writeHome line cls data s)
      else s
    | .ba => s
  | none =>
    let e := dent line s
    if e.st = 2 ∧ e.owner = j then setDent line { st := 0 } (writeHome line cls data s)
    else if e.st = 3 ∧ e.owner = j then
      setDent line { e with st := 1, owner := 0 } (writeHome line cls data s)
    else s

/-- WB (R201): it is always accepted and answered WB_ACK (R194). -/
def doWb (j : Nat) (s : State) : State :=
  match takeRx j 0x1C s with
  | none => s
  | some (m, s) => zcpAnswer j 0x13 (qTag m.hdr) .ok (takeWb j (qLine m.hdr) m.data s)

/-- WB. -/
def execWb (j : Nat) (s : State) : Host.Outcome State Fault Refusal := .next (clocked (doWb j) s)

/-- The snoop that an answer's tag names, and the state without its timer; a tag in quarantine drops the answer, any
other breaks R221 (R255, R257). -/
def snoopOf (j tag : Nat) (s : State) : Option Nat × State :=
  match reqOf 1 (64 + j) tag s with
  | some r =>
    match r.purpose with
    | .snoop _ line => (some line, retireReq r s)
    | _ => (none, fenceProtocol j 0 s)
  | none =>
    if s.timers.tombs.any (fun t => t.cls == 1 && t.port == 64 + j && t.tag == tag) then (none, bump TMO_COUNT_LATE_DROP 0 1 s)
    else (none, fenceProtocol j 0 s)

/-- A holder's answer without data is counted (Table 7). -/
def takeInvAck (j line : Nat) (s : State) : State :=
  match trans line s with
  | none => fenceProtocol j line s
  | some t =>
    if !t.waits.contains j then fenceProtocol j line s
    else advanceTrans line { t with waits := t.waits.filter (· != j), ownerDone := t.ownerDone || t.owner == some j } s

/-- INV_ACK (R201). -/
def doInvAck (j : Nat) (s : State) : State :=
  match takeRx j 0x10 s with
  | none => s
  | some (m, s) =>
    let r := snoopOf j (qTag m.hdr) s
    match r.1 with
    | some line => takeInvAck j line r.2
    | none => r.2

/-- INV_ACK. -/
def execInvAck (j : Nat) (s : State) : Host.Outcome State Fault Refusal := .next (clocked (doInvAck j) s)

/-- The answer with data breaks R203. -/
def badData (j d keep : Nat) (t : Trans) (s : State) : Bool :=
  keep == 3 || (d == 0 && keep == 2) || (keep != 0 && !askedShare t) || (d == 1 && keep == 1 && !siteCxl j s)

/-- A holder's answer with data (Tables 7 and 8, R203). -/
def takeSnpData (j line d keep : Nat) (data : List Byte) (s : State) : State :=
  match trans line s with
  | none => fenceProtocol j line s
  | some t =>
    if t.phase ≠ .bd ∨ t.owner ≠ some j ∨ !t.waits.contains j ∨ badData j d keep t s then
      -- the data of a dirty answer in S from a ZCP site is kept all the same (Table 8, last row)
      fenceProtocol j line (if d = 1 ∧ keep = 1 ∧ t.owner = some j then writeHome line t.req.cls data s else s)
    else
      advanceTrans line { t with waits := t.waits.filter (· != j), ownerDone := true, ans := some (d, keep, data) } s

/-- SNP_DATA (R201). -/
def doSnpData (j : Nat) (s : State) : State :=
  match takeRx j 0x18 s with
  | none => s
  | some (m, s) =>
    let r := snoopOf j (qTag m.hdr) s
    match r.1 with
    | some line => takeSnpData j line (slice m.hdr 26 1) (slice m.hdr 24 2) m.data r.2
    | none => r.2

/-- SNP_DATA. -/
def execSnpData (j : Nat) (s : State) : Host.Outcome State Fault Refusal := .next (clocked (doSnpData j) s)

/-- GRANT_ACK (R201): the record is made and the transaction ends. -/
def doGrantAck (j : Nat) (s : State) : State :=
  match takeRx j 0x11 s with
  | none => s
  | some (m, s) =>
    match s.coh.trans.find? (fun p => decide (p.2.phase = .bg) && decide (p.2.req.who = .site j (qTag m.hdr))) with
    | some (line, t) => closeGrant line t s
    | none => fenceProtocol j 0 s

/-- GRANT_ACK. -/
def execGrantAck (j : Nat) (s : State) : Host.Outcome State Fault Refusal := .next (clocked (doGrantAck j) s)

/-! ## Requests of the hub's own agents -/

/-- Who an on-die agent at master port `k` is, for the extent rule (R388). -/
def portReqr (k fn : Nat) : Reqr := if 64 ≤ k ∧ k < 72 then .site (k - 64) else .agent fn k

/-- Who makes a home request. -/
def HomeHeld.reqr (h : HomeHeld) : Reqr :=
  match h.remote with
  | some secure => .syrel h.fn secure (h.port - 72)
  | none => portReqr h.port h.fn

/-- The wake event of a packet that comes in at master port `k`'s edge agent (R251, Table 3 of spec/18_power_and_thermal.md). -/
def wakePort (k fn : Nat) (s : State) : State :=
  if 64 ≤ k ∧ k < 72 then noteWake 0x12 (k - 64) s
  else if 72 ≤ k ∧ k < 77 then noteWake 0x11 (4 * (k - 72)) s
  else if k = 77 then noteWake 0x13 fn s
  else s

/-- A home request is checked by its target, and taken. -/
def homeTake (err : Nat) (h : HomeHeld) (s : State) : State :=
  let st := Status.worse (homeStatus h.reqr h.off h.write s) h.form
  if st ≠ .ok then answer h.req.who st [] s else enterHome err h.req s

/-- A home request departs: an on-die one takes its tag and crosses the mesh. -/
def homeGo (flit err : Nat) (h : HomeHeld) (s : State) : State :=
  match h.req.who with
  | .mesh _ _ => arriveAt flit h.port h.id (homeTake err h) (departMesh h.port h.id h.fn (homeTile h.off s) h.req.line s)
  | _ => homeTake err h s

/-- A home request may leave its master port: an on-die one also needs a free tag (R255). -/
def homeMay (h : HomeHeld) (s : State) : Bool :=
  mayLeaveMesh h.req.cls h.req.line s && (match h.req.who with
    | .mesh _ _ => mayIssue h.port h.id s
    | _ => true)

/-- A home request leaves its master port, or is held there, which wakes a hub in H2 or H3 (R251). The number of a request under
way is not used again. -/
def homeRequest (flit err : Nat) (h : HomeHeld) (s : State) : State :=
  if homeMay h s then homeGo flit err h s
  else if (atTarget h.port h.id s).isSome ∧ h.req.who = .mesh h.port h.id then s
  else wakePort h.port h.fn (setCoh (fun c => { c with heldHome := c.heldHome ++ [h] }) s)

/-- A request may not cross its line (R7). -/
def lineForm (off len : Nat) : Status := if 64 < off % 64 + len then .unsupported else .ok

/-- A home request of master port `k` for function `fn`. -/
def portRequest (k id fn off : Nat) (write : Bool) (form : Status) (r : HReq) (s : State) : HomeHeld :=
  let cls := portClass k fn s
  { req := { r with who := .mesh k id, cls := cls, deadline := classDeadline cls none s }, port := k, id := id, fn := fn, off := off,
    write := write, form := form }

/-- HOME_READ (R200): `len` bytes at `off` within one line, for master port `k` and function `fn`. `flit`: what the request meets
on the mesh (`arriveAt`); `err`: what the home finds in the line (`meetAt`). -/
def doHomeRead (k id fn off len flit err : Nat) (s : State) : State :=
  homeRequest flit err (portRequest k id fn off false (lineForm off len)
    { kind := .homeRead, line := off / 64, who := .hub, off := off % 64, len := len } s) s

/-- HOME_READ. -/
def execHomeRead (k id fn off len flit err : Nat) (s : State) : Host.Outcome State Fault Refusal :=
  .next (clocked (doHomeRead k id fn off len flit err) s)

/-- HOME_WRITE (R200): the bytes of one line that `mask` names. -/
def doHomeWrite (k id fn line : Nat) (data : List Byte) (mask flit err : Nat) (s : State) : State :=
  homeRequest flit err (portRequest k id fn (64 * line) true .ok
    { kind := .homeWrite, line := line, who := .hub, data := data, mask := mask } s) s

/-- HOME_WRITE. -/
def execHomeWrite (k id fn line : Nat) (data : List Byte) (mask flit err : Nat) (s : State) : Host.Outcome State Fault Refusal :=
  .next (clocked (doHomeWrite k id fn line data mask flit err) s)

/-- HOME_ATOMIC (R205): operation `op` on `len` bytes at `off`. -/
def doHomeAtomic (k id fn off len op a b flit err : Nat) (s : State) : State :=
  homeRequest flit err (portRequest k id fn off true (lineForm off len)
    { kind := .homeAtomic, line := off / 64, who := .hub, off := off % 64, len := len, op := op, a := a, b := b } s) s

/-- HOME_ATOMIC. -/
def execHomeAtomic (k id fn off len op a b flit err : Nat) (s : State) : Host.Outcome State Fault Refusal :=
  .next (clocked (doHomeAtomic k id fn off len op a b flit err) s)

/-- The line is free, and its home copy is current, or for a read its owner in O has shown it; for a write no chiplet holds the line
(log entry 21). -/
def atHome (write : Bool) (s : State) (line : Nat) : Bool :=
  !lineBusy line s &&
  ((dent line s).st == 0 || (dent line s).st == 4 || (!write && ((dent line s).st == 1 || (look s.coh.seen line).isSome)))

/-- Every line of a range is at home. -/
def claimed (off len : Nat) (write : Bool) (s : State) : Bool := (lineOffs off len).all (fun o => atHome write s (o / 64))

/-- The holders of a line are snooped for an access of the hub's own of class `cls`: a read has its owner show it, a write invalidates
every copy (Table 6). -/
def claimLine (cls : Nat) (write : Bool) (line : Nat) (s : State) : State :=
  if write then startEvict line .claim cls s else startShow line cls s

/-- The holders of the lines of a range that are not at home are snooped. -/
def claim (r : Reqr) (off len : Nat) (write : Bool) (s : State) : State :=
  forEach (lineOffs off len) (fun o s =>
    if atHome write s (o / 64) || lineBusy (o / 64) s then s else claimLine (reqrClass r s % 32) write (o / 64) s) s

/-- A read of the hub's own over lines that are at home; a lost line answers DATA_ERR (Table 6). -/
def homeGet (r : Reqr) (off len : Nat) (s : State) : Status × List Byte × State :=
  let st := rangeStatus r off len false s
  if st = .ok ∧ (lineOffs off len).any (fun o => (dent (o / 64) s).st == 4) then (.dataErr, [], s)
  else hubRead r off len s

/-- A write of the hub's own over lines that are at home: a lost line takes a write of the whole line only (R207). -/
def homePut (r : Reqr) (off : Nat) (l : List Byte) (s : State) : Status × State :=
  let st := rangeStatus r off l.length true s
  let lost := (lineOffs off l.length).filter (fun o => (dent (o / 64) s).st == 4)
  if st = .ok ∧ lost.any (fun o => decide (o < off) || decide (off + l.length < o + 64)) then (.dataErr, s)
  else if st = .ok then hubWrite r off l (forEach lost (fun o s => setDent (o / 64) { st := 0 } s) s)
  else (st, s)

/-! ## CXL chiplets (R209, R210) -/

/-- A CXL site has dropped a clean line: it is removed from the record, also from that of a transaction under way (Table 9). -/
def dropSite (j line : Nat) (s : State) : State :=
  match trans line s with
  | some t =>
    setTrans line { t with
      sharers := subSite t.sharers j, wbs := if t.owner = some j then j :: t.wbs else t.wbs,
      record := t.record.map (fun e => { e with sharers := subSite e.sharers j }) } s
  | none =>
    let e := dent line s
    if e.st = 2 ∧ e.owner = j then setDent line { st := 0 } s
    else if bit e.sharers j then setDent line { e with sharers := subSite e.sharers j } s
    else s

/-- The requests of Table 9, by number: 0 RdShared, 1 RdAny, 2 RdOwn, 3 RdOwnNoData, 4 RdCurr, 5 CleanEvict and
CleanEvictNoData, 6 DirtyEvict, 7 ItoMWr, WrCur, WOWrInv and WOWrInvF, 8 any other request; and the responses 9 RspIHitI and
RspIHitSE, 10 RspSHitSE, 11 RspSFwdM, 12 RspIFwdM, 13 RspVHitV and RspVFwdV. -/
def doCxlCacheMessage (j msg tag line : Nat) (data : List Byte) (mask err : Nat) (s : State) : State :=
  if !siteCxl j s || !siteReady j s then s else
  let who := Who.cxl j tag
  let cls := portClass (64 + j) 0 s
  let ask := fun (write : Bool) (st : Status) (r : HReq) =>
    homeRequest 0 err { req := { r with who := who, cls := cls, deadline := classDeadline cls none s }, port := 64 + j, id := tag, fn := 0,
                        off := 64 * line, write := write, form := st } s
  let coherent := fun (kind : HKind) (onlyS : Bool) =>
    ask false (coherentRefusal j line s) { kind := kind, line := line, who := who, onlyS := onlyS }
  match msg with
  | 0 => coherent .rdS true
  | 1 => coherent .rdS false
  | 2 => coherent .rdX false
  | 3 => coherent .ownNoData false
  | 4 => ask false .ok { kind := .rdOnce, line := line, who := who }
  | 5 => emit { kind := .cxlSite, dest := j, tag := tag, args := [3] } (dropSite j line s)
  | 6 => emit { kind := .cxlSite, dest := j, tag := tag, args := [4] } (takeWb j line data s)
  | 7 => ask true .ok { kind := .wrP, line := line, who := who, data := data, mask := mask }
  | 8 => logRec .protocol [j, msg, line] (answer who .unsupported [] s)
  | _ =>
    let r := snoopOf j tag s
    let s := r.2
    match r.1 with
    | none => s
    | some l =>
      match msg with
      | 9 => takeInvAck j l s
      | 10 =>
        -- no data: the home copy is used
        let x := readLine l cls s
        takeSnpData j l 0 1 x.2.1 x.2.2
      | 11 => takeSnpData j l 1 1 data s
      | 12 => takeSnpData j l 1 0 data s
      | _ => fenceProtocol j l s

/-- CXL_CACHE_MESSAGE. -/
def execCxlCacheMessage (j msg tag line : Nat) (data : List Byte) (mask err : Nat) (s : State) :
    Host.Outcome State Fault Refusal :=
  .next (clocked (doCxlCacheMessage j msg tag line data mask err) s)

/-! ## System-cache requests, quotas and bucket moves (R183, R186, R260, R266) -/

/-- A request may leave its master port. -/
def mayDepart (r : MReq) (s : State) : Bool := mayLeaveMesh r.cls r.line s && !bucketMoving r.line s

/-- A slice request's answer, with no error LATE after its deadline (R188). -/
def answerSc (r : MReq) (data : List Byte) (s : State) : State :=
  let late := lateFor r.deadline s
  answer (.mesh r.port r.id) (if late then .late else .ok) data (if late then noteLate r.line (some r.fn) s else s)

/-- The bytes of a line as a write of some of them carries them. -/
def lineBytes (w : List (Nat × Byte)) : List Byte := mergeBytes (List.replicate 64 0) (w.map (fun p => (p.1 % 64, p.2)))

/-- What a slice request asks of the home of a line that chiplets hold or that is busy. -/
def asHome (r : MReq) : HReq :=
  if r.write then { kind := .homeWrite, line := r.line, who := .mesh r.port r.id, data := lineBytes r.bytes,
                    mask := (r.bytes.map (fun p => 2 ^ (p.1 % 64))).sum, cls := r.cls, deadline := r.deadline }
  else { kind := .homeRead, line := r.line, who := .mesh r.port r.id, cls := r.cls, deadline := r.deadline }

/-- A slice request that finds its line in the slice (R182, R183). -/
def sliceHit (r : MReq) (c : CLine) (s : State) : State :=
  let use := c.use || allocMask r.cls s != 0
  if r.write then answerSc r [] (setLine r.line
    { c with data := mergeBytes c.data (r.bytes.map (fun p => (p.1 % 64, p.2))), dirty := true, use := use } s)
  else answerSc r c.data (setLine r.line { c with use := use } s)

/-- A request at the home slice: a line that is busy or that chiplets hold is the directory's (R198, R200); a hit is answered; a miss
goes to the channel engine. A write of the whole line ends its loss (R185). -/
def sliceServe (r : MReq) (err : Nat) (s : State) : State :=
  let s := addOut (.mesh r.port r.id) r.cls r.line s
  if (trans r.line s).isSome || !(lookD [] s.coh.queue r.line).isEmpty || (dent r.line s).st != 0 then homeArrive (asHome r) s
  else
    let s := meetAt err (asHome r) (countSlice r.line (some r.fn) s)
    if s.mem.lost.contains r.line && !(r.write && r.bytes.length == 64) then answer (.mesh r.port r.id) .dataErr [] s else
    let s := setMem (fun m => { m with lost := m.lost.filter (· != r.line) }) s
    match cached r.line s with
    | some c => sliceHit r c s
    | none =>
      let alloc := allocMask r.cls s != 0
      -- an allocating write that missed reads the granule first and merges its bytes
      enqueue { r with write := r.write && !alloc, alloc := alloc } s

/-- A slice request departs and reaches its home slice. -/
def departSc (r : MReq) (err flit : Nat) (s : State) : State :=
  let off := 64 * r.line
  arriveAt flit r.port r.id (fun s =>
    let st := homeStatus (portReqr r.port r.fn) off r.write s
    if st ≠ .ok then meshAnswer r.port r.id st [] s else sliceServe r err s)
    (departMesh r.port r.id r.fn (homeTile off s) r.line s)

/-- SC_REQUEST (R183, R260): master port `k` asks, for function `fn`, for a line (`wrt` = false) or to write bytes of it.
`err` is what the slice's data protection finds: 0 nothing, 1 a corrected, 2 an uncorrectable error; `flit` what the request
meets on the mesh (`arriveAt`). A request that may not depart is held at its port. -/
def doScRequest (k fn line : Nat) (wrt : Bool) (data : List Byte) (mask err flit : Nat) (dl : Option Nat) (s : State) : State :=
  let cls := portClass k fn s
  let id := s.coh.nextId
  let s := setCoh (fun h => { h with nextId := id + 1 }) s
  let r : MReq := { gran := line / 4, write := wrt, line := line, port := k, id := id, fn := fn, cls := cls,
                    bytes := if wrt then (maskedBytes mask data).map (fun p => (line % 4 * 64 + p.1, p.2)) else [],
                    deadline := classDeadline cls dl s, at16 := now16 s }
  if mayDepart r s && mayIssue k id s then departSc r err flit s
  else wakePort k fn (setCoh (fun h => { h with held := h.held ++ [r] }) s)

/-- SC_REQUEST. -/
def execScRequest (k fn line : Nat) (wrt : Bool) (data : List Byte) (mask err flit : Nat) (dl : Option Nat) (s : State) :
    Host.Outcome State Fault Refusal :=
  .next (clocked (doScRequest k fn line wrt data mask err flit dl) s)

/-- The oldest held home request of master port `k` that may leave departs. -/
def releaseHome (k : Nat) (s : State) : State :=
  match s.coh.heldHome.find? (fun h => h.port == k && homeMay h s) with
  | none => s
  | some h => homeGo 0 0 h (setCoh (fun c => { c with heldHome := c.heldHome.erase h }) s)

/-- QUOTA_RELEASE (R260): the oldest held request of master port `k` whose class is below its quotas departs. -/
def doQuotaRelease (k : Nat) (s : State) : State :=
  match s.coh.held.find? (fun r => r.port == k && mayDepart r s && mayIssue k r.id s) with
  | none => releaseHome k s
  | some r => departSc r 0 0 (setCoh (fun h => { h with held := h.held.erase r }) s)

/-- QUOTA_RELEASE. -/
def execQuotaRelease (k : Nat) (s : State) : Host.Outcome State Fault Refusal := .next (clocked (doQuotaRelease k) s)

/-- The lines of a bucket among some. -/
def ofBucket (b : Nat) (ls : List Nat) : List Nat := ls.filter (fun l => bucketOf (64 * l) == b)

/-- A bucket move begins (R186): dirty lines are written back, every line leaves the slice, and the directory's entries
but L are evicted; the bucket's requests are held from now on. -/
def startBucketMove (s : State) : State :=
  match s.mem.buckets with
  | [] => s
  | (b, _) :: _ =>
    if rdb SC_STATUS_MOVING 0 s then s else
    let s := setB SC_STATUS_MOVING 0 s
    let c := portClass 79 0 s
    let s := forEach (ofBucket b (s.coh.cache.map Prod.fst)) (fun l s => evictLine l c s) s
    let s := forEach (ofBucket b (s.coh.dir.map Prod.fst)) (fun l s =>
      if (dent l s).st = 4 ∨ (trans l s).isSome then s else startEvict l .evict c s) s
    setB SLICE_STEER_MOVING b s

/-- Every held home request that may leave its port departs. -/
def releaseHomes (s : State) : State :=
  forEach s.coh.heldHome (fun h s =>
    if homeMay h s then homeGo 0 0 h (setCoh (fun c => { c with heldHome := c.heldHome.erase h }) s) else s) s

/-- A request held at its master port for the bucket that has moved, or for its quota, departs now. -/
def releaseHeld (s : State) : State :=
  forEach s.coh.held (fun r s =>
    if mayDepart r s && mayIssue r.port r.id s then departSc r 0 0 (setCoh (fun h => { h with held := h.held.erase r }) s) else s) s

/-- BUCKET_MOVE_DONE (R186): the bucket's entries but L are gone; its home is switched, its requests are released and the
next move begins. -/
def doBucketMoveDone (s : State) : State :=
  match s.mem.buckets with
  | [] => s
  | (b, tile) :: rest =>
    if !rdb SLICE_STEER_MOVING b s then startBucketMove s
    else
      let left := ofBucket b (s.coh.dir.map Prod.fst)
      if left.any (fun l => (dent l s).st != 4 && (trans l s).isSome) then s
      else
        let s := forEach (left.filter (fun l => (dent l s).st != 4)) (fun l s => startEvict l .evict (portClass 79 0 s) s) s
        if (ofBucket b (s.coh.dir.map Prod.fst)).any (fun l => (dent l s).st != 4) then s
        else
          s |> wr SLICE_STEER_TILE b tile |> clrB SLICE_STEER_MOVING b |> clrB SC_STATUS_MOVING 0
            |> setMem (fun m => { m with buckets := rest }) |> releaseHeld |> startBucketMove

/-- BUCKET_MOVE_DONE. -/
def execBucketMoveDone (s : State) : Host.Outcome State Fault Refusal := .next (clocked doBucketMoveDone s)

end Sys2Proof.Machine
end

