-- ==== Sys2Proof/Machine/Mover.lean ====
section
/-! DEFINITION. Sys2Proof/Machine/Mover.lean: a panel mover's moves: cut into pieces, each read from one side and written to
the other, with page faults (spec/13_rings_and_descriptors.md R349, spec/14_translation.md R364, R372, R373). -/

namespace Sys2Proof.Machine

open Sys2Proof

/-- The job with a number. -/
def jobOf (j : Nat) (s : State) : Option Job := look s.xlat.jobs j

/-- Piece `p` of a job. -/
def pieceOf (j p : Nat) (s : State) : Option Piece := (jobOf j s).bind (fun x => x.pieces[p]?)

/-- A new job; its number is the old `nextJob`. -/
def addJob (x : Job) (s : State) : State :=
  { s with xlat := { s.xlat with jobs := put s.xlat.nextJob x s.xlat.jobs, nextJob := s.xlat.nextJob + 1 } }

/-- The job is done with. -/
def dropJob (j : Nat) (s : State) : State := { s with xlat := { s.xlat with jobs := del j s.xlat.jobs } }

/-- The side of a move after its first `n` bytes. -/
def MLoc.after (n : Nat) : MLoc → MLoc
  | .host va => .host (va + n)
  | .hub off => .hub (off + n)
  | .buf off => .buf (off + n)

/-- Bytes that a piece may take from here: to the end of the 4 KiB page of the host, of the 512-byte block of a fabric
window, of the granule of hub memory, or without a limit in a panel buffer. -/
def MLoc.room : MLoc → Nat
  | .host va => 4096 - va % 4096
  | .hub off => if (fabricWindow off).isSome then 512 - off % 512 else 4096 - off % 4096
  | .buf _ => 131072

/-- The page number of a piece: the k-th 4 KiB page of the host side, counted from `first`. -/
def pageNo (first : Nat) (src dst : MLoc) : Nat :=
  match src, dst with
  | .host va, _ => va / 4096 - first
  | _, .host va => va / 4096 - first
  | _, _ => 0

/-- A move cut into pieces (R288, R349); `fuel` bounds their number. -/
def cutPieces (first : Nat) : Nat → MLoc → MLoc → Nat → List Piece
  | 0, _, _, _ => []
  | fuel + 1, src, dst, len =>
    if len = 0 then [] else
    let n := min len (min src.room dst.room)
    { src := src, dst := dst, len := n, page := pageNo first src dst } ::
      cutPieces first fuel (src.after n) (dst.after n) (len - n)

/-- The first host page of a move. -/
def firstPage (src dst : MLoc) : Nat :=
  match src, dst with
  | .host va, _ => va / 4096
  | _, .host va => va / 4096
  | _, _ => 0

/-- The pieces of a move of `len` bytes. -/
def piecesOf (src dst : MLoc) (len : Nat) : List Piece := cutPieces (firstPage src dst) (len / 512 + 4) src dst len

/-- Who moves, for the extent rule. -/
def Job.reqr (x : Job) : Reqr := .mover x.fn x.alloc x.tile

/-- A piece that has data is written to its other side; hub memory whose lines chiplets hold is claimed first. -/
def writePiece (j p : Nat) (x : Job) (q : Piece) (data : List Byte) (s : State) : State :=
  match q.dst with
  | .buf _ => s
  | .host va => hostAccess x.fn x.pasid va q.len true (.piece j p) data x.tile (setPiece j p .writing s)
  | .hub off =>
    match fabricWindow off with
    | some w =>
      fabricSend (.piece j p) x.fn w off 0x2 q.len data none 0 (classDeadline (portClass x.tile x.fn s) x.deadline s)
        (setPiece j p .writing s)
    | none =>
      if !claimed off q.len true s then claim x.reqr off q.len true s else
      let r := homePut x.reqr off data s
      setPiece j p (if r.1.good then .moved else .failed r.1) r.2

/-- A piece that waits is read from its first side. -/
def readPiece (j p : Nat) (x : Job) (q : Piece) (s : State) : State :=
  match q.src with
  | .buf _ => s
  | .host va => hostAccess x.fn x.pasid va q.len false (.piece j p) [] x.tile (setPiece j p .reading s)
  | .hub off =>
    match fabricWindow off with
    | some w =>
      fabricSend (.piece j p) x.fn w off 0x1 q.len [] none q.len (classDeadline (portClass x.tile x.fn s) x.deadline s)
        (setPiece j p .reading s)
    | none =>
      if !claimed off q.len false s then claim x.reqr off q.len false s else
      let r := homeGet x.reqr off q.len s
      if r.1.good then setPiece j p (.have r.2.1) (countTile x.tile 0x06 x.fn q.len r.2.2) else setPiece j p (.failed r.1) r.2.2

/-- One piece goes as far as it can without an answer from outside. -/
def stepPiece (j p : Nat) (s : State) : State :=
  let s := match jobOf j s, pieceOf j p s with
    | some x, some q => if q.st = .waiting then readPiece j p x q s else s
    | _, _ => s
  match jobOf j s, pieceOf j p s with
  | some x, some q => match q.st with
    | .have d => writePiece j p x q d s
    | _ => s
  | _, _ => s

/-- Every piece of job `j` goes as far as it can, in ascending order. -/
def advanceJob (j : Nat) (s : State) : State :=
  match jobOf j s with
  | none => s
  | some x => forEach (List.range x.pieces.length) (stepPiece j) s

/-- Every job goes on: what an answer that came since allows. -/
def advanceJobs (s : State) : State := forEach (s.xlat.jobs.map Prod.fst) advanceJob s

/-- A piece has come to its end. -/
def Piece.ended (q : Piece) : Bool :=
  match q.st with
  | .moved | .refused | .failed _ => true
  | .have _ => (match q.dst with | .buf _ => true | _ => false)
  | _ => false

/-- Every piece has come to its end (R373). -/
def Job.ended (x : Job) : Bool := x.pieces.all Piece.ended

/-- A piece is in place. -/
def Piece.good (q : Piece) : Bool := q.ended && (match q.st with | .refused | .failed _ => false | _ => true)

/-- The status of a job that is over: PAGE_FAULT where a page was refused, with what else failed (R17, R373). -/
def Job.status (x : Job) : Status :=
  Status.worst (x.pieces.map (fun q => match q.st with
    | .refused => Status.pageFault
    | .failed st => st
    | _ => Status.ok))

/-- Bytes moved. -/
def Job.moved (x : Job) : Nat := x.pieces.foldl (fun n q => if q.good then n + q.len else n) 0

/-- The record's MASK (R349): the host pages all of whose pieces are in place. -/
def Job.mask (x : Job) : Nat :=
  (List.range 64).foldl (fun m k =>
    let ps := x.pieces.filter (fun q => q.page == k)
    if !ps.isEmpty && ps.all Piece.good then m + 2 ^ k else m) 0

/-- The bytes read into a buffer, in order. -/
def Job.image (x : Job) : List Byte :=
  x.pieces.flatMap (fun q => match q.st with | .have d => d | _ => List.replicate q.len 0)

/-- A piece of the job waits for a page-request batch: the operation is FAULT_PARKED (R372). -/
def jobParked (j : Nat) (s : State) : Bool :=
  let mine := fun (w : XWait) => match w.purpose with
    | .piece i _ => i == j
    | _ => false
  s.xlat.faults.any mine || s.xlat.batches.any (fun b => b.waits.any mine)

/-- TILE_t is in service: its engine is not out of service (R93). -/
def tileUp (t : Nat) (s : State) : Bool := decide (t < tiles s) && rd GRV_STATUS_STATE t s != 3

/-- TILE_t takes new work: it is in service, no TILE_OUT of it runs (R446) and no compute-partial reset (R434). -/
def tileServes (t : Nat) (s : State) : Bool :=
  tileUp t s && !tilesHeld s && !(match s.boot.svc with
    | v :: _ => v.sub == 1 && v.idx == t && decide (0 < v.phase)
    | [] => false)

/-- A tile of the partition of function `n` that serves (R119). -/
def moverTile (n : Nat) (s : State) : Option Nat :=
  firstBelow 64 (fun t => tileOwned n t s && tileServes t s)

end Sys2Proof.Machine
end

