-- ==== Sys2Proof/Machine/Engine.lean ====
section
/-! DEFINITION. Sys2Proof/Machine/Engine.lean: the Graver engine: its operand space, instruction word, checks, lane
arithmetic and the issue of one instruction (spec/03_graver_engine.md R61 to R88). -/

namespace Sys2Proof.Machine

open Sys2Proof

/-- The engine of TILE_t. -/
def grv (t : Nat) (s : State) : Grv := lookD {} s.grv t

/-- `s` with the engine of TILE_t changed. -/
def setGrv (t : Nat) (f : Grv → Grv) (s : State) : State := { s with grv := modD {} t f s.grv }

/-- `s` with the running launch of TILE_t changed. -/
def setRun (t : Nat) (f : GRun → GRun) (s : State) : State := setGrv t (fun g => { g with run := g.run.map f }) s

/-! ## Instruction word (R65, Table 4) -/

/-- OPC. -/
def iOpc (w : Nat) : Nat := slice w 0 6
/-- FMT_A. -/
def iFmtA (w : Nat) : Nat := slice w 6 4
/-- FMT_D. -/
def iFmtD (w : Nat) : Nat := slice w 10 4
/-- TREE. -/
def iTree (w : Nat) : Nat := slice w 14 2
/-- GROUP. -/
def iGroup (w : Nat) : Nat := slice w 16 3
/-- COND. -/
def iCond (w : Nat) : Nat := slice w 19 2
/-- ACCUM. -/
def iAccum (w : Nat) : Bool := bit w 21
/-- RND. -/
def iRnd (w : Nat) : Bool := bit w 22
/-- LMAP. -/
def iLmap (w : Nat) : Bool := bit w 23
/-- PART. -/
def iPart (w : Nat) : Nat := slice w 24 2
/-- MSEL. -/
def iMsel (w : Nat) : Nat := slice w 26 2
/-- MEN. -/
def iMen (w : Nat) : Bool := bit w 28
/-- MINV. -/
def iMinv (w : Nat) : Bool := bit w 29
/-- NEG_A. -/
def iNegA (w : Nat) : Bool := bit w 30
/-- NEG_B. -/
def iNegB (w : Nat) : Bool := bit w 31
/-- D_ADDR. -/
def iDAddr (w : Nat) : Nat := slice w 32 18
/-- D_STEP. -/
def iDStep (w : Nat) : Nat := slice w 50 8
/-- A_ADDR. -/
def iAAddr (w : Nat) : Nat := slice w 58 18
/-- A_STEP. -/
def iAStep (w : Nat) : Nat := slice w 76 8
/-- A_MODE. -/
def iAMode (w : Nat) : Nat := slice w 84 4
/-- B_ADDR. -/
def iBAddr (w : Nat) : Nat := slice w 88 18
/-- B_STEP. -/
def iBStep (w : Nat) : Nat := slice w 106 8
/-- B_MODE. -/
def iBMode (w : Nat) : Nat := slice w 114 4

/-- Lanes of a tree group (GROUP 0 to 5). -/
def groupLanes (w : Nat) : Nat := 8 * 2 ^ iGroup w

/-- FMA. -/
def isFma (w : Nat) : Bool := iOpc w == 0x01
/-- The operation reads A (R78). -/
def readsA (w : Nat) : Bool := iOpc w != 0
/-- The operation reads B (R78). -/
def readsB (w : Nat) : Bool := [0x01, 0x02, 0x03, 0x04, 0x05, 0x06, 0x07, 0x09, 0x0D].contains (iOpc w)
/-- The operation writes D (R78). -/
def writesD (w : Nat) : Bool := decide (1 ≤ iOpc w) && decide (iOpc w ≤ 0x0D)
/-- PWAIT or PREL. -/
def isPanelOp (w : Nat) : Bool := iOpc w == 0x10 || iOpc w == 0x11
/-- CMP or MOP: D names a mask. -/
def toMask (w : Nat) : Bool := iOpc w == 0x06 || iOpc w == 0x0D

/-- Operations that take TREE and, with it, GROUP and ACCUM (Table 7). -/
def treeOps : List Nat := [0x01, 0x02, 0x03, 0x04, 0x05, 0x09, 0x0A, 0x0B, 0x0C]
/-- Operations that take masks. -/
def maskOps : List Nat := [0x01, 0x02, 0x03, 0x04, 0x05, 0x08, 0x09, 0x0A, 0x0B, 0x0C]
/-- Operations that take NEG_A. -/
def negOps : List Nat := [0x01, 0x02, 0x03, 0x04, 0x05, 0x06, 0x07, 0x08, 0x09, 0x0A, 0x0B, 0x0C]
/-- Operations that take PART. -/
def partOps : List Nat := [0x02, 0x03, 0x04, 0x05, 0x06, 0x07, 0x08, 0x09, 0x0A, 0x0B]

/-- A reads a narrow row (R79). -/
def narrowA (w : Nat) : Bool := readsA w && !isPanelOp w && iOpc w != 0x0D && iAMode w == 0 && iFmtA w != 0
/-- D is narrow. -/
def narrowD (w : Nat) : Bool := iOpc w == 0x08 && iFmtD w != 0

/-- A step-table entry that an instruction of the custom region may name (R71). -/
def stepOk (n : Nat) : Bool := n == 0 || decide (128 ≤ n)

/-- An instruction of an image breaks a rule of R73. A PART that names no element of a narrow operand is among them (log
entry 122). -/
def instrBad (w : Nat) : Bool :=
  let o := iOpc w
  let no := fun (l : List Nat) => !l.contains o
  decide (w / 2 ^ 118 ≠ 0) || !(decide (o ≤ 0x0D) || isPanelOp w) ||
  -- FMT_A, FMT_D
  decide (8 < iFmtA w) || ((!readsA w || isPanelOp w || o == 0x0C || o == 0x0D) && iFmtA w != 0) ||
  (if o = 0x08 then decide (5 < iFmtD w) else iFmtD w != 0) ||
  -- TREE, GROUP, ACCUM
  (no treeOps && iTree w != 0) || (iTree w == 0 && iGroup w != 0) || decide (5 < iGroup w) ||
  (iAccum w && iTree w == 0 && o != 0x01) ||
  -- COND
  (no [0x06, 0x0D, 0x11] && iCond w != 0) || (o == 0x11 && decide (1 < iCond w)) ||
  -- RND, LMAP, PART
  (iRnd w && !narrowD w) || (iLmap w && !(o == 0x01 && decide (1 < fmtK (iFmtA w)))) ||
  (no partOps && iPart w != 0) || (!narrowA w && !narrowD w && iPart w != 0) ||
  (narrowA w && o != 0x01 && decide (fmtK (iFmtA w) ≤ iPart w)) || (narrowD w && decide (fmtK (iFmtD w) ≤ iPart w)) ||
  -- masks, NEG
  (no maskOps && iMen w) || (no maskOps && o != 0x07 && (iMsel w != 0 || iMinv w)) ||
  (no negOps && iNegA w) || ((no negOps || !readsB w) && iNegB w) ||
  -- operands that are not read or written, and PWAIT's and PREL's A
  (!writesD w && (iDAddr w != 0 || iDStep w != 0)) ||
  (!readsA w && (iAAddr w != 0 || iAStep w != 0 || !(iAMode w == 0 || iAMode w == 0xF))) ||
  (isPanelOp w && iAMode w != 0) ||
  (!readsB w && (iBAddr w != 0 || iBStep w != 0 || !(iBMode w == 0 || iBMode w == 0xF))) ||
  -- step entries
  !stepOk (iDStep w) || !stepOk (iAStep w) || !stepOk (iBStep w)

/-! ## Operand space (R61) -/

/-- First word of ACC. -/
def accBase : Nat := 0x20000
/-- First word of SCL. -/
def sclBase : Nat := 0x24000

/-- What word `i` of a row that is not listed reads as: 0, or what a built-in kernel left. -/
def leftWord (g : Grv) (row i : Nat) : Nat :=
  match g.junk with
  | some c => Config.kernelLeft c (256 * row + i) % 2 ^ 32
  | none => 0

/-- Word `i` of row `row`. -/
def wordIn (g : Grv) (row i : Nat) : Nat :=
  match look g.rows row with
  | some l => nth 0 l i
  | none => leftWord g row i

/-- Word `a` of the operand space. -/
def wordAt (g : Grv) (a : Nat) : Nat := wordIn g (a / 256) (a % 256)

/-- The 256 words of the row at word `a`. -/
def rowAt (g : Grv) (a : Nat) : List Nat := (List.range 256).map (wordIn g (a / 256))

/-- `n` rows from `lo` on read 0. -/
def zeroRows (lo n : Nat) (g : Grv) : Grv :=
  match g.junk with
  | none => { g with rows := g.rows.filter (fun p => !(decide (lo ≤ p.1) && decide (p.1 < lo + n))) }
  | some _ => { g with rows := (List.range n).foldl (fun m i => put (lo + i) (List.replicate 256 0) m) g.rows }

/-- `g` with words from `a` on replaced; they lie within one row. -/
def putWords (a : Nat) (l : List Nat) (g : Grv) : Grv :=
  let old := rowAt g a
  { g with rows := put (a / 256) (old.take (a % 256) ++ l ++ old.drop (a % 256 + l.length)) g.rows }

/-- Scale byte `i` of the panel buffer row at word `a`. -/
def scaleAt (g : Grv) (a i : Nat) : Nat :=
  match look g.scales (a / 256), g.junk with
  | some l, _ => nth 0 l i
  | none, some c => Config.kernelLeft c (2 ^ 20 + 32 * (a / 256) + i) % 256
  | none, none => 0

/-- Element `e` of the panel buffer row at word `a`, in a format code: its bits. -/
def elemBits (g : Grv) (fmt a e : Nat) : Nat :=
  let o := e * fmtWidth fmt
  slice (wordAt g (a + o / 4)) (8 * (o % 4)) (8 * fmtWidth fmt)

/-! ## Effective addresses (R67) -/

/-- Entry `n` of the step table: 0, then the two built-in banks', then the custom region's (R71, R72). -/
def stepWord (g : Grv) (n : Nat) : Nat :=
  if n = 0 then 0
  else if n < 128 then
    let img := nth [] g.sets (n / 64)
    if img.isEmpty then 0 else Config.setStep img (n % 64) % 2 ^ 128
  else lookD 0 g.steps n

/-- The steps of a step-table entry. -/
def stepsOf (g : Grv) (n : Nat) : List Int :=
  let v := stepWord g n
  (List.range 4).map (fun i => toSigned 24 (slice v (24 * i) 24))

/-- BEGIN_L of a launch block. -/
def lBegin (b : List Nat) (l : Nat) : Nat := slice (nth 0 b (2 - l / 2)) (24 * (1 - l % 2)) 12
/-- END_L of a launch block. -/
def lEnd (b : List Nat) (l : Nat) : Nat := slice (nth 0 b (2 - l / 2)) (24 * (1 - l % 2) + 12) 12
/-- T_L of a launch block. -/
def lTrip (b : List Nat) (l : Nat) : Nat := slice (nth 0 b 3) (16 * l) 16
/-- ENTRY of a launch block. -/
def lEntry (b : List Nat) : Nat := slice (nth 0 b 0) 0 12
/-- EXIT of a launch block. -/
def lExit (b : List Nat) : Nat := slice (nth 0 b 0) 12 12

/-- Loop `l` encloses instruction `x` (R69). -/
def encloses (b : List Nat) (l x : Nat) : Bool := decide (lBegin b l ≤ x) && decide (x ≤ lEnd b l)

/-- The loop indices that instruction `x` sees: 0 for a loop that does not enclose it. -/
def seenIdx (b : List Nat) (x : Nat) (idx : List Nat) : List Nat :=
  (List.range 4).map (fun l => if encloses b l x then nth 0 idx l else 0)

/-- The effective address of an operand. -/
def effAddr (g : Grv) (addr step : Nat) (idx : List Nat) : Int :=
  (addr : Int) + ((stepsOf g step).zipIdx.foldl (fun (a : Int) (p : Int × Nat) => a + p.1 * ((nth 0 idx p.2 : Nat) : Int)) 0)

/-- Positions of a source operand (R66): the row's elements on FMA, else the lanes. -/
def positions (w : Nat) : Nat := if isFma w then 256 * fmtK (iFmtA w) else 256

/-- G of a REPEAT or EXPAND mode. -/
def modeG (m : Nat) : Nat := if m < 8 then 8 * 2 ^ (m - 2) else 8 * 2 ^ (m - 8)

/-- Words that a source operand reads: how many from its address. -/
def wordsRead (w m fmt : Nat) : Nat :=
  match m with
  | 0 => if isFma w ∨ fmt = 0 then 256 else 64 * fmtWidth fmt
  | 1 => 1
  | 0xE | 0xF => 0
  | m => if m < 8 then modeG m else positions w / modeG m

/-- `n` words from `ea` lie in one panel buffer, in ACC or in SCL. -/
def inOneStore (ea : Int) (n : Nat) : Bool :=
  decide (0 ≤ ea) &&
  (let a := ea.toNat
   let z := a + n
   (decide (z ≤ accBase) && a / 0x8000 == (z - 1) / 0x8000) || (decide (accBase ≤ a) && decide (z ≤ sclBase)) ||
   (decide (sclBase ≤ a) && decide (z ≤ sclBase + 64)))

/-- `ea` is a row in a panel buffer or ACC; with `pb`, in a panel buffer. -/
def isRow (ea : Int) (pb : Bool) : Bool :=
  decide (0 ≤ ea) && ea % 256 == 0 && decide (ea < (if pb then accBase else sclBase : Nat))

/-- A source operand's address meets R67. -/
def srcOk (w m fmt : Nat) (ea : Int) : Bool :=
  match m with
  | 0 => isRow ea (fmt != 0)
  | 0xE => decide (ea + (positions w : Int) - 1 ≤ 2 ^ 24 - 1)
  | 0xF => true
  | m => inOneStore ea (wordsRead w m fmt)

/-- D's address meets R67. -/
def dstOk (w : Nat) (ea : Int) : Bool :=
  if iTree w = 0 then isRow ea false
  else
    let n := 256 / groupLanes w
    inOneStore ea n && (decide ((sclBase : Int) ≤ ea) || ea.toNat / 256 == (ea.toNat + n - 1) / 256)

/-- The format in which an operand in ROW mode is read: B of an FMA shares FMT_A. -/
def fmtB (w : Nat) : Nat := if isFma w then iFmtA w else 0

/-- Every operand of instruction `w` meets R67 at these indices. -/
def eaOk (g : Grv) (w : Nat) (idx : List Nat) : Bool :=
  let ea := fun addr step => effAddr g addr step idx
  match iOpc w with
  | 0x00 => true
  | 0x10 | 0x11 =>
    let a := ea (iAAddr w) (iAStep w)
    decide (0 ≤ a) && a % 0x8000 == 0 && decide (a < (accBase : Int))
  | 0x0D =>
    decide (iDAddr w < 4) && decide (iAAddr w < 4) && decide (iBAddr w < 4) && iDStep w == 0 && iAStep w == 0 &&
    iBStep w == 0 && iAMode w == 0 && iBMode w == 0
  | _ =>
    srcOk w (iAMode w) (iFmtA w) (ea (iAAddr w) (iAStep w)) &&
    (!readsB w || srcOk w (iBMode w) (fmtB w) (ea (iBAddr w) (iBStep w))) &&
    (if toMask w then decide (iDAddr w < 4) && iDStep w == 0 else dstOk w (ea (iDAddr w) (iDStep w)))

/-- Instruction `x` of bank `b`: the image's, or the all-zero NOP in an empty bank (R72, R93). -/
def bankInstr (g : Grv) (b x : Nat) : Nat :=
  let img := nth [] g.sets b
  if img.isEmpty then 0 else Config.setInstr img b x % 2 ^ 128

/-- Instruction `x` of a launch on TILE_t: of the active built-in bank, or of the custom region (R71). -/
def instrOf (t x : Nat) (s : State) : Nat :=
  if x < 1024 then bankInstr (grv t s) (rd GRV_PROG_BANK t s) x else lookD 0 (grv t s).prog x

/-- The extreme index combinations of the loops that enclose instruction `x` (R68). -/
def extremes (b : List Nat) (x : Nat) : List (List Nat) :=
  (List.range 16).filterMap (fun c =>
    if (List.range 4).all (fun l => !bit c l || encloses b l x) then
      some ((List.range 4).map (fun l => if bit c l then lTrip b l - 1 else 0))
    else none)

/-- The launch passes R68. -/
def sweepOk (t : Nat) (b : List Nat) (s : State) : Bool :=
  (List.range (lExit b + 1 - lEntry b)).all (fun i =>
    let x := lEntry b + i
    (extremes b x).all (fun idx => eaOk (grv t s) (instrOf t x s) idx))

/-- The launch block has a reserved bit set, a zero trip count, a misaligned address, or bounds that break R69 or R71. -/
def blockBad (b : List Nat) : Bool :=
  let w := nth 0 b
  let order := [lEntry b, lBegin b 3, lBegin b 2, lBegin b 1, lBegin b 0, lEnd b 0, lEnd b 1, lEnd b 2, lEnd b 3, lExit b]
  decide (slice (w 0) 25 7 ≠ 0) || decide (w 1 / 2 ^ 48 ≠ 0) || decide (w 2 / 2 ^ 48 ≠ 0) ||
  (List.range 4).any (fun l => lTrip b l == 0) || decide (w 4 / 2 ^ 44 ≠ 0) || w 4 % 256 != 0 ||
  [5, 6, 7, 8].any (fun i => decide (w i / 2 ^ 44 ≠ 0)) || [9, 10, 11, 12, 13, 14, 15].any (fun i => w i != 0) ||
  (order.zip (order.drop 1)).any (fun p => decide (p.2 < p.1)) ||
  order.any (fun x => decide (1024 ≤ x) && decide (x < 2048)) ||
  (decide (lEntry b < 1024) && decide (2048 ≤ lExit b))

/-- A bank of an engine takes a set. -/
def putSet (b ver : Nat) (img : List Byte) (g : Grv) : Grv :=
  { g with vers := modNth b (fun _ => ver) g.vers, sets := modNth b (fun _ => img) g.sets }

/-- TILE_t's engine is at a launch boundary: it takes a set that waited for a launch on its bank, and switches to the bank that
FW_ACTIVATE named (R72; log entry 121). -/
def launchBoundary (t : Nat) (s : State) : State :=
  let s := match (grv t s).restage with
    | some r => setGrv t (fun g => { putSet r.1 r.2.1 r.2.2 g with restage := none }) s
    | none => s
  match (grv t s).nextBank with
  | some b => setGrv t (fun g => { g with nextBank := none }) (s |> wr GRV_PROG_BANK t b
      |> wr GRV_BUILTIN_VER_VERSION t (nth 0 (grv t s).vers b))
  | none => s

/-- The built-in bank that TILE_t's engine runs from, once it has switched as FW_ACTIVATE asked. -/
def bankAhead (t : Nat) (s : State) : Nat := (grv t s).nextBank.getD (rd GRV_PROG_BANK t s)

/-- A verified set is loaded into TILE_t's inactive built-in bank, at the launch boundary where a launch still runs from that
bank (R72). -/
def stageSet (t ver : Nat) (img : List Byte) (s : State) : State :=
  let b := 1 - bankAhead t s
  if b = rd GRV_PROG_BANK t s ∧ (grv t s).run.isSome then setGrv t (fun g => { g with restage := some (b, ver, img) }) s
  else setGrv t (putSet b ver img) s

/-- FW_ACTIVATE fires for TILE_t: its engine switches banks at its next launch boundary, at once where no launch runs. -/
def activateSet (t : Nat) (s : State) : State :=
  let s := setGrv t (fun g => { g with nextBank := some (1 - bankAhead t s) }) s
  if (grv t s).run.isSome then s else launchBoundary t s

/-- The instruction that follows `x` at the loop indices given, and its indices; none after the last (R69). -/
def nextInstr (b : List Nat) (x : Nat) (idx : List Nat) : Option (Nat × List Nat) :=
  let rec go : Nat → Nat → List Nat → Option (Nat × List Nat)
    | 0, _, idx => if x = lExit b then none else some (x + 1, idx)
    | fuel + 1, l, idx =>
      if encloses b l x ∧ x = lEnd b l then
        (if nth 0 idx l + 1 < lTrip b l then some (lBegin b l, modNth l (· + 1) idx)
         else go fuel (l + 1) (modNth l (fun _ => 0) idx))
      else go fuel (l + 1) idx
  go 4 0 idx

/-! ## Lane operands (R66, R79) -/

/-- What a lane reads: its value, the word itself where one was read, the flags of the reading, and the exact value. -/
structure LaneV where
  v : Fv
  raw : Option Nat := none
  fl : Nat := 0
  exact : Fv
  deriving DecidableEq, Repr

/-- A word as a lane operand. -/
def laneWord (w : Nat) : LaneV := { v := f32 w, raw := some w, exact := f32 w }

/-- The value of a source operand at position `e`; `fma`: in ROW mode the exact element (R80), else what the lane reads. An
IOTA value below −2^24 is rounded to nearest even (log entry 124). -/
def operandAt (g : Grv) (fma : Bool) (part m fmt : Nat) (ea : Int) (e : Nat) : LaneV :=
  let a := ea.toNat
  match m with
  | 0 =>
    if fmt = 0 then laneWord (wordAt g (a + e)) else
    let i := if fma then e else 256 * part + e
    let x := elemVal fmt (elemBits g fmt a i) (scaleAt g a (i / 32))
    if fma || !fmtScaled fmt then { v := x, exact := x }
    else
      let r := valF32 x
      { v := (match x with | .fin _ _ _ => f32 r.1 | v => v), fl := r.2, exact := x }
  | 1 => laneWord (wordAt g a)
  | 0xE =>
    let n := ea + (e : Int)
    let x := f32 (toF32 (decide (n < 0)) n.natAbs 0).1
    { v := x, exact := x }
  | 0xF => laneWord 0
  | m => laneWord (wordAt g (a + (if m < 8 then e % modeG m else e / modeG m)))

/-- NEG of an operand. -/
def LaneV.neg (b : Bool) (x : LaneV) : LaneV :=
  if b then { v := x.v.negate, raw := none, fl := x.fl, exact := x.exact.negate } else x

/-- The bits that SEL and MOV write for an operand (R81). -/
def LaneV.bits (x : LaneV) : Nat := x.raw.getD (valF32 x.v).1

/-- The selector or enable bit of lane `i` (R86). -/
def maskBit (g : Grv) (w i : Nat) : Bool := bit (nth 0 g.masks (iMsel w)) i != iMinv w

/-- Lane `i` is enabled. -/
def laneOn (g : Grv) (w i : Nat) : Bool := !iMen w || maskBit g w i

/-- The flags that an operation's column of Table 7 admits. -/
def flagMask (opc : Nat) : Nat :=
  match opc with
  | 0x01 | 0x02 | 0x03 | 0x09 | 0x0A | 0x0B => flI + flO + flU
  | 0x04 | 0x05 => flI
  | 0x08 => 31
  | _ => 0

/-- The result of lane `i` and its flags (Table 7). `a`, `b` and `d` are the operands' addresses. -/
def laneResult (g : Grv) (w : Nat) (a b d : Int) (i : Nat) : Nat × Nat :=
  if isFma w then
    let k := fmtK (iFmtA w)
    let c := if iAccum w && iTree w == 0 then f32 (wordAt g (d.toNat + i)) else .fin false 0 0
    let ps := (List.range k).map (fun j => if iLmap w then i + 256 * j else k * i + j)
    addTerms (c :: ps.map (fun p =>
      mulExact ((operandAt g true 0 (iAMode w) (iFmtA w) a p).neg (iNegA w)).v
        ((operandAt g true 0 (iBMode w) (iFmtA w) b p).neg (iNegB w)).v))
  else
    let x := (operandAt g false (iPart w) (iAMode w) (iFmtA w) a i).neg (iNegA w)
    let y := (operandAt g false 0 (iBMode w) 0 b i).neg (iNegB w)
    let o := iOpc w
    let r : Nat × Nat := match o with
      | 0x02 => addTerms [x.v, y.v]
      | 0x03 => addTerms [mulExact x.v y.v]
      | 0x04 => minMax false x.v y.v
      | 0x05 => minMax true x.v y.v
      | 0x07 => (if maskBit g w i then x.bits else y.bits, 0)
      | 0x08 => cvtFlags (iFmtD w) (if iRnd w then .stipple (nth 1 g.gens i) else .near) x.exact
      | 0x09 => scale2 x.v y.v
      | 0x0A => ex2 x.v
      | 0x0B => rcp x.v
      | _ => (x.bits, 0)
    (r.1, Nat.land (Nat.lor r.2 (if o = 0x08 then 0 else x.fl)) (flagMask o))

/-- Flags of a list of results. -/
def flagsOf (l : List (Nat × Nat)) : Nat := l.foldl (fun f p => Nat.lor f p.2) 0

/-- The lanes' results go to the row at `d`, lanes that are off left as they were; a narrow D takes elements (R84). -/
def writeLanes (w : Nat) (d : Int) (rs : List (Option (Nat × Nat))) (g : Grv) : Grv :=
  let a := d.toNat
  if narrowD w then
    let width := fmtWidth (iFmtD w)
    let per := 4 / width
    let base := a + 64 * width * iPart w
    let old := (List.range (64 * width)).map (fun j => wordAt g (base + j))
    let new := old.zipIdx.map (fun p => (List.range per).foldl (fun v q =>
      match nth none rs (per * p.2 + q) with
      | some r => v - slice v (8 * width * q) (8 * width) * 2 ^ (8 * width * q) + r.1 % 2 ^ (8 * width) * 2 ^ (8 * width * q)
      | none => v) p.1)
    putWords base new g
  else
    putWords a ((rowAt g a).zipIdx.map (fun p => match nth none rs p.2 with | some r => r.1 | none => p.1)) g

/-- The lanes' results combined by the tree and written to `d` (R87), with the tree's flags. -/
def writeTree (w : Nat) (d : Int) (rs : List (Option (Nat × Nat))) (g : Grv) : Grv × Nat :=
  let kind := iTree w
  let lanes := rs.map (fun r => match r with | some p => p.1 | none => treeIdentity kind)
  let r := treeRun kind (Nat.log2 (groupLanes w)) lanes
  let out := r.1.zipIdx.map (fun p =>
    if iAccum w then treePair kind (wordAt g (d.toNat + p.2)) p.1 else (p.1, 0))
  (putWords d.toNat (out.map Prod.fst) g, Nat.lor r.2 (flagsOf out))

/-- Mask `k` set to a value. -/
def setMask (k v : Nat) (g : Grv) : Grv := { g with masks := modNth k (fun _ => v) g.masks }

/-- The bits for which `f` holds. -/
def maskOf (f : Nat → Bool) : Nat := (List.range 256).foldl (fun m i => if f i then m + 2 ^ i else m) 0

/-- The effect of an operation other than PWAIT and PREL on the engine, and the flags it raises. -/
def operate (g : Grv) (w : Nat) (a b d : Int) : Grv × Nat :=
  match iOpc w with
  | 0x00 => (g, 0)
  | 0x06 =>
    (setMask (iDAddr w) (maskOf (fun i =>
      compareFv (iCond w) ((operandAt g false (iPart w) (iAMode w) (iFmtA w) a i).neg (iNegA w)).v
        ((operandAt g false 0 (iBMode w) 0 b i).neg (iNegB w)).v)) g, 0)
  | 0x0D =>
    let x := nth 0 g.masks (iAAddr w)
    let y := nth 0 g.masks (iBAddr w)
    let v := match iCond w with
      | 0 => Nat.land x y
      | 1 => Nat.lor x y
      | 2 => Nat.xor x y
      | _ => Nat.land x (2 ^ 256 - 1 - y)
    (setMask (iDAddr w) v g, 0)
  | o =>
    let g := if o = 0x08 ∧ iRnd w then { g with gens := g.gens.map stippleNext } else g
    let rs := (List.range 256).map (fun i => if o == 0x07 || laneOn g w i then some (laneResult g w a b d i) else none)
    let fl := flagsOf (rs.filterMap id)
    if iTree w = 0 then (writeLanes w d rs g, fl)
    else
      let r := writeTree w d rs g
      (r.1, Nat.lor fl r.2)

/-! ## Issue (R75 to R77) -/

/-- Latency of Table 8. -/
def latency (w : Nat) : Nat :=
  (match iOpc w with
   | 0x06 | 0x0D => 2
   | 0x0A | 0x0B => 8
   | 0x00 | 0x10 | 0x11 => 0
   | _ => 4) + (if iTree w = 0 then 0 else 4)

/-- Where mask `k` stands in the words whose readiness is tracked: above the operand space. -/
def maskWord (k : Nat) : Nat := 0x40000 + k

/-- The words, as first and count, that an instruction reads, but for D under ACCUM. -/
def reads (w : Nat) (a b : Int) : List (Nat × Nat) :=
  match iOpc w with
  | 0x00 => []
  | 0x10 => []
  | 0x11 => [(a.toNat, 0x8000)]
  | 0x0D => [(maskWord (iAAddr w), 1), (maskWord (iBAddr w), 1)]
  | o =>
    let ra := (a.toNat + (if narrowA w && !isFma w then 64 * fmtWidth (iFmtA w) * iPart w else 0),
               wordsRead w (iAMode w) (iFmtA w))
    let rb := if readsB w then [(b.toNat, wordsRead w (iBMode w) (fmtB w))] else []
    let rm := if o = 0x07 ∨ iMen w then [(maskWord (iMsel w), 1)] else []
    ((ra :: rb).filter (fun p => p.2 != 0)) ++ rm

/-- The words that an instruction writes. -/
def writes (w : Nat) (d : Int) : List (Nat × Nat) :=
  if !writesD w then []
  else if toMask w then [(maskWord (iDAddr w), 1)]
  else if iTree w ≠ 0 then [(d.toNat, 256 / groupLanes w)]
  else if narrowD w then [(d.toNat + 64 * fmtWidth (iFmtD w) * iPart w, 64 * fmtWidth (iFmtD w))]
  else [(d.toNat, 256)]

/-- D's words read under ACCUM, but for the forward path of R76. -/
def accReads (w : Nat) (d : Int) (r : GRun) : List (Nat × Nat) :=
  if !iAccum w then []
  else if iTree w = 0 ∧ r.fwdRows.contains (d.toNat / 256) then []
  else writes w d

/-- The cycle at which an instruction issues: the next one, or when all it reads is readable (R75). -/
def issueAt (r : GRun) (rs : List (Nat × Nat)) : Nat :=
  r.inflight.foldl (fun c f =>
    if rs.any (fun p => decide (p.1 < f.2.1) && decide (f.1 < p.1 + p.2)) then max c f.2.2 else c) r.cycles

/-- The run after instruction `w` issued: cycles, results under way, and the next instruction. -/
def issued (w : Nat) (a b d : Int) (r : GRun) : GRun :=
  let c := issueAt r (reads w a b ++ accReads w d r)
  let ws := writes w d
  let rows := ws.map (fun p => p.1 / 256)
  let acc := isFma w && iAccum w && iTree w == 0
  let nxt := nextInstr r.blk r.x r.idx
  { r with cycles := c + 1, stop := r.x,
           inflight := r.inflight.filter (fun f => decide (c < f.2.2)) ++ ws.map (fun p => (p.1, p.1 + p.2, c + latency w)),
           fwdRows := if acc then rows ++ r.fwdRows.filter (fun x => !rows.contains x)
                      else r.fwdRows.filter (fun x => !rows.contains x),
           x := (nxt.map Prod.fst).getD r.x, idx := (nxt.map Prod.snd).getD r.idx, ended := nxt.isNone }

/-- The buffer of a word, where it lies in one. -/
def bufOf (a : Nat) : Option Nat := if a < accBase then some (a / 0x8000) else none

/-- The engine holds every buffer that the words lie in (R62). -/
def holds (r : GRun) (ws : List (Nat × Nat)) : Bool :=
  ws.all (fun p => match bufOf p.1 with
    | some b => decide ((nth {} r.bufs b).st = .engine)
    | none => true)

/-- The launch ends at an instruction with a status (R89). -/
def endRun (st : Status) (x : Nat) (r : GRun) : GRun := { r with ended := true, status := st, stop := x }

end Sys2Proof.Machine
end

