-- ==== Sys2Proof/Machine/SesCore.lean ====
section
/-! DEFINITION. Sys2Proof/Machine/SesCore.lean: sessions as every other unit sees them: handles, geometry, the page
directory and the frame pool (spec/05_sessions_and_kv_pages.md R109 to R116). -/

namespace Sys2Proof.Machine

open Sys2Proof

/-- `s` with the session engine changed. -/
def setSes (f : Ses → Ses) (s : State) : State := { s with ses := f s.ses }

/-- The Session Table entry with an index. -/
def sesEnt (i : Nat) (s : State) : Option SesEnt := look s.ses.tab i

/-- `s` with an entry replaced. -/
def putEnt (i : Nat) (e : SesEnt) (s : State) : State := setSes (fun x => { x with tab := put i e x.tab }) s

/-- GEN of an entry (R114). -/
def sesGen (i : Nat) (s : State) : Nat := lookD 1 s.ses.gens i

/-- The handle of an entry (R114). -/
def handleOf (i gen : Nat) : Nat := i + 2 ^ 18 * gen

/-- The entry that a handle names for function `n`; none where it completes ACCESS_DENIED (R114). -/
def sesOf (n handle : Nat) (s : State) : Option (Nat × SesEnt) :=
  let i := handle % 2 ^ 18
  match sesEnt i s with
  | some e => if e.gen = handle / 2 ^ 18 % 2 ^ 14 ∧ e.fn = n then some (i, e) else none
  | none => none

/-! ## Geometry (R110, R113, Table 3) -/

/-- Head dimension D of a DIM code. -/
def headDim (dim : Nat) : Nat := 64 * 2 ^ dim

/-- Row size RB. -/
def rowBytes (kv dim : Nat) : Nat := headDim dim / 32 * kvBlock kv

/-- Tokens per page n. -/
def pageTokens (kv dim : Nat) : Nat := (32768 - 64 - 4 * headDim dim) / (2 * rowBytes kv dim)

/-- D of an entry. -/
def SesEnt.d (e : SesEnt) : Nat := headDim e.dim
/-- RB of an entry. -/
def SesEnt.rb (e : SesEnt) : Nat := rowBytes e.kvFmt e.dim
/-- n of an entry. -/
def SesEnt.n (e : SesEnt) : Nat := pageTokens e.kvFmt e.dim
/-- LAYERS. -/
def SesEnt.layers (e : SesEnt) : Nat := e.layersM1 + 1
/-- HEADS. -/
def SesEnt.heads (e : SesEnt) : Nat := e.headsM1 + 1

/-- `a / b` rounded up. -/
def ceilDiv (a b : Nat) : Nat := (a + b - 1) / b

/-- CAP (R113). -/
def SesEnt.cap (e : SesEnt) : Nat := ceilDiv e.maxTokens e.n
/-- Leaves L of a directory (R113). -/
def leavesFor (layers heads cap : Nat) : Nat := ceilDiv (layers * heads * cap) 4096
/-- Leaves of an entry's directory. -/
def SesEnt.leaves (e : SesEnt) : Nat := leavesFor e.layers e.heads e.cap
/-- The directory entry number of a page (R113). -/
def SesEnt.entryNo (e : SesEnt) (l h o : Nat) : Nat := (l * e.heads + h) * e.cap + o

/-- Offset of the K (0) or V (1) row `j` in a frame (Table 1). -/
def SesEnt.rowAt (e : SesEnt) (v j : Nat) : Nat := 64 + 4 * e.d + v * e.n * e.rb + j * e.rb

/-- First byte of a frame. -/
def frameOff (f : Nat) : Nat := f * 32768

/-! ## Reading and writing as the session engine -/

/-- The master port that the session engine works through for function `n`: that of a panel mover of its partition, or the control
cluster's (R119, R259). -/
def moverPort (n : Nat) (s : State) : Nat := (moverTile n s).getD 79

/-- The session engine at work for function `n`. -/
def engReqr (n : Nat) (s : State) : Reqr := .engine n true (moverPort n s)

/-- A number read for function `n` by requester `q`. -/
def readBy (q : Reqr) (off len : Nat) (s : State) : Status × Nat × State :=
  let r := homeGet q off len s
  (r.1, ofBytes r.2.1, r.2.2)

/-- A number read by the session engine for function `n`. -/
def engRead (n off len : Nat) (s : State) : Status × Nat × State := readBy (engReqr n s) off len s

/-- Bytes written by the session engine for function `n`. -/
def engWrite (n off : Nat) (l : List Byte) (s : State) : Status × State := homePut (engReqr n s) off l s

/-- A number written by the session engine. -/
def engPut (n off len v : Nat) (s : State) : Status × State := engWrite n off (toBytes len v) s

/-- Steps made in order while each answers a good status; the status of the first that does not. -/
def seqSteps : List (State → Status × State) → State → Status × State
  | [], s => (.ok, s)
  | f :: t, s =>
    let r := f s
    if r.1.good then seqSteps t r.2 else r

/-! ## Directory (R113, Table 4) -/

/-- The word of leaf pointer `k` in a root. -/
def rootLeaf (n root k : Nat) (s : State) : Status × Nat × State := engRead n (frameOff root + 64 + 4 * k) 4 s

/-- Where directory entry `en` of a session stands, as requester `q` reads it: its hub-local offset. -/
def leafSlotBy (q : Reqr) (e : SesEnt) (en : Nat) (s : State) : Status × Nat × State :=
  let r := readBy q (frameOff e.root + 64 + 4 * (en / 4096)) 4 s
  (r.1, frameOff (r.2.1 % 2 ^ 29) + 8 * (en % 4096), r.2.2)

/-- Directory entry `en`, read by requester `q`. -/
def dirEntryBy (q : Reqr) (e : SesEnt) (en : Nat) (s : State) : Status × Nat × State :=
  let r := leafSlotBy q e en s
  if !r.1.good then (r.1, 0, r.2.2) else readBy q r.2.1 8 r.2.2

/-- Where directory entry `en` of a session stands. -/
def leafSlot (e : SesEnt) (en : Nat) (s : State) : Status × Nat × State := leafSlotBy (engReqr e.fn s) e en s

/-- Directory entry `en`. -/
def dirEntry (e : SesEnt) (en : Nat) (s : State) : Status × Nat × State := dirEntryBy (engReqr e.fn s) e en s

/-- A directory entry replaced. -/
def putDir (e : SesEnt) (en v : Nat) (s : State) : Status × State :=
  let r := leafSlot e en s
  if !r.1.good then (r.1, r.2.2) else engPut e.fn r.2.1 8 v r.2.2

/-- VALID of a directory entry. -/
def deValid (v : Nat) : Bool := bit v 29
/-- SHARED of a directory entry. -/
def deShared (v : Nat) : Bool := bit v 30
/-- PARKED of a directory entry. -/
def deParked (v : Nat) : Bool := bit v 31
/-- FRAME of a directory entry. -/
def deFrame (v : Nat) : Nat := v % 2 ^ 29

/-! ## Pool (R116) -/

/-- Frames of function `n`'s pool. -/
def poolTotal (n : Nat) (s : State) : Nat := (s.mem.held.filter (fun h => h.1 == n)).foldl (fun a h => a + h.2.2) 0

/-- Frames of the pool in use. -/
def poolUsed (n : Nat) (s : State) : Nat := (s.ses.used.filter (fun p => p.2 == n)).length

/-- Free frames of the pool. -/
def poolFree (n : Nat) (s : State) : Nat := poolTotal n s - poolUsed n s

/-- The lowest free frame of a range. -/
def freeIn (used : SMap Nat) (first count : Nat) : Option Nat :=
  (firstBelow count (fun i => (look used (first + i)).isNone)).map (first + ·)

/-- A frame is taken from function `n`'s pool: the lowest that is free (log entry 30). -/
def takeFrame (n : Nat) (s : State) : Option (Nat × State) :=
  match (s.mem.held.filter (fun h => h.1 == n)).findSome? (fun h => freeIn s.ses.used h.2.1 h.2.2) with
  | some f => some (f, setSes (fun x => { x with used := put f n x.used }) s)
  | none => none

/-- `k` frames are taken, or none. -/
def takeFrames (n : Nat) : Nat → State → Option (List Nat × State)
  | 0, s => some ([], s)
  | k + 1, s =>
    match takeFrame n s with
    | none => none
    | some (f, s) => match takeFrames n k s with
      | none => none
      | some (l, s) => some (f :: l, s)

/-- Frames go back to their pool. -/
def freeFrames (l : List Nat) (s : State) : State :=
  setSes (fun x => { x with used := x.used.filter (fun p => !l.contains p.1) }) s

/-! ## Images (Tables 5 and 10) -/

/-- The four words of a Session Table entry. -/
def SesEnt.words (e : SesEnt) : List Nat :=
  [ 1 + 2 * e.state + 2 ^ 4 * e.fn + 2 ^ 10 * b2n e.mirror + 2 ^ 11 * b2n e.replica + 2 ^ 12 * e.kvFmt + 2 ^ 16 * e.dim +
      2 ^ 18 * e.layersM1 + 2 ^ 26 * e.headsM1 + 2 ^ 32 * e.gen,
    e.len + 2 ^ 23 * e.maxTokens,
    e.root + 2 ^ 32 * e.frames,
    e.twinIndex + 2 ^ 18 * b2n e.twinValid + 2 ^ 19 * e.stream + 2 ^ 36 * b2n e.streamValid ]

/-- The 32 bytes of an entry. -/
def SesEnt.image (e : SesEnt) : List Byte := e.words.flatMap (toBytes 8)

end Sys2Proof.Machine
end

