-- ==== Sys2Proof/Machine/Panels.lean ====
section
/-! DEFINITION. Sys2Proof/Machine/Panels.lean: panel lists, the page gather, and the filling and draining of panel buffers
(spec/05_sessions_and_kv_pages.md R132, R133; spec/03_graver_engine.md R62, R63). -/

namespace Sys2Proof.Machine

open Sys2Proof

/-! ## Entries (Table 11) -/

/-- KIND: 0 ZERO, 1 PLAIN, 2 KV_K, 3 KV_V, 4 KV_K_PAGES, 5 KV_V_PAGES, 6 SKETCH. -/
def peKind (e : List Nat) : Nat := slice (nth 0 e 0) 0 4
/-- FMT. -/
def peFmt (e : List Nat) : Nat := slice (nth 0 e 0) 4 4
/-- ROWS_M1. -/
def peRows (e : List Nat) : Nat := slice (nth 0 e 0) 8 7
/-- DRAIN. -/
def peDrain (e : List Nat) : Bool := bit (nth 0 e 0) 15
/-- DRAIN_ROWS_M1. -/
def peDrainRows (e : List Nat) : Nat := slice (nth 0 e 0) 16 7
/-- SRC. -/
def peSrc (e : List Nat) : Nat := nth 0 e 1
/-- FIRST. -/
def peFirst (e : List Nat) : Nat := slice (nth 0 e 2) 0 23
/-- COUNT. -/
def peCount (e : List Nat) : Nat := slice (nth 0 e 2) 23 18
/-- DRAIN_DST or PAGES_AT. -/
def peAux (e : List Nat) : Nat := nth 0 e 3

/-- The entry has a reserved kind, or a field its kind does not use (R132, R133). -/
def entryBad (e : List Nat) : Bool :=
  let k := peKind e
  decide (6 < k) || decide (nth 0 e 0 / 2 ^ 23 ≠ 0) || decide (nth 0 e 2 / 2 ^ 41 ≠ 0) ||
  (k != 1 && peFmt e != 0) || decide (5 < peFmt e) || (decide (1 < k) && peRows e != 0) ||
  (k == 0 && peSrc e != 0) || (decide (1 < k) && decide (peSrc e / 2 ^ 46 ≠ 0)) ||
  (!(k == 2 || k == 3 || k == 6) && peFirst e != 0) || (decide (k ≤ 1) && peCount e != 0) ||
  (!peDrain e && peDrainRows e != 0) || ((k == 4 || k == 5) && peDrain e) ||
  (!peDrain e && !(k == 4 || k == 5) && peAux e != 0)

/-- The side of a move that a PLAIN source or a drain destination names (R364). -/
def panelLoc (a : Nat) : MLoc := if bit a 63 then .host (a % 2 ^ 57) else .hub a

/-! ## The gather (R132, R105) -/

/-- Bytes placed in a panel: offset in the buffer or the scale store, and the bytes. -/
abbrev Places := List (Nat × List Byte)

/-- What a panel load answers: its status, data and scale bytes. -/
structure Panel where
  st : Status := .ok
  data : Places := []
  scales : Places := []
  deriving DecidableEq, Repr

/-- Tokens in a panel row (R105, R132). -/
def tokensPerRow (e : SesEnt) : Nat := (if e.kvFmt = 3 then 512 else 1024) / e.d

/-- Row `i` of a panel takes a stored row (R105). -/
def placeToken (e : SesEnt) (slot : Nat) (row : List Byte) (p : Panel) : Panel :=
  match widenRow e.kvFmt row with
  | none => { p with st := Status.worse p.st .unsupported }
  | some (els, sc) =>
    let q := tokensPerRow e
    { p with data := (slot / q * 1024 + slot % q * els.length, els) :: p.data,
             scales := if sc.isEmpty then p.scales else (slot / q * 32 + slot % q * sc.length, sc) :: p.scales }

/-- Rows `j0` to `j1 − 1` of page `o` of a layer and head as they are stored, read by `q`; none where there is no page. `v`: V
rows. -/
def readRows (q : Reqr) (e : SesEnt) (v l h o j0 j1 : Nat) (s : State) : Status × List (List Byte) × State :=
  let r := dirEntryBy q e (e.entryNo l h o) s
  if !r.1.good then (r.1, [], r.2.2)
  else if deParked r.2.1 then (.unreachable, [], r.2.2)
  else if !deValid r.2.1 then (.ok, [], r.2.2)
  else
    let x := homeGet q (frameOff (deFrame r.2.1) + e.rowAt v j0) ((j1 - j0) * e.rb) r.2.2
    (x.1, if x.1.good then (List.range (j1 - j0)).map (fun i => (x.2.1.drop (i * e.rb)).take e.rb) else [], x.2.2)

/-- Those rows placed in a panel from slot `slot` on. -/
def gatherPage (q : Reqr) (e : SesEnt) (v l h o j0 j1 slot : Nat) (p : Panel) (s : State) : Panel × State :=
  let r := readRows q e v l h o j0 j1 s
  (r.2.1.zipIdx.foldl (fun p x => placeToken e (slot + x.2) x.1 p) (if r.1.good then p else { p with st := Status.worse p.st r.1 }),
   r.2.2)

/-- Pages in order: ordinal, first and last row, slot. -/
def gatherPages (q : Reqr) (e : SesEnt) (v l h : Nat) (picks : List (Nat × Nat × Nat × Nat)) (s : State) : Panel × State :=
  picks.foldl (fun acc k => gatherPage q e v l h k.1 k.2.1 k.2.2.1 k.2.2.2 acc.1 acc.2) ({}, s)

/-- The rows of consecutive pages that tokens `first` to `last − 1` take. -/
def tokenPicks (e : SesEnt) (first last : Nat) : List (Nat × Nat × Nat × Nat) :=
  if last ≤ first then [] else
  (List.range ((last - 1) / e.n - first / e.n + 1)).map (fun i =>
    let o := first / e.n + i
    let j0 := max first (o * e.n)
    (o, j0 - o * e.n, min last ((o + 1) * e.n) - o * e.n, j0 - first))

/-- The rows of listed pages, placed consecutively. -/
def pagePicks (e : SesEnt) (ords : List Nat) : List (Nat × Nat × Nat × Nat) :=
  (ords.foldl (fun (acc : List (Nat × Nat × Nat × Nat) × Nat) o =>
    let rows := min e.n (e.len - o * e.n)
    if rows = 0 then acc else (acc.1 ++ [(o, 0, rows, acc.2)], acc.2 + rows)) ([], 0)).1

/-- Slots that picks fill. -/
def picksEnd (l : List (Nat × Nat × Nat × Nat)) : Nat := l.foldl (fun m k => max m (k.2.2.2 + (k.2.2.1 - k.2.1))) 0

/-- The empty sketch of R111: maximum −∞, minimum +∞. -/
def emptySketch (d : Nat) : List Byte :=
  ((List.replicate d (0xFF80 : Nat)) ++ List.replicate d 0x7F80).flatMap (toBytes 2)

/-- The sketches of pages `first` on. -/
def gatherSketches (q : Reqr) (e : SesEnt) (l h first count : Nat) (s : State) : Panel × State :=
  let per := 256 / e.d
  (List.range count).foldl (fun acc i =>
    let r := dirEntryBy q e (e.entryNo l h (first + i)) acc.2
    let at' := i / per * 1024 + 4 * e.d * (i % per)
    if !r.1.good then ({ acc.1 with st := Status.worse acc.1.st r.1 }, r.2.2)
    else if deParked r.2.1 then ({ acc.1 with st := Status.worse acc.1.st .unreachable }, r.2.2)
    else if !deValid r.2.1 then ({ acc.1 with data := (at', emptySketch e.d) :: acc.1.data }, r.2.2)
    else
      let x := homeGet q (frameOff (deFrame r.2.1) + 64) (4 * e.d) r.2.2
      if !x.1.good then ({ acc.1 with st := Status.worse acc.1.st x.1 }, x.2.2)
      else ({ acc.1 with data := (at', x.2.1) :: acc.1.data }, x.2.2)) ({}, s)

/-- The ordinals of a list in memory. -/
def ordinalsOf (l : List Byte) : List Nat := (chunks 4 (l.length / 4 + 1) l).map ofBytes

/-- A panel of a KV kind or SKETCH is gathered for function `n` (R132): the worst status under R17 of what stands against it,
`bad` where the entry has a field that its kind does not allow. The panel mover of TILE_t reads; for an item of the attention service
(`item`) its reads of the session's frames do not allocate (R149). -/
def gather (n t : Nat) (item bad : Bool) (en : List Nat) (s : State) : Panel × State :=
  let r : Status × List Byte × State :=
    if peKind en = 4 ∨ peKind en = 5 then homeGet (.agent n t) (peAux en) (4 * peCount en) s else (.ok, [], s)
  let s := r.2.2
  match sesOf n (slice (peSrc en) 0 32) s with
  | none => ({ st := .accessDenied }, s)
  | some (_, e) =>
    let l := slice (peSrc en) 32 8
    let h := slice (peSrc en) 40 6
    let mv := Reqr.engine n (!item) t
    let per := tokensPerRow e
    let last := peFirst en + peCount en
    let ords := ordinalsOf r.2.1
    let picks := pagePicks e ords
    let tooMuch : Bool := match peKind en with
      | 2 | 3 => decide (128 < ceilDiv (peCount en) per) || (decide (0 < peCount en) && decide (e.cap ≤ (last - 1) / e.n))
      | 6 => decide (128 < ceilDiv (peCount en) (256 / e.d)) || decide (e.cap < peFirst en + peCount en)
      | _ => r.1.good && (ords.any (fun o => decide (e.cap ≤ o)) || decide (128 < ceilDiv (picksEnd picks) per))
    let st := Status.worse r.1 (if bad ∨ e.layers ≤ l ∨ e.heads ≤ h ∨ tooMuch then .unsupported else .ok)
    if !st.good then ({ st := st }, s) else
    match peKind en with
    | 2 | 3 => gatherPages mv e (peKind en - 2) l h (tokenPicks e (peFirst en) (min last e.len)) s
    | 6 => gatherSketches mv e l h (peFirst en) (peCount en) s
    | k => gatherPages mv e (k - 4) l h picks s

/-- Hub memory that the gather reads outside held frames: the ordinal list, whose lines must be at home. -/
def gatherClaims (en : List Nat) : Nat × Nat :=
  if peKind en = 4 ∨ peKind en = 5 then (peAux en, 4 * peCount en) else (0, 0)

/-! ## Buffers -/

/-- `l` with bytes placed from byte `o` on. -/
def place (o : Nat) (b l : List α) : List α := l.take o ++ b ++ l.drop (o + b.length)

/-- The rows of a buffer that placements touch. -/
def touchedRows (w : Nat) (ps : Places) : List Nat := ((ps.map (fun p => p.1 / w)).eraseDups)

/-- A row of `w` bytes with the placements that fall in it over a filler. -/
def buildRow (w : Nat) (fill : Byte) (ps : Places) (r : Nat) : List Byte :=
  (ps.filter (fun p => p.1 / w == r)).foldl (fun l p => place (p.1 % w) p.2 l) (List.replicate w fill)

/-- Buffer `b` takes a panel: every row and every scale byte is written (R63). -/
def fillBuffer (b : Nat) (p : Panel) (g : Grv) : Grv :=
  let rows := (zeroRows (128 * b) 128 g).rows
  let scales := (List.range 128).foldl (fun m r => put (128 * b + r) (List.replicate 32 0x7F) m) g.scales
  { g with
    rows := (touchedRows 1024 p.data).foldl (fun m r =>
      put (128 * b + r) ((chunks 4 256 (buildRow 1024 0 p.data r)).map ofBytes) m) rows,
    scales := (touchedRows 32 p.scales).foldl (fun m r =>
      put (128 * b + r) ((buildRow 32 0x7F p.scales r).map BitVec.toNat) m) scales }

/-- The first `n` rows of buffer `b`, as bytes. -/
def bufferBytes (g : Grv) (b n : Nat) : List Byte :=
  (List.range n).flatMap (fun r => (rowAt g (256 * (128 * b + r))).flatMap (toBytes 4))

/-- `s` with panel buffer `b` of the running launch of TILE_t changed. -/
def setBuf (t b : Nat) (f : PBuf → PBuf) (s : State) : State := setRun t (fun r => { r with bufs := modNth b f r.bufs }) s

/-- Buffer `b` of the running launch of TILE_t. -/
def bufAt (t b : Nat) (s : State) : Option PBuf := ((grv t s).run).bind (fun r => r.bufs[b]?)

/-- The mover starts on the entry that buffer `b` stands at, or gives the buffer back for good after the last (R62). -/
def beginLoad (t b : Nat) (s : State) : State :=
  match (grv t s).run, bufAt t b s with
  | some r, some x =>
    match x.entries[x.k]? with
    | none => setBuf t b (fun x => { x with st := .gone }) s
    | some e =>
      if peKind e = 1 ∧ !entryBad e then
        let j := s.xlat.nextJob
        let s := addJob { who := .load t b, fn := r.work.fn, pasid := ringPasid r.work.ring s, tile := t,
                          pieces := piecesOf (panelLoc (peSrc e)) (.buf 0) ((peRows e + 1) * 1024) } s
        advanceJob j (setBuf t b (fun x => { x with st := .loading, job := some j }) s)
      else setBuf t b (fun x => { x with st := .loading, job := none }) s
  | _, _ => s

/-- The pieces of a drain with the data they carry. -/
def drainPieces (dst : Nat) (data : List Byte) : List Piece :=
  (piecesOf (.buf 0) (panelLoc dst) data.length).map (fun q => match q.src with
    | .buf o => { q with st := .have ((data.drop o).take q.len) }
    | _ => q)

/-- PREL has handed buffer `b` over: drained first where it asks and the entry names a destination, then refilled (R77). -/
def handOver (t b x : Nat) (drain : Bool) (s : State) : State :=
  match (grv t s).run, bufAt t b s with
  | some r, some bf =>
    match drain, bf.entries[bf.k]? with
    | true, some e =>
      if peDrain e then
        let j := s.xlat.nextJob
        let s := addJob { who := .drain t b, fn := r.work.fn, pasid := ringPasid r.work.ring s, tile := t,
                          pieces := drainPieces (peAux e) (bufferBytes (grv t s) b (peDrainRows e + 1)) } s
        advanceJob j (setBuf t b (fun z => { z with st := .draining x, job := some j }) s)
      else beginLoad t b (setBuf t b (fun z => { z with k := z.k + 1 }) s)
    | _, _ => beginLoad t b (setBuf t b (fun z => { z with k := z.k + 1 }) s)
  | _, _ => s

/-- The load of buffer `b` ends with a panel. -/
def endLoad (t b : Nat) (p : Panel) (s : State) : State :=
  let fn : Nat := match (grv t s).run with
    | some r => r.work.fn
    | none => 0
  if p.st.good then countTile t 0x05 fn 1 <| setBuf t b (fun x => { x with st := .ready, job := none }) (setGrv t (fillBuffer b p) s)
  else setBuf t b (fun x => { x with st := .failed p.st, job := none }) s

/-- What the source of a PLAIN entry answers where it lies in hub memory. -/
def plainStatus (n : Nat) (e : List Nat) (s : State) : Status :=
  if peKind e = 1 ∧ !bit (peSrc e) 63 then rangeStatus (.agent n) (peSrc e) ((peRows e + 1) * 1024) false s else .ok

/-- PANEL_LOAD_DONE (R62, R63, R132): the mover has filled buffer `b` of TILE_t, as far as its data has come. -/
def doPanelLoadDone (t b : Nat) (s : State) : State :=
  match (grv t s).run, bufAt t b s with
  | some r, some x =>
    if x.st ≠ .loading then s else
    match x.entries[x.k]? with
    | none => s
    | some e =>
      if entryBad e ∧ !(decide (2 ≤ peKind e) && decide (peKind e ≤ 6)) then
        endLoad t b { st := Status.worse .unsupported (plainStatus r.work.fn e s) } s
      else if peKind e = 0 then endLoad t b {} s
      else if peKind e = 1 then
        match x.job with
        | none => s
        | some j =>
          let s := advanceJob j s
          match jobOf j s with
          | none => s
          | some z =>
            if !z.ended then s
            else endLoad t b { st := z.status, data := if z.status.good then
                (chunks 1024 129 z.image).zipIdx.map (fun p => (1024 * p.2, p.1)) else [] } (dropJob j s)
      else
        let c := gatherClaims e
        if !claimed c.1 c.2 false s then claim (.agent r.work.fn t) c.1 c.2 false s
        else
          let p := gather r.work.fn t (r.work.kind == 2) (entryBad e) e s
          endLoad t b p.1 (countTile t 0x06 r.work.fn ((p.1.data ++ p.1.scales).map (fun x => x.2.length)).sum p.2)
  | _, _ => s

/-- PANEL_LOAD_DONE. -/
def execPanelLoadDone (t b : Nat) (s : State) : Host.Outcome State Fault Refusal := .next (clocked (doPanelLoadDone t b) s)

/-- PANEL_DRAIN_DONE (R77, R89): the mover has drained buffer `b` of TILE_t; a drain that failed ends the launch at its
PREL. -/
def doPanelDrainDone (t b : Nat) (s : State) : State :=
  match bufAt t b s with
  | some x =>
    match x.st, x.job with
    | .draining prel, some j =>
      let s := advanceJob j s
      match jobOf j s with
      | none => s
      | some z =>
        if !z.ended then s else
        let s := dropJob j s
        let s := if z.status.good then setRun t (fun r => { r with drained := r.drained + 1 }) s
          else setRun t (fun r => if r.status.rank < z.status.rank then endRun z.status prel r else r) s
        beginLoad t b (setBuf t b (fun y => { y with k := y.k + 1, job := none }) s)
    | _, _ => s
  | none => s

/-- PANEL_DRAIN_DONE. -/
def execPanelDrainDone (t b : Nat) (s : State) : Host.Outcome State Fault Refusal := .next (clocked (doPanelDrainDone t b) s)

end Sys2Proof.Machine
end

