-- ==== Sys2Proof/Machine/Graver.lean ====
section
/-! DEFINITION. Sys2Proof/Machine/Graver.lean: loads and launches, from the descriptor to the completion record, and the
instruction commands (spec/03_graver_engine.md R69 to R92; spec/13_rings_and_descriptors.md R351). -/

namespace Sys2Proof.Machine

open Sys2Proof

/-- What a load or launch of function `n` on TILE_t completes with when it is accepted, if not queued (R73, R74, Table 11):
`owner`: only the owner of the tile's partition may ask; `bad`: a field is invalid. -/
def graverRefusal (n t : Nat) (launch bad : Bool) (s : State) : Status :=
  let mine := if launch then tileOwned n t s
    else tileOwned n t s && (match tilePart t s with
      | some p => rdb PART_CFG_VALID p s && rd PART_CFG_OWNER p s == n
      | none => false)
  Status.worst [
    if mine then .ok else .accessDenied,
    if bad then .unsupported else .ok,
    if launch && !rdb GRV_CTL_DISPATCH_EN t s then .refused else .ok,
    if mine && rd GRV_STATUS_STATE t s == 3 then .unreachable else .ok ]

/-- Work joins the queue of TILE_t's engine. -/
def queueWork (t : Nat) (w : GWork) (s : State) : State := setGrv t (fun g => { g with queue := g.queue ++ [w] }) s

/-- The work stands in a queue or runs. -/
def workKnown (t g k : Nat) (s : State) : Bool :=
  (grv t s).queue.any (fun w => w.kind != 2 && w.g == g && w.k == k) ||
  (match (grv t s).run with | some r => r.work.kind != 2 && r.work.g == g && r.work.k == k | none => false)

/-- The custom region is emptied (R73). -/
def clearCustom (t : Nat) (s : State) : State :=
  s |> setGrv t (fun g => { g with prog := g.prog.filter (fun p => decide (p.1 < 2048)),
                                   steps := g.steps.filter (fun p => decide (p.1 < 128)) })
    |> clrB GRV_PROG_CUSTOM_LOADED t |> wr GRV_PROG_CUSTOM_OWNER t 0

/-- The 128-bit entries of an image. -/
def entriesOf (l : List Byte) : List Nat := (chunks 16 (l.length / 16 + 1) l).map ofBytes

/-- A load at the head of the queue runs (R73, R74, R351). -/
def runLoad (t : Nat) (w : GWork) (s : State) : State :=
  match descOf w.g w.k s with
  | none => setGrv t (fun g => { g with queue := g.queue.drop 1 }) s
  | some d =>
    let img := d.word 2
    let n := slice (d.word 3) 0 12
    let m := slice (d.word 3) 12 8
    let len := 16 * (n + m)
    if !claimed img len false s then claim (.agent w.fn t) img len false s else
    let s := setGrv t (fun g => { g with queue := g.queue.drop 1 }) s
    let r := homeGet (.agent w.fn t) img len s
    let s := clearCustom t r.2.2
    if !r.1.good then failDesc w.g w.k r.1 s else
    let es := entriesOf r.2.1
    let ins := es.take n
    let sts := es.drop n
    if ins.any instrBad ∨ sts.any (fun v => decide (v / 2 ^ 96 ≠ 0)) then failDesc w.g w.k .unsupported s
    else
      let s := setGrv t (fun g =>
        { g with prog := ins.zipIdx.foldl (fun p e => put (2048 + e.2) e.1 p) g.prog,
                 steps := sts.zipIdx.foldl (fun p e => put (128 + e.2) e.1 p) g.steps }) s
      completeDesc w.g w.k .ok n 0 0 (s |> setB GRV_PROG_CUSTOM_LOADED t |> wr GRV_PROG_CUSTOM_OWNER t w.fn)

/-- GRAVER_LOAD (R73, R74, R351): accepted to the tile's queue, and run once it heads it. -/
def doGraverLoad (g k : Nat) (s : State) : State :=
  match runningDesc g k 0x08 s with
  | none => s
  | some d =>
    let t := slice (d.word 3) 20 6
    let n := slice (d.word 3) 0 12
    let w : GWork := { kind := 0, fn := ringFn g, g := g, k := k, ring := g }
    let st := graverRefusal (ringFn g) t false
      (n == 0 || decide (2048 < n) || decide (128 < slice (d.word 3) 12 8) || d.word 2 % 64 != 0) s
    if !workKnown t g k s ∧ st ≠ .ok then failDesc g k st s else
    let s := if workKnown t g k s then s else queueWork t w s
    if (grv t s).run.isNone && (match (grv t s).queue with | x :: _ => decide (x = w) | [] => false) then runLoad t w s else s

/-- GRAVER_LOAD. -/
def execGraverLoad (g k : Nat) (s : State) : Host.Outcome State Fault Refusal := .next (clocked (doGraverLoad g k) s)

/-- GRAVER_LAUNCH (R70, R89): accepted to the tile's queue, or completed with its status of Table 11. -/
def doGraverLaunch (g k : Nat) (s : State) : State :=
  match runningDesc g k 0x09 s with
  | none => s
  | some d =>
    let t := slice (d.word 3) 0 6
    if workKnown t g k s then s else
    let st := graverRefusal (ringFn g) t true (d.word 2 % 128 != 0) s
    if st ≠ .ok then failDesc g k st s
    else queueWork t { kind := 1, fn := ringFn g, g := g, k := k, ring := g } s

/-- GRAVER_LAUNCH. -/
def execGraverLaunch (g k : Nat) (s : State) : Host.Outcome State Fault Refusal := .next (clocked (doGraverLaunch g k) s)

/-! ## Beginning a launch -/


/-- A change of owner clears ACC, SCL, masks, panel buffers and scale stores (R91). -/
def ownerChange (t n : Nat) (s : State) : State :=
  setGrv t (fun g =>
    let g := if g.prevFn.isSome && g.prevFn != some n then { g with rows := [], scales := [], masks := [0, 0, 0, 0], junk := none } else g
    { g with prevFn := some n }) s

/-- A panel list is read by `q`: its entries (R132); reserved header bits are UNSUPPORTED. -/
def readList (q : Reqr) (a : Nat) (s : State) : Status × List (List Nat) × State :=
  let h := homeGet q a 16 s
  if !h.1.good then (h.1, [], h.2.2) else
  let w0 := ofBytes (h.2.1.take 8)
  if w0 / 2 ^ 16 ≠ 0 ∨ ofBytes (h.2.1.drop 8) ≠ 0 then (.unsupported, [], h.2.2) else
  let r := homeGet q (a + 16) (32 * w0) h.2.2
  (r.1, (chunks 32 w0 r.2.1).map (fun b => (List.range 4).map (fun i => ofBytes ((b.drop (8 * i)).take 8))), r.2.2)

/-- The four panel lists of a block are read in order. -/
def readLists (q : Reqr) : List Nat → State → Status × List (List (List Nat)) × State
  | [], s => (.ok, [], s)
  | a :: rest, s =>
    let x := if a = 0 then (.ok, [], s) else readList q a s
    let y := readLists q rest x.2.2
    (Status.worse x.1 y.1, x.2.1 :: y.2.1, y.2.2)

/-- The parts of hub memory that a launch reads before it begins, once the block's words are known. -/
def launchReads (ws : List Nat) : List (Nat × Nat) :=
  (if nth 0 ws 4 = 0 then [] else [(nth 0 ws 4, 256)]) ++
  ((List.range 4).filterMap (fun i => if nth 0 ws (5 + i) = 0 then none else some (nth 0 ws (5 + i), 16)))

/-- The parts of hub memory that the panel lists of a block take, once their headers are at home. -/
def listReads (q : Reqr) (ws : List Nat) (s : State) : List (Nat × Nat) :=
  (List.range 4).filterMap (fun i =>
    let a := nth 0 ws (5 + i)
    let h := homeGet q a 16 s
    if a = 0 ∨ !h.1.good then none else some (a + 16, 32 * (ofBytes (h.2.1.take 8) % 2 ^ 16)))

/-- A built-in set is active: some bank of the Graver program set verified (R437). -/
def builtInLoaded (s : State) : Bool := rd FW_ACTIVE_VERSION 2 s != 0

/-- What a launch of function `n` finds in its region of program memory (R73, R74, R437). -/
def customStatus (t n : Nat) (ws : List Nat) (s : State) : Status :=
  if lExit ws < 2048 then (if builtInLoaded s then .ok else .unsupported)
  else if !rdb GRV_PROG_CUSTOM_LOADED t s then .unsupported
  else if rd GRV_PROG_CUSTOM_OWNER t s = n then .ok
  else .accessDenied

/-- The record of a launch (R351). -/
def launchRecord (g k : Nat) (st : Status) (stop cycles drained flags : Nat) (s : State) : State :=
  completeDesc g k st (stop + 2 ^ 12 * sat 40 cycles) drained flags s

/-- A launch on TILE_t has completed, with its flags (Table 12). -/
def countLaunch (t flags : Nat) (s : State) : State := s |> wr GRV_FLAGS_FLAGS t flags |> bump GRV_LAUNCHES_COUNT t 1

/-- A launch that does not begin completes with a status (Table 11). -/
def refuseLaunch (t : Nat) (w : GWork) (st : Status) (stop : Nat) (s : State) : State :=
  launchRecord w.g w.k st stop 0 0 0 (countLaunch t 0 s)

/-- The launch's state is set up (R62, R85, R91; CLR_ACC and SCL_INIT of Table 6) and its first panels are asked for. -/
def beginRun (t : Nat) (w : GWork) (ws : List Nat) (scl : List Byte) (lists : List (List (List Nat))) (s : State) : State :=
  let s := ownerChange t w.fn s
  let g := grv t s
  let rows := if bit (nth 0 ws 0) 24 then (zeroRows 512 64 g).rows else g.rows
  let rows := if scl.isEmpty then rows else put 576 ((chunks 4 64 scl).map ofBytes) rows
  let bufs := lists.zipIdx.map (fun l =>
    if nth 0 ws (5 + l.2) = 0 then ({} : PBuf) else { entries := l.1, st := .loading })
  let run : GRun := { work := w, blk := ws, x := lEntry ws, startAt := now16 s, bufs := bufs, stop := lEntry ws }
  let s := setGrv t (fun g =>
    { g with rows := rows, gens := (List.range 256).map (stippleSeed (nth 0 ws 0 / 2 ^ 32)), run := some run }) s
  let s := s |> wr GRV_STATUS_STATE t 1 |> wr GRV_STATUS_OWNER t w.fn
  forEach (List.range 4) (fun b s => if nth 0 ws (5 + b) = 0 then s else beginLoad t b s) s

/-- What the checks of a block answer for function `n` (Table 11). -/
def blockStatus (t n : Nat) (ws : List Nat) (s : State) : Status :=
  let bad := blockBad ws
  Status.worst [if bad then .unsupported else .ok, customStatus t n ws s, if !bad && !sweepOk t ws s then .unsupported else .ok]

/-- The sixteen words of a launch block. -/
def wordsOf16 (b : List Byte) : List Nat := (List.range 16).map (fun i => ofBytes ((b.drop (8 * i)).take 8))

/-- A launch at the head of the queue begins, or completes with what its block makes of it (Table 11). -/
def startRun (t : Nat) (w : GWork) (s : State) : State :=
  match descOf w.g w.k s with
  | none => setGrv t (fun g => { g with queue := g.queue.drop 1 }) s
  | some d =>
    let a := d.word 2
    let q := Reqr.agent w.fn t
    if !claimed a 128 false s then claim q a 128 false s else
    let b := homeGet q a 128 s
    let pop := setGrv t (fun g => { g with queue := g.queue.drop 1 })
    if !b.1.good then refuseLaunch t w b.1 0 (pop b.2.2) else
    let s := b.2.2
    let ws := wordsOf16 b.2.1
    let away := fun (l : List (Nat × Nat)) => l.find? (fun p => !claimed p.1 p.2 false s)
    match (away (launchReads ws)).or (away (listReads q ws s)) with
    | some p => claim q p.1 p.2 false s
    | none =>
      let c := if nth 0 ws 4 = 0 then (.ok, [], s) else homeGet q (nth 0 ws 4) 256 s
      let l := readLists q ((ws.drop 5).take 4) c.2.2
      let s := pop l.2.2
      let st := Status.worst [c.1, l.1, blockStatus t w.fn ws s]
      if st ≠ .ok then refuseLaunch t w st (lEntry ws) s
      else beginRun t w ws c.2.1 l.2.1 s

/-! ## Instructions -/

/-- Instruction `w` of the running launch issues with effect `f` on the engine, raising `fl`. -/
def issue (t w : Nat) (a b d : Int) (f : Grv → Grv) (fl : Nat) (s : State) : State :=
  match (grv t s).run with
  | none => s
  | some r =>
    let x := r.x
    let r2 := issued w a b d r
    s |> countTile t 0x01 r.work.fn (r2.cycles - r.cycles)
      |> countTile t (if iOpc w = 0x01 then 0x03 else 0x04) r.work.fn (b2n (iOpc w == 0x01 || iOpc w == 0x0A || iOpc w == 0x0B))
      |> setGrv t (fun g => { f g with run := some { r2 with flags := Nat.lor r.flags fl } })
      |> wr GRV_STATUS_PC t x |> wr GRV_STATUS_STATE t 1

/-- The running launch ends at the instruction that was to issue. -/
def stopRun (t : Nat) (st : Status) (s : State) : State := setRun t (fun r => endRun st r.x r) s

/-- PWAIT (R62, R77, R89): it passes a filled buffer to the engine, stalls on one not yet filled, and ends the launch on one
whose load failed or that was given back for good. -/
def issuePwait (t w : Nat) (a : Int) (r : GRun) (s : State) : State :=
  let b := a.toNat / 0x8000
  let bf := nth {} r.bufs b
  let take := issue t w a 0 0 id 0
  match bf.st with
  | .engine => take s
  | .ready => setBuf t b (fun x => { x with st := .engine }) (take s)
  | .failed st => stopRun t st s
  | .gone => stopRun t .unsupported s
  | .loading => wr GRV_STATUS_STATE t 2 s
  | .draining _ => if bf.entries.length ≤ bf.k + 1 then stopRun t .unsupported s else wr GRV_STATUS_STATE t 2 s

/-- PREL (R62, R77): it hands a buffer of the engine's back to the mover; one that the engine does not hold ends the launch
UNSUPPORTED (log entry 123). -/
def issuePrel (t w : Nat) (a : Int) (r : GRun) (s : State) : State :=
  let b := a.toNat / 0x8000
  if (nth {} r.bufs b).st ≠ .engine then stopRun t .unsupported s
  else handOver t b r.x (iCond w == 1) (issue t w a 0 0 id 0 s)

/-- The next instruction of TILE_t's running launch issues, where its operation is `opc` (R69, R75, R78). -/
def engineIssue (t opc : Nat) (s : State) : State :=
  match (grv t s).run with
  | none => s
  | some r =>
    if r.ended ∨ r.blk.isEmpty then s else
    let w := instrOf t r.x s
    if iOpc w ≠ opc then s else
    let g := grv t s
    let idx := seenIdx r.blk r.x r.idx
    let a := effAddr g (iAAddr w) (iAStep w) idx
    let b := effAddr g (iBAddr w) (iBStep w) idx
    let d := effAddr g (iDAddr w) (iDStep w) idx
    if opc = 0x10 then issuePwait t w a r s
    else if opc = 0x11 then issuePrel t w a r s
    else if !holds r (reads w a b ++ writes w d) then stopRun t .unsupported s
    else
      let o := operate g w a b d
      issue t w a b d (fun _ => o.1) o.2 s

/-- GRAVER_NOP (R78). -/
def execGraverNop (t : Nat) (s : State) : Host.Outcome State Fault Refusal := .next (clocked (engineIssue t 0x00) s)
/-- FMA (R80). -/
def execFma (t : Nat) (s : State) : Host.Outcome State Fault Refusal := .next (clocked (engineIssue t 0x01) s)
/-- ADD (R79). -/
def execAdd (t : Nat) (s : State) : Host.Outcome State Fault Refusal := .next (clocked (engineIssue t 0x02) s)
/-- MUL (R79). -/
def execMul (t : Nat) (s : State) : Host.Outcome State Fault Refusal := .next (clocked (engineIssue t 0x03) s)
/-- MIN (R81). -/
def execMin (t : Nat) (s : State) : Host.Outcome State Fault Refusal := .next (clocked (engineIssue t 0x04) s)
/-- MAX (R81). -/
def execMax (t : Nat) (s : State) : Host.Outcome State Fault Refusal := .next (clocked (engineIssue t 0x05) s)
/-- CMP (R81). -/
def execCmp (t : Nat) (s : State) : Host.Outcome State Fault Refusal := .next (clocked (engineIssue t 0x06) s)
/-- SEL (R81, R86). -/
def execSel (t : Nat) (s : State) : Host.Outcome State Fault Refusal := .next (clocked (engineIssue t 0x07) s)
/-- CVT (R84, R85). -/
def execCvt (t : Nat) (s : State) : Host.Outcome State Fault Refusal := .next (clocked (engineIssue t 0x08) s)
/-- SCALE2 (R83). -/
def execScale2 (t : Nat) (s : State) : Host.Outcome State Fault Refusal := .next (clocked (engineIssue t 0x09) s)
/-- EX2 (R82). -/
def execEx2 (t : Nat) (s : State) : Host.Outcome State Fault Refusal := .next (clocked (engineIssue t 0x0A) s)
/-- RCP (R82). -/
def execRcp (t : Nat) (s : State) : Host.Outcome State Fault Refusal := .next (clocked (engineIssue t 0x0B) s)
/-- MOV (R78, R81). -/
def execMov (t : Nat) (s : State) : Host.Outcome State Fault Refusal := .next (clocked (engineIssue t 0x0C) s)
/-- MOP (R78). -/
def execMop (t : Nat) (s : State) : Host.Outcome State Fault Refusal := .next (clocked (engineIssue t 0x0D) s)
/-- PWAIT (R62, R77). -/
def execPwait (t : Nat) (s : State) : Host.Outcome State Fault Refusal := .next (clocked (engineIssue t 0x10) s)
/-- PREL (R62, R77). -/
def execPrel (t : Nat) (s : State) : Host.Outcome State Fault Refusal := .next (clocked (engineIssue t 0x11) s)

/-! ## The end of a launch (R88, R89) -/

/-- The moves of TILE_t's panel buffers are given up. -/
def dropPanelJobs (t : Nat) (s : State) : State :=
  { s with xlat := { s.xlat with jobs := s.xlat.jobs.filter (fun p => match p.2.who with
      | .load i _ | .drain i _ => i != t
      | .copy _ _ => true) } }

/-- The launch that runs on TILE_t is gone, and the engine is idle. -/
def clearRun (t : Nat) (s : State) : State :=
  dropPanelJobs t s
    |> setGrv t (fun g => { g with run := none })
    |> launchBoundary t
    |> (fun s => if rd GRV_STATUS_STATE t s = 3 then s else wr GRV_STATUS_STATE t 0 s)

/-- The engine is idle again; the launch has completed. -/
def retireRun (t : Nat) (r : GRun) (s : State) : State := countLaunch t r.flags (clearRun t s)

/-- No drain of the launch is under way. -/
def drained (r : GRun) : Bool := r.bufs.all (fun b => match b.st with | .draining _ => false | _ => true)

/-- LAUNCH_COMPLETE (R88, R89, R351): a launch of a descriptor has issued its last instruction, or was ended, and its
drains are written. -/
def doLaunchComplete (t : Nat) (s : State) : State :=
  match (grv t s).run with
  | none => s
  | some r =>
    if !r.ended ∨ !drained r ∨ r.work.kind ≠ 1 then s
    else launchRecord r.work.g r.work.k r.status r.stop r.cycles r.drained r.flags (retireRun t r s)

/-- LAUNCH_COMPLETE. -/
def execLaunchComplete (t : Nat) (s : State) : Host.Outcome State Fault Refusal := .next (clocked (doLaunchComplete t) s)

/-- The launch has run longer than GRV_LIMIT (R90). -/
def overLimit (t : Nat) (r : GRun) (s : State) : Bool :=
  rd GRV_LIMIT_LIMIT t s != 0 && decide (us16 (rd GRV_LIMIT_LIMIT t s) < now16 s - r.startAt - r.paused)

/-- LAUNCH_TIMEOUT (R89, R90): a running launch has exceeded GRV_LIMIT. -/
def doLaunchTimeout (t : Nat) (s : State) : State :=
  match (grv t s).run with
  | none => s
  | some r => if !r.ended && overLimit t r s then stopRun t .timeout s else s

/-- LAUNCH_TIMEOUT. -/
def execLaunchTimeout (t : Nat) (s : State) : Host.Outcome State Fault Refusal := .next (clocked (doLaunchTimeout t) s)

/-- The PWAIT that TILE_t stalls on waits for a load that is parked on a page fault (R90). -/
def pausedOnFault (t : Nat) (s : State) : Bool :=
  rd GRV_STATUS_STATE t s == 2 &&
  (match (grv t s).run with
   | some r =>
     let w := instrOf t r.x s
     let a := effAddr (grv t s) (iAAddr w) (iAStep w) (seenIdx r.blk r.x r.idx)
     (match (nth {} r.bufs (a.toNat / 0x8000)).job with
      | some j => jobParked j s
      | none => false)
   | none => false)

/-- `d` (1/16 ns) of time passes for the launch timers: those of R90 stand still. -/
def pauseTimers (d : Nat) (s : State) : State :=
  forEach (s.grv.map Prod.fst) (fun t s =>
    if pausedOnFault t s then setRun t (fun r => { r with paused := r.paused + d }) s else s) s

/-- The running launch of TILE_t, if any, ends ABORTED at once, with its record; queued work stays (Table 11, R446). -/
def abortRun (t : Nat) (s : State) : State :=
  match (grv t s).run with
  | some r =>
    let s := retireRun t r s
    if r.work.kind = 1 then launchRecord r.work.g r.work.k .aborted r.stop r.cycles r.drained r.flags s else s
  | none => s

end Sys2Proof.Machine
end

