-- ==== Sys2Proof/Machine/Kernel.lean ====
section
/-! DEFINITION. Sys2Proof/Machine/Kernel.lean: the arithmetic of the built-in attention kernels (spec/06_attention_service.md
R143, R145): online softmax in FP32 over the rows of a segment, and the merge of segments. The spec gives the operations and
no order of accumulation; what it leaves open is an opaque constant (log entry 127). -/

namespace Sys2Proof.Machine

open Sys2Proof

/-! ## Binary32 words -/

/-- Binary32 addition, multiplication and the greater of two, as the engine makes them. -/
def fadd (a b : Nat) : Nat := (addTerms [f32 a, f32 b]).1
/-- The difference of two words. -/
def fsub (a b : Nat) : Nat := (addTerms [f32 a, (f32 b).negate]).1
/-- Binary32 multiplication. -/
def fmul (a b : Fv) : Nat := (addTerms [mulExact a b]).1
/-- A product, and a sum, rounded once. -/
def ffma (a b c : Nat) : Nat := (addTerms [mulExact (f32 a) (f32 b), f32 c]).1
/-- The greater of two words. -/
def fmax (a b : Nat) : Nat := (minMax true (f32 a) (f32 b)).1
/-- The lesser of two words. -/
def fmin (a b : Nat) : Nat := (minMax false (f32 a) (f32 b)).1
/-- `a ≥ b`. -/
def fge (a b : Nat) : Bool := compareFv 1 (f32 b) (f32 a)
/-- EX2 of a difference. -/
def ex2Diff (a b : Nat) : Nat := (ex2 (f32 (fsub a b))).1

/-! ## Online softmax (R143) -/

/-- A sum in FP32: the terms of a lane are added in its steps, and the lanes by the tree of R87. `kind`: 0 q·K, 1 the
denominator, 2 the output. -/
def kernelSum (kind : Nat) (terms : List Fv) : Nat :=
  let n := terms.length
  let at' := terms.zipIdx.map (fun p => (Config.kernelSlot kind n p.2, p.1))
  let lane := fun i =>
    let mine := at'.filter (fun p => p.1 % 256 == i)
    if mine.isEmpty then treeIdentity 1 else
    (List.range n).foldl (fun acc j =>
      match (mine.filter (fun p => p.1 / 256 % n == j)).map Prod.snd with
      | [] => acc
      | l => (addTerms (f32 acc :: l)).1) 0
  nth 0 (treeRun 1 8 ((List.range 256).map lane)).1 0

/-- log2 e in units of 2^-200. -/
def log2e : Nat := 2 ^ 400 / ln2

/-- σ := SM_SCALE × log2 e as binary32 (R143): one of the two neighbours of its exact value. -/
def sigma (scale : Nat) : Nat :=
  match f32 scale with
  | .fin _ m e => min (if Config.sigmaUp scale then codeCeil (m * log2e) (e - 200) else codeFloor (m * log2e) (e - 200)) (fp32.maxCode + 1)
  | _ => scale

/-- σ × q·K of a query and a row. -/
def score (sg : Nat) (q k : List Fv) : Nat :=
  let dot := fun (q : List Fv) => kernelSum 0 ((q.zip k).map (fun p => mulExact p.1 p.2))
  if Config.kernelScalesQuery then dot (q.map (fun x => f32 (fmul x (f32 sg)))) else fmul (f32 (dot q)) (f32 sg)

/-- Where online softmax begins: a maximum of −2^120, as in the program of spec/03_graver_engine.md (log entry 128). -/
def softStart (d : Nat) : Soft := { m := 0xFB800000, l := 0, o := List.replicate d 0 }

/-- One round of online softmax: rows with their K and V values. -/
def softRound (sg : Nat) (q : List Fv) (s : Soft) (rows : List (List Fv × List Fv)) : Soft :=
  let us := rows.map (fun r => score sg q r.1)
  let m := us.foldl fmax s.m
  let c := ex2Diff s.m m
  let ps := us.map (fun u => f32 (ex2Diff u m))
  { m := m, l := ffma c s.l (kernelSum 1 ps),
    o := s.o.zipIdx.map (fun p => ffma c p.1 (kernelSum 2 ((ps.zip rows).map (fun x => mulExact x.1 (x.2.2.getD p.2 (.fin false 0 0)))))) }

/-- A row that a segment gathers: its place in the pass's attended list, its K and its V values. -/
abbrev KRow := Nat × List Fv × List Fv

/-- A segment's result for a query that attends the places below `limit` (R143, R145): rounds over its rows in order. -/
def softSegment (scale kv d limit : Nat) (q : List Fv) (rows : List KRow) : Soft :=
  (chunks (Config.kernelRound d kv + 1) (rows.length + 1) rows).foldl (fun s l =>
    softRound (sigma scale) q s ((l.filter (fun r => decide (r.1 < limit))).map Prod.snd)) (softStart d)

/-- The segments of a pass merged in ascending order (R145). -/
def softMerge (l : List Soft) : Soft :=
  match l with
  | [] => softStart 0
  | a :: t =>
    let m := t.foldl (fun m x => fmax m x.m) a.m
    let by' := fun (f : Soft → Nat) =>
      t.foldl (fun acc x => ffma (ex2Diff x.m m) (f x) acc) (fmul (f32 (ex2Diff a.m m)) (f32 (f a)))
    { m := m, l := by' Soft.l, o := (List.range a.o.length).map (fun i => by' (fun x => nth 0 x.o i)) }

/-- The output row o / l in BF16, to nearest even (R143). -/
def softOut (s : Soft) : List Byte :=
  let r := f32 (rcp (f32 s.l)).1
  s.o.flatMap (fun o => toBytes 2 (cvtFloat bf16 .near (f32 (fmul (f32 o) r))).1)

/-- A segment's results as they are kept in the work area. -/
def softBytes (l : List Soft) : List Byte := l.flatMap (fun s => (s.m :: s.l :: s.o).flatMap (toBytes 4))

end Sys2Proof.Machine
end

