-- ==== Sys2Proof/Machine/KvPages.lean ====
section
/-! DEFINITION. Sys2Proof/Machine/KvPages.lean: pages of sessions: opening, writing rows, widening sketches, and giving
frames back (spec/05_sessions_and_kv_pages.md R109 to R113, R121, R129). -/

namespace Sys2Proof.Machine

open Sys2Proof

/-! ## Headers and sketches -/

/-- Words 0 and 1 of a page header (Table 2). -/
def headerBytes (i gen l h o tokens kv dim : Nat) : List Byte :=
  toBytes 8 (i + 2 ^ 18 * gen + 2 ^ 32 * l + 2 ^ 40 * h) ++ toBytes 8 (o + 2 ^ 18 * tokens + 2 ^ 27 * kv + 2 ^ 31 * dim)

/-- The 64 bytes of the header of a page that entry `i` opens (Table 2). -/
def pageHeader (i : Nat) (e : SesEnt) (l h o tokens : Nat) : List Byte :=
  headerBytes i e.gen l h o tokens e.kvFmt e.dim ++ toBytes 8 1 ++ List.replicate 40 0

/-- The sketch of a page with no rows (R111): maximum −∞, minimum +∞. -/
def noSketch (d : Nat) : List Byte :=
  (List.replicate d (toBytes 2 0xFF80)).flatten ++ (List.replicate d (toBytes 2 0x7F80)).flatten

/-- The 16-bit words of bytes. -/
def halfWords (l : List Byte) : List Nat := (chunks 2 (l.length / 2 + 1) l).map ofBytes

/-- A sketch after a row of decoded values joins it (R111). -/
def joinRow (d : Nat) (sk : List Byte) (vals : List Fv) : List Byte :=
  let w := halfWords sk
  let js := vals.zipIdx.map (fun p => sketchJoin (nth 0 w p.2, nth 0 w (d + p.2)) p.1)
  js.flatMap (fun b => toBytes 2 b.1) ++ js.flatMap (fun b => toBytes 2 b.2)

/-- A sketch after rows join it. -/
def joinRows (e : SesEnt) (sk : List Byte) (rows : List (List Byte)) : List Byte :=
  rows.foldl (fun sk r => joinRow e.d sk (rowVals e.kvFmt r)) sk

/-! ## Reading and writing pages -/

/-- The frame of page `o` of layer `l` and head `h`, where it is resident. -/
def pageFrame (e : SesEnt) (l h o : Nat) (s : State) : Status × Option Nat × State :=
  let r := dirEntry e (e.entryNo l h o) s
  (r.1, if r.1.good && deValid r.2.1 then some (deFrame r.2.1) else none, r.2.2)

/-- The word of a directory entry. -/
def deWord (f : Nat) (valid shared parked : Bool) : Nat := f + 2 ^ 29 * b2n valid + 2 ^ 30 * b2n shared + 2 ^ 31 * b2n parked

/-- A page is opened by entry `i` (R121): frame `f` takes its header, an empty sketch, and the directory names it. -/
def openIn (i : Nat) (e : SesEnt) (l h o f : Nat) (s : State) : Status × State :=
  seqSteps [ engWrite e.fn (frameOff f) (pageHeader i e l h o 0 ++ noSketch e.d),
             putDir e (e.entryNo l h o) (deWord f true false false) ] s

/-- FRAMES of entry `i` changes. -/
def addFrames (i : Nat) (n : Int) (s : State) : State :=
  match sesEnt i s with
  | some e => putEnt i { e with frames := ((e.frames : Int) + n).toNat } s
  | none => s

/-- Page `o` is opened with a frame from the pool; QUOTA where it has none. -/
def openPage (i l h o : Nat) (s : State) : Status × State :=
  match sesEnt i s with
  | none => (.accessDenied, s)
  | some e =>
    match takeFrame e.fn s with
    | none => (.quota, s)
    | some (f, s) =>
      let r := openIn i e l h o f s
      if r.1.good then (.ok, addFrames i 1 r.2) else (r.1, freeFrames [f] r.2)

/-- An opened page is given back: its entry is cleared and its frame free (R122, R505). -/
def closePage (i l h o : Nat) (s : State) : State :=
  match sesEnt i s with
  | none => s
  | some e =>
    let r := pageFrame e l h o s
    match r.2.1 with
    | none => r.2.2
    | some f => addFrames i (-1) (freeFrames [f] (putDir e (e.entryNo l h o) 0 r.2.2).2)

/-- Rows from row `r0` on are written in frame `f`, TOKENS becomes `tokens`, and the sketch is widened (R111, R121). -/
def writeRows (e : SesEnt) (f r0 tokens : Nat) (ks vs : List (List Byte)) (s : State) : Status × State :=
  let w1 := engRead e.fn (frameOff f + 8) 8 s
  if !w1.1.good then (w1.1, w1.2.2) else
  let sk := homeGet (engReqr e.fn w1.2.2) (frameOff f + 64) (4 * e.d) w1.2.2
  if !sk.1.good then (sk.1, sk.2.2) else
  let word := w1.2.1 - slice w1.2.1 18 9 * 2 ^ 18 + tokens * 2 ^ 18
  seqSteps [ engWrite e.fn (frameOff f + e.rowAt 0 r0) ks.flatten, engWrite e.fn (frameOff f + e.rowAt 1 r0) vs.flatten,
             engPut e.fn (frameOff f + 8) 8 word, engWrite e.fn (frameOff f + 64) (joinRows e sk.2.1 ks) ] sk.2.2

/-- The pages of tokens `pos` to `pos + count − 1`: ordinal, first and last row plus one. -/
def pageSpans (e : SesEnt) (pos count : Nat) : List (Nat × Nat × Nat) :=
  if count = 0 then [] else
  (List.range ((pos + count - 1) / e.n - pos / e.n + 1)).map (fun i =>
    let o := pos / e.n + i
    (o, max pos (o * e.n) - o * e.n, min (pos + count) ((o + 1) * e.n) - o * e.n))

/-- Rows of tokens from `pos` on of one layer and head are written in pages that are open. -/
def putRows (e : SesEnt) (l h pos : Nat) (ks vs : List (List Byte)) (s : State) : Status × State :=
  seqSteps ((pageSpans e pos ks.length).map (fun p s =>
    let r := pageFrame e l h p.1 s
    match r.2.1 with
    | none => (if r.1.good then .dataErr else r.1, r.2.2)
    | some f =>
      let a := p.1 * e.n + p.2.1 - pos
      let m := p.2.2 - p.2.1
      writeRows e f p.2.1 p.2.2 ((ks.drop a).take m) ((vs.drop a).take m) r.2.2)) s

/-- The ordinals of `spans` whose pages are not open; the worst status of the directory reads. -/
def closedPages (e : SesEnt) (l h : Nat) : List (Nat × Nat × Nat) → State → Status × List Nat × State
  | [], s => (.ok, [], s)
  | p :: t, s =>
    let a := pageFrame e l h p.1 s
    let b := closedPages e l h t a.2.2
    (Status.worse a.1 b.1, (if a.1.good && a.2.1.isNone then [p.1] else []) ++ b.2.1, b.2.2)

/-! ## Giving frames back -/

/-- REFS of a frame. -/
def frameRefs (n f : Nat) (s : State) : Status × Nat × State := engRead n (frameOff f + 16) 4 s

/-- Every other entry of the function's sessions that names frame `f` loses SHARED, as its REFS no longer exceeds 1
(Table 4). -/
def unshare (n f : Nat) (s : State) : State :=
  forEach (s.ses.tab.filter (fun p => p.2.fn == n)) (fun p s =>
    forEach (List.range (p.2.layers * p.2.heads * p.2.cap)) (fun en s =>
      let r := dirEntry p.2 en s
      if r.1.good && deValid r.2.1 && deShared r.2.1 && deFrame r.2.1 == f then
        (putDir p.2 en (deWord f true false false) r.2.2).2
      else r.2.2) s) s

/-- One directory entry lets go of its frame: REFS falls by 1, and at 0 the frame is free (R125, R129). A frame whose header
cannot be read is still given back where the entry alone names it (R505). -/
def dropFrame (n f : Nat) (shared : Bool) (s : State) : Status × Nat × State :=
  let r := frameRefs n f s
  if !r.1.good then (if shared then (r.1, 0, r.2.2) else (r.1, 1, freeFrames [f] r.2.2)) else
  let w := engPut n (frameOff f + 16) 4 (r.2.1 - 1) r.2.2
  if r.2.1 ≤ 1 then (w.1, 1, freeFrames [f] w.2)
  else (w.1, 0, if r.2.1 = 2 then unshare n f w.2 else w.2)

/-- Directory entries of the numbers listed let go of their frames; each entry takes the word that `f` gives it. Answers
the worst status and the number of frames freed. -/
def dropEntries (e : SesEnt) (f : Nat → Nat → Option Nat) : List Nat → State → Status × Nat × State
  | [], s => (.ok, 0, s)
  | en :: t, s =>
    let r := dirEntry e en s
    let x : Status × Nat × State :=
      if r.1.good && deValid r.2.1 then
        let w : Status × State := match f en r.2.1 with
          | some v => putDir e en v r.2.2
          | none => (.ok, r.2.2)
        let d := dropFrame e.fn (deFrame r.2.1) (deShared r.2.1) w.2
        (Status.worse w.1 d.1, d.2.1, d.2.2)
      else (r.1, 0, r.2.2)
    let y := dropEntries e f t x.2.2
    (Status.worse x.1 y.1, x.2.1 + y.2.1, y.2.2)

/-- Every entry number of a directory. -/
def allEntries (e : SesEnt) : List Nat := List.range (e.layers * e.heads * e.cap)

/-- The frames of the leaves that the root names. -/
def leafFrames (e : SesEnt) : List Nat → State → Status × List Nat × State
  | [], s => (.ok, [], s)
  | k :: t, s =>
    let a := rootLeaf e.fn e.root k s
    let b := leafFrames e t a.2.2
    (Status.worse a.1 b.1, (if a.1.good && bit a.2.1 31 then [a.2.1 % 2 ^ 29] else []) ++ b.2.1, b.2.2)

/-- The next GEN (R114). -/
def nextGen (g : Nat) : Nat := if 16383 ≤ g then 1 else g + 1

/-- A stream entry is freed. -/
def dropStream (i : Nat) (s : State) : State := setSes (fun x => { x with streams := del i x.streams }) s

/-- An entry is freed; its GEN has advanced (R114). -/
def dropEnt (i : Nat) (s : State) : State :=
  match sesEnt i s with
  | none => s
  | some e =>
    setSyr (fun y => { y with halves := y.halves.filter (fun h => h.1 != i) })
      (setSes (fun x => { x with tab := del i x.tab, gens := put i (nextGen e.gen) x.gens }) s)

/-- A session goes (R129): its frames, its directory and its entry. Answers status and frames freed. -/
def eraseSes (i : Nat) (s : State) : Status × Nat × State :=
  match sesEnt i s with
  | none => (.accessDenied, 0, s)
  | some e =>
    let d := dropEntries e (fun _ _ => none) (allEntries e) s
    let l := leafFrames e (List.range e.leaves) d.2.2
    let dir := e.root :: l.2.1
    (Status.worse d.1 l.1, d.2.1 + dir.length, dropEnt i (freeFrames dir l.2.2))

end Sys2Proof.Machine
end

