-- ==== Sys2Proof/Machine/MirrorCore.lean ====
section
/-! DEFINITION. Sys2Proof/Machine/MirrorCore.lean: a primary's side of mirroring: its records, their queue, and how mirroring
breaks (spec/11_syrel_fabric.md R301 to R304, spec/05_sessions_and_kv_pages.md R127). -/

namespace Sys2Proof.Machine

open Sys2Proof

/-- The 13-bit identity of this hub's twin: the same hub ID in the other system (R300). -/
def twinId (s : State) : Nat := 4096 * (1 - rd HUB_ID_TWIN 0 s) + rd HUB_ID_ID 0 s

/-- A message of Herva firmware to another hub's, whose wire format the spec leaves to firmware (log entry 31): 1 create a
replica, 2 delete a replica, 3 a replica is gone, 4 take a migrating session. -/
def tellFirmware (dst what : Nat) (args : List Nat) (data : List Byte) (s : State) : State :=
  emit { kind := .firmware, dest := dst, tag := what, args := args, data := data } s

/-- Such a message without data. -/
def tellHub (dst what : Nat) (args : List Nat) (s : State) : State := tellFirmware dst what args [] s

/-- The GEN part of a session's own handle. -/
def SesEnt.handle (i : Nat) (e : SesEnt) : Nat := handleOf i e.gen

/-- The operation of another hub or of a device that a session waits in. -/
def sesOpOf (i : Nat) (s : State) : Option SesOp := s.ses.ops.find? (fun o => o.ses == i)

/-- The operation of the descriptor of ring `g` and count `k`. -/
def sesOpAt (g k : Nat) (s : State) : Option SesOp := s.ses.ops.find? (fun o => o.g == g && o.k == k)

/-- An operation is done with. -/
def dropOp (g k : Nat) (s : State) : State :=
  setSes (fun x => { x with ops := x.ops.filter (fun o => !(o.g == g && o.k == k)) }) s

/-- STATE of entry `i` changes. -/
def setState (i st : Nat) (s : State) : State :=
  match sesEnt i s with
  | some e => putEnt i { e with state := st } s
  | none => s

/-- The session's waiting operation ends with a status. -/
def endOp (o : SesOp) (st : Status) (s : State) : State := failDesc o.g o.k st (dropOp o.g o.k s)

/-- The records of entry `i` are no longer awaited, and none waits to be sent. -/
def forgetMirror (i : Nat) (s : State) : State :=
  let idx := (sesEnt i s).map SesEnt.twinIndex
  setSyr (fun y => { y with mirPend := y.mirPend.filter (fun m => m.ses != i),
                            mirQueue := y.mirQueue.filter (fun p => some p.addr != idx) }) s

/-- The session's writes go to the twin: it is mirrored, or being copied to a replica that the twin has named (R127). -/
def mirrors (e : SesEnt) : Bool := e.mirror || (e.state == 5 && e.twinValid)

/-- A SES_MIRROR operation of function `fn` ends before the twin has answered: the replica it asked for goes when it does. -/
def orphan (o : SesOp) (fn : Nat) (s : State) : State :=
  if o.ty = 0x16 ∧ o.phase = 0 then setSes (fun x => { x with orphans := x.orphans ++ [(o.g, o.k, fn)] }) s else s

/-- The twin deletes the replica of entry `i`, or the one that it has been asked for (R127). -/
def dropReplica (i : Nat) (e : SesEnt) (s : State) : State :=
  if mirrors e then tellHub (twinId s) 2 [e.twinIndex, e.fn] (forgetMirror i s)
  else match sesOpOf i s with
    | some o => orphan o e.fn s
    | none => s

/-- Mirroring of entry `i` breaks (R303): MIRROR and TWIN_VALID are cleared and the owner has an event. A session still being
copied is RESIDENT again, and its SES_MIRROR completes with the cause (R505). With `tell`, the twin deletes its replica. -/
def breakMirror (i : Nat) (st : Status) (tell : Bool) (s : State) : State :=
  match sesEnt i s with
  | none => s
  | some e =>
    let s := if tell ∨ !mirrors e then dropReplica i e s else forgetMirror i s
    let s := putEnt i { e with mirror := false, twinValid := false, state := if e.state = 5 then 0 else e.state } s
    let s := postEvent e.fn 0x0007 0 st (e.handle i) (setB SYR_EVENT_MIRROR_BROKEN 0 s)
    match e.state == 5, sesOpOf i s with
    | true, some o => endOp o st s
    | _, _ => s

/-- Bytes that packets take of the queue of R303. -/
def queueBytes (l : List Pkt) : Nat := (l.map (fun p => 64 * pktCells p)).sum


/-- One record of entry `i` is sent (R301), or waits while both twin ports are down; one that does not fit breaks the session
(R303). -/
def sendMirror (i word3 : Nat) (data : List Byte) (s : State) : State :=
  match sesEnt i s with
  | none => s
  | some e =>
    if !mirrors e then s else
    let k : Pkt := { opc := 0x6, vn := 2, dst := twinId s, src := selfId s, tag := e.mirTag, fn := e.fn, addr := e.twinIndex,
                     aux := word3, data := data }
    let s := putEnt i { e with mirTag := (e.mirTag + 1) % 4096 } s
    let s := setSyr (fun y => { y with mirPend := y.mirPend ++ [{ ses := i, tag := e.mirTag, at16 := now16 s }] }) s
    if !(goodPorts 6 s).isEmpty then syrSend k s
    else if 2 ^ 26 < queueBytes (k :: s.syr.mirQueue) then breakMirror i .unreachable true s
    else setSyr (fun y => { y with mirQueue := y.mirQueue ++ [k] }) s

/-- The records that waited for a twin port leave. -/
def flushMirror (s : State) : State :=
  if (goodPorts 6 s).isEmpty then s else
  let q := s.syr.mirQueue
  forEach q syrSend (setSyr (fun y => { y with mirQueue := [] }) s)

/-- Tokens in one ROWS record (R302); 0: each row goes alone. -/
def tokensPerRecord (rb : Nat) : Nat := min 4 (512 / (2 * rb))

/-- Word 3 of a ROWS record (Table 10). -/
def rowsWord (l h pos countM1 : Nat) (split half : Bool) : Nat :=
  4 * l + 2 ^ 10 * h + 2 ^ 16 * pos + 2 ^ 39 * countM1 + 2 ^ 41 * b2n split + 2 ^ 42 * b2n half

/-- The rows of tokens from `pos` on of one layer and head go to the twin (R302); `fuel` bounds the records. -/
def mirrorRows (i : Nat) (e : SesEnt) (l h : Nat) : Nat → Nat → List (List Byte) → List (List Byte) → State → State
  | 0, _, _, _, s => s
  | fuel + 1, pos, ks, vs, s =>
    if ks.isEmpty then s else
    let m := tokensPerRecord e.rb
    if m = 0 then
      mirrorRows i e l h fuel (pos + 1) ks.tail vs.tail
        (sendMirror i (rowsWord l h pos 0 true true) (vs.headD [])
          (sendMirror i (rowsWord l h pos 0 true false) (ks.headD []) s))
    else
      let c := min m ks.length
      mirrorRows i e l h fuel (pos + c) (ks.drop c) (vs.drop c)
        (sendMirror i (rowsWord l h pos (c - 1) false false) ((ks.take c).flatten ++ (vs.take c).flatten) s)

/-- A COMMIT record (Table 10). -/
def mirrorCommit (i len : Nat) (s : State) : State := sendMirror i (1 + 4 * len) [] s

/-- The frames of the directory entries listed are copied to the twin as FRAME records (R301); the worst status of the
reads. -/
def mirrorFrames (i : Nat) (e : SesEnt) : List Nat → State → Status × State
  | [], s => (.ok, s)
  | en :: t, s =>
    let r := dirEntry e en s
    if !r.1.good then (r.1, r.2.2) else
    if !deValid r.2.1 then mirrorFrames i e t r.2.2 else
    let f := homeGet (engReqr e.fn r.2.2) (frameOff (deFrame r.2.1)) 32768 r.2.2
    if !f.1.good then (f.1, f.2.2) else
    mirrorFrames i e t (forEach (List.range 64) (fun c s =>
      sendMirror i (2 + 4 * en + 2 ^ 27 * c) ((f.2.1.drop (512 * c)).take 512) s) f.2.2)

/-- A copy whose every record is acknowledged is over: the session is RESIDENT and mirrored (R127). -/
def mirrorDone (i : Nat) (s : State) : State :=
  match sesEnt i s, sesOpOf i s with
  | some e, some o =>
    if e.state = 5 ∧ o.phase = 1 ∧ !(s.syr.mirPend.any (fun m => m.ses == i)) then
      completeDesc o.g o.k .ok (handleOf e.twinIndex e.twinGen) 0 0
        (dropOp o.g o.k (putEnt i { e with state := 0, mirror := true, twinValid := true } s))
    else s
  | _, _ => s

end Sys2Proof.Machine
end

