-- ==== Sys2Proof/Machine/Sessions.lean ====
section
/-! DEFINITION. Sys2Proof/Machine/Sessions.lean: session and stream descriptors
(spec/05_sessions_and_kv_pages.md R116 to R131, R505). -/

namespace Sys2Proof.Machine

open Sys2Proof

/-! ## Acceptance (R118, R119) -/

/-- The operation of descriptor type `ty` runs in the session's state (Table 7). -/
def tableRuns (ty : Nat) (e : SesEnt) : Bool :=
  if e.replica then ty == 0x18 || ty == 0x19 else
  match e.state with
  | 0 =>
    match ty with
    | 0x12 | 0x13 | 0x16 | 0x19 => true
    | 0x14 | 0x17 => !e.streamValid && !e.mirror
    | 0x18 | 0x1A => !e.streamValid
    | _ => false
  | 2 => ty == 0x15 || ty == 0x18 || ty == 0x19
  | 5 => ty == 0x12 || ty == 0x18 || ty == 0x19
  | 1 | 3 => ty == 0x18 || ty == 0x19
  | _ => ty == 0x19

/-- The types that need no panel mover (R119). -/
def needsMover (ty : Nat) : Bool := !(ty == 0x10 || ty == 0x19 || ty == 0x1A || ty == 0x1B)

/-- What SES_CTL.ENABLE and the lack of a partition make of an operation (Table 12, R119, R386). -/
def sesGate (n ty : Nat) (s : State) : Status :=
  -- without cryptographic service park and restore are refused (R405, R414)
  if !rdb SES_CTL_ENABLE 0 s ∨ (needsMover ty ∧ (partOf n s).isNone) ∨ ((ty = 0x14 ∨ ty = 0x15) ∧ noCrypto s) then .refused else .ok

/-- The operation waits for a tile of the owner's partition (R119). -/
def sesHeld (n ty : Nat) (s : State) : Bool := needsMover ty && (partOf n s).isSome && (moverTile n s).isNone

/-- What the handle and the session's state make of an operation (R114, Table 7). -/
def handleStatus (n ty handle : Nat) (s : State) : Status :=
  match sesOf n handle s with
  | none => .accessDenied
  | some (_, e) => if tableRuns ty e then .ok else .refused

/-- A descriptor of type `ty` that is accepted, whatever becomes of it; else the state stays as it is. -/
def sesDesc (ty g k : Nat) (s : State) (f : Desc → State) : State :=
  match runningDesc g k ty s with
  | none => s
  | some d => if sesHeld (ringFn g) ty s then s else f d

/-- The handle that a session operation names, but for an import. -/
def opHandle (d : Desc) : Option Nat :=
  let ty := wrap 8 (d.word 0)
  if 0x12 ≤ ty ∧ ty ≤ 0x1A ∧ wrap 32 (d.word 2) ≠ 0 then some (wrap 32 (d.word 2)) else none

/-- An operation on the same session has started before and has not completed (R118, R341). One that shows in the session's STATE
holds none back, as Table 7 decides what comes after it; nor does one that waits for a tile (R119; log entry 126). -/
def sesBehind (g k : Nat) (s : State) : Bool :=
  match descOf g k s with
  | none => false
  | some d => s.rings.descs.any (fun e =>
      decide (e.st = .started) && decide (e.seq < d.seq) && ringFn e.ring == ringFn g && (opHandle d).isSome &&
      opHandle e == opHandle d && (sesOpAt e.ring e.count s).isNone && !sesHeld (ringFn g) (wrap 8 (e.word 0)) s) ||
    -- the append of a batch, taken before (R144)
    s.attn.batches.any (fun b => b.fn == ringFn g && b.streams.any (fun x =>
      !x.ended && opHandle d == some (handleOf x.ses x.gen) && (match x.seq with | some q => decide (q ≤ d.seq) | none => false)))

/-- An operation on the session that word 2 of its descriptor names, once those before it have completed: what `extra` adds to
its status, then `f`. -/
def onSession (ty g k : Nat) (extra : Desc → Nat → SesEnt → Status) (f : Desc → Nat → SesEnt → State) (s : State) : State :=
  sesDesc ty g k s (fun d =>
    let n := ringFn g
    let h := wrap 32 (d.word 2)
    let gate := Status.worst [sesGate n ty s, handleStatus n ty h s]
    match sesOf n h s with
    | none => failDesc g k gate s
    | some (i, e) =>
      let st := Status.worse gate (extra d i e)
      if sesBehind g k s then s else if st ≠ .ok then failDesc g k st s else f d i e)

/-! ## Pool (R116) -/

/-- Every line of a range is at home, by the lines that chiplets hold (log entry 21). -/
def wideClaimed (off len : Nat) (s : State) : Bool :=
  let inside := fun line => decide (off ≤ 64 * line) && decide (64 * line < off + len)
  !(s.coh.trans.any (fun p => inside p.1)) &&
  s.coh.dir.all (fun p => !inside p.1 || p.2.st == 0 || p.2.st == 4)

/-- The holders of the lines of a range are snooped for the control cluster, which adds the range to function `n`'s pool (R119, R258). -/
def wideClaim (n off len : Nat) (s : State) : State :=
  forEach (s.coh.dir.filter (fun p => decide (off ≤ 64 * p.1) && decide (64 * p.1 < off + len))) (fun p s =>
    if p.2.st = 0 ∨ p.2.st = 4 ∨ (trans p.1 s).isSome then s else startEvict p.1 .claim (portClass 79 n s) s) s

/-- What KV_POOL_ADD completes with (R116). -/
def poolAddStatus (n base frames : Nat) (s : State) : Status :=
  let bad := base % 32768 ≠ 0 ∨ frames = 0 ∨
    s.mem.held.any (fun h => decide (h.2.1 * 32768 < base + frames * 32768) && decide (base < (h.2.1 + h.2.2) * 32768))
  let e0 := base / 2 ^ 30
  let e1 := (base + frames * 32768 - 1) / 2 ^ 30
  let mine := (List.range (e1 - e0 + 1)).all (fun i => extOwned n (e0 + i) s)
  Status.worst [sesGate n 0x10 s, if bad then .unsupported else .ok, if frames ≠ 0 ∧ !mine then .accessDenied else .ok]

/-- KV_POOL_ADD (R116). -/
def doKvPoolAdd (g k : Nat) (s : State) : State :=
  sesDesc 0x10 g k s (fun d =>
    let n := ringFn g
    let base := slice (d.word 2) 0 44
    let frames := slice (d.word 3) 0 29
    let st := poolAddStatus n base frames s
    if st ≠ .ok then failDesc g k st s
    else if !wideClaimed base (frames * 32768) s then wideClaim n base (frames * 32768) s
    else
      let s := setMem (fun m => { m with held := m.held ++ [(n, base / 32768, frames)] }) s
      completeDesc g k .ok (poolTotal n s) 0 0 s)

/-- KV_POOL_ADD. -/
def execKvPoolAdd (g k : Nat) (s : State) : Host.Outcome State Fault Refusal := .next (clocked (doKvPoolAdd g k) s)

/-! ## Create (R120) -/

/-- Sessions that function `n` holds. -/
def sesHeldBy (n : Nat) (s : State) : Nat := (s.ses.tab.filter (fun p => p.2.fn == n)).length

/-- The geometry of a session is reserved or too large (R120). -/
def geometryBad (kv dim lm hm maxTok : Nat) : Bool :=
  decide (3 < kv) || dim == 3 || maxTok == 0 || decide (4194304 < maxTok) ||
  decide (8176 < leavesFor (lm + 1) (hm + 1) (ceilDiv maxTok (pageTokens kv dim)))

/-- What the checks of R120 answer for a session that needs `frames` frames. -/
def createStatus (n : Nat) (bad : Bool) (frames : Nat) (s : State) : Status :=
  if bad then .unsupported
  else if rd SES_QUOTA_MAX n s ≤ sesHeldBy n s ∨ 262144 ≤ s.ses.tab.length ∨ poolFree n s < frames then .quota
  else .ok

/-- A frame of zeros. -/
def zeroFrame (n f : Nat) (s : State) : Status × State := engWrite n (frameOff f) (List.replicate 32768 0) s

/-- The lowest free index of the Session Table (log entry 30). -/
def freeSes (s : State) : Option Nat := firstBelow 262144 (fun i => (sesEnt i s).isNone)

/-- A session's frames are zeroed and its root is given the leaves (Table 6). -/
def layRoot (e : SesEnt) (root : Nat) (leaves : List Nat) (s : State) : Status × State :=
  seqSteps ((root :: leaves).map (zeroFrame e.fn) ++
    leaves.zipIdx.map (fun p => engPut e.fn (frameOff root + 64 + 4 * p.2) 4 (p.1 + 2 ^ 31))) s

/-- A new entry at index `i` with the frames taken, its directory zeroed (R120): its index, or the status of what failed, with
nothing taken; `s0` is the state before. -/
def makeSesAt (e : SesEnt) (i : Option Nat) (frames : Option (List Nat × State)) (s0 : State) : Status × Nat × State :=
  match i, frames with
  | some i, some (root :: leaves, s) =>
    let r := layRoot e root leaves s
    if r.1.good then (.ok, i, putEnt i { e with gen := sesGen i s, root := root, frames := leaves.length + 1 } r.2)
    else (r.1, 0, freeFrames (root :: leaves) r.2)
  | _, _ => (.quota, 0, s0)

/-- A new entry with a zeroed directory (R120). -/
def makeSes (e : SesEnt) (s : State) : Status × Nat × State := makeSesAt e (freeSes s) (takeFrames e.fn (e.leaves + 1) s) s

/-- SES_CREATE (R120). -/
def doSesCreate (g k : Nat) (s : State) : State :=
  sesDesc 0x11 g k s (fun d =>
    let n := ringFn g
    let e : SesEnt := { fn := n, kvFmt := slice (d.word 2) 0 4, dim := slice (d.word 2) 4 2, layersM1 := slice (d.word 2) 6 8,
                        headsM1 := slice (d.word 2) 14 6, gen := 0, maxTokens := slice (d.word 3) 0 23, root := 0 }
    let bad := geometryBad e.kvFmt e.dim e.layersM1 e.headsM1 e.maxTokens
    let st := Status.worst [sesGate n 0x11 s, createStatus n bad (e.leaves + 1) s]
    if st ≠ .ok then failDesc g k st s else
    let r := makeSes e s
    if r.1.good then completeDesc g k .ok (handleOf r.2.1 (sesGen r.2.1 r.2.2)) 0 0 r.2.2 else failDesc g k r.1 r.2.2)

/-- SES_CREATE. -/
def execSesCreate (g k : Nat) (s : State) : Host.Outcome State Fault Refusal := .next (clocked (doSesCreate g k) s)

/-! ## Append (R121, R122) -/

/-- The root's pending range: PENDING_LAYERS, PENDING_POS, PENDING_COUNT (Table 4). -/
def pendingOf (e : SesEnt) (s : State) : Status × (Nat × Nat × Nat) × State :=
  let r := engRead e.fn (frameOff e.root) 36 s
  (r.1, (slice r.2.1 0 256, slice r.2.1 256 23, slice r.2.1 279 7), r.2.2)

/-- The root's pending range is written. -/
def putPending (e : SesEnt) (layers at' count : Nat) (s : State) : Status × State :=
  engPut e.fn (frameOff e.root) 36 (layers + 2 ^ 256 * at' + 2 ^ 279 * count) s

/-- Bytes of a source element: SRC_FMT 0 BF16, 1 FP16, 2 FP32. -/
def srcWidth (fmt : Nat) : Nat := if fmt = 2 then 4 else 2

/-- The value of a source element. -/
def srcVal (fmt bits : Nat) : Fv := if fmt = 2 then f32 bits else elemVal (if fmt = 0 then 1 else 2) bits 127

/-- The stored bytes of one row of `d` source elements. -/
def srcRow (kv fmt : Nat) (l : List Byte) : List Byte :=
  encodeRow kv ((chunks (srcWidth fmt) (l.length / srcWidth fmt + 1) l).map (fun b => srcVal fmt (ofBytes b)))

/-- The K (0) or V (1) rows of head `h` in the source of an append, encoded (R117, R121). -/
def appendRows (e : SesEnt) (fmt count h v : Nat) (src : List Byte) : List (List Byte) :=
  let w := e.d * srcWidth fmt
  (List.range count).map (fun j => srcRow e.kvFmt fmt ((src.drop ((2 * (h * count + j) + v) * w)).take w))

/-- What the checks of R121 answer, in their order; `p` is the pending range. -/
def appendStatus (e : SesEnt) (layer fmt at' count : Nat) (p : Nat × Nat × Nat) : Status :=
  if e.layers ≤ layer ∨ 2 < fmt then .unsupported
  else if e.maxTokens < at' + count then .quota
  else if at' ≠ e.len then .refused
  else if p.2.2 ≠ 0 ∧ ((p.2.1, p.2.2) ≠ (at', count) ∨ bit p.1 layer) then .refused
  else .ok

/-- What the source of an append answers (R122). -/
def sourceStatus (n off len : Nat) (s : State) : Status :=
  if (lineOffs off len).any (fun o => frameHeld o s) then .accessDenied else rangeStatus (.agent n) off len false s

/-- The pages that every head still has to open: head and ordinal. -/
def pagesToOpen (e : SesEnt) (l at' count : Nat) : List Nat → State → Status × List (Nat × Nat) × State
  | [], s => (.ok, [], s)
  | h :: t, s =>
    let a := closedPages e l h (pageSpans e at' count) s
    let b := pagesToOpen e l at' count t a.2.2
    (Status.worse a.1 b.1, a.2.1.map (fun o => (h, o)) ++ b.2.1, b.2.2)

/-- The last step of an append (R121): the pending range, LEN and the stream's POS. -/
def commitAppend (i : Nat) (e : SesEnt) (layer at' count : Nat) (p : Nat × Nat × Nat) (s : State) : Status × State :=
  let layers := (if p.2.2 = 0 then 0 else p.1) + 2 ^ layer
  if layers = 2 ^ e.layers - 1 then
    let w := putPending e 0 0 0 s
    if !w.1.good then w else
    match sesEnt i w.2 with
    | none => w
    | some e =>
      let len := e.len + count
      let s := putEnt i { e with len := len } w.2
      let s := if e.streamValid then
          setSes (fun x => { x with streams := modAt e.stream (fun t => { t with pos := len }) x.streams }) s
        else s
      (.ok, mirrorCommit i len s)
  else putPending e layers at' count s

/-- Bytes of the source of an append. -/
def appendBytes (e : SesEnt) (count fmt : Nat) : Nat := 2 * e.heads * count * e.d * srcWidth fmt

/-- The source of an append is at home, or is refused. -/
def appendReady (e : SesEnt) (count fmt src : Nat) (s : State) : Bool :=
  claimed src (appendBytes e count fmt) false s || sourceStatus e.fn src (appendBytes e count fmt) s != .ok

/-- An append to entry `i` whose source is at home (R121, R122, R505). -/
def appendRun (i : Nat) (e : SesEnt) (layer count fmt at' src : Nat) (s : State) : Status × State :=
  let n := e.fn
  let bytes := appendBytes e count fmt
  let pe := pendingOf e s
  let heads := List.range e.heads
  let opens := pagesToOpen e layer at' count heads pe.2.2
  let s := opens.2.2
  let r : Status × List Byte × State :=
    if sourceStatus n src bytes s = .ok then homeGet (.agent n (moverPort n s)) src bytes s else (sourceStatus n src bytes s, [], s)
  let s := r.2.2
  let st := Status.worst [pe.1, opens.1, r.1, if poolFree n s < opens.2.1.length then .quota else .ok]
  if st ≠ .ok then (st, s) else
  let rows := fun h v => appendRows e fmt count h v r.2.1
  let w := seqSteps (opens.2.1.map (fun p => openPage i layer p.1 p.2) ++
    heads.map (fun h => putRows e layer h at' (rows h 0) (rows h 1))) s
  let mirror := fun s => forEach heads (fun h s => mirrorRows i e layer h 64 at' (rows h 0) (rows h 1) s) s
  let w := if w.1.good then commitAppend i e layer at' count pe.2.1 (mirror w.2) else w
  if w.1.good then w else (w.1, forEach opens.2.1 (fun p => closePage i layer p.1 p.2) w.2)

/-- KV_APPEND (R121, R122, R505). -/
def doKvAppend (g k : Nat) (s : State) : State :=
  onSession 0x12 g k (fun d _ e =>
      appendStatus e (slice (d.word 2) 32 8) (slice (d.word 2) 48 2) (slice (d.word 3) 0 23) (slice (d.word 2) 40 6 + 1)
        (pendingOf e s).2.1) (fun d i e =>
    let layer := slice (d.word 2) 32 8
    let count := slice (d.word 2) 40 6 + 1
    let fmt := slice (d.word 2) 48 2
    let src := slice (d.word 4) 0 44
    if !appendReady e count fmt src s then claim (.agent e.fn (moverPort e.fn s)) src (appendBytes e count fmt) false s else
    let w := appendRun i e layer count fmt (slice (d.word 3) 0 23) src s
    if w.1.good then completeDesc g k .ok (((sesEnt i w.2).map SesEnt.len).getD 0) 0 0 w.2 else failDesc g k w.1 w.2) s

/-- KV_APPEND. -/
def execKvAppend (g k : Nat) (s : State) : Host.Outcome State Fault Refusal := .next (clocked (doKvAppend g k) s)

/-! ## Fork (R123) -/

/-- A full page is shared with child `c`: REFS rises and both entries set SHARED. -/
def sharePage (i c l h o : Nat) (s : State) : Status × State :=
  match sesEnt i s, sesEnt c s with
  | some e, some x =>
    let r := pageFrame e l h o s
    match r.2.1 with
    | none => (if r.1.good then .dataErr else r.1, r.2.2)
    | some f =>
      let q := frameRefs e.fn f r.2.2
      if !q.1.good then (q.1, q.2.2) else
      let w := seqSteps [ engPut e.fn (frameOff f + 16) 4 (q.2.1 + 1),
                          putDir e (e.entryNo l h o) (deWord f true true false),
                          putDir x (x.entryNo l h o) (deWord f true true false) ] q.2.2
      (w.1, addFrames c 1 w.2)
  | _, _ => (.accessDenied, s)

/-- The page that holds the last token kept is copied for child `c`: its first `keep` rows and the parent's sketch. -/
def copyPage (i c l h o keep : Nat) (s : State) : Status × State :=
  match sesEnt i s, sesEnt c s with
  | some e, some x =>
    let r := pageFrame e l h o s
    match r.2.1, takeFrame e.fn r.2.2 with
    | some f, some (f2, s) =>
      let sk := homeGet (engReqr e.fn s) (frameOff f + 64) (4 * e.d) s
      let ks := homeGet (engReqr e.fn sk.2.2) (frameOff f + e.rowAt 0 0) (keep * e.rb) sk.2.2
      let vs := homeGet (engReqr e.fn ks.2.2) (frameOff f + e.rowAt 1 0) (keep * e.rb) ks.2.2
      let st := Status.worst [sk.1, ks.1, vs.1]
      let w : Status × State := if !st.good then (st, vs.2.2) else
        seqSteps [ engWrite e.fn (frameOff f2) (pageHeader c x l h o keep ++ sk.2.1),
                   engWrite e.fn (frameOff f2 + e.rowAt 0 0) ks.2.1, engWrite e.fn (frameOff f2 + e.rowAt 1 0) vs.2.1,
                   putDir x (x.entryNo l h o) (deWord f2 true false false) ] vs.2.2
      if w.1.good then (.ok, addFrames c 1 w.2) else (w.1, freeFrames [f2] w.2)
    | _, _ => (if r.1.good then .dataErr else r.1, r.2.2)
  | _, _ => (.accessDenied, s)

/-- The steps of a fork for one layer and head. -/
def forkSteps (i c len n l h : Nat) : List (State → Status × State) :=
  (List.range (len / n)).map (fun o => sharePage i c l h o) ++
  (if len % n = 0 then [] else [copyPage i c l h (len / n) (len % n)])

/-- The entry of a fork's child: the parent's form, FORK_LEN and MAX_TOKENS of the descriptor. -/
def childOf (d : Desc) (e : SesEnt) : SesEnt :=
  { fn := e.fn, kvFmt := e.kvFmt, dim := e.dim, layersM1 := e.layersM1, headsM1 := e.headsM1, gen := 0,
    len := slice (d.word 3) 0 23, maxTokens := slice (d.word 3) 23 23, root := 0 }

/-- SES_FORK (R123, R505). -/
def doSesFork (g k : Nat) (s : State) : State :=
  onSession 0x13 g k (fun d _ e =>
      let x := childOf d e
      let bad := decide (e.len < x.len) || decide (x.maxTokens < x.len) ||
        geometryBad x.kvFmt x.dim x.layersM1 x.headsM1 x.maxTokens
      let copies := if x.len % e.n = 0 then 0 else e.layers * e.heads
      createStatus e.fn bad (x.leaves + 1 + copies) s) (fun d i e =>
    let x := childOf d e
    let r := makeSes x s
    if !r.1.good then failDesc g k r.1 r.2.2 else
    let c := r.2.1
    let w := seqSteps ((List.range e.layers).flatMap (fun l => (List.range e.heads).flatMap (fun h =>
      forkSteps i c x.len e.n l h))) r.2.2
    if w.1.good then completeDesc g k .ok (handleOf c (sesGen c w.2)) 0 0 w.2
    else
      -- every frame taken goes back, every REFS falls again, and no entry is made; GEN of the index has not been given out
      let u := eraseSes c w.2
      failDesc g k w.1 (setSes (fun z => { z with gens := put c (sesGen c s) z.gens }) u.2.2)) s

/-- SES_FORK. -/
def execSesFork (g k : Nat) (s : State) : Host.Outcome State Fault Refusal := .next (clocked (doSesFork g k) s)

/-! ## Delete and query (R129, R117) -/

/-- SES_DELETE (R129): an operation that waits on the session ends ABORTED first (Table 7); a mirrored session's replica
goes with it, and the end of a replica ends the primary's mirroring (R127). -/
def doSesDelete (g k : Nat) (s : State) : State :=
  onSession 0x18 g k (fun _ _ _ => .ok) (fun _ i e =>
    let s := dropReplica i e s
    let s := match sesOpOf i s with
      | some o => endOp o .aborted s
      | none => s
    let s := if e.replica then tellHub (twinId s) 3 [e.twinIndex, e.fn] s else s
    let s := if e.streamValid then dropStream e.stream s else s
    let r := eraseSes i s
    completeDesc g k r.1 r.2.1 0 0 r.2.2) s

/-- SES_DELETE. -/
def execSesDelete (g k : Nat) (s : State) : Host.Outcome State Fault Refusal := .next (clocked (doSesDelete g k) s)

/-- SES_QUERY (R117): the entry image and the first 64 bytes of the root go to BUF. -/
def doSesQuery (g k : Nat) (s : State) : State :=
  onSession 0x19 g k (fun d _ e =>
      let buf := slice (d.word 3) 0 44
      Status.worse (if buf % 64 = 0 then .ok else .unsupported) (rangeStatus (.agent e.fn) buf 96 true s)) (fun d _ e =>
    let buf := slice (d.word 3) 0 44
    if !claimed buf 96 true s then claim (.agent e.fn) buf 96 true s else
    let r := homeGet (.engine e.fn) (frameOff e.root) 64 s
    if !r.1.good then failDesc g k r.1 r.2.2 else
    let w := homePut (.agent e.fn) buf (e.image ++ r.2.1) r.2.2
    failDesc g k w.1 w.2) s

/-- SES_QUERY. -/
def execSesQuery (g k : Nat) (s : State) : Host.Outcome State Fault Refusal := .next (clocked (doSesQuery g k) s)

/-! ## Streams (R131) -/

/-- Streams that function `n` holds. -/
def strHeldBy (n : Nat) (s : State) : Nat := (s.ses.streams.filter (fun p => p.2.fn == n)).length

/-- The lowest free index of the Stream Table. -/
def freeStr (s : State) : Option Nat := firstBelow 131072 (fun i => (look s.ses.streams i).isNone)

/-- STREAM_ADMIT (R131). -/
def doStreamAdmit (g k : Nat) (s : State) : State :=
  onSession 0x1A g k (fun _ _ e =>
      if rd STR_QUOTA_MAX e.fn s ≤ strHeldBy e.fn s ∨ (freeStr s).isNone then .quota else .ok) (fun d i e =>
    match freeStr s with
    | none => s
    | some t =>
      let x : StrEnt := { session := i, gen := e.gen, fn := e.fn, sketchSel := bit (d.word 2) 40,
                          pageBudget := slice (d.word 2) 41 16, batch := slice (d.word 2) 32 8, pos := e.len,
                          qSlot := slice (d.word 3) 0 16 }
      let s := setSes (fun y => { y with streams := put t x y.streams }) s
      completeDesc g k .ok t 0 0 (putEnt i { e with stream := t, streamValid := true } s)) s

/-- STREAM_ADMIT. -/
def execStreamAdmit (g k : Nat) (s : State) : Host.Outcome State Fault Refusal := .next (clocked (doStreamAdmit g k) s)

/-- A stream is retired: its session is no longer admitted. -/
def retireStream (t : Nat) (s : State) : State :=
  match look s.ses.streams t with
  | none => s
  | some x =>
    let s := dropStream t s
    match sesEnt x.session s with
    | some e => putEnt x.session { e with stream := 0, streamValid := false } s
    | none => s

/-- STREAM_RETIRE (R131); of a stream in a running batch it completes only when the batch has (R141). -/
def doStreamRetire (g k : Nat) (s : State) : State :=
  sesDesc 0x1B g k s (fun d =>
    let t := slice (d.word 2) 0 17
    let own : Status := match look s.ses.streams t with
      | some x => if x.fn = ringFn g then .ok else .accessDenied
      | none => .accessDenied
    let st := Status.worse (sesGate (ringFn g) 0x1B s) own
    if s.attn.batches.any (fun b => b.running && b.streams.any (fun x => x.idx == t)) then s
    else if st ≠ .ok then failDesc g k st s else completeDesc g k .ok 0 0 0 (retireStream t s))

/-- STREAM_RETIRE. -/
def execStreamRetire (g k : Nat) (s : State) : Host.Outcome State Fault Refusal := .next (clocked (doStreamRetire g k) s)

/-! ## Park and restore (R125, R126, R333, R383) -/

/-- A downstream assignment lets function `n` use a target (R333): `kind` 1 NVMe, 2 CXL memory. -/
def assigned (n kind port nsid target len : Nat) (s : State) : Bool :=
  ((listed DS_ASSIGN_VALID s).map Prod.fst).any (fun a =>
    rdb DS_ASSIGN_VALID a s && rd DS_ASSIGN_FUNCTION a s == n && rd DS_ASSIGN_PORT a s == port &&
    rd DS_ASSIGN_KIND a s + 1 == kind &&
    (if kind = 1 then rd DS_ASSIGN_NSID a s == nsid
     else
      let base := rd DS_ASSIGN_NSID a s % 2 ^ 16 * 2 ^ 30
      decide (base ≤ target) && decide (target + len ≤ base + rd DS_ASSIGN_NSID a s / 2 ^ 16 * 2 ^ 30)))

/-- What the target of a park or restore answers before any request (R125, R331). -/
def targetStatus (n kind port nsid target len : Nat) (s : State) : Status :=
  Status.worst
    [ if kind = 1 ∨ kind = 2 then .ok else .unsupported,
      if (kind = 1 ∨ kind = 2) ∧ !assigned n kind port nsid target len s then .accessDenied else .ok,
      if rd DS_STATUS_STATE port s ≠ 3 ∨ rdb DS_STATUS_CXL port s ≠ (kind == 2) then .unreachable else .ok ]

/-- The number of a descriptor's device requests. -/
def opId (g k : Nat) : Nat := g * 2 ^ 32 + k

/-- A request to a downstream device (R125): `op` 0 write, 1 flush, 2 read. -/
def sendDevice (o : SesOp) (fn op off len : Nat) (data : List Byte) (s : State) : State :=
  sendReq { cls := 3, port := 78, fn := fn, purpose := .device o.port (opId o.g o.k),
            out := { kind := .ds, dest := o.port, args := [op, o.kind, o.nsid, o.target, off, len], data := data } }
    (s |> count dsUnit 0xA0 (some fn) 1 |> count dsUnit 0xA1 (some fn) len)

/-- The park root of function `n` (R383): generated where there is none. -/
def parkRoot (n : Nat) (s : State) : Nat × State :=
  match look s.sec.parkRoots n with
  | some r => (r, s)
  | none => (s.sec.nextKey, { s with sec := { s.sec with parkRoots := put n s.sec.nextKey s.sec.parkRoots,
                                                          nextKey := s.sec.nextKey + 1 } })

/-- The IV of frame `j` of an image (R125): NONCE with bits [31:0] replaced. -/
def frameIv (nonce j : Nat) : Nat := nonce / 2 ^ 32 * 2 ^ 32 + j

/-- A frame encrypted or decrypted. -/
def crypt (key nonce j : Nat) (l : List Byte) : List Byte :=
  gcmCrypt key (frameIv nonce j) l

/-- The directory entries whose frames an image holds, in its order (R125). -/
def imageEntries (e : SesEnt) : List Nat :=
  (List.range e.layers).flatMap (fun l => (List.range e.heads).flatMap (fun h =>
    (List.range (ceilDiv e.len e.n)).map (fun o => e.entryNo l h o)))

/-- Bytes of the tags of an image of `p` frames. -/
def tagBytes (p : Nat) : Nat := ceilDiv (16 * p) 4096 * 4096

/-- Bytes of an image of `p` frames (Table 8). -/
def imageBytes (p : Nat) : Nat := 4096 + tagBytes p + 32768 * p

/-- The entry as an image holds it: STATE, TWIN and STREAM fields zero (Table 8). -/
def imageEntry (e : SesEnt) : SesEnt :=
  { e with state := 0, twinIndex := 0, twinValid := false, stream := 0, streamValid := false }

/-- The frames of the entries listed, read whole. -/
def readFrames (e : SesEnt) : List Nat → State → Status × List (List Byte) × State
  | [], s => (.ok, [], s)
  | en :: t, s =>
    let r := dirEntry e en s
    let a : Status × List Byte × State :=
      if r.1.good then homeGet (engReqr e.fn r.2.2) (frameOff (deFrame r.2.1)) 32768 r.2.2 else (r.1, [], r.2.2)
    let b := readFrames e t a.2.2
    (Status.worse a.1 b.1, a.2.1 :: b.2.1, b.2.2)

/-- `l` made `n` bytes long with zeros. -/
def padTo (n : Nat) (l : List Byte) : List Byte := l ++ List.replicate (n - l.length) 0

/-- A park image (Table 8). -/
def parkImage (key nonce : Nat) (e : SesEnt) (frames : List (List Byte)) : List Byte :=
  let head := (imageEntry e).image ++ List.replicate 32 0 ++ toBytes 12 nonce ++ toBytes 4 frames.length
  let cts := frames.zipIdx.map (fun p => crypt key nonce p.2 p.1)
  let tags := cts.zipIdx.flatMap (fun p => toBytes 16 (gcmTag key (frameIv nonce p.2) [] p.1))
  padTo 4096 (head ++ toBytes 16 (gcmTag key nonce head [])) ++ padTo (tagBytes frames.length) tags ++ cts.flatten

/-- SES_PARK (R125): the image is made and its write sent. The nonce is a free value. -/
def doSesPark (g k : Nat) (s : State) : State :=
  onSession 0x14 g k (fun d _ e =>
      targetStatus e.fn (slice (d.word 3) 0 2) (slice (d.word 3) 2 2) (slice (d.word 3) 4 32) (d.word 4)
        (imageBytes (imageEntries e).length) s) (fun d i e =>
    let f := readFrames e (imageEntries e) s
    if !f.1.good then failDesc g k f.1 f.2.2 else
    let root := parkRoot e.fn f.2.2
    let nonce := ofBytes (freeBytes root.2.freeCtr 12)
    let img := parkImage (Config.parkKey root.1 e.fn nonce) nonce e f.2.1
    let o : SesOp := { ty := 0x14, g := g, k := k, ses := i, kind := slice (d.word 3) 0 2, port := slice (d.word 3) 2 2,
                       nsid := slice (d.word 3) 4 32, target := d.word 4, image := img.take 4096 }
    sendDevice o e.fn 0 0 img.length img
      (setState i 1 (setSes (fun x => { x with ops := x.ops ++ [o] }) (drewN 12 root.2)))) s

/-- SES_PARK. -/
def execSesPark (g k : Nat) (s : State) : Host.Outcome State Fault Refusal := .next (clocked (doSesPark g k) s)

/-- A park fails: the session is RESIDENT with every frame in place (R125). -/
def failPark (o : SesOp) (st : Status) (s : State) : State := endOp o st (setState o.ses 0 s)

/-- The resident pages among the entries listed: entry number, its word, and REFS of its frame. -/
def pageList (e : SesEnt) : List Nat → State → Status × List (Nat × Nat × Nat) × State
  | [], s => (.ok, [], s)
  | en :: t, s =>
    let r := dirEntry e en s
    if !r.1.good then (r.1, [], r.2.2) else
    if !deValid r.2.1 then pageList e t r.2.2 else
    let q := frameRefs e.fn (deFrame r.2.1) r.2.2
    if !q.1.good then (q.1, [], q.2.2) else
    let y := pageList e t q.2.2
    (y.1, (en, r.2.1, q.2.1) :: y.2.1, y.2.2)

/-- The writes of a park once its image is on the device (R125): the target in the root, each entry PARKED, or cleared where
the image does not hold its page (log entry 125), and REFS of each frame one less. -/
def parkWrites (e : SesEnt) (target : List Byte) (pages : List (Nat × Nat × Nat)) : List (State → Status × State) :=
  engWrite e.fn (frameOff e.root + 40) target ::
  pages.map (fun p => putDir e p.1 (if (imageEntries e).contains p.1 then deWord 0 false false true else 0)) ++
  pages.map (fun p => engPut e.fn (frameOff (deFrame p.2.1) + 16) 4 (p.2.2 - 1))

/-- What the writes of a park have changed is put back. -/
def parkUndo (e : SesEnt) (target : List Byte) (pages : List (Nat × Nat × Nat)) (s : State) : State :=
  let s := (engWrite e.fn (frameOff e.root + 40) target s).2
  forEach pages (fun p s => (engPut e.fn (frameOff (deFrame p.2.1) + 16) 4 p.2.2 (putDir e p.1 p.2.1 s).2).2) s

/-- The frames of parked pages are let go: free at REFS 0, no longer shared at REFS 1. -/
def releasePages (e : SesEnt) (pages : List (Nat × Nat × Nat)) (s : State) : State :=
  forEach pages (fun p s =>
    if p.2.2 ≤ 1 then freeFrames [deFrame p.2.1] s else if p.2.2 = 2 then unshare e.fn (deFrame p.2.1) s else s) s

/-- The image is on the device (R125): the target is recorded, the entries are PARKED, the frames are let go; where an access
fails, all is as it was before (R505). -/
def endPark (o : SesOp) (s : State) : State :=
  match sesEnt o.ses s with
  | none => s
  | some e =>
    let old := homeGet (engReqr e.fn s) (frameOff e.root + 40) 16 s
    let p := pageList e (allEntries e) old.2.2
    let st := Status.worse old.1 p.1
    if !st.good then failPark o st p.2.2 else
    let w := seqSteps (parkWrites e (toBytes 8 (o.kind + 4 * o.port + 16 * o.nsid) ++ toBytes 8 o.target) p.2.1) p.2.2
    if !w.1.good then failPark o w.1 (parkUndo e old.2.1 p.2.1 w.2) else
    let s := match sesEnt o.ses w.2 with
      | some x => putEnt o.ses { x with state := 2, frames := x.leaves + 1 } w.2
      | none => w.2
    completeDesc o.g o.k .ok (imageBytes (imageEntries e).length) 0 0 (dropOp o.g o.k (releasePages e p.2.1 s))

/-- The target of a restore: the one in the root, or with handle 0 the descriptor's (R126). -/
def restoreTarget (d : Desc) (e : Option SesEnt) (s : State) : Status × (Nat × Nat × Nat × Nat) × State :=
  match e with
  | some e =>
    let r := engRead e.fn (frameOff e.root + 40) 16 s
    (r.1, (slice r.2.1 0 2, slice r.2.1 2 2, slice r.2.1 4 32, slice r.2.1 64 64), r.2.2)
  | none => (.ok, (slice (d.word 3) 0 2, slice (d.word 3) 2 2, slice (d.word 3) 4 32, d.word 4), s)

/-- SES_RESTORE (R126): the first 4,096 bytes of the image are asked for. -/
def doSesRestore (g k : Nat) (s : State) : State :=
  sesDesc 0x15 g k s (fun d =>
    if (sesOpAt g k s).isSome then s else
    let n := ringFn g
    let h := wrap 32 (d.word 2)
    let known := if h = 0 then none else sesOf n h s
    let named := if h = 0 then .ok else handleStatus n 0x15 h s
    if sesBehind g k s then s else
    if named ≠ .ok then failDesc g k (Status.worse (sesGate n 0x15 s) named) s else
    let t := restoreTarget d (known.map Prod.snd) s
    let (kind, port, nsid, target) := t.2.1
    let st := Status.worst [sesGate n 0x15 s, t.1, if t.1.good then targetStatus n kind port nsid target 4096 t.2.2 else .ok]
    if st ≠ .ok then failDesc g k st t.2.2 else
    let o : SesOp := { ty := 0x15, g := g, k := k, ses := (known.map Prod.fst).getD 262144, kind := kind, port := port,
                       nsid := nsid, target := target }
    let s := setSes (fun x => { x with ops := x.ops ++ [o] }) t.2.2
    let s := match known with
      | some (i, _) => setState i 3 s
      | none => s
    sendDevice o n 2 0 4096 [] s)

/-- SES_RESTORE. -/
def execSesRestore (g k : Nat) (s : State) : Host.Outcome State Fault Refusal := .next (clocked (doSesRestore g k) s)

/-- A restore fails (R126): the session stays PARKED; of an import no entry was made. -/
def failRestore (o : SesOp) (st : Status) (s : State) : State :=
  endOp o st (if o.ses < 262144 then setState o.ses 2 s else s)

/-- The entry that an image's first 32 bytes hold, as a new session of function `n`. -/
def entryOfImage (n : Nat) (l : List Byte) : SesEnt :=
  let w := fun i => ofBytes ((l.drop (8 * i)).take 8)
  { fn := n, kvFmt := slice (w 0) 12 4, dim := slice (w 0) 16 2, layersM1 := slice (w 0) 18 8, headsM1 := slice (w 0) 26 6,
    gen := 0, len := slice (w 1) 0 23, maxTokens := slice (w 1) 23 23, root := 0 }

/-- The function an image names. -/
def imageFn (l : List Byte) : Nat := slice (ofBytes (l.take 8)) 4 6

/-- The key and nonce of an image, under the park root of the function that reads it (R383). -/
def imageKey (n root : Nat) (l : List Byte) : Nat × Nat :=
  let nonce := ofBytes ((l.drop 64).take 12)
  (Config.parkKey root n nonce, nonce)

/-- The header's tag verifies. -/
def headerTagOk (key nonce : Nat) (l : List Byte) : Bool :=
  gcmTag key nonce (l.take 80) [] % 2 ^ 128 == ofBytes ((l.drop 80).take 16)

/-- The checks of R120 for an import of an image with `p` frames. -/
def importStatus (n p : Nat) (x : SesEnt) (s : State) : Status :=
  createStatus n (geometryBad x.kvFmt x.dim x.layersM1 x.headsM1 x.maxTokens) (x.leaves + 1 + p) s

/-- The first 4,096 bytes of an image have come (R126). -/
def restoreHeader (o : SesOp) (data : List Byte) (s : State) : State :=
  let n := ringFn o.g
  let root := parkRoot n s
  let (key, nonce) := imageKey n root.1 data
  let s := root.2
  let p := ofBytes ((data.drop 76).take 4)
  let fnOk := decide (o.ses < 262144) || imageFn data == n
  let x := entryOfImage n data
  let e := (sesEnt o.ses s).getD x
  let st :=
    if !fnOk then Status.accessDenied
    else if !headerTagOk key nonce data then .dataErr
    else if p ≠ (imageEntries e).length then .dataErr
    else Status.worst
      [ if o.ses < 262144 then (if poolFree n s < p then .quota else .ok)
        else importStatus n p x s,
        targetStatus n o.kind o.port o.nsid o.target (imageBytes p) s ]
  if st ≠ .ok then failRestore o st s else
  let o2 := { o with phase := 1, image := data }
  sendDevice o2 n 2 4096 (imageBytes p - 4096) []
    (setSes (fun z => { z with ops := z.ops.map (fun q => if q = o then o2 else q) }) s)

/-- Frames of an image go into the pages of entry `i`: each takes a frame, its header with REFS 1 and, of an import, the new
session's index and GEN. -/
def placeFrames (i : Nat) (isImport : Bool) : List (Nat × List Byte) → State → Status × State
  | [], s => (.ok, s)
  | (en, b) :: t, s =>
    match sesEnt i s with
    | none => (.accessDenied, s)
    | some e =>
      match takeFrame e.fn s with
      | none => (.quota, s)
      | some (f, s) =>
        let w0 := ofBytes (b.take 8)
        let w0 := if isImport then w0 / 2 ^ 32 * 2 ^ 32 + handleOf i e.gen else w0
        let page := toBytes 8 w0 ++ (b.drop 8).take 8 ++ toBytes 4 1 ++ b.drop 20
        let w := seqSteps [engWrite e.fn (frameOff f) page, putDir e en (deWord f true false false)] s
        if w.1.good then placeFrames i isImport t (addFrames i 1 w.2) else (w.1, freeFrames [f] w.2)

/-- The frames of an image, decrypted; none where a tag does not verify. -/
def openFrames (key nonce p : Nat) (rest : List Byte) : Option (List (List Byte)) :=
  let cts := (List.range p).map (fun j => (rest.drop (tagBytes p + 32768 * j)).take 32768)
  if cts.zipIdx.all (fun c =>
      gcmTag key (frameIv nonce c.2) [] c.1 % 2 ^ 128 == ofBytes ((rest.drop (16 * c.2)).take 16)) then
    some (cts.zipIdx.map (fun c => crypt key nonce c.2 c.1))
  else none

/-- The rest of an image has come (R126): every tag is checked, then the frames are placed. -/
def restoreRest (o : SesOp) (rest : List Byte) (s : State) : State :=
  let n := ringFn o.g
  let root := parkRoot n s
  let (key, nonce) := imageKey n root.1 o.image
  let s := root.2
  let p := ofBytes ((o.image.drop 76).take 4)
  match openFrames key nonce p rest with
  | none => failRestore o .dataErr s
  | some fs =>
    let isNew := decide (262144 ≤ o.ses)
    let x := entryOfImage n o.image
    let made : Status × Nat × State :=
      if !isNew then (.ok, o.ses, s) else if importStatus n p x s ≠ .ok then (importStatus n p x s, 0, s) else makeSes x s
    if !made.1.good then failRestore o made.1 made.2.2 else
    let i := made.2.1
    match sesEnt i made.2.2 with
    | none => failRestore o .aborted made.2.2
    | some e =>
      let w := placeFrames i isNew ((imageEntries e).zip fs) made.2.2
      if w.1.good then
        completeDesc o.g o.k .ok (e.handle i) 0 0 (dropOp o.g o.k (setState i 0 w.2))
      else if isNew then
        let u := eraseSes i w.2
        endOp o w.1 (setSes (fun z => { z with gens := put i e.gen z.gens }) u.2.2)
      else
        -- the frames taken are freed and the entries PARKED again
        let u := dropEntries e (fun _ _ => some (deWord 0 false false true)) (imageEntries e) w.2
        let s := match sesEnt i u.2.2 with
          | some e => putEnt i { e with frames := e.leaves + 1 } u.2.2
          | none => u.2.2
        failRestore o w.1 s

/-- A device request of a park or restore is over (R125, R126). -/
def deviceAnswer (id : Nat) (st : Status) (data : List Byte) (s : State) : State :=
  match s.ses.ops.find? (fun o => opId o.g o.k == id) with
  | none => s
  | some o =>
    if o.ty = 0x14 then
      if st ≠ .ok then failPark o st s
      else if o.phase = 0 ∧ o.kind = 1 then
        let o2 := { o with phase := 1 }
        sendDevice o2 (ringFn o.g) 1 0 0 [] (setSes (fun z => { z with ops := z.ops.map (fun q => if q = o then o2 else q) }) s)
      else endPark o s
    else if st ≠ .ok then failRestore o st s
    else if o.phase = 0 then restoreHeader o data s
    else restoreRest o data s

/-- The status of an NVMe or CXL outcome (Table 7): 0 Successful Completion, 1 LBA Out of Range, 2 Invalid Field, Invalid
Opcode or Invalid Namespace, 3 Namespace Not Ready, 4 Controller Fatal Status or link down; any other is an error. -/
def deviceStatus (outcome : Nat) : Status :=
  match outcome with
  | 0 => .ok
  | 1 => .accessDenied
  | 2 => .unsupported
  | 3 => .refused
  | 4 => .unreachable
  | _ => .dataErr

/-- `s` with what it keeps of DSP_p changed. -/
def setDs (p : Nat) (f : DsPort → DsPort) (s : State) : State := { s with host := { s.host with ds := modD {} p f s.host.ds } }

/-- The tag of a shutdown notification, which is no host-class request (R331). -/
def shutdownTag : Nat := 4096

/-- DS_DEVICE_COMPLETION (R331, R333): the device at DSP_p answers the request with a tag, or the shutdown notification. -/
def doDsDeviceCompletion (p tag outcome : Nat) (data : List Byte) (s : State) : State :=
  if tag = shutdownTag then setDs p (fun x => if x.shutAt.isSome then { x with shutDone := true } else x) s else
  match reqOf 3 78 tag s with
  | none => if s.timers.tombs.any (fun t => t.cls == 3 && t.port == 78 && t.tag == tag) then bump TMO_COUNT_LATE_DROP 0 1 s else s
  | some r =>
    match r.purpose with
    | .device port id => if port = p then deviceAnswer id (deviceStatus outcome) data (retireReq r s) else s
    | _ => s

/-- DS_DEVICE_COMPLETION. -/
def execDsDeviceCompletion (p tag outcome : Nat) (data : List Byte) (s : State) : Host.Outcome State Fault Refusal :=
  .next (clocked (doDsDeviceCompletion p tag outcome data) s)

/-! ## Mirror and migrate (R127, R128) -/

/-- SES_MIRROR is denied to a locked function without a secure twin link in confidential mode (R396). -/
def mirrorDenied (n : Nat) (s : State) : Bool :=
  rdb SEC_STATUS_CONFIDENTIAL 0 s && (rd FUNC_CFG_TDI n s == 1 || rd FUNC_CFG_TDI n s == 2) &&
  !(rdb SYR_PORT_SECURE 18 s && rdb SYR_PORT_SECURE 19 s)

/-- The twin's answer to a replica's creation: a status and the replica's handle. -/
def mirrorAnswer (o : SesOp) (st : Status) (handle : Nat) (s : State) : State :=
  match sesEnt o.ses s with
  | none => s
  | some e =>
    if st ≠ .ok then endOp o st (setState o.ses 0 s) else
    let e := { e with twinIndex := handle % 2 ^ 18, twinGen := handle / 2 ^ 18, twinValid := true, mirTag := 0 }
    let o2 := { o with phase := 1 }
    let s := setSes (fun z => { z with ops := z.ops.map (fun q => if q = o then o2 else q) }) (putEnt o.ses e s)
    let w := mirrorFrames o.ses e (allEntries e) s
    if w.1.good then mirrorDone o.ses (mirrorCommit o.ses e.len w.2) else breakMirror o.ses w.1 true w.2

/-- The twin's answer to an operation that has ended: the replica it has made is deleted (R127). -/
def orphanAnswer (g k : Nat) (st : Status) (handle : Nat) (s : State) : State :=
  match s.ses.orphans.find? (fun p => p.1 == g && p.2.1 == k) with
  | none => s
  | some p =>
    let s := setSes (fun x => { x with orphans := x.orphans.erase p }) s
    if st = .ok then tellHub (twinId s) 2 [handle % 2 ^ 18, p.2.2] s else s

/-- SES_MIRROR (R127): with ENABLE = 1 the twin is asked for a replica; `ans` is its answer, a status and a handle. With
ENABLE = 0 the replica is deleted. -/
def doSesMirror (g k : Nat) (ans : Option (Status × Nat)) (s : State) : State :=
  match sesOpAt g k s, ans with
  | some o, some (st, handle) => if o.ty = 0x16 ∧ o.phase = 0 then mirrorAnswer o st handle s else s
  | some _, none => s
  | none, some (st, handle) => orphanAnswer g k st handle s
  | none, none =>
    onSession 0x16 g k (fun d _ e =>
        Status.worse (if mirrorDenied e.fn s then .accessDenied else .ok)
          (if bit (d.word 2) 32 ∧ !e.mirror ∧ (goodPorts 6 s).isEmpty then .unreachable else .ok)) (fun d i e =>
      let twin := handleOf e.twinIndex e.twinGen
      if bit (d.word 2) 32 then
        if e.mirror then completeDesc g k .ok twin 0 0 s else
        let o : SesOp := { ty := 0x16, g := g, k := k, ses := i }
        tellHub (twinId s) 1 (e.words ++ [i]) (setState i 5 (setSes (fun x => { x with ops := x.ops ++ [o] }) s))
      else if !e.mirror then completeDesc g k .ok 0 0 0 s
      else
        let s := dropReplica i e s
        completeDesc g k .ok twin 0 0 (putEnt i { e with mirror := false, twinValid := false, twinIndex := 0, twinGen := 0 } s)) s

/-- SES_MIRROR. -/
def execSesMirror (g k : Nat) (ans : Option (Status × Nat)) (s : State) : Host.Outcome State Fault Refusal :=
  .next (clocked (doSesMirror g k ans) s)

/-- The destination's answer to a migration: on OK the source deletes its copy (R128). -/
def migrateAnswer (o : SesOp) (st : Status) (handle : Nat) (s : State) : State :=
  if st ≠ .ok then endOp o st (setState o.ses 0 s) else
  let r := eraseSes o.ses s
  completeDesc o.g o.k r.1 handle 0 0 (dropOp o.g o.k r.2.2)

/-- What a migration takes to the other hub (R128; log entry 31): the entry's words, its index, its pending range, and every
resident page, by directory entry. -/
def migrateBundle (i : Nat) (e : SesEnt) (s : State) : Status × (List Nat × List Byte) × State :=
  let pe := homeGet (engReqr e.fn s) (frameOff e.root) 36 s
  let p := pageList e (allEntries e) pe.2.2
  let ens := p.2.1.map Prod.fst
  let f := readFrames e ens p.2.2
  (Status.worst [pe.1, p.1, f.1], (e.words ++ i :: ens, pe.2.1 ++ f.2.1.flatten), f.2.2)

/-- SES_MIGRATE (R128): the session goes to DEST_HUB with its pages; `ans` is its answer, a status and the new handle. -/
def doSesMigrate (g k : Nat) (ans : Option (Status × Nat)) (s : State) : State :=
  match sesOpAt g k s, ans with
  | some o, some (st, handle) => if o.ty = 0x17 then migrateAnswer o st handle s else s
  | some _, none => s
  | none, _ =>
    onSession 0x17 g k (fun d _ _ =>
        let dest := slice (d.word 2) 32 12
        if dest = rd HUB_ID_ID 0 s then .unsupported
        else if !rdb SYR_ROUTE_VALID dest s then .unreachable else .ok) (fun d i e =>
      let o : SesOp := { ty := 0x17, g := g, k := k, ses := i }
      let b := migrateBundle i e s
      if !b.1.good then failDesc g k b.1 b.2.2 else
      tellFirmware (4096 * rd HUB_ID_TWIN 0 s + slice (d.word 2) 32 12) 4 b.2.1.1 b.2.1.2
        (setState i 4 (setSes (fun x => { x with ops := x.ops ++ [o] }) b.2.2))) s

/-- SES_MIGRATE. -/
def execSesMigrate (g k : Nat) (ans : Option (Status × Nat)) (s : State) : Host.Outcome State Fault Refusal :=
  .next (clocked (doSesMigrate g k ans) s)

end Sys2Proof.Machine
end

