-- ==== Sys2Proof/Machine/Attention.lean ====
section
/-! DEFINITION. Sys2Proof/Machine/Attention.lean: the attention service: batches, sketch selection, work items, appends and
result records (spec/06_attention_service.md R136 to R158). -/

namespace Sys2Proof.Machine

open Sys2Proof

/-! ## The descriptor (Table 1) -/

/-- KERNEL: 1 DECODE, 2 PREFILL, 3 CUSTOM_DECODE. -/
def atKernel (d : Desc) : Nat := slice (d.word 2) 0 4
/-- LAYER. -/
def atLayer (d : Desc) : Nat := slice (d.word 2) 16 8
/-- Query heads per KV head, G. -/
def atG (d : Desc) : Nat := slice (d.word 2) 24 4 + 1
/-- New tokens per stream, C. -/
def atC (d : Desc) : Nat := slice (d.word 2) 28 7 + 1
/-- APPEND. -/
def atAppend (d : Desc) : Bool := bit (d.word 2) 35
/-- STAGED. -/
def atStaged (d : Desc) : Bool := bit (d.word 2) 36
/-- SINK_PAGES. -/
def atSink (d : Desc) : Nat := slice (d.word 2) 37 4
/-- Last pages that selection always keeps. -/
def atRecent (d : Desc) : Nat := slice (d.word 2) 41 8 + 1
/-- ARRIVE. -/
def atArrive (d : Desc) : Nat := slice (d.word 2) 49 10
/-- ARRIVE_EN. -/
def atArriveEn (d : Desc) : Bool := bit (d.word 2) 59
/-- ARRIVE_PER_TILE. -/
def atPerTile (d : Desc) : Bool := bit (d.word 2) 60
/-- LAYOUT. -/
def atLayout (d : Desc) : Nat := slice (d.word 2) 61 1
/-- Slots in the areas. -/
def atSlots (d : Desc) : Nat := slice (d.word 3) 32 16 + 1
/-- Q_BASE, O_BASE, NEW_BASE and AUX_BASE. -/
def atQ (d : Desc) : Nat := slice (d.word 4) 0 44
/-- O_BASE. -/
def atO (d : Desc) : Nat := slice (d.word 5) 0 44
/-- NEW_BASE. -/
def atNew (d : Desc) : Nat := slice (d.word 6) 0 44
/-- AUX_BASE. -/
def atAux (d : Desc) : Nat := slice (d.word 7) 0 44
/-- Bytes per query and output slot. -/
def atQStride (d : Desc) : Nat := 64 * slice (d.word 4) 44 20
/-- Bytes per staging slot. -/
def atNewStride (d : Desc) : Nat := 64 * slice (d.word 5) 44 20
/-- Result size rounded up, WR of Table 2. -/
def atWr (d : Desc) : Nat := ceilDiv (4 * atSlots d) 4096 * 4096
/-- First byte of the work area. -/
def atWork (d : Desc) : Nat := atAux d + 4096 + atWr d
/-- Bytes of the work area. -/
def workBytes : Nat := 32 * 2 ^ 20
/-- CUSTOM_DECODE. -/
def atCustom (d : Desc) : Bool := atKernel d == 3

/-- Where query row `r` of KV head `h` of a slot stands after its base (R137): rows are counted over new tokens, then group
members. -/
def queryOff (d : Desc) (e : SesEnt) (slot h r : Nat) : Nat :=
  atQStride d * slot + 2 * e.d * ((r / atG d * e.heads + h) * atG d + r % atG d)

/-- Where the staging rows of a slot stand. -/
def stagingAt (d : Desc) (slot : Nat) : Nat := atNew d + atNewStride d * slot

/-! ## Acceptance (R140, R141, Table 4) -/

/-- A range lies in extents of function `n` and holds no frame of the session engine's. -/
def areaOwned (n off len : Nat) (s : State) : Bool :=
  len == 0 ||
  ((List.range ((off + len - 1) / 2 ^ 30 - off / 2 ^ 30 + 1)).all (fun i => extOwned n (off / 2 ^ 30 + i) s) &&
   !(s.mem.held.any (fun h => decide (h.2.1 * 32768 < off + len) && decide (off < (h.2.1 + h.2.2) * 32768))))

/-- SM_SCALE is finite and above 0. -/
def scaleOk (d : Desc) : Bool :=
  match f32 (slice (d.word 3) 0 32) with
  | .fin neg m _ => !neg && m != 0
  | _ => false

/-- The tiles of the owner's partition, in order. -/
def ownerTiles (n : Nat) (s : State) : List Nat := (List.range 64).filter (fun t => tileOwned n t s)

/-- Those that are in service. -/
def liveTiles (n : Nat) (s : State) : List Nat := (ownerTiles n s).filter (fun t => tileServes t s)

/-- The descriptor has a reserved value, a field its kernel forbids, or an address that is not aligned. -/
def batchBad (n : Nat) (d : Desc) (s : State) : Bool :=
  atKernel d == 0 || decide (3 < atKernel d) || slice (d.word 2) 4 4 != 0 || slice (d.word 2) 62 2 != 0 ||
  decide (64 < atC d) || d.word 3 / 2 ^ 48 != 0 || d.word 6 / 2 ^ 44 != 0 || d.word 7 / 2 ^ 44 != 0 || !scaleOk d ||
  (atKernel d != 2 && atC d != 1) || (atStaged d && atKernel d != 1) || atQ d % 64 != 0 || atO d % 64 != 0 ||
  atNew d % 64 != 0 || atAux d % 4096 != 0 ||
  (atCustom d && (liveTiles n s).any (fun t => !(rdb GRV_PROG_CUSTOM_LOADED t s && rd GRV_PROG_CUSTOM_OWNER t s == n)))

/-- What the checks of Table 4 answer. -/
def batchStatus (n : Nat) (d : Desc) (s : State) : Status :=
  let areas := [(atQ d, atQStride d * atSlots d), (atO d, atQStride d * atSlots d), (atNew d, atNewStride d * atSlots d),
                (atAux d, 4096 + atWr d + workBytes)]
  Status.worst [
    if areas.all (fun a => areaOwned n a.1 a.2 s) && (!atArriveEn d || arrivalOwned n (atArrive d) s) then .ok else .accessDenied,
    if batchBad n d s then .unsupported else .ok,
    if rdb ATTN_CTL_ENABLE 0 s then .ok else .refused ]

/-- A stream meets the conditions of R142. `slots` are the slots that the streams of the batch hold. -/
def streamServed (d : Desc) (slots : List Nat) (x : StrEnt) (s : State) : Bool :=
  match sesEnt x.session s with
  | none => false
  | some e =>
    decide (atLayer d < e.layers) && decide (2 * e.d * atC d * e.heads * atG d ≤ atQStride d) &&
    decide (4 * e.d * atC d * e.heads ≤ atNewStride d) && decide ((slots.filter (· == x.qSlot)).length ≤ 1) &&
    !(atCustom d && x.sketchSel) && decide (x.qSlot < atSlots d)

/-- The stream set of a batch, fixed when it is accepted (R141). -/
def streamSet (n : Nat) (d : Desc) (s : State) : List AStr :=
  let set := s.ses.streams.filter (fun p => p.2.fn == n && p.2.batch == slice (d.word 2) 8 8)
  let slots := set.map (fun p => p.2.qSlot)
  set.map (fun p =>
    let ok := streamServed d slots p.2 s
    { idx := p.1, ses := p.2.session, slot := p.2.qSlot, len := p.2.pos, gen := p.2.gen,
      budget := if atKernel d = 1 ∧ p.2.sketchSel ∧ p.2.pageBudget ≠ 0 then some p.2.pageBudget else none,
      served := ok, ended := !ok, status := if ok then .ok else .unsupported })

/-- The session of a stream of a batch, while it is the one that the batch was accepted with (log entry 129). -/
def AStr.live (x : AStr) (s : State) : Option SesEnt := (sesEnt x.ses s).bind (fun e => if e.gen = x.gen then some e else none)

/-- The batches of the hub. -/
def setAttn (f : List ABatch → List ABatch) (s : State) : State := { s with attn := { s.attn with batches := f s.attn.batches } }

/-- `s` with the batch of a number changed. -/
def setABatch (id : Nat) (f : ABatch → ABatch) (s : State) : State :=
  setAttn (fun l => l.map (fun b => if b.id = id then f b else b)) s

/-- The batch of a number. -/
def aBatchOf (id : Nat) (s : State) : Option ABatch := s.attn.batches.find? (fun b => b.id == id)

/-- ATTN_BATCH (R140, R141): the batch is checked as a whole and accepted with its stream set, or completes. -/
def doAttnBatch (g k : Nat) (s : State) : State :=
  match runningDesc g k 0x0A s with
  | none => s
  | some d =>
    if s.attn.batches.any (fun b => b.g == g && b.k == k) then s else
    let n := ringFn g
    let st := batchStatus n d s
    if st ≠ .ok then failDesc g k st (bump ATTN_COUNT_BATCHES n 1 s) else
    let s := count ctlUnit 0xC4 (some n) 1 s
    let b : ABatch := { id := s.attn.nextId, g := g, k := k, fn := n, num := slice (d.word 2) 8 8, streams := streamSet n d s,
                        owing := if atArriveEn d && atPerTile d then ownerTiles n s else [] }
    { s with attn := { batches := s.attn.batches ++ [b], nextId := s.attn.nextId + 1 } }

/-- ATTN_BATCH. -/
def execAttnBatch (g k : Nat) (s : State) : Host.Outcome State Fault Refusal := .next (clocked (doAttnBatch g k) s)

/-! ## Sketch selection (R150 to R153) -/

/-- The bound of a page for one query (R151): `q`, `hi` and `lo` in BF16. -/
def queryBound (q hi lo : List Nat) : Nat :=
  let terms := (q.zip (hi.zip lo)).map (fun p =>
    let v := decodeF bf16 p.1
    fmax (fmul v (decodeF bf16 p.2.1)) (fmul v (decodeF bf16 p.2.2)))
  nth 0 (treeRun 1 (Nat.log2 terms.length) terms).1 0

/-- The bound of a page over the queries of its KV head. -/
def pageBound (qs : List (List Nat)) (sk : List Nat) : Nat :=
  match qs.map (fun q => queryBound q (sk.take q.length) ((sk.drop q.length).take q.length)) with
  | [] => 0
  | b :: t => t.foldl fmax b

/-- A bound is finite. -/
def boundFinite (u : Nat) : Bool := match f32 u with | .fin _ _ _ => true | _ => false

/-- The threshold search of R152 over the candidates' bounds: lo and hi at its end. -/
def threshold (k : Nat) (us : List Nat) : Nat → Nat × Nat → Nat × Nat
  | 0, b => b
  | n + 1, b =>
    let mid := fadd b.1 (fmul (f32 (fsub b.2 b.1)) (f32 0x3F000000))
    let ge := decide (k ≤ (us.filter (fun u => fge u mid)).length)
    threshold k us n (if ge then (mid, b.2) else (b.1, mid))

/-- The pages of one KV head (R150, R153), with each page's bound: none where no selection runs. -/
def selectPages (k sink recent : Nat) (us : List Nat) : Option (List Nat) :=
  let pages := us.zipIdx.map (fun p => (p.2, p.1))
  let forced := fun (p : Nat × Nat) => decide (p.1 < sink) || decide (us.length ≤ p.1 + recent) || !boundFinite p.2
  let cands := pages.filter (fun p => !forced p)
  if cands.length ≤ k then none else
  match cands.map Prod.snd with
  | [] => none
  | u :: t =>
    let b := threshold k (u :: t) 24 (t.foldl fmin u, t.foldl fmax u)
    let high := (cands.filter (fun p => fge p.2 b.2)).take k
    let low := (cands.filter (fun p => fge p.2 b.1 && !fge p.2 b.2)).take (k - high.length)
    let chosen := (high ++ low).map Prod.fst
    some ((pages.filter (fun p => forced p || chosen.contains p.1)).map Prod.fst)

/-- The session's lines are read by the panel mover of TILE_t as a coherent agent, which allocates none (R149). -/
def rowReqr (n t : Nat) : Reqr := .engine n false t

/-- The sketches of pages `o` on, for selection, read by the mover of TILE_t; the empty sketch where there is no page. -/
def readSketches (t : Nat) (e : SesEnt) (l h : Nat) : List Nat → State → Status × List (List Nat) × State
  | [], s => (.ok, [], s)
  | o :: os, s =>
    let f := dirEntryBy (rowReqr e.fn t) e (e.entryNo l h o) s
    let x : Status × List Byte × State :=
      if !f.1.good then (f.1, [], f.2.2)
      else if deParked f.2.1 then (.unreachable, [], f.2.2)
      else if !deValid f.2.1 then (.ok, emptySketch e.d, f.2.2)
      else homeGet (rowReqr e.fn t) (frameOff (deFrame f.2.1) + 64) (4 * e.d) f.2.2
    let y := readSketches t e l h os x.2.2
    (Status.worse x.1 y.1, halfWords x.2.1 :: y.2.1, y.2.2)

/-- Query rows of one KV head, read by the mover of TILE_t, in BF16. -/
def readQueries (t : Nat) (d : Desc) (e : SesEnt) (slot h : Nat) : List Nat → State → Status × List (List Nat) × State
  | [], s => (.ok, [], s)
  | r :: rs, s =>
    let x := homeGet (.agent e.fn t) (atQ d + queryOff d e slot h r) (2 * e.d) s
    let y := readQueries t d e slot h rs x.2.2
    (Status.worse x.1 y.1, halfWords x.2.1 :: y.2.1, y.2.2)

/-- Pages of a stream's snapshot. -/
def AStr.pageCount (x : AStr) (e : SesEnt) : Nat := ceilDiv x.len e.n

/-- The selection of each KV head of a stream (R150), in order, with the reads of TILE_t's mover. -/
def selectHeads (t : Nat) (d : Desc) (k : Nat) (e : SesEnt) (x : AStr) :
    List Nat → State → Status × List (Option (List Nat)) × State
  | [], s => (.ok, [], s)
  | h :: hs, s =>
    let q := readQueries t d e x.slot h (List.range (atG d)) s
    let z := readSketches t e (atLayer d) h (List.range (x.pageCount e)) q.2.2
    let p := if q.1.good && z.1.good then selectPages k (atSink d) (atRecent d) (z.2.1.map (pageBound q.2.1)) else none
    let y := selectHeads t d k e x hs z.2.2
    (Status.worst [q.1, z.1, y.1], p :: y.2.1, y.2.2)

/-- A served stream with its page lists (R150) and the pages it is planned to read (Table 3; log entry 130). -/
def planStream (t : Nat) (d : Desc) (x : AStr) (s : State) : AStr × State :=
  match x.live s with
  | none => ({ x with status := .aborted }, s)
  | some e =>
    let heads := List.range e.heads
    let r : Status × List (Option (List Nat)) × State := match x.budget with
      | some k => selectHeads t d k e x heads s
      | none => (.ok, heads.map (fun _ => none), s)
    let count := r.2.1.foldl (fun n p => n + match p with | some l => l.length | none => x.pageCount e) 0
    ({ x with picks := r.2.1, selected := r.2.1.any Option.isSome, pages := sat 24 count,
              status := if r.1.good then .ok else r.1 }, r.2.2)

/-- The streams of a batch planned in order. -/
def planAll (t : Nat) (d : Desc) : List AStr → State → List AStr × State
  | [], s => ([], s)
  | x :: xs, s =>
    let a := if x.served then planStream t d x s else (x, s)
    let b := planAll t d xs a.2
    (a.1 :: b.1, b.2)

/-! ## Items (R145) -/

/-- The rows of a page below a snapshot length. -/
def rowsOf (e : SesEnt) (len o : Nat) : Nat := min e.n (len - o * e.n)

/-- Tokens of the snapshot that KV head `h` of a stream attends. -/
def AStr.gathered (x : AStr) (e : SesEnt) (h : Nat) : Nat :=
  match nth none x.picks h with
  | some l => (l.map (rowsOf e x.len)).sum
  | none => x.len

/-- Query rows of a head. -/
def headRows (d : Desc) : Nat := atC d * atG d

/-- Tokens that a pass attends (R143, R145): a PREFILL pass those of its last row. -/
def AStr.attended (x : AStr) (d : Desc) (e : SesEnt) (h pass : Nat) : Nat :=
  x.gathered e h + (if atKernel d = 2 then min (8 * pass + 7) (headRows d - 1) / atG d + 1 else b2n (atStaged d))

/-- Passes of a head; an item of CUSTOM_DECODE is a whole head. -/
def passCount (d : Desc) : Nat := if atCustom d then 1 else ceilDiv (headRows d) 8

/-- The passes of the served streams in order: stream's place, head, pass, units. -/
def passesOf (d : Desc) (xs : List AStr) (s : State) : List (Nat × Nat × Nat × Nat) :=
  xs.zipIdx.flatMap (fun p =>
    match p.1.live s with
    | none => []
    | some e =>
      if !p.1.served || p.1.status != .ok then [] else
      (List.range e.heads).flatMap (fun h => (List.range (passCount d)).map (fun q =>
        (p.2, h, q, ceilDiv (p.1.attended d e h q) 512))))

/-- The segments of a pass that begins at unit `at'` of the deal: place in the tile list, first and last unit. -/
def segments (n share at' units : Nat) : List (Nat × Nat × Nat) :=
  if units = 0 then [(min (at' / share) (n - 1), 0, 0)] else
  (List.range n).filterMap (fun t =>
    let lo := max at' (t * share)
    let hi := min (at' + units) ((t + 1) * share)
    if lo < hi then some (t, lo - at', hi - at') else none)

/-- Passes dealt in shares, cut where a share ends (R145 steps 3 and 4). -/
def dealShares (tiles : List Nat) (ps : List (Nat × Nat × Nat × Nat)) : List AItem :=
  let total := (ps.map (fun p => p.2.2.2)).sum
  let share := ceilDiv total tiles.length
  (ps.foldl (fun (acc : Nat × List AItem) p =>
    let segs := segments tiles.length share acc.1 p.2.2.2
    (acc.1 + p.2.2.2, acc.2 ++ segs.map (fun g =>
      { str := p.1, head := p.2.1, pass := p.2.2.1, lo := g.2.1, hi := g.2.2, segs := segs.length,
        tile := nth 0 tiles g.1, home := nth 0 tiles g.1 }))) (0, [])).2

/-- The place of the least element, the lowest where several are. -/
def leastAt (l : List Nat) : Nat :=
  (l.zipIdx.foldl (fun (b : Nat × Nat) p => if p.1 < b.1 then (p.1, p.2) else b) (nth 0 l 0, 0)).2

/-- Passes dealt whole to the tile with the fewest units (R145 step 5). -/
def dealWhole (tiles : List Nat) (ps : List (Nat × Nat × Nat × Nat)) : List AItem :=
  (ps.foldl (fun (acc : List Nat × List AItem) p =>
    let i := leastAt acc.1
    (modNth i (· + p.2.2.2) acc.1, acc.2 ++ [{ str := p.1, head := p.2.1, pass := p.2.2.1, lo := 0, hi := p.2.2.2,
                                               tile := nth 0 tiles i, home := nth 0 tiles i }]))
    (tiles.map (fun _ => 0), [])).2

/-- The items of a batch. -/
def dealItems (d : Desc) (tiles : List Nat) (xs : List AStr) (s : State) : List AItem :=
  let ps := passesOf d xs s
  if atCustom d || !rdb ATTN_CTL_SPLIT_EN 0 s then dealWhole tiles ps else dealShares tiles ps

/-! ## The end of streams and batches -/

/-- The items of the stream at place `i` that are not done. -/
def ABatch.left (b : ABatch) (i : Nat) : Bool := b.items.any (fun x => x.str == i && !x.done)

/-- The additions to ARRIVE that are due (R146): of tiles whose own items are all done. -/
def settleArrive (id : Nat) (d : Desc) (s : State) : State :=
  match aBatchOf id s with
  | none => s
  | some b =>
    let fin := b.owing.filter (fun t => !b.items.any (fun x => x.home == t && !x.done))
    if fin.isEmpty then s else
    arrivalAdd (atArrive d) fin.length (setABatch id (fun b => { b with owing := b.owing.filter (fun t => !fin.contains t) }) s)

/-- `s` with the stream at place `i` of a batch changed. -/
def setStr (id i : Nat) (f : AStr → AStr) (s : State) : State := setABatch id (fun b => { b with streams := modNth i f b.streams }) s

/-- The worst status of the items of a stream. -/
def ABatch.itemStatus (b : ABatch) (i : Nat) : Status := Status.worst ((b.items.filter (fun x => x.str == i)).map AItem.status)

/-- An operation on a session that started before place `q` has not completed (R118); what holds none back is as for
`sesBehind`. -/
def sesEarlier (fn handle q : Nat) (s : State) : Bool :=
  s.rings.descs.any (fun e => decide (e.st = .started) && decide (e.seq < q) && ringFn e.ring == fn && opHandle e == some handle &&
    (sesOpAt e.ring e.count s).isNone && !sesHeld fn (wrap 8 (e.word 0)) s)

/-- The stream at place `i`, whose items are all done, is over: appended where the batch asks and all went well, once the
operations on its session that started before are over (R144). -/
def settleStream (id i : Nat) (d : Desc) (s : State) : State :=
  match aBatchOf id s with
  | none => s
  | some b =>
    match b.streams[i]? with
    | none => s
    | some x =>
      if x.ended ∨ b.left i then s else
      let st := Status.worse x.status (b.itemStatus i)
      if st ≠ .ok ∨ !atAppend d then setStr id i (fun x => { x with ended := true, status := st }) s else
      match x.live s with
      | none => setStr id i (fun x => { x with ended := true, status := .aborted }) s
      | some e =>
        let src := stagingAt d x.slot
        let place := x.seq.getD s.rings.nextSeq
        let s := setStr id i (fun x => { x with seq := some place }) s
        if sesEarlier b.fn (handleOf x.ses x.gen) place s then s else
        if !appendReady e (atC d) 0 src s then claim (.agent e.fn (moverPort e.fn s)) src (appendBytes e (atC d) 0) false s else
        let chk := Status.worst [sesGate b.fn 0x12 s, if tableRuns 0x12 e then .ok else .refused,
          appendStatus e (atLayer d) 0 x.len (atC d) (pendingOf e s).2.1]
        let r := if chk ≠ .ok then (chk, s) else appendRun x.ses e (atLayer d) (atC d) 0 x.len src s
        setStr id i (fun x => { x with ended := true, appended := r.1.good, status := if r.1.good then .ok else r.1 }) r.2

/-- The record of a slot (R139, Table 3). -/
def slotRecord (b : ABatch) (slot : Nat) : Nat :=
  match b.streams.find? (fun x => x.slot == slot) with
  | none => 0
  | some x => x.status.code + 2 ^ 4 + 2 ^ 5 * b2n x.appended + 2 ^ 6 * b2n x.selected + 2 ^ 8 * x.pages

/-- Every stream is over: the records are written and the batch completes (R139, R146, R157). -/
def settleEnd (id : Nat) (d : Desc) (s : State) : State :=
  match aBatchOf id s with
  | none => s
  | some b =>
    let at' := atAux d + 4096
    let len := 4 * atSlots d
    if !b.running ∨ b.streams.any (fun x => !x.ended) ∨ b.items.any (fun x => !x.done) then s
    else if !claimed at' len true s then claim (.agent b.fn) at' len true s else
    let w := homePut (.agent b.fn) at' ((List.range (atSlots d)).flatMap (fun i => toBytes 4 (slotRecord b i))) s
    let st := Status.worst (w.1 :: b.streams.map AStr.status)
    let served := (b.streams.filter AStr.served).length
    let failed := (b.streams.filter (fun x => x.status != .ok)).length
    let s := spoil (atWork d) workBytes w.2
    let s := s |> bump ATTN_COUNT_BATCHES b.fn 1 |> bump ATTN_COUNT_FAILED b.fn failed
    let s := if atArriveEn d && !atPerTile d then arrivalAdd (atArrive d) 1 s else s
    completeDesc b.g b.k st served 0 b.flags (setAttn (fun l => l.filter (fun x => x.id != id)) s)

/-- A batch goes as far as it can without an item. -/
def settleBatch (id : Nat) (s : State) : State :=
  match aBatchOf id s with
  | none => s
  | some b =>
    match descOf b.g b.k s with
    | none => s
    | some d =>
      if !b.running then s else
      let s := settleArrive id d s
      let s := forEach (List.range b.streams.length) (fun i s => settleStream id i d s) s
      settleEnd id d s

/-- Every batch goes as far as it can. -/
def settleBatches (s : State) : State := forEach (s.attn.batches.map ABatch.id) settleBatch s

/-! ## Start (R141) -/

/-- A batch may start: 16 run at most, one of a function and BATCH number at a time, and a tile of the owner is in service. -/
def mayStart (b : ABatch) (s : State) : Bool :=
  !b.running && decide ((s.attn.batches.filter ABatch.running).length < 16) && !(liveTiles b.fn s).isEmpty &&
  !(s.attn.batches.any (fun x => decide (x.id < b.id) && x.fn == b.fn && x.num == b.num))

/-- The queries that selection reads. -/
def selectClaims (d : Desc) (b : ABatch) : List (Nat × Nat) :=
  b.streams.filterMap (fun x => if x.served && x.budget.isSome then some (atQ d + atQStride d * x.slot, atQStride d) else none)

/-- The works of a batch join their tiles' queues. -/
def queueItems (b : ABatch) (s : State) : State :=
  forEach b.items.zipIdx (fun p s => queueWork p.1.tile { kind := 2, fn := b.fn, g := b.id, k := p.2, ring := b.g } s) s

/-- ATTN_BATCH_START (R141, R145, R150): the first batch in acceptance order that may start has its pages selected and its
items dealt. -/
def doAttnBatchStart (s : State) : State :=
  match s.attn.batches.find? (fun b => mayStart b s) with
  | none => s
  | some b =>
    match descOf b.g b.k s with
    | none => s
    | some d =>
      let tiles := liveTiles b.fn s
      match (selectClaims d b).find? (fun p => !claimed p.1 p.2 false s) with
      | some p => claim (.agent b.fn (nth 79 tiles 0)) p.1 p.2 false s
      | none =>
        -- the selection phase reads through the mover of the owner's first tile (log entry 131)
        let r := planAll (nth 79 tiles 0) d b.streams s
        let b := { b with running := true, streams := r.1, items := dealItems d tiles r.1 r.2 }
        settleBatch b.id (queueItems b (spoil (atWork d) workBytes (setABatch b.id (fun _ => b) r.2)))

/-- ATTN_BATCH_START. -/
def execAttnBatchStart (s : State) : Host.Outcome State Fault Refusal := .next (clocked doAttnBatchStart s)

/-! ## An item on its engine -/

/-- A panel entry of a KV kind (R155). -/
def kvEntry (kind handle layer head first count : Nat) : List Nat :=
  [kind, handle + 2 ^ 32 * layer + 2 ^ 40 * head, first + 2 ^ 23 * count, 0]

/-- A zero panel of `rows` rows. -/
def zeroEntry (rows : Nat) : List Nat := [2 ^ 8 * (rows - 1), 0, 0, 0]

/-- TP of R155. -/
def panelTokens (e : SesEnt) : Nat := if e.kvFmt = 3 ∧ e.d = 256 then 256 else 512

/-- NK of R155: K panels after padding. -/
def paddedPanels (layout np : Nat) : Nat := if layout = 0 then 2 * ceilDiv np 2 else 2 * ceilDiv (np + 1) 2

/-- The four panel lists of a custom item (R155): `kind` 2 for K, 3 for V; panel `j`, or a zero panel where there is none. -/
def customLists (d : Desc) (e : SesEnt) (handle slot head len : Nat) : List (List (List Nat)) :=
  let tp := panelTokens e
  let np := ceilDiv len tp
  let nk := paddedPanels (atLayout d) np
  let rows := ceilDiv (2 * atG d * e.d) 1024
  let query := [1 + 2 ^ 4 * 1 + 2 ^ 8 * (rows - 1), atQ d + queryOff d e slot head 0, 0, 0]
  let out := [2 ^ 8 * (rows - 1) + 2 ^ 15 + 2 ^ 16 * (rows - 1), 0, 0, atO d + queryOff d e slot head 0]
  let panel := fun (kind : Nat) (j : Int) =>
    if 0 ≤ j ∧ j < np then kvEntry kind handle (atLayer d) head (tp * j.toNat) (min tp (len - tp * j.toNat))
    else zeroEntry (tp / tokensPerRow e)
  let js := List.range nk
  let odd := js.filter (fun j => j % 2 == 1)
  let even := js.filter (fun j => j % 2 == 0)
  if atLayout d = 0 then
    [ [query] ++ js.map (fun (j : Nat) => panel 2 (j : Int)) ++ [out], js.map (fun (j : Nat) => panel 3 (j : Int)), [], [] ]
  else
    [ [query] ++ even.map (fun (j : Nat) => panel 2 (j : Int)) ++ [out], odd.map (fun (j : Nat) => panel 3 ((j : Int) - 1)), odd.map (fun (j : Nat) => panel 2 (j : Int)),
      even.map (fun (j : Nat) => panel 3 ((j : Int) - 1)) ]

/-- The launch block of a custom item (R154): the template with its SCL_INIT and panel lists in the work area and T3 = NK / 2;
a template whose T2 is not 2 is bad. -/
def customBlock (d : Desc) (e : SesEnt) (len : Nat) (lists : List (List (List Nat))) (tmpl : List Nat) : List Nat :=
  let nk := paddedPanels (atLayout d) (ceilDiv len (panelTokens e))
  tmpl.zipIdx.map (fun p =>
    if p.2 = 3 then (if lTrip tmpl 2 = 2 then p.1 % 2 ^ 48 + 2 ^ 48 * wrap 16 (nk / 2) else 0)
    else if p.2 = 4 then atWork d
    else if 5 ≤ p.2 ∧ p.2 ≤ 8 then (if (nth [] lists (p.2 - 5)).isEmpty then 0 else atWork d + 4096)
    else p.1)

/-- `s` with item `k` of a batch changed. -/
def setItem (id k : Nat) (f : AItem → AItem) (s : State) : State := setABatch id (fun b => { b with items := modNth k f b.items }) s

/-- Item `k` is done with a status; the batch goes on. -/
def endItem (id k : Nat) (st : Status) (flags : Nat) (s : State) : State :=
  s |> setItem id k (fun x => { x with done := true, status := st })
    |> setABatch id (fun b => { b with flags := Nat.lor b.flags flags })
    |> settleBatch id

/-- A custom item at the head of the queue of TILE_t begins, or ends with what its block makes of it. -/
def startCustom (t : Nat) (w : GWork) (b : ABatch) (d : Desc) (s : State) : State :=
  let a := atAux d
  let pop := setGrv t (fun g => { g with queue := g.queue.drop 1 })
  match b.items[w.k]? with
  | none => pop s
  | some it =>
    match b.streams[it.str]?, (b.streams[it.str]?).bind (fun x => x.live s) with
    | some x, some e =>
      if !claimed a 384 false s then claim (.agent b.fn t) a 384 false s else
      let r := homeGet (.agent b.fn t) a 384 s
      let s := pop r.2.2
      let lists := customLists d e (handleOf x.ses e.gen) x.slot it.head x.len
      let ws := customBlock d e x.len lists (wordsOf16 r.2.1)
      let scl := toBytes 4 (toF32 false x.len 0).1 ++ (r.2.1.drop 132).take 252
      let st := Status.worse r.1 (if r.1.good then blockStatus t b.fn ws s else .ok)
      if st ≠ .ok then endItem b.id w.k st 0 s else beginRun t w ws scl lists s
    | _, _ => endItem b.id w.k .aborted 0 (pop s)

/-- An item at the head of the queue of TILE_t begins: the owner's program, or a built-in kernel. -/
def startItem (t : Nat) (w : GWork) (s : State) : State :=
  match aBatchOf w.g s with
  | none => setGrv t (fun g => { g with queue := g.queue.drop 1 }) s
  | some b =>
    match descOf b.g b.k s with
    | none => setGrv t (fun g => { g with queue := g.queue.drop 1 }) s
    | some d =>
      if atCustom d then startCustom t w b d s else
      if !builtInLoaded s then endItem b.id w.k .unsupported 0 (setGrv t (fun g => { g with queue := g.queue.drop 1 }) s) else
      let s := setGrv t (fun g => { g with queue := g.queue.drop 1,
                                           run := some { work := w, blk := [], x := 0, startAt := now16 s } }) (ownerChange t w.fn s)
      s |> wr GRV_STATUS_STATE t 1 |> wr GRV_STATUS_OWNER t w.fn

/-- LAUNCH_START (R72, R74, R91): the engine is free and takes what heads its queue: a load, a launch, or an item of an
attention batch. -/
def doLaunchStart (t : Nat) (s : State) : State :=
  if (grv t s).run.isSome ∨ !tileServes t s then s else
  match (grv t s).queue with
  | [] => s
  | w :: _ =>
    match w.kind with
    | 0 => runLoad t w s
    | 1 => startRun t w s
    | _ => startItem t w s

/-- LAUNCH_START. -/
def execLaunchStart (t : Nat) (s : State) : Host.Outcome State Fault Refusal := .next (clocked (doLaunchStart t) s)

/-! ## The end of an item (R143, R145) -/

/-- The query rows of a pass. -/
def passRows (d : Desc) (pass : Nat) : List Nat := (List.range 8).filterMap (fun i => if 8 * pass + i < headRows d then some (8 * pass + i) else none)


/-- The items of the pass of an item, in segment order, with their numbers. -/
def passItems (b : ABatch) (it : AItem) : List (AItem × Nat) :=
  b.items.zipIdx.filter (fun p => p.1.str == it.str && p.1.head == it.head && p.1.pass == it.pass)

/-- Every segment of the item's pass that is done ended OK. -/
def passClean (b : ABatch) (it : AItem) : Bool := (passItems b it).all (fun p => p.1.status == .ok)

/-- Tokens of a segment: first and last of the pass's attended list. -/
def segTokens (total : Nat) (it : AItem) : Nat × Nat := (512 * it.lo, min (512 * it.hi) total)

/-- The staging rows of KV head `h`. -/
def stagingRange (d : Desc) (e : SesEnt) (slot h : Nat) : Nat × Nat :=
  (stagingAt d slot + 4 * e.d * atC d * h, 4 * e.d * atC d)

/-- Every other segment of the item's pass is done. -/
def lastSegment (b : ABatch) (k : Nat) (it : AItem) : Bool := (passItems b it).all (fun p => p.2 == k || p.1.done)

/-- Where item `k` of batch `id` keeps its segment's results in the work area, and their bytes. -/
def segPlace (d : Desc) (e : SesEnt) (id k : Nat) : Nat × Nat :=
  (atWork d + 16384 * (Config.workPlace id k % 2048), 32 * (e.d + 2))

/-- The places that the merge of a pass reads, where the pass was cut (R145). -/
def mergePlaces (d : Desc) (e : SesEnt) (b : ABatch) (it : AItem) : List (Nat × Nat) :=
  if it.segs ≤ 1 then [] else (passItems b it).map (fun p => segPlace d e b.id p.2)

/-- What item `k` of a built-in kernel touches outside held frames: offset, length, written. -/
def itemRanges (d : Desc) (e : SesEnt) (x : AStr) (b : ABatch) (k : Nat) (it : AItem) (last : Bool) : List (Nat × Nat × Bool) :=
  let rows := passRows d it.pass
  let seg := segTokens (x.attended d e it.head it.pass) it
  let sr := stagingRange d e x.slot it.head
  let own := segPlace d e b.id k
  rows.map (fun r => (atQ d + queryOff d e x.slot it.head r, 2 * e.d, false)) ++
  (if x.gathered e it.head < seg.2 then [(sr.1, sr.2, false)] else []) ++
  (if it.segs ≤ 1 then [] else [(own.1, own.2, true)]) ++
  (if last then (mergePlaces d e b it).map (fun p => (p.1, p.2, false)) ++
     rows.map (fun r => (atO d + queryOff d e x.slot it.head r, 2 * e.d, true)) else [])

/-- The pages of an item's segment: ordinal, first and last row, slot in the attended list. -/
def itemPicks (e : SesEnt) (x : AStr) (it : AItem) (seg : Nat × Nat) : List (Nat × Nat × Nat × Nat) :=
  match nth none x.picks it.head with
  | none => tokenPicks e seg.1 (min seg.2 x.len)
  | some l => (pagePicks { e with len := x.len } l).filter (fun p =>
      decide (p.2.2.2 < seg.2) && decide (seg.1 < p.2.2.2 + (p.2.2.1 - p.2.1)))

/-- The values of rows as the panel mover decodes them; a malformed Hatch block is UNSUPPORTED (R100). -/
def decodeRows (kv : Nat) (rows : List (List Byte)) : Status × List (List Fv) :=
  (if rows.any (fun r => (widenRow kv r).isNone) then .unsupported else .ok, rows.map (rowVals kv))

/-- The K (0) or V (1) rows of an item's pages, read by the mover of TILE_t: each with its slot in the attended list. -/
def readPicks (t v : Nat) (d : Desc) (e : SesEnt) (h : Nat) : List (Nat × Nat × Nat × Nat) → State → Status × List (Nat × List Fv) × State
  | [], s => (.ok, [], s)
  | k :: ks, s =>
    let r := readRows (rowReqr e.fn t) e v (atLayer d) h k.1 k.2.1 k.2.2.1 s
    let x := decodeRows e.kvFmt r.2.1
    let y := readPicks t v d e h ks r.2.2
    (Status.worst [r.1, x.1, y.1], x.2.zipIdx.map (fun p => (k.2.2.2 + p.2, p.1)) ++ y.2.1, y.2.2)

/-- The staging rows of KV head `h`: their K and V values, each at its place after the `n` gathered ones. -/
def stagingRows (d : Desc) (e : SesEnt) (n : Nat) (l : List Byte) : List KRow :=
  let row := fun i => (halfWords ((l.drop (2 * e.d * i)).take (2 * e.d))).map (decodeF bf16)
  (List.range (atC d)).map (fun c => (n + c, row (2 * c), row (2 * c + 1)))

/-- What an item works on: its queries, and the rows of its segment with their places in the attended list. -/
structure ItemIn where
  st : Status
  queries : List (List Fv)
  rows : List KRow

/-- What the reads of an item answer (Table 6), made by the mover of TILE_t. -/
def itemReads (t : Nat) (d : Desc) (e : SesEnt) (x : AStr) (it : AItem) (s : State) : ItemIn × State :=
  let seg := segTokens (x.attended d e it.head it.pass) it
  let held := x.gathered e it.head
  let q := readQueries t d e x.slot it.head (passRows d it.pass) s
  let sr := stagingRange d e x.slot it.head
  let n : Status × List Byte × State := if held < seg.2 then homeGet (.agent e.fn t) sr.1 sr.2 q.2.2 else (.ok, [], q.2.2)
  let picks := itemPicks e x it seg
  let k := readPicks t 0 d e it.head picks n.2.2
  let v := readPicks t 1 d e it.head picks k.2.2
  let rows := ((k.2.1.zip v.2.1).map (fun p => (p.1.1, p.1.2, p.2.2))) ++
    (if held < seg.2 then stagingRows d e held n.2.1 else [])
  ({ st := Status.worst [q.1, n.1, k.1, v.1], queries := q.2.1.map (fun l => l.map (decodeF bf16)),
     rows := rows.filter (fun r => decide (seg.1 ≤ r.1) && decide (r.1 < seg.2)) }, v.2.2)

/-- Tokens of its attended list that query row `r` attends (R143): in PREFILL, the chunk's tokens up to its own. -/
def rowLimit (d : Desc) (total held r : Nat) : Nat := if atKernel d = 2 then held + r / atG d + 1 else total

/-- What an item's segment gives each query row of its pass. -/
def segSofts (d : Desc) (e : SesEnt) (x : AStr) (it : AItem) (i : ItemIn) : List Soft :=
  (i.queries.zip (passRows d it.pass)).map (fun p =>
    softSegment (slice (d.word 3) 0 32) e.kvFmt e.d
      (rowLimit d (x.attended d e it.head it.pass) (x.gathered e it.head) p.2) p.1 i.rows)

/-- The output rows of a pass whose segments are all done (R143, R145): +0 where no token is attended. -/
def passOutputs (d : Desc) (e : SesEnt) (x : AStr) (b : ABatch) (it : AItem) : List (List Byte) :=
  if x.attended d e it.head it.pass = 0 then (passRows d it.pass).map (fun _ => List.replicate (2 * e.d) 0) else
  (passRows d it.pass).zipIdx.map (fun p =>
    softOut (softMerge ((passItems b it).map (fun y => nth (softStart e.d) y.1.res p.2))))

/-- The segments that a merge reads from the work area (R145, Table 6): what their reads answer. -/
def readSegments (t : Nat) (n : Nat) : List (Nat × Nat) → State → Status × State
  | [], s => (.ok, s)
  | p :: ps, s =>
    let r := homeGet (.agent n t) p.1 p.2 s
    let y := readSegments t n ps r.2.2
    (Status.worse r.1 y.1, y.2)

/-- The merge of a pass on TILE_t: its segments are read and its output rows written. -/
def mergePass (t : Nat) (d : Desc) (e : SesEnt) (x : AStr) (b : ABatch) (it : AItem) (s : State) : Status × State :=
  let r := readSegments t e.fn (mergePlaces d e b it) s
  if !r.1.good then r else
  seqSteps (((passRows d it.pass).zip (passOutputs d e x b it)).map (fun p s =>
    homePut (.agent e.fn t) (atO d + queryOff d e x.slot it.head p.1) p.2 s)) r.2

/-- A segment of a pass that was cut leaves its results in the work area, whose bytes the spec never defines (R138). -/
def keepSegment (t : Nat) (d : Desc) (e : SesEnt) (id k : Nat) (it : AItem) (res : List Soft) (s : State) : Status × State :=
  if it.segs ≤ 1 then (.ok, s) else
  let a := (segPlace d e id k).1
  let w := homePut (.agent e.fn t) a (softBytes res) s
  (w.1, spoil a (softBytes res).length w.2)

/-- The key of what a built-in kernel leaves behind: what the engine held and what the item reads, as numbers (R92). -/
def kernelKey (g : Grv) (d : Desc) (i : ItemIn) : List Nat :=
  let vals := fun (l : List Fv) => l.map (fun v => (valF32 v).1)
  g.junk.toList ++ g.masks ++ g.rows.flatMap (fun p => p.1 :: p.2) ++ g.scales.flatMap (fun p => p.1 :: p.2) ++
  [atKernel d, atG d, d.word 3] ++ i.queries.flatMap vals ++ i.rows.flatMap (fun r => r.1 :: vals r.2.1 ++ vals r.2.2)

/-- What a built-in kernel leaves in the engine, by its draw (log entry 5). -/
def kernelMark (draw t : Nat) (s : State) : State :=
  let ms := (List.range 4).map (fun i => Config.kernelLeft draw (2 ^ 24 + i) % 2 ^ 256)
  setGrv t (fun g => { g with rows := [], scales := [], masks := ms, junk := some draw }) s

/-- An item of a built-in kernel on TILE_t completes with a status; its flags and what it leaves follow from `draw`. -/
def doneKernel (t : Nat) (r : GRun) (id draw : Nat) (st : Status) (s : State) : State :=
  let fl := Config.kernelLeft draw (2 ^ 24 + 4) % 32
  endItem id r.work.k (if st.good then .ok else st) fl (kernelMark draw t (retireRun t { r with flags := fl } s))

/-- An item of a built-in kernel on TILE_t: it waits for its lines, reads, and leaves its segment; the last of its pass
merges. -/
def finishKernel (t : Nat) (r : GRun) (b : ABatch) (d : Desc) (it : AItem) (s : State) : State :=
  -- an item that stops short leaves what a free draw says
  let stop := fun st s => doneKernel t r b.id (freeVal 64 s) st (drew s)
  if r.ended then stop r.status s else
  match b.streams[it.str]?, (b.streams[it.str]?).bind (fun x => x.live s) with
  | some x, some e =>
    let k := r.work.k
    let last := lastSegment b k it && passClean b it
    match (itemRanges d e x b k it last).find? (fun p => !claimed p.1 p.2.1 p.2.2 s) with
    | some p => claim (.agent e.fn t) p.1 p.2.1 p.2.2 s
    | none =>
      let a := itemReads t d e x it s
      if !a.1.st.good then stop a.1.st a.2 else
      let res := segSofts d e x it a.1
      let draw := Config.kernelDraw (kernelKey (grv t s) d a.1)
      let w := keepSegment t d e b.id k it res (setItem b.id k (fun y => { y with res := res }) a.2)
      let b' := { b with items := modNth k (fun y => { y with res := res }) b.items }
      let w := if w.1.good && last then mergePass t d e x b' it w.2 else w
      doneKernel t r b.id draw w.1 w.2
  | _, _ => stop .aborted s

/-- ATTN_ITEM_COMPLETE (R143 to R147): the item on TILE_t has run: a built-in kernel, or the owner's program to its end. -/
def doAttnItemComplete (t : Nat) (s : State) : State :=
  match (grv t s).run with
  | none => s
  | some r =>
    if r.work.kind ≠ 2 then s else
    match aBatchOf r.work.g s with
    | none => retireRun t r s
    | some b =>
      match descOf b.g b.k s, b.items[r.work.k]? with
      | some d, some it =>
        if r.blk.isEmpty then finishKernel t r b d it s
        else if r.ended && drained r then endItem b.id r.work.k r.status r.flags (retireRun t r s)
        else s
      | _, _ => retireRun t r s

/-- ATTN_ITEM_COMPLETE. -/
def execAttnItemComplete (t : Nat) (s : State) : Host.Outcome State Fault Refusal := .next (clocked (doAttnItemComplete t) s)

/-! ## Tiles and batches that are lost (R147) -/

/-- Units that an item covers. -/
def AItem.units (x : AItem) : Nat := x.hi - x.lo

/-- Item `k` of a batch has lost its tile: it is run once more on the tile of the owner with the fewest units that are not done,
or ends ABORTED. One that had not launched uses its re-run up all the same (log entry 132). -/
def rerunItem (id k : Nat) (s : State) : State :=
  match aBatchOf id s with
  | none => s
  | some b =>
    match b.items[k]? with
    | none => s
    | some it =>
      if it.done then s else
      match liveTiles b.fn s with
      | [] => endItem id k .aborted 0 s
      | t :: ts =>
        if it.again then endItem id k .aborted 0 s else
        let load := fun i => ((b.items.filter (fun x => x.tile == i && !x.done)).map AItem.units).sum
        let i := nth t (t :: ts) (leastAt ((t :: ts).map load))
        queueWork i { kind := 2, fn := b.fn, g := id, k := k, ring := b.g }
          (setItem id k (fun x => { x with again := true, tile := i }) s)

/-- A launch of an item on TILE_t ends ABORTED: its flags count for its batch (R157). -/
def abortItemRun (t : Nat) (r : GRun) (s : State) : State :=
  let fl := if r.blk.isEmpty then freeVal 5 s else r.flags
  setABatch r.work.g (fun b => { b with flags := Nat.lor b.flags fl })
    (drew (retireRun t { r with flags := fl } s))

/-- TILE_t leaves service: every item dealt to it is run again elsewhere (R147). -/
def tileLost (t : Nat) (s : State) : State :=
  let works := (s.attn.batches.flatMap (fun b => b.items.zipIdx.filterMap (fun p =>
    if p.1.tile = t ∧ !p.1.done then some (b.id, p.2) else none)))
  let s := setGrv t (fun g => { g with queue := g.queue.filter (fun w => w.kind != 2) }) s
  let s := match (grv t s).run with
    | some r => if r.work.kind = 2 then abortItemRun t r s else s
    | none => s
  forEach works (fun p s => rerunItem p.1 p.2 s) s

/-- The items of the batches that satisfy `p` leave their queues, and their engines by `f`. -/
def clearItems (p : ABatch → Bool) (f : Nat → GRun → State → State) (s : State) : State :=
  let mine := fun (w : GWork) => w.kind == 2 && s.attn.batches.any (fun b => b.id == w.g && p b)
  forEach (List.range 64) (fun t s =>
    let s := setGrv t (fun g => { g with queue := g.queue.filter (fun w => !mine w) }) s
    match (grv t s).run with
    | some r => if mine r.work then f t r s else s
    | none => s) s

/-- A compute-partial reset ends every item of the batches that satisfy `p`: streams not over receive ABORTED (R147), and the
additions to ARRIVE are still made (R146). -/
def abortBatches (p : ABatch → Bool) (s : State) : State :=
  let hit := s.attn.batches.filter (fun b => b.running && p b)
  forEach hit (fun b s =>
    let strs := b.streams.map (fun x => if x.ended then x else { x with ended := true, status := .aborted })
    let items := b.items.map (fun x => { x with done := true })
    settleBatch b.id (setABatch b.id (fun b => { b with items := items, streams := strs }) s))
    (clearItems (fun b => b.running && p b) abortItemRun s)

/-- A function-level reset ends a function's batches with no record (R147) and no completed launch. -/
def dropBatches (n : Nat) (s : State) : State :=
  setAttn (fun l => l.filter (fun b => b.fn != n)) (clearItems (fun b => b.fn == n) (fun t _ => clearRun t) s)

end Sys2Proof.Machine
end

