-- ==== Sys2Proof/Machine/Ruling.lean ====
section
/-! DEFINITION. Sys2Proof/Machine/Ruling.lean: ruling time (spec/02_ruling_and_calendar.md R29 to R44, R500, R504): the
reference count, segments, exchange symbols, lock and loss of lock, and the tick. -/

namespace Sys2Proof.Machine

open Sys2Proof

/-- `s` with the ruling block changed. -/
def setRuling (f : Ruling → Ruling) (s : State) : State := { s with ruling := f s.ruling }

/-- The position a segment gives at reference count `ref`, in ns (R29). -/
def segPos (g : Seg) (ref : Nat) : Nat :=
  if g.kind = 1 then g.startPos
  else g.startPos + ((((ref - g.startRef : Nat) : Int) * (2 ^ 30 + toSigned 24 g.rate)) / 2 ^ 30).toNat

/-- The position the current segment gives now. -/
def rootPos (s : State) : Nat := segPos s.ruling.seg (nowNs s)

/-- One ru in the units of `Ruling.dev`. -/
def devUnit : Nat := 2000

/-- The local position that the segment and the difference being slewed away give. -/
def target (s : State) : Nat := (((rootPos s * devUnit : Nat) : Int) + s.ruling.dev).toNat / devUnit

/-- The ruling values a beacon marks that lie above `lo` and not above `hi` (R227): the last multiple of 65,536. -/
def crossed (lo hi : Nat) : List Nat := (List.range (hi / 65536 - lo / 65536)).map (fun i => (lo / 65536 + 1 + i) * 65536)

/-- The local position takes a value it does not lie above (R30). -/
def raisePos (p : Nat) (s : State) : State := setRuling (fun r => { r with pos := max r.pos p, everSet := true }) s

/-- The RULE_STATUS word, as an event record gives it. -/
def ruleStatusWord (s : State) : Nat :=
  rd RULE_STATUS_STATE 0 s + 2 ^ 3 * rd RULE_STATUS_PARENT_USED 0 s + 2 ^ 8 * rd RULE_STATUS_PIN_REF_OK 0 s
    + 2 ^ 9 * b2n s.ruling.pend.isSome + 2 ^ 10 * rd RULE_STATUS_DEPTH 0 s

/-- The lock state changes; every ZCP site learns it (R227). -/
def setLock (st : Nat) (s : State) : State :=
  if rd RULE_STATUS_STATE 0 s = st then s else
  let s := wr RULE_STATUS_STATE 0 st s
  if s.ruling.everSet then sendBeacons (pos s) s else s

/-- A step forward of the local position (R30, R41, R57): marks passed, STEP_SEEN, one beacon. -/
def stepTo (p : Nat) (s : State) : State :=
  if p ≤ pos s then s else
  let lo := pos s
  s |> raisePos p |> stepEntries lo p |> setB RULE_EVENT_STEP_SEEN 0 |> sendBeacons p
    |> setRuling (fun r => { r with beaconAt := p / 65536 * 65536 }) |> markDue

/-- The hub enters UNLOCKED (R41); `quiet`: a reset took its links down, and no HUB_EVENT is posted. -/
def enterUnlocked (quiet : Bool) (s : State) : State :=
  let s := s |> setLock 3 |> setB RULE_EVENT_RULING_UNLOCKED 0
    |> setRuling (fun r => { r with good := 0, bad := 0 })
  if quiet then s else hubEvent (calHolders s) 0x0002 .unreachable (ruleStatusWord s) s

/-- The difference from the root is corrected on return to LOCKED (R41): slewed within 1 µs, else stepped forward
or held. -/
def correctPos (s : State) : State :=
  let d := s.ruling.dev
  let lim : Int := 1000 * (devUnit : Nat)
  if d < -lim then stepTo (rootPos s) (setRuling (fun r => { r with dev := 0, holding := false }) s)
  else if lim < d then setRuling (fun r => { r with holding := true }) s
  else s

/-- The hub enters LOCKED and corrects its position (R39, R41); on a return it sets RELOCKED and posts it (R41, R449). -/
def enterLocked (s : State) : State :=
  if locked s then s else
  let again := s.ruling.everLocked
  let s := s |> setLock 2 |> setRuling (fun r => { r with everLocked := true, good := 0, bad := 0 })
  let s := if again then hubEvent (calHolders s) 0x0003 .ok (ruleStatusWord s) (setB RULE_EVENT_RELOCKED 0 s) else s
  correctPos s

/-- The local position stays where it is while what its root gives has changed: the difference is kept to be corrected (R32,
R41). -/
def keepPos (s : State) : State :=
  setRuling (fun r => { r with dev := ((pos s : Nat) - (rootPos s : Nat) : Int) * (devUnit : Nat) }) s

/-- The local count of a hub that is not LOCKED moves forward to `t`; its position does not (R36, R41). -/
def moveRef (t : Nat) (s : State) : State := keepPos (setRuling (fun r => { r with refT := max r.refT t }) s)

/-- A current segment is taken over from a reference; every site learns of it (R44). -/
def adoptSeg (g : Seg) (s : State) : State :=
  let s := keepPos (setRuling (fun r => { r with seg := g, prev := some r.seg }) s)
  sendBeacons (pos s) s

/-- The first usable reference of a hub in FREE (R39): it takes the segments the reference carries and the position
they give; this is no step. -/
def firstReference (g : Seg) (p : Option Seg) (ref16 : Nat) (s : State) : State :=
  let s := setRuling (fun r => { r with refT := max r.refT ref16, seg := g, pend := p, dev := 0 }) s
  s |> raisePos (rootPos s) |> setRuling (fun r => { r with beaconAt := rootPos s / 65536 * 65536 }) |> setLock 1

/-- The greatest step a segment may make: 2^48 ru (R30). -/
def maxStep : Nat := 2 ^ 48

/-- A segment breaks R30: it would lower the position, or step by more than 2^48 ru. -/
def segBad (x : Seg) (s : State) : Bool :=
  let p := segPos s.ruling.seg x.startRef
  decide (x.startPos < p) || decide (p + maxStep < x.startPos)

/-- A segment is refused: SEG_REFUSED and a log entry (R30). -/
def refuseSeg (x : Seg) (s : State) : State :=
  s |> setB RULE_EVENT_SEG_REFUSED 0 |> setRuling (fun r => { r with refused := some x })
    |> logRec .segmentRefused [x.startRef, x.startPos, x.rate, x.kind, x.seq]

/-- A segment comes after its START_REF (R32): UNLOCKED, and a hub that runs ahead of it holds. The segment that follows the
current one is refused where R30 says so (log entry 113). -/
def missSeg (x : Seg) (s : State) : State :=
  if x.seq = wrap 6 (s.ruling.seg.seq + 1) ∧ segBad x s then refuseSeg x s else
  let s := if rd RULE_STATUS_STATE 0 s = 3 then s else enterUnlocked false s
  let s := adoptSeg x s
  if 0 < s.ruling.dev then setRuling (fun r => { r with holding := true }) s else s

/-- A reference carries segment `x`: one that the hub holds, held before or has refused says nothing new; any other is pending,
or has been missed (R32). -/
def takeSeg (x : Seg) (s : State) : State :=
  if x = s.ruling.seg ∨ [s.ruling.pend, s.ruling.prev, s.ruling.refused].contains (some x) then s
  else if x.startRef ≤ nowNs s then missSeg x s
  else setRuling (fun r => { r with pend := some x }) s

/-- What a reference says of the segments, once the hub has a position. The first one after a change of role is taken as it
stands, and the position corrected under R41 (R504). -/
def takeSegs (g : Seg) (p : Option Seg) (s : State) : State :=
  let s :=
    if s.ruling.rebase then
      let s := setRuling (fun r => { r with rebase := false, pend := none }) s
      if g = s.ruling.seg then s else adoptSeg g s
    else takeSeg g s
  match p with
  | none => s
  | some x => takeSeg x s

/-- What the hub keeps of the RULE cells of port `p`. -/
def exPort (p : Nat) (s : State) : ExPort := lookD {} s.ruling.ports p

/-- `s` with that changed. -/
def setEx (p : Nat) (f : ExPort → ExPort) (s : State) : State :=
  setRuling (fun r => { r with ports := modD {} p f r.ports }) s

/-- The role of RULE_CTL (Table 2): 0 FOLLOWER, 1 MASTER, 2 PIN_ROOT, 3 TWIN_ROOT. -/
def role (s : State) : Nat := rd RULE_CTL_ROLE 0 s

/-- The port that disciplines the hub: PARENT_USED on a follower and on a TWIN_ROOT (R34). -/
def disciplines (p : Nat) (s : State) : Bool := (role s == 0 || role s == 3) && rd RULE_STATUS_PARENT_USED 0 s == p

/-- Low-power idle on port `p` (R306). -/
def portLpi (p : Nat) (s : State) : Bool := rdb SYR_PORT_LPI p s

/-- The limits of R40 on port `p`: 8 µs and 16 µs, or 40 µs and 80 µs from low-power idle to the first symbol at the full rate. -/
def silence (p : Nat) (s : State) : Nat := if portLpi p s || (exPort p s).slow then us16 40 else us16 8
/-- See `silence`. -/
def lockSilence (p : Nat) (s : State) : Nat := if portLpi p s || (exPort p s).slow then us16 80 else us16 16

/-- A time that has never come, or came at least `limit` ago. -/
def silentFor (t : Option Nat) (limit : Nat) (s : State) : Bool :=
  match t with
  | some t => due (t + limit) s
  | none => true

/-- The sender on port `p` is LOCKED: by its last symbol, which is not too old (R40). -/
def senderLocked (p : Nat) (s : State) : Bool := (exPort p s).state == 2 && !silentFor (exPort p s).rxAt (silence p s) s

/-- A symbol comes at twin port `p` of a TWIN_ROOT whose other twin port delivers none: it disciplines the hub (R34, log
entry 114). -/
def twinPort (p : Nat) (s : State) : State :=
  let u := rd RULE_STATUS_PARENT_USED 0 s
  if role s = 3 ∧ 18 ≤ p ∧ p ≤ 19 ∧ u ≠ p ∧ (!rdb SYR_PORT_UP u s || silentFor (exPort u s).rxAt (silence u s) s) then
    wr RULE_STATUS_PARENT_USED 0 p s
  else s

/-- A LOCKED follower moves to port `p` without leaving LOCKED (R40). -/
def switchParent (p : Nat) (s : State) : State :=
  s |> wr RULE_STATUS_PARENT_USED 0 p |> setB RULE_EVENT_PARENT_SWITCH 0
    |> wr RULE_STATUS_DEPTH 0 ((exPort p s).depth + 1) |> setRuling (fun r => { r with bad := 0 })

/-- The alternate port may take over (R40): ALT_EN = 1 and its sender LOCKED. -/
def altUsable (s : State) : Bool :=
  rdb RULE_CTL_ALT_EN 0 s && senderLocked (rd RULE_CTL_ALT_PORT 0 s) s &&
  rd RULE_CTL_ALT_PORT 0 s != rd RULE_STATUS_PARENT_USED 0 s

/-! ## The rows -/

/-- The fields of a segment as a cell carries them (R276). -/
def segWords (g : Seg) : List Nat := [g.startRef, g.startPos, g.kind + 4 * g.rate + 2 ^ 26 * g.seq]

/-- A segment in the twenty bytes of a cell. -/
def segBytes (g : Seg) : List Byte :=
  toBytes 8 g.startRef ++ toBytes 8 g.startPos ++ toBytes 4 (g.kind + 4 * g.rate + 2 ^ 26 * g.seq)

/-- A RULE cell (R276, Table 4). -/
def ruleImage (c : RuleCell) : List Byte :=
  let e := c.echo.getD (0, 0)
  toBytes 4 (0x3 + 2 ^ 8 * (c.state + 8 * b2n c.pend.isSome + 16 * b2n c.echo.isSome) + 2 ^ 16 * c.depth + 2 ^ 24 * c.exseq) ++
    toBytes 8 c.txT ++ toBytes 4 e.1 ++ toBytes 4 e.2 ++ segBytes c.seg ++ segBytes (c.pend.getD {}) ++ toBytes 4 0

/-- EXCHANGE_SYMBOL_TX (R35, R276, R277): once every 1 µs of reference count, 16 µs in low-power idle (R58), a trained
port sends a RULE cell. -/
def doExchangeSymbolTx (p : Nat) (s : State) : State :=
  let e := exPort p s
  let ready := match e.txAt with
    | some t => due (t + (if portLpi p s then us16 16 else us16 1)) s
    | none => true
  if !(rdb SYR_PORT_UP p s && ready) then s else
  let q := wrap 8 (e.txSeq + 1)
  let echo := match e.rxAt with | some t => [1, e.rxSeq, wrap 32 (now16 s - t)] | none => [0, 0, 0]
  let pend := match s.ruling.pend with | some g => 1 :: segWords g | none => [0, 0, 0, 0]
  let cell : RuleCell := { state := rd RULE_STATUS_STATE 0 s, depth := rd RULE_STATUS_DEPTH 0 s, exseq := q, txT := wrap 64 (now16 s),
                           echo := e.rxAt.map (fun t => (e.rxSeq, wrap 32 (now16 s - t))), seg := s.ruling.seg, pend := s.ruling.pend }
  s |> setEx p (fun e => { e with txSeq := q, txAt := some (now16 s),
                                  t3 := if e.t2.isSome && e.t3.isNone then some (q, now16 s) else e.t3 })
    |> sendCells p { kind := .syrCell, args := [0x3, rd RULE_STATUS_STATE 0 s, rd RULE_STATUS_DEPTH 0 s, q,
                wrap 64 (now16 s)] ++ echo ++ segWords s.ruling.seg ++ pend } (ruleImage cell)

/-- EXCHANGE_SYMBOL_TX. -/
def execExchangeSymbolTx (p : Nat) (s : State) : Host.Outcome State Fault Refusal := .next (clocked (doExchangeSymbolTx p) s)

/-- The one-way delay of port `p` is `d`: as training measured it, or as it was measured again (R36). -/
def takeDelay (p d : Nat) (s : State) : State :=
  let s := s |> setEx p (fun e => { e with delay := wrap 16 d, delaySum := 0, delayN := 0, delayAt := now16 s })
    |> wr SYR_PORT_DELAY p d
  if disciplines p s then wr RULE_OFFSET_DELAY 0 d s else s

/-- An exchange is complete: its delay, of which the first 256 since the last measurement are averaged (log entry 115), and its
offset (R36), and what they do to the rate and the lock. -/
def exchangeDone (p t1 t2 t3 t4 : Nat) (s : State) : State :=
  let delay := ((t2 - t1 : Int) + (t4 - t3 : Int)) / 2
  let off := ((t2 - t1 : Int) - (t4 - t3 : Int)) / 2
  let s := setEx p (fun e => if e.delayN < 256 then { e with delaySum := e.delaySum + delay.toNat, delayN := e.delayN + 1 } else e) s
  if !disciplines p s then s else
  let mag := off.natAbs
  let jump := off < -16 && !locked s
  let s := s |> wr RULE_OFFSET_OFFSET 0 (ofSigned 16 off) |> wr RULE_OFFSET_DELAY 0 (exPort p s).delay
    |> setRuling (fun r => { r with
        corr := if jump then 0 else off,
        good := if mag ≤ 16 then r.good + 1 else 0,
        bad := if 64 < mag then r.bad + 1 else 0 })
  let s := if jump then moveRef (now16 s + mag) s else s
  if rd RULE_STATUS_STATE 0 s = 1 && (role s == 3 || senderLocked p s) && decide (64 ≤ s.ruling.good) then enterLocked s
  else if locked s && decide (16 ≤ s.ruling.bad) then enterUnlocked false s
  else s

/-- EXCHANGE_SYMBOL_RX (R35, R36, R39, R40, R277): a RULE cell arrives at port `p`. -/
def doExchangeSymbolRx (p : Nat) (c : RuleCell) (s : State) : State :=
  let e := exPort p s
  let t := now16 s
  -- the parent cell c that echoes the cell b this hub sent after cell a ends the exchange
  let done := match c.echo, e.t2, e.t3 with
    | some (q, hold), some t2, some (b, t3) => if q = b then some (e.t1, t2, t3, c.txT - hold) else none
    | _, _, _ => none
  let s := setEx p (fun e => { e with
      rxAt := some t, rxSeq := c.exseq, state := c.state, depth := c.depth, seg := c.seg, pend := c.pend,
      lockedAt := if c.state = 2 then some t else e.lockedAt,
      t1 := if done.isSome || e.t2.isNone then c.txT else e.t1,
      t2 := if done.isSome || e.t2.isNone then some t else e.t2,
      t3 := if done.isSome then none else e.t3, slow := portLpi p s }) (twinPort p s)
  let s :=
    if !disciplines p s then s
    else
      let s := wr RULE_STATUS_DEPTH 0 (if role s = 3 then 0 else c.depth + 1) s
      match rd RULE_STATUS_STATE 0 s with
      | 0 => if c.state = 0 then s else firstReference c.seg c.pend (c.txT + e.delay) s
      | 3 => setLock 1 (takeSegs c.seg c.pend s)
      | _ => takeSegs c.seg c.pend s
  let s := match done with
    | some (t1, t2, t3, t4) => exchangeDone p t1 t2 t3 t4 s
    | none => s
  if locked s && role s == 0 && disciplines p s && c.state != 2 && altUsable s then
    switchParent (rd RULE_CTL_ALT_PORT 0 s) s
  else s

/-- EXCHANGE_SYMBOL_RX. -/
def execExchangeSymbolRx (p : Nat) (c : RuleCell) (s : State) : Host.Outcome State Fault Refusal :=
  .next (clocked (doExchangeSymbolRx p c) s)

/-- DELAY_REMEASURE (R36): every 16 ms the delay of port `p` becomes the average of 256 exchanges. -/
def doDelayRemeasure (p : Nat) (s : State) : State :=
  let e := exPort p s
  if e.delayN < 256 ∨ !due (e.delayAt + us16 16000) s then s else
  takeDelay p (e.delaySum / e.delayN) s

/-- DELAY_REMEASURE. -/
def execDelayRemeasure (p : Nat) (s : State) : Host.Outcome State Fault Refusal := .next (clocked (doDelayRemeasure p) s)

/-- RULE_SEGMENT (R31, R352): the admin descriptor of count `k` of RING_0 asks a MASTER hub for a segment. -/
def doRuleSegment (g k : Nat) (s : State) : State :=
  match runningDesc g k 0x30 s with
  | none => s
  | some d =>
    let rate := wrap 24 (d.word 4)
    let kind := slice (d.word 4) 24 2
    let x : Seg := { startRef := d.word 2, startPos := d.word 3, rate := rate, kind := kind,
                     seq := wrap 6 (s.ruling.seg.seq + 1) }
    if 1 < kind ∨ (kind = 0 ∧ 214748 < (toSigned 24 rate).natAbs) then failDesc g k .unsupported s
    else if role s ≠ 1 then failDesc g k .refused s
    else if segBad x s then failDesc g k .refused (refuseSeg x s)
    else if s.ruling.pend.isSome ∨ x.startRef < nowNs s + 2000000 then failDesc g k .refused s
    else completeDesc g k .ok x.seq 0 0 (setRuling (fun r => { r with pend := some x }) s)

/-- RULE_SEGMENT. -/
def execRuleSegment (g k : Nat) (s : State) : Host.Outcome State Fault Refusal := .next (clocked (doRuleSegment g k) s)

/-- SEGMENT_APPLY (R30, R33): the local reference count has reached START_REF of the pending segment. -/
def doSegmentApply (s : State) : State :=
  match s.ruling.pend with
  | none => s
  | some x =>
    if nowNs s < x.startRef then s else
    if segBad x s then refuseSeg x (setRuling (fun r => { r with pend := none }) s) else
    let was := segPos s.ruling.seg x.startRef
    let s := s |> setRuling (fun r => { r with seg := x, pend := none, prev := some r.seg }) |> setB RULE_EVENT_SEG_APPLIED 0
    if was < x.startPos then stepTo (target s) s else sendBeacons x.startPos s

/-- SEGMENT_APPLY. -/
def execSegmentApply (s : State) : Host.Outcome State Fault Refusal := .next (clocked doSegmentApply s)

/-- A hub that becomes MASTER is LOCKED at once: it goes on from its present position, in a RUN segment of rate 0 that begins now
(log entry 116), or starts from RULE_START (R39, R504). -/
def becomeMaster (s : State) : State :=
  let g : Seg := if s.ruling.everSet then { startRef := nowNs s, startPos := pos s, seq := s.ruling.seg.seq }
    else { startRef := nowNs s, startPos := rd RULE_START_START 0 s }
  let s := setRuling (fun r => { r with seg := g, pend := none, prev := none, dev := 0, holding := false }) s
  let s := raisePos g.startPos s
  enterLocked (sendBeacons (pos s) s)

/-- RULE_CTL_WRITE (R504): new ROLE, PARENT_PORT, ALT_PORT and ALT_EN, ignored under SETUP_LOCK (R13). -/
def doRuleCtlWrite (newRole parent alt : Nat) (altEn : Bool) (s : State) : State :=
  if rdb HUB_GLOBAL_SETUP_LOCK 0 s then s else
  let oldRole := role s
  let oldParent := rd RULE_CTL_PARENT_PORT 0 s
  let s := s |> wr RULE_CTL_ROLE 0 newRole |> wr RULE_CTL_PARENT_PORT 0 parent |> wr RULE_CTL_ALT_PORT 0 alt
    |> wrb RULE_CTL_ALT_EN 0 altEn
  let r := role s
  let par := rd RULE_CTL_PARENT_PORT 0 s
  if r ≠ oldRole then
    let s := if r = 0 then s else wr RULE_STATUS_DEPTH 0 0 s
    let s := setRuling (fun x => { x with good := 0, bad := 0, framesGood := 0, framesBad := 0, markAt := none, rebase := r != 1 }) s
    if r = 1 then becomeMaster s
    else
      let s := wr RULE_STATUS_PARENT_USED 0 (if r = 3 then 18 else par) s
      let s := if locked s then enterUnlocked false s else s
      if s.ruling.everSet then setLock 1 s else s
  else if r = 0 ∧ par ≠ oldParent then
    let s' := wr RULE_STATUS_PARENT_USED 0 par s
    if !locked s then s'
    else if senderLocked par s then switchParent par s
    else enterUnlocked false s'
  else s

/-- RULE_CTL_WRITE. -/
def execRuleCtlWrite (newRole parent alt : Nat) (altEn : Bool) (s : State) : Host.Outcome State Fault Refusal :=
  .next (clocked (doRuleCtlWrite newRole parent alt altEn) s)

/-- RULE_SYNC_MARK (R37, R38, R500): RULE_SYNC is sampled high at an edge of RULE_REF, which is present; a PIN_ROOT hub stamps the
mark. -/
def doRuleSyncMark (s : State) : State :=
  let s := setB RULE_STATUS_PIN_REF_OK 0 s
  if role s ≠ 2 then s else setRuling (fun r => { r with markAt := some (now16 s) }) s

/-- RULE_SYNC_MARK. -/
def execRuleSyncMark (s : State) : Host.Outcome State Fault Refusal := .next (clocked doRuleSyncMark s)

/-- One bit through CRC-16/CCITT: polynomial 0x1021, most significant bit first. -/
def crcBit (crc : Nat) (b : Bool) : Nat :=
  let x := wrap 16 (2 * crc)
  if bit crc 15 != b then Nat.xor x 0x1021 else x

/-- The CRC of a list of fields, each as (width, value), each sent least significant bit first (R37). -/
def crcFields (l : List (Nat × Nat)) : Nat :=
  (l.flatMap (fun f => (List.range f.1).map (bit f.2))).foldl crcBit 0xFFFF

/-- The CRC a frame should carry: over every field but PREAMBLE and CRC (Table 3). -/
def frameCrc (f : SyncFrame) : Nat :=
  crcFields [(64, f.refAtMark), (64, f.segStartRef), (64, f.segStartPos), (24, f.segRate), (8, f.segSeqKind)]

/-- RULE_SYNC_FRAME (R37 to R39): a frame after a mark; what does not begin with PREAMBLE is no frame (log entry 117). A hub in
FREE whose first frame carries a pending segment has an empty one as its current segment (log entry 118). -/
def doRuleSyncFrame (f : SyncFrame) (s : State) : State :=
  if role s ≠ 2 ∨ f.preamble ≠ 0xA5 then s else
  match s.ruling.markAt with
  | none => s
  | some m =>
    if f.crc ≠ frameCrc f then
      let s := s |> setB RULE_EVENT_PIN_FRAME_ERR 0 |> setRuling (fun r => { r with
        framesGood := 0, framesBad := r.framesBad + 1, frameErrs := r.frameErrs + 1, markAt := none })
      if locked s && decide (4 ≤ s.ruling.framesBad) then enterUnlocked false s else s
    else
      let g : Seg := { startRef := f.segStartRef, startPos := f.segStartPos, rate := f.segRate,
                       kind := slice f.segSeqKind 0 2, seq := slice f.segSeqKind 2 6 }
      -- the master's count at the mark, brought to now and corrected by RULE_PIN_DELAY
      let ref := f.refAtMark * 16 + (now16 s - m) + rd RULE_PIN_DELAY_DELAY 0 s
      let pending := decide (nowNs s < g.startRef)
      let s := setRuling (fun r => { r with framesGood := r.framesGood + 1, framesBad := 0, markAt := none }) s
      let s := match rd RULE_STATUS_STATE 0 s with
        | 0 => firstReference (if pending then {} else g) (if pending then some g else none) ref s
        | n =>
          let off : Int := (now16 s : Int) - (ref : Int)
          let jump := off < -16 && !locked s
          let s := setRuling (fun r => { r with corr := if jump then 0 else off }) s
          let s := if jump then moveRef ref s else s
          let s := if pending then takeSegs s.ruling.seg (some g) s else takeSegs g none s
          if n = 3 then setLock 1 s else s
      if rd RULE_STATUS_STATE 0 s = 1 && decide (2 ≤ s.ruling.framesGood) then enterLocked s else s

/-- RULE_SYNC_FRAME. -/
def execRuleSyncFrame (f : SyncFrame) (s : State) : Host.Outcome State Fault Refusal := .next (clocked (doRuleSyncFrame f) s)

/-- PARENT_SILENCE_TIMEOUT (R40): no exchange symbol from the parent for 8 µs (40 µs in low-power idle). -/
def doParentSilenceTimeout (s : State) : State :=
  let p := rd RULE_STATUS_PARENT_USED 0 s
  if locked s && role s == 0 && silentFor (exPort p s).rxAt (silence p s) s && altUsable s then
    switchParent (rd RULE_CTL_ALT_PORT 0 s) s
  else s

/-- PARENT_SILENCE_TIMEOUT. -/
def execParentSilenceTimeout (s : State) : Host.Outcome State Fault Refusal := .next (clocked doParentSilenceTimeout s)

/-- LOCK_LOSS_TIMEOUT (R40): neither the parent port nor the alternate port has delivered a LOCKED symbol for 16 µs (80 µs in
low-power idle). A TWIN_ROOT has its twin's symbols alone (log entry 114). -/
def doLockLossTimeout (s : State) : State :=
  let quiet := fun q => silentFor (exPort q s).lockedAt (lockSilence q s) s
  let lost := match role s with
    | 0 => quiet (rd RULE_CTL_PARENT_PORT 0 s) && quiet (rd RULE_STATUS_PARENT_USED 0 s) &&
      (!rdb RULE_CTL_ALT_EN 0 s || quiet (rd RULE_CTL_ALT_PORT 0 s))
    | 3 => quiet 18 && quiet 19
    | _ => false
  if locked s && (lost || decide (16 ≤ s.ruling.bad)) then enterUnlocked false s else s

/-- LOCK_LOSS_TIMEOUT. -/
def execLockLossTimeout (s : State) : Host.Outcome State Fault Refusal := .next (clocked doLockLossTimeout s)

/-- RULE_REF_LOSS (R40): RULE_REF is absent for 1 µs. -/
def doRuleRefLoss (s : State) : State :=
  let s := clrB RULE_STATUS_PIN_REF_OK 0 s
  match role s with
  | 1 => setB RULE_EVENT_RULE_REF_LOST 0 s
  | 2 => if locked s then enterUnlocked false (setRuling (fun r => { r with framesGood := 0, markAt := none }) s) else s
  | _ => s

/-- RULE_REF_LOSS. -/
def execRuleRefLoss (s : State) : Host.Outcome State Fault Refusal := .next (clocked doRuleRefLoss s)

/-- HOLD_RELEASE (R32, R41): the root's position has reached the value the hub holds; it follows its root again. -/
def doHoldRelease (s : State) : State :=
  if s.ruling.holding && decide (pos s ≤ rootPos s) then
    markDue (setRuling (fun r => { r with pos := max r.pos (rootPos s), holding := false, dev := 0 }) s)
  else s

/-- HOLD_RELEASE. -/
def execHoldRelease (s : State) : Host.Outcome State Fault Refusal := .next (clocked doHoldRelease s)

/-- BEACON_SEND (R227): a beacon for each multiple of 65,536 ru that the position has crossed since the last of this kind. -/
def doBeaconSend (s : State) : State :=
  forEach (crossed s.ruling.beaconAt (pos s)) (fun p s => sendBeacons p (setRuling (fun r => { r with beaconAt := p }) s)) s

/-- BEACON_SEND. -/
def execBeaconSend (s : State) : Host.Outcome State Fault Refusal := .next (clocked doBeaconSend s)

/-! ## The tick -/

/-- One nanosecond of the local reference count, faster or slower by 500 ppm while an offset is corrected (R36), and the
position that follows it (R29, R41). -/
def tickRuling (s : State) : State :=
  let r := s.ruling
  let turn := r.corrPhase + 1 ≥ 125
  let adj : Int := if turn && r.corr != 0 then (if 0 < r.corr then -1 else 1) else 0
  let slew : Int := if rd RULE_STATUS_STATE 0 s = 2 && !r.holding && r.dev != 0 then (if 0 < r.dev then -1 else 1) else 0
  let s := setRuling (fun r => { r with refT := ((r.refT + 16 : Nat) + adj).toNat, corr := r.corr + adj,
                                        corrPhase := if turn then 0 else r.corrPhase + 1, dev := r.dev + slew }) s
  if !r.everSet then s else markDue (if r.holding then s else setRuling (fun r => { r with pos := max r.pos (target s) }) s)

end Sys2Proof.Machine
end

