-- ==== Sys2Proof/Machine/Sites.lean ====
section
/-! DEFINITION. Sys2Proof/Machine/Sites.lean: chiplet sites: flits, messages that are not coherence, modules, discovery,
fences and resets, power grants, CXL chiplets (spec/09_chiplet_sites.md R213 to R243, R466 for the grants). -/

namespace Sys2Proof.Machine

open Sys2Proof

/-- A line of the bring-up record, which makes the hub DEGRADED; after READY only chiplet sites and downstream ports add lines
(R432). -/
def addEntry (kind idx outcome detail : Nat) (s : State) : State :=
  if rdb HUB_GLOBAL_READY 0 s && !(kind == 4 || kind == 5 || kind == 8) then s else
  setB HUB_GLOBAL_DEGRADED 0
    { s with boot := { s.boot with entries := (s.boot.entries ++ [(kind, idx, outcome, detail)]).take 476 } }

/-! ## The identity record (R234, Table 6) -/

/-- A little-endian field of the site's identity record. -/
def identField (j off n : Nat) (s : State) : Nat := ofBytes (((site j s).ident.drop off).take n)
/-- PWR_MIN. -/
def pwrMin (j : Nat) (s : State) : Nat := identField j 14 2 s
/-- PWR_MAX. -/
def pwrMax (j : Nat) (s : State) : Nat := identField j 16 2 s
/-- Doorbell channels served. -/
def dbChannels (j : Nat) (s : State) : Nat := if identField j 12 1 s = 0 then 256 else identField j 12 1 s

/-! ## Power grants (R228, R466, R467) -/

/-- The READY sites. -/
def readySites (s : State) : List Nat := (List.range (chipSites s)).filter (fun j => siteReady j s)

/-- Surplus of the chiplet budget over the PWR_MIN of the READY sites. -/
def surplus (s : State) : Nat :=
  rd PWR_CAP_PKG_CAP 0 s - rd PWR_CAP_HUB_CAP 0 s - ((readySites s).map (fun j => pwrMin j s)).sum

/-- What SITE_j asked above its PWR_MIN. -/
def wantOver (j : Nat) (s : State) : Nat := if siteCxl j s then 0 else (site j s).want - pwrMin j s

/-- The cap of SITE_j (R466), or in confidential mode its fixed share (R467); PWR_MIN while the board drives PROCHOT_N
(R471). -/
def siteGrant (j : Nat) (s : State) : Nat :=
  let mn := pwrMin j s
  if siteCxl j s ∨ (rdb PWR_STATUS_PROCHOT_IN 0 s ∧ !rdb SEC_STATUS_CONFIDENTIAL 0 s) then mn
  else if rdb SEC_STATUS_CONFIDENTIAL 0 s then
    let n := ((readySites s).filter (fun i => rdb PART_CFG_VALID (sitePart i s) s)).length
    if rdb PART_CFG_VALID (sitePart j s) s then
      min (pwrMax j s) (mn + (4 - rd PWR_STATUS_LEVEL 0 s) * (surplus s / max 1 n) / 4)
    else mn
  else
    let sum := ((readySites s).map (fun i => wantOver i s)).sum
    let ended := if sum ≤ surplus s then wantOver j s else surplus s * wantOver j s / max 1 sum
    min (pwrMax j s) (mn + ended)

/-- PWR_REQ (R228): the want and the measured power are taken and the cap is granted. -/
def doPwrReq (j : Nat) (s : State) : State :=
  match takeRx j 0x07 s with
  | none => s
  | some (m, s) =>
    let s := setSite j (fun x => { x with want := slice m.hdr 20 16, reqAt := some (now16 s) }) s
    let s := wr SITE_PWR_MEASURED j (slice m.hdr 36 16) s
    let cap := siteGrant j s
    zcpSend j { opc := 0x1B, cls := 2, hdr := hdrR 0x1B (qTag m.hdr) .ok 0 0 cap } (wr SITE_PWR_CAP j cap s)

/-- PWR_REQ. -/
def execPwrReq (j : Nat) (s : State) : Host.Outcome State Fault Refusal := .next (clocked (doPwrReq j) s)

/-- A changed cap is sent with PWR_CAP (R228). -/
def regrant (j : Nat) (s : State) : State :=
  let cap := siteGrant j s
  if cap = rd SITE_PWR_CAP j s then s else
  let s := wr SITE_PWR_CAP j cap s
  if siteCxl j s then s else zcpSend j { opc := 0x22, cls := 5, hdr := hdrPwrCap cap } s

/-! ## Flits (R217 to R219, R221, R222) -/

/-- Data slots that follow a header (R218). -/
def dataSlots (opc : Nat) : Nat :=
  match opc with
  | 0x18 | 0x19 | 0x1C => 4
  | 0x05 => 5
  | _ => 0

/-- The class of a message a chiplet may send; none for a code it may not (Table 4, and Table 1 of R193). -/
def chipletClass (opc : Nat) : Option Nat :=
  match opc with
  | 0x01 | 0x02 | 0x03 | 0x04 | 0x05 | 0x06 | 0x07 => some 0
  | 0x10 | 0x11 | 0x14 | 0x16 | 0x17 => some 2
  | 0x18 | 0x1A => some 3
  | 0x1C => some 4
  | _ => none

/-- The bits a header may use (Table 3). -/
def headerMask (opc : Nat) : Nat :=
  let f := fun lo w => (2 ^ w - 1) * 2 ^ lo
  match opc with
  | 0x01 | 0x02 | 0x03 | 0x04 | 0x05 => f 0 7 + f 8 12 + f 20 38 + f 64 32
  | 0x1C => f 0 6 + f 8 12 + f 20 38 + f 64 32
  | 0x06 => f 0 6 + f 8 12 + f 20 10 + f 32 32
  | 0x07 => f 0 6 + f 8 12 + f 20 16 + f 36 16
  | 0x17 => f 0 6 + f 8 8 + f 32 32
  | 0x18 => f 0 6 + f 8 12 + f 20 7
  | 0x1A => f 0 6 + f 8 12 + f 20 4 + f 64 64
  | _ => f 0 6 + f 8 12 + f 20 4

/-- The header has no reserved bit set, and its code is one a chiplet may send (R221). -/
def headerGood (h : Nat) : Bool :=
  (chipletClass (slice h 0 6)).isSome && Nat.land h (headerMask (slice h 0 6)) == wrap 128 h

/-- A message whole in its slots. -/
def msgOf (slots : List Nat) : ZMsg :=
  let h := slots.headD 0
  let opc := slice h 0 6
  { opc := opc, cls := (chipletClass opc).getD 0, hdr := h, data := ((slots.drop 1).take 4).flatMap (toBytes 16),
    mask := if opc = 0x05 then wrap 64 (nth 0 slots 5) else 0 }

/-- One slot of a delivered flit (R218): `kind` 0 idle, 1 header, 2 data. None where a rule is broken. -/
def takeSlot (kind v : Nat) (x : Site) : Option Site :=
  let need := match x.slots with
    | [] => 0
    | h :: _ => dataSlots (slice h 0 6) + 1 - x.slots.length
  let finish := fun (slots : List Nat) =>
    if slots.length = dataSlots (slice (slots.headD 0) 0 6) + 1 then { x with slots := [], rx := x.rx ++ [msgOf slots] }
    else { x with slots := slots }
  match kind with
  | 0 => some x
  | 1 => if need = 0 ∧ headerGood v then some (finish [v]) else none
  | 2 => if need = 0 then none else some (finish (x.slots ++ [v]))
  | _ => none

/-- The slots of a flit in order; none where a rule is broken. -/
def takeSlots (map : Nat) : List Nat → Nat → Site → Option Site
  | [], _, x => some x
  | v :: t, i, x =>
    match takeSlot (slice map (2 * i) 2) v x with
    | none => none
    | some y => takeSlots map t (i + 1) y

/-- Credits that a control slot returns, by class (Table 2). -/
def flitCredits (ctrl : Nat) : List Nat := (List.range 6).map (fun i => slice ctrl (16 + 8 * i) 8)

/-- The chiplet's grant is at least what R222 asks: FWD 32, RSP 16, DAT 16, TIM 8. -/
def grantEnough (c : List Nat) : Bool :=
  decide (32 ≤ nth 0 c 1) && decide (16 ≤ nth 0 c 2) && decide (16 ≤ nth 0 c 3) && decide (8 ≤ nth 0 c 5)

/-- The first flit's grant (R222): it is recorded in SITE_CREDIT; too small a one fences the site. -/
def takeGrant (j : Nat) (c : List Nat) (s : State) : State :=
  let s := setSite j (fun x => { x with crd := c, granted := true }) s
  let s := s |> wr SITE_CREDIT_FWD j (nth 0 c 1) |> wr SITE_CREDIT_RSP j (nth 0 c 2) |> wr SITE_CREDIT_DAT j (nth 0 c 3)
    |> wr SITE_CREDIT_TIM j (nth 0 c 5)
  if grantEnough c then s
  else addEntry 0x5 j 4 (identField j 0 4 s) (forceFence j (setB SITE_EVENT_PROTOCOL j s))

/-- A flit is delivered in FSEQ order: control word and slots. -/
def deliverFlit (j : Nat) (flit : List Nat) (s : State) : State :=
  let ctrl := flit.headD 0
  let s := setSite j (fun x => { x with rxSeq := (x.rxSeq + 1) % 65536 }) s
  let c := flitCredits ctrl
  let s := if (site j s).granted then setSite j (fun x => { x with crd := List.zipWith (· + ·) x.crd c }) s else takeGrant j c s
  if siteState j s = 4 then s
  else if slice ctrl 92 36 ≠ 0 then fenceProtocol j 0 s
  else match takeSlots (slice ctrl 64 28) (flit.drop 1) 0 (site j s) with
    | none => fenceProtocol j 0 s
    | some x => zcpPump j { s with sites := put j x s.sites }

/-- Flits that came early follow while they are next (R219). -/
def deliverEarly (j : Nat) : Nat → State → State
  | 0, s => s
  | fuel + 1, s =>
    match look (site j s).early (site j s).rxSeq with
    | none => s
    | some f =>
      let q := (site j s).rxSeq
      deliverEarly j fuel (deliverFlit j f (setSite j (fun x => { x with early := del q x.early }) s))

/-- A site takes flits: READY or RETRAINING, or at the credit exchange of its bring-up. -/
def flitOpen (j : Nat) (s : State) : Bool :=
  siteReady j s || siteState j s == 5 || decide ((site j s).rst = .bringing)

/-- A request waits on SITE_j. -/
def onSite (j : Nat) (r : Req) : Bool := r.cls == 1 && r.port == 64 + j

/-- The modules of SITE_j that are up (R214); a ganged pair has MOD_4 to MOD_7 beside those that MOD_OK shows (R216). -/
def siteMods (j : Nat) (s : State) : Nat := rd SITE_STATUS_MOD_OK j s + 16 * (site j s).upper

/-- The modules of SITE_j that are up are those of `m`. -/
def setMods (j m : Nat) (s : State) : State :=
  s |> wr SITE_STATUS_MOD_OK j (m % 16) |> wr SITE_STATUS_MOD_X8 j (Nat.land (rd SITE_STATUS_MOD_X8 j s) m)
    |> setSite j (fun x => { x with upper := m / 16 })

/-- MODULE_DOWN (R233): module `k` of a READY site goes down; the site retrains and its timers pause. `unacked`: FSEQs of the flits
sent that no adapter of the chiplet's has acknowledged. -/
def doModuleDown (j k : Nat) (unacked : List Nat) (s : State) : State :=
  if !(siteReady j s || siteState j s == 5) || !bit (siteMods j s) k then s else
  s |> setMods j (siteMods j s - 2 ^ k) |> setB SITE_EVENT_MODULE_LOST j
    |> bumpSat SITE_ERR_MOD_LOSS j 1 |> setSite j (fun x => { x with lost := x.lost + 2 ^ k, resend := x.resend ++ unacked })
    |> wr SITE_STATUS_STATE j 5 |> pauseReqs (onSite j)

/-- MODULE_DOWN. -/
def execModuleDown (j k : Nat) (unacked : List Nat) (s : State) : Host.Outcome State Fault Refusal :=
  .next (clocked (doModuleDown j k unacked) s)

/-- ZCP_FLIT_RX (R217 to R219): a flit's control word and fourteen slots arrive on module `k`, after `retries` replays of the
adapter. One already delivered is discarded, one ahead of its turn is kept. After four replays a further CRC failure takes the
module down, and the flit is lost (R232). A flit in H2 or H3 is a wake event (R251). -/
def doZcpFlitRx (j k retries ctrl : Nat) (slots : List Nat) (s : State) : State :=
  if !flitOpen j s || siteCxl j s then s else
  let s := noteWake 0x12 j (count (siteUnit j) 0x42 none (min 4 retries) (bumpSat SITE_ERR_RETRIES j (min 4 retries) s))
  if 4 < retries then doModuleDown j k [] s else
  let s := count (siteUnit j) 0x41 none 1 s
  let q := slice ctrl 0 16
  let ahead := (q + 65536 - (site j s).rxSeq) % 65536
  if 32768 ≤ ahead then s
  else if ahead ≠ 0 then setSite j (fun x => { x with early := put q (ctrl :: slots) x.early }) s
  else deliverEarly j 256 (deliverFlit j (ctrl :: slots) s)

/-- ZCP_FLIT_RX. -/
def execZcpFlitRx (j k retries ctrl : Nat) (slots : List Nat) (s : State) : Host.Outcome State Fault Refusal :=
  .next (clocked (doZcpFlitRx j k retries ctrl slots) s)

/-! ## Messages (R225, R229 to R231) -/

/-- Writes that SITE_j sent before its oldest ARRIVE and that have not completed at home (R223), in hub memory or through a fabric
window. -/
def writesOpen (j : Nat) (s : State) : Bool :=
  ((site j s).rx.takeWhile (fun m => m.opc != 0x06)).any (fun m => m.opc == 0x05 || m.opc == 0x1C) ||
  s.coh.trans.any (fun p => p.2.req.kind == .wrP && whoSite p.2.req.who == some j) ||
  s.coh.queue.any (fun p => p.2.any (fun r => r.kind == .wrP && whoSite r.who == some j)) ||
  s.syr.outbound.any (fun p => p.2.write && whoSite p.2.who == some j) ||
  s.coh.heldHome.any (fun h => h.req.kind == .wrP && whoSite h.req.who == some j)

/-- The status of an ARRIVE of SITE_j on word `g` (R225). -/
def arriveStatus (j g : Nat) (s : State) : Status :=
  if siteOwner j s ≠ some (rd ARRIVAL_CFG_FUNCTION g s) then .accessDenied
  else if !rdb ARRIVAL_CFG_EN g s then .refused
  else .ok

/-- ARRIVE (R225): once the site's earlier writes have completed. -/
def doArrive (j : Nat) (s : State) : State :=
  if writesOpen j s then s else
  match takeRx j 0x06 s with
  | none => s
  | some (m, s) =>
    let g := slice m.hdr 20 10
    match arriveStatus j g s with
    | .ok => zcpAnswer j 0x14 (qTag m.hdr) .ok (arrivalAdd g (slice m.hdr 32 32) s)
    | .refused => zcpAnswer j 0x15 (qTag m.hdr) .refused (arrivalAdd g (slice m.hdr 32 32) s)
    | st => zcpAnswer j 0x15 (qTag m.hdr) st s

/-- ARRIVE. -/
def execArrive (j : Nat) (s : State) : Host.Outcome State Fault Refusal := .next (clocked (doArrive j) s)

/-- CHIP_EVENT (R231): the event goes to the owner of the site's partition. -/
def doChipEvent (j : Nat) (s : State) : State :=
  match takeRx j 0x17 s with
  | none => s
  | some (m, s) =>
    match siteOwner j s with
    | some n => postEvent n 0x0004 j .ok (slice m.hdr 8 8 + 2 ^ 32 * slice m.hdr 32 32) s
    | none => logRec .siteEvent [j, slice m.hdr 8 8, slice m.hdr 32 32] s

/-- CHIP_EVENT. -/
def execChipEvent (j : Nat) (s : State) : Host.Outcome State Fault Refusal := .next (clocked (doChipEvent j) s)

/-- A host access of a chiplet window is completed (R229, R317). -/
def finishAcc (id : Nat) (data : Option (List Byte)) (s : State) : State :=
  match s.host.accs.find? (fun a => a.id == id) with
  | none => s
  | some a =>
    let s := { s with host := { s.host with accs := s.host.accs.filter (fun x => x.id != id) } }
    answerAcc a.stylus a.write a.tag (data.getD (List.replicate a.size 0xFF)) s

/-- An access of a chiplet window failed (R229): the event is set, and a read has all ones and is counted. -/
def windowFailed (j id : Nat) (write : Bool) (ev : Fld) (s : State) : State :=
  finishAcc id none (setB ev j (if write then s else bumpSat SITE_ERR_MMIO_FAIL j 1 s))

/-- The STATUS of a Format R message of SITE_j: a reserved code is taken as UNSUPPORTED and logged against the site (R18). -/
def rStatus (j : Nat) (m : ZMsg) (s : State) : Status × State :=
  let c := slice m.hdr 20 4
  (Status.ofCode c, if Status.reservedCode c then logRec .reservedStatus [0, j, c] s else s)

/-- The request of the hub that an answer's tag names, if its purpose satisfies `p`; a tag in quarantine drops the answer
(R255), any other breaks R221 (R257). -/
def hubReqOf (j tag : Nat) (p : Purpose → Bool) (s : State) : Option Purpose × State :=
  match reqOf 1 (64 + j) tag s with
  | some r => if p r.purpose then (some r.purpose, retireReq r s) else (none, fenceProtocol j 0 s)
  | none =>
    if s.timers.tombs.any (fun t => t.cls == 1 && t.port == 64 + j && t.tag == tag) then (none, bump TMO_COUNT_LATE_DROP 0 1 s)
    else (none, fenceProtocol j 0 s)

/-- MMIO_DATA (R229). -/
def doMmioData (j : Nat) (s : State) : State :=
  match takeRx j 0x1A s with
  | none => s
  | some (m, s) =>
    let c := rStatus j m s
    let s := c.2
    let r := hubReqOf j (qTag m.hdr) (fun p => match p with | .window _ _ w => !w | _ => false) s
    match r.1 with
    | some (.window _ id _) =>
      if c.1 = .ok then
        match r.2.host.accs.find? (fun a => a.id == id) with
        | some a => finishAcc id (some (toBytes a.size (slice m.hdr 64 64))) r.2
        | none => r.2
      else windowFailed j id false SITE_EVENT_PROTOCOL r.2
    | _ => r.2

/-- MMIO_DATA. -/
def execMmioData (j : Nat) (s : State) : Host.Outcome State Fault Refusal := .next (clocked (doMmioData j) s)

/-- ZCP_CMP (R229): the chiplet has performed an MMIO_WR. -/
def doZcpCmp (j : Nat) (s : State) : State :=
  match takeRx j 0x14 s with
  | none => s
  | some (m, s) =>
    let r := hubReqOf j (qTag m.hdr) (fun p => match p with | .window _ _ w => w | _ => false) (rStatus j m s).2
    match r.1 with
    | some (.window _ id _) => finishAcc id none r.2
    | _ => r.2

/-- ZCP_CMP. -/
def execZcpCmp (j : Nat) (s : State) : Host.Outcome State Fault Refusal := .next (clocked (doZcpCmp j) s)

/-! ## Site reset (R238, Table 7) -/

/-- SITE_RST_N_n is driven (0 low, 1 released). -/
def driveSiteRst (j v : Nat) (s : State) : State := emit { kind := .pin, dest := j, args := [1, v] } s

/-- Steps 3 and 4: the site is fenced, its Reset-class SITE fields are restored, it is IN_RESET with SITE_RST_N low and
every module down. -/
def siteDown (j : Nat) (s : State) : State :=
  let s := fenceSite j s
  let s := resetWhere (fun f i => decide (f.rst = .site) && i == j) s
  let s := wr SITE_STATUS_STATE j 1 s
  driveSiteRst j 0 (setSite j (fun _ => { rst := .low (now16 s) }) s)

/-- A site reset starts (R238): a READY ZCP site is asked to quiesce first. -/
def startSiteReset (j : Nat) (s : State) : State :=
  if siteReady j s && !siteCxl j s then
    let s := setSite j (fun x => { x with rst := .quiescing (now16 s + us16 (rd SITE_CFG_QUIESCE_LIMIT j s)) }) s
    zcpSend j { opc := 0x0D, cls := 1, hdr := hdrQuiesce 0x0D 0, purpose := some (.quiesce j 0) } s
  else siteDown j s

/-- The odd half of a ganged pair has no site of its own (R216). -/
def gangedOdd (j : Nat) (s : State) : Bool := j % 2 == 1 && rdb SITE_CFG_GANG (j - 1) s

/-- SITE_RESET (R238): SITE_CTL.RESET is written, or firmware resets the site. -/
def doSiteReset (j : Nat) (s : State) : State :=
  if !siteOn j s || gangedOdd j s then s
  else match (site j s).rst with
    | .quiescing _ => s
    | _ => startSiteReset j s

/-- SITE_RESET. -/
def execSiteReset (j : Nat) (s : State) : Host.Outcome State Fault Refusal := .next (clocked (doSiteReset j) s)

/-- SITE_FENCE (R237): SITE_CTL.FENCE is written. -/
def doSiteFence (j : Nat) (s : State) : State := if !siteOn j s || gangedOdd j s then s else fenceSite j s

/-- SITE_FENCE. -/
def execSiteFence (j : Nat) (s : State) : Host.Outcome State Fault Refusal := .next (clocked (doSiteFence j) s)

/-- RESUME with REASON 1 (R230): the low-power quiescence ends. -/
def sendResume (j : Nat) (s : State) : State :=
  zcpSend j { opc := 0x0E, cls := 1, hdr := hdrQuiesce 0x0E 1, purpose := some (.resume j 1) } s

/-- MGMT_ACK (R230): of a site reset's QUIESCE it ends step 1; of a low-power entry's it is kept for the entry, and where the entry
has unwound by then, a site that is quiesced has RESUME at once. -/
def doMgmtAck (j : Nat) (s : State) : State :=
  match takeRx j 0x16 s with
  | none => s
  | some (m, s) =>
    let c := rStatus j m s
    let r := hubReqOf j (qTag m.hdr) (fun p => match p with | .quiesce _ _ => true | .resume _ _ => true | _ => false) c.2
    match r.1 with
    | some (.quiesce _ 0) =>
      match (site j r.2).rst with
      | .quiescing _ => siteDown j r.2
      | _ => r.2
    | some (.quiesce _ _) =>
      if r.2.power.entry.isSome then
        setSite j (fun x => { x with lpAns := some c.1.code, quiesced := x.quiesced || c.1 == .ok }) r.2
      else if c.1 = .ok then sendResume j r.2 else r.2
    | _ => r.2

/-- MGMT_ACK. -/
def execMgmtAck (j : Nat) (s : State) : Host.Outcome State Fault Refusal := .next (clocked (doMgmtAck j) s)

/-- SITE_QUIESCE_TIMEOUT (R238, step 1): QUIESCE_LIMIT has passed. -/
def doSiteQuiesceTimeout (j : Nat) (s : State) : State :=
  match (site j s).rst with
  | .quiescing till => if due till s then siteDown j s else s
  | _ => s

/-- SITE_QUIESCE_TIMEOUT. -/
def execSiteQuiesceTimeout (j : Nat) (s : State) : Host.Outcome State Fault Refusal := .next (clocked (doSiteQuiesceTimeout j) s)

/-- The site cannot come up: it is EMPTY, and the bring-up record says why (R214, R216, R234). -/
def siteEmpty (j outcome detail : Nat) (s : State) : State :=
  addEntry 0x5 j outcome detail (setSite j (fun x => { x with rst := .none }) (wr SITE_STATUS_STATE j 0 s))

/-- Identity record and configuration do not fit (R234). -/
def identBad (j : Nat) (r : List Byte) (s : State) : Bool :=
  let b := fun i => (nth 0 r i).toNat
  b 4 != 0x10 || !bit (b 5) (rd SITE_CFG_PERSONALITY j s) || !(bit (b 6) 0 || bit (b 6) 1) ||
  (rd SITE_CFG_MAX_RATE j s == 0 && !bit (b 6) 0)

/-- Modules of SITE_j: four, or eight of a ganged pair (R213, R216). -/
def moduleCount (j : Nat) (s : State) : Nat := if rdb SITE_CFG_GANG j s then 8 else 4

/-- One entry for each module that failed or trained at x8 (R214). -/
def moduleEntries (j : Nat) (f : SiteFound) (s : State) : State :=
  forEach (List.range (moduleCount j s)) (fun k s =>
    if !bit f.mods k then addEntry 0x4 (4 * j + k) 2 0 s
    else if bit f.x8 k then addEntry 0x4 (4 * j + k) 1 0 s else s) s

/-- A read (0), a write (1) of a register of the chiplet's sideband, or an SPDM request over its management transport (2). -/
def sideband (j : Nat) (args : List Nat) (s : State) : State := emit { kind := .sideband, dest := j, args := args } s

/-- The identity record is read through sixteen sideband registers (R234). -/
def readIdent (j : Nat) (s : State) : State := forEach (List.range 16) (fun i => sideband j [0, 0xF000 + 4 * i]) s

/-- The root of trust attests the chiplet (R235): its seven SPDM requests, by their place in the sequence from GET_VERSION to
GET_MEASUREMENTS. -/
def attestChiplet (j : Nat) (s : State) : State :=
  if rdb SITE_CFG_ATTEST_REQ j s then forEach (List.range 7) (fun i => sideband j [2, i]) s else s

/-- The boot location is written to the chiplet's sideband registers where the identity record asks for it (R236): the address
as two words, and the length in 4 KiB units. -/
def writeBoot (j : Nat) (s : State) : State :=
  if !bit (identField j 7 1 s) 1 then s else
  let a := rd SITE_BOOT_ADDR j s
  s |> sideband j [1, 0xF040, wrap 32 a] |> sideband j [1, 0xF044, a / 2 ^ 32] |> sideband j [1, 0xF048, rd SITE_BOOT_PAGES j s]

/-- The other half of a pair (R216): at GANG = 1 its own agent ends, and SITE_STATUS.GANGED says so; at 0 it stands alone, EMPTY
until its own reset. -/
def gangOdd (j : Nat) (s : State) : State :=
  if j % 2 = 1 then s
  else if rdb SITE_CFG_GANG j s then
    setB SITE_STATUS_GANGED (j + 1) (setSite (j + 1) (fun x => { x with rst := .none }) (wr SITE_STATUS_STATE (j + 1) 0 (siteDown (j + 1) s)))
  else clrB SITE_STATUS_GANGED (j + 1) s

/-- The modules have trained (R214, R215): those of `f` are up. -/
def trainModules (j : Nat) (f : SiteFound) (s : State) : State :=
  let m := f.mods % 2 ^ moduleCount j s
  s |> wr SITE_STATUS_MOD_X8 j (Nat.land f.x8 m % 16) |> setMods j m
    |> wrb SITE_STATUS_RATE32 j (f.rate32 && rdb SITE_CFG_MAX_RATE j s) |> moduleEntries j f

/-- The identity record has been read (R234); bytes 32 to 63 are copied to the bring-up record. -/
def takeIdent (j : Nat) (l : List Byte) (s : State) : State :=
  let s := setSite j (fun x => { x with ident := l.take 64, rst := .bringing }) (readIdent j s)
  wr SITE_IDENT_RECORD j (ofBytes (l.take 8)) { s with boot := { s.boot with vendor := put j ((l.drop 32).take 32) s.boot.vendor } }

/-- SITE_RESET_RELEASE (R238, step 5): at least 10 µs low, and ENABLE = 1; modules train, the identity record is read, the
chiplet is attested, the boot location written, and credits are to be exchanged. With ENABLE = 0, and for the odd half of a
ganged pair, no step beyond step 4 runs until the next reset. -/
def doSiteResetRelease (j : Nat) (f : SiteFound) (s : State) : State :=
  match (site j s).rst with
  | .low since =>
    if !due (since + us16 10) s then s
    else if !rdb SITE_CTL_ENABLE j s || !siteOn j s || gangedOdd j s then
      wr SITE_STATUS_STATE j 0 (setSite j (fun x => { x with rst := .none }) s)
    else
      let s := trainModules j f (gangOdd j (driveSiteRst j 1 s))
      if rdb SITE_CFG_GANG j s && siteCxl j s then siteEmpty j 3 0 s
      else if siteMods j s = 0 then siteEmpty j 1 0 s
      else
        let s := takeIdent j f.ident s
        if identBad j f.ident s then siteEmpty j 2 (ofBytes (f.ident.take 4)) s
        else
          let s := attestChiplet j (wr SITE_STATUS_STATE j 2 s)
          if rdb SITE_CFG_ATTEST_REQ j s && !f.attested then
            s |> wr SITE_STATUS_STATE j 6 |> setB SITE_EVENT_ATTEST_FAIL j |> setSite j (fun x => { x with rst := .none })
          else
            let s := writeBoot j (wrb SITE_STATUS_ATTESTED j (rdb SITE_CFG_ATTEST_REQ j s) s)
            if siteCxl j s then s else zcpLinkUp j s
  | _ => s

/-- SITE_RESET_RELEASE. -/
def execSiteResetRelease (j : Nat) (f : SiteFound) (s : State) : Host.Outcome State Fault Refusal :=
  .next (clocked (doSiteResetRelease j f) s)

/-- SITE_READY (R238, step 6): credits have been exchanged (a ZCP site) and the site is READY, at PWR_MIN. -/
def doSiteReady (j : Nat) (s : State) : State :=
  if (site j s).rst ≠ .bringing ∨ !(siteCxl j s || (site j s).granted) then s else
  let s := setSite j (fun x => { x with rst := .none, lost := 0 }) s
  let s := s |> wr SITE_STATUS_STATE j 3 |> setB SITE_EVENT_READY j |> wr SITE_PWR_CAP j (pwrMin j s)
  match siteOwner j s with
  | some n => postEvent n 0x0005 j .ok 3 s
  | none => s

/-- SITE_READY. -/
def execSiteReady (j : Nat) (s : State) : Host.Outcome State Fault Refusal := .next (clocked (doSiteReady j) s)

/-! ## Modules (R233) -/


/-- Doorbells that waited for the retraining carry LATE (R226). -/
def markLate (q : List ZMsg) : List ZMsg :=
  q.map (fun m => if m.opc = 0x20 ∧ !bit m.hdr 48 then { m with hdr := m.hdr + 2 ^ 48 } else m)

/-- A timed doorbell at a CXL site is a CXL.io write of VALUE (R240). -/
def cxlDoorbell (j ch value : Nat) (s : State) : State :=
  emit { kind := .cxlSite, dest := j, args := [0x20, wrap 64 (rd SITE_CXL_DB_ADDR j s + 4 * ch)], data := toBytes 4 value } s

/-- The doorbells that wait for SITE_j's retraining, where it is a CXL site. -/
def lateCxl (j : Nat) (s : State) : State :=
  if !siteCxl j s then s else
  forEach s.cal.firings (fun f s =>
    if f.action = 1 ∧ f.sites.contains j then cxlDoorbell j (slice f.arg 8 8) (slice f.arg 16 32) s else s) s

/-- The flits sent that were not acknowledged go out again, in order (R233). -/
def resendFlits (j : Nat) (s : State) : State :=
  let x := site j s
  forEach (x.sent.filter (fun f => x.resend.contains (slice (f.headD 0) 0 16)))
    (fun f s => emit { kind := .zcp, dest := j, args := f } (count (siteUnit j) 0x40 none 1 s))
    (setSite j (fun x => { x with resend := [] }) s)

/-- SITE_RETRAIN_DONE (R233): the site is READY on the modules `mods` that are left; what was not acknowledged is sent again, and
what waited goes out; without a module it is fenced. -/
def doSiteRetrainDone (j mods : Nat) (s : State) : State :=
  if siteState j s ≠ 5 then s else
  let left := Nat.land mods (siteMods j s)
  let s := setMods j left s
  if left = 0 then fenceSite j s else
  let s := s |> wr SITE_STATUS_STATE j 3 |> resumeReqs (onSite j) |> setSite j (fun x => { x with txq := markLate x.txq })
  siteOutcome j .late (lateCxl j (zcpPump j (resendFlits j s)))

/-- SITE_RETRAIN_DONE. -/
def execSiteRetrainDone (j mods : Nat) (s : State) : Host.Outcome State Fault Refusal := .next (clocked (doSiteRetrainDone j mods) s)

/-! ## CXL chiplets (R240, R241) -/

/-- CXL_IO_WRITE (R240): a CXL.io memory request of the chiplet: a 4-byte write at 0x0F00_0000_0000 + 4 g is ARRIVE on word
g; any other below MEM_SIZE is a home read of `len` bytes or a home write of `data`, line by line. -/
def doCxlIoWrite (j tag off len : Nat) (wrt : Bool) (data : List Byte) (s : State) : State :=
  if !siteCxl j s || !siteReady j s then s
  else if wrt && data.length == 4 && decide (0x0F0000000000 ≤ off) && decide (off < 0x0F0000000000 + 4096) && off % 4 == 0 then
    let g := (off - 0x0F0000000000) / 4
    match arriveStatus j g s with
    | .ok => bump ARRIVAL_VALUE g (ofBytes data) s
    | .refused => arrivalAdd g (ofBytes data) (logRec .siteEvent [j, g, Status.refused.code] s)
    | st => logRec .siteEvent [j, g, st.code] s
  else
    let cls := portClass (64 + j) 0 s
    let n := if wrt then data.length else len
    forEach (lineOffs off n) (fun o s =>
      let st := accessStatus (.site j) o wrt s
      let lo := max o off
      let hi := min (o + 64) (off + n)
      if wrt then
        if st ≠ .ok then logRec .siteEvent [j, o, st.code] s
        else
          let bytes := List.replicate (lo - o) 0 ++ ((data.drop (lo - off)).take (hi - lo))
          homeArrive { kind := .homeWrite, line := o / 64, who := .hub, data := bytes ++ List.replicate (64 - bytes.length) 0,
                       mask := (2 ^ (hi - lo) - 1) * 2 ^ (lo - o), cls := cls } s
      else if st ≠ .ok then answer (.cxlIo j tag) st [] s
      else homeArrive { kind := .homeRead, line := o / 64, who := .cxlIo j tag, off := lo - o, len := hi - lo, cls := cls } s) s

/-- CXL_IO_WRITE. -/
def execCxlIoWrite (j tag off len : Nat) (wrt : Bool) (data : List Byte) (s : State) : Host.Outcome State Fault Refusal :=
  .next (clocked (doCxlIoWrite j tag off len wrt data) s)

/-- CXL_SITE_RESPONSE (R239): the chiplet answers a forwarded access, by its tag: its data or a failure, which the host
sees as all ones (R229). -/
def doCxlSiteResponse (j tag : Nat) (a : Answer) (s : State) : State :=
  if !siteCxl j s then s else
  let r := hubReqOf j tag (fun p => match p with | .window _ _ _ => true | _ => false) s
  match r.1 with
  | some (.window _ id write) =>
    match a with
    | .data b => finishAcc id (some b) r.2
    | .fail _ => windowFailed j id write SITE_EVENT_PROTOCOL r.2
  | _ => r.2

/-- CXL_SITE_RESPONSE. -/
def execCxlSiteResponse (j tag : Nat) (a : Answer) (s : State) : Host.Outcome State Fault Refusal :=
  .next (clocked (doCxlSiteResponse j tag a) s)

end Sys2Proof.Machine
end

