-- ==== Sys2Proof/Machine/Rings.lean ====
section
/-! DEFINITION. Sys2Proof/Machine/Rings.lean: rings: doorbells, fetching, starting, stopping, head lines, queued records
and moderation (spec/13_rings_and_descriptors.md R335 to R345, R356 to R361; doorbell watching R319). -/

namespace Sys2Proof.Machine

open Sys2Proof

/-- The hub is in bring-up until HUB_GLOBAL.READY is 1. -/
def hubReady (s : State) : Bool := rdb HUB_GLOBAL_READY 0 s

/-- The rings of the hub (64 functions of 128 slots). -/
def ringCount : Nat := 8192

/-- Indices of rings that are not DISABLED. -/
def activeRings (s : State) : List Nat := (listed RING_STATUS_STATE s).map Prod.fst

/-- Lines the watch cache holds (HOST_WATCH.USED), for one function or, with `none`, for all. -/
def watchUsed (fn : Option Nat) (s : State) : Nat :=
  ((listed RING_STATUS_WATCHED s).filter (fun p => fn.isNone || fn == some (ringFn p.1))).length

/-! ## Stopping -/

/-- The watched line of ring `g` is given up with CleanEvictNoData (R319). -/
def releaseWatch (g : Nat) (s : State) : State :=
  if rdb RING_STATUS_WATCHED g s then
    s |> clrB RING_STATUS_WATCHED g |> setRt g (fun r => { r with watchBusy := false, watchAgain := false })
      |> emit { kind := .cxlCache, dest := ringFn g, args := [2, ringDb g s] }
  else s

/-- A ring meets a cause of Table 7: it stops fetching or writing, and enters STOPPING (R359). -/
def stopOne (g cause : Nat) (st : Status) (s : State) : State :=
  if rd RING_STATUS_STATE g s = 1 ∨ (rd RING_STATUS_STATE g s = 2 ∧ rd RING_STATUS_CAUSE g s = 0) then
    releaseWatch g (s |> wr RING_STATUS_STATE g 2 |> wr RING_STATUS_CAUSE g cause
      |> wr RING_STATUS_FAIL_STATUS g st.code)
  else s

/-- Ring `g` stops; the submission rings that complete to it stop with CQ_STOPPED (Table 7, cause 7). -/
def stopRing (g cause : Nat) (st : Status) (s : State) : State :=
  let users := (activeRings s).filter (fun r => !rdb RING_CFG_KIND r s && ringCq r s == g && r != g)
  let s := stopOne g cause st s
  if rdb RING_CFG_KIND g s then forEach users (fun r s => stopOne r 7 .ok s) s else s

/-! ## Fetching (R336, R341 to R343) -/

/-- The ring may fetch one descriptor more: it runs, work is pending, its completion ring has a free slot (R342), and a
calendar-held ring stays within 64 of its release (R343). -/
def canFetch (g : Nat) (s : State) : Bool :=
  ringRunning g s && !rdb RING_CFG_KIND g s && dispatching s && busMaster (ringFn g) s &&
  wrap 32 ((rt g s).producer + 2 ^ 32 - rd RING_IDX_NEXT g s) != 0 &&
  ringRunning (ringCq g s) s && decide (0 < ringFree (ringCq g s) s) &&
  (!rdb RING_CFG_CAL_HELD g s ||
    decide (toSigned 32 (rd RING_IDX_NEXT g s + 2 ^ 32 - rd RING_IDX_RELEASE g s) < 64))

/-- Host address of the slot of count `k` of submission ring `g` (R336). -/
def slotVa (g k : Nat) (s : State) : Nat := rd RING_BASE_BASE g s * 4096 + k % ringSize g s * 64

/-- One descriptor is fetched: its slot is reserved first (R342). -/
def fetchOne (g : Nat) (s : State) : State :=
  let k := rd RING_IDX_NEXT g s
  s |> setRt (ringCq g s) (fun r => { r with reserved := r.reserved + 1 })
    |> wr RING_IDX_NEXT g (k + 1)
    |> (fun s => { s with rings := { s.rings with descs := s.rings.descs ++ [{ ring := g, count := k }] } })
    |> hostAccess (ringFn g) (ringPasid g s) (slotVa g k s) 64 false (.descFetch g k) [] 64

/-- Descriptors are fetched while the ring may fetch, at most `fuel` of them. -/
def fetchSome (g : Nat) : Nat → State → State
  | 0, s => s
  | fuel + 1, s => if canFetch g s then fetchSome g fuel (fetchOne g s) else s

/-- Every descriptor that may be fetched is fetched. -/
def fetchMore (g : Nat) (s : State) : State :=
  fetchSome g (wrap 32 ((rt g s).producer + 2 ^ 32 - rd RING_IDX_NEXT g s)) s

/-- DOORBELL_PICKUP (R338, R340): word 0 of a doorbell line is taken. -/
def pickup (g w0 : Nat) (s : State) : State :=
  let prod := wrap 32 w0
  if slice w0 32 32 ≠ rd RING_EPOCH_EPOCH g s then stopRing g 3 .ok s
  else if ringSize g s < wrap 32 (prod + 2 ^ 32 - rd RING_IDX_NEXT g s) then stopRing g 2 .ok s
  else fetchMore g (setRt g (fun r => { r with producer := prod }) s)

/-- A doorbell line has been read, or the read failed (Table 7, FETCH_FAULT; R373). -/
def doorbellRead (g : Nat) (a : Answer) (s : State) : State :=
  match a with
  | .data b => pickup g (ofBytes (b.take 8)) (count hostUnit 0x80 (some (ringFn g)) 1 s)
  | .fail st => stopRing g 1 st (noteAnswer a (ringFn g) (ringPasid g s) (ringDb g s) s)

/-- The interval between two polls of ring `g`, in 1/16 ns; 0 acts as 1 µs. -/
def pollEvery (g : Nat) (s : State) : Nat := us16 (max 1 (rd RING_CFG_POLL_US g s))

/-- An access is already waiting for its translation. -/
def xWaiting (p : Purpose) (s : State) : Bool :=
  (s.xlat.waits ++ s.xlat.faults ++ s.xlat.batches.flatMap Batch.waits).any (fun w => decide (w.purpose = p))

/-- A ring structure may be read now: the translation of its address is at hand (R364, R366). -/
def ringReadable (g va : Nat) (s : State) : Bool :=
  !(fnCfg (ringFn g) s).atsEn || (xLookup (ringFn g) (ringPasid g s) va false 64 s).isSome

/-- The translation of a ring structure's address is asked for, once. -/
def askRing (g va : Nat) (p : Purpose) (s : State) : State :=
  if xWaiting p s then s else
  xMiss { fn := ringFn g, pasid := ringPasid g s, page := va / 4096, write := false, purpose := p, va := va, len := 8 } s

/-- DOORBELL_POLL (R339): a polled ring's doorbell line is read every POLL_US µs, and once at enable. -/
def doDoorbellPoll (g : Nat) (a : Answer) (s : State) : State :=
  let ready := match (rt g s).polledAt with
    | some t => due (t + pollEvery g s) s
    | none => true
  if !(ringRunning g s && !rdb RING_CFG_KIND g s && !rdb RING_CFG_MODE g s && ready && dispatching s &&
       busMaster (ringFn g) s) then s
  else if !ringReadable g (ringDb g s) s then askRing g (ringDb g s) (.doorbell g) s
  else doorbellRead g a (setRt g (fun r => { r with polledAt := some (now16 s) }) s)

/-- DOORBELL_POLL. -/
def execDoorbellPoll (g : Nat) (a : Answer) (s : State) : Host.Outcome State Fault Refusal := .next (clocked (doDoorbellPoll g a) s)

/-! ## Doorbell watching (R319, R320) -/

/-- Doorbells of ring `g` may be taken up: the hub is READY (R313) and the function may use the host (R315). -/
def mayPickUp (g : Nat) (s : State) : Bool := dispatching s && busMaster (ringFn g) s

/-- RdShared is issued for the doorbell line of ring `g`, once its address is translated (R320); while doorbells are not taken
up, it is owed. -/
def watchRead (g : Nat) (s : State) : State :=
  if !mayPickUp g s then setRt g (fun r => { r with watchAgain := true }) s
  else if !ringReadable g (ringDb g s) s then askRing g (ringDb g s) (.watch g) s else
  s |> setRt g (fun r => { r with watchBusy := true, watchAgain := false })
    |> emit { kind := .cxlCache, dest := ringFn g, args := [0, ringDb g s] }

/-- What held back the work of ring `g` is over: an owed read of its watched line is made, and fetching goes on (R313, R315). -/
def resumeRing (g : Nat) (s : State) : State :=
  fetchMore g (if rdb RING_STATUS_WATCHED g s && (rt g s).watchAgain && !(rt g s).watchBusy then watchRead g s else s)

/-- WATCH_SNOOP (R319): the host snoops a watched line; `kind` 0 SnpInv, 1 SnpData, 2 SnpCur. SnpInv is answered with
RspIHitI and the line is read again; the others with RspSHitSE. -/
def doWatchSnoop (g kind : Nat) (s : State) : State :=
  if !rdb RING_STATUS_WATCHED g s then s
  else if kind = 0 then
    let s := emit { kind := .cxlCache, dest := ringFn g, args := [3, ringDb g s] } s
    if (rt g s).watchBusy then setRt g (fun r => { r with watchAgain := true }) s else watchRead g s
  else
    let s := emit { kind := .cxlCache, dest := ringFn g, args := [4, ringDb g s] } s
    if (rt g s).watchBusy then setRt g (fun r => { r with watchAgain := true }) s else s

/-- WATCH_SNOOP. -/
def execWatchSnoop (g kind : Nat) (s : State) : Host.Outcome State Fault Refusal := .next (clocked (doWatchSnoop g kind) s)

/-- WATCH_READ_DATA (R319): the outstanding RdShared of ring `g` is answered; a snoop since then owes one more. -/
def doWatchReadData (g : Nat) (a : Answer) (s : State) : State :=
  if !(rdb RING_STATUS_WATCHED g s && (rt g s).watchBusy) then s else
  let again := (rt g s).watchAgain || !mayPickUp g s
  let s := setRt g (fun r => { r with watchBusy := false, watchAgain := false }) s
  let s := if mayPickUp g s && ringRunning g s then doorbellRead g a s else s
  if again && rdb RING_STATUS_WATCHED g s then watchRead g s else s

/-- WATCH_READ_DATA. -/
def execWatchReadData (g : Nat) (a : Answer) (s : State) : Host.Outcome State Fault Refusal := .next (clocked (doWatchReadData g a) s)

/-! ## Descriptor headers (R344, R345) -/

/-- The bits that words 2 to 7 of a SERVICE descriptor may use, by SUBOP (R444). -/
def serviceMasks (sub : Nat) : Option (List Nat) :=
  let m := fun n => 2 ^ n - 1
  match sub with
  | 0x01 | 0x02 => some [m 14]
  | 0x03 | 0x04 | 0x06 => some [m 13]
  | 0x05 => some [m 13 + 7 * 2 ^ 16]
  | 0x07 => some [m 8, m 44, m 32]
  | 0x08 => some [m 10 + 255 * 2 ^ 16]
  | 0x09 => some [m 10, m 16]
  | _ => none

/-- The bits that words 2 to 7 of a POWER descriptor may use, by SUBOP (R452); 0 is a reserved STATE. -/
def powerMasks (w2 : Nat) : Option (List Nat) :=
  let m := fun n => 2 ^ n - 1
  match wrap 8 w2 with
  | 0x01 => if slice w2 8 2 = 0 then none else some [m 11, m 64]
  | 0x02 => some [m 8]
  | 0x03 => some [m 8 + m 33 * 2 ^ 16, m 64]
  | 0x04 => some [m 40, m 32]
  | _ => none

/-- The bits that words 2 to 7 of a descriptor of a type may use (R348, Table 4; the tables of the other chapters); `w2` is
word 2. -/
def descMasks (ty w2 : Nat) : Option (List Nat) :=
  let m := fun n => 2 ^ n - 1
  match ty with
  | 0x00 => some []
  | 0x01 => some [m 64, m 64, m 22]
  | 0x02 => some [m 47, m 64, m 64]
  | 0x08 => some [m 44, m 26]
  | 0x09 => some [m 44, m 6]
  | 0x0A => some [m 62 - 0xF0, m 48, m 64, m 64, m 44, m 44]
  | 0x10 => some [m 44, m 29]
  | 0x11 => some [m 20, m 23]
  | 0x12 => some [m 46 + 3 * 2 ^ 48, m 23, m 44]
  | 0x13 => some [m 32, m 46]
  | 0x14 | 0x15 => some [m 32, m 36, m 64]
  | 0x16 => some [m 33]
  | 0x17 => some [m 44]
  | 0x18 => some [m 32]
  | 0x19 => some [m 32, m 44]
  | 0x1A => some [m 57, m 16]
  | 0x1B => some [m 17]
  | 0x20 => some [m 64, m 64, m 64, m 64]
  | 0x21 => some [m 64, m 64, m 64, m 64, m 13]
  | 0x22 => some [m 8, m 44]
  | 0x30 => some [m 64, m 64, m 26]
  | 0x31 => some [m 28, m 64 - m 12, m 32]
  | 0x32 => some [m 6]
  | 0x33 => serviceMasks (wrap 8 w2)
  | 0x34 => powerMasks w2
  | _ => none

/-- No word of `ws` has a bit outside its mask; words past the masks are zero. -/
def withinMasks : List Nat → List Nat → Bool
  | [], _ => true
  | w :: ws, ms => Nat.land w (2 ^ 64 - 1 - ms.headD 0) == 0 && withinMasks ws ms.tail

/-- What the header check of R345 reports, if anything: ACCESS_DENIED before UNSUPPORTED (R17). -/
def headerFail (g : Nat) (ws : List Nat) (s : State) : Option Status :=
  let w0 := nth 0 ws 0
  let ty := wrap 8 w0
  if (0x30 ≤ ty ∧ ty ≤ 0x34 ∧ g ≠ 0) ∨ (bit w0 11 ∧ !arrivalOwned (ringFn g) (slice w0 12 10) s) then
    some .accessDenied
  else match descMasks ty (nth 0 ws 2) with
    | none => some .unsupported
    | some ms =>
      if slice w0 22 10 ≠ 0 ∨ !withinMasks (ws.drop 2) ms ∨ (bit w0 11 ∧ ty = 0x0A) then some .unsupported else none

/-- The earlier descriptors of the ring that satisfy `p`: those whose counts precede `k`. -/
def earlier (g k : Nat) (s : State) : List Desc :=
  (s.rings.descs.filter (fun d => d.ring == g)).filter (fun d => decide (0 < toSigned 32 (k + 2 ^ 32 - d.count)))

/-- The eight words of 64 bytes. -/
def wordsOf (n : Nat) (b : List Byte) : List Nat := (List.range n).map (fun i => ofBytes ((b.drop (8 * i)).take 8))

/-- The fetch of count `k` of ring `g` fails: nothing from this count on was fetched, so the slots and NEXT go back (R359,
recovery step 4), and the ring stops with FETCH_FAULT. -/
def fetchFailed (g k : Nat) (st : Status) (s : State) : State :=
  let gone := (s.rings.descs.filter (fun d => d.ring == g && decide (d.st = .fetching))).length
  let s := s |> setRt (ringCq g s) (fun r => { r with reserved := r.reserved - gone }) |> wr RING_IDX_NEXT g k
  let left := s.rings.descs.filter (fun d => !(d.ring == g && decide (d.st = .fetching)))
  stopRing g 1 st { s with rings := { s.rings with descs := left } }

/-- DESCRIPTOR_FETCHED (R341, R345, R359): the fetch of count `k` of ring `g` is answered. -/
def doDescriptorFetched (g k : Nat) (a : Answer) (s : State) : State :=
  match descOf g k s with
  | none => s
  | some d =>
    if d.st ≠ .fetching ∨ (reqFor (.descFetch g k) s).isNone ∨
       (earlier g k s).any (fun e => decide (e.st = .fetching)) then s else
    let s := retireFor (.descFetch g k) s
    match a with
    | .data b =>
      let ws := wordsOf 8 b
      let s := count hostUnit 0x81 (some (ringFn g)) 1 s
      let s := setDesc g k (fun d => { d with words := ws, st := .ready }) s
      match headerFail g ws s with
      | some st => failDesc g k st s
      | none => s
    | .fail st => fetchFailed g k st (noteAnswer a (ringFn g) (ringPasid g s) (slotVa g k s) s)

/-- DESCRIPTOR_FETCHED. -/
def execDescriptorFetched (g k : Nat) (a : Answer) (s : State) : Host.Outcome State Fault Refusal :=
  .next (clocked (doDescriptorFetched g k a) s)

/-- A record of an earlier descriptor of the ring is not yet visible. -/
def recordPending (g k : Nat) (s : State) : Bool :=
  let mine := fun p => match p with
    | Purpose.recordWrite _ sub c _ _ => sub == g && decide (0 < toSigned 32 (k + 2 ^ 32 - c))
    | _ => false
  (s.xlat.waits ++ s.xlat.faults ++ s.xlat.batches.flatMap Batch.waits).any (fun w => mine w.purpose) ||
  s.timers.waiting.any (fun h => mine h.purpose)

/-- The types whose work needs a tile (R461): Graver, attention and the session operations that need a panel mover
(R119), and COPY (R349). -/
def needsTile (ty : Nat) : Bool :=
  ty == 0x01 || ty == 0x08 || ty == 0x09 || ty == 0x0A || (decide (0x11 ≤ ty) && decide (ty ≤ 0x18))

/-- The descriptor may start: every earlier one has started, a FENCE has every earlier one complete with its record
visible (R341), and a calendar-held ring has released it (R343). -/
def canStart (g k : Nat) (d : Desc) (s : State) : Bool :=
  decide (d.st = .ready) && (earlier g k s).all (fun e => decide (e.st = .started)) && dispatching s &&
  !(tilesHeld s && needsTile (wrap 8 (d.word 0))) &&
  (!bit (d.word 0) 8 || ((earlier g k s).isEmpty && !recordPending g k s)) &&
  (!rdb RING_CFG_CAL_HELD g s || decide (toSigned 32 (k + 2 ^ 32 - rd RING_IDX_RELEASE g s) < 0))

/-- The hub leaves H1 for H0 (R461). -/
def leaveH1 (s : State) : State :=
  if rd PWR_STATUS_STATE 0 s = 1 then count ctlUnit 0xC1 none 1 (wr PWR_STATUS_STATE 0 0 s) else s

/-- Work that ends H1 starts, and idle time begins anew (R461). -/
def startWork (s : State) : State := leaveH1 (setPower (fun p => { p with workAt := now16 s }) s)

/-- The descriptor of count `k` of ring `g` starts, after every one that has (R341). -/
def startDesc (g k : Nat) (s : State) : State :=
  setDesc g k (fun d => { d with st := .started, seq := s.rings.nextSeq })
    { s with rings := { s.rings with nextSeq := s.rings.nextSeq + 1 } }

/-- DESCRIPTOR_START (R341, R343; H1_EXIT, R461). -/
def doDescriptorStart (g k : Nat) (s : State) : State :=
  match descOf g k s with
  | none => s
  | some d =>
    if !canStart g k d s then s else
    let s := startDesc g k s
    if needsTile (wrap 8 (d.word 0)) then startWork s else s

/-- DESCRIPTOR_START. -/
def execDescriptorStart (g k : Nat) (s : State) : Host.Outcome State Fault Refusal := .next (clocked (doDescriptorStart g k) s)

/-! ## Head lines and queued records (R342, R356) -/

/-- Submission rings that complete to ring `g`. -/
def ringUsers (g : Nat) (s : State) : List Nat :=
  (activeRings s).filter (fun r => !rdb RING_CFG_KIND r s && ringCq r s == g)

/-- HEAD_LINE_READ (R342): while FREE is 0 the head line is read, at most once per microsecond. -/
def doHeadLineRead (g : Nat) (a : Answer) (s : State) : State :=
  let ready := match (rt g s).headAt with
    | some t => due (t + us16 1) s
    | none => true
  if !(rdb RING_CFG_KIND g s && cqWrites g s && ringFree g s == 0 && ready && busMaster (ringFn g) s) then s
  else if !ringReadable g (ringDb g s) s then askRing g (ringDb g s) (.headLine g) s
  else
    let s := setRt g (fun r => { r with headAt := some (now16 s) }) s
    match a with
    | .fail st => stopRing g 4 st (noteAnswer a (ringFn g) (ringPasid g s) (ringDb g s) s)
    | .data b =>
      let c := wrap 32 (ofBytes (b.take 4))
      if ringSize g s < wrap 32 (rd RING_IDX_NEXT g s + 2 ^ 32 - c) then stopRing g 2 .ok s
      else forEach (ringUsers g s) fetchMore (setRt g (fun r => { r with consumed := c }) s)

/-- HEAD_LINE_READ. -/
def execHeadLineRead (g : Nat) (a : Answer) (s : State) : Host.Outcome State Fault Refusal := .next (clocked (doHeadLineRead g a) s)

/-- QUEUED_RECORD_WRITE (R356): the oldest record of function `n`'s queue is written once its ring has a free slot; a
record whose ring no longer writes is lost (R359). -/
def doQueuedRecordWrite (n : Nat) (s : State) : State :=
  match lookD [] s.rings.queued n with
  | [] => s
  | (g, r) :: rest =>
    let pop := { s with rings := { s.rings with queued := put n rest s.rings.queued } }
    if !cqWrites g s then cqLost n pop
    else if ringFree g s = 0 then s
    else writeRec g 8192 0 r pop

/-- QUEUED_RECORD_WRITE. -/
def execQueuedRecordWrite (n : Nat) (s : State) : Host.Outcome State Fault Refusal := .next (clocked (doQueuedRecordWrite n) s)

/-- IRQ_MOD_TIMEOUT (R358): MOD_US µs have passed since the oldest unsignalled record was written. -/
def doIrqModTimeout (g : Nat) (s : State) : State :=
  if rdb RING_MOD_IRQ_EN g s && decide (0 < (rt g s).unsignalled) && due ((rt g s).oldest + us16 (rd RING_MOD_MOD_US g s)) s
  then signalRing g s else s

/-- IRQ_MOD_TIMEOUT. -/
def execIrqModTimeout (g : Nat) (s : State) : Host.Outcome State Fault Refusal := .next (clocked (doIrqModTimeout g) s)

/-! ## Enabling and disabling (R359 to R361) -/

/-- The set-up of ring `g` is wrong at enable (R359). -/
def ringConfigBad (g : Nat) (s : State) : Bool :=
  decide (rd RING_CFG_SIZE_LOG2 g s < 4) || decide (16 < rd RING_CFG_SIZE_LOG2 g s) ||
  (!rdb RING_CFG_KIND g s && !(rdb RING_CFG_KIND (ringCq g s) s && rdb RING_CTL_ENABLE (ringCq g s) s)) ||
  decide (vectorCount (ringFn g) ≤ rd RING_MOD_VECTOR g s)

/-- No watch line is to be had for ring `g` (R339): CXL.cache not negotiated, WATCH_EN = 0, all 4,096 lines in use, or in
confidential mode the function's 64 (R396). -/
def watchUnavailable (g : Nat) (s : State) : Bool :=
  !rdb HOST_STATUS_CXL_CACHE 0 s || !rdb HOST_CTL_WATCH_EN 0 s || decide (4096 ≤ watchUsed none s) ||
  (rdb SEC_STATUS_CONFIDENTIAL 0 s && decide (64 ≤ watchUsed (some (ringFn g)) s))

/-- RING_ENABLE (R359): ENABLE = 1 on a DISABLED ring starts it from NEXT, or stops it with its cause. -/
def doRingEnable (g : Nat) (s : State) : State :=
  if rd RING_STATUS_STATE g s ≠ 0 ∨ ringCount ≤ g then s else
  let n := rd RING_IDX_NEXT g s
  let s := s |> setB RING_CTL_ENABLE g |> wr RING_STATUS_STATE g 1 |> wr RING_STATUS_CAUSE g 0
    |> wr RING_STATUS_FAIL_STATUS g 0
    |> setRt g (fun _ => { producer := n, consumed := n })
  if ringConfigBad g s then stopRing g 6 .ok s
  else if rdb RING_CFG_KIND g s || !rdb RING_CFG_MODE g s then s
  else if watchUnavailable g s then stopRing g 5 .ok s
  else watchRead g (setB RING_STATUS_WATCHED g s)

/-- RING_ENABLE. -/
def execRingEnable (g : Nat) (s : State) : Host.Outcome State Fault Refusal := .next (clocked (doRingEnable g) s)

/-- Completion ring `g` is named by an enabled submission ring, CAL_CQ or EVENT_CQ (R360). -/
def ringNamed (g : Nat) (s : State) : Bool :=
  let n := ringFn g
  (listed RING_CTL_ENABLE s).any (fun p => p.1 != g && !rdb RING_CFG_KIND p.1 s && ringCq p.1 s == g) ||
  (rdb RING_FN_CTL_CAL_EN n s && 128 * n + rd RING_FN_CTL_CAL_CQ n s == g) ||
  (rdb RING_FN_CTL_EVENT_EN n s && 128 * n + rd RING_FN_CTL_EVENT_CQ n s == g)

/-- RING_DISABLE (R360): ENABLE = 0. -/
def doRingDisable (g : Nat) (s : State) : State :=
  if rdb RING_CFG_KIND g s && ringNamed g s then s else
  let s := clrB RING_CTL_ENABLE g s
  match rd RING_STATUS_STATE g s with
  | 1 | 3 => releaseWatch g (s |> wr RING_STATUS_STATE g 2 |> wr RING_STATUS_CAUSE g 0)
  | _ => s

/-- RING_DISABLE. -/
def execRingDisable (g : Nat) (s : State) : Host.Outcome State Fault Refusal := .next (clocked (doRingDisable g) s)

/-- Every descriptor fetched from ring `g` has completed with its record written; of a completion ring, RESERVED is 0. -/
def ringDrained (g : Nat) (s : State) : Bool :=
  if rdb RING_CFG_KIND g s then (rt g s).reserved == 0
  else !(s.rings.descs.any (fun d => d.ring == g)) && !recordPending g (rd RING_IDX_NEXT g s) s

/-- RING_STOPPED (R359, R360): a stopping ring reaches STOPPED, or DISABLED where ENABLE is 0; a stop with a cause is
posted as RING_STOPPED, unless the event ring itself stopped. -/
def doRingStopped (g : Nat) (s : State) : State :=
  if rd RING_STATUS_STATE g s ≠ 2 ∨ !ringDrained g s then s else
  let n := ringFn g
  let cause := rd RING_STATUS_CAUSE g s
  let st := Status.ofCode (rd RING_STATUS_FAIL_STATUS g s)
  let s := wr RING_STATUS_STATE g (if rdb RING_CTL_ENABLE g s then 3 else 0) s
  if cause = 0 ∨ (rdb RING_FN_CTL_EVENT_EN n s ∧ 128 * n + rd RING_FN_CTL_EVENT_CQ n s = g) then s
  else postEvent n 0x000A (g % 128) st cause s

/-- RING_STOPPED. -/
def execRingStopped (g : Nat) (s : State) : Host.Outcome State Fault Refusal := .next (clocked (doRingStopped g) s)

/-- RING_IDX_WRITE (R361): while DISABLED, a write of RING_IDX sets NEXT and RELEASE, as far as the access covers them. -/
def doRingIdxWrite (g : Nat) (next release : Option Nat) (s : State) : State :=
  if rd RING_STATUS_STATE g s ≠ 0 then s else
  let s := match next with | some v => wr RING_IDX_NEXT g v s | none => s
  match release with | some v => wr RING_IDX_RELEASE g v s | none => s

/-- RING_IDX_WRITE. -/
def execRingIdxWrite (g : Nat) (next release : Option Nat) (s : State) : Host.Outcome State Fault Refusal :=
  .next (clocked (doRingIdxWrite g next release) s)

/-- A calendar release adds to a ring's RELEASE, running or not, and fetching goes on (R343, R361). -/
def addRelease (g n : Nat) (s : State) : State := fetchMore g (bump RING_IDX_RELEASE g n s)

/-- NOP (R348): completes OK with RESULT 0. -/
def doNopDesc (g k : Nat) (s : State) : State :=
  match runningDesc g k 0x00 s with
  | none => s
  | some _ => completeDesc g k .ok 0 0 0 s

/-- NOP. -/
def execNopDesc (g k : Nat) (s : State) : Host.Outcome State Fault Refusal := .next (clocked (doNopDesc g k) s)

end Sys2Proof.Machine
end

