-- ==== Sys2Proof/Machine/Translation.lean ====
section
/-! DEFINITION. Sys2Proof/Machine/Translation.lean: address translation and faults, invalidation, COPY and ATOMIC
(spec/14_translation.md R364 to R378; spec/13_rings_and_descriptors.md R349, R350). -/

namespace Sys2Proof.Machine

open Sys2Proof

/-- `s` with the translation state changed. -/
def setXlat (f : Xlat → Xlat) (s : State) : State := { s with xlat := f s.xlat }

/-! ## Moves that end -/

/-- A COPY whose pieces are all at their end completes (R349, R373). -/
def endCopy (g k : Nat) (x : Job) (j : Nat) (s : State) : State :=
  let s := dropJob j s
  match descOf g k s with
  | none => s
  | some d => completeDesc g k x.status x.moved (if slice (d.word 4) 19 2 = 2 then 0 else x.mask) 0 s

/-- Job `j` goes as far as it can; a COPY that is over completes. -/
def settleJob (j : Nat) (s : State) : State :=
  let s := advanceJob j s
  match jobOf j s with
  | some x => (match x.who with
    | .copy g k => if x.ended then endCopy g k x j s else s
    | _ => s)
  | none => s

/-- Every job goes as far as it can. -/
def settleJobs (s : State) : State := forEach (s.xlat.jobs.map Prod.fst) settleJob s

/-! ## Refusals (R373) -/

/-- An access outside the hub ended with `st` and no data: what it was for fails (R359, R373). -/
def accessFailed (p : Purpose) (st : Status) (s : State) : State :=
  match p with
  | .descFetch g k => fetchFailed g k st s
  | .doorbell g | .watch g => stopRing g 1 st s
  | .headLine g => stopRing g 4 st s
  | .recordWrite g _ _ _ _ => stopRing g 4 st s
  | .piece j q => setPiece j q (if st = .pageFault then .refused else .failed st) s
  | _ => s

/-- A translation is refused (R369, R373): counted, the first one logged, and the operation has PAGE_FAULT. -/
def refuseWait (w : XWait) (s : State) : State :=
  accessFailed w.purpose .pageFault (noteRefused w.fn w.pasid (4096 * w.page) s)

/-- Every wait of a list is refused. -/
def refuseAll (l : List XWait) (s : State) : State := forEach l refuseWait s

/-! ## Page-request batches (R370, R371) -/

/-- The port whose tags are the PRG indices of function `n`. -/
def prgPort (n : Nat) : Nat := 256 + n

/-- Pages of a batch. -/
def Batch.pages (b : Batch) : List Nat := (b.waits.map XWait.page).eraseDups

/-- Page requests outstanding, or gathered, for function `n`. -/
def pagesOut (n : Nat) (s : State) : Nat :=
  (s.xlat.batches.filter (fun b => b.fn == n)).foldl (fun a b => a + b.pages.length) 0

/-- Pages that a batch may hold (TRN_CTL.GROUP_MAX: 0 acts as 1, values above 32 as 32). -/
def groupMax (s : State) : Nat := max 1 (min 32 (rd TRN_CTL_GROUP_MAX 0 s))

/-- Gather time in 1/16 ns (0 acts as 1 µs). -/
def gatherTime (s : State) : Nat := us16 (max 1 (rd TRN_CTL_GATHER_US 0 s))

/-- A PRG index of function `n` that is neither outstanding nor in quarantine. -/
def freePrg (n : Nat) (s : State) : Option Nat :=
  firstBelow 512 (fun i => !(s.xlat.batches.any (fun b => b.fn == n && b.prg == i)) && !tagBusy 3 (prgPort n) i s)

/-- `s` with the batch of function `n` and index `i` changed. -/
def setBatch (n i : Nat) (f : Batch → Batch) (s : State) : State :=
  setXlat (fun x => { x with batches := x.batches.map (fun b => if b.fn = n ∧ b.prg = i then f b else b) }) s

/-- The Page Requests of a batch leave, the last with the Last bit; the group's timer starts (R370). Bus Master Enable at 0 holds
them (R315). -/
def sendBatch (b : Batch) (s : State) : State :=
  if !busMaster b.fn s then s else
  let s := setBatch b.fn b.prg (fun b => { b with sent := true, sentAt := now16 s }) s
  let s := { s with timers := { s.timers with reqs := s.timers.reqs ++
    [{ cls := 3, port := prgPort b.fn, tag := b.prg, fn := b.fn, purpose := .pri b.fn b.prg, limit := classLimit 3 s,
       deadline := now16 s + classLimit 3 s }] } }
  let ps := b.pages
  let wants := fun p => b2n (b.waits.any (fun w => w.page == p && w.write))
  let req := fun (p : Nat × Nat) => [b.pasid, p.1, wants p.1, b2n (p.2 + 1 == ps.length)]
  forEach ps.zipIdx (fun p s => emit { kind := .pageRequest, dest := b.fn, tag := b.prg, args := req p } (count hostUnit 0x84 (some b.fn) 1 s)) s

/-- A fault joins the batch that gathers for its function and PASID, or opens one; with a limit of R370 reached it waits. -/
def gatherFault (w : XWait) (s : State) : State :=
  let hold := setXlat (fun x => { x with faults := x.faults ++ [w] }) s
  match s.xlat.batches.find? (fun b => !b.sent && b.fn == w.fn && b.pasid == w.pasid) with
  | some b =>
    if b.pages.contains w.page then setBatch b.fn b.prg (fun b => { b with waits := b.waits ++ [w] }) s
    else if (fnCfg w.fn s).priAlloc ≤ pagesOut w.fn s then hold
    else
      let b2 := { b with waits := b.waits ++ [w] }
      let s := setBatch b.fn b.prg (fun _ => b2) s
      if groupMax s ≤ b2.pages.length then sendBatch b2 s else s
  | none =>
    if (fnCfg w.fn s).priAlloc ≤ pagesOut w.fn s then hold else
    match freePrg w.fn s with
    | none => hold
    | some i =>
      let b : Batch := { fn := w.fn, pasid := w.pasid, prg := i, openedAt := now16 s, waits := [w] }
      let s := setXlat (fun x => { x with batches := x.batches ++ [b] }) s
      if groupMax s ≤ 1 then sendBatch b s else s

/-- The faults that waited for room gather again. -/
def regather (n : Nat) (s : State) : State :=
  let l := s.xlat.faults.filter (fun w => w.fn == n)
  forEach l gatherFault (setXlat (fun x => { x with faults := x.faults.filter (fun w => w.fn != n) }) s)

/-- A translation without the permission asked for (R369): a fault where PRI can be used, else refused. -/
def noPermission (w : XWait) (s : State) : State :=
  if (fnCfg w.fn s).priEn && !s.xlat.blocked.contains w.fn && !w.retry then gatherFault w s else refuseWait w s

/-- A translated access goes on (R366): data moves; a ring structure is read again by its own command. -/
def granted (w : XWait) (e : XEntry) (s : State) : State :=
  let s := if w.tile < 64 then fillTile w.tile e s else s
  match w.purpose with
  | .doorbell _ | .headLine _ => s
  | .watch g => if rdb RING_STATUS_WATCHED g s then watchRead g s else s
  | p => hostIssue w.fn w.pasid w.va w.len w.write p w.data (some (xAddr w.va e)) s

/-- An access is translated again after its batch was granted (R371). -/
def retranslate (w : XWait) (s : State) : State :=
  match xLookup w.fn w.pasid (w.page * 4096) w.write w.tile s with
  | some e => granted w e (xTouch e w.tile s)
  | none => xMiss { w with retry := true, stale := false } s

/-! ## ATS completions (R365, R366) -/

/-- The entries that a completion for a range of 2^`size` bytes at 4 KiB page `page` gives (R365): translated 4 KiB page
`tp` is that of the range's first page. -/
def entriesFor (fn pasid page size tp : Nat) (r w : Bool) : List XEntry :=
  let z := if 30 ≤ size then 30 else if 21 ≤ size then 21 else 12
  let first := page / 2 ^ (size - 12) * 2 ^ (size - 12)
  (List.range (2 ^ (size - z))).map (fun i =>
    { fn := fn, pasid := pasid, size := z, vpage := first / 2 ^ (z - 12) + i, tpage := tp / 2 ^ (z - 12) + i, r := r, w := w })

/-- ATS_COMPLETION (R366, R369, R376): the request for a page is answered with a range of 2^`size` bytes at translated page
`tp` and its permissions; without any, nothing is granted. -/
def doAtsCompletion (fn pasid page size tp : Nat) (r w : Bool) (s : State) : State :=
  let p := Purpose.ats fn pasid page
  if (reqFor p s).isNone then s else
  let s := retireFor p s
  let mine := fun (x : XWait) => x.fn == fn && x.pasid == pasid && x.page == page
  let ws := s.xlat.waits.filter mine
  if ws.any XWait.stale then
    -- an invalidation came first: the completion is discarded and the page asked for again
    hostReq { cls := 3, port := 77, fn := fn, purpose := p,
              out := { kind := .atsRequest, dest := fn, args := [pasid, page] } }
      (count hostUnit 0x83 (some fn) 1 <| setXlat (fun x => { x with waits := x.waits.map (fun q => if mine q then { q with stale := false } else q) }) s)
  else
    let s := setXlat (fun x => { x with waits := x.waits.filter (fun q => !mine q) }) s
    let es := if r || w then entriesFor fn pasid page (max 12 size) tp r w else []
    let s := forEach es fillShared s
    let s := forEach ws (fun q s =>
      match es.find? (xCovers q.fn q.pasid (q.page * 4096) q.write) with
      | some e => granted q e s
      | none => noPermission q s) s
    settleJobs s

/-- ATS_COMPLETION. -/
def execAtsCompletion (fn pasid page size tp : Nat) (r w : Bool) (s : State) : Host.Outcome State Fault Refusal :=
  .next (clocked (doAtsCompletion fn pasid page size tp r w) s)

/-- The batches of function `n` that Bus Master Enable held and whose pages or time are up leave. -/
def releaseBatches (n : Nat) (s : State) : State :=
  forEach (s.xlat.batches.filter (fun b => !b.sent && b.fn == n)) (fun b s =>
    if groupMax s ≤ b.pages.length ∨ due (b.openedAt + gatherTime s) s then sendBatch b s else s) s

/-- PRI_GATHER_EXPIRE (R370): GATHER_US have passed since a batch of the function and PASID opened. -/
def doPriGatherExpire (fn pasid : Nat) (s : State) : State :=
  match s.xlat.batches.find? (fun b => !b.sent && b.fn == fn && b.pasid == pasid) with
  | some b => if due (b.openedAt + gatherTime s) s then sendBatch b s else s
  | none => s

/-- PRI_GATHER_EXPIRE. -/
def execPriGatherExpire (fn pasid : Nat) (s : State) : Host.Outcome State Fault Refusal := .next (clocked (doPriGatherExpire fn pasid) s)

/-- The batch of function `n` and index `i` leaves the outstanding set. -/
def dropBatch (n i : Nat) (s : State) : State :=
  setXlat (fun x => { x with batches := x.batches.filter (fun b => !(b.fn == n && b.prg == i)) }) s

/-- A completion of the host that matches no outstanding tag (R323, R371): discarded; one in quarantine counts in LATE_DROP
(R255). -/
def unexpected (cls port tag fn : Nat) (s : State) : State :=
  if s.timers.tombs.any (fun t => t.cls == cls && t.port == port && t.tag == tag) then bump TMO_COUNT_LATE_DROP 0 1 s
  else reportAer fn 5 (hostErr 3 fn 0 0 s)

/-- PAGE_GROUP_RESPONSE (R371): 0 Success, 1 Invalid Request, 2 Response Failure. -/
def doPageGroupResponse (fn prg code : Nat) (s : State) : State :=
  match s.xlat.batches.find? (fun b => b.sent && b.fn == fn && b.prg == prg) with
  | none => unexpected 3 (prgPort fn) prg fn s
  | some b =>
    let s := dropBatch fn prg (retireFor (.pri fn prg) s)
    let s := match code with
      | 0 => forEach b.waits retranslate s
      | 1 => refuseAll b.waits s
      | _ =>
        let more := (s.xlat.batches.filter (fun x => x.fn == fn && !x.sent)).flatMap Batch.waits ++
          s.xlat.faults.filter (fun w => w.fn == fn)
        let s := setXlat (fun x => { x with
          batches := x.batches.filter (fun y => !(y.fn == fn && !y.sent)),
          faults := x.faults.filter (fun w => w.fn != fn),
          blocked := if x.blocked.contains fn then x.blocked else x.blocked ++ [fn] }) s
        refuseAll (b.waits ++ more) (trnLog 2 fn b.pasid (nth 0 b.pages 0) s)
    settleJobs (regather fn s)

/-- PAGE_GROUP_RESPONSE. -/
def execPageGroupResponse (fn prg code : Nat) (s : State) : Host.Outcome State Fault Refusal :=
  .next (clocked (doPageGroupResponse fn prg code) s)

/-- PRG_TIMEOUT (R371): no response within the host-class timeout. -/
def doPrgTimeout (fn prg : Nat) (s : State) : State :=
  match s.xlat.batches.find? (fun b => b.sent && b.fn == fn && b.prg == prg), reqFor (.pri fn prg) s with
  | some b, some r =>
    if !expired r s then s else
    let s := bumpSat TRN_COUNT_PRG_TIMEOUT 0 1 (dropBatch fn prg (entomb r s))
    settleJobs (regather fn (refuseAll b.waits (trnLog 1 fn b.pasid (nth 0 b.pages 0) s)))
  | _, _ => s

/-- PRG_TIMEOUT. -/
def execPrgTimeout (fn prg : Nat) (s : State) : Host.Outcome State Fault Refusal := .next (clocked (doPrgTimeout fn prg) s)

/-! ## Completions of host reads (R323, R368) -/

/-- What a completion of the host carries: data, Unsupported Request, Completer Abort, or poisoned data. -/
def completionStatus (kind : Nat) : Status := if kind = 3 then .dataErr else .pageFault

/-- The host address of piece `p` of job `j`. -/
def pieceVa (j p : Nat) (s : State) : Nat :=
  match (jobOf j s).bind (fun x => x.pieces[p]?) with
  | some q => (match q.src with
    | .host va => va
    | _ => 0)
  | none => 0

/-- A translation request is completed without a translation: refused by the host, no permission is granted (R369; DEDUCED, log
entry 163); poisoned, what waits for it fails with DATA_ERR (R323). -/
def atsFailed (fn pasid page kind : Nat) (s : State) : State :=
  if kind = 3 then
    let mine := fun (x : XWait) => x.fn == fn && x.pasid == pasid && x.page == page
    let s := retireFor (.ats fn pasid page) s
    settleJobs (forEach (s.xlat.waits.filter mine) (fun w s => accessFailed w.purpose .dataErr s)
      (setXlat (fun x => { x with waits := x.waits.filter (fun q => !mine q) }) s))
  else doAtsCompletion fn pasid page 12 0 false false s

/-- HOST_COMPLETION (R318, R323, R368): the host completes the read with a tag: `kind` 0 its data, 1 Unsupported Request,
2 Completer Abort (both a refused translation of the page, log entry 42), 3 poisoned. A translation that is granted comes by
ATS_COMPLETION. -/
def doHostCompletion (tag kind : Nat) (data : List Byte) (s : State) : State :=
  match reqOf 3 77 tag s with
  | none => unexpected 3 77 tag 0 s
  | some r =>
    let s := if kind = 3 then poisonedTlp r.fn 0 0 s else s
    match r.purpose with
    | .descFetch g k => doDescriptorFetched g k (if kind = 0 then .data data else .fail (completionStatus kind)) s
    | .piece j p =>
      let s := retireReq r s
      let s := if kind = 0 then setPiece j p (.have data) s
        else if kind = 3 then setPiece j p (.failed .dataErr) s
        else accessFailed r.purpose .pageFault
          (noteRefused r.fn (((jobOf j s).map Job.pasid).getD 0) (pieceVa j p s) s)
      settleJobs s
    | .ats f a page => if kind = 0 then s else atsFailed f a page kind s
    | _ => retireReq r s

/-- HOST_COMPLETION. -/
def execHostCompletion (tag kind : Nat) (data : List Byte) (s : State) : Host.Outcome State Fault Refusal :=
  .next (clocked (doHostCompletion tag kind data) s)

/-! ## Invalidation (R375 to R378) -/

/-- The named range overlaps an entry or a page. -/
def Inval.covers (i : Inval) (fn pasid lo n : Nat) : Bool :=
  i.fn == fn && (match i.pasid with | some p => p == pasid | none => true) &&
  (match i.pages with | some k => decide (lo < i.lo + k) && decide (i.lo < lo + n) | none => true)

/-- The invalidation covers a translation entry. -/
def Inval.hits (i : Inval) (e : XEntry) : Bool := i.covers e.fn e.pasid (e.vpage * 2 ^ (e.size - 12)) (2 ^ (e.size - 12))

/-- The invalidation starts (R376, R378, R320): entries go, completions in flight become stale, watched lines are released
and acquired anew, and the reads under way are those it waits for. -/
def startInval (i : Inval) (s : State) : State :=
  let s := setXlat (fun x => { x with
    shared := x.shared.filter (fun e => !i.hits e),
    tile := x.tile.map (fun p => (p.1, p.2.filter (fun e => !i.hits e))),
    waits := x.waits.map (fun w => if i.covers w.fn w.pasid w.page 1 then { w with stale := true } else w) }) s
  let tags := (s.timers.reqs.filter (fun r => match r.xkey with
    | some k => i.covers k.1 k.2.1 k.2.2 1
    | none => false)).map Req.tag
  let s := setXlat (fun x => { x with invals := x.invals ++ [{ i with at16 := now16 s, tags := tags }] }) s
  let lines := (listed RING_STATUS_WATCHED s).filter (fun p =>
    i.covers (ringFn p.1) (ringPasid p.1 s) (ringDb p.1 s / 4096) 1)
  forEach lines (fun p s => watchRead p.1 (setB RING_STATUS_WATCHED p.1 (releaseWatch p.1 s))) s

/-- An invalidation arrives; beyond 32 running it waits (R375). -/
def addInval (i : Inval) (s : State) : State :=
  let i := { i with id := s.xlat.nextInval }
  let s := setXlat (fun x => { x with nextInval := x.nextInval + 1 }) s
  if s.xlat.invals.length < 32 then startInval i s
  else setXlat (fun x => { x with queuedInvals := x.queuedInvals ++ [i] }) s

/-- ATS_INVALIDATE (R375, R376): an Invalidate Request with tag `itag`: pages `lo` on, or with no number of pages all. -/
def doAtsInvalidate (fn : Nat) (pasid : Option Nat) (lo : Nat) (pages : Option Nat) (itag : Nat) (s : State) : State :=
  addInval { id := 0, fn := fn, pasid := pasid, lo := lo, pages := pages, host := some itag } s

/-- ATS_INVALIDATE. -/
def execAtsInvalidate (fn : Nat) (pasid : Option Nat) (lo : Nat) (pages : Option Nat) (itag : Nat) (s : State) :
    Host.Outcome State Fault Refusal := .next (clocked (doAtsInvalidate fn pasid lo pages itag) s)

/-- INVALIDATE (R352, R375): the admin descriptor of count `k` starts its invalidation, once. -/
def doInvalidate (g k : Nat) (s : State) : State :=
  match runningDesc g k 0x31 s with
  | none => s
  | some d =>
    if (s.xlat.invals ++ s.xlat.queuedInvals).any (fun i => decide (i.desc = some (g, k))) then s else
    let all := bit (d.word 2) 27
    let pages := slice (d.word 4) 0 32
    if !all && pages == 0 then failDesc g k .unsupported s else
    addInval { id := 0, fn := slice (d.word 2) 0 6,
               pasid := if bit (d.word 2) 26 then some (2 ^ 20 + slice (d.word 2) 6 20) else none,
               lo := d.word 3 / 4096, pages := if all then none else some pages, desc := some (g, k) } s

/-- INVALIDATE. -/
def execInvalidate (g k : Nat) (s : State) : Host.Outcome State Fault Refusal := .next (clocked (doInvalidate g k) s)

/-- A read that the invalidation waits for is outstanding. -/
def Inval.busy (i : Inval) (s : State) : Bool :=
  s.timers.reqs.any (fun r => r.cls == 3 && r.port == 77 && i.tags.contains r.tag)

/-- The invalidation ends; one that waits starts. -/
def endInval (i : Inval) (s : State) : State :=
  let s := setXlat (fun x => { x with invals := x.invals.filter (fun j => j.id != i.id) }) s
  let s := bump TRN_COUNT_INVALIDATIONS 0 1 s
  let s := match i.host with
    | some t => emit { kind := .invalComplete, dest := i.fn, tag := t } s
    | none => s
  let s := match i.desc with
    | some (g, k) => completeDesc g k .ok 0 0 0 s
    | none => s
  match s.xlat.queuedInvals with
  | q :: rest => startInval q (setXlat (fun x => { x with queuedInvals := rest }) s)
  | [] => s

/-- INVAL_COMPLETE (R376): every access that used a removed entry has retired. -/
def doInvalComplete (id : Nat) (s : State) : State :=
  match s.xlat.invals.find? (fun i => i.id == id) with
  | some i => if i.busy s then s else endInval i s
  | none => s

/-- INVAL_COMPLETE. -/
def execInvalComplete (id : Nat) (s : State) : Host.Outcome State Fault Refusal := .next (clocked (doInvalComplete id) s)

/-- INVAL_DRAIN_ABANDON (R377): 150 µs after receipt the reads that have not retired are abandoned: their tags are in
quarantine and their operations complete TIMEOUT. -/
def doInvalDrainAbandon (id : Nat) (s : State) : State :=
  match s.xlat.invals.find? (fun i => i.id == id) with
  | none => s
  | some i =>
    if !due (i.at16 + us16 150) s then s else
    let rs := s.timers.reqs.filter (fun r => r.cls == 3 && r.port == 77 && i.tags.contains r.tag)
    let s := forEach rs (fun r s =>
      let s := bumpSat TRN_COUNT_DRAIN_ABANDON 0 1 (entomb r s)
      accessFailed r.purpose .timeout (trnLog 3 r.fn (match r.xkey with | some x => x.2.1 | none => 0) 0
        (logRec .readAbandoned [r.fn, r.tag] s))) s
    settleJobs s

/-- INVAL_DRAIN_ABANDON. -/
def execInvalDrainAbandon (id : Nat) (s : State) : Host.Outcome State Fault Refusal := .next (clocked (doInvalDrainAbandon id) s)

/-! ## COPY (R349, R372, R373) -/

/-- 4 KiB pages that a range touches. -/
def pagesTouched (va len : Nat) : Nat := (va + len - 1) / 4096 - va / 4096 + 1

/-- The sides of a COPY: source and destination. -/
def copySides (d : Desc) : MLoc × MLoc :=
  match slice (d.word 4) 19 2 with
  | 0 => (.host (wrap 57 (d.word 2)), .hub (d.word 3))
  | 1 => (.hub (d.word 2), .host (wrap 57 (d.word 3)))
  | _ => (.hub (d.word 2), .hub (d.word 3))

/-- What one side of a COPY makes of it before any byte moves. -/
def sideStatus (n len : Nat) (write : Bool) (x : MLoc) (s : State) : Status :=
  match x with
  | .host va => if 64 < pagesTouched va len then .unsupported else .ok
  | .hub off => if (fabricWindow off).isSome then .ok else rangeStatus (.agent n) off len write s
  | .buf _ => .ok

/-- COPY (R349): the descriptor of ring `g` and count `k` on the panel mover of TILE_t, a tile of the function's partition
that is in service; a function without a partition is refused (R386). Once it runs, it goes on as far as it can. -/
def doCopy (g k t : Nat) (s : State) : State :=
  match runningDesc g k 0x01 s with
  | none => s
  | some d =>
    match s.xlat.jobs.find? (fun p => decide (p.2.who = .copy g k)) with
    | some p => settleJob p.1 s
    | none =>
      let n := ringFn g
      let len := slice (d.word 4) 0 19
      let (src, dst) := copySides d
      let bad := len == 0 || decide (262144 < len) || slice (d.word 4) 19 2 == 3
      let st := if bad then Status.worst [.unsupported]
        else Status.worst [sideStatus n len false src s, sideStatus n len true dst s]
      let st := Status.worse st (if (partOf n s).isNone then .refused else .ok)
      if st ≠ .ok then failDesc g k st s
      else if !(tileOwned n t s && tileServes t s) then s
      else
        let j := s.xlat.nextJob
        settleJob j (addJob { who := .copy g k, fn := n, pasid := ringPasid g s, tile := t, alloc := bit (d.word 4) 21,
                              deadline := d.deadline,
                              pieces := piecesOf src dst len } s)

/-- COPY. -/
def execCopy (g k t : Nat) (s : State) : Host.Outcome State Fault Refusal := .next (clocked (doCopy g k t) s)

/-! ## ATOMIC (R350) -/

/-- A request of `w` is at the home or on its way to another hub. -/
def inFlight (w : Who) (s : State) : Bool :=
  s.coh.trans.any (fun p => decide (p.2.req.who = w)) ||
  s.coh.queue.any (fun p => p.2.any (fun r => decide (r.who = w))) ||
  s.syr.outbound.any (fun p => decide (p.2.who = w)) || s.coh.heldHome.any (fun h => decide (h.req.who = w))

/-- ATOMIC (R205, R350): the descriptor of ring `g` and count `k`: at the home, or as RATOMIC in a fabric window. -/
def doAtomic (g k : Nat) (s : State) : State :=
  match runningDesc g k 0x02 s with
  | none => s
  | some d =>
    if inFlight (.desc g k) s then s else
    let a := slice (d.word 2) 0 44
    let op := slice (d.word 2) 44 2
    let n := if bit (d.word 2) 46 then 8 else 4
    let cut := fun v => wrap (8 * n) v
    let bad := op == 3 || a % n != 0
    match fabricWindow a with
    | some w =>
      if bad || n == 4 then failDesc g k (Status.worse .unsupported (windowStatus (ringFn g) w a n s)) s
      else fabricSend (.desc g k) (ringFn g) w a 0x3 8 (toBytes 8 (d.word 3) ++ toBytes 8 (d.word 4)) none op
        (classDeadline (portClass 79 (ringFn g) s) d.deadline s) s
    | none =>
      let st := Status.worse (if bad then .unsupported else .ok) (accessStatus (.agent (ringFn g)) a true s)
      if st ≠ .ok then failDesc g k st s
      else
        let cls := portClass 79 (ringFn g) s
        homeRequest 0 0 { req := { kind := .homeAtomic, line := a / 64, who := .desc g k, off := a % 64, len := n, op := op,
                                   a := cut (d.word 3), b := cut (d.word 4), cls := cls,
                                   deadline := classDeadline cls d.deadline s },
                          port := 79, id := 0, fn := ringFn g, off := a, write := true, form := .ok } s

/-- ATOMIC. -/
def execAtomic (g k : Nat) (s : State) : Host.Outcome State Fault Refusal := .next (clocked (doAtomic g k) s)

end Sys2Proof.Machine
end

