-- ==== Sys2Proof/Machine/Syrel.lean ====
section
/-! DEFINITION. Sys2Proof/Machine/Syrel.lean: Syrel ports, codewords, routing, remote memory operations, bypass and rejoin
(spec/11_syrel_fabric.md R270 to R290, R296 to R299, R307). -/

namespace Sys2Proof.Machine

open Sys2Proof

/-! ## Ports up and down (R272, R274, R296) -/

/-- The direction of PORT_p (6: the twin). -/
def portDir (p : Nat) : Nat := if 18 ≤ p then 6 else p / 3

/-- Both twin ports are down since now, or a twin port is up again (R304). -/
def noteTwin (s : State) : State :=
  if (goodPorts 6 s).isEmpty then
    (if s.syr.twinDownAt.isSome then s else setSyr (fun y => { y with twinDownAt := some (now16 s) }) s)
  else setSyr (fun y => { y with twinDownAt := none, twinLost := false }) s

/-- What the port knew of its link is gone: numbers, credits, codewords not acknowledged (R274). -/
def clearLink (t : Nat) : SyrPort := { training := some t }

/-- A collective record's tree partners: directions of the parent and of the children. -/
def treeDirs (c : Coll) : List Nat := (if c.parent < 6 then [c.parent] else []) ++ (List.range 6).filter (bit c.childs)

/-- The virtual network of an opcode (Table 7); none for a reserved one. -/
def opcVn (opc : Nat) : Option Nat :=
  match opc with
  | 0x1 | 0x2 | 0x3 => some 0
  | 0x4 | 0x5 | 0x7 => some 1
  | 0x6 => some 2
  | 0x8 => some 3
  | 0x9 | 0xA => some 4
  | 0xB => some 5
  | _ => none

/-- The header breaks R282. -/
def pktBad (k : Pkt) : Bool := k.rsvd || opcVn k.opc != some k.vn || decide (512 < k.data.length) || (k.masked && k.opc != 0x2)

/-- A packet that has come in on PORT_p is taken in for this hub, or sent on. Packets between tree partners and multicasts go
no further by themselves. A reserved status is taken as UNSUPPORTED, logged against the port, and not sent on (R18). -/
def routeIn (p : Nat) (k : Pkt) (s : State) : State :=
  let s := if Status.reservedCode k.status then logRec .reservedStatus [1, p, k.status] s else s
  let k := { k with secure := rdb SYR_PORT_SECURE p s, port := p, status := if Status.reservedCode k.status then 4 else k.status }
  if k.opc = 0x8 ∨ k.opc = 0x9 ∨ k.opc = 0xA then deliver k s
  else routePkt 3 (decide (18 ≤ p)) (if p < 18 then some p else none) k s

/-- A cell that waits at a port which goes down: a packet is taken in or sent on all the same, or discarded and counted where it
breaks R282. -/
def routeLeft (p : Nat) (c : Cell) (s : State) : State :=
  match c with
  | .pkt k => if pktBad k then bumpSat SYR_PERR_REPLAYS p 1 s else routeIn p k s
  | _ => s

/-- A packet that a port which went down had not sent (R296, R290, R303): by another good port; between twins without one, a
mirror record waits in its queue and any other packet ends at its source. -/
def sendElse (d : Nat) (k : Pkt) (s : State) : State :=
  if d = 6 ∧ (goodPorts 6 s).isEmpty then
    (if k.opc = 0x6 then setSyr (fun y => { y with mirQueue := y.mirQueue ++ [k] }) s else bounce k s)
  else sendDir d k s

/-- PORT_p goes down (R274, R296): packets it had received go on their way, and packets it had not sent go by the other good
ports of its direction. -/
def takePortDown (p : Nat) (s : State) : State :=
  if !rdb SYR_PORT_UP p s then s else
  let x := syrPort p s
  let s := s |> clrB SYR_PORT_UP p |> clrB SYR_PORT_LPI p |> wr SYR_PORT_LANES p 0 |> bumpSat SYR_PERR_DOWNS p 1
    |> setB SYR_EVENT_PORT_DOWN 0
  let s := setPort p (fun _ => clearLink (now16 s)) (dropKey (64 + p) s)
  let s := setEx p (fun e => { e with state := 0, t2 := none, t3 := none, slow := false }) s
  noteTwin (forEach x.rx (routeLeft p) (forEach x.txq (sendElse (portDir p)) s))

/-- The receiver's answer to a codeword: its ACK and NAK (R273). -/
def sendAck (p : Nat) (s : State) : State :=
  emit { kind := .syrCell, dest := p, args := [0xFE, (syrPort p s).rxSeq, b2n (syrPort p s).nak] } s

/-! ## Codewords (R273 to R275) -/

/-- Codewords up to `ack` are acknowledged. -/
def takeAck (ack : Nat) (l : List (Nat × Nat × Option Pkt)) : List (Nat × Nat × Option Pkt) :=
  if l.any (fun c => c.1 == ack) then (l.dropWhile (fun c => c.1 != ack)).drop 1 else l

/-- Every codeword not acknowledged is sent again (R273); after eight replays of one the port goes down (R274). -/
def replay (p : Nat) (s : State) : State :=
  let l := (syrPort p s).unacked
  if l.isEmpty then s else
  let s := count (spaUnit p) 0x62 none l.length (bumpSat SYR_PERR_REPLAYS p 1 s)
  if l.any (fun c => decide (8 ≤ c.2.1)) then takePortDown p s else
  let s := setPort p (fun x => { x with unacked := x.unacked.map (fun c => (c.1, c.2.1 + 1, c.2.2)) }) s
  forEach l (fun c s => emit { kind := .syrCell, dest := p, tag := c.1, args := [0xFD, c.1] } s) s

/-- The cells of an accepted codeword that wait to be taken: RULE cells have their own row, idle cells nothing to say. -/
def keptCells (cells : List Cell) : List Cell :=
  cells.filter (fun c => match c with
    | .idle | .rule _ => false
    | _ => true)

/-- A cell has a reserved kind (Table 3). -/
def cellReserved (c : Cell) : Bool := match c with | .reserved _ => true | _ => false

/-- CODEWORD_RX (R273): a codeword arrives at PORT_p: `fec` 0 clean, 1 corrected, 2 not correctable. -/
def doCodewordRx (p fec cseq ack : Nat) (nak : Bool) (cells : List Cell) (s : State) : State :=
  if !rdb SYR_PORT_UP p s then s else
  -- a packet at the port wakes a hub in H2 (R251)
  let s := if cells.any (fun c => match c with | .pkt _ => true | _ => false) then noteWake 0x11 p s else s
  if fec = 2 ∨ cseq ≠ ((syrPort p s).rxSeq + 1) % 512 then
    sendAck p (setPort p (fun x => { x with nak := true }) s)
  else
    let s := if fec = 1 then bumpSat SYR_PERR_FEC_CORR p 1 s else s
    let s := count (spaUnit p) 0x61 none (cells.map (fun c => match c with
      | .pkt k => pktCells k
      | .idle => 0
      | _ => 1)).sum s
    let secure := rdb SYR_PORT_SECURE p s
    let kept := keptCells (cells.takeWhile (fun c => !cellReserved c))
    let s := setPort p (fun x => { x with
      rxSeq := cseq, nak := false, unacked := takeAck ack x.unacked,
      rx := if secure then x.rx else x.rx ++ kept,
      unverified := if secure then x.unverified ++ kept else x.unverified }) s
    if cells.any cellReserved then takePortDown p s else
    let s := if nak then replay p s else s
    pumpPort p (sendAck p s)

/-- CODEWORD_RX. -/
def execCodewordRx (p fec cseq ack : Nat) (nak : Bool) (cells : List Cell) (s : State) : Host.Outcome State Fault Refusal :=
  .next (clocked (doCodewordRx p fec cseq ack nak cells) s)

/-- PORT_SIGNAL_LOSS (R274): signal has been lost for 100 ns. -/
def doPortSignalLoss (p : Nat) (s : State) : State := takePortDown p s

/-- PORT_SIGNAL_LOSS. -/
def execPortSignalLoss (p : Nat) (s : State) : Host.Outcome State Fault Refusal := .next (clocked (doPortSignalLoss p) s)

/-- The oldest cell of PORT_p that waits. -/
def headCell (p : Nat) (s : State) : Option Cell := (syrPort p s).rx.head?

/-- That cell is taken. -/
def popCell (p : Nat) (s : State) : State := setPort p (fun x => { x with rx := x.rx.tail }) s

/-- CREDIT_CELL (R280): the oldest cell of PORT_p returns credits. -/
def doCreditCell (p : Nat) (s : State) : State :=
  match headCell p s with
  | some (.credit vcs shared) =>
    pumpPort p (setPort p (fun x => { x with crd := x.crd.zipIdx.map (fun c => c.1 + nth 0 vcs c.2), shared := x.shared + shared })
      (popCell p s))
  | _ => s

/-- CREDIT_CELL. -/
def execCreditCell (p : Nat) (s : State) : Host.Outcome State Fault Refusal := .next (clocked (doCreditCell p) s)

/-- AUTH_CELL (R307): the tag of the oldest AUTH cell is checked over the cells before it. -/
def doAuthCell (p : Nat) (s : State) : State :=
  let l := (syrPort p s).unverified
  let isAuth := fun (c : Cell) => match c with | .auth _ => true | _ => false
  match l.find? isAuth with
  | none => s
  | some c =>
    let before := l.takeWhile (fun x => !isAuth x)
    let after := (l.dropWhile (fun x => !isAuth x)).drop 1
    if decide (c = .auth true) then
      setPort p (fun x => { x with rx := x.rx ++ before, unverified := after }) s
    else
      takePortDown p (setB SYR_EVENT_AUTH_FAIL 0 (bumpSat SYR_PERR_AUTH_FAIL p 1 (setPort p (fun x => { x with unverified := [] }) s)))

/-- AUTH_CELL. -/
def execAuthCell (p : Nat) (s : State) : Host.Outcome State Fault Refusal := .next (clocked (doAuthCell p) s)

/-! ## Training (R272, R299) -/

/-- The axis of a torus port. -/
def portAxis (p : Nat) : Nat := p / 6

/-- The coordinates other than the port's axis differ. -/
def otherCoords (axis a b : Nat) : Bool := [0, 1, 2].any (fun x => x != axis && coord x a != coord x b)

/-- The partner makes the port MISWIRED (R272). -/
def miswired (p hub : Nat) (twin : Bool) (q : Nat) (s : State) : Bool :=
  let here := rd HUB_ID_ID 0 s
  let sameSide := twin == rdb HUB_ID_TWIN 0 s
  if 18 ≤ p then hub != here || sameSide || decide (q < 18) || decide (19 < q)
  else decide (18 ≤ q) || portAxis q != portAxis p || portDir q == portDir p || !sameSide || otherCoords (portAxis p) here hub

/-- The port crosses the dateline of its axis (R284). -/
def datelineOf (p hub : Nat) (s : State) : Bool :=
  let a := portAxis p
  let here := coord a (rd HUB_ID_ID 0 s)
  if 18 ≤ p then false
  else if portDir p % 2 = 0 then decide (coord a hub < here) else decide (here < coord a hub)

/-- PORT_p may train: it is enabled, and a torus port's axis is joined (R298, R299). -/
def mayTrain (p : Nat) (s : State) : Bool :=
  syrPortOk p s && !rdb SYR_PORT_UP p s && (decide (18 ≤ p) || bit (rd SYR_STATUS_ALIVE 0 s) (portAxis p))

/-- The packets held for direction `d` leave (R297); one whose target the new partner lies beyond ends at its source (R284,
R299). -/
def releaseDir (d : Nat) (s : State) : State :=
  let mine := s.syr.held.filter (fun h => h.1 == d)
  let s := setSyr (fun y => { y with held := y.held.filter (fun h => h.1 != d) }) s
  forEach mine (fun h s => if d < 6 && skipped d (pktTarget h.2.2) s then bounce h.2.2 s else sendDir d h.2.2 s) s

/-- PORT_TRAIN_DONE (R272): PORT_p ends training at `lanes` lanes (0: it failed) with the partner's hub ID, twin bit and port;
`secureOk`: the security of both sides agrees and the port key is agreed (R307, R384); `delay`: the one-way delay of the hop
(R36). -/
def doPortTrainDone (p lanes hub : Nat) (twin : Bool) (q : Nat) (secureOk : Bool) (delay : Nat) (s : State) : State :=
  if !mayTrain p s then s
  else if lanes = 0 then addEntry 0x6 p 3 0 (setPort p (fun x => { x with training := none }) (wr SYR_PORT_LANES p 0 s))
  else if (!secureOk || noCrypto s) && rdb SYR_PORT_SECURE p s then s
  else
    let changed := rdb SYR_PORT_PARTNER_VALID p s && rd SYR_PORT_PARTNER_HUB p s != hub
    let s := s |> wr SYR_PORT_LANES p lanes |> wr SYR_PORT_PARTNER_HUB p hub |> wrb SYR_PORT_PARTNER_TWIN p twin
      |> wr SYR_PORT_PARTNER_PORT p q |> setB SYR_PORT_PARTNER_VALID p |> setPort p (fun x => { x with training := none })
    if miswired p hub twin q s then
      addEntry 0x6 p 4 hub (setB SYR_EVENT_MISWIRED 0 (setB SYR_PORT_MISWIRED p s))
    else
      let s := if changed then setB SYR_EVENT_PARTNER_CHANGE 0 s else s
      let s := if lanes < 4 then addEntry 0x6 p (if lanes = 2 then 1 else 2) hub s else s
      let s := takeDelay p delay s
      let s := s |> clrB SYR_PORT_MISWIRED p |> setB SYR_PORT_UP p |> wrb SYR_PORT_DATELINE p (datelineOf p hub s)
      -- the port key is the session's, and its epoch starts at 1 (R384)
      let s := if rdb SYR_PORT_SECURE p s then newKey (64 + p) (setPort p (fun x => { x with epoch := 1, cwCount := 0 }) s) else s
      let s := releaseDir (portDir p) (sendCredit p (List.replicate 24 9) 1064 s)
      if 18 ≤ p then flushMirror (noteTwin s) else s

/-- PORT_TRAIN_DONE. -/
def execPortTrainDone (p lanes hub : Nat) (twin : Bool) (q : Nat) (secureOk : Bool) (delay : Nat) (s : State) :
    Host.Outcome State Fault Refusal := .next (clocked (doPortTrainDone p lanes hub twin q secureOk delay) s)

/-! ## Packets received (R281 to R284) -/

/-- SYREL_PACKET_FORWARD (R282, R283): the oldest cell of PORT_p is a packet: for this hub it is taken in, else it is sent on. -/
def doSyrelPacketForward (p : Nat) (s : State) : State :=
  if 2 ≤ rd PWR_STATUS_STATE 0 s then s else
  match headCell p s with
  | some (.pkt k) =>
    let s := popCell p s
    if pktBad k then takePortDown p (setB SYR_EVENT_PORT_DOWN 0 (bumpSat SYR_PERR_REPLAYS p 1 s))
    else routeIn p k (freeCells p k s)
  | _ => s

/-- SYREL_PACKET_FORWARD. -/
def execSyrelPacketForward (p : Nat) (s : State) : Host.Outcome State Fault Refusal := .next (clocked (doSyrelPacketForward p) s)

/-- The oldest packet for this hub that satisfies `f`, and the state without it; in H2 and H3 the edge agent holds it
(R251). -/
def takeInbox (f : Pkt → Bool) (s : State) : Option (Pkt × State) :=
  if 2 ≤ rd PWR_STATUS_STATE 0 s then none else
  match s.syr.inbox.find? f with
  | none => none
  | some k => some (k, setSyr (fun y => { y with inbox := y.inbox.erase k }) s)

/-- No earlier packet for this hub has the VN, source and flow of `k` (R287). -/
def firstOfFlow (s : State) (k : Pkt) : Bool :=
  (s.syr.inbox.takeWhile (fun x => x != k)).all (fun x => x.vn != k.vn || x.src != k.src || pktFlow x != pktFlow k)

/-- The oldest request packet of code `opc` that is first of its flow: the packets of one flow are served in order (R287). -/
def takeReqPkt (opc : Nat) (s : State) : Option (Pkt × State) := takeInbox (fun k => k.opc == opc && firstOfFlow s k) s

/-! ## Remote memory operations (R288, R289) -/

/-- A request in a fabric window leaves its master port (R288). -/
def windowGo (r : WinReq) (s : State) : State :=
  match fabricWindow r.off with
  | none => s
  | some w =>
    let who := Who.mesh r.port r.id
    let dl := classDeadline (portClass r.port r.fn s) none s
    let s := setMesh (fun m => { m with held := m.held ++ [{ port := r.port, id := r.id, tgt := 72, at16 := now16 s }] }) s
    match r.op with
    | 1 => fabricSend who r.fn w r.off 0x1 r.len [] none r.len dl s
    | 2 => fabricSend who r.fn w r.off 0x2 r.data.length r.data none 0 dl s
    | 3 =>
      if r.off % 8 = 0 ∧ r.data.length = 16 then fabricSend who r.fn w r.off 0x3 8 r.data none r.aux dl s
      else answer who (Status.worse .unsupported (windowStatus r.fn w r.off 8 s)) [] s
    | _ => answer who (Status.worse .unsupported (windowStatus r.fn w r.off 0 s)) [] s

/-- FABRIC_WINDOW_REQUEST (R288): an agent at master port `k` asks, for function `fn`, in a fabric window: `op` 0 a coherent
request, 1 a read of `len` bytes, 2 a write of `data`, 3 an atomic with operation `aux`. In H2 and H3 its port holds it and wakes the
hub (R251). -/
def doFabricWindowRequest (k id fn off op len : Nat) (data : List Byte) (aux : Nat) (s : State) : State :=
  let r : WinReq := { port := k, id := id, fn := fn, off := off, op := op, len := len, data := data, aux := aux }
  if (fabricWindow off).isNone || (atTarget k id s).isSome then s
  else if meshUp s then windowGo r s
  else wakePort k fn (setSyr (fun y => { y with heldWin := y.heldWin ++ [r] }) s)

/-- Every request in a fabric window that its port holds departs. -/
def releaseWindows (s : State) : State := forEach s.syr.heldWin windowGo (setSyr (fun y => { y with heldWin := [] }) s)

/-- FABRIC_WINDOW_REQUEST. -/
def execFabricWindowRequest (k id fn off op len : Nat) (data : List Byte) (aux : Nat) (s : State) :
    Host.Outcome State Fault Refusal := .next (clocked (doFabricWindowRequest k id fn off op len data aux) s)

/-- Hub-local offset that a request packet names. -/
def pktOff (k : Pkt) : Nat := slice k.addr 0 44

/-- What a request packet completes with before the home takes it (R289); while the tiles are in reset, UNREACHABLE (R309). -/
def remoteStatus (k : Pkt) (len : Nat) (write : Bool) (s : State) : Status :=
  Status.worse (rangeStatus (.syrel k.fn k.secure (k.port / 4)) (pktOff k) len write s) (if hubReady s && !tilesHeld s then .ok else .unreachable)

/-- A request packet of another hub becomes home requests, one for each line; their answers are gathered. -/
def serveRemote (k : Pkt) (rs : List HReq) (s : State) : State :=
  let id := s.syr.nextIn
  let s := setSyr (fun y => { y with inbound := put id { pkt := k, left := rs.length } y.inbound, nextIn := id + 1 }) s
  forEach rs.zipIdx (fun r s =>
    let cls := portClass (72 + k.port / 4) k.fn s
    homeRequest 0 0 { req := { r.1 with who := .inbound id r.2, cls := cls, deadline := classDeadline cls none s }, port := 72 + k.port / 4,
                      id := id, fn := k.fn, off := 64 * r.1.line, write := r.1.kind != .homeRead, form := .ok,
                      remote := some k.secure } s) s

/-- RREAD (R289): a read of RLEN bytes is made at the home. -/
def doRread (s : State) : State :=
  match takeReqPkt 0x1 s with
  | none => s
  | some (k, s) =>
    let len := slice k.aux 0 10
    let off := pktOff k
    let st := Status.worse (if len = 0 ∨ 512 < len then .unsupported else .ok) (remoteStatus k len false s)
    if st ≠ .ok then syrAnswer k st [] s else
    serveRemote k ((lineOffs off len).map (fun o =>
      let a := max o off
      { kind := .homeRead, line := o / 64, who := .hub, off := a - o, len := min (o + 64) (off + len) - a })) s

/-- RREAD. -/
def execRread (s : State) : Host.Outcome State Fault Refusal := .next (clocked doRread s)

/-- The bytes of a write that fall in the line at `o`: their places and their mask. -/
def linePart (o off : Nat) (data : List Byte) : List Byte × Nat :=
  let a := max o off
  let b := min (o + 64) (off + data.length)
  let l := List.replicate (a - o) 0 ++ (data.drop (a - off)).take (b - a)
  (padTo64 l, (2 ^ (b - a) - 1) * 2 ^ (a - o))
where
  /-- A line's worth of bytes. -/
  padTo64 (l : List Byte) : List Byte := l ++ List.replicate (64 - l.length) 0

/-- RWRITE (R289): a write, masked or whole, is made at the home. -/
def doRwrite (s : State) : State :=
  match takeReqPkt 0x2 s with
  | none => s
  | some (k, s) =>
    let off := pktOff k
    let bad := k.data.isEmpty || (k.masked && (k.data.length != 64 || off % 64 != 0))
    let st := Status.worse (if bad then .unsupported else .ok) (remoteStatus k k.data.length true s)
    if st ≠ .ok then syrAnswer k st [] s else
    serveRemote k ((lineOffs off k.data.length).map (fun o =>
      let w := linePart o off k.data
      { kind := .homeWrite, line := o / 64, who := .hub, data := w.1, mask := if k.masked then k.aux else w.2 })) s

/-- RWRITE. -/
def execRwrite (s : State) : Host.Outcome State Fault Refusal := .next (clocked doRwrite s)

/-- RATOMIC (R289): an atomic on 8 bytes is made at the home. -/
def doRatomic (s : State) : State :=
  match takeReqPkt 0x3 s with
  | none => s
  | some (k, s) =>
    let off := pktOff k
    let op := slice k.aux 0 2
    let st := Status.worse (if op = 3 ∨ off % 8 ≠ 0 ∨ k.data.length ≠ 16 then .unsupported else .ok) (remoteStatus k 8 true s)
    if st ≠ .ok then syrAnswer k st [] s else
    serveRemote k [{ kind := .homeAtomic, line := off / 64, who := .hub, off := off % 64, len := 8, op := op,
                     a := ofBytes (k.data.take 8), b := ofBytes (k.data.drop 8) }] s

/-- RATOMIC. -/
def execRatomic (s : State) : Host.Outcome State Fault Refusal := .next (clocked doRatomic s)

/-- A response to a request of this hub: who asked is answered (R289). A tag in quarantine drops it (R255). -/
def takeResponse (opc : Nat) (s : State) : State :=
  match takeInbox (fun k => k.opc == opc) s with
  | none => s
  | some (k, s) =>
    match reqOf 2 72 k.tag s with
    | some r =>
      match r.purpose with
      | .remote id =>
        let s := retireReq r s
        match look s.syr.outbound id with
        | some w => settleJobs (answerOut id w (Status.ofCode k.status) k.data s)
        | none => s
      | _ => s
    | none =>
      if s.timers.tombs.any (fun t => t.cls == 2 && t.tag == k.tag) then bump TMO_COUNT_LATE_DROP 0 1 s else s

/-- RDATA (R289). -/
def execRdata (s : State) : Host.Outcome State Fault Refusal := .next (clocked (takeResponse 0x4) s)

/-- RCMP (R289). -/
def execRcmp (s : State) : Host.Outcome State Fault Refusal := .next (clocked (takeResponse 0x5) s)

/-! ## Holding, bypass and rejoin (R297 to R299) -/

/-- SYR_HOLD_EXPIRE (R297): packets held for direction `d` past SYR_HOLD.US: requests complete UNREACHABLE at their source,
any other packet is discarded. -/
def doSyrHoldExpire (d : Nat) (s : State) : State :=
  let late := s.syr.held.filter (fun h => h.1 == d && due (h.2.1 + us16 (rd SYR_HOLD_US 0 s)) s)
  if late.isEmpty then s else
  let s := setSyr (fun y => { y with held := y.held.filter (fun h => !late.contains h) }) s
  forEach late (fun h s =>
    bounce h.2.2 s) (setB SYR_EVENT_HOLD_EXPIRED 0 s)

/-- SYR_HOLD_EXPIRE. -/
def execSyrHoldExpire (d : Nat) (s : State) : Host.Outcome State Fault Refusal := .next (clocked (doSyrHoldExpire d) s)

/-- HUB_ALIVE_N of an axis is driven low (0) or released (1). -/
def driveAlive (a v : Nat) (s : State) : State := emit { kind := .pin, dest := a, args := [2, v] } s

/-- Every HUB_ALIVE_N pin is released (R298): ALIVE clears, the torus ports go down, FENCED is set. -/
def releasePins (s : State) : State :=
  let s := forEach [0, 1, 2] (fun a s => driveAlive a 1 s) s
  forEach (List.range 18) takePortDown (setB SYR_STATUS_FENCED 0 (wr SYR_STATUS_ALIVE 0 0 s))

/-- HUB_ALIVE_RELEASE (R298): a condition for the pins ceases; `clk`: it is the lock of the fabric reference clock. -/
def doHubAliveRelease (clk : Bool) (s : State) : State := releasePins (if clk then clrB SYR_STATUS_CLK_OK 0 s else s)

/-- HUB_ALIVE_RELEASE. -/
def execHubAliveRelease (clk : Bool) (s : State) : Host.Outcome State Fault Refusal := .next (clocked (doHubAliveRelease clk) s)

/-- SYR_FENCE (R298): SYR_CTL.FENCE is written. -/
def doSyrFence (s : State) : State := releasePins s

/-- SYR_FENCE. -/
def execSyrFence (s : State) : Host.Outcome State Fault Refusal := .next (clocked doSyrFence s)

/-- One axis joins (R299): its pin goes low and its ports train. -/
def joinAxis (a : Nat) (s : State) : State :=
  let s := driveAlive a 0 (clrB SYR_STATUS_FENCED 0 (wr SYR_STATUS_ALIVE 0 (rd SYR_STATUS_ALIVE 0 s + 2 ^ a) s))
  forEach (List.range 6) (fun i s => setPort (6 * a + i) (fun x => { x with training := some (now16 s) }) s) s

/-- The alive conditions that are the hub's own to know hold (R298): the clock is locked and the hub is not in H3. -/
def aliveOk (s : State) : Bool := rdb SYR_STATUS_CLK_OK 0 s && rd PWR_STATUS_STATE 0 s != 3

/-- JOIN (R299): bits of SYR_CTL.JOIN are written; an axis already joined is ignored. -/
def doJoin (axes : Nat) (s : State) : State :=
  if !hubReady s || !aliveOk s || s.fuses.variant == 3 then s else
  forEach [0, 1, 2] (fun a s => if bit axes a && !bit (rd SYR_STATUS_ALIVE 0 s) a then joinAxis a s else s) s

/-- JOIN. -/
def execJoin (axes : Nat) (s : State) : Host.Outcome State Fault Refusal := .next (clocked (doJoin axes) s)

end Sys2Proof.Machine
end

