-- ==== Sys2Proof/Machine/Collective.lean ====
section
/-! DEFINITION. Sys2Proof/Machine/Collective.lean: in-network reductions: collective records, blocks going up and down, and
their ends (spec/11_syrel_fabric.md R292 to R295). -/

namespace Sys2Proof.Machine

open Sys2Proof

/-! ## Records (R292) -/

/-- The record in 64 bytes (Table 8). -/
def collOf (b : List Byte) : Coll :=
  let w := fun i => ofBytes ((b.drop (8 * i)).take 8)
  { fn := slice (w 0) 1 6, op := slice (w 0) 7 2, fmt := slice (w 0) 9 2, unit := slice (w 0) 11 3, parent := slice (w 0) 14 3,
    childs := slice (w 0) 17 6, arrive := if bit (w 0) 23 then some (slice (w 0) 24 10) else none,
    lines := slice (w 1) 0 20 + 1, src := slice (w 2) 0 44, dst := slice (w 3) 0 44 }

/-- A record has a reserved value or bit. -/
def collBad (b : List Byte) : Bool :=
  let w := fun i => ofBytes ((b.drop (8 * i)).take 8)
  let c := collOf b
  c.op == 3 || decide (1 < c.fmt) || decide (4 < c.unit) || c.parent == 7 || decide (w 0 / 2 ^ 34 ≠ 0) ||
  decide (w 1 / 2 ^ 20 ≠ 0) || decide (w 2 / 2 ^ 44 ≠ 0) || decide (w 3 / 2 ^ 44 ≠ 0) || c.src % 64 != 0 || c.dst % 64 != 0 ||
  (b.drop 32).any (· != 0)

/-- A range lies in function `n`'s extents. -/
def inExtents (n off len : Nat) (s : State) : Bool :=
  (List.range ((off + len - 1) / 2 ^ 30 - off / 2 ^ 30 + 1)).all (fun i => extOwned n (off / 2 ^ 30 + i) s)

/-- What COLL_SETUP answers for a record that has been read (R292). -/
def collStatus (n id : Nat) (b : List Byte) (s : State) : Status :=
  let c := collOf b
  let other : Bool := match look s.syr.colls id with
    | some x => x.fn != n
    | none => false
  let denied := other || c.fn != n || !inExtents n c.src (64 * c.lines) s || !inExtents n c.dst (64 * c.lines) s ||
    (match c.arrive with | some g => !arrivalOwned n g s | none => false)
  Status.worst [if denied then .accessDenied else .ok, if collBad b then .unsupported else .ok,
                if (look s.syr.runs id).isSome then .refused else .ok]

/-- COLL_SETUP (R292): the record that the descriptor names is written. -/
def doCollSetup (g k : Nat) (s : State) : State :=
  match runningDesc g k 0x22 s with
  | none => s
  | some d =>
    let n := ringFn g
    let id := slice (d.word 2) 0 8
    let a := slice (d.word 3) 0 44
    let st := Status.worse (rangeStatus (.agent n) a 64 false s) (if a % 64 = 0 then .ok else .unsupported)
    if st ≠ .ok then failDesc g k st s
    else if !claimed a 64 false s then claim (.agent n) a 64 false s
    else
      let r := homeGet (.agent n) a 64 s
      let st := if r.1.good then collStatus n id r.2.1 r.2.2 else r.1
      if st ≠ .ok then failDesc g k st r.2.2 else
      let valid := bit (ofBytes (r.2.1.take 8)) 0
      let c := collOf r.2.1
      let s := setSyr (fun y =>
        { y with colls := if valid then put id c y.colls else del id y.colls, ended := del id y.ended }) r.2.2
      completeDesc g k .ok 0 0 0 (s |> wrb COLL_STAT_VALID id valid |> wr COLL_STAT_FUNCTION id c.fn)

/-- COLL_SETUP. -/
def execCollSetup (g k : Nat) (s : State) : Host.Outcome State Fault Refusal := .next (clocked (doCollSetup g k) s)

/-! ## Ends (R293, R294) -/

/-- The firing that launched a collective completes (R55). -/
def endCollFiring (id : Nat) (st : Status) (s : State) : State :=
  match s.cal.firings.find? (fun f => f.id == id) with
  | some f => endIssued { f with status := Status.worse f.status st } s
  | none => s

/-- Collective `n` is over on this hub. -/
def dropRun (n : Nat) (r : CollRun) (st : Status) (s : State) : State :=
  let s := setSyr (fun y => { y with runs := del n y.runs, ended := put n r.seq y.ended }) s
  let s := s |> wr COLL_STAT_STATUS n st.code |> clrB COLL_STAT_RUNNING n |> wr COLL_STAT_LAST_SEQ n r.seq
  endCollFiring r.firing st s

/-- A packet between tree partners in direction `d`. -/
def sendTree (d opc n : Nat) (c : Coll) (seq block : Nat) (st : Status) (data : List Byte) (s : State) : State :=
  sendDir d { opc := opc, vn := if opc = 0x8 then 3 else 4,
              dst := 4096 * rd HUB_ID_TWIN 0 s + (dirPartner d s).getD 0, src := selfId s, fn := c.fn, status := st.code, hops := 1,
              seq := seq, addr := n + 2 ^ 16 * block, data := data } s

/-- Collective `n` ends with a status other than OK (R294): every tree partner but the one in direction `skip` has a
header-only RED_DOWN. -/
def failColl (n : Nat) (st : Status) (skip : Option Nat) (s : State) : State :=
  match look s.syr.runs n, look s.syr.colls n with
  | some r, some c =>
    let goal := (treeDirs c).filter (fun d => some d != skip && !(goodPorts d s).isEmpty)
    let s := forEach goal (fun d s => sendTree d 0x9 n c r.seq 0 st [] s) s
    dropRun n r st (setB SYR_EVENT_COLL_FAIL 0 s)
  | _, _ => s

/-! ## Blocks (R293) -/

/-- Bytes of the vector. -/
def Coll.bytes (c : Coll) : Nat := 64 * c.lines
/-- Blocks of the vector. -/
def Coll.blocks (c : Coll) : Nat := (c.bytes + 511) / 512
/-- Bytes of block `k`. -/
def Coll.blockLen (c : Coll) (k : Nat) : Nat := min 512 (c.bytes - 512 * k)

/-- The binary32 words of a block in the record's format. -/
def blockWords (c : Coll) (b : List Byte) : List Nat :=
  let w := if c.fmt = 0 then 4 else 2
  (chunks w (b.length / w + 1) b).map (fun x => if c.fmt = 0 then ofBytes x else (valF32 (decodeF bf16 (ofBytes x))).1)

/-- A block of binary32 words in the record's format, rounded to nearest even. -/
def blockBytes (c : Coll) (l : List Nat) : List Byte :=
  l.flatMap (fun w => if c.fmt = 0 then toBytes 4 w else toBytes 2 (cvtFloat bf16 .near (f32 w)).1)

/-- Two blocks combined (R79, R81): SUM, MAX or MIN. -/
def combine (c : Coll) (a b : List Nat) : List Nat := List.zipWith (fun x y => (treePair (c.op + 1) x y).1) a b

/-- The blocks that the children of collective `n` have sent for block `k`, in ascending direction; none while one lacks. -/
def childBlocks (c : Coll) (r : CollRun) (k : Nat) : Option (List (List Byte)) :=
  ((List.range 6).filter (bit c.childs)).foldl (fun acc d =>
    match acc, r.got.find? (fun g => g.1 == d && g.2.1 == k) with
    | some l, some g => some (l ++ [g.2.2])
    | _, _ => none) (some [])

/-- `s` with run `n` changed. -/
def setCollRun (n : Nat) (f : CollRun → CollRun) (s : State) : State :=
  setSyr (fun y => { y with runs := modAt n f y.runs }) s

/-- Who reads SRC and writes DST: the reduction unit, through its SPA (Table 8, R259). -/
def Coll.reqr (c : Coll) : Reqr := .agent c.fn (72 + c.unit)

/-- A result block goes to DST, and on to the children. -/
def landBlock (n k : Nat) (c : Coll) (seq : Nat) (data : List Byte) (s : State) : State :=
  let w := homePut c.reqr (c.dst + 512 * k) data s
  if !w.1.good then failColl n .dataErr none w.2 else
  let s := forEach ((List.range 6).filter (bit c.childs)) (fun d s => sendTree d 0x9 n c seq k .ok data s) w.2
  setCollRun n (fun r => { r with done := r.done + 1 }) s

/-- Where DST and SRC are held by chiplets the block waits for them (log entry 21). -/
def blockReady (c : Coll) (k : Nat) (s : State) : Bool :=
  claimed (c.src + 512 * k) (c.blockLen k) false s && claimed (c.dst + 512 * k) (c.blockLen k) true s

/-- The lines of a block are asked for. -/
def claimBlock (c : Coll) (k : Nat) (s : State) : State :=
  claim c.reqr (c.dst + 512 * k) (c.blockLen k) true (claim c.reqr (c.src + 512 * k) (c.blockLen k) false s)

/-- The next own block of collective `n` is combined and sent up or, at the root, down (R293, steps 1 to 4). -/
def upBlock (n : Nat) (c : Coll) (r : CollRun) (kids : List (List Byte)) (s : State) : State :=
  let k := r.sent
  let x := homeGet c.reqr (c.src + 512 * k) (c.blockLen k) s
  if !x.1.good then failColl n .dataErr none x.2.2 else
  let sum := kids.foldl (fun a b => combine c a (blockWords c b)) (blockWords c x.2.1)
  let out := blockBytes c sum
  let s := setCollRun n (fun r => { r with sent := k + 1, got := r.got.filter (fun g => g.2.1 != k) }) x.2.2
  if c.parent = 6 then landBlock n k c r.seq out s else sendTree c.parent 0x8 n c r.seq k .ok out s

/-- Collective `n` is complete on this hub (R293). -/
def finishColl (n : Nat) (c : Coll) (r : CollRun) (s : State) : State :=
  let s := match c.arrive with
    | some g => arrivalAdd g 1 s
    | none => s
  dropRun n r .ok s

/-- Collective `n` goes on as far as it can; `fuel` bounds its blocks. -/
def advanceColl (n : Nat) : Nat → State → State
  | 0, s => s
  | fuel + 1, s =>
    match look s.syr.runs n, look s.syr.colls n with
    | some r, some c =>
      if c.blocks ≤ r.done then finishColl n c r s
      else if (treeDirs c).any (fun d => (goodPorts d s).isEmpty) then failColl n .unreachable none s
      else if c.blocks ≤ r.sent then s
      else match childBlocks c r r.sent with
        | none => s
        | some kids =>
          if !blockReady c r.sent s then claimBlock c r.sent s
          else advanceColl n fuel (upBlock n c r kids s)
    | _, _ => s

/-- Every collective that runs goes on. -/
def advanceColls (s : State) : State :=
  forEach s.syr.runs (fun p s => advanceColl p.1 (((look s.syr.colls p.1).map Coll.blocks).getD 0 + 2) s) s

/-- A COLLECTIVE_LAUNCH firing (R293): COLL_ID in [15:0] and SEQ_NO in [47:16] of its ARG. A collective that still runs is
refused. -/
def launchColl (f : Firing) (n seq : Nat) (s : State) : State :=
  let bad : Option Status := match look s.syr.colls n with
    | none => some .unsupported
    | some c => if c.fn ≠ f.fn then some .accessDenied else if (look s.syr.runs n).isSome then some .refused else none
  match bad with
  | some st => endIssued { f with status := Status.worse f.status st } s
  | none =>
    let s := setSyr (fun y =>
      { y with runs := put n { seq := seq, firing := f.id, start := now16 s, limit := classLimit 2 s } y.runs }) s
    advanceColls (setB COLL_STAT_RUNNING n s)

/-- The direction among a list whose partner is the source of a packet. -/
def fromDir (k : Pkt) (ds : List Nat) (s : State) : Option Nat := ds.find? (fun d => dirPartner d s == some (k.src % 4096))

/-- COLL_ID and BLOCK of a packet. -/
def redId (k : Pkt) : Nat := slice k.addr 0 16
/-- See `redId`. -/
def redBlock (k : Pkt) : Nat := slice k.addr 16 20

/-- SEQ_NO `a` is `b` or before it, mod 2^32. -/
def seqUpTo (a b : Nat) : Bool := decide (wrap 32 (b + 2 ^ 32 - a) < 2 ^ 31)

/-- A RED packet can be taken: its collective runs with its SEQ_NO, or is past it (R293). -/
def redReady (s : State) (k : Pkt) : Bool :=
  match look s.syr.runs (redId k), look s.syr.ended (redId k) with
  | some r, _ => seqUpTo k.seq r.seq
  | none, some q => seqUpTo k.seq q
  | none, none => false

/-- The packet's block is one of the vector, and whole (R293, step 1). -/
def blockFits (c : Coll) (k : Pkt) : Bool := decide (redBlock k < c.blocks) && k.data.length == c.blockLen (redBlock k)

/-- RED_UP (R293): a child's block joins its collective. -/
def doRedUp (s : State) : State :=
  match takeInbox (fun k => k.opc == 0x8 && redReady s k) s with
  | none => s
  | some (k, s) =>
    match look s.syr.runs (redId k), look s.syr.colls (redId k) with
    | some r, some c =>
      match fromDir k ((List.range 6).filter (bit c.childs)) s with
      | some d =>
        if k.seq ≠ r.seq ∨ !blockFits c k then s else
        advanceColls (setCollRun (redId k) (fun r => { r with got := r.got ++ [(d, redBlock k, k.data)] }) s)
      | none => s
    | _, _ => s

/-- RED_UP. -/
def execRedUp (s : State) : Host.Outcome State Fault Refusal := .next (clocked doRedUp s)

/-- RED_DOWN (R293, R294): a result block is written and sent on, or a failure ends the collective. -/
def doRedDown (s : State) : State :=
  match takeInbox (fun k => k.opc == 0x9 && redReady s k) s with
  | none => s
  | some (k, s0) =>
    match look s0.syr.runs (redId k), look s0.syr.colls (redId k) with
    | some r, some c =>
      if k.seq ≠ r.seq then s0
      else if k.status ≠ 0 then failColl (redId k) (Status.ofCode k.status) (fromDir k (treeDirs c) s0) s0
      else if fromDir k [c.parent] s0 ≠ some c.parent ∨ !blockFits c k then s0
      else if !claimed (c.dst + 512 * redBlock k) (c.blockLen (redBlock k)) true s then
        claim c.reqr (c.dst + 512 * redBlock k) (c.blockLen (redBlock k)) true s
      else advanceColls (landBlock (redId k) (redBlock k) c r.seq k.data s0)
    | _, _ => s0

/-- RED_DOWN. -/
def execRedDown (s : State) : Host.Outcome State Fault Refusal := .next (clocked doRedDown s)

/-- COLL_TIMEOUT (R294): the Syrel remote timeout has passed since the local launch of collective `n`. -/
def doCollTimeout (n : Nat) (s : State) : State :=
  match look s.syr.runs n with
  | some r => if due (r.start + r.limit) s then failColl n .timeout none s else s
  | none => s

/-- COLL_TIMEOUT. -/
def execCollTimeout (n : Nat) (s : State) : Host.Outcome State Fault Refusal := .next (clocked (doCollTimeout n) s)

end Sys2Proof.Machine
end

