-- ==== Sys2Proof/Machine/Counters.lean ====
section
/-! DEFINITION. Sys2Proof/Machine/Counters.lean: overflow and sampling, snapshots and confinement of the performance
counters (spec/19_counters.md R478 to R484). -/

namespace Sys2Proof.Machine

open Sys2Proof

/-- `s` with the counters' own state changed. -/
def setCnt (f : Cnt → Cnt) (s : State) : State := { s with cnt := f s.cnt }

/-! ## Overflow (R478, R479) -/

/-- PC and OWNER of a sample: the instruction that waits to issue and the launch's owner. With no launch running the
spec gives a tile unit neither, and they are free values. -/
def sampleOf (u : Nat) (s : State) : Nat × Nat × State :=
  if 64 ≤ u then (0, 0, s) else
  match (lookD {} s.grv u).run with
  | some r => (r.x, r.work.fn, s)
  | none => (freeVal 12 s, freeVal 6 (drew s), drewN 2 s)

/-- COUNTER_OVERFLOW (R478): the oldest overflow not yet taken sets its bit, and with OVF_IRQ samples and signals. -/
def doCounterOverflow (s : State) : State :=
  match s.cnt.ovf with
  | [] => s
  | (u, k) :: t =>
    let v := rd CNT_OVF_OVF u s
    let s := setCnt (fun c => { c with ovf := t }) (wr CNT_OVF_OVF u (if bit v k then v else v + 2 ^ k) s)
    if !rdb CNT_SEL_OVF_IRQ (cntIx u k) s then s else
    let p := sampleOf u s
    p.2.2 |> wr CNT_SAMPLE_PC u p.1 |> wr CNT_SAMPLE_OWNER u p.2.1 |> wr CNT_SAMPLE_COUNTER u k
      |> wr CNT_SAMPLE_POS u (pos s) |> sendMsix (rd CNT_OWN_FUNCTION u s) (rd CNT_OWN_VECTOR u s)

/-- COUNTER_OVERFLOW. -/
def execCounterOverflow (s : State) : Host.Outcome State Fault Refusal := .next (clocked doCounterOverflow s)

/-! ## Confinement (R483) -/

/-- The partition a unit belongs to: that of its tile or of its site. -/
def unitPart (u : Nat) (s : State) : Option Nat :=
  if u < 64 then tilePart u s else if 84 ≤ u ∧ u < 92 then some (sitePart (u - 84) s) else none

/-- The owner of the unit's partition is in CONFIG_LOCKED or RUN. -/
def unitLocked (u : Nat) (s : State) : Bool :=
  match unitPart u s with
  | some p => rdb PART_CFG_VALID p s &&
      (rd FUNC_CFG_TDI (rd PART_CFG_OWNER p s) s == 1 || rd FUNC_CFG_TDI (rd PART_CFG_OWNER p s) s == 2)
  | none => false

/-- Confidential mode hides unit `u` from function `n` (R483). -/
def unitHidden (n u : Nat) (s : State) : Bool :=
  rdb SEC_STATUS_CONFIDENTIAL 0 s &&
  (if 64 ≤ u && !(decide (84 ≤ u) && decide (u < 92)) then true
   else if n = 0 then unitLocked u s
   else !((partOf n s).isSome && unitPart u s == partOf n s))

/-- The words of a unit as Table 4 and the counter page show them: CYC, then CNT_0 to CNT_7. -/
def unitWords (u : Nat) (s : State) : List Nat := cycOf u s :: (List.range 8).map (fun k => rd CNT_COUNT (cntIx u k) s)

/-! ## Snapshots (R480, R481) -/

/-- A register as one number. -/
def regImage (b : RegBlk) (i : Nat) (s : State) : Nat := (b.flds.map (fun f => rd f i s * 2 ^ f.lo)).sum

/-- The snapshot set selects unit `u` for owner `n` (Table 3). -/
def snapUnit (n set u : Nat) (s : State) : Bool :=
  unitOn u s && bit set (if u < 64 then 0 else 1) && (n == 0 || rd CNT_OWN_FUNCTION u s == n)

/-- Address of snapshot buffer `buf` of function `n` (R480). -/
def snapBase (n buf : Nat) (s : State) : Nat := rd CNT_SNAP_BASE n s * 2 ^ 18 + 16384 * buf

/-- The 1,616 words of a snapshot (Table 4). -/
def snapWords (n set mark firing : Nat) (s : State) : List Nat :=
  [mark, wrap 64 (pos s), nowNs s, set + 2 ^ 8 * rd RULE_STATUS_STATE 0 s + 2 ^ 32 * wrap 32 firing, 0, 0, 0, 0,
   if bit set 2 then regImage CAL_LATE_blk n s else 0, if bit set 3 then rd PWR_ENERGY_UJ n s else 0,
   if bit set 4 then rd PKG_ENERGY_UJ 0 s else 0, 0, 0, 0, 0, 0] ++
  (List.range 100).flatMap (fun u =>
    (if snapUnit n set u s && !unitHidden n u s then unitWords u s else List.replicate 9 0) ++ List.replicate 7 0)

/-- What refuses a snapshot of owner `n` (R480, R481). -/
def snapStatus (n set buf : Nat) (s : State) : Status :=
  if !rdb CNT_SNAP_VALID n s then .unsupported else
  let lo := snapBase n buf s
  let outside := !(extOwned n (lo / 2 ^ 30) s && decide (lo + 16384 ≤ memSize s))
  let full := (List.range 100).any (fun u => snapUnit n set u s &&
    decide (2 ≤ (s.cnt.snaps.filter (fun x => x.units.contains u)).length))
  if outside then .accessDenied else if full then .refused else .ok

/-- The set of an issued COUNTER_SNAPSHOT firing is frozen (R480). -/
def freezeSnap (id n arg mark firing : Nat) (s : State) : State :=
  let set := slice arg 0 8
  setCnt (fun c => { c with snaps := c.snaps ++ [{ firing := id, fn := n, base := snapBase n (slice arg 8 4) s,
                                                   units := (List.range 100).filter (fun u => snapUnit n set u s),
                                                   words := snapWords n set mark firing s }] }) s

/-- SNAPSHOT_WRITTEN (R480): the oldest frozen set is written, its header last, and the firing completes. -/
def doSnapshotWritten (s : State) : State :=
  match s.cnt.snaps with
  | [] => s
  | x :: t =>
    if !claimed x.base 12928 true s then claim (.agent x.fn) x.base 12928 true s else
    let w := homePut (.agent x.fn) (x.base + 128) ((x.words.drop 16).flatMap (toBytes 8)) s
    let h := homePut (.agent x.fn) x.base ((x.words.take 16).flatMap (toBytes 8)) w.2
    let s := setCnt (fun c => { c with snaps := t }) h.2
    match s.cal.firings.find? (fun f => f.id == x.firing) with
    | some f => endIssued { f with status := Status.worst [f.status, w.1, h.1] } s
    | none => s

/-- SNAPSHOT_WRITTEN. -/
def execSnapshotWritten (s : State) : Host.Outcome State Fault Refusal := .next (clocked doSnapshotWritten s)

/-! ## Burnishing and resets (R484, R474) -/

/-- The counters of unit `u` read zero. -/
def zeroUnit (u : Nat) (s : State) : State :=
  let s := setCnt (fun c => { c with cyc := del u c.cyc, ovf := c.ovf.filter (fun p => p.1 != u) }) s
  forEach (List.range 8) (fun k s => rst CNT_COUNT (cntIx u k) s) s

/-- Burnishing of function `n` zeroes the units it owns and their CNT_OWN (R484). -/
def burnishCounters (n : Nat) (s : State) : State :=
  forEach ((List.range 100).filter (fun u => unitOn u s && rd CNT_OWN_FUNCTION u s == n)) (fun u s =>
    zeroUnit u s |> rst CNT_OWN_FUNCTION u |> rst CNT_OWN_USER_RD u |> rst CNT_OWN_VECTOR u) s

end Sys2Proof.Machine
end

