-- ==== Sys2Proof/Machine/Pump.lean ====
section
/-! DEFINITION. Sys2Proof/Machine/Pump.lean: requests that waited for a tag or for Bus Master Enable leave
(spec/10_mesh_and_regulation.md R255; spec/12_host_endpoint.md R315). -/

namespace Sys2Proof.Machine

open Sys2Proof

/-- A held request may leave now. -/
def mayLeave (h : HeldReq) (s : State) : Bool :=
  if h.cls = 3 ∧ h.port = 77 ∧ !busMaster h.fn s then false
  else h.out.kind == .hostWrite || (freeTag h.cls h.port s).isSome

/-- It leaves. -/
def leave (h : HeldReq) (s : State) : State :=
  if h.out.kind = .hostWrite then hostWrote h.purpose (emit h.out s)
  else match h.purpose, h.cls with
    | .remote id, 2 =>
      let a := nth 0 h.out.args
      fabricGo ((freeTag 2 0 s).getD 0) id h.fn h.out.dest (a 0) (a 1) (a 2 == 1) (a 3) h.out.data s
    | _, _ => sendReq h s

/-- The requests that waited and now may leave do so, oldest first (R255, R315). -/
def pumpWaiting (s : State) : State :=
  forEach s.timers.waiting (fun h s =>
    if mayLeave h s then leave h { s with timers := { s.timers with waiting := s.timers.waiting.erase h } } else s) s

/-- The interrupt messages of function `n` that Bus Master Enable held leave (R315). -/
def pumpMsix (n : Nat) (s : State) : State :=
  let mine := s.host.heldMsix.filter (fun p => p.1 == n)
  forEach mine (fun p s => sendMsix p.1 p.2 s)
    { s with host := { s.host with heldMsix := s.host.heldMsix.filter (fun p => p.1 != n) } }

end Sys2Proof.Machine
end

