-- ==== Sys2Proof/Machine/FnReset.lean ====
section
/-! DEFINITION. Sys2Proof/Machine/FnReset.lean: silencing a function, stopping its work and freeing its objects, which
function-level reset and burnishing share (spec/12_host_endpoint.md R326; spec/02_ruling_and_calendar.md R59;
spec/05_sessions_and_kv_pages.md R134; spec/11_syrel_fabric.md R309; spec/13_rings_and_descriptors.md R362;
spec/14_translation.md R374). -/

namespace Sys2Proof.Machine

open Sys2Proof

/-! ## Silence (the first two rows of Table 6 of R326) -/

/-- The rings of function `n` that are not DISABLED. -/
def ringsOf (n : Nat) (s : State) : List Nat :=
  ((listed RING_STATUS_STATE s).map Prod.fst ++ (listed RING_CTL_ENABLE s).map Prod.fst).eraseDups.filter (fun g => ringFn g == n)

/-- Every ring of function `n` stops at once, with no record for what it held (R362); its watched lines are released. -/
def dropRings (n : Nat) (s : State) : State :=
  let s := forEach (ringsOf n s) (fun g s =>
    releaseWatch g s |> clrB RING_CTL_ENABLE g |> wr RING_STATUS_STATE g 0 |> wr RING_STATUS_CAUSE g 0) s
  { s with rings := { descs := s.rings.descs.filter (fun d => ringFn d.ring != n),
                      rt := s.rings.rt.filter (fun p => ringFn p.1 != n), queued := del n s.rings.queued } }

/-- The host tags of function `n` enter tombstones for twice the host timeout in force, uncounted; what it had not sent is
dropped (Table 6 of R326). -/
def dropHostTags (n : Nat) (s : State) : State :=
  let mine := s.timers.reqs.filter (fun r => r.cls == 3 && r.port == 77 && r.fn == n)
  let lim := classLimit 3 s
  let s := forEach mine (fun r s => entomb { r with limit := lim } (if s.timers.reqs.contains r then retireReq r s else s)) s
  { s with timers := { s.timers with waiting := s.timers.waiting.filter (fun h => h.fn != n) },
           host := { s.host with heldMsix := s.host.heldMsix.filter (fun p => p.1 != n) } }

/-- The device requests of function `n` are given up with the operations that made them. -/
def dropDeviceTags (n : Nat) (s : State) : State :=
  let mine := s.timers.reqs.filter (fun r => r.cls == 3 && r.port == 78 && r.fn == n)
  forEach mine entomb s

/-- Function `n`'s launches and loads leave the engines without records (R90). -/
def dropLaunches (n : Nat) (s : State) : State :=
  forEach (s.grv.map Prod.fst) (fun t s =>
    let s := setGrv t (fun g => { g with queue := g.queue.filter (fun w => w.fn != n) }) s
    match (grv t s).run with
    | some r => if r.work.fn = n then clearRun t s else s
    | none => s) s

/-- Collectives of function `n` end ABORTED (R309); their firings have no records (R59). -/
def dropColls (n : Nat) (s : State) : State :=
  let s := { s with cal := { s.cal with firings := s.cal.firings.filter (fun f => f.fn != n) } }
  let mine := s.syr.runs.filter (fun p => (look s.syr.colls p.1).any (fun c => c.fn == n))
  forEach mine (fun p s => failColl p.1 .aborted none s) s

/-- The PRG indices of function `n` leave the outstanding set (R374). -/
def dropPrg (n : Nat) (s : State) : State :=
  { s with timers := { s.timers with reqs := s.timers.reqs.filter (fun r => !(r.cls == 3 && r.port == prgPort n)) } }

/-- Moves, translations, waiting and parked accesses of function `n` are gone (R374). -/
def dropXlat (n : Nat) (s : State) : State :=
  let live := fun (w : XWait) => w.fn != n
  { dropPrg n s with xlat := { s.xlat with
      shared := s.xlat.shared.filter (fun e => e.fn != n),
      tile := s.xlat.tile.map (fun p => (p.1, p.2.filter (fun e => e.fn != n))),
      waits := s.xlat.waits.filter live, faults := s.xlat.faults.filter live,
      batches := s.xlat.batches.filter (fun b => b.fn != n), blocked := s.xlat.blocked.filter (· != n),
      jobs := s.xlat.jobs.filter (fun p => p.2.fn != n) } }

/-- Session operations of function `n` that wait stop without records (R134). -/
def dropSesOps (n : Nat) (s : State) : State :=
  let s := forEach (s.ses.ops.filter (fun o => ringFn o.g == n)) (fun o s => orphan o n s) s
  setSes (fun x => { x with ops := x.ops.filter (fun o => ringFn o.g != n) }) s

/-- Requests to other hubs that only a stopped operation of function `n` awaits have nobody to answer. -/
def dropPieces (n : Nat) (s : State) : State :=
  setSyr (fun y => { y with outbound := y.outbound.filter (fun p => match p.2.who with
    | .piece j _ => (jobOf j s).any (fun x => x.fn != n)
    | .desc g _ => ringFn g != n
    | _ => true) }) s

/-- The function issues nothing more, and what it had under way stops. -/
def silenceFn (n : Nat) (s : State) : State :=
  let s := dropPieces n s
  s |> dropBatches n |> dropLaunches n |> dropColls n |> dropSesOps n |> dropDeviceTags n |> dropXlat n |> dropHostTags n
    |> dropRings n

/-! ## Freeing (the third row) -/

/-- Calendar entries of function `n` go without records, and its arrival words read 0 (R59). -/
def freeCalendar (n : Nat) (s : State) : State :=
  let s := { s with cal := { s.cal with entries := s.cal.entries.filter (fun p => p.2.fn != n),
                                        firings := s.cal.firings.filter (fun f => f.fn != n) } }
  forEach (List.range 1024) (fun g s => if arrivalOwned n g s then wr ARRIVAL_VALUE g 0 s else s) s

/-- Sessions, replicas and streams of function `n` are freed and its pool is emptied; the twin hears of it (R134, R309). -/
def freeSessions (n : Nat) (s : State) : State :=
  let mine := s.ses.tab.filter (fun p => p.2.fn == n)
  let s := forEach mine (fun p s =>
    let s := dropReplica p.1 p.2 s
    let s := if p.2.replica then tellHub (twinId s) 3 [p.2.twinIndex, n] s else s
    dropEnt p.1 s) s
  let s := setSes (fun x => { x with streams := x.streams.filter (fun p => p.2.fn != n),
                                     used := x.used.filter (fun p => p.2 != n) }) s
  setMem (fun m => { m with held := m.held.filter (fun h => h.1 != n) }) s

/-- VALID is cleared in function `n`'s collective records and fabric windows (R309). -/
def freeFabric (n : Nat) (s : State) : State :=
  let mine := s.syr.colls.filter (fun p => p.2.fn == n)
  let s := forEach mine (fun p s => clrB COLL_STAT_VALID p.1 s) s
  let s := setSyr (fun y => { y with colls := y.colls.filter (fun p => p.2.fn != n),
                                     ended := mine.foldl (fun e p => del p.1 e) y.ended }) s
  forEach ((listed SYR_FWIN_VALID s).map Prod.fst) (fun w s =>
    if rd SYR_FWIN_FUNCTION w s = n then clrB SYR_FWIN_VALID w s else s) s

/-- The function that field `f`, index `i`, belongs to: by the ring's number, or the index of a row of 64. -/
def fieldFn (f : Fld) (i : Nat) : Nat :=
  match (regBlocks.find? (fun b => b.code == f.reg)).map RegBlk.win with
  | some .ring => i / 128
  | some .pf => if (fldBlk f).any (fun b => b.count == 64) then i else 0
  | _ => i
where
  /-- The block of a field. -/
  fldBlk (f : Fld) : Option RegBlk := regBlocks.find? (fun b => b.code == f.reg)

/-- The registers of function `n` whose Reset column names FLR are restored (R326); its TDI state follows R399. -/
def resetFn (n : Nat) (s : State) : State :=
  resetWhere (fun f i => f.rst == .flr && fieldFn f i == n && f.code != FUNC_CFG_TDI.code) s

/-- The objects of function `n` are freed. -/
def freeObjects (n : Nat) (s : State) : State := s |> freeCalendar n |> freeSessions n |> freeFabric n

end Sys2Proof.Machine
end

