-- ==== Sys2Proof/Machine/Burnish.lean ====
section
/-! DEFINITION. Sys2Proof/Machine/Burnish.lean: burnishing of extents, partitions and functions
(spec/15_security_and_isolation.md R392 to R394, R399). -/

namespace Sys2Proof.Machine

open Sys2Proof

/-- `s` with the root-of-trust island changed. -/
def setSec (f : Sec → Sec) (s : State) : State := { s with sec := f s.sec }

/-! ## Extents (R392) -/

/-- An offset lies in one of the extents. -/
def inExts (es : List Nat) (off : Nat) : Bool := es.contains (off / 2 ^ 30)

/-- The parts of a range that lie outside the extents. -/
def outsideParts (es : List Nat) (r : Nat × Nat × Nat) : List (Nat × Nat × Nat) :=
  let (lo, len, d) := r
  if len = 0 then [] else
  (List.range ((lo + len - 1) / 2 ^ 30 - lo / 2 ^ 30 + 1)).filterMap (fun i =>
    let e := lo / 2 ^ 30 + i
    let a := max lo (e * 2 ^ 30)
    let b := min (lo + len) ((e + 1) * 2 ^ 30)
    if es.contains e then none else some (a, b - a, d))

/-- Every field of an extent's entry is back at FREE. -/
def freeExt (e : Nat) (s : State) : State :=
  s |> rst EXT_KIND e |> rst EXT_FUNCTION e |> rst EXT_KEY_EN e |> rst EXT_REMOTE e |> rst EXT_SITE_OK e |> rst EXT_BURNISH e

/-- The slices drop the extents' lines, and entries in L go (R392). -/
def dropExtLines (es : List Nat) (s : State) : State :=
  setCoh (fun h => { h with
    cache := h.cache.filter (fun p => !inExts es (64 * p.1)),
    dir := h.dir.filter (fun p => !(inExts es (64 * p.1) && p.2.st == 4)) })
    (setMem (fun m => { m with lost := m.lost.filter (fun l => !inExts es (64 * l)) }) s)

/-- The controllers finish what they have accepted for the extents (R171). -/
def serveExts (es : List Nat) (s : State) : State :=
  forEach s.mem.chans (fun c s => forEach (c.2.queue.filter (fun r => inExts es (256 * r.gran))) (serve c.1) s) s

/-- A burnish of extents by one method begins: KIND FIRMWARE with BURNISH = 1. -/
def startBurn (es : List Nat) (slot : Option (Nat × Nat)) (s : State) : Nat × State :=
  let id := s.sec.nextBurn
  let s := forEach es (fun e s => freeExt e s |> wr EXT_KIND e 2 |> setB EXT_BURNISH e) (dropExtLines es (serveExts es s))
  (id, setB SEC_STATUS_BURNISHING 0
    (setSec (fun x => { x with nextBurn := id + 1, burns := x.burns ++ [{ id := id, exts := es, slot := slot }] }) s))

/-- The extents of function `f` that use its key slot. -/
def keyedExts (f : Nat) (s : State) : List Nat := (usedExts s).filter (fun e => extOwned f e s && rdb EXT_KEY_EN e s)

/-- Extents of KIND FUNCTION are burnished: by the cryptographic method where they include every extent of a key slot, else by
overwrite (R392). The numbers of the burnishes. -/
def burnExts (es : List Nat) (s : State) : List Nat × State :=
  let fns := ((es.filter (fun e => rdb EXT_KEY_EN e s && extKind e s == 1)).map (fun e => rd EXT_FUNCTION e s)).eraseDups
  let whole := fns.filter (fun f => (keyedExts f s).all es.contains && (look s.sec.keys f).isSome)
  let groups := whole.map (fun f => (keyedExts f s, some (f, lookD 0 s.sec.keys f)))
  let rest := es.filter (fun e => !(groups.any (fun g => g.1.contains e)))
  let all := groups ++ (if rest.isEmpty then [] else [(rest, none)])
  all.foldl (fun acc g => let r := startBurn g.1 g.2 acc.2; (acc.1 ++ [r.1], r.2)) ([], s)

/-- The memory of the extents reads zero, in the clear. -/
def zeroExts (es : List Nat) (s : State) : State :=
  setMem (fun m => { m with
    bytes := m.bytes.filter (fun p => !inExts es p.1), junk := m.junk.flatMap (outsideParts es),
    keys := m.keys.filter (fun p => !inExts es (256 * p.1)), ue := m.ue.filter (fun g => !inExts es (256 * g)) }) s

/-! ## Functions and partitions (R393, Table 5) -/

/-- TILE_t's engine is emptied: ACC, SCL, masks, panel buffers, scale stores, custom region. -/
def wipeTile (t : Nat) (s : State) : State :=
  clearCustom t (setGrv t (fun g => { g with rows := [], scales := [], masks := [0, 0, 0, 0], junk := none, prevFn := none }) s)

/-- The enabled tiles of partition `p`. -/
def tilesOfPart (p : Nat) (s : State) : List Nat := (List.range (tiles s)).filter (fun t => tilePart t s == some p)

/-- The enabled sites of partition `p` that hold a chiplet. -/
def sitesOfPart (p : Nat) (s : State) : List Nat :=
  (List.range (chipSites s)).filter (fun j => sitePart j s == p && siteState j s != 0)

/-- The tile and site rows for partition `p`: the sites that reset. -/
def burnishPart (p : Nat) (s : State) : List Nat × State :=
  let js := sitesOfPart p s
  (js, forEach js (fun j s => doSiteReset j s) (forEach (tilesOfPart p s) wipeTile s))

/-- Function `n` owns the partition it is bound to. -/
def ownsPart (n : Nat) (s : State) : Option Nat :=
  (partOf n s).filter (fun p => rdb PART_CFG_VALID p s && rd PART_CFG_OWNER p s == n)

/-- The descriptors that satisfy `p` end with no record, and their slots are free (R374, R134). -/
def forgetDescs (p : Desc → Bool) (s : State) : State :=
  let gone := s.rings.descs.filter p
  let s := forEach gone (fun d s => setRt (ringCq d.ring s) (fun r => { r with reserved := r.reserved - 1 }) s) s
  { s with rings := { s.rings with descs := s.rings.descs.filter (fun d => !p d) } }

/-- Translations of function `n` go, and its parked operations end with no records (R374). -/
def burnishXlat (n : Nat) (s : State) : State :=
  let parked := s.xlat.jobs.filter (fun p => p.2.fn == n && jobParked p.1 s)
  let s := forgetDescs (fun d => parked.any (fun p => decide (p.2.who = .copy d.ring d.count))) s
  { dropPrg n s with xlat := { s.xlat with
      shared := s.xlat.shared.filter (fun e => e.fn != n),
      tile := s.xlat.tile.map (fun p => (p.1, p.2.filter (fun e => e.fn != n))),
      faults := s.xlat.faults.filter (fun w => w.fn != n), batches := s.xlat.batches.filter (fun b => b.fn != n),
      blocked := s.xlat.blocked.filter (· != n), jobs := s.xlat.jobs.filter (fun p => !parked.any (fun q => q.1 == p.1)) } }

/-- Session operations of function `n` that wait end with no records (R134). -/
def burnishSesOps (n : Nat) (s : State) : State :=
  let mine := s.ses.ops.filter (fun o => ringFn o.g == n)
  dropSesOps n (forgetDescs (fun d => mine.any (fun o => o.g == d.ring && o.k == d.count)) s)

/-- The records of function `n` in the hub's logs are zeroed. -/
def wipeLogs (n : Nat) (s : State) : State :=
  let s := if rdb HOST_ERRLOG_VALID 0 s && rd HOST_ERRLOG_FUNCTION 0 s == n then
      s |> rst HOST_ERRLOG_VALID 0 |> rst HOST_ERRLOG_KIND 0 |> rst HOST_ERRLOG_FUNCTION 0 |> rst HOST_ERRLOG_BAR 0
        |> rst HOST_ERRLOG_OFFSET 0 else s
  let s := if rdb TMO_LOG_VALID 0 s && rd TMO_LOG_FUNCTION 0 s == n then
      s |> rst TMO_LOG_VALID 0 |> rst TMO_LOG_CLASS 0 |> rst TMO_LOG_PORT 0 |> rst TMO_LOG_TAG 0 |> rst TMO_LOG_FUNCTION 0
        |> rst TMO_LOG_AT 0 else s
  if rdb TRN_LOG_VALID 0 s && rd TRN_LOG_FUNCTION 0 s == n then
    s |> rst TRN_LOG_VALID 0 |> rst TRN_LOG_KIND 0 |> rst TRN_LOG_FUNCTION 0 |> rst TRN_LOG_PASID 0 |> rst TRN_LOG_PASID_EN 0
      |> rst TRN_LOG_AT 0 |> rst TRN_LOG_VA_PAGE 0 else s

/-- The watched lines of function `n` are released (R320). -/
def dropWatches (n : Nat) (s : State) : State := forEach (ringsOf n s) releaseWatch s

/-- What belongs to function `n` alone goes: translations, session operations, watches, objects, counters, logs, its park root. -/
def burnishOwn (n : Nat) (s : State) : State :=
  setSec (fun x => { x with parkRoots := del n x.parkRoots })
    (s |> burnishXlat n |> burnishSesOps n |> dropWatches n |> freeObjects n |> burnishCounters n |> wipeLogs n)

/-- The partition of function `n`, where it owns one, is burnished. -/
def burnishItsPart (n : Nat) (s : State) : List Nat × State :=
  match ownsPart n s with
  | some q => burnishPart q s
  | none => ([], s)

/-- Burnishing of function `n` (R393): what Table 5 lists, and then its extents. The burnishes and site resets that run on. -/
def burnishFn (n : Nat) (s : State) : List Nat × List Nat × State :=
  let p := burnishItsPart n (burnishOwn n s)
  let b := burnExts ((usedExts p.2).filter (fun e => extOwned n e p.2)) p.2
  (b.1, p.1, b.2)

/-- The TDI of function `n` enters ERROR (R327): the function is silenced and burnished. -/
def tdiError (n : Nat) (s : State) : State :=
  if rd FUNC_CFG_TDI n s = 1 ∨ rd FUNC_CFG_TDI n s = 2 then
    (burnishFn n (silenceFn n (wr FUNC_CFG_TDI n 3 s))).2.2
  else s

/-! ## Zeroisation (R406) -/

/-- The ports that hold a key. -/
def securePorts (s : State) : List Nat := (List.range 20).filter (fun p => rdb SYR_PORT_UP p s && rdb SYR_PORT_SECURE p s)

/-- Zeroisation: every TDI in CONFIG_LOCKED or RUN enters ERROR, every function is burnished, and keys, park roots, SPDM
secrets and the Alias key are gone. A secure port has no key any more and goes down. The burnishes and site resets that run. -/
def zeroise (s : State) : List Nat × List Nat × State :=
  let s := bumpSat SEC_COUNT_ZEROIZE 0 1 s
  let s := forEach (List.range 64) (fun n s =>
    if rd FUNC_CFG_TDI n s = 1 ∨ rd FUNC_CFG_TDI n s = 2 then silenceFn n (wr FUNC_CFG_TDI n 3 s) else s) s
  let r := (List.range 64).foldl (fun (acc : List Nat × List Nat × State) n =>
    let b := burnishFn n acc.2.2
    (acc.1 ++ b.1, acc.2.1 ++ b.2.1, b.2.2)) ([], [], s)
  let s := forEach (r.2.2.sec.keys.map Prod.fst) withdrawKey (forEach (securePorts r.2.2) takePortDown r.2.2)
  (r.1, r.2.1, setSec (fun x => { x with keys := [], ide := [], parkRoots := [], sessions := [], handshakes := [],
                                         aliasKey := none, nonce := none }) s)

/-- Entry to the error state (R405). -/
def fipsEnter (s : State) : State :=
  let s := (zeroise s).2.2
  s |> setB SEC_STATUS_FIPS_ERROR 0 |> clrB SEC_STATUS_SELFTEST_OK 0 |> bumpSat SEC_COUNT_SELFTEST_FAIL 0 1

/-! ## Completion -/

/-- A command of the mailbox completes (R390). -/
def mbxEnd (op : Nat) (st : Status) (result : Nat) (s : State) : State :=
  s |> clrB MBX_STATUS_BUSY 0 |> wr MBX_STATUS_STATUS 0 st.code |> wr MBX_STATUS_OPCODE 0 op |> wr MBX_STATUS_RESULT 0 result

/-- A command of the mailbox, or of the board management controller, completes (R419). -/
def cmdEnd (bmc : Bool) (op : Nat) (st : Status) (result : Nat) (s : State) : State :=
  if bmc then emit { kind := .mailbox, args := [op, st.code, result] } (setSec (fun x => { x with bmcBusy := false }) s)
  else mbxEnd op st result s

/-- SITE_j's reset is over. -/
def siteSettled (s : State) (j : Nat) : Bool := decide ((site j s).rst = .none)

/-- What a wait was for happens, where it needs no step of the life-cycle block. -/
def endWait (a : SecAct) (s : State) : State :=
  match a with
  | .done bmc op r => cmdEnd bmc op .ok r s
  | .unlock n sid =>
    let s := s |> wr FUNC_CFG_TDI n 0 |> setSec (fun x => { x with ide := del n x.ide, tdiNonce := del n x.tdiNonce })
    match sid with
    | some q => emit { kind := .spdm, dest := q, args := [0x7E, 0x07, n] } s
    | none => s
  | .grant bmc l => cmdEnd bmc 0x0C .ok l
      (s |> wr LC_DEBUG_LEVEL 0 l |> wr LC_DEBUG_SOURCE 0 2 |> bumpSat LC_COUNT_DEBUG_GRANTS 0 1)
  | .analysis _ => s

/-- Every wait whose burnishes and site resets are complete ends. -/
def settleWaits (fin' : SecAct → State → State) (s : State) : State :=
  let ready := fun (w : SecWait) => w.burns.all (fun b => !(s.sec.burns.any (fun x => x.id == b))) && w.sites.all (siteSettled s)
  let now := s.sec.waits.filter ready
  forEach now (fun w s => fin' w.act s) (setSec (fun x => { x with waits := x.waits.filter (fun w => !ready w) }) s)

/-- An extent's burnish is complete: it is FREE (R392). -/
def endBurn (b : Burn) (s : State) : State :=
  let s := match b.slot with
    | some (k, key) => if look s.sec.keys k = some key then withdrawKey k s else s
    | none => zeroExts b.exts s
  let s := forEach b.exts freeExt s
  let s := setSec (fun x => { x with burns := x.burns.filter (fun c => c.id != b.id) }) s
  let s := bump SEC_COUNT_BURNISHED 0 b.exts.length s
  if s.sec.burns.isEmpty then clrB SEC_STATUS_BURNISHING 0 s else s

/-- The directory entries of the extents that still name holders. -/
def heldLines (es : List Nat) (s : State) : List Nat :=
  (s.coh.dir.filter (fun p => inExts es (64 * p.1) && p.2.st != 4)).map Prod.fst

end Sys2Proof.Machine
end

