-- ==== Sys2Proof/Machine/Lifecycle.lean ====
section
/-! DEFINITION. Sys2Proof/Machine/Lifecycle.lean: the life cycle in OTP, tokens and debug levels, and the rows LC_TOKEN_LOAD,
LC_TRANSITION, LC_CHALLENGE, DEBUG_GRANT, DEBUG_REVOKE and LC_SELECT_COMPAT (spec/16_lifecycle_and_debug.md). -/

namespace Sys2Proof.Machine

open Sys2Proof

/-- `s` with the life cycle changed. -/
def setLife (f : Life → Life) (s : State) : State := { s with life := f s.life }

/-- `s` with bring-up state changed. -/
def setBoot (f : Boot → Boot) (s : State) : State := { s with boot := f s.boot }

/-! ## Decode (R412, R422) -/

/-- How a 32-bit group reads: 0 Z, 1 O, 2 P. -/
def groupRead (v : Nat) : Nat := if v = 0 then 0 else if v = 2 ^ 32 - 1 then 1 else 2

/-- The four native groups as they read. -/
def groupsRead (l : Life) : List Nat := (List.range 4).map (fun k => groupRead (nth 0 l.lcg k))

/-- Table 3. -/
def decodeNative (g : List Nat) : Nat :=
  if g = [0, 0, 0, 0] then 0 else if g = [1, 0, 0, 0] then 1 else if g = [1, 1, 0, 0] then 2 else if g = [1, 1, 1, 0] then 3
  else if g = [1, 1, 1, 1] then 4 else 5

/-- The state that a code of LCB spells (R422). -/
def decodeLcb (v : Nat) : Nat := if v = 0 then 0 else if v = 0x03 then 1 else if v = 0x0F then 2 else if v = 0x3F then 3 else 4

/-- The code of LCB that spells a state. -/
def lcbCode (st : Nat) : Nat := match st with | 0 => 0x00 | 1 => 0x03 | 2 => 0x0F | 3 => 0x3F | _ => 0xFF

/-- The state the OTP decodes to. -/
def decodeLife (l : Life) : Nat :=
  match groupRead l.lcc with
  | 0 => decodeNative (groupsRead l)
  | 1 => decodeLcb l.lcb
  | _ => 5

/-- The implied target of a LOCKED word: the state whose transition programs the lowest group that is not O (R412). A LOCKED
select group (R422) has none. -/
def impliedTarget (l : Life) : Option Nat :=
  if groupRead l.lcc = 0 then (firstBelow 4 (fun k => nth 0 (groupsRead l) k != 1)).map (· + 1) else none

/-- GROUPS and TARGET follow what the RTP has read (Table 6). -/
def noteGroups (s : State) : State :=
  let g := if s.life.compat then 0 else ((groupsRead s.life).zipIdx.map (fun p => p.1 * 4 ^ p.2)).sum
  let s := wr LC_STATUS_GROUPS 0 g s
  if decodeLife s.life = 5 && !rdb LC_STATUS_PENDING 0 s then wr LC_STATUS_TARGET 0 ((impliedTarget s.life).getD 0) s else s

/-- Fuse decode at cold power-on (R408, R412, R422). -/
def coldDecode (s : State) : State :=
  noteGroups (setLife (fun l => { l with state := decodeLife l, compat := groupRead l.lcc == 1, lcbRead := l.lcb, stuck := false }) s)


/-- The word of LC_STATUS. -/
def lcStatus (s : State) : Nat := (LC_STATUS_blk.flds.map (fun f => rd f 0 s * 2 ^ f.lo)).sum

/-- LC_DEBUG is at the level that the state opens (Table 1). -/
def stateLevel (s : State) : State :=
  s |> wr LC_DEBUG_LEVEL 0 (openLevel s.life.state) |> wr LC_DEBUG_SOURCE 0 (if openLevel s.life.state = 0 then 0 else 1)

/-! ## Programming (R413) -/

/-- An OTP bit is programmed. -/
def programBit (p : OtpGroup × Nat) (l : Life) : Life :=
  let on := fun v => if bit v p.2 then v else v + 2 ^ p.2
  match p.1 with
  | .lcg k => { l with lcg := modNth k on l.lcg }
  | .lcc => { l with lcc := on l.lcc }
  | .lcb => { l with lcb := on l.lcb }
  | .digest => { l with digest := on l.digest }
  | .floor t => { l with floors := modNth (t - 1) on l.floors }

/-- What a group holds. -/
def otpValue (g : OtpGroup) (l : Life) : Nat :=
  match g with
  | .lcg k => nth 0 l.lcg k
  | .lcc => l.lcc
  | .lcb => l.lcb
  | .digest => l.digest
  | .floor t => nth 0 l.floors (t - 1)

/-- The bits of `goal` that a group lacks, in ascending order. -/
def bitsToProgram (g : OtpGroup) (w goal : Nat) (l : Life) : List (OtpGroup × Nat) :=
  ((List.range w).filter (fun i => bit goal i && !bit (otpValue g l) i)).map (fun i => (g, i))

/-- Programming of bits is queued: one bit every 50 µs (R413). -/
def program (p : OtpProg) (s : State) : State := setLife (fun l => { l with prog := l.prog ++ [p] }) s

/-- A group has been programmed and read back (R413, R421). -/
def endProgram (p : OtpProg) (s : State) : State :=
  match p.target, p.select with
  | some t, _ =>
    let s := noteGroups (s |> setB LC_STATUS_PENDING 0 |> wr LC_STATUS_TARGET 0 t)
    let s := cmdEnd p.bmc 0x0A .ok (wrap 16 (lcStatus s)) s
    if t = 3 ∨ t = 4 then fipsEnter (setLife (fun l => { l with stuck := true }) s) else s
  | none, true => cmdEnd p.bmc 0x0E .ok 0 (noteGroups (setB LC_STATUS_PENDING 0 s))
  | none, false => s

/-- Programming goes on: the next bit once its time has come and no supply dip lasts. -/
def stepProgram (s : State) : State :=
  match s.life.prog with
  | [] => s
  | p :: t =>
    match p.bits with
    | [] => endProgram p (setLife (fun l => { l with prog := t }) s)
    | b :: bs =>
      if rdb PWR_STATUS_STRETCH 0 s || !due p.due s then s else
      setLife (fun l => { programBit b l with prog := { p with bits := bs, due := now16 s + us16 50 } :: t }) s

/-! ## Tokens (R416 to R418) -/

/-- The bytes loaded, in order. -/
def tokenBytes (s : State) : List Byte := s.sec.token.map Prod.snd

/-- A field of the token's header. -/
def tokenField (lo len : Nat) (s : State) : Nat := ofBytes (((tokenBytes s).drop lo).take len)

/-- The signers named. -/
def tokenSigners (s : State) : List Nat := (List.range 2).filter (bit (tokenField 7 1 s))

/-- The items of a configuration body (R431): TYPE and data, in order; `fuel` bounds them. -/
def storeItems : Nat → List Byte → List (Nat × List Byte)
  | 0, _ => []
  | fuel + 1, l =>
    if l.length < 4 then [] else
    let ty := ofBytes (l.take 2)
    let len := ofBytes ((l.drop 2).take 2)
    (ty, (l.drop 4).take len) :: storeItems fuel (l.drop (4 + (len + 3) / 4 * 4))

/-- The items of a bank. -/
def bankItems (b : CfgBank) : List (Nat × List Byte) := storeItems (b.len / 4 + 1) (b.body.take b.len)

/-- The bank in use. -/
def bankUsed (s : State) : Option CfgBank :=
  s.boot.cfgUse.map (fun k => if k = 0 then s.boot.flash.cfgA else s.boot.flash.cfgB)

/-- The data of the last item of a type in the bank in use (R431). -/
def storeItem (ty : Nat) (s : State) : Option (List Byte) :=
  (bankUsed s).bind (fun b => ((bankItems b).reverse.find? (fun p => p.1 == ty)).map Prod.snd)

/-- The integrator's public keys: the store's, where they match the digest in OTP (R417). -/
def integratorKeys (s : State) : Option (List Byte) :=
  (storeItem 0x0006 s).filter (fun k => wrap 384 (Config.sha384 k) == s.life.digest)

/-- The block of signer `g` of a message verifies (R416, R417). -/
def signed (g : Nat) (msg block : List Byte) (s : State) : Bool :=
  if g = 0 then Config.signatureOk 0 [] msg block
  else match integratorKeys s with
    | some k => Config.signatureOk 1 k msg block
    | none => false

/-- Every signature block of the token verifies. -/
def tokenSigned (s : State) : Bool :=
  (tokenSigners s).zipIdx.all (fun p => signed p.1 ((tokenBytes s).take 64) (((tokenBytes s).drop (64 + 4723 * p.2)).take 4723) s)

/-- The signers that Table 5 requires are among those named: `from'` the state, `to'` the target or level. -/
def tokenHasSigners (kind from' to' : Nat) (s : State) : Bool :=
  let v := bit (tokenField 7 1 s) 0
  let i := bit (tokenField 7 1 s) 1
  match kind, from' with
  | 0, 0 => v
  | 0, 1 => i
  | 0, 2 => v && i
  | 0, _ => v || i
  | 1, 1 => v || i
  | 1, _ => if to' = 1 then i else v && i
  | _, _ => v

/-- The nonce as 32 bytes is what the token's payload carries. -/
def nonceMatches (s : State) : Bool :=
  match s.sec.nonce with
  | some n => tokenField 16 32 s == n
  | none => false

/-- The form of the token is right for a command of `kind` (R416, R418). -/
def tokenForm (kind : Nat) (s : State) : Bool :=
  let to' := tokenField 6 1 s
  let payload := tokenField 16 48 s
  tokenField 0 4 s == 0x5A4C4354 && tokenField 4 1 s == kind && decide (tokenField 5 1 s ≤ 5) &&
  decide (tokenField 7 1 s < 4) && (tokenBytes s).length == 64 + 4723 * (tokenSigners s).length &&
  (s.sec.token.map Prod.fst == List.range (tokenBytes s).length) &&
  (match kind with
    | 0 => decide (to' ≤ 4) && (to' == 1 || payload == 0)
    | 1 => (to' == 1 || to' == 2) && tokenField 48 16 s == 0
    | _ => to' == 0 && payload == 0)

/-- The state a transition's token applies to now, and its target (R418): in LOCKED, the implied target and the state
before it. -/
def transitionNow (s : State) : Option (Nat × Nat) :=
  if lifeState s = 5 then (impliedTarget s.life).map (fun t => (t - 1, t))
  else if s.life.state < 4 then some (s.life.state, s.life.state + 1) else none

/-- What the check of the loaded token reports (R418), the worst under R17. -/
def tokenStatus (kind : Nat) (s : State) : Status :=
  let from' := tokenField 5 1 s
  let to' := tokenField 6 1 s
  let form := if tokenForm kind s then Status.ok else .unsupported
  let auth := if tokenField 8 8 s == rd DIE_SERIAL_SERIAL 0 s && tokenHasSigners kind from' to' s && tokenSigned s &&
                 (kind != 1 || nonceMatches s) then Status.ok else .accessDenied
  let order := match kind with
    | 0 => if transitionNow s = some (from', to') then Status.ok else .refused
    | 1 => if from' = s.life.state then Status.ok else .refused
    | _ => if from' = 0 then Status.ok else .refused
  Status.worst [form, auth, order]

/-- The token is discarded (R418). -/
def dropToken (s : State) : State := setSec (fun x => { x with token := [] }) s

/-- A command fails on its token. -/
def tokenFailed (bmc : Bool) (op : Nat) (st : Status) (s : State) : State :=
  cmdEnd bmc op st 0 (dropToken (bumpSat LC_COUNT_TOKEN_FAIL 0 1 s))

/-! ## Commands (R419) -/

/-- The words of a command: of the mailbox, or of the board management controller's message. -/
def cmdWord (bmc : Option (List Nat)) (i : Nat) (s : State) : Nat :=
  match bmc with
  | some ws => wrap 32 (nth 0 ws i)
  | none => rd MBX_DATA_DATA i s

/-- A command begins: ignored while one runs (R390); REFUSED in the FIPS error state (R391) and in a state that Table 4 does
not name; else `f`. -/
def beginCmd (bmc : Option (List Nat)) (op : Nat) (accepted : List Nat) (f : State → State) (s : State) : State :=
  if (if bmc.isSome then s.sec.bmcBusy else rdb MBX_STATUS_BUSY 0 s) then s else
  let s := if bmc.isSome then setSec (fun x => { x with bmcBusy := true }) s
           else s |> setB MBX_STATUS_BUSY 0 |> wr MBX_STATUS_OPCODE 0 op
  if (rdb SEC_STATUS_FIPS_ERROR 0 s && op != 0x08) || !accepted.contains (lifeState s) then cmdEnd bmc.isSome op .refused 0 s
  else f s

/-- `n` bytes of a command's words from word `i` on. -/
def cmdBytes (bmc : Option (List Nat)) (i n : Nat) (s : State) : List Byte :=
  ((List.range ((n + 3) / 4)).flatMap (fun k => toBytes 4 (cmdWord bmc (i + k) s))).take n

/-- LC_TOKEN_LOAD. -/
def doLcTokenLoad (bmc : Option (List Nat)) (s : State) : State :=
  beginCmd bmc 0x09 [0, 1, 2, 3, 5] (fun s =>
    let off := slice (cmdWord bmc 0 s) 0 14
    let len := slice (cmdWord bmc 0 s) 14 12
    if len = 0 ∨ 4092 < len ∨ 9510 < off + len then cmdEnd bmc.isSome 0x09 .unsupported 0 s else
    let data := cmdBytes bmc 1 len s
    let s := setSec (fun x => { x with token := data.zipIdx.foldl (fun m p => put (off + p.2) p.1 m) x.token }) s
    cmdEnd bmc.isSome 0x09 .ok s.sec.token.length s) s

/-- LC_TOKEN_LOAD. -/
def execLcTokenLoad (bmc : Option (List Nat)) (s : State) : Host.Outcome State Fault Refusal := .next (clocked (doLcTokenLoad bmc) s)

/-- The bits that a transition to `t` programs (R413, R417, R422); in the native encoding one group, before it the
integrator key digest for INTEGRATOR. -/
def transitionBits (t : Nat) (s : State) : List (OtpGroup × Nat) :=
  let dig := if t = 1 then bitsToProgram .digest 384 (tokenField 16 48 s) s.life else []
  dig ++ (if groupRead s.life.lcc = 1 then bitsToProgram .lcb 8 (lcbCode t) s.life
          else bitsToProgram (.lcg (t - 1)) 32 (2 ^ 32 - 1) s.life)

/-- A body of a configuration bank is committed to the bank not in use (R430): it takes effect at the next bring-up. -/
def commitBody (body : List Byte) (s : State) : State :=
  let used := s.boot.cfgUse
  let seq := wrap 32 (((bankUsed s).map CfgBank.seq).getD 0 + 1)
  let b : CfgBank := { seq := seq, len := body.length, digest := wrap 384 (Config.sha384 body), body := body }
  setBoot (fun x => { x with flash := if used = some 0 then { x.flash with cfgB := b } else { x.flash with cfgA := b } }) s

/-- The header and data of an item, padded (R431). -/
def itemBytes (ty : Nat) (d : List Byte) : List Byte :=
  toBytes 2 ty ++ toBytes 2 d.length ++ d ++ List.replicate ((4 - d.length % 4) % 4) 0

/-- The configuration store is reduced to the INTEGRATOR_KEYS item, and the user partitions are erased (R420, step 3). -/
def reduceStore (s : State) : State :=
  let body := ((integratorKeys s).map (itemBytes 0x0006)).getD []
  let s := commitBody body s
  let s := setBoot (fun x =>
    if x.cfgUse = some 0 then { x with flash := { x.flash with cfgA := {} }, cfgUse := some 1 }
    else { x with flash := { x.flash with cfgB := {} }, cfgUse := some 0 }) s
  emit { kind := .flash, args := [0] } s

/-- At an RTP start in ANALYSIS, before any other code, the user partitions are erased and the store is reduced, where it
holds more (R420). -/
def startWipe (s : State) : State :=
  if s.life.state ≠ 3 then s else
  let kept := ((integratorKeys s).map (itemBytes 0x0006)).getD []
  match bankUsed s with
  | some b => if b.body.take b.len = kept then emit { kind := .flash, args := [0] } s else reduceStore s
  | none => emit { kind := .flash, args := [0] } s

/-- Steps 3 and 4 of R420, once the zeroisation is complete. -/
def enterAnalysis (bmc : Bool) (s : State) : State :=
  let s := reduceStore s
  program { bits := transitionBits 3 s, due := now16 s + us16 50, target := some 3, bmc := bmc } s

/-- What a wait of the security block was for happens. -/
def endSecWait (a : SecAct) (s : State) : State :=
  match a with
  | .analysis bmc => enterAnalysis bmc s
  | a => endWait a s

/-- Waits that can end do. -/
def settleSec (s : State) : State := settleWaits endSecWait s

/-- LC_TRANSITION (R413, R415, R417, R420): the token is verified, and the group is programmed. -/
def doLcTransition (bmc : Option (List Nat)) (s : State) : State :=
  beginCmd bmc 0x0A [0, 1, 2, 3, 5] (fun s =>
    let st := tokenStatus 0 s
    if st ≠ .ok then tokenFailed bmc.isSome 0x0A st s else
    let t := tokenField 6 1 s
    if t = 1 ∧ !((List.range 384).all (fun i => !bit s.life.digest i || bit (tokenField 16 48 s) i)) then
      tokenFailed bmc.isSome 0x0A .refused s
    else if t = 3 ∧ lifeState s ≠ 5 then
      let z := zeroise (dropToken s)
      settleSec (setSec (fun x => { x with waits := x.waits ++ [{ act := .analysis bmc.isSome, burns := z.1, sites := [] }] }) z.2.2)
    else if t = 3 then enterAnalysis bmc.isSome (dropToken s)
    else program { bits := transitionBits t s, due := now16 s + us16 50, target := some t, bmc := bmc.isSome } (dropToken s)) s

/-- LC_TRANSITION. -/
def execLcTransition (bmc : Option (List Nat)) (s : State) : Host.Outcome State Fault Refusal := .next (clocked (doLcTransition bmc) s)

/-- LC_CHALLENGE: a fresh nonce of 256 bits, which the spec leaves open. -/
def doLcChallenge (bmc : Option (List Nat)) (s : State) : State :=
  beginCmd bmc 0x0B [1, 2] (fun s =>
    let ws := (List.range 8).map (fun i => wrap 32 (Config.freeValue (s.freeCtr + i)).toNat)
    let n := ofBytes (ws.flatMap (toBytes 4))
    let s := setSec (fun x => { x with nonce := some n }) (drewN 8 s)
    if bmc.isSome then emit { kind := .mailbox, args := [0x0B, 0, 0] ++ ws } (setSec (fun x => { x with bmcBusy := false }) s)
    else mbxEnd 0x0B .ok 0 (forEach ws.zipIdx (fun p s => wr MBX_DATA_DATA p.2 p.1 s) s)) s

/-- LC_CHALLENGE. -/
def execLcChallenge (bmc : Option (List Nat)) (s : State) : Host.Outcome State Fault Refusal := .next (clocked (doLcChallenge bmc) s)

/-- DEBUG_GRANT (R411): a level opens by token; FULL in FIELDED after zeroisation. -/
def doDebugGrant (bmc : Option (List Nat)) (s : State) : State :=
  beginCmd bmc 0x0C [1, 2] (fun s =>
    let conf := rdb SEC_STATUS_CONFIDENTIAL 0 s || rdb SEC_STATUS_CONF_PENDING 0 s
    let st := tokenStatus 1 s
    if st ≠ .ok then tokenFailed bmc.isSome 0x0C (if conf then Status.worse st .refused else st) s
    else if conf then cmdEnd bmc.isSome 0x0C .refused 0 (dropToken s)
    else
      let l := tokenField 6 1 s
      let s := dropToken s
      if l = 2 ∧ s.life.state = 2 then
        let z := zeroise s
        settleSec (setSec (fun x => { x with waits := x.waits ++ [{ act := .grant bmc.isSome l, burns := z.1 }] }) z.2.2)
      else endWait (.grant bmc.isSome l) s) s

/-- DEBUG_GRANT. -/
def execDebugGrant (bmc : Option (List Nat)) (s : State) : Host.Outcome State Fault Refusal := .next (clocked (doDebugGrant bmc) s)

/-- DEBUG_REVOKE (R411). -/
def doDebugRevoke (bmc : Option (List Nat)) (s : State) : State :=
  beginCmd bmc 0x0D [0, 1, 2, 3] (fun s =>
    let s := stateLevel s
    cmdEnd bmc.isSome 0x0D .ok (rd LC_DEBUG_LEVEL 0 s) s) s

/-- DEBUG_REVOKE. -/
def execDebugRevoke (bmc : Option (List Nat)) (s : State) : Host.Outcome State Fault Refusal := .next (clocked (doDebugRevoke bmc) s)

/-- LC_SELECT_COMPAT (R422): LCC is programmed, in MAKER or to complete a select group that reads neither Z nor O. -/
def doLcSelectCompat (bmc : Option (List Nat)) (s : State) : State :=
  let ok := if groupRead s.life.lcc = 2 then [0, 5] else [0]
  beginCmd bmc 0x0E ok (fun s =>
    let st := tokenStatus 2 s
    if st ≠ .ok then tokenFailed bmc.isSome 0x0E st s else
    program { bits := bitsToProgram .lcc 32 (2 ^ 32 - 1) s.life, due := now16 s + us16 50, select := true, bmc := bmc.isSome }
      (dropToken s)) s

/-- LC_SELECT_COMPAT. -/
def execLcSelectCompat (bmc : Option (List Nat)) (s : State) : Host.Outcome State Fault Refusal := .next (clocked (doLcSelectCompat bmc) s)

end Sys2Proof.Machine
end

