-- ==== Sys2Proof/Machine/Security.lean ====
section
/-! DEFINITION. Sys2Proof/Machine/Security.lean: the mailbox commands of partitions, functions and extents, confidential
mode, SPDM and TDISP, and the error state (spec/15_security_and_isolation.md). -/

namespace Sys2Proof.Machine

open Sys2Proof

/-- A command of Table 4 of this chapter: not in SCRAPPED or LOCKED, whose RTP runs its ROM alone (R408). -/
def secCmd (op : Nat) (f : State → State) (s : State) : State := beginCmd none op [0, 1, 2, 3] f s

/-- An argument word of the mailbox. -/
def mbxArg (i : Nat) (s : State) : Nat := rd MBX_DATA_DATA i s

/-! ## Extents (R387, R390) -/

/-- The extents of a command's range. -/
def argExts (s : State) : List Nat :=
  (List.range (slice (mbxArg 0 s) 12 12)).map (fun i => slice (mbxArg 0 s) 0 12 + i)

/-- The range of a command is empty or runs past the table. -/
def rangeBad (s : State) : Bool :=
  slice (mbxArg 0 s) 12 12 == 0 || decide (2560 < slice (mbxArg 0 s) 0 12 + slice (mbxArg 0 s) 12 12)

/-- An extent is given to a function. -/
def giveExt (e n : Nat) (key remote siteOk : Bool) (s : State) : State :=
  s |> wr EXT_KIND e 1 |> wr EXT_FUNCTION e n |> wrb EXT_KEY_EN e key |> wrb EXT_REMOTE e remote |> wrb EXT_SITE_OK e siteOk

/-- EXTENT_ASSIGN (R390, R391): FREE extents go to a function; the first with KEY_EN = 1 creates its key. -/
def doExtentAssign (s : State) : State :=
  secCmd 0x01 (fun s =>
    if rangeBad s then mbxEnd 0x01 .unsupported 0 s
    else if !(argExts s).all (fun e => extKind e s == 0) then mbxEnd 0x01 .refused 0 s
    else
      let es := argExts s
      let a := mbxArg 1 s
      let n := slice a 0 6
      let s := tdiError n s
      let s := if bit a 6 && (keyedExts n s).isEmpty then newKey n s else s
      mbxEnd 0x01 .ok es.length (forEach es (fun e s => giveExt e n (bit a 6) (bit a 7) (bit a 8) s) s)) s

/-- EXTENT_ASSIGN. -/
def execExtentAssign (s : State) : Host.Outcome State Fault Refusal := .next (clocked doExtentAssign s)

/-- EXTENT_RELEASE (R391, R393): a function's extents are burnished; with its last extent, the function is. -/
def doExtentRelease (s : State) : State :=
  secCmd 0x02 (fun s =>
    if rangeBad s then mbxEnd 0x02 .unsupported 0 s else
    let es := argExts s
    let n := rd EXT_FUNCTION (es.headD 0) s
    if !es.all (fun e => extOwned n e s) then mbxEnd 0x02 .refused 0 s else
    let mine := (usedExts s).filter (fun e => extOwned n e s)
    let r : List Nat × State :=
      if rd FUNC_CFG_TDI n s = 1 ∨ rd FUNC_CFG_TDI n s = 2 then
        let b := burnishFn n (silenceFn n (wr FUNC_CFG_TDI n 3 s))
        (b.1, b.2.2)
      else if mine.all es.contains then
        let b := burnishFn n s
        (b.1, b.2.2)
      else burnExts es s
    setSec (fun x => { x with waits := x.waits ++ [{ act := .done false 0x02 es.length, burns := r.1 }] }) r.2) s

/-- EXTENT_RELEASE. -/
def execExtentRelease (s : State) : Host.Outcome State Fault Refusal := .next (clocked doExtentRelease s)

/-! ## Partitions and functions (R385, R386) -/

/-- The functions bound to partition `p`. -/
def boundTo (p : Nat) (s : State) : List Nat := (List.range 64).filter (fun n => partOf n s == some p)

/-- PART_ASSIGN (R385, R390). -/
def doPartAssign (s : State) : State :=
  secCmd 0x03 (fun s =>
    let a := mbxArg 0 s
    let p := slice a 0 4
    let gs := (List.range 16).filter (fun g => bit a (16 + g))
    if gs.isEmpty || gs.any (fun g => decide (tiles s / 4 ≤ g)) then mbxEnd 0x03 .unsupported 0 s
    else if rdb PART_CFG_VALID p s || gs.any (fun g => rdb TGRP_VALID g s) then mbxEnd 0x03 .refused 0 s
    else
      let s := s |> setB PART_CFG_VALID p |> wr PART_CFG_OWNER p (slice a 4 6)
      mbxEnd 0x03 .ok gs.length (forEach gs (fun g s => s |> setB TGRP_VALID g |> wr TGRP_PARTITION g p) s)) s

/-- PART_ASSIGN. -/
def execPartAssign (s : State) : Host.Outcome State Fault Refusal := .next (clocked doPartAssign s)

/-- What an engine runs and holds queued ends ABORTED; attention items go elsewhere (R146, R147). -/
def stopTile (t : Nat) (s : State) : State :=
  let s := tileLost t (abortRun t s)
  let q := (grv t s).queue
  forEach q (fun w s => failDesc w.g w.k .aborted s) (setGrv t (fun g => { g with queue := [] }) s)

/-- PART_RELEASE (R391): functions are unbound, tiles burnished, sites reset. -/
def doPartRelease (s : State) : State :=
  secCmd 0x04 (fun s =>
    let p := slice (mbxArg 0 s) 0 4
    if !rdb PART_CFG_VALID p s then mbxEnd 0x04 .refused 0 s else
    let s := forEach (boundTo p s) tdiError s
    let s := forEach (tilesOfPart p s) stopTile s
    let r := burnishPart p s
    let s := forEach (boundTo p r.2) (fun n s => s |> clrB FUNC_CFG_BOUND n |> wr FUNC_CFG_PARTITION n 0) r.2
    let s := forEach (List.range 16) (fun g s =>
      if rdb TGRP_VALID g s && rd TGRP_PARTITION g s == p then s |> clrB TGRP_VALID g |> wr TGRP_PARTITION g 0 else s) s
    let s := s |> clrB PART_CFG_VALID p |> wr PART_CFG_OWNER p 0
    setSec (fun x => { x with waits := x.waits ++ [{ act := .done false 0x04 0, burns := [], sites := r.1 }] }) s) s

/-- PART_RELEASE. -/
def execPartRelease (s : State) : Host.Outcome State Fault Refusal := .next (clocked doPartRelease s)

/-- FUNC_BIND (R386). -/
def doFuncBind (s : State) : State :=
  secCmd 0x05 (fun s =>
    let a := mbxArg 0 s
    let n := slice a 0 6
    let p := slice a 6 4
    if bit a 10 then
      if !rdb PART_CFG_VALID p s then mbxEnd 0x05 .refused 0 s
      else mbxEnd 0x05 .ok 0 (tdiError n s |> setB FUNC_CFG_BOUND n |> wr FUNC_CFG_PARTITION n p)
    else if partOf n s ≠ some p then mbxEnd 0x05 .refused 0 s
    else mbxEnd 0x05 .ok 0 (tdiError n s |> clrB FUNC_CFG_BOUND n |> wr FUNC_CFG_PARTITION n 0)) s

/-- FUNC_BIND. -/
def execFuncBind (s : State) : Host.Outcome State Fault Refusal := .next (clocked doFuncBind s)

/-! ## Confidential mode (R395, Table 6) -/

/-- Functions bound to partitions. -/
def boundFns (s : State) : List Nat := (List.range 64).filter (fun n => (partOf n s).isSome)

/-- Condition 5: classes and ways of different partitions are apart. -/
def classesApart (s : State) : Bool :=
  (boundFns s).all (fun n => (boundFns s).all (fun m => partOf n s == partOf m s ||
    (let a := rd REG_FUNC_CLASS n s
     let b := rd REG_FUNC_CLASS m s
     a != b && decide (a < 30) && decide (b < 30) &&
     Nat.land (rd SC_WAYS_ALLOC_MASK a s) (rd SC_WAYS_ALLOC_MASK b s) == 0)))

/-- The sum of a field over the 64 functions. -/
def fnSum (f : Fld) (s : State) : Nat := ((List.range 64).map (fun n => rd f n s)).sum

/-- The conditions of Table 6, in order. -/
def confConditions (s : State) : List Bool :=
  [ rdb HUB_GLOBAL_SETUP_LOCK 0 s,
    rdb REG_CTL_STATIC 0 s && !oversub s,
    (usedExts s).all (fun e => extKind e s != 1 || rdb EXT_KEY_EN e s),
    decide (((List.range 16).filter (fun p => rdb PART_CFG_VALID p s)).length ≤ 12),
    classesApart s,
    decide (fnSum SES_QUOTA_MAX s ≤ 262144) && decide (fnSum STR_QUOTA_MAX s ≤ 131072) && decide (fnSum CAL_QUOTA_MAX s ≤ 8192),
    rdb TRN_CTL_SHARED_PART 0 s,
    (List.range (chipSites s)).all (fun j => !rdb PART_CFG_VALID (sitePart j s) s || siteState j s == 0 ||
      (siteReady j s && rdb SITE_STATUS_ATTESTED j s)),
    !rdb HOST_APERTURE_ENABLE 0 s,
    rd LC_DEBUG_LEVEL 0 s == 0 ]

/-- The number of the first condition that fails. -/
def confFails (s : State) : Option Nat := ((confConditions s).findIdx? (fun b => !b)).map (· + 1)

/-- CONF_ENTER (R395): accepted, it takes effect at a boundary of R265. -/
def doConfEnter (s : State) : State :=
  secCmd 0x06 (fun s =>
    match confFails s with
    | some k => mbxEnd 0x06 .refused k s
    | none => setB SEC_STATUS_CONF_PENDING 0 (setSec (fun x => { x with confAt := some (now16 s) }) s)) s

/-- CONF_ENTER. -/
def execConfEnter (s : State) : Host.Outcome State Fault Refusal := .next (clocked doConfEnter s)

/-- An accepted CONF_ENTER ends. -/
def endConf (st : Status) (result : Nat) (s : State) : State :=
  mbxEnd 0x06 st result (clrB SEC_STATUS_CONF_PENDING 0 (setSec (fun x => { x with confAt := none }) s))

/-- CONF_ENTER_TIMEOUT (R395): no boundary has come within 20 ms. -/
def doConfEnterTimeout (s : State) : State :=
  match s.sec.confAt with
  | some t => if due (t + us16 20000) s then endConf .refused 11 s else s
  | none => s

/-- CONF_ENTER_TIMEOUT. -/
def execConfEnterTimeout (s : State) : Host.Outcome State Fault Refusal := .next (clocked doConfEnterTimeout s)

/-! ## Keys (R384, R406) -/

/-- A secure port takes its next key (R384). -/
def rekeyPort (p : Nat) (s : State) : State :=
  newKey (64 + p) (setPort p (fun x => { x with epoch := wrap 32 (x.epoch + 1), cwCount := 0 }) s)

/-- PORT_REKEY (R384). -/
def doPortRekey (s : State) : State :=
  secCmd 0x07 (fun s =>
    let p := slice (mbxArg 0 s) 0 5
    if !(decide (p < 20) && rdb SYR_PORT_UP p s && rdb SYR_PORT_SECURE p s) then mbxEnd 0x07 .unreachable 0 s else
    let s := rekeyPort p s
    mbxEnd 0x07 .ok (syrPort p s).epoch s) s

/-- PORT_REKEY. -/
def execPortRekey (s : State) : Host.Outcome State Fault Refusal := .next (clocked doPortRekey s)

/-- CODEWORD_COUNT_REKEY (R384): the extended codeword count of secure PORT_p nears 2^40. -/
def doCodewordCountRekey (p : Nat) (s : State) : State :=
  if decide (p < 20) && rdb SYR_PORT_UP p s && rdb SYR_PORT_SECURE p s && decide (2 ^ 39 ≤ (syrPort p s).cwCount) then rekeyPort p s
  else s

/-- CODEWORD_COUNT_REKEY. -/
def execCodewordCountRekey (p : Nat) (s : State) : Host.Outcome State Fault Refusal := .next (clocked (doCodewordCountRekey p) s)

/-- ZEROIZE (R406). -/
def doZeroize (s : State) : State :=
  secCmd 0x08 (fun s =>
    let z := zeroise s
    setSec (fun x => { x with waits := x.waits ++ [{ act := .done false 0x08 0, burns := z.1 }] }) z.2.2) s

/-- ZEROIZE. -/
def execZeroize (s : State) : Host.Outcome State Fault Refusal := .next (clocked doZeroize s)

/-- BURNISH_DONE (R392): the oldest burnish completes, once no chiplet holds a line of its extents; overwriting writes wait
while a bucket moves (R394). -/
def doBurnishDone (s : State) : State :=
  match s.sec.burns with
  | [] => s
  | b :: _ =>
    if b.slot.isNone && (List.range 4096).any (fun i => rdb SLICE_STEER_MOVING i s) then s
    else if s.coh.trans.any (fun p => inExts b.exts (64 * p.1)) then s
    else
      let ls := heldLines b.exts s
      if !ls.isEmpty then forEach ls (fun l s => startEvict l .claim (portClass 80 0 s) s) s
      else settleSec (endBurn b s)

/-- BURNISH_DONE. -/
def execBurnishDone (s : State) : Host.Outcome State Fault Refusal := .next (clocked doBurnishDone s)

/-- FIPS_ERROR_ENTER (R405): a self-test has failed. -/
def doFipsErrorEnter (s : State) : State := fipsEnter s

/-- FIPS_ERROR_ENTER. -/
def execFipsErrorEnter (s : State) : Host.Outcome State Fault Refusal := .next (clocked doFipsErrorEnter s)

/-! ## SPDM, IDE and TDISP (R397 to R399) -/

/-- A message of the SPDM responder to a session (0: none). -/
def spdmSay (sid : Nat) (args : List Nat) (s : State) : State := emit { kind := .spdm, dest := sid, args := args } s

/-- ERROR with a code: 1 InvalidRequest, 4 UnexpectedRequest, 5 Unspecified, 7 UnsupportedRequest. -/
def spdmError (sid code : Nat) (s : State) : State := spdmSay sid [0x7F, code] s

/-- The DeviceID secret is available (R408, Table 1). -/
def deviceIdOn (s : State) : Bool := s.life.state == 1 || s.life.state == 2

/-- The RTP can sign for certificate slot `k` (R397, R409, R406). -/
def canSign (k : Nat) (s : State) : Bool :=
  deviceIdOn s && s.sec.aliasKey.isSome && (k == 0 || (k == 1 && (storeItem 0x0007 s).isSome))

/-- The SHA-384 digest of numbers, as a measurement block holds it. -/
def digestOf (l : List Nat) : Nat := wrap 384 (Config.sha384 (l.flatMap (toBytes 8)))

/-- The contents that measurement block `i` digests (Table 8). The ROM of block 1 and the images of blocks 2 to 4 go in as
their bytes. -/
def measurement (i : Nat) (s : State) : Nat :=
  let fw := fun t =>
    let b := nth ({}, {}) s.boot.flash.fw (t - 1)
    wrap 384 (Config.sha384 (if nth 0 s.boot.flash.active (t - 1) = 0 then b.1.img else b.2.img))
  match i with
  | 1 => digestOf [1]
  | 2 => fw 2
  | 3 => fw 1
  | 4 => fw 3
  | 5 => digestOf ([s.life.state, rd LC_DEBUG_LEVEL 0 s, regImage SEC_STATUS_blk 0 s, regImage REG_STATUS_blk 0 s] ++
      (List.range 16).map (fun p => regImage PART_CFG_blk p s) ++ (List.range 16).map (fun g => regImage TGRP_blk g s) ++
      [digestOf ((usedExts s).flatMap (fun e => [e, regImage EXT_blk e s]))])
  | i => if rdb SITE_STATUS_ATTESTED (i - 6) s then wrap 384 (Config.sha384 (site (i - 6) s).ident) else 0

/-- A secured session is open. -/
def sessionOpen (sid : Nat) (s : State) : Bool := s.sec.sessions.contains sid

/-- A TDISP response to session `sid`. -/
def tdispSay (sid code n : Nat) (more : List Nat) (s : State) : State := spdmSay sid ([0x7E, code, n] ++ more) s

/-- TDISP_ERROR. -/
def tdispError (sid n : Nat) (s : State) : State := tdispSay sid 0x7F n [] s

/-- SPDM_REQUEST (R397): the RTP answers as responder; without cryptographic service with ERROR Unspecified (R405, R414). -/
def doSpdmRequest (r : SpdmReq) (s : State) : State :=
  if noCrypto s then spdmError 0 5 s else
  match r with
  | .getVersion => spdmSay 0 [0x04, 0x13, 0x12] s
  | .getCapabilities => spdmSay 0 [0x61] s
  | .negotiateAlgorithms ok => if ok then spdmSay 0 [0x63] s else spdmError 0 1 s
  | .getDigests => spdmSay 0 [0x01, b2n (deviceIdOn s) + 2 * b2n (storeItem 0x0007 s).isSome] s
  | .getCertificate k => if (k = 0 ∧ deviceIdOn s) ∨ (k = 1 ∧ (storeItem 0x0007 s).isSome) then spdmSay 0 [0x02, k] s
                         else spdmError 0 1 s
  | .challenge k => if canSign k s then spdmSay 0 [0x03, k] s else spdmError 0 5 s
  | .getMeasurements i sign =>
    if sign && !canSign 0 s then spdmError 0 5 s
    else if i = 0 then spdmSay 0 [0x60, 13] s
    else if i = 0xFF then spdmSay 0 ([0x60] ++ (List.range 13).map (fun j => measurement (j + 1) s)) s
    else if i ≤ 13 then spdmSay 0 [0x60, measurement i s] s
    else spdmError 0 1 s
  | .keyExchange ok =>
    if !ok then spdmError 0 1 s
    else if !canSign 0 s then spdmError 0 5 s
    else if 4 ≤ (s.sec.sessions ++ s.sec.handshakes).length then spdmError 0 0x0A s
    else
      let id := s.sec.nextSid + 1
      spdmSay id [0x64] (setSec (fun x => { x with handshakes := x.handshakes ++ [id], nextSid := id }) s)
  | .finish sid ok =>
    if !s.sec.handshakes.contains sid then spdmError sid 4 s
    else
      let s := setSec (fun x => { x with handshakes := x.handshakes.filter (· != sid) }) s
      if ok then spdmSay sid [0x65] (setSec (fun x => { x with sessions := x.sessions ++ [sid] }) s) else spdmError sid 6 s
  | .heartbeat sid => if sessionOpen sid s then spdmSay sid [0x68] s else spdmError sid 4 s
  | .keyUpdate sid => if sessionOpen sid s then spdmSay sid [0x69] s else spdmError sid 4 s
  | .chunk => spdmSay 0 [0x05] s
  | .endSession sid =>
    if sessionOpen sid s then spdmSay sid [0x6C] (setSec (fun x => { x with sessions := x.sessions.filter (· != sid) }) s)
    else spdmError sid 4 s
  | .ideKeyProg sid n =>
    if !sessionOpen sid s then spdmError sid 4 s
    else if 64 ≤ n then spdmSay sid [0x7E, 0x00, 0x03, n, 1] s
    else spdmSay sid [0x7E, 0x00, 0x03, n, 0]
      (setSec (fun x => { x with ide := put n x.nextKey x.ide, nextKey := x.nextKey + 1 }) s)
  | .interfaceState sid n =>
    if !sessionOpen sid s then spdmError sid 4 s
    else if n = 0 ∨ 64 ≤ n then tdispError sid n s else tdispSay sid 0x05 n [rd FUNC_CFG_TDI n s] s
  | .interfaceReport sid n =>
    if !sessionOpen sid s then spdmError sid 4 s
    else if n = 0 ∨ 64 ≤ n ∨ !(rd FUNC_CFG_TDI n s == 1 || rd FUNC_CFG_TDI n s == 2) then tdispError sid n s
    else
      let gs := (List.range 16).filter (fun g => rdb TGRP_VALID g s && some (rd TGRP_PARTITION g s) == partOf n s)
      let js := (List.range (chipSites s)).filter (fun j => siteOwned n j s)
      -- VF BAR 0 is one range of 1 MiB (R316)
      tdispSay sid 0x04 n [2 ^ 20, (gs.map (2 ^ ·)).sum, (js.map (2 ^ ·)).sum, ((usedExts s).filter (fun e => extOwned n e s)).length] s
  | .startInterface sid n nonce =>
    if !sessionOpen sid s then spdmError sid 4 s
    else if rd FUNC_CFG_TDI n s = 1 ∧ n < 64 ∧ look s.sec.tdiNonce n = some nonce then
      tdispSay sid 0x06 n [] (setSec (fun x => { x with tdiNonce := del n x.tdiNonce }) (wr FUNC_CFG_TDI n 2 s))
    else tdispError sid n s
  | .other _ => spdmError 0 7 s

/-- SPDM_REQUEST. -/
def execSpdmRequest (r : SpdmReq) (s : State) : Host.Outcome State Fault Refusal := .next (clocked (doSpdmRequest r) s)

/-- The lock of VF `n`'s interface is acceptable (R398). -/
def lockOk (n : Nat) (s : State) : Bool :=
  decide (0 < n) && decide (n < 64) && rd FUNC_CFG_TDI n s == 0 && rdb SEC_STATUS_CONFIDENTIAL 0 s &&
  (match ownsPart n s with
   | some p => boundTo p s == [n]
   | none => false)

/-- LOCK_INTERFACE_REQUEST (R398): in a secured session, the TDI of VF `n` is locked, or a TDISP error answers. The nonce of
the response is the spec's to leave open. -/
def doLockInterfaceRequest (sid n : Nat) (s : State) : State :=
  if noCrypto s then spdmError sid 5 s
  else if !sessionOpen sid s then spdmError sid 4 s
  else if !lockOk n s then tdispError sid n s
  else
    let v := freeVal 64 s
    tdispSay sid 0x03 n [v] (drew (setSec (fun x => { x with tdiNonce := put n v x.tdiNonce }) (wr FUNC_CFG_TDI n 1 s)))

/-- LOCK_INTERFACE_REQUEST. -/
def execLockInterfaceRequest (sid n : Nat) (s : State) : Host.Outcome State Fault Refusal := .next (clocked (doLockInterfaceRequest sid n) s)

/-- Function `n` is silenced and burnished, and reads CONFIG_UNLOCKED when that is complete (R399). -/
def unlockFn (n : Nat) (sid : Option Nat) (s : State) : State :=
  let b := burnishFn n (silenceFn n (wr FUNC_CFG_TDI n 3 s))
  settleSec (setSec (fun x => { x with waits := x.waits ++ [{ act := .unlock n sid, burns := b.1, sites := b.2.1 }] }) b.2.2)

/-- STOP_INTERFACE_REQUEST (R399). -/
def doStopInterfaceRequest (sid n : Nat) (s : State) : State :=
  if noCrypto s then spdmError sid 5 s
  else if !sessionOpen sid s then spdmError sid 4 s
  else if n = 0 ∨ 64 ≤ n then tdispError sid n s
  else if rd FUNC_CFG_TDI n s = 0 then tdispSay sid 0x07 n [] s
  else unlockFn n (some sid) s

/-- STOP_INTERFACE_REQUEST. -/
def execStopInterfaceRequest (sid n : Nat) (s : State) : Host.Outcome State Fault Refusal := .next (clocked (doStopInterfaceRequest sid n) s)

end Sys2Proof.Machine
end

