-- ==== Sys2Proof/Machine/Mesh.lean ====
section
/-! DEFINITION. Sys2Proof/Machine/Mesh.lean: mesh packets, sleeping routers, timeouts, tombstones, hold notices and the
boundaries of static regulation (spec/10_mesh_and_regulation.md R246 to R256, R265). -/

namespace Sys2Proof.Machine

open Sys2Proof

/-! ## Packets (R246, R248, R249) -/

/-- An initiator's port takes a response: its request is answered; a tag in quarantine drops it (R255). -/
def takeAnswer (f : Flight) (st : Status) (data : List Byte) (s : State) : State :=
  let give := emit { kind := .mesh, dest := f.dst, tag := f.id, args := [st.code], data := data }
  match f.tag with
  | none => give s
  | some t =>
    match reqOf 0 f.dst t s with
    | some r => give (retireReq r s)
    | none =>
      if s.timers.tombs.any (fun x => x.cls == 0 && x.port == f.dst && x.tag == t) then bump TMO_COUNT_LATE_DROP 0 1 s else s

/-- The unit at a port takes packets: a tile that is not enabled, out of service or in reset does not (R248). -/
def portTakes (k : Nat) (s : State) : Bool :=
  decide (64 ≤ k) || (decide (k < tiles s) && rd GRV_STATUS_STATE k s != 3)

/-- MESH_PACKET_DELIVER (R245, R246, R248, R249): the oldest packet of network `vn` on data plane `plane` from port `src` to port
`dst` reaches its ejection port; `err` 0 clean, 1 corrected, 2 an uncorrectable payload (only the header arrives, marked
DATA_ERR), 3 an uncorrectable header (the packet is discarded). For a unit that takes none the tile's router answers the sender. -/
def doMeshPacketDeliver (vn plane src dst err : Nat) (s : State) : State :=
  match s.mesh.flight.find? (fun f => f.vn == vn && f.plane == plane && f.src == src && f.dst == dst) with
  | none => s
  | some f =>
    let s := travel src dst (setMesh (fun m => { m with flight := m.flight.erase f }) s)
    if err = 3 then bumpSat MESH_STATUS_FLIT_UE 0 1 s
    else if !portTakes dst s then emit { kind := .mesh, dest := src, tag := f.id, args := [Status.unreachable.code] } s
    else if err = 2 then takeAnswer f .dataErr [] (bumpSat MESH_STATUS_FLIT_UE 0 1 s)
    else takeAnswer f f.st f.data (if err = 1 then bumpSat MESH_STATUS_FLIT_CE 0 1 s else s)

/-- MESH_PACKET_DELIVER. -/
def execMeshPacketDeliver (vn plane src dst err : Nat) (s : State) : Host.Outcome State Fault Refusal :=
  .next (clocked (doMeshPacketDeliver vn plane src dst err) s)

/-- Idle time before a router gates its clock, in 1/16 ns: 16 times GATE_IDLE cycles of the 2.0 GHz mesh clock. -/
def gateAfter (s : State) : Nat := 16 * max 1 (rd MESH_CTL_GATE_IDLE 0 s) * 8

/-- ROUTER_GATE (R250): router `r` gates its clock. -/
def doRouterGate (r : Nat) (s : State) : State :=
  if decide (r < 72) && rdb MESH_CTL_GATE_EN 0 s && !s.mesh.gated.contains r &&
     due (lookD 0 s.mesh.used r + gateAfter s) s then
    setMesh (fun m => { m with gated := m.gated ++ [r] }) s
  else s

/-- ROUTER_GATE. -/
def execRouterGate (r : Nat) (s : State) : Host.Outcome State Fault Refusal := .next (clocked (doRouterGate r) s)

/-! ## Timeouts and tombstones (R252 to R256) -/

/-- The status TIMEOUT goes to whoever awaits the request (R254). -/
def timedOut (r : Req) (s : State) : State :=
  match r.purpose with
  | .window j id w => windowFailed j id w SITE_EVENT_MMIO_TIMEOUT s
  | .snoop j _ => fenceSite j s
  | .quiesce _ _ => s
  | .resume _ _ => s
  | .remote id =>
    match look s.syr.outbound id with
    | some w => settleJobs (answerOut id w .timeout [] s)
    | none => s
  | .ats fn pasid page =>
    let mine := fun (w : XWait) => w.fn == fn && w.pasid == pasid && w.page == page
    let ws := s.xlat.waits.filter mine
    settleJobs (forEach ws (fun w s => accessFailed w.purpose .timeout s)
      { s with xlat := { s.xlat with waits := s.xlat.waits.filter (fun w => !mine w) } })
  | .pri _ _ => s
  | .device _ id => deviceAnswer id .timeout [] s
  | .onDie id => emit { kind := .mesh, dest := r.port, tag := id, args := [Status.timeout.code] } s
  | p => settleJobs (accessFailed p .timeout s)

/-- The event is counted and logged, and the tag quarantined (R254). -/
def noteTimeout (r : Req) (s : State) : State :=
  entomb r (bump TMO_COUNT_TIMEOUTS 0 1 (tmoLog r.cls r.port r.tag r.fn s))

/-- INITIATOR_TIMEOUT (R254): the timer of the request with a tag has run out. -/
def doInitiatorTimeout (cls port tag : Nat) (s : State) : State :=
  match reqOf cls port tag s with
  | none => s
  | some r =>
    if !expired r s then s
    else match r.purpose with
      | .pri _ _ => s
      | _ =>
        let s := noteTimeout r s
        timedOut r (if cls = 3 ∧ port = 77 then reportAer r.fn 4 s else s)

/-- INITIATOR_TIMEOUT. -/
def execInitiatorTimeout (cls port tag : Nat) (s : State) : Host.Outcome State Fault Refusal :=
  .next (clocked (doInitiatorTimeout cls port tag) s)

/-- Requests that a free tag or an open gate lets go leave (R255). -/
def pumpAll (s : State) : State := forEach (List.range (chipSites s)) zcpPump (pumpWaiting s)

/-- TOMBSTONE_EXPIRE (R255): a quarantine ends and the tag is free. -/
def doTombstoneExpire (cls port tag : Nat) (s : State) : State :=
  match s.timers.tombs.find? (fun t => t.cls == cls && t.port == port && t.tag == tag && due t.till s) with
  | none => s
  | some t => pumpAll { s with timers := { s.timers with tombs := s.timers.tombs.erase t } }

/-- TOMBSTONE_EXPIRE. -/
def execTombstoneExpire (cls port tag : Nat) (s : State) : Host.Outcome State Fault Refusal :=
  .next (clocked (doTombstoneExpire cls port tag) s)

/-- LATE_COMPLETION_DROP (R255): a completion comes whose tag is in quarantine. -/
def doLateCompletionDrop (cls port tag : Nat) (s : State) : State :=
  if s.timers.tombs.any (fun t => t.cls == cls && samePort cls t.port port && t.tag == tag) then bump TMO_COUNT_LATE_DROP 0 1 s
  else s

/-- LATE_COMPLETION_DROP. -/
def execLateCompletionDrop (cls port tag : Nat) (s : State) : Host.Outcome State Fault Refusal :=
  .next (clocked (doLateCompletionDrop cls port tag) s)

/-- The target holds the request: its channel is being retrained (R177), its granule is under copy (R179) or its bucket moved
(R186). -/
def targetHolds (o : OnDie) (s : State) : Bool := lineHeld o.line s

/-- The on-die request of an entry. -/
def ofEntry (o : OnDie) (r : Req) : Bool := r.cls == 0 && r.port == o.port && some r.tag == o.tag

/-- The entry of a request at its target is changed. -/
def setAtTarget (o : OnDie) (f : OnDie → OnDie) (s : State) : State :=
  setMesh (fun m => { m with held := m.held.map (fun x => if x = o then f x else x) }) s

/-- HELD_NOTICE (R253): the target of request `id` of port `k` holds it, and its timer pauses. -/
def doHeldNotice (k id : Nat) (s : State) : State :=
  match atTarget k id s with
  | none => s
  | some o =>
    if o.heldSince.isSome || !targetHolds o s then s
    else pauseReqs (ofEntry o) (setAtTarget o (fun x => { x with heldSince := some (now16 s) }) s)

/-- HELD_NOTICE. -/
def execHeldNotice (k id : Nat) (s : State) : Host.Outcome State Fault Refusal := .next (clocked (doHeldNotice k id) s)

/-- RESUMED_NOTICE (R253): the target releases the request, and its timer goes on. -/
def doResumedNotice (k id : Nat) (s : State) : State :=
  match atTarget k id s with
  | none => s
  | some o =>
    match o.heldSince with
    | none => s
    | some t =>
      if targetHolds o s then s
      else resumeReqs (ofEntry o)
        (setAtTarget o (fun x => { x with heldSince := none, heldFor := x.heldFor + (now16 s - t) }) s)

/-- RESUMED_NOTICE. -/
def execResumedNotice (k id : Nat) (s : State) : Host.Outcome State Fault Refusal := .next (clocked (doResumedNotice k id) s)

/-- Request `id` of port `k` leaves the home's and the channels' queues. -/
def dropOnDie (k id : Nat) (s : State) : State :=
  let s := setMem (fun m => { m with chans := m.chans.map (fun c =>
    (c.1, { c.2 with queue := c.2.queue.filter (fun r => !(r.port == k && r.id == id)) })) }) s
  setCoh (fun h => { h with
    queue := h.queue.map (fun q => (q.1, q.2.filter (fun r => !decide (r.who = .mesh k id)))),
    outst := h.outst.filter (fun o => !decide (o.who = .mesh k id)) }) s

/-- TARGET_ABANDON (R256): the target has held request `id` of port `k` longer than the on-die timeout that it was issued with
(R252), not counting HELD periods. -/
def doTargetAbandon (k id : Nat) (s : State) : State :=
  match atTarget k id s with
  | none => s
  | some o =>
    if o.heldSince.isSome || !due (o.at16 + o.heldFor + o.limit + 1) s then s
    else dropOnDie k id (setMesh (fun m => { m with held := m.held.filter (fun x => !decide (x = o)) }) s)

/-- TARGET_ABANDON. -/
def execTargetAbandon (k id : Nat) (s : State) : Host.Outcome State Fault Refusal := .next (clocked (doTargetAbandon k id) s)

/-- A value is brought into a range. -/
def clamp (lo hi v : Nat) : Nat := min hi (max lo v)

/-- TMO_WRITE (R252): TMO_ONDIE, TMO_SITE or TMO_SYREL (class 0, 1, 2) is written: a value outside the range sets the nearest
limit; SETUP_LOCK freezes the field (R13). -/
def doTmoWrite (cls v : Nat) (s : State) : State :=
  if rdb HUB_GLOBAL_SETUP_LOCK 0 s then s
  else match cls with
    | 0 => wr TMO_ONDIE_US 0 (clamp 5 1000 v) s
    | 1 => wr TMO_SITE_US 0 (clamp 50 10000 v) s
    | 2 => wr TMO_SYREL_MS 0 (clamp 1 100 v) s
    | _ => s

/-- TMO_WRITE. -/
def execTmoWrite (cls v : Nat) (s : State) : Host.Outcome State Fault Refusal := .next (clocked (doTmoWrite cls v) s)

/-! ## Static regulation (R265, R395) -/

/-- The position has crossed a multiple of 1,000,000 ru since the last boundary; a held position and a FREE hub reach none. -/
def atBoundary (s : State) : Bool :=
  !s.ruling.holding && rd RULE_STATUS_STATE 0 s != 0 && decide (s.ruling.staticAt / 1000000 < pos s / 1000000)

/-- Confidential mode takes effect: a function keeps 64 watched lines, and rings beyond them stop (R395, R396). -/
def enterConfidential (s : State) : State :=
  let s := setB SEC_STATUS_CONFIDENTIAL 0 s
  let ended := (List.range 64).flatMap (fun n => (((listed RING_STATUS_WATCHED s).map Prod.fst).filter (fun g => ringFn g == n)).drop 64)
  forEach ended (fun g s => stopRing g 5 .ok s) s

/-- STATIC_BOUNDARY (R265): a requested change of the mode takes effect, or is refused; a pending CONF_ENTER ends. -/
def doStaticBoundary (s : State) : State :=
  if !atBoundary s then s else
  let s := setRuling (fun r => { r with staticAt := r.pos }) s
  let want := rdb REG_CTL_STATIC 0 s
  let s := if want == staticOn s then s
    else if oversub s then setB REG_STATUS_STATIC_REFUSED 0 s
    else wrb REG_STATUS_STATIC_ACTIVE 0 want s
  if !rdb SEC_STATUS_CONF_PENDING 0 s then s
  else if staticOn s then endConf .ok 0 (enterConfidential s)
  else endConf .refused 2 s

/-- STATIC_BOUNDARY. -/
def execStaticBoundary (s : State) : Host.Outcome State Fault Refusal := .next (clocked doStaticBoundary s)

end Sys2Proof.Machine
end

