-- ==== Sys2Proof/Machine/Power.lean ====
section
/-! DEFINITION. Sys2Proof/Machine/Power.lean: power states, their entry and exit, operating points, rails, supply dips and
droops, power capping, power groups, energy and thermal limits (spec/18_power_and_thermal.md). -/

namespace Sys2Proof.Machine

open Sys2Proof

/-! ## Emptying the caches -/

/-- Every directory entry but L is evicted, as far as no transaction holds its line (R208). -/
def evictAll (s : State) : State :=
  forEach (s.coh.dir.map Prod.fst) (fun l s =>
    if (dent l s).st = 4 ∨ (dent l s).st = 0 ∨ (trans l s).isSome then s else startEvict l .evict (portClass 79 0 s) s) s

/-- No entry but L is left, and no transaction. -/
def dirEmpty (s : State) : Bool := s.coh.trans.isEmpty && s.coh.dir.all (fun p => p.2.st == 4 || p.2.st == 0)

/-- Every slice writes back its dirty lines and invalidates, and the channels do what they were asked. -/
def flushSlices (s : State) : State :=
  let s := forEach (s.coh.cache.map Prod.fst) (fun l s => evictLine l (portClass 79 0 s) s) s
  forEach s.mem.chans (fun c s => forEach c.2.queue (serve c.1) s) s

/-! ## Requests for a state (R452 to R456, R460) -/

/-- The power state. -/
def pwrState (s : State) : Nat := rd PWR_STATUS_STATE 0 s

/-- An outcome: PWR_CAUSE counts what refused or ended an entry, PWR_LAST shows the latest (R460). -/
def noteOutcome (target outcome cause idx : Nat) (s : State) : State :=
  let s := if cause = 0 then s else bumpSat PWR_CAUSE_COUNT cause 1 s
  s |> wr PWR_LAST_TARGET 0 target |> wr PWR_LAST_OUTCOME 0 outcome |> wr PWR_LAST_CAUSE 0 cause |> wr PWR_LAST_INDEX 0 idx
    |> wr PWR_LAST_AT 0 (logAt s)

/-- Who asked is told: a record with RESULT, or the end of the calendar firing. -/
def tellAsker (w : PwrWho) (st : Status) (result : Nat) (s : State) : State :=
  match w with
  | .desc g k => completeDesc g k st result 0 0 s
  | .firing id =>
    match s.cal.firings.find? (fun f => f.id == id) with
    | some f => endIssued { f with status := Status.worse f.status st } s
    | none => s
  | .auto => s

/-- A request for `target` is over, with OUTCOME 1 ABORTED or 2 REFUSED. -/
def endRequest (w : PwrWho) (target outcome cause idx : Nat) (s : State) : State :=
  let s := if w = .auto then s else noteOutcome target outcome cause idx s
  tellAsker w (if outcome = 1 then .aborted else .refused) (cause + 2 ^ 8 * idx) s

/-- A bound of Table 1 in 1/16 ns: `n` µs, doubled by a clock stretch (R451). -/
def stretched (n : Nat) (s : State) : Nat := us16 (if rdb PWR_STATUS_STRETCH 0 s then 2 * n else n)

/-- The largest QUIESCE_LIMIT among READY ZCP sites, in µs. -/
def quiesceWait (s : State) : Nat :=
  (((readySites s).filter (fun j => !siteCxl j s)).map (fun j => rd SITE_CFG_QUIESCE_LIMIT j s)).foldl max 0

/-- The exit bound of a state in µs (Table 1). -/
def exitBound (t : Nat) : Nat := match t with | 1 => 2 | 2 => 200 | _ => 20000

/-- The entry bound of a state in µs (Table 1). -/
def entryBound (t : Nat) (s : State) : Nat :=
  match t with
  | 1 => 10
  | 2 => 20000 + quiesceWait s
  | _ => 20000 + quiesceWait s + 200000 + Config.flashTimes

/-- The guard window in 1/16 ns (R456). -/
def guardWindow (t : Nat) (s : State) : Nat := stretched (entryBound t s + exitBound t) s + us16 (rd PWR_CTL_GUARD_US 0 s)

/-- The position the hub will have reached `d` (1/16 ns) from now. -/
def posAfter (d : Nat) (s : State) : Nat :=
  if s.ruling.holding then pos s else pos s + (segPos s.ruling.seg (nowNs s + d / 16) - rootPos s)

/-- The first entry but `own` that falls due within the guard window of a request for `t`. -/
def guardedEntry (t : Nat) (own : Option Nat) (s : State) : Option Nat :=
  let hi := posAfter (guardWindow t s) s
  (s.cal.entries.find? (fun p => some p.1 != own && decide (p.2.mark ≤ hi))).map Prod.fst

/-- A POWER descriptor that Table 3 leaves out: the asker, or one that waits for AT. -/
def exempt (w : PwrWho) (d : Desc) (s : State) : Bool :=
  (match w with | .desc g k => d.ring == g && d.count == k | _ => false) || s.power.waits.contains (d.ring, d.count)

/-- The first enabled submission ring with PENDING or INFLIGHT above 0. -/
def busyRing (w : PwrWho) (s : State) : Option Nat :=
  ((listed RING_CTL_ENABLE s).map Prod.fst).find? (fun g => !rdb RING_CFG_KIND g s &&
    (wrap 32 ((rt g s).producer + 2 ^ 32 - rd RING_IDX_NEXT g s) != 0 ||
     s.rings.descs.any (fun d => d.ring == g && !exempt w d s)))

/-- The work that runs: a launch or a batch by its tile, a session operation, a collective by COLL_ID + 0x100, or records that
wait for the counterproof hub. For the two that Table 3 gives no INDEX it is a free value. -/
def busyWork (s : State) : Option (Nat × State) :=
  match (List.range 64).find? (fun t => (grv t s).run.isSome) with
  | some t => some (t, s)
  | none =>
    match s.attn.batches.find? (fun b => b.running) with
    | some b => some (((b.items.filter (fun x => !x.done)).map AItem.tile).headD 0, s)
    | none =>
      if !s.ses.ops.isEmpty then some (freeVal 16 s, drew s) else
      match s.syr.runs with
      | (n, _) :: _ => some (n + 0x100, s)
      | [] => if s.syr.mirQueue.isEmpty then none else some (freeVal 16 s, drew s)

/-- The first downstream port that is POWERING, TRAINING or REMOVING, or that a park or restore uses. -/
def busyPort (s : State) : Option Nat :=
  (List.range 4).find? (fun p => [1, 2, 4].contains (rd DS_STATUS_STATE p s) ||
    s.ses.ops.any (fun o => (o.ty == 0x14 || o.ty == 0x15) && o.port == p))

/-- The calendar entry of the firing that asks. -/
def askingEntry (w : PwrWho) (s : State) : Option Nat :=
  match w with
  | .firing id => (s.cal.firings.find? (fun f => f.id == id)).map Firing.entry
  | _ => none

/-- The first check of Table 3 that fails for a request for `t`: its code and INDEX. -/
def refuser (w : PwrWho) (t : Nat) (s : State) : Option (Nat × Nat × State) :=
  if s.power.entry.isSome then some (0x0A, pwrState s, s) else
  match busyRing w s with
  | some g => some (0x01, g, s)
  | none =>
  match busyWork s with
  | some (i, s) => some (0x02, i, s)
  | none =>
  match guardedEntry t (askingEntry w s) s with
  | some i => some (0x04, i, s)
  | none =>
  let deep := decide (2 ≤ t)
  if deep ∧ lostLines s ≠ 0 then some (0x05, 0, s)
  else if deep ∧ (!s.sec.burns.isEmpty ∨ s.life.prog.any (fun p => p.target.isSome || p.select) ∨ !s.sec.waits.isEmpty) then some (0x06, 0, s)
  else if deep ∧ !s.boot.svc.isEmpty then some (0x07, (s.boot.svc.map Svc.sub).headD 0, s)
  else match (if w = .auto then none else busyPort s) with
  | some p => some (0x08, p, s)
  | none =>
  match (List.range 64).find? (fun n => rd FUNC_CFG_TDI n s == 1 || rd FUNC_CFG_TDI n s == 2) with
  | some n => some (0x09, n, s)
  | none => if t ≤ pwrState s then some (0x0A, pwrState s, s) else none

/-! ## Entry and exit (R457 to R459, Table 4) -/

/-- Fetching goes on for every running submission ring. -/
def resumeRings (s : State) : State := forEach ((listed RING_CTL_ENABLE s).map Prod.fst) resumeRing s

/-- RESUME goes to each quiesced site (R230). -/
def resumeSites (s : State) : State :=
  forEach (List.range (chipSites s)) (fun j s =>
    if !(site j s).quiesced then s else
    let s := setSite j (fun x => { x with quiesced := false, lpAns := none }) s
    sendResume j s) s

/-- A rail's PMBus OPERATION: on (1) or off (0). -/
def railOperation (r v : Nat) (s : State) : State := emit { kind := .pmbus, dest := r, args := [1, v] } s

/-- What commits H3 beside H2's: the pins are released, Syrel and UCIe go down, and rails 0, 1, 4 and 5 go off. -/
def commitH3 (s : State) : State :=
  let s := setPower (fun p => { p with axes := rd SYR_STATUS_ALIVE 0 s }) s
  let s := forEach [18, 19] takePortDown (releasePins s)
  let s := if rd RULE_STATUS_STATE 0 s != 0 && role s != 1 && role s != 2 then enterUnlocked false s else s
  let s := forEach (List.range (chipSites s)) (fun j s =>
    if siteState j s = 0 then s else
    driveSiteRst j 0 (setSite j (fun _ => { rst := .low (now16 s) }) (wr SITE_STATUS_STATE j 1 s))) s
  forEach [0, 1, 4, 5] (fun r s => railOperation r 0 s) s

/-- Step 6: the state is entered, and who asked is told. -/
def commitEntry (w : PwrWho) (t : Nat) (s : State) : State :=
  let s := s |> wr PWR_STATUS_STATE 0 t |> clrB PWR_STATUS_ENTERING 0 |> setPower (fun p => { p with entry := none })
    |> count ctlUnit 0xC0 none 1
  let s := if w = .auto then s else noteOutcome t 0 0 0 s
  let s := tellAsker w .ok t s
  match t with
  | 1 => setMesh (fun m => { m with gated := List.range 72 }) s
  | 2 => forEach ((List.range 20).filter (fun p => rdb SYR_PORT_UP p s)) (fun p s => setEx p (fun e => { e with slow := true }) (setB SYR_PORT_LPI p s)) s
  | _ => commitH3 s

/-- An entry unwinds: self-refresh ends, quiesced sites have RESUME, pickup and dispatch go on, and the hub is in H0 (R458). -/
def unwind (e : PEntry) (outcome cause idx : Nat) (s : State) : State :=
  let s := s |> wr PWR_STATUS_STATE 0 0 |> clrB PWR_STATUS_ENTERING 0
    |> setPower (fun p => { p with entry := none, wakes := [], held := false }) |> resumeSites
  resumeRings (endRequest e.who e.target outcome cause idx s)

/-- The wake that an abort point takes: the lowest code, then the lowest INDEX (R458). -/
def firstWake (l : List (Nat × Nat)) : Option (Nat × Nat) :=
  l.foldl (fun o w => match o with
    | some v => if w.1 < v.1 ∨ (w.1 = v.1 ∧ w.2 < v.2) then some w else o
    | none => some w) none

/-- A step is complete: at its abort point a wake unwinds the entry. -/
def stepDone (e : PEntry) (n : Nat) (s : State) : State :=
  match firstWake s.power.wakes with
  | some w => unwind e 1 w.1 w.2 s
  | none => setPower (fun p => { p with entry := some { e with step := n } }) s

/-- The sites an entry waits for. -/
def quiescing (s : State) : List Nat := (readySites s).filter (fun j => !siteCxl j s)

/-- The bytes of the site steering table and of the site slots. -/
def steeringBytes (s : State) : List Byte :=
  ((List.range SITE_STEER_blk.count).flatMap (fun e => toBytes 4 ((SITE_STEER_blk.flds.map (fun f => rd f e s * 2 ^ f.lo)).sum))) ++
  ((List.range SITE_SLOTS_blk.count).flatMap (fun e => toBytes 4 ((SITE_SLOTS_blk.flds.map (fun f => rd f e s * 2 ^ f.lo)).sum)))

/-- The items of the bank in use but SAVED_STEERING, as a body. -/
def bodyWithout (s : State) : List Byte :=
  ((((bankUsed s).map bankItems).getD []).filter (fun p => p.1 != 0x000C)).flatMap (fun p => itemBytes p.1 p.2)

/-- Step 4: the SAVED_STEERING item is committed (R430), where the body has room for it. -/
def saveSteering (s : State) : Option State :=
  let body := bodyWithout s ++ itemBytes 0x000C (steeringBytes s)
  if 262080 < body.length then none else some (commitBody body s)

/-- The entry under way goes one step on, if its party has done its part. -/
def stepEntry (s : State) : State :=
  match s.power.entry with
  | none => s
  | some e =>
    match e.step with
    | 1 =>
      let bad := (quiescing s).find? (fun j => match (site j s).lpAns with
        | some c => c != 0
        | none => due (e.since + us16 (rd SITE_CFG_QUIESCE_LIMIT j s)) s)
      match bad with
      | some j => unwind e 2 0x03 j s
      | none => if (quiescing s).all (fun j => (site j s).lpAns == some 0) then stepDone e 2 s else s
    | 2 =>
      let s := evictAll s
      if dirEmpty s then stepDone e 3 (flushSlices s) else s
    | 3 =>
      if e.target = 2 then stepDone e 4 s
      else if rdb PWR_STATUS_STRETCH 0 s then s
      else match saveSteering s with
        | some s => stepDone e 4 s
        | none => unwind e 2 0x07 0 s
    | 4 => stepDone e 5 s
    | _ => commitEntry e.who e.target s

/-- The entry goes on as far as it can. -/
def settleEntry (s : State) : State := if s.power.entry.isNone then s else forEach (List.range 5) (fun _ s => stepEntry s) s

/-- A request for `t` begins (R455, R457): it is refused with nothing changed, or H1 is entered at once, or the sites are
asked to quiesce. -/
def beginEntry (w : PwrWho) (t : Nat) (s : State) : State :=
  match refuser w t s with
  | some (c, i, s) => endRequest w t 2 c i s
  | none =>
    if t = 1 then commitEntry w 1 s else
    let e : PEntry := { target := t, who := w, since := now16 s }
    let s := setB PWR_STATUS_ENTERING 0 (setPower (fun p => { p with entry := some e, wakes := [], held := true }) s)
    let s := forEach (quiescing s) (fun j s =>
      zcpSend j { opc := 0x0D, cls := 1, hdr := hdrQuiesce 0x0D 1, purpose := some (.quiesce j 1) }
        (setSite j (fun x => { x with lpAns := none, quiesced := false }) s)) s
    settleEntry s

/-- The hub leaves a committed H2 or H3 for H0 (R451, R299, R306, R430): ports wake or retrain, axes rejoin, sites have RESUME
or come back under R238, dips are posted, and ring work is accepted. -/
def leaveLow (s : State) : State :=
  let st := pwrState s
  let s := s |> wr PWR_STATUS_STATE 0 0 |> setPower (fun p => { p with wakes := [], held := false }) |> count ctlUnit 0xC1 none 1
  let s := if st = 2 then
      forEach (List.range 20) wakePattern s
    else
      let s := forEach [0, 1, 4, 5] (fun r s => railOperation r 1 s) s
      let s := forEach [0, 1, 2] (fun a s => if bit s.power.axes a then joinAxis a s else s) s
      let s := forEach [18, 19] (fun p s => setPort p (fun x => { x with training := some (now16 s) }) s) s
      if (storeItem 0x000C s).isSome then commitBody (bodyWithout s) s else s
  let dips := s.power.dipsOwed
  let s := forEach dips (fun r s => hubEvent (extentHolders s) 0x0009 .ok r s) (setPower (fun p => { p with dipsOwed := [] }) (resumeSites s))
  -- what the edge agents hold is released (R251)
  resumeRings (releaseWindows (releaseHomes (releaseHeld s)))

/-- A wake event: an entry takes it at its next abort point; a committed H2 or H3 ends. -/
def raiseWake (code idx : Nat) (s : State) : State :=
  if s.power.entry.isSome then setPower (fun p => { p with wakes := p.wakes ++ [(code, idx)] }) s
  else if 2 ≤ pwrState s then leaveLow s
  else s

/-- A wake event that an edge agent has noted ends a committed H2 or H3 (R251). -/
def settleWake (s : State) : State :=
  if s.power.entry.isNone && decide (2 ≤ pwrState s) && !s.power.wakes.isEmpty then leaveLow s else s

/-- A code of Table 3 that wakes. -/
def wakeCode (c : Nat) : Bool := decide (0x11 ≤ c) && decide (c ≤ 0x17)

/-- WAKE_EVENT (R458): a wake event during an entry. -/
def doWakeEvent (code idx : Nat) (s : State) : State :=
  if s.power.entry.isNone || !wakeCode code then s else settleEntry (raiseWake code idx s)

/-- WAKE_EVENT. -/
def execWakeEvent (code idx : Nat) (s : State) : Host.Outcome State Fault Refusal := .next (clocked (doWakeEvent code idx) s)

/-- POWER_EXIT_WAKE (R451): a wake event in a committed H2 or H3. -/
def doPowerExitWake (code : Nat) (s : State) : State := if 2 ≤ pwrState s ∧ wakeCode code then leaveLow s else s

/-- POWER_EXIT_WAKE. -/
def execPowerExitWake (code : Nat) (s : State) : Host.Outcome State Fault Refusal := .next (clocked (doPowerExitWake code) s)

/-- WAKE_PATTERN (R306): a wake pattern on PORT_p in low-power idle: the port returns to full traffic and wakes the hub. -/
def doWakePattern (p : Nat) (s : State) : State :=
  if !rdb SYR_PORT_LPI p s then s else raiseWake 0x11 p (clrB SYR_PORT_LPI p s)

/-- WAKE_PATTERN. -/
def execWakePattern (p : Nat) (s : State) : Host.Outcome State Fault Refusal := .next (clocked (doWakePattern p) s)

/-- H1_IDLE_EXPIRE (R461): with H1_AUTO, H1_IDLE_US of idle time; the checks of codes 0x01, 0x02, 0x04 and 0x09 only. -/
def doH1IdleExpire (s : State) : State :=
  if !rdb PWR_CTL_H1_AUTO 0 s || pwrState s != 0 || s.power.entry.isSome || !dispatching s ||
     !due (s.power.workAt + us16 (max 1 (rd PWR_CTL_H1_IDLE_US 0 s))) s || (refuser .auto 1 s).isSome then s
  else commitEntry .auto 1 s

/-- H1_IDLE_EXPIRE. -/
def execH1IdleExpire (s : State) : Host.Outcome State Fault Refusal := .next (clocked doH1IdleExpire s)

/-- Work that R461 names runs now: the idle time has not begun. -/
def noteBusy (s : State) : State :=
  if (busyWork s).isSome then setPower (fun p => { p with workAt := now16 s }) s else s

/-! ## POWER descriptors (R452 to R454) -/

/-- The started POWER descriptor of a SUBOP. -/
def powerDesc (g k sub : Nat) (s : State) : Option Desc :=
  (runningDesc g k 0x34 s).filter (fun d => wrap 8 (d.word 2) == sub && !s.power.waits.contains (g, k))

/-- Caps are in range (R454). -/
def capsOk (pkg hub : Nat) (s : State) : Bool :=
  decide (hub ≤ tdp s) && decide (100 ≤ hub) && decide (hub ≤ pkg) && decide (pkg ≤ 3600)

/-- New caps, and the grants that follow from them. -/
def setCaps (pkg hub : Nat) (s : State) : State :=
  let s := s |> wr PWR_CAP_PKG_CAP 0 pkg |> wr PWR_CAP_HUB_CAP 0 hub
  if rdb SEC_STATUS_CONFIDENTIAL 0 s then s else forEach (readySites s) regrant s

/-- A POWER operation with AT begins: ENTER or SET_CAP. -/
def beginPower (g k : Nat) (d : Desc) (s : State) : State :=
  let w2 := d.word 2
  if wrap 8 w2 = 0x01 then beginEntry (.desc g k) (slice w2 8 2) s
  else if capsOk (slice w2 16 16) (slice w2 32 16) s then completeDesc g k .ok 0 0 0 (setCaps (slice w2 16 16) (slice w2 32 16) s)
  else failDesc g k .unsupported s

/-- The operation begins now, or waits for the position to reach AT (R453). -/
def powerAt (g k : Nat) (d : Desc) (atEn : Bool) (s : State) : State :=
  if atEn && decide (pos s < wrap 64 (d.word 3)) then setPower (fun p => { p with waits := p.waits ++ [(g, k)] }) s
  else beginPower g k d s

/-- ENTER. -/
def doEnter (g k : Nat) (s : State) : State :=
  match powerDesc g k 0x01 s with
  | none => s
  | some d => if s.power.entry.any (fun e => decide (e.who = .desc g k)) then s else powerAt g k d (bit (d.word 2) 10) s

/-- ENTER. -/
def execEnter (g k : Nat) (s : State) : Host.Outcome State Fault Refusal := .next (clocked (doEnter g k) s)

/-- EXIT (R453): H1 ends, and H1_AUTO is cleared. -/
def doExit (g k : Nat) (s : State) : State :=
  match powerDesc g k 0x02 s with
  | none => s
  | some _ => completeDesc g k .ok 0 0 0 (clrB PWR_CTL_H1_AUTO 0 (startWork s))

/-- EXIT. -/
def execExit (g k : Nat) (s : State) : Host.Outcome State Fault Refusal := .next (clocked (doExit g k) s)

/-- SET_CAP. -/
def doSetCap (g k : Nat) (s : State) : State :=
  match powerDesc g k 0x03 s with
  | none => s
  | some d => powerAt g k d (bit (d.word 2) 48) s

/-- SET_CAP. -/
def execSetCap (g k : Nat) (s : State) : Host.Outcome State Fault Refusal := .next (clocked (doSetCap g k) s)

/-- GROUP (R468): the hub joins or leaves a power group; the next report counts from now. -/
def doGroup (g k : Nat) (s : State) : State :=
  match powerDesc g k 0x04 s with
  | none => s
  | some d =>
    let w2 := d.word 2
    let f := slice w2 34 6
    let s := s |> wr PWR_GROUP_ENABLE 0 (slice w2 8 1) |> wr PWR_GROUP_LEADER 0 (slice w2 9 12)
      |> wr PWR_GROUP_MEMBERS 0 (slice w2 21 13) |> wr PWR_GROUP_FUNCTION 0 f
      |> wr PWR_GROUP_CAP_MIN 0 (slice (d.word 3) 0 16) |> wr PWR_GROUP_SHIFT_W 0 (slice (d.word 3) 16 16)
    let s := setPower (fun p => { p with grpAt := pos s / 10000000, grpDone := true, grpCount := rd CAL_LATE_COUNT f s,
                                         grpMax := rd CAL_LATE_MAX_LATE f s, reports := [], nextCap := none }) s
    completeDesc g k .ok 0 0 0 s

/-- GROUP. -/
def execGroup (g k : Nat) (s : State) : Host.Outcome State Fault Refusal := .next (clocked (doGroup g k) s)

/-- POWER_AT_REACHED (R453): the position has reached AT, whether or not the hub is LOCKED. -/
def doPowerAtReached (g k : Nat) (s : State) : State :=
  match runningDesc g k 0x34 s with
  | none => s
  | some d =>
    if !s.power.waits.contains (g, k) || decide (pos s < wrap 64 (d.word 3)) then s
    else beginPower g k d (setPower (fun p => { p with waits := p.waits.erase (g, k) }) s)

/-- POWER_AT_REACHED. -/
def execPowerAtReached (g k : Nat) (s : State) : Host.Outcome State Fault Refusal := .next (clocked (doPowerAtReached g k) s)

/-! ## Rails and operating points (R462, R463) -/

/-- The Graver operating point. -/
def point (s : State) : Nat := rd PWR_STATUS_POINT 0 s

/-- The voltage of rail `r` at operating point `p` (Table 5). -/
def railMv (r p : Nat) (s : State) : Nat := rd PWR_VT_MV (if r = 0 then p else r + 3) s

/-- What is asked of the select that rail `r` uses: the higher voltage, where two rails share it. -/
def askedMv (r p : Nat) (s : State) : Nat :=
  (((List.range 6).filter (fun i => rd PWR_RAIL_AVS_SEL i s == rd PWR_RAIL_AVS_SEL r s)).map (fun i => railMv i p s)).foldl max 0

/-- A Write Voltage frame. -/
def sendAvs (a : Avs) (s : State) : State := emit { kind := .avs, dest := rd PWR_RAIL_AVS_SEL a.rail s, args := [a.mv] } s

/-- A change of rail `r` begins, in place of one that runs; `p` is the operating point that its acknowledgement allows. -/
def startAvs (r mv : Nat) (p : Option Nat) (s : State) : State :=
  if rd PWR_RAIL_AVS_SEL r s = 15 then s else
  let a : Avs := { rail := r, mv := mv, point := p, since := now16 s, sentAt := now16 s }
  sendAvs a (setPower (fun x => { x with avs := x.avs.filter (fun b => b.rail != r) ++ [a] }) s)

/-- The Graver engines go to point `p` (R463): to a slower point the clock falls at once, then the voltage; to a faster one
the voltage rises first. A rail that is never changed needs no voltage; a fault of it holds the slower point, and a supply dip
defers raises (R464). -/
def setPoint (p : Nat) (s : State) : State :=
  let s := setPower (fun x => { x with raiseTo := none }) s
  if p = point s then
    -- a raise under way is given up
    (if s.power.avs.any (fun a => a.rail == 0 && a.point.isSome) then startAvs 0 (askedMv 0 p s) none s else s)
  else if point s < p then startAvs 0 (askedMv 0 p s) none (wr PWR_STATUS_POINT 0 p s)
  else if rdb PWR_RAIL_FAULT 0 s then s
  else if rdb PWR_STATUS_STRETCH 0 s then setPower (fun x => { x with raiseTo := some p }) s
  else if rd PWR_RAIL_AVS_SEL 0 s = 15 then wr PWR_STATUS_POINT 0 p s
  else if s.power.avs.any (fun a => a.rail == 0 && a.point == some p) then s
  else startAvs 0 (askedMv 0 p s) (some p) s

/-- AVS_ACK (R463): VDone is set and Read Voltage `mv` lies within 10 mV of the target; a dip defers the clock's raise (R464). -/
def doAvsAck (r mv : Nat) (s : State) : State :=
  match s.power.avs.find? (fun a => a.rail == r) with
  | none => s
  | some a =>
    if 10 < mv - a.mv ∨ 10 < a.mv - mv then s else
    let s := wr PWR_RAIL_SET_MV r a.mv (setPower (fun x => { x with avs := x.avs.filter (fun b => b.rail != r) }) s)
    match a.point with
    | some p =>
      if rdb PWR_RAIL_FAULT r s then s
      else if rdb PWR_STATUS_STRETCH 0 s then setPower (fun x => { x with raiseTo := some p }) s
      else wr PWR_STATUS_POINT 0 p s
    | none => s

/-- AVS_ACK. -/
def execAvsAck (r mv : Nat) (s : State) : Host.Outcome State Fault Refusal := .next (clocked (doAvsAck r mv) s)

/-- AVS_RETRY_TIMEOUT (R463): 10 µs after a frame whose SlaveAck is not good it is sent again, up to three times. -/
def doAvsRetryTimeout (r : Nat) (s : State) : State :=
  match s.power.avs.find? (fun a => a.rail == r) with
  | none => s
  | some a =>
    if 4 ≤ a.sends ∨ !due (a.sentAt + us16 10) s then s else
    let b : Avs := { a with sends := a.sends + 1, sentAt := now16 s }
    sendAvs b (setPower (fun x => { x with avs := x.avs.map (fun c => if c.rail = r then b else c) }) s)

/-- AVS_RETRY_TIMEOUT. -/
def execAvsRetryTimeout (r : Nat) (s : State) : Host.Outcome State Fault Refusal := .next (clocked (doAvsRetryTimeout r) s)

/-- AVS_ACK_TIMEOUT (R463): 100 µs without an acknowledgement; the slower of the two points stays. -/
def doAvsAckTimeout (r : Nat) (s : State) : State :=
  match s.power.avs.find? (fun a => a.rail == r) with
  | none => s
  | some a =>
    if !due (a.since + us16 100) s then s else
    setB PWR_STATUS_RAIL_FAULT 0 (setB PWR_RAIL_FAULT r (setPower (fun x => { x with avs := x.avs.filter (fun b => b.rail != r) }) s))

/-- AVS_ACK_TIMEOUT. -/
def execAvsAckTimeout (r : Nat) (s : State) : Host.Outcome State Fault Refusal := .next (clocked (doAvsAckTimeout r) s)

/-- A periodic action last taken at `t` is due again after `n` µs. -/
def again (t : Option Nat) (n : Nat) (s : State) : Bool := match t with | some t => due (t + us16 n) s | none => true

/-- PMBUS_POLL (R463): every 100 µs READ_VOUT (mV) and READ_IOUT (mA) of each rail are read. -/
def doPmbusPoll (mv ma : List Nat) (s : State) : State :=
  if !again s.power.pollAt 100 s then s else
  let s := setPower (fun p => { p with pollAt := some (now16 s), iout := (List.range 6).map (fun r => nth 0 ma r) }) s
  forEach (List.range 6) (fun r s => wr PWR_RAIL_READ_MV r (nth 0 mv r) s) s

/-- PMBUS_POLL. -/
def execPmbusPoll (mv ma : List Nat) (s : State) : Host.Outcome State Fault Refusal := .next (clocked (doPmbusPoll mv ma) s)

/-! ## Droops and supply dips (R464, R465) -/

/-- Quarters of a cycle that the Graver clock makes in a nanosecond at the point in force. -/
def graverRate (s : State) : Nat := match point s with | 0 => 8 | 1 => 6 | 2 => 4 | _ => 2

/-- DROOP_DETECT (R464): TILE_t's clocks run at half rate, and the event is counted. -/
def doDroopDetect (t : Nat) (s : State) : State :=
  if (look s.power.droops t).isSome ∨ tiles s ≤ t then s
  else count t 0x0C none 1 (setPower (fun p => { p with droops := put t (now16 s) p.droops }) s)

/-- DROOP_DETECT. -/
def execDroopDetect (t : Nat) (s : State) : Host.Outcome State Fault Refusal := .next (clocked (doDroopDetect t) s)

/-- DROOP_CLEAR (R464): the droop has been clear for 64 cycles, and the stretch has lasted 64. -/
def doDroopClear (t : Nat) (s : State) : State :=
  match look s.power.droops t with
  | some since => if due (since + 8192 / graverRate s) s then setPower (fun p => { p with droops := del t p.droops }) s else s
  | none => s

/-- DROOP_CLEAR. -/
def execDroopClear (t : Nat) (s : State) : Host.Outcome State Fault Refusal := .next (clocked (doDroopClear t) s)

/-- SUPPLY_DIP_START (R464): rails of the mask `rails` warn, VR_WARN_N at bit 6; clocks are stretched. -/
def doSupplyDipStart (rails : Nat) (s : State) : State :=
  let s := setPower (fun p => { p with dipAt := p.dipAt <|> some (now16 s), dipRails := Nat.lor p.dipRails (wrap 7 rails) }) s
  setB PWR_STATUS_STRETCH 0 s

/-- SUPPLY_DIP_START. -/
def execSupplyDipStart (rails : Nat) (s : State) : Host.Outcome State Fault Refusal := .next (clocked (doSupplyDipStart rails) s)

/-- SUPPLY_DIP_END (R464, R465): every monitor and VR_WARN_N have been clear for 10 µs; a raise that the dip deferred goes on. -/
def doSupplyDipEnd (s : State) : State :=
  match s.power.dipAt with
  | none => s
  | some t =>
    if !due (t + us16 10) s then s else
    let us := sat 32 ((now16 s - t) / 16000)
    let r := s.power.dipRails + 2 ^ 32 * us
    let s := s |> clrB PWR_STATUS_STRETCH 0 |> setPower (fun p => { p with dipAt := none, dipRails := 0 })
      |> bumpSat PWR_DIP_COUNT 0 1 |> wr PWR_DIP_LONGEST 0 (max (rd PWR_DIP_LONGEST 0 s) us)
    let s := match s.power.raiseTo with
      | some p => setPoint p s
      | none => s
    if 2 ≤ pwrState s then setPower (fun p => { p with dipsOwed := p.dipsOwed ++ [r] }) s
    else hubEvent (extentHolders s) 0x0009 .ok r s

/-- SUPPLY_DIP_END. -/
def execSupplyDipEnd (s : State) : Host.Outcome State Fault Refusal := .next (clocked doSupplyDipEnd s)

/-! ## Package power (R466, R467) -/

/-- The hub's power in µW from the last PMBus readings. -/
def hubUw (s : State) : Nat := ((List.range 6).map (fun r => rd PWR_RAIL_READ_MV r s * nth 0 s.power.iout r)).sum

/-- The hub's power in W. -/
def hubW (s : State) : Nat := hubUw s / 1000000

/-- What SITE_j draws in the package sum: its cap, where it has sent no PWR_REQ in the last 1 ms. -/
def siteW (j : Nat) (s : State) : Nat :=
  match (site j s).reqAt with
  | some t => if due (t + us16 1000) s then rd SITE_PWR_CAP j s else rd SITE_PWR_MEASURED j s
  | none => rd SITE_PWR_CAP j s

/-- The package's power in W. -/
def pkgW (s : State) : Nat := hubW s + ((readySites s).map (fun j => siteW j s)).sum

/-- PWR_MEAS: as measured, or in confidential mode rounded down to a multiple of 8 W every 100 ms (R396). -/
def showPower (s : State) : State :=
  if !rdb SEC_STATUS_CONFIDENTIAL 0 s then s |> wr PWR_MEAS_PKG_W 0 (sat 16 (pkgW s)) |> wr PWR_MEAS_HUB_W 0 (sat 16 (hubW s))
  else if again s.power.shownAt 100000 s then
    setPower (fun p => { p with shownAt := some (now16 s) })
      (s |> wr PWR_MEAS_PKG_W 0 (sat 16 (pkgW s) / 8 * 8) |> wr PWR_MEAS_HUB_W 0 (sat 16 (hubW s) / 8 * 8))
  else s

/-- PWR_THERM.LIMIT as it acts. -/
def thermLimit (s : State) : Nat := min 105 (rd PWR_THERM_LIMIT 0 s)

/-- The hub's own cap: lowered by what the sites' PWR_MIN exceed the chiplet budget by (R466). -/
def effectiveCap (s : State) : Nat :=
  rd PWR_CAP_HUB_CAP 0 s - (((readySites s).map (fun j => pwrMin j s)).sum - (rd PWR_CAP_PKG_CAP 0 s - rd PWR_CAP_HUB_CAP 0 s))

/-- POWER_PERIOD (R466): every 100 µs; in confidential mode it only measures (R467). -/
def doPowerPeriod (s : State) : State :=
  if !again s.power.periodAt 100 s then s else
  let s := showPower (setPower (fun p => { p with periodAt := some (now16 s), epSum := p.epSum + pkgW s, epN := p.epN + 1 }) s)
  let cool := if rd PWR_THERM_HOTTEST 0 s + 5 < thermLimit s then s.power.coolN + 1 else 0
  let s := setPower (fun p => { p with coolN := cool, hot := p.hot && decide (cool < 10) }) s
  if rdb SEC_STATUS_CONFIDENTIAL 0 s then s else
  let w := hubW s
  let cap := effectiveCap s
  let s :=
    if cap < w then setPoint (min 3 (point s + 1)) (setPower (fun p => { p with lowN := 0 }) s)
    else if 10 * w < 9 * cap then
      if 10 ≤ s.power.lowN + 1 ∧ !s.power.hot ∧ !rdb PWR_STATUS_PROCHOT_IN 0 s ∧ !rdb PWR_STATUS_STRETCH 0 s then
        setPoint (point s - 1) (setPower (fun p => { p with lowN := 0 }) s)
      else setPower (fun p => { p with lowN := min 10 (p.lowN + 1) }) s
    else setPower (fun p => { p with lowN := 0 }) s
  forEach (readySites s) regrant s

/-- POWER_PERIOD. -/
def execPowerPeriod (s : State) : Host.Outcome State Fault Refusal := .next (clocked doPowerPeriod s)

/-- The highest MR4 level of a channel. -/
def hottestLevel (s : State) : Nat := (s.mem.chans.map (fun c => c.2.level)).foldl max 0

/-- THROTTLE_EPOCH (R467, R396): the position has reached the next multiple of 1,000,000 ru in confidential mode. The hottest channel
level raises the package level toward itself (R181). The channel whose epoch it is retrains fully, if it waits to. -/
def doThrottleEpoch (s : State) : State :=
  let e := pos s / 1000000
  if !rdb SEC_STATUS_CONFIDENTIAL 0 s || e ≤ s.power.epoch then s else
  let l := rd PWR_STATUS_LEVEL 0 s
  let avg := s.power.epSum / max 1 s.power.epN
  let cap := rd PWR_CAP_PKG_CAP 0 s
  let hot := hottestLevel s
  let held := s.power.epHot || hot == 3 || decide (l < hot)
  let pro := s.power.epProchot || rdb PWR_STATUS_PROCHOT_IN 0 s
  let l2 := if pro then 3 else if held || decide (cap < avg) then min 3 (l + 1) else if 10 * avg < 9 * cap ∧ hot < l then l - 1 else l
  let s := setPower (fun p => { p with epoch := e, epSum := 0, epN := 0, epHot := false, epProchot := false }) s
  let s := setPoint l2 (wr PWR_STATUS_LEVEL 0 l2 s)
  let s := forEach (readySites s) regrant s
  let s := if l2 = l then s else thermalEvent 6 l2 s
  match s.mem.retrain.find? (fun r => 8 * r.1 + r.2 == e % 1024) with
  | some r => startRetrain r.1 r.2 (setMem (fun m => { m with retrain := m.retrain.erase r }) s)
  | none => s

/-- THROTTLE_EPOCH. -/
def execThrottleEpoch (s : State) : Host.Outcome State Fault Refusal := .next (clocked doThrottleEpoch s)

/-! ## Power groups (R468) -/

/-- The power group of this hub has it as its leader. -/
def groupLeader (s : State) : Bool := rdb PWR_GROUP_ENABLE 0 s && rd PWR_GROUP_LEADER 0 s == rd HUB_ID_ID 0 s

/-- The leader takes a report, in place of an earlier one of the hub. -/
def takeReport (r : GrpRep) (s : State) : State :=
  if groupLeader s then
    setPower (fun p => { p with reports := p.reports.filter (fun x => x.hub != r.hub) ++ [r] }) s
  else s

/-- POWER_GROUP_REPORT (R468): at a multiple of 10,000,000 ru the member tells its leader. -/
def doPowerGroupReport (s : State) : State :=
  let e := pos s / 10000000
  if !rdb PWR_GROUP_ENABLE 0 s || e ≤ s.power.grpAt then s else
  let f := rd PWR_GROUP_FUNCTION 0 s
  let n := rd CAL_LATE_COUNT f s
  let m := rd CAL_LATE_MAX_LATE f s
  let r : GrpRep := { hub := rd HUB_ID_ID 0 s, cap := rd PWR_CAP_PKG_CAP 0 s, power := pkgW s,
                      late := wrap 32 (n + 2 ^ 32 - s.power.grpCount), maxLate := m - s.power.grpMax }
  let s := setPower (fun p => { p with grpAt := e, grpDone := false, grpCount := n, grpMax := m }) s
  if groupLeader s then takeReport r s
  else tellHub (4096 * rd HUB_ID_TWIN 0 s + rd PWR_GROUP_LEADER 0 s) 8 [r.hub, r.cap, r.power, r.late, r.maxLate] s

/-- POWER_GROUP_REPORT. -/
def execPowerGroupReport (s : State) : Host.Outcome State Fault Refusal := .next (clocked doPowerGroupReport s)

/-- `a` comes before `b` as recipient: more late firings, then a greater MAX_LATE, then the lower hub ID. -/
def before (a b : GrpRep) : Bool :=
  decide (b.late < a.late) || (a.late == b.late &&
    (decide (b.maxLate < a.maxLate) || (a.maxLate == b.maxLate && decide (a.hub < b.hub))))

/-- The recipient: none without a late firing in the group. -/
def recipient (l : List GrpRep) : Option GrpRep :=
  (l.foldl (fun o r => match o with
    | some x => if before r x then some r else o
    | none => some r) none).filter (fun r => decide (0 < r.late))

/-- The reports in ascending hub ID. -/
def byHub (l : List GrpRep) : List GrpRep := l.foldl insertHub []
where
  /-- A report takes its place. -/
  insertHub : List GrpRep → GrpRep → List GrpRep
    | [], r => [r]
    | x :: t, r => if r.hub < x.hub then r :: x :: t else x :: insertHub t r

/-- Donors give in turn until the recipient, whose cap is `to`, reaches 3,600 W: the caps of the donors and of the
recipient. -/
def donate (shift capMin : Nat) : List GrpRep → Nat → List (Nat × Nat) × Nat
  | [], goal => ([], goal)
  | d :: t, goal =>
    let gift := min (min shift (d.cap - capMin)) (3600 - goal)
    let r := donate shift capMin t (goal + gift)
    ((d.hub, d.cap - gift) :: r.1, r.2)

/-- The new caps of a period. -/
def newCaps (shift capMin : Nat) (l : List GrpRep) : List (Nat × Nat) :=
  match recipient l with
  | none => []
  | some r =>
    let d := donate shift capMin ((byHub l).filter (fun x => x.late == 0)) r.cap
    (r.hub, d.2) :: d.1 ++ ((byHub l).filter (fun x => x.late != 0 && x.hub != r.hub)).map (fun x => (x.hub, x.cap))

/-- A member has its new cap: it is applied at the next multiple of 10,000,000 ru. -/
def takeCap (c : Nat) (s : State) : State := setPower (fun p => { p with nextCap := some (c, pos s / 10000000) }) s

/-- POWER_GROUP_DECIDE (R468): the leader moves watts and tells each member its new cap. -/
def doPowerGroupDecide (s : State) : State :=
  if !groupLeader s || s.power.grpDone then s else
  let caps := newCaps (rd PWR_GROUP_SHIFT_W 0 s) (rd PWR_GROUP_CAP_MIN 0 s) s.power.reports
  let s := setPower (fun p => { p with grpDone := true, reports := [] }) s
  forEach caps (fun c s =>
    if c.1 = rd HUB_ID_ID 0 s then takeCap c.2 s
    else tellHub (4096 * rd HUB_ID_TWIN 0 s + c.1) 9 [c.2] s) s

/-- POWER_GROUP_DECIDE. -/
def execPowerGroupDecide (s : State) : Host.Outcome State Fault Refusal := .next (clocked doPowerGroupDecide s)

/-- POWER_GROUP_APPLY (R468): the position has reached the next multiple of 10,000,000 ru. -/
def doPowerGroupApply (s : State) : State :=
  match s.power.nextCap with
  | some (c, e) =>
    if !rdb PWR_GROUP_ENABLE 0 s || pos s / 10000000 ≤ e then s
    else setCaps c (rd PWR_CAP_HUB_CAP 0 s) (setPower (fun p => { p with nextCap := none }) s)
  | none => s

/-- POWER_GROUP_APPLY. -/
def execPowerGroupApply (s : State) : Host.Outcome State Fault Refusal := .next (clocked doPowerGroupApply s)

/-! ## Energy (R469) -/

/-- Energy in µJ is added to a function. -/
def addEnergy (n uj : Nat) (s : State) : State := bump PWR_ENERGY_UJ n uj s

/-- The shares of the functions in the hub's work: Graver issue cycles, and panel-mover active cycles, which take time the
model does not count: free values. -/
def workShares (s : State) : List (Nat × Nat) × State :=
  forEach (List.range 64) (fun n r =>
    let w := lookD 0 s.power.work n
    if s.power.movers.contains n then (r.1 ++ [(n, w + freeVal 32 r.2)], drew r.2)
    else if w = 0 then r else (r.1 ++ [(n, w)], r.2)) ([], s)

/-- ENERGY_TICK (R469): every 1 ms, in confidential mode every 100 ms from rounded power. -/
def doEnergyTick (s : State) : State :=
  let conf := rdb SEC_STATUS_CONFIDENTIAL 0 s
  let ms := if conf then 100 else 1
  if !due (s.power.energyAt + us16 (1000 * ms)) s then s else
  let uw := if conf then hubW s / 8 * 8 * 1000000 else hubUw s
  let hub := uw * ms / 1000
  let ended := (uw - Config.h1Power) * ms / 1000
  let r := workShares s
  let ws := r.1
  let s := r.2
  let total := (ws.map Prod.snd).sum
  let given := ws.map (fun p => (p.1, ended * p.2 / max 1 total))
  let s := forEach given (fun p s => addEnergy p.1 p.2 s) s
  let s := addEnergy 0 (hub - (given.map Prod.snd).sum) s
  let watts := fun j => if conf then rd SITE_PWR_MEASURED j s / 8 * 8 else rd SITE_PWR_MEASURED j s
  let sites := (List.range (chipSites s)).map (fun j => (j, watts j * ms * 1000))
  let s := forEach sites (fun p s => match siteOwner p.1 s with
    | some n => addEnergy n p.2 s
    | none => s) s
  let s := bump PKG_ENERGY_UJ 0 (hub + (sites.map Prod.snd).sum) s
  setPower (fun p => { p with energyAt := now16 s, work := [], movers := [] }) s

/-- ENERGY_TICK. -/
def execEnergyTick (s : State) : Host.Outcome State Fault Refusal := .next (clocked doEnergyTick s)

/-! ## Thermal limits (R470 to R472, R498) -/

/-- THERMTRIP (R472): every clock stops, THERMTRIP_N is driven low, and the alive pins are released. -/
def thermTrip (s : State) : State :=
  setPower (fun p => { p with stopped := true }) (releasePins (emit { kind := .pin, dest := 0, args := [4, 0] } s))

/-- THERMAL_SAMPLE (R470): every 10 µs the hottest junction, `t` °C, is read. -/
def doThermalSample (t : Nat) (s : State) : State :=
  if !again s.power.sampleAt 10 s then s else
  let lim := thermLimit s
  let was := decide (lim ≤ rd PWR_THERM_HOTTEST 0 s)
  let ended := decide (lim ≤ t)
  let conf := rdb SEC_STATUS_CONFIDENTIAL 0 s
  let s := wr PWR_THERM_HOTTEST 0 (sat 8 t) (setPower (fun p => { p with sampleAt := some (now16 s) }) s)
  if 115 ≤ t then thermTrip s else
  let s := if ended && !rdb PWR_STATUS_PROCHOT_OUT 0 s then
      setB PWR_STATUS_PROCHOT_OUT 0 (emit { kind := .pin, dest := 0, args := [3, 0] } s)
    else if rdb PWR_STATUS_PROCHOT_OUT 0 s && decide (t + 5 < lim) then
      setPower (fun p => { p with letGoAt := some (now16 s) })
        (clrB PWR_STATUS_PROCHOT_OUT 0 (emit { kind := .pin, dest := 0, args := [3, 1] } s))
    else s
  let s := if ended then setPower (fun p => { p with hot := true, coolN := 0, epHot := true }) s else s
  let s := if ended && !conf && again s.power.lowerAt 100 s then
      setPoint (min 3 (point s + 1)) (setPower (fun p => { p with lowerAt := some (now16 s) }) s)
    else s
  if ended && !was then thermalEvent 1 (point s) s
  else if was && !ended then thermalEvent 2 (point s) s
  else s

/-- THERMAL_SAMPLE. -/
def execThermalSample (t : Nat) (s : State) : Host.Outcome State Fault Refusal := .next (clocked (doThermalSample t) s)

/-- The board's drive of PROCHOT_N is taken (R471): P3, and every site at PWR_MIN; in confidential mode at the next epoch. -/
def takeProchot (s : State) : State :=
  let s := setB PWR_STATUS_PROCHOT_IN 0 (setPower (fun p => { p with epProchot := true }) s)
  let s := if rdb SEC_STATUS_CONFIDENTIAL 0 s then s else forEach (readySites s) regrant (setPoint 3 s)
  thermalEvent 3 (point s) s

/-- The hub does not drive PROCHOT_N, and has not for 100 ns (R498). -/
def pinSettled (s : State) : Bool :=
  !rdb PWR_STATUS_PROCHOT_OUT 0 s && (match s.power.letGoAt with | some t => due (t + 1600) s | none => true)

/-- PROCHOT_IN follows the pin, but for the time that the hub drives it itself (R498). -/
def followProchot (s : State) : State :=
  if !pinSettled s || s.power.board == rdb PWR_STATUS_PROCHOT_IN 0 s then s
  else if s.power.board then takeProchot s
  else thermalEvent 4 (point s) (clrB PWR_STATUS_PROCHOT_IN 0 s)

/-- PROCHOT_ASSERT (R471, R498): the board drives PROCHOT_N low. -/
def doProchotAssert (s : State) : State := followProchot (setPower (fun p => { p with board := true }) s)

/-- PROCHOT_ASSERT. -/
def execProchotAssert (s : State) : Host.Outcome State Fault Refusal := .next (clocked doProchotAssert s)

/-- PROCHOT_DEASSERT (R498): the board lets go of PROCHOT_N. -/
def doProchotDeassert (s : State) : State := followProchot (setPower (fun p => { p with board := false }) s)

/-- PROCHOT_DEASSERT. -/
def execProchotDeassert (s : State) : Host.Outcome State Fault Refusal := .next (clocked doProchotDeassert s)

end Sys2Proof.Machine
end

