-- ==== Sys2Proof/Machine/Firmware.lean ====
section
/-! DEFINITION. Sys2Proof/Machine/Firmware.lean: the configuration store's commands, firmware banks, manifests, staging,
broadcasts and activation (spec/17_bringup_reset_service.md R428 to R431, R437 to R443). -/

namespace Sys2Proof.Machine

open Sys2Proof

/-! ## The configuration store (R428 to R430) -/

/-- A bank is valid: LENGTH is in range and the digest matches (R428). -/
def cfgValid (b : CfgBank) : Bool := decide (b.len ≤ 262080) && wrap 384 (Config.sha384 (b.body.take b.len)) == b.digest

/-- `a` is newer than `b` (R429). -/
def newerSeq (a b : Nat) : Bool :=
  decide (1 ≤ wrap 32 (a + 2 ^ 32 - b)) && decide (wrap 32 (a + 2 ^ 32 - b) ≤ 2 ^ 31 - 1)

/-- The bank that bring-up uses (R429). -/
def chooseCfg (f : Flash) : Option Nat :=
  match cfgValid f.cfgA, cfgValid f.cfgB with
  | true, true => some (if newerSeq f.cfgB.seq f.cfgA.seq then 1 else 0)
  | true, false => some 0
  | false, true => some 1
  | false, false => none

/-- CFG_READ (R430): bytes of the bank in use; without a valid bank there are none. -/
def doCfgRead (s : State) : State :=
  beginCmd none 0x10 [0, 1, 2, 3] (fun s =>
    let w := cmdWord none 0 s
    let off := slice w 0 18
    let len := slice w 18 12
    if len = 0 ∨ 4092 < len ∨ 262080 < off + len ∨ w / 2 ^ 30 ≠ 0 then cmdEnd false 0x10 .unsupported 0 s else
    match bankUsed s with
    | none => cmdEnd false 0x10 .ok 0 s
    | some b =>
      let data := ((b.body.take b.len).drop off).take len
      let words := (List.range ((data.length + 3) / 4)).map (fun i => ofBytes ((data.drop (4 * i)).take 4))
      let s := forEach words.zipIdx (fun p s => wr MBX_DATA_DATA (p.2 + 1) p.1 s) s
      cmdEnd false 0x10 .ok data.length s) s

/-- CFG_READ. -/
def execCfgRead (s : State) : Host.Outcome State Fault Refusal := .next (clocked doCfgRead s)

/-- The body assembled in the RTP's buffer: from byte 0 as far as bytes have been written. -/
def cfgBody (s : State) : List Byte :=
  let n := ((s.boot.cfgBuf.getLast?).map (fun p => p.1 + 1)).getD 0
  (List.range n).map (fun i => lookD 0 s.boot.cfgBuf i)

/-- The commit of CFG_WRITE: the bank not in use is erased, written and read back. -/
def commitCfg (s : State) : State :=
  let b := cfgBody s
  cmdEnd false 0x11 .ok (wrap 16 b.length) (setBoot (fun x => { x with cfgBuf := [] }) (commitBody b s))

/-- CFG_WRITE (R430): bytes for the body, and with COMMIT its commit, which waits while a supply dip lasts. -/
def doCfgWrite (s : State) : State :=
  beginCmd none 0x11 [0, 1, 2, 3] (fun s =>
    let w := cmdWord none 0 s
    let off := slice w 0 18
    let len := slice w 18 12
    let h3 := pwrState s == 3 || s.power.entry.any (fun e => e.target == 3)
    let st := Status.worse (if len = 0 ∨ 4092 < len ∨ 262080 < off + len ∨ 2 ^ 31 ≤ w then .unsupported else .ok)
      (if rdb SEC_STATUS_CONFIDENTIAL 0 s || h3 then .refused else .ok)
    if st ≠ .ok then cmdEnd false 0x11 st 0 s else
    let data := cmdBytes none 1 len s
    let s := setBoot (fun x => { x with cfgBuf := data.zipIdx.foldl (fun m p => put (off + p.2) p.1 m) x.cfgBuf }) s
    if !bit w 30 then cmdEnd false 0x11 .ok (wrap 16 (cfgBody s).length) s
    else if rdb PWR_STATUS_STRETCH 0 s then setBoot (fun x => { x with commits := x.commits ++ [0x11] }) s
    else commitCfg s) s

/-- CFG_WRITE. -/
def execCfgWrite (s : State) : Host.Outcome State Fault Refusal := .next (clocked doCfgWrite s)

/-! ## Manifests and banks (R437 to R439) -/

/-- A field of a manifest. -/
def manField (m : List Byte) (off n : Nat) : Nat := ofBytes ((m.drop off).take n)

/-- IMAGE_VERSION, and its major part. -/
def manVersion (m : List Byte) : Nat := manField m 4 4
/-- Bytes of the image. -/
def manLength (m : List Byte) : Nat := manField m 8 4
/-- Chunks of the image. -/
def manChunks (m : List Byte) : Nat := manField m 12 2
/-- Security version. -/
def manSvn (m : List Byte) : Nat := manField m 14 1
/-- The signers named: 0 Vangux, 1 integrator. -/
def manSigners (m : List Byte) : List Nat := (List.range 2).filter (bit (manField m 3 1))
/-- Bytes of the manifest with its signature blocks. -/
def manBytes (m : List Byte) : Nat := 64 + 48 * manChunks m + 4723 * (manSigners m).length

/-- The form of a manifest is right (Table 8). -/
def manForm (m : List Byte) : Bool :=
  manField m 0 2 == 1 && decide (1 ≤ manField m 2 1) && decide (manField m 2 1 ≤ 3) && decide (manField m 3 1 < 4) &&
  decide (1 ≤ manLength m) && decide (manLength m ≤ 67108864) && manChunks m == (manLength m + 4095) / 4096 &&
  decide (manSvn m ≤ 64) && decide (manField m 15 1 < 2) && manField m 16 48 == 0 && m.length == manBytes m

/-- Chunk `k` of an image, zero-padded. -/
def imageChunk (img : List Byte) (k : Nat) : List Byte :=
  let c := (img.drop (4096 * k)).take 4096
  c ++ List.replicate (4096 - c.length) 0

/-- Chunk `k` matches its digest. -/
def chunkGood (m : List Byte) (k : Nat) (c : List Byte) : Bool := wrap 384 (Config.sha384 c) == manField m (64 + 48 * k) 48

/-- The floor of a target: the ones in its OTP group (R439). -/
def floorOf (t : Nat) (s : State) : Nat := ((List.range 64).filter (bit (nth 0 s.life.floors (t - 1)))).length

/-- SIGN_POLICY (Table 3). -/
def signPolicy (s : State) : Nat := ((storeItem 0x000A s).map ofBytes).getD 0

/-- The signatures of a manifest suffice and verify; where the life cycle allows unsigned firmware they are not checked
(R408, R439). -/
def manSigned (m : List Byte) (s : State) : Bool :=
  if s.life.state = 0 ∨ s.life.state = 3 then true else
  let t := manField m 2 1
  let msg := m.take (64 + 48 * manChunks m)
  (manSigners m).contains 0 && (t == 2 || !bit (signPolicy s) (t - 1) || (manSigners m).contains 1) &&
  (manSigners m).zipIdx.all (fun p => signed p.1 msg ((m.drop (64 + 48 * manChunks m + 4723 * p.2)).take 4723) s)

/-- A bank of target `t` verifies (R437). -/
def bankGood (t : Nat) (b : FwBank) (s : State) : Bool :=
  manForm b.man && manField b.man 2 1 == t && manSigned b.man s && decide (floorOf t s ≤ manSvn b.man) &&
  (List.range (manChunks b.man)).all (fun k => chunkGood b.man k (imageChunk b.img k))

/-- The bank of target `t` that is active: as firmware runs (FW_STAGE_t.ACTIVE_BANK). -/
def activeBank (t : Nat) (s : State) : Nat := rd FW_STAGE_ACTIVE_BANK (t - 1) s

/-- Bank `b` of target `t`. -/
def fwBank (t b : Nat) (s : State) : FwBank :=
  let p := nth ({}, {}) s.boot.flash.fw (t - 1)
  if b = 0 then p.1 else p.2

/-- The staging bank of target `t`. -/
def stagingBank (t : Nat) (s : State) : FwBank := fwBank t (1 - activeBank t s) s

/-- `s` with the staging bank of target `t` set. -/
def setStaging (t : Nat) (b : FwBank) (s : State) : State :=
  let k := activeBank t s
  setBoot (fun x => { x with flash := { x.flash with
    fw := modNth (t - 1) (fun p => if k = 0 then (p.1, b) else (b, p.2)) x.flash.fw } }) s

/-- FW_STAGE_t of a target (Table 11). -/
def setStage (t st missing ver : Nat) (s : State) : State :=
  s |> wr FW_STAGE_STATE (t - 1) st |> wr FW_STAGE_MISSING (t - 1) missing |> wr FW_STAGE_VERSION (t - 1) ver

/-- A verified Graver program set is loaded into the inactive built-in bank of every tile (R72). -/
def stageGraver (t ver : Nat) (img : List Byte) (s : State) : State :=
  if t ≠ 3 then s else forEach (List.range (tiles s)) (fun i s => stageSet i ver img s) s

/-- An image is staged: the bank is written and reads READY. -/
def stageImage (t : Nat) (b : FwBank) (s : State) : State :=
  stageGraver t (manVersion b.man) b.img (setStage t 2 0 (manVersion b.man) (setStaging t b s))

/-- What the check of an image reports (R440), the worst under R17; `t` is its target. -/
def stageStatus (b : FwBank) (s : State) : Status :=
  let t := manField b.man 2 1
  let form := manForm b.man
  let verified := manSigned b.man s && (List.range (manChunks b.man)).all (fun k => chunkGood b.man k (imageChunk b.img k))
  Status.worst [if form then .ok else .unsupported, if form && !verified then .accessDenied else .ok,
    if form && decide (Config.bankSize t < b.man.length + b.img.length) then .quota else .ok,
    if form && decide (manSvn b.man < floorOf t s) then .refused else .ok]

/-! ## IMAGE_LOAD (R430) -/

/-- The commit of IMAGE_LOAD: the staging bank is verified. -/
def commitImage (s : State) : State :=
  let t := s.boot.imgFor
  let n := ((s.boot.imgBuf.getLast?).map (fun p => p.1 + 1)).getD 0
  let l := (List.range n).map (fun i => lookD 0 s.boot.imgBuf i)
  let m := l.take (manBytes l)
  let b : FwBank := { man := m, img := (l.drop (manBytes l)).take (manLength l) }
  let s := setBoot (fun x => { x with imgBuf := [] }) s
  if bankGood t b s then cmdEnd false 0x12 .ok (wrap 16 n) (stageImage t b s)
  else cmdEnd false 0x12 .accessDenied 0 (setStage t 3 0 0 (setStaging t b s))

/-- IMAGE_LOAD (R430): bytes of manifest and image for the staging bank of TARGET, and with COMMIT their verification. -/
def doImageLoad (s : State) : State :=
  beginCmd none 0x12 [0, 1, 2, 3] (fun s =>
    let w0 := cmdWord none 0 s
    let w1 := cmdWord none 1 s
    let off := slice w0 0 27
    let len := slice w1 0 12
    let t := slice w1 12 2
    if len = 0 ∨ 4088 < len ∨ t = 0 ∨ w0 / 2 ^ 27 ≠ 0 ∨ w1 / 2 ^ 15 ≠ 0 then cmdEnd false 0x12 .unsupported 0 s else
    let data := cmdBytes none 2 len s
    let s := setBoot (fun x => { x with
      imgFor := t, imgBuf := data.zipIdx.foldl (fun m p => put (off + p.2) p.1 m) (if x.imgFor = t then x.imgBuf else []) }) s
    if !bit w1 14 then cmdEnd false 0x12 .ok (wrap 16 s.boot.imgBuf.length) s
    else if rdb PWR_STATUS_STRETCH 0 s then setBoot (fun x => { x with commits := x.commits ++ [0x12] }) s
    else commitImage s) s

/-- IMAGE_LOAD. -/
def execImageLoad (s : State) : Host.Outcome State Fault Refusal := .next (clocked doImageLoad s)

/-- Commits that a supply dip held back go on once it is over. -/
def settleCommits (s : State) : State :=
  if rdb PWR_STATUS_STRETCH 0 s then s else
  match s.boot.commits with
  | [] => s
  | c :: t =>
    let s := setBoot (fun x => { x with commits := t }) s
    if c = 0x11 then commitCfg s else commitImage s

/-! ## Staging and broadcast (R440, R441) -/

/-- The started SERVICE descriptor of a SUBOP. -/
def serviceDesc (g k sub : Nat) (s : State) : Option Desc :=
  (runningDesc g k 0x33 s).filter (fun d => wrap 8 (d.word 2) == sub)

/-- FW_STAGE (R440): a manifest and an image are read from the PF's extents, verified and written to the staging bank. Flash
programming waits while a supply dip lasts (R464). -/
def doFwStage (g k : Nat) (s : State) : State :=
  match serviceDesc g k 0x07 s with
  | none => s
  | some d =>
    if rdb PWR_STATUS_STRETCH 0 s then s else
    let off := d.word 3
    let len := d.word 4
    if !claimed off len false s then claim (.agent 0) off len false s else
    let r := homeGet (.agent 0) off len s
    if !r.1.good then failDesc g k r.1 r.2.2 else
    let b : FwBank := { man := r.2.1.take (manBytes r.2.1), img := r.2.1.drop (manBytes r.2.1) }
    let st := if manForm b.man && b.img.length != manLength b.man then .unsupported else stageStatus b r.2.2
    if st ≠ .ok then failDesc g k st r.2.2
    else completeDesc g k .ok (manVersion b.man) 0 0 (stageImage (manField b.man 2 1) b r.2.2)

/-- FW_STAGE. -/
def execFwStage (g k : Nat) (s : State) : Host.Outcome State Fault Refusal := .next (clocked (doFwStage g k) s)

/-- A multicast goes from this hub to a group (R291): a copy into each direction and to the twin; a copy without a good port
is dropped. It keeps the dateline bit only in the dimension it came in (R283, R284). -/
def mcastOut (grp : Nat) (k : Pkt) (s : State) : State :=
  let dirs := (List.range 6).filter (bit (rd MC_GROUP_OUT_DIRS grp s)) ++ (if rdb MC_GROUP_OUT_TWIN grp s then [6] else [])
  let here := k.src == selfId s
  if 63 ≤ k.hops + 1 then bumpSat SYR_PERR_REPLAYS k.port 1 s else
  forEach dirs (fun d s =>
    if (goodPorts d s).isEmpty then setB SYR_EVENT_MC_DROP 0 s
    else sendDir d { k with hops := k.hops + 1, dl := k.dl && !here && decide (k.port < 18) && d / 2 == k.port / 6 } s) s

/-- Word 3 of a packet of a broadcast (R441). -/
def chunkWord (idx : Nat) (manifest : Bool) (part t origin transfer : Nat) : Nat :=
  idx + 2 ^ 14 * b2n manifest + 2 ^ 15 * part + 2 ^ 18 * t + 2 ^ 20 * origin + 2 ^ 33 * transfer

/-- A chunk travels as eight packets of 512 bytes. -/
def sendChunk (grp t transfer : Nat) (manifest : Bool) (idx : Nat) (data : List Byte) (s : State) : State :=
  forEach (List.range 8) (fun p s =>
    mcastOut grp { opc := 0xA, vn := 4, dst := selfId s, src := selfId s, addr := grp,
                   aux := chunkWord idx manifest p t (selfId s) transfer, data := (data.drop (512 * p)).take 512 } s) s

/-- Chunks of a manifest. -/
def manChunkCount (m : List Byte) : Nat := (m.length + 4095) / 4096

/-- FW_BROADCAST (R441): the staged image of TARGET goes to the group, manifest chunks first. -/
def doFwBroadcast (g k : Nat) (s : State) : State :=
  match serviceDesc g k 0x08 s with
  | none => s
  | some d =>
    let t := slice (d.word 2) 8 2
    let grp := slice (d.word 2) 16 8
    if t = 0 then failDesc g k .unsupported s
    else if rd FW_STAGE_STATE (t - 1) s ≠ 2 ∨ !rdb MC_GROUP_VALID grp s then failDesc g k .refused s
    else
      let b := stagingBank t s
      let x := s.boot.nextTransfer
      let s := setBoot (fun y => { y with nextTransfer := wrap 16 (x + 1), sent := y.sent ++ [{ target := t, transfer := x }] }) s
      let s := forEach (List.range (manChunkCount b.man)) (fun i s => sendChunk grp t x true i (imageChunk b.man i) s) s
      let s := forEach (List.range (manChunks b.man)) (fun i s => sendChunk grp t x false i (imageChunk b.img i) s) s
      completeDesc g k .ok x 0 0 s

/-- FW_BROADCAST. -/
def execFwBroadcast (g k : Nat) (s : State) : Host.Outcome State Fault Refusal := .next (clocked (doFwBroadcast g k) s)

/-- FW_STATUS (R441): the hubs that have reported. -/
def doFwStatus (g k : Nat) (s : State) : State :=
  match serviceDesc g k 0x09 s with
  | none => s
  | some d =>
    let t := slice (d.word 2) 8 2
    if t = 0 then failDesc g k .unsupported s else
    let n := ((s.boot.sent.find? (fun x => x.target == t && x.transfer == d.word 3)).map (fun x => x.hubs.length)).getD 0
    completeDesc g k .ok n 0 0 s

/-- FW_STATUS. -/
def execFwStatus (g k : Nat) (s : State) : Host.Outcome State Fault Refusal := .next (clocked (doFwStatus g k) s)

/-! ## Receiving a broadcast (R441) -/

/-- The key of a packet of a broadcast: of the manifest or the image, chunk and part. -/
def partKey (manifest : Bool) (idx part : Nat) : Nat := (if manifest then 0 else 2 ^ 20) + 8 * idx + part

/-- A whole chunk that has been received. -/
def gotChunk (x : FwXfer) (manifest : Bool) (idx : Nat) : Option (List Byte) :=
  if (List.range 8).all (fun p => (look x.parts (partKey manifest idx p)).isSome) then
    some ((List.range 8).flatMap (fun p => lookD [] x.parts (partKey manifest idx p)))
  else none

/-- The manifest, once its chunks are there. -/
def gotManifest (x : FwXfer) : Option (List Byte) :=
  match gotChunk x true 0 with
  | none => none
  | some c =>
    let n := (manBytes c + 4095) / 4096
    let cs := (List.range n).map (fun i => gotChunk x true i)
    if cs.all Option.isSome then some ((cs.flatMap (fun c => c.getD [])).take (manBytes c)) else none

/-- The chunks of the image that have not been received and verified. -/
def missingChunks (x : FwXfer) (m : List Byte) : List Nat :=
  (List.range (manChunks m)).filter (fun k => match gotChunk x false k with
    | some c => !chunkGood m k c
    | none => true)

/-- `s` with a broadcast of target `t`. -/
def setXfer (t : Nat) (x : FwXfer) (s : State) : State := setBoot (fun y => { y with xfers := put t x y.xfers }) s

/-- The broadcast of target `t` is over. -/
def dropXfer (t : Nat) (s : State) : State := setBoot (fun y => { y with xfers := del t y.xfers }) s

/-- A chunk that this hub holds verified: of the staged image, or of the broadcast that it receives. -/
def heldChunk (t transfer : Nat) (manifest : Bool) (idx : Nat) (s : State) : Option (List Byte) :=
  match look s.boot.xfers t with
  | some x =>
    if x.transfer ≠ transfer then none else
    match gotManifest x, gotChunk x manifest idx with
    | some m, some c => if manifest || chunkGood m idx c then some c else none
    | _, _ => none
  | none =>
    if rd FW_STAGE_STATE (t - 1) s ≠ 2 then none else
    let b := stagingBank t s
    some (if manifest then imageChunk b.man idx else imageChunk b.img idx)

/-- The hub that missing chunks are asked of: the ruling-tree parent; at a root the hub that sends (R441). -/
def chunkSource (origin : Nat) (s : State) : Nat :=
  if role s = 0 then
    let p := rd RULE_STATUS_PARENT_USED 0 s
    4096 * rd SYR_PORT_PARTNER_TWIN p s + rd SYR_PORT_PARTNER_HUB p s
  else origin

/-- A missing chunk is asked for by MGMT unicast. -/
def askChunk (origin t transfer : Nat) (manifest : Bool) (idx : Nat) (s : State) : State :=
  tellHub (chunkSource origin s) 10 [t, transfer, b2n manifest, idx, origin] s

/-- A chunk goes to a hub that asked. -/
def giveChunk (hub t transfer : Nat) (manifest : Bool) (idx : Nat) (c : List Byte) (s : State) : State :=
  emit { kind := .firmware, dest := hub, tag := 11, args := [t, transfer, b2n manifest, idx], data := c } s

/-- Hubs that asked for a chunk which is now held have it. -/
def answerAsks (t transfer : Nat) (s : State) : State :=
  forEach s.boot.asks (fun a s =>
    if a.2.1 ≠ t then s else
    match heldChunk t transfer a.2.2.1 a.2.2.2 s with
    | some c => giveChunk a.1 t transfer a.2.2.1 a.2.2.2 c (setBoot (fun y => { y with asks := y.asks.erase a }) s)
    | none => s) s

/-- What the chunks received so far make of the staging bank: READY once every chunk and the manifest verify. -/
def settleXfer (t : Nat) (x : FwXfer) (s : State) : State :=
  let s := setXfer t x s
  match gotManifest x with
  | none => s
  | some m =>
    if !manForm m || manField m 2 1 != t || !manSigned m s || decide (manSvn m < floorOf t s) ||
       decide (Config.bankSize t < m.length + manLength m) then dropXfer t (setStage t 3 0 0 s) else
    let left := missingChunks x m
    let s := answerAsks t x.transfer (setStage t 1 left.length (manVersion m) s)
    if !left.isEmpty then s else
    let img := ((List.range (manChunks m)).flatMap (fun k => (gotChunk x false k).getD [])).take (manLength m)
    let s := stageImage t { man := m, img := img } (dropXfer t s)
    let s := hubEvent [0] 0x0004 .ok (t + 2 ^ 32 * manVersion m) s
    tellHub x.origin 12 [x.transfer] s

/-- A packet of a broadcast comes in. -/
def takePart (t origin transfer : Nat) (manifest : Bool) (idx part : Nat) (data : List Byte) (s : State) : State :=
  if t = 0 then s else
  let put1 := fun (x : FwXfer) =>
    settleXfer t { x with parts := put (partKey manifest idx part) data x.parts, lastAt := now16 s } 
  match look s.boot.xfers t with
  | some x =>
    if x.transfer = transfer ∧ x.origin = origin then put1 x s
    else if manifest then put1 { origin := origin, transfer := transfer, lastAt := now16 s } (setStage t 1 0 0 (setStaging t {} s))
    else s
  | none =>
    if manifest then put1 { origin := origin, transfer := transfer, lastAt := now16 s } (setStage t 1 0 0 (setStaging t {} s))
    else s

/-- The firmware packet in a multicast (R441). -/
def takeChunkPacket (k : Pkt) (s : State) : State :=
  let w := k.aux
  takePart (slice w 18 2) (slice w 20 13) (slice w 33 16) (bit w 14) (slice w 0 14) (slice w 15 3) k.data s

/-- A hub asks for a chunk of the broadcast that hub `origin` sends: it is sent, or first asked for. -/
def takeChunkRequest (src t transfer : Nat) (manifest : Bool) (idx origin : Nat) (s : State) : State :=
  if t = 0 then s else
  match heldChunk t transfer manifest idx s with
  | some c => giveChunk src t transfer manifest idx c s
  | none =>
    askChunk origin t transfer manifest idx (setBoot (fun y => { y with asks := y.asks.filter (· != (src, t, manifest, idx)) ++ [(src, t, manifest, idx)] }) s)

/-- A chunk that was asked for comes. -/
def takeChunk (t transfer : Nat) (manifest : Bool) (idx : Nat) (data : List Byte) (s : State) : State :=
  match look s.boot.xfers t with
  | some x =>
    if x.transfer ≠ transfer then s else
    let parts := (List.range 8).foldl (fun m p => put (partKey manifest idx p) ((data.drop (512 * p)).take 512) m) x.parts
    settleXfer t { x with parts := parts, lastAt := now16 s, tries := 0 } s
  | none => s

/-- A hub reports that it has staged the image of a broadcast. -/
def takeStaged (src transfer : Nat) (s : State) : State :=
  setBoot (fun y => { y with sent := y.sent.map (fun x =>
    if x.transfer = transfer ∧ !x.hubs.contains src then { x with hubs := x.hubs ++ [src] } else x) }) s

/-- FW_CHUNK_TIMEOUT (R441): 5 ms without a packet of the broadcast of target `t`: what is missing is asked for, eight times
over at most. -/
def doFwChunkTimeout (t : Nat) (s : State) : State :=
  match look s.boot.xfers t with
  | none => s
  | some x =>
    if !due (x.lastAt + us16 5000) s then s else
    if 9 ≤ x.tries then dropXfer t (wr FW_STAGE_STATE (t - 1) 3 s) else
    let s := setXfer t { x with lastAt := now16 s, tries := x.tries + 1 } s
    match gotManifest x with
    | some m => forEach (missingChunks x m) (fun k s => askChunk x.origin t x.transfer false k s) s
    | none =>
      let n := match gotChunk x true 0 with | some c => (manBytes c + 4095) / 4096 | none => 1
      forEach ((List.range n).filter (fun i => (gotChunk x true i).isNone)) (fun i s => askChunk x.origin t x.transfer true i s) s

/-- FW_CHUNK_TIMEOUT. -/
def execFwChunkTimeout (t : Nat) (s : State) : Host.Outcome State Fault Refusal := .next (clocked (doFwChunkTimeout t) s)

/-! ## An RTP reset (R433, R404) -/

/-- An RTP reset begins: the RTP's registers are restored, SPDM sessions end, and the mailbox reads BUSY until the self-tests
have passed. Key slots, IDE keys and TDI states are kept; a command that ran is lost, with the programming it had begun. The
error state that a transition has put the RTP in stays (R421). -/
def startRtpReset (s : State) : State :=
  let s := resetWhere (fun f _ => decide (f.rst = .rtp)) s
  let s := if s.life.stuck then setB SEC_STATUS_FIPS_ERROR 0 s else s
  let s := setLife (fun l => { l with prog := l.prog.filter (fun p => p.target.isNone && !p.select) }) s
  let keep := fun (w : SecWait) => match w.act with | .unlock _ _ => true | _ => false
  let s := setSec (fun x => { x with sessions := [], handshakes := [], aliasKey := none, token := [], nonce := none, confAt := none,
                                     bmcBusy := true, rtpAt := some (now16 s), waits := x.waits.filter keep }) s
  let s := setBoot (fun x => { x with cfgBuf := [], imgBuf := [], commits := [] }) s
  setB MBX_STATUS_BUSY 0 (clrB SEC_STATUS_CONF_PENDING 0 s)

/-- RTP_RESET: the RTP's watchdog. One that is running absorbs it. -/
def doRtpReset (s : State) : State := if s.sec.rtpAt.isSome then s else startRtpReset s

/-- RTP_RESET. -/
def execRtpReset (s : State) : Host.Outcome State Fault Refusal := .next (clocked doRtpReset s)

/-- The RTP has passed its self-tests (R404): it is ready, and where it gives key service the Alias key is new. -/
def selftestsPass (s : State) : State :=
  let s := if noCrypto s then s else setSec (fun x => { x with aliasKey := some x.nextKey, nextKey := x.nextKey + 1 }) s
  if rdb SEC_STATUS_FIPS_ERROR 0 s then s else setB SEC_STATUS_SELFTEST_OK 0 s

/-- The RTP's self-tests have passed: the OTP has been decoded again (R414), and the mailbox is free. -/
def endRtpReset (s : State) : State :=
  let s := setSec (fun x => { x with rtpAt := none, bmcBusy := false, recovery := x.recovery || decide (decodeLife s.life = 5) }) s
  noteGroups (selftestsPass (startWipe (clrB MBX_STATUS_BUSY 0 s)))

/-- An RTP reset ends 30 ms after it began. -/
def settleRtp (s : State) : State :=
  match s.sec.rtpAt with
  | some t => if due (t + us16 30000) s then endRtpReset s else s
  | none => s

/-! ## Activation (R442, R443) -/

/-- What stands against the activation of version `ver` of target `t` (Table 10): 0 nothing, 1 not READY, 2 version, 3 major,
4 floor, 5 not LOCKED. -/
def activateReason (t ver : Nat) (s : State) : Nat :=
  if rd FW_STAGE_STATE (t - 1) s ≠ 2 then 1
  else if rd FW_STAGE_VERSION (t - 1) s ≠ ver then 2
  else if t = 1 ∧ ver / 2 ^ 24 ≠ rd FW_ACTIVE_VERSION 0 s / 2 ^ 24 then 3
  else if manSvn (stagingBank t s).man < floorOf t s then 4
  else if !locked s then 5
  else 0

/-- The bits that raise the floor of target `t` to `svn`: those not yet programmed, in ascending order. -/
def floorBits (t svn : Nat) (s : State) : List (OtpGroup × Nat) :=
  (((List.range 64).filter (fun i => !bit (nth 0 s.life.floors (t - 1)) i)).take (svn - floorOf t s)).map (fun i => (.floor t, i))

/-- The banks of target `t` swap roles, and the new image takes effect. -/
def activateImage (t : Nat) (s : State) : State :=
  let m := (stagingBank t s).man
  let old := rd FW_ACTIVE_VERSION (t - 1) s
  let s := s |> wr FW_STAGE_ACTIVE_BANK (t - 1) (1 - activeBank t s) |> wr FW_ACTIVE_VERSION (t - 1) (manVersion m)
    |> wr FW_STAGE_VERSION (t - 1) old
  let s := setBoot (fun x => { x with dirs := put t (now16 s) x.dirs }) s
  let bits := if manField m 15 1 = 1 then floorBits t (manSvn m) s else []
  let s := if bits.isEmpty then s else program { bits := bits, due := now16 s + us16 50 } s
  let s := hubEvent (extentHolders s) 0x0005 .ok (t + 2 ^ 32 * manVersion m) s
  match t with
  | 2 => if s.sec.rtpAt.isSome then s else startRtpReset s
  | 3 => forEach (List.range (tiles s)) activateSet s
  | _ => s

/-- A FW_ACTIVATE firing: the image is activated, or NOT_ACTIVATED is posted with the reason. -/
def activateFw (t ver : Nat) (s : State) : Status × State :=
  match activateReason t ver s with
  | 0 => (.ok, activateImage t s)
  | r => (.refused, hubEvent [0] 0x0006 .refused (t + 2 ^ 4 * r + 2 ^ 32 * ver) s)

/-- The image directory is written within 20 ms of an activation, flash programming permitting (R442). -/
def settleDirs (s : State) : State :=
  forEach s.boot.dirs (fun p s =>
    if rdb PWR_STATUS_STRETCH 0 s || !due (p.2 + us16 20000) s then s else
    setBoot (fun x => { x with dirs := del p.1 x.dirs,
                               flash := { x.flash with active := modNth (p.1 - 1) (fun _ => activeBank p.1 s) x.flash.active } }) s) s

end Sys2Proof.Machine
end

