-- ==== Sys2Proof/Machine/Service.lean ====
section
/-! DEFINITION. Sys2Proof/Machine/Service.lean: in-service change and the compute-partial reset
(spec/17_bringup_reset_service.md R434, R444 to R449). -/

namespace Sys2Proof.Machine

open Sys2Proof

/-! ## A TILE reset (Table 6) -/

/-- The unit of a counter field's index. -/
def unitIdx (f : Fld) (i : Nat) : Nat := if f.reg = CNT_blk.code ∨ f.reg = CNT_SEL_blk.code then i / 8 else i

/-- The built-in set is loaded into TILE_t: the active version in bank 0, the staged one beside it (R72). -/
def loadBuiltIn (t : Nat) (s : State) : State :=
  let v := rd FW_ACTIVE_VERSION 2 s
  let st := if rd FW_STAGE_STATE 2 s = 2 then rd FW_STAGE_VERSION 2 s else 0
  let img := fun v b => if v = 0 then [] else (fwBank 3 b s).img
  setGrv t (fun g => { g with vers := [v, st], sets := [img v (activeBank 3 s), img st (1 - activeBank 3 s)] })
    (wr GRV_BUILTIN_VER_VERSION t v s)

/-- TILE_t is reset: engine, panel mover, program memory, step table and the tile's counters. Work queued on it stays queued,
and a tile that is out of service stays out. -/
def resetTile (t : Nat) (s : State) : State :=
  let out := rd GRV_STATUS_STATE t s == 3
  let q := (grv t s).queue
  let s := resetWhere (fun f i => (f.rst == .tile && i == t) || (f.rst == .unit && unitIdx f i == t)) s
  let s := setGrv t (fun _ => { queue := q }) (zeroUnit t s)
  let s := loadBuiltIn t s
  if out then wr GRV_STATUS_STATE t 3 s else s

/-! ## Changes (R445) -/

/-- The tiles in service. -/
def tilesIn (s : State) : List Nat := (List.range (tiles s)).filter (fun t => tileUp t s)

/-- SERVICE_CHANGE (Table 10), at the begin or the end of a change. -/
def changeEvent (v : Svc) (start : Bool) (s : State) : State :=
  hubEvent (extentHolders s) 0x0008 .ok (v.sub + 2 ^ 8 * v.idx + 2 ^ 16 * b2n start) s

/-- `s` with the change that runs replaced. -/
def setSvc (v : Svc) (s : State) : State := setBoot (fun x => { x with svc := v :: x.svc.tail }) s

/-- The change that runs has begun, and stands at a phase. -/
def startSvc (v : Svc) (phase : Nat) (s : State) : State :=
  changeEvent v true (setSvc { v with phase := phase, since := now16 s } s)

/-- The first change is over. -/
def endSvc (v : Svc) (st : Status) (result : Nat) (s : State) : State :=
  let s := setBoot (fun x => { x with svc := x.svc.tail }) s
  let s := if v.phase = 0 then s else changeEvent v false s
  completeDesc v.g v.k st result 0 0 s

/-! ## Tiles (R446, R447) -/

/-- Buckets of each tile in service but `t`: the tile and its buckets, in ascending order. -/
def holdings (t : Nat) (s : State) : List (Nat × List Nat) :=
  let all := (List.range 4096).map (fun b => (rd SLICE_STEER_TILE b s, b))
  ((tilesIn s).filter (fun i => i != t)).map (fun i => (i, (all.filter (fun p => p.1 == i)).map Prod.snd))

/-- The entry with the fewest buckets, the lowest index among them. -/
def fewest : List (Nat × List Nat) → Option (Nat × List Nat)
  | [] => none
  | h :: t => some (t.foldl (fun m x => if x.2.length < m.2.length then x else m) h)

/-- The entry with the most buckets, the lowest index among them. -/
def mostOf : List (Nat × List Nat) → Option (Nat × List Nat)
  | [] => none
  | h :: t => some (t.foldl (fun m x => if m.2.length < x.2.length then x else m) h)

/-- TILE_OUT: where each bucket goes, lowest number first. -/
def planOut : List Nat → List (Nat × List Nat) → List (Nat × Nat)
  | [], _ => []
  | b :: bs, hs =>
    match fewest hs with
    | some m => (b, m.1) :: planOut bs (hs.map (fun h => if h.1 = m.1 then (h.1, b :: h.2) else h))
    | none => []

/-- TILE_IN: `n` buckets for TILE_t, each the lowest of the tile that holds the most. -/
def planIn (t : Nat) : Nat → List (Nat × List Nat) → List (Nat × Nat)
  | 0, _ => []
  | n + 1, hs =>
    match mostOf hs with
    | some (i, b :: bs) => (b, t) :: planIn t n (hs.map (fun h => if h.1 = i then (i, bs) else h))
    | _ => []

/-- Buckets move as planned (R186). -/
def planBuckets (l : List (Nat × Nat)) (s : State) : State := startBucketMove (setMem (fun m => { m with buckets := m.buckets ++ l }) s)

/-- Work queued on TILE_t: custom launches and loads complete ABORTED, attention items run elsewhere (R446, step 2). -/
def dropQueue (t : Nat) (s : State) : State :=
  let q := (grv t s).queue
  forEach q (fun w s => match w.kind with
    | 0 => failDesc w.g w.k .aborted s
    | 1 => launchRecord w.g w.k .aborted 0 0 0 0 s
    | _ => rerunItem w.g w.k s) (setGrv t (fun g => { g with queue := [] }) s)

/-- TILE_OUT begins (R446, steps 1 and 2), where the tile is in service and not the last. -/
def beginTileOut (v : Svc) (s : State) : State :=
  if tilesHeld s then s
  else if !tileUp v.idx s || (tilesIn s).length ≤ 1 then endSvc v .refused 0 s
  else dropQueue v.idx (startSvc v 1 s)

/-- A COPY runs on TILE_t's panel mover. -/
def moverBusy (t : Nat) (s : State) : Bool :=
  s.xlat.jobs.any (fun p => p.2.tile == t && (match p.2.who with | .copy _ _ => true | _ => false))

/-- TILE_OUT goes on (R446, steps 3 and 4): its buckets move once nothing runs on it, and then it is reset. -/
def stepTileOut (v : Svc) (s : State) : State :=
  if v.phase = 1 then
    if (grv v.idx s).run.isSome || moverBusy v.idx s then s else
    let bs := (List.range 4096).filter (fun b => rd SLICE_STEER_TILE b s == v.idx)
    planBuckets (planOut bs (holdings v.idx s)) (setSvc { v with phase := 2, moved := bs.length } s)
  else if !s.mem.buckets.isEmpty then s
  else endSvc v .ok v.moved (wr GRV_STATUS_STATE v.idx 3 (resetTile v.idx s))

/-- TILE_IN begins (R447): the proof pass, cold state and the built-in set; then buckets move to the tile. -/
def beginTileIn (v : Svc) (s : State) : State :=
  if tilesHeld s then s
  else if tileUp v.idx s then endSvc v .refused 0 s
  else
    let s := startSvc v 2 s
    let v := { v with phase := 2 }
    if v.found = 0 then endSvc v .dataErr 0 s else
    let s := wipeTile v.idx (resetTile v.idx s)
    -- what the tile holds since a TILE_OUT that a compute-partial reset ended counts too
    let n := 4096 / ((tilesIn s).length + 1) - ((List.range 4096).filter (fun b => rd SLICE_STEER_TILE b s == v.idx)).length
    planBuckets (planIn v.idx n (holdings v.idx s)) (setSvc { v with moved := n } s)

/-- TILE_IN ends once the tile holds its buckets. -/
def stepTileIn (v : Svc) (s : State) : State :=
  if !s.mem.buckets.isEmpty then s else endSvc v .ok v.moved (wr GRV_STATUS_STATE v.idx 0 s)

/-! ## Memory sites (R448) -/

/-- The steering entries that name MEM_j, in ascending order. -/
def entriesAt (j : Nat) (s : State) : List Nat := (List.range (rd MEM_GEOM_NE 0 s)).filter (fun e => rd SITE_STEER_SITE e s == j)

/-- The channels that MEM_j uses all work. -/
def siteSound (j : Nat) (s : State) : Bool :=
  match rd MEM_STATUS_STATE j s with
  | 1 => rd MEM_STATUS_CH_OK j s == 255
  | 2 => rd MEM_STATUS_CH_OK j s / 16 ^ rd MEM_STATUS_HALF_HIGH j s % 16 == 15
  | _ => false

/-- Slots that no entry names and no copy stands in, on sound sites other than MEM_j. -/
def spareSlots (j : Nat) (s : State) : List (Nat × Nat) :=
  let used := (List.range (rd MEM_GEOM_NE 0 s)).map (fun e => (rd SITE_STEER_SITE e s, rd SITE_STEER_SLOT e s)) ++
    s.mem.partMoves.flatMap (fun p => p.2.map (fun q => (q.1, q.2.1)))
  ((List.range (memSites s)).filter (fun i => i != j && siteSound i s)).flatMap (fun i =>
    ((List.range (rd SITE_SLOTS_SLOTS i s)).map (fun k => (i, k))).filter (fun p => !used.contains p))

/-- Moves begin (R179). -/
def planMoves (l : List (Nat × Nat × Nat)) (s : State) : State := nextMove (setMem (fun m => { m with moves := m.moves ++ l }) s)

/-- No move is left. -/
def movesDone (s : State) : Bool := s.mem.moves.isEmpty && !rdb MEM_MOVE_ACTIVE 0 s

/-- MEMSITE_OUT begins: every entry of the site is to move to a spare slot elsewhere. -/
def beginSiteOut (v : Svc) (s : State) : State :=
  let es := entriesAt v.idx s
  let spare := spareSlots v.idx s
  let st := Status.worse (if siteSound v.idx s then .ok else .refused) (if spare.length < es.length then .quota else .ok)
  if st ≠ .ok then endSvc v st 0 s else
  let old := lookD [] s.boot.steered v.idx
  let s := startSvc { v with moved := es.length } 1 s
  let mine := es.foldl (fun m e => put e (rd SITE_STEER_SLOT e s) m) old
  let s := setBoot (fun x => { x with steered := put v.idx mine x.steered }) s
  planMoves ((es.zip spare).map (fun p => (p.1, p.2.1, p.2.2))) s

/-- MEMSITE_OUT ends: the site is out of service, or a channel failed on the way and it stays. -/
def stepSiteOut (v : Svc) (s : State) : State :=
  if !movesDone s then s
  else if !(entriesAt v.idx s).isEmpty then endSvc v .refused 0 s
  else endSvc v .ok v.moved (wr MEM_STATUS_STATE v.idx 3 (wr SITE_SLOTS_WEIGHT v.idx 0 s))

/-- What training of all channels makes of MEM_j: its mode, with `ok` the channels that trained. -/
def setSiteMode (j ok : Nat) (s : State) : State :=
  let s := wr MEM_STATUS_CH_OK j ok s
  if ok = 255 then s |> wr MEM_STATUS_STATE j 1 |> wr MEM_STATUS_HALF_HIGH j 0 |> wr SITE_SLOTS_WEIGHT j 2
  else if ok % 16 = 15 then s |> wr MEM_STATUS_STATE j 2 |> wr MEM_STATUS_HALF_HIGH j 0 |> wr SITE_SLOTS_WEIGHT j 1
  else if ok / 16 = 15 then s |> wr MEM_STATUS_STATE j 2 |> wr MEM_STATUS_HALF_HIGH j 1 |> wr SITE_SLOTS_WEIGHT j 1
  else s |> wr MEM_STATUS_STATE j 4 |> wr MEM_STATUS_HALF_HIGH j 0 |> wr SITE_SLOTS_WEIGHT j 0

/-- Data granules of MEM_j (GRAN_s). -/
def granules (j : Nat) (s : State) : Nat :=
  (match rd MEM_STATUS_STATE j s with | 1 => 8 | 2 => 4 | _ => 0) * rd MEM_CHCAP_GRANULES j s

/-- MEMSITE_IN begins: every channel is retrained, and the site's entries are to move back, lowest first, as many as the site
holds. -/
def beginSiteIn (v : Svc) (s : State) : State :=
  let j := v.idx
  if rd MEM_STATUS_STATE j s ≠ 3 then endSvc v .refused 0 s else
  let s := startSvc v 1 (bump MEM_RETRAIN_COUNT j 8 s)
  let v := { v with phase := 1 }
  let s := setSiteMode j v.found s
  let s := forEach (List.range 8) (fun c s => if bit v.found c then trainRate j c s else noteFailed j c s) s
  let mine := lookD [] s.boot.steered j
  let s := setBoot (fun x => { x with steered := del j x.steered }) s
  if rd MEM_STATUS_STATE j s = 4 then endSvc v .unreachable 0 s else
  let cap := granules j s / rd MEM_NF_NF 0 s
  let fits := decide (rd SITE_SLOTS_SLOTS j s ≤ cap)
  let back := mine.take cap
  let s := if fits then s else wr SITE_SLOTS_SLOTS j cap s
  planMoves (back.zipIdx.map (fun p => (p.1.1, j, if fits then p.1.2 else p.2))) (setSvc { v with moved := back.length, since := now16 s } s)

/-- MEMSITE_IN ends once the entries are back, or a channel failed on the way. -/
def stepSiteIn (v : Svc) (s : State) : State :=
  if !movesDone s then s
  else if (entriesAt v.idx s).length < v.moved then endSvc v .refused 0 s
  else endSvc v .ok v.moved s

/-! ## One change at a time -/

/-- The first change goes one step on. -/
def stepSvc (s : State) : State :=
  match s.boot.svc with
  | [] => s
  | v :: _ =>
    match v.sub, v.phase with
    | 1, 0 => beginTileOut v s
    | 1, _ => stepTileOut v s
    | 2, 0 => beginTileIn v s
    | 2, _ => stepTileIn v s
    | 3, 0 => beginSiteOut v s
    | 3, _ => stepSiteOut v s
    | _, 0 => beginSiteIn v s
    | _, _ => stepSiteIn v s

/-- Changes go on as far as they can. -/
def settleSvc (s : State) : State := forEach (List.range (4 * s.boot.svc.length)) (fun _ s => stepSvc s) s

/-- A change is accepted: it waits its turn. -/
def acceptSvc (v : Svc) (s : State) : State :=
  if s.boot.svc.any (fun w => w.g == v.g && w.k == v.k) then s
  else settleSvc (setBoot (fun x => { x with svc := x.svc ++ [v] }) s)

/-- TILE_OUT (R446). -/
def doTileOut (g k : Nat) (s : State) : State :=
  match serviceDesc g k 0x01 s with
  | none => s
  | some d =>
    let t := slice (d.word 2) 8 6
    if tiles s ≤ t then failDesc g k .unsupported s else acceptSvc { sub := 1, g := g, k := k, idx := t } s

/-- TILE_OUT. -/
def execTileOut (g k : Nat) (s : State) : Host.Outcome State Fault Refusal := .next (clocked (doTileOut g k) s)

/-- TILE_LAUNCH_GRACE_TIMEOUT (R446): what still runs on the tile 1 ms after TILE_OUT began is ABORTED; an attention item runs
again elsewhere (R147). A clock stretch doubles the bound. -/
def doTileLaunchGraceTimeout (s : State) : State :=
  match s.boot.svc with
  | v :: _ =>
    if v.sub = 1 ∧ v.phase = 1 ∧ due (v.since + stretched 1000 s) s then
      let s := match (grv v.idx s).run with
        | some r => if r.work.kind = 2 then tileLost v.idx s else abortRun v.idx s
        | none => s
      settleSvc s
    else s
  | [] => s

/-- TILE_LAUNCH_GRACE_TIMEOUT. -/
def execTileLaunchGraceTimeout (s : State) : Host.Outcome State Fault Refusal := .next (clocked doTileLaunchGraceTimeout s)

/-- TILE_IN (R447); `pass`: the proof pass that it will run finds the tile good. -/
def doTileIn (g k : Nat) (pass : Bool) (s : State) : State :=
  match serviceDesc g k 0x02 s with
  | none => s
  | some d =>
    let t := slice (d.word 2) 8 6
    if tiles s ≤ t then failDesc g k .unsupported s else acceptSvc { sub := 2, g := g, k := k, idx := t, found := b2n pass } s

/-- TILE_IN. -/
def execTileIn (g k : Nat) (pass : Bool) (s : State) : Host.Outcome State Fault Refusal := .next (clocked (doTileIn g k pass) s)

/-- MEMSITE_OUT (R448). -/
def doMemsiteOut (g k : Nat) (s : State) : State :=
  match serviceDesc g k 0x03 s with
  | none => s
  | some d =>
    let j := slice (d.word 2) 8 5
    if memSites s ≤ j then failDesc g k .unsupported s else acceptSvc { sub := 3, g := g, k := k, idx := j } s

/-- MEMSITE_OUT. -/
def execMemsiteOut (g k : Nat) (s : State) : Host.Outcome State Fault Refusal := .next (clocked (doMemsiteOut g k) s)

/-- MEMSITE_IN (R448); `trained`: the channels that its retraining will find good. -/
def doMemsiteIn (g k trained : Nat) (s : State) : State :=
  match serviceDesc g k 0x04 s with
  | none => s
  | some d =>
    let j := slice (d.word 2) 8 5
    if memSites s ≤ j then failDesc g k .unsupported s
    else acceptSvc { sub := 4, g := g, k := k, idx := j, found := wrap 8 trained } s

/-- MEMSITE_IN. -/
def execMemsiteIn (g k trained : Nat) (s : State) : Host.Outcome State Fault Refusal := .next (clocked (doMemsiteIn g k trained) s)

/-! ## Retrainings by descriptor (R448) -/

/-- A retraining that a descriptor asked for runs. -/
def acceptRetrain (v : Svc) (f : State → State) (s : State) : State :=
  if s.boot.retrains.any (fun w => w.g == v.g && w.k == v.k) then s
  else f (setBoot (fun x => { x with retrains := x.retrains ++ [v] }) s)

/-- CHAN_RETRAIN (R448): R177 runs at once on a channel; one that has failed is UNREACHABLE. -/
def doChanRetrain (g k : Nat) (s : State) : State :=
  match serviceDesc g k 0x05 s with
  | none => s
  | some d =>
    let j := slice (d.word 2) 8 5
    let c := slice (d.word 2) 16 3
    if memSites s ≤ j then failDesc g k .unsupported s
    else if chanFailed j c s then failDesc g k .unreachable s
    else acceptRetrain { sub := 5, g := g, k := k, idx := 8 * j + c } (startRetrain j c) s

/-- CHAN_RETRAIN. -/
def execChanRetrain (g k : Nat) (s : State) : Host.Outcome State Fault Refusal := .next (clocked (doChanRetrain g k) s)

/-- PORT_RETRAIN (R448): the port goes down and retrains under R272; a port that may not train is REFUSED. -/
def doPortRetrain (g k : Nat) (s : State) : State :=
  match serviceDesc g k 0x06 s with
  | none => s
  | some d =>
    let p := slice (d.word 2) 8 5
    if !syrPortOk p s then failDesc g k .unsupported s
    else if !rdb SYR_PORT_UP p s && !mayTrain p s then failDesc g k .refused s
    else acceptRetrain { sub := 6, g := g, k := k, idx := p }
      (fun s => setPort p (fun x => { x with training := some (now16 s) }) (takePortDown p s)) s

/-- PORT_RETRAIN. -/
def execPortRetrain (g k : Nat) (s : State) : Host.Outcome State Fault Refusal := .next (clocked (doPortRetrain g k) s)

/-- Retrainings that have ended complete their descriptors: RESULT is the hold in µs, or the lanes trained. -/
def settleRetrains (s : State) : State :=
  forEach s.boot.retrains (fun v s =>
    let ended := fun (st : Status) (r : Nat) =>
      completeDesc v.g v.k st r 0 0 (setBoot (fun x => { x with retrains := x.retrains.filter (fun w => w != v) }) s)
    if v.sub = 5 then
      let j := v.idx / 8
      let c := v.idx % 8
      let h := chan (chanKey j c) s
      if h.retrainAt.isSome || s.mem.retrain.contains (j, c) then s
      else if chanFailed j c s then ended .unreachable 0
      else ended .ok h.hold
    else if rdb SYR_PORT_UP v.idx s then ended .ok (rd SYR_PORT_LANES v.idx s)
    else if (syrPort v.idx s).training.isNone then ended .unreachable 0
    else s) s

/-! ## The compute-partial reset (R434) -/

/-- Every COPY that runs ends ABORTED: its panel mover is reset. -/
def abortCopies (s : State) : State :=
  forEach s.xlat.jobs (fun p s => match p.2.who with
    | .copy g k =>
      let mine := fun (w : XWait) => match w.purpose with | .piece j _ => j == p.1 | _ => false
      failDesc g k .aborted (dropJob p.1 { s with xlat := { s.xlat with
        waits := s.xlat.waits.filter (fun w => !mine w), faults := s.xlat.faults.filter (fun w => !mine w),
        batches := s.xlat.batches.map (fun b => { b with waits := b.waits.filter (fun w => !mine w) }) } })
    | _ => s) s

/-- A TILE_OUT or TILE_IN that runs ends ABORTED: buckets moved stay where they are, and the tile ends out of service (R445). -/
def abortTileChange (s : State) : State :=
  match s.boot.svc with
  | v :: _ =>
    if 2 < v.sub ∨ v.phase = 0 then s else
    let s := match s.mem.buckets with
      | (b, _) :: _ => clrB SC_STATUS_MOVING 0 (clrB SLICE_STEER_MOVING b s)
      | [] => s
    let s := releaseHeld (setMem (fun m => { m with buckets := [] }) s)
    endSvc v .aborted 0 (wr GRV_STATUS_STATE v.idx 3 s)
  | [] => s

/-- The reset goes on once the directory holds nothing but L: slices write back and invalidate, every tile is reset, held work
is released, and the owners of extents are told (R434, steps 3 to 5). -/
def settlePartial (s : State) : State :=
  if !tilesHeld s then s else
  let s := evictAll s
  if !dirEmpty s then s else
  let s := forEach (List.range (tiles s)) resetTile (flushSlices s)
  let s := setBoot (fun x => { x with partialAt := none }) s
  resumeRings (hubEvent (extentHolders s) 0x0007 .aborted 0 s)

/-- PARTIAL_RESET (R433 to R435): HUB_RST.PARTIAL is written, or an engine or a panel mover fails beyond recovery. -/
def doPartialReset (s : State) : State :=
  if s.boot.bring.isSome || tilesHeld s then s else
  let s := bumpSat HUB_BOOT_PARTIALS 0 1 (setBoot (fun x => { x with partialAt := some (now16 s) }) s)
  let s := abortTileChange s
  let s := forEach (List.range (tiles s)) (fun t s => match (grv t s).run with
    | some r => if r.work.kind = 2 then s else abortRun t s
    | none => s) s
  let s := abortCopies (abortBatches (fun _ => true) s)
  settlePartial (forEach (s.syr.runs.map Prod.fst) (fun n s => failColl n .aborted none s) s)

/-- PARTIAL_RESET. -/
def execPartialReset (s : State) : Host.Outcome State Fault Refusal := .next (clocked doPartialReset s)

end Sys2Proof.Machine
end

