-- ==== Sys2Proof/Machine/Calendar.lean ====
section
/-! DEFINITION. Sys2Proof/Machine/Calendar.lean: arming, cancelling and firing calendar entries, arrival words and the exit from a
low-power state for a mark (spec/02_ruling_and_calendar.md R45 to R58). -/

namespace Sys2Proof.Machine

open Sys2Proof

/-! ## Arming (R45, R46, Tables 6 to 8) -/

/-- The entry that an image spells (Table 6). -/
def calOfWords (w : List Nat) : CalEntry :=
  let a := nth 0 w 1
  let b := nth 0 w 2
  { mark := wrap 64 (nth 0 w 0), action := slice a 0 4, gateEn := bit a 4, localOk := bit a 5, stepDiscard := bit a 6, notify := bit a 7,
    fn := slice a 8 6, gate := slice a 16 10, thresh := slice a 32 32, period := slice b 0 32, rep := slice b 32 8,
    thrStep := slice b 40 8, tag := slice b 48 16, arg := wrap 64 (nth 0 w 3) }

/-- ARG holds a reserved field or value (Table 7). -/
def argReserved (e : CalEntry) : Bool :=
  match e.action with
  | 1 => slice e.arg 48 16 != 0
  | 2 => slice e.arg 32 32 != 0
  | 3 => slice e.arg 48 16 != 0
  | 4 => slice e.arg 12 52 != 0 || slice e.arg 5 3 != 0
  | 5 => slice e.arg 36 28 != 0 || slice e.arg 0 4 == 0 || decide (3 < slice e.arg 0 4)
  | 6 => slice e.arg 20 44 != 0 || decide (1 < slice e.arg 0 2) || (slice e.arg 0 2 == 0 && slice e.arg 2 2 == 0)
  | _ => true

/-- What the entry names is not the requester's (the first row of Table 8); `r` asks, and the entry belongs to FUNCTION. -/
def armDenied (r : Nat) (e : CalEntry) (s : State) : Bool :=
  let own := e.action == 5 || e.action == 6
  (r != 0 && (e.fn != r || own)) || (own && e.fn != 0) || (e.gateEn && !arrivalOwned e.fn e.gate s) ||
  (match e.action with
   | 1 => (List.range 8).any (fun j => bit e.arg j && !(decide (j < chipSites s) && siteOwned e.fn j s))
   | 2 => decide (ringCount ≤ slice e.arg 0 16) || ringFn (slice e.arg 0 16) != e.fn
   | 3 => (look s.syr.colls (slice e.arg 0 16)).any (fun c => c.fn != e.fn)
   | _ => false)

/-- The entry, or what it asks for, is not supported (the second row). -/
def armUnsupported (a : Nat) (e : CalEntry) (s : State) : Bool :=
  slice a 14 2 != 0 || slice a 26 6 != 0 || argReserved e || (e.localOk && remoteFacing e.action) ||
  (e.action == 2 && !rdb RING_CFG_CAL_HELD (slice e.arg 0 16) s)

/-- Entries that function `n` holds. -/
def calHeldBy (n : Nat) (s : State) : Nat := (s.cal.entries.filter (fun p => p.2.fn == n)).length

/-- What Table 8 makes of an entry, with the precedence of R17. -/
def armStatus (r : Nat) (w : List Nat) (s : State) : Status :=
  let e := calOfWords w
  Status.worst [if armDenied r e s then .accessDenied else .ok, if armUnsupported (nth 0 w 1) e s then .unsupported else .ok,
    if rd CAL_QUOTA_MAX e.fn s ≤ calHeldBy e.fn s ∨ 8192 ≤ s.cal.entries.length then .quota else .ok,
    if rd RULE_STATUS_STATE 0 s = 0 then .refused else .ok]

/-- An accepted entry takes the lowest free index; a mark at or below the position is due at once and late (R49, R51). -/
def armEntry (w : List Nat) (s : State) : Nat × State :=
  let e := calOfWords w
  let i := (firstBelow 8192 (fun i => (calEntry i s).isNone)).getD 0
  let past := decide (e.mark ≤ pos s)
  (i, putCal i { e with late := past, dueAt := if past && !posHeld s then some (now16 s) else none } s)

/-- CAL_ARM (R46): by a descriptor, or by Herva firmware, which arms in any function's name with no record (R45). -/
def doCalArm (a : CalAsk) (s : State) : State :=
  match a with
  | .herva w _ => if armStatus 0 w s = .ok then (armEntry w s).2 else s
  | .desc g k =>
    match runningDesc g k 0x20 s with
    | none => s
    | some d =>
      let w := [d.word 2, d.word 3, d.word 4, d.word 5]
      let st := armStatus (ringFn g) w s
      if st ≠ .ok then failDesc g k st s
      else completeDesc g k .ok (armEntry w s).1 0 0 (armEntry w s).2

/-- CAL_ARM. -/
def execCalArm (a : CalAsk) (s : State) : Host.Outcome State Fault Refusal := .next (clocked (doCalArm a) s)

/-! ## Cancelling (R56, R352) -/

/-- Requester `r` may cancel entry `i`, of which it shows an image: FUNCTION and TAG match, and a VF owns it. -/
def mayCancel (r i : Nat) (w : List Nat) (s : State) : Option CalEntry :=
  (calEntry i s).filter (fun e => e.fn == (calOfWords w).fn && e.tag == (calOfWords w).tag && (r == 0 || e.fn == r))

/-- CAL_CANCEL: every firing that has not begun is withdrawn; RESULT is the firings made. -/
def doCalCancel (a : CalAsk) (s : State) : State :=
  match a with
  | .herva w i => if (mayCancel 0 i w s).isSome then freeCal i s else s
  | .desc g k =>
    match runningDesc g k 0x21 s with
    | none => s
    | some d =>
      let i := slice (d.word 6) 0 13
      match mayCancel (ringFn g) i [d.word 2, d.word 3, d.word 4, d.word 5] s with
      | none => failDesc g k .accessDenied s
      | some e => completeDesc g k .ok e.made 0 0 (freeCal i s)

/-- CAL_CANCEL. -/
def execCalCancel (a : CalAsk) (s : State) : Host.Outcome State Fault Refusal := .next (clocked (doCalCancel a) s)

/-! ## Firing (R49 to R55) -/

/-- The half nanosecond whose index mod 64 is `n` begins in this nanosecond (R396). -/
def localSlot (n : Nat) (s : State) : Bool := now16 s / 8 % 64 == n || (now16 s / 8 + 1) % 64 == n

/-- Entry `e` may fire now (R49): due, its gate satisfied within CAL_GATE_LIMIT (R48), not held (R50); in confidential mode a local
entry of function n issues in the half nanosecond whose index mod 64 is n (R396). -/
def canFire (e : CalEntry) (s : State) : Bool :=
  e.dueAt.isSome && gateOpen e s && !e.gateMiss && !calHeld e s &&
  (!rdb SEC_STATUS_CONFIDENTIAL 0 s || remoteFacing e.action || localSlot e.fn s)

/-- Firings in the 64 ru that the position stands in (R52). -/
def inWindow (s : State) : Nat := if pos s < s.cal.winStart + 64 then s.cal.winCount else 0

/-- It is entry `i`'s turn: entries fire in MARK order (R50, R57), and past 64 in a window in index order (R52). -/
def turnOf (i : Nat) (e : CalEntry) (s : State) : Bool :=
  let others := s.cal.entries.filter (fun p => p.1 != i && canFire p.2 s)
  if inWindow s < 64 then others.all (fun p => decide (e.mark ≤ p.2.mark)) else others.all (fun p => decide (i < p.1))

/-- One more firing in the window. -/
def noteFired (s : State) : State :=
  { s with cal := { s.cal with
      winStart := if pos s < s.cal.winStart + 64 then s.cal.winStart else pos s, winCount := inWindow s + 1 } }

/-- The firing is late (R51); the half nanoseconds that R52 adds to the excess over 64 do not make it so. -/
def lateNow (e : CalEntry) (s : State) : Bool :=
  firingLate { e with dueAt := e.dueAt.map (fun t => t + 8 * (inWindow s - 63)) } s

/-- What a doorbell finds at SITE_j (R54, R234): its status, and whether the site is retraining and has it later. -/
def doorbellAt (j ch : Nat) (s : State) : Status × Bool :=
  if !(siteReady j s || siteState j s == 5) then (.unreachable, false)
  else if !siteCxl j s && decide (dbChannels j s ≤ ch) then (.unsupported, false)
  else (.ok, !siteReady j s)

/-- The doorbell goes to SITE_j: a DOORBELL message, which waits while the site retrains (R226), or a CXL.io write (R240). -/
def sendDoorbell (f : Firing) (mark j : Nat) (s : State) : State :=
  let ch := slice f.arg 8 8
  let v := slice f.arg 16 32
  match doorbellAt j ch s with
  | (.ok, wait) =>
    if siteCxl j s then (if wait then s else cxlDoorbell j ch v s)
    else zcpSend j { opc := 0x20, cls := 5, hdr := hdrDoorbell ch v f.counted mark } s
  | _ => s

/-- `s` with a firing that is issued. -/
def addFiring (f : Firing) (s : State) : State := { s with cal := { s.cal with firings := s.cal.firings ++ [f], nextId := s.cal.nextId + 1 } }

/-- The firing completes with `st`, beside what it has so far (R17). -/
def endWith (f : Firing) (st : Status) (s : State) : State := endIssued { f with status := Status.worse f.status st } s

/-- TIMED_DOORBELL (R54, R226): one status of all sites; the firing waits for those that retrain. The beacons of the crossings up
to here go first (R227). -/
def fireDoorbell (f : Firing) (mark : Nat) (s : State) : State :=
  let s := doBeaconSend s
  let js := (List.range 8).filter (bit f.arg)
  let outs : List (Nat × Status × Bool) := js.map (fun j => (j, doorbellAt j (slice f.arg 8 8) s))
  let s := forEach js (sendDoorbell f mark) s
  let f2 := { f with status := Status.worse f.status (Status.worst (outs.map (fun o => o.2.1))),
                     sites := (outs.filter (fun o => o.2.2)).map Prod.fst }
  if f2.sites.isEmpty then endIssued f2 s
  else { s with cal := { s.cal with firings := s.cal.firings.map (fun (x : Firing) => if x.id = f.id then f2 else x) } }

/-- POWER_STEP (R452, R454): a state is asked for, or PKG_CAP is changed. -/
def firePower (f : Firing) (s : State) : State :=
  if slice f.arg 0 2 = 0 then beginEntry (.firing f.id) (slice f.arg 2 2) s
  else
    let pkg := slice f.arg 4 16
    let hub := rd PWR_CAP_HUB_CAP 0 s
    if capsOk pkg hub s then endWith f .ok (setCaps pkg hub s) else endWith f .unsupported s

/-- The action of a firing. -/
def fireAction (f : Firing) (mark : Nat) (s : State) : State :=
  match f.action with
  | 1 => fireDoorbell f mark s
  | 2 =>
    if tilesHeld s then endWith f .aborted s
    else endWith f .ok (addRelease (slice f.arg 0 16) (slice f.arg 16 16) (startWork s))
  | 3 => launchColl f (slice f.arg 0 16) (slice f.arg 16 32) (startWork s)
  | 4 =>
    let st := snapStatus f.fn (slice f.arg 0 8) (slice f.arg 8 4) s
    if st = .ok then freezeSnap f.id f.fn f.arg mark f.index (startWork s) else endWith f st s
  | 5 =>
    let r := activateFw (slice f.arg 0 4) (slice f.arg 4 32) s
    endWith f r.1 r.2
  | _ => firePower f s

/-- CAL_FIRE (R49 to R54): entry `i` fires its action and is advanced; lateness is counted (R51). -/
def doCalFire (i : Nat) (s : State) : State :=
  match calEntry i s with
  | none => s
  | some e =>
    if !canFire e s || !turnOf i e s then s else
    let late := lateNow e s
    let lateness := pos s - e.mark
    let f : Firing := { id := s.cal.nextId, entry := i, fn := e.fn, tag := e.tag, index := e.firing, notify := e.notify, pos := pos s,
                        status := if late then .late else .ok, action := e.action, arg := e.arg, lateness := lateness,
                        counted := late }
    let s := count ctlUnit 0xC2 (some e.fn) 1 s
    let s := if late then countLate e.fn lateness (count ctlUnit 0xC3 (some e.fn) 1 s) else s
    fireAction f e.mark (advanceCal i { e with made := e.made + 1 } (addFiring f (noteFired s)))

/-- CAL_FIRE. -/
def execCalFire (i : Nat) (s : State) : Host.Outcome State Fault Refusal := .next (clocked (doCalFire i) s)

/-- CAL_GATE_TIMEOUT (R48): the gate is still not satisfied CAL_GATE_LIMIT ru after the mark: TIMEOUT, without firing. -/
def doCalGateTimeout (i : Nat) (s : State) : State :=
  match calEntry i s with
  | none => s
  | some e =>
    if e.dueAt.isSome && (e.gateMiss || (!gateOpen e s && decide (e.mark + rd CAL_GATE_LIMIT_LIMIT 0 s ≤ pos s))) then
      endFiring i e .timeout s
    else s

/-- CAL_GATE_TIMEOUT. -/
def execCalGateTimeout (i : Nat) (s : State) : Host.Outcome State Fault Refusal := .next (clocked (doCalGateTimeout i) s)

/-- CAL_CTL_WRITE: at 0 due entries are held, at 1 they may fire again (Table 10). -/
def doCalCtlWrite (en : Bool) (s : State) : State := wrb CAL_CTL_ENABLE 0 en s

/-- CAL_CTL_WRITE. -/
def execCalCtlWrite (en : Bool) (s : State) : Host.Outcome State Fault Refusal := .next (clocked (doCalCtlWrite en) s)

/-- ARRIVAL_WRITE: the PF sets an arrival word (Table 10). -/
def doArrivalWrite (g v : Nat) (s : State) : State := if 1024 ≤ g then s else wr ARRIVAL_VALUE g v s

/-- ARRIVAL_WRITE. -/
def execArrivalWrite (g v : Nat) (s : State) : Host.Outcome State Fault Refusal := .next (clocked (doArrivalWrite g v) s)

/-! ## Low-power states (R58) -/

/-- The first entry that falls due within the exit bound of state `t`. -/
def exitEntry (t : Nat) (s : State) : Option Nat :=
  let hi := posAfter (stretched (exitBound t) s) s
  (s.cal.entries.find? (fun p => decide (p.2.mark ≤ hi))).map Prod.fst

/-- CAL_LOW_POWER_EXIT (R58): exit begins at an entry's MARK less the exit bound of the state; an entry to a state takes it as a
wake (Table 3 of spec/18_power_and_thermal.md). -/
def doCalLowPowerExit (s : State) : State :=
  let t := match s.power.entry with
    | some e => e.target
    | none => pwrState s
  if t = 0 then s else
  match exitEntry t s with
  | none => s
  | some i => if pwrState s = 1 then leaveH1 s else raiseWake 0x14 i s

/-- CAL_LOW_POWER_EXIT. -/
def execCalLowPowerExit (s : State) : Host.Outcome State Fault Refusal := .next (clocked doCalLowPowerExit s)

end Sys2Proof.Machine
end

