-- ==== Sys2Proof/Machine/Host.lean ====
section
/-! DEFINITION. Sys2Proof/Machine/Host.lean: configuration requests, the memory BARs other than BAR 0, AtomicOps, CXL.mem, function-level
and hot reset (spec/12_host_endpoint.md R311 to R327). -/

namespace Sys2Proof.Machine

open Sys2Proof

/-! ## Completions (R318, R323) -/

/-- A host read or AtomicOp completes: 0 Successful Completion, 1 Unsupported Request, 2 Request Retry Status, 4 Completer Abort. -/
def hostCpl (tag cpl : Nat) (data : List Byte) (s : State) : State :=
  emit { kind := .hostCpl, tag := tag, args := [cpl], data := data } s

/-- Unsupported Request at function `fn`: counted and reported; a read or AtomicOp completes so, a posted write is discarded. -/
def unsupportedReq (fn tag : Nat) (posted : Bool) (s : State) : State :=
  let s := reportAer fn 2 (bumpSat HOST_COUNT_UR 0 1 s)
  if posted then s else hostCpl tag 1 [] s

/-- Completer Abort: counted and reported; a posted write is discarded and logged instead (Table 4). -/
def completerAbort (fn bar off tag : Nat) (posted : Bool) (s : State) : State :=
  if posted then hostErr 1 fn bar off s else hostCpl tag 4 [] (reportAer fn 3 (bumpSat HOST_COUNT_CA 0 1 s))

/-- Table 4: what a status of the hub makes of a host request. -/
def hostOutcome (fn bar off tag : Nat) (posted : Bool) (st : Status) (data : List Byte) (s : State) : State :=
  match st with
  | .ok | .late => if posted then s else hostCpl tag 0 data s
  | .accessDenied | .unreachable | .unsupported => unsupportedReq fn tag posted s
  | _ => completerAbort fn bar off tag posted s

/-! ## Function-level reset (R326) -/

/-- FLR of one function begins: it is silenced; a TDI that is not CONFIG_UNLOCKED is on its way there (R399). -/
def beginFlr (n : Nat) (s : State) : State :=
  if (fnCfg n s).flrAt.isSome then s else
  let s := silenceFn n (setFnCfg n (fun c => { c with flrAt := some (now16 s) }) s)
  if rd FUNC_CFG_TDI n s = 0 then s else unlockFn n none s

/-- FLR of the PF covers every VF and clears VF Enable. -/
def initiateFlr (n : Nat) (s : State) : State :=
  let s := raiseWake 0x15 n s
  if n = 0 then
    let s := forEach (List.range 64) beginFlr { s with host := { s.host with waits := [] } }
    { s with host := { s.host with vfEnable := false, vfMse := false } }
  else beginFlr n s

/-- FLR_INITIATE (R326): Initiate FLR is written for function `n`. -/
def doFlrInitiate (n : Nat) (s : State) : State := if 64 ≤ n then s else initiateFlr n s

/-- FLR_INITIATE. -/
def execFlrInitiate (n : Nat) (s : State) : Host.Outcome State Fault Refusal := .next (clocked (doFlrInitiate n) s)

/-- Function `n`'s MSI-X table entries as they are at reset (R326). -/
def dropVectors (n : Nat) (s : State) : State :=
  { s with host := { s.host with msix := s.host.msix.filter (fun p => p.1 / 2048 != n) } }

/-- FLR of one function ends: its objects are freed, its registers and configuration space are restored. -/
def endFlr (n : Nat) (s : State) : State :=
  if (fnCfg n s).flrAt.isNone then s else
  -- the park root goes with it (R383)
  let s := setSec (fun x => { x with parkRoots := del n x.parkRoots }) s
  dropVectors n (setFnCfg n (fun _ => {}) (resetFn n (freeObjects n s)))

/-- FLR_COMPLETE (R326): within 10 ms FLR of function `n` is complete. -/
def doFlrComplete (n : Nat) (s : State) : State := if n = 0 then forEach (List.range 64) endFlr s else endFlr n s

/-- FLR_COMPLETE. -/
def execFlrComplete (n : Nat) (s : State) : Host.Outcome State Fault Refusal := .next (clocked (doFlrComplete n) s)

/-- The host link comes up with what it negotiates, or is down. -/
def setLink (l : HostLink) (s : State) : State :=
  let up := l.rate != 0
  s |> wr HOST_STATUS_RATE 0 l.rate |> wr HOST_STATUS_WIDTH 0 (if up then l.width else 0) |> wrb HOST_STATUS_FLIT 0 (up && l.flit)
    |> wrb HOST_STATUS_CXL_CACHE 0 (up && l.cxlCache) |> wrb HOST_STATUS_CXL_MEM 0 (up && l.cxlMem)

/-- HOT_RESET (R324): a hot reset, or with `link` the link leaving DL_Active, after which it trains to `link`: an FLR of the PF. -/
def doHotReset (link : Option HostLink) (s : State) : State :=
  let s := initiateFlr 0 (bumpSat HOST_COUNT_LINK_DOWN 0 1 s)
  match link with
  | some l => setLink l s
  | none => s

/-- HOT_RESET. -/
def execHotReset (link : Option HostLink) (s : State) : Host.Outcome State Fault Refusal := .next (clocked (doHotReset link) s)

/-! ## Configuration space (R312 to R315) -/

/-- Configuration space is ready: 200 ms after the release of PERST# or PWR_GOOD at the latest (R313). -/
def cfgReady (s : State) : Bool :=
  s.host.cfgReady || (match s.boot.bring with
    | some (_, t) => due (t + us16 200000) s
    | none => true)

/-- The word of a register, of the fields that the manual names: a VF's Device ID is the SR-IOV VF Device ID (log entry 15),
and Initiate FLR reads 0. What it does not give is a free value: the rest of Device Control, and the registers that PCIe alone
defines. -/
def cfgRead (n : Nat) (r : CfgReg) (s : State) : Nat × State :=
  let c := fnCfg n s
  let word := fun (v : Nat) => (v, s)
  match r with
  | .ids => word (0x1F9C + 2 ^ 16 * (if n = 0 then 0x1840 else 0x1841))
  | .classRev => word (2 ^ 8 * 0x120000 + rd HUB_IDENT_STEPPING 0 s)
  | .subsystem => word s.boot.subsys
  | .serial h => word (slice (rd DIE_SERIAL_SERIAL 0 s) (if h then 32 else 0) 32)
  | .command => word (2 * b2n (n == 0 && c.mse) + 4 * b2n c.bme)
  | .pmcs => word (if n == 0 && c.d3 then 3 else 0)
  | .devctl => (freeVal 15 s, drew s)
  | .devsta => word (2 ^ 5 * b2n (s.timers.reqs.any (fun q => q.cls == 3 && q.port == 77 && q.fn == n)))
  | .devctl2 => word c.devctl2
  | .sriovCtl => word (if n = 0 then b2n s.host.vfEnable + 2 ^ 3 * b2n s.host.vfMse else 0)
  | .vfDevice => word (if n = 0 then 0x1841 else 0)
  | .msixCtl => word (vectorCount n - 1 + 2 ^ 14 * b2n c.msixMask + 2 ^ 15 * b2n c.msixEn)
  | .ats => word (2 ^ 15 * b2n c.atsEn)
  | .pri => word (b2n c.priEn)
  | .priAlloc => word c.priAlloc
  | .pasid => word (b2n (fnCfg 0 s).pasidEn)
  | .dvsec k => word (if k = 0 then regImage HUB_IDENT_blk 0 s else regImage HUB_ID_blk 0 s)
  | .hdmDecoder => word (b2n (rdb HOST_HDM_COMMITTED 0 s))
  | .other _ => (freeVal 32 s, drew s)

/-- The host timeout of a Completion Timeout Value, in µs (Table 3a). -/
def hostTimeout (v : Nat) : Nat :=
  match v with
  | 1 => 100
  | 2 => 10000
  | 5 => 55000
  | 6 => 210000
  | _ => 50000

/-- DEVCTL2_WRITE (R314): the PF's Completion Timeout Value. -/
def doDevctl2Write (v : Nat) (s : State) : State :=
  wr TMO_HOST_US 0 (hostTimeout (wrap 4 v)) (setFnCfg 0 (fun c => { c with devctl2 := wrap 4 v }) s)

/-- DEVCTL2_WRITE. -/
def execDevctl2Write (v : Nat) (s : State) : Host.Outcome State Fault Refusal := .next (clocked (doDevctl2Write v) s)

/-- What Bus Master Enable, D3hot or a mask held back for function `n` goes on (R315). -/
def releaseFn (n : Nat) (s : State) : State :=
  let s := if busMaster n s then releaseBatches n (pumpWaiting (pumpMsix n s)) else s
  forEach (ringsOf n s) resumeRing s

/-- Vectors of function `n` whose mask no longer stands and which are pending signal now. -/
def unmaskMsix (n : Nat) (s : State) : State :=
  if !(fnCfg n s).msixEn || (fnCfg n s).msixMask then s else
  let mine := s.host.msix.filter (fun p => p.1 / 2048 == n && p.2.pend && !p.2.masked)
  forEach mine (fun p s =>
    sendMsix n (p.1 % 2048) { s with host := { s.host with msix := put p.1 { p.2 with pend := false } s.host.msix } }) s

/-- A configuration write to a register of function `n`. -/
def cfgWrite (n : Nat) (r : CfgReg) (v : Nat) (s : State) : State :=
  match r with
  | .command => releaseFn n (setFnCfg n (fun c => { c with mse := n == 0 && bit v 1, bme := bit v 2 }) s)
  | .pmcs => if n = 0 then releaseFn 0 (setFnCfg 0 (fun c => { c with d3 := v % 4 == 3 }) s) else s
  | .devctl => if bit v 15 then initiateFlr n s else s
  | .devctl2 => if n = 0 then doDevctl2Write v s else s
  | .sriovCtl =>
    if n ≠ 0 then s else
    let s := if s.host.vfEnable && !bit v 0 then forEach ((List.range 64).drop 1) beginFlr s else s
    { s with host := { s.host with vfEnable := bit v 0, vfMse := bit v 3 } }
  | .msixCtl => unmaskMsix n (setFnCfg n (fun c => { c with msixEn := bit v 15, msixMask := bit v 14 }) s)
  | .ats => setFnCfg n (fun c => { c with atsEn := bit v 15 }) s
  | .pri =>
    -- PRI Enable at 0 ends the refusals of a Response Failure (R371)
    let s := if bit v 0 then s else setXlat (fun x => { x with blocked := x.blocked.filter (· != n) }) s
    setFnCfg n (fun c => { c with priEn := bit v 0 }) s
  | .priAlloc => setFnCfg n (fun c => { c with priAlloc := wrap 32 v }) s
  | .pasid => if n = 0 then setFnCfg 0 (fun c => { c with pasidEn := bit v 0 }) s else s
  | .hdmDecoder => if n = 0 then wrb HOST_HDM_COMMITTED 0 (bit v 0) s else s
  | .ids | .classRev | .subsystem | .serial _ | .devsta | .vfDevice | .dvsec _ | .other _ => s

/-- Function `n`'s configuration requests are retried: until configuration space is ready (R313), while an FLR of the function
runs (R326), and while its TDI is in ERROR (R327), where the write that initiates an FLR is taken (log entry 161). -/
def cfgRetry (n : Nat) (r : CfgReg) (w : Option Nat) (s : State) : Bool :=
  !cfgReady s || (fnCfg n s).flrAt.isSome ||
    (n != 0 && rd FUNC_CFG_TDI n s == 3 && !(match r, w with | .devctl, some v => bit v 15 | _, _ => false))

/-- CONFIG_REQUEST (R313, R326, R327): a read, or a write of `w`, of a register of function `n`, or Request Retry Status. -/
def doConfigRequest (n : Nat) (r : CfgReg) (w : Option Nat) (tag : Nat) (s : State) : State :=
  let s := raiseWake 0x13 (n % 64) s
  let cpl := fun (c : Nat) (d : List Byte) (s : State) => emit { kind := .cfgCpl, dest := n, tag := tag, args := [c], data := d } s
  if cfgRetry n r w s then cpl 2 [] s
  else if 64 ≤ n ∨ (n ≠ 0 ∧ !s.host.vfEnable) then cpl 1 [] s
  else match w with
    | some v => cpl 0 [] (cfgWrite n r v s)
    | none =>
      let x := cfgRead n r s
      cpl 0 (toBytes 4 x.1) x.2

/-- CONFIG_REQUEST. -/
def execConfigRequest (n : Nat) (r : CfgReg) (w : Option Nat) (tag : Nat) (s : State) : Host.Outcome State Fault Refusal :=
  .next (clocked (doConfigRequest n r w tag) s)

/-! ## Chiplet windows (R229, R241, R317) -/

/-- A host access of `size` bytes waits for SITE_j; its number is the old `nextAcc`. -/
def addAcc (j size tag : Nat) (write stylus : Bool) (s : State) : State :=
  let a : HostAcc := { id := s.host.nextAcc, site := j, write := write, size := size, tag := tag, stylus := stylus }
  { s with host := { s.host with nextAcc := s.host.nextAcc + 1, accs := s.host.accs ++ [a] } }

/-- All ones with successful completion, or a write discarded: no message is sent (R229). -/
def allOnes (size tag : Nat) (write : Bool) (s : State) : State := if write then s else hostCpl tag 0 (List.replicate size 0xFF) s

/-- A CXL request to SITE_j: CXL.io (0x21) or CXL.mem (0x22), address, bytes, whether it writes, and the data. -/
def cxlForward (j kind id addr size : Nat) (write : Bool) (data : List Byte) (s : State) : State :=
  sendReq { cls := 1, port := 64 + j, fn := 0, purpose := .window j id write,
            out := { kind := .cxlSite, dest := j, args := [kind, addr, size, b2n write], data := data } } s

/-- A poisoned write to a BAR of function `fn`: its data is not used (R323). Without memory space it is an Unsupported Request
like any other (R315). -/
def poisonedWrite (fn bar off : Nat) (s : State) : State :=
  if memSpace fn s then poisonedTlp fn bar off s else unsupportedReq fn 0 true s

/-- BAR2_ACCESS (R317, R229): `off` within the BAR; a write carries the value, poisoned or not. -/
def doBar2Access (off size : Nat) (write : Bool) (v tag : Nat) (poison : Bool) (s : State) : State :=
  let s := raiseWake 0x13 0 s
  let j := off / 2 ^ 24
  let a := off % 2 ^ 24
  if write && poison then poisonedWrite 0 2 off s
  else if !memSpace 0 s || 8 ≤ j || !(size == 4 || size == 8) || a % size != 0 then unsupportedReq 0 tag write s
  else if !siteOn j s || !rdb SITE_CTL_ENABLE j s || !siteReady j s then allOnes size tag write s
  else
    let id := s.host.nextAcc
    let s := addAcc j size tag write false s
    if siteCxl j s then cxlForward j 0x21 id a size write (if write then toBytes size v else []) s
    else
      let opc := if write then 0x0C else 0x0B
      zcpSend j { opc := opc, cls := 1, hdr := hdrM opc (size == 8) a (if write then wrap (8 * size) v else 0),
                  purpose := some (.window j id write) } s

/-- BAR2_ACCESS. -/
def execBar2Access (off size : Nat) (write : Bool) (v tag : Nat) (poison : Bool) (s : State) : Host.Outcome State Fault Refusal :=
  .next (clocked (doBar2Access off size write v tag poison) s)

/-- BAR4_SITE_WINDOW_ACCESS (R317, R241): `off` within the lower half of BAR 4; `data` of a write; `stylus`: a Stylus coherent
window asks, at the same address, and not the host; `poison`: the host's write is poisoned. Reserved space reads zero and ignores
writes (R25). -/
def doBar4SiteWindowAccess (off size : Nat) (write : Bool) (data : List Byte) (tag : Nat) (stylus poison : Bool) (s : State) : State :=
  let s := if stylus then s else raiseWake 0x13 0 s
  let j := off / 2 ^ 36
  let a := off % 2 ^ 36
  if !stylus && write && poison then poisonedWrite 0 4 off s
  else if !stylus && (!memSpace 0 s || decide (8 ≤ j)) then unsupportedReq 0 tag write s
  else if 8 ≤ j ∨ !siteOn j s ∨ !siteCxl j s ∨ rd SITE_MWIN_SIZE j s * 2 ^ 30 < a + size then
    answerAcc stylus write tag (List.replicate size 0) s
  else if !siteReady j s then answerAcc stylus write tag (List.replicate size 0xFF) s
  else
    let id := s.host.nextAcc
    cxlForward j 0x22 id (rd SITE_MWIN_HDM_BASE j s + a) size write data (addAcc j size tag write stylus s)

/-- BAR4_SITE_WINDOW_ACCESS. -/
def execBar4SiteWindowAccess (off size : Nat) (write : Bool) (data : List Byte) (tag : Nat) (stylus poison : Bool) (s : State) :
    Host.Outcome State Fault Refusal := .next (clocked (doBar4SiteWindowAccess off size write data tag stylus poison) s)

/-! ## The hub memory aperture (R317, R318) -/

/-- The hub-local offset of aperture offset `a`, where all `n` bytes lie in the aperture. -/
def apertureAt (a n : Nat) (s : State) : Option Nat :=
  if rdb HOST_APERTURE_ENABLE 0 s && decide (a + n ≤ rd HOST_APERTURE_SIZE_GIB 0 s * 2 ^ 30) then
    some (rd HOST_APERTURE_BASE_GIB 0 s * 2 ^ 30 + a) else none

/-- The function whose extents govern the aperture. -/
def apertureReqr (s : State) : Reqr := .agent (rd HOST_APERTURE_FUNCTION 0 s) 77

/-- What an access of the aperture that names no hub memory does: a write is dropped, a read of memory space reads zeros; an
AtomicOp, or any request without memory space, is an Unsupported Request (R317). -/
def apertureMiss (r : HostReq) (s : State) : State :=
  if !memSpace 0 s ∨ r.kind = 2 then unsupportedReq 0 r.tag (r.kind == 1) s
  else if r.kind = 1 then s else hostCpl r.tag 0 (List.replicate r.len 0) s

/-- An access of the aperture whose lines are at home: what the hub's status makes of it (Table 4). -/
def apertureGo (r : HostReq) (off : Nat) (s : State) : State :=
  let at' := 2 ^ 39 + r.a
  match r.kind with
  | 0 =>
    let g := homeGet (apertureReqr s) off r.len s
    hostOutcome 0 4 at' r.tag false g.1 g.2.1 g.2.2
  | 1 =>
    let w := homePut (apertureReqr s) off r.data s
    hostOutcome 0 4 at' r.tag true w.1 [] w.2
  | _ =>
    let g := homeGet (apertureReqr s) off r.len s
    if !g.1.good then hostOutcome 0 4 at' r.tag false g.1 [] g.2.2 else
    let new := atomicNew r.op r.len (ofBytes g.2.1) (wrap (8 * r.len) r.x) (wrap (8 * r.len) r.y)
    let w := homePut (apertureReqr s) off (toBytes r.len new) g.2.2
    hostOutcome 0 4 at' r.tag false w.1 g.2.1 w.2

/-! ## CXL.mem (R321, R322) -/

/-- The hub-local offset of a device physical address, where it lies in the HDM range and CXL.mem is on. -/
def hdmAt (d : Nat) (s : State) : Option Nat :=
  if rdb HOST_STATUS_CXL_MEM 0 s && decide (d < rd HOST_HDM_EXTENTS 0 s * 2 ^ 30) then
    some (rd HOST_HDM_BASE_GIB 0 s * 2 ^ 30 + d / 64 * 64) else none

/-- A CXL.mem read that cannot be read answers all ones with poison clear; a write is dropped. -/
def hdmOnes (r : HostReq) (s : State) : State :=
  if r.kind = 4 then s else emit { kind := .cxlMem, tag := r.tag, args := [0], data := List.replicate 64 0xFF } s

/-- A CXL.mem access whose line is at home; an uncorrectable granule is recorded and reported. -/
def hdmGo (r : HostReq) (off : Nat) (s : State) : State :=
  if r.kind = 4 then emit { kind := .cxlMem, tag := r.tag, args := [1] } (homePut .hdm off (r.data.take 64) s).2
  else
    let g := homeGet .hdm off 64 s
    if g.1.good then emit { kind := .cxlMem, tag := r.tag, args := [0], data := g.2.1 } g.2.2
    else if g.1 = .dataErr then
      let d := r.a / 64 * 64
      hdmOnes r (g.2.2 |> logRec .cxlMedia [d] |> postEvent 0 0x0001 (locate off s).site .dataErr off |> reportAer 0 7
        |> hostErr 4 0 0 d)
    else hdmOnes r g.2.2

/-! ## Host accesses to hub memory, in order (R198, R200, R205) -/

/-- The hub memory that a host access names: offset, length, and whether it writes. -/
def hostRange (r : HostReq) (s : State) : Option (Nat × Nat × Bool) :=
  if r.kind < 3 then (if memSpace 0 s then (apertureAt r.a r.len s).map (fun off => (off, r.len, r.kind != 0)) else none)
  else (hdmAt r.a s).map (fun off => (off, 64, r.kind == 4))

/-- The lines of a host access are at home, or it names none. -/
def hostReady (r : HostReq) (s : State) : Bool :=
  match hostRange r s with
  | some g => claimed g.1 g.2.1 g.2.2 s
  | none => true

/-- A host access is made. -/
def hostGo (r : HostReq) (s : State) : State :=
  match hostRange r s with
  | some g => if r.kind < 3 then apertureGo r g.1 s else hdmGo r g.1 s
  | none => if r.kind < 3 then apertureMiss r s else if rdb HOST_STATUS_CXL_MEM 0 s then hdmOnes r s else s

/-- The holders of the lines of a host access are snooped. -/
def hostClaim (r : HostReq) (s : State) : State :=
  match hostRange r s with
  | some g => claim (if r.kind < 3 then apertureReqr s else .hdm) g.1 g.2.1 g.2.2 s
  | none => s

/-- The oldest host access that waits is made once its lines are at home; until then their holders are snooped. -/
def nextHost (s : State) : State :=
  match s.host.waits with
  | [] => s
  | r :: t => if hostReady r s then hostGo r { s with host := { s.host with waits := t } } else hostClaim r s

/-- The host accesses that wait go on as far as they can, in order. -/
def settleHost (s : State) : State := forEach s.host.waits (fun _ s => nextHost s) s

/-- A host access waits its turn, and goes on as far as it can. -/
def hostRequest (r : HostReq) (s : State) : State := settleHost { s with host := { s.host with waits := s.host.waits ++ [r] } }

/-- APERTURE_ACCESS (R317): a read of `len` bytes, or a write of `data`, poisoned or not, at aperture offset `a`. -/
def doApertureAccess (a len : Nat) (write : Bool) (data : List Byte) (tag : Nat) (poison : Bool) (s : State) : State :=
  let s := raiseWake 0x13 0 s
  if write && poison then poisonedWrite 0 4 (2 ^ 39 + a) s else
  hostRequest { kind := b2n write, a := a, len := if write then data.length else len, data := data, tag := tag } s

/-- APERTURE_ACCESS. -/
def execApertureAccess (a len : Nat) (write : Bool) (data : List Byte) (tag : Nat) (poison : Bool) (s : State) :
    Host.Outcome State Fault Refusal := .next (clocked (doApertureAccess a len write data tag poison) s)

/-- ATOMICOP (R311, R317): `op` 0 FetchAdd, 1 Swap, 2 CAS of `n` bytes at offset `a` of the aperture, with operands `x` and, for CAS,
`y`; anywhere else, or of another form, it is an Unsupported Request. -/
def doAtomicop (aperture : Bool) (a op n x y tag : Nat) (s : State) : State :=
  let s := raiseWake 0x13 0 s
  let form := aperture && decide (op < 3) && (n == 4 || n == 8) && a % n == 0
  if !form then unsupportedReq 0 tag false s
  else hostRequest { kind := 2, a := a, len := n, tag := tag, op := op, x := x, y := y } s

/-- ATOMICOP. -/
def execAtomicop (aperture : Bool) (a op n x y tag : Nat) (s : State) : Host.Outcome State Fault Refusal :=
  .next (clocked (doAtomicop aperture a op n x y tag) s)

/-- The extents that a BASE_GIB and EXTENTS name. -/
def hdmRange (base k : Nat) : List Nat := (List.range k).map (· + base)

/-- HOST_HDM_WRITE (R321, R389): the PF writes BASE_GIB and EXTENTS; a write that breaks a rule leaves the register unchanged and is
logged. -/
def doHostHdmWrite (base k : Nat) (s : State) : State :=
  if rdb HUB_GLOBAL_SETUP_LOCK 0 s || rdb HOST_HDM_COMMITTED 0 s then s else
  let base := wrap 14 base
  let k := wrap 11 k
  let new := hdmRange base k
  let bad := decide (1907 < k) || decide (memSize s / 2 ^ 30 < base + k) || new.any (fun e => extKind e s != 0 && extKind e s != 3)
  if bad then logRec .hdmRefused [base, k] (hostErr 5 0 0 0x200018 s) else
  let left := (hdmRange (rd HOST_HDM_BASE_GIB 0 s) (rd HOST_HDM_EXTENTS 0 s)).filter (fun e => extKind e s == 3 && !new.contains e)
  let s := if left.isEmpty then s else (burnExts left s).2
  let s := s |> wr HOST_HDM_BASE_GIB 0 base |> wr HOST_HDM_EXTENTS 0 k
  forEach new (fun e s => wr EXT_KIND e 3 s) s

/-- HOST_HDM_WRITE. -/
def execHostHdmWrite (base k : Nat) (s : State) : Host.Outcome State Fault Refusal := .next (clocked (doHostHdmWrite base k) s)

/-- CXL_MEM_REQUEST (R321, R322): a read or a write of the line at device physical address `d`. -/
def doCxlMemRequest (d : Nat) (write : Bool) (data : List Byte) (tag : Nat) (s : State) : State :=
  hostRequest { kind := 3 + b2n write, a := d, data := data, tag := tag } (raiseWake 0x13 0 s)

/-- CXL_MEM_REQUEST. -/
def execCxlMemRequest (d : Nat) (write : Bool) (data : List Byte) (tag : Nat) (s : State) : Host.Outcome State Fault Refusal :=
  .next (clocked (doCxlMemRequest d write data tag) s)

/-! ## A line that is free again (R198) -/

/-- LINE_DEQUEUE (R198): a line is busy no more: the next request of its queue is taken, and what waited for it goes on. -/
def doLineDequeue (line : Nat) (s : State) : State := settleHost (nextOfLine line s)

/-- LINE_DEQUEUE. -/
def execLineDequeue (line : Nat) (s : State) : Host.Outcome State Fault Refusal := .next (clocked (doLineDequeue line) s)

end Sys2Proof.Machine
end

