-- ==== Sys2Proof/Machine/Downstream.lean ====
section
/-! DEFINITION. Sys2Proof/Machine/Downstream.lean: the downstream ports: insertion, removal, faults (spec/12_host_endpoint.md R328 to
R332). -/

namespace Sys2Proof.Machine

open Sys2Proof

/-- What the hub keeps of DSP_p. -/
def dsPort (p : Nat) (s : State) : DsPort := lookD {} s.host.ds p

/-- STATE of DSP_p (Table 8): 0 EMPTY, 1 POWERING, 2 TRAINING, 3 READY, 4 REMOVING, 5 FAULT, 6 UNSUPPORTED_DEV. -/
def dsState (p : Nat) (s : State) : Nat := rd DS_STATUS_STATE p s

/-- A pin of DSP_p is driven: 5 DS_PWREN, 6 DS_PERST_N, 7 the attention indicator, 8 the power indicator (0 off, 1 on, 2
blinking). -/
def dsPin (p pin v : Nat) (s : State) : State := emit { kind := .pin, dest := p, args := [pin, v] } s

/-- A bit of DS_EVENT is set, and posted to the PF's event ring (R332). -/
def dsEvent (p : Nat) (f : Fld) (s : State) : State := postEvent 0 0x0006 p .ok (2 ^ f.lo) (setB f p s)

/-- Requests to the device at DSP_p that are under way end UNREACHABLE. -/
def dropDevice (p : Nat) (s : State) : State :=
  let mine := fun (x : Purpose) => match x with | .device q _ => q == p | _ => false
  let rs := s.timers.reqs.filter (fun r => mine r.purpose)
  let ws := s.timers.waiting.filter (fun h => mine h.purpose)
  let s := { s with timers := { s.timers with reqs := s.timers.reqs.filter (fun r => !mine r.purpose),
                                              waiting := s.timers.waiting.filter (fun h => !mine h.purpose) } }
  forEach (rs.map Req.purpose ++ ws.map HeldReq.purpose) (fun x s => match x with
    | .device _ id => deviceAnswer id .unreachable [] s
    | _ => s) s

/-- The slot is powered off: nothing is known of the device any more. -/
def powerOff (p : Nat) (s : State) : State :=
  s |> clrB DS_STATUS_POWERED p |> wr DS_STATUS_RATE p 0 |> wr DS_STATUS_WIDTH p 0 |> clrB DS_STATUS_CXL p |> clrB DS_STATUS_ATTESTED p
    |> wr DS_DEV_VENDOR p 0 |> wr DS_DEV_DEVICE p 0 |> wr DS_DEV_CLASS p 0
    |> setDs p (fun _ => {}) |> dsPin p 6 0 |> dsPin p 5 0 |> dsPin p 8 0

/-- The slot is powered on (R330, step 2). -/
def powerSlot (p : Nat) (s : State) : State :=
  if !rdb DS_STATUS_PRESENT p s || dsState p s != 0 then s else
  s |> wr DS_STATUS_STATE p 1 |> setB DS_STATUS_POWERED p |> setDs p (fun _ => { poweredAt := some (now16 s) }) |> dsPin p 5 1

/-- Insertion (R330, steps 1 and 2). -/
def insertDevice (p : Nat) (s : State) : State :=
  let s := dsPin p 8 2 (dsEvent p DS_EVENT_INSERTED s)
  if rdb DS_CTL_AUTO_ON p s then powerSlot p s else s

/-- Surprise removal (R332); a port in FAULT stays there. -/
def surprise (p : Nat) (s : State) : State :=
  let fault := dsState p s == 5
  let s := powerOff p (dropDevice p s)
  dsEvent p DS_EVENT_SURPRISE (if fault then s else wr DS_STATUS_STATE p 0 s)

/-- DS_PRESENCE_CHANGE (R330, R332): presence at DSP_p has been asserted and stable for 100 ms, or is lost. -/
def doDsPresenceChange (p : Nat) (present : Bool) (s : State) : State :=
  if 4 ≤ p ∨ rdb DS_STATUS_PRESENT p s = present then s else
  let s := wrb DS_STATUS_PRESENT p present (raiseWake 0x16 p s)
  if present then (if dsState p s = 0 then insertDevice p s else s)
  else if dsState p s = 4 then s
  else surprise p s

/-- DS_PRESENCE_CHANGE. -/
def execDsPresenceChange (p : Nat) (present : Bool) (s : State) : Host.Outcome State Fault Refusal :=
  .next (clocked (doDsPresenceChange p present) s)

/-- POWER_ON (R330): the PF writes DS_CTL.POWER_ON. -/
def doPowerOn (p : Nat) (s : State) : State := if 4 ≤ p then s else powerSlot p s

/-- POWER_ON. -/
def execPowerOn (p : Nat) (s : State) : Host.Outcome State Fault Refusal := .next (clocked (doPowerOn p) s)

/-- DS_PERST_RELEASE (R330, step 3): 100 ms after power is stable. -/
def doDsPerstRelease (p : Nat) (s : State) : State :=
  match (dsPort p s).poweredAt with
  | some t =>
    if dsState p s ≠ 1 ∨ !due (t + us16 100000) s then s
    else dsPin p 6 1 (setDs p (fun x => { x with perstAt := some (now16 s) }) (wr DS_STATUS_STATE p 2 s))
  | none => s

/-- DS_PERST_RELEASE. -/
def execDsPerstRelease (p : Nat) (s : State) : Host.Outcome State Fault Refusal := .next (clocked (doDsPerstRelease p) s)

/-- The port fails: FAULT, with the attention indicator on. -/
def dsFault (p : Nat) (s : State) : State := dsPin p 7 1 (wr DS_STATUS_STATE p 5 s)

/-- What the device shows of itself. -/
def noteDevice (p : Nat) (f : DsFound) (s : State) : State :=
  s |> wr DS_STATUS_RATE p f.rate |> wr DS_STATUS_WIDTH p f.width |> wrb DS_STATUS_CXL p f.cxl |> wr DS_DEV_VENDOR p f.vendor
    |> wr DS_DEV_DEVICE p f.device |> wr DS_DEV_CLASS p f.cls

/-- DS_PORT_READY (R328, R330, steps 3 to 5): training, enumeration and attestation have ended, 100 ms after the link trained. The
seven SPDM requests of R235 go over DOE. -/
def doDsPortReady (p : Nat) (f : DsFound) (s : State) : State :=
  match (dsPort p s).perstAt with
  | none => s
  | some t =>
    if dsState p s ≠ 2 ∨ !due (t + us16 100000) s then s
    else if f.rate = 0 then dsFault p (addEntry 0x8 p 1 0 s)
    else
      let s := noteDevice p f s
      let ids := f.vendor + 2 ^ 16 * f.device
      if !f.cxl && f.cls != 0x010802 then
        dsEvent p DS_EVENT_UNSUPPORTED_DEV (wr DS_STATUS_STATE p 6 (addEntry 0x8 p 2 ids s))
      else if !f.enabled then dsFault p (addEntry 0x8 p 1 ids s)
      else
      let s := if rdb DS_CTL_ATTEST_REQ p s then forEach (List.range 7) (fun i => emit { kind := .ds, dest := p, args := [3, i] }) s
        else s
      if rdb DS_CTL_ATTEST_REQ p s && !f.attested then dsFault p (dsEvent p DS_EVENT_ATTEST_FAIL s)
      else s |> wrb DS_STATUS_ATTESTED p (rdb DS_CTL_ATTEST_REQ p s) |> wr DS_STATUS_STATE p 3 |> dsPin p 8 1 |> dsEvent p DS_EVENT_READY

/-- DS_PORT_READY. -/
def execDsPortReady (p : Nat) (f : DsFound) (s : State) : Host.Outcome State Fault Refusal := .next (clocked (doDsPortReady p f) s)

/-- Removal starts (R331). -/
def startRemove (p : Nat) (s : State) : State :=
  if dsState p s ≠ 3 then s else setDs p (fun x => { x with pressedAt := none }) (wr DS_STATUS_STATE p 4 s)

/-- Removal ends: the slot is off (R331, steps 3 and 4). -/
def endRemove (p : Nat) (s : State) : State := dsEvent p DS_EVENT_REMOVED (wr DS_STATUS_STATE p 0 (powerOff p s))

/-- Requests that the port has accepted are under way. -/
def dsBusy (p : Nat) (s : State) : Bool :=
  s.ses.ops.any (fun o => (o.ty == 0x14 || o.ty == 0x15) && o.port == p) ||
  (s.timers.reqs.map Req.purpose ++ s.timers.waiting.map HeldReq.purpose).any (fun x => match x with | .device q _ => q == p | _ => false)

/-- A removal goes on once the accepted requests are complete: the shutdown notification of an NVMe device and its answer, then
power off. -/
def settleDs (s : State) : State :=
  forEach (List.range 4) (fun p s =>
    if dsState p s ≠ 4 ∨ dsBusy p s then s
    else if rdb DS_STATUS_CXL p s || (dsPort p s).shutDone then endRemove p s
    else if (dsPort p s).shutAt.isSome then s
    else emit { kind := .ds, dest := p, tag := shutdownTag } (setDs p (fun x => { x with shutAt := some (now16 s) }) s)) s

/-- REMOVE (R331): the PF writes DS_CTL.REMOVE. -/
def doRemove (p : Nat) (s : State) : State := if 4 ≤ p then s else settleDs (startRemove p s)

/-- REMOVE. -/
def execRemove (p : Nat) (s : State) : Host.Outcome State Fault Refusal := .next (clocked (doRemove p) s)

/-- DS_BUTTON (R330, R331): the attention button of DSP_p is pressed: it powers the slot, or begins or cancels removal. -/
def doDsButton (p : Nat) (s : State) : State :=
  if 4 ≤ p then s else
  let s := dsEvent p DS_EVENT_BUTTON (raiseWake 0x16 p s)
  match dsState p s, (dsPort p s).pressedAt with
  | 0, _ => powerSlot p s
  | 3, none => dsPin p 8 2 (setDs p (fun x => { x with pressedAt := some (now16 s) }) s)
  | 3, some _ => dsPin p 8 1 (setDs p (fun x => { x with pressedAt := none }) s)
  | _, _ => s

/-- DS_BUTTON. -/
def execDsButton (p : Nat) (s : State) : Host.Outcome State Fault Refusal := .next (clocked (doDsButton p) s)

/-- DS_BUTTON_TIMEOUT (R331): 5 s without a second press. -/
def doDsButtonTimeout (p : Nat) (s : State) : State :=
  match (dsPort p s).pressedAt with
  | some t => if dsState p s = 3 ∧ due (t + us16 5000000) s then settleDs (startRemove p s) else s
  | none => s

/-- DS_BUTTON_TIMEOUT. -/
def execDsButtonTimeout (p : Nat) (s : State) : Host.Outcome State Fault Refusal := .next (clocked (doDsButtonTimeout p) s)

/-- DS_SHUTDOWN_TIMEOUT (R331): the wait for the shutdown ends after 10 s. -/
def doDsShutdownTimeout (p : Nat) (s : State) : State :=
  match (dsPort p s).shutAt with
  | some t => if dsState p s = 4 ∧ due (t + us16 10000000) s then endRemove p s else s
  | none => s

/-- DS_SHUTDOWN_TIMEOUT. -/
def execDsShutdownTimeout (p : Nat) (s : State) : Host.Outcome State Fault Refusal := .next (clocked (doDsShutdownTimeout p) s)

/-- CLEAR (R332, Table 8): the port leaves FAULT for EMPTY, or for insertion where a device is present. -/
def doClear (p : Nat) (s : State) : State :=
  if 4 ≤ p ∨ dsState p s ≠ 5 then s else
  let s := dsPin p 7 (rd DS_CTL_ATTN_LED p s) (wr DS_STATUS_STATE p 0 (powerOff p s))
  if rdb DS_STATUS_PRESENT p s then insertDevice p s else s

/-- CLEAR. -/
def execClear (p : Nat) (s : State) : Host.Outcome State Fault Refusal := .next (clocked (doClear p) s)

/-- DS_POWER_FAULT (R332): the slot of DSP_p goes off, and the port is in FAULT. -/
def doDsPowerFault (p : Nat) (s : State) : State :=
  if 4 ≤ p ∨ !rdb DS_STATUS_POWERED p s then s else
  dsEvent p DS_EVENT_POWER_FAULT (dsFault p (powerOff p (dropDevice p (raiseWake 0x16 p s))))

/-- DS_POWER_FAULT. -/
def execDsPowerFault (p : Nat) (s : State) : Host.Outcome State Fault Refusal := .next (clocked (doDsPowerFault p) s)

/-- DS_LINK_DOWN (R332): the link of DSP_p goes down; in REMOVING the shutdown is at an end. -/
def doDsLinkDown (p : Nat) (s : State) : State :=
  match dsState p s with
  | 4 => settleDs (setDs p (fun x => { x with shutAt := some (now16 s), shutDone := true }) (dropDevice p s))
  | 0 => s
  | _ => surprise p s

/-- DS_LINK_DOWN. -/
def execDsLinkDown (p : Nat) (s : State) : Host.Outcome State Fault Refusal := .next (clocked (doDsLinkDown p) s)

end Sys2Proof.Machine
end

