-- ==== Sys2Proof/Machine/Mirror.lean ====
section
/-! DEFINITION. Sys2Proof/Machine/Mirror.lean: counterproof pairs: replicas, acknowledgements, the limits of mirroring and
promotion (spec/11_syrel_fabric.md R300 to R305, spec/05_sessions_and_kv_pages.md R127). -/

namespace Sys2Proof.Machine

open Sys2Proof

/-! ## The replica's side (R301, R302) -/

/-- A page of a replica is open, or is opened from the pool. -/
def ensurePage (i l h o : Nat) (s : State) : Status × State :=
  match sesEnt i s with
  | none => (.accessDenied, s)
  | some e =>
    let r := pageFrame e l h o s
    if !r.1.good then (r.1, r.2.2) else if r.2.1.isSome then (.ok, r.2.2) else openPage i l h o r.2.2

/-- Rows of whole tokens are written at a replica. -/
def replicaRows (i : Nat) (e : SesEnt) (l h pos : Nat) (ks vs : List (List Byte)) (s : State) : Status × State :=
  seqSteps ((pageSpans e pos ks.length).map (fun p => ensurePage i l h p.1) ++ [putRows e l h pos ks vs]) s

/-- Rows of `rb` bytes. -/
def rowsIn (rb : Nat) (l : List Byte) : List (List Byte) := chunks rb (l.length / rb + 1) l

/-- A ROWS record (R302). -/
def applyRows (i : Nat) (e : SesEnt) (w : Nat) (data : List Byte) (s : State) : Status × State :=
  let l := slice w 2 8
  let h := slice w 10 6
  let pos := slice w 16 23
  let count := slice w 39 2 + 1
  let split := bit w 41
  let alone := tokensPerRecord e.rb == 0
  let size := if split then e.rb else 2 * count * e.rb
  if split ≠ alone ∨ (split ∧ count ≠ 1) ∨ data.length ≠ size ∨ e.layers ≤ l ∨ e.heads ≤ h ∨ e.maxTokens < pos + count then
    (.unsupported, s)
  else if !split then
    let rows := rowsIn e.rb data
    replicaRows i e l h pos (rows.take count) (rows.drop count) s
  else if !bit w 42 then (.ok, setSyr (fun y => { y with halves := y.halves ++ [(i, l, h, pos, data)] }) s)
  else match s.syr.halves.find? (fun x => x.1 == i && x.2.1 == l && x.2.2.1 == h && x.2.2.2.1 == pos) with
    | none => (.unsupported, s)
    | some x => replicaRows i e l h pos [x.2.2.2.2] [data] (setSyr (fun y => { y with halves := y.halves.filter (· != x) }) s)

/-- A part of a frame (FRAME record): bytes 512 × CHUNK on; the header keeps REFS at 1 and names the replica's session
(log entry 32). -/
def applyFrame (i : Nat) (e : SesEnt) (w : Nat) (data : List Byte) (s : State) : Status × State :=
  let en := slice w 2 25
  let c := slice w 27 6
  if e.layers * e.heads * e.cap ≤ en ∨ data.length ≠ 512 then (.unsupported, s) else
  let l := en / e.cap / e.heads
  let h := en / e.cap % e.heads
  let p := ensurePage i l h (en % e.cap) s
  if !p.1.good then p else
  let f := pageFrame e l h (en % e.cap) p.2
  match f.2.1 with
  | none => (f.1, f.2.2)
  | some f1 =>
    let w0 := ofBytes (data.take 8)
    let data := if c = 0 then toBytes 8 (w0 / 2 ^ 32 * 2 ^ 32 + handleOf i e.gen) ++ (data.drop 8).take 8 ++ toBytes 4 1 ++ data.drop 20
                else data
    engWrite e.fn (frameOff f1 + 512 * c) data f.2.2

/-- A record is applied to a replica. -/
def applyMirror (k : Pkt) (s : State) : Status × State :=
  let i := slice k.addr 0 18
  match sesEnt i s with
  | none => (.accessDenied, s)
  | some e =>
    if !e.replica ∨ e.fn ≠ k.fn then (.accessDenied, s) else
    match slice k.aux 0 2 with
    | 0 => applyRows i e k.aux k.data s
    | 1 => (.ok, putEnt i { e with len := slice k.aux 2 23 } s)
    | 2 => applyFrame i e k.aux k.data s
    | _ => (.unsupported, s)

/-- MIRROR (R301): the oldest MIRROR packet is applied and acknowledged. -/
def doMirror (s : State) : State :=
  match takeInbox (fun k => k.opc == 0x6) s with
  | none => s
  | some (k, s) =>
    let r := applyMirror k s
    syrSend { opc := 0x7, vn := 1, dst := k.src, src := selfId r.2, tag := k.tag, fn := k.fn, status := r.1.code, addr := k.addr } r.2

/-- MIRROR. -/
def execMirror (s : State) : Host.Outcome State Fault Refusal := .next (clocked doMirror s)

/-! ## The primary's side (R303, R304) -/

/-- The mirrored session whose replica has an index. -/
def primaryOf (fn replica : Nat) (s : State) : Option Nat :=
  (s.ses.tab.find? (fun p => mirrors p.2 && p.2.twinIndex == replica && p.2.fn == fn)).map Prod.fst

/-- Records of session `i` up to the one with TAG `tag` are acknowledged. -/
def ackMirror (i tag : Nat) (s : State) : State :=
  let mine := s.syr.mirPend.filter (fun m => m.ses == i)
  let left := if mine.any (fun m => m.tag == tag) then (mine.dropWhile (fun m => m.tag != tag)).drop 1 else mine
  setSyr (fun y => { y with mirPend := y.mirPend.filter (fun m => m.ses != i) ++ left }) s

/-- MIR_ACK (R303): records are acknowledged; a status other than OK breaks mirroring. -/
def doMirAck (s : State) : State :=
  match takeInbox (fun k => k.opc == 0x7) s with
  | none => s
  | some (k, s) =>
    match primaryOf k.fn (slice k.addr 0 18) s with
    | none => s
    | some i =>
      let st := Status.ofCode k.status
      if st ≠ .ok then breakMirror i st true s else mirrorDone i (ackMirror i k.tag s)

/-- MIR_ACK. -/
def execMirAck (s : State) : Host.Outcome State Fault Refusal := .next (clocked doMirAck s)

/-- MIRROR_LAG_EXPIRE (R303): a record of session `i` has waited CP_CTL.LAG_MS. -/
def doMirrorLagExpire (i : Nat) (s : State) : State :=
  if s.syr.mirPend.any (fun m => m.ses == i && due (m.at16 + us16 (1000 * rd CP_CTL_LAG_MS 0 s)) s) then breakMirror i .timeout true s
  else s

/-- MIRROR_LAG_EXPIRE. -/
def execMirrorLagExpire (i : Nat) (s : State) : Host.Outcome State Fault Refusal := .next (clocked (doMirrorLagExpire i) s)

/-- TWIN_LOST (R304): both twin ports have been down for CP_CTL.DEAD_MS. -/
def doTwinLost (s : State) : State :=
  match s.syr.twinDownAt with
  | none => s
  | some t =>
    if s.syr.twinLost || !due (t + us16 (1000 * rd CP_CTL_DEAD_MS 0 s)) s then s else
    let s := setB SYR_EVENT_TWIN_LOST 0 (setSyr (fun y => { y with twinLost := true }) s)
    let fns := (List.range 64).filter (fun n => s.ses.tab.any (fun p => p.2.fn == n && (p.2.mirror || p.2.state == 5 || p.2.replica)))
    let s := forEach fns (fun n s => postEvent n 0x0009 0 .unreachable 0 s) s
    forEach (s.ses.tab.filter (fun p => p.2.mirror || p.2.state == 5)) (fun p s => breakMirror p.1 .unreachable false s) s

/-- TWIN_LOST. -/
def execTwinLost (s : State) : Host.Outcome State Fault Refusal := .next (clocked doTwinLost s)

/-- A replica is promoted (R305): its pending range is cleared. -/
def promote (i : Nat) (s : State) : Status × State :=
  match sesEnt i s with
  | none => (.ok, s)
  | some e =>
    let w := putPending e 0 0 0 s
    (w.1, putEnt i { e with state := 0, replica := false, mirror := false, twinValid := false } w.2)

/-- CP_PROMOTE (R305): every replica of a function becomes RESIDENT. -/
def doCpPromote (g k : Nat) (s : State) : State :=
  match runningDesc g k 0x32 s with
  | none => s
  | some d =>
    let n := slice (d.word 2) 0 6
    let is := (s.ses.tab.filter (fun p => p.2.replica && p.2.fn == n)).map Prod.fst
    let r := is.foldl (fun (acc : Status × State) i => let w := promote i acc.2; (Status.worse acc.1 w.1, w.2)) (Status.ok, s)
    completeDesc g k r.1 is.length 0 0 r.2

/-- CP_PROMOTE. -/
def execCpPromote (g k : Nat) (s : State) : Host.Outcome State Fault Refusal := .next (clocked (doCpPromote g k) s)

/-! ## What firmware does for another hub's firmware -/

/-- The entry that a primary's words describe, as an entry of function `n` (R127, R128). -/
def entryOfWords (n : Nat) (ws : List Nat) : SesEnt :=
  let w := nth 0 ws
  { fn := n, kvFmt := slice (w 0) 12 4, dim := slice (w 0) 16 2, layersM1 := slice (w 0) 18 8, headsM1 := slice (w 0) 26 6,
    gen := 0, len := slice (w 1) 0 23, maxTokens := slice (w 1) 23 23, root := 0 }

/-- A new entry for another hub's session, with the checks of R120. -/
def makeFor (n extra : Nat) (ws : List Nat) (s : State) : Status × Nat × State :=
  let e := entryOfWords n ws
  let st := createStatus n (geometryBad e.kvFmt e.dim e.layersM1 e.headsM1 e.maxTokens) (e.leaves + 1 + extra) s
  if st ≠ .ok then (st, 0, s) else makeSes e s

/-- A management packet's effect (MgmtAct); `src` is the hub whose firmware sent it. -/
def mgmtAct (src : Nat) (a : MgmtAct) (s : State) : State :=
  match a with
  | .other | .powerReport _ _ _ _ | .powerCap _ | .chunkRequest _ _ _ _ _ | .chunk _ _ _ _ _ | .staged _
  | .route _ _ | .group _ _ => s
  | .createReplica fn idx ws =>
    let r := makeFor fn 0 ws s
    let s := match r.1, sesEnt r.2.1 r.2.2 with
      | .ok, some e => putEnt r.2.1 { e with replica := true, twinIndex := idx, twinValid := true, len := 0 } r.2.2
      | _, _ => r.2.2
    tellHub src 5 [r.1.code, handleOf r.2.1 (sesGen r.2.1 s), idx] s
  | .deleteReplica fn idx =>
    match sesEnt idx s with
    | some e => if e.replica ∧ e.fn = fn then (eraseSes idx s).2.2 else s
    | none => s
  | .replicaGone fn idx =>
    match sesEnt idx s with
    | some e =>
      if !mirrors e ∨ e.fn ≠ fn then s else
      postEvent fn 0x0008 0 .ok (e.handle idx) (putEnt idx { e with mirror := false, twinValid := false } (forgetMirror idx s))
    | none => s
  | .takeSession fn ws pending frames =>
    let r := makeFor fn frames.length ws s
    if r.1 ≠ .ok then tellHub src 5 [r.1.code, 0] r.2.2 else
    let root := ((sesEnt r.2.1 r.2.2).map SesEnt.root).getD 0
    let w := seqSteps [placeFrames r.2.1 true frames, engWrite fn (frameOff root) pending] r.2.2
    if w.1.good then tellHub src 5 [0, handleOf r.2.1 (sesGen r.2.1 w.2)] w.2
    else tellHub src 5 [w.1.code, 0] (eraseSes r.2.1 w.2).2.2

end Sys2Proof.Machine
end

