-- ==== Sys2Proof/Machine/Mgmt.lean ====
section
/-! DEFINITION. Sys2Proof/Machine/Mgmt.lean: multicast packets and management packets (spec/11_syrel_fabric.md R278, R291). -/

namespace Sys2Proof.Machine

open Sys2Proof

/-- A packet enters Herva firmware's queues (Table 5). -/
def sinkPacket (k : Pkt) (s : State) : State := setSyr (fun y => { y with mgmt := y.mgmt ++ [k] }) s

/-- Herva firmware takes a multicast that is delivered to it: a chunk of a broadcast (R441). -/
def takeMulticast (k : Pkt) (s : State) : State := takeChunkPacket k (sinkPacket k s)

/-- Firmware installs a route (R286). -/
def setRoute (d w : Nat) (s : State) : State :=
  if 4096 ≤ d then s else
  s |> wr SYR_ROUTE_VALID d (slice w 0 1) |> wr SYR_ROUTE_VIA_EN d (slice w 1 1) |> wr SYR_ROUTE_VIA_HUB d (slice w 2 12)

/-- Firmware installs a multicast group (R291). -/
def setGroup (g w : Nat) (s : State) : State :=
  if 256 ≤ g then s else
  s |> wr MC_GROUP_OUT_DIRS g (slice w 0 6) |> wr MC_GROUP_OUT_TWIN g (slice w 6 1) |> wr MC_GROUP_LOCAL g (slice w 7 1)
    |> wr MC_GROUP_VALID g (slice w 31 1)

/-- MCAST (R291): the oldest multicast that came in. For a valid group it is delivered to Herva firmware if LOCAL is 1, and
copied to each direction of OUT_DIRS and to the twin. -/
def doMcast (s : State) : State :=
  match takeInbox (fun k => k.opc == 0xA) s with
  | none => s
  | some (k, s) =>
    let g := k.addr % 256
    if !rdb MC_GROUP_VALID g s then s else
    let s := if rdb MC_GROUP_LOCAL g s then takeMulticast k s else s
    mcastOut g k s

/-- MCAST. -/
def execMcast (s : State) : Host.Outcome State Fault Refusal := .next (clocked doMcast s)

/-- What Herva firmware does for a management packet of hub `src` (MgmtAct). -/
def takeMgmt (src : Nat) (act : MgmtAct) (s : State) : State :=
  match act with
  | .powerReport cap power late maxLate => takeReport { hub := src % 4096, cap := cap, power := power, late := late, maxLate := maxLate } s
  | .powerCap c => takeCap c s
  | .chunkRequest t x man idx org => takeChunkRequest src t x man idx org s
  | .chunk t x man idx data => takeChunk t x man idx data s
  | .staged x => takeStaged src x s
  | .route d w => setRoute d w s
  | .group g w => setGroup g w s
  | .other | .createReplica _ _ _ | .deleteReplica _ _ | .replicaGone _ _ | .takeSession _ _ _ _ => mgmtAct src act s

/-- MGMT (R278): the oldest management packet that came in is sunk into Herva firmware's queues. -/
def doMgmt (act : MgmtAct) (s : State) : State :=
  match takeInbox (fun k => k.opc == 0xB) s with
  | none => s
  | some (k, s) => takeMgmt k.src act (sinkPacket k s)

/-- MGMT. -/
def execMgmt (act : MgmtAct) (s : State) : Host.Outcome State Fault Refusal := .next (clocked (doMgmt act) s)

end Sys2Proof.Machine
end

