-- ==== Sys2Proof/Machine/Reset.lean ====
section
/-! DEFINITION. Sys2Proof/Machine/Reset.lean: cold, warm and soft resets (spec/00_scope.md R14, spec/17_bringup_reset_service.md
R425, R433, R435, R436, spec/15_security_and_isolation.md R390, R394). -/

namespace Sys2Proof.Machine

open Sys2Proof

/-- A field of reset class `c` is restored by a reset of class WARM (`warm`) or SOFT (R14, Table 3): all but COLD, RTP, fuses and
constants, and WARM only by WARM. -/
def softRestores (warm : Bool) (c : RstClass) : Bool :=
  match c with
  | .soft | .partialRst | .flr | .site | .tile | .unit => true
  | .warm => warm
  | .cold | .rtp | .fuse | .fixed => false

/-- Extents at a WARM or SOFT reset (R394): those of KIND FUNCTION with a key are FREE, for the key is gone, and firmware's are taken
again; every other, and every one with BURNISH = 1, is overwritten. -/
def resetExtents (s : State) : State :=
  let es := usedExts s
  let wipe := es.filter (fun e => rdb EXT_BURNISH e s || extKind e s == 3 || (extKind e s == 1 && !rdb EXT_KEY_EN e s))
  let s := setSec (fun x => { x with burns := [] }) (forEach (es.filter (fun e => !wipe.contains e)) freeExt s)
  if wipe.isEmpty then s else (startBurn wipe none s).2

/-- The mailbox command that runs ends ABORTED, and what waits for burnishes or for a site is gone with the functions and sites;
key slots and park roots are destroyed (R390, R436). The board management controller's commands go on, for the RTP does. -/
def resetIsland (warm : Bool) (s : State) : State :=
  let s := if rdb MBX_STATUS_BUSY 0 s && s.sec.rtpAt.isNone then mbxEnd (rd MBX_STATUS_OPCODE 0 s) .aborted 0 s else s
  let bmcs := fun (w : SecWait) => match w.act with
    | .done b _ _ | .grant b _ | .analysis b => b
    | .unlock _ _ => false
  let s := setSec (fun x => { x with
    keys := [], parkRoots := [], confAt := none, tdiNonce := [], waits := x.waits.filter bmcs,
    ide := if warm then [] else x.ide.filter (fun p => p.1 == 0) }) s
  setLife (fun l => { l with prog := l.prog.filter (fun p => p.bmc || (p.target.isNone && !p.select)) }) s

/-- The host endpoint: a SOFT reset keeps the link, configuration space and the MSI-X tables (Table 6). -/
def resetHost (warm : Bool) (s : State) : State :=
  let s := forEach (List.range 4) (fun p s => if rdb DS_STATUS_POWERED p s then powerOff p s else s) s
  let h := s.host
  if warm then { s with host := { nextAcc := h.nextAcc } }
  else
    let fns := h.fns.map (fun p => (p.1, { p.2 with flrAt := none }))
    let msix := h.msix.map (fun p => (p.1, { p.2 with pend := false }))
    { s with host := { h with fns := fns, msix := msix, heldMsix := [], accs := [], waits := [], ds := [] } }

/-- The hub loses what Table 7 names R for WARM and SOFT and what is under way in it. Memory contents, training of the channels,
position and role, the private flash and the RTP are kept; what the supply monitors and PROCHOT_N show is shown on. -/
def resetUnits (s : State) : State :=
  let w := s.power
  let cap := now16 s
  { s with
    latches := []
    cal := { nextId := s.cal.nextId }
    rings := {}
    xlat := { nextJob := s.xlat.nextJob, nextInval := s.xlat.nextInval }
    coh := { nextId := s.coh.nextId }
    mem := { bytes := s.mem.bytes, junk := s.mem.junk, keys := s.mem.keys, ue := s.mem.ue, scrub := s.mem.scrub, scrubAt := s.mem.scrubAt,
             rates := s.mem.rates }
    syr := { nextIn := s.syr.nextIn, nextOut := s.syr.nextOut }
    ruling := { s.ruling with ports := [] }
    grv := []
    ses := {}
    attn := { nextId := s.attn.nextId }
    cnt := {}
    mesh := {}
    timers := {}
    power := { stopped := w.stopped, dipAt := w.dipAt, dipRails := w.dipRails, board := w.board, iout := w.iout, energyAt := cap, workAt := cap,
               epoch := s.ruling.pos / 1000000, grpAt := s.ruling.pos / 10000000 }
    boot := { s.boot with
      partialAt := none, entries := [], vendor := [], skipped := false, cfgBuf := [], imgBuf := [], svc := [], steered := [], xfers := [],
      sent := [], asks := [], commits := [], retrains := [] } }

/-- Every enabled chiplet site is in reset, with SITE_RST_N low. -/
def resetSiteAll (s : State) : State :=
  forEach (List.range (chipSites s)) (fun j s =>
    driveSiteRst j 0 (setSite j (fun _ => { rst := .low (now16 s) }) s)) { s with sites := [] }

/-- A WARM or SOFT reset (`cls` 1 or 2), up to its bring-up: ports are down and pins released (R308), a hub disciplined through a
port is UNLOCKED with no HUB_EVENT (R41), the registers whose Reset column names a covered class are restored, and bring-up
begins. The rails that H3 turned off come on. -/
def hubReset (cls : Nat) (s : State) : State :=
  let warm := cls == 1
  let off := pwrState s == 3
  let dip := rd PWR_STATUS_STRETCH 0 s
  let hot := rd PWR_STATUS_PROCHOT_IN 0 s
  let s := clrB MEM_MOVE_ACTIVE 0 (resetUnits (resetHost warm (resetExtents (resetIsland warm s))))
  let s := forEach [18, 19] takePortDown (releasePins s)
  let s := if locked s && role s != 1 && role s != 2 then enterUnlocked true s else s
  let s := resetSiteAll s
  let s := resetWhere (fun f _ => softRestores warm f.rst) s
  let s := s |> wr PWR_STATUS_STRETCH 0 dip |> wr PWR_STATUS_PROCHOT_IN 0 hot
  let s := if s.sec.burns.isEmpty then s else setB SEC_STATUS_BURNISHING 0 s
  let s := if warm then s else wr TMO_HOST_US 0 (hostTimeout (fnCfg 0 s).devctl2) s
  let s := if off then forEach [0, 1, 4, 5] (fun r s => railOperation r 1 s) s else s
  let s := forEach [18, 19] (fun p s => setPort p (fun x => { x with training := some (now16 s) }) s) s
  setBoot (fun x => { x with bring := some (cls, now16 s) }) s

/-- WARM_RESET (R324, R425): PERST# is asserted, or released, from which warm bring-up runs. It absorbs a SOFT bring-up; a COLD one
covers it (R435). -/
def doWarmReset (release : Bool) (s : State) : State :=
  if release then
    if s.boot.perst then setBoot (fun x => { x with perst := false, bring := some (1, now16 s) }) s else s
  else if s.boot.perst then s
  else match s.boot.bring with
    | some (0, _) => s
    | _ => setBoot (fun x => { x with perst := true }) (hubReset 1 s)

/-- WARM_RESET. -/
def execWarmReset (release : Bool) (s : State) : Host.Outcome State Fault Refusal := .next (clocked (doWarmReset release) s)

/-- SOFT_RESET (R425, R433): HUB_RST.SOFT is written, or a control-cluster error is unrecoverable. During bring-up it is ignored;
a compute-partial reset is absorbed (R435). -/
def doSoftReset (s : State) : State := if s.boot.bring.isSome then s else hubReset 2 s

/-- SOFT_RESET. -/
def execSoftReset (s : State) : Host.Outcome State Fault Refusal := .next (clocked doSoftReset s)

/-- COLD_RESET (R424): PWR_GOOD rises, or the supply crosses its reset level. Everything is at its reset value but fuses, OTP and
the private flash, which may have been fitted anew (`flash`); fuse decode finds the life cycle. HUB_ALIVE_N is high-impedance, and
SITE_RST_N is low at every enabled chiplet site (R497). -/
def doColdReset (flash : Option Flash) (s : State) : State :=
  let fl := flash.getD s.boot.flash
  let t : State := { fuses := s.fuses, life := { s.life with prog := [] }, boot := { flash := fl }, sec := { nextKey := s.sec.nextKey },
                     out := s.out, freeCtr := s.freeCtr, pending := s.pending }
  let t := forEach (List.range (chipSites t)) (fun j s => driveSiteRst j 0 s) t
  coldDecode (forEach [0, 1, 2] (fun a s => driveAlive a 1 s) t)

/-- COLD_RESET. -/
def execColdReset (flash : Option Flash) (s : State) : Host.Outcome State Fault Refusal := .next (doColdReset flash s)

end Sys2Proof.Machine
end

