-- ==== Sys2Proof/Machine/Regs.lean ====
section
/-! DEFINITION. Sys2Proof/Machine/Regs.lean: what the host reads and writes in the register windows of BAR 0
(spec/00_scope.md R3, R8, R10 to R13, R503, spec/01_hub_and_package.md R25 to R27, spec/12_host_endpoint.md R316, R325,
spec/16_lifecycle_and_debug.md R410, spec/19_counters.md R483). -/

namespace Sys2Proof.Machine

open Sys2Proof

/-! ## What a field reads as -/

/-- Buckets are held by so many tiles (SC_STATUS.SLICES). -/
def slicesUsed (s : State) : Nat :=
  if s.boot.bring.isSome then 0 else ((List.range 4096).map (fun b => rd SLICE_STEER_TILE b s)).eraseDups.length

/-- The rings that satisfy a field. -/
def ringsWith (f : Fld) (v : Nat) (s : State) : List Nat := ((listed f s).filter (fun p => p.2 == v)).map Prod.fst

/-- RING_STATUS.INFLIGHT: fetched and not completed, or RESERVED. -/
def ringInflight (g : Nat) (s : State) : Nat :=
  if rdb RING_CFG_KIND g s then (rt g s).reserved
  else (s.rings.descs.filter (fun d => d.ring == g && d.st != .fetching)).length

/-- Page requests that the host has not answered. -/
def priOut (s : State) : Nat :=
  ((s.xlat.batches.filter Batch.sent).map (fun b => (b.waits.map XWait.page).eraseDups.length)).sum

/-- Status fields that show what the hub holds: the value of field `f`, index `i`, where it is no stored field. -/
def shown (f : Fld) (i : Nat) (s : State) : Option Nat :=
  if f.code = RULE_STATUS_SEG_PENDING.code then some (b2n s.ruling.pend.isSome)
  else if f.code = RULE_POS_POS.code then some (pos s)
  else if f.code = RULE_REFCNT_REFCNT.code then some (nowNs s)
  else if f.code = RULE_SEG_KIND.code then some s.ruling.seg.kind
  else if f.code = RULE_SEG_RATE.code then some s.ruling.seg.rate
  else if f.code = RULE_SEG_SEQ.code then some s.ruling.seg.seq
  else if f.code = CAL_STATUS_USED.code then some s.cal.entries.length
  else if f.code = SES_STATUS_USED.code then some s.ses.tab.length
  else if f.code = STR_STATUS_USED.code then some s.ses.streams.length
  else if f.code = POOL_FREE.code then some (poolFree i s)
  else if f.code = POOL_TOTAL.code then some (poolTotal i s)
  else if f.code = ATTN_STATUS_RUNNING.code then some (s.attn.batches.filter ABatch.running).length
  else if f.code = ATTN_STATUS_WAITING.code then some (s.attn.batches.filter (fun b => !b.running)).length
  else if f.code = SC_STATUS_SLICES.code then some (slicesUsed s)
  else if f.code = DIR_STATUS_USED.code then some s.coh.dir.length
  else if f.code = DIR_LOST_LINES.code then some (lostLines s)
  else if f.code = REG_STATUS_OVERSUB.code then some (b2n (oversub s))
  else if f.code = REG_STATUS_SHARE_SUM.code then some (shareSum s)
  else if f.code = SYR_STATUS_DIR_DOWN.code then
    some (((List.range 6).filter (fun d => (goodPorts d s).isEmpty)).map (2 ^ ·)).sum
  else if f.code = SYR_STATUS_TWIN_UP.code then some (b2n (rdb SYR_PORT_UP 18 s || rdb SYR_PORT_UP 19 s))
  else if f.code = CP_STATUS_MIRRORED.code then some (s.ses.tab.filter (fun p => p.2.mirror)).length
  else if f.code = HOST_WATCH_USED.code then some (ringsWith RING_STATUS_WATCHED 1 s).length
  else if f.code = TEN_STATUS_FUNCTION.code then some i
  else if f.code = TEN_STATUS_READY.code then some (rd HUB_GLOBAL_READY 0 s)
  else if f.code = TEN_STATUS_TDI_RUN.code then some (b2n (rd FUNC_CFG_TDI i s == 2))
  else if f.code = RING_FN_STATUS_RUNNING.code then
    some ((ringsWith RING_STATUS_STATE 1 s).filter (fun g => ringFn g == i)).length
  else if f.code = RING_FN_STATUS_WATCHED.code then
    some ((ringsWith RING_STATUS_WATCHED 1 s).filter (fun g => ringFn g == i)).length
  else if f.code = RING_STATUS_INFLIGHT.code then some (ringInflight i s)
  else if f.code = TRN_STATUS_PRI_OUT.code then some (priOut s)
  else if f.code = TRN_STATUS_PARKED.code then some (s.xlat.jobs.filter (fun p => jobParked p.1 s)).length
  else if f.code = TRN_STATUS_INVAL.code then some s.xlat.invals.length
  else if f.code = SEC_STATUS_PARTITIONS.code then some ((List.range 16).filter (fun p => rdb PART_CFG_VALID p s)).length
  else if f.code = KEYSLOT_ACTIVE.code then
    some (((s.sec.keys.map Prod.fst).filter (fun k => k / 32 == i)).map (fun k => 2 ^ (k % 32))).sum
  else if f.code = CYC_COUNT.code then some (cycOf i s)
  else if f.code = SITE_PWR_MEASURED.code ∧ rdb SEC_STATUS_CONFIDENTIAL 0 s then some (rd SITE_PWR_MEASURED i s / 8 * 8)
  else none

/-- What field `f`, index `i`, reads as: its value, saturated to its width where it shows a number of things; a write-only field
reads 0 (R10). -/
def viewFld (f : Fld) (i : Nat) (s : State) : Nat :=
  if f.acc = .wo then 0 else match shown f i s with
    | some v => sat f.w v
    | none => rd f i s

/-! ## Where a register stands (R25, Table 8) -/

/-- The unit that a register of the counter block belongs to. -/
def blkUnit (b : RegBlk) (i : Nat) : Option Nat :=
  if CYC_blk.code ≤ b.code ∧ b.code ≤ CNT_SAMPLE_blk.code then some (if b.count2 = 1 then i else i / b.count2) else none

/-- The instance that a register belongs to is enabled (R3), and is not the odd site of a ganged pair (R216). -/
def blkOn (b : RegBlk) (i : Nat) (s : State) : Bool :=
  if GRV_CTL_blk.code ≤ b.code ∧ b.code ≤ GRV_LAUNCHES_blk.code then decide (i < tiles s)
  else if MEM_CTL_blk.code ≤ b.code ∧ b.code ≤ MEM_RETRAIN_blk.code then decide (i < memSites s)
  else if SITE_CTL_blk.code ≤ b.code ∧ b.code ≤ SITE_ERR_blk.code then
    siteOn i s && (!gangedOdd i s || b.code == SITE_STATUS_blk.code)
  else if b.code = SYR_PORT_blk.code ∨ b.code = SYR_PERR_blk.code then syrPortOk i s
  else match blkUnit b i with
    | some u => unitOn u s
    | none => true

/-- The base of a block in the window of function `fn`: in the PF's BAR 0, or in a VF's. -/
def blkBase (b : RegBlk) (fn : Nat) : Option Nat :=
  match b.win with
  | .pf => if fn = 0 then some b.base else none
  | .ten => if fn = 0 then none else some b.base
  | .ringFn | .ring => some (if fn = 0 then b.base + 0x210000 else b.base)

/-- The index of the register of block `b` that holds the 32-bit word at `rel` bytes above its base, and whether it is its high
half. -/
def blkAt (b : RegBlk) (fn rel : Nat) : Option (Nat × Bool) :=
  let i := if b.stride = 0 then 0 else rel / b.stride
  let r := if b.stride = 0 then rel else rel % b.stride
  let k := if b.stride2 = 0 then 0 else r / b.stride2
  let q := if b.stride2 = 0 then r else r % b.stride2
  if b.count ≤ i ∨ b.count2 ≤ k ∨ b.bits / 8 ≤ q then none else
  let idx := match b.win with
    | .pf => i * b.count2 + k
    | .ten | .ringFn => fn
    | .ring => 128 * fn + i
  some (idx, decide (4 ≤ q))

/-- The register word at offset `off` of function `fn`'s BAR 0: block, index, high half. -/
def regAt (fn off : Nat) : Option (RegBlk × Nat × Bool) :=
  regBlocks.findSome? (fun b =>
    match blkBase b fn with
    | some base => if off < base then none else (blkAt b fn (off - base)).map (fun p => (b, p.1, p.2))
    | none => none)

/-- The life cycle leaves this offset of the PF's BAR 0 decoded: in SCRAPPED and LOCKED only HUB_IDENT, DIE_SERIAL and the RTP
mailbox block are (R410); a restart of the RTP that decodes LOCKED leaves the decoding as it is until the next cold power-on
(R414). -/
def offOpen (fn off : Nat) (s : State) : Bool :=
  decide (s.life.state < 4) ||
    (fn == 0 && (off / 4 == 0 || off / 8 == 4 || off / 0x100000 == 0xE))

/-! ## Reading -/

/-- The whole of register `b`, index `i`: 0 where the instance is disabled (R3) or confidential mode hides the unit (R483). -/
def regView (b : RegBlk) (i : Nat) (s : State) : Nat :=
  if !blkOn b i s then 0
  else if (blkUnit b i).any (fun u => unitHidden 0 u s) then 0
  else if b.code = SITE_STATUS_blk.code ∧ gangedOdd i s then rd SITE_STATUS_GANGED i s * 2 ^ SITE_STATUS_GANGED.lo
  else (b.flds.map (fun f => viewFld f i s * 2 ^ f.lo)).sum

/-- A word of the bring-up record (R432, Table 4). -/
def recordWord (off : Nat) (s : State) : Nat :=
  let es := s.boot.entries
  if off = 0 then 1 + 2 ^ 8 * s.boot.cls + 2 ^ 16 * es.length
  else if off = 4 then rd HUB_BOOT_READY_MS 0 s
  else if off < 20 then rd FW_ACTIVE_VERSION ((off - 8) / 4) s
  else if off = 20 then rd HUB_BOOT_CFG_BANK 0 s + 2 * rd HUB_BOOT_CFG_NONE 0 s + 4 * b2n s.boot.skipped
  else if off < 32 then 0
  else if off < 3840 then
    match es[(off - 32) / 8]? with
    | some (k, i, o, d) => slice (slice k 0 4 + 2 ^ 4 * slice i 0 12 + 2 ^ 16 * slice o 0 4 + 2 ^ 20 * slice d 0 44) (if off % 8 = 0 then 0 else 32) 32
    | none => 0
  else ofBytes (((lookD [] s.boot.vendor ((off - 3840) / 32)).drop ((off - 3840) % 32)).take 4)

/-- The units on function `n`'s counter page (R483). -/
def pageUnits (n : Nat) (s : State) : List Nat :=
  (List.range 100).filter (fun u => unitOn u s && rd CNT_OWN_FUNCTION u s == n && rdb CNT_OWN_USER_RD u s)

/-- A word of VF `n`'s counter page: indices, then the units' registers in the layout of a unit's block. -/
def pageWord (n off : Nat) (s : State) : Nat :=
  if !rdb CNT_SNAP_PAGE_EN n s then 0 else
  let us := (pageUnits n s).filter (fun u => !unitHidden n u s)
  if off < 128 then ofBytes ((List.range 4).map (fun k => BitVec.ofNat 8 (nth 0xFF us (off + k))))
  else match us[off / 128 - 1]? with
    | some u =>
      let w := unitWords u s
      slice (nth 0 w (off % 128 / 8)) (if off % 8 = 0 then 0 else 32) 32
    | none => 0

/-- MSI-X table entry `v` of function `n`. -/
def msixEnt (n v : Nat) (s : State) : MsixEnt := lookD {} s.host.msix (msixKey n v)

/-- A word of function `n`'s MSI-X table. -/
def msixWord (n off : Nat) (s : State) : Nat :=
  let e := msixEnt n (off / 16) s
  match off % 16 / 4 with
  | 0 => wrap 32 e.addr
  | 1 => e.addr / 2 ^ 32
  | 2 => e.data
  | _ => b2n e.masked

/-- A word of function `n`'s pending bits. -/
def pbaWord (n off : Nat) (s : State) : Nat :=
  (((List.range 32).filter (fun i => (msixEnt n (8 * off + i) s).pend)).map (2 ^ ·)).sum

/-- Vectors of a function (R316). -/
def vectors (fn : Nat) : Nat := if fn = 0 then 2048 else 64
/-- Where its MSI-X table and pending bits stand in BAR 0 (Table 3). -/
def msixBase (fn : Nat) : Nat := if fn = 0 then 0x280000 else 0x60000
/-- Its pending bits. -/
def pbaBase (fn : Nat) : Nat := if fn = 0 then 0x290000 else 0x61000

/-- `off` lies in the `n` bytes from `base`. -/
def within (base n off : Nat) : Bool := decide (base ≤ off) && decide (off < base + n)

/-- The 32-bit word that function `fn`'s BAR 0 shows at `off`; reserved space reads zero (R25). -/
def readWord (fn off : Nat) (s : State) : Nat :=
  if !offOpen fn off s then 0
  else if fn = 0 ∧ within 0x1000 0x1000 off then recordWord (off - 0x1000) s
  else if fn ≠ 0 ∧ within 0x50000 0x1000 off then pageWord fn (off - 0x50000) s
  else if within (msixBase fn) (16 * vectors fn) off then msixWord fn (off - msixBase fn) s
  else if within (pbaBase fn) (vectors fn / 8) off then pbaWord fn (off - pbaBase fn) s
  else match regAt fn off with
    | some (b, i, high) => slice (regView b i s) (if high then 32 else 0) 32
    | none => 0

/-- The key of a register's latch. -/
def latchKey (b : RegBlk) (i : Nat) : Nat := 65536 * b.code + i

/-- The 64-bit counter of a unit that VF `fn`'s counter page shows at `off` (R483), as the key of its latch. -/
def pageLatch (fn off : Nat) (s : State) : Option Nat :=
  if fn = 0 ∨ !within 0x50080 0xF80 off ∨ !offOpen fn off s ∨ 9 ≤ off % 128 / 8 then none else
  (((pageUnits fn s).filter (fun u => !unitHidden fn u s))[(off - 0x50000) / 128 - 1]?).map
    (fun u => 2 ^ 40 + (fn * 128 + u) * 16 + off % 128 / 8)

/-- The latch of the 64-bit register that function `fn`'s BAR 0 shows at `off`, and whether `off` is its high half (R503). -/
def latchAt (fn off : Nat) (s : State) : Option (Nat × Bool) :=
  match regAt fn off with
  | some (b, i, high) => if b.bits = 64 then some (latchKey b i, high) else none
  | none => (pageLatch fn off s).map (fun k => (k, off % 8 == 4))

/-- A 32-bit read: of the low half of a 64-bit register it latches the high half, which the next 32-bit read of the high half
returns (R503). -/
def readLatched (fn off : Nat) (s : State) : Nat × State :=
  let v := readWord fn off s
  match latchAt fn off s with
  | some (k, true) => ((look s.latches k).getD v, { s with latches := del k s.latches })
  | some (k, false) => (v, { s with latches := put k (readWord fn (off + 4) s) s.latches })
  | none => (v, s)

/-- Bytes of a function's BAR 0 (Table 3). -/
def barSize (fn : Nat) : Nat := if fn = 0 then 0x4000000 else 0x100000

/-- An access to BAR 0 is 4 or 8 bytes, naturally aligned, and within it (R26). -/
def accessOk (fn off size : Nat) : Bool := (size == 4 || size == 8) && off % size == 0 && decide (off + size ≤ barSize fn)

/-- An access that R26 does not allow: Unsupported Request, and HOST_ERRLOG. -/
def refuseAccess (fn off tag : Nat) (write : Bool) (s : State) : State := unsupportedReq fn tag write (hostErr 0 fn 0 off s)

/-- REG_LOW_HALF_READ (R503): the host reads BAR 0 of function `fn`. -/
def doRegLowHalfRead (fn off size tag : Nat) (s : State) : State :=
  let s := raiseWake 0x13 fn s
  if !memSpace fn s then unsupportedReq fn tag false s
  else if !accessOk fn off size then refuseAccess fn off tag false s
  else if size = 8 then hostCpl tag 0 (toBytes 8 (readWord fn off s + 2 ^ 32 * readWord fn (off + 4) s)) s
  else
    let r := readLatched fn off s
    hostCpl tag 0 (toBytes 4 r.1) r.2

/-- REG_LOW_HALF_READ. -/
def execRegLowHalfRead (fn off size tag : Nat) (s : State) : Host.Outcome State Fault Refusal :=
  .next (clocked (doRegLowHalfRead fn off size tag) s)

/-- BAR_ACCESS_INVALID (R25, R26): a request to BAR 0 of the wrong size or alignment, or outside every BAR (`bar` none). -/
def doBarAccessInvalid (fn : Nat) (bar : Option Nat) (off size tag : Nat) (write : Bool) (s : State) : State :=
  let s := raiseWake 0x13 fn s
  match bar with
  | some 0 =>
    if !memSpace fn s then unsupportedReq fn tag write s
    else if accessOk fn off size then s else refuseAccess fn off tag write s
  | some _ => s
  | none => unsupportedReq fn tag write s

/-- BAR_ACCESS_INVALID. -/
def execBarAccessInvalid (fn : Nat) (bar : Option Nat) (off size tag : Nat) (write : Bool) (s : State) :
    Host.Outcome State Fault Refusal := .next (clocked (doBarAccessInvalid fn bar off size tag write) s)

/-! ## Writing (R10 to R13) -/

/-- SETUP_LOCK is set. -/
def setupLocked (s : State) : Bool := rdb HUB_GLOBAL_SETUP_LOCK 0 s

/-- A value of a field, or 0 for one that its table reserves (R8). -/
def legal (f : Fld) (i v : Nat) : Nat :=
  if f.code = MEM_GLOBAL_RATE.code then (if 4 < v then 0 else v)
  else if f.code = MEM_GLOBAL_SPARE.code then (if 8 < v then 0 else v)
  else if f.code = SITE_MWIN_SIZE.code then (if 64 < v then 0 else v)
  else if f.code = HOST_APERTURE_SIZE_GIB.code then (if 512 < v then 0 else v)
  else if f.code = DS_CTL_ATTN_LED.code then (if v = 3 then 0 else v)
  else if f.code = SITE_CFG_GANG.code then (if i % 2 = 1 then 0 else v)
  else if f.code = CNT_SEL_EVENT.code then (if eventOk (i / 8) v then v else 0)
  else if f.code = CNT_SEL_CHAIN.code then (if i % 2 = 0 then 0 else v)
  else v

/-- The bits `m` of field `f`, index `i`, are written with `v` by its access code (Table 2). -/
def writeFld (f : Fld) (i m v : Nat) (s : State) : State :=
  let old := rd f i s
  let new := Nat.lor (old - Nat.land old m) (Nat.land v m)
  match f.acc with
  | .rw | .rws => wr f i (legal f i (wrap f.w new)) s
  | .rwl => if setupLocked s then s else wr f i (legal f i (wrap f.w new)) s
  | .rw1c => wr f i (old - Nat.land old (Nat.land v m)) s
  | .ro | .wo => s

/-- The bits `m` of register `b`, index `i`, are written with `v`, each field by its access code. -/
def writeFields (b : RegBlk) (i m v : Nat) (s : State) : State :=
  forEach b.flds (fun f s => if slice m f.lo f.w = 0 then s else writeFld f i (slice m f.lo f.w) (slice v f.lo f.w) s) s

/-- A mailbox command starts (R390, Table 4 and the life cycle's and the store's tables); other opcodes complete UNSUPPORTED. -/
def startCommand (op : Nat) (s : State) : State :=
  match op with
  | 0x01 => doExtentAssign s
  | 0x02 => doExtentRelease s
  | 0x03 => doPartAssign s
  | 0x04 => doPartRelease s
  | 0x05 => doFuncBind s
  | 0x06 => doConfEnter s
  | 0x07 => doPortRekey s
  | 0x08 => doZeroize s
  | 0x09 => doLcTokenLoad none s
  | 0x0A => doLcTransition none s
  | 0x0B => doLcChallenge none s
  | 0x0C => doDebugGrant none s
  | 0x0D => doDebugRevoke none s
  | 0x0E => doLcSelectCompat none s
  | 0x10 => doCfgRead s
  | 0x11 => doCfgWrite s
  | 0x12 => doImageLoad s
  | _ => if rdb MBX_STATUS_BUSY 0 s then s else mbxEnd op .unsupported 0 s

/-- The registers that ignore writes under static regulation (R265). -/
def staticHeld (b : RegBlk) : Bool :=
  [REG_CLASS_blk.code, REG_PORT_blk.code, REG_FUNC_blk.code, REG_STATIC_blk.code, SC_WAYS_blk.code].contains b.code

/-- The registers of a ring that accept writes only in DISABLED (R360). -/
def ringHeld (b : RegBlk) : Bool :=
  [RING_BASE_blk.code, RING_DB_blk.code, RING_CFG_blk.code, RING_PASID_blk.code, RING_EPOCH_blk.code].contains b.code

/-- SITE_CTL: FENCE and RESET act, ENABLE is kept for the next reset (R237, R238). -/
def writeSiteCtl (j m v : Nat) (s : State) : State :=
  let s := writeFields SITE_CTL_blk j m v s
  let s := if bit v 1 then doSiteFence j s else s
  if bit v 0 then doSiteReset j s else s

/-- DS_CTL (R330, R331): the indicator follows ATTN_LED but in FAULT. -/
def writeDsCtl (p m v : Nat) (s : State) : State :=
  let s := writeFields DS_CTL_blk p m v s
  let s := if dsState p s = 5 then s else dsPin p 7 (rd DS_CTL_ATTN_LED p s) s
  let s := if bit v 1 then doPowerOn p s else s
  let s := if bit v 2 then doRemove p s else s
  if bit v 3 then doClear p s else s

/-- PWR_RAIL_r: RAIL_FAULT shows whether a FAULT bit is left. -/
def writeRail (r m v : Nat) (s : State) : State :=
  let s := writeFields PWR_RAIL_blk r m v s
  wrb PWR_STATUS_RAIL_FAULT 0 ((List.range 6).any (fun i => rdb PWR_RAIL_FAULT i s)) s

/-- The low word of a register with an effect of its own, or any word of another, is written. -/
def writeReg (b : RegBlk) (i : Nat) (high : Bool) (v : Nat) (s : State) : State :=
  let m := if high then (2 ^ 32 - 1) * 2 ^ 32 else 2 ^ 32 - 1
  let x := if high then v * 2 ^ 32 else v
  if !blkOn b i s then s
  else if b.code = HUB_GLOBAL_blk.code then (if bit v 0 then setB HUB_GLOBAL_SETUP_LOCK 0 s else s)
  else if b.code = RULE_CTL_blk.code then doRuleCtlWrite (slice v 0 2) (slice v 2 5) (slice v 7 5) (bit v 12) s
  else if b.code = CAL_CTL_blk.code then doCalCtlWrite (bit v 0) s
  else if b.code = ARRIVAL_blk.code then doArrivalWrite i v s
  else if b.code = HOST_HDM_blk.code then (if high then s else doHostHdmWrite (slice v 0 14) (slice v 14 11) s)
  else if b.code = SITE_CTL_blk.code then writeSiteCtl i m x s
  else if b.code = DS_CTL_blk.code then writeDsCtl i m x s
  else if b.code = TMO_ONDIE_blk.code then doTmoWrite 0 (slice v 0 10) s
  else if b.code = TMO_SITE_blk.code then doTmoWrite 1 (slice v 0 14) s
  else if b.code = TMO_SYREL_blk.code then doTmoWrite 2 (slice v 0 7) s
  else if b.code = REG_CTL_blk.code then (if rdb SEC_STATUS_CONFIDENTIAL 0 s then s else writeFields b i m x s)
  else if staticHeld b && staticOn s then s
  else if b.code = SYR_CTL_blk.code then
    let s := if slice v 0 3 = 0 then s else doJoin (slice v 0 3) s
    if bit v 3 then doSyrFence s else s
  else if b.code = RING_CTL_blk.code then (if bit v 0 then doRingEnable i s else doRingDisable i s)
  else if b.code = RING_IDX_blk.code then doRingIdxWrite i (if high then none else some v) (if high then some v else none) s
  else if ringHeld b && rd RING_STATUS_STATE i s != 0 then s
  else if b.code = MBX_CTL_blk.code then (if bit v 8 then startCommand (slice v 0 8) s else s)
  else if b.code = HUB_RST_blk.code then
    if s.boot.bring.isSome then s else if bit v 0 then doSoftReset s else if bit v 1 then doPartialReset s else s
  else if b.code = PWR_RAIL_blk.code then writeRail i m x s
  else writeFields b i m x s

/-- A word of function `n`'s MSI-X table is written; a vector that is no longer masked sends what it owes. -/
def writeMsix (n off v : Nat) (s : State) : State :=
  let k := msixKey n (off / 16)
  let e := lookD {} s.host.msix k
  let e := match off % 16 / 4 with
    | 0 => { e with addr := e.addr / 2 ^ 32 * 2 ^ 32 + wrap 32 v / 4 * 4 }
    | 1 => { e with addr := wrap 32 e.addr + wrap 32 v * 2 ^ 32 }
    | 2 => { e with data := wrap 32 v }
    | _ => { e with masked := bit v 0 }
  unmaskMsix n { s with host := { s.host with msix := put k e s.host.msix } }

/-- A 32-bit word is written in function `fn`'s BAR 0; reserved space ignores it (R25). -/
def writeWord (fn off v : Nat) (s : State) : State :=
  if !offOpen fn off s then s
  else if within (msixBase fn) (16 * vectors fn) off then writeMsix fn (off - msixBase fn) v s
  else match regAt fn off with
    | some (b, i, high) => writeReg b i high (wrap 32 v) s
    | none => s

/-! ## Items locked for a TDI (R398) -/

/-- What is locked for function `n` and a register write can change: SITE_CFG of its partition's sites, REG_FUNC_n, REG_CLASS and
SC_WAYS of its class, its quotas, and the DS_ASSIGN entries and SYR_FWIN windows that name it. -/
def lockedItems (n : Nat) (s : State) : List Nat :=
  let sites := match partOf n s with
    | some p => (List.range 8).filter (fun j => sitePart j s == p)
    | none => []
  let c := rd REG_FUNC_CLASS n s
  (sites.flatMap (fun j => [j, regImage SITE_CFG_blk j s])) ++
  [c, regImage REG_CLASS_blk c s, rd SC_WAYS_ALLOC_MASK c s, rd SES_QUOTA_MAX n s, rd STR_QUOTA_MAX n s, rd CAL_QUOTA_MAX n s] ++
  ((List.range 64).filter (fun a => rd DS_ASSIGN_FUNCTION a s == n)).flatMap (fun a => [a, regImage DS_ASSIGN_blk a s]) ++
  ((List.range 16).filter (fun w => rd SYR_FWIN_FUNCTION w s == n)).flatMap (fun w => [w, regImage SYR_FWIN_blk w s])

/-- The TDIs in CONFIG_LOCKED or RUN whose locked items differ between two states move to ERROR (R327, R398). -/
def guardTdis (old s : State) : State :=
  let ns := (listed FUNC_CFG_TDI old).filter (fun p => p.2 == 1 || p.2 == 2)
  forEach ns (fun p s => if lockedItems p.1 old == lockedItems p.1 s then s else tdiError p.1 s) s

/-- A write of 4 or 8 bytes to function `fn`'s BAR 0. -/
def writeBar (fn off size v : Nat) (s : State) : State :=
  let t := writeWord fn off v s
  guardTdis s (if size = 8 then writeWord fn (off + 4) (v / 2 ^ 32) t else t)

/-- REG_WRITE (R10 to R13, R26): the host writes function `fn`'s BAR 0; `poison`: the write is poisoned, and its data is not used
(R323). -/
def doRegWrite (fn off size v : Nat) (poison : Bool) (s : State) : State :=
  let s := raiseWake 0x13 fn s
  if !memSpace fn s then unsupportedReq fn 0 true s
  else if poison then poisonedTlp fn 0 off s
  else if !accessOk fn off size then refuseAccess fn off 0 true s
  else writeBar fn off size v s

/-- REG_WRITE. -/
def execRegWrite (fn off size v : Nat) (poison : Bool) (s : State) : Host.Outcome State Fault Refusal :=
  .next (clocked (doRegWrite fn off size v poison) s)

/-- SETUP_LOCK_SET (R13): 1 is written to HUB_GLOBAL.SETUP_LOCK. -/
def doSetupLockSet (s : State) : State := if offOpen 0 0x10 s then setB HUB_GLOBAL_SETUP_LOCK 0 s else s

/-- SETUP_LOCK_SET. -/
def execSetupLockSet (s : State) : Host.Outcome State Fault Refusal := .next (clocked doSetupLockSet s)

end Sys2Proof.Machine
end

