-- ==== Sys2Proof/Machine/Bringup.lean ====
section
/-! DEFINITION. Sys2Proof/Machine/Bringup.lean: the end of bring-up: configuration, firmware banks, the memory and slice plans,
firmware's extents, the bring-up record and READY (spec/17_bringup_reset_service.md R424 to R432, R437,
spec/07_memory_and_system_cache.md R159 to R165, R178, spec/15_security_and_isolation.md R389). -/

namespace Sys2Proof.Machine

open Sys2Proof

/-! ## Configuration bank and firmware (R429, R437) -/

/-- The RTP selects the bank of the configuration store; with none it says so (Table 5). -/
def selectCfg (s : State) : State :=
  let c := chooseCfg s.boot.flash
  let s := setBoot (fun x => { x with cfgUse := c }) s
  let s := s |> wr HUB_BOOT_CFG_BANK 0 (c.getD 0) |> wrb HUB_BOOT_CFG_NONE 0 c.isNone
  if c.isNone then addEntry 0xA 0 1 0 s else s

/-- The bank of target `t` that firmware starts from: the active one if it verifies, else the other; none if neither does. -/
def pickBank (t : Nat) (s : State) : Option Nat :=
  let a := nth 0 s.boot.flash.active (t - 1)
  if bankGood t (fwBank t a s) s then some a
  else if bankGood t (fwBank t (1 - a) s) s then some (1 - a)
  else none

/-- A target starts (R437): the bank in use is active, and a fallback or a failure is recorded. The staging image of a target that
falls back is no longer staged. -/
def startTarget (t : Nat) (s : State) : State :=
  let a := nth 0 s.boot.flash.active (t - 1)
  match pickBank t s with
  | none => addEntry 0x9 t 2 0 (s |> wr FW_ACTIVE_VERSION (t - 1) 0 |> wr FW_STAGE_ACTIVE_BANK (t - 1) a)
  | some b =>
    let v := manVersion (fwBank t b s).man
    let s := s |> wr FW_ACTIVE_VERSION (t - 1) v |> wr FW_STAGE_ACTIVE_BANK (t - 1) b
    if b = a then s else
    let s := setStage t 0 0 0 (wr HUB_BOOT_FALLBACK 0 (rd HUB_BOOT_FALLBACK 0 s + 2 ^ (t - 1)) s)
    addEntry 0x9 t 1 v (setBoot (fun x => { x with flash := { x.flash with active := modNth (t - 1) (fun _ => b) x.flash.active } }) s)

/-! ## Memory (R159 to R164, R178) -/

/-- Cold training of MEM_j: the package it finds, and its channels. -/
def trainSite (j : Nat) (f : MemFound) (s : State) : State :=
  if f.pkg = 0 then
    s |> wr MEM_CFG_PKG j 0 |> wr MEM_CFG_DUAL_RANK j 0 |> wr MEM_CHCAP_GRANULES j 0 |> wr MEM_STATUS_STATE j 0
      |> wr MEM_STATUS_CH_OK j 0 |> wr MEM_STATUS_HALF_HIGH j 0 |> wr SITE_SLOTS_WEIGHT j 0
  else
    let s := setSiteMode j (wrap 8 f.ok)
      (s |> wr MEM_CFG_PKG j f.pkg |> wrb MEM_CFG_DUAL_RANK j f.dual |> wr MEM_CHCAP_GRANULES j (31 * (f.raw / 32)))
    forEach ((List.range 8).filter (bit f.ok)) (fun c s => trainRate j c s) s

/-- What the bring-up record says of MEM_j: its failed channels, and its mode (Table 5). -/
def recordSite (j : Nat) (s : State) : State :=
  let st := rd MEM_STATUS_STATE j s
  let s := if st = 0 then s else
    forEach (List.range 8) (fun c s => if bit (rd MEM_STATUS_CH_OK j s) c then s else addEntry 0x2 (8 * j + c) 1 0 s) s
  match st with
  | 0 => addEntry 0x3 j 1 0 s
  | 2 => addEntry 0x3 j 2 (rd MEM_STATUS_HALF_HIGH j s) s
  | 4 => addEntry 0x3 j 3 (rd MEM_STATUS_HALF_HIGH j s) s
  | _ => s

/-- The memory sites: trained in COLD bring-up; in WARM and SOFT the channels keep their training, and a site that has lost a
channel takes its mode from those it has (R169, R178). A site out of service stays out. -/
def bringMemory (cold : Bool) (l : List MemFound) (s : State) : State :=
  forEach (List.range (memSites s)) (fun j s =>
    let st := rd MEM_STATUS_STATE j s
    let s := if cold then trainSite j (nth { pkg := 0 } l j) s
             else if st = 0 ∨ st = 3 then s else setSiteMode j (rd MEM_STATUS_CH_OK j s) s
    recordSite j s) s

/-- The weight w_s of MEM_j. -/
def siteWeight (j : Nat) (s : State) : Nat := rd SITE_SLOTS_WEIGHT j s

/-- The list of the default plan (R164): sites with weight, then those with weight 2. -/
def planSites (s : State) : List Nat :=
  (List.range (memSites s)).filter (fun j => 1 ≤ siteWeight j s) ++ (List.range (memSites s)).filter (fun j => siteWeight j s == 2)

/-- The default steering plan (R164), and NE, NF and MEM_SIZE (R162). -/
def steeringPlan (s : State) : State :=
  let s := setMem (fun m => { m with moveTo := none, moves := [], partMoves := [] }) s
  let l := planSites s
  let w := l.length
  let ones := ((List.range (memSites s)).filter (fun j => 1 ≤ siteWeight j s)).length
  let k := if w = 0 then 0 else 1024 / w
  let ne := w * k
  let s := forEach (List.range 1024) (fun e s => s |> rst SITE_STEER_SITE e |> rst SITE_STEER_SLOT e |> rst SITE_STEER_VALID e) s
  let s := forEach (List.range ne) (fun e s =>
    let j := nth 0 l (e % w)
    s |> wr SITE_STEER_SITE e j |> wr SITE_STEER_SLOT e (e / w * siteWeight j s + (if ones ≤ e % w then 1 else 0))
      |> wr SITE_STEER_VALID e 1) s
  let s := forEach (List.range (memSites s)) (fun j s =>
    wr SITE_SLOTS_SLOTS j (siteWeight j s * (k + rd MEM_GLOBAL_SPARE 0 s)) s) s
  let nfs := ((List.range (memSites s)).filter (fun j => rd SITE_SLOTS_SLOTS j s != 0)).map (fun j => granules j s / rd SITE_SLOTS_SLOTS j s)
  let nf := match nfs with
    | [] => 0
    | a :: t => t.foldl min a
  s |> wr MEM_GEOM_NE 0 ne |> wr MEM_NF_NF 0 nf |> wr MEM_SIZE_BYTES 0 (ne * nf * 256)

/-! ## Tiles and slices (R165) -/

/-- Each tile that passed its proof pass is in service with the built-in set; the others are out, and recorded. -/
def bringTiles (ok : Nat) (s : State) : State :=
  forEach (List.range (tiles s)) (fun t s =>
    let s := loadBuiltIn t s
    if bit ok t then s else addEntry 0x1 (ptileOf t s) 1 t (wr GRV_STATUS_STATE t 3 s)) s

/-- The default slice plan: bucket b to the (b mod N)-th tile in service. -/
def slicePlan (s : State) : State :=
  let l := tilesIn s
  forEach (List.range 4096) (fun b s => s |> wr SLICE_STEER_TILE b (nth 0 l (b % l.length)) |> wr SLICE_STEER_MOVING b 0) s

/-! ## Firmware's extents (R389) -/

/-- The extents that Herva firmware takes: the run that ends at the highest extent wholly below MEM_SIZE. -/
def firmwareExts (s : State) : List Nat :=
  let top := min 2560 (memSize s / 2 ^ 30)
  let n := min top (1 + Config.firmwareRun s.fuses.variant (rd FW_ACTIVE_VERSION 0 s) % 4)
  (List.range n).map (fun i => top - n + i)

/-- They read KIND FIRMWARE, under the key of slot 84. -/
def takeFirmwareExts (s : State) : State :=
  newKey 84 (forEach (firmwareExts s) (fun e s => s |> wr EXT_KIND e 2 |> setB EXT_KEY_EN e) s)

/-! ## Configuration items (R431, Table 3) -/

/-- The last item of each type, in order. -/
def lastItems (l : List (Nat × List Byte)) : List (Nat × List Byte) :=
  match l with
  | [] => []
  | p :: t => if t.any (fun q => q.1 == p.1) then lastItems t else p :: lastItems t

/-- The items that bring-up applies. -/
def cfgItems (s : State) : List (Nat × List Byte) := ((bankUsed s).map (fun b => lastItems (bankItems b))).getD []

/-- SETUP: its pairs are written in order as PF writes. -/
def applySetup : Nat → List Byte → State → State
  | 0, _, s => s
  | fuel + 1, l, s =>
    if l.length < 8 then s
    else applySetup fuel (l.drop 8) (writeBar 0 (ofBytes (l.take 4) / 4 * 4) 4 (ofBytes ((l.drop 4).take 4)) s)

/-- RULING: images of RULE_CTL, RULE_START and RULE_PIN_DELAY; the position is set before the role. -/
def applyRuling (d : List Byte) (s : State) : State :=
  let c := ofBytes (d.take 4)
  let s := s |> wr RULE_START_START 0 (ofBytes ((d.drop 4).take 8)) |> wr RULE_PIN_DELAY_DELAY 0 (ofBytes ((d.drop 12).take 2))
  doRuleCtlWrite (slice c 0 2) (slice c 2 5) (slice c 7 5) (bit c 12) s

/-- MEMORY comes before the channels train and the plan is built (R160, R164). -/
def applyMemory (s : State) : State :=
  match (cfgItems s).find? (fun p => p.1 == 0x0003) with
  | some p =>
    let v := ofBytes (p.2.take 4)
    s |> wr MEM_GLOBAL_RATE 0 (legal MEM_GLOBAL_RATE 0 (slice v 0 4)) |> wr MEM_GLOBAL_SPARE 0 (legal MEM_GLOBAL_SPARE 0 (slice v 4 4))
  | none => s

/-- An item is applied. Keys, roots, policies and SAVED_STEERING are only read from the store; MEMORY and JOIN have a time of
their own; an item of unknown TYPE is skipped and recorded. -/
def applyItem (p : Nat × List Byte) (s : State) : State :=
  let v := ofBytes (p.2.take 4)
  match p.1 with
  | 0x0001 => s |> wr HUB_ID_ID 0 (slice v 0 12) |> wr HUB_ID_TWIN 0 (slice v 12 1) |> setB HUB_ID_ID_VALID 0
  | 0x0002 => applyRuling p.2 s
  | 0x0004 => setBoot (fun x => { x with subsys := v }) s
  | 0x000B => applySetup (p.2.length / 8) p.2 s
  | 0x0003 | 0x0005 | 0x0006 | 0x0007 | 0x0008 | 0x0009 | 0x000A | 0x000C => s
  | ty => addEntry 0xA 0 2 ty (setBoot (fun x => { x with skipped := true }) s)

/-- What an item would have loaded is at its reset value where no bank is valid (R429). -/
def noItems (s : State) : State :=
  let s := s |> rst HUB_ID_ID 0 |> rst HUB_ID_TWIN 0 |> rst HUB_ID_ID_VALID 0 |> rst RULE_START_START 0 |> rst RULE_PIN_DELAY_DELAY 0
    |> rst MEM_GLOBAL_RATE 0 |> rst MEM_GLOBAL_SPARE 0
  doRuleCtlWrite 0 0 0 false (setBoot (fun x => { x with subsys := 0 }) s)

/-- The axes that the store names join (R299); with no valid bank none does. -/
def joinNamed (s : State) : State :=
  match (cfgItems s).find? (fun p => p.1 == 0x0005) with
  | some p => doJoin (slice (ofBytes (p.2.take 4)) 0 3) s
  | none => s

/-! ## READY (R424 to R426) -/

/-- The host link, and its record where it is below x16 at 64 GT/s. -/
def bringLink (l : HostLink) (s : State) : State :=
  let s := setLink l s
  if l.rate = 6 ∧ l.width = 16 then s else addEntry 0x7 0 1 (rd HOST_STATUS_RATE 0 s + 2 ^ 3 * rd HOST_STATUS_WIDTH 0 s) s

/-- Nothing holds READY at 0 (R426). -/
def mayReady (s : State) : Bool :=
  rdb SEC_STATUS_SELFTEST_OK 0 s && !rdb SEC_STATUS_FIPS_ERROR 0 s && rd FW_ACTIVE_VERSION 0 s != 0 &&
  rd FW_ACTIVE_VERSION 1 s != 0 && !(tilesIn s).isEmpty && !(planSites s).isEmpty && decide (s.life.state < 4)

/-- The RTP's self-tests of a cold power-on, unless they have run (R404, R405): the island is ready, or in the error state. -/
def coldSelftest (cls : Nat) (ok : Bool) (s : State) : State :=
  if cls ≠ 0 ∨ rdb SEC_STATUS_SELFTEST_OK 0 s ∨ rdb SEC_STATUS_FIPS_ERROR 0 s then s
  else if ok then selftestsPass s else fipsEnter s

/-- The bank of the configuration store is selected; at a cold power-on in ANALYSIS the store is reduced before any of it is
used (R420). -/
def startStore (cls : Nat) (s : State) : State :=
  let s := selectCfg s
  if cls ≠ 0 then s else
  let s := startWipe s
  wr HUB_BOOT_CFG_BANK 0 (s.boot.cfgUse.getD 0) s

/-- Configuration space is ready, whatever holds READY. -/
def hostUp (s : State) : State := { s with host := { s.host with cfgReady := true } }

/-- Everything but READY: items, plans, extents and the record. The board's reference clocks run, so the fabric's is locked
(Table 1; DESIGN CHOICE, log entry 162). -/
def bringUpWork (cls since : Nat) (f : BringUp) (s : State) : State :=
  let kept := s.boot.entries.filter (fun e => [0x4, 0x5, 0x6, 0x8].contains e.1)
  let s := setB SYR_STATUS_CLK_OK 0 (setBoot (fun x => { x with cls := cls, skipped := false, entries := kept }) (hostUp s))
  let s := coldSelftest cls f.selftest (startStore cls s)
  let s := forEach [2, 1, 3] startTarget (wr HUB_BOOT_FALLBACK 0 0 (wr HUB_BOOT_LAST 0 cls s))
  let s := if s.boot.cfgUse.isNone then noItems s else applyMemory s
  let s := if f.ruleRef then setB RULE_STATUS_PIN_REF_OK 0 s else s
  let s := if cls = 2 then s else bringLink f.link s
  let s := slicePlan (bringTiles f.tiles (steeringPlan (bringMemory (cls == 0) f.mem s)))
  let s := forEach (cfgItems s) applyItem (takeFirmwareExts s)
  let s := forEach f.groups (fun p => setGroup p.1 p.2) (forEach f.routes (fun p => setRoute p.1 p.2) s)
  wr HUB_BOOT_READY_MS 0 ((now16 s - since) / us16 1000) s

/-- READY is set and posted; a MASTER hub is LOCKED (R39), and the axes named join. -/
def setReady (s : State) : State :=
  let s := setB HUB_GLOBAL_READY 0 (setBoot (fun x => { x with bring := none }) s)
  let s := wrb HUB_GLOBAL_DEGRADED 0 (!s.boot.entries.isEmpty) s
  let s := if role s = 1 then enterLocked s else s
  let s := hubEvent [0] 0x0001 .ok (regImage HUB_GLOBAL_blk 0 s) s
  resumeRings (joinNamed s)

/-- BRINGUP_COMPLETE (R424, R425): training has ended, and the extents that R394 names have been overwritten. In SCRAPPED and
LOCKED nothing trains but the host link (R410). -/
def doBringupComplete (f : BringUp) (s : State) : State :=
  match s.boot.bring with
  | none => s
  | some (cls, since) =>
    if s.boot.perst || !s.sec.burns.isEmpty || s.sec.rtpAt.isSome then s
    else if 4 ≤ s.life.state then setLink f.link (hostUp (coldSelftest cls f.selftest s))
    else
      let s := bringUpWork cls since f s
      if mayReady s then setReady s else s

/-- BRINGUP_COMPLETE. -/
def execBringupComplete (f : BringUp) (s : State) : Host.Outcome State Fault Refusal := .next (clocked (doBringupComplete f) s)

end Sys2Proof.Machine
end

