-- ==== Sys2Proof/Machine/Dispatch.lean ====
section
/-! DEFINITION. Sys2Proof/Machine/Dispatch.lean: which meaning each command has, one arm per constructor. -/

namespace Sys2Proof.Machine

open Sys2Proof

/-- The effect of a command on everything but the queue. -/
def exec (i : Instr) (s : State) : Host.Outcome State Fault Refusal :=
  match i with
  | .regWrite fn off size v poison => Sys2Proof.Machine.execRegWrite fn off size v poison s
  | .setupLockSet => Sys2Proof.Machine.execSetupLockSet s
  | .regLowHalfRead fn off size tag => Sys2Proof.Machine.execRegLowHalfRead fn off size tag s
  | .barAccessInvalid fn bar off size tag write => Sys2Proof.Machine.execBarAccessInvalid fn bar off size tag write s
  | .ruleCtlWrite role parent alt altEn => Sys2Proof.Machine.execRuleCtlWrite role parent alt altEn s
  | .ruleSegment g k => Sys2Proof.Machine.execRuleSegment g k s
  | .exchangeSymbolTx p => Sys2Proof.Machine.execExchangeSymbolTx p s
  | .exchangeSymbolRx p c => Sys2Proof.Machine.execExchangeSymbolRx p c s
  | .delayRemeasure p => Sys2Proof.Machine.execDelayRemeasure p s
  | .segmentApply => Sys2Proof.Machine.execSegmentApply s
  | .ruleSyncMark => Sys2Proof.Machine.execRuleSyncMark s
  | .ruleSyncFrame f => Sys2Proof.Machine.execRuleSyncFrame f s
  | .parentSilenceTimeout => Sys2Proof.Machine.execParentSilenceTimeout s
  | .lockLossTimeout => Sys2Proof.Machine.execLockLossTimeout s
  | .ruleRefLoss => Sys2Proof.Machine.execRuleRefLoss s
  | .holdRelease => Sys2Proof.Machine.execHoldRelease s
  | .beaconSend => Sys2Proof.Machine.execBeaconSend s
  | .calArm a => Sys2Proof.Machine.execCalArm a s
  | .calCancel a => Sys2Proof.Machine.execCalCancel a s
  | .calFire ix => Sys2Proof.Machine.execCalFire ix s
  | .calGateTimeout ix => Sys2Proof.Machine.execCalGateTimeout ix s
  | .calCtlWrite en => Sys2Proof.Machine.execCalCtlWrite en s
  | .arrivalWrite g v => Sys2Proof.Machine.execArrivalWrite g v s
  | .calLowPowerExit => Sys2Proof.Machine.execCalLowPowerExit s
  | .graverLoad g k => Sys2Proof.Machine.execGraverLoad g k s
  | .graverLaunch g k => Sys2Proof.Machine.execGraverLaunch g k s
  | .launchStart t => Sys2Proof.Machine.execLaunchStart t s
  | .graverNop t => Sys2Proof.Machine.execGraverNop t s
  | .fma t => Sys2Proof.Machine.execFma t s
  | .add t => Sys2Proof.Machine.execAdd t s
  | .mul t => Sys2Proof.Machine.execMul t s
  | .min t => Sys2Proof.Machine.execMin t s
  | .max t => Sys2Proof.Machine.execMax t s
  | .cmp t => Sys2Proof.Machine.execCmp t s
  | .sel t => Sys2Proof.Machine.execSel t s
  | .cvt t => Sys2Proof.Machine.execCvt t s
  | .scale2 t => Sys2Proof.Machine.execScale2 t s
  | .ex2 t => Sys2Proof.Machine.execEx2 t s
  | .rcp t => Sys2Proof.Machine.execRcp t s
  | .mov t => Sys2Proof.Machine.execMov t s
  | .mop t => Sys2Proof.Machine.execMop t s
  | .pwait t => Sys2Proof.Machine.execPwait t s
  | .prel t => Sys2Proof.Machine.execPrel t s
  | .launchComplete t => Sys2Proof.Machine.execLaunchComplete t s
  | .launchTimeout t => Sys2Proof.Machine.execLaunchTimeout t s
  | .panelLoadDone t b => Sys2Proof.Machine.execPanelLoadDone t b s
  | .panelDrainDone t b => Sys2Proof.Machine.execPanelDrainDone t b s
  | .kvPoolAdd g k => Sys2Proof.Machine.execKvPoolAdd g k s
  | .sesCreate g k => Sys2Proof.Machine.execSesCreate g k s
  | .kvAppend g k => Sys2Proof.Machine.execKvAppend g k s
  | .sesFork g k => Sys2Proof.Machine.execSesFork g k s
  | .sesPark g k => Sys2Proof.Machine.execSesPark g k s
  | .sesRestore g k => Sys2Proof.Machine.execSesRestore g k s
  | .sesMirror g k ans => Sys2Proof.Machine.execSesMirror g k ans s
  | .sesMigrate g k ans => Sys2Proof.Machine.execSesMigrate g k ans s
  | .sesDelete g k => Sys2Proof.Machine.execSesDelete g k s
  | .sesQuery g k => Sys2Proof.Machine.execSesQuery g k s
  | .streamAdmit g k => Sys2Proof.Machine.execStreamAdmit g k s
  | .streamRetire g k => Sys2Proof.Machine.execStreamRetire g k s
  | .dsDeviceCompletion p tag outcome data => Sys2Proof.Machine.execDsDeviceCompletion p tag outcome data s
  | .attnBatch g k => Sys2Proof.Machine.execAttnBatch g k s
  | .attnBatchStart => Sys2Proof.Machine.execAttnBatchStart s
  | .attnItemComplete t => Sys2Proof.Machine.execAttnItemComplete t s
  | .memRead j ch errs again slot => Sys2Proof.Machine.execMemRead j ch errs again slot s
  | .memWrite j ch errs again slot => Sys2Proof.Machine.execMemWrite j ch errs again slot s
  | .patrolScrub errs again => Sys2Proof.Machine.execPatrolScrub errs again s
  | .mr4Poll j ch raw cat => Sys2Proof.Machine.execMr4Poll j ch raw cat s
  | .chanRetrainDone j ch ok => Sys2Proof.Machine.execChanRetrainDone j ch ok s
  | .moveFrameCopy errs again => Sys2Proof.Machine.execMoveFrameCopy errs again s
  | .keySlotWithdraw k fresh => Sys2Proof.Machine.execKeySlotWithdraw k fresh s
  | .scRequest k fn line wrt data mask err flit dl => Sys2Proof.Machine.execScRequest k fn line wrt data mask err flit dl s
  | .bucketMoveDone => Sys2Proof.Machine.execBucketMoveDone s
  | .rdS j err => Sys2Proof.Machine.execRdS j err s
  | .rdX j err => Sys2Proof.Machine.execRdX j err s
  | .upg j err => Sys2Proof.Machine.execUpg j err s
  | .rdOnce j err => Sys2Proof.Machine.execRdOnce j err s
  | .wrP j err => Sys2Proof.Machine.execWrP j err s
  | .wb j => Sys2Proof.Machine.execWb j s
  | .invAck j => Sys2Proof.Machine.execInvAck j s
  | .snpData j => Sys2Proof.Machine.execSnpData j s
  | .grantAck j => Sys2Proof.Machine.execGrantAck j s
  | .lineDequeue line => Sys2Proof.Machine.execLineDequeue line s
  | .homeRead k id fn off len flit err => Sys2Proof.Machine.execHomeRead k id fn off len flit err s
  | .homeWrite k id fn line data mask flit err => Sys2Proof.Machine.execHomeWrite k id fn line data mask flit err s
  | .homeAtomic k id fn off len op a b flit err => Sys2Proof.Machine.execHomeAtomic k id fn off len op a b flit err s
  | .cxlCacheMessage j msg tag line data mask err => Sys2Proof.Machine.execCxlCacheMessage j msg tag line data mask err s
  | .zcpFlitRx j k retries ctrl slots => Sys2Proof.Machine.execZcpFlitRx j k retries ctrl slots s
  | .arrive j => Sys2Proof.Machine.execArrive j s
  | .pwrReq j => Sys2Proof.Machine.execPwrReq j s
  | .mgmtAck j => Sys2Proof.Machine.execMgmtAck j s
  | .chipEvent j => Sys2Proof.Machine.execChipEvent j s
  | .mmioData j => Sys2Proof.Machine.execMmioData j s
  | .zcpCmp j => Sys2Proof.Machine.execZcpCmp j s
  | .moduleDown j k unacked => Sys2Proof.Machine.execModuleDown j k unacked s
  | .siteRetrainDone j mods => Sys2Proof.Machine.execSiteRetrainDone j mods s
  | .siteFence j => Sys2Proof.Machine.execSiteFence j s
  | .siteReset j => Sys2Proof.Machine.execSiteReset j s
  | .siteQuiesceTimeout j => Sys2Proof.Machine.execSiteQuiesceTimeout j s
  | .siteResetRelease j f => Sys2Proof.Machine.execSiteResetRelease j f s
  | .siteReady j => Sys2Proof.Machine.execSiteReady j s
  | .cxlIoWrite j tag off len wrt data => Sys2Proof.Machine.execCxlIoWrite j tag off len wrt data s
  | .meshPacketDeliver vn plane src dst err => Sys2Proof.Machine.execMeshPacketDeliver vn plane src dst err s
  | .routerGate r => Sys2Proof.Machine.execRouterGate r s
  | .initiatorTimeout cls port tag => Sys2Proof.Machine.execInitiatorTimeout cls port tag s
  | .tombstoneExpire cls port tag => Sys2Proof.Machine.execTombstoneExpire cls port tag s
  | .lateCompletionDrop cls port tag => Sys2Proof.Machine.execLateCompletionDrop cls port tag s
  | .heldNotice k id => Sys2Proof.Machine.execHeldNotice k id s
  | .resumedNotice k id => Sys2Proof.Machine.execResumedNotice k id s
  | .targetAbandon k id => Sys2Proof.Machine.execTargetAbandon k id s
  | .tmoWrite cls v => Sys2Proof.Machine.execTmoWrite cls v s
  | .staticBoundary => Sys2Proof.Machine.execStaticBoundary s
  | .quotaRelease k => Sys2Proof.Machine.execQuotaRelease k s
  | .codewordRx p fec cseq ack nak cells => Sys2Proof.Machine.execCodewordRx p fec cseq ack nak cells s
  | .portSignalLoss p => Sys2Proof.Machine.execPortSignalLoss p s
  | .portTrainDone p lanes hub twin q secureOk delay => Sys2Proof.Machine.execPortTrainDone p lanes hub twin q secureOk delay s
  | .creditCell p => Sys2Proof.Machine.execCreditCell p s
  | .authCell p => Sys2Proof.Machine.execAuthCell p s
  | .syrelPacketForward p => Sys2Proof.Machine.execSyrelPacketForward p s
  | .fabricWindowRequest k id fn off op len data aux => Sys2Proof.Machine.execFabricWindowRequest k id fn off op len data aux s
  | .rread => Sys2Proof.Machine.execRread s
  | .rwrite => Sys2Proof.Machine.execRwrite s
  | .ratomic => Sys2Proof.Machine.execRatomic s
  | .rdata => Sys2Proof.Machine.execRdata s
  | .rcmp => Sys2Proof.Machine.execRcmp s
  | .mirror => Sys2Proof.Machine.execMirror s
  | .mirAck => Sys2Proof.Machine.execMirAck s
  | .redUp => Sys2Proof.Machine.execRedUp s
  | .redDown => Sys2Proof.Machine.execRedDown s
  | .mcast => Sys2Proof.Machine.execMcast s
  | .mgmt act => Sys2Proof.Machine.execMgmt act s
  | .collTimeout n => Sys2Proof.Machine.execCollTimeout n s
  | .syrHoldExpire d => Sys2Proof.Machine.execSyrHoldExpire d s
  | .hubAliveRelease clk => Sys2Proof.Machine.execHubAliveRelease clk s
  | .join axes => Sys2Proof.Machine.execJoin axes s
  | .syrFence => Sys2Proof.Machine.execSyrFence s
  | .mirrorLagExpire ix => Sys2Proof.Machine.execMirrorLagExpire ix s
  | .twinLost => Sys2Proof.Machine.execTwinLost s
  | .cpPromote g k => Sys2Proof.Machine.execCpPromote g k s
  | .wakePattern p => Sys2Proof.Machine.execWakePattern p s
  | .configRequest n r w tag => Sys2Proof.Machine.execConfigRequest n r w tag s
  | .devctl2Write v => Sys2Proof.Machine.execDevctl2Write v s
  | .bar2Access off size write v tag poison => Sys2Proof.Machine.execBar2Access off size write v tag poison s
  | .bar4SiteWindowAccess off size write data tag stylus poison => Sys2Proof.Machine.execBar4SiteWindowAccess off size write data tag stylus poison s
  | .apertureAccess a len write data tag poison => Sys2Proof.Machine.execApertureAccess a len write data tag poison s
  | .atomicop aperture a op n x y tag => Sys2Proof.Machine.execAtomicop aperture a op n x y tag s
  | .watchSnoop g kind => Sys2Proof.Machine.execWatchSnoop g kind s
  | .watchReadData g a => Sys2Proof.Machine.execWatchReadData g a s
  | .cxlMemRequest d write data tag => Sys2Proof.Machine.execCxlMemRequest d write data tag s
  | .hostHdmWrite base k => Sys2Proof.Machine.execHostHdmWrite base k s
  | .warmReset release => Sys2Proof.Machine.execWarmReset release s
  | .hotReset link => Sys2Proof.Machine.execHotReset link s
  | .flrInitiate n => Sys2Proof.Machine.execFlrInitiate n s
  | .flrComplete n => Sys2Proof.Machine.execFlrComplete n s
  | .dsPresenceChange p present => Sys2Proof.Machine.execDsPresenceChange p present s
  | .powerOn p => Sys2Proof.Machine.execPowerOn p s
  | .dsPerstRelease p => Sys2Proof.Machine.execDsPerstRelease p s
  | .dsButton p => Sys2Proof.Machine.execDsButton p s
  | .dsButtonTimeout p => Sys2Proof.Machine.execDsButtonTimeout p s
  | .remove p => Sys2Proof.Machine.execRemove p s
  | .dsShutdownTimeout p => Sys2Proof.Machine.execDsShutdownTimeout p s
  | .clear p => Sys2Proof.Machine.execClear p s
  | .dsPowerFault p => Sys2Proof.Machine.execDsPowerFault p s
  | .dsLinkDown p => Sys2Proof.Machine.execDsLinkDown p s
  | .doorbellPoll g a => Sys2Proof.Machine.execDoorbellPoll g a s
  | .descriptorFetched g k a => Sys2Proof.Machine.execDescriptorFetched g k a s
  | .descriptorStart g k => Sys2Proof.Machine.execDescriptorStart g k s
  | .nopDesc g k => Sys2Proof.Machine.execNopDesc g k s
  | .copy g k t => Sys2Proof.Machine.execCopy g k t s
  | .atomic g k => Sys2Proof.Machine.execAtomic g k s
  | .collSetup g k => Sys2Proof.Machine.execCollSetup g k s
  | .invalidate g k => Sys2Proof.Machine.execInvalidate g k s
  | .headLineRead g a => Sys2Proof.Machine.execHeadLineRead g a s
  | .queuedRecordWrite n => Sys2Proof.Machine.execQueuedRecordWrite n s
  | .irqModTimeout g => Sys2Proof.Machine.execIrqModTimeout g s
  | .ringEnable g => Sys2Proof.Machine.execRingEnable g s
  | .ringDisable g => Sys2Proof.Machine.execRingDisable g s
  | .ringStopped g => Sys2Proof.Machine.execRingStopped g s
  | .ringIdxWrite g next release => Sys2Proof.Machine.execRingIdxWrite g next release s
  | .atsCompletion fn pasid page size tp r w => Sys2Proof.Machine.execAtsCompletion fn pasid page size tp r w s
  | .priGatherExpire fn pasid => Sys2Proof.Machine.execPriGatherExpire fn pasid s
  | .pageGroupResponse fn prg code => Sys2Proof.Machine.execPageGroupResponse fn prg code s
  | .prgTimeout fn prg => Sys2Proof.Machine.execPrgTimeout fn prg s
  | .atsInvalidate fn pasid lo pages itag => Sys2Proof.Machine.execAtsInvalidate fn pasid lo pages itag s
  | .invalComplete id => Sys2Proof.Machine.execInvalComplete id s
  | .invalDrainAbandon id => Sys2Proof.Machine.execInvalDrainAbandon id s
  | .extentAssign => Sys2Proof.Machine.execExtentAssign s
  | .extentRelease => Sys2Proof.Machine.execExtentRelease s
  | .partAssign => Sys2Proof.Machine.execPartAssign s
  | .partRelease => Sys2Proof.Machine.execPartRelease s
  | .funcBind => Sys2Proof.Machine.execFuncBind s
  | .confEnter => Sys2Proof.Machine.execConfEnter s
  | .confEnterTimeout => Sys2Proof.Machine.execConfEnterTimeout s
  | .portRekey => Sys2Proof.Machine.execPortRekey s
  | .zeroize => Sys2Proof.Machine.execZeroize s
  | .burnishDone => Sys2Proof.Machine.execBurnishDone s
  | .spdmRequest r => Sys2Proof.Machine.execSpdmRequest r s
  | .lockInterfaceRequest sid n => Sys2Proof.Machine.execLockInterfaceRequest sid n s
  | .stopInterfaceRequest sid n => Sys2Proof.Machine.execStopInterfaceRequest sid n s
  | .fipsErrorEnter => Sys2Proof.Machine.execFipsErrorEnter s
  | .lcTokenLoad bmc => Sys2Proof.Machine.execLcTokenLoad bmc s
  | .lcTransition bmc => Sys2Proof.Machine.execLcTransition bmc s
  | .lcChallenge bmc => Sys2Proof.Machine.execLcChallenge bmc s
  | .debugGrant bmc => Sys2Proof.Machine.execDebugGrant bmc s
  | .debugRevoke bmc => Sys2Proof.Machine.execDebugRevoke bmc s
  | .lcSelectCompat bmc => Sys2Proof.Machine.execLcSelectCompat bmc s
  | .cfgRead => Sys2Proof.Machine.execCfgRead s
  | .cfgWrite => Sys2Proof.Machine.execCfgWrite s
  | .imageLoad => Sys2Proof.Machine.execImageLoad s
  | .coldReset flash => Sys2Proof.Machine.execColdReset flash s
  | .softReset => Sys2Proof.Machine.execSoftReset s
  | .partialReset => Sys2Proof.Machine.execPartialReset s
  | .rtpReset => Sys2Proof.Machine.execRtpReset s
  | .bringupComplete f => Sys2Proof.Machine.execBringupComplete f s
  | .tileOut g k => Sys2Proof.Machine.execTileOut g k s
  | .tileLaunchGraceTimeout => Sys2Proof.Machine.execTileLaunchGraceTimeout s
  | .tileIn g k pass => Sys2Proof.Machine.execTileIn g k pass s
  | .memsiteOut g k => Sys2Proof.Machine.execMemsiteOut g k s
  | .memsiteIn g k trained => Sys2Proof.Machine.execMemsiteIn g k trained s
  | .chanRetrain g k => Sys2Proof.Machine.execChanRetrain g k s
  | .portRetrain g k => Sys2Proof.Machine.execPortRetrain g k s
  | .fwStage g k => Sys2Proof.Machine.execFwStage g k s
  | .fwBroadcast g k => Sys2Proof.Machine.execFwBroadcast g k s
  | .fwStatus g k => Sys2Proof.Machine.execFwStatus g k s
  | .fwChunkTimeout t => Sys2Proof.Machine.execFwChunkTimeout t s
  | .enter g k => Sys2Proof.Machine.execEnter g k s
  | .exit g k => Sys2Proof.Machine.execExit g k s
  | .setCap g k => Sys2Proof.Machine.execSetCap g k s
  | .group g k => Sys2Proof.Machine.execGroup g k s
  | .powerAtReached g k => Sys2Proof.Machine.execPowerAtReached g k s
  | .wakeEvent code idx => Sys2Proof.Machine.execWakeEvent code idx s
  | .powerExitWake code => Sys2Proof.Machine.execPowerExitWake code s
  | .h1IdleExpire => Sys2Proof.Machine.execH1IdleExpire s
  | .avsAck r mv => Sys2Proof.Machine.execAvsAck r mv s
  | .avsRetryTimeout r => Sys2Proof.Machine.execAvsRetryTimeout r s
  | .avsAckTimeout r => Sys2Proof.Machine.execAvsAckTimeout r s
  | .pmbusPoll mv ma => Sys2Proof.Machine.execPmbusPoll mv ma s
  | .droopDetect t => Sys2Proof.Machine.execDroopDetect t s
  | .droopClear t => Sys2Proof.Machine.execDroopClear t s
  | .supplyDipStart rails => Sys2Proof.Machine.execSupplyDipStart rails s
  | .supplyDipEnd => Sys2Proof.Machine.execSupplyDipEnd s
  | .powerPeriod => Sys2Proof.Machine.execPowerPeriod s
  | .throttleEpoch => Sys2Proof.Machine.execThrottleEpoch s
  | .powerGroupReport => Sys2Proof.Machine.execPowerGroupReport s
  | .powerGroupDecide => Sys2Proof.Machine.execPowerGroupDecide s
  | .powerGroupApply => Sys2Proof.Machine.execPowerGroupApply s
  | .energyTick => Sys2Proof.Machine.execEnergyTick s
  | .thermalSample t => Sys2Proof.Machine.execThermalSample t s
  | .prochotAssert => Sys2Proof.Machine.execProchotAssert s
  | .prochotDeassert => Sys2Proof.Machine.execProchotDeassert s
  | .counterOverflow => Sys2Proof.Machine.execCounterOverflow s
  | .snapshotWritten => Sys2Proof.Machine.execSnapshotWritten s
  | .dsPortReady p f => Sys2Proof.Machine.execDsPortReady p f s
  | .hostCompletion tag kind data => Sys2Proof.Machine.execHostCompletion tag kind data s
  | .driftTrackingLimit j ch link => Sys2Proof.Machine.execDriftTrackingLimit j ch link s
  | .codewordCountRekey p => Sys2Proof.Machine.execCodewordCountRekey p s
  | .cxlSiteResponse j tag a => Sys2Proof.Machine.execCxlSiteResponse j tag a s

end Sys2Proof.Machine
end

