-- ==== Sys2Proof/Machine/Tick.lean ====
section
/-! DEFINITION. Sys2Proof/Machine/Tick.lean: what a nanosecond of reference time does with no command (log entry 1). -/

namespace Sys2Proof.Machine

open Sys2Proof

/-! ## Clocks and cycles (spec/19_counters.md R474; spec/18_power_and_thermal.md R461 to R464, R467) -/

/-- TILE_t's clock is stretched to half rate: by its own droop detector or by a supply dip; the two do not compound (R464). -/
def tileStretched (t : Nat) (s : State) : Bool := rdb PWR_STATUS_STRETCH 0 s || (look s.power.droops t).isSome

/-- The Graver engine of TILE_t has gated its own clock: 32 idle cycles without a launch (R461). -/
def engineGated (t : Nat) (s : State) : Bool := decide (128 ≤ lookD 0 s.cnt.idle t)

/-- Quarters of a cycle that the clock of TILE_t makes in a nanosecond (Table 1, R461, R462, R464). -/
def graverClock (t : Nat) (s : State) : Nat :=
  if pwrState s ≠ 0 ∨ engineGated t s then 0 else if tileStretched t s then graverRate s / 2 else graverRate s

/-- Quarters of a cycle that the mesh clock makes in a nanosecond: 2.0 GHz, halved in a supply dip, and 4 − L of every 4
cycles at package throttle level L (Table 1, R462, R464, R467). -/
def meshClock (s : State) : Nat :=
  if pwrState s ≠ 0 then 0 else
  let full := if rdb PWR_STATUS_STRETCH 0 s then 4 else 8
  if rdb SEC_STATUS_CONFIDENTIAL 0 s then full * (4 - rd PWR_STATUS_LEVEL 0 s) / 4 else full

/-- Quarters of a cycle that the Stylus clock makes in a nanosecond: 1.5 GHz (spec/01_hub_and_package.md), off in H3 (Table 1). -/
def stylusClock (s : State) : Nat := if pwrState s = 3 then 0 else 6

/-- Whole cycles that `q` more quarters complete at unit `u`. -/
def newCycles (u q : Nat) (s : State) : Nat := (lookD 0 s.cnt.cyc u + q) / 4 - lookD 0 s.cnt.cyc u / 4

/-- A nanosecond of TILE_t's clock: its cycles, those a PWAIT stalls, and those that are stretched. -/
def tickTile (t : Nat) (s : State) : State :=
  let q := graverClock t s
  let n := newCycles t q s
  let run := (grv t s).run
  let s := match run with
    | some r => if rd GRV_STATUS_STATE t s = 2 then countTile t 0x02 r.work.fn n s else s
    | none => s
  let s := if tileStretched t s then count t 0x0D none n s else s
  let s := if run.isSome then { s with cnt := { s.cnt with idle := del t s.cnt.idle } }
    else if q = 0 then s else { s with cnt := { s.cnt with idle := put t (min 128 (lookD 0 s.cnt.idle t + q)) s.cnt.idle } }
  addCycles t q s

/-- A nanosecond of the clock of MEM_j's controllers: its cycles, those in which a channel is throttled, and the reads that
its queues hold. -/
def tickMem (j : Nat) (s : State) : State :=
  let q := meshClock s
  let u := memUnit j
  let n := newCycles u q s
  let hot := rd MEM_STATUS_THROTTLE j s ≠ 0 ∨ (rdb SEC_STATUS_CONFIDENTIAL 0 s ∧ rd PWR_STATUS_LEVEL 0 s ≠ 0)
  let queued := ((List.range 8).map (fun c => ((chan (chanKey j c) s).queue.filter (fun r => !r.write)).length)).sum
  let s := if hot then count u 0x27 none n s else s
  addCycles u q (count u 0x28 none (n * queued) s)

/-- A nanosecond of every counter unit's clock (R474, R477). -/
def tickCycles (s : State) : State :=
  if rdb CNT_CTL_FREEZE 0 s then s else
  let s := forEach (List.range (tiles s)) tickTile s
  let s := forEach (List.range (memSites s)) tickMem s
  forEach ((List.range 100).filter (fun u => 84 ≤ u && unitOn u s))
    (fun u s => addCycles u (unitRate u 0 (meshClock s) (stylusClock s)) s) s

/-! ## The tick -/

/-- What the hub has begun and goes on with by itself, as far as it can without an answer from outside. -/
def settleWork (s : State) : State :=
  s |> pumpWaiting |> settleJobs |> advanceJobs |> advanceColls |> flushMirror |> settleBatches |> settleSvc
    |> settleRetrains |> settlePartial |> settleDs |> settleHost |> settleEntry |> settleWake |> settleCredits |> followProchot

/-- What the root of trust and Herva firmware have begun and go on with by themselves. -/
def settleFirmware (s : State) : State :=
  s |> stepProgram |> settleSec |> settleCommits |> settleRtp |> settleDirs

/-- A nanosecond of reference time: nothing once every clock is stopped (R472). -/
def tick (s : State) : State :=
  clocked (fun s => s |> tickRuling |> pauseTimers 16 |> tickCycles |> settleWork |> settleFirmware |> noteBusy) s

end Sys2Proof.Machine
end

