-- ==== Sys2Proof/Machine/Step.lean ====
section
/-! DEFINITION. Sys2Proof/Machine/Step.lean: one step: the command at the front of the queue, or a nanosecond of time. -/

namespace Sys2Proof.Machine

open Sys2Proof

/-- One step of the hub: the command at the front of the queue is run with the queue's rest. On an empty queue a
nanosecond of reference time passes (log entry 1). -/
def step (s : State) : Host.Outcome State Fault Refusal :=
  match s.pending with
  | [] => .next (tick s)
  | c :: rest => exec c { s with pending := rest }

/-- `s` with the command a word spells in front of its queue; no word spells one, so `s`. -/
def State.withFetchWord (s : State) (nbits w : Nat) : State :=
  match decodeTableWord nbits w with
  | some c => { s with pending := c :: s.pending }
  | none => s

end Sys2Proof.Machine
end

