-- ==== Sys2Proof/Safety.lean ====
section
/-! DEFINITION. Sys2Proof/Safety.lean: what counts as a safe step and a safe run, and the conditions the statements name. -/

namespace Sys2Proof

open Sys2Proof.Machine

/-- The step from `s` answers a next state: neither a fault nor a refusal. -/
def StepSafe (s : State) : Prop := ∃ t, step s = .next t

/-- The state after at most `n` steps; the last one reached where a step stops. -/
def runFor : Nat → State → State
  | 0, s => s
  | n + 1, s =>
    match step s with
    | .next t => runFor n t
    | _ => s

/-- The commands of the Graver instructions of tile `t`, each with the operation code it issues (spec/03_graver_engine.md Table 8), but for PWAIT and PREL. -/
def plainInstrs (t : Nat) : List (Instr × Nat) :=
  [(.graverNop t, 0x00), (.fma t, 0x01), (.add t, 0x02), (.mul t, 0x03), (.min t, 0x04), (.max t, 0x05), (.cmp t, 0x06),
   (.sel t, 0x07), (.cvt t, 0x08), (.scale2 t, 0x09), (.ex2 t, 0x0A), (.rcp t, 0x0B), (.mov t, 0x0C), (.mop t, 0x0D)]

/-- The session operation of type `ty` at ring `g`, count `k` may run: its descriptor `d` runs and waits for no tile, SES_CTL and the
partition allow it, it names entry `i`, which holds `e`, in a state that Table 7 of spec/05_sessions_and_kv_pages.md runs it in, and no
operation on that session that started before it still runs (R118). -/
def sessionNamed (ty g k : Nat) (d : Desc) (i : Nat) (e : SesEnt) (s : State) : Prop :=
  runningDesc g k ty s = some d ∧ sesHeld (ringFn g) ty s = false ∧ sesGate (ringFn g) ty s = .ok ∧
    sesOf (ringFn g) (wrap 32 (d.word 2)) s = some (i, e) ∧ tableRuns ty e = true ∧ sesBehind g k s = false

/-- Site `j` has message `m` of code `opc` at the front of its class, nothing holds it back and the line lies outside the
fabric window: `r` is the request that it makes at the home, as `r0` says its kind and operands, and `s2` the state in which the
home takes it (spec/08_coherence.md R193, spec/09_chiplet_sites.md R220 to R224); `err` is the error met at the granule. -/
def siteAsks (j opc err : Nat) (m : ZMsg) (r0 r : HReq) (s s1 s2 : State) : Prop :=
  takeRx j opc s = some (m, s1) ∧ mayLeaveMesh (portClass (64 + j) 0 s) (qLine m.hdr) s = true ∧ fabricWindow (64 * qLine m.hdr) = none ∧
    r = { r0 with line := qLine m.hdr, who := .site j (qTag m.hdr), cls := portClass (64 + j) 0 s1, deadline := siteDeadline j m.hdr s1 } ∧
    s2 = meetAt err r (addOut r.who r.cls r.line s1)

/-- The commands that write registers and model-internal timers only, each with the register fields it may write. -/
def registerCommandWrites : Instr → Option (List Fld)
  | .setupLockSet => some [HUB_GLOBAL_SETUP_LOCK]
  | .ruleSyncMark => some [RULE_STATUS_PIN_REF_OK]
  | .calCtlWrite _ => some [CAL_CTL_ENABLE]
  | .arrivalWrite _ _ => some [ARRIVAL_VALUE]
  | .routerGate _ => some []
  | .lateCompletionDrop _ _ _ => some [TMO_COUNT_LATE_DROP]
  | .heldNotice _ _ => some []
  | .resumedNotice _ _ => some []
  | .tmoWrite _ _ => some [TMO_ONDIE_US, TMO_SITE_US, TMO_SYREL_MS]
  | .devctl2Write _ => some [TMO_HOST_US]
  | .dsPerstRelease _ => some [DS_STATUS_STATE]
  | .ringIdxWrite _ _ _ => some [RING_IDX_NEXT, RING_IDX_RELEASE]
  | .lockInterfaceRequest _ _ => some [FUNC_CFG_TDI]
  | .avsRetryTimeout _ => some []
  | .avsAckTimeout _ => some [PWR_STATUS_RAIL_FAULT, PWR_RAIL_FAULT]
  | .pmbusPoll _ _ => some [PWR_RAIL_READ_MV]
  | .droopClear _ => some []
  | .supplyDipStart _ => some [PWR_STATUS_STRETCH]
  | _ => none

/-- `s` once the mailbox has taken the command with opcode `op` (spec/15_security_and_isolation.md R396). -/
def mbxTaken (op : Nat) (s : State) : State := s |> setB MBX_STATUS_BUSY 0 |> wr MBX_STATUS_OPCODE 0 op

/-- The mailbox is free, the error state is not entered, and the life cycle is one of `l`. -/
def mbxOpen (l : List Nat) (s : State) : Prop :=
  s.power.stopped = false ∧ rdb MBX_STATUS_BUSY 0 s = false ∧ rdb SEC_STATUS_FIPS_ERROR 0 s = false ∧ lifeState s ∈ l

/-- The mailbox commands, with their opcodes and the life-cycle states that accept them (spec/15_security_and_isolation.md R396, spec/16_lifecycle_and_debug.md R408). -/
def mbxCommands : List (Instr × Nat × List Nat) :=
  [(.extentAssign, 0x01, [0, 1, 2, 3]), (.extentRelease, 0x02, [0, 1, 2, 3]), (.partAssign, 0x03, [0, 1, 2, 3]),
   (.partRelease, 0x04, [0, 1, 2, 3]), (.funcBind, 0x05, [0, 1, 2, 3]), (.confEnter, 0x06, [0, 1, 2, 3]),
   (.portRekey, 0x07, [0, 1, 2, 3]), (.zeroize, 0x08, [0, 1, 2, 3]), (.lcTokenLoad none, 0x09, [0, 1, 2, 3, 5]),
   (.lcTransition none, 0x0A, [0, 1, 2, 3, 5]), (.lcChallenge none, 0x0B, [1, 2]), (.debugGrant none, 0x0C, [1, 2]),
   (.debugRevoke none, 0x0D, [0, 1, 2, 3]), (.cfgRead, 0x10, [0, 1, 2, 3]), (.cfgWrite, 0x11, [0, 1, 2, 3]), (.imageLoad, 0x12, [0, 1, 2, 3])]

/-- The commands of the board management controller with the words `ws`, with their opcodes and the life-cycle states that accept them (spec/16_lifecycle_and_debug.md R411). -/
def bmcCommands (ws : List Nat) (s : State) : List (Instr × Nat × List Nat) :=
  [(.lcTokenLoad (some ws), 0x09, [0, 1, 2, 3, 5]), (.lcTransition (some ws), 0x0A, [0, 1, 2, 3, 5]), (.lcChallenge (some ws), 0x0B, [1, 2]),
   (.debugGrant (some ws), 0x0C, [1, 2]), (.debugRevoke (some ws), 0x0D, [0, 1, 2, 3]),
   (.lcSelectCompat (some ws), 0x0E, if groupRead s.life.lcc = 2 then [0, 5] else [0])]

/-- `s` once a command of the board management controller runs. -/
def bmcTaken (s : State) : State := setSec (fun x => { x with bmcBusy := true }) s

/-- `s` once that command has ended with its opcode, status and further words. -/
def bmcEnd (op : Nat) (st : Status) (args : List Nat) (s : State) : State :=
  emit { kind := .mailbox, args := [op, st.code] ++ args } (setSec (fun x => { x with bmcBusy := false }) s)

end Sys2Proof
end

