-- ==== Sys2Proof/WellFormed.lean ====
section
/-! DEFINITION. Sys2Proof/WellFormed.lean: operands within what the spec's fields and index ranges can hold. -/

namespace Sys2Proof

/-- A global ring number (spec/13_rings_and_descriptors.md R335): 64 functions of 128 rings. -/
def ringNo (g : Nat) : Bool := decide (g < 8192)

/-- A descriptor count (R338). -/
def descCount (k : Nat) : Bool := decide (k < 2 ^ 32)

/-- The size of a register access (spec/01_hub_and_package.md R26). -/
def accessSize (n : Nat) : Bool := n == 4 || n == 8

/-- The bytes of a 64-byte line, or none. -/
def lineData (d : List Byte) : Bool := d.isEmpty || d.length == 64

/-- A read of a line is answered with 64 bytes, or fails. -/
def lineAnswer : Answer → Bool
  | .data d => d.length == 64
  | .fail s => s != .ok

/-- The words of a message of the board management controller, where there is one (spec/16_lifecycle_and_debug.md R419). -/
def words : Option (List Nat) → Bool
  | none => true
  | some l => l.all (fun w => decide (w < 2 ^ 64))

/-- The fields of a ruling segment (spec/02_ruling_and_calendar.md Table 1). -/
def Seg.fits (s : Seg) : Bool :=
  decide (s.startRef < 2 ^ 64) && decide (s.startPos < 2 ^ 64) && decide (s.rate < 2 ^ 24) && decide (s.kind < 4) && decide (s.seq < 2 ^ 16)

/-- The fields of a RULE cell (spec/11_syrel_fabric.md R276). -/
def ruleCell (c : RuleCell) : Bool :=
  decide (c.state < 8) && decide (c.depth < 256) && decide (c.exseq < 2 ^ 16) && c.seg.fits && c.pend.all Seg.fits

/-- The fields of a RULE_SYNC frame (spec/02_ruling_and_calendar.md R37). -/
def frame (f : SyncFrame) : Bool :=
  decide (f.preamble < 2 ^ 8) && decide (f.refAtMark < 2 ^ 64) && decide (f.segStartRef < 2 ^ 64) &&
  decide (f.segStartPos < 2 ^ 64) && decide (f.segRate < 2 ^ 24) && decide (f.segSeqKind < 2 ^ 8) && decide (f.crc < 2 ^ 16)

/-- Who arms or cancels a calendar entry. -/
def calAsk : CalAsk → Bool
  | .desc g k => ringNo g && descCount k
  | .herva image e => image.all (fun w => decide (w < 2 ^ 64)) && decide (e < 8192)

/-- What Herva firmware does for a management packet. -/
def mgmtAct : MgmtAct → Bool
  | .createReplica fn _ _ | .deleteReplica fn _ | .replicaGone fn _ | .takeSession fn _ _ _ => decide (fn < 64)
  | .chunkRequest t _ _ _ _ | .chunk t _ _ _ _ => decide (0 < t) && decide (t < 4)
  | .route d w => decide (d < 4096) && decide (w < 2 ^ 32)
  | .group g w => decide (g < 256) && decide (w < 2 ^ 32)
  | _ => true

/-- What an SPDM requester asks. -/
def spdm : SpdmReq → Bool
  | .interfaceState _ fn | .interfaceReport _ fn | .startInterface _ fn _ => decide (fn < 64)
  | .getCertificate n | .challenge n => decide (n < 8)
  | .other c => decide (c < 256)
  | _ => true

/-- What a private flash can hold (spec/17_bringup_reset_service.md R428, R437). -/
def flashFits (f : Flash) : Bool :=
  f.fw.length == 3 && f.active.length == 3 && decide (f.cfgA.body.length < 2 ^ 18) && decide (f.cfgB.body.length < 2 ^ 18)

/-- The command's operands are within what the spec's fields and index ranges can hold. -/
def Instr.wf : Instr → Bool
  | .regWrite fn off size v _ => decide (fn < 64) && decide (off < 2 ^ 28) && accessSize size && decide (v < 2 ^ 64)
  | .setupLockSet => true
  | .regLowHalfRead fn off size _ => decide (fn < 64) && decide (off < 2 ^ 28) && accessSize size
  | .barAccessInvalid fn bar _ _ _ _ => decide (fn < 64) && bar.all (fun b => b == 0 || b == 2 || b == 4)
  | .ruleCtlWrite role parent alt _ => decide (role < 4) && decide (parent < 32) && decide (alt < 32)
  | .ruleSegment g k => ringNo g && descCount k
  | .exchangeSymbolTx p => decide (p < 20)
  | .exchangeSymbolRx p c => decide (p < 20) && ruleCell c
  | .delayRemeasure p => decide (p < 20)
  | .segmentApply => true
  | .ruleSyncMark => true
  | .ruleSyncFrame f => frame f
  | .parentSilenceTimeout => true
  | .lockLossTimeout => true
  | .ruleRefLoss => true
  | .holdRelease => true
  | .beaconSend => true
  | .calArm a => calAsk a
  | .calCancel a => calAsk a
  | .calFire i => decide (i < 8192)
  | .calGateTimeout i => decide (i < 8192)
  | .calCtlWrite _ => true
  | .arrivalWrite g v => decide (g < 1024) && decide (v < 2 ^ 32)
  | .calLowPowerExit => true
  | .graverLoad g k => ringNo g && descCount k
  | .graverLaunch g k => ringNo g && descCount k
  | .launchStart t => decide (t < 64)
  | .graverNop t => decide (t < 64)
  | .fma t => decide (t < 64)
  | .add t => decide (t < 64)
  | .mul t => decide (t < 64)
  | .min t => decide (t < 64)
  | .max t => decide (t < 64)
  | .cmp t => decide (t < 64)
  | .sel t => decide (t < 64)
  | .cvt t => decide (t < 64)
  | .scale2 t => decide (t < 64)
  | .ex2 t => decide (t < 64)
  | .rcp t => decide (t < 64)
  | .mov t => decide (t < 64)
  | .mop t => decide (t < 64)
  | .pwait t => decide (t < 64)
  | .prel t => decide (t < 64)
  | .launchComplete t => decide (t < 64)
  | .launchTimeout t => decide (t < 64)
  | .panelLoadDone t b => decide (t < 64) && decide (b < 4)
  | .panelDrainDone t b => decide (t < 64) && decide (b < 4)
  | .kvPoolAdd g k => ringNo g && descCount k
  | .sesCreate g k => ringNo g && descCount k
  | .kvAppend g k => ringNo g && descCount k
  | .sesFork g k => ringNo g && descCount k
  | .sesPark g k => ringNo g && descCount k
  | .sesRestore g k => ringNo g && descCount k
  | .sesMirror g k ans => ringNo g && descCount k && ans.all (fun x => x.2 < 2 ^ 64)
  | .sesMigrate g k ans => ringNo g && descCount k && ans.all (fun x => x.2 < 2 ^ 64)
  | .sesDelete g k => ringNo g && descCount k
  | .sesQuery g k => ringNo g && descCount k
  | .streamAdmit g k => ringNo g && descCount k
  | .streamRetire g k => ringNo g && descCount k
  | .dsDeviceCompletion p _ _ _ => decide (p < 4)
  | .attnBatch g k => ringNo g && descCount k
  | .attnBatchStart => true
  | .attnItemComplete t => decide (t < 64)
  | .memRead j ch _ _ slot => decide (j < 20) && decide (ch < 8) && decide (slot < 32)
  | .memWrite j ch _ _ slot => decide (j < 20) && decide (ch < 8) && decide (slot < 32)
  | .patrolScrub _ _ => true
  | .mr4Poll j ch raw cat => decide (j < 20) && decide (ch < 8) && decide (raw < 32) && decide (cat < 5)
  | .chanRetrainDone j ch _ => decide (j < 20) && decide (ch < 8)
  | .moveFrameCopy _ _ => true
  | .keySlotWithdraw k _ => decide (k < 85)
  | .scRequest k fn line _ data mask err flit _ => decide (k < 128) && decide (fn < 64) && decide (line < 2 ^ 38) && lineData data && decide (mask < 2 ^ 64) && decide (err < 3) && decide (flit < 4)
  | .bucketMoveDone => true
  | .rdS j _ => decide (j < 8)
  | .rdX j _ => decide (j < 8)
  | .upg j _ => decide (j < 8)
  | .rdOnce j _ => decide (j < 8)
  | .wrP j _ => decide (j < 8)
  | .wb j => decide (j < 8)
  | .invAck j => decide (j < 8)
  | .snpData j => decide (j < 8)
  | .grantAck j => decide (j < 8)
  | .lineDequeue line => decide (line < 2 ^ 38)
  | .homeRead k _ fn off len flit _ => decide (k < 128) && decide (fn < 64) && decide (len ≤ 64 - off % 64) && decide (flit < 4)
  | .homeWrite k _ fn line data mask flit _ => decide (k < 128) && decide (fn < 64) && decide (line < 2 ^ 38) && (data.length == 64) && decide (mask < 2 ^ 64) && decide (flit < 4)
  | .homeAtomic k _ fn _ len op a b flit _ => decide (k < 128) && decide (fn < 64) && (len == 4 || len == 8) && decide (op < 3) && decide (a < 2 ^ (8 * len)) && decide (b < 2 ^ (8 * len)) && decide (flit < 4)
  | .cxlCacheMessage j _ _ line data mask _ => decide (j < 8) && decide (line < 2 ^ 38) && lineData data && decide (mask < 2 ^ 64)
  | .zcpFlitRx j k retries ctrl slots => decide (j < 8) && decide (k < 8) && decide (retries < 6) && decide (ctrl < 2 ^ 128) && decide (slots.length = 14) && slots.all (fun x => x < 2 ^ 128)
  | .arrive j => decide (j < 8)
  | .pwrReq j => decide (j < 8)
  | .mgmtAck j => decide (j < 8)
  | .chipEvent j => decide (j < 8)
  | .mmioData j => decide (j < 8)
  | .zcpCmp j => decide (j < 8)
  | .moduleDown j k unacked => decide (j < 8) && decide (k < 8) && unacked.all (fun q => q < 2 ^ 16)
  | .siteRetrainDone j mods => decide (j < 8) && decide (mods < 256)
  | .siteFence j => decide (j < 8)
  | .siteReset j => decide (j < 8)
  | .siteQuiesceTimeout j => decide (j < 8)
  | .siteResetRelease j f => decide (j < 8) && decide (f.mods < 256) && decide (f.x8 < 256) && decide (f.ident.length ≤ 64)
  | .siteReady j => decide (j < 8)
  | .cxlIoWrite j _ _ len wrt data => decide (j < 8) && (!wrt || decide (data.length = len))
  | .meshPacketDeliver vn plane src dst err => decide (vn < 4) && decide (plane < 2) && decide (src < 128) && decide (dst < 128) && decide (err < 4)
  | .routerGate r => decide (r < 72)
  | .initiatorTimeout cls port tag => decide (cls < 4) && decide (port < 128) && decide (tag < 2 ^ 16)
  | .tombstoneExpire cls port tag => decide (cls < 4) && decide (port < 128) && decide (tag < 2 ^ 16)
  | .lateCompletionDrop cls port tag => decide (cls < 4) && decide (port < 128) && decide (tag < 2 ^ 16)
  | .heldNotice k _ => decide (k < 128)
  | .resumedNotice k _ => decide (k < 128)
  | .targetAbandon k _ => decide (k < 128)
  | .tmoWrite cls v => decide (cls < 3) && decide (v < 2 ^ 32)
  | .staticBoundary => true
  | .quotaRelease k => decide (k < 128)
  | .codewordRx p fec cseq ack _ _ => decide (p < 20) && decide (fec < 3) && decide (cseq < 512) && decide (ack < 512)
  | .portSignalLoss p => decide (p < 20)
  | .portTrainDone p lanes hub _ q _ delay => decide (p < 20) && decide (lanes ≤ 4) && decide (lanes ≠ 3) && decide (hub < 4096) && decide (q < 20) && decide (delay < 2 ^ 16)
  | .creditCell p => decide (p < 20)
  | .authCell p => decide (p < 20)
  | .syrelPacketForward p => decide (p < 20)
  | .fabricWindowRequest k _ fn _ op _ _ _ => decide (k < 128) && decide (fn < 64) && decide (op < 4)
  | .rread => true
  | .rwrite => true
  | .ratomic => true
  | .rdata => true
  | .rcmp => true
  | .mirror => true
  | .mirAck => true
  | .redUp => true
  | .redDown => true
  | .mcast => true
  | .mgmt act => mgmtAct act
  | .collTimeout n => decide (n < 256)
  | .syrHoldExpire d => decide (d < 7)
  | .hubAliveRelease _ => true
  | .join axes => decide (axes < 8)
  | .syrFence => true
  | .mirrorLagExpire i => decide (i < 2 ^ 18)
  | .twinLost => true
  | .cpPromote g k => ringNo g && descCount k
  | .wakePattern p => decide (p < 20)
  | .configRequest n _ w _ => decide (n < 256) && w.all (fun x => x < 2 ^ 32)
  | .devctl2Write v => decide (v < 16)
  | .bar2Access _ size _ v _ _ => accessSize size && decide (v < 2 ^ 64)
  | .bar4SiteWindowAccess _ size write data _ _ _ => (!write || decide (data.length = size))
  | .apertureAccess a len write data _ _ => decide (a < 2 ^ 52) && (!write || decide (data.length = len))
  | .atomicop _ _ op n x y _ => decide (op < 3) && (n == 4 || n == 8) && decide (x < 2 ^ (8 * n)) && decide (y < 2 ^ (8 * n))
  | .watchSnoop g kind => ringNo g && decide (kind < 3)
  | .watchReadData g a => ringNo g && lineAnswer a
  | .cxlMemRequest d write data _ => decide (d < 2 ^ 52) && (!write || decide (data.length = 64))
  | .hostHdmWrite base k => decide (base < 2 ^ 14) && decide (k < 2 ^ 11)
  | .warmReset _ => true
  | .hotReset link => link.all (fun l => l.rate < 8)
  | .flrInitiate n => decide (n < 64)
  | .flrComplete n => decide (n < 64)
  | .dsPresenceChange p _ => decide (p < 4)
  | .powerOn p => decide (p < 4)
  | .dsPerstRelease p => decide (p < 4)
  | .dsButton p => decide (p < 4)
  | .dsButtonTimeout p => decide (p < 4)
  | .remove p => decide (p < 4)
  | .dsShutdownTimeout p => decide (p < 4)
  | .clear p => decide (p < 4)
  | .dsPowerFault p => decide (p < 4)
  | .dsLinkDown p => decide (p < 4)
  | .doorbellPoll g a => ringNo g && lineAnswer a
  | .descriptorFetched g k a => ringNo g && descCount k && lineAnswer a
  | .descriptorStart g k => ringNo g && descCount k
  | .nopDesc g k => ringNo g && descCount k
  | .copy g k t => ringNo g && descCount k && decide (t < 64)
  | .atomic g k => ringNo g && descCount k
  | .collSetup g k => ringNo g && descCount k
  | .invalidate g k => ringNo g && descCount k
  | .headLineRead g a => ringNo g && lineAnswer a
  | .queuedRecordWrite n => decide (n < 64)
  | .irqModTimeout g => ringNo g
  | .ringEnable g => ringNo g
  | .ringDisable g => ringNo g
  | .ringStopped g => ringNo g
  | .ringIdxWrite g next release => ringNo g && next.all (fun x => x < 2 ^ 32) && release.all (fun x => x < 2 ^ 32)
  | .atsCompletion fn pasid page size _ _ _ => decide (fn < 64) && decide (pasid ≤ 2 ^ 20) && decide (page < 2 ^ 52) && (size == 12 || size == 21 || size == 30)
  | .priGatherExpire fn pasid => decide (fn < 64) && decide (pasid ≤ 2 ^ 20)
  | .pageGroupResponse fn prg code => decide (fn < 64) && decide (prg < 512) && decide (code < 16)
  | .prgTimeout fn prg => decide (fn < 64) && decide (prg < 512)
  | .atsInvalidate fn pasid _ _ itag => decide (fn < 64) && pasid.all (fun x => x < 2 ^ 20) && decide (itag < 32)
  | .invalComplete _ => true
  | .invalDrainAbandon _ => true
  | .extentAssign => true
  | .extentRelease => true
  | .partAssign => true
  | .partRelease => true
  | .funcBind => true
  | .confEnter => true
  | .confEnterTimeout => true
  | .portRekey => true
  | .zeroize => true
  | .burnishDone => true
  | .spdmRequest r => spdm r
  | .lockInterfaceRequest _ n => decide (n < 64)
  | .stopInterfaceRequest _ n => decide (n < 64)
  | .fipsErrorEnter => true
  | .lcTokenLoad bmc => words bmc
  | .lcTransition bmc => words bmc
  | .lcChallenge bmc => words bmc
  | .debugGrant bmc => words bmc
  | .debugRevoke bmc => words bmc
  | .lcSelectCompat bmc => words bmc
  | .cfgRead => true
  | .cfgWrite => true
  | .imageLoad => true
  | .coldReset flash => flash.all flashFits
  | .softReset => true
  | .partialReset => true
  | .rtpReset => true
  | .bringupComplete f => decide (f.mem.length ≤ 20) && f.mem.all (fun m => m.ok < 256) && f.routes.all (fun r => r.1 < 4096 && r.2 < 2 ^ 32) && f.groups.all (fun r => r.1 < 256 && r.2 < 2 ^ 32)
  | .tileOut g k => ringNo g && descCount k
  | .tileLaunchGraceTimeout => true
  | .tileIn g k _ => ringNo g && descCount k
  | .memsiteOut g k => ringNo g && descCount k
  | .memsiteIn g k trained => ringNo g && descCount k && decide (trained < 256)
  | .chanRetrain g k => ringNo g && descCount k
  | .portRetrain g k => ringNo g && descCount k
  | .fwStage g k => ringNo g && descCount k
  | .fwBroadcast g k => ringNo g && descCount k
  | .fwStatus g k => ringNo g && descCount k
  | .fwChunkTimeout t => decide (0 < t) && decide (t < 4)
  | .enter g k => ringNo g && descCount k
  | .exit g k => ringNo g && descCount k
  | .setCap g k => ringNo g && descCount k
  | .group g k => ringNo g && descCount k
  | .powerAtReached g k => ringNo g && descCount k
  | .wakeEvent code idx => decide (code < 256) && decide (idx < 2 ^ 16)
  | .powerExitWake code => decide (code < 256)
  | .h1IdleExpire => true
  | .avsAck r mv => decide (r < 6) && decide (mv < 2 ^ 16)
  | .avsRetryTimeout r => decide (r < 6)
  | .avsAckTimeout r => decide (r < 6)
  | .pmbusPoll mv ma => (mv.length == 6) && (ma.length == 6)
  | .droopDetect t => decide (t < 64)
  | .droopClear t => decide (t < 64)
  | .supplyDipStart rails => decide (rails < 128)
  | .supplyDipEnd => true
  | .powerPeriod => true
  | .throttleEpoch => true
  | .powerGroupReport => true
  | .powerGroupDecide => true
  | .powerGroupApply => true
  | .energyTick => true
  | .thermalSample t => decide (t < 256)
  | .prochotAssert => true
  | .prochotDeassert => true
  | .counterOverflow => true
  | .snapshotWritten => true
  | .dsPortReady p f => decide (p < 4) && decide (f.rate < 8) && decide (f.width < 8) && decide (f.vendor < 2 ^ 16) && decide (f.device < 2 ^ 16) && decide (f.cls < 2 ^ 24)
  | .hostCompletion _ kind _ => decide (kind < 4)
  | .driftTrackingLimit j ch _ => decide (j < 20) && decide (ch < 8)
  | .codewordCountRekey p => decide (p < 20)
  | .cxlSiteResponse j _ _ => decide (j < 8)

end Sys2Proof
end

