-- ==== Sys2Proof/Certificates/Slice0/Obligations.lean ====
section
/-! DEFINITION. Sys2Proof/Certificates/Slice0/Obligations.lean: the statements for the provers. The hub runs commands, one
a step; most statements say what state a command answers, and so what it leaves. -/

open Sys2Proof Sys2Proof.Machine

/-- For every state s, command c and list rest: step at s with pending c :: rest is exec of c at s with pending rest; step at s
with an empty queue answers the tick of s. The queue and the tick are the model's own (log entry 1). (spec/00_scope.md) -/
def Obligations.StepRunsFrontCommand : Prop := ∀ (s : State) (c : Instr) (rest : List Instr),
  step { s with pending := c :: rest } = exec c { s with pending := rest } ∧ step { s with pending := [] } = .next (tick { s with pending := [] })

/-- For every command c and every state s there is a next state t that exec of c at s answers, and its queue is that of s.
(spec/00_scope.md) -/
def Obligations.EveryCommandAnswersNext : Prop :=
  ∀ (c : Instr) (s : State), ∃ t, exec c s = .next t ∧ t.pending = s.pending

/-- From every state, if the command at the front is no COLD_RESET (or the queue is empty) and step answers a next state, the
ruling position there is at least what it was, and if the position had ever been set it still counts as set. (R30, R32, R40) -/
def Obligations.StepKeepsPosition : Prop := ∀ (s t : State), step s = .next t → (∀ f, s.pending.head? ≠ some (.coldReset f)) →
  s.ruling.pos ≤ t.ruling.pos ∧ (s.ruling.everSet = true → t.ruling.everSet = true)

/-- From every state, if the command at the front is no COLD_RESET (or the queue is empty) and step answers a next state, the
life-cycle state that fuse decode gave and the compatibility mark are those of the state before, whatever fuse bits the step
programs. (R408) -/
def Obligations.StepKeepsLifeCycleState : Prop := ∀ (s t : State), step s = .next t → (∀ f, s.pending.head? ≠ some (.coldReset f)) →
  t.life.state = s.life.state ∧ t.life.compat = s.life.compat

/-- From every state whose register store has strictly rising keys and whose memory is in canonical form (addresses strictly
rising, no listed byte equal to what an unlisted one reads as), every next state of step has both. The two forms are the
model's own (log entries 3 and 6). (spec/07_memory_and_system_cache.md, spec/00_scope.md) -/
def Obligations.StepKeepsStores : Prop := ∀ (s t : State), sortedKeys s.regs = true → s.mem.wf → step s = .next t →
  sortedKeys t.regs = true ∧ t.mem.wf

/-- From every state, a next state of step has the same fuses, the tail of the queue, the outputs of the state before as a prefix
of its own, and a count of free values at least as high. Outputs and free values are the model's own (log entries 1, 4 and 5).
(spec/00_scope.md, spec/16_lifecycle_and_debug.md) -/
def Obligations.StepKeepsOutputsAndFuses : Prop := ∀ (s t : State), step s = .next t →
  t.fuses = s.fuses ∧ t.pending = s.pending.tail ∧ s.out <+: t.out ∧ s.freeCtr ≤ t.freeCtr

/-- State.reset has an empty queue, running clocks, sorted registers and canonical memory in which every byte reads 0 (the model's
choice, log entry 6), position 0, no calendar entry; HUB_GLOBAL.READY and SETUP_LOCK 0, RULE_STATUS.STATE 0, CAL_CTL.ENABLE 1,
CAL_GATE_LIMIT 10,000,000, every CAL_QUOTA 128, every GRV dispatch enable 1 and limit 50,000, SES_CTL.ENABLE 1, every session
quota 4096, ATTN_CTL.ENABLE 1, CE_LIMIT 1024, the time limits 20 µs, 200 µs and 5 ms, every ring state 0, every Syrel port
fenced, PWR_THERM.LIMIT 100. (spec/02_ruling_and_calendar.md, spec/03_graver_engine.md, spec/05_sessions_and_kv_pages.md,
spec/07_memory_and_system_cache.md, spec/10_mesh_and_regulation.md, spec/18_power_and_thermal.md) -/
def Obligations.ResetState : Prop := State.reset.pending = [] ∧ State.reset.power.stopped = false ∧ sortedKeys State.reset.regs = true ∧ State.reset.mem.wf ∧
  (∀ off, storedByte off State.reset = 0) ∧ State.reset.ruling.pos = 0 ∧ State.reset.cal.entries = [] ∧
  rd HUB_GLOBAL_READY 0 State.reset = 0 ∧ rd HUB_GLOBAL_SETUP_LOCK 0 State.reset = 0 ∧ rd RULE_STATUS_STATE 0 State.reset = 0 ∧
  rd CAL_CTL_ENABLE 0 State.reset = 1 ∧ rd CAL_GATE_LIMIT_LIMIT 0 State.reset = 10000000 ∧
  (∀ n, rd CAL_QUOTA_MAX n State.reset = 128) ∧ (∀ n, rd GRV_CTL_DISPATCH_EN n State.reset = 1) ∧
  (∀ n, rd GRV_LIMIT_LIMIT n State.reset = 50000) ∧ rd SES_CTL_ENABLE 0 State.reset = 1 ∧
  (∀ n, rd SES_QUOTA_MAX n State.reset = 4096) ∧ rd ATTN_CTL_ENABLE 0 State.reset = 1 ∧ rd MEM_CTL_CE_LIMIT 0 State.reset = 1024 ∧
  rd TMO_ONDIE_US 0 State.reset = 20 ∧ rd TMO_SITE_US 0 State.reset = 200 ∧ rd TMO_SYREL_MS 0 State.reset = 5 ∧
  (∀ n, rd RING_STATUS_STATE n State.reset = 0) ∧ (∀ p, rd SYR_STATUS_FENCED p State.reset = 1) ∧ rd PWR_THERM_LIMIT 0 State.reset = 100

/-- For every state whose clocks are stopped: every command but COLD_RESET answers that very state, and the tick of it is that
state. (R472) -/
def Obligations.StoppedHubRunsOnlyColdReset : Prop := ∀ (c : Instr) (s : State), s.power.stopped = true →
  ((∀ f, c ≠ .coldReset f) → exec c s = .next s) ∧ tick s = s

/-- For every calendar entry and state: with GATE_EN = 0 the gate is satisfied; with GATE_EN = 1 it is satisfied exactly when the
arrival word that the entry names minus THRESH, as a signed 32-bit value, is zero or positive. (R47) -/
def Obligations.GateSatisfied : Prop := ∀ (e : CalEntry) (s : State),
  (e.gateEn = false → gateOpen e s = true) ∧
  (e.gateEn = true → (gateOpen e s = true ↔
    0 ≤ (BitVec.ofNat 32 (rd ARRIVAL_VALUE e.gate s) - BitVec.ofNat 32 e.thresh).toInt))

/-- For all fields f, g, indices i, j below 65,536, values v and states: reading f at i after writing v there gives v mod 2^w;
after putting f at i back to reset it reads its reset value; a field of another code, or another index of the same field,
reads as before; memory is as before; the register store stays sorted. The store is the model's own (log entry 3).
(spec/00_scope.md, R13) -/
def Obligations.RegisterReadAfterWrite : Prop := ∀ (f g : Fld) (i j v : Nat) (s : State), i < 65536 → j < 65536 →
  rd f i (wr f i v s) = v % 2 ^ f.w ∧ rd f i (rst f i s) = rstVal f i s ∧
  (f.code ≠ g.code → rd f i (wr g j v s) = rd f i s) ∧ (i ≠ j → rd f i (wr f j v s) = rd f i s) ∧
  (wr f i v s).mem = s.mem ∧ (sortedKeys s.regs = true → sortedKeys (wr f i v s).regs = true)

/-- For every segment whose signed RATE lies between −214,748 and 214,748 and every reference count at or after START_REF: kind
RUN gives start_pos + floor((ref − start_ref) × (2^30 + rate) / 2^30), kind HOLD gives start_pos. (R29) -/
def Obligations.SegmentPosition : Prop := ∀ (g : Seg) (ref : Nat) (rate : Int), -214748 ≤ rate → rate ≤ 214748 →
  (g.rate : Int) = rate % 2 ^ 24 → g.startRef ≤ ref →
  (g.kind = 0 → (segPos g ref : Int) = g.startPos + ((ref : Int) - g.startRef) * (2 ^ 30 + rate) / 2 ^ 30) ∧
  (g.kind = 1 → segPos g ref = g.startPos)

/-- For FP32, BF16, FP16, E4M3, E5M2, E2M3, E3M2 and E2M1, rounding the magnitude of every code up to the largest finite one gives
the same code and reports it exact. Every binary32 word that is no NaN comes back bit for bit from its value with no flag;
every NaN comes back as 0x7FC0_0000. (R79, R94, spec/04_number_formats.md) -/
def Obligations.FloatCodesRoundTrip : Prop := (∀ f ∈ [fp32, bf16, fp16, e4m3, e5m2, e2m3, e3m2, e2m1], ∀ c, c ≤ f.maxCode → roundNear f (codeMag f c).1 (codeMag f c).2 = (c, false)) ∧
  (∀ w, w < 2 ^ 32 → (f32 w).isNan = false → valF32 (f32 w) = (w, 0)) ∧
  (∀ w, w < 2 ^ 32 → (f32 w).isNan = true → valF32 (f32 w) = (0x7FC00000, 0))

/-- For all pairs of 32-bit words: MIN and MAX give 0x7FC0_0000 if either is a NaN, and otherwise one of the two; with a NaN, CMP
is true for NE alone; without one, NE is the negation of EQ and LE the negation of the swapped LT. MIN of the zeros is minus
zero and MAX plus zero in either order, and CMP holds them equal and not less. (R81) -/
def Obligations.MinMaxCompare : Prop := ∀ (a b : Nat), a < 2 ^ 32 → b < 2 ^ 32 →
  ((f32 a).isNan = true ∨ (f32 b).isNan = true → ∀ m, (minMax m (f32 a) (f32 b)).1 = 0x7FC00000) ∧
  ((f32 a).isNan = false → (f32 b).isNan = false → ∀ m, (minMax m (f32 a) (f32 b)).1 = a ∨ (minMax m (f32 a) (f32 b)).1 = b) ∧
  ((f32 a).isNan = true ∨ (f32 b).isNan = true → ∀ cond, cond < 4 → compareFv cond (f32 a) (f32 b) = decide (cond = 3)) ∧
  ((f32 a).isNan = false → (f32 b).isNan = false → compareFv 3 (f32 a) (f32 b) = !compareFv 2 (f32 a) (f32 b)) ∧
  ((f32 a).isNan = false → (f32 b).isNan = false → compareFv 1 (f32 a) (f32 b) = !compareFv 0 (f32 b) (f32 a)) ∧
  (minMax false (f32 (2 ^ 31)) (f32 0)).1 = 2 ^ 31 ∧ (minMax false (f32 0) (f32 (2 ^ 31))).1 = 2 ^ 31 ∧
  (minMax true (f32 (2 ^ 31)) (f32 0)).1 = 0 ∧ (minMax true (f32 0) (f32 (2 ^ 31))).1 = 0 ∧
  compareFv 2 (f32 (2 ^ 31)) (f32 0) = true ∧ compareFv 0 (f32 (2 ^ 31)) (f32 0) = false

/-- With clocks running, after the access counted as a wake event: an aligned 8-byte read answers both words; an aligned 4-byte
read answers its word; that of the low half of a 64-bit register latches the high half, and a read of the high half then
answers the latched word and frees the latch. A write of 4 bytes writes the word, one of 8 bytes both words. Any other access
to BAR 0 answers Unsupported Request and is logged; with Memory Space Enable 0, or outside every BAR, it answers Unsupported
Request. (R26) -/
def Obligations.RegisterAccesses : Prop := ∀ (s : State) (fn off size tag v : Nat), s.power.stopped = false → let s1 := raiseWake 0x13 fn s
  (memSpace fn s1 = true → size = 8 → off % 8 = 0 → off + 8 ≤ barSize fn →
    exec (.regLowHalfRead fn off size tag) s = .next (hostCpl tag 0 (toBytes 8 (readWord fn off s1 + 2 ^ 32 * readWord fn (off + 4) s1)) s1)) ∧
  (memSpace fn s1 = true → size = 4 → off % 4 = 0 → off + 4 ≤ barSize fn → latchAt fn off s1 = none →
    exec (.regLowHalfRead fn off size tag) s = .next (hostCpl tag 0 (toBytes 4 (readWord fn off s1)) s1)) ∧
  (∀ k, memSpace fn s1 = true → size = 4 → off % 4 = 0 → off + 4 ≤ barSize fn → latchAt fn off s1 = some (k, false) →
    exec (.regLowHalfRead fn off size tag) s = .next (hostCpl tag 0 (toBytes 4 (readWord fn off s1))
      { s1 with latches := put k (readWord fn (off + 4) s1) s1.latches })) ∧
  (∀ k, memSpace fn s1 = true → size = 4 → off % 4 = 0 → off + 4 ≤ barSize fn → latchAt fn off s1 = some (k, true) →
    exec (.regLowHalfRead fn off size tag) s = .next (hostCpl tag 0 (toBytes 4 ((look s1.latches k).getD (readWord fn off s1)))
      { s1 with latches := del k s1.latches })) ∧
  (memSpace fn s1 = false → exec (.regLowHalfRead fn off size tag) s = .next (unsupportedReq fn tag false s1)) ∧
  (memSpace fn s1 = true → accessOk fn off size = false →
    exec (.regLowHalfRead fn off size tag) s = .next (unsupportedReq fn tag false (hostErr 0 fn 0 off s1))) ∧
  (∀ w, memSpace fn s1 = true → accessOk fn off size = false →
    exec (.barAccessInvalid fn (some 0) off size tag w) s = .next (unsupportedReq fn tag w (hostErr 0 fn 0 off s1))) ∧
  (∀ w, memSpace fn s1 = false → exec (.barAccessInvalid fn (some 0) off size tag w) s = .next (unsupportedReq fn tag w s1)) ∧
  (∀ w, exec (.barAccessInvalid fn none off size tag w) s = .next (unsupportedReq fn tag w s1)) ∧
  (memSpace fn s1 = true → off % 4 = 0 → off + 4 ≤ barSize fn → exec (.regWrite fn off 4 v false) s = .next (guardTdis s1 (writeWord fn off v s1))) ∧
  (memSpace fn s1 = true → off % 8 = 0 → off + 8 ≤ barSize fn →
    exec (.regWrite fn off 8 v false) s = .next (guardTdis s1 (writeWord fn (off + 4) (v / 2 ^ 32) (writeWord fn off v s1)))) ∧
  (memSpace fn s1 = true → accessOk fn off size = false → exec (.regWrite fn off size v false) s = .next (unsupportedReq fn 0 true (hostErr 0 fn 0 off s1))) ∧
  (∀ p, memSpace fn s1 = false → exec (.regWrite fn off size v p) s = .next (unsupportedReq fn 0 true s1)) ∧
  (memSpace fn s1 = true → exec (.regWrite fn off size v true) s = .next (poisonedTlp fn 0 off s1))

/-- A write leaves RO fields, WO fields without an action of their own and, once SETUP_LOCK is 1, RWL fields unchanged; a write of
ones clears exactly those bits of an RW1C field; a WO field reads 0. SETUP_LOCK_SET sets the lock and nothing else, if the
write reaches the register. COUNTER_OVERFLOW sets the counter's OVF bit and, if OVF_IRQ asks, takes the sample and sends the
interrupt; with no overflow waiting it changes nothing. SNAPSHOT_WRITTEN writes the body, then the header, and ends the firing
with the worst status, once its lines are claimed, and claims them otherwise. (R13, R478, R480) -/
def Obligations.RegisterAccessCodesAndCounters : Prop :=
  (∀ (s : State) (f : Fld) (i m v : Nat),
   ((f.acc = .ro ∨ f.acc = .wo) → writeFld f i m v s = s) ∧
   (f.acc = .rwl → rdb HUB_GLOBAL_SETUP_LOCK 0 s = true → writeFld f i m v s = s) ∧
   (f.acc = .rw1c → rd f i (writeFld f i m v s) = wrap f.w (rd f i s - Nat.land (rd f i s) (Nat.land v m))) ∧
   (f.acc = .wo → viewFld f i s = 0) ∧
   (s.power.stopped = false → offOpen 0 0x10 s = true → ∃ t, exec .setupLockSet s = .next t ∧ rdb HUB_GLOBAL_SETUP_LOCK 0 t = true ∧
     (∀ g k, k < 65536 → g.code ≠ HUB_GLOBAL_SETUP_LOCK.code → rd g k t = rd g k s) ∧ t.mem = s.mem ∧ t.out = s.out) ∧
   (s.power.stopped = false → offOpen 0 0x10 s = false → exec .setupLockSet s = .next s)) ∧
  (∀ (s : State), s.power.stopped = false →
   (∀ u k t v, s.cnt.ovf = (u, k) :: t → v = rd CNT_OVF_OVF u s → k < 8 →
     rdb CNT_SEL_OVF_IRQ (cntIx u k) (setCnt (fun c => { c with ovf := t }) (wr CNT_OVF_OVF u (if bit v k then v else v + 2 ^ k) s)) = false →
     exec .counterOverflow s = .next (setCnt (fun c => { c with ovf := t }) (wr CNT_OVF_OVF u (if bit v k then v else v + 2 ^ k) s))) ∧
   (∀ u k t v s1 p, s.cnt.ovf = (u, k) :: t → v = rd CNT_OVF_OVF u s → s1 = setCnt (fun c => { c with ovf := t }) (wr CNT_OVF_OVF u (if bit v k then v else v + 2 ^ k) s) →
     rdb CNT_SEL_OVF_IRQ (cntIx u k) s1 = true → p = sampleOf u s1 →
     exec .counterOverflow s = .next (sendMsix (rd CNT_OWN_FUNCTION u s1) (rd CNT_OWN_VECTOR u s1) (wr CNT_SAMPLE_POS u (pos s1)
       (wr CNT_SAMPLE_COUNTER u k (wr CNT_SAMPLE_OWNER u p.2.1 (wr CNT_SAMPLE_PC u p.1 p.2.2)))))) ∧
   (s.cnt.ovf = [] → exec .counterOverflow s = .next s) ∧
   (∀ x t w h f, s.cnt.snaps = x :: t → claimed x.base 12928 true s = true →
     w = homePut (.agent x.fn) (x.base + 128) ((x.words.drop 16).flatMap (toBytes 8)) s →
     h = homePut (.agent x.fn) x.base ((x.words.take 16).flatMap (toBytes 8)) w.2 →
     (setCnt (fun c => { c with snaps := t }) h.2).cal.firings.find? (fun f => f.id == x.firing) = some f →
     exec .snapshotWritten s = .next (endIssued { f with status := Status.worst [f.status, w.1, h.1] } (setCnt (fun c => { c with snaps := t }) h.2))) ∧
   (∀ x t, s.cnt.snaps = x :: t → claimed x.base 12928 true s = false → exec .snapshotWritten s = .next (claim (.agent x.fn) x.base 12928 true s)) ∧
   (s.cnt.snaps = [] → exec .snapshotWritten s = .next s))

/-- A MIR packet is applied and acknowledged; an acknowledgement with OK ends the record, another breaks the mirror; a record not
acknowledged within LAG_MS breaks it with TIMEOUT; a twin down for DEAD_MS posts TWIN_LOST to each function with a mirror or a
replica and breaks each mirror. CP_PROMOTE promotes the one replica of the function, and completes OK with none. MCAST goes
out over a valid group, and is taken here too where the group is LOCAL, and is dropped for an invalid one; MGMT goes to
firmware. (R278, R291, R301, R303, R304, R305) -/
def Obligations.MirrorAndManagement : Prop := ∀ (s s1 : State), s.power.stopped = false →
  (∀ k, takeInbox (fun k => k.opc == 0x6) s = some (k, s1) → exec .mirror s = .next (syrSend { opc := 0x7, vn := 1, dst := k.src, src := selfId (applyMirror k s1).2, tag := k.tag, fn := k.fn, status := (applyMirror k s1).1.code, addr := k.addr } (applyMirror k s1).2)) ∧
  (∀ k i, takeInbox (fun k => k.opc == 0x7) s = some (k, s1) → primaryOf k.fn (slice k.addr 0 18) s1 = some i → Status.ofCode k.status = .ok →
    exec .mirAck s = .next (mirrorDone i (ackMirror i k.tag s1))) ∧
  (∀ k i, takeInbox (fun k => k.opc == 0x7) s = some (k, s1) → primaryOf k.fn (slice k.addr 0 18) s1 = some i → Status.ofCode k.status ≠ .ok →
    exec .mirAck s = .next (breakMirror i (Status.ofCode k.status) true s1)) ∧
  (∀ i m, m ∈ s.syr.mirPend → m.ses = i → m.at16 + us16 (1000 * rd CP_CTL_LAG_MS 0 s) ≤ now16 s →
    exec (.mirrorLagExpire i) s = .next (breakMirror i .timeout true s)) ∧
  (∀ i, (∀ m ∈ s.syr.mirPend, m.ses = i → now16 s < m.at16 + us16 (1000 * rd CP_CTL_LAG_MS 0 s)) → exec (.mirrorLagExpire i) s = .next s) ∧
  (∀ t s2 s3, s.syr.twinDownAt = some t → s.syr.twinLost = false → t + us16 (1000 * rd CP_CTL_DEAD_MS 0 s) ≤ now16 s →
    s2 = setB SYR_EVENT_TWIN_LOST 0 (setSyr (fun y => { y with twinLost := true }) s) →
    s3 = forEach ((List.range 64).filter (fun n => s2.ses.tab.any (fun p => p.2.fn == n && (p.2.mirror || p.2.state == 5 || p.2.replica))))
      (fun n s => postEvent n 0x0009 0 .unreachable 0 s) s2 →
    exec .twinLost s = .next (forEach (s3.ses.tab.filter (fun p => p.2.mirror || p.2.state == 5)) (fun p s => breakMirror p.1 .unreachable false s) s3)) ∧
  (∀ t, s.syr.twinDownAt = some t → now16 s < t + us16 (1000 * rd CP_CTL_DEAD_MS 0 s) → exec .twinLost s = .next s) ∧
  (s.syr.twinDownAt = none → exec .twinLost s = .next s) ∧
  (∀ g k d, runningDesc g k 0x32 s = some d → (∀ p ∈ s.ses.tab, p.2.replica = true → p.2.fn ≠ slice (d.word 2) 0 6) →
    exec (.cpPromote g k) s = .next (completeDesc g k .ok 0 0 0 s)) ∧
  (∀ g k d p, runningDesc g k 0x32 s = some d → s.ses.tab.filter (fun p => p.2.replica && p.2.fn == slice (d.word 2) 0 6) = [p] →
    exec (.cpPromote g k) s = .next (completeDesc g k (Status.worse .ok (promote p.1 s).1) 1 0 0 (promote p.1 s).2)) ∧
  (∀ k, takeInbox (fun k => k.opc == 0xA) s = some (k, s1) → rdb MC_GROUP_VALID (k.addr % 256) s1 = true → rdb MC_GROUP_LOCAL (k.addr % 256) s1 = false →
    exec .mcast s = .next (mcastOut (k.addr % 256) k s1)) ∧
  (∀ k, takeInbox (fun k => k.opc == 0xA) s = some (k, s1) → rdb MC_GROUP_VALID (k.addr % 256) s1 = true → rdb MC_GROUP_LOCAL (k.addr % 256) s1 = true →
    exec .mcast s = .next (mcastOut (k.addr % 256) k (takeMulticast k s1))) ∧
  (∀ k, takeInbox (fun k => k.opc == 0xA) s = some (k, s1) → rdb MC_GROUP_VALID (k.addr % 256) s1 = false → exec .mcast s = .next s1) ∧
  (∀ act k, takeInbox (fun k => k.opc == 0xB) s = some (k, s1) → exec (.mgmt act) s = .next (takeMgmt k.src act (sinkPacket k s1)))

/-- What a port sends in an exchange symbol and how often; what it keeps of one received, with an echo and without, and how a hub
disciplined by that port takes it in states 0 to 3; the mean delay after 256 samples or more; a beacon for each multiple of
65,536 crossed. RULE_SEGMENT: UNSUPPORTED for a reserved kind or a rate out of range, REFUSED outside the MASTER role or for a
HOLD position that would fall or step more than 2^48, OK with the segment announced for a good one. SEGMENT_APPLY: applies it
at START_REF, steps where it lies ahead, refuses where the position would fall or step too far, waits before it. (R30, R31,
R33, R35, R36, R39, R40, R58, R227, R276, R277, R352) -/
def Obligations.RuleCellsAndSegments : Prop :=
  (∀ (s : State), s.power.stopped = false →
   (∀ p e q cell, rdb SYR_PORT_UP p s = true → e = exPort p s →
     (∀ t, e.txAt = some t → t + us16 (if portLpi p s then 16 else 1) ≤ now16 s) → q = wrap 8 (e.txSeq + 1) →
     cell = { state := rd RULE_STATUS_STATE 0 s, depth := rd RULE_STATUS_DEPTH 0 s, exseq := q, txT := wrap 64 (now16 s),
              echo := e.rxAt.map (fun t => (e.rxSeq, wrap 32 (now16 s - t))), seg := s.ruling.seg, pend := s.ruling.pend } →
     exec (.exchangeSymbolTx p) s = .next (sendCells p { kind := .syrCell, args := [0x3, rd RULE_STATUS_STATE 0 s, rd RULE_STATUS_DEPTH 0 s, q,
         wrap 64 (now16 s)] ++ (match e.rxAt with | some t => [1, e.rxSeq, wrap 32 (now16 s - t)] | none => [0, 0, 0]) ++ segWords s.ruling.seg ++
         (match s.ruling.pend with | some g => 1 :: segWords g | none => [0, 0, 0, 0]) } (ruleImage cell)
       (setEx p (fun e => { e with txSeq := q, txAt := some (now16 s), t3 := if e.t2.isSome && e.t3.isNone then some (q, now16 s) else e.t3 }) s))) ∧
   (∀ p t, (exPort p s).txAt = some t → now16 s < t + us16 (if portLpi p s then 16 else 1) → exec (.exchangeSymbolTx p) s = .next s) ∧
   (∀ p, rdb SYR_PORT_UP p s = false → exec (.exchangeSymbolTx p) s = .next s) ∧
   (∀ p c s1, twinPort p s = s → c.echo = none →
     s1 = setEx p (fun e => { e with
       rxAt := some (now16 s), rxSeq := c.exseq, state := c.state, depth := c.depth, seg := c.seg, pend := c.pend,
       lockedAt := if c.state = 2 then some (now16 s) else e.lockedAt, t1 := if e.t2.isNone then c.txT else e.t1,
       t2 := if e.t2.isNone then some (now16 s) else e.t2, t3 := e.t3, slow := portLpi p s }) s →
     (disciplines p s = false → exec (.exchangeSymbolRx p c) s = .next s1) ∧
     (disciplines p s = true → c.state = 2 → rd RULE_STATUS_STATE 0 s = 0 → exec (.exchangeSymbolRx p c) s =
       .next (firstReference c.seg c.pend (c.txT + (exPort p s).delay) (wr RULE_STATUS_DEPTH 0 (if role s = 3 then 0 else c.depth + 1) s1))) ∧
     (disciplines p s = true → c.state = 2 → rd RULE_STATUS_STATE 0 s = 1 ∨ rd RULE_STATUS_STATE 0 s = 2 → exec (.exchangeSymbolRx p c) s =
       .next (takeSegs c.seg c.pend (wr RULE_STATUS_DEPTH 0 (if role s = 3 then 0 else c.depth + 1) s1))) ∧
     (disciplines p s = true → c.state = 2 → rd RULE_STATUS_STATE 0 s = 3 → exec (.exchangeSymbolRx p c) s =
       .next (setLock 1 (takeSegs c.seg c.pend (wr RULE_STATUS_DEPTH 0 (if role s = 3 then 0 else c.depth + 1) s1)))) ∧
     (disciplines p s = true → c.state = 0 → rd RULE_STATUS_STATE 0 s = 0 → exec (.exchangeSymbolRx p c) s =
       .next (wr RULE_STATUS_DEPTH 0 (if role s = 3 then 0 else c.depth + 1) s1))) ∧
   (∀ p c s1 q hold t2 t3, twinPort p s = s → c.echo = some (q, hold) → (exPort p s).t2 = some t2 → (exPort p s).t3 = some (q, t3) →
     s1 = setEx p (fun e => { e with
       rxAt := some (now16 s), rxSeq := c.exseq, state := c.state, depth := c.depth, seg := c.seg, pend := c.pend,
       lockedAt := if c.state = 2 then some (now16 s) else e.lockedAt, t1 := c.txT,
       t2 := some (now16 s), t3 := none, slow := portLpi p s }) s → c.state = 2 →
     (disciplines p s = false → exec (.exchangeSymbolRx p c) s = .next (exchangeDone p (exPort p s).t1 t2 t3 (c.txT - hold) s1)) ∧
     (disciplines p s = true → rd RULE_STATUS_STATE 0 s = 1 ∨ rd RULE_STATUS_STATE 0 s = 2 → exec (.exchangeSymbolRx p c) s =
       .next (exchangeDone p (exPort p s).t1 t2 t3 (c.txT - hold)
         (takeSegs c.seg c.pend (wr RULE_STATUS_DEPTH 0 (if role s = 3 then 0 else c.depth + 1) s1))))) ∧
   (∀ p, 256 ≤ (exPort p s).delayN → (exPort p s).delayAt + us16 16000 ≤ now16 s →
     exec (.delayRemeasure p) s = .next (takeDelay p ((exPort p s).delaySum / (exPort p s).delayN) s)) ∧
   (∀ p, (exPort p s).delayN < 256 ∨ now16 s < (exPort p s).delayAt + us16 16000 → exec (.delayRemeasure p) s = .next s) ∧
   (exec .beaconSend s = .next (forEach (crossed s.ruling.beaconAt (pos s)) (fun p s => sendBeacons p (setRuling (fun r => { r with beaconAt := p }) s)) s))) ∧
  (∀ (s : State), s.power.stopped = false →
   (∀ g k d x, runningDesc g k 0x30 s = some d →
     x = { startRef := d.word 2, startPos := d.word 3, rate := wrap 24 (d.word 4), kind := slice (d.word 4) 24 2, seq := wrap 6 (s.ruling.seg.seq + 1) } →
     x.kind ≤ 1 → (x.kind = 0 → (toSigned 24 x.rate).natAbs ≤ 214748) → role s = 1 → segBad x s = false → s.ruling.pend = none →
     nowNs s + 2000000 ≤ x.startRef →
     exec (.ruleSegment g k) s = .next (completeDesc g k .ok x.seq 0 0 (setRuling (fun r => { r with pend := some x }) s))) ∧
   (∀ g k d, runningDesc g k 0x30 s = some d →
     1 < slice (d.word 4) 24 2 ∨ (slice (d.word 4) 24 2 = 0 ∧ 214748 < (toSigned 24 (wrap 24 (d.word 4))).natAbs) →
     exec (.ruleSegment g k) s = .next (failDesc g k .unsupported s)) ∧
   (∀ g k d, runningDesc g k 0x30 s = some d → slice (d.word 4) 24 2 = 1 → role s ≠ 1 →
     exec (.ruleSegment g k) s = .next (failDesc g k .refused s)) ∧
   (∀ g k d x, runningDesc g k 0x30 s = some d →
     x = { startRef := d.word 2, startPos := d.word 3, rate := wrap 24 (d.word 4), kind := slice (d.word 4) 24 2, seq := wrap 6 (s.ruling.seg.seq + 1) } →
     x.kind = 1 → role s = 1 → (x.startPos < segPos s.ruling.seg x.startRef ∨ segPos s.ruling.seg x.startRef + 2 ^ 48 < x.startPos) →
     exec (.ruleSegment g k) s = .next (failDesc g k .refused (refuseSeg x s))) ∧
   (∀ x, s.ruling.pend = some x → x.startRef ≤ nowNs s → segPos s.ruling.seg x.startRef ≤ x.startPos →
     x.startPos ≤ segPos s.ruling.seg x.startRef + 2 ^ 48 → segPos s.ruling.seg x.startRef = x.startPos →
     exec .segmentApply s = .next (sendBeacons x.startPos (setB RULE_EVENT_SEG_APPLIED 0 (setRuling (fun r => { r with seg := x, pend := none, prev := some r.seg }) s)))) ∧
   (∀ x s1, s.ruling.pend = some x → x.startRef ≤ nowNs s → segPos s.ruling.seg x.startRef < x.startPos →
     x.startPos ≤ segPos s.ruling.seg x.startRef + 2 ^ 48 →
     s1 = setB RULE_EVENT_SEG_APPLIED 0 (setRuling (fun r => { r with seg := x, pend := none, prev := some r.seg }) s) →
     exec .segmentApply s = .next (stepTo (target s1) s1)) ∧
   (∀ x, s.ruling.pend = some x → x.startRef ≤ nowNs s → (x.startPos < segPos s.ruling.seg x.startRef ∨ segPos s.ruling.seg x.startRef + 2 ^ 48 < x.startPos) →
     exec .segmentApply s = .next (refuseSeg x (setRuling (fun r => { r with pend := none }) s))) ∧
   (∀ x, s.ruling.pend = some x → nowNs s < x.startRef → exec .segmentApply s = .next s))

/-- RULE_CTL writes only while the set-up lock is 0: with the role kept, with another parent while FREE, LOCKED or not, as a new
MASTER and in another new role. A mark sets PIN_REF_OK and acts in the PIN_ROOT role alone; a good frame gives the first
reference, a later correction or the lock after two, and one with a wrong check is counted and posts PIN_FRAME_ERR. A silent
parent is left for a usable alternate. Sixteen bad measurements, or no LOCKED parent and no alternate, enter UNLOCKED. Loss of
the reference posts RULE_REF_LOST on the master and unlocks a PIN_ROOT. A held position is released once the root has reached
it. What a new MASTER and a FREE PIN_ROOT take as segment is the model's choice (log entries 116 and 118). (R13, R32, R37,
R38, R39, R40, R41, R500, R504) -/
def Obligations.RuleRolesAndLock : Prop := ∀ (s : State), s.power.stopped = false →
  (∀ r p a e, rdb HUB_GLOBAL_SETUP_LOCK 0 s = true → exec (.ruleCtlWrite r p a e) s = .next s) ∧
  (∀ r p a e s1, rdb HUB_GLOBAL_SETUP_LOCK 0 s = false → r < 4 → p < 32 →
    s1 = wrb RULE_CTL_ALT_EN 0 e (wr RULE_CTL_ALT_PORT 0 a (wr RULE_CTL_PARENT_PORT 0 p (wr RULE_CTL_ROLE 0 r s))) →
    (r = role s → r ≠ 0 ∨ rd RULE_CTL_PARENT_PORT 0 s = p → exec (.ruleCtlWrite r p a e) s = .next s1) ∧
    (role s = 0 → r = 0 → rd RULE_CTL_PARENT_PORT 0 s ≠ p → locked s1 = false →
      exec (.ruleCtlWrite r p a e) s = .next (wr RULE_STATUS_PARENT_USED 0 p s1)) ∧
    (role s = 0 → r = 0 → rd RULE_CTL_PARENT_PORT 0 s ≠ p → locked s1 = true → senderLocked p s1 = true →
      exec (.ruleCtlWrite r p a e) s = .next (switchParent p s1)) ∧
    (role s = 0 → r = 0 → rd RULE_CTL_PARENT_PORT 0 s ≠ p → locked s1 = true → senderLocked p s1 = false →
      exec (.ruleCtlWrite r p a e) s = .next (enterUnlocked false (wr RULE_STATUS_PARENT_USED 0 p s1))) ∧
    (r ≠ role s → r = 1 → exec (.ruleCtlWrite r p a e) s = .next (becomeMaster (setRuling (fun x => { x with
      good := 0, bad := 0, framesGood := 0, framesBad := 0, markAt := none, rebase := false }) (wr RULE_STATUS_DEPTH 0 0 s1)))) ∧
    (∀ s2, r ≠ role s → r ≠ 1 → s2 = wr RULE_STATUS_PARENT_USED 0 (if r = 3 then 18 else p) (setRuling (fun x => { x with
        good := 0, bad := 0, framesGood := 0, framesBad := 0, markAt := none, rebase := true }) (if r = 0 then s1 else wr RULE_STATUS_DEPTH 0 0 s1)) →
      (locked s2 = false → exec (.ruleCtlWrite r p a e) s = .next (if s.ruling.everSet then setLock 1 s2 else s2)) ∧
      (∀ s3, locked s2 = true → s3 = enterUnlocked false s2 → exec (.ruleCtlWrite r p a e) s = .next (if s3.ruling.everSet then setLock 1 s3 else s3)))) ∧
  (role s = 2 → exec .ruleSyncMark s = .next (setRuling (fun r => { r with markAt := some (now16 s) }) (setB RULE_STATUS_PIN_REF_OK 0 s))) ∧
  (role s ≠ 2 → exec .ruleSyncMark s = .next (setB RULE_STATUS_PIN_REF_OK 0 s)) ∧
  (∀ f m g ref s1, role s = 2 → f.preamble = 0xA5 → s.ruling.markAt = some m → f.crc = frameCrc f →
    g = { startRef := f.segStartRef, startPos := f.segStartPos, rate := f.segRate, kind := slice f.segSeqKind 0 2, seq := slice f.segSeqKind 2 6 } →
    ref = f.refAtMark * 16 + (now16 s - m) + rd RULE_PIN_DELAY_DELAY 0 s →
    s1 = setRuling (fun r => { r with framesGood := r.framesGood + 1, framesBad := 0, markAt := none }) s →
    (∀ t, rd RULE_STATUS_STATE 0 s = 0 → g.startRef ≤ nowNs s → t = firstReference g none ref s1 →
      exec (.ruleSyncFrame f) s = .next (if rd RULE_STATUS_STATE 0 t = 1 ∧ 2 ≤ t.ruling.framesGood then enterLocked t else t)) ∧
    (∀ t, rd RULE_STATUS_STATE 0 s = 0 → nowNs s < g.startRef → t = firstReference {} (some g) ref s1 →
      exec (.ruleSyncFrame f) s = .next (if rd RULE_STATUS_STATE 0 t = 1 ∧ 2 ≤ t.ruling.framesGood then enterLocked t else t)) ∧
    (∀ s2 s3 t, rd RULE_STATUS_STATE 0 s ≠ 0 →
      s2 = (if (now16 s : Int) - (ref : Int) < -16 ∧ locked s = false then moveRef ref (setRuling (fun r => { r with corr := 0 }) s1)
        else setRuling (fun r => { r with corr := (now16 s : Int) - (ref : Int) }) s1) →
      s3 = (if nowNs s < g.startRef then takeSegs s2.ruling.seg (some g) s2 else takeSegs g none s2) →
      t = (if rd RULE_STATUS_STATE 0 s = 3 then setLock 1 s3 else s3) →
      exec (.ruleSyncFrame f) s = .next (if rd RULE_STATUS_STATE 0 t = 1 ∧ 2 ≤ t.ruling.framesGood then enterLocked t else t))) ∧
  (∀ f m, role s = 2 → f.preamble = 0xA5 → s.ruling.markAt = some m → f.crc ≠ frameCrc f → rd RULE_STATUS_STATE 0 s ≠ 2 →
    exec (.ruleSyncFrame f) s = .next (setRuling (fun r => { r with
      framesGood := 0, framesBad := r.framesBad + 1, frameErrs := r.frameErrs + 1, markAt := none }) (setB RULE_EVENT_PIN_FRAME_ERR 0 s))) ∧
  (∀ f, s.ruling.markAt = none ∨ role s ≠ 2 → exec (.ruleSyncFrame f) s = .next s) ∧
  (locked s = true → role s = 0 → silentFor (exPort (rd RULE_STATUS_PARENT_USED 0 s) s).rxAt (silence (rd RULE_STATUS_PARENT_USED 0 s) s) s = true →
    altUsable s = true → exec .parentSilenceTimeout s = .next (switchParent (rd RULE_CTL_ALT_PORT 0 s) s)) ∧
  (altUsable s = false → exec .parentSilenceTimeout s = .next s) ∧
  (locked s = true → 16 ≤ s.ruling.bad → exec .lockLossTimeout s = .next (enterUnlocked false s)) ∧
  (locked s = true → role s = 0 →
    (∀ q, q = rd RULE_CTL_PARENT_PORT 0 s ∨ q = rd RULE_STATUS_PARENT_USED 0 s ∨ (q = rd RULE_CTL_ALT_PORT 0 s ∧ rdb RULE_CTL_ALT_EN 0 s = true) →
      silentFor (exPort q s).lockedAt (lockSilence q s) s = true) →
    exec .lockLossTimeout s = .next (enterUnlocked false s)) ∧
  (locked s = false → exec .lockLossTimeout s = .next s) ∧
  (role s = 1 → exec .ruleRefLoss s = .next (setB RULE_EVENT_RULE_REF_LOST 0 (clrB RULE_STATUS_PIN_REF_OK 0 s))) ∧
  (role s = 2 → rd RULE_STATUS_STATE 0 s = 2 → exec .ruleRefLoss s =
    .next (enterUnlocked false (setRuling (fun r => { r with framesGood := 0, markAt := none }) (clrB RULE_STATUS_PIN_REF_OK 0 s)))) ∧
  (s.ruling.holding = true → pos s ≤ rootPos s → exec .holdRelease s = .next (markDue (setRuling (fun r => { r with
    pos := max r.pos (rootPos s), holding := false, dev := 0 }) s))) ∧
  (s.ruling.holding = false ∨ rootPos s < pos s → exec .holdRelease s = .next s)

/-- CAL_ARM arms with OK or completes with the status that refuses it, from a ring or from firmware; CAL_CANCEL frees an entry
whose function and tag match and completes ACCESS_DENIED otherwise. CAL_FIRE fires an entry that may fire and whose turn it
is, counts lateness, and advances it; held, gated, past its gate limit or not due it does not. A gate unsatisfied
CAL_GATE_LIMIT after the mark ends the firing TIMEOUT. CAL_CTL sets ENABLE alone. Arrival words below 1024 take a write and no
others change. CAL_LOW_POWER_EXIT leaves H1, or raises the wake event in H2 and H3. Where two entries are due, the order by
MARK is the model's reading (log entry 55). (R45, R46, R48, R49, R50, R51, R52, R58) -/
def Obligations.CalendarCommands : Prop :=
  (∀ (s : State), s.power.stopped = false →
   (∀ g k d, runningDesc g k 0x20 s = some d → let w := [d.word 2, d.word 3, d.word 4, d.word 5]; armStatus (ringFn g) w s = .ok →
     exec (.calArm (.desc g k)) s = .next (completeDesc g k .ok (armEntry w s).1 0 0 (armEntry w s).2)) ∧
   (∀ g k d, runningDesc g k 0x20 s = some d → let w := [d.word 2, d.word 3, d.word 4, d.word 5]; armStatus (ringFn g) w s ≠ .ok →
     exec (.calArm (.desc g k)) s = .next (failDesc g k (armStatus (ringFn g) w s) s)) ∧
   (∀ w i, armStatus 0 w s = .ok → exec (.calArm (.herva w i)) s = .next (armEntry w s).2) ∧
   (∀ w i, armStatus 0 w s ≠ .ok → exec (.calArm (.herva w i)) s = .next s) ∧
   (∀ g k d e, runningDesc g k 0x21 s = some d → calEntry (slice (d.word 6) 0 13) s = some e →
     e.fn = (calOfWords [d.word 2, d.word 3, d.word 4, d.word 5]).fn → e.tag = (calOfWords [d.word 2, d.word 3, d.word 4, d.word 5]).tag →
     (ringFn g = 0 ∨ e.fn = ringFn g) →
     exec (.calCancel (.desc g k)) s = .next (completeDesc g k .ok e.made 0 0 (freeCal (slice (d.word 6) 0 13) s))) ∧
   (∀ g k d, runningDesc g k 0x21 s = some d → calEntry (slice (d.word 6) 0 13) s = none →
     exec (.calCancel (.desc g k)) s = .next (failDesc g k .accessDenied s)) ∧
   (∀ g k d e, runningDesc g k 0x21 s = some d → calEntry (slice (d.word 6) 0 13) s = some e →
     (e.fn ≠ (calOfWords [d.word 2, d.word 3, d.word 4, d.word 5]).fn ∨ e.tag ≠ (calOfWords [d.word 2, d.word 3, d.word 4, d.word 5]).tag ∨
       (ringFn g ≠ 0 ∧ e.fn ≠ ringFn g)) →
     exec (.calCancel (.desc g k)) s = .next (failDesc g k .accessDenied s)) ∧
   (∀ w i e, calEntry i s = some e → e.fn = (calOfWords w).fn → e.tag = (calOfWords w).tag →
     exec (.calCancel (.herva w i)) s = .next (freeCal i s)) ∧
   (∀ w i, calEntry i s = none → exec (.calCancel (.herva w i)) s = .next s)) ∧
  (∀ (s : State), s.power.stopped = false →
   (∀ i e late f s1, calEntry i s = some e → canFire e s = true → turnOf i e s = true → late = lateNow e s →
     f = { id := s.cal.nextId, entry := i, fn := e.fn, tag := e.tag, index := e.firing, notify := e.notify, pos := pos s,
           status := if late then .late else .ok, action := e.action, arg := e.arg, lateness := pos s - e.mark, counted := late } →
     s1 = (if late then countLate e.fn (pos s - e.mark) (count ctlUnit 0xC3 (some e.fn) 1 (count ctlUnit 0xC2 (some e.fn) 1 s))
       else count ctlUnit 0xC2 (some e.fn) 1 s) →
     exec (.calFire i) s = .next (fireAction f e.mark (advanceCal i { e with made := e.made + 1 } (addFiring f (noteFired s1))))) ∧
   (∀ i e, calEntry i s = some e → (e.dueAt = none ∨ gateOpen e s = false ∨ e.gateMiss = true ∨ calHeld e s = true) →
     exec (.calFire i) s = .next s) ∧
   (∀ i e, calEntry i s = some e → turnOf i e s = false → exec (.calFire i) s = .next s) ∧
   (∀ i e, calEntry i s = some e → e.dueAt ≠ none →
     e.gateMiss = true ∨ (gateOpen e s = false ∧ e.mark + rd CAL_GATE_LIMIT_LIMIT 0 s ≤ pos s) →
     exec (.calGateTimeout i) s = .next (endFiring i e .timeout s)) ∧
   (∀ i e, calEntry i s = some e → e.gateMiss = false → gateOpen e s = true ∨ pos s < e.mark + rd CAL_GATE_LIMIT_LIMIT 0 s →
     exec (.calGateTimeout i) s = .next s) ∧
   (∃ t, exec (.calCtlWrite true) s = .next t ∧ rd CAL_CTL_ENABLE 0 t = 1 ∧
     (∀ f i, i < 65536 → f.code ≠ CAL_CTL_ENABLE.code → rd f i t = rd f i s) ∧ t.mem = s.mem ∧ t.cal = s.cal) ∧
   (∃ t, exec (.calCtlWrite false) s = .next t ∧ rd CAL_CTL_ENABLE 0 t = 0) ∧
   (∀ g v, g < 1024 → v < 2 ^ 32 → ∃ t, exec (.arrivalWrite g v) s = .next t ∧ rd ARRIVAL_VALUE g t = v ∧
     (∀ h, h < 1024 → h ≠ g → rd ARRIVAL_VALUE h t = rd ARRIVAL_VALUE h s) ∧ t.mem = s.mem ∧ t.cal = s.cal) ∧
   (∀ g v, 1024 ≤ g → exec (.arrivalWrite g v) s = .next s) ∧
   (∀ i, s.power.entry = none → pwrState s = 1 → exitEntry 1 s = some i → exec .calLowPowerExit s = .next (leaveH1 s)) ∧
   (∀ t i, (s.power.entry = none ∧ pwrState s = t ∨ ∃ e, s.power.entry = some e ∧ e.target = t) → t ≠ 0 → pwrState s ≠ 1 →
     exitEntry t s = some i → exec .calLowPowerExit s = .next (raiseWake 0x14 i s)) ∧
   (s.power.entry = none → pwrState s = 0 → exec .calLowPowerExit s = .next s))

/-- A launch that nothing refuses is queued on its tile; otherwise it completes with that status. A load that the idle tile takes
from its queue, with its lines claimed, its bytes read and no bad word, stores n instructions from 2048 and m step words from
128, sets CUSTOM_LOADED and the owner, and completes OK with n. (R70, R73, R74, R89, R351) -/
def Obligations.GraverLoadLaunch : Prop := ∀ (s : State) (g k : Nat) (d : Desc), s.power.stopped = false →
  (runningDesc g k 0x09 s = some d → workKnown (slice (d.word 3) 0 6) g k s = false →
    graverRefusal (ringFn g) (slice (d.word 3) 0 6) true (d.word 2 % 128 != 0) s = .ok →
    exec (.graverLaunch g k) s =
      .next (queueWork (slice (d.word 3) 0 6) { kind := 1, fn := ringFn g, g := g, k := k, ring := g } s)) ∧
  (∀ st, runningDesc g k 0x09 s = some d → workKnown (slice (d.word 3) 0 6) g k s = false →
    graverRefusal (ringFn g) (slice (d.word 3) 0 6) true (d.word 2 % 128 != 0) s = st → st ≠ .ok →
    exec (.graverLaunch g k) s = .next (completeDesc g k st 0 0 0 s)) ∧
  (∀ t n m b s1, runningDesc g k 0x08 s = some d → descOf g k s = some d → t = slice (d.word 3) 20 6 →
    n = slice (d.word 3) 0 12 → m = slice (d.word 3) 12 8 →
    (grv t s).queue = [{ kind := 0, fn := ringFn g, g := g, k := k, ring := g }] → (grv t s).run = none →
    claimed (d.word 2) (16 * (n + m)) false s = true →
    homeGet (.agent (ringFn g) t) (d.word 2) (16 * (n + m)) (setGrv t (fun e => { e with queue := [] }) s) = (.ok, b, s1) →
    ((entriesOf b).take n).any instrBad = false → ((entriesOf b).drop n).any (fun v => decide (v / 2 ^ 96 ≠ 0)) = false →
    exec (.graverLoad g k) s = .next (completeDesc g k .ok n 0 0 (clearCustom t s1
      |> setGrv t (fun e =>
        { e with prog := ((entriesOf b).take n).zipIdx.foldl (fun p x => put (2048 + x.2) x.1 p) e.prog,
                 steps := ((entriesOf b).drop n).zipIdx.foldl (fun p x => put (128 + x.2) x.1 p) e.steps })
      |> setB GRV_PROG_CUSTOM_LOADED t |> wr GRV_PROG_CUSTOM_OWNER t (ringFn g))))

/-- For each of NOP, FMA, ADD, MUL, MIN, MAX, CMP, SEL, CVT, SCALE2, EX2, RCP, MOV and MOP on the running launch of its tile, with
the instruction at hand of that operation code: if the launch holds every panel buffer that the instruction reads or writes,
the next state is the issue with the result and flags that the operation gives at the effective addresses; otherwise the
launch stops with UNSUPPORTED. (R65, R66, R67, R75, R76, R79, R80, R81, R82, R83, R84, R85) -/
def Obligations.GraverInstructions : Prop := ∀ (s : State) (t w : Nat) (r : GRun) (a b d : Int) (c : Instr) (o : Nat),
  s.power.stopped = false → (c, o) ∈ plainInstrs t → (grv t s).run = some r → r.ended = false → r.blk.isEmpty = false →
  w = instrOf t r.x s → iOpc w = o →
  a = effAddr (grv t s) (iAAddr w) (iAStep w) (seenIdx r.blk r.x r.idx) →
  b = effAddr (grv t s) (iBAddr w) (iBStep w) (seenIdx r.blk r.x r.idx) →
  d = effAddr (grv t s) (iDAddr w) (iDStep w) (seenIdx r.blk r.x r.idx) →
  (holds r (reads w a b ++ writes w d) = true →
    exec c s = .next (issue t w a b d (fun _ => (operate (grv t s) w a b d).1) (operate (grv t s) w a b d).2 s)) ∧
  (holds r (reads w a b ++ writes w d) = false → exec c s = .next (stopRun t .unsupported s))

/-- PWAIT takes a READY buffer, waits on one being loaded, and ends the launch with the status of one that failed; PREL hands its
buffer over, and stops the launch if it does not hold it. A load ends as its entry's kind says; a drained buffer begins its
next entry. LAUNCH_COMPLETE completes the descriptor with STATUS, stop index, cycles, drained count and flags. LAUNCH_TIMEOUT
ends the launch after GRV_LIMIT. LAUNCH_START begins the load, launch or item at the head of the queue. (R62, R63, R72, R74,
R77, R88, R89, R90, R91, R132, R351) -/
def Obligations.GraverPanelsAndLaunchEnd : Prop :=
  (∀ (s : State) (t w : Nat) (r : GRun) (a : Int), s.power.stopped = false →
   (grv t s).run = some r → r.ended = false → r.blk.isEmpty = false → w = instrOf t r.x s →
   a = effAddr (grv t s) (iAAddr w) (iAStep w) (seenIdx r.blk r.x r.idx) →
   (iOpc w = 0x10 → (nth {} r.bufs (a.toNat / 0x8000)).st = .ready →
     exec (.pwait t) s = .next (setBuf t (a.toNat / 0x8000) (fun x => { x with st := .engine }) (issue t w a 0 0 id 0 s))) ∧
   (iOpc w = 0x10 → (nth {} r.bufs (a.toNat / 0x8000)).st = .loading → exec (.pwait t) s = .next (wr GRV_STATUS_STATE t 2 s)) ∧
   (∀ st, iOpc w = 0x10 → (nth {} r.bufs (a.toNat / 0x8000)).st = .failed st →
     exec (.pwait t) s = .next (setRun t (fun r => { r with ended := true, status := st, stop := r.x }) s)) ∧
   (iOpc w = 0x11 → (nth {} r.bufs (a.toNat / 0x8000)).st = .engine →
     exec (.prel t) s = .next (handOver t (a.toNat / 0x8000) r.x (iCond w == 1) (issue t w a 0 0 id 0 s))) ∧
   (iOpc w = 0x11 → (nth {} r.bufs (a.toNat / 0x8000)).st ≠ .engine → exec (.prel t) s = .next (stopRun t .unsupported s)) ∧
   (∀ b x e, bufAt t b s = some x → x.st = .loading → x.entries[x.k]? = some e → entryBad e = false → peKind e = 0 →
     exec (.panelLoadDone t b) s = .next (countTile t 0x05 r.work.fn 1 (setBuf t b (fun x => { x with st := .ready, job := none })
       (setGrv t (fillBuffer b {}) s)))) ∧
   (∀ b x e p s1, bufAt t b s = some x → x.st = .loading → x.entries[x.k]? = some e → entryBad e = false → peKind e ≠ 0 →
     peKind e ≠ 1 → claimed (gatherClaims e).1 (gatherClaims e).2 false s = true → gather r.work.fn t (r.work.kind == 2) false e s = (p, s1) →
     exec (.panelLoadDone t b) s = .next (endLoad t b p
       (countTile t 0x06 r.work.fn ((p.data ++ p.scales).map (fun x => x.2.length)).sum s1))) ∧
   (∀ b x e j z (p : Panel), bufAt t b s = some x → x.st = .loading → x.entries[x.k]? = some e → entryBad e = false → peKind e = 1 → x.job = some j →
     jobOf j (advanceJob j s) = some z → z.ended = true → p.st = z.status →
     p.data = (if z.status.good then (chunks 1024 129 z.image).zipIdx.map (fun q => (1024 * q.2, q.1)) else []) → p.scales = [] →
     exec (.panelLoadDone t b) s = .next (endLoad t b p (dropJob j (advanceJob j s)))) ∧
   (∀ b x l j z, bufAt t b s = some x → x.st = .draining l → x.job = some j → jobOf j (advanceJob j s) = some z → z.ended = true →
     z.status.good = true →
     exec (.panelDrainDone t b) s = .next (beginLoad t b (setBuf t b (fun y => { y with k := y.k + 1, job := none })
       (setRun t (fun r => { r with drained := r.drained + 1 }) (dropJob j (advanceJob j s))))))) ∧
  (∀ (s : State) (t : Nat), s.power.stopped = false →
   (∀ r, (grv t s).run = some r → r.ended = true → drained r = true →
     r.work.kind = 1 → exec (.launchComplete t) s = .next (completeDesc r.work.g r.work.k r.status
       (r.stop + 2 ^ 12 * sat 40 r.cycles) r.drained r.flags (retireRun t r s))) ∧
   (∀ r, (grv t s).run = some r → r.ended = false → rd GRV_LIMIT_LIMIT t s ≠ 0 →
     us16 (rd GRV_LIMIT_LIMIT t s) < now16 s - r.startAt - r.paused →
     exec (.launchTimeout t) s = .next (setRun t (fun r => { r with ended := true, status := .timeout, stop := r.x }) s)) ∧
   (∀ w rest, (grv t s).run = none → tileServes t s = true → (grv t s).queue = w :: rest →
     (w.kind = 0 → exec (.launchStart t) s = .next (runLoad t w s)) ∧
     (w.kind = 1 → exec (.launchStart t) s = .next (startRun t w s)) ∧
     (w.kind = 2 → exec (.launchStart t) s = .next (startItem t w s))))

/-- A disabled ring that is enabled becomes ENABLED from its NEXT index, or stops with CAUSE 6 where its set-up is bad; a watched
one reads its line or stops with CAUSE 5. Disabling a running ring makes it STOPPING, disabling a failed one DISABLED, and a
completion queue that rings name is not disabled. A drained STOPPING ring becomes DISABLED or FAILED and posts the event of
its CAUSE. NEXT and RELEASE take a write only while it is DISABLED. (R359, R360, R361) -/
def Obligations.RingEnableDisable : Prop := ∀ (s : State) (g : Nat), s.power.stopped = false → g < 8192 →
  (rd RING_STATUS_STATE g s = 0 → rdb RING_CFG_KIND g s = false → rdb RING_CFG_MODE g s = false → rd RING_CFG_CQ g s < 128 →
    4 ≤ rd RING_CFG_SIZE_LOG2 g s → rd RING_CFG_SIZE_LOG2 g s ≤ 16 → rdb RING_CFG_KIND (ringCq g s) s = true →
    rdb RING_CTL_ENABLE (ringCq g s) s = true → rd RING_MOD_VECTOR g s < vectorCount (ringFn g) →
    exec (.ringEnable g) s = .next (s |> setB RING_CTL_ENABLE g |> wr RING_STATUS_STATE g 1 |> wr RING_STATUS_CAUSE g 0
      |> wr RING_STATUS_FAIL_STATUS g 0
      |> setRt g (fun _ => { producer := rd RING_IDX_NEXT g s, consumed := rd RING_IDX_NEXT g s }))) ∧
  (rd RING_STATUS_STATE g s = 0 → 16 < rd RING_CFG_SIZE_LOG2 g s → rdb RING_CFG_KIND g s = false →
    rdb RING_STATUS_WATCHED g s = false →
    ∃ t, exec (.ringEnable g) s = .next t ∧ rd RING_CTL_ENABLE g t = 1 ∧ rd RING_STATUS_STATE g t = 2 ∧
      rd RING_STATUS_CAUSE g t = 6) ∧
  (∀ s1, rd RING_STATUS_STATE g s = 0 → s1 = (s |> setB RING_CTL_ENABLE g |> wr RING_STATUS_STATE g 1 |> wr RING_STATUS_CAUSE g 0
      |> wr RING_STATUS_FAIL_STATUS g 0 |> setRt g (fun _ => { producer := rd RING_IDX_NEXT g s, consumed := rd RING_IDX_NEXT g s })) →
    (ringConfigBad g s1 = true → exec (.ringEnable g) s = .next (stopRing g 6 .ok s1)) ∧
    (ringConfigBad g s1 = false → (rdb RING_CFG_KIND g s1 = true ∨ rdb RING_CFG_MODE g s1 = false) → exec (.ringEnable g) s = .next s1) ∧
    (ringConfigBad g s1 = false → rdb RING_CFG_KIND g s1 = false → rdb RING_CFG_MODE g s1 = true →
      exec (.ringEnable g) s = .next (if watchUnavailable g s1 then stopRing g 5 .ok s1 else watchRead g (setB RING_STATUS_WATCHED g s1)))) ∧
  (∀ s1, s1 = clrB RING_CTL_ENABLE g s → (rdb RING_CFG_KIND g s = false ∨ ringNamed g s = false) →
    (rd RING_STATUS_STATE g s1 = 1 → exec (.ringDisable g) s = .next (releaseWatch g (wr RING_STATUS_CAUSE g 0 (wr RING_STATUS_STATE g 2 s1)))) ∧
    (rd RING_STATUS_STATE g s1 = 3 → exec (.ringDisable g) s = .next (releaseWatch g (wr RING_STATUS_CAUSE g 0 (wr RING_STATUS_STATE g 2 s1)))) ∧
    (rd RING_STATUS_STATE g s1 ≠ 1 → rd RING_STATUS_STATE g s1 ≠ 3 → exec (.ringDisable g) s = .next s1)) ∧
  (∀ s1, rd RING_STATUS_STATE g s = 2 → ringDrained g s = true → s1 = wr RING_STATUS_STATE g (if rdb RING_CTL_ENABLE g s then 3 else 0) s →
    ((rd RING_STATUS_CAUSE g s = 0 ∨ (rdb RING_FN_CTL_EVENT_EN (ringFn g) s1 = true ∧ 128 * ringFn g + rd RING_FN_CTL_EVENT_CQ (ringFn g) s1 = g)) →
      exec (.ringStopped g) s = .next s1) ∧
    (rd RING_STATUS_CAUSE g s ≠ 0 → (rdb RING_FN_CTL_EVENT_EN (ringFn g) s1 = false ∨ 128 * ringFn g + rd RING_FN_CTL_EVENT_CQ (ringFn g) s1 ≠ g) →
      exec (.ringStopped g) s = .next (postEvent (ringFn g) 0x000A (g % 128) (Status.ofCode (rd RING_STATUS_FAIL_STATUS g s)) (rd RING_STATUS_CAUSE g s) s1))) ∧
  (rd RING_STATUS_STATE g s ≠ 2 ∨ ringDrained g s = false → exec (.ringStopped g) s = .next s) ∧
  (∀ v, rd RING_STATUS_STATE g s = 0 → exec (.ringIdxWrite g (some v) none) s = .next (wr RING_IDX_NEXT g v s) ∧
    exec (.ringIdxWrite g none (some v)) s = .next (wr RING_IDX_RELEASE g v s) ∧ exec (.ringIdxWrite g none none) s = .next s) ∧
  (rdb RING_CFG_KIND g s = false → rd RING_STATUS_STATE g s = 1 → rdb RING_STATUS_WATCHED g s = false →
    exec (.ringDisable g) s = .next (s |> clrB RING_CTL_ENABLE g |> wr RING_STATUS_STATE g 2 |> wr RING_STATUS_CAUSE g 0)) ∧
  (rdb RING_CFG_KIND g s = false → rd RING_STATUS_STATE g s = 3 → rdb RING_STATUS_WATCHED g s = false →
    exec (.ringDisable g) s = .next (s |> clrB RING_CTL_ENABLE g |> wr RING_STATUS_STATE g 2 |> wr RING_STATUS_CAUSE g 0)) ∧
  (rdb RING_CFG_KIND g s = true → ringNamed g s = true → exec (.ringDisable g) s = .next s) ∧
  (rd RING_STATUS_STATE g s = 2 → ringDrained g s = true → rdb RING_CTL_ENABLE g s = false → rd RING_STATUS_CAUSE g s = 0 →
    exec (.ringStopped g) s = .next (wr RING_STATUS_STATE g 0 s)) ∧
  (∀ v w, rd RING_STATUS_STATE g s = 0 →
    exec (.ringIdxWrite g (some v) (some w)) s = .next (wr RING_IDX_RELEASE g w (wr RING_IDX_NEXT g v s))) ∧
  (∀ v w, rd RING_STATUS_STATE g s ≠ 0 → exec (.ringIdxWrite g v w) s = .next s)

/-- A poll of a doorbell word that the ring can translate takes it, asks for the translation otherwise, and stops the ring with
CAUSE 1 on a failed read; a wrong epoch stops the ring with CAUSE 3 and an index too far ahead with CAUSE 2. A fetched
descriptor with a good header is READY, a failed fetch fails it; one that may start becomes STARTED, and one that needs a tile
counts as work. NOP completes OK. The head line read sets CONSUMED and lets the rings that write the queue fetch more, or
stops the queue with CAUSE 4 or 2. (R339, R341, R342, R343, R345, R348, R359, R461) -/
def Obligations.RingFetchAndStart : Prop := ∀ (s : State) (g k : Nat), s.power.stopped = false →
  (∀ b, ringRunning g s = true → rdb RING_CFG_KIND g s = false → rdb RING_CFG_MODE g s = false →
    (∀ t, (rt g s).polledAt = some t → t + pollEvery g s ≤ now16 s) →
    dispatching s = true → busMaster (ringFn g) s = true → ringReadable g (ringDb g s) s = true →
    exec (.doorbellPoll g (.data b)) s = .next (pickup g (ofBytes (b.take 8)) (count hostUnit 0x80 (some (ringFn g)) 1
      (setRt g (fun r => { r with polledAt := some (now16 s) }) s)))) ∧
  (∀ a, ringRunning g s = true → rdb RING_CFG_KIND g s = false → rdb RING_CFG_MODE g s = false →
    (∀ t, (rt g s).polledAt = some t → t + pollEvery g s ≤ now16 s) →
    dispatching s = true → busMaster (ringFn g) s = true → ringReadable g (ringDb g s) s = false →
    exec (.doorbellPoll g a) s = .next (askRing g (ringDb g s) (.doorbell g) s)) ∧
  (∀ st, ringRunning g s = true → rdb RING_CFG_KIND g s = false → rdb RING_CFG_MODE g s = false →
    (∀ t, (rt g s).polledAt = some t → t + pollEvery g s ≤ now16 s) →
    dispatching s = true → busMaster (ringFn g) s = true → ringReadable g (ringDb g s) s = true →
    exec (.doorbellPoll g (.fail st)) s = .next (stopRing g 1 st
      (noteAnswer (.fail st) (ringFn g) (ringPasid g s) (ringDb g s) (setRt g (fun r => { r with polledAt := some (now16 s) }) s)))) ∧
  (∀ d st, descOf g k s = some d → d.st = .fetching → (reqFor (.descFetch g k) s).isSome = true →
    (earlier g k s).any (fun e => decide (e.st = .fetching)) = false →
    exec (.descriptorFetched g k (.fail st)) s = .next (fetchFailed g k st
      (noteAnswer (.fail st) (ringFn g) (ringPasid g s) (slotVa g k s) (retireFor (.descFetch g k) s)))) ∧
  (∀ w0, slice w0 32 32 = rd RING_EPOCH_EPOCH g s → wrap 32 (wrap 32 w0 + 2 ^ 32 - rd RING_IDX_NEXT g s) ≤ ringSize g s →
    pickup g w0 s = fetchMore g (setRt g (fun r => { r with producer := wrap 32 w0 }) s)) ∧
  (∀ w0, slice w0 32 32 ≠ rd RING_EPOCH_EPOCH g s → pickup g w0 s = stopRing g 3 .ok s) ∧
  (∀ w0, slice w0 32 32 = rd RING_EPOCH_EPOCH g s → ringSize g s < wrap 32 (wrap 32 w0 + 2 ^ 32 - rd RING_IDX_NEXT g s) →
    pickup g w0 s = stopRing g 2 .ok s) ∧
  (∀ d b, descOf g k s = some d → d.st = .fetching → (reqFor (.descFetch g k) s).isSome = true →
    (earlier g k s).any (fun e => decide (e.st = .fetching)) = false →
    headerFail g (wordsOf 8 b) (setDesc g k (fun d => { d with words := wordsOf 8 b, st := .ready })
        (count hostUnit 0x81 (some (ringFn g)) 1 (retireFor (.descFetch g k) s))) = none →
    exec (.descriptorFetched g k (.data b)) s = .next (setDesc g k (fun d => { d with words := wordsOf 8 b, st := .ready })
        (count hostUnit 0x81 (some (ringFn g)) 1 (retireFor (.descFetch g k) s)))) ∧
  (∀ d, descOf g k s = some d → canStart g k d s = true → needsTile (wrap 8 (d.word 0)) = false →
    exec (.descriptorStart g k) s = .next (startDesc g k s)) ∧
  (∀ d, descOf g k s = some d → canStart g k d s = true → needsTile (wrap 8 (d.word 0)) = true →
    exec (.descriptorStart g k) s = .next (startWork (startDesc g k s))) ∧
  (∀ d, runningDesc g k 0x00 s = some d → exec (.nopDesc g k) s = .next (completeDesc g k .ok 0 0 0 s)) ∧
  (rdb RING_CFG_KIND g s = true → cqWrites g s = true → ringFree g s = 0 → (∀ t, (rt g s).headAt = some t → t + us16 1 ≤ now16 s) →
    busMaster (ringFn g) s = true → ringReadable g (ringDb g s) s = true →
    (∀ st, exec (.headLineRead g (.fail st)) s = .next (stopRing g 4 st
      (noteAnswer (.fail st) (ringFn g) (ringPasid g s) (ringDb g s) (setRt g (fun r => { r with headAt := some (now16 s) }) s)))) ∧
    (∀ b, ringSize g s < wrap 32 (rd RING_IDX_NEXT g s + 2 ^ 32 - wrap 32 (ofBytes (b.take 4))) →
      exec (.headLineRead g (.data b)) s = .next (stopRing g 2 .ok (setRt g (fun r => { r with headAt := some (now16 s) }) s)))) ∧
  (∀ b, rdb RING_CFG_KIND g s = true → cqWrites g s = true → ringFree g s = 0 → (∀ t, (rt g s).headAt = some t → t + us16 1 ≤ now16 s) →
    busMaster (ringFn g) s = true → ringReadable g (ringDb g s) s = true →
    wrap 32 (rd RING_IDX_NEXT g s + 2 ^ 32 - wrap 32 (ofBytes (b.take 4))) ≤ ringSize g s →
    exec (.headLineRead g (.data b)) s = .next (forEach (ringUsers g s) fetchMore
      (setRt g (fun r => { r with consumed := wrap 32 (ofBytes (b.take 4)) })
        (setRt g (fun r => { r with headAt := some (now16 s) }) s)))) ∧
  (∀ st fn p va, noteAnswer (.fail st) fn p va s =
    (if st = .pageFault then trnLog 0 fn p (va / 4096) (bumpSat TRN_COUNT_REFUSED 0 1 s) else s))

/-- A snoop of code 0 answers and reads the line again, one that comes during a read asks for another, any other code answers with
its own response; the data read is taken as a doorbell, or read again after a later snoop, or stops the ring with CAUSE 1 if
it failed. A queued record is written when the queue has room and lost when the queue cannot take it. The moderation time
sends the interrupt for records not yet signalled. (R319, R356, R358, R359) -/
def Obligations.RingWatchAndRecords : Prop := ∀ (s : State) (g n : Nat), s.power.stopped = false →
  (rdb RING_STATUS_WATCHED g s = true → (rt g s).watchBusy = false → mayPickUp g s = true → ringReadable g (ringDb g s) s = true →
    exec (.watchSnoop g 0) s = .next (emit { kind := .cxlCache, dest := ringFn g, args := [0, ringDb g s] }
      (setRt g (fun r => { r with watchBusy := true, watchAgain := false }) (emit { kind := .cxlCache, dest := ringFn g, args := [3, ringDb g s] } s)))) ∧
  (rdb RING_STATUS_WATCHED g s = true → (rt g s).watchBusy = true →
    exec (.watchSnoop g 0) s = .next (setRt g (fun r => { r with watchAgain := true })
      (emit { kind := .cxlCache, dest := ringFn g, args := [3, ringDb g s] } s))) ∧
  (∀ c, c ≠ 0 → rdb RING_STATUS_WATCHED g s = true → (rt g s).watchBusy = false →
    exec (.watchSnoop g c) s = .next (emit { kind := .cxlCache, dest := ringFn g, args := [4, ringDb g s] } s)) ∧
  (∀ b, rdb RING_STATUS_WATCHED g s = true → (rt g s).watchBusy = true → (rt g s).watchAgain = false → mayPickUp g s = true →
    ringRunning g s = true →
    exec (.watchReadData g (.data b)) s = .next (pickup g (ofBytes (b.take 8)) (count hostUnit 0x80 (some (ringFn g)) 1
      (setRt g (fun r => { r with watchBusy := false, watchAgain := false }) s)))) ∧
  (∀ st, rdb RING_STATUS_WATCHED g s = true → (rt g s).watchBusy = true → (rt g s).watchAgain = false → mayPickUp g s = true →
    ringRunning g s = true → exec (.watchReadData g (.fail st)) s = .next (stopRing g 1 st (noteAnswer (.fail st) (ringFn g) (ringPasid g s)
      (ringDb g s) (setRt g (fun r => { r with watchBusy := false, watchAgain := false }) s)))) ∧
  (∀ s1 a, rdb RING_STATUS_WATCHED g s = true → (rt g s).watchBusy = true → (rt g s).watchAgain = true → s1 = setRt g (fun r => { r with watchBusy := false, watchAgain := false }) s →
    (mayPickUp g s = false ∨ ringRunning g s = false) →
    exec (.watchReadData g a) s = .next (watchRead g s1)) ∧
  (∀ r rest, lookD [] s.rings.queued n = (g, r) :: rest → cqWrites g s = true → ringFree g s ≠ 0 →
    exec (.queuedRecordWrite n) s = .next (writeRec g 8192 0 r { s with rings := { s.rings with queued := put n rest s.rings.queued } })) ∧
  (∀ r rest, lookD [] s.rings.queued n = (g, r) :: rest → cqWrites g s = false →
    exec (.queuedRecordWrite n) s = .next (cqLost n { s with rings := { s.rings with queued := put n rest s.rings.queued } })) ∧
  (rdb RING_MOD_IRQ_EN g s = true → 0 < (rt g s).unsignalled → (rt g s).oldest + us16 (rd RING_MOD_MOD_US g s) ≤ now16 s →
    exec (.irqModTimeout g) s = .next (sendMsix (ringFn g) (rd RING_MOD_VECTOR g s) (setRt g (fun r => { r with unsignalled := 0 }) s)))

/-- An FLR of a VF silences it, and of the PF disables the VFs; its end frees its objects, resets its registers and configuration,
and drops its vectors. HOT_RESET starts the PF's reset and counts a link down, with the link given afterwards or none. The
link operand sets the rate, and a rate of 0 clears width and CXL. DEVCTL2 sets the host time limit by its code. (R314, R324,
R326) -/
def Obligations.FunctionResetAndTimeout : Prop := ∀ (s : State) (n : Nat), s.power.stopped = false →
  (0 < n → n < 64 → (fnCfg n (raiseWake 0x15 n s)).flrAt = none →
    exec (.flrInitiate n) s = .next (beginFlr n (raiseWake 0x15 n s))) ∧
  (∃ t, exec (.flrInitiate 0) s = .next t ∧ t.host.vfEnable = false ∧ t.host.vfMse = false) ∧
  (∀ s1, s1 = setFnCfg n (fun c => { c with flrAt := some (now16 s) }) s → (fnCfg n s).flrAt = none →
    rd FUNC_CFG_TDI n (silenceFn n s1) = 0 → beginFlr n s = silenceFn n s1) ∧
  (0 < n → (fnCfg n s).flrAt.isSome = true →
    exec (.flrComplete n) s = .next (dropVectors n (setFnCfg n (fun _ => {}) (resetFn n (freeObjects n
      (setSec (fun x => { x with parkRoots := del n x.parkRoots }) s)))))) ∧
  (exec (.flrComplete 0) s = .next (forEach (List.range 64) endFlr s)) ∧
  (64 ≤ n → exec (.flrInitiate n) s = .next s) ∧
  (0 < n → (fnCfg n s).flrAt = none → exec (.flrComplete n) s = .next s) ∧
  (exec (.hotReset none) s = .next (initiateFlr 0 (bumpSat HOST_COUNT_LINK_DOWN 0 1 s))) ∧
  (∀ l, exec (.hotReset (some l)) s = .next (setLink l (initiateFlr 0 (bumpSat HOST_COUNT_LINK_DOWN 0 1 s)))) ∧
  (∀ l, rd HOST_STATUS_RATE 0 (setLink l s) = wrap 3 l.rate ∧ (l.rate = 0 → rd HOST_STATUS_WIDTH 0 (setLink l s) = 0 ∧
    rd HOST_STATUS_CXL_MEM 0 (setLink l s) = 0 ∧ rd HOST_STATUS_CXL_CACHE 0 (setLink l s) = 0)) ∧
  (∀ v, exec (.devctl2Write v) s = .next (wr TMO_HOST_US 0 (hostTimeout (wrap 4 v))
    (setFnCfg 0 (fun c => { c with devctl2 := wrap 4 v }) s))) ∧
  [0, 1, 2, 5, 6].map hostTimeout = [50000, 100, 10000, 55000, 210000]

/-- Before configuration space is ready a request answers Request Retry; to a function that does not exist Unsupported Request;
otherwise reads answer the register and writes write it. A good BAR 2 access goes to a READY ZCP site as MMIO_RD or MMIO_WR
and to a READY CXL site as CXL.io; to a site that is not READY reads answer all ones and writes are dropped; a bad one, or one
without Memory Space Enable, answers Unsupported Request. A BAR 4 access of the host or the stylus within the window of a
READY CXL site goes to it as CXL.mem at HDM_BASE plus the offset, answers all ones where the site is not READY and zeros
outside a window. (R2, R4, R25, R229, R241, R313, R317, R326, R327) -/
def Obligations.ConfigAndWindowAccesses : Prop := ∀ (s s1 : State) (n tag : Nat), s.power.stopped = false →
  (∀ r w, s1 = raiseWake 0x13 (n % 64) s → cfgReady s1 = false →
    exec (.configRequest n r w tag) s = .next (emit { kind := .cfgCpl, dest := n, tag := tag, args := [2] } s1)) ∧
  (∀ r w, s1 = raiseWake 0x13 (n % 64) s → (n ≠ 0 ∧ rd FUNC_CFG_TDI n s1 = 3 ∧ ¬∃ v, r = .devctl ∧ w = some v ∧ bit v 15 = true) →
    exec (.configRequest n r w tag) s = .next (emit { kind := .cfgCpl, dest := n, tag := tag, args := [2] } s1)) ∧
  (∀ r w, s1 = raiseWake 0x13 (n % 64) s → (fnCfg n s1).flrAt.isSome = true →
    exec (.configRequest n r w tag) s = .next (emit { kind := .cfgCpl, dest := n, tag := tag, args := [2] } s1)) ∧
  (∀ r w, s1 = raiseWake 0x13 (n % 64) s → 64 ≤ n → cfgRetry n r w s1 = false →
    exec (.configRequest n r w tag) s = .next (emit { kind := .cfgCpl, dest := n, tag := tag, args := [1] } s1)) ∧
  (∀ r, s1 = raiseWake 0x13 (n % 64) s → n < 64 → cfgReady s1 = true → (fnCfg n s1).flrAt = none →
    (n = 0 ∨ rd FUNC_CFG_TDI n s1 ≠ 3) → (n = 0 ∨ s1.host.vfEnable = true) →
    exec (.configRequest n r none tag) s =
      .next (emit { kind := .cfgCpl, dest := n, tag := tag, args := [0], data := toBytes 4 (cfgRead n r s1).1 } (cfgRead n r s1).2)) ∧
  (∀ r v, s1 = raiseWake 0x13 (n % 64) s → n < 64 → cfgReady s1 = true → (fnCfg n s1).flrAt = none →
    (n = 0 ∨ rd FUNC_CFG_TDI n s1 ≠ 3 ∨ (r = .devctl ∧ bit v 15 = true)) → (n = 0 ∨ s1.host.vfEnable = true) →
    exec (.configRequest n r (some v) tag) s = .next (emit { kind := .cfgCpl, dest := n, tag := tag, args := [0] } (cfgWrite n r v s1))) ∧
  (∀ off size v w, s1 = raiseWake 0x13 0 s → memSpace 0 s1 = true → off / 2 ^ 24 < 8 → (size = 4 ∨ size = 8) → off % 2 ^ 24 % size = 0 →
    siteOn (off / 2 ^ 24) s1 = true → rdb SITE_CTL_ENABLE (off / 2 ^ 24) s1 = true → siteReady (off / 2 ^ 24) s1 = true →
    siteCxl (off / 2 ^ 24) (addAcc (off / 2 ^ 24) size tag w false s1) = false →
    exec (.bar2Access off size w v tag false) s = .next (zcpSend (off / 2 ^ 24)
      { opc := if w then 0x0C else 0x0B, cls := 1,
        hdr := hdrM (if w then 0x0C else 0x0B) (size == 8) (off % 2 ^ 24) (if w then wrap (8 * size) v else 0),
        purpose := some (.window (off / 2 ^ 24) s1.host.nextAcc w) } (addAcc (off / 2 ^ 24) size tag w false s1))) ∧
  (∀ off size v, s1 = raiseWake 0x13 0 s → memSpace 0 s1 = false →
    exec (.bar2Access off size false v tag false) s = .next (hostCpl tag 1 [] (reportAer 0 2 (bumpSat HOST_COUNT_UR 0 1 s1)))) ∧
  (∀ off size v w, s1 = raiseWake 0x13 0 s → (memSpace 0 s1 = false ∨ 8 ≤ off / 2 ^ 24 ∨ (size ≠ 4 ∧ size ≠ 8) ∨ off % 2 ^ 24 % size ≠ 0) →
    exec (.bar2Access off size w v tag false) s = .next (unsupportedReq 0 tag w s1)) ∧
  (∀ off size v w, s1 = raiseWake 0x13 0 s → memSpace 0 s1 = true → off / 2 ^ 24 < 8 → (size = 4 ∨ size = 8) → off % 2 ^ 24 % size = 0 →
    siteOn (off / 2 ^ 24) s1 = true → rdb SITE_CTL_ENABLE (off / 2 ^ 24) s1 = true → siteReady (off / 2 ^ 24) s1 = true →
    siteCxl (off / 2 ^ 24) s1 = true →
    exec (.bar2Access off size w v tag false) s = .next (cxlForward (off / 2 ^ 24) 0x21 s1.host.nextAcc (off % 2 ^ 24) size w
      (if w then toBytes size v else []) (addAcc (off / 2 ^ 24) size tag w false s1))) ∧
  (∀ off size v w, s1 = raiseWake 0x13 0 s → memSpace 0 s1 = true → off / 2 ^ 24 < 8 → (size = 4 ∨ size = 8) → off % 2 ^ 24 % size = 0 →
    siteReady (off / 2 ^ 24) s1 = false →
    exec (.bar2Access off size w v tag false) s = .next (if w then s1 else hostCpl tag 0 (List.replicate size 0xFF) s1)) ∧
  (∀ off size d w, s1 = raiseWake 0x13 0 s → (memSpace 0 s1 = false ∨ 8 ≤ off / 2 ^ 36) →
    exec (.bar4SiteWindowAccess off size w d tag false false) s = .next (unsupportedReq 0 tag w s1)) ∧
  (∀ off size d w st, s1 = (if st then s else raiseWake 0x13 0 s) → (st = false → memSpace 0 s1 = true) → off / 2 ^ 36 < 8 →
    (siteOn (off / 2 ^ 36) s1 = false ∨ siteCxl (off / 2 ^ 36) s1 = false ∨ rd SITE_MWIN_SIZE (off / 2 ^ 36) s1 * 2 ^ 30 < off % 2 ^ 36 + size) →
    exec (.bar4SiteWindowAccess off size w d tag st false) s = .next (answerAcc st w tag (List.replicate size 0) s1)) ∧
  (∀ off size d w st, s1 = (if st then s else raiseWake 0x13 0 s) → (st = false → memSpace 0 s1 = true) → off / 2 ^ 36 < 8 →
    siteOn (off / 2 ^ 36) s1 = true → siteCxl (off / 2 ^ 36) s1 = true →
    off % 2 ^ 36 + size ≤ rd SITE_MWIN_SIZE (off / 2 ^ 36) s1 * 2 ^ 30 → siteReady (off / 2 ^ 36) s1 = true →
    exec (.bar4SiteWindowAccess off size w d tag st false) s = .next (cxlForward (off / 2 ^ 36) 0x22 s1.host.nextAcc
      (rd SITE_MWIN_HDM_BASE (off / 2 ^ 36) s1 + off % 2 ^ 36) size w d (addAcc (off / 2 ^ 36) size tag w st s1))) ∧
  (∀ off size d w st, s1 = (if st then s else raiseWake 0x13 0 s) → (st = false → memSpace 0 s1 = true) → off / 2 ^ 36 < 8 →
    siteOn (off / 2 ^ 36) s1 = true → siteCxl (off / 2 ^ 36) s1 = true →
    off % 2 ^ 36 + size ≤ rd SITE_MWIN_SIZE (off / 2 ^ 36) s1 * 2 ^ 30 → siteReady (off / 2 ^ 36) s1 = false →
    exec (.bar4SiteWindowAccess off size w d tag st false) s = .next (answerAcc st w tag (List.replicate size 0xFF) s1)) ∧
  (∀ off size v, s1 = raiseWake 0x13 0 s → exec (.bar2Access off size true v tag true) s =
    .next (if memSpace 0 s1 then poisonedTlp 0 2 off s1 else unsupportedReq 0 0 true s1)) ∧
  (∀ off size d, s1 = raiseWake 0x13 0 s → exec (.bar4SiteWindowAccess off size true d tag false true) s =
    .next (if memSpace 0 s1 then poisonedTlp 0 4 off s1 else unsupportedReq 0 0 true s1)) ∧
  (∀ a len d, s1 = raiseWake 0x13 0 s → exec (.apertureAccess a len true d tag true) s =
    .next (if memSpace 0 s1 then poisonedTlp 0 4 (2 ^ 39 + a) s1 else unsupportedReq 0 0 true s1))

/-- A host access is queued behind those that wait for a line, and one whose lines chiplets hold waits for their claim. A read of
reserved aperture space answers zeros; one in range answers what the home gives; a write writes it. An atomic reads, computes
and writes at the home; outside the aperture it answers Unsupported Request. The HDM decoder is written only before the set-up
lock and commits extents. CXL.mem reads and writes of the exposed range act at the home. (R311, R317, R321, R322, R389) -/
def Obligations.HostMemoryAccesses : Prop := ∀ (s s1 : State) (tag : Nat), s.power.stopped = false → s1 = raiseWake 0x13 0 s →
  (∀ a len w data, exec (.apertureAccess a len w data tag false) s =
    .next (hostRequest { kind := b2n w, a := a, len := if w then data.length else len, data := data, tag := tag } s1)) ∧
  (∀ a len data, s1.host.waits = [] → memSpace 0 s1 = true → apertureAt a len s1 = none →
    exec (.apertureAccess a len false data tag false) s = .next (hostCpl tag 0 (List.replicate len 0) s1)) ∧
  (∀ a len data off st b s2, s1.host.waits = [] → memSpace 0 s1 = true → apertureAt a len s1 = some off → claimed off len false s1 = true →
    homeGet (.agent (rd HOST_APERTURE_FUNCTION 0 s1) 77) off len s1 = (st, b, s2) →
    exec (.apertureAccess a len false data tag false) s = .next (hostOutcome 0 4 (2 ^ 39 + a) tag false st b s2)) ∧
  (∀ a len data off st s2, s1.host.waits = [] → memSpace 0 s1 = true → apertureAt a data.length s1 = some off →
    claimed off data.length true s1 = true → homePut (.agent (rd HOST_APERTURE_FUNCTION 0 s1) 77) off data s1 = (st, s2) →
    exec (.apertureAccess a len true data tag false) s = .next (hostOutcome 0 4 (2 ^ 39 + a) tag true st [] s2)) ∧
  (∀ r off len wr, s1.host.waits = [] → hostRange r s1 = some (off, len, wr) → claimed off len wr s1 = false →
    hostRequest r s1 = claim (if r.kind < 3 then apertureReqr s1 else .hdm) off len wr { s1 with host := { s1.host with waits := [r] } }) ∧
  (∀ a op n x y, op < 3 → (n = 4 ∨ n = 8) → a % n = 0 →
    exec (.atomicop true a op n x y tag) s = .next (hostRequest { kind := 2, a := a, len := n, tag := tag, op := op, x := x, y := y } s1)) ∧
  (∀ a op n x y off b s2 st s3, s1.host.waits = [] → memSpace 0 s1 = true → op < 3 → (n = 4 ∨ n = 8) → a % n = 0 →
    apertureAt a n s1 = some off →
    claimed off n true s1 = true → homeGet (.agent (rd HOST_APERTURE_FUNCTION 0 s1) 77) off n s1 = (.ok, b, s2) →
    homePut (.agent (rd HOST_APERTURE_FUNCTION 0 s1) 77) off (toBytes n (atomicNew op n (ofBytes b) (wrap (8 * n) x) (wrap (8 * n) y))) s2 = (st, s3) →
    exec (.atomicop true a op n x y tag) s = .next (hostOutcome 0 4 (2 ^ 39 + a) tag false st b s3)) ∧
  (∀ a op n x y, exec (.atomicop false a op n x y tag) s = .next (hostCpl tag 1 [] (reportAer 0 2 (bumpSat HOST_COUNT_UR 0 1 s1)))) ∧
  (∀ base k, rdb HUB_GLOBAL_SETUP_LOCK 0 s = true → exec (.hostHdmWrite base k) s = .next s) ∧
  (∀ base k, rdb HUB_GLOBAL_SETUP_LOCK 0 s = false → rdb HOST_HDM_COMMITTED 0 s = false → base < 2 ^ 14 → k ≤ 1907 →
    base + k ≤ memSize s / 2 ^ 30 → (hdmRange base k).any (fun e => extKind e s != 0 && extKind e s != 3) = false →
    (hdmRange (rd HOST_HDM_BASE_GIB 0 s) (rd HOST_HDM_EXTENTS 0 s)).filter (fun e => extKind e s == 3 && !(hdmRange base k).contains e) = [] →
    exec (.hostHdmWrite base k) s = .next (forEach (hdmRange base k) (fun e s => wr EXT_KIND e 3 s)
      (s |> wr HOST_HDM_BASE_GIB 0 base |> wr HOST_HDM_EXTENTS 0 k))) ∧
  (∀ d w data, exec (.cxlMemRequest d w data tag) s = .next (hostRequest { kind := 3 + b2n w, a := d, data := data, tag := tag } s1)) ∧
  (∀ d data b s2, s1.host.waits = [] → rdb HOST_STATUS_CXL_MEM 0 s1 = true → d < rd HOST_HDM_EXTENTS 0 s1 * 2 ^ 30 →
    claimed (rd HOST_HDM_BASE_GIB 0 s1 * 2 ^ 30 + d / 64 * 64) 64 false s1 = true →
    homeGet .hdm (rd HOST_HDM_BASE_GIB 0 s1 * 2 ^ 30 + d / 64 * 64) 64 s1 = (.ok, b, s2) →
    exec (.cxlMemRequest d false data tag) s = .next (emit { kind := .cxlMem, tag := tag, args := [0], data := b } s2)) ∧
  (∀ d data st s2, s1.host.waits = [] → rdb HOST_STATUS_CXL_MEM 0 s1 = true → d < rd HOST_HDM_EXTENTS 0 s1 * 2 ^ 30 →
    claimed (rd HOST_HDM_BASE_GIB 0 s1 * 2 ^ 30 + d / 64 * 64) 64 true s1 = true →
    homePut .hdm (rd HOST_HDM_BASE_GIB 0 s1 * 2 ^ 30 + d / 64 * 64) (data.take 64) s1 = (st, s2) →
    exec (.cxlMemRequest d true data tag) s = .next (emit { kind := .cxlMem, tag := tag, args := [1] } s2))

/-- Each event of a downstream port in the state that takes it: power-on, release of PERST# after 100 ms, READY after training,
FAULT when training fails, insertion and removal, the button and its window, orderly removal and its limit, power fault,
surprise loss; and that powering off clears the port's status and the device identity and keeps STATE. (R235, R328, R330,
R331, R332) -/
def Obligations.DownstreamPorts : Prop :=
  (∀ (s : State) (p : Nat), s.power.stopped = false → p < 4 →
   (rdb DS_STATUS_PRESENT p s = true → rd DS_STATUS_STATE p s = 0 →
     exec (.powerOn p) s = .next (s |> wr DS_STATUS_STATE p 1 |> setB DS_STATUS_POWERED p
       |> setDs p (fun _ => { poweredAt := some (now16 s) }) |> emit { kind := .pin, dest := p, args := [5, 1] })) ∧
   (rd DS_STATUS_STATE p s ≠ 0 → exec (.powerOn p) s = .next s) ∧
   (∀ t, (dsPort p s).poweredAt = some t → rd DS_STATUS_STATE p s = 1 → t + us16 100000 ≤ now16 s →
     exec (.dsPerstRelease p) s = .next (emit { kind := .pin, dest := p, args := [6, 1] }
       (setDs p (fun x => { x with perstAt := some (now16 s) }) (wr DS_STATUS_STATE p 2 s)))) ∧
   (∀ t f, (dsPort p s).perstAt = some t → rd DS_STATUS_STATE p s = 2 → t + us16 100000 ≤ now16 s → f.rate ≠ 0 →
     (f.cxl = true ∨ f.cls = 0x010802) → f.enabled = true → rdb DS_CTL_ATTEST_REQ p (noteDevice p f s) = false →
     exec (.dsPortReady p f) s = .next (noteDevice p f s |> clrB DS_STATUS_ATTESTED p |> wr DS_STATUS_STATE p 3
       |> emit { kind := .pin, dest := p, args := [8, 1] } |> dsEvent p DS_EVENT_READY)) ∧
   (∀ t f, (dsPort p s).perstAt = some t → rd DS_STATUS_STATE p s = 2 → t + us16 100000 ≤ now16 s → f.rate ≠ 0 →
     (f.cxl = true ∨ f.cls = 0x010802) → f.enabled = true → rdb DS_CTL_ATTEST_REQ p (noteDevice p f s) = true → f.attested = true →
     exec (.dsPortReady p f) s = .next (forEach (List.range 7) (fun i => emit { kind := .ds, dest := p, args := [3, i] }) (noteDevice p f s)
       |> setB DS_STATUS_ATTESTED p |> wr DS_STATUS_STATE p 3
       |> emit { kind := .pin, dest := p, args := [8, 1] } |> dsEvent p DS_EVENT_READY)) ∧
   (∀ t f, (dsPort p s).perstAt = some t → rd DS_STATUS_STATE p s = 2 → t + us16 100000 ≤ now16 s → f.rate = 0 →
     exec (.dsPortReady p f) s = .next (emit { kind := .pin, dest := p, args := [7, 1] } (wr DS_STATUS_STATE p 5 (addEntry 0x8 p 1 0 s)))) ∧
   (∀ s1, s1 = setB DS_STATUS_PRESENT p (raiseWake 0x16 p s) → rdb DS_STATUS_PRESENT p s = false → rd DS_STATUS_STATE p s1 = 0 →
     exec (.dsPresenceChange p true) s = .next (insertDevice p s1)) ∧
   (∀ s1, s1 = clrB DS_STATUS_PRESENT p (raiseWake 0x16 p s) → rdb DS_STATUS_PRESENT p s = true → rd DS_STATUS_STATE p s1 ≠ 4 →
     exec (.dsPresenceChange p false) s = .next (surprise p s1)) ∧
   (∀ s1, s1 = dsEvent p DS_EVENT_BUTTON (raiseWake 0x16 p s) →
     (rd DS_STATUS_STATE p s1 = 0 → exec (.dsButton p) s = .next (powerSlot p s1)) ∧
     (rd DS_STATUS_STATE p s1 = 3 → (dsPort p s1).pressedAt = none → exec (.dsButton p) s =
       .next (emit { kind := .pin, dest := p, args := [8, 2] } (setDs p (fun x => { x with pressedAt := some (now16 s1) }) s1)))) ∧
   (∀ s1, s1 = emit { kind := .pin, dest := p, args := [7, rd DS_CTL_ATTN_LED p s] } (wr DS_STATUS_STATE p 0 (powerOff p s)) →
     rd DS_STATUS_STATE p s = 5 → rdb DS_STATUS_PRESENT p s1 = false → exec (.clear p) s = .next s1)) ∧
  (∀ (s : State) (p : Nat), s.power.stopped = false → p < 4 →
   (rd DS_STATUS_STATE p s = 3 →
     exec (.remove p) s = .next (settleDs (setDs p (fun x => { x with pressedAt := none }) (wr DS_STATUS_STATE p 4 s)))) ∧
   (∀ t, (dsPort p s).pressedAt = some t → rd DS_STATUS_STATE p s = 3 → t + us16 5000000 ≤ now16 s →
     exec (.dsButtonTimeout p) s = .next (settleDs (setDs p (fun x => { x with pressedAt := none }) (wr DS_STATUS_STATE p 4 s)))) ∧
   (∀ t, (dsPort p s).shutAt = some t → rd DS_STATUS_STATE p s = 4 → t + us16 10000000 ≤ now16 s →
     exec (.dsShutdownTimeout p) s = .next (dsEvent p DS_EVENT_REMOVED (wr DS_STATUS_STATE p 0 (powerOff p s)))) ∧
   (rdb DS_STATUS_POWERED p s = true → exec (.dsPowerFault p) s = .next (dsEvent p DS_EVENT_POWER_FAULT
     (emit { kind := .pin, dest := p, args := [7, 1] } (wr DS_STATUS_STATE p 5 (powerOff p (dropDevice p (raiseWake 0x16 p s))))))) ∧
   (rd DS_STATUS_STATE p s = 3 → exec (.dsLinkDown p) s =
     .next (dsEvent p DS_EVENT_SURPRISE (wr DS_STATUS_STATE p 0 (powerOff p (dropDevice p s))))) ∧
   (rd DS_STATUS_STATE p s = 4 → exec (.dsLinkDown p) s =
     .next (settleDs (setDs p (fun x => { x with shutAt := some (now16 s), shutDone := true }) (dropDevice p s)))) ∧
   rd DS_STATUS_POWERED p (powerOff p s) = 0 ∧ rd DS_STATUS_RATE p (powerOff p s) = 0 ∧ rd DS_STATUS_WIDTH p (powerOff p s) = 0 ∧
   rd DS_STATUS_CXL p (powerOff p s) = 0 ∧ rd DS_STATUS_ATTESTED p (powerOff p s) = 0 ∧ rd DS_DEV_VENDOR p (powerOff p s) = 0 ∧
   rd DS_DEV_DEVICE p (powerOff p s) = 0 ∧ rd DS_DEV_CLASS p (powerOff p s) = 0 ∧ rd DS_STATUS_STATE p (powerOff p s) = rd DS_STATUS_STATE p s)

/-- KV_POOL_ADD adds frames whose lines are claimed or completes with the status that refuses; SES_CREATE makes the session or
fails as the making does, UNSUPPORTED for MAX_TOKENS 0; KV_APPEND writes the tokens, or QUOTA past MAX_TOKENS; SES_QUERY
writes the image, UNSUPPORTED where misaligned; STREAM_ADMIT takes a stream below the quota, QUOTA at it; STREAM_RETIRE frees
a stream of the function and denies that of another. (R116, R117, R120, R121, R122, R131, R141, R505) -/
def Obligations.SessionPoolsAndTokens : Prop := ∀ (s : State) (g k : Nat) (d : Desc) (i : Nat) (e : SesEnt), s.power.stopped = false →
  (∀ base n, runningDesc g k 0x10 s = some d → base = slice (d.word 2) 0 44 → n = slice (d.word 3) 0 29 → poolAddStatus (ringFn g) base n s = .ok →
    wideClaimed base (n * 32768) s = true →
    exec (.kvPoolAdd g k) s = .next (completeDesc g k .ok (poolTotal (ringFn g) (setMem (fun m => { m with held := m.held ++ [(ringFn g, base / 32768, n)] }) s)) 0 0
      (setMem (fun m => { m with held := m.held ++ [(ringFn g, base / 32768, n)] }) s))) ∧
  (∀ base n, runningDesc g k 0x10 s = some d → base = slice (d.word 2) 0 44 → n = slice (d.word 3) 0 29 → poolAddStatus (ringFn g) base n s ≠ .ok →
    exec (.kvPoolAdd g k) s = .next (failDesc g k (poolAddStatus (ringFn g) base n s) s)) ∧
  (∀ x r, runningDesc g k 0x11 s = some d → sesHeld (ringFn g) 0x11 s = false → sesGate (ringFn g) 0x11 s = .ok →
    x = { fn := ringFn g, kvFmt := slice (d.word 2) 0 4, dim := slice (d.word 2) 4 2, layersM1 := slice (d.word 2) 6 8, headsM1 := slice (d.word 2) 14 6, gen := 0, maxTokens := slice (d.word 3) 0 23, root := 0 } →
    createStatus (ringFn g) (geometryBad x.kvFmt x.dim x.layersM1 x.headsM1 x.maxTokens) (x.leaves + 1) s = .ok → r = makeSes x s →
    exec (.sesCreate g k) s = .next (if r.1.good then completeDesc g k .ok (handleOf r.2.1 (sesGen r.2.1 r.2.2)) 0 0 r.2.2 else failDesc g k r.1 r.2.2)) ∧
  (runningDesc g k 0x11 s = some d → sesHeld (ringFn g) 0x11 s = false → sesGate (ringFn g) 0x11 s = .ok → slice (d.word 3) 0 23 = 0 →
    exec (.sesCreate g k) s = .next (failDesc g k .unsupported s)) ∧
  (∀ layer count fmt at' src w, sessionNamed 0x12 g k d i e s → layer = slice (d.word 2) 32 8 → count = slice (d.word 2) 40 6 + 1 → fmt = slice (d.word 2) 48 2 →
    at' = slice (d.word 3) 0 23 → src = slice (d.word 4) 0 44 → appendStatus e layer fmt at' count (pendingOf e s).2.1 = .ok → appendReady e count fmt src s = true →
    w = appendRun i e layer count fmt at' src s →
    exec (.kvAppend g k) s = .next (if w.1.good then completeDesc g k .ok (((sesEnt i w.2).map SesEnt.len).getD 0) 0 0 w.2 else failDesc g k w.1 w.2)) ∧
  (sessionNamed 0x12 g k d i e s → e.maxTokens < slice (d.word 3) 0 23 + (slice (d.word 2) 40 6 + 1) → slice (d.word 2) 32 8 < e.layers → slice (d.word 2) 48 2 ≤ 2 →
    exec (.kvAppend g k) s = .next (failDesc g k .quota s)) ∧
  (∀ buf r w, sessionNamed 0x19 g k d i e s → buf = slice (d.word 3) 0 44 → buf % 64 = 0 → rangeStatus (.agent e.fn) buf 96 true s = .ok → claimed buf 96 true s = true →
    r = homeGet (.engine e.fn) (frameOff e.root) 64 s → r.1.good = true → w = homePut (.agent e.fn) buf (e.image ++ r.2.1) r.2.2 →
    exec (.sesQuery g k) s = .next (failDesc g k w.1 w.2)) ∧
  (sessionNamed 0x19 g k d i e s → slice (d.word 3) 0 44 % 64 ≠ 0 → rangeStatus (.agent e.fn) (slice (d.word 3) 0 44) 96 true s = .ok →
    exec (.sesQuery g k) s = .next (failDesc g k .unsupported s)) ∧
  (∀ t x, sessionNamed 0x1A g k d i e s → strHeldBy e.fn s < rd STR_QUOTA_MAX e.fn s → freeStr s = some t →
    x = { session := i, gen := e.gen, fn := e.fn, sketchSel := bit (d.word 2) 40, pageBudget := slice (d.word 2) 41 16, batch := slice (d.word 2) 32 8, pos := e.len, qSlot := slice (d.word 3) 0 16 } →
    exec (.streamAdmit g k) s = .next (completeDesc g k .ok t 0 0 (putEnt i { e with stream := t, streamValid := true } (setSes (fun y => { y with streams := put t x y.streams }) s)))) ∧
  (sessionNamed 0x1A g k d i e s → rd STR_QUOTA_MAX e.fn s ≤ strHeldBy e.fn s → exec (.streamAdmit g k) s = .next (failDesc g k .quota s)) ∧
  (∀ t x, runningDesc g k 0x1B s = some d → t = slice (d.word 2) 0 17 → look s.ses.streams t = some x → x.fn = ringFn g → sesGate (ringFn g) 0x1B s = .ok →
    (∀ b ∈ s.attn.batches, b.running = true → ∀ y ∈ b.streams, y.idx ≠ t) → exec (.streamRetire g k) s = .next (completeDesc g k .ok 0 0 0 (retireStream t s))) ∧
  (∀ t x, runningDesc g k 0x1B s = some d → t = slice (d.word 2) 0 17 → look s.ses.streams t = some x → x.fn ≠ ringFn g → sesGate (ringFn g) 0x1B s = .ok →
    (∀ b ∈ s.attn.batches, b.running = true → ∀ y ∈ b.streams, y.idx ≠ t) → exec (.streamRetire g k) s = .next (failDesc g k .accessDenied s))

/-- SES_FORK makes the child and shares frames, undone where a step fails, UNSUPPORTED past the parent's length; SES_DELETE erases
an idle session, telling the twin of a mirror or replica; an unknown handle is ACCESS_DENIED. SES_MIRROR and SES_MIGRATE, with
all frames of the session read, tell the other hub and take its answer. SES_PARK builds the sealed image and sends it to the
device, SES_RESTORE reads the header back; a device completion drives the operation, and that of the shutdown tag ends the
wait of the port. (R117, R123, R125, R126, R127, R128, R129, R331, R333, R505) -/
def Obligations.SessionForkMirrorMigratePark : Prop :=
  (∀ (s : State) (g k : Nat) (d : Desc) (i : Nat) (e : SesEnt), s.power.stopped = false →
   (∀ x r w, sessionNamed 0x13 g k d i e s → x = childOf d e → x.len ≤ e.len → x.len ≤ x.maxTokens → geometryBad x.kvFmt x.dim x.layersM1 x.headsM1 x.maxTokens = false →
     createStatus e.fn false (x.leaves + 1 + (if x.len % e.n = 0 then 0 else e.layers * e.heads)) s = .ok → r = makeSes x s →
     w = seqSteps ((List.range e.layers).flatMap (fun l => (List.range e.heads).flatMap (fun h => forkSteps i r.2.1 x.len e.n l h))) r.2.2 →
     exec (.sesFork g k) s = .next (if !r.1.good then failDesc g k r.1 r.2.2 else if w.1.good then completeDesc g k .ok (handleOf r.2.1 (sesGen r.2.1 w.2)) 0 0 w.2
       else failDesc g k w.1 (setSes (fun z => { z with gens := put r.2.1 (sesGen r.2.1 s) z.gens }) (eraseSes r.2.1 w.2).2.2))) ∧
   (sessionNamed 0x13 g k d i e s → e.len < (childOf d e).len → exec (.sesFork g k) s = .next (failDesc g k .unsupported s)) ∧
   (∀ u v w, sessionNamed 0x18 g k d i e s → sesOpOf i s = none →
     u = (if mirrors e then tellHub (twinId s) 2 [e.twinIndex, e.fn] (forgetMirror i s) else s) →
     v = (if e.replica then tellHub (twinId u) 3 [e.twinIndex, e.fn] u else u) → w = (if e.streamValid then dropStream e.stream v else v) →
     exec (.sesDelete g k) s = .next (completeDesc g k (eraseSes i w).1 (eraseSes i w).2.1 0 0 (eraseSes i w).2.2)) ∧
   (∀ ty c, (ty = 0x18 ∧ c = exec (.sesDelete g k) s ∨ ty = 0x19 ∧ c = exec (.sesQuery g k) s) → runningDesc g k ty s = some d → sesHeld (ringFn g) ty s = false →
     sesGate (ringFn g) ty s = .ok → sesOf (ringFn g) (wrap 32 (d.word 2)) s = none → c = .next (failDesc g k .accessDenied s)) ∧
   (∀ o, sesOpAt g k s = none → sessionNamed 0x16 g k d i e s → mirrorDenied e.fn s = false → bit (d.word 2) 32 = true → e.mirror = false → goodPorts 6 s ≠ [] →
     o = { ty := 0x16, g := g, k := k, ses := i } →
     exec (.sesMirror g k none) s = .next (tellHub (twinId s) 1 (e.words ++ [i]) (setState i 5 (setSes (fun x => { x with ops := x.ops ++ [o] }) s)))) ∧
   (∀ o st h, sesOpAt g k s = some o → o.ty = 0x16 → o.phase = 0 → exec (.sesMirror g k (some (st, h))) s = .next (mirrorAnswer o st h s)) ∧
   (∀ o b, sesOpAt g k s = none → sessionNamed 0x17 g k d i e s → slice (d.word 2) 32 12 ≠ rd HUB_ID_ID 0 s → rdb SYR_ROUTE_VALID (slice (d.word 2) 32 12) s = true →
     o = { ty := 0x17, g := g, k := k, ses := i } → b = migrateBundle i e s → b.1.good = true →
     exec (.sesMigrate g k none) s = .next (tellFirmware (4096 * rd HUB_ID_TWIN 0 s + slice (d.word 2) 32 12) 4 b.2.1.1 b.2.1.2
       (setState i 4 (setSes (fun x => { x with ops := x.ops ++ [o] }) b.2.2)))) ∧
   (∀ b, sesOpAt g k s = none → sessionNamed 0x17 g k d i e s → slice (d.word 2) 32 12 ≠ rd HUB_ID_ID 0 s → rdb SYR_ROUTE_VALID (slice (d.word 2) 32 12) s = true →
     b = migrateBundle i e s → b.1.good = false → exec (.sesMigrate g k none) s = .next (failDesc g k b.1 b.2.2)) ∧
   (∀ o st h, sesOpAt g k s = some o → o.ty = 0x17 → exec (.sesMigrate g k (some (st, h))) s = .next (migrateAnswer o st h s)) ∧
   (sesOpAt g k s = none → sessionNamed 0x17 g k d i e s → slice (d.word 2) 32 12 = rd HUB_ID_ID 0 s → exec (.sesMigrate g k none) s = .next (failDesc g k .unsupported s))) ∧
  (∀ (s : State) (g k : Nat) (d : Desc) (i : Nat) (e : SesEnt), s.power.stopped = false →
   (∀ f root nonce img o, sessionNamed 0x14 g k d i e s →
     targetStatus e.fn (slice (d.word 3) 0 2) (slice (d.word 3) 2 2) (slice (d.word 3) 4 32) (d.word 4) (imageBytes (imageEntries e).length) s = .ok →
     f = readFrames e (imageEntries e) s → f.1.good = true → root = parkRoot e.fn f.2.2 → nonce = ofBytes (freeBytes root.2.freeCtr 12) →
     img = parkImage (Config.parkKey root.1 e.fn nonce) nonce e f.2.1 →
     o = { ty := 0x14, g := g, k := k, ses := i, kind := slice (d.word 3) 0 2, port := slice (d.word 3) 2 2, nsid := slice (d.word 3) 4 32, target := d.word 4, image := img.take 4096 } →
     exec (.sesPark g k) s = .next (sendDevice o e.fn 0 0 img.length img (setState i 1 (setSes (fun x => { x with ops := x.ops ++ [o] }) (drewN 12 root.2))))) ∧
   (∀ kind port nsid target s1 o, runningDesc g k 0x15 s = some d → sesHeld (ringFn g) 0x15 s = false → sesGate (ringFn g) 0x15 s = .ok → sesOpAt g k s = none → sesBehind g k s = false →
     wrap 32 (d.word 2) ≠ 0 → sesOf (ringFn g) (wrap 32 (d.word 2)) s = some (i, e) → tableRuns 0x15 e = true →
     restoreTarget d (some e) s = (.ok, (kind, port, nsid, target), s1) → targetStatus (ringFn g) kind port nsid target 4096 s1 = .ok →
     o = { ty := 0x15, g := g, k := k, ses := i, kind := kind, port := port, nsid := nsid, target := target } →
     exec (.sesRestore g k) s = .next (sendDevice o (ringFn g) 2 0 4096 [] (setState i 3 (setSes (fun x => { x with ops := x.ops ++ [o] }) s1)))) ∧
   (∀ kind port nsid target s1 o, runningDesc g k 0x15 s = some d → sesHeld (ringFn g) 0x15 s = false → sesGate (ringFn g) 0x15 s = .ok → sesOpAt g k s = none → sesBehind g k s = false →
     wrap 32 (d.word 2) = 0 → restoreTarget d none s = (.ok, (kind, port, nsid, target), s1) → targetStatus (ringFn g) kind port nsid target 4096 s1 = .ok →
     o = { ty := 0x15, g := g, k := k, ses := 262144, kind := kind, port := port, nsid := nsid, target := target } →
     exec (.sesRestore g k) s = .next (sendDevice o (ringFn g) 2 0 4096 [] (setSes (fun x => { x with ops := x.ops ++ [o] }) s1))) ∧
   (∀ p tag outcome data r id, tag ≠ shutdownTag → reqOf 3 78 tag s = some r → r.purpose = .device p id →
     exec (.dsDeviceCompletion p tag outcome data) s = .next (deviceAnswer id (deviceStatus outcome) data (retireReq r s))) ∧
   (∀ p outcome data, exec (.dsDeviceCompletion p shutdownTag outcome data) s = .next (setDs p (fun x => if x.shutAt.isSome then { x with shutDone := true } else x) s)))

/-- COLL_SETUP stores a good record and completes with the status that refuses a bad one; RED_UP adds a block from a child;
RED_DOWN lands a good block and fails the collective on a bad status; COLL_TIMEOUT fails it with TIMEOUT at its limit.
ATTN_BATCH accepts or completes, counted, with the refusing status; the start plans and deals its items; a program's item ends
with its status and flags; a built-in item keeps its segment's sums and, as the last of a clean pass, merges and writes the
outputs. How passes attach and which tile takes an item follow the readings of log entry 77. (R140, R141, R143, R144, R145,
R146, R150, R292, R293, R294) -/
def Obligations.CollectivesAndAttention : Prop :=
  (∀ (s s1 : State), s.power.stopped = false →
   (∀ g k d b, runningDesc g k 0x22 s = some d → slice (d.word 3) 0 44 % 64 = 0 →
     rangeStatus (.agent (ringFn g)) (slice (d.word 3) 0 44) 64 false s = .ok → claimed (slice (d.word 3) 0 44) 64 false s = true →
     homeGet (.agent (ringFn g)) (slice (d.word 3) 0 44) 64 s = (.ok, b, s1) →
     collStatus (ringFn g) (slice (d.word 2) 0 8) b s1 = .ok → bit (ofBytes (b.take 8)) 0 = true →
     exec (.collSetup g k) s = .next (completeDesc g k .ok 0 0 0 (setSyr (fun y => { y with colls := put (slice (d.word 2) 0 8) (collOf b) y.colls, ended := del (slice (d.word 2) 0 8) y.ended }) s1
       |> wr COLL_STAT_VALID (slice (d.word 2) 0 8) 1 |> wr COLL_STAT_FUNCTION (slice (d.word 2) 0 8) (collOf b).fn))) ∧
   (∀ g k d b, runningDesc g k 0x22 s = some d → slice (d.word 3) 0 44 % 64 = 0 →
     rangeStatus (.agent (ringFn g)) (slice (d.word 3) 0 44) 64 false s = .ok → claimed (slice (d.word 3) 0 44) 64 false s = true →
     homeGet (.agent (ringFn g)) (slice (d.word 3) 0 44) 64 s = (.ok, b, s1) →
     collStatus (ringFn g) (slice (d.word 2) 0 8) b s1 ≠ .ok →
     exec (.collSetup g k) s = .next (failDesc g k (collStatus (ringFn g) (slice (d.word 2) 0 8) b s1) s1)) ∧
   (∀ p r c d, takeInbox (fun q => q.opc == 0x8 && redReady s q) s = some (p, s1) → look s1.syr.runs (redId p) = some r →
     look s1.syr.colls (redId p) = some c → fromDir p ((List.range 6).filter (bit c.childs)) s1 = some d → p.seq = r.seq →
     redBlock p < c.blocks → p.data.length = c.blockLen (redBlock p) →
     exec .redUp s = .next (advanceColls (setCollRun (redId p) (fun r => { r with got := r.got ++ [(d, redBlock p, p.data)] }) s1))) ∧
   (∀ p r c, takeInbox (fun q => q.opc == 0x9 && redReady s q) s = some (p, s1) → look s1.syr.runs (redId p) = some r →
     look s1.syr.colls (redId p) = some c → p.seq = r.seq →
     (p.status ≠ 0 → exec .redDown s = .next (failColl (redId p) (Status.ofCode p.status) (fromDir p (treeDirs c) s1) s1)) ∧
     (p.status = 0 → fromDir p [c.parent] s1 = some c.parent → redBlock p < c.blocks → p.data.length = c.blockLen (redBlock p) →
       claimed (c.dst + 512 * redBlock p) (c.blockLen (redBlock p)) true s = true →
       exec .redDown s = .next (advanceColls (landBlock (redId p) (redBlock p) c r.seq p.data s1)))) ∧
   (∀ n r, look s.syr.runs n = some r → r.start + r.limit ≤ now16 s →
     exec (.collTimeout n) s = .next (failColl n .timeout none s))) ∧
  (∀ (s : State), s.power.stopped = false →
   (∀ g k d s1, runningDesc g k 0x0A s = some d → s.attn.batches.any (fun b => b.g == g && b.k == k) = false →
     batchStatus (ringFn g) d s = .ok → s1 = count ctlUnit 0xC4 (some (ringFn g)) 1 s →
     exec (.attnBatch g k) s = .next { s1 with attn := { nextId := s1.attn.nextId + 1, batches := s1.attn.batches ++
       [{ id := s1.attn.nextId, g := g, k := k, fn := ringFn g, num := slice (d.word 2) 8 8, streams := streamSet (ringFn g) d s1,
          owing := if atArriveEn d && atPerTile d then ownerTiles (ringFn g) s1 else [] }] } }) ∧
   (∀ g k d st, runningDesc g k 0x0A s = some d → s.attn.batches.any (fun b => b.g == g && b.k == k) = false →
     batchStatus (ringFn g) d s = st → st ≠ .ok →
     exec (.attnBatch g k) s = .next (completeDesc g k st 0 0 0 (bump ATTN_COUNT_BATCHES (ringFn g) 1 s))) ∧
   (∀ b d r s1, s.attn.batches.find? (fun b => mayStart b s) = some b → descOf b.g b.k s = some d →
     (selectClaims d b).find? (fun p => !claimed p.1 p.2 false s) = none → planAll (nth 79 (liveTiles b.fn s) 0) d b.streams s = (r, s1) →
     exec .attnBatchStart s = .next (settleBatch b.id (queueItems { b with running := true, streams := r, items := dealItems d (liveTiles b.fn s) r s1 }
       (spoil (atWork d) workBytes (setABatch b.id (fun _ => { b with running := true, streams := r, items := dealItems d (liveTiles b.fn s) r s1 }) s1))))) ∧
   (∀ t r b d it, (grv t s).run = some r → r.work.kind = 2 → aBatchOf r.work.g s = some b → descOf b.g b.k s = some d →
     b.items[r.work.k]? = some it → r.blk.isEmpty = false → r.ended = true → drained r = true →
     exec (.attnItemComplete t) s = .next (endItem b.id r.work.k r.status r.flags (retireRun t r s))) ∧
   (∀ t r b d it x e a res draw w, (grv t s).run = some r → r.work.kind = 2 → aBatchOf r.work.g s = some b → descOf b.g b.k s = some d →
     b.items[r.work.k]? = some it → r.blk = [] → r.ended = false → b.streams[it.str]? = some x → x.live s = some e →
     (itemRanges d e x b r.work.k it (lastSegment b r.work.k it && passClean b it)).find? (fun p => !claimed p.1 p.2.1 p.2.2 s) = none →
     a = itemReads t d e x it s → a.1.st = .ok → res = segSofts d e x it a.1 → draw = Config.kernelDraw (kernelKey (grv t s) d a.1) →
     w = keepSegment t d e b.id r.work.k it res (setItem b.id r.work.k (fun y => { y with res := res }) a.2) →
     ((lastSegment b r.work.k it && passClean b it) = false →
       exec (.attnItemComplete t) s = .next (doneKernel t r b.id draw w.1 w.2)) ∧
     (∀ u, (lastSegment b r.work.k it && passClean b it) = true → w.1.good = true →
       u = mergePass t d e x { b with items := modNth r.work.k (fun y => { y with res := res }) b.items } it w.2 →
       exec (.attnItemComplete t) s = .next (doneKernel t r b.id draw u.1 u.2))))

/-- An open channel serves the next request of its queue, a read or a write, with the errors met, on a second read too; a closed
one does nothing. The patrol scrub, when due, visits the next granule, charged to the firmware class; an interval of 0 stops
it. Drift starts a retraining where PERIODIC_RT is 1, link errors at a rate that has link ECC always; its end counts it, keeps
the longest time, trains the rate or fails the channel, and starts a retraining that waits. (R168, R172, R177, R178, R181,
R187, R188) -/
def Obligations.ChannelCommands : Prop := ∀ (s : State), s.power.stopped = false →
  (∀ j ch errs again slot r, nextReq (chanKey j ch) slot s = some r → r.write = false → chanOpen j ch s = true →
    exec (.memRead j ch errs again slot) s =
      .next (serve (chanKey j ch) r (meetErrors j ch r.gran errs r.cls again (noteServed (chanKey j ch) r s)))) ∧
  (∀ j ch errs again slot, chanOpen j ch s = false → exec (.memRead j ch errs again slot) s = .next s) ∧
  (∀ j ch errs again slot r, nextReq (chanKey j ch) slot s = some r → r.write = true → chanOpen j ch s = true → r.bytes.length = 256 →
    exec (.memWrite j ch errs again slot) s = .next (serve (chanKey j ch) r (noteServed (chanKey j ch) r s))) ∧
  (∀ j ch errs again slot r, nextReq (chanKey j ch) slot s = some r → r.write = true → chanOpen j ch s = true → r.bytes.length ≠ 256 →
    exec (.memWrite j ch errs again slot) s =
      .next (serve (chanKey j ch) r (meetErrors j ch r.gran errs r.cls again (noteServed (chanKey j ch) r s)))) ∧
  (∀ j ch errs again slot, nextReq (chanKey j ch) slot s = none →
    exec (.memRead j ch errs again slot) s = .next s ∧ exec (.memWrite j ch errs again slot) s = .next s) ∧
  (∀ errs again l c s1, l = locate (256 * s.mem.scrub) s → rd MEM_SCRUB_HOURS 0 s ≠ 0 → memSize s ≠ 0 → scrubDue s = true →
    ((chan (chanKey l.site l.ch) s).queue = [] ∨ confStatic s = true) → granHeld s.mem.scrub s = false → chanFailed l.site l.ch s = false →
    c = fwClass l.site s →
    s1 = meetErrors l.site l.ch s.mem.scrub errs c again (noteCheck (chanKey l.site l.ch) l.block (serveBytes (chanKey l.site l.ch) c (nextScrub s))) →
    exec (.patrolScrub errs again) s = .next (if granBad s.mem.scrub s1 then meetUe s.mem.scrub s1 else s1)) ∧
  (∀ errs again, rd MEM_SCRUB_HOURS 0 s = 0 → exec (.patrolScrub errs again) s = .next s) ∧
  (∀ j ch, rdb MEM_CTL_PERIODIC_RT j s = true → exec (.driftTrackingLimit j ch false) s = .next (startRetrain j ch s)) ∧
  (∀ j ch, trainedRate (chanKey j ch) s ≤ 1 → exec (.driftTrackingLimit j ch true) s = .next (startRetrain j ch s)) ∧
  (∀ j ch, rdb MEM_CTL_PERIODIC_RT j s = false → exec (.driftTrackingLimit j ch false) s = .next s) ∧
  (∀ j ch ok t s1 s2 s3, (chan (chanKey j ch) s).retrainAt = some t →
    s1 = bump MEM_RETRAIN_COUNT j 1 (clrB MEM_STATUS_RETRAINING j
      (setChan (chanKey j ch) (fun c => { c with retrainAt := none, ceTimes := [], hold := (now16 s - t) / 16000 }) s)) →
    s2 = wr MEM_RETRAIN_LONGEST j (max (rd MEM_RETRAIN_LONGEST j s1) (sat 16 ((now16 s1 - t) / 16000))) s1 →
    s3 = (if ok then trainRate j ch s2 else failChannel j ch s2) →
    (s3.mem.retrain.find? (fun p => p.1 == j) = none → exec (.chanRetrainDone j ch ok) s = .next s3) ∧
    (∀ p, s3.mem.retrain.find? (fun p => p.1 == j) = some p → exec (.chanRetrainDone j ch ok) s =
      .next (startRetrain j p.2 (setMem (fun m => { m with retrain := m.retrain.erase p }) s3)))) ∧
  (∀ j ch ok, (chan (chanKey j ch) s).retrainAt = none → exec (.chanRetrainDone j ch ok) s = .next s)

/-- MOVE_FRAME_COPY copies a granule with the errors met, advances a frame, and at the last one steers the entry to its new site
and slot; a site in retraining holds it. KEY_SLOT_WITHDRAW drains the slot's lines, drops its key and confirms, or replaces it
with a fresh one. An MR4 poll writes the raw code, the channel's level and refresh, and outside confidential mode the worst
level of the site with the event of level 3, no sooner than 4 ms after the last. (R4, R171, R179, R180, R181, R467) -/
def Obligations.MovesKeysAndTemperature : Prop := ∀ (s : State), s.power.stopped = false →
  (∀ errs again j k e s1, rdb MEM_MOVE_ACTIVE 0 s = true → s.mem.moveTo = some (j, k) → movePaused s = false → e = rd MEM_MOVE_ENTRY 0 s →
    s1 = copyGran (granOf e (rd MEM_MOVE_FRAME 0 s) s) errs again j k s →
    (rd MEM_MOVE_FRAME 0 s1 + 1 < rd MEM_NF_NF 0 s1 →
      exec (.moveFrameCopy errs again) s = .next (wr MEM_MOVE_FRAME 0 (rd MEM_MOVE_FRAME 0 s1 + 1) s1)) ∧
    (rd MEM_NF_NF 0 s1 ≤ rd MEM_MOVE_FRAME 0 s1 + 1 →
      exec (.moveFrameCopy errs again) s = .next (nextMove (setMem (fun m => { m with moveTo := none, partMoves := del e m.partMoves })
        (wr MEM_MOVE_FRAME 0 (rd MEM_MOVE_FRAME 0 s1 + 1) (clrB MEM_MOVE_ACTIVE 0 (wr SITE_STEER_SLOT e k (wr SITE_STEER_SITE e j s1)))))))) ∧
  (∀ errs again j k, s.mem.moveTo = some (j, k) → siteRetraining j s = true → exec (.moveFrameCopy errs again) s = .next s) ∧
  (∀ errs again, rdb MEM_MOVE_ACTIVE 0 s = false → exec (.moveFrameCopy errs again) s = .next s) ∧
  (∀ k, ∃ t, exec (.keySlotWithdraw k false) s = .next t ∧ look t.sec.keys k = none ∧
    t = emit { kind := .mem, dest := 80, tag := k } (dropKey k (drainSlot k s))) ∧
  (∀ k, ∃ t, exec (.keySlotWithdraw k true) s = .next t ∧ look t.sec.keys k = some (drainSlot k s).sec.nextKey ∧
    t.sec.nextKey = (drainSlot k s).sec.nextKey + 1) ∧
  (∀ j ch raw cat f s1 s2 old lvl, ch < 8 → mr4Flds[ch]? = some f →
    (∀ t, look s.mem.mr4At (chanKey j ch) = some t → t + us16 4000 ≤ now16 s) →
    s1 = wr f j raw (setMem (fun m => { m with mr4At := put (chanKey j ch) (now16 s) m.mr4At }) s) →
    old = (chan (chanKey j ch) s1).level →
    lvl = (if old ≤ mr4Level cat then mr4Level cat else if (chan (chanKey j ch) s1).cooler then old - 1 else old) →
    s2 = setChan (chanKey j ch) (fun c => { c with level := lvl, cooler := decide (mr4Level cat < old) && !(c.cooler && decide (mr4Level cat < old)), refresh := cat }) s1 →
    (confStatic s2 = true → exec (.mr4Poll j ch raw cat) s = .next (wr MEM_STATUS_THROTTLE j 0 s2)) ∧
    (confStatic s2 = false → ∀ s3, s3 = wr MEM_STATUS_THROTTLE j (((List.range 8).map (fun i => (chan (chanKey j i) s2).level)).foldl max 0) s2 →
      exec (.mr4Poll j ch raw cat) s = .next (if lvl = 3 ∧ old ≠ 3 then thermalEvent 5 lvl s3 else s3))) ∧
  (∀ j ch raw cat t, look s.mem.mr4At (chanKey j ch) = some t → now16 s < t + us16 4000 → exec (.mr4Poll j ch raw cat) s = .next s)

/-- A packet of a network and plane delivered clean or corrected answers as it is, an uncorrected one DATA_ERR or is lost, and
counts; a port that takes nothing answers UNREACHABLE. A router idle long enough is gated. The time limits take clamped values
before the lock. STATIC takes effect at a boundary unless quotas are oversubscribed. A request past its limit times out,
leaves a tombstone and, if the host's, reports the error; a late completion is dropped and counted, a request held by its
target pauses its limit until it resumes, and an abandoned one is dropped there. (R13, R245, R246, R248, R249, R250, R252,
R253, R254, R255, R256, R265) -/
def Obligations.MeshAndRequestTimeouts : Prop :=
  (∀ (s s1 : State), s.power.stopped = false →
   (∀ vn pl src dst f, s.mesh.flight.find? (fun f => f.vn == vn && f.plane == pl && f.src == src && f.dst == dst) = some f →
     s1 = travel src dst (setMesh (fun m => { m with flight := m.flight.erase f }) s) → portTakes dst s1 = true →
     exec (.meshPacketDeliver vn pl src dst 0) s = .next (takeAnswer f f.st f.data s1) ∧
     exec (.meshPacketDeliver vn pl src dst 1) s = .next (takeAnswer f f.st f.data (bumpSat MESH_STATUS_FLIT_CE 0 1 s1)) ∧
     exec (.meshPacketDeliver vn pl src dst 2) s = .next (takeAnswer f .dataErr [] (bumpSat MESH_STATUS_FLIT_UE 0 1 s1)) ∧
     exec (.meshPacketDeliver vn pl src dst 3) s = .next (bumpSat MESH_STATUS_FLIT_UE 0 1 s1)) ∧
   (∀ vn pl src dst f, s.mesh.flight.find? (fun f => f.vn == vn && f.plane == pl && f.src == src && f.dst == dst) = some f →
     s1 = travel src dst (setMesh (fun m => { m with flight := m.flight.erase f }) s) → portTakes dst s1 = false →
     exec (.meshPacketDeliver vn pl src dst 0) s = .next (emit { kind := .mesh, dest := src, tag := f.id, args := [Status.unreachable.code] } s1)) ∧
   (∀ vn pl src dst err, s.mesh.flight.find? (fun f => f.vn == vn && f.plane == pl && f.src == src && f.dst == dst) = none →
     exec (.meshPacketDeliver vn pl src dst err) s = .next s) ∧
   (∀ r, r < 72 → rdb MESH_CTL_GATE_EN 0 s = true → r ∉ s.mesh.gated → lookD 0 s.mesh.used r + 128 * max 1 (rd MESH_CTL_GATE_IDLE 0 s) ≤ now16 s →
     exec (.routerGate r) s = .next (setMesh (fun m => { m with gated := m.gated ++ [r] }) s)) ∧
   (∀ r, rdb MESH_CTL_GATE_EN 0 s = false → exec (.routerGate r) s = .next s) ∧
   (rdb HUB_GLOBAL_SETUP_LOCK 0 s = false → ∀ v,
     exec (.tmoWrite 0 v) s = .next (wr TMO_ONDIE_US 0 (min 1000 (max 5 v)) s) ∧
     exec (.tmoWrite 1 v) s = .next (wr TMO_SITE_US 0 (min 10000 (max 50 v)) s) ∧
     exec (.tmoWrite 2 v) s = .next (wr TMO_SYREL_MS 0 (min 100 (max 1 v)) s)) ∧
   (rdb HUB_GLOBAL_SETUP_LOCK 0 s = true → ∀ c v, exec (.tmoWrite c v) s = .next s) ∧
   (atBoundary s = true → s1 = setRuling (fun r => { r with staticAt := r.pos }) s → rdb REG_CTL_STATIC 0 s1 = true → staticOn s1 = false →
     oversub s1 = true → rdb SEC_STATUS_CONF_PENDING 0 (setB REG_STATUS_STATIC_REFUSED 0 s1) = false →
     exec .staticBoundary s = .next (setB REG_STATUS_STATIC_REFUSED 0 s1)) ∧
   (atBoundary s = true → s1 = setRuling (fun r => { r with staticAt := r.pos }) s → rdb REG_CTL_STATIC 0 s1 = true → staticOn s1 = false →
     oversub s1 = false → rdb SEC_STATUS_CONF_PENDING 0 (setB REG_STATUS_STATIC_ACTIVE 0 s1) = false →
     exec .staticBoundary s = .next (setB REG_STATUS_STATIC_ACTIVE 0 s1)) ∧
   (atBoundary s = true → s1 = setRuling (fun r => { r with staticAt := r.pos }) s → rdb REG_CTL_STATIC 0 s1 = staticOn s1 →
     rdb SEC_STATUS_CONF_PENDING 0 s1 = true →
     exec .staticBoundary s = .next (if staticOn s1 then endConf .ok 0 (enterConfidential s1) else endConf .refused 2 s1)) ∧
   (atBoundary s = false → exec .staticBoundary s = .next s)) ∧
  (∀ (s : State), s.power.stopped = false →
   (∀ cls port tag r, reqOf cls port tag s = some r → expired r s = true → (∀ a b, r.purpose ≠ .pri a b) → (cls ≠ 3 ∨ port ≠ 77) →
     exec (.initiatorTimeout cls port tag) s = .next (timedOut r (entomb r (bump TMO_COUNT_TIMEOUTS 0 1 (tmoLog r.cls r.port r.tag r.fn s))))) ∧
   (∀ tag r, reqOf 3 77 tag s = some r → expired r s = true → (∀ a b, r.purpose ≠ .pri a b) →
     exec (.initiatorTimeout 3 77 tag) s = .next (timedOut r (reportAer r.fn 4 (entomb r (bump TMO_COUNT_TIMEOUTS 0 1 (tmoLog r.cls r.port r.tag r.fn s)))))) ∧
   (∀ cls port tag r a b, reqOf cls port tag s = some r → r.purpose = .pri a b → exec (.initiatorTimeout cls port tag) s = .next s) ∧
   (∀ cls port tag r, reqOf cls port tag s = some r → expired r s = false → exec (.initiatorTimeout cls port tag) s = .next s) ∧
   (∀ cls port tag t, s.timers.tombs.find? (fun t => t.cls == cls && t.port == port && t.tag == tag && due t.till s) = some t →
     exec (.tombstoneExpire cls port tag) s = .next (pumpAll { s with timers := { s.timers with tombs := s.timers.tombs.erase t } })) ∧
   (∀ cls port tag, (∀ t ∈ s.timers.tombs, now16 s < t.till) → exec (.tombstoneExpire cls port tag) s = .next s) ∧
   (∀ cls port tag t, t ∈ s.timers.tombs → t.cls = cls → t.tag = tag → samePort cls t.port port = true →
     exec (.lateCompletionDrop cls port tag) s = .next (bump TMO_COUNT_LATE_DROP 0 1 s)) ∧
   (∀ cls port tag, s.timers.tombs = [] → exec (.lateCompletionDrop cls port tag) s = .next s) ∧
   (∀ k id o, atTarget k id s = some o → o.heldSince = none → targetHolds o s = true →
     exec (.heldNotice k id) s = .next (pauseReqs (ofEntry o) (setAtTarget o (fun x => { x with heldSince := some (now16 s) }) s))) ∧
   (∀ k id o, atTarget k id s = some o → targetHolds o s = false → exec (.heldNotice k id) s = .next s) ∧
   (∀ k id o t, atTarget k id s = some o → o.heldSince = some t → targetHolds o s = false →
     exec (.resumedNotice k id) s = .next (resumeReqs (ofEntry o) (setAtTarget o (fun x => { x with heldSince := none, heldFor := x.heldFor + (now16 s - t) }) s))) ∧
   (∀ k id o, atTarget k id s = some o → o.heldSince = none → exec (.resumedNotice k id) s = .next s) ∧
   (∀ k id o, atTarget k id s = some o → o.heldSince = none → o.at16 + o.heldFor + o.limit < now16 s →
     exec (.targetAbandon k id) s = .next (dropOnDie k id (setMesh (fun m => { m with held := m.held.filter (fun x => !decide (x = o)) }) s))) ∧
   (∀ k id o, atTarget k id s = some o → (o.heldSince ≠ none ∨ now16 s ≤ o.at16 + o.heldFor + o.limit) → exec (.targetAbandon k id) s = .next s))

/-- For every offset, byte list, address and state: after writing the bytes at the offset, an address outside them reads as before
and one inside reads its byte; a canonical memory stays canonical; the registers are those before.
(spec/07_memory_and_system_cache.md) -/
def Obligations.MemoryReadAfterWrite : Prop := ∀ (off : Nat) (l : List Byte) (a : Nat) (s : State),
  (a < off ∨ off + l.length ≤ a → storedByte a (pokeBytes off l s) = storedByte a s) ∧
  (off ≤ a → a < off + l.length → storedByte a (pokeBytes off l s) = nth 0 l (a - off)) ∧
  (s.mem.wf → (pokeBytes off l s).mem.wf) ∧ (pokeBytes off l s).regs = s.regs

/-- For every state whose steering entries each name a slot of their site and no two the same, with no bucket being moved: the raw
granule that locate gives is never slot 31 of a 32-granule group, and two offsets located at the same site, channel and raw
granule lie in the same granule. (R163, R164) -/
def Obligations.GranulePlacementInjective : Prop := ∀ (s : State) (a b : Nat),
  0 < rd MEM_GEOM_NE 0 s → s.mem.partMoves = [] → rdb MEM_MOVE_ACTIVE 0 s = false →
  (∀ e < rd MEM_GEOM_NE 0 s, rd SITE_STEER_SLOT e s < rd SITE_SLOTS_SLOTS (rd SITE_STEER_SITE e s) s) →
  (∀ e < rd MEM_GEOM_NE 0 s, ∀ e' < rd MEM_GEOM_NE 0 s, rd SITE_STEER_SITE e s = rd SITE_STEER_SITE e' s →
    rd SITE_STEER_SLOT e s = rd SITE_STEER_SLOT e' s → e = e') →
  (locate a s).raw % 32 ≠ 31 ∧
  ((locate a s).site = (locate b s).site → (locate a s).ch = (locate b s).ch → (locate a s).raw = (locate b s).raw → a / 256 = b / 256)

/-- A request of a site that nothing refuses arrives at the home. At a free line: RD_S shares, takes a way, a victim or QUOTA,
RD_X invalidates the sharers or fetches from the owner, UPG keeps the holder, RD_ONCE answers the data, WR_P writes at an
uncached line; at a busy line it is queued, and LINE_DEQUEUE takes the next. Refused requests answer their status, and those
in the fabric window leave for the other hub. WB from the owner writes and frees the line; INV_ACK, SNP_DATA and GRANT_ACK
advance the transaction they answer, or fence the site where none waits for them; without such a message each changes nothing.
(R194, R198, R200, R201, R288) -/
def Obligations.SiteRequestsAndSnoopAnswers : Prop :=
  (∀ (s s1 s2 : State) (j line err : Nat) (m : ZMsg) (who : Who) (e : DEnt) (r : HReq) (t : Trans),
   s.power.stopped = false → line = qLine m.hdr → who = .site j (qTag m.hdr) → e = dent line s2 →
   t = { req := r, phase := .ba, owner := none, sharers := e.sharers } →
   (siteAsks j 0x01 err m { kind := .rdS, line := 0, who := .hub } r s s1 s2 → coherentRefusal j line s1 = .ok → lineBusy line s2 = false →
     (e.st = 1 → exec (.rdS j err) s = .next (grantHome line 1 t { st := 1, sharers := addSite e.sharers j } s2)) ∧
     (∀ w, e.st = 0 → entryRoom line r.cls s2 = .way w →
       exec (.rdS j err) s = .next (grantHome line 2 t (recX j) (setCoh (fun h => { h with dir := put line { st := 1, way := w } h.dir }) s2))) ∧
     (e.st = 0 → entryRoom line r.cls s2 = .full → exec (.rdS j err) s = .next (answer who .quota [] s2)) ∧
     (∀ w, e.st = 0 → entryRoom line r.cls s2 = .victim w false →
       exec (.rdS j err) s = .next (startEvict w .evict r.cls (requeue { r with victim := some w } s2))) ∧
     (e.st = 2 → e.owner ≠ j → exec (.rdS j err) s = .next (startTrans line { t with owner := some e.owner } 0x08 [] s2)) ∧
     (e.st = 4 → exec (.rdS j err) s = .next (answer who .dataErr [] s2))) ∧
   (siteAsks j 0x01 err m { kind := .rdS, line := 0, who := .hub } r s s1 s2 → coherentRefusal j line s1 = .ok → lineBusy line s2 = true →
     exec (.rdS j err) s = .next (queueReq r s2)) ∧
   (takeRx j 0x01 s = some (m, s1) → mayLeaveMesh (portClass (64 + j) 0 s) line s = true → coherentRefusal j line s1 ≠ .ok →
     exec (.rdS j err) s = .next (answer who (coherentRefusal j line s1) [] s1)) ∧
   (siteAsks j 0x02 err m { kind := .rdX, line := 0, who := .hub } r s s1 s2 → coherentRefusal j line s1 = .ok → lineBusy line s2 = false →
     (e.st = 1 → exec (.rdX j err) s = .next (startTrans line t 0x0A (sitesOf (subSite e.sharers j)) s2)) ∧
     (∀ w, e.st = 0 → entryRoom line r.cls s2 = .way w →
       exec (.rdX j err) s = .next (grantHome line 2 t (recX j) (setCoh (fun h => { h with dir := put line { st := 1, way := w } h.dir }) s2))) ∧
     (e.st = 2 → e.owner ≠ j → exec (.rdX j err) s = .next (startTrans line { t with owner := some e.owner } 0x09 [] s2))) ∧
   (siteAsks j 0x03 err m { kind := .upg, line := 0, who := .hub } r s s1 s2 → coherentRefusal j line s1 = .ok → lineBusy line s2 = false →
     (e.st = 1 → bit e.sharers j = true →
       exec (.upg j err) s = .next (startTrans line { t with holder := true } 0x0A (sitesOf (subSite e.sharers j)) s2)) ∧
     (e.st = 3 → e.owner = j → exec (.upg j err) s = .next (startTrans line { t with holder := true } 0x0A (sitesOf e.sharers) s2)) ∧
     (e.st = 2 → e.owner = j → exec (.upg j err) s = .next (fenceProtocol j line s2))) ∧
   (siteAsks j 0x04 err m { kind := .rdOnce, line := 0, who := .hub } r s s1 s2 → homeStatus (.site j) (64 * line) false s1 = .ok →
     lineBusy line s2 = false →
     (∀ x, e.st ≤ 1 → x = readLine line r.cls s2 → exec (.rdOnce j err) s = .next (answerReq r x.1 (x.2.1.take 64) x.2.2)) ∧
     (e.st = 2 → exec (.rdOnce j err) s = .next (startTrans line { t with owner := some e.owner } 0x08 [] s2))) ∧
   (∀ w, takeRx j 0x04 s = some (m, s1) → fabricWindow (64 * line) = some w → meshUp s = true →
     exec (.rdOnce j err) s = .next (fabricSend who (siteWindowFn j w s1) w (64 * line) 0x1 64 [] none 64 (siteDeadline j m.hdr s1) s1)) ∧
   (siteAsks j 0x05 err m { kind := .wrP, line := 0, who := .hub, data := m.data, mask := m.mask } r s s1 s2 →
     homeStatus (.site j) (64 * line) true s1 = .ok → lineBusy line s2 = false →
     (e.st = 0 → exec (.wrP j err) s = .next (performEnd line r s2)) ∧
     (e.st = 1 → exec (.wrP j err) s = .next (startTrans line t 0x0A (sitesOf e.sharers) s2))) ∧
   (∀ w, takeRx j 0x05 s = some (m, s1) → fabricWindow (64 * line) = some w → meshUp s = true →
     exec (.wrP j err) s = .next (fabricSend who (siteWindowFn j w s1) w (64 * line) 0x2 64 m.data (some m.mask) 0 (siteDeadline j m.hdr s1) s1)) ∧
   (takeRx j 0x05 s = some (m, s1) → fabricWindow (64 * line) = none → mayLeaveMesh (portClass (64 + j) 0 s) line s = true →
     homeStatus (.site j) (64 * line) true s1 ≠ .ok →
     exec (.wrP j err) s = .next (answer who (homeStatus (.site j) (64 * line) true s1) [] s1)) ∧
   (∀ op k c, (op, k, c) ∈ [(0x01, HKind.rdS, Instr.rdS j err), (0x02, .rdX, .rdX j err), (0x03, .upg, .upg j err)] →
     (siteAsks j op err m { kind := k, line := 0, who := .hub } r s s1 s2 → coherentRefusal j line s1 = .ok → exec c s = .next (homeArrive r s2)) ∧
     (takeRx j op s = some (m, s1) → mayLeaveMesh (portClass (64 + j) 0 s) line s = true → coherentRefusal j line s1 ≠ .ok →
       exec c s = .next (answer who (coherentRefusal j line s1) [] s1))) ∧
   (siteAsks j 0x04 err m { kind := .rdOnce, line := 0, who := .hub } r s s1 s2 → homeStatus (.site j) (64 * line) false s1 = .ok →
     exec (.rdOnce j err) s = .next (homeArrive r s2)) ∧
   (siteAsks j 0x05 err m { kind := .wrP, line := 0, who := .hub, data := m.data, mask := m.mask } r s s1 s2 →
     homeStatus (.site j) (64 * line) true s1 = .ok → exec (.wrP j err) s = .next (homeArrive r s2)) ∧
   (takeRx j 0x04 s = some (m, s1) → fabricWindow (64 * line) = none → mayLeaveMesh (portClass (64 + j) 0 s) line s = true →
     homeStatus (.site j) (64 * line) false s1 ≠ .ok →
     exec (.rdOnce j err) s = .next (answer who (homeStatus (.site j) (64 * line) false s1) [] s1)) ∧
   (trans line s = none → lineHeld line s = false → ∀ q rest, lookD [] s.coh.queue line = q :: rest →
     exec (.lineDequeue line) s = .next (settleHost (takeStable q
       (setCoh (fun h => { h with queue := if rest.isEmpty then del line h.queue else put line rest h.queue }) s)))) ∧
   (trans line s = none → lineHeld line s = false → lookD [] s.coh.queue line = [] → exec (.lineDequeue line) s = .next (settleHost s)) ∧
   (trans line s = none → lineHeld line s = true → exec (.lineDequeue line) s = .next (settleHost s))) ∧
  (∀ (s s1 s2 : State) (j line : Nat) (m : ZMsg) (t : Trans), s.power.stopped = false →
   (takeRx j 0x1C s = some (m, s1) → line = qLine m.hdr → trans line s1 = none → (dent line s1).st = 2 → (dent line s1).owner = j →
     exec (.wb j) s = .next (zcpAnswer j 0x13 (qTag m.hdr) .ok (setDent line { st := 0 } (writeHome line (portClass (64 + j) 0 s1) m.data s1)))) ∧
   (takeRx j 0x1C s = some (m, s1) → line = qLine m.hdr → trans line s1 = none → (dent line s1).st = 3 → (dent line s1).owner = j →
     exec (.wb j) s = .next (zcpAnswer j 0x13 (qTag m.hdr) .ok
       (setDent line { dent line s1 with st := 1, owner := 0 } (writeHome line (portClass (64 + j) 0 s1) m.data s1)))) ∧
   (takeRx j 0x1C s = some (m, s1) → line = qLine m.hdr → trans line s1 = none → (dent line s1).st ≤ 1 →
     exec (.wb j) s = .next (zcpAnswer j 0x13 (qTag m.hdr) .ok s1)) ∧
   (takeRx j 0x10 s = some (m, s1) → snoopOf j (qTag m.hdr) s1 = (some line, s2) → trans line s2 = some t → j ∈ t.waits → t.owner ≠ some j →
     exec (.invAck j) s = .next (advanceTrans line { t with waits := t.waits.filter (· != j) } s2)) ∧
   (takeRx j 0x10 s = some (m, s1) → snoopOf j (qTag m.hdr) s1 = (some line, s2) → trans line s2 = none →
     exec (.invAck j) s = .next (fenceProtocol j line s2)) ∧
   (∀ d keep, takeRx j 0x18 s = some (m, s1) → snoopOf j (qTag m.hdr) s1 = (some line, s2) → d = slice m.hdr 26 1 → keep = slice m.hdr 24 2 →
     trans line s2 = some t → t.phase = .bd → t.owner = some j → j ∈ t.waits → badData j d keep t s2 = false →
     exec (.snpData j) s = .next (advanceTrans line { t with waits := t.waits.filter (· != j), ownerDone := true, ans := some (d, keep, m.data) } s2)) ∧
   (∀ d keep, takeRx j 0x18 s = some (m, s1) → snoopOf j (qTag m.hdr) s1 = (some line, s2) → d = slice m.hdr 26 1 → keep = slice m.hdr 24 2 →
     trans line s2 = some t → t.owner ≠ some j → exec (.snpData j) s = .next (fenceProtocol j line s2)) ∧
   (takeRx j 0x11 s = some (m, s1) → s1.coh.trans.find? (fun p => decide (p.2.phase = .bg) && decide (p.2.req.who = .site j (qTag m.hdr))) = some (line, t) →
     t.lostOwner = false → exec (.grantAck j) s = .next (endTrans line (setDent line (finalRecord t) s1))) ∧
   (takeRx j 0x11 s = some (m, s1) → s1.coh.trans.find? (fun p => decide (p.2.phase = .bg) && decide (p.2.req.who = .site j (qTag m.hdr))) = some (line, t) →
     t.lostOwner = true → exec (.grantAck j) s =
       .next (loseSharers line (finalRecord t).sharers (endTrans line (loseLine line (finalRecord t).owner s1)))) ∧
   (takeRx j 0x11 s = some (m, s1) → s1.coh.trans.find? (fun p => decide (p.2.phase = .bg) && decide (p.2.req.who = .site j (qTag m.hdr))) = none →
     exec (.grantAck j) s = .next (fenceProtocol j 0 s1)) ∧
   (takeRx j 0x1C s = none → exec (.wb j) s = .next s) ∧ (takeRx j 0x10 s = none → exec (.invAck j) s = .next s) ∧
   (takeRx j 0x18 s = none → exec (.snpData j) s = .next s) ∧ (takeRx j 0x11 s = none → exec (.grantAck j) s = .next s))

/-- HOME_READ, HOME_WRITE and HOME_ATOMIC of an agent's port that nothing refuses arrive at the home: at an unshared line they
read, write or compute there, at an owned line they snoop, at a lost line they answer DATA_ERR; across a line they are
UNSUPPORTED; over quota they are held and wake the port; a damaged flit answers DATA_ERR and counts. The CXL.cache messages 0
to 12 of a READY CXL site arrive as the request of their kind, drop the site from the line, take a write-back or answer a
snoop; a reserved one is logged and UNSUPPORTED, and one of a ZCP site changes nothing. (R200, R205) -/
def Obligations.HubAndCxlRequestsAtHome : Prop :=
  (∀ (s s1 s2 : State) (k id fn err : Nat) (h : HomeHeld), s.power.stopped = false →
   (∀ off len, h = portRequest k id fn off false (lineForm off len) { kind := .homeRead, line := off / 64, who := .hub, off := off % 64, len := len } s →
     homeMay h s = true → s1 = departMesh k id fn (homeTile off s) (off / 64) s → s2 = meetAt err h.req (addOut h.req.who h.req.cls (off / 64) s1) →
     homeStatus (portReqr k fn) off false s1 = .ok → off % 64 + len ≤ 64 → lineBusy (off / 64) s2 = false →
     (∀ x, (dent (off / 64) s2).st ≤ 1 → x = readLine (off / 64) h.req.cls s2 →
       exec (.homeRead k id fn off len 0 err) s = .next (answerReq h.req x.1 ((x.2.1.drop (off % 64)).take len) x.2.2)) ∧
     ((dent (off / 64) s2).st = 2 → exec (.homeRead k id fn off len 0 err) s = .next (startTrans (off / 64)
       { req := h.req, phase := .ba, owner := some (dent (off / 64) s2).owner, sharers := (dent (off / 64) s2).sharers } 0x08 [] s2)) ∧
     ((dent (off / 64) s2).st = 4 → exec (.homeRead k id fn off len 0 err) s = .next (answer (.mesh k id) .dataErr [] s2))) ∧
   (∀ off len, h = portRequest k id fn off false (lineForm off len) { kind := .homeRead, line := off / 64, who := .hub, off := off % 64, len := len } s →
     homeMay h s = true → s1 = departMesh k id fn (homeTile off s) (off / 64) s → homeStatus (portReqr k fn) off false s1 = .ok → 64 < off % 64 + len →
     exec (.homeRead k id fn off len 0 err) s = .next (answer (.mesh k id) .unsupported [] s1)) ∧
   (∀ line data mask, h = portRequest k id fn (64 * line) true .ok { kind := .homeWrite, line := line, who := .hub, data := data, mask := mask } s →
     homeMay h s = true → s1 = departMesh k id fn (homeTile (64 * line) s) line s → s2 = meetAt err h.req (addOut h.req.who h.req.cls line s1) →
     homeStatus (portReqr k fn) (64 * line) true s1 = .ok → lineBusy line s2 = false →
     ((dent line s2).st = 0 → exec (.homeWrite k id fn line data mask 0 err) s = .next (performEnd line h.req s2)) ∧
     ((dent line s2).st = 1 → exec (.homeWrite k id fn line data mask 0 err) s = .next (startTrans line
       { req := h.req, phase := .ba, owner := none, sharers := (dent line s2).sharers } 0x0A (sitesOf (dent line s2).sharers) s2))) ∧
   (∀ off len op a b, h = portRequest k id fn off true (lineForm off len)
       { kind := .homeAtomic, line := off / 64, who := .hub, off := off % 64, len := len, op := op, a := a, b := b } s →
     homeMay h s = true → s1 = departMesh k id fn (homeTile off s) (off / 64) s → s2 = meetAt err h.req (addOut h.req.who h.req.cls (off / 64) s1) →
     homeStatus (portReqr k fn) off true s1 = .ok → off % 64 + len ≤ 64 → lineBusy (off / 64) s2 = false → (dent (off / 64) s2).st = 0 →
     exec (.homeAtomic k id fn off len op a b 0 err) s = .next (performEnd (off / 64) h.req s2)) ∧
   (∀ off len, h = portRequest k id fn off false (lineForm off len) { kind := .homeRead, line := off / 64, who := .hub, off := off % 64, len := len } s →
     homeMay h s = true → s1 = departMesh k id fn (homeTile off s) (off / 64) s → s2 = meetAt err h.req (addOut h.req.who h.req.cls (off / 64) s1) →
     homeStatus (portReqr k fn) off false s1 = .ok → off % 64 + len ≤ 64 → exec (.homeRead k id fn off len 0 err) s = .next (homeArrive h.req s2)) ∧
   (∀ line data mask, h = portRequest k id fn (64 * line) true .ok { kind := .homeWrite, line := line, who := .hub, data := data, mask := mask } s →
     homeMay h s = true → s1 = departMesh k id fn (homeTile (64 * line) s) line s → s2 = meetAt err h.req (addOut h.req.who h.req.cls line s1) →
     homeStatus (portReqr k fn) (64 * line) true s1 = .ok → exec (.homeWrite k id fn line data mask 0 err) s = .next (homeArrive h.req s2)) ∧
   (∀ off len op a b, h = portRequest k id fn off true (lineForm off len)
       { kind := .homeAtomic, line := off / 64, who := .hub, off := off % 64, len := len, op := op, a := a, b := b } s →
     homeMay h s = true → s1 = departMesh k id fn (homeTile off s) (off / 64) s → s2 = meetAt err h.req (addOut h.req.who h.req.cls (off / 64) s1) →
     homeStatus (portReqr k fn) off true s1 = .ok → off % 64 + len ≤ 64 →
     exec (.homeAtomic k id fn off len op a b 0 err) s = .next (homeArrive h.req s2)) ∧
   (∀ off len flit, h = portRequest k id fn off false (lineForm off len) { kind := .homeRead, line := off / 64, who := .hub, off := off % 64, len := len } s →
     homeMay h s = false → atTarget k id s = none →
     exec (.homeRead k id fn off len flit err) s = .next (wakePort k fn (setCoh (fun c => { c with heldHome := c.heldHome ++ [h] }) s))) ∧
   (∀ off len, h = portRequest k id fn off false (lineForm off len) { kind := .homeRead, line := off / 64, who := .hub, off := off % 64, len := len } s →
     homeMay h s = true → exec (.homeRead k id fn off len 2 err) s =
       .next (meshAnswer k id .dataErr [] (bumpSat MESH_STATUS_FLIT_UE 0 1 (departMesh k id fn (homeTile off s) (off / 64) s))))) ∧
  (∀ (s s1 : State) (j tag line mask err : Nat) (data : List Byte) (r : HReq), s.power.stopped = false →
   (j < 8 → siteCxl j s = true → siteReady j s = true → mayLeaveMesh (portClass (64 + j) 0 s) line s = true →
     homeStatus (.site j) (64 * line) true s = .ok →
     r = { kind := .wrP, line := line, who := .cxl j tag, data := data, mask := mask, cls := portClass (64 + j) 0 s,
           deadline := classDeadline (portClass (64 + j) 0 s) none s } →
     s1 = meetAt err r (addOut r.who r.cls line s) → lineBusy line s1 = false → (dent line s1).st = 0 →
     exec (.cxlCacheMessage j 7 tag line data mask err) s = .next (performEnd line r s1)) ∧
   (j < 8 → siteCxl j s = true → siteReady j s = true → mayLeaveMesh (portClass (64 + j) 0 s) line s = true →
     homeStatus (.site j) (64 * line) false s = .ok → coherentRefusal j line s = .ok →
     r = { kind := .rdX, line := line, who := .cxl j tag, cls := portClass (64 + j) 0 s,
           deadline := classDeadline (portClass (64 + j) 0 s) none s } →
     s1 = meetAt err r (addOut r.who r.cls line s) → lineBusy line s1 = false →
     exec (.cxlCacheMessage j 2 tag line data mask err) s = .next (takeStable r s1)) ∧
   (∀ msg kind onlyS, (msg, kind, onlyS) ∈ [(0, HKind.rdS, true), (1, .rdS, false), (2, .rdX, false), (3, .ownNoData, false)] →
     j < 8 → siteCxl j s = true → siteReady j s = true → mayLeaveMesh (portClass (64 + j) 0 s) line s = true →
     homeStatus (.site j) (64 * line) false s = .ok → coherentRefusal j line s = .ok →
     r = { kind := kind, line := line, who := .cxl j tag, onlyS := onlyS, cls := portClass (64 + j) 0 s,
           deadline := classDeadline (portClass (64 + j) 0 s) none s } →
     s1 = meetAt err r (addOut r.who r.cls line s) →
     exec (.cxlCacheMessage j msg tag line data mask err) s = .next (homeArrive r s1)) ∧
   (j < 8 → siteCxl j s = true → siteReady j s = true → mayLeaveMesh (portClass (64 + j) 0 s) line s = true →
     homeStatus (.site j) (64 * line) false s = .ok →
     r = { kind := .rdOnce, line := line, who := .cxl j tag, cls := portClass (64 + j) 0 s,
           deadline := classDeadline (portClass (64 + j) 0 s) none s } →
     s1 = meetAt err r (addOut r.who r.cls line s) →
     exec (.cxlCacheMessage j 4 tag line data mask err) s = .next (homeArrive r s1)) ∧
   (siteCxl j s = true → siteReady j s = true → exec (.cxlCacheMessage j 5 tag line data mask err) s =
     .next (emit { kind := .cxlSite, dest := j, tag := tag, args := [3] } (dropSite j line s))) ∧
   (trans line s = none → (dent line s).st = 2 → (dent line s).owner = j → dropSite j line s = setDent line { st := 0 } s) ∧
   (siteCxl j s = true → siteReady j s = true → exec (.cxlCacheMessage j 6 tag line data mask err) s =
     .next (emit { kind := .cxlSite, dest := j, tag := tag, args := [4] } (takeWb j line data s))) ∧
   (siteCxl j s = true → siteReady j s = true →
     exec (.cxlCacheMessage j 8 tag line data mask err) s = .next (logRec .protocol [j, 8, line] (answer (.cxl j tag) .unsupported [] s))) ∧
   (∀ l s2, siteCxl j s = true → siteReady j s = true → snoopOf j tag s = (some l, s2) →
     exec (.cxlCacheMessage j 9 tag line data mask err) s = .next (takeInvAck j l s2) ∧
     exec (.cxlCacheMessage j 11 tag line data mask err) s = .next (takeSnpData j l 1 1 data s2) ∧
     exec (.cxlCacheMessage j 12 tag line data mask err) s = .next (takeSnpData j l 1 0 data s2)) ∧
   (∀ msg, siteCxl j s = false → exec (.cxlCacheMessage j msg tag line data mask err) s = .next s))

/-- A request that may depart is served at its slice, or answers the status that refuses it; one over quota is held and wakes the
port, and is released when quota frees, requests to a home after those to a slice. A bucket move starts, waits for
transactions of its lines, and on the last line steers the bucket to its tile and releases what it held. (R183, R186, R260) -/
def Obligations.SystemCacheRequests : Prop := ∀ (s s1 s2 : State) (k fn line mask err : Nat) (wrt : Bool) (data : List Byte) (dl : Option Nat) (r : MReq),
  s.power.stopped = false → s1 = setCoh (fun h => { h with nextId := s.coh.nextId + 1 }) s →
  r = { gran := line / 4, write := wrt, line := line, port := k, id := s.coh.nextId, fn := fn, cls := portClass k fn s,
        bytes := if wrt then (maskedBytes mask data).map (fun p => (line % 4 * 64 + p.1, p.2)) else [],
        deadline := classDeadline (portClass k fn s) dl s1, at16 := now16 s1 } →
  s2 = departMesh k r.id fn (homeTile (64 * line) s1) line s1 →
  ((mayDepart r s1 && mayIssue k r.id s1) = true → homeStatus (portReqr k fn) (64 * line) wrt s2 = .ok →
    exec (.scRequest k fn line wrt data mask err 0 dl) s = .next (sliceServe r err s2)) ∧
  ((mayDepart r s1 && mayIssue k r.id s1) = true → homeStatus (portReqr k fn) (64 * line) wrt s2 ≠ .ok →
    exec (.scRequest k fn line wrt data mask err 0 dl) s = .next (meshAnswer k r.id (homeStatus (portReqr k fn) (64 * line) wrt s2) [] s2)) ∧
  ((mayDepart r s1 && mayIssue k r.id s1) = false →
    exec (.scRequest k fn line wrt data mask err 0 dl) s = .next (wakePort k fn (setCoh (fun h => { h with held := h.held ++ [r] }) s1))) ∧
  (∀ q, s.coh.held.find? (fun r => r.port == k && mayDepart r s && mayIssue k r.id s) = some q →
    exec (.quotaRelease k) s = .next (departSc q 0 0 (setCoh (fun h => { h with held := h.held.erase q }) s))) ∧
  (∀ q, s.coh.held.find? (fun r => r.port == k && mayDepart r s && mayIssue k r.id s) = none →
    s.coh.heldHome.find? (fun h => h.port == k && homeMay h s) = some q →
    exec (.quotaRelease k) s = .next (homeGo 0 0 q (setCoh (fun c => { c with heldHome := c.heldHome.erase q }) s))) ∧
  (s.coh.held.find? (fun r => r.port == k && mayDepart r s && mayIssue k r.id s) = none →
    s.coh.heldHome.find? (fun h => h.port == k && homeMay h s) = none → exec (.quotaRelease k) s = .next s) ∧
  (s.mem.buckets = [] → exec .bucketMoveDone s = .next s) ∧
  (∀ b tile rest, s.mem.buckets = (b, tile) :: rest → rdb SLICE_STEER_MOVING b s = false → exec .bucketMoveDone s = .next (startBucketMove s)) ∧
  (∀ b tile rest, s.mem.buckets = (b, tile) :: rest → rdb SLICE_STEER_MOVING b s = true → (∀ l ∈ ofBucket b (s.coh.dir.map Prod.fst), (dent l s).st = 4) →
    exec .bucketMoveDone s = .next (startBucketMove (releaseHeld (setMem (fun m => { m with buckets := rest })
      (clrB SC_STATUS_MOVING 0 (clrB SLICE_STEER_MOVING b (wr SLICE_STEER_TILE b tile s))))))) ∧
  (∀ b tile rest l, s.mem.buckets = (b, tile) :: rest → rdb SLICE_STEER_MOVING b s = true → l ∈ ofBucket b (s.coh.dir.map Prod.fst) →
    (dent l s).st ≠ 4 → (trans l s).isSome = true → exec .bucketMoveDone s = .next s)

/-- A stale completion is asked for again; one without permission refuses its waiters; one with permission fills the shared
entries and grants those they cover; one that nobody waits for does nothing. A batch is sent once gathered; a response of
success translates again, another refuses the waiters, one without a batch is unexpected; a batch without response within the
limit refuses them and is logged. A host completion with data serves its piece, a poisoned one fails it DATA_ERR, and an
unexpected one is counted. (R318, R323, R366, R368, R369, R370, R371, R376) -/
def Obligations.TranslationAnswers : Prop := ∀ (s s1 : State) (fn : Nat), s.power.stopped = false →
  (∀ pasid page size tp r w ws, (reqFor (.ats fn pasid page) s).isSome = true → s1 = retireFor (.ats fn pasid page) s →
    ws = s1.xlat.waits.filter (fun x => x.fn == fn && x.pasid == pasid && x.page == page) → ws.any XWait.stale = true →
    exec (.atsCompletion fn pasid page size tp r w) s = .next (hostReq { cls := 3, port := 77, fn := fn, purpose := .ats fn pasid page, out := { kind := .atsRequest, dest := fn, args := [pasid, page] } }
      (count hostUnit 0x83 (some fn) 1 (setXlat (fun x => { x with waits := x.waits.map (fun q =>
        if q.fn == fn && q.pasid == pasid && q.page == page then { q with stale := false } else q) }) s1)))) ∧
  (∀ pasid page size tp ws, (reqFor (.ats fn pasid page) s).isSome = true → s1 = retireFor (.ats fn pasid page) s →
    ws = s1.xlat.waits.filter (fun x => x.fn == fn && x.pasid == pasid && x.page == page) → ws.any XWait.stale = false →
    exec (.atsCompletion fn pasid page size tp false false) s = .next (settleJobs (forEach ws noPermission
      (setXlat (fun x => { x with waits := x.waits.filter (fun q => !(q.fn == fn && q.pasid == pasid && q.page == page)) }) s1)))) ∧
  (∀ pasid page size tp r w ws es, (reqFor (.ats fn pasid page) s).isSome = true → (r || w) = true → s1 = retireFor (.ats fn pasid page) s →
    ws = s1.xlat.waits.filter (fun x => x.fn == fn && x.pasid == pasid && x.page == page) → ws.any XWait.stale = false →
    es = entriesFor fn pasid page (max 12 size) tp r w →
    exec (.atsCompletion fn pasid page size tp r w) s = .next (settleJobs (forEach ws
      (fun q s => match es.find? (xCovers q.fn q.pasid (q.page * 4096) q.write) with | some e => granted q e s | none => noPermission q s)
      (forEach es fillShared
        (setXlat (fun x => { x with waits := x.waits.filter (fun q => !(q.fn == fn && q.pasid == pasid && q.page == page)) }) s1))))) ∧
  (∀ pasid page size tp r w, reqFor (.ats fn pasid page) s = none → exec (.atsCompletion fn pasid page size tp r w) s = .next s) ∧
  (∀ pasid b, s.xlat.batches.find? (fun b => !b.sent && b.fn == fn && b.pasid == pasid) = some b → b.openedAt + gatherTime s ≤ now16 s →
    exec (.priGatherExpire fn pasid) s = .next (sendBatch b s)) ∧
  (∀ pasid b, s.xlat.batches.find? (fun b => !b.sent && b.fn == fn && b.pasid == pasid) = some b → now16 s < b.openedAt + gatherTime s →
    exec (.priGatherExpire fn pasid) s = .next s) ∧
  (∀ prg b, s.xlat.batches.find? (fun b => b.sent && b.fn == fn && b.prg == prg) = some b → s1 = dropBatch fn prg (retireFor (.pri fn prg) s) →
    exec (.pageGroupResponse fn prg 0) s = .next (settleJobs (regather fn (forEach b.waits retranslate s1))) ∧
    exec (.pageGroupResponse fn prg 1) s = .next (settleJobs (regather fn (refuseAll b.waits s1)))) ∧
  (∀ prg code, (∀ b ∈ s.xlat.batches, b.sent = true → b.fn = fn → b.prg ≠ prg) →
    exec (.pageGroupResponse fn prg code) s = .next (unexpected 3 (prgPort fn) prg fn s)) ∧
  (∀ prg b r, s.xlat.batches.find? (fun b => b.sent && b.fn == fn && b.prg == prg) = some b → reqFor (.pri fn prg) s = some r → expired r s = true →
    s1 = bumpSat TRN_COUNT_PRG_TIMEOUT 0 1 (dropBatch fn prg (entomb r s)) →
    exec (.prgTimeout fn prg) s = .next (settleJobs (regather fn (refuseAll b.waits (trnLog 1 fn b.pasid (nth 0 b.pages 0) s1))))) ∧
  (∀ prg r, reqFor (.pri fn prg) s = some r → expired r s = false → exec (.prgTimeout fn prg) s = .next s) ∧
  (∀ tag data r j p, reqOf 3 77 tag s = some r → r.purpose = .piece j p →
    exec (.hostCompletion tag 0 data) s = .next (settleJobs (setPiece j p (.have data) (retireReq r s)))) ∧
  (∀ tag data r j p, reqOf 3 77 tag s = some r → r.purpose = .piece j p →
    exec (.hostCompletion tag 3 data) s = .next (settleJobs (setPiece j p (.failed .dataErr)
      (retireReq r (reportAer r.fn 6 (hostErr 2 r.fn 0 0 (bumpSat HOST_COUNT_POISON 0 1 s))))))) ∧
  (∀ tag kind data r j p, reqOf 3 77 tag s = some r → r.purpose = .piece j p → kind = 1 ∨ kind = 2 → s1 = retireReq r s →
    exec (.hostCompletion tag kind data) s = .next (settleJobs (setPiece j p .refused
      (noteRefused r.fn (((jobOf j s1).map Job.pasid).getD 0) (pieceVa j p s1) s1)))) ∧
  (∀ tag kind data r pasid page, reqOf 3 77 tag s = some r → r.purpose = .ats fn pasid page → kind = 1 ∨ kind = 2 →
    exec (.hostCompletion tag kind data) s = exec (.atsCompletion fn pasid page 12 0 false false) s) ∧
  (∀ tag kind data, reqOf 3 77 tag s = none → exec (.hostCompletion tag kind data) s = .next (unexpected 3 77 tag 0 s))

/-- Up to 32 invalidations run and further ones queue; INVALIDATE covers what its descriptor names, UNSUPPORTED for a zero count;
it ends when nothing it waits for is left, and the reads it waits for are abandoned after 150 µs with TIMEOUT. COPY starts its
pieces, UNSUPPORTED for a zero length; ATOMIC acts at the home, leaves as a packet in the fabric window, and is UNSUPPORTED
for the reserved operation. (R205, R349, R350, R352, R375, R376, R377, R386) -/
def Obligations.InvalidationCopyAndAtomic : Prop := ∀ (s : State), s.power.stopped = false →
  (∀ fn pasid lo pages itag i, s.xlat.invals.length < 32 → i = { id := s.xlat.nextInval, fn := fn, pasid := pasid, lo := lo, pages := pages, host := some itag } →
    exec (.atsInvalidate fn pasid lo pages itag) s = .next (startInval i (setXlat (fun x => { x with nextInval := x.nextInval + 1 }) s))) ∧
  (∀ fn pasid lo pages itag i, 32 ≤ s.xlat.invals.length → i = { id := s.xlat.nextInval, fn := fn, pasid := pasid, lo := lo, pages := pages, host := some itag } →
    exec (.atsInvalidate fn pasid lo pages itag) s = .next (setXlat (fun x => { x with nextInval := x.nextInval + 1, queuedInvals := x.queuedInvals ++ [i] }) s)) ∧
  (∀ g k d, runningDesc g k 0x31 s = some d → (s.xlat.invals ++ s.xlat.queuedInvals).any (fun i => decide (i.desc = some (g, k))) = false →
    bit (d.word 2) 27 = true → bit (d.word 2) 26 = false → exec (.invalidate g k) s =
      .next (addInval { id := 0, fn := slice (d.word 2) 0 6, pasid := none, lo := d.word 3 / 4096, pages := none, desc := some (g, k) } s)) ∧
  (∀ g k d, runningDesc g k 0x31 s = some d → (s.xlat.invals ++ s.xlat.queuedInvals).any (fun i => decide (i.desc = some (g, k))) = false →
    bit (d.word 2) 27 = false → slice (d.word 4) 0 32 = 0 → exec (.invalidate g k) s = .next (failDesc g k .unsupported s)) ∧
  (∀ id i, s.xlat.invals.find? (fun i => i.id == id) = some i → i.busy s = false → exec (.invalComplete id) s = .next (endInval i s)) ∧
  (∀ id i, s.xlat.invals.find? (fun i => i.id == id) = some i → i.busy s = true → exec (.invalComplete id) s = .next s) ∧
  (∀ id i, s.xlat.invals.find? (fun i => i.id == id) = some i → i.at16 + us16 150 ≤ now16 s →
    exec (.invalDrainAbandon id) s = .next (settleJobs (forEach (s.timers.reqs.filter (fun r => r.cls == 3 && r.port == 77 && i.tags.contains r.tag))
      (fun r u => accessFailed r.purpose .timeout (trnLog 3 r.fn (match r.xkey with | some x => x.2.1 | none => 0) 0
        (logRec .readAbandoned [r.fn, r.tag] (bumpSat TRN_COUNT_DRAIN_ABANDON 0 1 (entomb r u))))) s))) ∧
  (∀ id i, s.xlat.invals.find? (fun i => i.id == id) = some i → now16 s < i.at16 + us16 150 → exec (.invalDrainAbandon id) s = .next s) ∧
  (∀ g k t d n len, runningDesc g k 0x01 s = some d → s.xlat.jobs.find? (fun p => decide (p.2.who = .copy g k)) = none → n = ringFn g → len = slice (d.word 4) 0 19 →
    0 < len → len ≤ 262144 → slice (d.word 4) 19 2 ≠ 3 → sideStatus n len false (copySides d).1 s = .ok → sideStatus n len true (copySides d).2 s = .ok →
    (partOf n s).isSome = true → tileOwned n t s = true → tileServes t s = true →
    exec (.copy g k t) s = .next (settleJob s.xlat.nextJob (addJob { who := .copy g k, fn := n, pasid := ringPasid g s, tile := t, alloc := bit (d.word 4) 21, deadline := d.deadline, pieces := piecesOf (copySides d).1 (copySides d).2 len } s))) ∧
  (∀ g k t d, runningDesc g k 0x01 s = some d → s.xlat.jobs.find? (fun p => decide (p.2.who = .copy g k)) = none → slice (d.word 4) 0 19 = 0 →
    (partOf (ringFn g) s).isSome = true → exec (.copy g k t) s = .next (failDesc g k .unsupported s)) ∧
  (∀ g k d a n c r s1, runningDesc g k 0x02 s = some d → inFlight (.desc g k) s = false → a = slice (d.word 2) 0 44 → n = (if bit (d.word 2) 46 then 8 else 4) →
    slice (d.word 2) 44 2 ≠ 3 → a % n = 0 → fabricWindow a = none → accessStatus (.agent (ringFn g)) a true s = .ok → sliceStatus a s = .ok →
    c = portClass 79 (ringFn g) s → mayLeaveMesh c (a / 64) s = true →
    r = { kind := .homeAtomic, line := a / 64, who := .desc g k, off := a % 64, len := n, op := slice (d.word 2) 44 2, a := wrap (8 * n) (d.word 3), b := wrap (8 * n) (d.word 4), cls := c,
          deadline := classDeadline c d.deadline s } →
    s1 = meetAt 0 r (addOut r.who r.cls r.line s) → lineBusy (a / 64) s1 = false → (dent (a / 64) s1).st = 0 →
    exec (.atomic g k) s = .next (performEnd (a / 64) r s1)) ∧
  (∀ g k d a w, runningDesc g k 0x02 s = some d → inFlight (.desc g k) s = false → a = slice (d.word 2) 0 44 → bit (d.word 2) 46 = true →
    slice (d.word 2) 44 2 ≠ 3 → a % 8 = 0 → fabricWindow a = some w →
    exec (.atomic g k) s = .next (fabricSend (.desc g k) (ringFn g) w a 0x3 8 (toBytes 8 (d.word 3) ++ toBytes 8 (d.word 4)) none (slice (d.word 2) 44 2)
      (classDeadline (portClass 79 (ringFn g) s) d.deadline s) s)) ∧
  (∀ g k d, runningDesc g k 0x02 s = some d → inFlight (.desc g k) s = false → fabricWindow (slice (d.word 2) 0 44) = none → slice (d.word 2) 44 2 = 3 →
    accessStatus (.agent (ringFn g)) (slice (d.word 2) 0 44) true s = .ok → exec (.atomic g k) s = .next (failDesc g k .unsupported s))

/-- PWR_REQ sets and grants the site's cap; ARRIVE waits for open writes, then adds to an arrival word its function owns, or
answers ACCESS_DENIED or REFUSED; EVENT is posted to the owner or logged; MMIO data and completions end window accesses, with
a reserved status logged; MGMT_ACK ends the quiesce it answers. A flit in sequence is delivered, a duplicate dropped, an early
one kept, and more than four retries take the module down. CXL.io: a write of 4 bytes to an arrival address counts as one, a
line read arrives at the home; site answers end window accesses. (R217, R218, R219, R225, R228, R229, R230, R231, R232, R239,
R240, R251) -/
def Obligations.ChipletMessagesAndFlits : Prop :=
  (∀ (s s1 : State) (j : Nat) (m : ZMsg), s.power.stopped = false →
   (∀ s2 s3, takeRx j 0x07 s = some (m, s1) → s2 = setSite j (fun x => { x with want := slice m.hdr 20 16, reqAt := some (now16 s1) }) s1 →
     s3 = wr SITE_PWR_MEASURED j (slice m.hdr 36 16) s2 →
     exec (.pwrReq j) s = .next (zcpSend j { opc := 0x1B, cls := 2, hdr := hdrR 0x1B (qTag m.hdr) .ok 0 0 (siteGrant j s3) } (wr SITE_PWR_CAP j (siteGrant j s3) s3))) ∧
   (∀ g, writesOpen j s = false → takeRx j 0x06 s = some (m, s1) → g = slice m.hdr 20 10 → siteOwner j s1 = some (rd ARRIVAL_CFG_FUNCTION g s1) →
     rdb ARRIVAL_CFG_EN g s1 = true → exec (.arrive j) s = .next (zcpAnswer j 0x14 (qTag m.hdr) .ok (bump ARRIVAL_VALUE g (slice m.hdr 32 32) s1))) ∧
   (∀ g, writesOpen j s = false → takeRx j 0x06 s = some (m, s1) → g = slice m.hdr 20 10 → siteOwner j s1 ≠ some (rd ARRIVAL_CFG_FUNCTION g s1) →
     exec (.arrive j) s = .next (zcpAnswer j 0x15 (qTag m.hdr) .accessDenied s1)) ∧
   (∀ g, writesOpen j s = false → takeRx j 0x06 s = some (m, s1) → g = slice m.hdr 20 10 → siteOwner j s1 = some (rd ARRIVAL_CFG_FUNCTION g s1) →
     rdb ARRIVAL_CFG_EN g s1 = false →
     exec (.arrive j) s = .next (zcpAnswer j 0x15 (qTag m.hdr) .refused (arrivalAdd g (slice m.hdr 32 32) s1))) ∧
   (writesOpen j s = true → exec (.arrive j) s = .next s) ∧
   (∀ n, takeRx j 0x17 s = some (m, s1) → siteOwner j s1 = some n →
     exec (.chipEvent j) s = .next (postEvent n 0x0004 j .ok (slice m.hdr 8 8 + 2 ^ 32 * slice m.hdr 32 32) s1)) ∧
   (takeRx j 0x17 s = some (m, s1) → siteOwner j s1 = none → exec (.chipEvent j) s = .next (logRec .siteEvent [j, slice m.hdr 8 8, slice m.hdr 32 32] s1)) ∧
   (∀ r a id q, takeRx j 0x1A s = some (m, s1) → reqOf 1 (64 + j) (qTag m.hdr) s1 = some r → r.purpose = .window a id false →
     slice m.hdr 20 4 = 0 → (retireReq r s1).host.accs.find? (fun a => a.id == id) = some q →
     exec (.mmioData j) s = .next (finishAcc id (some (toBytes q.size (slice m.hdr 64 64))) (retireReq r s1))) ∧
   (∀ r a id u, takeRx j 0x1A s = some (m, s1) → u = (if Status.reservedCode (slice m.hdr 20 4) then logRec .reservedStatus [0, j, slice m.hdr 20 4] s1 else s1) →
     reqOf 1 (64 + j) (qTag m.hdr) u = some r → r.purpose = .window a id false →
     slice m.hdr 20 4 ≠ 0 → exec (.mmioData j) s = .next (windowFailed j id false SITE_EVENT_PROTOCOL (retireReq r u))) ∧
   (∀ r a id, takeRx j 0x14 s = some (m, s1) → Status.reservedCode (slice m.hdr 20 4) = false → reqOf 1 (64 + j) (qTag m.hdr) s1 = some r →
     r.purpose = .window a id true → exec (.zcpCmp j) s = .next (finishAcc id none (retireReq r s1))) ∧
   (∀ r code, takeRx j 0x16 s = some (m, s1) → code = slice m.hdr 20 4 → Status.reservedCode code = false → reqOf 1 (64 + j) (qTag m.hdr) s1 = some r →
     r.purpose = .quiesce j 1 → (retireReq r s1).power.entry.isSome = true →
     exec (.mgmtAck j) s = .next (setSite j (fun x => { x with lpAns := some (Status.ofCode code).code, quiesced := x.quiesced || Status.ofCode code == .ok }) (retireReq r s1))) ∧
   (∀ r, takeRx j 0x16 s = some (m, s1) → slice m.hdr 20 4 = 0 → reqOf 1 (64 + j) (qTag m.hdr) s1 = some r →
     r.purpose = .quiesce j 1 → (retireReq r s1).power.entry = none →
     exec (.mgmtAck j) s = .next (sendResume j (retireReq r s1))) ∧
   (∀ r t, takeRx j 0x16 s = some (m, s1) → Status.reservedCode (slice m.hdr 20 4) = false → reqOf 1 (64 + j) (qTag m.hdr) s1 = some r →
     r.purpose = .quiesce j 0 → (site j (retireReq r s1)).rst = .quiescing t → exec (.mgmtAck j) s = .next (siteDown j (retireReq r s1)))) ∧
  (∀ (s s1 : State) (j : Nat), s.power.stopped = false →
   (∀ k n ctrl slots s2, flitOpen j s = true → siteCxl j s = false → n ≤ 4 →
     s1 = count (siteUnit j) 0x41 none 1 (noteWake 0x12 j (count (siteUnit j) 0x42 none n (bumpSat SITE_ERR_RETRIES j n s))) →
     s2 = slice ctrl 0 16 + 65536 - (site j s1).rxSeq →
     (s2 % 65536 = 0 → exec (.zcpFlitRx j k n ctrl slots) s = .next (deliverEarly j 256 (deliverFlit j (ctrl :: slots) s1))) ∧
     (32768 ≤ s2 % 65536 → exec (.zcpFlitRx j k n ctrl slots) s = .next s1) ∧
     (0 < s2 % 65536 → s2 % 65536 < 32768 →
       exec (.zcpFlitRx j k n ctrl slots) s = .next (setSite j (fun x => { x with early := put (slice ctrl 0 16) (ctrl :: slots) x.early }) s1))) ∧
   (∀ k n ctrl slots, flitOpen j s = true → siteCxl j s = false → 4 < n →
     exec (.zcpFlitRx j k n ctrl slots) s = .next (doModuleDown j k [] (noteWake 0x12 j (count (siteUnit j) 0x42 none 4 (bumpSat SITE_ERR_RETRIES j 4 s))))) ∧
   (∀ k n ctrl slots, flitOpen j s = false → exec (.zcpFlitRx j k n ctrl slots) s = .next s) ∧
   (∀ tag len data g, siteCxl j s = true → siteReady j s = true → data.length = 4 → g < 1024 → arriveStatus j g s = .ok →
     exec (.cxlIoWrite j tag (0x0F0000000000 + 4 * g) len true data) s = .next (bump ARRIVAL_VALUE g (ofBytes data) s)) ∧
   (∀ tag len data g, siteCxl j s = true → siteReady j s = true → data.length = 4 → g < 1024 → arriveStatus j g s = .accessDenied →
     exec (.cxlIoWrite j tag (0x0F0000000000 + 4 * g) len true data) s = .next (logRec .siteEvent [j, g, Status.accessDenied.code] s)) ∧
   (∀ tag len data g, siteCxl j s = true → siteReady j s = true → data.length = 4 → g < 1024 → arriveStatus j g s = .refused →
     exec (.cxlIoWrite j tag (0x0F0000000000 + 4 * g) len true data) s =
       .next (arrivalAdd g (ofBytes data) (logRec .siteEvent [j, g, Status.refused.code] s))) ∧
   (∀ tag line data, siteCxl j s = true → siteReady j s = true → 64 * line < 0x0F0000000000 → accessStatus (.site j) (64 * line) false s = .ok →
     exec (.cxlIoWrite j tag (64 * line) 64 false data) s = .next (homeArrive { kind := .homeRead, line := line, who := .cxlIo j tag, cls := portClass (64 + j) 0 s } s)) ∧
   (∀ tag off len w data, siteReady j s = false → exec (.cxlIoWrite j tag off len w data) s = .next s) ∧
   (∀ tag r a w id b, siteCxl j s = true → reqOf 1 (64 + j) tag s = some r → r.purpose = .window a id w →
     exec (.cxlSiteResponse j tag (.data b)) s = .next (finishAcc id (some b) (retireReq r s))) ∧
   (∀ tag r a w id st, siteCxl j s = true → reqOf 1 (64 + j) tag s = some r → r.purpose = .window a id w →
     exec (.cxlSiteResponse j tag (.fail st)) s = .next (windowFailed j id w SITE_EVENT_PROTOCOL (retireReq r s))) ∧
   (∀ tag a, siteCxl j s = false → exec (.cxlSiteResponse j tag a) s = .next s))

/-- A READY ZCP site is asked to quiesce within QUIESCE_LIMIT and then reset; another is reset at once. A fence acts in states 2,
3, 5 and 6. RESET is held 10 µs; its release leaves a disabled site off, one without modules EMPTY, and trains, identifies,
attests and boots an enabled one. SITE_READY sets READY, the minimum cap, and tells the owner. A lost module retrains the site
and keeps the flits to send again; retraining with a module left resends them and resumes, and with none fences the site.
(R233, R237, R238) -/
def Obligations.SiteResetAndModules : Prop := ∀ (s : State) (j : Nat), s.power.stopped = false →
  (siteOn j s = true → gangedOdd j s = false → (site j s).rst = .none → siteReady j s = true → siteCxl j s = false →
    exec (.siteReset j) s = .next (zcpSend j { opc := 0x0D, cls := 1, hdr := hdrQuiesce 0x0D 0, purpose := some (.quiesce j 0) }
      (setSite j (fun x => { x with rst := .quiescing (now16 s + us16 (rd SITE_CFG_QUIESCE_LIMIT j s)) }) s))) ∧
  (siteOn j s = true → gangedOdd j s = false → (site j s).rst = .none → siteReady j s = false → exec (.siteReset j) s = .next (siteDown j s)) ∧
  (siteOn j s = false → exec (.siteReset j) s = .next s ∧ exec (.siteFence j) s = .next s) ∧
  (siteOn j s = true → gangedOdd j s = false → 2 ≤ siteState j s → siteState j s ≠ 4 → exec (.siteFence j) s = .next (forceFence j s)) ∧
  (siteOn j s = true → gangedOdd j s = false → siteState j s ≤ 1 ∨ siteState j s = 4 → exec (.siteFence j) s = .next s) ∧
  (∀ t, (site j s).rst = .quiescing t → t ≤ now16 s → exec (.siteQuiesceTimeout j) s = .next (siteDown j s)) ∧
  (∀ t, (site j s).rst = .quiescing t → now16 s < t → exec (.siteQuiesceTimeout j) s = .next s) ∧
  (∀ t f, (site j s).rst = .low t → t + us16 10 ≤ now16 s → rdb SITE_CTL_ENABLE j s = false →
    exec (.siteResetRelease j f) s = .next (wr SITE_STATUS_STATE j 0 (setSite j (fun x => { x with rst := .none }) s))) ∧
  (∀ t f s1 s2 s3 s4, (site j s).rst = .low t → t + us16 10 ≤ now16 s → rdb SITE_CTL_ENABLE j s = true → siteOn j s = true → gangedOdd j s = false →
    s1 = trainModules j f (gangOdd j (driveSiteRst j 1 s)) → (rdb SITE_CFG_GANG j s1 && siteCxl j s1) = false → siteMods j s1 ≠ 0 →
    s2 = takeIdent j f.ident s1 → identBad j f.ident s2 = false → s3 = attestChiplet j (wr SITE_STATUS_STATE j 2 s2) →
    (rdb SITE_CFG_ATTEST_REQ j s3 = true → f.attested = true) → s4 = writeBoot j (wrb SITE_STATUS_ATTESTED j (rdb SITE_CFG_ATTEST_REQ j s3) s3) →
    exec (.siteResetRelease j f) s = .next (if siteCxl j s4 then s4 else zcpLinkUp j s4)) ∧
  (∀ t f s1, (site j s).rst = .low t → t + us16 10 ≤ now16 s → rdb SITE_CTL_ENABLE j s = true → siteOn j s = true → gangedOdd j s = false →
    s1 = trainModules j f (gangOdd j (driveSiteRst j 1 s)) → (rdb SITE_CFG_GANG j s1 && siteCxl j s1) = false → siteMods j s1 = 0 →
    exec (.siteResetRelease j f) s = .next (siteEmpty j 1 0 s1)) ∧
  (∀ t f, (site j s).rst = .low t → now16 s < t + us16 10 → exec (.siteResetRelease j f) s = .next s) ∧
  (∀ s1 s2, (site j s).rst = .bringing → (siteCxl j s || (site j s).granted) = true → s1 = setSite j (fun x => { x with rst := .none, lost := 0 }) s →
    s2 = wr SITE_PWR_CAP j (pwrMin j s1) (setB SITE_EVENT_READY j (wr SITE_STATUS_STATE j 3 s1)) →
    (siteOwner j s2 = none → exec (.siteReady j) s = .next s2) ∧
    (∀ n, siteOwner j s2 = some n → exec (.siteReady j) s = .next (postEvent n 0x0005 j .ok 3 s2))) ∧
  ((site j s).rst = .none → exec (.siteReady j) s = .next s) ∧
  (∀ k u, (siteReady j s || siteState j s == 5) = true → bit (siteMods j s) k = true →
    exec (.moduleDown j k u) s = .next (pauseReqs (onSite j) (wr SITE_STATUS_STATE j 5 (setSite j (fun x => { x with lost := x.lost + 2 ^ k, resend := x.resend ++ u })
      (bumpSat SITE_ERR_MOD_LOSS j 1 (setB SITE_EVENT_MODULE_LOST j (setMods j (siteMods j s - 2 ^ k) s))))))) ∧
  (∀ k u, bit (siteMods j s) k = false → exec (.moduleDown j k u) s = .next s) ∧
  (∀ mods left s1, siteState j s = 5 → left = Nat.land mods (siteMods j s) → left ≠ 0 →
    s1 = setSite j (fun x => { x with txq := markLate x.txq }) (resumeReqs (onSite j) (wr SITE_STATUS_STATE j 3 (setMods j left s))) →
    exec (.siteRetrainDone j mods) s = .next (siteOutcome j .late (lateCxl j (zcpPump j (resendFlits j s1))))) ∧
  (∀ mods, siteState j s = 5 → Nat.land mods (siteMods j s) = 0 → exec (.siteRetrainDone j mods) s = .next (fenceSite j (setMods j 0 s))) ∧
  (∀ mods, siteState j s ≠ 5 → exec (.siteRetrainDone j mods) s = .next s)

/-- A codeword in sequence is taken and acknowledged, another asks for a replay; credits add up; AUTH verifies the cells before it
or takes the port down. Loss of signal takes it down. Training without lanes records it; a partner that the set-up does not
expect marks the port MISWIRED. Loss of an alive condition or a fence releases the pins; JOIN joins the axes asked for on a
READY hub. One packet per codeword is the model's form (log entry 20). (R36, R272, R273, R274, R280, R282, R283, R298, R299,
R307, R384) -/
def Obligations.SyrelPortsAndFabricPins : Prop :=
  (∀ (s : State) (p : Nat), s.power.stopped = false →
   (∀ cseq ack k s1, rdb SYR_PORT_UP p s = true → s1 = count (spaUnit p) 0x61 none (pktCells k) (noteWake 0x11 p s) →
     cseq = ((syrPort p (noteWake 0x11 p s)).rxSeq + 1) % 512 → rdb SYR_PORT_SECURE p s1 = false →
     exec (.codewordRx p 0 cseq ack false [.pkt k]) s = .next (pumpPort p (sendAck p (setPort p (fun x => { x with
       rxSeq := cseq, nak := false, unacked := takeAck ack x.unacked, rx := x.rx ++ [.pkt k] }) s1)))) ∧
   (∀ fec cseq ack nak cells s1, rdb SYR_PORT_UP p s = true → ((∃ k, Cell.pkt k ∈ cells) ∧ s1 = noteWake 0x11 p s) ∨ ((∀ k, Cell.pkt k ∉ cells) ∧ s1 = s) →
     (fec = 2 ∨ cseq ≠ ((syrPort p s1).rxSeq + 1) % 512) →
     exec (.codewordRx p fec cseq ack nak cells) s = .next (sendAck p (setPort p (fun x => { x with nak := true }) s1))) ∧
   (∀ fec cseq ack nak cells, rdb SYR_PORT_UP p s = false → exec (.codewordRx p fec cseq ack nak cells) s = .next s) ∧
   (exec (.portSignalLoss p) s = .next (takePortDown p s) ∧ (rdb SYR_PORT_UP p s = false → exec (.portSignalLoss p) s = .next s)) ∧
   (∀ vcs sh, headCell p s = some (.credit vcs sh) → exec (.creditCell p) s = .next (pumpPort p
     (setPort p (fun x => { x with crd := x.crd.zipIdx.map (fun c => c.1 + nth 0 vcs c.2), shared := x.shared + sh }) (popCell p s)))) ∧
   (headCell p s = none → exec (.creditCell p) s = .next s ∧ exec (.syrelPacketForward p) s = .next s) ∧
   (∀ before after, (syrPort p s).unverified = before ++ .auth true :: after → (∀ b, .auth b ∉ before) →
     exec (.authCell p) s = .next (setPort p (fun x => { x with rx := x.rx ++ before, unverified := after }) s)) ∧
   (∀ before after, (syrPort p s).unverified = before ++ .auth false :: after → (∀ b, .auth b ∉ before) →
     exec (.authCell p) s = .next (takePortDown p (setB SYR_EVENT_AUTH_FAIL 0 (bumpSat SYR_PERR_AUTH_FAIL p 1 (setPort p (fun x => { x with unverified := [] }) s))))) ∧
   ((∀ b, .auth b ∉ (syrPort p s).unverified) → exec (.authCell p) s = .next s) ∧
   (∀ hub t q ok dly, mayTrain p s = true → exec (.portTrainDone p 0 hub t q ok dly) s =
     .next (addEntry 0x6 p 3 0 (setPort p (fun x => { x with training := none }) (wr SYR_PORT_LANES p 0 s)))) ∧
   (∀ lanes hub t q ok dly s1, mayTrain p s = true → lanes ≠ 0 → ok = true → noCrypto s = false →
     s1 = setPort p (fun x => { x with training := none }) (setB SYR_PORT_PARTNER_VALID p (wr SYR_PORT_PARTNER_PORT p q
       (wrb SYR_PORT_PARTNER_TWIN p t (wr SYR_PORT_PARTNER_HUB p hub (wr SYR_PORT_LANES p lanes s))))) → miswired p hub t q s1 = true →
     exec (.portTrainDone p lanes hub t q ok dly) s = .next (addEntry 0x6 p 4 hub (setB SYR_EVENT_MISWIRED 0 (setB SYR_PORT_MISWIRED p s1)))) ∧
   (∀ lanes hub t q ok dly, mayTrain p s = false → exec (.portTrainDone p lanes hub t q ok dly) s = .next s)) ∧
  (∀ (s : State), s.power.stopped = false →
   (exec (.hubAliveRelease false) s = .next (releasePins s)) ∧
   (exec (.hubAliveRelease true) s = .next (releasePins (clrB SYR_STATUS_CLK_OK 0 s))) ∧
   (exec .syrFence s = .next (releasePins s)) ∧
   (∀ axes, (hubReady s = false ∨ aliveOk s = false ∨ s.fuses.variant = 3) → exec (.join axes) s = .next s) ∧
   (∀ axes, hubReady s = true → aliveOk s = true → s.fuses.variant ≠ 3 → exec (.join axes) s =
     .next (forEach [0, 1, 2] (fun a s => if bit axes a && !bit (rd SYR_STATUS_ALIVE 0 s) a then joinAxis a s else s) s)) ∧
   (hubReady s = true → aliveOk s = true → s.fuses.variant ≠ 3 → rd SYR_STATUS_ALIVE 0 s = 0 → exec (.join 1) s = .next (joinAxis 0 s)))

/-- A malformed packet takes its port down; a request or answer is routed on, a collective or multicast packet delivered here, a
reserved status taken as UNSUPPORTED and logged. Accesses to the fabric window leave as packets, answer UNSUPPORTED where
their form is bad, and are held with a wake while the mesh is down. RREAD, RWRITE and RATOMIC are served at the home or answer
the refusing status; RDATA and RCMP end the request they answer, and are dropped and counted when late. A packet held for
SYR_HOLD is bounced and posted. (R251, R282, R283, R288, R289, R297) -/
def Obligations.SyrelPackets : Prop := ∀ (s s1 : State), s.power.stopped = false →
  (∀ p k, rd PWR_STATUS_STATE 0 s < 2 → headCell p s = some (.pkt k) → pktBad k = true →
    exec (.syrelPacketForward p) s = .next (takePortDown p (setB SYR_EVENT_PORT_DOWN 0 (bumpSat SYR_PERR_REPLAYS p 1 (popCell p s))))) ∧
  (∀ p k k2 s2, rd PWR_STATUS_STATE 0 s < 2 → headCell p s = some (.pkt k) → pktBad k = false → s1 = freeCells p k (popCell p s) →
    s2 = (if Status.reservedCode k.status then logRec .reservedStatus [1, p, k.status] s1 else s1) →
    k2 = { k with secure := rdb SYR_PORT_SECURE p s2, port := p, status := if Status.reservedCode k.status then 4 else k.status } →
    (k.opc < 8 → exec (.syrelPacketForward p) s = .next (routePkt 3 (decide (18 ≤ p)) (if p < 18 then some p else none) k2 s2)) ∧
    (k.opc = 0x8 ∨ k.opc = 0x9 ∨ k.opc = 0xA → exec (.syrelPacketForward p) s = .next (deliver k2 s2))) ∧
  (∀ k id fn off len data aux w dl, fabricWindow off = some w → atTarget k id s = none → meshUp s = true → dl = classDeadline (portClass k fn s) none s →
    s1 = setMesh (fun m => { m with held := m.held ++ [{ port := k, id := id, tgt := 72, at16 := now16 s }] }) s →
    exec (.fabricWindowRequest k id fn off 1 len data aux) s = .next (fabricSend (.mesh k id) fn w off 0x1 len [] none len dl s1) ∧
    exec (.fabricWindowRequest k id fn off 2 len data aux) s = .next (fabricSend (.mesh k id) fn w off 0x2 data.length data none 0 dl s1) ∧
    (off % 8 = 0 → data.length = 16 → exec (.fabricWindowRequest k id fn off 3 len data aux) s = .next (fabricSend (.mesh k id) fn w off 0x3 8 data none aux dl s1)) ∧
    (off % 8 ≠ 0 → exec (.fabricWindowRequest k id fn off 3 len data aux) s = .next (answer (.mesh k id) (Status.worse .unsupported (windowStatus fn w off 8 s1)) [] s1)) ∧
    exec (.fabricWindowRequest k id fn off 0 len data aux) s = .next (answer (.mesh k id) (Status.worse .unsupported (windowStatus fn w off 0 s1)) [] s1)) ∧
  (∀ k id fn off op len data aux w, fabricWindow off = some w → atTarget k id s = none → meshUp s = false →
    exec (.fabricWindowRequest k id fn off op len data aux) s = .next (wakePort k fn (setSyr (fun y => { y with heldWin := y.heldWin ++
      [{ port := k, id := id, fn := fn, off := off, op := op, len := len, data := data, aux := aux }] }) s))) ∧
  (∀ k id fn off op len data aux, fabricWindow off = none → exec (.fabricWindowRequest k id fn off op len data aux) s = .next s) ∧
  (∀ k off len, takeReqPkt 0x1 s = some (k, s1) → off = pktOff k → len = slice k.aux 0 10 → 0 < len → len ≤ 512 → remoteStatus k len false s1 = .ok →
    exec .rread s = .next (serveRemote k ((lineOffs off len).map (fun o =>
      { kind := .homeRead, line := o / 64, who := .hub, off := max o off - o, len := min (o + 64) (off + len) - max o off })) s1)) ∧
  (∀ k, takeReqPkt 0x1 s = some (k, s1) → slice k.aux 0 10 = 0 →
    exec .rread s = .next (syrAnswer k (Status.worse .unsupported (remoteStatus k 0 false s1)) [] s1)) ∧
  (∀ k, takeReqPkt 0x2 s = some (k, s1) → k.data ≠ [] → (k.masked = true → k.data.length = 64 ∧ pktOff k % 64 = 0) → remoteStatus k k.data.length true s1 = .ok →
    exec .rwrite s = .next (serveRemote k ((lineOffs (pktOff k) k.data.length).map (fun o =>
      { kind := .homeWrite, line := o / 64, who := .hub, data := (linePart o (pktOff k) k.data).1, mask := if k.masked then k.aux else (linePart o (pktOff k) k.data).2 })) s1)) ∧
  (∀ k, takeReqPkt 0x3 s = some (k, s1) → slice k.aux 0 2 ≠ 3 → pktOff k % 8 = 0 → k.data.length = 16 → remoteStatus k 8 true s1 = .ok →
    exec .ratomic s = .next (serveRemote k [{ kind := .homeAtomic, line := pktOff k / 64, who := .hub, off := pktOff k % 64, len := 8, op := slice k.aux 0 2, a := ofBytes (k.data.take 8), b := ofBytes (k.data.drop 8) }] s1)) ∧
  (∀ k r id w, takeInbox (fun k => k.opc == 0x4) s = some (k, s1) → reqOf 2 72 k.tag s1 = some r → r.purpose = .remote id →
    look (retireReq r s1).syr.outbound id = some w →
    exec .rdata s = .next (settleJobs (answerOut id w (Status.ofCode k.status) k.data (retireReq r s1)))) ∧
  (∀ k r id w, takeInbox (fun k => k.opc == 0x5) s = some (k, s1) → reqOf 2 72 k.tag s1 = some r → r.purpose = .remote id →
    look (retireReq r s1).syr.outbound id = some w →
    exec .rcmp s = .next (settleJobs (answerOut id w (Status.ofCode k.status) k.data (retireReq r s1)))) ∧
  (∀ k t, takeInbox (fun k => k.opc == 0x5) s = some (k, s1) → reqOf 2 72 k.tag s1 = none → t ∈ s1.timers.tombs → t.cls = 2 → t.tag = k.tag →
    exec .rcmp s = .next (bump TMO_COUNT_LATE_DROP 0 1 s1)) ∧
  (∀ d, (∀ h ∈ s.syr.held, h.1 = d → now16 s < h.2.1 + us16 (rd SYR_HOLD_US 0 s)) → exec (.syrHoldExpire d) s = .next s) ∧
  (∀ d late, late = s.syr.held.filter (fun h => h.1 == d && decide (h.2.1 + us16 (rd SYR_HOLD_US 0 s) ≤ now16 s)) → late ≠ [] →
    exec (.syrHoldExpire d) s = .next (forEach late (fun h u => bounce h.2.2 u)
      (setB SYR_EVENT_HOLD_EXPIRED 0 (setSyr (fun y => { y with held := y.held.filter (fun h => !late.contains h) }) s))))

/-- For each command that registerCommandWrites names, if it is well formed and answers a next state: every byte of memory, the
engines, sessions, attention batches, calendar entries, the queue, the life cycle, the latches, and every register field but
those listed for it are as before. (spec/00_scope.md, R13) -/
def Obligations.RegisterCommandFrames : Prop := ∀ (c : Instr) (W : List Fld) (s t : State),
  registerCommandWrites c = some W → c.wf = true → exec c s = .next t →
  (∀ off, storedByte off t = storedByte off s) ∧ t.grv = s.grv ∧ t.ses = s.ses ∧ t.attn = s.attn ∧ t.cal.entries = s.cal.entries ∧
  t.pending = s.pending ∧ t.life = s.life ∧ t.latches = s.latches ∧
  (∀ f i, i < 65536 → (∀ w ∈ W, f.code ≠ w.code) → rd f i t = rd f i s)

/-- A wake event during an entry is kept and settles it; in H2 and H3 it leaves the state; a wake pattern wakes a port in low-
power idle. H1_IDLE_EXPIRE enters H1 after the idle time. ENTER begins the entry, waits for AT, or ends with the refusing
condition; EXIT turns H1_AUTO off; an AT reached begins what waited. (R306, R451, R453, R458, R461) -/
def Obligations.PowerEntryAndExit : Prop := ∀ (s : State) (g k : Nat), s.power.stopped = false →
  (∀ e code idx, s.power.entry = some e → 0x11 ≤ code → code ≤ 0x17 →
    exec (.wakeEvent code idx) s = .next (settleEntry (setPower (fun p => { p with wakes := p.wakes ++ [(code, idx)] }) s))) ∧
  (∀ code, 2 ≤ pwrState s → 0x11 ≤ code → code ≤ 0x17 → exec (.powerExitWake code) s = .next (leaveLow s)) ∧
  (∀ p, rdb SYR_PORT_LPI p s = true → exec (.wakePattern p) s = .next (raiseWake 0x11 p (clrB SYR_PORT_LPI p s))) ∧
  (∀ p, rdb SYR_PORT_LPI p s = false → exec (.wakePattern p) s = .next s) ∧
  (rdb PWR_CTL_H1_AUTO 0 s = true → pwrState s = 0 → s.power.entry = none → dispatching s = true →
    s.power.workAt + us16 (max 1 (rd PWR_CTL_H1_IDLE_US 0 s)) ≤ now16 s → refuser .auto 1 s = none →
    exec .h1IdleExpire s = .next (commitEntry .auto 1 s)) ∧
  (∀ d, powerDesc g k 0x01 s = some d → s.power.entry = none → bit (d.word 2) 10 = false →
    exec (.enter g k) s = .next (beginEntry (.desc g k) (slice (d.word 2) 8 2) s)) ∧
  (∀ d, powerDesc g k 0x01 s = some d → s.power.entry = none → bit (d.word 2) 10 = true → pos s < wrap 64 (d.word 3) →
    exec (.enter g k) s = .next (setPower (fun p => { p with waits := p.waits ++ [(g, k)] }) s)) ∧
  (∀ d c i s1, powerDesc g k 0x01 s = some d → s.power.entry = none → bit (d.word 2) 10 = false →
    refuser (.desc g k) (slice (d.word 2) 8 2) s = some (c, i, s1) →
    exec (.enter g k) s = .next (endRequest (.desc g k) (slice (d.word 2) 8 2) 2 c i s1)) ∧
  (∀ d, powerDesc g k 0x02 s = some d →
    exec (.exit g k) s = .next (completeDesc g k .ok 0 0 0 (clrB PWR_CTL_H1_AUTO 0 (startWork s)))) ∧
  (∀ d, runningDesc g k 0x34 s = some d → s.power.waits.contains (g, k) = true → wrap 64 (d.word 3) ≤ pos s →
    exec (.powerAtReached g k) s = .next (beginPower g k d (setPower (fun p => { p with waits := p.waits.erase (g, k) }) s)))

/-- SET_CAP sets good caps and completes UNSUPPORTED for bad ones; GROUP sets the group and its epoch; members report to the
leader, the leader to itself and decides, a new cap is taken an epoch later. A voltage acknowledged within 10 mV ends the
change and takes the point it was for, after a dip if one runs; one above is not taken; a frame is sent again after 10 µs, up
to four times, and after 100 µs the rail has a fault. A poll writes the six rails' readings. A droop is counted and clears
after its hold; a dip sets STRETCH, and its end is counted, takes the point that waited, and is posted, in H2 and H3 later.
(R463, R464, R465, R468) -/
def Obligations.PowerCapsVoltagesAndDips : Prop :=
  (∀ (s : State) (g k : Nat), s.power.stopped = false →
   (∀ d, powerDesc g k 0x03 s = some d → bit (d.word 2) 48 = false → capsOk (slice (d.word 2) 16 16) (slice (d.word 2) 32 16) s = true →
     exec (.setCap g k) s = .next (completeDesc g k .ok 0 0 0 (setCaps (slice (d.word 2) 16 16) (slice (d.word 2) 32 16) s))) ∧
   (∀ d, powerDesc g k 0x03 s = some d → bit (d.word 2) 48 = false → capsOk (slice (d.word 2) 16 16) (slice (d.word 2) 32 16) s = false →
     exec (.setCap g k) s = .next (completeDesc g k .unsupported 0 0 0 s)) ∧
   (∀ d s1, powerDesc g k 0x04 s = some d → s1 = (s |> wr PWR_GROUP_ENABLE 0 (slice (d.word 2) 8 1) |> wr PWR_GROUP_LEADER 0 (slice (d.word 2) 9 12)
       |> wr PWR_GROUP_MEMBERS 0 (slice (d.word 2) 21 13) |> wr PWR_GROUP_FUNCTION 0 (slice (d.word 2) 34 6)
       |> wr PWR_GROUP_CAP_MIN 0 (slice (d.word 3) 0 16) |> wr PWR_GROUP_SHIFT_W 0 (slice (d.word 3) 16 16)) →
     exec (.group g k) s = .next (completeDesc g k .ok 0 0 0 (setPower (fun p => { p with
       grpAt := pos s / 10000000, grpDone := true, grpCount := rd CAL_LATE_COUNT (slice (d.word 2) 34 6) s1,
       grpMax := rd CAL_LATE_MAX_LATE (slice (d.word 2) 34 6) s1, reports := [], nextCap := none }) s1))) ∧
   (∀ n m s1, rdb PWR_GROUP_ENABLE 0 s = true → s.power.grpAt < pos s / 10000000 → n = rd CAL_LATE_COUNT (rd PWR_GROUP_FUNCTION 0 s) s →
     m = rd CAL_LATE_MAX_LATE (rd PWR_GROUP_FUNCTION 0 s) s → rd PWR_GROUP_LEADER 0 s ≠ rd HUB_ID_ID 0 s →
     s1 = setPower (fun p => { p with grpAt := pos s / 10000000, grpDone := false, grpCount := n, grpMax := m }) s →
     exec .powerGroupReport s = .next (tellHub (4096 * rd HUB_ID_TWIN 0 s1 + rd PWR_GROUP_LEADER 0 s1) 8
       [rd HUB_ID_ID 0 s, rd PWR_CAP_PKG_CAP 0 s, pkgW s, wrap 32 (n + 2 ^ 32 - s.power.grpCount), m - s.power.grpMax] s1)) ∧
   (∀ n m, rdb PWR_GROUP_ENABLE 0 s = true → s.power.grpAt < pos s / 10000000 → n = rd CAL_LATE_COUNT (rd PWR_GROUP_FUNCTION 0 s) s →
     m = rd CAL_LATE_MAX_LATE (rd PWR_GROUP_FUNCTION 0 s) s → rd PWR_GROUP_LEADER 0 s = rd HUB_ID_ID 0 s →
     exec .powerGroupReport s = .next (setPower (fun p => { p with reports := p.reports.filter (fun x => x.hub != rd HUB_ID_ID 0 s) ++
       [{ hub := rd HUB_ID_ID 0 s, cap := rd PWR_CAP_PKG_CAP 0 s, power := pkgW s, late := wrap 32 (n + 2 ^ 32 - s.power.grpCount), maxLate := m - s.power.grpMax }] })
       (setPower (fun p => { p with grpAt := pos s / 10000000, grpDone := false, grpCount := n, grpMax := m }) s))) ∧
   (rdb PWR_GROUP_ENABLE 0 s = false → exec .powerGroupReport s = .next s) ∧
   (groupLeader s = true → s.power.grpDone = false →
     newCaps (rd PWR_GROUP_SHIFT_W 0 s) (rd PWR_GROUP_CAP_MIN 0 s) s.power.reports = [] →
     exec .powerGroupDecide s = .next (setPower (fun p => { p with grpDone := true, reports := [] }) s)) ∧
   (∀ s1, groupLeader s = true → s.power.grpDone = false → s1 = setPower (fun p => { p with grpDone := true, reports := [] }) s →
     exec .powerGroupDecide s = .next (forEach (newCaps (rd PWR_GROUP_SHIFT_W 0 s) (rd PWR_GROUP_CAP_MIN 0 s) s.power.reports)
       (fun c u => if c.1 = rd HUB_ID_ID 0 u then takeCap c.2 u else tellHub (4096 * rd HUB_ID_TWIN 0 u + c.1) 9 [c.2] u) s1)) ∧
   (groupLeader s = false ∨ s.power.grpDone = true → exec .powerGroupDecide s = .next s) ∧
   (∀ c e, s.power.nextCap = some (c, e) → rdb PWR_GROUP_ENABLE 0 s = true → e < pos s / 10000000 →
     exec .powerGroupApply s = .next (setCaps c (rd PWR_CAP_HUB_CAP 0 s) (setPower (fun p => { p with nextCap := none }) s))) ∧
   (∀ pk hb, rdb SEC_STATUS_CONFIDENTIAL 0 s = true → setCaps pk hb s = wr PWR_CAP_HUB_CAP 0 hb (wr PWR_CAP_PKG_CAP 0 pk s))) ∧
  (∀ (s : State) (r : Nat), s.power.stopped = false →
   (∀ a mv, s.power.avs.find? (fun a => a.rail == r) = some a → mv ≤ a.mv + 10 → a.mv ≤ mv + 10 → a.point = none →
     exec (.avsAck r mv) s = .next (wr PWR_RAIL_SET_MV r a.mv (setPower (fun x => { x with avs := x.avs.filter (fun b => b.rail != r) }) s))) ∧
   (∀ a mv, s.power.avs.find? (fun a => a.rail == r) = some a → a.mv + 10 < mv → exec (.avsAck r mv) s = .next s) ∧
   (∀ a, s.power.avs.find? (fun a => a.rail == r) = some a → a.sends < 4 → a.sentAt + us16 10 ≤ now16 s →
     exec (.avsRetryTimeout r) s = .next (sendAvs { a with sends := a.sends + 1, sentAt := now16 s }
       (setPower (fun x => { x with avs := x.avs.map (fun c => if c.rail = r then { a with sends := a.sends + 1, sentAt := now16 s } else c) }) s))) ∧
   (∀ a, s.power.avs.find? (fun a => a.rail == r) = some a → a.since + us16 100 ≤ now16 s →
     exec (.avsAckTimeout r) s = .next (setB PWR_STATUS_RAIL_FAULT 0 (setB PWR_RAIL_FAULT r
       (setPower (fun x => { x with avs := x.avs.filter (fun b => b.rail != r) }) s)))) ∧
   (∀ mv ma, again s.power.pollAt 100 s = true → exec (.pmbusPoll mv ma) s = .next
     (forEach (List.range 6) (fun r s => wr PWR_RAIL_READ_MV r (nth 0 mv r) s)
       (setPower (fun p => { p with pollAt := some (now16 s), iout := (List.range 6).map (fun r => nth 0 ma r) }) s))) ∧
   (∀ t, look s.power.droops t = none → t < tiles s → exec (.droopDetect t) s = .next
     (count t 0x0C none 1 (setPower (fun p => { p with droops := put t (now16 s) p.droops }) s))) ∧
   (∀ t since, look s.power.droops t = some since → since + 8192 / graverRate s ≤ now16 s →
     exec (.droopClear t) s = .next (setPower (fun p => { p with droops := del t p.droops }) s)) ∧
   (∀ rails, exec (.supplyDipStart rails) s = .next (setB PWR_STATUS_STRETCH 0
     (setPower (fun p => { p with dipAt := s.power.dipAt <|> some (now16 s), dipRails := Nat.lor p.dipRails (wrap 7 rails) }) s))) ∧
   (∀ t us s1 s2, s.power.dipAt = some t → t + us16 10 ≤ now16 s → us = sat 32 ((now16 s - t) / 16000) →
     s1 = (s |> clrB PWR_STATUS_STRETCH 0 |> setPower (fun p => { p with dipAt := none, dipRails := 0 })
       |> bumpSat PWR_DIP_COUNT 0 1 |> wr PWR_DIP_LONGEST 0 (max (rd PWR_DIP_LONGEST 0 s) us)) →
     s2 = (match s.power.raiseTo with | some p => setPoint p s1 | none => s1) →
     (pwrState s2 < 2 → exec .supplyDipEnd s = .next (hubEvent (extentHolders s2) 0x0009 .ok (s.power.dipRails + 2 ^ 32 * us) s2)) ∧
     (2 ≤ pwrState s2 → exec .supplyDipEnd s = .next (setPower (fun p => { p with dipsOwed := p.dipsOwed ++ [s.power.dipRails + 2 ^ 32 * us] }) s2))) ∧
   (∀ a mv p s1, s.power.avs.find? (fun a => a.rail == r) = some a → mv ≤ a.mv + 10 → a.mv ≤ mv + 10 → a.point = some p →
     s1 = wr PWR_RAIL_SET_MV r a.mv (setPower (fun x => { x with avs := x.avs.filter (fun b => b.rail != r) }) s) → rdb PWR_RAIL_FAULT r s1 = false →
     (rdb PWR_STATUS_STRETCH 0 s1 = false → exec (.avsAck r mv) s = .next (wr PWR_STATUS_POINT 0 p s1)) ∧
     (rdb PWR_STATUS_STRETCH 0 s1 = true → exec (.avsAck r mv) s = .next (setPower (fun x => { x with raiseTo := some p }) s1))) ∧
   (again s.power.pollAt 100 s = false → ∀ mv ma, exec (.pmbusPoll mv ma) s = .next s))

/-- Each 100 µs the measured power is shown, and the operating point steered against the cap, outside confidential mode; inside,
each epoch sets the level. Energy is shared out to functions and sites each millisecond, in confidential mode each 100 ms in
steps. A sample of 115 °C or more stops the clocks and releases the pins; one below the limit is recorded. PROCHOT sets its
bit and posts the event, and outside confidential mode puts the hub at point 3. (R181, R396, R466, R467, R469, R470, R471,
R498) -/
def Obligations.PowerPeriodsAndThermal : Prop :=
  (∀ (s : State), s.power.stopped = false →
   (∀ s1 cool, again s.power.periodAt 100 s = true →
     s1 = showPower (setPower (fun p => { p with periodAt := some (now16 s), epSum := p.epSum + pkgW s, epN := p.epN + 1 }) s) →
     cool = (if rd PWR_THERM_HOTTEST 0 s1 + 5 < thermLimit s1 then s1.power.coolN + 1 else 0) → rdb SEC_STATUS_CONFIDENTIAL 0 s1 = true →
     exec .powerPeriod s = .next (setPower (fun p => { p with coolN := cool, hot := p.hot && decide (cool < 10) }) s1)) ∧
   (∀ s1 s2 cool, again s.power.periodAt 100 s = true →
     s1 = showPower (setPower (fun p => { p with periodAt := some (now16 s), epSum := p.epSum + pkgW s, epN := p.epN + 1 }) s) →
     cool = (if rd PWR_THERM_HOTTEST 0 s1 + 5 < thermLimit s1 then s1.power.coolN + 1 else 0) → rdb SEC_STATUS_CONFIDENTIAL 0 s1 = false →
     s2 = setPower (fun p => { p with coolN := cool, hot := p.hot && decide (cool < 10) }) s1 → effectiveCap s2 < hubW s2 →
     exec .powerPeriod s = .next (forEach (readySites (setPoint (min 3 (point s2 + 1)) (setPower (fun p => { p with lowN := 0 }) s2))) regrant
       (setPoint (min 3 (point s2 + 1)) (setPower (fun p => { p with lowN := 0 }) s2)))) ∧
   (again s.power.periodAt 100 s = false → exec .powerPeriod s = .next s) ∧
   (∀ s1 u, rdb SEC_STATUS_CONFIDENTIAL 0 s = true → s.power.epoch < pos s / 1000000 → rdb PWR_STATUS_PROCHOT_IN 0 s = true →
     rd PWR_STATUS_LEVEL 0 s ≠ 3 → s1 = setPower (fun p => { p with epoch := pos s / 1000000, epSum := 0, epN := 0, epHot := false, epProchot := false }) s →
     u = setPoint 3 (wr PWR_STATUS_LEVEL 0 3 s1) →
     (thermalEvent 6 3 (forEach (readySites u) regrant u)).mem.retrain.find? (fun r => 8 * r.1 + r.2 == pos s / 1000000 % 1024) = none →
     exec .throttleEpoch s = .next (thermalEvent 6 3 (forEach (readySites u) regrant u))) ∧
   (rdb SEC_STATUS_CONFIDENTIAL 0 s = false → exec .throttleEpoch s = .next s) ∧
   (∀ ms hub ended ws s1 given s2 sites s3, ms = (if rdb SEC_STATUS_CONFIDENTIAL 0 s then 100 else 1) → s.power.energyAt + us16 (1000 * ms) ≤ now16 s →
     hub = (if rdb SEC_STATUS_CONFIDENTIAL 0 s then hubW s / 8 * 8 * 1000000 else hubUw s) * ms / 1000 →
     ended = ((if rdb SEC_STATUS_CONFIDENTIAL 0 s then hubW s / 8 * 8 * 1000000 else hubUw s) - Config.h1Power) * ms / 1000 →
     workShares s = (ws, s1) → given = ws.map (fun p => (p.1, ended * p.2 / max 1 (ws.map Prod.snd).sum)) →
     s2 = addEnergy 0 (hub - (given.map Prod.snd).sum) (forEach given (fun p u => addEnergy p.1 p.2 u) s1) →
     sites = (List.range (chipSites s2)).map (fun j => (j, (if rdb SEC_STATUS_CONFIDENTIAL 0 s then rd SITE_PWR_MEASURED j s2 / 8 * 8 else rd SITE_PWR_MEASURED j s2) * ms * 1000)) →
     s3 = bump PKG_ENERGY_UJ 0 (hub + (sites.map Prod.snd).sum) (forEach sites (fun p u => match siteOwner p.1 u with
         | some n => addEnergy n p.2 u
         | none => u) s2) →
     exec .energyTick s = .next (setPower (fun p => { p with energyAt := now16 s3, work := [], movers := [] }) s3)) ∧
   (rdb SEC_STATUS_CONFIDENTIAL 0 s = false → now16 s < s.power.energyAt + us16 1000 → exec .energyTick s = .next s)) ∧
  (∀ (s s1 : State) (t : Nat), s.power.stopped = false →
   (again s.power.sampleAt 10 s = true → 115 ≤ t → s1 = wr PWR_THERM_HOTTEST 0 (sat 8 t) (setPower (fun p => { p with sampleAt := some (now16 s) }) s) →
     exec (.thermalSample t) s = .next (setPower (fun p => { p with stopped := true }) (releasePins (emit { kind := .pin, dest := 0, args := [4, 0] } s1)))) ∧
   (again s.power.sampleAt 10 s = true → t < thermLimit s → rd PWR_THERM_HOTTEST 0 s < thermLimit s → rdb PWR_STATUS_PROCHOT_OUT 0 s = false →
     s1 = wr PWR_THERM_HOTTEST 0 (sat 8 t) (setPower (fun p => { p with sampleAt := some (now16 s) }) s) → exec (.thermalSample t) s = .next s1) ∧
   (again s.power.sampleAt 10 s = false → exec (.thermalSample t) s = .next s) ∧
   (pinSettled s = true → rdb PWR_STATUS_PROCHOT_IN 0 s = false → rdb SEC_STATUS_CONFIDENTIAL 0 s = true →
     s1 = setB PWR_STATUS_PROCHOT_IN 0 (setPower (fun p => { p with board := true, epProchot := true }) s) →
     exec .prochotAssert s = .next (thermalEvent 3 (point s1) s1)) ∧
   (pinSettled s = true → rdb PWR_STATUS_PROCHOT_IN 0 s = false → rdb SEC_STATUS_CONFIDENTIAL 0 s = false →
     s1 = forEach (readySites (setB PWR_STATUS_PROCHOT_IN 0 (setPower (fun p => { p with board := true, epProchot := true }) s))) regrant
       (setPoint 3 (setB PWR_STATUS_PROCHOT_IN 0 (setPower (fun p => { p with board := true, epProchot := true }) s))) →
     exec .prochotAssert s = .next (thermalEvent 3 (point s1) s1)) ∧
   (pinSettled s = true → rdb PWR_STATUS_PROCHOT_IN 0 s = true → s1 = setPower (fun p => { p with board := false }) s →
     exec .prochotDeassert s = .next (thermalEvent 4 (point s1) (clrB PWR_STATUS_PROCHOT_IN 0 s1))) ∧
   (pinSettled s = false ∨ rdb PWR_STATUS_PROCHOT_IN 0 s = true →
     exec .prochotAssert s = .next (setPower (fun p => { p with board := true }) s)) ∧
   (pinSettled s = false ∨ rdb PWR_STATUS_PROCHOT_IN 0 s = false →
     exec .prochotDeassert s = .next (setPower (fun p => { p with board := false }) s)))

/-- TILE_OUT, TILE_IN, MEMSITE_OUT and MEMSITE_IN are queued for a tile or site that the variant has; TILE_OUT and MEMSITE_OUT of
another complete UNSUPPORTED; CHAN_RETRAIN and PORT_RETRAIN retrain, UNREACHABLE for a failed channel. Work on a tile going
out gets 1 ms and then stops. PARTIAL aborts the tiles' work, and does nothing during bring-up or another. (R147, R177, R272,
R433, R434, R435, R446, R447, R448) -/
def Obligations.ServiceChanges : Prop := ∀ (s : State), s.power.stopped = false →
  (∀ g k d t, serviceDesc g k 0x01 s = some d → t = slice (d.word 2) 8 6 → t < tiles s → s.boot.svc.any (fun w => w.g == g && w.k == k) = false →
    exec (.tileOut g k) s = .next (settleSvc (setBoot (fun x => { x with svc := x.svc ++ [{ sub := 1, g := g, k := k, idx := t }] }) s))) ∧
  (∀ g k d p t, serviceDesc g k 0x02 s = some d → t = slice (d.word 2) 8 6 → t < tiles s → s.boot.svc.any (fun w => w.g == g && w.k == k) = false →
    exec (.tileIn g k p) s = .next (settleSvc (setBoot (fun x => { x with svc := x.svc ++ [{ sub := 2, g := g, k := k, idx := t, found := b2n p }] }) s))) ∧
  (∀ g k d j, serviceDesc g k 0x03 s = some d → j = slice (d.word 2) 8 5 → j < memSites s → s.boot.svc.any (fun w => w.g == g && w.k == k) = false →
    exec (.memsiteOut g k) s = .next (settleSvc (setBoot (fun x => { x with svc := x.svc ++ [{ sub := 3, g := g, k := k, idx := j }] }) s))) ∧
  (∀ g k d j n, serviceDesc g k 0x04 s = some d → j = slice (d.word 2) 8 5 → j < memSites s → s.boot.svc.any (fun w => w.g == g && w.k == k) = false →
    exec (.memsiteIn g k n) s = .next (settleSvc (setBoot (fun x => { x with svc := x.svc ++ [{ sub := 4, g := g, k := k, idx := j, found := wrap 8 n }] }) s))) ∧
  (∀ g k d, serviceDesc g k 0x01 s = some d → tiles s ≤ slice (d.word 2) 8 6 → exec (.tileOut g k) s = .next (failDesc g k .unsupported s)) ∧
  (∀ g k d, serviceDesc g k 0x03 s = some d → memSites s ≤ slice (d.word 2) 8 5 → exec (.memsiteOut g k) s = .next (failDesc g k .unsupported s)) ∧
  (∀ g k d j c, serviceDesc g k 0x05 s = some d → j = slice (d.word 2) 8 5 → c = slice (d.word 2) 16 3 → j < memSites s → chanFailed j c s = false →
    s.boot.retrains.any (fun w => w.g == g && w.k == k) = false →
    exec (.chanRetrain g k) s = .next (startRetrain j c (setBoot (fun x => { x with retrains := x.retrains ++ [{ sub := 5, g := g, k := k, idx := 8 * j + c }] }) s))) ∧
  (∀ g k d j c, serviceDesc g k 0x05 s = some d → j = slice (d.word 2) 8 5 → c = slice (d.word 2) 16 3 → j < memSites s → chanFailed j c s = true →
    exec (.chanRetrain g k) s = .next (failDesc g k .unreachable s)) ∧
  (∀ g k d p, serviceDesc g k 0x06 s = some d → p = slice (d.word 2) 8 5 → syrPortOk p s = true → rdb SYR_PORT_UP p s = true →
    s.boot.retrains.any (fun w => w.g == g && w.k == k) = false →
    exec (.portRetrain g k) s = .next (setPort p (fun x => { x with training := some (now16 s) })
      (takePortDown p (setBoot (fun x => { x with retrains := x.retrains ++ [{ sub := 6, g := g, k := k, idx := p }] }) s)))) ∧
  (∀ v rest r, s.boot.svc = v :: rest → v.sub = 1 → v.phase = 1 → v.since + stretched 1000 s ≤ now16 s → (grv v.idx s).run = some r → r.work.kind ≠ 2 →
    exec .tileLaunchGraceTimeout s = .next (settleSvc (abortRun v.idx s))) ∧
  (∀ v rest r, s.boot.svc = v :: rest → v.sub = 1 → v.phase = 1 → v.since + stretched 1000 s ≤ now16 s → (grv v.idx s).run = some r → r.work.kind = 2 →
    exec .tileLaunchGraceTimeout s = .next (settleSvc (tileLost v.idx s))) ∧
  (s.boot.svc = [] → exec .tileLaunchGraceTimeout s = .next s) ∧
  (∀ s1 s2 s3, s.boot.bring = none → tilesHeld s = false → s1 = abortTileChange (bumpSat HUB_BOOT_PARTIALS 0 1 (setBoot (fun x => { x with partialAt := some (now16 s) }) s)) →
    s2 = forEach (List.range (tiles s1)) (fun t u => match (grv t u).run with | some r => if r.work.kind = 2 then u else abortRun t u | none => u) s1 →
    s3 = abortCopies (abortBatches (fun _ => true) s2) →
    exec .partialReset s = .next (settlePartial (forEach (s3.syr.runs.map Prod.fst) (fun n u => failColl n .aborted none u) s3))) ∧
  ((s.boot.bring.isSome = true ∨ tilesHeld s = true) → exec .partialReset s = .next s)

/-- For each mailbox command of mbxCommands: with BUSY 1 nothing happens; in the FIPS error state every one but ZEROIZE ends
REFUSED; in a life-cycle state that its list does not hold it ends REFUSED. The refusal of 0x01 to 0x08 in SCRAPPED is the
model's reading (log entry 90). (R396, R405, R408, R411) -/
def Obligations.MailboxTurnsAway : Prop := ∀ (s : State) (c : Instr) (op : Nat) (l : List Nat), s.power.stopped = false →
  (c, op, l) ∈ mbxCommands →
  (rdb MBX_STATUS_BUSY 0 s = true → exec c s = .next s) ∧
  (rdb MBX_STATUS_BUSY 0 s = false → rdb SEC_STATUS_FIPS_ERROR 0 s = true → op ≠ 0x08 →
    exec c s = .next (mbxEnd op .refused 0 (mbxTaken op s))) ∧
  (rdb MBX_STATUS_BUSY 0 s = false → lifeState s ∉ l → exec c s = .next (mbxEnd op .refused 0 (mbxTaken op s)))

/-- EXTENT_ASSIGN gives free extents to the function and is REFUSED where one is used; EXTENT_RELEASE burnishes extents of one
function and ends after it. PART_ASSIGN takes free tile groups; PART_RELEASE clears the partition and ends once its sites are
reset, REFUSED for one not valid. FUNC_BIND binds or unbinds. (R385, R386, R390, R391, R393) -/
def Obligations.ExtentAndPartitionCommands : Prop := ∀ (s s1 : State), mbxOpen [0, 1, 2, 3] s →
  (s1 = mbxTaken 0x01 s → rangeBad s1 = false → (argExts s1).all (fun e => extKind e s1 == 0) = true → bit (mbxArg 1 s1) 6 = false →
    exec .extentAssign s = .next (mbxEnd 0x01 .ok (argExts s1).length (forEach (argExts s1)
      (fun e s => giveExt e (slice (mbxArg 1 s1) 0 6) false (bit (mbxArg 1 s1) 7) (bit (mbxArg 1 s1) 8) s)
      (tdiError (slice (mbxArg 1 s1) 0 6) s1)))) ∧
  (s1 = mbxTaken 0x01 s → rangeBad s1 = false → (argExts s1).all (fun e => extKind e s1 == 0) = false →
    exec .extentAssign s = .next (mbxEnd 0x01 .refused 0 s1)) ∧
  (∀ n, s1 = mbxTaken 0x02 s → rangeBad s1 = false → n = rd EXT_FUNCTION ((argExts s1).headD 0) s1 →
    (argExts s1).all (fun e => extOwned n e s1) = true → rd FUNC_CFG_TDI n s1 = 0 →
    ((usedExts s1).filter (fun e => extOwned n e s1)).all (argExts s1).contains = false →
    exec .extentRelease s = .next (setSec (fun x => { x with waits := x.waits ++
      [{ act := .done false 0x02 (argExts s1).length, burns := (burnExts (argExts s1) s1).1 }] }) (burnExts (argExts s1) s1).2)) ∧
  (∀ p gs, s1 = mbxTaken 0x03 s → p = slice (mbxArg 0 s1) 0 4 → gs = (List.range 16).filter (fun g => bit (mbxArg 0 s1) (16 + g)) →
    gs ≠ [] → gs.any (fun g => decide (tiles s1 / 4 ≤ g)) = false → rdb PART_CFG_VALID p s1 = false →
    gs.any (fun g => rdb TGRP_VALID g s1) = false →
    exec .partAssign s = .next (mbxEnd 0x03 .ok gs.length (forEach gs (fun g s => s |> setB TGRP_VALID g |> wr TGRP_PARTITION g p)
      (s1 |> setB PART_CFG_VALID p |> wr PART_CFG_OWNER p (slice (mbxArg 0 s1) 4 6))))) ∧
  (s1 = mbxTaken 0x04 s → rdb PART_CFG_VALID (slice (mbxArg 0 s1) 0 4) s1 = false →
    exec .partRelease s = .next (mbxEnd 0x04 .refused 0 s1)) ∧
  (∀ p, s1 = mbxTaken 0x04 s → p = slice (mbxArg 0 s1) 0 4 → rdb PART_CFG_VALID p s1 = true →
    ∃ t js, exec .partRelease s = .next t ∧ t.sec.waits.getLast? = some { act := .done false 0x04 0, burns := [], sites := js } ∧
      rd PART_CFG_VALID p t = 0 ∧ rd PART_CFG_OWNER p t = 0) ∧
  (∀ n p, s1 = mbxTaken 0x05 s → n = slice (mbxArg 0 s1) 0 6 → p = slice (mbxArg 0 s1) 6 4 → bit (mbxArg 0 s1) 10 = true →
    rdb PART_CFG_VALID p s1 = true →
    exec .funcBind s = .next (mbxEnd 0x05 .ok 0 (tdiError n s1 |> setB FUNC_CFG_BOUND n |> wr FUNC_CFG_PARTITION n p))) ∧
  (∀ n p, s1 = mbxTaken 0x05 s → n = slice (mbxArg 0 s1) 0 6 → p = slice (mbxArg 0 s1) 6 4 → bit (mbxArg 0 s1) 10 = false →
    partOf n s1 = some p →
    exec .funcBind s = .next (mbxEnd 0x05 .ok 0 (tdiError n s1 |> clrB FUNC_CFG_BOUND n |> wr FUNC_CFG_PARTITION n 0)))

/-- CONF_ENTER is pending when every condition holds, REFUSED with the number of the first that fails, and REFUSED with 11 after
its time. A rekey advances the epoch and takes a fresh key, on command and after 2^39 codewords (the latter threshold is the
model's, log entry 96). ZEROIZE burnishes and ends after it. A burnish ends once its lines are free. LC_SELECT_COMPAT programs
the fuse with a good token and counts a bad one. FIPS_ERROR_ENTER sets the error bit and clears SELFTEST_OK. (R265, R384,
R392, R394, R395, R405, R406, R422) -/
def Obligations.ConfidentialModeAndKeys : Prop := ∀ (s s1 : State), mbxOpen [0, 1, 2, 3] s →
  (s1 = mbxTaken 0x06 s → confFails s1 = none →
    exec .confEnter s = .next (setB SEC_STATUS_CONF_PENDING 0 (setSec (fun x => { x with confAt := some (now16 s1) }) s1))) ∧
  (∀ k, s1 = mbxTaken 0x06 s → confFails s1 = some k → exec .confEnter s = .next (mbxEnd 0x06 .refused k s1)) ∧
  (∀ t, s.sec.confAt = some t → t + us16 20000 ≤ now16 s → exec .confEnterTimeout s = .next
    (mbxEnd 0x06 .refused 11 (clrB SEC_STATUS_CONF_PENDING 0 (setSec (fun x => { x with confAt := none }) s)))) ∧
  (∀ p s2, s1 = mbxTaken 0x07 s → p = slice (mbxArg 0 s1) 0 5 → p < 20 → rdb SYR_PORT_UP p s1 = true → rdb SYR_PORT_SECURE p s1 = true →
    s2 = newKey (64 + p) (setPort p (fun x => { x with epoch := wrap 32 (x.epoch + 1), cwCount := 0 }) s1) →
    exec .portRekey s = .next (mbxEnd 0x07 .ok (syrPort p s2).epoch s2)) ∧
  (∀ p, p < 20 → rdb SYR_PORT_UP p s = true → rdb SYR_PORT_SECURE p s = true → 2 ^ 39 ≤ (syrPort p s).cwCount →
    exec (.codewordCountRekey p) s = .next (newKey (64 + p) (setPort p (fun x => { x with epoch := wrap 32 (x.epoch + 1), cwCount := 0 }) s))) ∧
  (s1 = mbxTaken 0x08 s → exec .zeroize s = .next (setSec (fun x => { x with waits := x.waits ++
    [{ act := .done false 0x08 0, burns := (zeroise s1).1 }] }) (zeroise s1).2.2)) ∧
  (∀ b rest, s.sec.burns = b :: rest → (b.slot.isSome = true ∨ (List.range 4096).any (fun i => rdb SLICE_STEER_MOVING i s) = false) →
    s.coh.trans.any (fun p => inExts b.exts (64 * p.1)) = false → heldLines b.exts s = [] →
    exec .burnishDone s = .next (settleSec (endBurn b s))) ∧
  (∀ st, s1 = mbxTaken 0x0E s → lifeState s = 0 → tokenStatus 2 s1 = st → exec (.lcSelectCompat none) s =
    .next (if st = .ok then program { bits := bitsToProgram .lcc 32 (2 ^ 32 - 1) s1.life, due := now16 s1 + us16 50, select := true, bmc := false }
        (setSec (fun x => { x with token := [] }) s1)
      else mbxEnd 0x0E st 0 (setSec (fun x => { x with token := [] }) (bumpSat LC_COUNT_TOKEN_FAIL 0 1 s1)))) ∧
  (∃ t, exec .fipsErrorEnter s = .next t ∧ rd SEC_STATUS_FIPS_ERROR 0 t = 1 ∧ rd SEC_STATUS_SELFTEST_OK 0 t = 0)

/-- With a signing key, CHALLENGE and signed measurements 1 to 13 are answered; in a secured session an IDE key is programmed, a
locked interface started with its nonce, an interface locked when it may be, refused otherwise, and stopped; without a session
it is refused. The response codes are those of the DMTF standards (log entry 97), the nonce is a free value. (R397, R398,
R399, R405, R414) -/
def Obligations.AttestationProtocol : Prop := ∀ (s : State) (sid n : Nat), s.power.stopped = false →
  (noCrypto s = true → (∀ m, exec (.spdmRequest m) s = .next (emit { kind := .spdm, dest := 0, args := [0x7F, 5] } s)) ∧
    exec (.lockInterfaceRequest sid n) s = .next (emit { kind := .spdm, dest := sid, args := [0x7F, 5] } s) ∧
    exec (.stopInterfaceRequest sid n) s = .next (emit { kind := .spdm, dest := sid, args := [0x7F, 5] } s)) ∧
  (noCrypto s = false →
    (∀ k, canSign k s = true → exec (.spdmRequest (.challenge k)) s = .next (emit { kind := .spdm, dest := 0, args := [0x03, k] } s)) ∧
    (∀ i, canSign 0 s = true → 1 ≤ i → i ≤ 13 →
      exec (.spdmRequest (.getMeasurements i true)) s = .next (emit { kind := .spdm, dest := 0, args := [0x60, measurement i s] } s)) ∧
    (s.sec.sessions.contains sid = true → n < 64 → exec (.spdmRequest (.ideKeyProg sid n)) s =
      .next (emit { kind := .spdm, dest := sid, args := [0x7E, 0x00, 0x03, n, 0] }
        (setSec (fun x => { x with ide := put n x.nextKey x.ide, nextKey := x.nextKey + 1 }) s))) ∧
    (∀ v, s.sec.sessions.contains sid = true → 0 < n → n < 64 → rd FUNC_CFG_TDI n s = 1 → look s.sec.tdiNonce n = some v →
      exec (.spdmRequest (.startInterface sid n v)) s = .next (emit { kind := .spdm, dest := sid, args := [0x7E, 0x06, n] }
        (setSec (fun x => { x with tdiNonce := del n x.tdiNonce }) (wr FUNC_CFG_TDI n 2 s)))) ∧
    (s.sec.sessions.contains sid = true → lockOk n s = true → exec (.lockInterfaceRequest sid n) s =
      .next (emit { kind := .spdm, dest := sid, args := [0x7E, 0x03, n, freeVal 64 s] }
        (drew (setSec (fun x => { x with tdiNonce := put n (freeVal 64 s) x.tdiNonce }) (wr FUNC_CFG_TDI n 1 s))))) ∧
    (s.sec.sessions.contains sid = true → lockOk n s = false → exec (.lockInterfaceRequest sid n) s =
      .next (emit { kind := .spdm, dest := sid, args := [0x7E, 0x7F, n] } s)) ∧
    (s.sec.sessions.contains sid = true → 0 < n → n < 64 → rd FUNC_CFG_TDI n s = 0 → exec (.stopInterfaceRequest sid n) s =
      .next (emit { kind := .spdm, dest := sid, args := [0x7E, 0x07, n] } s)) ∧
    (s.sec.sessions.contains sid = true → 0 < n → n < 64 → rd FUNC_CFG_TDI n s ≠ 0 →
      exec (.stopInterfaceRequest sid n) s = .next (unlockFn n (some sid) s)) ∧
    (s.sec.sessions.contains sid = false →
      exec (.stopInterfaceRequest sid n) s = .next (emit { kind := .spdm, dest := sid, args := [0x7F, 4] } s)))

/-- TOKEN_LOAD stores its bytes; TRANSITION to a target other than 1 and 3 programs its fuses when the token is good and otherwise
counts the failure and ends with its status; CHALLENGE gives eight words that are free values; DEBUG_GRANT of level 1 opens it
when the token is good and otherwise counts the failure; DEBUG_REVOKE returns to the level of the state. (R411, R413, R415,
R417, R420) -/
def Obligations.LifeCycleCommands : Prop := ∀ (s s1 : State), mbxOpen [1, 2] s →
  (∀ off len, s1 = mbxTaken 0x09 s → off = slice (cmdWord none 0 s1) 0 14 → len = slice (cmdWord none 0 s1) 14 12 → 0 < len → len ≤ 4092 →
    off + len ≤ 9510 → ∃ t, exec (.lcTokenLoad none) s = .next t ∧ t = mbxEnd 0x09 .ok t.sec.token.length (setSec (fun x => { x with
      token := (cmdBytes none 1 len s1).zipIdx.foldl (fun m p => put (off + p.2) p.1 m) x.token }) s1)) ∧
  (∀ st t, s1 = mbxTaken 0x0A s → tokenStatus 0 s1 = st → t = tokenField 6 1 s1 → t ≠ 1 → t ≠ 3 → exec (.lcTransition none) s =
    .next (if st = .ok then program { bits := transitionBits t s1, due := now16 s1 + us16 50, target := some t, bmc := false } (dropToken s1)
      else mbxEnd 0x0A st 0 (setSec (fun x => { x with token := [] }) (bumpSat LC_COUNT_TOKEN_FAIL 0 1 s1)))) ∧
  (∀ ws, s1 = mbxTaken 0x0B s → ws = (List.range 8).map (fun i => wrap 32 (Config.freeValue (s1.freeCtr + i)).toNat) →
    exec (.lcChallenge none) s = .next (mbxEnd 0x0B .ok 0 (forEach ws.zipIdx (fun p s => wr MBX_DATA_DATA p.2 p.1 s)
      (setSec (fun x => { x with nonce := some (ofBytes (ws.flatMap (toBytes 4))) }) (drewN 8 s1))))) ∧
  (∀ st, s1 = mbxTaken 0x0C s → (rdb SEC_STATUS_CONFIDENTIAL 0 s1 || rdb SEC_STATUS_CONF_PENDING 0 s1) = false → tokenStatus 1 s1 = st →
    tokenField 6 1 s1 = 1 → exec (.debugGrant none) s = .next (if st = .ok then mbxEnd 0x0C .ok 1 (dropToken s1
        |> wr LC_DEBUG_LEVEL 0 1 |> wr LC_DEBUG_SOURCE 0 2 |> bumpSat LC_COUNT_DEBUG_GRANTS 0 1)
      else mbxEnd 0x0C st 0 (setSec (fun x => { x with token := [] }) (bumpSat LC_COUNT_TOKEN_FAIL 0 1 s1)))) ∧
  (s1 = mbxTaken 0x0D s → exec (.debugRevoke none) s = .next (mbxEnd 0x0D .ok (rd LC_DEBUG_LEVEL 0 (stateLevel s1)) (stateLevel s1)))

/-- For the six commands that the board management controller may send: while one of its commands runs, another changes nothing
(the model's reading, log entry 89); in the FIPS error state and in a life-cycle state that does not accept it, it ends
REFUSED. Otherwise TOKEN_LOAD stores its bytes and ends with the count held; CHALLENGE gives eight words that are free values;
TRANSITION to a target other than 1 and 3 programs its fuses when the token is good and otherwise counts the failure;
DEBUG_REVOKE returns to the level of the state. A command ends with a mailbox output. (R411, R413, R415, R417, R420) -/
def Obligations.BoardControllerCommands : Prop := ∀ (s : State) (ws : List Nat) (c : Instr) (op : Nat) (l : List Nat), s.power.stopped = false →
  ((c, op, l) ∈ bmcCommands ws s → s.sec.bmcBusy = true → exec c s = .next s) ∧
  ((c, op, l) ∈ bmcCommands ws s → s.sec.bmcBusy = false → rdb SEC_STATUS_FIPS_ERROR 0 s = true → exec c s = .next (bmcEnd op .refused [0] (bmcTaken s))) ∧
  ((c, op, l) ∈ bmcCommands ws s → s.sec.bmcBusy = false → lifeState s ∉ l → exec c s = .next (bmcEnd op .refused [0] (bmcTaken s))) ∧
  (∀ off len t, s.sec.bmcBusy = false → rdb SEC_STATUS_FIPS_ERROR 0 s = false → lifeState s ≠ 4 → lifeState s < 6 →
    off = slice (nth 0 ws 0 % 2 ^ 32) 0 14 → len = slice (nth 0 ws 0 % 2 ^ 32) 14 12 → 0 < len → len ≤ 4092 → off + len ≤ 9510 →
    t = setSec (fun x => { x with token := (cmdBytes (some ws) 1 len (bmcTaken s)).zipIdx.foldl (fun m p => put (off + p.2) p.1 m) x.token }) (bmcTaken s) →
    exec (.lcTokenLoad (some ws)) s = .next (bmcEnd 0x09 .ok [t.sec.token.length] t)) ∧
  (∀ rs, s.sec.bmcBusy = false → rdb SEC_STATUS_FIPS_ERROR 0 s = false → lifeState s = 1 ∨ lifeState s = 2 →
    rs = (List.range 8).map (fun i => wrap 32 (Config.freeValue (s.freeCtr + i)).toNat) →
    exec (.lcChallenge (some ws)) s = .next (bmcEnd 0x0B .ok (0 :: rs)
      (setSec (fun x => { x with nonce := some (ofBytes (rs.flatMap (toBytes 4))) }) (drewN 8 (bmcTaken s))))) ∧
  (∀ st t, s.sec.bmcBusy = false → rdb SEC_STATUS_FIPS_ERROR 0 s = false → lifeState s < 4 → tokenStatus 0 (bmcTaken s) = st →
    t = tokenField 6 1 (bmcTaken s) → t ≠ 1 → t ≠ 3 → exec (.lcTransition (some ws)) s =
      .next (if st = .ok then program { bits := transitionBits t (bmcTaken s), due := now16 s + us16 50, target := some t, bmc := true } (dropToken (bmcTaken s))
        else bmcEnd 0x0A st [0] (dropToken (bumpSat LC_COUNT_TOKEN_FAIL 0 1 (bmcTaken s))))) ∧
  (s.sec.bmcBusy = false → rdb SEC_STATUS_FIPS_ERROR 0 s = false → lifeState s < 4 →
    exec (.debugRevoke (some ws)) s = .next (bmcEnd 0x0D .ok [rd LC_DEBUG_LEVEL 0 (stateLevel (bmcTaken s))] (stateLevel (bmcTaken s))))

/-- CFG_READ answers bytes of the bank in use; CFG_WRITE and IMAGE_LOAD assemble bytes; RTP_RESET starts once. FW_STAGE stages an
image whose lines are claimed and whose check gives OK, and completes with the status otherwise; FW_BROADCAST sends every
chunk of a READY staging image to a valid group; FW_STATUS completes with the number of hubs heard; missing chunks are asked
for again after 5 ms, at most nine tries. (R430, R440, R441, R464) -/
def Obligations.ConfigurationAndFirmware : Prop :=
  (∀ (s s1 : State) (w off len : Nat), mbxOpen [0, 1, 2, 3] s →
   off = slice w 0 18 → len = slice w 18 12 → 0 < len → len ≤ 4092 → off + len ≤ 262080 →
   (∀ b data, s1 = mbxTaken 0x10 s → w = cmdWord none 0 s1 → w < 2 ^ 30 → bankUsed s1 = some b → data = ((b.body.take b.len).drop off).take len →
     exec .cfgRead s = .next (mbxEnd 0x10 .ok data.length (forEach ((List.range ((data.length + 3) / 4)).map
       (fun i => ofBytes ((data.drop (4 * i)).take 4))).zipIdx (fun p s => wr MBX_DATA_DATA (p.2 + 1) p.1 s) s1))) ∧
   (∀ s2, s1 = mbxTaken 0x11 s → w = cmdWord none 0 s1 → w < 2 ^ 30 → rdb SEC_STATUS_CONFIDENTIAL 0 s1 = false →
     (pwrState s1 == 3 || s1.power.entry.any (fun e => e.target == 3)) = false →
     s2 = setBoot (fun x => { x with cfgBuf := (cmdBytes none 1 len s1).zipIdx.foldl (fun m p => put (off + p.2) p.1 m) x.cfgBuf }) s1 →
     exec .cfgWrite s = .next (mbxEnd 0x11 .ok (wrap 16 (cfgBody s2).length) s2)) ∧
   (∀ t n s2, s1 = mbxTaken 0x12 s → cmdWord none 0 s1 < 2 ^ 27 → cmdWord none 1 s1 < 2 ^ 14 → n = slice (cmdWord none 1 s1) 0 12 → 0 < n → n ≤ 4088 →
     t = slice (cmdWord none 1 s1) 12 2 → 0 < t →
     s2 = setBoot (fun x => { x with imgFor := t, imgBuf := (cmdBytes none 2 n s1).zipIdx.foldl (fun m p => put (cmdWord none 0 s1 + p.2) p.1 m)
                                                              (if x.imgFor = t then x.imgBuf else []) }) s1 →
     exec .imageLoad s = .next (mbxEnd 0x12 .ok (wrap 16 s2.boot.imgBuf.length) s2)) ∧
   (s.sec.rtpAt = none → exec .rtpReset s = .next (startRtpReset s)) ∧
   (s.sec.rtpAt.isSome = true → exec .rtpReset s = .next s)) ∧
  (∀ (s s1 : State) (g k t : Nat) (d : Desc), s.power.stopped = false →
   (∀ l b st, serviceDesc g k 0x07 s = some d → rdb PWR_STATUS_STRETCH 0 s = false → claimed (d.word 3) (d.word 4) false s = true →
     homeGet (.agent 0) (d.word 3) (d.word 4) s = (.ok, l, s1) → b = { man := l.take (manBytes l), img := l.drop (manBytes l) } →
     b.img.length = manLength b.man → stageStatus b s1 = st →
     exec (.fwStage g k) s = .next (if st = .ok then completeDesc g k .ok (manVersion b.man) 0 0 (stageImage (manField b.man 2 1) b s1)
       else completeDesc g k st 0 0 0 s1)) ∧
   (serviceDesc g k 0x08 s = some d → t = slice (d.word 2) 8 2 → t ≠ 0 → rd FW_STAGE_STATE (t - 1) s = 2 →
     rdb MC_GROUP_VALID (slice (d.word 2) 16 8) s = true →
     s1 = setBoot (fun y => { y with nextTransfer := wrap 16 (s.boot.nextTransfer + 1), sent := y.sent ++ [{ target := t, transfer := s.boot.nextTransfer }] }) s →
     exec (.fwBroadcast g k) s = .next (completeDesc g k .ok s.boot.nextTransfer 0 0
       (forEach (List.range (manChunks (stagingBank t s).man)) (fun i s' => sendChunk (slice (d.word 2) 16 8) t s.boot.nextTransfer false i (imageChunk (stagingBank t s).img i) s')
         (forEach (List.range (manChunkCount (stagingBank t s).man)) (fun i s' => sendChunk (slice (d.word 2) 16 8) t s.boot.nextTransfer true i (imageChunk (stagingBank t s).man i) s') s1)))) ∧
   (∀ x, serviceDesc g k 0x09 s = some d → t = slice (d.word 2) 8 2 → t ≠ 0 →
     s.boot.sent.find? (fun x => x.target == t && x.transfer == d.word 3) = some x →
     exec (.fwStatus g k) s = .next (completeDesc g k .ok x.hubs.length 0 0 s)) ∧
   (serviceDesc g k 0x09 s = some d → t = slice (d.word 2) 8 2 → t ≠ 0 →
     s.boot.sent.find? (fun x => x.target == t && x.transfer == d.word 3) = none → exec (.fwStatus g k) s = .next (completeDesc g k .ok 0 0 0 s)) ∧
   (serviceDesc g k 0x07 s = some d → rdb PWR_STATUS_STRETCH 0 s = false → claimed (d.word 3) (d.word 4) false s = false →
     exec (.fwStage g k) s = .next (claim (.agent 0) (d.word 3) (d.word 4) false s)) ∧
   (∀ x, look s.boot.xfers t = some x → x.lastAt + us16 5000 ≤ now16 s → 9 ≤ x.tries →
     exec (.fwChunkTimeout t) s = .next (dropXfer t (wr FW_STAGE_STATE (t - 1) 3 s))) ∧
   (∀ x m, look s.boot.xfers t = some x → x.lastAt + us16 5000 ≤ now16 s → x.tries < 9 → gotManifest { x with lastAt := now16 s, tries := x.tries + 1 } = some m →
     gotManifest x = some m → exec (.fwChunkTimeout t) s = .next (forEach (missingChunks x m) (fun i s => askChunk x.origin t x.transfer false i s)
       (setXfer t { x with lastAt := now16 s, tries := x.tries + 1 } s))))

/-- SOFT_RESET resets the hub unless bring-up runs; PERST# low resets it as WARM outside a COLD bring-up and its release begins
bring-up. BRINGUP_COMPLETE does the work of bring-up and, if the hub may be READY, sets it; in the SCRAPPED and LOCKED life-
cycle states it only brings up the link (log entry 108). (R324, R394, R410, R424, R425, R433, R435) -/
def Obligations.ResetsAndBringUp : Prop := ∀ (s : State), s.power.stopped = false →
  (s.boot.bring.isSome = true → exec .softReset s = .next s) ∧
  (s.boot.bring = none → exec .softReset s = .next (hubReset 2 s)) ∧
  (s.boot.perst = false → (∀ x, s.boot.bring ≠ some (0, x)) →
    exec (.warmReset false) s = .next (setBoot (fun x => { x with perst := true }) (hubReset 1 s))) ∧
  (s.boot.perst = true → exec (.warmReset false) s = .next s) ∧
  (s.boot.perst = true → exec (.warmReset true) s = .next (setBoot (fun x => { x with perst := false, bring := some (1, now16 s) }) s)) ∧
  (∀ f cls since, s.boot.bring = some (cls, since) → s.boot.perst = false → s.sec.burns = [] → s.sec.rtpAt = none → s.life.state < 4 →
    exec (.bringupComplete f) s = .next (if mayReady (bringUpWork cls since f s) then setReady (bringUpWork cls since f s)
      else bringUpWork cls since f s)) ∧
  (∀ f cls since, s.boot.bring = some (cls, since) → s.boot.perst = false → s.sec.burns = [] → s.sec.rtpAt = none → 4 ≤ s.life.state →
    exec (.bringupComplete f) s = .next (setLink f.link (hostUp (coldSelftest cls f.selftest s))))

/-- From every state and for every flash operand, COLD_RESET answers a state whose ruling, calendar, rings, translation, host,
sites, memory, coherence, Syrel, engines, sessions, attention, counters, mesh, power, timers, log and latches are as after
reset; whose life-cycle state is decoded from the fuse bits; with the flash given or kept; whose outputs gain the site resets
low and the three released pins; and HUB_GLOBAL.READY 0. (R424, R497) -/
def Obligations.ColdReset : Prop := ∀ (s : State) (fl : Option Flash), ∃ t, exec (.coldReset fl) s = .next t ∧
  t.fuses = s.fuses ∧ t.life = { s.life with prog := [], state := decodeLife { s.life with prog := [] }, compat := groupRead s.life.lcc == 1, lcbRead := s.life.lcb, stuck := false } ∧
  t.boot = { flash := fl.getD s.boot.flash } ∧ t.pending = s.pending ∧ t.freeCtr = s.freeCtr ∧
  t.ruling = {} ∧ t.cal = {} ∧ t.rings = {} ∧ t.xlat = {} ∧ t.host = {} ∧ t.sites = State.reset.sites ∧ t.mem = {} ∧ t.coh = {} ∧ t.syr = {} ∧
  t.grv = [] ∧ t.ses = {} ∧ t.attn = {} ∧ t.cnt = {} ∧ t.mesh = {} ∧ t.power = {} ∧ t.timers = {} ∧ t.log = [] ∧ t.latches = [] ∧
  t.out = s.out ++ (List.range (chipSites s)).map (fun j => { kind := .pin, dest := j, args := [1, 0] }) ++ [{ kind := .pin, dest := 0, args := [2, 1] }, { kind := .pin, dest := 1, args := [2, 1] }, { kind := .pin, dest := 2, args := [2, 1] }] ∧
  rd HUB_GLOBAL_READY 0 t = 0
end

