-- ==== Sys2Proof/Laws/Keeps.lean ====
section
/-! SUPPORT. Sys2Proof/Laws/Keeps.lean: what every operation of the hub keeps: the relation `Keeps`, and that the
operations which touch its parts directly keep it. The files Laws/Keeps*.lean say it once for every other operation. -/

namespace Sys2Proof.Machine

open Sys2Proof

/-- `s` is what an operation of the hub may make of `a`: the fuses, the queue and the life-cycle state in force are the same, the
ruling position has not fallen, no free value is drawn again, what was sent and logged stays so, and the register store and the
memory are in canonical form if they were. -/
structure Keeps (a s : State) : Prop where
  fuses : s.fuses = a.fuses
  pending : s.pending = a.pending
  lc : s.life.state = a.life.state
  compat : s.life.compat = a.life.compat
  pos : a.ruling.pos ≤ s.ruling.pos
  ever : a.ruling.everSet = true → s.ruling.everSet = true
  free : a.freeCtr ≤ s.freeCtr
  out : a.out <+: s.out
  log : a.log <+: s.log
  regs : sortedKeys a.regs = true → sortedKeys s.regs = true
  mem : a.mem.wf → s.mem.wf

/-! ## Maps -/

/-- Every key of `m` is above `k`. -/
abbrev Above (k : Nat) (m : SMap α) : Prop := ∀ p ∈ m, k < p.1

theorem sorted_cons {k : Nat} {v : α} {m : SMap α} : sortedKeys ((k, v) :: m) = true ↔ Above k m ∧ sortedKeys m = true := by
  induction m generalizing k v with
  | nil => simp [sortedKeys, Above]
  | cons q t ih =>
    obtain ⟨j, b⟩ := q
    constructor
    · intro h
      have hj : k < j := by simp [sortedKeys] at h; exact h.1
      have ht : sortedKeys ((j, b) :: t) = true := by simp [sortedKeys] at h; exact h.2
      refine ⟨fun p hp => ?_, ht⟩
      cases hp with
      | head => exact hj
      | tail _ hp => exact Nat.lt_trans hj ((ih.1 ht).1 p hp)
    · intro h
      simp only [sortedKeys, Bool.and_eq_true, decide_eq_true_eq]
      exact ⟨h.1 _ (List.mem_cons_self ..), h.2⟩

theorem mem_put {k : Nat} {v : α} {m : SMap α} {p : Nat × α} (h : p ∈ put k v m) : p = (k, v) ∨ p ∈ m := by
  induction m with
  | nil => simpa [put] using h
  | cons q t ih =>
    obtain ⟨j, b⟩ := q
    simp only [put] at h
    split at h
    · cases h with
      | head => exact .inl rfl
      | tail _ h => exact .inr h
    · split at h
      · cases h with
        | head => exact .inl rfl
        | tail _ h => exact .inr (List.mem_cons_of_mem _ h)
      · cases h with
        | head => exact .inr (List.mem_cons_self ..)
        | tail _ h => exact (ih h).imp id (List.mem_cons_of_mem _)

theorem sorted_put {k : Nat} {v : α} {m : SMap α} (h : sortedKeys m = true) : sortedKeys (put k v m) = true := by
  induction m with
  | nil => rfl
  | cons q t ih =>
    obtain ⟨j, b⟩ := q
    have hq := sorted_cons.1 h
    simp only [put]
    split
    · rename_i hk
      refine sorted_cons.2 ⟨fun p hp => ?_, h⟩
      cases hp with
      | head => exact hk
      | tail _ hp => exact Nat.lt_trans hk (hq.1 p hp)
    · split
      · rename_i hk; subst hk; exact sorted_cons.2 hq
      · rename_i hk hne
        refine sorted_cons.2 ⟨fun p hp => ?_, ih hq.2⟩
        rcases mem_put hp with rfl | hp
        · omega
        · exact hq.1 p hp

theorem sorted_filter {m : SMap α} (f : Nat × α → Bool) (h : sortedKeys m = true) : sortedKeys (m.filter f) = true := by
  induction m with
  | nil => rfl
  | cons q t ih =>
    obtain ⟨j, b⟩ := q
    have hq := sorted_cons.1 h
    simp only [List.filter]
    split
    · exact sorted_cons.2 ⟨fun p hp => hq.1 p (List.mem_filter.1 hp).1, ih hq.2⟩
    · exact ih hq.2

theorem sorted_del {k : Nat} {m : SMap α} (h : sortedKeys m = true) : sortedKeys (del k m) = true := sorted_filter _ h

/-! ## Working with `Keeps` -/

variable {a s t : State}

theorem Keeps.refl (s : State) : Keeps s s :=
  ⟨rfl, rfl, rfl, rfl, Nat.le_refl _, id, Nat.le_refl _, List.prefix_refl _, List.prefix_refl _, id, id⟩

theorem Keeps.trans {b : State} (h : Keeps a b) (g : Keeps b s) : Keeps a s :=
  ⟨g.fuses.trans h.fuses, g.pending.trans h.pending, g.lc.trans h.lc, g.compat.trans h.compat, Nat.le_trans h.pos g.pos,
    fun x => g.ever (h.ever x), Nat.le_trans h.free g.free, h.out.trans g.out, h.log.trans g.log, fun x => g.regs (h.regs x),
    fun x => g.mem (h.mem x)⟩

/-- A change of other parts of the state. -/
theorem Keeps.same (h : Keeps a s) (h1 : t.fuses = s.fuses) (h2 : t.pending = s.pending) (h3 : t.life = s.life)
    (h4 : t.ruling = s.ruling) (h5 : t.freeCtr = s.freeCtr) (h6 : t.out = s.out) (h7 : t.log = s.log) (h8 : t.regs = s.regs)
    (h9 : t.mem = s.mem) : Keeps a t :=
  h.trans ⟨h1, h2, by rw [h3], by rw [h3], by simp [h4], by rw [h4]; exact id, by simp [h5],
    by simp [h6], by simp [h7], by rw [h8]; exact id, by rw [h9]; exact id⟩

theorem keeps_ite {c : Prop} [Decidable c] {x y : State} (h : Keeps a x) (g : Keeps a y) : Keeps a (if c then x else y) := by
  split
  · exact h
  · exact g

theorem keeps_ite_snd {c : Prop} [Decidable c] {x y : α × State} (h : Keeps a x.2) (g : Keeps a y.2) :
    Keeps a (if c then x else y).2 := by
  split
  · exact h
  · exact g

theorem keeps_ite_snd2 {c : Prop} [Decidable c] {x y : α × β × State} (h : Keeps a x.2.2) (g : Keeps a y.2.2) :
    Keeps a (if c then x else y).2.2 := by
  split
  · exact h
  · exact g

theorem keeps_mk {x : α} {y : State} (h : Keeps a y) : Keeps a (x, y).2 := h

theorem keeps_mk2 {x : α} {y : β} {z : State} (h : Keeps a z) : Keeps a (x, y, z).2.2 := h

theorem keeps_mk_snd {x : α} {y : β × State} (h : Keeps a y.2) : Keeps a (x, y).2.2 := h

theorem forEach_keeps {l : List β} {f : β → State → State} (hf : ∀ b t, Keeps a t → Keeps a (f b t)) (h : Keeps a s) :
    Keeps a (forEach l f s) := by
  unfold forEach
  induction l generalizing s with
  | nil => exact h
  | cons b l ih => exact ih (hf b s h)

theorem foldl_keeps {l : List β} {f : State → β → State} {s : State} (hf : ∀ t b, Keeps a t → Keeps a (f t b)) (h : Keeps a s) :
    Keeps a (l.foldl f s) := by
  induction l generalizing s with
  | nil => exact h
  | cons b l ih => exact ih (hf s b h)

theorem foldl_keeps_snd {l : List β} {f : α × State → β → α × State} {x : α × State}
    (hf : ∀ y b, Keeps a y.2 → Keeps a (f y b).2) (h : Keeps a x.2) : Keeps a (l.foldl f x).2 := by
  induction l generalizing x with
  | nil => exact h
  | cons b l ih => exact ih (hf x b h)

theorem foldl_keeps_snd2 {l : List γ} {f : α × β × State → γ → α × β × State} {x : α × β × State}
    (hf : ∀ y b, Keeps a y.2.2 → Keeps a (f y b).2.2) (h : Keeps a x.2.2) : Keeps a (l.foldl f x).2.2 := by
  induction l generalizing x with
  | nil => exact h
  | cons b l ih => exact ih (hf x b h)

/-! ## The operations that touch a part of `Keeps` -/

theorem wr_keeps (f : Fld) (i v : Nat) (h : Keeps a s) : Keeps a (wr f i v s) := by
  refine h.trans { Keeps.refl s with regs := fun g => ?_ }
  simp only [wr]
  split
  · exact sorted_del g
  · exact sorted_put g

theorem rst_keeps (f : Fld) (i : Nat) (h : Keeps a s) : Keeps a (rst f i s) :=
  h.trans { Keeps.refl s with regs := sorted_del }

theorem resetWhere_keeps (p : Fld → Nat → Bool) (h : Keeps a s) : Keeps a (resetWhere p s) :=
  h.trans { Keeps.refl s with regs := sorted_filter _ }

theorem emit_keeps (o : Out) (h : Keeps a s) : Keeps a (emit o s) :=
  h.trans { Keeps.refl s with out := List.prefix_append _ _ }

theorem logRec_keeps (k : LogKind) (l : List Nat) (h : Keeps a s) : Keeps a (logRec k l s) :=
  h.trans { Keeps.refl s with log := List.prefix_append _ _ }

theorem drew_keeps (h : Keeps a s) : Keeps a (drew s) := h.trans { Keeps.refl s with free := Nat.le_add_right _ _ }

theorem drewN_keeps (n : Nat) (h : Keeps a s) : Keeps a (drewN n s) := h.trans { Keeps.refl s with free := Nat.le_add_right _ _ }

theorem setMem_keeps {f : Mem → Mem} (hf : ∀ m, (f m).bytes = m.bytes ∧ (f m).junk = m.junk) (h : Keeps a s) :
    Keeps a (setMem f s) := by
  refine h.trans { Keeps.refl s with mem := fun g => ?_ }
  have hb := (hf s.mem).1
  have hj := (hf s.mem).2
  simp only [setMem, Mem.wf, unlistedByte, hb, hj] at g ⊢
  exact g

end Sys2Proof.Machine
end

