-- ==== Sys2Proof/Laws/KeepsOps.lean ====
section
/-! SUPPORT. Sys2Proof/Laws/KeepsOps.lean: every operation of Machine/Ops.lean keeps what `Keeps` says. -/

namespace Sys2Proof.Machine

open Sys2Proof

theorem bumpSat_keeps {a : State} (f : Fld) (i : Nat) (n : Nat) {s : State} (hs : Keeps a s) :
    Keeps a (bumpSat f i n s) := by
  unfold bumpSat
  apply wr_keeps
  exact hs

theorem bump_keeps {a : State} (f : Fld) (i : Nat) (n : Nat) {s : State} (hs : Keeps a s) :
    Keeps a (bump f i n s) := by
  unfold bump
  apply wr_keeps
  exact hs

theorem setB_keeps {a : State} (f : Fld) (i : Nat) {s : State} (hs : Keeps a s) :
    Keeps a (setB f i s) := by
  unfold setB
  apply wr_keeps
  exact hs

theorem clrB_keeps {a : State} (f : Fld) (i : Nat) {s : State} (hs : Keeps a s) :
    Keeps a (clrB f i s) := by
  unfold clrB
  apply wr_keeps
  exact hs

theorem wrb_keeps {a : State} (f : Fld) (i : Nat) (b : Bool) {s : State} (hs : Keeps a s) :
    Keeps a (wrb f i b s) := by
  unfold wrb
  apply wr_keeps
  exact hs

theorem setFnCfg_keeps {a : State} (n : Nat) (f : FnCfg → FnCfg) {s : State} (hs : Keeps a s) :
    Keeps a (setFnCfg n f s) := by
  unfold setFnCfg
  refine Keeps.same (s := s) ?_ rfl rfl rfl rfl rfl rfl rfl rfl rfl
  exact hs

theorem setPower_keeps {a : State} (f : Power → Power) {s : State} (hs : Keeps a s) :
    Keeps a (setPower f s) := by
  unfold setPower
  refine Keeps.same (s := s) ?_ rfl rfl rfl rfl rfl rfl rfl rfl rfl
  exact hs

theorem noteWake_keeps {a : State} (code : Nat) (idx : Nat) {s : State} (hs : Keeps a s) :
    Keeps a (noteWake code idx s) := by
  unfold noteWake
  refine keeps_ite ?_ ?_
  · apply setPower_keeps
    exact hs
  · exact hs

theorem clocked_keeps {a : State} (f : State → State) {s : State} (hf : ∀ y0, Keeps a y0 → Keeps a (f y0)) (hs : Keeps a s) :
    Keeps a (clocked f s) := by
  unfold clocked
  refine keeps_ite ?_ ?_
  · exact hs
  · apply hf
    exact hs

end Sys2Proof.Machine
end

