-- ==== Sys2Proof/Laws/KeepsCount.lean ====
section
/-! SUPPORT. Sys2Proof/Laws/KeepsCount.lean: every operation of Machine/Count.lean keeps what `Keeps` says. -/

namespace Sys2Proof.Machine

open Sys2Proof

theorem cntAdd_keeps {a : State} (u : Nat) (k : Nat) (n : Nat) (own : Bool) {s : State} (hs : Keeps a s) :
    Keeps a (cntAdd u k n own s) := by
  unfold cntAdd
  extract_lets +onlyGivenNames -underBinder s0
  clear_value s0
  extract_lets +onlyGivenNames -underBinder s1
  have h2 : Keeps a s1 := by
    unfold s1
    apply wr_keeps
    exact hs
  clear_value s1
  refine keeps_ite ?_ ?_
  · refine Keeps.same (s := s1) ?_ rfl rfl rfl rfl rfl rfl rfl rfl rfl
    exact h2
  · exact h2

theorem cntHit_keeps {a : State} (u : Nat) (k : Nat) (n : Nat) {s : State} (hs : Keeps a s) :
    Keeps a (cntHit u k n s) := by
  unfold cntHit
  extract_lets +onlyGivenNames -underBinder s0
  clear_value s0
  extract_lets +onlyGivenNames -underBinder s1
  clear_value s1
  extract_lets +onlyGivenNames -underBinder s2
  have h3 : Keeps a s2 := by
    unfold s2
    apply cntAdd_keeps
    exact hs
  clear_value s2
  refine keeps_ite ?_ ?_
  · apply cntAdd_keeps
    exact h3
  · exact h3

theorem count_keeps {a : State} (u : Nat) (ev : Nat) (fn : Option Nat) (n : Nat) {s : State} (hs : Keeps a s) :
    Keeps a (count u ev fn n s) := by
  unfold count
  refine keeps_ite ?_ ?_
  · exact hs
  · apply forEach_keeps
    · intro x0 x1 x2
      refine keeps_ite ?_ ?_
      · apply cntHit_keeps
        exact x2
      · exact x2
    · exact hs

theorem addCycles_keeps {a : State} (u : Nat) (q : Nat) {s : State} (hs : Keeps a s) :
    Keeps a (addCycles u q s) := by
  unfold addCycles
  refine keeps_ite ?_ ?_
  · exact hs
  · refine Keeps.same (s := s) ?_ rfl rfl rfl rfl rfl rfl rfl rfl rfl
    exact hs

theorem countTile_keeps {a : State} (t : Nat) (ev : Nat) (fn : Nat) (n : Nat) {s : State} (hs : Keeps a s) :
    Keeps a (countTile t ev fn n s) := by
  unfold countTile
  extract_lets +onlyGivenNames -underBinder s0
  have h1 : Keeps a s0 := by
    unfold s0
    refine keeps_ite ?_ ?_
    · apply setPower_keeps
      exact hs
    · refine keeps_ite ?_ ?_
      · apply setPower_keeps
        exact hs
      · exact hs
  clear_value s0
  apply count_keeps
  exact h1

end Sys2Proof.Machine
end

