-- ==== Sys2Proof/Laws/KeepsRecords.lean ====
section
/-! SUPPORT. Sys2Proof/Laws/KeepsRecords.lean: every operation of Machine/Records.lean keeps what `Keeps` says. -/

namespace Sys2Proof.Machine

open Sys2Proof

theorem hostErr_keeps {a : State} (kind : Nat) (fn : Nat) (bar : Nat) (off : Nat) {s : State} (hs : Keeps a s) :
    Keeps a (hostErr kind fn bar off s) := by
  unfold hostErr
  refine keeps_ite ?_ ?_
  · exact hs
  · apply wr_keeps
    apply wr_keeps
    apply wr_keeps
    apply wr_keeps
    apply setB_keeps
    exact hs

theorem tmoLog_keeps {a : State} (cls : Nat) (port : Nat) (tag : Nat) (fn : Nat) {s : State} (hs : Keeps a s) :
    Keeps a (tmoLog cls port tag fn s) := by
  unfold tmoLog
  refine keeps_ite ?_ ?_
  · exact hs
  · apply wr_keeps
    apply wr_keeps
    apply wr_keeps
    apply wr_keeps
    apply wr_keeps
    apply setB_keeps
    exact hs

theorem trnLog_keeps {a : State} (kind : Nat) (fn : Nat) (pasid : Nat) (page : Nat) {s : State} (hs : Keeps a s) :
    Keeps a (trnLog kind fn pasid page s) := by
  unfold trnLog
  refine keeps_ite ?_ ?_
  · exact hs
  · apply wr_keeps
    apply wr_keeps
    apply wr_keeps
    apply wr_keeps
    apply wr_keeps
    apply wr_keeps
    apply setB_keeps
    exact hs

theorem noteRefused_keeps {a : State} (fn : Nat) (pasid : Nat) (va : Nat) {s : State} (hs : Keeps a s) :
    Keeps a (noteRefused fn pasid va s) := by
  unfold noteRefused
  apply trnLog_keeps
  apply bumpSat_keeps
  exact hs

theorem noteAnswer_keeps {a : State} (z0 : Answer) (fn : Nat) (pasid : Nat) (va : Nat) {s : State} (hs : Keeps a s) :
    Keeps a (noteAnswer z0 fn pasid va s) := by
  unfold noteAnswer
  split
  · apply noteRefused_keeps
    exact hs
  · exact hs

theorem reportAer_keeps {a : State} (fn : Nat) (code : Nat) {s : State} (hs : Keeps a s) :
    Keeps a (reportAer fn code s) := by
  unfold reportAer
  refine Keeps.same (s := s) ?_ rfl rfl rfl rfl rfl rfl rfl rfl rfl
  exact hs

theorem poisonedTlp_keeps {a : State} (fn : Nat) (bar : Nat) (off : Nat) {s : State} (hs : Keeps a s) :
    Keeps a (poisonedTlp fn bar off s) := by
  unfold poisonedTlp
  apply reportAer_keeps
  apply hostErr_keeps
  apply bumpSat_keeps
  exact hs

theorem reuseTag_keeps {a : State} (t : Nat) {s : State} (hs : Keeps a s) :
    Keeps a (reuseTag t s) := by
  unfold reuseTag
  refine Keeps.same (s := s) ?_ rfl rfl rfl rfl rfl rfl rfl rfl rfl
  exact hs

theorem startReq_keeps {a : State} (t : Nat) (z1 : HeldReq) {s : State} (hs : Keeps a s) :
    Keeps a (startReq t z1 s) := by
  unfold startReq
  extract_lets +onlyGivenNames -underBinder s0
  have h1 : Keeps a s0 := by
    unfold s0
    refine keeps_ite ?_ ?_
    · apply reuseTag_keeps
      exact hs
    · exact hs
  clear_value s0
  refine Keeps.same (s := s0) ?_ rfl rfl rfl rfl rfl rfl rfl rfl rfl
  exact h1

theorem sendReq_keeps {a : State} (z0 : HeldReq) {s : State} (hs : Keeps a s) :
    Keeps a (sendReq z0 s) := by
  unfold sendReq
  split
  · refine Keeps.same (s := s) ?_ rfl rfl rfl rfl rfl rfl rfl rfl rfl
    exact hs
  · apply emit_keeps
    apply startReq_keeps
    exact hs

theorem hostReq_keeps {a : State} (z0 : HeldReq) {s : State} (hs : Keeps a s) :
    Keeps a (hostReq z0 s) := by
  unfold hostReq
  refine keeps_ite ?_ ?_
  · apply sendReq_keeps
    exact hs
  · refine Keeps.same (s := s) ?_ rfl rfl rfl rfl rfl rfl rfl rfl rfl
    exact hs

theorem retireReq_keeps {a : State} (r : Req) {s : State} (hs : Keeps a s) :
    Keeps a (retireReq r s) := by
  unfold retireReq
  refine Keeps.same (s := s) ?_ rfl rfl rfl rfl rfl rfl rfl rfl rfl
  exact hs

theorem retireFor_keeps {a : State} (p : Purpose) {s : State} (hs : Keeps a s) :
    Keeps a (retireFor p s) := by
  unfold retireFor
  refine Keeps.same (s := s) ?_ rfl rfl rfl rfl rfl rfl rfl rfl rfl
  exact hs

theorem entomb_keeps {a : State} (r : Req) {s : State} (hs : Keeps a s) :
    Keeps a (entomb r s) := by
  unfold entomb
  extract_lets +onlyGivenNames -underBinder s0
  have h1 : Keeps a s0 := by
    unfold s0
    apply retireReq_keeps
    exact hs
  clear_value s0
  refine Keeps.same (s := s0) ?_ rfl rfl rfl rfl rfl rfl rfl rfl rfl
  exact h1

theorem pauseReqs_keeps {a : State} (p : Req → Bool) {s : State} (hs : Keeps a s) :
    Keeps a (pauseReqs p s) := by
  unfold pauseReqs
  refine Keeps.same (s := s) ?_ rfl rfl rfl rfl rfl rfl rfl rfl rfl
  exact hs

theorem resumeReqs_keeps {a : State} (p : Req → Bool) {s : State} (hs : Keeps a s) :
    Keeps a (resumeReqs p s) := by
  unfold resumeReqs
  refine Keeps.same (s := s) ?_ rfl rfl rfl rfl rfl rfl rfl rfl rfl
  exact hs

theorem sendMsix_keeps {a : State} (n : Nat) (v : Nat) {s : State} (hs : Keeps a s) :
    Keeps a (sendMsix n v s) := by
  unfold sendMsix
  extract_lets +onlyGivenNames -underBinder s0
  clear_value s0
  refine keeps_ite ?_ ?_
  · exact hs
  · refine keeps_ite ?_ ?_
    · refine Keeps.same (s := s) ?_ rfl rfl rfl rfl rfl rfl rfl rfl rfl
      exact hs
    · refine keeps_ite ?_ ?_
      · refine Keeps.same (s := s) ?_ rfl rfl rfl rfl rfl rfl rfl rfl rfl
        exact hs
      · apply emit_keeps
        exact hs

theorem setRt_keeps {a : State} (g : Nat) (f : RingRt → RingRt) {s : State} (hs : Keeps a s) :
    Keeps a (setRt g f s) := by
  unfold setRt
  refine Keeps.same (s := s) ?_ rfl rfl rfl rfl rfl rfl rfl rfl rfl
  exact hs

theorem signalRing_keeps {a : State} (g : Nat) {s : State} (hs : Keeps a s) :
    Keeps a (signalRing g s) := by
  unfold signalRing
  apply sendMsix_keeps
  apply setRt_keeps
  exact hs

theorem recordVisible_keeps {a : State} (g : Nat) (now : Bool) {s : State} (hs : Keeps a s) :
    Keeps a (recordVisible g now s) := by
  unfold recordVisible
  refine keeps_ite ?_ ?_
  · exact hs
  · extract_lets +onlyGivenNames -underBinder s0
    have h1 : Keeps a s0 := by
      unfold s0
      apply setRt_keeps
      exact hs
    clear_value s0
    refine keeps_ite ?_ ?_
    · apply signalRing_keeps
      exact h1
    · exact h1

theorem fillShared_keeps {a : State} (e : XEntry) {s : State} (hs : Keeps a s) :
    Keeps a (fillShared e s) := by
  unfold fillShared
  extract_lets +onlyGivenNames -underBinder s0
  clear_value s0
  refine Keeps.same (s := s) ?_ rfl rfl rfl rfl rfl rfl rfl rfl rfl
  exact hs

theorem fillTile_keeps {a : State} (t : Nat) (e : XEntry) {s : State} (hs : Keeps a s) :
    Keeps a (fillTile t e s) := by
  unfold fillTile
  extract_lets +onlyGivenNames -underBinder s0
  clear_value s0
  refine Keeps.same (s := s) ?_ rfl rfl rfl rfl rfl rfl rfl rfl rfl
  exact hs

theorem xTouch_keeps {a : State} (e : XEntry) (t : Nat) {s : State} (hs : Keeps a s) :
    Keeps a (xTouch e t s) := by
  unfold xTouch
  extract_lets +onlyGivenNames -underBinder s0
  clear_value s0
  extract_lets +onlyGivenNames -underBinder s1
  have h2 : Keeps a s1 := by
    unfold s1
    refine keeps_ite ?_ ?_
    · apply count_keeps
      exact hs
    · exact hs
  clear_value s1
  extract_lets +onlyGivenNames -underBinder s3
  clear_value s3
  extract_lets +onlyGivenNames -underBinder s4
  clear_value s4
  extract_lets +onlyGivenNames -underBinder s5
  have h6 : Keeps a s5 := by
    unfold s5
    refine Keeps.same (s := s1) ?_ rfl rfl rfl rfl rfl rfl rfl rfl rfl
    exact h2
  clear_value s5
  refine keeps_ite ?_ ?_
  · apply fillTile_keeps
    exact h6
  · exact h6

theorem xMiss_keeps {a : State} (w : XWait) {s : State} (hs : Keeps a s) :
    Keeps a (xMiss w s) := by
  unfold xMiss
  extract_lets +onlyGivenNames -underBinder s0
  have h1 : Keeps a s0 := by
    unfold s0
    refine keeps_ite ?_ ?_
    · apply count_keeps
      exact hs
    · exact hs
  clear_value s0
  extract_lets +onlyGivenNames -underBinder s2
  clear_value s2
  extract_lets +onlyGivenNames -underBinder s3
  clear_value s3
  extract_lets +onlyGivenNames -underBinder s4
  have h5 : Keeps a s4 := by
    unfold s4
    refine Keeps.same (s := s0) ?_ rfl rfl rfl rfl rfl rfl rfl rfl rfl
    exact h1
  clear_value s4
  refine keeps_ite ?_ ?_
  · exact h5
  · apply hostReq_keeps
    apply count_keeps
    exact h5

theorem setPiece_keeps {a : State} (j : Nat) (p : Nat) (st : PieceSt) {s : State} (hs : Keeps a s) :
    Keeps a (setPiece j p st s) := by
  unfold setPiece
  refine Keeps.same (s := s) ?_ rfl rfl rfl rfl rfl rfl rfl rfl rfl
  exact hs

theorem hostWrote_keeps {a : State} (p : Purpose) {s : State} (hs : Keeps a s) :
    Keeps a (hostWrote p s) := by
  unfold hostWrote
  split
  · apply recordVisible_keeps
    exact hs
  · apply setPiece_keeps
    exact hs
  · exact hs

theorem hostIssue_keeps {a : State} (fn : Nat) (pasid : Nat) (va : Nat) (len : Nat) (write : Bool) (p : Purpose) (data : List Byte) (xl : Option Nat) {s : State} (hs : Keeps a s) :
    Keeps a (hostIssue fn pasid va len write p data xl s) := by
  unfold hostIssue
  extract_lets +onlyGivenNames -underBinder s0
  clear_value s0
  extract_lets +onlyGivenNames -underBinder s1
  clear_value s1
  refine keeps_ite ?_ ?_
  · apply hostWrote_keeps
    apply emit_keeps
    exact hs
  · apply hostReq_keeps
    exact hs

theorem hostAccess_keeps {a : State} (fn : Nat) (pasid : Nat) (va : Nat) (len : Nat) (write : Bool) (p : Purpose) (data : List Byte) (tile : Nat) {s : State} (hs : Keeps a s) :
    Keeps a (hostAccess fn pasid va len write p data tile s) := by
  unfold hostAccess
  refine keeps_ite ?_ ?_
  · apply hostIssue_keeps
    exact hs
  · split
    · apply hostIssue_keeps
      apply xTouch_keeps
      exact hs
    · apply xMiss_keeps
      exact hs

theorem cqLost_keeps {a : State} (fn : Nat) {s : State} (hs : Keeps a s) :
    Keeps a (cqLost fn s) := by
  unfold cqLost
  apply bumpSat_keeps
  exact hs

theorem writeRec_keeps {a : State} (g : Nat) (sub : Nat) (k : Nat) (r : Rec) {s : State} (hs : Keeps a s) :
    Keeps a (writeRec g sub k r s) := by
  unfold writeRec
  refine keeps_ite ?_ ?_
  · apply cqLost_keeps
    exact hs
  · extract_lets +onlyGivenNames -underBinder s0
    clear_value s0
    extract_lets +onlyGivenNames -underBinder s1
    clear_value s1
    extract_lets +onlyGivenNames -underBinder s2
    clear_value s2
    apply hostAccess_keeps
    apply setRt_keeps
    apply wr_keeps
    apply count_keeps
    exact hs

theorem postTo_keeps {a : State} (n : Nat) (g : Nat) (r : Rec) {s : State} (hs : Keeps a s) :
    Keeps a (postTo n g r s) := by
  unfold postTo
  extract_lets +onlyGivenNames -underBinder s0
  clear_value s0
  extract_lets +onlyGivenNames -underBinder s1
  have h2 : ∀ y0, Keeps a y0 → Keeps a (s1 y0) := by
    unfold s1
    intro x3 x4
    refine keeps_ite ?_ ?_
    · apply bumpSat_keeps
      exact x4
    · apply bump_keeps
      exact x4
  clear_value s1
  refine keeps_ite ?_ ?_
  · apply cqLost_keeps
    exact hs
  · refine keeps_ite ?_ ?_
    · apply writeRec_keeps
      exact hs
    · refine keeps_ite ?_ ?_
      · refine Keeps.same (s := s) ?_ rfl rfl rfl rfl rfl rfl rfl rfl rfl
        exact hs
      · apply h2
        apply setRt_keeps
        exact hs

theorem postCal_keeps {a : State} (n : Nat) (r : Rec) {s : State} (hs : Keeps a s) :
    Keeps a (postCal n r s) := by
  unfold postCal
  refine keeps_ite ?_ ?_
  · apply postTo_keeps
    exact hs
  · apply bumpSat_keeps
    exact hs

theorem postEvent_keeps {a : State} (n : Nat) (code : Nat) (aux : Nat) (st : Status) (result : Nat) {s : State} (hs : Keeps a s) :
    Keeps a (postEvent n code aux st result s) := by
  unfold postEvent
  refine keeps_ite ?_ ?_
  · apply postTo_keeps
    exact hs
  · apply bump_keeps
    exact hs

theorem hubEvent_keeps {a : State} (fns : List Nat) (code : Nat) (st : Status) (result : Nat) {s : State} (hs : Keeps a s) :
    Keeps a (hubEvent fns code st result s) := by
  unfold hubEvent
  apply forEach_keeps
  · intro x0 x1 x2
    apply postEvent_keeps
    exact x2
  · exact hs

theorem thermalEvent_keeps {a : State} (kind : Nat) (val : Nat) {s : State} (hs : Keeps a s) :
    Keeps a (thermalEvent kind val s) := by
  unfold thermalEvent
  extract_lets +onlyGivenNames -underBinder s0
  clear_value s0
  apply hubEvent_keeps
  exact hs

theorem arrivalAdd_keeps {a : State} (g : Nat) (n : Nat) {s : State} (hs : Keeps a s) :
    Keeps a (arrivalAdd g n s) := by
  unfold arrivalAdd
  refine keeps_ite ?_ ?_
  · apply bump_keeps
    exact hs
  · apply logRec_keeps
    exact hs

theorem setDesc_keeps {a : State} (g : Nat) (k : Nat) (f : Desc → Desc) {s : State} (hs : Keeps a s) :
    Keeps a (setDesc g k f s) := by
  unfold setDesc
  refine Keeps.same (s := s) ?_ rfl rfl rfl rfl rfl rfl rfl rfl rfl
  exact hs

theorem dropDesc_keeps {a : State} (g : Nat) (k : Nat) {s : State} (hs : Keeps a s) :
    Keeps a (dropDesc g k s) := by
  unfold dropDesc
  refine Keeps.same (s := s) ?_ rfl rfl rfl rfl rfl rfl rfl rfl rfl
  exact hs

theorem completeDesc_keeps {a : State} (g : Nat) (k : Nat) (st : Status) (result : Nat) (mask : Nat) (flags : Nat) {s : State} (hs : Keeps a s) :
    Keeps a (completeDesc g k st result mask flags s) := by
  unfold completeDesc
  split
  · exact hs
  · extract_lets +onlyGivenNames -underBinder s0
    clear_value s0
    extract_lets +onlyGivenNames -underBinder s1
    have h2 : Keeps a s1 := by
      unfold s1
      refine keeps_ite ?_ ?_
      · apply arrivalAdd_keeps
        exact hs
      · exact hs
    clear_value s1
    extract_lets +onlyGivenNames -underBinder s3
    clear_value s3
    apply dropDesc_keeps
    apply writeRec_keeps
    apply setRt_keeps
    exact h2

theorem failDesc_keeps {a : State} (g : Nat) (k : Nat) (st : Status) {s : State} (hs : Keeps a s) :
    Keeps a (failDesc g k st s) := by
  unfold failDesc
  apply completeDesc_keeps
  exact hs

end Sys2Proof.Machine
end

