-- ==== Sys2Proof/Laws/KeepsCalCore.lean ====
section
/-! SUPPORT. Sys2Proof/Laws/KeepsCalCore.lean: every operation of Machine/CalCore.lean keeps what `Keeps` says. -/

namespace Sys2Proof.Machine

open Sys2Proof

theorem putCal_keeps {a : State} (i : Nat) (e : CalEntry) {s : State} (hs : Keeps a s) :
    Keeps a (putCal i e s) := by
  unfold putCal
  refine Keeps.same (s := s) ?_ rfl rfl rfl rfl rfl rfl rfl rfl rfl
  exact hs

theorem freeCal_keeps {a : State} (i : Nat) {s : State} (hs : Keeps a s) :
    Keeps a (freeCal i s) := by
  unfold freeCal
  refine Keeps.same (s := s) ?_ rfl rfl rfl rfl rfl rfl rfl rfl rfl
  exact hs

theorem calRecord_keeps {a : State} (fn : Nat) (i : Nat) (tag : Nat) (firing : Nat) (notify : Bool) (st : Status) (at' : Nat) {s : State} (hs : Keeps a s) :
    Keeps a (calRecord fn i tag firing notify st at' s) := by
  unfold calRecord
  refine keeps_ite ?_ ?_
  · exact hs
  · apply postCal_keeps
    exact hs

theorem countLate_keeps {a : State} (n : Nat) (lateness : Nat) {s : State} (hs : Keeps a s) :
    Keeps a (countLate n lateness s) := by
  unfold countLate
  apply wr_keeps
  apply bump_keeps
  exact hs

theorem settleCal_keeps {a : State} (i : Nat) (z1 : Nat) (z2 : CalEntry) {z3 : State} (hz3 : Keeps a z3) :
    Keeps a (settleCal i z1 z2 z3) := by
  induction z1 generalizing i z2 z3 with
  | zero =>
    unfold settleCal
    apply putCal_keeps
    exact hz3
  | succ n ih =>
    unfold settleCal
    refine keeps_ite ?_ ?_
    · extract_lets +onlyGivenNames -underBinder s0
      have h1 : Keeps a s0 := by
        unfold s0
        apply calRecord_keeps
        exact hz3
      clear_value s0
      split
      · apply freeCal_keeps
        exact h1
      · apply ih
        exact h1
    · apply putCal_keeps
      exact hz3

theorem advanceCal_keeps {a : State} (i : Nat) (e : CalEntry) {s : State} (hs : Keeps a s) :
    Keeps a (advanceCal i e s) := by
  unfold advanceCal
  split
  · apply freeCal_keeps
    exact hs
  · apply settleCal_keeps
    exact hs

theorem endFiring_keeps {a : State} (i : Nat) (e : CalEntry) (st : Status) {s : State} (hs : Keeps a s) :
    Keeps a (endFiring i e st s) := by
  unfold endFiring
  apply advanceCal_keeps
  apply calRecord_keeps
  exact hs

theorem stepEntries_keeps {a : State} (lo : Nat) (z1 : Nat) {s : State} (hs : Keeps a s) :
    Keeps a (stepEntries lo z1 s) := by
  unfold stepEntries
  apply forEach_keeps
  · intro x0 x1 x2
    extract_lets +onlyGivenNames -underBinder s3
    clear_value s3
    refine keeps_ite ?_ ?_
    · apply settleCal_keeps
      exact x2
    · refine keeps_ite ?_ ?_
      · apply putCal_keeps
        exact x2
      · exact x2
  · exact hs

theorem markDue_keeps {a : State} {s : State} (hs : Keeps a s) :
    Keeps a (markDue s) := by
  unfold markDue
  refine Keeps.same (s := s) ?_ rfl rfl rfl rfl rfl rfl rfl rfl rfl
  exact hs

theorem endIssued_keeps {a : State} (f : Firing) {s : State} (hs : Keeps a s) :
    Keeps a (endIssued f s) := by
  unfold endIssued
  apply calRecord_keeps
  refine Keeps.same (s := s) ?_ rfl rfl rfl rfl rfl rfl rfl rfl rfl
  exact hs

theorem siteOutcome_keeps {a : State} (j : Nat) (st : Status) {s : State} (hs : Keeps a s) :
    Keeps a (siteOutcome j st s) := by
  unfold siteOutcome
  extract_lets +onlyGivenNames -underBinder s0
  clear_value s0
  apply forEach_keeps
  · intro x1 x2 x3
    extract_lets +onlyGivenNames -underBinder s4
    clear_value s4
    extract_lets +onlyGivenNames -underBinder s5
    clear_value s5
    extract_lets +onlyGivenNames -underBinder s6
    have h7 : Keeps a s6 := by
      unfold s6
      refine keeps_ite ?_ ?_
      · apply countLate_keeps
        exact x3
      · exact x3
    clear_value s6
    refine keeps_ite ?_ ?_
    · apply endIssued_keeps
      exact h7
    · refine Keeps.same (s := s6) ?_ rfl rfl rfl rfl rfl rfl rfl rfl rfl
      exact h7
  · exact hs

end Sys2Proof.Machine
end

