-- ==== Sys2Proof/Laws/KeepsRoute.lean ====
section
/-! SUPPORT. Sys2Proof/Laws/KeepsRoute.lean: every operation of Machine/Route.lean keeps what `Keeps` says. -/

namespace Sys2Proof.Machine

open Sys2Proof

theorem forward_keeps {a : State} (r : Nat) {s : State} (hs : Keeps a s) :
    Keeps a (forward r s) := by
  unfold forward
  extract_lets +onlyGivenNames -underBinder s0
  clear_value s0
  extract_lets +onlyGivenNames -underBinder s1
  clear_value s1
  extract_lets +onlyGivenNames -underBinder s2
  have h3 : Keeps a s2 := by
    unfold s2
    refine Keeps.same (s := s) ?_ rfl rfl rfl rfl rfl rfl rfl rfl rfl
    exact hs
  clear_value s2
  split
  · apply count_keeps
    apply count_keeps
    exact h3
  · exact h3

theorem travel_keeps {a : State} (src : Nat) (dst : Nat) {s : State} (hs : Keeps a s) :
    Keeps a (travel src dst s) := by
  unfold travel
  apply forEach_keeps
  · intro x0 x1 x2
    apply forward_keeps
    exact x2
  · exact hs

end Sys2Proof.Machine
end

