-- ==== Sys2Proof/Laws/KeepsMemory.lean ====
section
/-! SUPPORT. Sys2Proof/Laws/KeepsMemory.lean: every operation of Machine/Memory.lean keeps what `Keeps` says. -/

namespace Sys2Proof.Machine

open Sys2Proof

theorem setCoh_keeps {a : State} (f : Coh → Coh) {s : State} (hs : Keeps a s) :
    Keeps a (setCoh f s) := by
  unfold setCoh
  refine Keeps.same (s := s) ?_ rfl rfl rfl rfl rfl rfl rfl rfl rfl
  exact hs

theorem putD_wf {α : Type} [DecidableEq α] (d : Nat → α) (k : Nat) (v : α) (m : SMap α) (h : sortedKeys m = true ∧ ∀ p ∈ m, p.2 ≠ d p.1) :
    sortedKeys (putD (d k) k v m) = true ∧ ∀ p ∈ putD (d k) k v m, p.2 ≠ d p.1 := by
  unfold putD
  split
  · exact ⟨sorted_del h.1, fun p hp => h.2 p (List.mem_filter.1 hp).1⟩
  · rename_i hv
    refine ⟨sorted_put h.1, fun p hp => ?_⟩
    rcases mem_put hp with rfl | hp
    · exact hv
    · exact h.2 p hp

theorem pokeBytes_keeps {a : State} (off : Nat) (l : List Byte) {s : State} (hs : Keeps a s) : Keeps a (pokeBytes off l s) := by
  refine hs.trans { Keeps.refl s with mem := fun g => ?_ }
  have key : ∀ (l : List (Byte × Nat)) (b : SMap Byte), (sortedKeys b = true ∧ ∀ p ∈ b, p.2 ≠ unlistedByte s.mem p.1) →
      (sortedKeys (l.foldl (fun b p => putD (unlistedByte s.mem (off + p.2)) (off + p.2) p.1 b) b) = true ∧
        ∀ p ∈ l.foldl (fun b p => putD (unlistedByte s.mem (off + p.2)) (off + p.2) p.1 b) b, p.2 ≠ unlistedByte s.mem p.1) := by
    intro l
    induction l with
    | nil => exact fun b h => h
    | cons x t ih => exact fun b h => ih _ (putD_wf (unlistedByte s.mem) (off + x.2) x.1 b h)
  exact key l.zipIdx s.mem.bytes g

theorem spoil_keeps {a : State} (lo len : Nat) {s : State} (hs : Keeps a s) : Keeps a (spoil lo len s) := by
  refine hs.trans { Keeps.refl s with mem := fun g => ⟨sorted_filter _ g.1, fun p hp => ?_⟩, free := Nat.le_add_right _ _ }
  have hp := List.mem_filter.1 hp
  have hne := g.2 p hp.1
  have hout : ¬(lo ≤ p.1 ∧ p.1 < lo + len) := by
    have := hp.2
    simp only [Bool.not_eq_true', Bool.and_eq_false_iff, decide_eq_false_iff_not] at this
    omega
  refine fun he => hne (he.trans ?_)
  simp only [spoil, drew, setMem, setCoh, unlistedByte, List.find?_cons]
  have h1 : (decide (lo ≤ p.1) && decide (p.1 < lo + len)) = false := by
    simp only [Bool.and_eq_false_iff, decide_eq_false_iff_not]
    omega
  rw [h1]
  have h2 : List.find? (fun j => decide (j.1 ≤ p.1) && decide (p.1 < j.1 + j.2.1))
      (List.filter (fun j => !(decide (lo ≤ j.1) && decide (j.1 + j.2.1 ≤ lo + len))) s.mem.junk) =
      List.find? (fun j => decide (j.1 ≤ p.1) && decide (p.1 < j.1 + j.2.1)) s.mem.junk := by
    generalize s.mem.junk = js
    induction js with
    | nil => rfl
    | cons j t ih =>
      simp only [List.filter_cons, List.find?_cons]
      split
      · simp only [List.find?_cons]
        split <;> simp_all
      · rename_i hj
        have hj : lo ≤ j.1 ∧ j.1 + j.2.1 ≤ lo + len := by simpa using hj
        have : (decide (j.1 ≤ p.1) && decide (p.1 < j.1 + j.2.1)) = false := by
          simp only [Bool.and_eq_false_iff, decide_eq_false_iff_not]
          omega
        rw [this]
        exact ih
  rw [h2]

theorem putGran_keeps {a : State} (g : Nat) (l : List Byte) {s : State} (hs : Keeps a s) :
    Keeps a (putGran g l s) := by
  unfold putGran
  extract_lets +onlyGivenNames -underBinder s0
  clear_value s0
  apply setMem_keeps
  · intro x1
    exact ⟨rfl, rfl⟩
  · apply pokeBytes_keeps
    exact hs

theorem memErrLog_keeps {a : State} (kind : Nat) (l : Loc) {s : State} (hs : Keeps a s) :
    Keeps a (memErrLog kind l s) := by
  unfold memErrLog
  refine keeps_ite ?_ ?_
  · exact hs
  · apply wr_keeps
    apply wr_keeps
    apply wr_keeps
    apply wr_keeps
    apply setB_keeps
    exact hs

theorem postMemUe_keeps {a : State} (off : Nat) {s : State} (hs : Keeps a s) :
    Keeps a (postMemUe off s) := by
  unfold postMemUe
  extract_lets +onlyGivenNames -underBinder s0
  clear_value s0
  extract_lets +onlyGivenNames -underBinder s1
  clear_value s1
  refine keeps_ite ?_ ?_
  · apply postEvent_keeps
    exact hs
  · apply logRec_keeps
    exact hs

theorem meetUe_keeps {a : State} (g : Nat) {s : State} (hs : Keeps a s) :
    Keeps a (meetUe g s) := by
  unfold meetUe
  extract_lets +onlyGivenNames -underBinder s0
  clear_value s0
  extract_lets +onlyGivenNames -underBinder s1
  clear_value s1
  apply postMemUe_keeps
  apply memErrLog_keeps
  apply bump_keeps
  exact hs

theorem writeGran_keeps {a : State} (g : Nat) (w : List (Nat × Byte)) {s : State} (hs : Keeps a s) :
    Keeps a (writeGran g w s).2 := by
  unfold writeGran
  refine keeps_ite_snd ?_ ?_
  · refine keeps_mk ?_
    apply putGran_keeps
    exact hs
  · refine keeps_ite_snd ?_ ?_
    · refine keeps_mk ?_
      apply meetUe_keeps
      exact hs
    · refine keeps_mk ?_
      apply putGran_keeps
      exact hs

theorem setLine_keeps {a : State} (line : Nat) (c : CLine) {s : State} (hs : Keeps a s) :
    Keeps a (setLine line c s) := by
  unfold setLine
  apply setCoh_keeps
  exact hs

theorem dropLine_keeps {a : State} (line : Nat) {s : State} (hs : Keeps a s) :
    Keeps a (dropLine line s) := by
  unfold dropLine
  apply setCoh_keeps
  exact hs

theorem setChan_keeps {a : State} (k : Nat) (f : Chan → Chan) {s : State} (hs : Keeps a s) :
    Keeps a (setChan k f s) := by
  unfold setChan
  apply setMem_keeps
  · intro x0
    exact ⟨rfl, rfl⟩
  · exact hs

theorem enqueue_keeps {a : State} (r : MReq) {s : State} (hs : Keeps a s) :
    Keeps a (enqueue r s) := by
  unfold enqueue
  extract_lets +onlyGivenNames -underBinder s0
  clear_value s0
  apply setChan_keeps
  exact hs

theorem writeBack_keeps {a : State} (line : Nat) (cls : Nat) {s : State} (hs : Keeps a s) :
    Keeps a (writeBack line cls s) := by
  unfold writeBack
  extract_lets +onlyGivenNames -underBinder s0
  clear_value s0
  extract_lets +onlyGivenNames -underBinder s1
  clear_value s1
  extract_lets +onlyGivenNames -underBinder s2
  clear_value s2
  extract_lets +onlyGivenNames -underBinder s3
  clear_value s3
  extract_lets +onlyGivenNames -underBinder s4
  clear_value s4
  extract_lets +onlyGivenNames -underBinder s5
  have h6 : Keeps a s5 := by
    unfold s5
    apply forEach_keeps
    · intro x7 x8 x9
      split
      · apply setLine_keeps
        exact x9
      · exact x9
    · exact hs
  clear_value s5
  apply enqueue_keeps
  exact h6

theorem evictLine_keeps {a : State} (line : Nat) (cls : Nat) {s : State} (hs : Keeps a s) :
    Keeps a (evictLine line cls s) := by
  unfold evictLine
  split
  · apply dropLine_keeps
    refine keeps_ite ?_ ?_
    · apply writeBack_keeps
      exact hs
    · exact hs
  · exact hs

theorem allocLine_keeps {a : State} (line : Nat) (cls : Nat) (data : List Byte) (dirty : Bool) {s : State} (hs : Keeps a s) :
    Keeps a (allocLine line cls data dirty s) := by
  unfold allocLine
  extract_lets +onlyGivenNames -underBinder s0
  clear_value s0
  split
  · exact hs
  · extract_lets +onlyGivenNames -underBinder s1
    clear_value s1
    split
    · apply setLine_keeps
      exact hs
    · split
      · extract_lets +onlyGivenNames -underBinder s2
        have h3 : Keeps a s2 := by
          unfold s2
          apply forEach_keeps
          · intro x4 x5 x6
            apply evictLine_keeps
            exact x6
          · exact hs
        clear_value s2
        apply setLine_keeps
        exact h3
      · extract_lets +onlyGivenNames -underBinder s7
        have h8 : Keeps a s7 := by
          unfold s7
          apply forEach_keeps
          · intro x9 x10 x11
            apply setLine_keeps
            exact x11
          · exact hs
        clear_value s7
        extract_lets +onlyGivenNames -underBinder s12
        have h13 : Keeps a s12 := by
          unfold s12
          apply forEach_keeps
          · intro x14 x15 x16
            apply evictLine_keeps
            exact x16
          · exact h8
        clear_value s12
        apply setLine_keeps
        exact h13

theorem fillGran_keeps {a : State} (g : Nat) (cls : Nat) (data : List Byte) {s : State} (hs : Keeps a s) :
    Keeps a (fillGran g cls data s) := by
  unfold fillGran
  refine keeps_ite ?_ ?_
  · exact hs
  · apply forEach_keeps
    · intro x0 x1 x2
      refine keeps_ite ?_ ?_
      · exact x2
      · apply allocLine_keeps
        exact x2
    · exact hs

theorem setMesh_keeps {a : State} (f : Mesh → Mesh) {s : State} (hs : Keeps a s) :
    Keeps a (setMesh f s) := by
  unfold setMesh
  refine Keeps.same (s := s) ?_ rfl rfl rfl rfl rfl rfl rfl rfl rfl
  exact hs

theorem departMesh_keeps {a : State} (k : Nat) (id : Nat) (fn : Nat) (tgt : Nat) (line : Nat) {s : State} (hs : Keeps a s) :
    Keeps a (departMesh k id fn tgt line s) := by
  unfold departMesh
  extract_lets +onlyGivenNames -underBinder s0
  clear_value s0
  apply setMesh_keeps
  apply travel_keeps
  refine Keeps.same (s := s) ?_ rfl rfl rfl rfl rfl rfl rfl rfl rfl
  exact hs

theorem meshAnswer_keeps {a : State} (k : Nat) (id : Nat) (st : Status) (data : List Byte) {s : State} (hs : Keeps a s) :
    Keeps a (meshAnswer k id st data s) := by
  unfold meshAnswer
  split
  · exact hs
  · apply setMesh_keeps
    exact hs

theorem arriveAt_keeps {a : State} (flit : Nat) (k : Nat) (id : Nat) (f : State → State) {s : State} (hf : ∀ y0, Keeps a y0 → Keeps a (f y0)) (hs : Keeps a s) :
    Keeps a (arriveAt flit k id f s) := by
  unfold arriveAt
  split
  · apply hf
    exact hs
  · apply hf
    apply bumpSat_keeps
    exact hs
  · apply meshAnswer_keeps
    apply bumpSat_keeps
    exact hs
  · apply bumpSat_keeps
    exact hs

theorem noteLate_keeps {a : State} (line : Nat) (fn : Option Nat) {s : State} (hs : Keeps a s) :
    Keeps a (noteLate line fn s) := by
  unfold noteLate
  extract_lets +onlyGivenNames -underBinder s0
  clear_value s0
  apply count_keeps
  apply setChan_keeps
  exact hs

theorem doneOut_keeps {a : State} (w : Who) {s : State} (hs : Keeps a s) :
    Keeps a (doneOut w s) := by
  unfold doneOut
  apply setCoh_keeps
  exact hs

theorem answerMem_keeps {a : State} (r : MReq) (st : Status) (data : List Byte) {s : State} (hs : Keeps a s) :
    Keeps a (answerMem r st data s) := by
  unfold answerMem
  refine keeps_ite ?_ ?_
  · exact hs
  · extract_lets +onlyGivenNames -underBinder s0
    clear_value s0
    extract_lets +onlyGivenNames -underBinder s1
    have h2 : Keeps a s1 := by
      unfold s1
      refine keeps_ite ?_ ?_
      · apply noteLate_keeps
        exact hs
      · exact hs
    clear_value s1
    apply meshAnswer_keeps
    apply doneOut_keeps
    exact h2

theorem serveRead_keeps {a : State} (r : MReq) {s : State} (hs : Keeps a s) :
    Keeps a (serveRead r s) := by
  unfold serveRead
  extract_lets +onlyGivenNames -underBinder s0
  clear_value s0
  extract_lets +onlyGivenNames -underBinder s1
  clear_value s1
  refine keeps_ite ?_ ?_
  · apply answerMem_keeps
    exact hs
  · refine keeps_ite ?_ ?_
    · apply answerMem_keeps
      apply meetUe_keeps
      exact hs
    · extract_lets +onlyGivenNames -underBinder s2
      clear_value s2
      extract_lets +onlyGivenNames -underBinder s3
      have h4 : Keeps a s3 := by
        unfold s3
        refine keeps_ite ?_ ?_
        · apply fillGran_keeps
          exact hs
        · exact hs
      clear_value s3
      split
      · apply answerMem_keeps
        exact h4
      · split
        · apply answerMem_keeps
          apply setLine_keeps
          exact h4
        · extract_lets +onlyGivenNames -underBinder s5
          have h6 : Keeps a s5.2 := by
            unfold s5
            apply writeGran_keeps
            exact h4
          clear_value s5
          apply answerMem_keeps
          exact h6

theorem serveWrite_keeps {a : State} (r : MReq) {s : State} (hs : Keeps a s) :
    Keeps a (serveWrite r s) := by
  unfold serveWrite
  extract_lets +onlyGivenNames -underBinder s0
  clear_value s0
  refine keeps_ite ?_ ?_
  · apply answerMem_keeps
    exact hs
  · extract_lets +onlyGivenNames -underBinder s1
    have h2 : Keeps a s1.2 := by
      unfold s1
      apply writeGran_keeps
      exact hs
    clear_value s1
    apply answerMem_keeps
    exact h2

theorem serve_keeps {a : State} (k : Nat) (r : MReq) {s : State} (hs : Keeps a s) :
    Keeps a (serve k r s) := by
  unfold serve
  extract_lets +onlyGivenNames -underBinder s0
  have h1 : Keeps a s0 := by
    unfold s0
    apply setChan_keeps
    exact hs
  clear_value s0
  refine keeps_ite ?_ ?_
  · apply serveWrite_keeps
    exact h1
  · apply serveRead_keeps
    exact h1

theorem drainGran_keeps {a : State} (g : Nat) {s : State} (hs : Keeps a s) :
    Keeps a (drainGran g s) := by
  unfold drainGran
  extract_lets +onlyGivenNames -underBinder s0
  clear_value s0
  extract_lets +onlyGivenNames -underBinder s1
  clear_value s1
  apply forEach_keeps
  · intro x2 x3 x4
    apply serve_keeps
    exact x4
  · exact hs

theorem countSlice_keeps {a : State} (line : Nat) (fn : Option Nat) {s : State} (hs : Keeps a s) :
    Keeps a (countSlice line fn s) := by
  unfold countSlice
  apply count_keeps
  exact hs

theorem readLine_keeps {a : State} (line : Nat) (cls : Nat) {s : State} (hs : Keeps a s) :
    Keeps a (readLine line cls s).2.2 := by
  unfold readLine
  split
  · refine keeps_mk2 ?_
    exact hs
  · extract_lets +onlyGivenNames -underBinder s0
    have h1 : Keeps a s0 := by
      unfold s0
      apply countSlice_keeps
      exact hs
    clear_value s0
    split
    · refine keeps_mk2 ?_
      refine keeps_ite ?_ ?_
      · exact h1
      · apply setLine_keeps
        exact h1
    · refine keeps_ite_snd2 ?_ ?_
      · refine keeps_mk2 ?_
        exact h1
      · extract_lets +onlyGivenNames -underBinder s2
        have h3 : Keeps a s2 := by
          unfold s2
          apply drainGran_keeps
          exact h1
        clear_value s2
        extract_lets +onlyGivenNames -underBinder s4
        clear_value s4
        refine keeps_ite_snd2 ?_ ?_
        · refine keeps_mk2 ?_
          exact h3
        · refine keeps_ite_snd2 ?_ ?_
          · refine keeps_mk2 ?_
            apply meetUe_keeps
            exact h3
          · extract_lets +onlyGivenNames -underBinder s5
            clear_value s5
            refine keeps_mk2 ?_
            apply fillGran_keeps
            exact h3

theorem fillRest_keeps {a : State} (line : Nat) (cls : Nat) {s : State} (hs : Keeps a s) :
    Keeps a (fillRest line cls s) := by
  unfold fillRest
  refine keeps_ite ?_ ?_
  · exact hs
  · apply fillGran_keeps
    exact hs

theorem writeLine_keeps {a : State} (line : Nat) (cls : Nat) (w : List (Nat × Byte)) {s : State} (hs : Keeps a s) :
    Keeps a (writeLine line cls w s).2 := by
  unfold writeLine
  extract_lets +onlyGivenNames -underBinder s0
  have h1 : Keeps a s0 := by
    unfold s0
    apply countSlice_keeps
    exact hs
  clear_value s0
  split
  · refine keeps_mk ?_
    apply setLine_keeps
    exact h1
  · refine keeps_ite_snd ?_ ?_
    · refine keeps_mk ?_
      exact h1
    · extract_lets +onlyGivenNames -underBinder s2
      have h3 : Keeps a s2 := by
        unfold s2
        apply setMem_keeps
        · intro x4
          exact ⟨rfl, rfl⟩
        · apply drainGran_keeps
          exact h1
      clear_value s2
      extract_lets +onlyGivenNames -underBinder s5
      clear_value s5
      refine keeps_ite_snd ?_ ?_
      · refine keeps_mk ?_
        exact h3
      · refine keeps_ite_snd ?_ ?_
        · apply writeGran_keeps
          exact h3
        · refine keeps_ite_snd ?_ ?_
          · refine keeps_mk ?_
            apply fillRest_keeps
            apply allocLine_keeps
            exact h3
          · extract_lets +onlyGivenNames -underBinder s6
            have h7 : Keeps a s6.2.2 := by
              unfold s6
              apply readLine_keeps
              exact h3
            clear_value s6
            refine keeps_ite_snd ?_ ?_
            · refine keeps_mk ?_
              exact h7
            · split
              · refine keeps_mk ?_
                apply setLine_keeps
                exact h7
              · apply writeGran_keeps
                exact h7

theorem writeHome_keeps {a : State} (line : Nat) (cls : Nat) (data : List Byte) {s : State} (hs : Keeps a s) :
    Keeps a (writeHome line cls data s) := by
  unfold writeHome
  refine keeps_ite ?_ ?_
  · exact hs
  · refine keeps_ite ?_ ?_
    · apply enqueue_keeps
      apply setMem_keeps
      · intro x0
        exact ⟨rfl, rfl⟩
      · exact hs
    · refine keeps_ite ?_ ?_
      · apply allocLine_keeps
        apply setMem_keeps
        · intro x1
          exact ⟨rfl, rfl⟩
        · exact hs
      · apply writeLine_keeps
        exact hs

theorem writeWhole_keeps {a : State} (g : Nat) (data : List Byte) {s : State} (hs : Keeps a s) :
    Keeps a (writeWhole g data s).2 := by
  unfold writeWhole
  extract_lets +onlyGivenNames -underBinder s0
  have h1 : Keeps a s0 := by
    unfold s0
    apply drainGran_keeps
    exact hs
  clear_value s0
  extract_lets +onlyGivenNames -underBinder s2
  clear_value s2
  refine keeps_ite_snd ?_ ?_
  · refine keeps_mk ?_
    exact h1
  · extract_lets +onlyGivenNames -underBinder s3
    have h4 : Keeps a s3 := by
      unfold s3
      apply forEach_keeps
      · intro x5 x6 x7
        split
        · apply setLine_keeps
          exact x7
        · exact x7
      · exact h1
    clear_value s3
    refine keeps_mk ?_
    apply putGran_keeps
    apply setMem_keeps
    · intro x8
      exact ⟨rfl, rfl⟩
    · exact h4

theorem readLines_keeps {a : State} (cls : Nat) (z1 : List Nat) {z2 : State} (hz2 : Keeps a z2) :
    Keeps a (readLines cls z1 z2).2.2 := by
  induction z1 generalizing cls z2 with
  | nil =>
    unfold readLines
    refine keeps_mk2 ?_
    exact hz2
  | cons x t ih =>
    unfold readLines
    extract_lets +onlyGivenNames -underBinder s0
    have h1 : Keeps a s0.2.2 := by
      unfold s0
      apply readLine_keeps
      exact hz2
    clear_value s0
    extract_lets +onlyGivenNames -underBinder s2
    have h3 : Keeps a s2.2.2 := by
      unfold s2
      apply ih
      exact h1
    clear_value s2
    refine keeps_mk2 ?_
    exact h3

theorem hubRead_keeps {a : State} (r : Reqr) (off : Nat) (len : Nat) {s : State} (hs : Keeps a s) :
    Keeps a (hubRead r off len s).2.2 := by
  unfold hubRead
  extract_lets +onlyGivenNames -underBinder s0
  clear_value s0
  refine keeps_ite_snd2 ?_ ?_
  · refine keeps_mk2 ?_
    exact hs
  · extract_lets +onlyGivenNames -underBinder s1
    have h2 : Keeps a s1.2.2 := by
      unfold s1
      apply readLines_keeps
      exact hs
    clear_value s1
    refine keeps_ite_snd2 ?_ ?_
    · refine keeps_mk2 ?_
      exact h2
    · refine keeps_mk2 ?_
      exact h2

theorem writePart_keeps {a : State} (cls : Nat) (p : Nat × Nat × List Byte) {s : State} (hs : Keeps a s) :
    Keeps a (writePart cls p s).2 := by
  unfold writePart
  split
  refine keeps_ite_snd ?_ ?_
  · apply writeWhole_keeps
    exact hs
  · extract_lets +onlyGivenNames -underBinder s0
    clear_value s0
    apply foldl_keeps_snd
    · intro x1 x2 x3
      extract_lets +onlyGivenNames -underBinder s4
      clear_value s4
      refine keeps_ite_snd ?_ ?_
      · exact x3
      · extract_lets +onlyGivenNames -underBinder s5
        have h6 : Keeps a s5.2 := by
          unfold s5
          apply writeLine_keeps
          exact x3
        clear_value s5
        refine keeps_mk ?_
        exact h6
    · refine keeps_mk ?_
      exact hs

theorem sliceError_keeps {a : State} (line : Nat) (err : Nat) {s : State} (hs : Keeps a s) :
    Keeps a (sliceError line err s) := by
  unfold sliceError
  split
  · exact hs
  · refine keeps_ite ?_ ?_
    · apply bumpSat_keeps
      exact hs
    · refine keeps_ite ?_ ?_
      · extract_lets +onlyGivenNames -underBinder s0
        have h1 : Keeps a s0 := by
          unfold s0
          apply dropLine_keeps
          apply bumpSat_keeps
          exact hs
        clear_value s0
        refine keeps_ite ?_ ?_
        · apply postMemUe_keeps
          apply setMem_keeps
          · intro x2
            exact ⟨rfl, rfl⟩
          · exact h1
        · exact h1
      · exact hs

theorem hubWrite_keeps {a : State} (r : Reqr) (off : Nat) (l : List Byte) {s : State} (hs : Keeps a s) :
    Keeps a (hubWrite r off l s).2 := by
  unfold hubWrite
  extract_lets +onlyGivenNames -underBinder s0
  clear_value s0
  refine keeps_ite_snd ?_ ?_
  · refine keeps_mk ?_
    exact hs
  · extract_lets +onlyGivenNames -underBinder s1
    clear_value s1
    apply foldl_keeps_snd
    · intro x2 x3 x4
      extract_lets +onlyGivenNames -underBinder s5
      have h6 : Keeps a s5.2 := by
        unfold s5
        apply writePart_keeps
        exact x4
      clear_value s5
      refine keeps_mk ?_
      exact h6
    · refine keeps_mk ?_
      exact hs

theorem trainRate_keeps {a : State} (j : Nat) (ch : Nat) {s : State} (hs : Keeps a s) :
    Keeps a (trainRate j ch s) := by
  unfold trainRate
  apply setMem_keeps
  · intro x0
    exact ⟨rfl, rfl⟩
  · exact hs

theorem serveBytes_keeps {a : State} (k : Nat) (c : Nat) {s : State} (hs : Keeps a s) :
    Keeps a (serveBytes k c s) := by
  unfold serveBytes
  apply setChan_keeps
  exact hs

theorem noteCheck_keeps {a : State} (k : Nat) (block : Nat) {s : State} (hs : Keeps a s) :
    Keeps a (noteCheck k block s) := by
  unfold noteCheck
  apply setChan_keeps
  exact hs

theorem noteServed_keeps {a : State} (k : Nat) (r : MReq) {s : State} (hs : Keeps a s) :
    Keeps a (noteServed k r s) := by
  unfold noteServed
  extract_lets +onlyGivenNames -underBinder s0
  clear_value s0
  extract_lets +onlyGivenNames -underBinder s1
  clear_value s1
  extract_lets +onlyGivenNames -underBinder s2
  clear_value s2
  extract_lets +onlyGivenNames -underBinder s3
  have h4 : Keeps a s3 := by
    unfold s3
    apply count_keeps
    exact hs
  clear_value s3
  extract_lets +onlyGivenNames -underBinder s5
  have h6 : Keeps a s5 := by
    unfold s5
    refine keeps_ite ?_ ?_
    · apply count_keeps
      exact h4
    · exact h4
  clear_value s5
  extract_lets +onlyGivenNames -underBinder s7
  have h8 : Keeps a s7 := by
    unfold s7
    apply setChan_keeps
    exact h6
  clear_value s7
  apply noteCheck_keeps
  apply serveBytes_keeps
  exact h8

theorem startRetrain_keeps {a : State} (j : Nat) (ch : Nat) {s : State} (hs : Keeps a s) :
    Keeps a (startRetrain j ch s) := by
  unfold startRetrain
  refine keeps_ite ?_ ?_
  · exact hs
  · refine keeps_ite ?_ ?_
    · apply setMem_keeps
      · intro x0
        split <;> exact ⟨rfl, rfl⟩
      · exact hs
    · apply setChan_keeps
      apply setB_keeps
      exact hs

theorem countCe_keeps {a : State} (j : Nat) (ch : Nat) {s : State} (hs : Keeps a s) :
    Keeps a (countCe j ch s) := by
  unfold countCe
  extract_lets +onlyGivenNames -underBinder s0
  clear_value s0
  extract_lets +onlyGivenNames -underBinder s1
  have h2 : Keeps a s1 := by
    unfold s1
    apply count_keeps
    apply bump_keeps
    exact hs
  clear_value s1
  extract_lets +onlyGivenNames -underBinder s3
  have h4 : Keeps a s3 := by
    unfold s3
    apply setChan_keeps
    exact h2
  clear_value s3
  refine keeps_ite ?_ ?_
  · apply setChan_keeps
    apply startRetrain_keeps
    exact h4
  · exact h4

theorem readAgain_keeps {a : State} (j : Nat) (ch : Nat) (cls : Nat) (again : Bool) {s : State} (hs : Keeps a s) :
    Keeps a (readAgain j ch cls again s) := by
  unfold readAgain
  extract_lets +onlyGivenNames -underBinder s0
  clear_value s0
  extract_lets +onlyGivenNames -underBinder s1
  have h2 : Keeps a s1 := by
    unfold s1
    apply serveBytes_keeps
    exact hs
  clear_value s1
  refine keeps_ite ?_ ?_
  · apply serveBytes_keeps
    apply countCe_keeps
    exact h2
  · exact h2

theorem meetErrors_keeps {a : State} (j : Nat) (ch : Nat) (g : Nat) (errs : Nat) (cls : Nat) (again : Bool) {s : State} (hs : Keeps a s) :
    Keeps a (meetErrors j ch g errs cls again s) := by
  unfold meetErrors
  refine keeps_ite ?_ ?_
  · exact hs
  · refine keeps_ite ?_ ?_
    · apply readAgain_keeps
      apply countCe_keeps
      exact hs
    · refine keeps_ite ?_ ?_
      · apply setMem_keeps
        · intro x0
          split <;> exact ⟨rfl, rfl⟩
        · refine keeps_ite ?_ ?_
          · exact hs
          · apply drew_keeps
            exact hs
      · apply pokeBytes_keeps
        apply drewN_keeps
        exact hs

theorem doMemRead_keeps {a : State} (j : Nat) (ch : Nat) (errs : Nat) (again : Bool) (slot : Nat) {s : State} (hs : Keeps a s) :
    Keeps a (doMemRead j ch errs again slot s) := by
  unfold doMemRead
  split
  · refine keeps_ite ?_ ?_
    · exact hs
    · apply serve_keeps
      apply meetErrors_keeps
      apply noteServed_keeps
      exact hs
  · exact hs

theorem doMemWrite_keeps {a : State} (j : Nat) (ch : Nat) (errs : Nat) (again : Bool) (slot : Nat) {s : State} (hs : Keeps a s) :
    Keeps a (doMemWrite j ch errs again slot s) := by
  unfold doMemWrite
  split
  · refine keeps_ite ?_ ?_
    · exact hs
    · extract_lets +onlyGivenNames -underBinder s0
      have h1 : Keeps a s0 := by
        unfold s0
        apply noteServed_keeps
        exact hs
      clear_value s0
      apply serve_keeps
      refine keeps_ite ?_ ?_
      · exact h1
      · apply meetErrors_keeps
        exact h1
  · exact hs

theorem nextScrub_keeps {a : State} {s : State} (hs : Keeps a s) :
    Keeps a (nextScrub s) := by
  unfold nextScrub
  apply setMem_keeps
  · intro x0
    split <;> exact ⟨rfl, rfl⟩
  · exact hs

theorem doPatrolScrub_keeps {a : State} (errs : Nat) (again : Bool) {s : State} (hs : Keeps a s) :
    Keeps a (doPatrolScrub errs again s) := by
  unfold doPatrolScrub
  extract_lets +onlyGivenNames -underBinder s0
  clear_value s0
  extract_lets +onlyGivenNames -underBinder s1
  clear_value s1
  extract_lets +onlyGivenNames -underBinder s2
  clear_value s2
  refine keeps_ite ?_ ?_
  · exact hs
  · extract_lets +onlyGivenNames -underBinder s3
    have h4 : Keeps a s3 := by
      unfold s3
      apply nextScrub_keeps
      exact hs
    clear_value s3
    refine keeps_ite ?_ ?_
    · exact h4
    · extract_lets +onlyGivenNames -underBinder s5
      have h6 : Keeps a s5 := by
        unfold s5
        apply meetErrors_keeps
        apply noteCheck_keeps
        apply serveBytes_keeps
        exact h4
      clear_value s5
      refine keeps_ite ?_ ?_
      · apply meetUe_keeps
        exact h6
      · exact h6

theorem doMr4Poll_keeps {a : State} (j : Nat) (ch : Nat) (raw : Nat) (cat : Nat) {s : State} (hs : Keeps a s) :
    Keeps a (doMr4Poll j ch raw cat s) := by
  unfold doMr4Poll
  extract_lets +onlyGivenNames -underBinder s0
  clear_value s0
  extract_lets +onlyGivenNames -underBinder s1
  clear_value s1
  refine keeps_ite ?_ ?_
  · exact hs
  · extract_lets +onlyGivenNames -underBinder s2
    have h3 : Keeps a s2 := by
      unfold s2
      apply setMem_keeps
      · intro x4
        exact ⟨rfl, rfl⟩
      · exact hs
    clear_value s2
    extract_lets +onlyGivenNames -underBinder s5
    have h6 : Keeps a s5 := by
      unfold s5
      split
      · apply wr_keeps
        exact h3
      · assumption
    clear_value s5
    extract_lets +onlyGivenNames -underBinder s7
    clear_value s7
    extract_lets +onlyGivenNames -underBinder s8
    clear_value s8
    extract_lets +onlyGivenNames -underBinder s9
    clear_value s9
    extract_lets +onlyGivenNames -underBinder s10
    have h11 : Keeps a s10 := by
      unfold s10
      apply setChan_keeps
      exact h6
    clear_value s10
    refine keeps_ite ?_ ?_
    · apply wr_keeps
      exact h11
    · extract_lets +onlyGivenNames -underBinder s12
      clear_value s12
      extract_lets +onlyGivenNames -underBinder s13
      have h14 : Keeps a s13 := by
        unfold s13
        apply wr_keeps
        exact h11
      clear_value s13
      refine keeps_ite ?_ ?_
      · apply thermalEvent_keeps
        exact h14
      · exact h14

theorem flushChan_keeps {a : State} (j : Nat) (ch : Nat) {s : State} (hs : Keeps a s) :
    Keeps a (flushChan j ch s) := by
  unfold flushChan
  extract_lets +onlyGivenNames -underBinder s0
  clear_value s0
  apply forEach_keeps
  · intro x1 x2 x3
    apply serve_keeps
    exact x3
  · exact hs

theorem noteFailed_keeps {a : State} (j : Nat) (ch : Nat) {s : State} (hs : Keeps a s) :
    Keeps a (noteFailed j ch s) := by
  unfold noteFailed
  extract_lets +onlyGivenNames -underBinder s0
  have h1 : Keeps a s0 := by
    unfold s0
    apply memErrLog_keeps
    exact hs
  clear_value s0
  apply forEach_keeps
  · intro x2 x3 x4
    apply postEvent_keeps
    exact x4
  · exact h1

theorem failChannel_keeps {a : State} (j : Nat) (ch : Nat) {s : State} (hs : Keeps a s) :
    Keeps a (failChannel j ch s) := by
  unfold failChannel
  extract_lets +onlyGivenNames -underBinder s0
  have h1 : Keeps a s0 := by
    unfold s0
    apply wr_keeps
    exact hs
  clear_value s0
  extract_lets +onlyGivenNames -underBinder s2
  have h3 : Keeps a s2 := by
    unfold s2
    apply noteFailed_keeps
    exact h1
  clear_value s2
  extract_lets +onlyGivenNames -underBinder s4
  clear_value s4
  extract_lets +onlyGivenNames -underBinder s5
  clear_value s5
  extract_lets +onlyGivenNames -underBinder s6
  have h7 : Keeps a s6 := by
    unfold s6
    refine keeps_ite ?_ ?_
    · split
      · apply clrB_keeps
        apply setMem_keeps
        · intro x8
          exact ⟨rfl, rfl⟩
        · exact h3
      · exact h3
    · exact h3
  clear_value s6
  apply flushChan_keeps
  exact h7

theorem doChanRetrainDone_keeps {a : State} (j : Nat) (ch : Nat) (ok : Bool) {s : State} (hs : Keeps a s) :
    Keeps a (doChanRetrainDone j ch ok s) := by
  unfold doChanRetrainDone
  split
  · exact hs
  · extract_lets +onlyGivenNames -underBinder s0
    have h1 : Keeps a s0 := by
      unfold s0
      apply setChan_keeps
      exact hs
    clear_value s0
    extract_lets +onlyGivenNames -underBinder s2
    have h3 : Keeps a s2 := by
      unfold s2
      apply clrB_keeps
      exact h1
    clear_value s2
    extract_lets +onlyGivenNames -underBinder s4
    have h5 : Keeps a s4 := by
      unfold s4
      apply bump_keeps
      exact h3
    clear_value s4
    extract_lets +onlyGivenNames -underBinder s6
    have h7 : Keeps a s6 := by
      unfold s6
      apply wr_keeps
      exact h5
    clear_value s6
    extract_lets +onlyGivenNames -underBinder s8
    have h9 : Keeps a s8 := by
      unfold s8
      refine keeps_ite ?_ ?_
      · apply trainRate_keeps
        exact h7
      · apply failChannel_keeps
        exact h7
    clear_value s8
    split
    · apply startRetrain_keeps
      apply setMem_keeps
      · intro x10
        exact ⟨rfl, rfl⟩
      · exact h9
    · exact h9

theorem doDriftTrackingLimit_keeps {a : State} (j : Nat) (ch : Nat) (link : Bool) {s : State} (hs : Keeps a s) :
    Keeps a (doDriftTrackingLimit j ch link s) := by
  unfold doDriftTrackingLimit
  refine keeps_ite ?_ ?_
  · apply startRetrain_keeps
    exact hs
  · exact hs

theorem nextMove_keeps {a : State} {s : State} (hs : Keeps a s) :
    Keeps a (nextMove s) := by
  unfold nextMove
  refine keeps_ite ?_ ?_
  · exact hs
  · split
    · exact hs
    · apply setMem_keeps
      · intro x0
        exact ⟨rfl, rfl⟩
      · apply setB_keeps
        apply wr_keeps
        apply wr_keeps
        exact hs

theorem copyGran_keeps {a : State} (g : Nat) (errs : Nat) (again : Bool) (j : Nat) (k : Nat) {s : State} (hs : Keeps a s) :
    Keeps a (copyGran g errs again j k s) := by
  unfold copyGran
  extract_lets +onlyGivenNames -underBinder s0
  clear_value s0
  extract_lets +onlyGivenNames -underBinder s1
  clear_value s1
  extract_lets +onlyGivenNames -underBinder s2
  have h3 : Keeps a s2 := by
    unfold s2
    apply meetErrors_keeps
    apply noteCheck_keeps
    apply serveBytes_keeps
    exact hs
  clear_value s2
  extract_lets +onlyGivenNames -underBinder s4
  have h5 : Keeps a s4 := by
    unfold s4
    refine keeps_ite ?_ ?_
    · apply memErrLog_keeps
      apply bump_keeps
      exact h3
    · exact h3
  clear_value s4
  extract_lets +onlyGivenNames -underBinder s6
  have h7 : Keeps a s6 := by
    unfold s6
    apply drainGran_keeps
    exact h5
  clear_value s6
  extract_lets +onlyGivenNames -underBinder s8
  clear_value s8
  extract_lets +onlyGivenNames -underBinder s9
  clear_value s9
  apply serveBytes_keeps
  exact h7

theorem doMoveFrameCopy_keeps {a : State} (errs : Nat) (again : Bool) {s : State} (hs : Keeps a s) :
    Keeps a (doMoveFrameCopy errs again s) := by
  unfold doMoveFrameCopy
  extract_lets +onlyGivenNames -underBinder s0
  clear_value s0
  split
  · refine keeps_ite ?_ ?_
    · exact hs
    · extract_lets +onlyGivenNames -underBinder s1
      have h2 : Keeps a s1 := by
        unfold s1
        apply copyGran_keeps
        exact hs
      clear_value s1
      extract_lets +onlyGivenNames -underBinder s3
      clear_value s3
      refine keeps_ite ?_ ?_
      · apply wr_keeps
        exact h2
      · apply nextMove_keeps
        apply setMem_keeps
        · intro x4
          exact ⟨rfl, rfl⟩
        · apply wr_keeps
          apply clrB_keeps
          apply wr_keeps
          apply wr_keeps
          exact h2
  · exact hs

theorem drainSlot_keeps {a : State} (k : Nat) {s : State} (hs : Keeps a s) :
    Keeps a (drainSlot k s) := by
  unfold drainSlot
  extract_lets +onlyGivenNames -underBinder s0
  clear_value s0
  extract_lets +onlyGivenNames -underBinder s1
  have h2 : Keeps a s1 := by
    unfold s1
    apply forEach_keeps
    · intro x3 x4 x5
      apply evictLine_keeps
      exact x5
    · exact hs
  clear_value s1
  apply forEach_keeps
  · intro x6 x7 x8
    apply forEach_keeps
    · intro x9 x10 x11
      apply serve_keeps
      exact x11
    · exact x8
  · exact h2

theorem newKey_keeps {a : State} (k : Nat) {s : State} (hs : Keeps a s) :
    Keeps a (newKey k s) := by
  unfold newKey
  refine Keeps.same (s := s) ?_ rfl rfl rfl rfl rfl rfl rfl rfl rfl
  exact hs

theorem dropKey_keeps {a : State} (k : Nat) {s : State} (hs : Keeps a s) :
    Keeps a (dropKey k s) := by
  unfold dropKey
  refine Keeps.same (s := s) ?_ rfl rfl rfl rfl rfl rfl rfl rfl rfl
  exact hs

theorem withdrawKey_keeps {a : State} (k : Nat) {s : State} (hs : Keeps a s) :
    Keeps a (withdrawKey k s) := by
  unfold withdrawKey
  apply emit_keeps
  apply dropKey_keeps
  apply drainSlot_keeps
  exact hs

theorem doKeySlotWithdraw_keeps {a : State} (k : Nat) (fresh : Bool) {s : State} (hs : Keeps a s) :
    Keeps a (doKeySlotWithdraw k fresh s) := by
  unfold doKeySlotWithdraw
  extract_lets +onlyGivenNames -underBinder s0
  have h1 : Keeps a s0 := by
    unfold s0
    apply withdrawKey_keeps
    exact hs
  clear_value s0
  refine keeps_ite ?_ ?_
  · apply newKey_keeps
    exact h1
  · exact h1

end Sys2Proof.Machine
end

