-- ==== Sys2Proof/Laws/KeepsSyrCore.lean ====
section
/-! SUPPORT. Sys2Proof/Laws/KeepsSyrCore.lean: every operation of Machine/SyrCore.lean keeps what `Keeps` says. -/

namespace Sys2Proof.Machine

open Sys2Proof

theorem setSyr_keeps {a : State} (f : Syr → Syr) {s : State} (hs : Keeps a s) :
    Keeps a (setSyr f s) := by
  unfold setSyr
  refine Keeps.same (s := s) ?_ rfl rfl rfl rfl rfl rfl rfl rfl rfl
  exact hs

theorem setPort_keeps {a : State} (p : Nat) (f : SyrPort → SyrPort) {s : State} (hs : Keeps a s) :
    Keeps a (setPort p f s) := by
  unfold setPort
  apply setSyr_keeps
  exact hs

theorem sendCells_keeps {a : State} (p : Nat) (o : Out) (l : List Byte) {s : State} (hs : Keeps a s) :
    Keeps a (sendCells p o l s) := by
  unfold sendCells
  refine keeps_ite ?_ ?_
  · extract_lets +onlyGivenNames -underBinder s0
    clear_value s0
    extract_lets +onlyGivenNames -underBinder s1
    clear_value s1
    extract_lets +onlyGivenNames -underBinder s2
    clear_value s2
    extract_lets +onlyGivenNames -underBinder s3
    clear_value s3
    extract_lets +onlyGivenNames -underBinder s4
    have h5 : Keeps a s4 := by
      unfold s4
      apply setPort_keeps
      exact hs
    clear_value s4
    apply emit_keeps
    apply emit_keeps
    exact h5
  · apply emit_keeps
    exact hs

theorem sendCredit_keeps {a : State} (p : Nat) (vcs : List Nat) (shared : Nat) {s : State} (hs : Keeps a s) :
    Keeps a (sendCredit p vcs shared s) := by
  unfold sendCredit
  apply sendCells_keeps
  exact hs

theorem leavePort_keeps {a : State} (p : Nat) (k : Pkt) {s : State} (hs : Keeps a s) :
    Keeps a (leavePort p k s) := by
  unfold leavePort
  extract_lets +onlyGivenNames -underBinder s0
  clear_value s0
  extract_lets +onlyGivenNames -underBinder s1
  clear_value s1
  extract_lets +onlyGivenNames -underBinder s2
  clear_value s2
  extract_lets +onlyGivenNames -underBinder s3
  clear_value s3
  extract_lets +onlyGivenNames -underBinder s4
  have h5 : Keeps a s4 := by
    unfold s4
    apply setPort_keeps
    exact hs
  clear_value s4
  extract_lets +onlyGivenNames -underBinder s6
  have h7 : Keeps a s6 := by
    unfold s6
    apply count_keeps
    exact h5
  clear_value s6
  extract_lets +onlyGivenNames -underBinder s8
  have h9 : Keeps a s8 := by
    unfold s8
    refine keeps_ite ?_ ?_
    · apply count_keeps
      exact h7
    · refine keeps_ite ?_ ?_
      · apply count_keeps
        exact h7
      · exact h7
  clear_value s8
  apply sendCells_keeps
  exact h9

theorem drainPort_keeps {a : State} (p : Nat) (z1 : List Pkt) (z2 : List Nat) {z3 : State} (hz3 : Keeps a z3) :
    Keeps a (drainPort p z1 z2 z3).2 := by
  induction z1 generalizing p z2 z3 with
  | nil =>
    unfold drainPort
    refine keeps_mk ?_
    exact hz3
  | cons x t ih =>
    unfold drainPort
    extract_lets +onlyGivenNames -underBinder s0
    clear_value s0
    refine keeps_ite_snd ?_ ?_
    · apply ih
      apply leavePort_keeps
      exact hz3
    · extract_lets +onlyGivenNames -underBinder s1
      have h2 : Keeps a s1.2 := by
        unfold s1
        apply ih
        exact hz3
      clear_value s1
      refine keeps_mk ?_
      exact h2

theorem pumpPort_keeps {a : State} (p : Nat) {s : State} (hs : Keeps a s) :
    Keeps a (pumpPort p s) := by
  unfold pumpPort
  extract_lets +onlyGivenNames -underBinder s0
  have h1 : Keeps a s0.2 := by
    unfold s0
    apply drainPort_keeps
    exact hs
  clear_value s0
  apply setPort_keeps
  exact h1

theorem wakePattern_keeps {a : State} (p : Nat) {s : State} (hs : Keeps a s) :
    Keeps a (wakePattern p s) := by
  unfold wakePattern
  refine keeps_ite ?_ ?_
  · apply clrB_keeps
    apply emit_keeps
    exact hs
  · exact hs

theorem queuePort_keeps {a : State} (p : Nat) (k : Pkt) {s : State} (hs : Keeps a s) :
    Keeps a (queuePort p k s) := by
  unfold queuePort
  apply pumpPort_keeps
  apply setPort_keeps
  apply wakePattern_keeps
  exact hs

theorem sendDir_keeps {a : State} (d : Nat) (k : Pkt) {s : State} (hs : Keeps a s) :
    Keeps a (sendDir d k s) := by
  unfold sendDir
  split
  · apply setSyr_keeps
    exact hs
  · apply queuePort_keeps
    exact hs

theorem deliver_keeps {a : State} (k : Pkt) {s : State} (hs : Keeps a s) :
    Keeps a (deliver k s) := by
  unfold deliver
  apply setSyr_keeps
  exact hs

theorem routePkt_keeps {a : State} (z0 : Nat) (z1 : Bool) (z2 : Option Nat) (z3 : Pkt) {z4 : State} (hz4 : Keeps a z4) :
    Keeps a (routePkt z0 z1 z2 z3 z4) := by
  induction z0 generalizing z1 z2 z3 z4 with
  | zero =>
    unfold routePkt
    exact hz4
  | succ n ih =>
    unfold routePkt
    extract_lets +onlyGivenNames -underBinder s0
    have h1 : ∀ y0, Keeps a y0 → Keeps a (s0 y0) := by
      unfold s0
      intro x2 x3
      split
      · apply ih
        exact x3
      · assumption
    clear_value s0
    refine keeps_ite ?_ ?_
    · refine keeps_ite ?_ ?_
      · apply h1
        exact hz4
      · apply sendDir_keeps
        exact hz4
    · extract_lets +onlyGivenNames -underBinder s4
      clear_value s4
      split
      · apply deliver_keeps
        exact hz4
      · refine keeps_ite ?_ ?_
        · apply h1
          exact hz4
        · refine keeps_ite ?_ ?_
          · split
            · apply bumpSat_keeps
              exact hz4
            · exact hz4
          · apply sendDir_keeps
            exact hz4

theorem bounce_keeps {a : State} (k : Pkt) {s : State} (hs : Keeps a s) :
    Keeps a (bounce k s) := by
  unfold bounce
  split
  · apply routePkt_keeps
    exact hs
  · exact hs

theorem syrSend_keeps {a : State} (k : Pkt) {s : State} (hs : Keeps a s) :
    Keeps a (syrSend k s) := by
  unfold syrSend
  refine keeps_ite ?_ ?_
  · apply deliver_keeps
    exact hs
  · apply routePkt_keeps
    exact hs

theorem syrAnswer_keeps {a : State} (k : Pkt) (st : Status) (data : List Byte) {s : State} (hs : Keeps a s) :
    Keeps a (syrAnswer k st data s) := by
  unfold syrAnswer
  apply syrSend_keeps
  exact hs

theorem freeCells_keeps {a : State} (p : Nat) (k : Pkt) {s : State} (hs : Keeps a s) :
    Keeps a (freeCells p k s) := by
  unfold freeCells
  extract_lets +onlyGivenNames -underBinder s0
  clear_value s0
  apply sendCredit_keeps
  exact hs

end Sys2Proof.Machine
end

