-- ==== Sys2Proof/Laws/KeepsZcp.lean ====
section
/-! SUPPORT. Sys2Proof/Laws/KeepsZcp.lean: every operation of Machine/Zcp.lean keeps what `Keeps` says. -/

namespace Sys2Proof.Machine

open Sys2Proof

theorem setSite_keeps {a : State} (j : Nat) (f : Site → Site) {s : State} (hs : Keeps a s) :
    Keeps a (setSite j f s) := by
  unfold setSite
  refine Keeps.same (s := s) ?_ rfl rfl rfl rfl rfl rfl rfl rfl rfl
  exact hs

theorem useCredit_keeps {a : State} (j : Nat) (c : Nat) {s : State} (hs : Keeps a s) :
    Keeps a (useCredit j c s) := by
  unfold useCredit
  apply setSite_keeps
  exact hs

theorem zcpLeave_keeps {a : State} (j : Nat) (m : ZMsg) {s : State} (hs : Keeps a s) :
    Keeps a (zcpLeave j m s) := by
  unfold zcpLeave
  extract_lets +onlyGivenNames -underBinder s0
  have h1 : Keeps a s0 := by
    unfold s0
    apply useCredit_keeps
    exact hs
  clear_value s0
  extract_lets +onlyGivenNames -underBinder s2
  have h3 : Keeps a s2 := by
    unfold s2
    refine keeps_ite ?_ ?_
    · apply count_keeps
      exact h1
    · exact h1
  clear_value s2
  extract_lets +onlyGivenNames -underBinder s4
  have h5 : ∀ y0 y1, Keeps a y1 → Keeps a (s4 y0 y1) := by
    unfold s4
    intro x6 x7 x8
    apply setSite_keeps
    exact x8
  clear_value s4
  split
  · apply h5
    exact h3
  · extract_lets +onlyGivenNames -underBinder s9
    clear_value s9
    apply h5
    apply startReq_keeps
    exact h3

theorem zcpFlit_keeps {a : State} (j : Nat) (slots : List (Nat × Nat)) {s : State} (hs : Keeps a s) :
    Keeps a (zcpFlit j slots s) := by
  unfold zcpFlit
  extract_lets +onlyGivenNames -underBinder s0
  clear_value s0
  extract_lets +onlyGivenNames -underBinder s1
  clear_value s1
  extract_lets +onlyGivenNames -underBinder s2
  clear_value s2
  extract_lets +onlyGivenNames -underBinder s3
  clear_value s3
  apply emit_keeps
  apply count_keeps
  apply setSite_keeps
  exact hs

theorem zcpFlits_keeps {a : State} (j : Nat) {s : State} (hs : Keeps a s) :
    Keeps a (zcpFlits j s) := by
  unfold zcpFlits
  extract_lets +onlyGivenNames -underBinder s0
  clear_value s0
  apply forEach_keeps
  · intro x1 x2 x3
    apply zcpFlit_keeps
    exact x3
  · apply setSite_keeps
    exact hs

theorem zcpLinkUp_keeps {a : State} (j : Nat) {s : State} (hs : Keeps a s) :
    Keeps a (zcpLinkUp j s) := by
  unfold zcpLinkUp
  apply zcpFlit_keeps
  apply setSite_keeps
  exact hs

theorem returnCredit_keeps {a : State} (j : Nat) (c : Nat) {s : State} (hs : Keeps a s) :
    Keeps a (returnCredit j c s) := by
  unfold returnCredit
  apply setSite_keeps
  exact hs

theorem zcpIdleFlit_keeps {a : State} (j : Nat) {s : State} (hs : Keeps a s) :
    Keeps a (zcpIdleFlit j s) := by
  unfold zcpIdleFlit
  refine keeps_ite ?_ ?_
  · apply zcpFlit_keeps
    exact hs
  · exact hs

theorem settleCredits_keeps {a : State} {s : State} (hs : Keeps a s) :
    Keeps a (settleCredits s) := by
  unfold settleCredits
  apply forEach_keeps
  · intro x0 x1 x2
    apply zcpIdleFlit_keeps
    exact x2
  · exact hs

theorem zcpDrain_keeps {a : State} (j : Nat) (z1 : List ZMsg) (z2 : List Nat) {z3 : State} (hz3 : Keeps a z3) :
    Keeps a (zcpDrain j z1 z2 z3).2 := by
  induction z1 generalizing j z2 z3 with
  | nil =>
    unfold zcpDrain
    refine keeps_mk ?_
    exact hz3
  | cons x t ih =>
    unfold zcpDrain
    refine keeps_ite_snd ?_ ?_
    · apply ih
      apply zcpLeave_keeps
      exact hz3
    · extract_lets +onlyGivenNames -underBinder s0
      have h1 : Keeps a s0.2 := by
        unfold s0
        apply ih
        exact hz3
      clear_value s0
      refine keeps_mk ?_
      exact h1

theorem zcpPump_keeps {a : State} (j : Nat) {s : State} (hs : Keeps a s) :
    Keeps a (zcpPump j s) := by
  unfold zcpPump
  extract_lets +onlyGivenNames -underBinder s0
  clear_value s0
  extract_lets +onlyGivenNames -underBinder s1
  have h2 : Keeps a s1.2 := by
    unfold s1
    apply zcpDrain_keeps
    exact hs
  clear_value s1
  apply zcpFlits_keeps
  apply setSite_keeps
  exact h2

theorem zcpSend_keeps {a : State} (j : Nat) (m : ZMsg) {s : State} (hs : Keeps a s) :
    Keeps a (zcpSend j m s) := by
  unfold zcpSend
  refine keeps_ite ?_ ?_
  · apply zcpPump_keeps
    apply setSite_keeps
    exact hs
  · exact hs

theorem zcpAnswer_keeps {a : State} (j : Nat) (opc : Nat) (tag : Nat) (st : Status) {s : State} (hs : Keeps a s) :
    Keeps a (zcpAnswer j opc tag st s) := by
  unfold zcpAnswer
  apply zcpSend_keeps
  exact hs

theorem sendBeacons_keeps {a : State} (p : Nat) {s : State} (hs : Keeps a s) :
    Keeps a (sendBeacons p s) := by
  unfold sendBeacons
  apply forEach_keeps
  · intro x0 x1 x2
    refine keeps_ite ?_ ?_
    · exact x2
    · apply zcpSend_keeps
      exact x2
  · exact hs

end Sys2Proof.Machine
end

