-- ==== Sys2Proof/Laws/KeepsCoherence.lean ====
section
/-! SUPPORT. Sys2Proof/Laws/KeepsCoherence.lean: every operation of Machine/Coherence.lean keeps what `Keeps` says. -/

namespace Sys2Proof.Machine

open Sys2Proof

theorem setDent_keeps {a : State} (line : Nat) (e : DEnt) {s : State} (hs : Keeps a s) :
    Keeps a (setDent line e s) := by
  unfold setDent
  apply setCoh_keeps
  exact hs

theorem setTrans_keeps {a : State} (line : Nat) (t : Trans) {s : State} (hs : Keeps a s) :
    Keeps a (setTrans line t s) := by
  unfold setTrans
  apply setCoh_keeps
  exact hs

theorem endTrans_keeps {a : State} (line : Nat) {s : State} (hs : Keeps a s) :
    Keeps a (endTrans line s) := by
  unfold endTrans
  apply setCoh_keeps
  exact hs

theorem countLateReq_keeps {a : State} (r : HReq) {s : State} (hs : Keeps a s) :
    Keeps a (countLateReq r s) := by
  unfold countLateReq
  refine keeps_ite ?_ ?_
  · apply noteLate_keeps
    exact hs
  · exact hs

theorem inboundPart_keeps {a : State} (id : Nat) (p : Nat) (st : Status) (data : List Byte) {s : State} (hs : Keeps a s) :
    Keeps a (inboundPart id p st data s) := by
  unfold inboundPart
  split
  · exact hs
  · extract_lets +onlyGivenNames -underBinder s0
    refine keeps_ite ?_ ?_
    · refine Keeps.same (s := s) ?_ rfl rfl rfl rfl rfl rfl rfl rfl rfl
      exact hs
    · apply syrAnswer_keeps
      refine Keeps.same (s := s) ?_ rfl rfl rfl rfl rfl rfl rfl rfl rfl
      exact hs

theorem answer_keeps {a : State} (w : Who) (st : Status) (data : List Byte) {s : State} (hs : Keeps a s) :
    Keeps a (answer w st data s) := by
  unfold answer
  extract_lets +onlyGivenNames -underBinder s0
  have h1 : Keeps a s0 := by
    unfold s0
    apply doneOut_keeps
    exact hs
  clear_value s0
  split
  · refine keeps_ite ?_ ?_
    · apply zcpAnswer_keeps
      exact h1
    · refine keeps_ite ?_ ?_
      · apply zcpAnswer_keeps
        exact h1
      · apply zcpSend_keeps
        exact h1
  · apply emit_keeps
    exact h1
  · apply emit_keeps
    exact h1
  · apply meshAnswer_keeps
    exact h1
  · apply completeDesc_keeps
    exact h1
  · apply setPiece_keeps
    exact h1
  · apply inboundPart_keeps
    exact h1
  · exact h1

theorem answerReq_keeps {a : State} (r : HReq) (st : Status) (data : List Byte) {s : State} (hs : Keeps a s) :
    Keeps a (answerReq r st data s) := by
  unfold answerReq
  refine keeps_ite ?_ ?_
  · apply answer_keeps
    apply countLateReq_keeps
    exact hs
  · apply answer_keeps
    exact hs

theorem grantData_keeps {a : State} (r : HReq) (g : Nat) (data : List Byte) {s : State} (hs : Keeps a s) :
    Keeps a (grantData r g data s) := by
  unfold grantData
  extract_lets +onlyGivenNames -underBinder s0
  clear_value s0
  extract_lets +onlyGivenNames -underBinder s1
  have h2 : Keeps a s1 := by
    unfold s1
    apply doneOut_keeps
    apply countLateReq_keeps
    exact hs
  clear_value s1
  split
  · apply zcpSend_keeps
    exact h2
  · apply emit_keeps
    exact h2
  · exact h2

theorem grantOnly_keeps {a : State} (w : Who) {s : State} (hs : Keeps a s) :
    Keeps a (grantOnly w s) := by
  unfold grantOnly
  extract_lets +onlyGivenNames -underBinder s0
  have h1 : Keeps a s0 := by
    unfold s0
    apply doneOut_keeps
    exact hs
  clear_value s0
  split
  · apply zcpAnswer_keeps
    exact h1
  · apply emit_keeps
    exact h1
  · exact h1

theorem sendSnoop_keeps {a : State} (opc : Nat) (line : Nat) (j : Nat) {s : State} (hs : Keeps a s) :
    Keeps a (sendSnoop opc line j s) := by
  unfold sendSnoop
  extract_lets +onlyGivenNames -underBinder s0
  have h1 : Keeps a s0 := by
    unfold s0
    apply count_keeps
    apply count_keeps
    apply bump_keeps
    exact hs
  clear_value s0
  extract_lets +onlyGivenNames -underBinder s2
  clear_value s2
  refine keeps_ite ?_ ?_
  · apply sendReq_keeps
    exact h1
  · apply zcpSend_keeps
    exact h1

theorem awaitAck_keeps {a : State} (line : Nat) (t : Trans) (e : DEnt) (m : Bool) {s : State} (hs : Keeps a s) :
    Keeps a (awaitAck line t e m s) := by
  unfold awaitAck
  extract_lets +onlyGivenNames -underBinder s0
  clear_value s0
  split
  · apply endTrans_keeps
    apply setDent_keeps
    exact hs
  · apply setTrans_keeps
    exact hs

theorem grantHome_keeps {a : State} (line : Nat) (g : Nat) (t : Trans) (e : DEnt) {s : State} (hs : Keeps a s) :
    Keeps a (grantHome line g t e s) := by
  unfold grantHome
  extract_lets +onlyGivenNames -underBinder s0
  have h1 : Keeps a s0.2.2 := by
    unfold s0
    apply readLine_keeps
    exact hs
  clear_value s0
  refine keeps_ite ?_ ?_
  · apply awaitAck_keeps
    apply grantData_keeps
    exact h1
  · extract_lets +onlyGivenNames -underBinder s2
    have h3 : Keeps a s2 := by
      unfold s2
      apply endTrans_keeps
      apply answer_keeps
      exact h1
    clear_value s2
    refine keeps_ite ?_ ?_
    · apply setDent_keeps
      exact h3
    · exact h3

theorem performReq_keeps {a : State} (r : HReq) {s : State} (hs : Keeps a s) :
    Keeps a (performReq r s).2.2 := by
  unfold performReq
  split
  · extract_lets +onlyGivenNames -underBinder s0
    have h1 : Keeps a s0.2.2 := by
      unfold s0
      apply readLine_keeps
      exact hs
    clear_value s0
    refine keeps_ite_snd2 ?_ ?_
    · refine keeps_mk2 ?_
      exact h1
    · extract_lets +onlyGivenNames -underBinder s2
      clear_value s2
      extract_lets +onlyGivenNames -underBinder s3
      clear_value s3
      extract_lets +onlyGivenNames -underBinder s4
      have h5 : Keeps a s4.2 := by
        unfold s4
        apply writeLine_keeps
        exact h1
      clear_value s4
      refine keeps_mk2 ?_
      exact h5
  · extract_lets +onlyGivenNames -underBinder s6
    have h7 : Keeps a s6.2 := by
      unfold s6
      apply writeLine_keeps
      exact hs
    clear_value s6
    refine keeps_mk2 ?_
    exact h7

theorem performEnd_keeps {a : State} (line : Nat) (r : HReq) {s : State} (hs : Keeps a s) :
    Keeps a (performEnd line r s) := by
  unfold performEnd
  extract_lets +onlyGivenNames -underBinder s0
  have h1 : Keeps a s0.2.2 := by
    unfold s0
    apply performReq_keeps
    exact hs
  clear_value s0
  apply answerReq_keeps
  apply endTrans_keeps
  apply setDent_keeps
  exact h1

theorem loseLine_keeps {a : State} (line : Nat) (j : Nat) {s : State} (hs : Keeps a s) :
    Keeps a (loseLine line j s) := by
  unfold loseLine
  refine keeps_ite ?_ ?_
  · apply setDent_keeps
    exact hs
  · extract_lets +onlyGivenNames -underBinder s0
    clear_value s0
    extract_lets +onlyGivenNames -underBinder s1
    have h2 : Keeps a s1 := by
      unfold s1
      apply setDent_keeps
      exact hs
    clear_value s1
    extract_lets +onlyGivenNames -underBinder s3
    have h4 : Keeps a s3 := by
      unfold s3
      apply bump_keeps
      exact h2
    clear_value s3
    extract_lets +onlyGivenNames -underBinder s5
    have h6 : Keeps a s5 := by
      unfold s5
      refine keeps_ite ?_ ?_
      · exact h4
      · apply wr_keeps
        apply wr_keeps
        apply wr_keeps
        apply setB_keeps
        exact h4
    clear_value s5
    split
    · apply postEvent_keeps
      exact h6
    · apply logRec_keeps
      exact h6

theorem finishBA_keeps {a : State} (line : Nat) (t : Trans) {s : State} (hs : Keeps a s) :
    Keeps a (finishBA line t s) := by
  unfold finishBA
  refine keeps_ite ?_ ?_
  · apply endTrans_keeps
    apply loseLine_keeps
    exact hs
  · split
    · split
      · refine keeps_ite ?_ ?_
        · apply awaitAck_keeps
          apply grantOnly_keeps
          exact hs
        · apply grantHome_keeps
          exact hs
      · apply endTrans_keeps
        apply setDent_keeps
        exact hs
    · split
      · refine keeps_ite ?_ ?_
        · apply awaitAck_keeps
          apply grantOnly_keeps
          exact hs
        · apply grantHome_keeps
          exact hs
      · apply endTrans_keeps
        apply setDent_keeps
        exact hs
    · split
      · refine keeps_ite ?_ ?_
        · apply awaitAck_keeps
          apply grantOnly_keeps
          exact hs
        · apply grantHome_keeps
          exact hs
      · apply endTrans_keeps
        apply setDent_keeps
        exact hs
    · split
      · apply awaitAck_keeps
        apply grantOnly_keeps
        exact hs
      · apply endTrans_keeps
        apply setDent_keeps
        exact hs
    · apply performEnd_keeps
      exact hs
    · apply performEnd_keeps
      exact hs
    · apply performEnd_keeps
      exact hs
    · apply endTrans_keeps
      exact hs
    · apply endTrans_keeps
      apply setDent_keeps
      exact hs

theorem homeDirty_keeps {a : State} (line : Nat) (t : Trans) {s : State} (hs : Keeps a s) :
    Keeps a (homeDirty line t s) := by
  unfold homeDirty
  split
  · refine keeps_ite ?_ ?_
    · exact hs
    · apply writeHome_keeps
      exact hs
  · exact hs

theorem loseSharers_keeps {a : State} (line : Nat) (sh : Nat) {s : State} (hs : Keeps a s) :
    Keeps a (loseSharers line sh s) := by
  unfold loseSharers
  refine keeps_ite ?_ ?_
  · exact hs
  · apply forEach_keeps
    · intro x0 x1 x2
      apply sendSnoop_keeps
      exact x2
    · apply setTrans_keeps
      exact hs

theorem endOrphan_keeps {a : State} (line : Nat) (t : Trans) {s : State} (hs : Keeps a s) :
    Keeps a (endOrphan line t s) := by
  unfold endOrphan
  refine keeps_ite ?_ ?_
  · extract_lets +onlyGivenNames -underBinder s0
    have h1 : Keeps a s0 := by
      unfold s0
      apply endTrans_keeps
      apply setDent_keeps
      apply homeDirty_keeps
      exact hs
    clear_value s0
    split
    · apply setCoh_keeps
      exact h1
    · exact h1
  · apply endTrans_keeps
    apply setDent_keeps
    apply homeDirty_keeps
    exact hs

theorem finishBD_keeps {a : State} (line : Nat) (t : Trans) {s : State} (hs : Keeps a s) :
    Keeps a (finishBD line t s) := by
  unfold finishBD
  extract_lets +onlyGivenNames -underBinder s0
  clear_value s0
  extract_lets +onlyGivenNames -underBinder s1
  clear_value s1
  extract_lets +onlyGivenNames -underBinder s2
  clear_value s2
  refine keeps_ite ?_ ?_
  · apply loseSharers_keeps
    apply answer_keeps
    apply endTrans_keeps
    apply loseLine_keeps
    exact hs
  · split
    · split
      · apply endOrphan_keeps
        exact hs
      · refine keeps_ite ?_ ?_
        · apply grantHome_keeps
          apply homeDirty_keeps
          exact hs
        · refine keeps_ite ?_ ?_
          · apply awaitAck_keeps
            apply grantData_keeps
            exact hs
          · refine keeps_ite ?_ ?_
            · apply grantHome_keeps
              apply homeDirty_keeps
              exact hs
            · apply grantHome_keeps
              apply homeDirty_keeps
              exact hs
    · split
      · apply awaitAck_keeps
        apply grantData_keeps
        exact hs
      · apply grantHome_keeps
        exact hs
      · apply endOrphan_keeps
        exact hs
    · split
      · refine keeps_ite ?_ ?_
        · apply awaitAck_keeps
          apply grantOnly_keeps
          exact hs
        · split
          · apply awaitAck_keeps
            apply grantData_keeps
            exact hs
          · apply grantHome_keeps
            exact hs
      · apply endOrphan_keeps
        exact hs
    · split
      · apply awaitAck_keeps
        apply grantOnly_keeps
        exact hs
      · apply endOrphan_keeps
        exact hs
    · refine keeps_ite ?_ ?_
      · apply endOrphan_keeps
        exact hs
      · refine keeps_ite ?_ ?_
        · apply answerReq_keeps
          apply endTrans_keeps
          apply setDent_keeps
          exact hs
        · extract_lets +onlyGivenNames -underBinder s3
          have h4 : Keeps a s3.2.2 := by
            unfold s3
            apply readLine_keeps
            apply homeDirty_keeps
            exact hs
          clear_value s3
          apply answerReq_keeps
          apply endTrans_keeps
          apply setDent_keeps
          exact h4
    · refine keeps_ite ?_ ?_
      · apply endOrphan_keeps
        exact hs
      · refine keeps_ite ?_ ?_
        · apply answerReq_keeps
          apply endTrans_keeps
          apply setDent_keeps
          exact hs
        · extract_lets +onlyGivenNames -underBinder s5
          have h6 : Keeps a s5.2.2 := by
            unfold s5
            apply readLine_keeps
            apply homeDirty_keeps
            exact hs
          clear_value s5
          apply answerReq_keeps
          apply endTrans_keeps
          apply setDent_keeps
          exact h6
    · apply performEnd_keeps
      apply homeDirty_keeps
      exact hs
    · apply performEnd_keeps
      apply homeDirty_keeps
      exact hs
    · apply performEnd_keeps
      apply homeDirty_keeps
      exact hs
    · apply endTrans_keeps
      apply setDent_keeps
      apply homeDirty_keeps
      exact hs
    · apply endTrans_keeps
      apply setDent_keeps
      apply homeDirty_keeps
      exact hs
    · apply endTrans_keeps
      apply setDent_keeps
      apply homeDirty_keeps
      exact hs

theorem startTrans_keeps {a : State} (line : Nat) (t : Trans) (opc : Nat) (inv : List Nat) {s : State} (hs : Keeps a s) :
    Keeps a (startTrans line t opc inv s) := by
  unfold startTrans
  extract_lets +onlyGivenNames -underBinder s0
  clear_value s0
  extract_lets +onlyGivenNames -underBinder s1
  clear_value s1
  refine keeps_ite ?_ ?_
  · apply finishBA_keeps
    exact hs
  · extract_lets +onlyGivenNames -underBinder s2
    have h3 : Keeps a s2 := by
      unfold s2
      apply setTrans_keeps
      exact hs
    clear_value s2
    extract_lets +onlyGivenNames -underBinder s4
    have h5 : Keeps a s4 := by
      unfold s4
      split
      · apply sendSnoop_keeps
        exact h3
      · exact h3
    clear_value s4
    apply forEach_keeps
    · intro x6 x7 x8
      apply sendSnoop_keeps
      exact x8
    · exact h5

theorem sweepUse_keeps {a : State} (line : Nat) {s : State} (hs : Keeps a s) :
    Keeps a (sweepUse line s) := by
  unfold sweepUse
  extract_lets +onlyGivenNames -underBinder s0
  clear_value s0
  apply setCoh_keeps
  exact hs

theorem startEvict_keeps {a : State} (line : Nat) (kind : HKind) (cls : Nat) {s : State} (hs : Keeps a s) :
    Keeps a (startEvict line kind cls s) := by
  unfold startEvict
  extract_lets +onlyGivenNames -underBinder s0
  clear_value s0
  extract_lets +onlyGivenNames -underBinder s1
  clear_value s1
  extract_lets +onlyGivenNames -underBinder s2
  have h3 : Keeps a s2 := by
    unfold s2
    refine keeps_ite ?_ ?_
    · apply count_keeps
      apply bump_keeps
      exact hs
    · exact hs
  clear_value s2
  apply startTrans_keeps
  exact h3

theorem startShow_keeps {a : State} (line : Nat) (cls : Nat) {s : State} (hs : Keeps a s) :
    Keeps a (startShow line cls s) := by
  unfold startShow
  extract_lets +onlyGivenNames -underBinder s0
  clear_value s0
  apply startTrans_keeps
  exact hs

theorem queueReq_keeps {a : State} (r : HReq) {s : State} (hs : Keeps a s) :
    Keeps a (queueReq r s) := by
  unfold queueReq
  apply setCoh_keeps
  exact hs

theorem requeue_keeps {a : State} (r : HReq) {s : State} (hs : Keeps a s) :
    Keeps a (requeue r s) := by
  unfold requeue
  apply setCoh_keeps
  exact hs

theorem violation_keeps {a : State} (j : Nat) (line : Nat) {s : State} (hs : Keeps a s) :
    Keeps a (violation j line s) := by
  unfold violation
  refine keeps_ite ?_ ?_
  · exact hs
  · apply wr_keeps
    apply wr_keeps
    apply wr_keeps
    apply setB_keeps
    exact hs

theorem loseStable_keeps {a : State} (j : Nat) (line : Nat) {s : State} (hs : Keeps a s) :
    Keeps a (loseStable j line s) := by
  unfold loseStable
  extract_lets +onlyGivenNames -underBinder s0
  clear_value s0
  refine keeps_ite ?_ ?_
  · apply loseLine_keeps
    exact hs
  · refine keeps_ite ?_ ?_
    · extract_lets +onlyGivenNames -underBinder s1
      clear_value s1
      extract_lets +onlyGivenNames -underBinder s2
      have h3 : Keeps a s2 := by
        unfold s2
        apply loseLine_keeps
        exact hs
      clear_value s2
      apply startTrans_keeps
      exact h3
    · refine keeps_ite ?_ ?_
      · apply setDent_keeps
        exact hs
      · exact hs

theorem advanceTrans_keeps {a : State} (line : Nat) (t : Trans) {s : State} (hs : Keeps a s) :
    Keeps a (advanceTrans line t s) := by
  unfold advanceTrans
  refine keeps_ite ?_ ?_
  · refine keeps_ite ?_ ?_
    · apply finishBD_keeps
      exact hs
    · apply finishBA_keeps
      exact hs
  · apply setTrans_keeps
    exact hs

theorem closeGrant_keeps {a : State} (line : Nat) (t : Trans) {s : State} (hs : Keeps a s) :
    Keeps a (closeGrant line t s) := by
  unfold closeGrant
  extract_lets +onlyGivenNames -underBinder s0
  clear_value s0
  refine keeps_ite ?_ ?_
  · apply loseSharers_keeps
    apply endTrans_keeps
    apply loseLine_keeps
    exact hs
  · apply endTrans_keeps
    apply setDent_keeps
    exact hs

theorem loseTrans_keeps {a : State} (j : Nat) (line : Nat) (t : Trans) {s : State} (hs : Keeps a s) :
    Keeps a (loseTrans j line t s) := by
  unfold loseTrans
  split
  · refine keeps_ite ?_ ?_
    · refine keeps_ite ?_ ?_
      · apply endTrans_keeps
        apply loseLine_keeps
        exact hs
      · apply closeGrant_keeps
        exact hs
    · split
      · apply setTrans_keeps
        exact hs
      · exact hs
  · extract_lets +onlyGivenNames -underBinder s0
    clear_value s0
    extract_lets +onlyGivenNames -underBinder s1
    clear_value s1
    extract_lets +onlyGivenNames -underBinder s2
    clear_value s2
    extract_lets +onlyGivenNames -underBinder s3
    clear_value s3
    extract_lets +onlyGivenNames -underBinder s4
    clear_value s4
    apply advanceTrans_keeps
    exact hs

theorem siteLost_keeps {a : State} (j : Nat) {s : State} (hs : Keeps a s) :
    Keeps a (siteLost j s) := by
  unfold siteLost
  extract_lets +onlyGivenNames -underBinder s0
  have h1 : Keeps a s0 := by
    unfold s0
    apply setCoh_keeps
    exact hs
  clear_value s0
  extract_lets +onlyGivenNames -underBinder s2
  clear_value s2
  extract_lets +onlyGivenNames -underBinder s3
  have h4 : Keeps a s3 := by
    unfold s3
    refine Keeps.same (s := s0) ?_ rfl rfl rfl rfl rfl rfl rfl rfl rfl
    exact h1
  clear_value s3
  extract_lets +onlyGivenNames -underBinder s5
  have h6 : Keeps a s5 := by
    unfold s5
    apply setCoh_keeps
    exact h4
  clear_value s5
  extract_lets +onlyGivenNames -underBinder s7
  have h8 : Keeps a s7 := by
    unfold s7
    apply forEach_keeps
    · intro x9 x10 x11
      split
      · apply loseTrans_keeps
        exact x11
      · exact x11
    · exact h6
  clear_value s7
  apply forEach_keeps
  · intro x12 x13 x14
    refine keeps_ite ?_ ?_
    · apply loseStable_keeps
      exact x14
    · exact x14
  · exact h8

theorem answerAcc_keeps {a : State} (stylus : Bool) (write : Bool) (tag : Nat) (data : List Byte) {s : State} (hs : Keeps a s) :
    Keeps a (answerAcc stylus write tag data s) := by
  unfold answerAcc
  refine keeps_ite ?_ ?_
  · apply emit_keeps
    exact hs
  · refine keeps_ite ?_ ?_
    · exact hs
    · apply emit_keeps
      exact hs

theorem endSiteAccesses_keeps {a : State} (j : Nat) {s : State} (hs : Keeps a s) :
    Keeps a (endSiteAccesses j s) := by
  unfold endSiteAccesses
  extract_lets +onlyGivenNames -underBinder s0
  clear_value s0
  extract_lets +onlyGivenNames -underBinder s1
  clear_value s1
  extract_lets +onlyGivenNames -underBinder s2
  have h3 : Keeps a s2 := by
    unfold s2
    refine Keeps.same (s := s) ?_ rfl rfl rfl rfl rfl rfl rfl rfl rfl
    exact hs
  clear_value s2
  extract_lets +onlyGivenNames -underBinder s4
  clear_value s4
  extract_lets +onlyGivenNames -underBinder s5
  have h6 : Keeps a s5 := by
    unfold s5
    refine Keeps.same (s := s2) ?_ rfl rfl rfl rfl rfl rfl rfl rfl rfl
    exact h3
  clear_value s5
  apply forEach_keeps
  · intro x7 x8 x9
    apply answerAcc_keeps
    exact x9
  · exact h6

theorem forceFence_keeps {a : State} (j : Nat) {s : State} (hs : Keeps a s) :
    Keeps a (forceFence j s) := by
  unfold forceFence
  extract_lets +onlyGivenNames -underBinder s0
  have h1 : Keeps a s0 := by
    unfold s0
    apply bumpSat_keeps
    apply setB_keeps
    apply wr_keeps
    exact hs
  clear_value s0
  extract_lets +onlyGivenNames -underBinder s2
  have h3 : Keeps a s2 := by
    unfold s2
    apply setSite_keeps
    exact h1
  clear_value s2
  apply siteOutcome_keeps
  apply endSiteAccesses_keeps
  apply siteLost_keeps
  exact h3

theorem fenceSite_keeps {a : State} (j : Nat) {s : State} (hs : Keeps a s) :
    Keeps a (fenceSite j s) := by
  unfold fenceSite
  refine keeps_ite ?_ ?_
  · exact hs
  · apply forceFence_keeps
    exact hs

theorem fenceProtocol_keeps {a : State} (j : Nat) (line : Nat) {s : State} (hs : Keeps a s) :
    Keeps a (fenceProtocol j line s) := by
  unfold fenceProtocol
  apply fenceSite_keeps
  apply setB_keeps
  apply violation_keeps
  exact hs

theorem takeStable_keeps {a : State} (r : HReq) {s : State} (hs : Keeps a s) :
    Keeps a (takeStable r s) := by
  unfold takeStable
  extract_lets +onlyGivenNames -underBinder s0
  clear_value s0
  extract_lets +onlyGivenNames -underBinder s1
  clear_value s1
  extract_lets +onlyGivenNames -underBinder s2
  clear_value s2
  refine keeps_ite ?_ ?_
  · split
    · refine keeps_ite ?_ ?_
      · apply performEnd_keeps
        exact hs
      · apply answer_keeps
        exact hs
    · refine keeps_ite ?_ ?_
      · apply performEnd_keeps
        exact hs
      · apply answer_keeps
        exact hs
    · exact hs
    · exact hs
    · exact hs
    · apply answer_keeps
      exact hs
  · split
    · split
      · exact hs
      · extract_lets +onlyGivenNames -underBinder s3
        clear_value s3
        split
        · refine keeps_ite ?_ ?_
          · apply requeue_keeps
            exact hs
          · split
            · apply answer_keeps
              exact hs
            · apply requeue_keeps
              exact hs
            · apply startEvict_keeps
              apply requeue_keeps
              refine keeps_ite ?_ ?_
              · apply sweepUse_keeps
                exact hs
              · exact hs
            · extract_lets +onlyGivenNames -underBinder s4
              have h5 : Keeps a s4 := by
                unfold s4
                apply setCoh_keeps
                exact hs
              clear_value s4
              refine keeps_ite ?_ ?_
              · apply awaitAck_keeps
                apply grantOnly_keeps
                exact h5
              · refine keeps_ite ?_ ?_
                · apply grantHome_keeps
                  exact h5
                · apply grantHome_keeps
                  exact h5
        · refine keeps_ite ?_ ?_
          · apply grantHome_keeps
            exact hs
          · apply startTrans_keeps
            exact hs
        · refine keeps_ite ?_ ?_
          · refine keeps_ite ?_ ?_
            · apply fenceProtocol_keeps
              exact hs
            · refine keeps_ite ?_ ?_
              · apply awaitAck_keeps
                apply grantOnly_keeps
                exact hs
              · refine keeps_ite ?_ ?_
                · apply grantHome_keeps
                  exact hs
                · apply grantHome_keeps
                  exact hs
          · extract_lets +onlyGivenNames -underBinder s6
            clear_value s6
            apply startTrans_keeps
            exact hs
        · refine keeps_ite ?_ ?_
          · refine keeps_ite ?_ ?_
            · apply startTrans_keeps
              exact hs
            · apply fenceProtocol_keeps
              exact hs
          · refine keeps_ite ?_ ?_
            · apply startTrans_keeps
              exact hs
            · refine keeps_ite ?_ ?_
              · apply startTrans_keeps
                exact hs
              · apply startTrans_keeps
                exact hs
    · split
      · exact hs
      · extract_lets +onlyGivenNames -underBinder s7
        clear_value s7
        split
        · refine keeps_ite ?_ ?_
          · apply requeue_keeps
            exact hs
          · split
            · apply answer_keeps
              exact hs
            · apply requeue_keeps
              exact hs
            · apply startEvict_keeps
              apply requeue_keeps
              refine keeps_ite ?_ ?_
              · apply sweepUse_keeps
                exact hs
              · exact hs
            · extract_lets +onlyGivenNames -underBinder s8
              have h9 : Keeps a s8 := by
                unfold s8
                apply setCoh_keeps
                exact hs
              clear_value s8
              refine keeps_ite ?_ ?_
              · apply awaitAck_keeps
                apply grantOnly_keeps
                exact h9
              · refine keeps_ite ?_ ?_
                · apply grantHome_keeps
                  exact h9
                · apply grantHome_keeps
                  exact h9
        · refine keeps_ite ?_ ?_
          · apply grantHome_keeps
            exact hs
          · apply startTrans_keeps
            exact hs
        · refine keeps_ite ?_ ?_
          · refine keeps_ite ?_ ?_
            · apply fenceProtocol_keeps
              exact hs
            · refine keeps_ite ?_ ?_
              · apply awaitAck_keeps
                apply grantOnly_keeps
                exact hs
              · refine keeps_ite ?_ ?_
                · apply grantHome_keeps
                  exact hs
                · apply grantHome_keeps
                  exact hs
          · extract_lets +onlyGivenNames -underBinder s10
            clear_value s10
            apply startTrans_keeps
            exact hs
        · refine keeps_ite ?_ ?_
          · refine keeps_ite ?_ ?_
            · apply startTrans_keeps
              exact hs
            · apply fenceProtocol_keeps
              exact hs
          · refine keeps_ite ?_ ?_
            · apply startTrans_keeps
              exact hs
            · refine keeps_ite ?_ ?_
              · apply startTrans_keeps
                exact hs
              · apply startTrans_keeps
                exact hs
    · split
      · exact hs
      · extract_lets +onlyGivenNames -underBinder s11
        clear_value s11
        split
        · refine keeps_ite ?_ ?_
          · apply requeue_keeps
            exact hs
          · split
            · apply answer_keeps
              exact hs
            · apply requeue_keeps
              exact hs
            · apply startEvict_keeps
              apply requeue_keeps
              refine keeps_ite ?_ ?_
              · apply sweepUse_keeps
                exact hs
              · exact hs
            · extract_lets +onlyGivenNames -underBinder s12
              have h13 : Keeps a s12 := by
                unfold s12
                apply setCoh_keeps
                exact hs
              clear_value s12
              refine keeps_ite ?_ ?_
              · apply awaitAck_keeps
                apply grantOnly_keeps
                exact h13
              · refine keeps_ite ?_ ?_
                · apply grantHome_keeps
                  exact h13
                · apply grantHome_keeps
                  exact h13
        · refine keeps_ite ?_ ?_
          · apply grantHome_keeps
            exact hs
          · apply startTrans_keeps
            exact hs
        · refine keeps_ite ?_ ?_
          · refine keeps_ite ?_ ?_
            · apply fenceProtocol_keeps
              exact hs
            · refine keeps_ite ?_ ?_
              · apply awaitAck_keeps
                apply grantOnly_keeps
                exact hs
              · refine keeps_ite ?_ ?_
                · apply grantHome_keeps
                  exact hs
                · apply grantHome_keeps
                  exact hs
          · extract_lets +onlyGivenNames -underBinder s14
            clear_value s14
            apply startTrans_keeps
            exact hs
        · refine keeps_ite ?_ ?_
          · refine keeps_ite ?_ ?_
            · apply startTrans_keeps
              exact hs
            · apply fenceProtocol_keeps
              exact hs
          · refine keeps_ite ?_ ?_
            · apply startTrans_keeps
              exact hs
            · refine keeps_ite ?_ ?_
              · apply startTrans_keeps
                exact hs
              · apply startTrans_keeps
                exact hs
    · split
      · exact hs
      · extract_lets +onlyGivenNames -underBinder s15
        clear_value s15
        split
        · refine keeps_ite ?_ ?_
          · apply requeue_keeps
            exact hs
          · split
            · apply answer_keeps
              exact hs
            · apply requeue_keeps
              exact hs
            · apply startEvict_keeps
              apply requeue_keeps
              refine keeps_ite ?_ ?_
              · apply sweepUse_keeps
                exact hs
              · exact hs
            · extract_lets +onlyGivenNames -underBinder s16
              have h17 : Keeps a s16 := by
                unfold s16
                apply setCoh_keeps
                exact hs
              clear_value s16
              refine keeps_ite ?_ ?_
              · apply awaitAck_keeps
                apply grantOnly_keeps
                exact h17
              · refine keeps_ite ?_ ?_
                · apply grantHome_keeps
                  exact h17
                · apply grantHome_keeps
                  exact h17
        · refine keeps_ite ?_ ?_
          · apply grantHome_keeps
            exact hs
          · apply startTrans_keeps
            exact hs
        · refine keeps_ite ?_ ?_
          · refine keeps_ite ?_ ?_
            · apply fenceProtocol_keeps
              exact hs
            · refine keeps_ite ?_ ?_
              · apply awaitAck_keeps
                apply grantOnly_keeps
                exact hs
              · refine keeps_ite ?_ ?_
                · apply grantHome_keeps
                  exact hs
                · apply grantHome_keeps
                  exact hs
          · extract_lets +onlyGivenNames -underBinder s18
            clear_value s18
            apply startTrans_keeps
            exact hs
        · refine keeps_ite ?_ ?_
          · refine keeps_ite ?_ ?_
            · apply startTrans_keeps
              exact hs
            · apply fenceProtocol_keeps
              exact hs
          · refine keeps_ite ?_ ?_
            · apply startTrans_keeps
              exact hs
            · refine keeps_ite ?_ ?_
              · apply startTrans_keeps
                exact hs
              · apply startTrans_keeps
                exact hs
    · refine keeps_ite ?_ ?_
      · extract_lets +onlyGivenNames -underBinder s19
        have h20 : Keeps a s19.2.2 := by
          unfold s19
          apply readLine_keeps
          exact hs
        clear_value s19
        apply answerReq_keeps
        exact h20
      · apply startTrans_keeps
        exact hs
    · refine keeps_ite ?_ ?_
      · extract_lets +onlyGivenNames -underBinder s21
        have h22 : Keeps a s21.2.2 := by
          unfold s21
          apply readLine_keeps
          exact hs
        clear_value s21
        apply answerReq_keeps
        exact h22
      · apply startTrans_keeps
        exact hs
    · refine keeps_ite ?_ ?_
      · apply performEnd_keeps
        exact hs
      · apply startTrans_keeps
        exact hs
    · refine keeps_ite ?_ ?_
      · apply performEnd_keeps
        exact hs
      · apply startTrans_keeps
        exact hs
    · refine keeps_ite ?_ ?_
      · apply performEnd_keeps
        exact hs
      · apply startTrans_keeps
        exact hs
    · exact hs
    · exact hs
    · exact hs

theorem homeArrive_keeps {a : State} (r : HReq) {s : State} (hs : Keeps a s) :
    Keeps a (homeArrive r s) := by
  unfold homeArrive
  refine keeps_ite ?_ ?_
  · apply queueReq_keeps
    exact hs
  · apply takeStable_keeps
    exact hs

theorem nextOfLine_keeps {a : State} (line : Nat) {s : State} (hs : Keeps a s) :
    Keeps a (nextOfLine line s) := by
  unfold nextOfLine
  split
  · refine keeps_ite ?_ ?_
    · apply advanceTrans_keeps
      exact hs
    · exact hs
  · refine keeps_ite ?_ ?_
    · exact hs
    · split
      · exact hs
      · apply takeStable_keeps
        apply setCoh_keeps
        exact hs

theorem addOut_keeps {a : State} (w : Who) (cls : Nat) (line : Nat) {s : State} (hs : Keeps a s) :
    Keeps a (addOut w cls line s) := by
  unfold addOut
  apply setCoh_keeps
  exact hs

theorem meetAt_keeps {a : State} (err : Nat) (r : HReq) {s : State} (hs : Keeps a s) :
    Keeps a (meetAt err r s) := by
  unfold meetAt
  refine keeps_ite ?_ ?_
  · apply sliceError_keeps
    exact hs
  · refine keeps_ite ?_ ?_
    · exact hs
    · extract_lets +onlyGivenNames -underBinder s0
      clear_value s0
      apply meetErrors_keeps
      exact hs

theorem enterHome_keeps {a : State} (err : Nat) (r : HReq) {s : State} (hs : Keeps a s) :
    Keeps a (enterHome err r s) := by
  unfold enterHome
  apply homeArrive_keeps
  apply meetAt_keeps
  apply addOut_keeps
  exact hs

theorem takeRx_keepsO {a : State} {j opc : Nat} {s : State} {m : ZMsg} {t : State} (e : takeRx j opc s = some (m, t)) (h : Keeps a s) :
    Keeps a t := by
  unfold takeRx at e
  repeat' split at e
  all_goals first
    | (simp at e; done)
    | (simp only [Option.some.injEq, Prod.mk.injEq] at e; rw [← e.2]; exact returnCredit_keeps _ _ (setSite_keeps _ _ h))

theorem fabricGo_keeps {a : State} (t : Nat) (id : Nat) (fn : Nat) (w : Nat) (off : Nat) (opc : Nat) (masked : Bool) (b : Nat) (data : List Byte) {s : State} (hs : Keeps a s) :
    Keeps a (fabricGo t id fn w off opc masked b data s) := by
  unfold fabricGo
  extract_lets +onlyGivenNames -underBinder s0
  clear_value s0
  extract_lets +onlyGivenNames -underBinder s1
  clear_value s1
  extract_lets +onlyGivenNames -underBinder s2
  have h3 : Keeps a s2 := by
    unfold s2
    refine Keeps.same (s := s) ?_ rfl rfl rfl rfl rfl rfl rfl rfl rfl
    exact hs
  clear_value s2
  apply syrSend_keeps
  exact h3

theorem fabricSend_keeps {a : State} (who : Who) (fn : Nat) (w : Nat) (off : Nat) (opc : Nat) (len : Nat) (data : List Byte) (mask : Option Nat) (aux : Nat) (dl : Option Nat) {s : State} (hs : Keeps a s) :
    Keeps a (fabricSend who fn w off opc len data mask aux dl s) := by
  unfold fabricSend
  refine keeps_ite ?_ ?_
  · apply answer_keeps
    exact hs
  · extract_lets +onlyGivenNames -underBinder s0
    clear_value s0
    extract_lets +onlyGivenNames -underBinder s1
    have h2 : Keeps a s1 := by
      unfold s1
      apply setSyr_keeps
      exact hs
    clear_value s1
    split
    · apply fabricGo_keeps
      exact h2
    · refine Keeps.same (s := s1) ?_ rfl rfl rfl rfl rfl rfl rfl rfl rfl
      exact h2

theorem answerOut_keeps {a : State} (id : Nat) (o : OutReq) (st : Status) (data : List Byte) {s : State} (hs : Keeps a s) :
    Keeps a (answerOut id o st data s) := by
  unfold answerOut
  apply answer_keeps
  apply setSyr_keeps
  exact hs

theorem siteRequest_keeps {a : State} (j : Nat) (z1 : Nat) (err : Nat) (st : Status) (r : HReq) {s : State} (hs : Keeps a s) :
    Keeps a (siteRequest j z1 err st r s) := by
  unfold siteRequest
  refine keeps_ite ?_ ?_
  · apply answer_keeps
    exact hs
  · apply enterHome_keeps
    exact hs

theorem doCoherent_keeps {a : State} (j : Nat) (opc : Nat) (err : Nat) (kind : HKind) {s : State} (hs : Keeps a s) :
    Keeps a (doCoherent j opc err kind s) := by
  unfold doCoherent
  split
  · exact hs
  · extract_lets +onlyGivenNames -underBinder s0
    clear_value s0
    refine keeps_ite ?_ ?_
    · exact hs
    · apply siteRequest_keeps
      refine takeRx_keepsO (e := by assumption) ?_
      exact hs

theorem doRdOnce_keeps {a : State} (j : Nat) (err : Nat) {s : State} (hs : Keeps a s) :
    Keeps a (doRdOnce j err s) := by
  unfold doRdOnce
  split
  · exact hs
  · extract_lets +onlyGivenNames -underBinder s0
    clear_value s0
    extract_lets +onlyGivenNames -underBinder s1
    clear_value s1
    split
    · refine keeps_ite ?_ ?_
      · apply fabricSend_keeps
        refine takeRx_keepsO (e := by assumption) ?_
        exact hs
      · exact hs
    · refine keeps_ite ?_ ?_
      · exact hs
      · apply siteRequest_keeps
        refine takeRx_keepsO (e := by assumption) ?_
        exact hs

theorem doWrP_keeps {a : State} (j : Nat) (err : Nat) {s : State} (hs : Keeps a s) :
    Keeps a (doWrP j err s) := by
  unfold doWrP
  split
  · exact hs
  · extract_lets +onlyGivenNames -underBinder s0
    clear_value s0
    extract_lets +onlyGivenNames -underBinder s1
    clear_value s1
    split
    · refine keeps_ite ?_ ?_
      · apply fabricSend_keeps
        refine takeRx_keepsO (e := by assumption) ?_
        exact hs
      · exact hs
    · refine keeps_ite ?_ ?_
      · exact hs
      · apply siteRequest_keeps
        refine takeRx_keepsO (e := by assumption) ?_
        exact hs

theorem takeWb_keeps {a : State} (j : Nat) (line : Nat) (data : List Byte) {s : State} (hs : Keeps a s) :
    Keeps a (takeWb j line data s) := by
  unfold takeWb
  extract_lets +onlyGivenNames -underBinder s0
  clear_value s0
  split
  · split
    · refine keeps_ite ?_ ?_
      · apply setTrans_keeps
        apply writeHome_keeps
        exact hs
      · exact hs
    · refine keeps_ite ?_ ?_
      · apply setTrans_keeps
        apply writeHome_keeps
        exact hs
      · exact hs
    · exact hs
  · extract_lets +onlyGivenNames -underBinder s1
    clear_value s1
    refine keeps_ite ?_ ?_
    · apply setDent_keeps
      apply writeHome_keeps
      exact hs
    · refine keeps_ite ?_ ?_
      · apply setDent_keeps
        apply writeHome_keeps
        exact hs
      · exact hs

theorem doWb_keeps {a : State} (j : Nat) {s : State} (hs : Keeps a s) :
    Keeps a (doWb j s) := by
  unfold doWb
  split
  · exact hs
  · apply zcpAnswer_keeps
    apply takeWb_keeps
    refine takeRx_keepsO (e := by assumption) ?_
    exact hs

theorem snoopOf_keeps {a : State} (j : Nat) (tag : Nat) {s : State} (hs : Keeps a s) :
    Keeps a (snoopOf j tag s).2 := by
  unfold snoopOf
  split
  · split
    · refine keeps_mk ?_
      apply retireReq_keeps
      exact hs
    · refine keeps_mk ?_
      apply fenceProtocol_keeps
      exact hs
  · refine keeps_ite_snd ?_ ?_
    · refine keeps_mk ?_
      apply bump_keeps
      exact hs
    · refine keeps_mk ?_
      apply fenceProtocol_keeps
      exact hs

theorem takeInvAck_keeps {a : State} (j : Nat) (line : Nat) {s : State} (hs : Keeps a s) :
    Keeps a (takeInvAck j line s) := by
  unfold takeInvAck
  split
  · apply fenceProtocol_keeps
    exact hs
  · refine keeps_ite ?_ ?_
    · apply fenceProtocol_keeps
      exact hs
    · apply advanceTrans_keeps
      exact hs

theorem doInvAck_keeps {a : State} (j : Nat) {s : State} (hs : Keeps a s) :
    Keeps a (doInvAck j s) := by
  unfold doInvAck
  split
  · exact hs
  · extract_lets +onlyGivenNames -underBinder s0
    have h1 : Keeps a s0.2 := by
      unfold s0
      apply snoopOf_keeps
      refine takeRx_keepsO (e := by assumption) ?_
      exact hs
    clear_value s0
    split
    · apply takeInvAck_keeps
      exact h1
    · exact h1

theorem takeSnpData_keeps {a : State} (j : Nat) (line : Nat) (d : Nat) (keep : Nat) (data : List Byte) {s : State} (hs : Keeps a s) :
    Keeps a (takeSnpData j line d keep data s) := by
  unfold takeSnpData
  split
  · apply fenceProtocol_keeps
    exact hs
  · refine keeps_ite ?_ ?_
    · apply fenceProtocol_keeps
      refine keeps_ite ?_ ?_
      · apply writeHome_keeps
        exact hs
      · exact hs
    · apply advanceTrans_keeps
      exact hs

theorem doSnpData_keeps {a : State} (j : Nat) {s : State} (hs : Keeps a s) :
    Keeps a (doSnpData j s) := by
  unfold doSnpData
  split
  · exact hs
  · extract_lets +onlyGivenNames -underBinder s0
    have h1 : Keeps a s0.2 := by
      unfold s0
      apply snoopOf_keeps
      refine takeRx_keepsO (e := by assumption) ?_
      exact hs
    clear_value s0
    split
    · apply takeSnpData_keeps
      exact h1
    · exact h1

theorem doGrantAck_keeps {a : State} (j : Nat) {s : State} (hs : Keeps a s) :
    Keeps a (doGrantAck j s) := by
  unfold doGrantAck
  split
  · exact hs
  · split
    · apply closeGrant_keeps
      refine takeRx_keepsO (e := by assumption) ?_
      exact hs
    · apply fenceProtocol_keeps
      refine takeRx_keepsO (e := by assumption) ?_
      exact hs

theorem wakePort_keeps {a : State} (k : Nat) (fn : Nat) {s : State} (hs : Keeps a s) :
    Keeps a (wakePort k fn s) := by
  unfold wakePort
  refine keeps_ite ?_ ?_
  · apply noteWake_keeps
    exact hs
  · refine keeps_ite ?_ ?_
    · apply noteWake_keeps
      exact hs
    · refine keeps_ite ?_ ?_
      · apply noteWake_keeps
        exact hs
      · exact hs

theorem homeTake_keeps {a : State} (err : Nat) (z1 : HomeHeld) {s : State} (hs : Keeps a s) :
    Keeps a (homeTake err z1 s) := by
  unfold homeTake
  extract_lets +onlyGivenNames -underBinder s0
  clear_value s0
  refine keeps_ite ?_ ?_
  · apply answer_keeps
    exact hs
  · apply enterHome_keeps
    exact hs

theorem homeGo_keeps {a : State} (flit : Nat) (err : Nat) (z2 : HomeHeld) {s : State} (hs : Keeps a s) :
    Keeps a (homeGo flit err z2 s) := by
  unfold homeGo
  split
  · apply arriveAt_keeps
    · intro x0 x1
      apply homeTake_keeps
      exact x1
    · apply departMesh_keeps
      exact hs
  · apply homeTake_keeps
    exact hs

theorem homeRequest_keeps {a : State} (flit : Nat) (err : Nat) (z2 : HomeHeld) {s : State} (hs : Keeps a s) :
    Keeps a (homeRequest flit err z2 s) := by
  unfold homeRequest
  refine keeps_ite ?_ ?_
  · apply homeGo_keeps
    exact hs
  · refine keeps_ite ?_ ?_
    · exact hs
    · apply wakePort_keeps
      apply setCoh_keeps
      exact hs

theorem doHomeRead_keeps {a : State} (k : Nat) (id : Nat) (fn : Nat) (off : Nat) (len : Nat) (flit : Nat) (err : Nat) {s : State} (hs : Keeps a s) :
    Keeps a (doHomeRead k id fn off len flit err s) := by
  unfold doHomeRead
  apply homeRequest_keeps
  exact hs

theorem doHomeWrite_keeps {a : State} (k : Nat) (id : Nat) (fn : Nat) (line : Nat) (data : List Byte) (mask : Nat) (flit : Nat) (err : Nat) {s : State} (hs : Keeps a s) :
    Keeps a (doHomeWrite k id fn line data mask flit err s) := by
  unfold doHomeWrite
  apply homeRequest_keeps
  exact hs

theorem doHomeAtomic_keeps {a : State} (k : Nat) (id : Nat) (fn : Nat) (off : Nat) (len : Nat) (op : Nat) (z6 : Nat) (b : Nat) (flit : Nat) (err : Nat) {s : State} (hs : Keeps a s) :
    Keeps a (doHomeAtomic k id fn off len op z6 b flit err s) := by
  unfold doHomeAtomic
  apply homeRequest_keeps
  exact hs

theorem claimLine_keeps {a : State} (cls : Nat) (write : Bool) (line : Nat) {s : State} (hs : Keeps a s) :
    Keeps a (claimLine cls write line s) := by
  unfold claimLine
  refine keeps_ite ?_ ?_
  · apply startEvict_keeps
    exact hs
  · apply startShow_keeps
    exact hs

theorem claim_keeps {a : State} (r : Reqr) (off : Nat) (len : Nat) (write : Bool) {s : State} (hs : Keeps a s) :
    Keeps a (claim r off len write s) := by
  unfold claim
  apply forEach_keeps
  · intro x0 x1 x2
    refine keeps_ite ?_ ?_
    · exact x2
    · apply claimLine_keeps
      exact x2
  · exact hs

theorem homeGet_keeps {a : State} (r : Reqr) (off : Nat) (len : Nat) {s : State} (hs : Keeps a s) :
    Keeps a (homeGet r off len s).2.2 := by
  unfold homeGet
  extract_lets +onlyGivenNames -underBinder s0
  clear_value s0
  refine keeps_ite_snd2 ?_ ?_
  · refine keeps_mk2 ?_
    exact hs
  · apply hubRead_keeps
    exact hs

theorem homePut_keeps {a : State} (r : Reqr) (off : Nat) (l : List Byte) {s : State} (hs : Keeps a s) :
    Keeps a (homePut r off l s).2 := by
  unfold homePut
  extract_lets +onlyGivenNames -underBinder s0
  clear_value s0
  extract_lets +onlyGivenNames -underBinder s1
  clear_value s1
  refine keeps_ite_snd ?_ ?_
  · refine keeps_mk ?_
    exact hs
  · refine keeps_ite_snd ?_ ?_
    · apply hubWrite_keeps
      apply forEach_keeps
      · intro x2 x3 x4
        apply setDent_keeps
        exact x4
      · exact hs
    · refine keeps_mk ?_
      exact hs

theorem dropSite_keeps {a : State} (j : Nat) (line : Nat) {s : State} (hs : Keeps a s) :
    Keeps a (dropSite j line s) := by
  unfold dropSite
  split
  · apply setTrans_keeps
    exact hs
  · extract_lets +onlyGivenNames -underBinder s0
    clear_value s0
    refine keeps_ite ?_ ?_
    · apply setDent_keeps
      exact hs
    · refine keeps_ite ?_ ?_
      · apply setDent_keeps
        exact hs
      · exact hs

theorem doCxlCacheMessage_keeps {a : State} (j : Nat) (msg : Nat) (tag : Nat) (line : Nat) (data : List Byte) (mask : Nat) (err : Nat) {s : State} (hs : Keeps a s) :
    Keeps a (doCxlCacheMessage j msg tag line data mask err s) := by
  unfold doCxlCacheMessage
  refine keeps_ite ?_ ?_
  · exact hs
  · extract_lets +onlyGivenNames -underBinder s0
    clear_value s0
    extract_lets +onlyGivenNames -underBinder s1
    clear_value s1
    extract_lets +onlyGivenNames -underBinder s2
    have h3 : ∀ y0 y1 y2, Keeps a (s2 y0 y1 y2) := by
      unfold s2
      intro x4 x5 x6
      apply homeRequest_keeps
      exact hs
    clear_value s2
    extract_lets +onlyGivenNames -underBinder s7
    have h8 : ∀ y0 y1, Keeps a (s7 y0 y1) := by
      unfold s7
      intro x9 x10
      apply h3
    clear_value s7
    split
    · apply h8
    · apply h8
    · apply h8
    · apply h8
    · apply h3
    · apply emit_keeps
      apply dropSite_keeps
      exact hs
    · apply emit_keeps
      apply takeWb_keeps
      exact hs
    · apply h3
    · apply logRec_keeps
      apply answer_keeps
      exact hs
    · extract_lets +onlyGivenNames -underBinder s11
      have h12 : Keeps a s11.2 := by
        unfold s11
        apply snoopOf_keeps
        exact hs
      clear_value s11
      extract_lets +onlyGivenNames -underBinder s13
      have h14 : Keeps a s13 := by
        unfold s13
        exact h12
      clear_value s13
      split
      · exact h14
      · split
        · apply takeInvAck_keeps
          exact h14
        · extract_lets +onlyGivenNames -underBinder s15
          have h16 : Keeps a s15.2.2 := by
            unfold s15
            apply readLine_keeps
            exact h14
          clear_value s15
          apply takeSnpData_keeps
          exact h16
        · apply takeSnpData_keeps
          exact h14
        · apply takeSnpData_keeps
          exact h14
        · apply fenceProtocol_keeps
          exact h14

theorem answerSc_keeps {a : State} (r : MReq) (data : List Byte) {s : State} (hs : Keeps a s) :
    Keeps a (answerSc r data s) := by
  unfold answerSc
  extract_lets +onlyGivenNames -underBinder s0
  clear_value s0
  apply answer_keeps
  refine keeps_ite ?_ ?_
  · apply noteLate_keeps
    exact hs
  · exact hs

theorem sliceHit_keeps {a : State} (r : MReq) (c : CLine) {s : State} (hs : Keeps a s) :
    Keeps a (sliceHit r c s) := by
  unfold sliceHit
  extract_lets +onlyGivenNames -underBinder s0
  clear_value s0
  refine keeps_ite ?_ ?_
  · apply answerSc_keeps
    apply setLine_keeps
    exact hs
  · apply answerSc_keeps
    apply setLine_keeps
    exact hs

theorem sliceServe_keeps {a : State} (r : MReq) (err : Nat) {s : State} (hs : Keeps a s) :
    Keeps a (sliceServe r err s) := by
  unfold sliceServe
  extract_lets +onlyGivenNames -underBinder s0
  have h1 : Keeps a s0 := by
    unfold s0
    apply addOut_keeps
    exact hs
  clear_value s0
  refine keeps_ite ?_ ?_
  · apply homeArrive_keeps
    exact h1
  · extract_lets +onlyGivenNames -underBinder s2
    have h3 : Keeps a s2 := by
      unfold s2
      apply meetAt_keeps
      apply countSlice_keeps
      exact h1
    clear_value s2
    refine keeps_ite ?_ ?_
    · apply answer_keeps
      exact h3
    · extract_lets +onlyGivenNames -underBinder s4
      have h5 : Keeps a s4 := by
        unfold s4
        apply setMem_keeps
        · intro x6
          exact ⟨rfl, rfl⟩
        · exact h3
      clear_value s4
      split
      · apply sliceHit_keeps
        exact h5
      · extract_lets +onlyGivenNames -underBinder s7
        clear_value s7
        apply enqueue_keeps
        exact h5

theorem departSc_keeps {a : State} (r : MReq) (err : Nat) (flit : Nat) {s : State} (hs : Keeps a s) :
    Keeps a (departSc r err flit s) := by
  unfold departSc
  extract_lets +onlyGivenNames -underBinder s0
  clear_value s0
  apply arriveAt_keeps
  · intro x1 x2
    extract_lets +onlyGivenNames -underBinder s3
    clear_value s3
    refine keeps_ite ?_ ?_
    · apply meshAnswer_keeps
      exact x2
    · apply sliceServe_keeps
      exact x2
  · apply departMesh_keeps
    exact hs

theorem doScRequest_keeps {a : State} (k : Nat) (fn : Nat) (line : Nat) (wrt : Bool) (data : List Byte) (mask : Nat) (err : Nat) (flit : Nat) (dl : Option Nat) {s : State} (hs : Keeps a s) :
    Keeps a (doScRequest k fn line wrt data mask err flit dl s) := by
  unfold doScRequest
  extract_lets +onlyGivenNames -underBinder s0
  clear_value s0
  extract_lets +onlyGivenNames -underBinder s1
  clear_value s1
  extract_lets +onlyGivenNames -underBinder s2
  have h3 : Keeps a s2 := by
    unfold s2
    apply setCoh_keeps
    exact hs
  clear_value s2
  extract_lets +onlyGivenNames -underBinder s4
  clear_value s4
  refine keeps_ite ?_ ?_
  · apply departSc_keeps
    exact h3
  · apply wakePort_keeps
    apply setCoh_keeps
    exact h3

theorem releaseHome_keeps {a : State} (k : Nat) {s : State} (hs : Keeps a s) :
    Keeps a (releaseHome k s) := by
  unfold releaseHome
  split
  · exact hs
  · apply homeGo_keeps
    apply setCoh_keeps
    exact hs

theorem doQuotaRelease_keeps {a : State} (k : Nat) {s : State} (hs : Keeps a s) :
    Keeps a (doQuotaRelease k s) := by
  unfold doQuotaRelease
  split
  · apply releaseHome_keeps
    exact hs
  · apply departSc_keeps
    apply setCoh_keeps
    exact hs

theorem startBucketMove_keeps {a : State} {s : State} (hs : Keeps a s) :
    Keeps a (startBucketMove s) := by
  unfold startBucketMove
  split
  · exact hs
  · refine keeps_ite ?_ ?_
    · exact hs
    · extract_lets +onlyGivenNames -underBinder s0
      have h1 : Keeps a s0 := by
        unfold s0
        apply setB_keeps
        exact hs
      clear_value s0
      extract_lets +onlyGivenNames -underBinder s2
      clear_value s2
      extract_lets +onlyGivenNames -underBinder s3
      have h4 : Keeps a s3 := by
        unfold s3
        apply forEach_keeps
        · intro x5 x6 x7
          apply evictLine_keeps
          exact x7
        · exact h1
      clear_value s3
      extract_lets +onlyGivenNames -underBinder s8
      have h9 : Keeps a s8 := by
        unfold s8
        apply forEach_keeps
        · intro x10 x11 x12
          refine keeps_ite ?_ ?_
          · exact x12
          · apply startEvict_keeps
            exact x12
        · exact h4
      clear_value s8
      apply setB_keeps
      exact h9

theorem releaseHomes_keeps {a : State} {s : State} (hs : Keeps a s) :
    Keeps a (releaseHomes s) := by
  unfold releaseHomes
  apply forEach_keeps
  · intro x0 x1 x2
    refine keeps_ite ?_ ?_
    · apply homeGo_keeps
      apply setCoh_keeps
      exact x2
    · exact x2
  · exact hs

theorem releaseHeld_keeps {a : State} {s : State} (hs : Keeps a s) :
    Keeps a (releaseHeld s) := by
  unfold releaseHeld
  apply forEach_keeps
  · intro x0 x1 x2
    refine keeps_ite ?_ ?_
    · apply departSc_keeps
      apply setCoh_keeps
      exact x2
    · exact x2
  · exact hs

theorem doBucketMoveDone_keeps {a : State} {s : State} (hs : Keeps a s) :
    Keeps a (doBucketMoveDone s) := by
  unfold doBucketMoveDone
  split
  · exact hs
  · refine keeps_ite ?_ ?_
    · apply startBucketMove_keeps
      exact hs
    · extract_lets +onlyGivenNames -underBinder s0
      clear_value s0
      refine keeps_ite ?_ ?_
      · exact hs
      · extract_lets +onlyGivenNames -underBinder s1
        have h2 : Keeps a s1 := by
          unfold s1
          apply forEach_keeps
          · intro x3 x4 x5
            apply startEvict_keeps
            exact x5
          · exact hs
        clear_value s1
        refine keeps_ite ?_ ?_
        · exact h2
        · apply startBucketMove_keeps
          apply releaseHeld_keeps
          apply setMem_keeps
          · intro x6
            exact ⟨rfl, rfl⟩
          · apply clrB_keeps
            apply clrB_keeps
            apply wr_keeps
            exact h2

end Sys2Proof.Machine
end

