-- ==== Sys2Proof/Laws/KeepsMover.lean ====
section
/-! SUPPORT. Sys2Proof/Laws/KeepsMover.lean: every operation of Machine/Mover.lean keeps what `Keeps` says. -/

namespace Sys2Proof.Machine

open Sys2Proof

theorem addJob_keeps {a : State} (x : Job) {s : State} (hs : Keeps a s) :
    Keeps a (addJob x s) := by
  unfold addJob
  refine Keeps.same (s := s) ?_ rfl rfl rfl rfl rfl rfl rfl rfl rfl
  exact hs

theorem dropJob_keeps {a : State} (j : Nat) {s : State} (hs : Keeps a s) :
    Keeps a (dropJob j s) := by
  unfold dropJob
  refine Keeps.same (s := s) ?_ rfl rfl rfl rfl rfl rfl rfl rfl rfl
  exact hs

theorem writePiece_keeps {a : State} (j : Nat) (p : Nat) (x : Job) (q : Piece) (data : List Byte) {s : State} (hs : Keeps a s) :
    Keeps a (writePiece j p x q data s) := by
  unfold writePiece
  split
  · exact hs
  · apply hostAccess_keeps
    apply setPiece_keeps
    exact hs
  · split
    · apply fabricSend_keeps
      apply setPiece_keeps
      exact hs
    · refine keeps_ite ?_ ?_
      · apply claim_keeps
        exact hs
      · extract_lets +onlyGivenNames -underBinder s0
        have h1 : Keeps a s0.2 := by
          unfold s0
          apply homePut_keeps
          exact hs
        clear_value s0
        apply setPiece_keeps
        exact h1

theorem readPiece_keeps {a : State} (j : Nat) (p : Nat) (x : Job) (q : Piece) {s : State} (hs : Keeps a s) :
    Keeps a (readPiece j p x q s) := by
  unfold readPiece
  split
  · exact hs
  · apply hostAccess_keeps
    apply setPiece_keeps
    exact hs
  · split
    · apply fabricSend_keeps
      apply setPiece_keeps
      exact hs
    · refine keeps_ite ?_ ?_
      · apply claim_keeps
        exact hs
      · extract_lets +onlyGivenNames -underBinder s0
        have h1 : Keeps a s0.2.2 := by
          unfold s0
          apply homeGet_keeps
          exact hs
        clear_value s0
        refine keeps_ite ?_ ?_
        · apply setPiece_keeps
          apply countTile_keeps
          exact h1
        · apply setPiece_keeps
          exact h1

theorem stepPiece_keeps {a : State} (j : Nat) (p : Nat) {s : State} (hs : Keeps a s) :
    Keeps a (stepPiece j p s) := by
  unfold stepPiece
  extract_lets +onlyGivenNames -underBinder s0
  have h1 : Keeps a s0 := by
    unfold s0
    split
    · refine keeps_ite ?_ ?_
      · apply readPiece_keeps
        exact hs
      · exact hs
    · assumption
  clear_value s0
  split
  · split
    · apply writePiece_keeps
      exact h1
    · exact h1
  · exact h1

theorem advanceJob_keeps {a : State} (j : Nat) {s : State} (hs : Keeps a s) :
    Keeps a (advanceJob j s) := by
  unfold advanceJob
  split
  · exact hs
  · apply forEach_keeps
    · intro x0 x1 x2
      apply stepPiece_keeps
      exact x2
    · exact hs

theorem advanceJobs_keeps {a : State} {s : State} (hs : Keeps a s) :
    Keeps a (advanceJobs s) := by
  unfold advanceJobs
  apply forEach_keeps
  · intro x0 x1 x2
    apply advanceJob_keeps
    exact x2
  · exact hs

end Sys2Proof.Machine
end

