-- ==== Sys2Proof/Laws/KeepsEngine.lean ====
section
/-! SUPPORT. Sys2Proof/Laws/KeepsEngine.lean: every operation of Machine/Engine.lean keeps what `Keeps` says. -/

namespace Sys2Proof.Machine

open Sys2Proof

theorem setGrv_keeps {a : State} (t : Nat) (f : Grv → Grv) {s : State} (hs : Keeps a s) :
    Keeps a (setGrv t f s) := by
  unfold setGrv
  refine Keeps.same (s := s) ?_ rfl rfl rfl rfl rfl rfl rfl rfl rfl
  exact hs

theorem setRun_keeps {a : State} (t : Nat) (f : GRun → GRun) {s : State} (hs : Keeps a s) :
    Keeps a (setRun t f s) := by
  unfold setRun
  apply setGrv_keeps
  exact hs

theorem launchBoundary_keeps {a : State} (t : Nat) {s : State} (hs : Keeps a s) :
    Keeps a (launchBoundary t s) := by
  unfold launchBoundary
  extract_lets +onlyGivenNames -underBinder s0
  have h1 : Keeps a s0 := by
    unfold s0
    split
    · apply setGrv_keeps
      exact hs
    · assumption
  clear_value s0
  split
  · apply setGrv_keeps
    apply wr_keeps
    apply wr_keeps
    exact h1
  · exact h1

theorem stageSet_keeps {a : State} (t : Nat) (ver : Nat) (img : List Byte) {s : State} (hs : Keeps a s) :
    Keeps a (stageSet t ver img s) := by
  unfold stageSet
  extract_lets +onlyGivenNames -underBinder s0
  clear_value s0
  refine keeps_ite ?_ ?_
  · apply setGrv_keeps
    exact hs
  · apply setGrv_keeps
    exact hs

theorem activateSet_keeps {a : State} (t : Nat) {s : State} (hs : Keeps a s) :
    Keeps a (activateSet t s) := by
  unfold activateSet
  extract_lets +onlyGivenNames -underBinder s0
  have h1 : Keeps a s0 := by
    unfold s0
    apply setGrv_keeps
    exact hs
  clear_value s0
  refine keeps_ite ?_ ?_
  · exact h1
  · apply launchBoundary_keeps
    exact h1

end Sys2Proof.Machine
end

