-- ==== Sys2Proof/Laws/KeepsSesCore.lean ====
section
/-! SUPPORT. Sys2Proof/Laws/KeepsSesCore.lean: every operation of Machine/SesCore.lean keeps what `Keeps` says. -/

namespace Sys2Proof.Machine

open Sys2Proof

theorem setSes_keeps {a : State} (f : Ses → Ses) {s : State} (hs : Keeps a s) :
    Keeps a (setSes f s) := by
  unfold setSes
  refine Keeps.same (s := s) ?_ rfl rfl rfl rfl rfl rfl rfl rfl rfl
  exact hs

theorem putEnt_keeps {a : State} (i : Nat) (e : SesEnt) {s : State} (hs : Keeps a s) :
    Keeps a (putEnt i e s) := by
  unfold putEnt
  apply setSes_keeps
  exact hs

theorem readBy_keeps {a : State} (q : Reqr) (off : Nat) (len : Nat) {s : State} (hs : Keeps a s) :
    Keeps a (readBy q off len s).2.2 := by
  unfold readBy
  extract_lets +onlyGivenNames -underBinder s0
  have h1 : Keeps a s0.2.2 := by
    unfold s0
    apply homeGet_keeps
    exact hs
  clear_value s0
  refine keeps_mk2 ?_
  exact h1

theorem engRead_keeps {a : State} (n : Nat) (off : Nat) (len : Nat) {s : State} (hs : Keeps a s) :
    Keeps a (engRead n off len s).2.2 := by
  unfold engRead
  apply readBy_keeps
  exact hs

theorem engWrite_keeps {a : State} (n : Nat) (off : Nat) (l : List Byte) {s : State} (hs : Keeps a s) :
    Keeps a (engWrite n off l s).2 := by
  unfold engWrite
  apply homePut_keeps
  exact hs

theorem engPut_keeps {a : State} (n : Nat) (off : Nat) (len : Nat) (v : Nat) {s : State} (hs : Keeps a s) :
    Keeps a (engPut n off len v s).2 := by
  unfold engPut
  apply engWrite_keeps
  exact hs

/-- Every operation of a list keeps what `Keeps` says. -/
def Steps (a : State) (l : List (State → Status × State)) : Prop := ∀ f ∈ l, ∀ t, Keeps a t → Keeps a (f t).2

theorem steps_nil {a : State} : Steps a [] := fun _ h => absurd h (List.not_mem_nil)

theorem steps_cons {a : State} {f : State → Status × State} {l : List (State → Status × State)}
    (hf : ∀ t, Keeps a t → Keeps a (f t).2) (hl : Steps a l) : Steps a (f :: l) := by
  intro g hg
  cases hg with
  | head => exact hf
  | tail _ hg => exact hl g hg

theorem steps_append {a : State} {l m : List (State → Status × State)} (hl : Steps a l) (hm : Steps a m) : Steps a (l ++ m) := by
  intro g hg
  rcases List.mem_append.1 hg with hg | hg
  · exact hl g hg
  · exact hm g hg

theorem steps_map {α : Type} {a : State} {f : α → State → Status × State} {l : List α}
    (hf : ∀ x t, Keeps a t → Keeps a (f x t).2) : Steps a (l.map f) := by
  intro g hg
  obtain ⟨x, _, rfl⟩ := List.mem_map.1 hg
  exact hf x

theorem steps_flatMap {α : Type} {a : State} {f : α → List (State → Status × State)} {l : List α} (hf : ∀ x, Steps a (f x)) :
    Steps a (l.flatMap f) := by
  intro g hg
  obtain ⟨x, _, hg⟩ := List.mem_flatMap.1 hg
  exact hf x g hg

theorem steps_ite {a : State} {c : Prop} [Decidable c] {l m : List (State → Status × State)} (hl : Steps a l) (hm : Steps a m) :
    Steps a (if c then l else m) := by
  split
  · exact hl
  · exact hm

theorem seqSteps_keeps {a : State} {l : List (State → Status × State)} {s : State}
    (hl : Steps a l) (hs : Keeps a s) : Keeps a (seqSteps l s).2 := by
  induction l generalizing s with
  | nil => exact hs
  | cons f t ih =>
    unfold seqSteps
    dsimp only
    refine keeps_ite_snd (ih (fun g hg => hl g (List.mem_cons_of_mem _ hg)) ?_) ?_
    · exact hl f (List.mem_cons_self ..) s hs
    · exact hl f (List.mem_cons_self ..) s hs

theorem rootLeaf_keeps {a : State} (n : Nat) (root : Nat) (k : Nat) {s : State} (hs : Keeps a s) :
    Keeps a (rootLeaf n root k s).2.2 := by
  unfold rootLeaf
  apply engRead_keeps
  exact hs

theorem leafSlotBy_keeps {a : State} (q : Reqr) (e : SesEnt) (en : Nat) {s : State} (hs : Keeps a s) :
    Keeps a (leafSlotBy q e en s).2.2 := by
  unfold leafSlotBy
  extract_lets +onlyGivenNames -underBinder s0
  have h1 : Keeps a s0.2.2 := by
    unfold s0
    apply readBy_keeps
    exact hs
  clear_value s0
  refine keeps_mk2 ?_
  exact h1

theorem dirEntryBy_keeps {a : State} (q : Reqr) (e : SesEnt) (en : Nat) {s : State} (hs : Keeps a s) :
    Keeps a (dirEntryBy q e en s).2.2 := by
  unfold dirEntryBy
  extract_lets +onlyGivenNames -underBinder s0
  have h1 : Keeps a s0.2.2 := by
    unfold s0
    apply leafSlotBy_keeps
    exact hs
  clear_value s0
  refine keeps_ite_snd2 ?_ ?_
  · refine keeps_mk2 ?_
    exact h1
  · apply readBy_keeps
    exact h1

theorem leafSlot_keeps {a : State} (e : SesEnt) (en : Nat) {s : State} (hs : Keeps a s) :
    Keeps a (leafSlot e en s).2.2 := by
  unfold leafSlot
  apply leafSlotBy_keeps
  exact hs

theorem dirEntry_keeps {a : State} (e : SesEnt) (en : Nat) {s : State} (hs : Keeps a s) :
    Keeps a (dirEntry e en s).2.2 := by
  unfold dirEntry
  apply dirEntryBy_keeps
  exact hs

theorem putDir_keeps {a : State} (e : SesEnt) (en : Nat) (v : Nat) {s : State} (hs : Keeps a s) :
    Keeps a (putDir e en v s).2 := by
  unfold putDir
  extract_lets +onlyGivenNames -underBinder s0
  have h1 : Keeps a s0.2.2 := by
    unfold s0
    apply leafSlot_keeps
    exact hs
  clear_value s0
  refine keeps_ite_snd ?_ ?_
  · refine keeps_mk ?_
    exact h1
  · apply engPut_keeps
    exact h1

theorem takeFrame_keepsO {a : State} {n : Nat} {s : State} {m : Nat} {t : State} (e : takeFrame n s = some (m, t))
    (h : Keeps a s) : Keeps a t := by
  unfold takeFrame at e
  split at e
  · simp only [Option.some.injEq, Prod.mk.injEq] at e
    rw [← e.2]
    exact setSes_keeps _ h
  · simp at e

theorem takeFrames_keepsO {a : State} {n k : Nat} {s : State} {m : List Nat} {t : State} (e : takeFrames n k s = some (m, t))
    (h : Keeps a s) : Keeps a t := by
  induction k generalizing s m t with
  | zero =>
    simp only [takeFrames, Option.some.injEq, Prod.mk.injEq] at e
    rw [← e.2]
    exact h
  | succ k ih =>
    unfold takeFrames at e
    split at e
    · simp at e
    · rename_i e1
      split at e
      · simp at e
      · rename_i e2
        simp only [Option.some.injEq, Prod.mk.injEq] at e
        rw [← e.2]
        exact ih e2 (takeFrame_keepsO e1 h)

theorem freeFrames_keeps {a : State} (l : List Nat) {s : State} (hs : Keeps a s) :
    Keeps a (freeFrames l s) := by
  unfold freeFrames
  apply setSes_keeps
  exact hs

end Sys2Proof.Machine
end

