-- ==== Sys2Proof/Laws/KeepsPanels.lean ====
section
/-! SUPPORT. Sys2Proof/Laws/KeepsPanels.lean: every operation of Machine/Panels.lean keeps what `Keeps` says. -/

namespace Sys2Proof.Machine

open Sys2Proof

theorem readRows_keeps {a : State} (q : Reqr) (e : SesEnt) (v : Nat) (l : Nat) (z4 : Nat) (o : Nat) (j0 : Nat) (j1 : Nat) {s : State} (hs : Keeps a s) :
    Keeps a (readRows q e v l z4 o j0 j1 s).2.2 := by
  unfold readRows
  extract_lets +onlyGivenNames -underBinder s0
  have h1 : Keeps a s0.2.2 := by
    unfold s0
    apply dirEntryBy_keeps
    exact hs
  clear_value s0
  refine keeps_ite_snd2 ?_ ?_
  · refine keeps_mk2 ?_
    exact h1
  · refine keeps_ite_snd2 ?_ ?_
    · refine keeps_mk2 ?_
      exact h1
    · refine keeps_ite_snd2 ?_ ?_
      · refine keeps_mk2 ?_
        exact h1
      · extract_lets +onlyGivenNames -underBinder s2
        have h3 : Keeps a s2.2.2 := by
          unfold s2
          apply homeGet_keeps
          exact h1
        clear_value s2
        refine keeps_mk2 ?_
        exact h3

theorem gatherPage_keeps {a : State} (q : Reqr) (e : SesEnt) (v : Nat) (l : Nat) (z4 : Nat) (o : Nat) (j0 : Nat) (j1 : Nat) (slot : Nat) (p : Panel) {s : State} (hs : Keeps a s) :
    Keeps a (gatherPage q e v l z4 o j0 j1 slot p s).2 := by
  unfold gatherPage
  extract_lets +onlyGivenNames -underBinder s0
  have h1 : Keeps a s0.2.2 := by
    unfold s0
    apply readRows_keeps
    exact hs
  clear_value s0
  refine keeps_mk ?_
  exact h1

theorem gatherPages_keeps {a : State} (q : Reqr) (e : SesEnt) (v : Nat) (l : Nat) (z4 : Nat) (picks : List (Nat × Nat × Nat × Nat)) {s : State} (hs : Keeps a s) :
    Keeps a (gatherPages q e v l z4 picks s).2 := by
  unfold gatherPages
  apply foldl_keeps_snd
  · intro x0 x1 x2
    apply gatherPage_keeps
    exact x2
  · refine keeps_mk ?_
    exact hs

theorem gatherSketches_keeps {a : State} (q : Reqr) (e : SesEnt) (l : Nat) (z3 : Nat) (first : Nat) (count : Nat) {s : State} (hs : Keeps a s) :
    Keeps a (gatherSketches q e l z3 first count s).2 := by
  unfold gatherSketches
  extract_lets +onlyGivenNames -underBinder s0
  clear_value s0
  apply foldl_keeps_snd
  · intro x1 x2 x3
    extract_lets +onlyGivenNames -underBinder s4
    have h5 : Keeps a s4.2.2 := by
      unfold s4
      apply dirEntryBy_keeps
      exact x3
    clear_value s4
    extract_lets +onlyGivenNames -underBinder s6
    clear_value s6
    refine keeps_ite_snd ?_ ?_
    · refine keeps_mk ?_
      exact h5
    · refine keeps_ite_snd ?_ ?_
      · refine keeps_mk ?_
        exact h5
      · refine keeps_ite_snd ?_ ?_
        · refine keeps_mk ?_
          exact h5
        · extract_lets +onlyGivenNames -underBinder s7
          have h8 : Keeps a s7.2.2 := by
            unfold s7
            apply homeGet_keeps
            exact h5
          clear_value s7
          refine keeps_ite_snd ?_ ?_
          · refine keeps_mk ?_
            exact h8
          · refine keeps_mk ?_
            exact h8
  · refine keeps_mk ?_
    exact hs

theorem gather_keeps {a : State} (n : Nat) (t : Nat) (item : Bool) (bad : Bool) (en : List Nat) {s : State} (hs : Keeps a s) :
    Keeps a (gather n t item bad en s).2 := by
  unfold gather
  extract_lets +onlyGivenNames -underBinder s0
  have h1 : Keeps a s0.2.2 := by
    unfold s0
    refine keeps_ite_snd2 ?_ ?_
    · apply homeGet_keeps
      exact hs
    · refine keeps_mk2 ?_
      exact hs
  clear_value s0
  extract_lets +onlyGivenNames -underBinder s2
  have h3 : Keeps a s2 := by
    unfold s2
    exact h1
  clear_value s2
  split
  · refine keeps_mk ?_
    exact h3
  · extract_lets +onlyGivenNames -underBinder s4
    clear_value s4
    extract_lets +onlyGivenNames -underBinder s5
    clear_value s5
    extract_lets +onlyGivenNames -underBinder s6
    clear_value s6
    extract_lets +onlyGivenNames -underBinder s7
    clear_value s7
    extract_lets +onlyGivenNames -underBinder s8
    clear_value s8
    extract_lets +onlyGivenNames -underBinder s9
    clear_value s9
    extract_lets +onlyGivenNames -underBinder s10
    clear_value s10
    extract_lets +onlyGivenNames -underBinder s11
    clear_value s11
    extract_lets +onlyGivenNames -underBinder s12
    clear_value s12
    refine keeps_ite_snd ?_ ?_
    · refine keeps_mk ?_
      exact h3
    · split
      · apply gatherPages_keeps
        exact h3
      · apply gatherPages_keeps
        exact h3
      · apply gatherSketches_keeps
        exact h3
      · apply gatherPages_keeps
        exact h3

theorem setBuf_keeps {a : State} (t : Nat) (b : Nat) (f : PBuf → PBuf) {s : State} (hs : Keeps a s) :
    Keeps a (setBuf t b f s) := by
  unfold setBuf
  apply setRun_keeps
  exact hs

theorem beginLoad_keeps {a : State} (t : Nat) (b : Nat) {s : State} (hs : Keeps a s) :
    Keeps a (beginLoad t b s) := by
  unfold beginLoad
  split
  · split
    · apply setBuf_keeps
      exact hs
    · refine keeps_ite ?_ ?_
      · extract_lets +onlyGivenNames -underBinder s0
        clear_value s0
        extract_lets +onlyGivenNames -underBinder s1
        have h2 : Keeps a s1 := by
          unfold s1
          apply addJob_keeps
          exact hs
        clear_value s1
        apply advanceJob_keeps
        apply setBuf_keeps
        exact h2
      · apply setBuf_keeps
        exact hs
  · exact hs

theorem handOver_keeps {a : State} (t : Nat) (b : Nat) (x : Nat) (drain : Bool) {s : State} (hs : Keeps a s) :
    Keeps a (handOver t b x drain s) := by
  unfold handOver
  split
  · split
    · refine keeps_ite ?_ ?_
      · extract_lets +onlyGivenNames -underBinder s0
        clear_value s0
        extract_lets +onlyGivenNames -underBinder s1
        have h2 : Keeps a s1 := by
          unfold s1
          apply addJob_keeps
          exact hs
        clear_value s1
        apply advanceJob_keeps
        apply setBuf_keeps
        exact h2
      · apply beginLoad_keeps
        apply setBuf_keeps
        exact hs
    · apply beginLoad_keeps
      apply setBuf_keeps
      exact hs
  · exact hs

theorem endLoad_keeps {a : State} (t : Nat) (b : Nat) (p : Panel) {s : State} (hs : Keeps a s) :
    Keeps a (endLoad t b p s) := by
  unfold endLoad
  extract_lets +onlyGivenNames -underBinder s0
  clear_value s0
  refine keeps_ite ?_ ?_
  · apply countTile_keeps
    apply setBuf_keeps
    apply setGrv_keeps
    exact hs
  · apply setBuf_keeps
    exact hs

theorem doPanelLoadDone_keeps {a : State} (t : Nat) (b : Nat) {s : State} (hs : Keeps a s) :
    Keeps a (doPanelLoadDone t b s) := by
  unfold doPanelLoadDone
  split
  · refine keeps_ite ?_ ?_
    · exact hs
    · split
      · exact hs
      · refine keeps_ite ?_ ?_
        · apply endLoad_keeps
          exact hs
        · refine keeps_ite ?_ ?_
          · apply endLoad_keeps
            exact hs
          · refine keeps_ite ?_ ?_
            · split
              · exact hs
              · extract_lets +onlyGivenNames -underBinder s0
                have h1 : Keeps a s0 := by
                  unfold s0
                  apply advanceJob_keeps
                  exact hs
                clear_value s0
                split
                · exact h1
                · refine keeps_ite ?_ ?_
                  · exact h1
                  · apply endLoad_keeps
                    apply dropJob_keeps
                    exact h1
            · extract_lets +onlyGivenNames -underBinder s2
              clear_value s2
              refine keeps_ite ?_ ?_
              · apply claim_keeps
                exact hs
              · extract_lets +onlyGivenNames -underBinder s3
                have h4 : Keeps a s3.2 := by
                  unfold s3
                  apply gather_keeps
                  exact hs
                clear_value s3
                apply endLoad_keeps
                apply countTile_keeps
                exact h4
  · exact hs

theorem doPanelDrainDone_keeps {a : State} (t : Nat) (b : Nat) {s : State} (hs : Keeps a s) :
    Keeps a (doPanelDrainDone t b s) := by
  unfold doPanelDrainDone
  split
  · split
    · extract_lets +onlyGivenNames -underBinder s0
      have h1 : Keeps a s0 := by
        unfold s0
        apply advanceJob_keeps
        exact hs
      clear_value s0
      split
      · exact h1
      · refine keeps_ite ?_ ?_
        · exact h1
        · extract_lets +onlyGivenNames -underBinder s2
          have h3 : Keeps a s2 := by
            unfold s2
            apply dropJob_keeps
            exact h1
          clear_value s2
          extract_lets +onlyGivenNames -underBinder s4
          have h5 : Keeps a s4 := by
            unfold s4
            refine keeps_ite ?_ ?_
            · apply setRun_keeps
              exact h3
            · apply setRun_keeps
              exact h3
          clear_value s4
          apply beginLoad_keeps
          apply setBuf_keeps
          exact h5
    · exact hs
  · exact hs

end Sys2Proof.Machine
end

