-- ==== Sys2Proof/Laws/KeepsGraver.lean ====
section
/-! SUPPORT. Sys2Proof/Laws/KeepsGraver.lean: every operation of Machine/Graver.lean keeps what `Keeps` says. -/

namespace Sys2Proof.Machine

open Sys2Proof

theorem queueWork_keeps {a : State} (t : Nat) (w : GWork) {s : State} (hs : Keeps a s) :
    Keeps a (queueWork t w s) := by
  unfold queueWork
  apply setGrv_keeps
  exact hs

theorem clearCustom_keeps {a : State} (t : Nat) {s : State} (hs : Keeps a s) :
    Keeps a (clearCustom t s) := by
  unfold clearCustom
  apply wr_keeps
  apply clrB_keeps
  apply setGrv_keeps
  exact hs

theorem runLoad_keeps {a : State} (t : Nat) (w : GWork) {s : State} (hs : Keeps a s) :
    Keeps a (runLoad t w s) := by
  unfold runLoad
  split
  · apply setGrv_keeps
    exact hs
  · extract_lets +onlyGivenNames -underBinder s0
    clear_value s0
    extract_lets +onlyGivenNames -underBinder s1
    clear_value s1
    extract_lets +onlyGivenNames -underBinder s2
    clear_value s2
    extract_lets +onlyGivenNames -underBinder s3
    clear_value s3
    refine keeps_ite ?_ ?_
    · apply claim_keeps
      exact hs
    · extract_lets +onlyGivenNames -underBinder s4
      have h5 : Keeps a s4 := by
        unfold s4
        apply setGrv_keeps
        exact hs
      clear_value s4
      extract_lets +onlyGivenNames -underBinder s6
      have h7 : Keeps a s6.2.2 := by
        unfold s6
        apply homeGet_keeps
        exact h5
      clear_value s6
      extract_lets +onlyGivenNames -underBinder s8
      have h9 : Keeps a s8 := by
        unfold s8
        apply clearCustom_keeps
        exact h7
      clear_value s8
      refine keeps_ite ?_ ?_
      · apply failDesc_keeps
        exact h9
      · extract_lets +onlyGivenNames -underBinder s10
        clear_value s10
        extract_lets +onlyGivenNames -underBinder s11
        clear_value s11
        extract_lets +onlyGivenNames -underBinder s12
        clear_value s12
        refine keeps_ite ?_ ?_
        · apply failDesc_keeps
          exact h9
        · extract_lets +onlyGivenNames -underBinder s13
          have h14 : Keeps a s13 := by
            unfold s13
            apply setGrv_keeps
            exact h9
          clear_value s13
          apply completeDesc_keeps
          apply wr_keeps
          apply setB_keeps
          exact h14

theorem doGraverLoad_keeps {a : State} (g : Nat) (k : Nat) {s : State} (hs : Keeps a s) :
    Keeps a (doGraverLoad g k s) := by
  unfold doGraverLoad
  split
  · exact hs
  · extract_lets +onlyGivenNames -underBinder s0
    clear_value s0
    extract_lets +onlyGivenNames -underBinder s1
    clear_value s1
    extract_lets +onlyGivenNames -underBinder s2
    clear_value s2
    extract_lets +onlyGivenNames -underBinder s3
    clear_value s3
    refine keeps_ite ?_ ?_
    · apply failDesc_keeps
      exact hs
    · extract_lets +onlyGivenNames -underBinder s4
      have h5 : Keeps a s4 := by
        unfold s4
        refine keeps_ite ?_ ?_
        · exact hs
        · apply queueWork_keeps
          exact hs
      clear_value s4
      refine keeps_ite ?_ ?_
      · apply runLoad_keeps
        exact h5
      · exact h5

theorem doGraverLaunch_keeps {a : State} (g : Nat) (k : Nat) {s : State} (hs : Keeps a s) :
    Keeps a (doGraverLaunch g k s) := by
  unfold doGraverLaunch
  split
  · exact hs
  · extract_lets +onlyGivenNames -underBinder s0
    clear_value s0
    refine keeps_ite ?_ ?_
    · exact hs
    · extract_lets +onlyGivenNames -underBinder s1
      clear_value s1
      refine keeps_ite ?_ ?_
      · apply failDesc_keeps
        exact hs
      · apply queueWork_keeps
        exact hs

theorem ownerChange_keeps {a : State} (t : Nat) (n : Nat) {s : State} (hs : Keeps a s) :
    Keeps a (ownerChange t n s) := by
  unfold ownerChange
  apply setGrv_keeps
  exact hs

theorem readList_keeps {a : State} (q : Reqr) (z1 : Nat) {s : State} (hs : Keeps a s) :
    Keeps a (readList q z1 s).2.2 := by
  unfold readList
  extract_lets +onlyGivenNames -underBinder s0
  have h1 : Keeps a s0.2.2 := by
    unfold s0
    apply homeGet_keeps
    exact hs
  clear_value s0
  refine keeps_ite_snd2 ?_ ?_
  · refine keeps_mk2 ?_
    exact h1
  · extract_lets +onlyGivenNames -underBinder s2
    clear_value s2
    refine keeps_ite_snd2 ?_ ?_
    · refine keeps_mk2 ?_
      exact h1
    · extract_lets +onlyGivenNames -underBinder s3
      have h4 : Keeps a s3.2.2 := by
        unfold s3
        apply homeGet_keeps
        exact h1
      clear_value s3
      refine keeps_mk2 ?_
      exact h4

theorem readLists_keeps {a : State} (q : Reqr) (z1 : List Nat) {z2 : State} (hz2 : Keeps a z2) :
    Keeps a (readLists q z1 z2).2.2 := by
  induction z1 generalizing q z2 with
  | nil =>
    unfold readLists
    refine keeps_mk2 ?_
    exact hz2
  | cons x t ih =>
    unfold readLists
    extract_lets +onlyGivenNames -underBinder s0
    have h1 : Keeps a s0.2.2 := by
      unfold s0
      refine keeps_ite_snd2 ?_ ?_
      · refine keeps_mk2 ?_
        exact hz2
      · apply readList_keeps
        exact hz2
    clear_value s0
    extract_lets +onlyGivenNames -underBinder s2
    have h3 : Keeps a s2.2.2 := by
      unfold s2
      apply ih
      exact h1
    clear_value s2
    refine keeps_mk2 ?_
    exact h3

theorem launchRecord_keeps {a : State} (g : Nat) (k : Nat) (st : Status) (stop : Nat) (cycles : Nat) (drained : Nat) (flags : Nat) {s : State} (hs : Keeps a s) :
    Keeps a (launchRecord g k st stop cycles drained flags s) := by
  unfold launchRecord
  apply completeDesc_keeps
  exact hs

theorem countLaunch_keeps {a : State} (t : Nat) (flags : Nat) {s : State} (hs : Keeps a s) :
    Keeps a (countLaunch t flags s) := by
  unfold countLaunch
  apply bump_keeps
  apply wr_keeps
  exact hs

theorem refuseLaunch_keeps {a : State} (t : Nat) (w : GWork) (st : Status) (stop : Nat) {s : State} (hs : Keeps a s) :
    Keeps a (refuseLaunch t w st stop s) := by
  unfold refuseLaunch
  apply launchRecord_keeps
  apply countLaunch_keeps
  exact hs

theorem beginRun_keeps {a : State} (t : Nat) (w : GWork) (ws : List Nat) (scl : List Byte) (lists : List (List (List Nat))) {s : State} (hs : Keeps a s) :
    Keeps a (beginRun t w ws scl lists s) := by
  unfold beginRun
  extract_lets +onlyGivenNames -underBinder s0
  have h1 : Keeps a s0 := by
    unfold s0
    apply ownerChange_keeps
    exact hs
  clear_value s0
  extract_lets +onlyGivenNames -underBinder s2
  clear_value s2
  extract_lets +onlyGivenNames -underBinder s3
  clear_value s3
  extract_lets +onlyGivenNames -underBinder s4
  clear_value s4
  extract_lets +onlyGivenNames -underBinder s5
  clear_value s5
  extract_lets +onlyGivenNames -underBinder s6
  clear_value s6
  extract_lets +onlyGivenNames -underBinder s7
  have h8 : Keeps a s7 := by
    unfold s7
    apply setGrv_keeps
    exact h1
  clear_value s7
  extract_lets +onlyGivenNames -underBinder s9
  have h10 : Keeps a s9 := by
    unfold s9
    apply wr_keeps
    apply wr_keeps
    exact h8
  clear_value s9
  apply forEach_keeps
  · intro x11 x12 x13
    refine keeps_ite ?_ ?_
    · exact x13
    · apply beginLoad_keeps
      exact x13
  · exact h10

theorem startRun_keeps {a : State} (t : Nat) (w : GWork) {s : State} (hs : Keeps a s) :
    Keeps a (startRun t w s) := by
  unfold startRun
  split
  · apply setGrv_keeps
    exact hs
  · extract_lets +onlyGivenNames -underBinder s0
    clear_value s0
    extract_lets +onlyGivenNames -underBinder s1
    clear_value s1
    refine keeps_ite ?_ ?_
    · apply claim_keeps
      exact hs
    · extract_lets +onlyGivenNames -underBinder s2
      have h3 : Keeps a s2.2.2 := by
        unfold s2
        apply homeGet_keeps
        exact hs
      clear_value s2
      extract_lets +onlyGivenNames -underBinder s4
      have h5 : ∀ y0, Keeps a y0 → Keeps a (s4 y0) := by
        unfold s4
        intro x6 x7
        apply setGrv_keeps
        exact x7
      clear_value s4
      refine keeps_ite ?_ ?_
      · apply refuseLaunch_keeps
        apply h5
        exact h3
      · extract_lets +onlyGivenNames -underBinder s8
        have h9 : Keeps a s8 := by
          unfold s8
          exact h3
        clear_value s8
        extract_lets +onlyGivenNames -underBinder s10
        clear_value s10
        extract_lets +onlyGivenNames -underBinder s11
        clear_value s11
        split
        · apply claim_keeps
          exact h9
        · extract_lets +onlyGivenNames -underBinder s12
          have h13 : Keeps a s12.2.2 := by
            unfold s12
            refine keeps_ite_snd2 ?_ ?_
            · refine keeps_mk2 ?_
              exact h9
            · apply homeGet_keeps
              exact h9
          clear_value s12
          extract_lets +onlyGivenNames -underBinder s14
          have h15 : Keeps a s14.2.2 := by
            unfold s14
            apply readLists_keeps
            exact h13
          clear_value s14
          extract_lets +onlyGivenNames -underBinder s16
          have h17 : Keeps a s16 := by
            unfold s16
            apply h5
            exact h15
          clear_value s16
          extract_lets +onlyGivenNames -underBinder s18
          clear_value s18
          refine keeps_ite ?_ ?_
          · apply refuseLaunch_keeps
            exact h17
          · apply beginRun_keeps
            exact h17

theorem issue_keeps {a : State} (t : Nat) (w : Nat) (z2 : Int) (b : Int) (d : Int) (f : Grv → Grv) (fl : Nat) {s : State} (hs : Keeps a s) :
    Keeps a (issue t w z2 b d f fl s) := by
  unfold issue
  split
  · exact hs
  · extract_lets +onlyGivenNames -underBinder s0
    clear_value s0
    extract_lets +onlyGivenNames -underBinder s1
    clear_value s1
    apply wr_keeps
    apply wr_keeps
    apply setGrv_keeps
    apply countTile_keeps
    apply countTile_keeps
    exact hs

theorem stopRun_keeps {a : State} (t : Nat) (st : Status) {s : State} (hs : Keeps a s) :
    Keeps a (stopRun t st s) := by
  unfold stopRun
  apply setRun_keeps
  exact hs

theorem issuePwait_keeps {a : State} (t : Nat) (w : Nat) (z2 : Int) (r : GRun) {s : State} (hs : Keeps a s) :
    Keeps a (issuePwait t w z2 r s) := by
  unfold issuePwait
  extract_lets +onlyGivenNames -underBinder s0
  clear_value s0
  extract_lets +onlyGivenNames -underBinder s1
  clear_value s1
  extract_lets +onlyGivenNames -underBinder s2
  have h3 : ∀ y0, Keeps a y0 → Keeps a (s2 y0) := by
    unfold s2
    intro x4 x5
    apply issue_keeps
    exact x5
  clear_value s2
  split
  · apply h3
    exact hs
  · apply setBuf_keeps
    apply h3
    exact hs
  · apply stopRun_keeps
    exact hs
  · apply stopRun_keeps
    exact hs
  · apply wr_keeps
    exact hs
  · refine keeps_ite ?_ ?_
    · apply stopRun_keeps
      exact hs
    · apply wr_keeps
      exact hs

theorem issuePrel_keeps {a : State} (t : Nat) (w : Nat) (z2 : Int) (r : GRun) {s : State} (hs : Keeps a s) :
    Keeps a (issuePrel t w z2 r s) := by
  unfold issuePrel
  extract_lets +onlyGivenNames -underBinder s0
  clear_value s0
  refine keeps_ite ?_ ?_
  · apply stopRun_keeps
    exact hs
  · apply handOver_keeps
    apply issue_keeps
    exact hs

theorem engineIssue_keeps {a : State} (t : Nat) (opc : Nat) {s : State} (hs : Keeps a s) :
    Keeps a (engineIssue t opc s) := by
  unfold engineIssue
  split
  · exact hs
  · refine keeps_ite ?_ ?_
    · exact hs
    · extract_lets +onlyGivenNames -underBinder s0
      clear_value s0
      refine keeps_ite ?_ ?_
      · exact hs
      · extract_lets +onlyGivenNames -underBinder s1
        clear_value s1
        extract_lets +onlyGivenNames -underBinder s2
        clear_value s2
        extract_lets +onlyGivenNames -underBinder s3
        clear_value s3
        extract_lets +onlyGivenNames -underBinder s4
        clear_value s4
        extract_lets +onlyGivenNames -underBinder s5
        clear_value s5
        refine keeps_ite ?_ ?_
        · apply issuePwait_keeps
          exact hs
        · refine keeps_ite ?_ ?_
          · apply issuePrel_keeps
            exact hs
          · refine keeps_ite ?_ ?_
            · apply stopRun_keeps
              exact hs
            · extract_lets +onlyGivenNames -underBinder s6
              clear_value s6
              apply issue_keeps
              exact hs

theorem dropPanelJobs_keeps {a : State} (t : Nat) {s : State} (hs : Keeps a s) :
    Keeps a (dropPanelJobs t s) := by
  unfold dropPanelJobs
  refine Keeps.same (s := s) ?_ rfl rfl rfl rfl rfl rfl rfl rfl rfl
  exact hs

theorem clearRun_keeps {a : State} (t : Nat) {s : State} (hs : Keeps a s) :
    Keeps a (clearRun t s) := by
  unfold clearRun
  dsimp -zeta only
  refine keeps_ite ?_ ?_
  · apply launchBoundary_keeps
    apply setGrv_keeps
    apply dropPanelJobs_keeps
    exact hs
  · apply wr_keeps
    apply launchBoundary_keeps
    apply setGrv_keeps
    apply dropPanelJobs_keeps
    exact hs

theorem retireRun_keeps {a : State} (t : Nat) (r : GRun) {s : State} (hs : Keeps a s) :
    Keeps a (retireRun t r s) := by
  unfold retireRun
  apply countLaunch_keeps
  apply clearRun_keeps
  exact hs

theorem doLaunchComplete_keeps {a : State} (t : Nat) {s : State} (hs : Keeps a s) :
    Keeps a (doLaunchComplete t s) := by
  unfold doLaunchComplete
  split
  · exact hs
  · refine keeps_ite ?_ ?_
    · exact hs
    · apply launchRecord_keeps
      apply retireRun_keeps
      exact hs

theorem doLaunchTimeout_keeps {a : State} (t : Nat) {s : State} (hs : Keeps a s) :
    Keeps a (doLaunchTimeout t s) := by
  unfold doLaunchTimeout
  split
  · exact hs
  · refine keeps_ite ?_ ?_
    · apply stopRun_keeps
      exact hs
    · exact hs

theorem pauseTimers_keeps {a : State} (d : Nat) {s : State} (hs : Keeps a s) :
    Keeps a (pauseTimers d s) := by
  unfold pauseTimers
  apply forEach_keeps
  · intro x0 x1 x2
    refine keeps_ite ?_ ?_
    · apply setRun_keeps
      exact x2
    · exact x2
  · exact hs

theorem abortRun_keeps {a : State} (t : Nat) {s : State} (hs : Keeps a s) :
    Keeps a (abortRun t s) := by
  unfold abortRun
  split
  · extract_lets +onlyGivenNames -underBinder s0
    have h1 : Keeps a s0 := by
      unfold s0
      apply retireRun_keeps
      exact hs
    clear_value s0
    refine keeps_ite ?_ ?_
    · apply launchRecord_keeps
      exact h1
    · exact h1
  · exact hs

end Sys2Proof.Machine
end

