-- ==== Sys2Proof/Laws/KeepsKvPages.lean ====
section
/-! SUPPORT. Sys2Proof/Laws/KeepsKvPages.lean: every operation of Machine/KvPages.lean keeps what `Keeps` says. -/

namespace Sys2Proof.Machine

open Sys2Proof

theorem pageFrame_keeps {a : State} (e : SesEnt) (l : Nat) (z2 : Nat) (o : Nat) {s : State} (hs : Keeps a s) :
    Keeps a (pageFrame e l z2 o s).2.2 := by
  unfold pageFrame
  extract_lets +onlyGivenNames -underBinder s0
  have h1 : Keeps a s0.2.2 := by
    unfold s0
    apply dirEntry_keeps
    exact hs
  clear_value s0
  refine keeps_mk2 ?_
  exact h1

theorem openIn_keeps {a : State} (i : Nat) (e : SesEnt) (l : Nat) (z3 : Nat) (o : Nat) (f : Nat) {s : State} (hs : Keeps a s) :
    Keeps a (openIn i e l z3 o f s).2 := by
  unfold openIn
  apply seqSteps_keeps
  · apply steps_cons
    · intro x0 x1
      apply engWrite_keeps
      exact x1
    · apply steps_cons
      · intro x2 x3
        apply putDir_keeps
        exact x3
      · exact steps_nil
  · exact hs

theorem addFrames_keeps {a : State} (i : Nat) (n : Int) {s : State} (hs : Keeps a s) :
    Keeps a (addFrames i n s) := by
  unfold addFrames
  split
  · apply putEnt_keeps
    exact hs
  · exact hs

theorem openPage_keeps {a : State} (i : Nat) (l : Nat) (z2 : Nat) (o : Nat) {s : State} (hs : Keeps a s) :
    Keeps a (openPage i l z2 o s).2 := by
  unfold openPage
  split
  · refine keeps_mk ?_
    exact hs
  · split
    · refine keeps_mk ?_
      exact hs
    · extract_lets +onlyGivenNames -underBinder s0
      have h1 : Keeps a s0.2 := by
        unfold s0
        apply openIn_keeps
        refine takeFrame_keepsO (e := by assumption) ?_
        exact hs
      clear_value s0
      refine keeps_ite_snd ?_ ?_
      · refine keeps_mk ?_
        apply addFrames_keeps
        exact h1
      · refine keeps_mk ?_
        apply freeFrames_keeps
        exact h1

theorem closePage_keeps {a : State} (i : Nat) (l : Nat) (z2 : Nat) (o : Nat) {s : State} (hs : Keeps a s) :
    Keeps a (closePage i l z2 o s) := by
  unfold closePage
  split
  · exact hs
  · extract_lets +onlyGivenNames -underBinder s0
    have h1 : Keeps a s0.2.2 := by
      unfold s0
      apply pageFrame_keeps
      exact hs
    clear_value s0
    split
    · exact h1
    · apply addFrames_keeps
      apply freeFrames_keeps
      apply putDir_keeps
      exact h1

theorem writeRows_keeps {a : State} (e : SesEnt) (f : Nat) (r0 : Nat) (tokens : Nat) (ks : List (List Byte)) (vs : List (List Byte)) {s : State} (hs : Keeps a s) :
    Keeps a (writeRows e f r0 tokens ks vs s).2 := by
  unfold writeRows
  extract_lets +onlyGivenNames -underBinder s0
  have h1 : Keeps a s0.2.2 := by
    unfold s0
    apply engRead_keeps
    exact hs
  clear_value s0
  refine keeps_ite_snd ?_ ?_
  · refine keeps_mk ?_
    exact h1
  · extract_lets +onlyGivenNames -underBinder s2
    have h3 : Keeps a s2.2.2 := by
      unfold s2
      apply homeGet_keeps
      exact h1
    clear_value s2
    refine keeps_ite_snd ?_ ?_
    · refine keeps_mk ?_
      exact h3
    · extract_lets +onlyGivenNames -underBinder s4
      clear_value s4
      apply seqSteps_keeps
      · apply steps_cons
        · intro x5 x6
          apply engWrite_keeps
          exact x6
        · apply steps_cons
          · intro x7 x8
            apply engWrite_keeps
            exact x8
          · apply steps_cons
            · intro x9 x10
              apply engPut_keeps
              exact x10
            · apply steps_cons
              · intro x11 x12
                apply engWrite_keeps
                exact x12
              · exact steps_nil
      · exact h3

theorem putRows_keeps {a : State} (e : SesEnt) (l : Nat) (z2 : Nat) (pos : Nat) (ks : List (List Byte)) (vs : List (List Byte)) {s : State} (hs : Keeps a s) :
    Keeps a (putRows e l z2 pos ks vs s).2 := by
  unfold putRows
  apply seqSteps_keeps
  · apply steps_map
    intro x0 x1 x2
    extract_lets +onlyGivenNames -underBinder s3
    have h4 : Keeps a s3.2.2 := by
      unfold s3
      apply pageFrame_keeps
      exact x2
    clear_value s3
    split
    · refine keeps_mk ?_
      exact h4
    · extract_lets +onlyGivenNames -underBinder s5
      clear_value s5
      extract_lets +onlyGivenNames -underBinder s6
      clear_value s6
      apply writeRows_keeps
      exact h4
  · exact hs

theorem closedPages_keeps {a : State} (e : SesEnt) (l : Nat) (z2 : Nat) (z3 : List (Nat × Nat × Nat)) {z4 : State} (hz4 : Keeps a z4) :
    Keeps a (closedPages e l z2 z3 z4).2.2 := by
  induction z3 generalizing e l z2 z4 with
  | nil =>
    unfold closedPages
    refine keeps_mk2 ?_
    exact hz4
  | cons x t ih =>
    unfold closedPages
    extract_lets +onlyGivenNames -underBinder s0
    have h1 : Keeps a s0.2.2 := by
      unfold s0
      apply pageFrame_keeps
      exact hz4
    clear_value s0
    extract_lets +onlyGivenNames -underBinder s2
    have h3 : Keeps a s2.2.2 := by
      unfold s2
      apply ih
      exact h1
    clear_value s2
    refine keeps_mk2 ?_
    exact h3

theorem frameRefs_keeps {a : State} (n : Nat) (f : Nat) {s : State} (hs : Keeps a s) :
    Keeps a (frameRefs n f s).2.2 := by
  unfold frameRefs
  apply engRead_keeps
  exact hs

theorem unshare_keeps {a : State} (n : Nat) (f : Nat) {s : State} (hs : Keeps a s) :
    Keeps a (unshare n f s) := by
  unfold unshare
  apply forEach_keeps
  · intro x0 x1 x2
    apply forEach_keeps
    · intro x3 x4 x5
      extract_lets +onlyGivenNames -underBinder s6
      have h7 : Keeps a s6.2.2 := by
        unfold s6
        apply dirEntry_keeps
        exact x5
      clear_value s6
      refine keeps_ite ?_ ?_
      · apply putDir_keeps
        exact h7
      · exact h7
    · exact x2
  · exact hs

theorem dropFrame_keeps {a : State} (n : Nat) (f : Nat) (shared : Bool) {s : State} (hs : Keeps a s) :
    Keeps a (dropFrame n f shared s).2.2 := by
  unfold dropFrame
  extract_lets +onlyGivenNames -underBinder s0
  have h1 : Keeps a s0.2.2 := by
    unfold s0
    apply frameRefs_keeps
    exact hs
  clear_value s0
  refine keeps_ite_snd2 ?_ ?_
  · refine keeps_ite_snd2 ?_ ?_
    · refine keeps_mk2 ?_
      exact h1
    · refine keeps_mk2 ?_
      apply freeFrames_keeps
      exact h1
  · extract_lets +onlyGivenNames -underBinder s2
    have h3 : Keeps a s2.2 := by
      unfold s2
      apply engPut_keeps
      exact h1
    clear_value s2
    refine keeps_ite_snd2 ?_ ?_
    · refine keeps_mk2 ?_
      apply freeFrames_keeps
      exact h3
    · refine keeps_mk2 ?_
      refine keeps_ite ?_ ?_
      · apply unshare_keeps
        exact h3
      · exact h3

theorem dropEntries_keeps {a : State} (e : SesEnt) (f : Nat → Nat → Option Nat) (z2 : List Nat) {z3 : State} (hz3 : Keeps a z3) :
    Keeps a (dropEntries e f z2 z3).2.2 := by
  induction z2 generalizing e f z3 with
  | nil =>
    unfold dropEntries
    refine keeps_mk2 ?_
    exact hz3
  | cons x t ih =>
    unfold dropEntries
    extract_lets +onlyGivenNames -underBinder s0
    have h1 : Keeps a s0.2.2 := by
      unfold s0
      apply dirEntry_keeps
      exact hz3
    clear_value s0
    extract_lets +onlyGivenNames -underBinder s2
    have h3 : Keeps a s2.2 := by
      unfold s2
      split
      · apply putDir_keeps
        exact h1
      · refine keeps_mk ?_
        exact h1
    clear_value s2
    extract_lets +onlyGivenNames -underBinder s4
    have h5 : Keeps a s4.2.2 := by
      unfold s4
      apply dropFrame_keeps
      exact h3
    clear_value s4
    extract_lets +onlyGivenNames -underBinder s6
    have h7 : Keeps a s6.2.2 := by
      unfold s6
      refine keeps_ite_snd2 ?_ ?_
      · refine keeps_mk2 ?_
        exact h5
      · refine keeps_mk2 ?_
        exact h1
    clear_value s6
    extract_lets +onlyGivenNames -underBinder s8
    have h9 : Keeps a s8.2.2 := by
      unfold s8
      apply ih
      exact h7
    clear_value s8
    refine keeps_mk2 ?_
    exact h9

theorem leafFrames_keeps {a : State} (e : SesEnt) (z1 : List Nat) {z2 : State} (hz2 : Keeps a z2) :
    Keeps a (leafFrames e z1 z2).2.2 := by
  induction z1 generalizing e z2 with
  | nil =>
    unfold leafFrames
    refine keeps_mk2 ?_
    exact hz2
  | cons x t ih =>
    unfold leafFrames
    extract_lets +onlyGivenNames -underBinder s0
    have h1 : Keeps a s0.2.2 := by
      unfold s0
      apply rootLeaf_keeps
      exact hz2
    clear_value s0
    extract_lets +onlyGivenNames -underBinder s2
    have h3 : Keeps a s2.2.2 := by
      unfold s2
      apply ih
      exact h1
    clear_value s2
    refine keeps_mk2 ?_
    exact h3

theorem dropStream_keeps {a : State} (i : Nat) {s : State} (hs : Keeps a s) :
    Keeps a (dropStream i s) := by
  unfold dropStream
  apply setSes_keeps
  exact hs

theorem dropEnt_keeps {a : State} (i : Nat) {s : State} (hs : Keeps a s) :
    Keeps a (dropEnt i s) := by
  unfold dropEnt
  split
  · exact hs
  · apply setSyr_keeps
    apply setSes_keeps
    exact hs

theorem eraseSes_keeps {a : State} (i : Nat) {s : State} (hs : Keeps a s) :
    Keeps a (eraseSes i s).2.2 := by
  unfold eraseSes
  split
  · refine keeps_mk2 ?_
    exact hs
  · extract_lets +onlyGivenNames -underBinder s0
    have h1 : Keeps a s0.2.2 := by
      unfold s0
      apply dropEntries_keeps
      exact hs
    clear_value s0
    extract_lets +onlyGivenNames -underBinder s2
    have h3 : Keeps a s2.2.2 := by
      unfold s2
      apply leafFrames_keeps
      exact h1
    clear_value s2
    extract_lets +onlyGivenNames -underBinder s4
    clear_value s4
    refine keeps_mk2 ?_
    apply dropEnt_keeps
    apply freeFrames_keeps
    exact h3

end Sys2Proof.Machine
end

