-- ==== Sys2Proof/Laws/KeepsMirrorCore.lean ====
section
/-! SUPPORT. Sys2Proof/Laws/KeepsMirrorCore.lean: every operation of Machine/MirrorCore.lean keeps what `Keeps` says. -/

namespace Sys2Proof.Machine

open Sys2Proof

theorem tellFirmware_keeps {a : State} (dst : Nat) (what : Nat) (args : List Nat) (data : List Byte) {s : State} (hs : Keeps a s) :
    Keeps a (tellFirmware dst what args data s) := by
  unfold tellFirmware
  apply emit_keeps
  exact hs

theorem tellHub_keeps {a : State} (dst : Nat) (what : Nat) (args : List Nat) {s : State} (hs : Keeps a s) :
    Keeps a (tellHub dst what args s) := by
  unfold tellHub
  apply tellFirmware_keeps
  exact hs

theorem dropOp_keeps {a : State} (g : Nat) (k : Nat) {s : State} (hs : Keeps a s) :
    Keeps a (dropOp g k s) := by
  unfold dropOp
  apply setSes_keeps
  exact hs

theorem setState_keeps {a : State} (i : Nat) (st : Nat) {s : State} (hs : Keeps a s) :
    Keeps a (setState i st s) := by
  unfold setState
  split
  · apply putEnt_keeps
    exact hs
  · exact hs

theorem endOp_keeps {a : State} (o : SesOp) (st : Status) {s : State} (hs : Keeps a s) :
    Keeps a (endOp o st s) := by
  unfold endOp
  apply failDesc_keeps
  apply dropOp_keeps
  exact hs

theorem forgetMirror_keeps {a : State} (i : Nat) {s : State} (hs : Keeps a s) :
    Keeps a (forgetMirror i s) := by
  unfold forgetMirror
  extract_lets +onlyGivenNames -underBinder s0
  clear_value s0
  apply setSyr_keeps
  exact hs

theorem orphan_keeps {a : State} (o : SesOp) (fn : Nat) {s : State} (hs : Keeps a s) :
    Keeps a (orphan o fn s) := by
  unfold orphan
  refine keeps_ite ?_ ?_
  · apply setSes_keeps
    exact hs
  · exact hs

theorem dropReplica_keeps {a : State} (i : Nat) (e : SesEnt) {s : State} (hs : Keeps a s) :
    Keeps a (dropReplica i e s) := by
  unfold dropReplica
  refine keeps_ite ?_ ?_
  · apply tellHub_keeps
    apply forgetMirror_keeps
    exact hs
  · split
    · apply orphan_keeps
      exact hs
    · exact hs

theorem breakMirror_keeps {a : State} (i : Nat) (st : Status) (tell : Bool) {s : State} (hs : Keeps a s) :
    Keeps a (breakMirror i st tell s) := by
  unfold breakMirror
  split
  · exact hs
  · extract_lets +onlyGivenNames -underBinder s0
    have h1 : Keeps a s0 := by
      unfold s0
      refine keeps_ite ?_ ?_
      · apply dropReplica_keeps
        exact hs
      · apply forgetMirror_keeps
        exact hs
    clear_value s0
    extract_lets +onlyGivenNames -underBinder s2
    have h3 : Keeps a s2 := by
      unfold s2
      apply putEnt_keeps
      exact h1
    clear_value s2
    extract_lets +onlyGivenNames -underBinder s4
    have h5 : Keeps a s4 := by
      unfold s4
      apply postEvent_keeps
      apply setB_keeps
      exact h3
    clear_value s4
    split
    · apply endOp_keeps
      exact h5
    · exact h5

theorem sendMirror_keeps {a : State} (i : Nat) (word3 : Nat) (data : List Byte) {s : State} (hs : Keeps a s) :
    Keeps a (sendMirror i word3 data s) := by
  unfold sendMirror
  split
  · exact hs
  · refine keeps_ite ?_ ?_
    · exact hs
    · extract_lets +onlyGivenNames -underBinder s0
      clear_value s0
      extract_lets +onlyGivenNames -underBinder s1
      have h2 : Keeps a s1 := by
        unfold s1
        apply putEnt_keeps
        exact hs
      clear_value s1
      extract_lets +onlyGivenNames -underBinder s3
      have h4 : Keeps a s3 := by
        unfold s3
        apply setSyr_keeps
        exact h2
      clear_value s3
      refine keeps_ite ?_ ?_
      · apply syrSend_keeps
        exact h4
      · refine keeps_ite ?_ ?_
        · apply breakMirror_keeps
          exact h4
        · apply setSyr_keeps
          exact h4

theorem flushMirror_keeps {a : State} {s : State} (hs : Keeps a s) :
    Keeps a (flushMirror s) := by
  unfold flushMirror
  refine keeps_ite ?_ ?_
  · exact hs
  · extract_lets +onlyGivenNames -underBinder s0
    clear_value s0
    apply forEach_keeps
    · intro x1 x2 x3
      apply syrSend_keeps
      exact x3
    · apply setSyr_keeps
      exact hs

theorem mirrorRows_keeps {a : State} (i : Nat) (e : SesEnt) (l : Nat) (z3 : Nat) (z4 : Nat) (z5 : Nat) (z6 : List (List Byte)) (z7 : List (List Byte)) {z8 : State} (hz8 : Keeps a z8) :
    Keeps a (mirrorRows i e l z3 z4 z5 z6 z7 z8) := by
  induction z4 generalizing i e l z3 z5 z6 z7 z8 with
  | zero =>
    unfold mirrorRows
    exact hz8
  | succ n ih =>
    unfold mirrorRows
    refine keeps_ite ?_ ?_
    · exact hz8
    · extract_lets +onlyGivenNames -underBinder s0
      clear_value s0
      refine keeps_ite ?_ ?_
      · apply ih
        apply sendMirror_keeps
        apply sendMirror_keeps
        exact hz8
      · extract_lets +onlyGivenNames -underBinder s1
        clear_value s1
        apply ih
        apply sendMirror_keeps
        exact hz8

theorem mirrorCommit_keeps {a : State} (i : Nat) (len : Nat) {s : State} (hs : Keeps a s) :
    Keeps a (mirrorCommit i len s) := by
  unfold mirrorCommit
  apply sendMirror_keeps
  exact hs

theorem mirrorFrames_keeps {a : State} (i : Nat) (e : SesEnt) (z2 : List Nat) {z3 : State} (hz3 : Keeps a z3) :
    Keeps a (mirrorFrames i e z2 z3).2 := by
  induction z2 generalizing i e z3 with
  | nil =>
    unfold mirrorFrames
    refine keeps_mk ?_
    exact hz3
  | cons x t ih =>
    unfold mirrorFrames
    extract_lets +onlyGivenNames -underBinder s0
    have h1 : Keeps a s0.2.2 := by
      unfold s0
      apply dirEntry_keeps
      exact hz3
    clear_value s0
    refine keeps_ite_snd ?_ ?_
    · refine keeps_mk ?_
      exact h1
    · refine keeps_ite_snd ?_ ?_
      · apply ih
        exact h1
      · extract_lets +onlyGivenNames -underBinder s2
        have h3 : Keeps a s2.2.2 := by
          unfold s2
          apply homeGet_keeps
          exact h1
        clear_value s2
        refine keeps_ite_snd ?_ ?_
        · refine keeps_mk ?_
          exact h3
        · apply ih
          apply forEach_keeps
          · intro x4 x5 x6
            apply sendMirror_keeps
            exact x6
          · exact h3

theorem mirrorDone_keeps {a : State} (i : Nat) {s : State} (hs : Keeps a s) :
    Keeps a (mirrorDone i s) := by
  unfold mirrorDone
  split
  · refine keeps_ite ?_ ?_
    · apply completeDesc_keeps
      apply dropOp_keeps
      apply putEnt_keeps
      exact hs
    · exact hs
  · exact hs

end Sys2Proof.Machine
end

