-- ==== Sys2Proof/Laws/KeepsSessions.lean ====
section
/-! SUPPORT. Sys2Proof/Laws/KeepsSessions.lean: every operation of Machine/Sessions.lean keeps what `Keeps` says. -/

namespace Sys2Proof.Machine

open Sys2Proof

theorem sesDesc_keeps {a : State} (ty : Nat) (g : Nat) (k : Nat) {s : State} (f : Desc → State) (hs : Keeps a s) (hf : ∀ y0, Keeps a (f y0)) :
    Keeps a (sesDesc ty g k s f) := by
  unfold sesDesc
  split
  · exact hs
  · refine keeps_ite ?_ ?_
    · exact hs
    · apply hf

theorem onSession_keeps {a : State} (ty : Nat) (g : Nat) (k : Nat) (extra : Desc → Nat → SesEnt → Status) (f : Desc → Nat → SesEnt → State) {s : State} (hf : ∀ y0 y1 y2, Keeps a (f y0 y1 y2)) (hs : Keeps a s) :
    Keeps a (onSession ty g k extra f s) := by
  unfold onSession
  apply sesDesc_keeps
  · exact hs
  · intro x0
    extract_lets +onlyGivenNames -underBinder s1
    clear_value s1
    extract_lets +onlyGivenNames -underBinder s2
    clear_value s2
    extract_lets +onlyGivenNames -underBinder s3
    clear_value s3
    split
    · apply failDesc_keeps
      exact hs
    · extract_lets +onlyGivenNames -underBinder s4
      clear_value s4
      refine keeps_ite ?_ ?_
      · exact hs
      · refine keeps_ite ?_ ?_
        · apply failDesc_keeps
          exact hs
        · apply hf

theorem wideClaim_keeps {a : State} (n : Nat) (off : Nat) (len : Nat) {s : State} (hs : Keeps a s) :
    Keeps a (wideClaim n off len s) := by
  unfold wideClaim
  apply forEach_keeps
  · intro x0 x1 x2
    refine keeps_ite ?_ ?_
    · exact x2
    · apply startEvict_keeps
      exact x2
  · exact hs

theorem doKvPoolAdd_keeps {a : State} (g : Nat) (k : Nat) {s : State} (hs : Keeps a s) :
    Keeps a (doKvPoolAdd g k s) := by
  unfold doKvPoolAdd
  apply sesDesc_keeps
  · exact hs
  · intro x0
    extract_lets +onlyGivenNames -underBinder s1
    clear_value s1
    extract_lets +onlyGivenNames -underBinder s2
    clear_value s2
    extract_lets +onlyGivenNames -underBinder s3
    clear_value s3
    extract_lets +onlyGivenNames -underBinder s4
    clear_value s4
    refine keeps_ite ?_ ?_
    · apply failDesc_keeps
      exact hs
    · refine keeps_ite ?_ ?_
      · apply wideClaim_keeps
        exact hs
      · extract_lets +onlyGivenNames -underBinder s5
        have h6 : Keeps a s5 := by
          unfold s5
          apply setMem_keeps
          · intro x7
            exact ⟨rfl, rfl⟩
          · exact hs
        clear_value s5
        apply completeDesc_keeps
        exact h6

theorem zeroFrame_keeps {a : State} (n : Nat) (f : Nat) {s : State} (hs : Keeps a s) :
    Keeps a (zeroFrame n f s).2 := by
  unfold zeroFrame
  apply engWrite_keeps
  exact hs

theorem layRoot_keeps {a : State} (e : SesEnt) (root : Nat) (leaves : List Nat) {s : State} (hs : Keeps a s) :
    Keeps a (layRoot e root leaves s).2 := by
  unfold layRoot
  apply seqSteps_keeps
  · apply steps_append
    · apply steps_map
      intro x0 x1 x2
      apply zeroFrame_keeps
      exact x2
    · apply steps_map
      intro x3 x4 x5
      apply engPut_keeps
      exact x5
  · exact hs

theorem makeSesAt_keeps {a : State} (e : SesEnt) (i : Option Nat) {f : Option (List Nat × State)} {s : State} (hs : Keeps a s)
    (hf : ∀ l t, f = some (l, t) → Keeps a t) : Keeps a (makeSesAt e i f s).2.2 := by
  unfold makeSesAt
  split
  · rename_i i root leaves t
    extract_lets r
    have hr : Keeps a r.2 := by
      apply layRoot_keeps
      exact hf _ _ rfl
    refine keeps_ite_snd2 (keeps_mk2 ?_) (keeps_mk2 ?_)
    · apply putEnt_keeps
      exact hr
    · apply freeFrames_keeps
      exact hr
  · exact keeps_mk2 hs

theorem makeSes_keeps {a : State} (e : SesEnt) {s : State} (hs : Keeps a s) : Keeps a (makeSes e s).2.2 := by
  unfold makeSes
  exact makeSesAt_keeps e _ hs fun _ _ h => takeFrames_keepsO h hs

theorem doSesCreate_keeps {a : State} (g : Nat) (k : Nat) {s : State} (hs : Keeps a s) :
    Keeps a (doSesCreate g k s) := by
  unfold doSesCreate
  apply sesDesc_keeps
  · exact hs
  · intro x0
    extract_lets +onlyGivenNames -underBinder s1
    clear_value s1
    extract_lets +onlyGivenNames -underBinder s2
    clear_value s2
    extract_lets +onlyGivenNames -underBinder s3
    clear_value s3
    extract_lets +onlyGivenNames -underBinder s4
    clear_value s4
    refine keeps_ite ?_ ?_
    · apply failDesc_keeps
      exact hs
    · extract_lets +onlyGivenNames -underBinder s5
      have h6 : Keeps a s5.2.2 := by
        unfold s5
        apply makeSes_keeps
        exact hs
      clear_value s5
      refine keeps_ite ?_ ?_
      · apply completeDesc_keeps
        exact h6
      · apply failDesc_keeps
        exact h6

theorem pendingOf_keeps {a : State} (e : SesEnt) {s : State} (hs : Keeps a s) :
    Keeps a (pendingOf e s).2.2 := by
  unfold pendingOf
  extract_lets +onlyGivenNames -underBinder s0
  have h1 : Keeps a s0.2.2 := by
    unfold s0
    apply engRead_keeps
    exact hs
  clear_value s0
  refine keeps_mk2 ?_
  exact h1

theorem putPending_keeps {a : State} (e : SesEnt) (layers : Nat) (at' : Nat) (count : Nat) {s : State} (hs : Keeps a s) :
    Keeps a (putPending e layers at' count s).2 := by
  unfold putPending
  apply engPut_keeps
  exact hs

theorem pagesToOpen_keeps {a : State} (e : SesEnt) (l : Nat) (at' : Nat) (count : Nat) (z4 : List Nat) {z5 : State} (hz5 : Keeps a z5) :
    Keeps a (pagesToOpen e l at' count z4 z5).2.2 := by
  induction z4 generalizing e l at' count z5 with
  | nil =>
    unfold pagesToOpen
    refine keeps_mk2 ?_
    exact hz5
  | cons x t ih =>
    unfold pagesToOpen
    extract_lets +onlyGivenNames -underBinder s0
    have h1 : Keeps a s0.2.2 := by
      unfold s0
      apply closedPages_keeps
      exact hz5
    clear_value s0
    extract_lets +onlyGivenNames -underBinder s2
    have h3 : Keeps a s2.2.2 := by
      unfold s2
      apply ih
      exact h1
    clear_value s2
    refine keeps_mk2 ?_
    exact h3

theorem commitAppend_keeps {a : State} (i : Nat) (e : SesEnt) (layer : Nat) (at' : Nat) (count : Nat) (p : Nat × Nat × Nat) {s : State} (hs : Keeps a s) :
    Keeps a (commitAppend i e layer at' count p s).2 := by
  unfold commitAppend
  extract_lets +onlyGivenNames -underBinder s0
  clear_value s0
  refine keeps_ite_snd ?_ ?_
  · extract_lets +onlyGivenNames -underBinder s1
    have h2 : Keeps a s1.2 := by
      unfold s1
      apply putPending_keeps
      exact hs
    clear_value s1
    refine keeps_ite_snd ?_ ?_
    · exact h2
    · split
      · exact h2
      · extract_lets +onlyGivenNames -underBinder s3
        clear_value s3
        extract_lets +onlyGivenNames -underBinder s4
        have h5 : Keeps a s4 := by
          unfold s4
          apply putEnt_keeps
          exact h2
        clear_value s4
        extract_lets +onlyGivenNames -underBinder s6
        have h7 : Keeps a s6 := by
          unfold s6
          refine keeps_ite ?_ ?_
          · apply setSes_keeps
            exact h5
          · exact h5
        clear_value s6
        refine keeps_mk ?_
        apply mirrorCommit_keeps
        exact h7
  · apply putPending_keeps
    exact hs

theorem appendRun_keeps {a : State} (i : Nat) (e : SesEnt) (layer : Nat) (count : Nat) (fmt : Nat) (at' : Nat) (src : Nat) {s : State} (hs : Keeps a s) :
    Keeps a (appendRun i e layer count fmt at' src s).2 := by
  unfold appendRun
  extract_lets +onlyGivenNames -underBinder s0
  clear_value s0
  extract_lets +onlyGivenNames -underBinder s1
  clear_value s1
  extract_lets +onlyGivenNames -underBinder s2
  have h3 : Keeps a s2.2.2 := by
    unfold s2
    apply pendingOf_keeps
    exact hs
  clear_value s2
  extract_lets +onlyGivenNames -underBinder s4
  clear_value s4
  extract_lets +onlyGivenNames -underBinder s5
  have h6 : Keeps a s5.2.2 := by
    unfold s5
    apply pagesToOpen_keeps
    exact h3
  clear_value s5
  extract_lets +onlyGivenNames -underBinder s7
  have h8 : Keeps a s7 := by
    unfold s7
    exact h6
  clear_value s7
  extract_lets +onlyGivenNames -underBinder s9
  have h10 : Keeps a s9.2.2 := by
    unfold s9
    refine keeps_ite_snd2 ?_ ?_
    · apply homeGet_keeps
      exact h8
    · refine keeps_mk2 ?_
      exact h8
  clear_value s9
  extract_lets +onlyGivenNames -underBinder s11
  have h12 : Keeps a s11 := by
    unfold s11
    exact h10
  clear_value s11
  extract_lets +onlyGivenNames -underBinder s13
  clear_value s13
  refine keeps_ite_snd ?_ ?_
  · refine keeps_mk ?_
    exact h12
  · extract_lets +onlyGivenNames -underBinder s14
    clear_value s14
    extract_lets +onlyGivenNames -underBinder s15
    have h16 : Keeps a s15.2 := by
      unfold s15
      apply seqSteps_keeps
      · apply steps_append
        · apply steps_map
          intro x17 x18 x19
          apply openPage_keeps
          exact x19
        · apply steps_map
          intro x20 x21 x22
          apply putRows_keeps
          exact x22
      · exact h12
    clear_value s15
    extract_lets +onlyGivenNames -underBinder s23
    have h24 : ∀ y0, Keeps a y0 → Keeps a (s23 y0) := by
      unfold s23
      intro x25 x26
      apply forEach_keeps
      · intro x27 x28 x29
        apply mirrorRows_keeps
        exact x29
      · exact x26
    clear_value s23
    extract_lets +onlyGivenNames -underBinder s30
    have h31 : Keeps a s30.2 := by
      unfold s30
      refine keeps_ite_snd ?_ ?_
      · apply commitAppend_keeps
        apply h24
        exact h16
      · exact h16
    clear_value s30
    refine keeps_ite_snd ?_ ?_
    · exact h31
    · refine keeps_mk ?_
      apply forEach_keeps
      · intro x32 x33 x34
        apply closePage_keeps
        exact x34
      · exact h31

theorem doKvAppend_keeps {a : State} (g : Nat) (k : Nat) {s : State} (hs : Keeps a s) :
    Keeps a (doKvAppend g k s) := by
  unfold doKvAppend
  apply onSession_keeps
  · intro x0 x1 x2
    extract_lets +onlyGivenNames -underBinder s3
    clear_value s3
    extract_lets +onlyGivenNames -underBinder s4
    clear_value s4
    extract_lets +onlyGivenNames -underBinder s5
    clear_value s5
    extract_lets +onlyGivenNames -underBinder s6
    clear_value s6
    refine keeps_ite ?_ ?_
    · apply claim_keeps
      exact hs
    · extract_lets +onlyGivenNames -underBinder s7
      have h8 : Keeps a s7.2 := by
        unfold s7
        apply appendRun_keeps
        exact hs
      clear_value s7
      refine keeps_ite ?_ ?_
      · apply completeDesc_keeps
        exact h8
      · apply failDesc_keeps
        exact h8
  · exact hs

theorem sharePage_keeps {a : State} (i : Nat) (c : Nat) (l : Nat) (z3 : Nat) (o : Nat) {s : State} (hs : Keeps a s) :
    Keeps a (sharePage i c l z3 o s).2 := by
  unfold sharePage
  split
  · extract_lets +onlyGivenNames -underBinder s0
    have h1 : Keeps a s0.2.2 := by
      unfold s0
      apply pageFrame_keeps
      exact hs
    clear_value s0
    split
    · refine keeps_mk ?_
      exact h1
    · extract_lets +onlyGivenNames -underBinder s2
      have h3 : Keeps a s2.2.2 := by
        unfold s2
        apply frameRefs_keeps
        exact h1
      clear_value s2
      refine keeps_ite_snd ?_ ?_
      · refine keeps_mk ?_
        exact h3
      · extract_lets +onlyGivenNames -underBinder s4
        have h5 : Keeps a s4.2 := by
          unfold s4
          apply seqSteps_keeps
          · apply steps_cons
            · intro x6 x7
              apply engPut_keeps
              exact x7
            · apply steps_cons
              · intro x8 x9
                apply putDir_keeps
                exact x9
              · apply steps_cons
                · intro x10 x11
                  apply putDir_keeps
                  exact x11
                · exact steps_nil
          · exact h3
        clear_value s4
        refine keeps_mk ?_
        apply addFrames_keeps
        exact h5
  · refine keeps_mk ?_
    exact hs

theorem copyPage_keeps {a : State} (i : Nat) (c : Nat) (l : Nat) (z3 : Nat) (o : Nat) (keep : Nat) {s : State} (hs : Keeps a s) :
    Keeps a (copyPage i c l z3 o keep s).2 := by
  unfold copyPage
  split
  · extract_lets +onlyGivenNames -underBinder s0
    have h1 : Keeps a s0.2.2 := by
      unfold s0
      apply pageFrame_keeps
      exact hs
    clear_value s0
    split
    · extract_lets +onlyGivenNames -underBinder s2
      have h3 : Keeps a s2.2.2 := by
        unfold s2
        apply homeGet_keeps
        refine takeFrame_keepsO (e := by assumption) ?_
        exact h1
      clear_value s2
      extract_lets +onlyGivenNames -underBinder s4
      have h5 : Keeps a s4.2.2 := by
        unfold s4
        apply homeGet_keeps
        exact h3
      clear_value s4
      extract_lets +onlyGivenNames -underBinder s6
      have h7 : Keeps a s6.2.2 := by
        unfold s6
        apply homeGet_keeps
        exact h5
      clear_value s6
      extract_lets +onlyGivenNames -underBinder s8
      clear_value s8
      extract_lets +onlyGivenNames -underBinder s9
      have h10 : Keeps a s9.2 := by
        unfold s9
        refine keeps_ite_snd ?_ ?_
        · refine keeps_mk ?_
          exact h7
        · apply seqSteps_keeps
          · apply steps_cons
            · intro x11 x12
              apply engWrite_keeps
              exact x12
            · apply steps_cons
              · intro x13 x14
                apply engWrite_keeps
                exact x14
              · apply steps_cons
                · intro x15 x16
                  apply engWrite_keeps
                  exact x16
                · apply steps_cons
                  · intro x17 x18
                    apply putDir_keeps
                    exact x18
                  · exact steps_nil
          · exact h7
      clear_value s9
      refine keeps_ite_snd ?_ ?_
      · refine keeps_mk ?_
        apply addFrames_keeps
        exact h10
      · refine keeps_mk ?_
        apply freeFrames_keeps
        exact h10
    · refine keeps_mk ?_
      exact h1
  · refine keeps_mk ?_
    exact hs

theorem forkSteps_steps {a : State} (i c len n l h : Nat) : Steps a (forkSteps i c len n l h) := by
  unfold forkSteps
  refine steps_append (steps_map fun o t ht => ?_) (steps_ite steps_nil (steps_cons (fun t ht => ?_) steps_nil))
  · apply sharePage_keeps
    exact ht
  · apply copyPage_keeps
    exact ht

theorem doSesFork_keeps {a : State} (g : Nat) (k : Nat) {s : State} (hs : Keeps a s) :
    Keeps a (doSesFork g k s) := by
  unfold doSesFork
  apply onSession_keeps
  · intro x0 x1 x2
    extract_lets +onlyGivenNames -underBinder s3
    clear_value s3
    extract_lets +onlyGivenNames -underBinder s4
    have h5 : Keeps a s4.2.2 := by
      unfold s4
      apply makeSes_keeps
      exact hs
    clear_value s4
    refine keeps_ite ?_ ?_
    · apply failDesc_keeps
      exact h5
    · extract_lets +onlyGivenNames -underBinder s6
      clear_value s6
      extract_lets +onlyGivenNames -underBinder s7
      have h8 : Keeps a s7.2 := by
        unfold s7
        apply seqSteps_keeps
        · apply steps_flatMap
          intro x9
          apply steps_flatMap
          intro x10
          apply forkSteps_steps
        · exact h5
      clear_value s7
      refine keeps_ite ?_ ?_
      · apply completeDesc_keeps
        exact h8
      · extract_lets +onlyGivenNames -underBinder s11
        have h12 : Keeps a s11.2.2 := by
          unfold s11
          apply eraseSes_keeps
          exact h8
        clear_value s11
        apply failDesc_keeps
        apply setSes_keeps
        exact h12
  · exact hs

theorem doSesDelete_keeps {a : State} (g : Nat) (k : Nat) {s : State} (hs : Keeps a s) :
    Keeps a (doSesDelete g k s) := by
  unfold doSesDelete
  apply onSession_keeps
  · intro x0 x1 x2
    extract_lets +onlyGivenNames -underBinder s3
    have h4 : Keeps a s3 := by
      unfold s3
      apply dropReplica_keeps
      exact hs
    clear_value s3
    extract_lets +onlyGivenNames -underBinder s5
    have h6 : Keeps a s5 := by
      unfold s5
      split
      · apply endOp_keeps
        exact h4
      · assumption
    clear_value s5
    extract_lets +onlyGivenNames -underBinder s7
    have h8 : Keeps a s7 := by
      unfold s7
      refine keeps_ite ?_ ?_
      · apply tellHub_keeps
        exact h6
      · exact h6
    clear_value s7
    extract_lets +onlyGivenNames -underBinder s9
    have h10 : Keeps a s9 := by
      unfold s9
      refine keeps_ite ?_ ?_
      · apply dropStream_keeps
        exact h8
      · exact h8
    clear_value s9
    extract_lets +onlyGivenNames -underBinder s11
    have h12 : Keeps a s11.2.2 := by
      unfold s11
      apply eraseSes_keeps
      exact h10
    clear_value s11
    apply completeDesc_keeps
    exact h12
  · exact hs

theorem doSesQuery_keeps {a : State} (g : Nat) (k : Nat) {s : State} (hs : Keeps a s) :
    Keeps a (doSesQuery g k s) := by
  unfold doSesQuery
  apply onSession_keeps
  · intro x0 x1 x2
    extract_lets +onlyGivenNames -underBinder s3
    clear_value s3
    refine keeps_ite ?_ ?_
    · apply claim_keeps
      exact hs
    · extract_lets +onlyGivenNames -underBinder s4
      have h5 : Keeps a s4.2.2 := by
        unfold s4
        apply homeGet_keeps
        exact hs
      clear_value s4
      refine keeps_ite ?_ ?_
      · apply failDesc_keeps
        exact h5
      · extract_lets +onlyGivenNames -underBinder s6
        have h7 : Keeps a s6.2 := by
          unfold s6
          apply homePut_keeps
          exact h5
        clear_value s6
        apply failDesc_keeps
        exact h7
  · exact hs

theorem doStreamAdmit_keeps {a : State} (g : Nat) (k : Nat) {s : State} (hs : Keeps a s) :
    Keeps a (doStreamAdmit g k s) := by
  unfold doStreamAdmit
  apply onSession_keeps
  · intro x0 x1 x2
    split
    · exact hs
    · extract_lets +onlyGivenNames -underBinder s3
      clear_value s3
      extract_lets +onlyGivenNames -underBinder s4
      have h5 : Keeps a s4 := by
        unfold s4
        apply setSes_keeps
        exact hs
      clear_value s4
      apply completeDesc_keeps
      apply putEnt_keeps
      exact h5
  · exact hs

theorem retireStream_keeps {a : State} (t : Nat) {s : State} (hs : Keeps a s) :
    Keeps a (retireStream t s) := by
  unfold retireStream
  split
  · exact hs
  · extract_lets +onlyGivenNames -underBinder s0
    have h1 : Keeps a s0 := by
      unfold s0
      apply dropStream_keeps
      exact hs
    clear_value s0
    split
    · apply putEnt_keeps
      exact h1
    · exact h1

theorem doStreamRetire_keeps {a : State} (g : Nat) (k : Nat) {s : State} (hs : Keeps a s) :
    Keeps a (doStreamRetire g k s) := by
  unfold doStreamRetire
  apply sesDesc_keeps
  · exact hs
  · intro x0
    extract_lets +onlyGivenNames -underBinder s1
    clear_value s1
    extract_lets +onlyGivenNames -underBinder s2
    clear_value s2
    extract_lets +onlyGivenNames -underBinder s3
    clear_value s3
    refine keeps_ite ?_ ?_
    · exact hs
    · refine keeps_ite ?_ ?_
      · apply failDesc_keeps
        exact hs
      · apply completeDesc_keeps
        apply retireStream_keeps
        exact hs

theorem sendDevice_keeps {a : State} (o : SesOp) (fn : Nat) (op : Nat) (off : Nat) (len : Nat) (data : List Byte) {s : State} (hs : Keeps a s) :
    Keeps a (sendDevice o fn op off len data s) := by
  unfold sendDevice
  apply sendReq_keeps
  apply count_keeps
  apply count_keeps
  exact hs

theorem parkRoot_keeps {a : State} (n : Nat) {s : State} (hs : Keeps a s) :
    Keeps a (parkRoot n s).2 := by
  unfold parkRoot
  split
  · refine keeps_mk ?_
    exact hs
  · refine keeps_mk ?_
    refine Keeps.same (s := s) ?_ rfl rfl rfl rfl rfl rfl rfl rfl rfl
    exact hs

theorem readFrames_keeps {a : State} (e : SesEnt) (z1 : List Nat) {z2 : State} (hz2 : Keeps a z2) :
    Keeps a (readFrames e z1 z2).2.2 := by
  induction z1 generalizing e z2 with
  | nil =>
    unfold readFrames
    refine keeps_mk2 ?_
    exact hz2
  | cons x t ih =>
    unfold readFrames
    extract_lets +onlyGivenNames -underBinder s0
    have h1 : Keeps a s0.2.2 := by
      unfold s0
      apply dirEntry_keeps
      exact hz2
    clear_value s0
    extract_lets +onlyGivenNames -underBinder s2
    have h3 : Keeps a s2.2.2 := by
      unfold s2
      refine keeps_ite_snd2 ?_ ?_
      · apply homeGet_keeps
        exact h1
      · refine keeps_mk2 ?_
        exact h1
    clear_value s2
    extract_lets +onlyGivenNames -underBinder s4
    have h5 : Keeps a s4.2.2 := by
      unfold s4
      apply ih
      exact h3
    clear_value s4
    refine keeps_mk2 ?_
    exact h5

theorem doSesPark_keeps {a : State} (g : Nat) (k : Nat) {s : State} (hs : Keeps a s) :
    Keeps a (doSesPark g k s) := by
  unfold doSesPark
  apply onSession_keeps
  · intro x0 x1 x2
    extract_lets +onlyGivenNames -underBinder s3
    have h4 : Keeps a s3.2.2 := by
      unfold s3
      apply readFrames_keeps
      exact hs
    clear_value s3
    refine keeps_ite ?_ ?_
    · apply failDesc_keeps
      exact h4
    · extract_lets +onlyGivenNames -underBinder s5
      have h6 : Keeps a s5.2 := by
        unfold s5
        apply parkRoot_keeps
        exact h4
      clear_value s5
      extract_lets +onlyGivenNames -underBinder s7
      clear_value s7
      extract_lets +onlyGivenNames -underBinder s8
      clear_value s8
      extract_lets +onlyGivenNames -underBinder s9
      clear_value s9
      apply sendDevice_keeps
      apply setState_keeps
      apply setSes_keeps
      apply drewN_keeps
      exact h6
  · exact hs

theorem failPark_keeps {a : State} (o : SesOp) (st : Status) {s : State} (hs : Keeps a s) :
    Keeps a (failPark o st s) := by
  unfold failPark
  apply endOp_keeps
  apply setState_keeps
  exact hs

theorem pageList_keeps {a : State} (e : SesEnt) (z1 : List Nat) {z2 : State} (hz2 : Keeps a z2) :
    Keeps a (pageList e z1 z2).2.2 := by
  induction z1 generalizing e z2 with
  | nil =>
    unfold pageList
    refine keeps_mk2 ?_
    exact hz2
  | cons x t ih =>
    unfold pageList
    extract_lets +onlyGivenNames -underBinder s0
    have h1 : Keeps a s0.2.2 := by
      unfold s0
      apply dirEntry_keeps
      exact hz2
    clear_value s0
    refine keeps_ite_snd2 ?_ ?_
    · refine keeps_mk2 ?_
      exact h1
    · refine keeps_ite_snd2 ?_ ?_
      · apply ih
        exact h1
      · extract_lets +onlyGivenNames -underBinder s2
        have h3 : Keeps a s2.2.2 := by
          unfold s2
          apply frameRefs_keeps
          exact h1
        clear_value s2
        refine keeps_ite_snd2 ?_ ?_
        · refine keeps_mk2 ?_
          exact h3
        · extract_lets +onlyGivenNames -underBinder s4
          have h5 : Keeps a s4.2.2 := by
            unfold s4
            apply ih
            exact h3
          clear_value s4
          refine keeps_mk2 ?_
          exact h5

theorem parkWrites_steps {a : State} (e : SesEnt) (target : List Byte) (pages : List (Nat × Nat × Nat)) :
    Steps a (parkWrites e target pages) := by
  unfold parkWrites
  refine steps_append (steps_cons (fun t ht => ?_) (steps_map fun o t ht => ?_)) (steps_map fun o t ht => ?_)
  · apply engWrite_keeps
    exact ht
  · apply putDir_keeps
    exact ht
  · apply engPut_keeps
    exact ht


theorem parkUndo_keeps {a : State} (e : SesEnt) (target : List Byte) (pages : List (Nat × Nat × Nat)) {s : State} (hs : Keeps a s) :
    Keeps a (parkUndo e target pages s) := by
  unfold parkUndo
  extract_lets +onlyGivenNames -underBinder s0
  have h1 : Keeps a s0 := by
    unfold s0
    apply engWrite_keeps
    exact hs
  clear_value s0
  apply forEach_keeps
  · intro x2 x3 x4
    apply engPut_keeps
    apply putDir_keeps
    exact x4
  · exact h1

theorem releasePages_keeps {a : State} (e : SesEnt) (pages : List (Nat × Nat × Nat)) {s : State} (hs : Keeps a s) :
    Keeps a (releasePages e pages s) := by
  unfold releasePages
  apply forEach_keeps
  · intro x0 x1 x2
    refine keeps_ite ?_ ?_
    · apply freeFrames_keeps
      exact x2
    · refine keeps_ite ?_ ?_
      · apply unshare_keeps
        exact x2
      · exact x2
  · exact hs

theorem endPark_keeps {a : State} (o : SesOp) {s : State} (hs : Keeps a s) :
    Keeps a (endPark o s) := by
  unfold endPark
  split
  · exact hs
  · extract_lets +onlyGivenNames -underBinder s0
    have h1 : Keeps a s0.2.2 := by
      unfold s0
      apply homeGet_keeps
      exact hs
    clear_value s0
    extract_lets +onlyGivenNames -underBinder s2
    have h3 : Keeps a s2.2.2 := by
      unfold s2
      apply pageList_keeps
      exact h1
    clear_value s2
    extract_lets +onlyGivenNames -underBinder s4
    clear_value s4
    refine keeps_ite ?_ ?_
    · apply failPark_keeps
      exact h3
    · extract_lets +onlyGivenNames -underBinder s5
      have h6 : Keeps a s5.2 := by
        unfold s5
        apply seqSteps_keeps
        · apply parkWrites_steps
        · exact h3
      clear_value s5
      refine keeps_ite ?_ ?_
      · apply failPark_keeps
        apply parkUndo_keeps
        exact h6
      · extract_lets +onlyGivenNames -underBinder s7
        have h8 : Keeps a s7 := by
          unfold s7
          split
          · apply putEnt_keeps
            exact h6
          · assumption
        clear_value s7
        apply completeDesc_keeps
        apply dropOp_keeps
        apply releasePages_keeps
        exact h8

theorem restoreTarget_keeps {a : State} (d : Desc) (e : Option SesEnt) {s : State} (hs : Keeps a s) :
    Keeps a (restoreTarget d e s).2.2 := by
  unfold restoreTarget
  split
  · extract_lets +onlyGivenNames -underBinder s0
    have h1 : Keeps a s0.2.2 := by
      unfold s0
      apply engRead_keeps
      exact hs
    clear_value s0
    refine keeps_mk2 ?_
    exact h1
  · refine keeps_mk2 ?_
    exact hs

theorem doSesRestore_keeps {a : State} (g : Nat) (k : Nat) {s : State} (hs : Keeps a s) :
    Keeps a (doSesRestore g k s) := by
  unfold doSesRestore
  apply sesDesc_keeps
  · exact hs
  · intro x0
    refine keeps_ite ?_ ?_
    · exact hs
    · extract_lets +onlyGivenNames -underBinder s1
      clear_value s1
      extract_lets +onlyGivenNames -underBinder s2
      clear_value s2
      extract_lets +onlyGivenNames -underBinder s3
      clear_value s3
      extract_lets +onlyGivenNames -underBinder s4
      clear_value s4
      refine keeps_ite ?_ ?_
      · exact hs
      · refine keeps_ite ?_ ?_
        · apply failDesc_keeps
          exact hs
        · extract_lets +onlyGivenNames -underBinder s5
          have h6 : Keeps a s5.2.2 := by
            unfold s5
            apply restoreTarget_keeps
            exact hs
          clear_value s5
          split
          extract_lets +onlyGivenNames -underBinder s7
          clear_value s7
          refine keeps_ite ?_ ?_
          · apply failDesc_keeps
            exact h6
          · extract_lets +onlyGivenNames -underBinder s8
            clear_value s8
            extract_lets +onlyGivenNames -underBinder s9
            have h10 : Keeps a s9 := by
              unfold s9
              apply setSes_keeps
              exact h6
            clear_value s9
            extract_lets +onlyGivenNames -underBinder s11
            have h12 : Keeps a s11 := by
              unfold s11
              split
              · apply setState_keeps
                exact h10
              · exact h10
            clear_value s11
            apply sendDevice_keeps
            exact h12

theorem failRestore_keeps {a : State} (o : SesOp) (st : Status) {s : State} (hs : Keeps a s) :
    Keeps a (failRestore o st s) := by
  unfold failRestore
  apply endOp_keeps
  refine keeps_ite ?_ ?_
  · apply setState_keeps
    exact hs
  · exact hs

theorem restoreHeader_keeps {a : State} (o : SesOp) (data : List Byte) {s : State} (hs : Keeps a s) :
    Keeps a (restoreHeader o data s) := by
  unfold restoreHeader
  extract_lets +onlyGivenNames -underBinder s0
  clear_value s0
  extract_lets +onlyGivenNames -underBinder s1
  have h2 : Keeps a s1.2 := by
    unfold s1
    apply parkRoot_keeps
    exact hs
  clear_value s1
  split
  extract_lets +onlyGivenNames -underBinder s3
  have h4 : Keeps a s3 := by
    unfold s3
    exact h2
  clear_value s3
  extract_lets +onlyGivenNames -underBinder s5
  clear_value s5
  extract_lets +onlyGivenNames -underBinder s6
  clear_value s6
  extract_lets +onlyGivenNames -underBinder s7
  clear_value s7
  extract_lets +onlyGivenNames -underBinder s8
  clear_value s8
  extract_lets +onlyGivenNames -underBinder s9
  clear_value s9
  refine keeps_ite ?_ ?_
  · apply failRestore_keeps
    exact h4
  · extract_lets +onlyGivenNames -underBinder s10
    clear_value s10
    apply sendDevice_keeps
    apply setSes_keeps
    exact h4

theorem placeFrames_keeps {a : State} (i : Nat) (isImport : Bool) (z2 : List (Nat × List Byte)) {z3 : State} (hz3 : Keeps a z3) :
    Keeps a (placeFrames i isImport z2 z3).2 := by
  induction z2 generalizing i isImport z3 with
  | nil =>
    unfold placeFrames
    refine keeps_mk ?_
    exact hz3
  | cons x t ih =>
    unfold placeFrames
    split
    · refine keeps_mk ?_
      exact hz3
    · split
      · refine keeps_mk ?_
        exact hz3
      · extract_lets +onlyGivenNames -underBinder s0
        clear_value s0
        extract_lets +onlyGivenNames -underBinder s1
        clear_value s1
        extract_lets +onlyGivenNames -underBinder s2
        clear_value s2
        extract_lets +onlyGivenNames -underBinder s3
        have h4 : Keeps a s3.2 := by
          unfold s3
          apply seqSteps_keeps
          · apply steps_cons
            · intro x5 x6
              apply engWrite_keeps
              exact x6
            · apply steps_cons
              · intro x7 x8
                apply putDir_keeps
                exact x8
              · exact steps_nil
          · refine takeFrame_keepsO (e := by assumption) ?_
            exact hz3
        clear_value s3
        refine keeps_ite_snd ?_ ?_
        · apply ih
          apply addFrames_keeps
          exact h4
        · refine keeps_mk ?_
          apply freeFrames_keeps
          exact h4

theorem restoreRest_keeps {a : State} (o : SesOp) (rest : List Byte) {s : State} (hs : Keeps a s) :
    Keeps a (restoreRest o rest s) := by
  unfold restoreRest
  extract_lets +onlyGivenNames -underBinder s0
  clear_value s0
  extract_lets +onlyGivenNames -underBinder s1
  have h2 : Keeps a s1.2 := by
    unfold s1
    apply parkRoot_keeps
    exact hs
  clear_value s1
  split
  extract_lets +onlyGivenNames -underBinder s3
  have h4 : Keeps a s3 := by
    unfold s3
    exact h2
  clear_value s3
  extract_lets +onlyGivenNames -underBinder s5
  clear_value s5
  split
  · apply failRestore_keeps
    exact h4
  · extract_lets +onlyGivenNames -underBinder s6
    clear_value s6
    extract_lets +onlyGivenNames -underBinder s7
    clear_value s7
    extract_lets +onlyGivenNames -underBinder s8
    have h9 : Keeps a s8.2.2 := by
      unfold s8
      refine keeps_ite_snd2 ?_ ?_
      · refine keeps_mk2 ?_
        exact h4
      · refine keeps_ite_snd2 ?_ ?_
        · refine keeps_mk2 ?_
          exact h4
        · apply makeSes_keeps
          exact h4
    clear_value s8
    refine keeps_ite ?_ ?_
    · apply failRestore_keeps
      exact h9
    · extract_lets +onlyGivenNames -underBinder s10
      clear_value s10
      split
      · apply failRestore_keeps
        exact h9
      · extract_lets +onlyGivenNames -underBinder s11
        have h12 : Keeps a s11.2 := by
          unfold s11
          apply placeFrames_keeps
          exact h9
        clear_value s11
        refine keeps_ite ?_ ?_
        · apply completeDesc_keeps
          apply dropOp_keeps
          apply setState_keeps
          exact h12
        · refine keeps_ite ?_ ?_
          · extract_lets +onlyGivenNames -underBinder s13
            have h14 : Keeps a s13.2.2 := by
              unfold s13
              apply eraseSes_keeps
              exact h12
            clear_value s13
            apply endOp_keeps
            apply setSes_keeps
            exact h14
          · extract_lets +onlyGivenNames -underBinder s15
            have h16 : Keeps a s15.2.2 := by
              unfold s15
              apply dropEntries_keeps
              exact h12
            clear_value s15
            extract_lets +onlyGivenNames -underBinder s17
            have h18 : Keeps a s17 := by
              unfold s17
              split
              · apply putEnt_keeps
                exact h16
              · assumption
            clear_value s17
            apply failRestore_keeps
            exact h18

theorem deviceAnswer_keeps {a : State} (id : Nat) (st : Status) (data : List Byte) {s : State} (hs : Keeps a s) :
    Keeps a (deviceAnswer id st data s) := by
  unfold deviceAnswer
  split
  · exact hs
  · refine keeps_ite ?_ ?_
    · refine keeps_ite ?_ ?_
      · apply failPark_keeps
        exact hs
      · refine keeps_ite ?_ ?_
        · extract_lets +onlyGivenNames -underBinder s0
          clear_value s0
          apply sendDevice_keeps
          apply setSes_keeps
          exact hs
        · apply endPark_keeps
          exact hs
    · refine keeps_ite ?_ ?_
      · apply failRestore_keeps
        exact hs
      · refine keeps_ite ?_ ?_
        · apply restoreHeader_keeps
          exact hs
        · apply restoreRest_keeps
          exact hs

theorem setDs_keeps {a : State} (p : Nat) (f : DsPort → DsPort) {s : State} (hs : Keeps a s) :
    Keeps a (setDs p f s) := by
  unfold setDs
  refine Keeps.same (s := s) ?_ rfl rfl rfl rfl rfl rfl rfl rfl rfl
  exact hs

theorem doDsDeviceCompletion_keeps {a : State} (p : Nat) (tag : Nat) (outcome : Nat) (data : List Byte) {s : State} (hs : Keeps a s) :
    Keeps a (doDsDeviceCompletion p tag outcome data s) := by
  unfold doDsDeviceCompletion
  refine keeps_ite ?_ ?_
  · apply setDs_keeps
    exact hs
  · split
    · refine keeps_ite ?_ ?_
      · apply bump_keeps
        exact hs
      · exact hs
    · split
      · refine keeps_ite ?_ ?_
        · apply deviceAnswer_keeps
          apply retireReq_keeps
          exact hs
        · exact hs
      · exact hs

theorem mirrorAnswer_keeps {a : State} (o : SesOp) (st : Status) (z2 : Nat) {s : State} (hs : Keeps a s) :
    Keeps a (mirrorAnswer o st z2 s) := by
  unfold mirrorAnswer
  split
  · exact hs
  · refine keeps_ite ?_ ?_
    · apply endOp_keeps
      apply setState_keeps
      exact hs
    · extract_lets +onlyGivenNames -underBinder s0
      clear_value s0
      extract_lets +onlyGivenNames -underBinder s1
      clear_value s1
      extract_lets +onlyGivenNames -underBinder s2
      have h3 : Keeps a s2 := by
        unfold s2
        apply setSes_keeps
        apply putEnt_keeps
        exact hs
      clear_value s2
      extract_lets +onlyGivenNames -underBinder s4
      have h5 : Keeps a s4.2 := by
        unfold s4
        apply mirrorFrames_keeps
        exact h3
      clear_value s4
      refine keeps_ite ?_ ?_
      · apply mirrorDone_keeps
        apply mirrorCommit_keeps
        exact h5
      · apply breakMirror_keeps
        exact h5

theorem orphanAnswer_keeps {a : State} (g : Nat) (k : Nat) (st : Status) (z3 : Nat) {s : State} (hs : Keeps a s) :
    Keeps a (orphanAnswer g k st z3 s) := by
  unfold orphanAnswer
  split
  · exact hs
  · extract_lets +onlyGivenNames -underBinder s0
    have h1 : Keeps a s0 := by
      unfold s0
      apply setSes_keeps
      exact hs
    clear_value s0
    refine keeps_ite ?_ ?_
    · apply tellHub_keeps
      exact h1
    · exact h1

theorem doSesMirror_keeps {a : State} (g : Nat) (k : Nat) (ans : Option (Status × Nat)) {s : State} (hs : Keeps a s) :
    Keeps a (doSesMirror g k ans s) := by
  unfold doSesMirror
  split
  · refine keeps_ite ?_ ?_
    · apply mirrorAnswer_keeps
      exact hs
    · exact hs
  · exact hs
  · apply orphanAnswer_keeps
    exact hs
  · apply onSession_keeps
    · intro x0 x1 x2
      extract_lets +onlyGivenNames -underBinder s3
      clear_value s3
      refine keeps_ite ?_ ?_
      · refine keeps_ite ?_ ?_
        · apply completeDesc_keeps
          exact hs
        · extract_lets +onlyGivenNames -underBinder s4
          clear_value s4
          apply tellHub_keeps
          apply setState_keeps
          apply setSes_keeps
          exact hs
      · refine keeps_ite ?_ ?_
        · apply completeDesc_keeps
          exact hs
        · extract_lets +onlyGivenNames -underBinder s5
          have h6 : Keeps a s5 := by
            unfold s5
            apply dropReplica_keeps
            exact hs
          clear_value s5
          apply completeDesc_keeps
          apply putEnt_keeps
          exact h6
    · exact hs

theorem migrateAnswer_keeps {a : State} (o : SesOp) (st : Status) (z2 : Nat) {s : State} (hs : Keeps a s) :
    Keeps a (migrateAnswer o st z2 s) := by
  unfold migrateAnswer
  refine keeps_ite ?_ ?_
  · apply endOp_keeps
    apply setState_keeps
    exact hs
  · extract_lets +onlyGivenNames -underBinder s0
    have h1 : Keeps a s0.2.2 := by
      unfold s0
      apply eraseSes_keeps
      exact hs
    clear_value s0
    apply completeDesc_keeps
    apply dropOp_keeps
    exact h1

theorem migrateBundle_keeps {a : State} (i : Nat) (e : SesEnt) {s : State} (hs : Keeps a s) :
    Keeps a (migrateBundle i e s).2.2 := by
  unfold migrateBundle
  extract_lets +onlyGivenNames -underBinder s0
  have h1 : Keeps a s0.2.2 := by
    unfold s0
    apply homeGet_keeps
    exact hs
  clear_value s0
  extract_lets +onlyGivenNames -underBinder s2
  have h3 : Keeps a s2.2.2 := by
    unfold s2
    apply pageList_keeps
    exact h1
  clear_value s2
  extract_lets +onlyGivenNames -underBinder s4
  clear_value s4
  extract_lets +onlyGivenNames -underBinder s5
  have h6 : Keeps a s5.2.2 := by
    unfold s5
    apply readFrames_keeps
    exact h3
  clear_value s5
  refine keeps_mk2 ?_
  exact h6

theorem doSesMigrate_keeps {a : State} (g : Nat) (k : Nat) (ans : Option (Status × Nat)) {s : State} (hs : Keeps a s) :
    Keeps a (doSesMigrate g k ans s) := by
  unfold doSesMigrate
  split
  · refine keeps_ite ?_ ?_
    · apply migrateAnswer_keeps
      exact hs
    · exact hs
  · exact hs
  · apply onSession_keeps
    · intro x0 x1 x2
      extract_lets +onlyGivenNames -underBinder s3
      clear_value s3
      extract_lets +onlyGivenNames -underBinder s4
      have h5 : Keeps a s4.2.2 := by
        unfold s4
        apply migrateBundle_keeps
        exact hs
      clear_value s4
      refine keeps_ite ?_ ?_
      · apply failDesc_keeps
        exact h5
      · apply tellFirmware_keeps
        apply setState_keeps
        apply setSes_keeps
        exact h5
    · exact hs

end Sys2Proof.Machine
end

