-- ==== Sys2Proof/Laws/KeepsAttention.lean ====
section
/-! SUPPORT. Sys2Proof/Laws/KeepsAttention.lean: every operation of Machine/Attention.lean keeps what `Keeps` says. -/

namespace Sys2Proof.Machine

open Sys2Proof

theorem setAttn_keeps {a : State} (f : List ABatch → List ABatch) {s : State} (hs : Keeps a s) :
    Keeps a (setAttn f s) := by
  unfold setAttn
  refine Keeps.same (s := s) ?_ rfl rfl rfl rfl rfl rfl rfl rfl rfl
  exact hs

theorem setABatch_keeps {a : State} (id : Nat) (f : ABatch → ABatch) {s : State} (hs : Keeps a s) :
    Keeps a (setABatch id f s) := by
  unfold setABatch
  apply setAttn_keeps
  exact hs

theorem doAttnBatch_keeps {a : State} (g : Nat) (k : Nat) {s : State} (hs : Keeps a s) :
    Keeps a (doAttnBatch g k s) := by
  unfold doAttnBatch
  split
  · exact hs
  · refine keeps_ite ?_ ?_
    · exact hs
    · extract_lets +onlyGivenNames -underBinder s0
      clear_value s0
      extract_lets +onlyGivenNames -underBinder s1
      clear_value s1
      refine keeps_ite ?_ ?_
      · apply failDesc_keeps
        apply bump_keeps
        exact hs
      · extract_lets +onlyGivenNames -underBinder s2
        have h3 : Keeps a s2 := by
          unfold s2
          apply count_keeps
          exact hs
        clear_value s2
        extract_lets +onlyGivenNames -underBinder s4
        clear_value s4
        refine Keeps.same (s := s2) ?_ rfl rfl rfl rfl rfl rfl rfl rfl rfl
        exact h3

theorem readSketches_keeps {a : State} (t : Nat) (e : SesEnt) (l : Nat) (z3 : Nat) (z4 : List Nat) {z5 : State} (hz5 : Keeps a z5) :
    Keeps a (readSketches t e l z3 z4 z5).2.2 := by
  induction z4 generalizing t e l z3 z5 with
  | nil =>
    unfold readSketches
    refine keeps_mk2 ?_
    exact hz5
  | cons x t ih =>
    unfold readSketches
    extract_lets +onlyGivenNames -underBinder s0
    have h1 : Keeps a s0.2.2 := by
      unfold s0
      apply dirEntryBy_keeps
      exact hz5
    clear_value s0
    extract_lets +onlyGivenNames -underBinder s2
    have h3 : Keeps a s2.2.2 := by
      unfold s2
      refine keeps_ite_snd2 ?_ ?_
      · refine keeps_mk2 ?_
        exact h1
      · refine keeps_ite_snd2 ?_ ?_
        · refine keeps_mk2 ?_
          exact h1
        · refine keeps_ite_snd2 ?_ ?_
          · refine keeps_mk2 ?_
            exact h1
          · apply homeGet_keeps
            exact h1
    clear_value s2
    extract_lets +onlyGivenNames -underBinder s4
    have h5 : Keeps a s4.2.2 := by
      unfold s4
      apply ih
      exact h3
    clear_value s4
    refine keeps_mk2 ?_
    exact h5

theorem readQueries_keeps {a : State} (t : Nat) (d : Desc) (e : SesEnt) (slot : Nat) (z4 : Nat) (z5 : List Nat) {z6 : State} (hz6 : Keeps a z6) :
    Keeps a (readQueries t d e slot z4 z5 z6).2.2 := by
  induction z5 generalizing t d e slot z4 z6 with
  | nil =>
    unfold readQueries
    refine keeps_mk2 ?_
    exact hz6
  | cons x t ih =>
    unfold readQueries
    extract_lets +onlyGivenNames -underBinder s0
    have h1 : Keeps a s0.2.2 := by
      unfold s0
      apply homeGet_keeps
      exact hz6
    clear_value s0
    extract_lets +onlyGivenNames -underBinder s2
    have h3 : Keeps a s2.2.2 := by
      unfold s2
      apply ih
      exact h1
    clear_value s2
    refine keeps_mk2 ?_
    exact h3

theorem selectHeads_keeps {a : State} (t : Nat) (d : Desc) (k : Nat) (e : SesEnt) (x : AStr) (z5 : List Nat) {z6 : State} (hz6 : Keeps a z6) :
    Keeps a (selectHeads t d k e x z5 z6).2.2 := by
  induction z5 generalizing t d k e x z6 with
  | nil =>
    unfold selectHeads
    refine keeps_mk2 ?_
    exact hz6
  | cons x t ih =>
    unfold selectHeads
    extract_lets +onlyGivenNames -underBinder s0
    have h1 : Keeps a s0.2.2 := by
      unfold s0
      apply readQueries_keeps
      exact hz6
    clear_value s0
    extract_lets +onlyGivenNames -underBinder s2
    have h3 : Keeps a s2.2.2 := by
      unfold s2
      apply readSketches_keeps
      exact h1
    clear_value s2
    extract_lets +onlyGivenNames -underBinder s4
    clear_value s4
    extract_lets +onlyGivenNames -underBinder s5
    have h6 : Keeps a s5.2.2 := by
      unfold s5
      apply ih
      exact h3
    clear_value s5
    refine keeps_mk2 ?_
    exact h6

theorem planStream_keeps {a : State} (t : Nat) (d : Desc) (x : AStr) {s : State} (hs : Keeps a s) :
    Keeps a (planStream t d x s).2 := by
  unfold planStream
  split
  · refine keeps_mk ?_
    exact hs
  · extract_lets +onlyGivenNames -underBinder s0
    clear_value s0
    extract_lets +onlyGivenNames -underBinder s1
    have h2 : Keeps a s1.2.2 := by
      unfold s1
      split
      · apply selectHeads_keeps
        exact hs
      · refine keeps_mk2 ?_
        exact hs
    clear_value s1
    extract_lets +onlyGivenNames -underBinder s3
    clear_value s3
    refine keeps_mk ?_
    exact h2

theorem planAll_keeps {a : State} (t : Nat) (d : Desc) (z2 : List AStr) {z3 : State} (hz3 : Keeps a z3) :
    Keeps a (planAll t d z2 z3).2 := by
  induction z2 generalizing t d z3 with
  | nil =>
    unfold planAll
    refine keeps_mk ?_
    exact hz3
  | cons x t ih =>
    unfold planAll
    extract_lets +onlyGivenNames -underBinder s0
    have h1 : Keeps a s0.2 := by
      unfold s0
      refine keeps_ite_snd ?_ ?_
      · apply planStream_keeps
        exact hz3
      · refine keeps_mk ?_
        exact hz3
    clear_value s0
    extract_lets +onlyGivenNames -underBinder s2
    have h3 : Keeps a s2.2 := by
      unfold s2
      apply ih
      exact h1
    clear_value s2
    refine keeps_mk ?_
    exact h3

theorem settleArrive_keeps {a : State} (id : Nat) (d : Desc) {s : State} (hs : Keeps a s) :
    Keeps a (settleArrive id d s) := by
  unfold settleArrive
  split
  · exact hs
  · extract_lets +onlyGivenNames -underBinder s0
    clear_value s0
    refine keeps_ite ?_ ?_
    · exact hs
    · apply arrivalAdd_keeps
      apply setABatch_keeps
      exact hs

theorem setStr_keeps {a : State} (id : Nat) (i : Nat) (f : AStr → AStr) {s : State} (hs : Keeps a s) :
    Keeps a (setStr id i f s) := by
  unfold setStr
  apply setABatch_keeps
  exact hs

theorem settleStream_keeps {a : State} (id : Nat) (i : Nat) (d : Desc) {s : State} (hs : Keeps a s) :
    Keeps a (settleStream id i d s) := by
  unfold settleStream
  split
  · exact hs
  · split
    · exact hs
    · refine keeps_ite ?_ ?_
      · exact hs
      · extract_lets +onlyGivenNames -underBinder s0
        clear_value s0
        refine keeps_ite ?_ ?_
        · apply setStr_keeps
          exact hs
        · split
          · apply setStr_keeps
            exact hs
          · extract_lets +onlyGivenNames -underBinder s1
            clear_value s1
            extract_lets +onlyGivenNames -underBinder s2
            clear_value s2
            extract_lets +onlyGivenNames -underBinder s3
            have h4 : Keeps a s3 := by
              unfold s3
              apply setStr_keeps
              exact hs
            clear_value s3
            refine keeps_ite ?_ ?_
            · exact h4
            · refine keeps_ite ?_ ?_
              · apply claim_keeps
                exact h4
              · extract_lets +onlyGivenNames -underBinder s5
                clear_value s5
                extract_lets +onlyGivenNames -underBinder s6
                have h7 : Keeps a s6.2 := by
                  unfold s6
                  refine keeps_ite_snd ?_ ?_
                  · refine keeps_mk ?_
                    exact h4
                  · apply appendRun_keeps
                    exact h4
                clear_value s6
                apply setStr_keeps
                exact h7

theorem settleEnd_keeps {a : State} (id : Nat) (d : Desc) {s : State} (hs : Keeps a s) :
    Keeps a (settleEnd id d s) := by
  unfold settleEnd
  split
  · exact hs
  · extract_lets +onlyGivenNames -underBinder s0
    clear_value s0
    extract_lets +onlyGivenNames -underBinder s1
    clear_value s1
    refine keeps_ite ?_ ?_
    · exact hs
    · refine keeps_ite ?_ ?_
      · apply claim_keeps
        exact hs
      · extract_lets +onlyGivenNames -underBinder s2
        have h3 : Keeps a s2.2 := by
          unfold s2
          apply homePut_keeps
          exact hs
        clear_value s2
        extract_lets +onlyGivenNames -underBinder s4
        clear_value s4
        extract_lets +onlyGivenNames -underBinder s5
        clear_value s5
        extract_lets +onlyGivenNames -underBinder s6
        clear_value s6
        extract_lets +onlyGivenNames -underBinder s7
        have h8 : Keeps a s7 := by
          unfold s7
          apply spoil_keeps
          exact h3
        clear_value s7
        extract_lets +onlyGivenNames -underBinder s9
        have h10 : Keeps a s9 := by
          unfold s9
          apply bump_keeps
          apply bump_keeps
          exact h8
        clear_value s9
        extract_lets +onlyGivenNames -underBinder s11
        have h12 : Keeps a s11 := by
          unfold s11
          refine keeps_ite ?_ ?_
          · apply arrivalAdd_keeps
            exact h10
          · exact h10
        clear_value s11
        apply completeDesc_keeps
        apply setAttn_keeps
        exact h12

theorem settleBatch_keeps {a : State} (id : Nat) {s : State} (hs : Keeps a s) :
    Keeps a (settleBatch id s) := by
  unfold settleBatch
  split
  · exact hs
  · split
    · exact hs
    · refine keeps_ite ?_ ?_
      · exact hs
      · extract_lets +onlyGivenNames -underBinder s0
        have h1 : Keeps a s0 := by
          unfold s0
          apply settleArrive_keeps
          exact hs
        clear_value s0
        extract_lets +onlyGivenNames -underBinder s2
        have h3 : Keeps a s2 := by
          unfold s2
          apply forEach_keeps
          · intro x4 x5 x6
            apply settleStream_keeps
            exact x6
          · exact h1
        clear_value s2
        apply settleEnd_keeps
        exact h3

theorem settleBatches_keeps {a : State} {s : State} (hs : Keeps a s) :
    Keeps a (settleBatches s) := by
  unfold settleBatches
  apply forEach_keeps
  · intro x0 x1 x2
    apply settleBatch_keeps
    exact x2
  · exact hs

theorem queueItems_keeps {a : State} (b : ABatch) {s : State} (hs : Keeps a s) :
    Keeps a (queueItems b s) := by
  unfold queueItems
  apply forEach_keeps
  · intro x0 x1 x2
    apply queueWork_keeps
    exact x2
  · exact hs

theorem doAttnBatchStart_keeps {a : State} {s : State} (hs : Keeps a s) :
    Keeps a (doAttnBatchStart s) := by
  unfold doAttnBatchStart
  split
  · exact hs
  · split
    · exact hs
    · extract_lets +onlyGivenNames -underBinder s0
      clear_value s0
      split
      · apply claim_keeps
        exact hs
      · extract_lets +onlyGivenNames -underBinder s1
        have h2 : Keeps a s1.2 := by
          unfold s1
          apply planAll_keeps
          exact hs
        clear_value s1
        extract_lets +onlyGivenNames -underBinder s3
        clear_value s3
        apply settleBatch_keeps
        apply queueItems_keeps
        apply spoil_keeps
        apply setABatch_keeps
        exact h2

theorem setItem_keeps {a : State} (id : Nat) (k : Nat) (f : AItem → AItem) {s : State} (hs : Keeps a s) :
    Keeps a (setItem id k f s) := by
  unfold setItem
  apply setABatch_keeps
  exact hs

theorem endItem_keeps {a : State} (id : Nat) (k : Nat) (st : Status) (flags : Nat) {s : State} (hs : Keeps a s) :
    Keeps a (endItem id k st flags s) := by
  unfold endItem
  apply settleBatch_keeps
  apply setABatch_keeps
  apply setItem_keeps
  exact hs

theorem startCustom_keeps {a : State} (t : Nat) (w : GWork) (b : ABatch) (d : Desc) {s : State} (hs : Keeps a s) :
    Keeps a (startCustom t w b d s) := by
  unfold startCustom
  extract_lets +onlyGivenNames -underBinder s0
  clear_value s0
  extract_lets +onlyGivenNames -underBinder s1
  have h2 : ∀ y0, Keeps a y0 → Keeps a (s1 y0) := by
    unfold s1
    intro x3 x4
    apply setGrv_keeps
    exact x4
  clear_value s1
  split
  · apply h2
    exact hs
  · split
    · refine keeps_ite ?_ ?_
      · apply claim_keeps
        exact hs
      · extract_lets +onlyGivenNames -underBinder s5
        have h6 : Keeps a s5.2.2 := by
          unfold s5
          apply homeGet_keeps
          exact hs
        clear_value s5
        extract_lets +onlyGivenNames -underBinder s7
        have h8 : Keeps a s7 := by
          unfold s7
          apply h2
          exact h6
        clear_value s7
        extract_lets +onlyGivenNames -underBinder s9
        clear_value s9
        extract_lets +onlyGivenNames -underBinder s10
        clear_value s10
        extract_lets +onlyGivenNames -underBinder s11
        clear_value s11
        extract_lets +onlyGivenNames -underBinder s12
        clear_value s12
        refine keeps_ite ?_ ?_
        · apply endItem_keeps
          exact h8
        · apply beginRun_keeps
          exact h8
    · apply endItem_keeps
      apply h2
      exact hs

theorem startItem_keeps {a : State} (t : Nat) (w : GWork) {s : State} (hs : Keeps a s) :
    Keeps a (startItem t w s) := by
  unfold startItem
  split
  · apply setGrv_keeps
    exact hs
  · split
    · apply setGrv_keeps
      exact hs
    · refine keeps_ite ?_ ?_
      · apply startCustom_keeps
        exact hs
      · refine keeps_ite ?_ ?_
        · apply endItem_keeps
          apply setGrv_keeps
          exact hs
        · extract_lets +onlyGivenNames -underBinder s0
          have h1 : Keeps a s0 := by
            unfold s0
            apply setGrv_keeps
            apply ownerChange_keeps
            exact hs
          clear_value s0
          apply wr_keeps
          apply wr_keeps
          exact h1

theorem doLaunchStart_keeps {a : State} (t : Nat) {s : State} (hs : Keeps a s) :
    Keeps a (doLaunchStart t s) := by
  unfold doLaunchStart
  refine keeps_ite ?_ ?_
  · exact hs
  · split
    · exact hs
    · split
      · apply runLoad_keeps
        exact hs
      · apply startRun_keeps
        exact hs
      · apply startItem_keeps
        exact hs

theorem readPicks_keeps {a : State} (t : Nat) (v : Nat) (d : Desc) (e : SesEnt) (z4 : Nat) (z5 : List (Nat × Nat × Nat × Nat)) {z6 : State} (hz6 : Keeps a z6) :
    Keeps a (readPicks t v d e z4 z5 z6).2.2 := by
  induction z5 generalizing t v d e z4 z6 with
  | nil =>
    unfold readPicks
    refine keeps_mk2 ?_
    exact hz6
  | cons x t ih =>
    unfold readPicks
    extract_lets +onlyGivenNames -underBinder s0
    have h1 : Keeps a s0.2.2 := by
      unfold s0
      apply readRows_keeps
      exact hz6
    clear_value s0
    extract_lets +onlyGivenNames -underBinder s2
    clear_value s2
    extract_lets +onlyGivenNames -underBinder s3
    have h4 : Keeps a s3.2.2 := by
      unfold s3
      apply ih
      exact h1
    clear_value s3
    refine keeps_mk2 ?_
    exact h4

theorem itemReads_keeps {a : State} (t : Nat) (d : Desc) (e : SesEnt) (x : AStr) (it : AItem) {s : State} (hs : Keeps a s) :
    Keeps a (itemReads t d e x it s).2 := by
  unfold itemReads
  extract_lets +onlyGivenNames -underBinder s0
  clear_value s0
  extract_lets +onlyGivenNames -underBinder s1
  clear_value s1
  extract_lets +onlyGivenNames -underBinder s2
  have h3 : Keeps a s2.2.2 := by
    unfold s2
    apply readQueries_keeps
    exact hs
  clear_value s2
  extract_lets +onlyGivenNames -underBinder s4
  clear_value s4
  extract_lets +onlyGivenNames -underBinder s5
  have h6 : Keeps a s5.2.2 := by
    unfold s5
    refine keeps_ite_snd2 ?_ ?_
    · apply homeGet_keeps
      exact h3
    · refine keeps_mk2 ?_
      exact h3
  clear_value s5
  extract_lets +onlyGivenNames -underBinder s7
  clear_value s7
  extract_lets +onlyGivenNames -underBinder s8
  have h9 : Keeps a s8.2.2 := by
    unfold s8
    apply readPicks_keeps
    exact h6
  clear_value s8
  extract_lets +onlyGivenNames -underBinder s10
  have h11 : Keeps a s10.2.2 := by
    unfold s10
    apply readPicks_keeps
    exact h9
  clear_value s10
  extract_lets +onlyGivenNames -underBinder s12
  clear_value s12
  refine keeps_mk ?_
  exact h11

theorem readSegments_keeps {a : State} (t : Nat) (n : Nat) (z2 : List (Nat × Nat)) {z3 : State} (hz3 : Keeps a z3) :
    Keeps a (readSegments t n z2 z3).2 := by
  induction z2 generalizing t n z3 with
  | nil =>
    unfold readSegments
    refine keeps_mk ?_
    exact hz3
  | cons x t ih =>
    unfold readSegments
    extract_lets +onlyGivenNames -underBinder s0
    have h1 : Keeps a s0.2.2 := by
      unfold s0
      apply homeGet_keeps
      exact hz3
    clear_value s0
    extract_lets +onlyGivenNames -underBinder s2
    have h3 : Keeps a s2.2 := by
      unfold s2
      apply ih
      exact h1
    clear_value s2
    refine keeps_mk ?_
    exact h3

theorem mergePass_keeps {a : State} (t : Nat) (d : Desc) (e : SesEnt) (x : AStr) (b : ABatch) (it : AItem) {s : State} (hs : Keeps a s) :
    Keeps a (mergePass t d e x b it s).2 := by
  unfold mergePass
  extract_lets +onlyGivenNames -underBinder s0
  have h1 : Keeps a s0.2 := by
    unfold s0
    apply readSegments_keeps
    exact hs
  clear_value s0
  refine keeps_ite_snd ?_ ?_
  · exact h1
  · apply seqSteps_keeps
    · apply steps_map
      intro x2 x3 x4
      apply homePut_keeps
      exact x4
    · exact h1

theorem keepSegment_keeps {a : State} (t : Nat) (d : Desc) (e : SesEnt) (id : Nat) (k : Nat) (it : AItem) (res : List Soft) {s : State} (hs : Keeps a s) :
    Keeps a (keepSegment t d e id k it res s).2 := by
  unfold keepSegment
  refine keeps_ite_snd ?_ ?_
  · refine keeps_mk ?_
    exact hs
  · extract_lets +onlyGivenNames -underBinder s0
    clear_value s0
    extract_lets +onlyGivenNames -underBinder s1
    have h2 : Keeps a s1.2 := by
      unfold s1
      apply homePut_keeps
      exact hs
    clear_value s1
    refine keeps_mk ?_
    apply spoil_keeps
    exact h2

theorem kernelMark_keeps {a : State} (draw : Nat) (t : Nat) {s : State} (hs : Keeps a s) :
    Keeps a (kernelMark draw t s) := by
  unfold kernelMark
  extract_lets +onlyGivenNames -underBinder s0
  clear_value s0
  apply setGrv_keeps
  exact hs

theorem doneKernel_keeps {a : State} (t : Nat) (r : GRun) (id : Nat) (draw : Nat) (st : Status) {s : State} (hs : Keeps a s) :
    Keeps a (doneKernel t r id draw st s) := by
  unfold doneKernel
  extract_lets +onlyGivenNames -underBinder s0
  clear_value s0
  apply endItem_keeps
  apply kernelMark_keeps
  apply retireRun_keeps
  exact hs

theorem finishKernel_keeps {a : State} (t : Nat) (r : GRun) (b : ABatch) (d : Desc) (it : AItem) {s : State} (hs : Keeps a s) :
    Keeps a (finishKernel t r b d it s) := by
  unfold finishKernel
  extract_lets +onlyGivenNames -underBinder s0
  have h1 : ∀ y0 y1, Keeps a y1 → Keeps a (s0 y0 y1) := by
    unfold s0
    intro x2 x3 x4
    apply doneKernel_keeps
    apply drew_keeps
    exact x4
  clear_value s0
  refine keeps_ite ?_ ?_
  · apply h1
    exact hs
  · split
    · extract_lets +onlyGivenNames -underBinder s5
      clear_value s5
      extract_lets +onlyGivenNames -underBinder s6
      clear_value s6
      split
      · apply claim_keeps
        exact hs
      · extract_lets +onlyGivenNames -underBinder s7
        have h8 : Keeps a s7.2 := by
          unfold s7
          apply itemReads_keeps
          exact hs
        clear_value s7
        refine keeps_ite ?_ ?_
        · apply h1
          exact h8
        · extract_lets +onlyGivenNames -underBinder s9
          clear_value s9
          extract_lets +onlyGivenNames -underBinder s10
          clear_value s10
          extract_lets +onlyGivenNames -underBinder s11
          have h12 : Keeps a s11.2 := by
            unfold s11
            apply keepSegment_keeps
            apply setItem_keeps
            exact h8
          clear_value s11
          extract_lets +onlyGivenNames -underBinder s13
          clear_value s13
          extract_lets +onlyGivenNames -underBinder s14
          have h15 : Keeps a s14.2 := by
            unfold s14
            refine keeps_ite_snd ?_ ?_
            · apply mergePass_keeps
              exact h12
            · exact h12
          clear_value s14
          apply doneKernel_keeps
          exact h15
    · apply h1
      exact hs

theorem doAttnItemComplete_keeps {a : State} (t : Nat) {s : State} (hs : Keeps a s) :
    Keeps a (doAttnItemComplete t s) := by
  unfold doAttnItemComplete
  split
  · exact hs
  · refine keeps_ite ?_ ?_
    · exact hs
    · split
      · apply retireRun_keeps
        exact hs
      · split
        · refine keeps_ite ?_ ?_
          · apply finishKernel_keeps
            exact hs
          · refine keeps_ite ?_ ?_
            · apply endItem_keeps
              apply retireRun_keeps
              exact hs
            · exact hs
        · apply retireRun_keeps
          exact hs

theorem rerunItem_keeps {a : State} (id : Nat) (k : Nat) {s : State} (hs : Keeps a s) :
    Keeps a (rerunItem id k s) := by
  unfold rerunItem
  split
  · exact hs
  · split
    · exact hs
    · refine keeps_ite ?_ ?_
      · exact hs
      · split
        · apply endItem_keeps
          exact hs
        · refine keeps_ite ?_ ?_
          · apply endItem_keeps
            exact hs
          · extract_lets +onlyGivenNames -underBinder s0
            clear_value s0
            extract_lets +onlyGivenNames -underBinder s1
            clear_value s1
            apply queueWork_keeps
            apply setItem_keeps
            exact hs

theorem abortItemRun_keeps {a : State} (t : Nat) (r : GRun) {s : State} (hs : Keeps a s) :
    Keeps a (abortItemRun t r s) := by
  unfold abortItemRun
  extract_lets +onlyGivenNames -underBinder s0
  clear_value s0
  apply setABatch_keeps
  apply drew_keeps
  apply retireRun_keeps
  exact hs

theorem tileLost_keeps {a : State} (t : Nat) {s : State} (hs : Keeps a s) :
    Keeps a (tileLost t s) := by
  unfold tileLost
  extract_lets +onlyGivenNames -underBinder s0
  clear_value s0
  extract_lets +onlyGivenNames -underBinder s1
  have h2 : Keeps a s1 := by
    unfold s1
    apply setGrv_keeps
    exact hs
  clear_value s1
  extract_lets +onlyGivenNames -underBinder s3
  have h4 : Keeps a s3 := by
    unfold s3
    split
    · refine keeps_ite ?_ ?_
      · apply abortItemRun_keeps
        exact h2
      · exact h2
    · assumption
  clear_value s3
  apply forEach_keeps
  · intro x5 x6 x7
    apply rerunItem_keeps
    exact x7
  · exact h4

theorem clearItems_keeps {a : State} (p : ABatch → Bool) (f : Nat → GRun → State → State) {s : State} (hf : ∀ y0 y1 y2, Keeps a y2 → Keeps a (f y0 y1 y2)) (hs : Keeps a s) :
    Keeps a (clearItems p f s) := by
  unfold clearItems
  extract_lets +onlyGivenNames -underBinder s0
  clear_value s0
  apply forEach_keeps
  · intro x1 x2 x3
    extract_lets +onlyGivenNames -underBinder s4
    have h5 : Keeps a s4 := by
      unfold s4
      apply setGrv_keeps
      exact x3
    clear_value s4
    split
    · refine keeps_ite ?_ ?_
      · apply hf
        exact h5
      · exact h5
    · exact h5
  · exact hs

theorem abortBatches_keeps {a : State} (p : ABatch → Bool) {s : State} (hs : Keeps a s) :
    Keeps a (abortBatches p s) := by
  unfold abortBatches
  extract_lets +onlyGivenNames -underBinder s0
  clear_value s0
  apply forEach_keeps
  · intro x1 x2 x3
    extract_lets +onlyGivenNames -underBinder s4
    clear_value s4
    extract_lets +onlyGivenNames -underBinder s5
    clear_value s5
    apply settleBatch_keeps
    apply setABatch_keeps
    exact x3
  · apply clearItems_keeps
    · intro x6 x7 x8 x9
      apply abortItemRun_keeps
      exact x9
    · exact hs

theorem dropBatches_keeps {a : State} (n : Nat) {s : State} (hs : Keeps a s) :
    Keeps a (dropBatches n s) := by
  unfold dropBatches
  apply setAttn_keeps
  apply clearItems_keeps
  · intro x0 x1 x2 x3
    apply clearRun_keeps
    exact x3
  · exact hs

end Sys2Proof.Machine
end

