-- ==== Sys2Proof/Laws/KeepsRuling.lean ====
section
/-! SUPPORT. Sys2Proof/Laws/KeepsRuling.lean: every operation of Machine/Ruling.lean keeps what `Keeps` says. -/

namespace Sys2Proof.Machine

open Sys2Proof

theorem setRuling_keeps {a : State} {f : Ruling → Ruling} {s : State}
    (hf : ∀ r, r.pos ≤ (f r).pos ∧ (r.everSet = true → (f r).everSet = true)) (h : Keeps a s) : Keeps a (setRuling f s) :=
  h.trans { Keeps.refl s with pos := (hf s.ruling).1, ever := (hf s.ruling).2 }

theorem raisePos_keeps {a : State} (p : Nat) {s : State} (hs : Keeps a s) :
    Keeps a (raisePos p s) := by
  unfold raisePos
  apply setRuling_keeps
  · intro x0
    exact ⟨Nat.le_max_left _ _, fun _ => rfl⟩
  · exact hs

theorem setLock_keeps {a : State} (st : Nat) {s : State} (hs : Keeps a s) :
    Keeps a (setLock st s) := by
  unfold setLock
  refine keeps_ite ?_ ?_
  · exact hs
  · extract_lets +onlyGivenNames -underBinder s0
    have h1 : Keeps a s0 := by
      unfold s0
      apply wr_keeps
      exact hs
    clear_value s0
    refine keeps_ite ?_ ?_
    · apply sendBeacons_keeps
      exact h1
    · exact h1

theorem stepTo_keeps {a : State} (p : Nat) {s : State} (hs : Keeps a s) :
    Keeps a (stepTo p s) := by
  unfold stepTo
  refine keeps_ite ?_ ?_
  · exact hs
  · extract_lets +onlyGivenNames -underBinder s0
    clear_value s0
    apply markDue_keeps
    apply setRuling_keeps
    · intro x1
      exact ⟨Nat.le_refl _, id⟩
    · apply sendBeacons_keeps
      apply setB_keeps
      apply stepEntries_keeps
      apply raisePos_keeps
      exact hs

theorem enterUnlocked_keeps {a : State} (quiet : Bool) {s : State} (hs : Keeps a s) :
    Keeps a (enterUnlocked quiet s) := by
  unfold enterUnlocked
  extract_lets +onlyGivenNames -underBinder s0
  have h1 : Keeps a s0 := by
    unfold s0
    apply setRuling_keeps
    · intro x2
      exact ⟨Nat.le_refl _, id⟩
    · apply setB_keeps
      apply setLock_keeps
      exact hs
  clear_value s0
  refine keeps_ite ?_ ?_
  · exact h1
  · apply hubEvent_keeps
    exact h1

theorem correctPos_keeps {a : State} {s : State} (hs : Keeps a s) :
    Keeps a (correctPos s) := by
  unfold correctPos
  extract_lets +onlyGivenNames -underBinder s0
  clear_value s0
  extract_lets +onlyGivenNames -underBinder s1
  clear_value s1
  refine keeps_ite ?_ ?_
  · apply stepTo_keeps
    apply setRuling_keeps
    · intro x2
      exact ⟨Nat.le_refl _, id⟩
    · exact hs
  · refine keeps_ite ?_ ?_
    · apply setRuling_keeps
      · intro x3
        exact ⟨Nat.le_refl _, id⟩
      · exact hs
    · exact hs

theorem enterLocked_keeps {a : State} {s : State} (hs : Keeps a s) :
    Keeps a (enterLocked s) := by
  unfold enterLocked
  refine keeps_ite ?_ ?_
  · exact hs
  · extract_lets +onlyGivenNames -underBinder s0
    clear_value s0
    extract_lets +onlyGivenNames -underBinder s1
    have h2 : Keeps a s1 := by
      unfold s1
      apply setRuling_keeps
      · intro x3
        exact ⟨Nat.le_refl _, id⟩
      · apply setLock_keeps
        exact hs
    clear_value s1
    extract_lets +onlyGivenNames -underBinder s4
    have h5 : Keeps a s4 := by
      unfold s4
      refine keeps_ite ?_ ?_
      · apply hubEvent_keeps
        apply setB_keeps
        exact h2
      · exact h2
    clear_value s4
    apply correctPos_keeps
    exact h5

theorem keepPos_keeps {a : State} {s : State} (hs : Keeps a s) :
    Keeps a (keepPos s) := by
  unfold keepPos
  apply setRuling_keeps
  · intro x0
    exact ⟨Nat.le_refl _, id⟩
  · exact hs

theorem moveRef_keeps {a : State} (t : Nat) {s : State} (hs : Keeps a s) :
    Keeps a (moveRef t s) := by
  unfold moveRef
  apply keepPos_keeps
  apply setRuling_keeps
  · intro x0
    exact ⟨Nat.le_refl _, id⟩
  · exact hs

theorem adoptSeg_keeps {a : State} (g : Seg) {s : State} (hs : Keeps a s) :
    Keeps a (adoptSeg g s) := by
  unfold adoptSeg
  extract_lets +onlyGivenNames -underBinder s0
  have h1 : Keeps a s0 := by
    unfold s0
    apply keepPos_keeps
    apply setRuling_keeps
    · intro x2
      exact ⟨Nat.le_refl _, id⟩
    · exact hs
  clear_value s0
  apply sendBeacons_keeps
  exact h1

theorem firstReference_keeps {a : State} (g : Seg) (p : Option Seg) (ref16 : Nat) {s : State} (hs : Keeps a s) :
    Keeps a (firstReference g p ref16 s) := by
  unfold firstReference
  extract_lets +onlyGivenNames -underBinder s0
  have h1 : Keeps a s0 := by
    unfold s0
    apply setRuling_keeps
    · intro x2
      exact ⟨Nat.le_refl _, id⟩
    · exact hs
  clear_value s0
  apply setLock_keeps
  apply setRuling_keeps
  · intro x3
    exact ⟨Nat.le_refl _, id⟩
  · apply raisePos_keeps
    exact h1

theorem refuseSeg_keeps {a : State} (x : Seg) {s : State} (hs : Keeps a s) :
    Keeps a (refuseSeg x s) := by
  unfold refuseSeg
  apply logRec_keeps
  apply setRuling_keeps
  · intro x0
    exact ⟨Nat.le_refl _, id⟩
  · apply setB_keeps
    exact hs

theorem missSeg_keeps {a : State} (x : Seg) {s : State} (hs : Keeps a s) :
    Keeps a (missSeg x s) := by
  unfold missSeg
  refine keeps_ite ?_ ?_
  · apply refuseSeg_keeps
    exact hs
  · extract_lets +onlyGivenNames -underBinder s0
    have h1 : Keeps a s0 := by
      unfold s0
      refine keeps_ite ?_ ?_
      · exact hs
      · apply enterUnlocked_keeps
        exact hs
    clear_value s0
    extract_lets +onlyGivenNames -underBinder s2
    have h3 : Keeps a s2 := by
      unfold s2
      apply adoptSeg_keeps
      exact h1
    clear_value s2
    refine keeps_ite ?_ ?_
    · apply setRuling_keeps
      · intro x4
        exact ⟨Nat.le_refl _, id⟩
      · exact h3
    · exact h3

theorem takeSeg_keeps {a : State} (x : Seg) {s : State} (hs : Keeps a s) :
    Keeps a (takeSeg x s) := by
  unfold takeSeg
  refine keeps_ite ?_ ?_
  · exact hs
  · refine keeps_ite ?_ ?_
    · apply missSeg_keeps
      exact hs
    · apply setRuling_keeps
      · intro x0
        exact ⟨Nat.le_refl _, id⟩
      · exact hs

theorem takeSegs_keeps {a : State} (g : Seg) (p : Option Seg) {s : State} (hs : Keeps a s) :
    Keeps a (takeSegs g p s) := by
  unfold takeSegs
  extract_lets +onlyGivenNames -underBinder s0
  have h1 : Keeps a s0 := by
    unfold s0
    apply setRuling_keeps
    · intro x2
      exact ⟨Nat.le_refl _, id⟩
    · exact hs
  clear_value s0
  extract_lets +onlyGivenNames -underBinder s3
  have h4 : Keeps a s3 := by
    unfold s3
    refine keeps_ite ?_ ?_
    · refine keeps_ite ?_ ?_
      · exact h1
      · apply adoptSeg_keeps
        exact h1
    · apply takeSeg_keeps
      exact hs
  clear_value s3
  split
  · exact h4
  · apply takeSeg_keeps
    exact h4

theorem setEx_keeps {a : State} (p : Nat) (f : ExPort → ExPort) {s : State} (hs : Keeps a s) :
    Keeps a (setEx p f s) := by
  unfold setEx
  apply setRuling_keeps
  · intro x0
    exact ⟨Nat.le_refl _, id⟩
  · exact hs

theorem twinPort_keeps {a : State} (p : Nat) {s : State} (hs : Keeps a s) :
    Keeps a (twinPort p s) := by
  unfold twinPort
  extract_lets +onlyGivenNames -underBinder s0
  clear_value s0
  refine keeps_ite ?_ ?_
  · apply wr_keeps
    exact hs
  · exact hs

theorem switchParent_keeps {a : State} (p : Nat) {s : State} (hs : Keeps a s) :
    Keeps a (switchParent p s) := by
  unfold switchParent
  apply setRuling_keeps
  · intro x0
    exact ⟨Nat.le_refl _, id⟩
  · apply wr_keeps
    apply setB_keeps
    apply wr_keeps
    exact hs

theorem doExchangeSymbolTx_keeps {a : State} (p : Nat) {s : State} (hs : Keeps a s) :
    Keeps a (doExchangeSymbolTx p s) := by
  unfold doExchangeSymbolTx
  extract_lets +onlyGivenNames -underBinder s0
  clear_value s0
  extract_lets +onlyGivenNames -underBinder s1
  clear_value s1
  refine keeps_ite ?_ ?_
  · exact hs
  · extract_lets +onlyGivenNames -underBinder s2
    clear_value s2
    extract_lets +onlyGivenNames -underBinder s3
    clear_value s3
    extract_lets +onlyGivenNames -underBinder s4
    clear_value s4
    extract_lets +onlyGivenNames -underBinder s5
    clear_value s5
    apply sendCells_keeps
    apply setEx_keeps
    exact hs

theorem takeDelay_keeps {a : State} (p : Nat) (d : Nat) {s : State} (hs : Keeps a s) :
    Keeps a (takeDelay p d s) := by
  unfold takeDelay
  extract_lets +onlyGivenNames -underBinder s0
  have h1 : Keeps a s0 := by
    unfold s0
    apply wr_keeps
    apply setEx_keeps
    exact hs
  clear_value s0
  refine keeps_ite ?_ ?_
  · apply wr_keeps
    exact h1
  · exact h1

theorem exchangeDone_keeps {a : State} (p : Nat) (t1 : Nat) (t2 : Nat) (t3 : Nat) (t4 : Nat) {s : State} (hs : Keeps a s) :
    Keeps a (exchangeDone p t1 t2 t3 t4 s) := by
  unfold exchangeDone
  extract_lets +onlyGivenNames -underBinder s0
  clear_value s0
  extract_lets +onlyGivenNames -underBinder s1
  clear_value s1
  extract_lets +onlyGivenNames -underBinder s2
  have h3 : Keeps a s2 := by
    unfold s2
    apply setEx_keeps
    exact hs
  clear_value s2
  refine keeps_ite ?_ ?_
  · exact h3
  · extract_lets +onlyGivenNames -underBinder s4
    clear_value s4
    extract_lets +onlyGivenNames -underBinder s5
    clear_value s5
    extract_lets +onlyGivenNames -underBinder s6
    have h7 : Keeps a s6 := by
      unfold s6
      apply setRuling_keeps
      · intro x8
        exact ⟨Nat.le_refl _, id⟩
      · apply wr_keeps
        apply wr_keeps
        exact h3
    clear_value s6
    extract_lets +onlyGivenNames -underBinder s9
    have h10 : Keeps a s9 := by
      unfold s9
      refine keeps_ite ?_ ?_
      · apply moveRef_keeps
        exact h7
      · exact h7
    clear_value s9
    refine keeps_ite ?_ ?_
    · apply enterLocked_keeps
      exact h10
    · refine keeps_ite ?_ ?_
      · apply enterUnlocked_keeps
        exact h10
      · exact h10

theorem doExchangeSymbolRx_keeps {a : State} (p : Nat) (c : RuleCell) {s : State} (hs : Keeps a s) :
    Keeps a (doExchangeSymbolRx p c s) := by
  unfold doExchangeSymbolRx
  extract_lets +onlyGivenNames -underBinder s0
  clear_value s0
  extract_lets +onlyGivenNames -underBinder s1
  clear_value s1
  extract_lets +onlyGivenNames -underBinder s2
  clear_value s2
  extract_lets +onlyGivenNames -underBinder s3
  have h4 : Keeps a s3 := by
    unfold s3
    apply setEx_keeps
    apply twinPort_keeps
    exact hs
  clear_value s3
  extract_lets +onlyGivenNames -underBinder s5
  have h6 : Keeps a s5 := by
    unfold s5
    apply wr_keeps
    exact h4
  clear_value s5
  extract_lets +onlyGivenNames -underBinder s7
  have h8 : Keeps a s7 := by
    unfold s7
    refine keeps_ite ?_ ?_
    · exact h4
    · split
      · refine keeps_ite ?_ ?_
        · exact h6
        · apply firstReference_keeps
          exact h6
      · apply setLock_keeps
        apply takeSegs_keeps
        exact h6
      · apply takeSegs_keeps
        exact h6
  clear_value s7
  extract_lets +onlyGivenNames -underBinder s9
  have h10 : Keeps a s9 := by
    unfold s9
    split
    · apply exchangeDone_keeps
      exact h8
    · exact h8
  clear_value s9
  refine keeps_ite ?_ ?_
  · apply switchParent_keeps
    exact h10
  · exact h10

theorem doDelayRemeasure_keeps {a : State} (p : Nat) {s : State} (hs : Keeps a s) :
    Keeps a (doDelayRemeasure p s) := by
  unfold doDelayRemeasure
  extract_lets +onlyGivenNames -underBinder s0
  clear_value s0
  refine keeps_ite ?_ ?_
  · exact hs
  · apply takeDelay_keeps
    exact hs

theorem doRuleSegment_keeps {a : State} (g : Nat) (k : Nat) {s : State} (hs : Keeps a s) :
    Keeps a (doRuleSegment g k s) := by
  unfold doRuleSegment
  split
  · exact hs
  · extract_lets +onlyGivenNames -underBinder s0
    clear_value s0
    extract_lets +onlyGivenNames -underBinder s1
    clear_value s1
    extract_lets +onlyGivenNames -underBinder s2
    clear_value s2
    refine keeps_ite ?_ ?_
    · apply failDesc_keeps
      exact hs
    · refine keeps_ite ?_ ?_
      · apply failDesc_keeps
        exact hs
      · refine keeps_ite ?_ ?_
        · apply failDesc_keeps
          apply refuseSeg_keeps
          exact hs
        · refine keeps_ite ?_ ?_
          · apply failDesc_keeps
            exact hs
          · apply completeDesc_keeps
            apply setRuling_keeps
            · intro x3
              exact ⟨Nat.le_refl _, id⟩
            · exact hs

theorem doSegmentApply_keeps {a : State} {s : State} (hs : Keeps a s) :
    Keeps a (doSegmentApply s) := by
  unfold doSegmentApply
  split
  · exact hs
  · refine keeps_ite ?_ ?_
    · exact hs
    · refine keeps_ite ?_ ?_
      · apply refuseSeg_keeps
        apply setRuling_keeps
        · intro x0
          exact ⟨Nat.le_refl _, id⟩
        · exact hs
      · extract_lets +onlyGivenNames -underBinder s1
        clear_value s1
        extract_lets +onlyGivenNames -underBinder s2
        have h3 : Keeps a s2 := by
          unfold s2
          apply setB_keeps
          apply setRuling_keeps
          · intro x4
            exact ⟨Nat.le_refl _, id⟩
          · exact hs
        clear_value s2
        refine keeps_ite ?_ ?_
        · apply stepTo_keeps
          exact h3
        · apply sendBeacons_keeps
          exact h3

theorem becomeMaster_keeps {a : State} {s : State} (hs : Keeps a s) :
    Keeps a (becomeMaster s) := by
  unfold becomeMaster
  extract_lets +onlyGivenNames -underBinder s0
  clear_value s0
  extract_lets +onlyGivenNames -underBinder s1
  have h2 : Keeps a s1 := by
    unfold s1
    apply setRuling_keeps
    · intro x3
      exact ⟨Nat.le_refl _, id⟩
    · exact hs
  clear_value s1
  extract_lets +onlyGivenNames -underBinder s4
  have h5 : Keeps a s4 := by
    unfold s4
    apply raisePos_keeps
    exact h2
  clear_value s4
  apply enterLocked_keeps
  apply sendBeacons_keeps
  exact h5

theorem doRuleCtlWrite_keeps {a : State} (newRole : Nat) (parent : Nat) (alt : Nat) (altEn : Bool) {s : State} (hs : Keeps a s) :
    Keeps a (doRuleCtlWrite newRole parent alt altEn s) := by
  unfold doRuleCtlWrite
  refine keeps_ite ?_ ?_
  · exact hs
  · extract_lets +onlyGivenNames -underBinder s0
    clear_value s0
    extract_lets +onlyGivenNames -underBinder s1
    clear_value s1
    extract_lets +onlyGivenNames -underBinder s2
    have h3 : Keeps a s2 := by
      unfold s2
      apply wrb_keeps
      apply wr_keeps
      apply wr_keeps
      apply wr_keeps
      exact hs
    clear_value s2
    extract_lets +onlyGivenNames -underBinder s4
    clear_value s4
    extract_lets +onlyGivenNames -underBinder s5
    clear_value s5
    refine keeps_ite ?_ ?_
    · extract_lets +onlyGivenNames -underBinder s6
      have h7 : Keeps a s6 := by
        unfold s6
        refine keeps_ite ?_ ?_
        · exact h3
        · apply wr_keeps
          exact h3
      clear_value s6
      extract_lets +onlyGivenNames -underBinder s8
      have h9 : Keeps a s8 := by
        unfold s8
        apply setRuling_keeps
        · intro x10
          exact ⟨Nat.le_refl _, id⟩
        · exact h7
      clear_value s8
      refine keeps_ite ?_ ?_
      · apply becomeMaster_keeps
        exact h9
      · extract_lets +onlyGivenNames -underBinder s11
        have h12 : Keeps a s11 := by
          unfold s11
          apply wr_keeps
          exact h9
        clear_value s11
        extract_lets +onlyGivenNames -underBinder s13
        have h14 : Keeps a s13 := by
          unfold s13
          refine keeps_ite ?_ ?_
          · apply enterUnlocked_keeps
            exact h12
          · exact h12
        clear_value s13
        refine keeps_ite ?_ ?_
        · apply setLock_keeps
          exact h14
        · exact h14
    · refine keeps_ite ?_ ?_
      · extract_lets +onlyGivenNames -underBinder s15
        have h16 : Keeps a s15 := by
          unfold s15
          apply wr_keeps
          exact h3
        clear_value s15
        refine keeps_ite ?_ ?_
        · exact h16
        · refine keeps_ite ?_ ?_
          · apply switchParent_keeps
            exact h3
          · apply enterUnlocked_keeps
            exact h16
      · exact h3

theorem doRuleSyncMark_keeps {a : State} {s : State} (hs : Keeps a s) :
    Keeps a (doRuleSyncMark s) := by
  unfold doRuleSyncMark
  extract_lets +onlyGivenNames -underBinder s0
  have h1 : Keeps a s0 := by
    unfold s0
    apply setB_keeps
    exact hs
  clear_value s0
  refine keeps_ite ?_ ?_
  · exact h1
  · apply setRuling_keeps
    · intro x2
      exact ⟨Nat.le_refl _, id⟩
    · exact h1

theorem doRuleSyncFrame_keeps {a : State} (f : SyncFrame) {s : State} (hs : Keeps a s) :
    Keeps a (doRuleSyncFrame f s) := by
  unfold doRuleSyncFrame
  refine keeps_ite ?_ ?_
  · exact hs
  · split
    · exact hs
    · refine keeps_ite ?_ ?_
      · extract_lets +onlyGivenNames -underBinder s0
        have h1 : Keeps a s0 := by
          unfold s0
          apply setRuling_keeps
          · intro x2
            exact ⟨Nat.le_refl _, id⟩
          · apply setB_keeps
            exact hs
        clear_value s0
        refine keeps_ite ?_ ?_
        · apply enterUnlocked_keeps
          exact h1
        · exact h1
      · extract_lets +onlyGivenNames -underBinder s3
        clear_value s3
        extract_lets +onlyGivenNames -underBinder s4
        clear_value s4
        extract_lets +onlyGivenNames -underBinder s5
        clear_value s5
        extract_lets +onlyGivenNames -underBinder s6
        have h7 : Keeps a s6 := by
          unfold s6
          apply setRuling_keeps
          · intro x8
            exact ⟨Nat.le_refl _, id⟩
          · exact hs
        clear_value s6
        extract_lets +onlyGivenNames -underBinder s9
        have h10 : Keeps a s9 := by
          unfold s9
          split
          · apply firstReference_keeps
            exact h7
          · extract_lets +onlyGivenNames -underBinder s11
            clear_value s11
            extract_lets +onlyGivenNames -underBinder s12
            clear_value s12
            extract_lets +onlyGivenNames -underBinder s13
            have h14 : Keeps a s13 := by
              unfold s13
              apply setRuling_keeps
              · intro x15
                exact ⟨Nat.le_refl _, id⟩
              · exact h7
            clear_value s13
            extract_lets +onlyGivenNames -underBinder s16
            have h17 : Keeps a s16 := by
              unfold s16
              refine keeps_ite ?_ ?_
              · apply moveRef_keeps
                exact h14
              · exact h14
            clear_value s16
            extract_lets +onlyGivenNames -underBinder s18
            have h19 : Keeps a s18 := by
              unfold s18
              refine keeps_ite ?_ ?_
              · apply takeSegs_keeps
                exact h17
              · apply takeSegs_keeps
                exact h17
            clear_value s18
            refine keeps_ite ?_ ?_
            · apply setLock_keeps
              exact h19
            · exact h19
        clear_value s9
        refine keeps_ite ?_ ?_
        · apply enterLocked_keeps
          exact h10
        · exact h10

theorem doParentSilenceTimeout_keeps {a : State} {s : State} (hs : Keeps a s) :
    Keeps a (doParentSilenceTimeout s) := by
  unfold doParentSilenceTimeout
  extract_lets +onlyGivenNames -underBinder s0
  clear_value s0
  refine keeps_ite ?_ ?_
  · apply switchParent_keeps
    exact hs
  · exact hs

theorem doLockLossTimeout_keeps {a : State} {s : State} (hs : Keeps a s) :
    Keeps a (doLockLossTimeout s) := by
  unfold doLockLossTimeout
  extract_lets +onlyGivenNames -underBinder s0
  clear_value s0
  extract_lets +onlyGivenNames -underBinder s1
  clear_value s1
  refine keeps_ite ?_ ?_
  · apply enterUnlocked_keeps
    exact hs
  · exact hs

theorem doRuleRefLoss_keeps {a : State} {s : State} (hs : Keeps a s) :
    Keeps a (doRuleRefLoss s) := by
  unfold doRuleRefLoss
  extract_lets +onlyGivenNames -underBinder s0
  have h1 : Keeps a s0 := by
    unfold s0
    apply clrB_keeps
    exact hs
  clear_value s0
  split
  · apply setB_keeps
    exact h1
  · refine keeps_ite ?_ ?_
    · apply enterUnlocked_keeps
      apply setRuling_keeps
      · intro x2
        exact ⟨Nat.le_refl _, id⟩
      · exact h1
    · exact h1
  · exact h1

theorem doHoldRelease_keeps {a : State} {s : State} (hs : Keeps a s) :
    Keeps a (doHoldRelease s) := by
  unfold doHoldRelease
  refine keeps_ite ?_ ?_
  · apply markDue_keeps
    apply setRuling_keeps
    · intro x0
      exact ⟨Nat.le_max_left _ _, id⟩
    · exact hs
  · exact hs

theorem doBeaconSend_keeps {a : State} {s : State} (hs : Keeps a s) :
    Keeps a (doBeaconSend s) := by
  unfold doBeaconSend
  apply forEach_keeps
  · intro x0 x1 x2
    apply sendBeacons_keeps
    apply setRuling_keeps
    · intro x3
      exact ⟨Nat.le_refl _, id⟩
    · exact x2
  · exact hs

theorem tickRuling_keeps {a : State} {s : State} (hs : Keeps a s) :
    Keeps a (tickRuling s) := by
  unfold tickRuling
  extract_lets +onlyGivenNames -underBinder s0
  clear_value s0
  extract_lets +onlyGivenNames -underBinder s1
  extract_lets +onlyGivenNames -underBinder s2
  clear_value s2
  extract_lets +onlyGivenNames -underBinder s3
  clear_value s3
  extract_lets +onlyGivenNames -underBinder s4
  have h5 : Keeps a s4 := by
    unfold s4
    apply setRuling_keeps
    · intro x6
      exact ⟨Nat.le_refl _, id⟩
    · exact hs
  clear_value s4
  refine keeps_ite ?_ ?_
  · exact h5
  · apply markDue_keeps
    refine keeps_ite ?_ ?_
    · exact h5
    · apply setRuling_keeps
      · intro x7
        exact ⟨Nat.le_max_left _ _, id⟩
      · exact h5

end Sys2Proof.Machine
end

