-- ==== Sys2Proof/Laws/KeepsSites.lean ====
section
/-! SUPPORT. Sys2Proof/Laws/KeepsSites.lean: every operation of Machine/Sites.lean keeps what `Keeps` says. -/

namespace Sys2Proof.Machine

open Sys2Proof

theorem addEntry_keeps {a : State} (kind : Nat) (idx : Nat) (outcome : Nat) (detail : Nat) {s : State} (hs : Keeps a s) :
    Keeps a (addEntry kind idx outcome detail s) := by
  unfold addEntry
  refine keeps_ite ?_ ?_
  · exact hs
  · apply setB_keeps
    refine Keeps.same (s := s) ?_ rfl rfl rfl rfl rfl rfl rfl rfl rfl
    exact hs

theorem doPwrReq_keeps {a : State} (j : Nat) {s : State} (hs : Keeps a s) :
    Keeps a (doPwrReq j s) := by
  unfold doPwrReq
  split
  · exact hs
  · extract_lets +onlyGivenNames -underBinder s0
    have h1 : Keeps a s0 := by
      unfold s0
      apply setSite_keeps
      refine takeRx_keepsO (e := by assumption) ?_
      exact hs
    clear_value s0
    extract_lets +onlyGivenNames -underBinder s2
    have h3 : Keeps a s2 := by
      unfold s2
      apply wr_keeps
      exact h1
    clear_value s2
    extract_lets +onlyGivenNames -underBinder s4
    clear_value s4
    apply zcpSend_keeps
    apply wr_keeps
    exact h3

theorem regrant_keeps {a : State} (j : Nat) {s : State} (hs : Keeps a s) :
    Keeps a (regrant j s) := by
  unfold regrant
  extract_lets +onlyGivenNames -underBinder s0
  clear_value s0
  refine keeps_ite ?_ ?_
  · exact hs
  · extract_lets +onlyGivenNames -underBinder s1
    have h2 : Keeps a s1 := by
      unfold s1
      apply wr_keeps
      exact hs
    clear_value s1
    refine keeps_ite ?_ ?_
    · exact h2
    · apply zcpSend_keeps
      exact h2

theorem takeGrant_keeps {a : State} (j : Nat) (c : List Nat) {s : State} (hs : Keeps a s) :
    Keeps a (takeGrant j c s) := by
  unfold takeGrant
  extract_lets +onlyGivenNames -underBinder s0
  have h1 : Keeps a s0 := by
    unfold s0
    apply setSite_keeps
    exact hs
  clear_value s0
  extract_lets +onlyGivenNames -underBinder s2
  have h3 : Keeps a s2 := by
    unfold s2
    apply wr_keeps
    apply wr_keeps
    apply wr_keeps
    apply wr_keeps
    exact h1
  clear_value s2
  refine keeps_ite ?_ ?_
  · exact h3
  · apply addEntry_keeps
    apply forceFence_keeps
    apply setB_keeps
    exact h3

theorem deliverFlit_keeps {a : State} (j : Nat) (flit : List Nat) {s : State} (hs : Keeps a s) :
    Keeps a (deliverFlit j flit s) := by
  unfold deliverFlit
  extract_lets +onlyGivenNames -underBinder s0
  clear_value s0
  extract_lets +onlyGivenNames -underBinder s1
  have h2 : Keeps a s1 := by
    unfold s1
    apply setSite_keeps
    exact hs
  clear_value s1
  extract_lets +onlyGivenNames -underBinder s3
  clear_value s3
  extract_lets +onlyGivenNames -underBinder s4
  have h5 : Keeps a s4 := by
    unfold s4
    refine keeps_ite ?_ ?_
    · apply setSite_keeps
      exact h2
    · apply takeGrant_keeps
      exact h2
  clear_value s4
  refine keeps_ite ?_ ?_
  · exact h5
  · refine keeps_ite ?_ ?_
    · apply fenceProtocol_keeps
      exact h5
    · split
      · apply fenceProtocol_keeps
        exact h5
      · apply zcpPump_keeps
        refine Keeps.same (s := s4) ?_ rfl rfl rfl rfl rfl rfl rfl rfl rfl
        exact h5

theorem deliverEarly_keeps {a : State} (j : Nat) (z1 : Nat) {z2 : State} (hz2 : Keeps a z2) :
    Keeps a (deliverEarly j z1 z2) := by
  induction z1 generalizing j z2 with
  | zero =>
    unfold deliverEarly
    exact hz2
  | succ n ih =>
    unfold deliverEarly
    split
    · exact hz2
    · extract_lets +onlyGivenNames -underBinder s0
      clear_value s0
      apply ih
      apply deliverFlit_keeps
      apply setSite_keeps
      exact hz2

theorem setMods_keeps {a : State} (j : Nat) (m : Nat) {s : State} (hs : Keeps a s) :
    Keeps a (setMods j m s) := by
  unfold setMods
  apply setSite_keeps
  apply wr_keeps
  apply wr_keeps
  exact hs

theorem doModuleDown_keeps {a : State} (j : Nat) (k : Nat) (unacked : List Nat) {s : State} (hs : Keeps a s) :
    Keeps a (doModuleDown j k unacked s) := by
  unfold doModuleDown
  refine keeps_ite ?_ ?_
  · exact hs
  · apply pauseReqs_keeps
    apply wr_keeps
    apply setSite_keeps
    apply bumpSat_keeps
    apply setB_keeps
    apply setMods_keeps
    exact hs

theorem doZcpFlitRx_keeps {a : State} (j : Nat) (k : Nat) (retries : Nat) (ctrl : Nat) (slots : List Nat) {s : State} (hs : Keeps a s) :
    Keeps a (doZcpFlitRx j k retries ctrl slots s) := by
  unfold doZcpFlitRx
  refine keeps_ite ?_ ?_
  · exact hs
  · extract_lets +onlyGivenNames -underBinder s0
    have h1 : Keeps a s0 := by
      unfold s0
      apply noteWake_keeps
      apply count_keeps
      apply bumpSat_keeps
      exact hs
    clear_value s0
    refine keeps_ite ?_ ?_
    · apply doModuleDown_keeps
      exact h1
    · extract_lets +onlyGivenNames -underBinder s2
      have h3 : Keeps a s2 := by
        unfold s2
        apply count_keeps
        exact h1
      clear_value s2
      extract_lets +onlyGivenNames -underBinder s4
      clear_value s4
      extract_lets +onlyGivenNames -underBinder s5
      clear_value s5
      refine keeps_ite ?_ ?_
      · exact h3
      · refine keeps_ite ?_ ?_
        · apply setSite_keeps
          exact h3
        · apply deliverEarly_keeps
          apply deliverFlit_keeps
          exact h3

theorem doArrive_keeps {a : State} (j : Nat) {s : State} (hs : Keeps a s) :
    Keeps a (doArrive j s) := by
  unfold doArrive
  refine keeps_ite ?_ ?_
  · exact hs
  · split
    · exact hs
    · extract_lets +onlyGivenNames -underBinder s0
      clear_value s0
      split
      · apply zcpAnswer_keeps
        apply arrivalAdd_keeps
        refine takeRx_keepsO (e := by assumption) ?_
        exact hs
      · apply zcpAnswer_keeps
        apply arrivalAdd_keeps
        refine takeRx_keepsO (e := by assumption) ?_
        exact hs
      · apply zcpAnswer_keeps
        refine takeRx_keepsO (e := by assumption) ?_
        exact hs

theorem doChipEvent_keeps {a : State} (j : Nat) {s : State} (hs : Keeps a s) :
    Keeps a (doChipEvent j s) := by
  unfold doChipEvent
  split
  · exact hs
  · split
    · apply postEvent_keeps
      refine takeRx_keepsO (e := by assumption) ?_
      exact hs
    · apply logRec_keeps
      refine takeRx_keepsO (e := by assumption) ?_
      exact hs

theorem finishAcc_keeps {a : State} (id : Nat) (data : Option (List Byte)) {s : State} (hs : Keeps a s) :
    Keeps a (finishAcc id data s) := by
  unfold finishAcc
  split
  · exact hs
  · extract_lets +onlyGivenNames -underBinder s0
    clear_value s0
    extract_lets +onlyGivenNames -underBinder s1
    have h2 : Keeps a s1 := by
      unfold s1
      refine Keeps.same (s := s) ?_ rfl rfl rfl rfl rfl rfl rfl rfl rfl
      exact hs
    clear_value s1
    apply answerAcc_keeps
    exact h2

theorem windowFailed_keeps {a : State} (j : Nat) (id : Nat) (write : Bool) (ev : Fld) {s : State} (hs : Keeps a s) :
    Keeps a (windowFailed j id write ev s) := by
  unfold windowFailed
  apply finishAcc_keeps
  apply setB_keeps
  refine keeps_ite ?_ ?_
  · exact hs
  · apply bumpSat_keeps
    exact hs

theorem rStatus_keeps {a : State} (j : Nat) (m : ZMsg) {s : State} (hs : Keeps a s) :
    Keeps a (rStatus j m s).2 := by
  unfold rStatus
  extract_lets +onlyGivenNames -underBinder s0
  clear_value s0
  refine keeps_mk ?_
  refine keeps_ite ?_ ?_
  · apply logRec_keeps
    exact hs
  · exact hs

theorem hubReqOf_keeps {a : State} (j : Nat) (tag : Nat) (p : Purpose → Bool) {s : State} (hs : Keeps a s) :
    Keeps a (hubReqOf j tag p s).2 := by
  unfold hubReqOf
  split
  · refine keeps_ite_snd ?_ ?_
    · refine keeps_mk ?_
      apply retireReq_keeps
      exact hs
    · refine keeps_mk ?_
      apply fenceProtocol_keeps
      exact hs
  · refine keeps_ite_snd ?_ ?_
    · refine keeps_mk ?_
      apply bump_keeps
      exact hs
    · refine keeps_mk ?_
      apply fenceProtocol_keeps
      exact hs

theorem doMmioData_keeps {a : State} (j : Nat) {s : State} (hs : Keeps a s) :
    Keeps a (doMmioData j s) := by
  unfold doMmioData
  split
  · exact hs
  · extract_lets +onlyGivenNames -underBinder s0
    have h1 : Keeps a s0.2 := by
      unfold s0
      apply rStatus_keeps
      refine takeRx_keepsO (e := by assumption) ?_
      exact hs
    clear_value s0
    extract_lets +onlyGivenNames -underBinder s2
    have h3 : Keeps a s2 := by
      unfold s2
      exact h1
    clear_value s2
    extract_lets +onlyGivenNames -underBinder s4
    have h5 : Keeps a s4.2 := by
      unfold s4
      apply hubReqOf_keeps
      exact h3
    clear_value s4
    split
    · refine keeps_ite ?_ ?_
      · split
        · apply finishAcc_keeps
          exact h5
        · exact h5
      · apply windowFailed_keeps
        exact h5
    · exact h5

theorem doZcpCmp_keeps {a : State} (j : Nat) {s : State} (hs : Keeps a s) :
    Keeps a (doZcpCmp j s) := by
  unfold doZcpCmp
  split
  · exact hs
  · extract_lets +onlyGivenNames -underBinder s0
    have h1 : Keeps a s0.2 := by
      unfold s0
      apply hubReqOf_keeps
      apply rStatus_keeps
      refine takeRx_keepsO (e := by assumption) ?_
      exact hs
    clear_value s0
    split
    · apply finishAcc_keeps
      exact h1
    · exact h1

theorem driveSiteRst_keeps {a : State} (j : Nat) (v : Nat) {s : State} (hs : Keeps a s) :
    Keeps a (driveSiteRst j v s) := by
  unfold driveSiteRst
  apply emit_keeps
  exact hs

theorem siteDown_keeps {a : State} (j : Nat) {s : State} (hs : Keeps a s) :
    Keeps a (siteDown j s) := by
  unfold siteDown
  extract_lets +onlyGivenNames -underBinder s0
  have h1 : Keeps a s0 := by
    unfold s0
    apply fenceSite_keeps
    exact hs
  clear_value s0
  extract_lets +onlyGivenNames -underBinder s2
  have h3 : Keeps a s2 := by
    unfold s2
    apply resetWhere_keeps
    exact h1
  clear_value s2
  extract_lets +onlyGivenNames -underBinder s4
  have h5 : Keeps a s4 := by
    unfold s4
    apply wr_keeps
    exact h3
  clear_value s4
  apply driveSiteRst_keeps
  apply setSite_keeps
  exact h5

theorem startSiteReset_keeps {a : State} (j : Nat) {s : State} (hs : Keeps a s) :
    Keeps a (startSiteReset j s) := by
  unfold startSiteReset
  refine keeps_ite ?_ ?_
  · extract_lets +onlyGivenNames -underBinder s0
    have h1 : Keeps a s0 := by
      unfold s0
      apply setSite_keeps
      exact hs
    clear_value s0
    apply zcpSend_keeps
    exact h1
  · apply siteDown_keeps
    exact hs

theorem doSiteReset_keeps {a : State} (j : Nat) {s : State} (hs : Keeps a s) :
    Keeps a (doSiteReset j s) := by
  unfold doSiteReset
  refine keeps_ite ?_ ?_
  · exact hs
  · split
    · exact hs
    · apply startSiteReset_keeps
      exact hs

theorem doSiteFence_keeps {a : State} (j : Nat) {s : State} (hs : Keeps a s) :
    Keeps a (doSiteFence j s) := by
  unfold doSiteFence
  refine keeps_ite ?_ ?_
  · exact hs
  · apply fenceSite_keeps
    exact hs

theorem sendResume_keeps {a : State} (j : Nat) {s : State} (hs : Keeps a s) :
    Keeps a (sendResume j s) := by
  unfold sendResume
  apply zcpSend_keeps
  exact hs

theorem doMgmtAck_keeps {a : State} (j : Nat) {s : State} (hs : Keeps a s) :
    Keeps a (doMgmtAck j s) := by
  unfold doMgmtAck
  split
  · exact hs
  · extract_lets +onlyGivenNames -underBinder s0
    have h1 : Keeps a s0.2 := by
      unfold s0
      apply rStatus_keeps
      refine takeRx_keepsO (e := by assumption) ?_
      exact hs
    clear_value s0
    extract_lets +onlyGivenNames -underBinder s2
    have h3 : Keeps a s2.2 := by
      unfold s2
      apply hubReqOf_keeps
      exact h1
    clear_value s2
    split
    · split
      · apply siteDown_keeps
        exact h3
      · exact h3
    · refine keeps_ite ?_ ?_
      · apply setSite_keeps
        exact h3
      · refine keeps_ite ?_ ?_
        · apply sendResume_keeps
          exact h3
        · exact h3
    · exact h3

theorem doSiteQuiesceTimeout_keeps {a : State} (j : Nat) {s : State} (hs : Keeps a s) :
    Keeps a (doSiteQuiesceTimeout j s) := by
  unfold doSiteQuiesceTimeout
  split
  · refine keeps_ite ?_ ?_
    · apply siteDown_keeps
      exact hs
    · exact hs
  · exact hs

theorem siteEmpty_keeps {a : State} (j : Nat) (outcome : Nat) (detail : Nat) {s : State} (hs : Keeps a s) :
    Keeps a (siteEmpty j outcome detail s) := by
  unfold siteEmpty
  apply addEntry_keeps
  apply setSite_keeps
  apply wr_keeps
  exact hs

theorem moduleEntries_keeps {a : State} (j : Nat) (f : SiteFound) {s : State} (hs : Keeps a s) :
    Keeps a (moduleEntries j f s) := by
  unfold moduleEntries
  apply forEach_keeps
  · intro x0 x1 x2
    refine keeps_ite ?_ ?_
    · apply addEntry_keeps
      exact x2
    · refine keeps_ite ?_ ?_
      · apply addEntry_keeps
        exact x2
      · exact x2
  · exact hs

theorem sideband_keeps {a : State} (j : Nat) (args : List Nat) {s : State} (hs : Keeps a s) :
    Keeps a (sideband j args s) := by
  unfold sideband
  apply emit_keeps
  exact hs

theorem readIdent_keeps {a : State} (j : Nat) {s : State} (hs : Keeps a s) :
    Keeps a (readIdent j s) := by
  unfold readIdent
  apply forEach_keeps
  · intro x0 x1 x2
    apply sideband_keeps
    exact x2
  · exact hs

theorem attestChiplet_keeps {a : State} (j : Nat) {s : State} (hs : Keeps a s) :
    Keeps a (attestChiplet j s) := by
  unfold attestChiplet
  refine keeps_ite ?_ ?_
  · apply forEach_keeps
    · intro x0 x1 x2
      apply sideband_keeps
      exact x2
    · exact hs
  · exact hs

theorem writeBoot_keeps {a : State} (j : Nat) {s : State} (hs : Keeps a s) :
    Keeps a (writeBoot j s) := by
  unfold writeBoot
  refine keeps_ite ?_ ?_
  · exact hs
  · extract_lets +onlyGivenNames -underBinder s0
    clear_value s0
    apply sideband_keeps
    apply sideband_keeps
    apply sideband_keeps
    exact hs

theorem gangOdd_keeps {a : State} (j : Nat) {s : State} (hs : Keeps a s) :
    Keeps a (gangOdd j s) := by
  unfold gangOdd
  refine keeps_ite ?_ ?_
  · exact hs
  · refine keeps_ite ?_ ?_
    · apply setB_keeps
      apply setSite_keeps
      apply wr_keeps
      apply siteDown_keeps
      exact hs
    · apply clrB_keeps
      exact hs

theorem trainModules_keeps {a : State} (j : Nat) (f : SiteFound) {s : State} (hs : Keeps a s) :
    Keeps a (trainModules j f s) := by
  unfold trainModules
  extract_lets +onlyGivenNames -underBinder s0
  clear_value s0
  apply moduleEntries_keeps
  apply wrb_keeps
  apply setMods_keeps
  apply wr_keeps
  exact hs

theorem takeIdent_keeps {a : State} (j : Nat) (l : List Byte) {s : State} (hs : Keeps a s) :
    Keeps a (takeIdent j l s) := by
  unfold takeIdent
  extract_lets +onlyGivenNames -underBinder s0
  have h1 : Keeps a s0 := by
    unfold s0
    apply setSite_keeps
    apply readIdent_keeps
    exact hs
  clear_value s0
  apply wr_keeps
  refine Keeps.same (s := s0) ?_ rfl rfl rfl rfl rfl rfl rfl rfl rfl
  exact h1

theorem doSiteResetRelease_keeps {a : State} (j : Nat) (f : SiteFound) {s : State} (hs : Keeps a s) :
    Keeps a (doSiteResetRelease j f s) := by
  unfold doSiteResetRelease
  split
  · refine keeps_ite ?_ ?_
    · exact hs
    · refine keeps_ite ?_ ?_
      · apply wr_keeps
        apply setSite_keeps
        exact hs
      · extract_lets +onlyGivenNames -underBinder s0
        have h1 : Keeps a s0 := by
          unfold s0
          apply trainModules_keeps
          apply gangOdd_keeps
          apply driveSiteRst_keeps
          exact hs
        clear_value s0
        refine keeps_ite ?_ ?_
        · apply siteEmpty_keeps
          exact h1
        · refine keeps_ite ?_ ?_
          · apply siteEmpty_keeps
            exact h1
          · extract_lets +onlyGivenNames -underBinder s2
            have h3 : Keeps a s2 := by
              unfold s2
              apply takeIdent_keeps
              exact h1
            clear_value s2
            refine keeps_ite ?_ ?_
            · apply siteEmpty_keeps
              exact h3
            · extract_lets +onlyGivenNames -underBinder s4
              have h5 : Keeps a s4 := by
                unfold s4
                apply attestChiplet_keeps
                apply wr_keeps
                exact h3
              clear_value s4
              refine keeps_ite ?_ ?_
              · apply setSite_keeps
                apply setB_keeps
                apply wr_keeps
                exact h5
              · extract_lets +onlyGivenNames -underBinder s6
                have h7 : Keeps a s6 := by
                  unfold s6
                  apply writeBoot_keeps
                  apply wrb_keeps
                  exact h5
                clear_value s6
                refine keeps_ite ?_ ?_
                · exact h7
                · apply zcpLinkUp_keeps
                  exact h7
  · exact hs

theorem doSiteReady_keeps {a : State} (j : Nat) {s : State} (hs : Keeps a s) :
    Keeps a (doSiteReady j s) := by
  unfold doSiteReady
  refine keeps_ite ?_ ?_
  · exact hs
  · extract_lets +onlyGivenNames -underBinder s0
    have h1 : Keeps a s0 := by
      unfold s0
      apply setSite_keeps
      exact hs
    clear_value s0
    extract_lets +onlyGivenNames -underBinder s2
    have h3 : Keeps a s2 := by
      unfold s2
      apply wr_keeps
      apply setB_keeps
      apply wr_keeps
      exact h1
    clear_value s2
    split
    · apply postEvent_keeps
      exact h3
    · exact h3

theorem cxlDoorbell_keeps {a : State} (j : Nat) (ch : Nat) (value : Nat) {s : State} (hs : Keeps a s) :
    Keeps a (cxlDoorbell j ch value s) := by
  unfold cxlDoorbell
  apply emit_keeps
  exact hs

theorem lateCxl_keeps {a : State} (j : Nat) {s : State} (hs : Keeps a s) :
    Keeps a (lateCxl j s) := by
  unfold lateCxl
  refine keeps_ite ?_ ?_
  · exact hs
  · apply forEach_keeps
    · intro x0 x1 x2
      refine keeps_ite ?_ ?_
      · apply cxlDoorbell_keeps
        exact x2
      · exact x2
    · exact hs

theorem resendFlits_keeps {a : State} (j : Nat) {s : State} (hs : Keeps a s) :
    Keeps a (resendFlits j s) := by
  unfold resendFlits
  extract_lets +onlyGivenNames -underBinder s0
  clear_value s0
  apply forEach_keeps
  · intro x1 x2 x3
    apply emit_keeps
    apply count_keeps
    exact x3
  · apply setSite_keeps
    exact hs

theorem doSiteRetrainDone_keeps {a : State} (j : Nat) (mods : Nat) {s : State} (hs : Keeps a s) :
    Keeps a (doSiteRetrainDone j mods s) := by
  unfold doSiteRetrainDone
  refine keeps_ite ?_ ?_
  · exact hs
  · extract_lets +onlyGivenNames -underBinder s0
    clear_value s0
    extract_lets +onlyGivenNames -underBinder s1
    have h2 : Keeps a s1 := by
      unfold s1
      apply setMods_keeps
      exact hs
    clear_value s1
    refine keeps_ite ?_ ?_
    · apply fenceSite_keeps
      exact h2
    · extract_lets +onlyGivenNames -underBinder s3
      have h4 : Keeps a s3 := by
        unfold s3
        apply setSite_keeps
        apply resumeReqs_keeps
        apply wr_keeps
        exact h2
      clear_value s3
      apply siteOutcome_keeps
      apply lateCxl_keeps
      apply zcpPump_keeps
      apply resendFlits_keeps
      exact h4

theorem doCxlIoWrite_keeps {a : State} (j : Nat) (tag : Nat) (off : Nat) (len : Nat) (wrt : Bool) (data : List Byte) {s : State} (hs : Keeps a s) :
    Keeps a (doCxlIoWrite j tag off len wrt data s) := by
  unfold doCxlIoWrite
  refine keeps_ite ?_ ?_
  · exact hs
  · refine keeps_ite ?_ ?_
    · extract_lets +onlyGivenNames -underBinder s0
      clear_value s0
      split
      · apply bump_keeps
        exact hs
      · apply arrivalAdd_keeps
        apply logRec_keeps
        exact hs
      · apply logRec_keeps
        exact hs
    · extract_lets +onlyGivenNames -underBinder s1
      clear_value s1
      extract_lets +onlyGivenNames -underBinder s2
      clear_value s2
      apply forEach_keeps
      · intro x3 x4 x5
        extract_lets +onlyGivenNames -underBinder s6
        clear_value s6
        extract_lets +onlyGivenNames -underBinder s7
        clear_value s7
        extract_lets +onlyGivenNames -underBinder s8
        clear_value s8
        refine keeps_ite ?_ ?_
        · refine keeps_ite ?_ ?_
          · apply logRec_keeps
            exact x5
          · extract_lets +onlyGivenNames -underBinder s9
            clear_value s9
            apply homeArrive_keeps
            exact x5
        · refine keeps_ite ?_ ?_
          · apply answer_keeps
            exact x5
          · apply homeArrive_keeps
            exact x5
      · exact hs

theorem doCxlSiteResponse_keeps {a : State} (j : Nat) (tag : Nat) (z2 : Answer) {s : State} (hs : Keeps a s) :
    Keeps a (doCxlSiteResponse j tag z2 s) := by
  unfold doCxlSiteResponse
  refine keeps_ite ?_ ?_
  · exact hs
  · extract_lets +onlyGivenNames -underBinder s0
    have h1 : Keeps a s0.2 := by
      unfold s0
      apply hubReqOf_keeps
      exact hs
    clear_value s0
    split
    · split
      · apply finishAcc_keeps
        exact h1
      · apply windowFailed_keeps
        exact h1
    · exact h1

end Sys2Proof.Machine
end

