-- ==== Sys2Proof/Laws/KeepsRings.lean ====
section
/-! SUPPORT. Sys2Proof/Laws/KeepsRings.lean: every operation of Machine/Rings.lean keeps what `Keeps` says. -/

namespace Sys2Proof.Machine

open Sys2Proof

theorem releaseWatch_keeps {a : State} (g : Nat) {s : State} (hs : Keeps a s) :
    Keeps a (releaseWatch g s) := by
  unfold releaseWatch
  refine keeps_ite ?_ ?_
  · apply emit_keeps
    apply setRt_keeps
    apply clrB_keeps
    exact hs
  · exact hs

theorem stopOne_keeps {a : State} (g : Nat) (cause : Nat) (st : Status) {s : State} (hs : Keeps a s) :
    Keeps a (stopOne g cause st s) := by
  unfold stopOne
  refine keeps_ite ?_ ?_
  · apply releaseWatch_keeps
    apply wr_keeps
    apply wr_keeps
    apply wr_keeps
    exact hs
  · exact hs

theorem stopRing_keeps {a : State} (g : Nat) (cause : Nat) (st : Status) {s : State} (hs : Keeps a s) :
    Keeps a (stopRing g cause st s) := by
  unfold stopRing
  extract_lets +onlyGivenNames -underBinder s0
  clear_value s0
  extract_lets +onlyGivenNames -underBinder s1
  have h2 : Keeps a s1 := by
    unfold s1
    apply stopOne_keeps
    exact hs
  clear_value s1
  refine keeps_ite ?_ ?_
  · apply forEach_keeps
    · intro x3 x4 x5
      apply stopOne_keeps
      exact x5
    · exact h2
  · exact h2

theorem fetchOne_keeps {a : State} (g : Nat) {s : State} (hs : Keeps a s) :
    Keeps a (fetchOne g s) := by
  unfold fetchOne
  extract_lets +onlyGivenNames -underBinder s0
  clear_value s0
  apply hostAccess_keeps
  dsimp -zeta only
  refine Keeps.same (s := wr RING_IDX_NEXT g (s0 + 1) (setRt (ringCq g s) (fun r => { producer := r.producer, polledAt := r.polledAt, consumed := r.consumed, reserved := r.reserved + 1, headAt := r.headAt, unsignalled := r.unsignalled, oldest := r.oldest, overflow := r.overflow, watchBusy := r.watchBusy, watchAgain := r.watchAgain }) s)) ?_ rfl rfl rfl rfl rfl rfl rfl rfl rfl
  apply wr_keeps
  apply setRt_keeps
  exact hs

theorem fetchSome_keeps {a : State} (g : Nat) (z1 : Nat) {z2 : State} (hz2 : Keeps a z2) :
    Keeps a (fetchSome g z1 z2) := by
  induction z1 generalizing g z2 with
  | zero =>
    unfold fetchSome
    exact hz2
  | succ n ih =>
    unfold fetchSome
    refine keeps_ite ?_ ?_
    · apply ih
      apply fetchOne_keeps
      exact hz2
    · exact hz2

theorem fetchMore_keeps {a : State} (g : Nat) {s : State} (hs : Keeps a s) :
    Keeps a (fetchMore g s) := by
  unfold fetchMore
  apply fetchSome_keeps
  exact hs

theorem pickup_keeps {a : State} (g : Nat) (w0 : Nat) {s : State} (hs : Keeps a s) :
    Keeps a (pickup g w0 s) := by
  unfold pickup
  extract_lets +onlyGivenNames -underBinder s0
  clear_value s0
  refine keeps_ite ?_ ?_
  · apply stopRing_keeps
    exact hs
  · refine keeps_ite ?_ ?_
    · apply stopRing_keeps
      exact hs
    · apply fetchMore_keeps
      apply setRt_keeps
      exact hs

theorem doorbellRead_keeps {a : State} (g : Nat) (z1 : Answer) {s : State} (hs : Keeps a s) :
    Keeps a (doorbellRead g z1 s) := by
  unfold doorbellRead
  split
  · apply pickup_keeps
    apply count_keeps
    exact hs
  · apply stopRing_keeps
    apply noteAnswer_keeps
    exact hs

theorem askRing_keeps {a : State} (g : Nat) (va : Nat) (p : Purpose) {s : State} (hs : Keeps a s) :
    Keeps a (askRing g va p s) := by
  unfold askRing
  refine keeps_ite ?_ ?_
  · exact hs
  · apply xMiss_keeps
    exact hs

theorem doDoorbellPoll_keeps {a : State} (g : Nat) (z1 : Answer) {s : State} (hs : Keeps a s) :
    Keeps a (doDoorbellPoll g z1 s) := by
  unfold doDoorbellPoll
  extract_lets +onlyGivenNames -underBinder s0
  clear_value s0
  refine keeps_ite ?_ ?_
  · exact hs
  · refine keeps_ite ?_ ?_
    · apply askRing_keeps
      exact hs
    · apply doorbellRead_keeps
      apply setRt_keeps
      exact hs

theorem watchRead_keeps {a : State} (g : Nat) {s : State} (hs : Keeps a s) :
    Keeps a (watchRead g s) := by
  unfold watchRead
  refine keeps_ite ?_ ?_
  · apply setRt_keeps
    exact hs
  · refine keeps_ite ?_ ?_
    · apply askRing_keeps
      exact hs
    · apply emit_keeps
      apply setRt_keeps
      exact hs

theorem resumeRing_keeps {a : State} (g : Nat) {s : State} (hs : Keeps a s) :
    Keeps a (resumeRing g s) := by
  unfold resumeRing
  apply fetchMore_keeps
  refine keeps_ite ?_ ?_
  · apply watchRead_keeps
    exact hs
  · exact hs

theorem doWatchSnoop_keeps {a : State} (g : Nat) (kind : Nat) {s : State} (hs : Keeps a s) :
    Keeps a (doWatchSnoop g kind s) := by
  unfold doWatchSnoop
  refine keeps_ite ?_ ?_
  · exact hs
  · refine keeps_ite ?_ ?_
    · extract_lets +onlyGivenNames -underBinder s0
      have h1 : Keeps a s0 := by
        unfold s0
        apply emit_keeps
        exact hs
      clear_value s0
      refine keeps_ite ?_ ?_
      · apply setRt_keeps
        exact h1
      · apply watchRead_keeps
        exact h1
    · extract_lets +onlyGivenNames -underBinder s2
      have h3 : Keeps a s2 := by
        unfold s2
        apply emit_keeps
        exact hs
      clear_value s2
      refine keeps_ite ?_ ?_
      · apply setRt_keeps
        exact h3
      · exact h3

theorem doWatchReadData_keeps {a : State} (g : Nat) (z1 : Answer) {s : State} (hs : Keeps a s) :
    Keeps a (doWatchReadData g z1 s) := by
  unfold doWatchReadData
  refine keeps_ite ?_ ?_
  · exact hs
  · extract_lets +onlyGivenNames -underBinder s0
    clear_value s0
    extract_lets +onlyGivenNames -underBinder s1
    have h2 : Keeps a s1 := by
      unfold s1
      apply setRt_keeps
      exact hs
    clear_value s1
    extract_lets +onlyGivenNames -underBinder s3
    have h4 : Keeps a s3 := by
      unfold s3
      refine keeps_ite ?_ ?_
      · apply doorbellRead_keeps
        exact h2
      · exact h2
    clear_value s3
    refine keeps_ite ?_ ?_
    · apply watchRead_keeps
      exact h4
    · exact h4

theorem fetchFailed_keeps {a : State} (g : Nat) (k : Nat) (st : Status) {s : State} (hs : Keeps a s) :
    Keeps a (fetchFailed g k st s) := by
  unfold fetchFailed
  extract_lets +onlyGivenNames -underBinder s0
  clear_value s0
  extract_lets +onlyGivenNames -underBinder s1
  have h2 : Keeps a s1 := by
    unfold s1
    apply wr_keeps
    apply setRt_keeps
    exact hs
  clear_value s1
  extract_lets +onlyGivenNames -underBinder s3
  clear_value s3
  apply stopRing_keeps
  refine Keeps.same (s := s1) ?_ rfl rfl rfl rfl rfl rfl rfl rfl rfl
  exact h2

theorem doDescriptorFetched_keeps {a : State} (g : Nat) (k : Nat) (z2 : Answer) {s : State} (hs : Keeps a s) :
    Keeps a (doDescriptorFetched g k z2 s) := by
  unfold doDescriptorFetched
  split
  · exact hs
  · refine keeps_ite ?_ ?_
    · exact hs
    · extract_lets +onlyGivenNames -underBinder s0
      have h1 : Keeps a s0 := by
        unfold s0
        apply retireFor_keeps
        exact hs
      clear_value s0
      split
      · extract_lets +onlyGivenNames -underBinder s2
        clear_value s2
        extract_lets +onlyGivenNames -underBinder s3
        have h4 : Keeps a s3 := by
          unfold s3
          apply count_keeps
          exact h1
        clear_value s3
        extract_lets +onlyGivenNames -underBinder s5
        have h6 : Keeps a s5 := by
          unfold s5
          apply setDesc_keeps
          exact h4
        clear_value s5
        split
        · apply failDesc_keeps
          exact h6
        · exact h6
      · apply fetchFailed_keeps
        apply noteAnswer_keeps
        exact h1

theorem leaveH1_keeps {a : State} {s : State} (hs : Keeps a s) :
    Keeps a (leaveH1 s) := by
  unfold leaveH1
  refine keeps_ite ?_ ?_
  · apply count_keeps
    apply wr_keeps
    exact hs
  · exact hs

theorem startWork_keeps {a : State} {s : State} (hs : Keeps a s) :
    Keeps a (startWork s) := by
  unfold startWork
  apply leaveH1_keeps
  apply setPower_keeps
  exact hs

theorem startDesc_keeps {a : State} (g : Nat) (k : Nat) {s : State} (hs : Keeps a s) :
    Keeps a (startDesc g k s) := by
  unfold startDesc
  apply setDesc_keeps
  refine Keeps.same (s := s) ?_ rfl rfl rfl rfl rfl rfl rfl rfl rfl
  exact hs

theorem doDescriptorStart_keeps {a : State} (g : Nat) (k : Nat) {s : State} (hs : Keeps a s) :
    Keeps a (doDescriptorStart g k s) := by
  unfold doDescriptorStart
  split
  · exact hs
  · refine keeps_ite ?_ ?_
    · exact hs
    · extract_lets +onlyGivenNames -underBinder s0
      have h1 : Keeps a s0 := by
        unfold s0
        apply startDesc_keeps
        exact hs
      clear_value s0
      refine keeps_ite ?_ ?_
      · apply startWork_keeps
        exact h1
      · exact h1

theorem doHeadLineRead_keeps {a : State} (g : Nat) (z1 : Answer) {s : State} (hs : Keeps a s) :
    Keeps a (doHeadLineRead g z1 s) := by
  unfold doHeadLineRead
  extract_lets +onlyGivenNames -underBinder s0
  clear_value s0
  refine keeps_ite ?_ ?_
  · exact hs
  · refine keeps_ite ?_ ?_
    · apply askRing_keeps
      exact hs
    · extract_lets +onlyGivenNames -underBinder s1
      have h2 : Keeps a s1 := by
        unfold s1
        apply setRt_keeps
        exact hs
      clear_value s1
      split
      · apply stopRing_keeps
        apply noteAnswer_keeps
        exact h2
      · extract_lets +onlyGivenNames -underBinder s3
        clear_value s3
        refine keeps_ite ?_ ?_
        · apply stopRing_keeps
          exact h2
        · apply forEach_keeps
          · intro x4 x5 x6
            apply fetchMore_keeps
            exact x6
          · apply setRt_keeps
            exact h2

theorem doQueuedRecordWrite_keeps {a : State} (n : Nat) {s : State} (hs : Keeps a s) :
    Keeps a (doQueuedRecordWrite n s) := by
  unfold doQueuedRecordWrite
  split
  · exact hs
  · extract_lets +onlyGivenNames -underBinder s0
    clear_value s0
    extract_lets +onlyGivenNames -underBinder s1
    have h2 : Keeps a s1 := by
      unfold s1
      refine Keeps.same (s := s) ?_ rfl rfl rfl rfl rfl rfl rfl rfl rfl
      exact hs
    clear_value s1
    refine keeps_ite ?_ ?_
    · apply cqLost_keeps
      exact h2
    · refine keeps_ite ?_ ?_
      · exact hs
      · apply writeRec_keeps
        exact h2

theorem doIrqModTimeout_keeps {a : State} (g : Nat) {s : State} (hs : Keeps a s) :
    Keeps a (doIrqModTimeout g s) := by
  unfold doIrqModTimeout
  refine keeps_ite ?_ ?_
  · apply signalRing_keeps
    exact hs
  · exact hs

theorem doRingEnable_keeps {a : State} (g : Nat) {s : State} (hs : Keeps a s) :
    Keeps a (doRingEnable g s) := by
  unfold doRingEnable
  refine keeps_ite ?_ ?_
  · exact hs
  · extract_lets +onlyGivenNames -underBinder s0
    clear_value s0
    extract_lets +onlyGivenNames -underBinder s1
    have h2 : Keeps a s1 := by
      unfold s1
      apply setRt_keeps
      apply wr_keeps
      apply wr_keeps
      apply wr_keeps
      apply setB_keeps
      exact hs
    clear_value s1
    refine keeps_ite ?_ ?_
    · apply stopRing_keeps
      exact h2
    · refine keeps_ite ?_ ?_
      · exact h2
      · refine keeps_ite ?_ ?_
        · apply stopRing_keeps
          exact h2
        · apply watchRead_keeps
          apply setB_keeps
          exact h2

theorem doRingDisable_keeps {a : State} (g : Nat) {s : State} (hs : Keeps a s) :
    Keeps a (doRingDisable g s) := by
  unfold doRingDisable
  refine keeps_ite ?_ ?_
  · exact hs
  · extract_lets +onlyGivenNames -underBinder s0
    have h1 : Keeps a s0 := by
      unfold s0
      apply clrB_keeps
      exact hs
    clear_value s0
    split
    · apply releaseWatch_keeps
      apply wr_keeps
      apply wr_keeps
      exact h1
    · apply releaseWatch_keeps
      apply wr_keeps
      apply wr_keeps
      exact h1
    · exact h1

theorem doRingStopped_keeps {a : State} (g : Nat) {s : State} (hs : Keeps a s) :
    Keeps a (doRingStopped g s) := by
  unfold doRingStopped
  refine keeps_ite ?_ ?_
  · exact hs
  · extract_lets +onlyGivenNames -underBinder s0
    clear_value s0
    extract_lets +onlyGivenNames -underBinder s1
    clear_value s1
    extract_lets +onlyGivenNames -underBinder s2
    clear_value s2
    extract_lets +onlyGivenNames -underBinder s3
    have h4 : Keeps a s3 := by
      unfold s3
      apply wr_keeps
      exact hs
    clear_value s3
    refine keeps_ite ?_ ?_
    · exact h4
    · apply postEvent_keeps
      exact h4

theorem doRingIdxWrite_keeps {a : State} (g : Nat) (next : Option Nat) (release : Option Nat) {s : State} (hs : Keeps a s) :
    Keeps a (doRingIdxWrite g next release s) := by
  unfold doRingIdxWrite
  refine keeps_ite ?_ ?_
  · exact hs
  · extract_lets +onlyGivenNames -underBinder s0
    have h1 : Keeps a s0 := by
      unfold s0
      split
      · apply wr_keeps
        exact hs
      · exact hs
    clear_value s0
    split
    · apply wr_keeps
      exact h1
    · exact h1

theorem addRelease_keeps {a : State} (g : Nat) (n : Nat) {s : State} (hs : Keeps a s) :
    Keeps a (addRelease g n s) := by
  unfold addRelease
  apply fetchMore_keeps
  apply bump_keeps
  exact hs

theorem doNopDesc_keeps {a : State} (g : Nat) (k : Nat) {s : State} (hs : Keeps a s) :
    Keeps a (doNopDesc g k s) := by
  unfold doNopDesc
  split
  · exact hs
  · apply completeDesc_keeps
    exact hs

end Sys2Proof.Machine
end

