-- ==== Sys2Proof/Laws/KeepsTranslation.lean ====
section
/-! SUPPORT. Sys2Proof/Laws/KeepsTranslation.lean: every operation of Machine/Translation.lean keeps what `Keeps` says. -/

namespace Sys2Proof.Machine

open Sys2Proof

theorem setXlat_keeps {a : State} (f : Xlat → Xlat) {s : State} (hs : Keeps a s) :
    Keeps a (setXlat f s) := by
  unfold setXlat
  refine Keeps.same (s := s) ?_ rfl rfl rfl rfl rfl rfl rfl rfl rfl
  exact hs

theorem endCopy_keeps {a : State} (g : Nat) (k : Nat) (x : Job) (j : Nat) {s : State} (hs : Keeps a s) :
    Keeps a (endCopy g k x j s) := by
  unfold endCopy
  extract_lets +onlyGivenNames -underBinder s0
  have h1 : Keeps a s0 := by
    unfold s0
    apply dropJob_keeps
    exact hs
  clear_value s0
  split
  · exact h1
  · apply completeDesc_keeps
    exact h1

theorem settleJob_keeps {a : State} (j : Nat) {s : State} (hs : Keeps a s) :
    Keeps a (settleJob j s) := by
  unfold settleJob
  extract_lets +onlyGivenNames -underBinder s0
  have h1 : Keeps a s0 := by
    unfold s0
    apply advanceJob_keeps
    exact hs
  clear_value s0
  split
  · split
    · refine keeps_ite ?_ ?_
      · apply endCopy_keeps
        exact h1
      · exact h1
    · exact h1
  · exact h1

theorem settleJobs_keeps {a : State} {s : State} (hs : Keeps a s) :
    Keeps a (settleJobs s) := by
  unfold settleJobs
  apply forEach_keeps
  · intro x0 x1 x2
    apply settleJob_keeps
    exact x2
  · exact hs

theorem accessFailed_keeps {a : State} (p : Purpose) (st : Status) {s : State} (hs : Keeps a s) :
    Keeps a (accessFailed p st s) := by
  unfold accessFailed
  split
  · apply fetchFailed_keeps
    exact hs
  · apply stopRing_keeps
    exact hs
  · apply stopRing_keeps
    exact hs
  · apply stopRing_keeps
    exact hs
  · apply stopRing_keeps
    exact hs
  · apply setPiece_keeps
    exact hs
  · exact hs

theorem refuseWait_keeps {a : State} (w : XWait) {s : State} (hs : Keeps a s) :
    Keeps a (refuseWait w s) := by
  unfold refuseWait
  apply accessFailed_keeps
  apply noteRefused_keeps
  exact hs

theorem refuseAll_keeps {a : State} (l : List XWait) {s : State} (hs : Keeps a s) :
    Keeps a (refuseAll l s) := by
  unfold refuseAll
  apply forEach_keeps
  · intro x0 x1 x2
    apply refuseWait_keeps
    exact x2
  · exact hs

theorem setBatch_keeps {a : State} (n : Nat) (i : Nat) (f : Batch → Batch) {s : State} (hs : Keeps a s) :
    Keeps a (setBatch n i f s) := by
  unfold setBatch
  apply setXlat_keeps
  exact hs

theorem sendBatch_keeps {a : State} (b : Batch) {s : State} (hs : Keeps a s) :
    Keeps a (sendBatch b s) := by
  unfold sendBatch
  refine keeps_ite ?_ ?_
  · exact hs
  · extract_lets +onlyGivenNames -underBinder s0
    have h1 : Keeps a s0 := by
      unfold s0
      apply setBatch_keeps
      exact hs
    clear_value s0
    extract_lets +onlyGivenNames -underBinder s2
    clear_value s2
    extract_lets +onlyGivenNames -underBinder s3
    have h4 : Keeps a s3 := by
      unfold s3
      refine Keeps.same (s := s0) ?_ rfl rfl rfl rfl rfl rfl rfl rfl rfl
      exact h1
    clear_value s3
    extract_lets +onlyGivenNames -underBinder s5
    clear_value s5
    extract_lets +onlyGivenNames -underBinder s6
    clear_value s6
    extract_lets +onlyGivenNames -underBinder s7
    clear_value s7
    apply forEach_keeps
    · intro x8 x9 x10
      apply emit_keeps
      apply count_keeps
      exact x10
    · exact h4

theorem gatherFault_keeps {a : State} (w : XWait) {s : State} (hs : Keeps a s) :
    Keeps a (gatherFault w s) := by
  unfold gatherFault
  extract_lets +onlyGivenNames -underBinder s0
  have h1 : Keeps a s0 := by
    unfold s0
    apply setXlat_keeps
    exact hs
  clear_value s0
  split
  · refine keeps_ite ?_ ?_
    · apply setBatch_keeps
      exact hs
    · refine keeps_ite ?_ ?_
      · exact h1
      · extract_lets +onlyGivenNames -underBinder s2
        clear_value s2
        extract_lets +onlyGivenNames -underBinder s3
        have h4 : Keeps a s3 := by
          unfold s3
          apply setBatch_keeps
          exact hs
        clear_value s3
        refine keeps_ite ?_ ?_
        · apply sendBatch_keeps
          exact h4
        · exact h4
  · refine keeps_ite ?_ ?_
    · exact h1
    · split
      · exact h1
      · extract_lets +onlyGivenNames -underBinder s5
        clear_value s5
        extract_lets +onlyGivenNames -underBinder s6
        have h7 : Keeps a s6 := by
          unfold s6
          apply setXlat_keeps
          exact hs
        clear_value s6
        refine keeps_ite ?_ ?_
        · apply sendBatch_keeps
          exact h7
        · exact h7

theorem regather_keeps {a : State} (n : Nat) {s : State} (hs : Keeps a s) :
    Keeps a (regather n s) := by
  unfold regather
  extract_lets +onlyGivenNames -underBinder s0
  clear_value s0
  apply forEach_keeps
  · intro x1 x2 x3
    apply gatherFault_keeps
    exact x3
  · apply setXlat_keeps
    exact hs

theorem noPermission_keeps {a : State} (w : XWait) {s : State} (hs : Keeps a s) :
    Keeps a (noPermission w s) := by
  unfold noPermission
  refine keeps_ite ?_ ?_
  · apply gatherFault_keeps
    exact hs
  · apply refuseWait_keeps
    exact hs

theorem granted_keeps {a : State} (w : XWait) (e : XEntry) {s : State} (hs : Keeps a s) :
    Keeps a (granted w e s) := by
  unfold granted
  extract_lets +onlyGivenNames -underBinder s0
  have h1 : Keeps a s0 := by
    unfold s0
    refine keeps_ite ?_ ?_
    · apply fillTile_keeps
      exact hs
    · exact hs
  clear_value s0
  split
  · exact h1
  · exact h1
  · refine keeps_ite ?_ ?_
    · apply watchRead_keeps
      exact h1
    · exact h1
  · apply hostIssue_keeps
    exact h1

theorem retranslate_keeps {a : State} (w : XWait) {s : State} (hs : Keeps a s) :
    Keeps a (retranslate w s) := by
  unfold retranslate
  split
  · apply granted_keeps
    apply xTouch_keeps
    exact hs
  · apply xMiss_keeps
    exact hs

theorem doAtsCompletion_keeps {a : State} (fn : Nat) (pasid : Nat) (page : Nat) (size : Nat) (tp : Nat) (r : Bool) (w : Bool) {s : State} (hs : Keeps a s) :
    Keeps a (doAtsCompletion fn pasid page size tp r w s) := by
  unfold doAtsCompletion
  extract_lets +onlyGivenNames -underBinder s0
  clear_value s0
  refine keeps_ite ?_ ?_
  · exact hs
  · extract_lets +onlyGivenNames -underBinder s1
    have h2 : Keeps a s1 := by
      unfold s1
      apply retireFor_keeps
      exact hs
    clear_value s1
    extract_lets +onlyGivenNames -underBinder s3
    clear_value s3
    extract_lets +onlyGivenNames -underBinder s4
    clear_value s4
    refine keeps_ite ?_ ?_
    · apply hostReq_keeps
      apply count_keeps
      apply setXlat_keeps
      exact h2
    · extract_lets +onlyGivenNames -underBinder s5
      have h6 : Keeps a s5 := by
        unfold s5
        apply setXlat_keeps
        exact h2
      clear_value s5
      extract_lets +onlyGivenNames -underBinder s7
      clear_value s7
      extract_lets +onlyGivenNames -underBinder s8
      have h9 : Keeps a s8 := by
        unfold s8
        apply forEach_keeps
        · intro x10 x11 x12
          apply fillShared_keeps
          exact x12
        · exact h6
      clear_value s8
      extract_lets +onlyGivenNames -underBinder s13
      have h14 : Keeps a s13 := by
        unfold s13
        apply forEach_keeps
        · intro x15 x16 x17
          split
          · apply granted_keeps
            exact x17
          · apply noPermission_keeps
            exact x17
        · exact h9
      clear_value s13
      apply settleJobs_keeps
      exact h14

theorem releaseBatches_keeps {a : State} (n : Nat) {s : State} (hs : Keeps a s) :
    Keeps a (releaseBatches n s) := by
  unfold releaseBatches
  apply forEach_keeps
  · intro x0 x1 x2
    refine keeps_ite ?_ ?_
    · apply sendBatch_keeps
      exact x2
    · exact x2
  · exact hs

theorem doPriGatherExpire_keeps {a : State} (fn : Nat) (pasid : Nat) {s : State} (hs : Keeps a s) :
    Keeps a (doPriGatherExpire fn pasid s) := by
  unfold doPriGatherExpire
  split
  · refine keeps_ite ?_ ?_
    · apply sendBatch_keeps
      exact hs
    · exact hs
  · exact hs

theorem dropBatch_keeps {a : State} (n : Nat) (i : Nat) {s : State} (hs : Keeps a s) :
    Keeps a (dropBatch n i s) := by
  unfold dropBatch
  apply setXlat_keeps
  exact hs

theorem unexpected_keeps {a : State} (cls : Nat) (port : Nat) (tag : Nat) (fn : Nat) {s : State} (hs : Keeps a s) :
    Keeps a (unexpected cls port tag fn s) := by
  unfold unexpected
  refine keeps_ite ?_ ?_
  · apply bump_keeps
    exact hs
  · apply reportAer_keeps
    apply hostErr_keeps
    exact hs

theorem doPageGroupResponse_keeps {a : State} (fn : Nat) (prg : Nat) (code : Nat) {s : State} (hs : Keeps a s) :
    Keeps a (doPageGroupResponse fn prg code s) := by
  unfold doPageGroupResponse
  split
  · apply unexpected_keeps
    exact hs
  · extract_lets +onlyGivenNames -underBinder s0
    have h1 : Keeps a s0 := by
      unfold s0
      apply dropBatch_keeps
      apply retireFor_keeps
      exact hs
    clear_value s0
    extract_lets +onlyGivenNames -underBinder s2
    have h3 : Keeps a s2 := by
      unfold s2
      split
      · apply forEach_keeps
        · intro x4 x5 x6
          apply retranslate_keeps
          exact x6
        · exact h1
      · apply refuseAll_keeps
        exact h1
      · extract_lets +onlyGivenNames -underBinder s7
        clear_value s7
        extract_lets +onlyGivenNames -underBinder s8
        have h9 : Keeps a s8 := by
          unfold s8
          apply setXlat_keeps
          exact h1
        clear_value s8
        apply refuseAll_keeps
        apply trnLog_keeps
        exact h9
    clear_value s2
    apply settleJobs_keeps
    apply regather_keeps
    exact h3

theorem doPrgTimeout_keeps {a : State} (fn : Nat) (prg : Nat) {s : State} (hs : Keeps a s) :
    Keeps a (doPrgTimeout fn prg s) := by
  unfold doPrgTimeout
  split
  · refine keeps_ite ?_ ?_
    · exact hs
    · extract_lets +onlyGivenNames -underBinder s0
      have h1 : Keeps a s0 := by
        unfold s0
        apply bumpSat_keeps
        apply dropBatch_keeps
        apply entomb_keeps
        exact hs
      clear_value s0
      apply settleJobs_keeps
      apply regather_keeps
      apply refuseAll_keeps
      apply trnLog_keeps
      exact h1
  · exact hs

theorem atsFailed_keeps {a : State} (fn : Nat) (pasid : Nat) (page : Nat) (kind : Nat) {s : State} (hs : Keeps a s) :
    Keeps a (atsFailed fn pasid page kind s) := by
  unfold atsFailed
  refine keeps_ite ?_ ?_
  · extract_lets +onlyGivenNames -underBinder s0
    clear_value s0
    extract_lets +onlyGivenNames -underBinder s1
    have h2 : Keeps a s1 := by
      unfold s1
      apply retireFor_keeps
      exact hs
    clear_value s1
    apply settleJobs_keeps
    apply forEach_keeps
    · intro x3 x4 x5
      apply accessFailed_keeps
      exact x5
    · apply setXlat_keeps
      exact h2
  · apply doAtsCompletion_keeps
    exact hs

theorem doHostCompletion_keeps {a : State} (tag : Nat) (kind : Nat) (data : List Byte) {s : State} (hs : Keeps a s) :
    Keeps a (doHostCompletion tag kind data s) := by
  unfold doHostCompletion
  split
  · apply unexpected_keeps
    exact hs
  · extract_lets +onlyGivenNames -underBinder s0
    have h1 : Keeps a s0 := by
      unfold s0
      refine keeps_ite ?_ ?_
      · apply poisonedTlp_keeps
        exact hs
      · exact hs
    clear_value s0
    split
    · apply doDescriptorFetched_keeps
      exact h1
    · extract_lets +onlyGivenNames -underBinder s2
      have h3 : Keeps a s2 := by
        unfold s2
        apply retireReq_keeps
        exact h1
      clear_value s2
      extract_lets +onlyGivenNames -underBinder s4
      have h5 : Keeps a s4 := by
        unfold s4
        refine keeps_ite ?_ ?_
        · apply setPiece_keeps
          exact h3
        · refine keeps_ite ?_ ?_
          · apply setPiece_keeps
            exact h3
          · apply accessFailed_keeps
            apply noteRefused_keeps
            exact h3
      clear_value s4
      apply settleJobs_keeps
      exact h5
    · refine keeps_ite ?_ ?_
      · exact h1
      · apply atsFailed_keeps
        exact h1
    · apply retireReq_keeps
      exact h1

theorem startInval_keeps {a : State} (i : Inval) {s : State} (hs : Keeps a s) :
    Keeps a (startInval i s) := by
  unfold startInval
  extract_lets +onlyGivenNames -underBinder s0
  have h1 : Keeps a s0 := by
    unfold s0
    apply setXlat_keeps
    exact hs
  clear_value s0
  extract_lets +onlyGivenNames -underBinder s2
  clear_value s2
  extract_lets +onlyGivenNames -underBinder s3
  have h4 : Keeps a s3 := by
    unfold s3
    apply setXlat_keeps
    exact h1
  clear_value s3
  extract_lets +onlyGivenNames -underBinder s5
  clear_value s5
  apply forEach_keeps
  · intro x6 x7 x8
    apply watchRead_keeps
    apply setB_keeps
    apply releaseWatch_keeps
    exact x8
  · exact h4

theorem addInval_keeps {a : State} (i : Inval) {s : State} (hs : Keeps a s) :
    Keeps a (addInval i s) := by
  unfold addInval
  extract_lets +onlyGivenNames -underBinder s0
  clear_value s0
  extract_lets +onlyGivenNames -underBinder s1
  have h2 : Keeps a s1 := by
    unfold s1
    apply setXlat_keeps
    exact hs
  clear_value s1
  refine keeps_ite ?_ ?_
  · apply startInval_keeps
    exact h2
  · apply setXlat_keeps
    exact h2

theorem doAtsInvalidate_keeps {a : State} (fn : Nat) (pasid : Option Nat) (lo : Nat) (pages : Option Nat) (itag : Nat) {s : State} (hs : Keeps a s) :
    Keeps a (doAtsInvalidate fn pasid lo pages itag s) := by
  unfold doAtsInvalidate
  apply addInval_keeps
  exact hs

theorem doInvalidate_keeps {a : State} (g : Nat) (k : Nat) {s : State} (hs : Keeps a s) :
    Keeps a (doInvalidate g k s) := by
  unfold doInvalidate
  split
  · exact hs
  · refine keeps_ite ?_ ?_
    · exact hs
    · extract_lets +onlyGivenNames -underBinder s0
      clear_value s0
      extract_lets +onlyGivenNames -underBinder s1
      clear_value s1
      refine keeps_ite ?_ ?_
      · apply failDesc_keeps
        exact hs
      · apply addInval_keeps
        exact hs

theorem endInval_keeps {a : State} (i : Inval) {s : State} (hs : Keeps a s) :
    Keeps a (endInval i s) := by
  unfold endInval
  extract_lets +onlyGivenNames -underBinder s0
  have h1 : Keeps a s0 := by
    unfold s0
    apply setXlat_keeps
    exact hs
  clear_value s0
  extract_lets +onlyGivenNames -underBinder s2
  have h3 : Keeps a s2 := by
    unfold s2
    apply bump_keeps
    exact h1
  clear_value s2
  extract_lets +onlyGivenNames -underBinder s4
  have h5 : Keeps a s4 := by
    unfold s4
    split
    · apply emit_keeps
      exact h3
    · exact h3
  clear_value s4
  extract_lets +onlyGivenNames -underBinder s6
  have h7 : Keeps a s6 := by
    unfold s6
    split
    · apply completeDesc_keeps
      exact h5
    · exact h5
  clear_value s6
  split
  · apply startInval_keeps
    apply setXlat_keeps
    exact h7
  · exact h7

theorem doInvalComplete_keeps {a : State} (id : Nat) {s : State} (hs : Keeps a s) :
    Keeps a (doInvalComplete id s) := by
  unfold doInvalComplete
  split
  · refine keeps_ite ?_ ?_
    · exact hs
    · apply endInval_keeps
      exact hs
  · exact hs

theorem doInvalDrainAbandon_keeps {a : State} (id : Nat) {s : State} (hs : Keeps a s) :
    Keeps a (doInvalDrainAbandon id s) := by
  unfold doInvalDrainAbandon
  split
  · exact hs
  · refine keeps_ite ?_ ?_
    · exact hs
    · extract_lets +onlyGivenNames -underBinder s0
      clear_value s0
      extract_lets +onlyGivenNames -underBinder s1
      have h2 : Keeps a s1 := by
        unfold s1
        apply forEach_keeps
        · intro x3 x4 x5
          extract_lets +onlyGivenNames -underBinder s6
          have h7 : Keeps a s6 := by
            unfold s6
            apply bumpSat_keeps
            apply entomb_keeps
            exact x5
          clear_value s6
          apply accessFailed_keeps
          apply trnLog_keeps
          apply logRec_keeps
          exact h7
        · exact hs
      clear_value s1
      apply settleJobs_keeps
      exact h2

theorem doCopy_keeps {a : State} (g : Nat) (k : Nat) (t : Nat) {s : State} (hs : Keeps a s) :
    Keeps a (doCopy g k t s) := by
  unfold doCopy
  split
  · exact hs
  · split
    · apply settleJob_keeps
      exact hs
    · extract_lets +onlyGivenNames -underBinder s0
      clear_value s0
      extract_lets +onlyGivenNames -underBinder s1
      clear_value s1
      split
      extract_lets +onlyGivenNames -underBinder s2
      clear_value s2
      extract_lets +onlyGivenNames -underBinder s3
      clear_value s3
      extract_lets +onlyGivenNames -underBinder s4
      clear_value s4
      refine keeps_ite ?_ ?_
      · apply failDesc_keeps
        exact hs
      · refine keeps_ite ?_ ?_
        · exact hs
        · extract_lets +onlyGivenNames -underBinder s5
          clear_value s5
          apply settleJob_keeps
          apply addJob_keeps
          exact hs

theorem doAtomic_keeps {a : State} (g : Nat) (k : Nat) {s : State} (hs : Keeps a s) :
    Keeps a (doAtomic g k s) := by
  unfold doAtomic
  split
  · exact hs
  · refine keeps_ite ?_ ?_
    · exact hs
    · extract_lets +onlyGivenNames -underBinder s0
      clear_value s0
      extract_lets +onlyGivenNames -underBinder s1
      clear_value s1
      extract_lets +onlyGivenNames -underBinder s2
      clear_value s2
      extract_lets +onlyGivenNames -underBinder s3
      clear_value s3
      extract_lets +onlyGivenNames -underBinder s4
      clear_value s4
      split
      · refine keeps_ite ?_ ?_
        · apply failDesc_keeps
          exact hs
        · apply fabricSend_keeps
          exact hs
      · extract_lets +onlyGivenNames -underBinder s5
        clear_value s5
        refine keeps_ite ?_ ?_
        · apply failDesc_keeps
          exact hs
        · extract_lets +onlyGivenNames -underBinder s6
          clear_value s6
          apply homeRequest_keeps
          exact hs

end Sys2Proof.Machine
end

