-- ==== Sys2Proof/Laws/KeepsSyrel.lean ====
section
/-! SUPPORT. Sys2Proof/Laws/KeepsSyrel.lean: every operation of Machine/Syrel.lean keeps what `Keeps` says. -/

namespace Sys2Proof.Machine

open Sys2Proof

theorem noteTwin_keeps {a : State} {s : State} (hs : Keeps a s) :
    Keeps a (noteTwin s) := by
  unfold noteTwin
  refine keeps_ite ?_ ?_
  · refine keeps_ite ?_ ?_
    · exact hs
    · apply setSyr_keeps
      exact hs
  · apply setSyr_keeps
    exact hs

theorem routeIn_keeps {a : State} (p : Nat) (k : Pkt) {s : State} (hs : Keeps a s) :
    Keeps a (routeIn p k s) := by
  unfold routeIn
  extract_lets +onlyGivenNames -underBinder s0
  have h1 : Keeps a s0 := by
    unfold s0
    refine keeps_ite ?_ ?_
    · apply logRec_keeps
      exact hs
    · exact hs
  clear_value s0
  extract_lets +onlyGivenNames -underBinder s2
  refine keeps_ite ?_ ?_
  · apply deliver_keeps
    exact h1
  · apply routePkt_keeps
    exact h1

theorem routeLeft_keeps {a : State} (p : Nat) (c : Cell) {s : State} (hs : Keeps a s) :
    Keeps a (routeLeft p c s) := by
  unfold routeLeft
  split
  · refine keeps_ite ?_ ?_
    · apply bumpSat_keeps
      exact hs
    · apply routeIn_keeps
      exact hs
  · exact hs

theorem sendElse_keeps {a : State} (d : Nat) (k : Pkt) {s : State} (hs : Keeps a s) :
    Keeps a (sendElse d k s) := by
  unfold sendElse
  refine keeps_ite ?_ ?_
  · refine keeps_ite ?_ ?_
    · apply setSyr_keeps
      exact hs
    · apply bounce_keeps
      exact hs
  · apply sendDir_keeps
    exact hs

theorem takePortDown_keeps {a : State} (p : Nat) {s : State} (hs : Keeps a s) :
    Keeps a (takePortDown p s) := by
  unfold takePortDown
  refine keeps_ite ?_ ?_
  · exact hs
  · extract_lets +onlyGivenNames -underBinder s0
    clear_value s0
    extract_lets +onlyGivenNames -underBinder s1
    have h2 : Keeps a s1 := by
      unfold s1
      apply setB_keeps
      apply bumpSat_keeps
      apply wr_keeps
      apply clrB_keeps
      apply clrB_keeps
      exact hs
    clear_value s1
    extract_lets +onlyGivenNames -underBinder s3
    have h4 : Keeps a s3 := by
      unfold s3
      apply setPort_keeps
      apply dropKey_keeps
      exact h2
    clear_value s3
    extract_lets +onlyGivenNames -underBinder s5
    have h6 : Keeps a s5 := by
      unfold s5
      apply setEx_keeps
      exact h4
    clear_value s5
    apply noteTwin_keeps
    apply forEach_keeps
    · intro x7 x8 x9
      apply routeLeft_keeps
      exact x9
    · apply forEach_keeps
      · intro x10 x11 x12
        apply sendElse_keeps
        exact x12
      · exact h6

theorem sendAck_keeps {a : State} (p : Nat) {s : State} (hs : Keeps a s) :
    Keeps a (sendAck p s) := by
  unfold sendAck
  apply emit_keeps
  exact hs

theorem replay_keeps {a : State} (p : Nat) {s : State} (hs : Keeps a s) :
    Keeps a (replay p s) := by
  unfold replay
  extract_lets +onlyGivenNames -underBinder s0
  clear_value s0
  refine keeps_ite ?_ ?_
  · exact hs
  · extract_lets +onlyGivenNames -underBinder s1
    have h2 : Keeps a s1 := by
      unfold s1
      apply count_keeps
      apply bumpSat_keeps
      exact hs
    clear_value s1
    refine keeps_ite ?_ ?_
    · apply takePortDown_keeps
      exact h2
    · extract_lets +onlyGivenNames -underBinder s3
      have h4 : Keeps a s3 := by
        unfold s3
        apply setPort_keeps
        exact h2
      clear_value s3
      apply forEach_keeps
      · intro x5 x6 x7
        apply emit_keeps
        exact x7
      · exact h4

theorem doCodewordRx_keeps {a : State} (p : Nat) (fec : Nat) (cseq : Nat) (ack : Nat) (nak : Bool) (cells : List Cell) {s : State} (hs : Keeps a s) :
    Keeps a (doCodewordRx p fec cseq ack nak cells s) := by
  unfold doCodewordRx
  refine keeps_ite ?_ ?_
  · exact hs
  · extract_lets +onlyGivenNames -underBinder s0
    have h1 : Keeps a s0 := by
      unfold s0
      refine keeps_ite ?_ ?_
      · apply noteWake_keeps
        exact hs
      · exact hs
    clear_value s0
    refine keeps_ite ?_ ?_
    · apply sendAck_keeps
      apply setPort_keeps
      exact h1
    · extract_lets +onlyGivenNames -underBinder s2
      have h3 : Keeps a s2 := by
        unfold s2
        refine keeps_ite ?_ ?_
        · apply bumpSat_keeps
          exact h1
        · exact h1
      clear_value s2
      extract_lets +onlyGivenNames -underBinder s4
      have h5 : Keeps a s4 := by
        unfold s4
        apply count_keeps
        exact h3
      clear_value s4
      extract_lets +onlyGivenNames -underBinder s6
      clear_value s6
      extract_lets +onlyGivenNames -underBinder s7
      clear_value s7
      extract_lets +onlyGivenNames -underBinder s8
      have h9 : Keeps a s8 := by
        unfold s8
        apply setPort_keeps
        exact h5
      clear_value s8
      refine keeps_ite ?_ ?_
      · apply takePortDown_keeps
        exact h9
      · extract_lets +onlyGivenNames -underBinder s10
        have h11 : Keeps a s10 := by
          unfold s10
          refine keeps_ite ?_ ?_
          · apply replay_keeps
            exact h9
          · exact h9
        clear_value s10
        apply pumpPort_keeps
        apply sendAck_keeps
        exact h11

theorem doPortSignalLoss_keeps {a : State} (p : Nat) {s : State} (hs : Keeps a s) :
    Keeps a (doPortSignalLoss p s) := by
  unfold doPortSignalLoss
  apply takePortDown_keeps
  exact hs

theorem popCell_keeps {a : State} (p : Nat) {s : State} (hs : Keeps a s) :
    Keeps a (popCell p s) := by
  unfold popCell
  apply setPort_keeps
  exact hs

theorem doCreditCell_keeps {a : State} (p : Nat) {s : State} (hs : Keeps a s) :
    Keeps a (doCreditCell p s) := by
  unfold doCreditCell
  split
  · apply pumpPort_keeps
    apply setPort_keeps
    apply popCell_keeps
    exact hs
  · exact hs

theorem doAuthCell_keeps {a : State} (p : Nat) {s : State} (hs : Keeps a s) :
    Keeps a (doAuthCell p s) := by
  unfold doAuthCell
  extract_lets +onlyGivenNames -underBinder s0
  clear_value s0
  extract_lets +onlyGivenNames -underBinder s1
  clear_value s1
  split
  · exact hs
  · extract_lets +onlyGivenNames -underBinder s2
    clear_value s2
    extract_lets +onlyGivenNames -underBinder s3
    clear_value s3
    refine keeps_ite ?_ ?_
    · apply setPort_keeps
      exact hs
    · apply takePortDown_keeps
      apply setB_keeps
      apply bumpSat_keeps
      apply setPort_keeps
      exact hs

theorem releaseDir_keeps {a : State} (d : Nat) {s : State} (hs : Keeps a s) :
    Keeps a (releaseDir d s) := by
  unfold releaseDir
  extract_lets +onlyGivenNames -underBinder s0
  clear_value s0
  extract_lets +onlyGivenNames -underBinder s1
  have h2 : Keeps a s1 := by
    unfold s1
    apply setSyr_keeps
    exact hs
  clear_value s1
  apply forEach_keeps
  · intro x3 x4 x5
    refine keeps_ite ?_ ?_
    · apply bounce_keeps
      exact x5
    · apply sendDir_keeps
      exact x5
  · exact h2

theorem doPortTrainDone_keeps {a : State} (p : Nat) (lanes : Nat) (z2 : Nat) (twin : Bool) (q : Nat) (secureOk : Bool) (delay : Nat) {s : State} (hs : Keeps a s) :
    Keeps a (doPortTrainDone p lanes z2 twin q secureOk delay s) := by
  unfold doPortTrainDone
  refine keeps_ite ?_ ?_
  · exact hs
  · refine keeps_ite ?_ ?_
    · apply addEntry_keeps
      apply setPort_keeps
      apply wr_keeps
      exact hs
    · refine keeps_ite ?_ ?_
      · exact hs
      · extract_lets +onlyGivenNames -underBinder s0
        clear_value s0
        extract_lets +onlyGivenNames -underBinder s1
        have h2 : Keeps a s1 := by
          unfold s1
          apply setPort_keeps
          apply setB_keeps
          apply wr_keeps
          apply wrb_keeps
          apply wr_keeps
          apply wr_keeps
          exact hs
        clear_value s1
        refine keeps_ite ?_ ?_
        · apply addEntry_keeps
          apply setB_keeps
          apply setB_keeps
          exact h2
        · extract_lets +onlyGivenNames -underBinder s3
          have h4 : Keeps a s3 := by
            unfold s3
            refine keeps_ite ?_ ?_
            · apply setB_keeps
              exact h2
            · exact h2
          clear_value s3
          extract_lets +onlyGivenNames -underBinder s5
          have h6 : Keeps a s5 := by
            unfold s5
            refine keeps_ite ?_ ?_
            · apply addEntry_keeps
              exact h4
            · exact h4
          clear_value s5
          extract_lets +onlyGivenNames -underBinder s7
          have h8 : Keeps a s7 := by
            unfold s7
            apply takeDelay_keeps
            exact h6
          clear_value s7
          extract_lets +onlyGivenNames -underBinder s9
          have h10 : Keeps a s9 := by
            unfold s9
            apply wrb_keeps
            apply setB_keeps
            apply clrB_keeps
            exact h8
          clear_value s9
          extract_lets +onlyGivenNames -underBinder s11
          have h12 : Keeps a s11 := by
            unfold s11
            refine keeps_ite ?_ ?_
            · apply newKey_keeps
              apply setPort_keeps
              exact h10
            · exact h10
          clear_value s11
          extract_lets +onlyGivenNames -underBinder s13
          have h14 : Keeps a s13 := by
            unfold s13
            apply releaseDir_keeps
            apply sendCredit_keeps
            exact h12
          clear_value s13
          refine keeps_ite ?_ ?_
          · apply flushMirror_keeps
            apply noteTwin_keeps
            exact h14
          · exact h14

theorem doSyrelPacketForward_keeps {a : State} (p : Nat) {s : State} (hs : Keeps a s) :
    Keeps a (doSyrelPacketForward p s) := by
  unfold doSyrelPacketForward
  refine keeps_ite ?_ ?_
  · exact hs
  · split
    · extract_lets +onlyGivenNames -underBinder s0
      have h1 : Keeps a s0 := by
        unfold s0
        apply popCell_keeps
        exact hs
      clear_value s0
      refine keeps_ite ?_ ?_
      · apply takePortDown_keeps
        apply setB_keeps
        apply bumpSat_keeps
        exact h1
      · apply routeIn_keeps
        apply freeCells_keeps
        exact h1
    · exact hs

theorem takeInbox_keepsO {a : State} {f : Pkt → Bool} {s : State} {m : Pkt} {t : State} (e : takeInbox f s = some (m, t))
    (h : Keeps a s) : Keeps a t := by
  unfold takeInbox at e
  repeat' split at e
  all_goals first
    | (simp at e; done)
    | (simp only [Option.some.injEq, Prod.mk.injEq] at e; rw [← e.2]; exact setSyr_keeps _ h)

theorem takeReqPkt_keepsO {a : State} {opc : Nat} {s : State} {m : Pkt} {t : State} (e : takeReqPkt opc s = some (m, t))
    (h : Keeps a s) : Keeps a t := takeInbox_keepsO e h

theorem windowGo_keeps {a : State} (r : WinReq) {s : State} (hs : Keeps a s) :
    Keeps a (windowGo r s) := by
  unfold windowGo
  split
  · exact hs
  · extract_lets +onlyGivenNames -underBinder s0
    clear_value s0
    extract_lets +onlyGivenNames -underBinder s1
    clear_value s1
    extract_lets +onlyGivenNames -underBinder s2
    have h3 : Keeps a s2 := by
      unfold s2
      apply setMesh_keeps
      exact hs
    clear_value s2
    split
    · apply fabricSend_keeps
      exact h3
    · apply fabricSend_keeps
      exact h3
    · refine keeps_ite ?_ ?_
      · apply fabricSend_keeps
        exact h3
      · apply answer_keeps
        exact h3
    · apply answer_keeps
      exact h3

theorem doFabricWindowRequest_keeps {a : State} (k : Nat) (id : Nat) (fn : Nat) (off : Nat) (op : Nat) (len : Nat) (data : List Byte) (aux : Nat) {s : State} (hs : Keeps a s) :
    Keeps a (doFabricWindowRequest k id fn off op len data aux s) := by
  unfold doFabricWindowRequest
  extract_lets +onlyGivenNames -underBinder s0
  clear_value s0
  refine keeps_ite ?_ ?_
  · exact hs
  · refine keeps_ite ?_ ?_
    · apply windowGo_keeps
      exact hs
    · apply wakePort_keeps
      apply setSyr_keeps
      exact hs

theorem releaseWindows_keeps {a : State} {s : State} (hs : Keeps a s) :
    Keeps a (releaseWindows s) := by
  unfold releaseWindows
  apply forEach_keeps
  · intro x0 x1 x2
    apply windowGo_keeps
    exact x2
  · apply setSyr_keeps
    exact hs

theorem serveRemote_keeps {a : State} (k : Pkt) (rs : List HReq) {s : State} (hs : Keeps a s) :
    Keeps a (serveRemote k rs s) := by
  unfold serveRemote
  extract_lets +onlyGivenNames -underBinder s0
  clear_value s0
  extract_lets +onlyGivenNames -underBinder s1
  have h2 : Keeps a s1 := by
    unfold s1
    apply setSyr_keeps
    exact hs
  clear_value s1
  apply forEach_keeps
  · intro x3 x4 x5
    extract_lets +onlyGivenNames -underBinder s6
    clear_value s6
    apply homeRequest_keeps
    exact x5
  · exact h2

theorem doRread_keeps {a : State} {s : State} (hs : Keeps a s) :
    Keeps a (doRread s) := by
  unfold doRread
  split
  · exact hs
  · extract_lets +onlyGivenNames -underBinder s0
    clear_value s0
    extract_lets +onlyGivenNames -underBinder s1
    clear_value s1
    extract_lets +onlyGivenNames -underBinder s2
    clear_value s2
    refine keeps_ite ?_ ?_
    · apply syrAnswer_keeps
      refine takeReqPkt_keepsO (e := by assumption) ?_
      exact hs
    · apply serveRemote_keeps
      refine takeReqPkt_keepsO (e := by assumption) ?_
      exact hs

theorem doRwrite_keeps {a : State} {s : State} (hs : Keeps a s) :
    Keeps a (doRwrite s) := by
  unfold doRwrite
  split
  · exact hs
  · extract_lets +onlyGivenNames -underBinder s0
    clear_value s0
    extract_lets +onlyGivenNames -underBinder s1
    clear_value s1
    extract_lets +onlyGivenNames -underBinder s2
    clear_value s2
    refine keeps_ite ?_ ?_
    · apply syrAnswer_keeps
      refine takeReqPkt_keepsO (e := by assumption) ?_
      exact hs
    · apply serveRemote_keeps
      refine takeReqPkt_keepsO (e := by assumption) ?_
      exact hs

theorem doRatomic_keeps {a : State} {s : State} (hs : Keeps a s) :
    Keeps a (doRatomic s) := by
  unfold doRatomic
  split
  · exact hs
  · extract_lets +onlyGivenNames -underBinder s0
    clear_value s0
    extract_lets +onlyGivenNames -underBinder s1
    clear_value s1
    extract_lets +onlyGivenNames -underBinder s2
    clear_value s2
    refine keeps_ite ?_ ?_
    · apply syrAnswer_keeps
      refine takeReqPkt_keepsO (e := by assumption) ?_
      exact hs
    · apply serveRemote_keeps
      refine takeReqPkt_keepsO (e := by assumption) ?_
      exact hs

theorem takeResponse_keeps {a : State} (opc : Nat) {s : State} (hs : Keeps a s) :
    Keeps a (takeResponse opc s) := by
  unfold takeResponse
  split
  · exact hs
  · split
    · split
      · extract_lets +onlyGivenNames -underBinder s0
        have h1 : Keeps a s0 := by
          unfold s0
          apply retireReq_keeps
          refine takeInbox_keepsO (e := by assumption) ?_
          exact hs
        clear_value s0
        split
        · apply settleJobs_keeps
          apply answerOut_keeps
          exact h1
        · exact h1
      · refine takeInbox_keepsO (e := by assumption) ?_
        exact hs
    · refine keeps_ite ?_ ?_
      · apply bump_keeps
        refine takeInbox_keepsO (e := by assumption) ?_
        exact hs
      · refine takeInbox_keepsO (e := by assumption) ?_
        exact hs

theorem doSyrHoldExpire_keeps {a : State} (d : Nat) {s : State} (hs : Keeps a s) :
    Keeps a (doSyrHoldExpire d s) := by
  unfold doSyrHoldExpire
  extract_lets +onlyGivenNames -underBinder s0
  clear_value s0
  refine keeps_ite ?_ ?_
  · exact hs
  · extract_lets +onlyGivenNames -underBinder s1
    have h2 : Keeps a s1 := by
      unfold s1
      apply setSyr_keeps
      exact hs
    clear_value s1
    apply forEach_keeps
    · intro x3 x4 x5
      apply bounce_keeps
      exact x5
    · apply setB_keeps
      exact h2

theorem driveAlive_keeps {a : State} (z0 : Nat) (v : Nat) {s : State} (hs : Keeps a s) :
    Keeps a (driveAlive z0 v s) := by
  unfold driveAlive
  apply emit_keeps
  exact hs

theorem releasePins_keeps {a : State} {s : State} (hs : Keeps a s) :
    Keeps a (releasePins s) := by
  unfold releasePins
  extract_lets +onlyGivenNames -underBinder s0
  have h1 : Keeps a s0 := by
    unfold s0
    apply forEach_keeps
    · intro x2 x3 x4
      apply driveAlive_keeps
      exact x4
    · exact hs
  clear_value s0
  apply forEach_keeps
  · intro x5 x6 x7
    apply takePortDown_keeps
    exact x7
  · apply setB_keeps
    apply wr_keeps
    exact h1

theorem doHubAliveRelease_keeps {a : State} (clk : Bool) {s : State} (hs : Keeps a s) :
    Keeps a (doHubAliveRelease clk s) := by
  unfold doHubAliveRelease
  apply releasePins_keeps
  refine keeps_ite ?_ ?_
  · apply clrB_keeps
    exact hs
  · exact hs

theorem doSyrFence_keeps {a : State} {s : State} (hs : Keeps a s) :
    Keeps a (doSyrFence s) := by
  unfold doSyrFence
  apply releasePins_keeps
  exact hs

theorem joinAxis_keeps {a : State} (z0 : Nat) {s : State} (hs : Keeps a s) :
    Keeps a (joinAxis z0 s) := by
  unfold joinAxis
  extract_lets +onlyGivenNames -underBinder s0
  have h1 : Keeps a s0 := by
    unfold s0
    apply driveAlive_keeps
    apply clrB_keeps
    apply wr_keeps
    exact hs
  clear_value s0
  apply forEach_keeps
  · intro x2 x3 x4
    apply setPort_keeps
    exact x4
  · exact h1

theorem doJoin_keeps {a : State} (axes : Nat) {s : State} (hs : Keeps a s) :
    Keeps a (doJoin axes s) := by
  unfold doJoin
  refine keeps_ite ?_ ?_
  · exact hs
  · apply forEach_keeps
    · intro x0 x1 x2
      refine keeps_ite ?_ ?_
      · apply joinAxis_keeps
        exact x2
      · exact x2
    · exact hs

end Sys2Proof.Machine
end

