-- ==== Sys2Proof/Laws/KeepsCollective.lean ====
section
/-! SUPPORT. Sys2Proof/Laws/KeepsCollective.lean: every operation of Machine/Collective.lean keeps what `Keeps` says. -/

namespace Sys2Proof.Machine

open Sys2Proof

theorem doCollSetup_keeps {a : State} (g : Nat) (k : Nat) {s : State} (hs : Keeps a s) :
    Keeps a (doCollSetup g k s) := by
  unfold doCollSetup
  split
  · exact hs
  · extract_lets +onlyGivenNames -underBinder s0
    clear_value s0
    extract_lets +onlyGivenNames -underBinder s1
    clear_value s1
    extract_lets +onlyGivenNames -underBinder s2
    clear_value s2
    extract_lets +onlyGivenNames -underBinder s3
    clear_value s3
    refine keeps_ite ?_ ?_
    · apply failDesc_keeps
      exact hs
    · refine keeps_ite ?_ ?_
      · apply claim_keeps
        exact hs
      · extract_lets +onlyGivenNames -underBinder s4
        have h5 : Keeps a s4.2.2 := by
          unfold s4
          apply homeGet_keeps
          exact hs
        clear_value s4
        extract_lets +onlyGivenNames -underBinder s6
        clear_value s6
        refine keeps_ite ?_ ?_
        · apply failDesc_keeps
          exact h5
        · extract_lets +onlyGivenNames -underBinder s7
          clear_value s7
          extract_lets +onlyGivenNames -underBinder s8
          clear_value s8
          extract_lets +onlyGivenNames -underBinder s9
          have h10 : Keeps a s9 := by
            unfold s9
            apply setSyr_keeps
            exact h5
          clear_value s9
          apply completeDesc_keeps
          apply wr_keeps
          apply wrb_keeps
          exact h10

theorem endCollFiring_keeps {a : State} (id : Nat) (st : Status) {s : State} (hs : Keeps a s) :
    Keeps a (endCollFiring id st s) := by
  unfold endCollFiring
  split
  · apply endIssued_keeps
    exact hs
  · exact hs

theorem dropRun_keeps {a : State} (n : Nat) (r : CollRun) (st : Status) {s : State} (hs : Keeps a s) :
    Keeps a (dropRun n r st s) := by
  unfold dropRun
  extract_lets +onlyGivenNames -underBinder s0
  have h1 : Keeps a s0 := by
    unfold s0
    apply setSyr_keeps
    exact hs
  clear_value s0
  extract_lets +onlyGivenNames -underBinder s2
  have h3 : Keeps a s2 := by
    unfold s2
    apply wr_keeps
    apply clrB_keeps
    apply wr_keeps
    exact h1
  clear_value s2
  apply endCollFiring_keeps
  exact h3

theorem sendTree_keeps {a : State} (d : Nat) (opc : Nat) (n : Nat) (c : Coll) (seq : Nat) (block : Nat) (st : Status) (data : List Byte) {s : State} (hs : Keeps a s) :
    Keeps a (sendTree d opc n c seq block st data s) := by
  unfold sendTree
  apply sendDir_keeps
  exact hs

theorem failColl_keeps {a : State} (n : Nat) (st : Status) (skip : Option Nat) {s : State} (hs : Keeps a s) :
    Keeps a (failColl n st skip s) := by
  unfold failColl
  split
  · extract_lets +onlyGivenNames -underBinder s0
    clear_value s0
    extract_lets +onlyGivenNames -underBinder s1
    have h2 : Keeps a s1 := by
      unfold s1
      apply forEach_keeps
      · intro x3 x4 x5
        apply sendTree_keeps
        exact x5
      · exact hs
    clear_value s1
    apply dropRun_keeps
    apply setB_keeps
    exact h2
  · exact hs

theorem setCollRun_keeps {a : State} (n : Nat) (f : CollRun → CollRun) {s : State} (hs : Keeps a s) :
    Keeps a (setCollRun n f s) := by
  unfold setCollRun
  apply setSyr_keeps
  exact hs

theorem landBlock_keeps {a : State} (n : Nat) (k : Nat) (c : Coll) (seq : Nat) (data : List Byte) {s : State} (hs : Keeps a s) :
    Keeps a (landBlock n k c seq data s) := by
  unfold landBlock
  extract_lets +onlyGivenNames -underBinder s0
  have h1 : Keeps a s0.2 := by
    unfold s0
    apply homePut_keeps
    exact hs
  clear_value s0
  refine keeps_ite ?_ ?_
  · apply failColl_keeps
    exact h1
  · extract_lets +onlyGivenNames -underBinder s2
    have h3 : Keeps a s2 := by
      unfold s2
      apply forEach_keeps
      · intro x4 x5 x6
        apply sendTree_keeps
        exact x6
      · exact h1
    clear_value s2
    apply setCollRun_keeps
    exact h3

theorem claimBlock_keeps {a : State} (c : Coll) (k : Nat) {s : State} (hs : Keeps a s) :
    Keeps a (claimBlock c k s) := by
  unfold claimBlock
  apply claim_keeps
  apply claim_keeps
  exact hs

theorem upBlock_keeps {a : State} (n : Nat) (c : Coll) (r : CollRun) (kids : List (List Byte)) {s : State} (hs : Keeps a s) :
    Keeps a (upBlock n c r kids s) := by
  unfold upBlock
  extract_lets +onlyGivenNames -underBinder s0
  clear_value s0
  extract_lets +onlyGivenNames -underBinder s1
  have h2 : Keeps a s1.2.2 := by
    unfold s1
    apply homeGet_keeps
    exact hs
  clear_value s1
  refine keeps_ite ?_ ?_
  · apply failColl_keeps
    exact h2
  · extract_lets +onlyGivenNames -underBinder s3
    clear_value s3
    extract_lets +onlyGivenNames -underBinder s4
    clear_value s4
    extract_lets +onlyGivenNames -underBinder s5
    have h6 : Keeps a s5 := by
      unfold s5
      apply setCollRun_keeps
      exact h2
    clear_value s5
    refine keeps_ite ?_ ?_
    · apply landBlock_keeps
      exact h6
    · apply sendTree_keeps
      exact h6

theorem finishColl_keeps {a : State} (n : Nat) (c : Coll) (r : CollRun) {s : State} (hs : Keeps a s) :
    Keeps a (finishColl n c r s) := by
  unfold finishColl
  extract_lets +onlyGivenNames -underBinder s0
  have h1 : Keeps a s0 := by
    unfold s0
    split
    · apply arrivalAdd_keeps
      exact hs
    · exact hs
  clear_value s0
  apply dropRun_keeps
  exact h1

theorem advanceColl_keeps {a : State} (n : Nat) (z1 : Nat) {z2 : State} (hz2 : Keeps a z2) :
    Keeps a (advanceColl n z1 z2) := by
  induction z1 generalizing n z2 with
  | zero =>
    unfold advanceColl
    exact hz2
  | succ n ih =>
    unfold advanceColl
    split
    · refine keeps_ite ?_ ?_
      · apply finishColl_keeps
        exact hz2
      · refine keeps_ite ?_ ?_
        · apply failColl_keeps
          exact hz2
        · refine keeps_ite ?_ ?_
          · exact hz2
          · split
            · exact hz2
            · refine keeps_ite ?_ ?_
              · apply claimBlock_keeps
                exact hz2
              · apply ih
                apply upBlock_keeps
                exact hz2
    · exact hz2

theorem advanceColls_keeps {a : State} {s : State} (hs : Keeps a s) :
    Keeps a (advanceColls s) := by
  unfold advanceColls
  apply forEach_keeps
  · intro x0 x1 x2
    apply advanceColl_keeps
    exact x2
  · exact hs

theorem launchColl_keeps {a : State} (f : Firing) (n : Nat) (seq : Nat) {s : State} (hs : Keeps a s) :
    Keeps a (launchColl f n seq s) := by
  unfold launchColl
  extract_lets +onlyGivenNames -underBinder s0
  clear_value s0
  split
  · apply endIssued_keeps
    exact hs
  · extract_lets +onlyGivenNames -underBinder s1
    have h2 : Keeps a s1 := by
      unfold s1
      apply setSyr_keeps
      exact hs
    clear_value s1
    apply advanceColls_keeps
    apply setB_keeps
    exact h2

theorem doRedUp_keeps {a : State} {s : State} (hs : Keeps a s) :
    Keeps a (doRedUp s) := by
  unfold doRedUp
  split
  · exact hs
  · split
    · split
      · refine keeps_ite ?_ ?_
        · refine takeInbox_keepsO (e := by assumption) ?_
          exact hs
        · apply advanceColls_keeps
          apply setCollRun_keeps
          refine takeInbox_keepsO (e := by assumption) ?_
          exact hs
      · refine takeInbox_keepsO (e := by assumption) ?_
        exact hs
    · refine takeInbox_keepsO (e := by assumption) ?_
      exact hs

theorem doRedDown_keeps {a : State} {s : State} (hs : Keeps a s) :
    Keeps a (doRedDown s) := by
  unfold doRedDown
  split
  · exact hs
  · split
    · refine keeps_ite ?_ ?_
      · refine takeInbox_keepsO (e := by assumption) ?_
        exact hs
      · refine keeps_ite ?_ ?_
        · apply failColl_keeps
          refine takeInbox_keepsO (e := by assumption) ?_
          exact hs
        · refine keeps_ite ?_ ?_
          · refine takeInbox_keepsO (e := by assumption) ?_
            exact hs
          · refine keeps_ite ?_ ?_
            · apply claim_keeps
              exact hs
            · apply advanceColls_keeps
              apply landBlock_keeps
              refine takeInbox_keepsO (e := by assumption) ?_
              exact hs
    · refine takeInbox_keepsO (e := by assumption) ?_
      exact hs

theorem doCollTimeout_keeps {a : State} (n : Nat) {s : State} (hs : Keeps a s) :
    Keeps a (doCollTimeout n s) := by
  unfold doCollTimeout
  split
  · refine keeps_ite ?_ ?_
    · apply failColl_keeps
      exact hs
    · exact hs
  · exact hs

end Sys2Proof.Machine
end

