-- ==== Sys2Proof/Laws/KeepsCounters.lean ====
section
/-! SUPPORT. Sys2Proof/Laws/KeepsCounters.lean: every operation of Machine/Counters.lean keeps what `Keeps` says. -/

namespace Sys2Proof.Machine

open Sys2Proof

theorem setCnt_keeps {a : State} (f : Cnt → Cnt) {s : State} (hs : Keeps a s) :
    Keeps a (setCnt f s) := by
  unfold setCnt
  refine Keeps.same (s := s) ?_ rfl rfl rfl rfl rfl rfl rfl rfl rfl
  exact hs

theorem sampleOf_keeps {a : State} (u : Nat) {s : State} (hs : Keeps a s) :
    Keeps a (sampleOf u s).2.2 := by
  unfold sampleOf
  refine keeps_ite_snd2 ?_ ?_
  · refine keeps_mk2 ?_
    exact hs
  · split
    · refine keeps_mk2 ?_
      exact hs
    · refine keeps_mk2 ?_
      apply drewN_keeps
      exact hs

theorem doCounterOverflow_keeps {a : State} {s : State} (hs : Keeps a s) :
    Keeps a (doCounterOverflow s) := by
  unfold doCounterOverflow
  split
  · exact hs
  · extract_lets +onlyGivenNames -underBinder s0
    clear_value s0
    extract_lets +onlyGivenNames -underBinder s1
    have h2 : Keeps a s1 := by
      unfold s1
      apply setCnt_keeps
      apply wr_keeps
      exact hs
    clear_value s1
    refine keeps_ite ?_ ?_
    · exact h2
    · extract_lets +onlyGivenNames -underBinder s3
      have h4 : Keeps a s3.2.2 := by
        unfold s3
        apply sampleOf_keeps
        exact h2
      clear_value s3
      apply sendMsix_keeps
      apply wr_keeps
      apply wr_keeps
      apply wr_keeps
      apply wr_keeps
      exact h4

theorem freezeSnap_keeps {a : State} (id : Nat) (n : Nat) (arg : Nat) (mark : Nat) (firing : Nat) {s : State} (hs : Keeps a s) :
    Keeps a (freezeSnap id n arg mark firing s) := by
  unfold freezeSnap
  extract_lets +onlyGivenNames -underBinder s0
  clear_value s0
  apply setCnt_keeps
  exact hs

theorem doSnapshotWritten_keeps {a : State} {s : State} (hs : Keeps a s) :
    Keeps a (doSnapshotWritten s) := by
  unfold doSnapshotWritten
  split
  · exact hs
  · refine keeps_ite ?_ ?_
    · apply claim_keeps
      exact hs
    · extract_lets +onlyGivenNames -underBinder s0
      have h1 : Keeps a s0.2 := by
        unfold s0
        apply homePut_keeps
        exact hs
      clear_value s0
      extract_lets +onlyGivenNames -underBinder s2
      have h3 : Keeps a s2.2 := by
        unfold s2
        apply homePut_keeps
        exact h1
      clear_value s2
      extract_lets +onlyGivenNames -underBinder s4
      have h5 : Keeps a s4 := by
        unfold s4
        apply setCnt_keeps
        exact h3
      clear_value s4
      split
      · apply endIssued_keeps
        exact h5
      · exact h5

theorem zeroUnit_keeps {a : State} (u : Nat) {s : State} (hs : Keeps a s) :
    Keeps a (zeroUnit u s) := by
  unfold zeroUnit
  extract_lets +onlyGivenNames -underBinder s0
  have h1 : Keeps a s0 := by
    unfold s0
    apply setCnt_keeps
    exact hs
  clear_value s0
  apply forEach_keeps
  · intro x2 x3 x4
    apply rst_keeps
    exact x4
  · exact h1

theorem burnishCounters_keeps {a : State} (n : Nat) {s : State} (hs : Keeps a s) :
    Keeps a (burnishCounters n s) := by
  unfold burnishCounters
  apply forEach_keeps
  · intro x0 x1 x2
    apply rst_keeps
    apply rst_keeps
    apply rst_keeps
    apply zeroUnit_keeps
    exact x2
  · exact hs

end Sys2Proof.Machine
end

