-- ==== Sys2Proof/Laws/KeepsPump.lean ====
section
/-! SUPPORT. Sys2Proof/Laws/KeepsPump.lean: every operation of Machine/Pump.lean keeps what `Keeps` says. -/

namespace Sys2Proof.Machine

open Sys2Proof

theorem leave_keeps {a : State} (z0 : HeldReq) {s : State} (hs : Keeps a s) :
    Keeps a (leave z0 s) := by
  unfold leave
  refine keeps_ite ?_ ?_
  · apply hostWrote_keeps
    apply emit_keeps
    exact hs
  · split
    · extract_lets +onlyGivenNames -underBinder s0
      clear_value s0
      apply fabricGo_keeps
      exact hs
    · apply sendReq_keeps
      exact hs

theorem pumpWaiting_keeps {a : State} {s : State} (hs : Keeps a s) :
    Keeps a (pumpWaiting s) := by
  unfold pumpWaiting
  apply forEach_keeps
  · intro x0 x1 x2
    refine keeps_ite ?_ ?_
    · apply leave_keeps
      refine Keeps.same (s := x1) ?_ rfl rfl rfl rfl rfl rfl rfl rfl rfl
      exact x2
    · exact x2
  · exact hs

theorem pumpMsix_keeps {a : State} (n : Nat) {s : State} (hs : Keeps a s) :
    Keeps a (pumpMsix n s) := by
  unfold pumpMsix
  extract_lets +onlyGivenNames -underBinder s0
  clear_value s0
  apply forEach_keeps
  · intro x1 x2 x3
    apply sendMsix_keeps
    exact x3
  · refine Keeps.same (s := s) ?_ rfl rfl rfl rfl rfl rfl rfl rfl rfl
    exact hs

end Sys2Proof.Machine
end

