-- ==== Sys2Proof/Laws/KeepsFnReset.lean ====
section
/-! SUPPORT. Sys2Proof/Laws/KeepsFnReset.lean: every operation of Machine/FnReset.lean keeps what `Keeps` says. -/

namespace Sys2Proof.Machine

open Sys2Proof

theorem dropRings_keeps {a : State} (n : Nat) {s : State} (hs : Keeps a s) :
    Keeps a (dropRings n s) := by
  unfold dropRings
  extract_lets +onlyGivenNames -underBinder s0
  have h1 : Keeps a s0 := by
    unfold s0
    apply forEach_keeps
    · intro x2 x3 x4
      apply wr_keeps
      apply wr_keeps
      apply clrB_keeps
      apply releaseWatch_keeps
      exact x4
    · exact hs
  clear_value s0
  refine Keeps.same (s := s0) ?_ rfl rfl rfl rfl rfl rfl rfl rfl rfl
  exact h1

theorem dropHostTags_keeps {a : State} (n : Nat) {s : State} (hs : Keeps a s) :
    Keeps a (dropHostTags n s) := by
  unfold dropHostTags
  extract_lets +onlyGivenNames -underBinder s0
  clear_value s0
  extract_lets +onlyGivenNames -underBinder s1
  clear_value s1
  extract_lets +onlyGivenNames -underBinder s2
  have h3 : Keeps a s2 := by
    unfold s2
    apply forEach_keeps
    · intro x4 x5 x6
      apply entomb_keeps
      refine keeps_ite ?_ ?_
      · apply retireReq_keeps
        exact x6
      · exact x6
    · exact hs
  clear_value s2
  refine Keeps.same (s := s2) ?_ rfl rfl rfl rfl rfl rfl rfl rfl rfl
  exact h3

theorem dropDeviceTags_keeps {a : State} (n : Nat) {s : State} (hs : Keeps a s) :
    Keeps a (dropDeviceTags n s) := by
  unfold dropDeviceTags
  extract_lets +onlyGivenNames -underBinder s0
  clear_value s0
  apply forEach_keeps
  · intro x1 x2 x3
    apply entomb_keeps
    exact x3
  · exact hs

theorem dropLaunches_keeps {a : State} (n : Nat) {s : State} (hs : Keeps a s) :
    Keeps a (dropLaunches n s) := by
  unfold dropLaunches
  apply forEach_keeps
  · intro x0 x1 x2
    extract_lets +onlyGivenNames -underBinder s3
    have h4 : Keeps a s3 := by
      unfold s3
      apply setGrv_keeps
      exact x2
    clear_value s3
    split
    · refine keeps_ite ?_ ?_
      · apply clearRun_keeps
        exact h4
      · exact h4
    · exact h4
  · exact hs

theorem dropColls_keeps {a : State} (n : Nat) {s : State} (hs : Keeps a s) :
    Keeps a (dropColls n s) := by
  unfold dropColls
  extract_lets +onlyGivenNames -underBinder s0
  clear_value s0
  extract_lets +onlyGivenNames -underBinder s1
  have h2 : Keeps a s1 := by
    unfold s1
    refine Keeps.same (s := s) ?_ rfl rfl rfl rfl rfl rfl rfl rfl rfl
    exact hs
  clear_value s1
  extract_lets +onlyGivenNames -underBinder s3
  clear_value s3
  apply forEach_keeps
  · intro x4 x5 x6
    apply failColl_keeps
    exact x6
  · exact h2

theorem dropPrg_keeps {a : State} (n : Nat) {s : State} (hs : Keeps a s) :
    Keeps a (dropPrg n s) := by
  unfold dropPrg
  refine Keeps.same (s := s) ?_ rfl rfl rfl rfl rfl rfl rfl rfl rfl
  exact hs

theorem dropXlat_keeps {a : State} (n : Nat) {s : State} (hs : Keeps a s) :
    Keeps a (dropXlat n s) := by
  unfold dropXlat
  extract_lets +onlyGivenNames -underBinder s0
  clear_value s0
  extract_lets +onlyGivenNames -underBinder s1
  have h2 : Keeps a s1 := by
    unfold s1
    apply dropPrg_keeps
    exact hs
  clear_value s1
  refine Keeps.same (s := s1) ?_ rfl rfl rfl rfl rfl rfl rfl rfl rfl
  exact h2

theorem dropSesOps_keeps {a : State} (n : Nat) {s : State} (hs : Keeps a s) :
    Keeps a (dropSesOps n s) := by
  unfold dropSesOps
  extract_lets +onlyGivenNames -underBinder s0
  have h1 : Keeps a s0 := by
    unfold s0
    apply forEach_keeps
    · intro x2 x3 x4
      apply orphan_keeps
      exact x4
    · exact hs
  clear_value s0
  apply setSes_keeps
  exact h1

theorem dropPieces_keeps {a : State} (n : Nat) {s : State} (hs : Keeps a s) :
    Keeps a (dropPieces n s) := by
  unfold dropPieces
  apply setSyr_keeps
  exact hs

theorem silenceFn_keeps {a : State} (n : Nat) {s : State} (hs : Keeps a s) :
    Keeps a (silenceFn n s) := by
  unfold silenceFn
  extract_lets +onlyGivenNames -underBinder s0
  have h1 : Keeps a s0 := by
    unfold s0
    apply dropPieces_keeps
    exact hs
  clear_value s0
  apply dropRings_keeps
  apply dropHostTags_keeps
  apply dropXlat_keeps
  apply dropDeviceTags_keeps
  apply dropSesOps_keeps
  apply dropColls_keeps
  apply dropLaunches_keeps
  apply dropBatches_keeps
  exact h1

theorem freeCalendar_keeps {a : State} (n : Nat) {s : State} (hs : Keeps a s) :
    Keeps a (freeCalendar n s) := by
  unfold freeCalendar
  extract_lets +onlyGivenNames -underBinder s0
  clear_value s0
  extract_lets +onlyGivenNames -underBinder s1
  have h2 : Keeps a s1 := by
    unfold s1
    refine Keeps.same (s := s) ?_ rfl rfl rfl rfl rfl rfl rfl rfl rfl
    exact hs
  clear_value s1
  apply forEach_keeps
  · intro x3 x4 x5
    refine keeps_ite ?_ ?_
    · apply wr_keeps
      exact x5
    · exact x5
  · exact h2

theorem freeSessions_keeps {a : State} (n : Nat) {s : State} (hs : Keeps a s) :
    Keeps a (freeSessions n s) := by
  unfold freeSessions
  extract_lets +onlyGivenNames -underBinder s0
  clear_value s0
  extract_lets +onlyGivenNames -underBinder s1
  have h2 : Keeps a s1 := by
    unfold s1
    apply forEach_keeps
    · intro x3 x4 x5
      extract_lets +onlyGivenNames -underBinder s6
      have h7 : Keeps a s6 := by
        unfold s6
        apply dropReplica_keeps
        exact x5
      clear_value s6
      extract_lets +onlyGivenNames -underBinder s8
      have h9 : Keeps a s8 := by
        unfold s8
        refine keeps_ite ?_ ?_
        · apply tellHub_keeps
          exact h7
        · exact h7
      clear_value s8
      apply dropEnt_keeps
      exact h9
    · exact hs
  clear_value s1
  extract_lets +onlyGivenNames -underBinder s10
  have h11 : Keeps a s10 := by
    unfold s10
    apply setSes_keeps
    exact h2
  clear_value s10
  apply setMem_keeps
  · intro x12
    exact ⟨rfl, rfl⟩
  · exact h11

theorem freeFabric_keeps {a : State} (n : Nat) {s : State} (hs : Keeps a s) :
    Keeps a (freeFabric n s) := by
  unfold freeFabric
  extract_lets +onlyGivenNames -underBinder s0
  clear_value s0
  extract_lets +onlyGivenNames -underBinder s1
  have h2 : Keeps a s1 := by
    unfold s1
    apply forEach_keeps
    · intro x3 x4 x5
      apply clrB_keeps
      exact x5
    · exact hs
  clear_value s1
  extract_lets +onlyGivenNames -underBinder s6
  have h7 : Keeps a s6 := by
    unfold s6
    apply setSyr_keeps
    exact h2
  clear_value s6
  apply forEach_keeps
  · intro x8 x9 x10
    refine keeps_ite ?_ ?_
    · apply clrB_keeps
      exact x10
    · exact x10
  · exact h7

theorem resetFn_keeps {a : State} (n : Nat) {s : State} (hs : Keeps a s) :
    Keeps a (resetFn n s) := by
  unfold resetFn
  apply resetWhere_keeps
  exact hs

theorem freeObjects_keeps {a : State} (n : Nat) {s : State} (hs : Keeps a s) :
    Keeps a (freeObjects n s) := by
  unfold freeObjects
  apply freeFabric_keeps
  apply freeSessions_keeps
  apply freeCalendar_keeps
  exact hs

end Sys2Proof.Machine
end

