-- ==== Sys2Proof/Laws/KeepsBurnish.lean ====
section
/-! SUPPORT. Sys2Proof/Laws/KeepsBurnish.lean: every operation of Machine/Burnish.lean keeps what `Keeps` says. -/

namespace Sys2Proof.Machine

open Sys2Proof

theorem setSec_keeps {a : State} (f : Sec → Sec) {s : State} (hs : Keeps a s) :
    Keeps a (setSec f s) := by
  unfold setSec
  refine Keeps.same (s := s) ?_ rfl rfl rfl rfl rfl rfl rfl rfl rfl
  exact hs

theorem outsideParts_find {es : List Nat} {off : Nat} (h : es.contains (off / 2 ^ 30) = false) (j : Nat × Nat × Nat) :
    ((outsideParts es j).find? (fun j => decide (j.1 ≤ off) && decide (off < j.1 + j.2.1))).map (fun j => j.2.2) =
      if j.1 ≤ off ∧ off < j.1 + j.2.1 then some j.2.2 else none := by
  obtain ⟨lo, len, d⟩ := j
  have hparts : ∀ q ∈ outsideParts es (lo, len, d), q.2.2 = d ∧ (q.1 ≤ off ∧ off < q.1 + q.2.1 → lo ≤ off ∧ off < lo + len) := by
    intro q hq
    simp only [outsideParts] at hq
    split at hq
    · simp at hq
    · simp only [List.mem_filterMap] at hq
      obtain ⟨i, _, hi⟩ := hq
      split at hi
      · simp at hi
      · simp only [Option.some.injEq] at hi
        subst hi
        exact ⟨rfl, by dsimp only; omega⟩
  split
  · rename_i hin
    dsimp only at hin
    have hex : ∃ q ∈ outsideParts es (lo, len, d), (decide (q.1 ≤ off) && decide (off < q.1 + q.2.1)) = true := by
      have hlen : len ≠ 0 := by omega
      have h1 : lo / 2 ^ 30 ≤ off / 2 ^ 30 := Nat.div_le_div_right hin.1
      have h2 : off / 2 ^ 30 ≤ (lo + len - 1) / 2 ^ 30 := Nat.div_le_div_right (by omega)
      refine ⟨(max lo (off / 2 ^ 30 * 2 ^ 30), min (lo + len) ((off / 2 ^ 30 + 1) * 2 ^ 30) - max lo (off / 2 ^ 30 * 2 ^ 30), d), ?_, ?_⟩
      · simp only [outsideParts, if_neg hlen, List.mem_filterMap, List.mem_range]
        refine ⟨off / 2 ^ 30 - lo / 2 ^ 30, by omega, ?_⟩
        have h3 : lo / 2 ^ 30 + (off / 2 ^ 30 - lo / 2 ^ 30) = off / 2 ^ 30 := by omega
        rw [h3, h]
        simp
      · simp only [Bool.and_eq_true, decide_eq_true_eq]
        omega
    obtain ⟨q, hq, hc⟩ := hex
    cases hf : (outsideParts es (lo, len, d)).find? (fun j => decide (j.1 ≤ off) && decide (off < j.1 + j.2.1)) with
    | none => exact absurd hc (List.find?_eq_none.1 hf q hq)
    | some r => simp [(hparts r (List.mem_of_find?_eq_some hf)).1]
  · rename_i hout
    have hn : (outsideParts es (lo, len, d)).find? (fun j => decide (j.1 ≤ off) && decide (off < j.1 + j.2.1)) = none := by
      refine List.find?_eq_none.2 fun q hq hc => hout ?_
      simp only [Bool.and_eq_true, decide_eq_true_eq] at hc
      exact (hparts q hq).2 hc
    rw [hn]
    rfl

theorem outsideParts_unlisted {es : List Nat} {off : Nat} (h : es.contains (off / 2 ^ 30) = false) (js : List (Nat × Nat × Nat)) :
    ((js.flatMap (outsideParts es)).find? (fun j => decide (j.1 ≤ off) && decide (off < j.1 + j.2.1))).map (fun j => j.2.2) =
      (js.find? (fun j => decide (j.1 ≤ off) && decide (off < j.1 + j.2.1))).map (fun j => j.2.2) := by
  induction js with
  | nil => rfl
  | cons j t ih =>
    have hj := outsideParts_find h j
    simp only [List.flatMap_cons, List.find?_append, List.find?_cons]
    split at hj
    · rename_i hin
      have h1 : (decide (j.1 ≤ off) && decide (off < j.1 + j.2.1)) = true := by simpa using hin
      rw [h1]
      cases hf : (outsideParts es j).find? (fun j => decide (j.1 ≤ off) && decide (off < j.1 + j.2.1)) with
      | none => rw [hf] at hj; simp at hj
      | some r => rw [hf] at hj; simpa using hj
    · rename_i hout
      have h1 : (decide (j.1 ≤ off) && decide (off < j.1 + j.2.1)) = false := by
        simp only [Bool.and_eq_false_iff, decide_eq_false_iff_not]
        omega
      rw [h1]
      have h2 : (outsideParts es j).find? (fun j => decide (j.1 ≤ off) && decide (off < j.1 + j.2.1)) = none := by simpa using hj
      rw [h2]
      simpa using ih

theorem freeExt_keeps {a : State} (e : Nat) {s : State} (hs : Keeps a s) :
    Keeps a (freeExt e s) := by
  unfold freeExt
  apply rst_keeps
  apply rst_keeps
  apply rst_keeps
  apply rst_keeps
  apply rst_keeps
  apply rst_keeps
  exact hs

theorem dropExtLines_keeps {a : State} (es : List Nat) {s : State} (hs : Keeps a s) :
    Keeps a (dropExtLines es s) := by
  unfold dropExtLines
  apply setCoh_keeps
  apply setMem_keeps
  · intro x0
    exact ⟨rfl, rfl⟩
  · exact hs

theorem serveExts_keeps {a : State} (es : List Nat) {s : State} (hs : Keeps a s) :
    Keeps a (serveExts es s) := by
  unfold serveExts
  apply forEach_keeps
  · intro x0 x1 x2
    apply forEach_keeps
    · intro x3 x4 x5
      apply serve_keeps
      exact x5
    · exact x2
  · exact hs

theorem startBurn_keeps {a : State} (es : List Nat) (slot : Option (Nat × Nat)) {s : State} (hs : Keeps a s) :
    Keeps a (startBurn es slot s).2 := by
  unfold startBurn
  extract_lets +onlyGivenNames -underBinder s0
  clear_value s0
  extract_lets +onlyGivenNames -underBinder s1
  have h2 : Keeps a s1 := by
    unfold s1
    apply forEach_keeps
    · intro x3 x4 x5
      apply setB_keeps
      apply wr_keeps
      apply freeExt_keeps
      exact x5
    · apply dropExtLines_keeps
      apply serveExts_keeps
      exact hs
  clear_value s1
  refine keeps_mk ?_
  apply setB_keeps
  apply setSec_keeps
  exact h2

theorem burnExts_keeps {a : State} (es : List Nat) {s : State} (hs : Keeps a s) :
    Keeps a (burnExts es s).2 := by
  unfold burnExts
  extract_lets +onlyGivenNames -underBinder s0
  clear_value s0
  extract_lets +onlyGivenNames -underBinder s1
  clear_value s1
  extract_lets +onlyGivenNames -underBinder s2
  clear_value s2
  extract_lets +onlyGivenNames -underBinder s3
  clear_value s3
  extract_lets +onlyGivenNames -underBinder s4
  clear_value s4
  apply foldl_keeps_snd
  · intro x5 x6 x7
    extract_lets +onlyGivenNames -underBinder s8
    have h9 : Keeps a s8.2 := by
      unfold s8
      apply startBurn_keeps
      exact x7
    clear_value s8
    refine keeps_mk ?_
    exact h9
  · refine keeps_mk ?_
    exact hs

theorem zeroExts_keeps {a : State} (es : List Nat) {s : State} (hs : Keeps a s) : Keeps a (zeroExts es s) := by
  refine hs.trans { Keeps.refl s with mem := fun g => ⟨sorted_filter _ g.1, fun p hp => ?_⟩ }
  have hp := List.mem_filter.1 hp
  have hout : es.contains (p.1 / 2 ^ 30) = false := by simpa [inExts] using hp.2
  have hu := outsideParts_unlisted hout s.mem.junk
  have hne := g.2 p hp.1
  intro he
  apply hne
  rw [he]
  simp only [zeroExts, setMem, unlistedByte]
  revert hu
  generalize List.find? (fun j => decide (j.1 ≤ p.1) && decide (p.1 < j.1 + j.2.1)) (List.flatMap (outsideParts es) s.mem.junk) = x
  generalize List.find? (fun j => decide (j.1 ≤ p.1) && decide (p.1 < j.1 + j.2.1)) s.mem.junk = y
  intro hu
  cases x <;> cases y <;> simp_all

theorem wipeTile_keeps {a : State} (t : Nat) {s : State} (hs : Keeps a s) :
    Keeps a (wipeTile t s) := by
  unfold wipeTile
  apply clearCustom_keeps
  apply setGrv_keeps
  exact hs

theorem burnishPart_keeps {a : State} (p : Nat) {s : State} (hs : Keeps a s) :
    Keeps a (burnishPart p s).2 := by
  unfold burnishPart
  extract_lets +onlyGivenNames -underBinder s0
  clear_value s0
  refine keeps_mk ?_
  apply forEach_keeps
  · intro x1 x2 x3
    apply doSiteReset_keeps
    exact x3
  · apply forEach_keeps
    · intro x4 x5 x6
      apply wipeTile_keeps
      exact x6
    · exact hs

theorem forgetDescs_keeps {a : State} (p : Desc → Bool) {s : State} (hs : Keeps a s) :
    Keeps a (forgetDescs p s) := by
  unfold forgetDescs
  extract_lets +onlyGivenNames -underBinder s0
  clear_value s0
  extract_lets +onlyGivenNames -underBinder s1
  have h2 : Keeps a s1 := by
    unfold s1
    apply forEach_keeps
    · intro x3 x4 x5
      apply setRt_keeps
      exact x5
    · exact hs
  clear_value s1
  refine Keeps.same (s := s1) ?_ rfl rfl rfl rfl rfl rfl rfl rfl rfl
  exact h2

theorem burnishXlat_keeps {a : State} (n : Nat) {s : State} (hs : Keeps a s) :
    Keeps a (burnishXlat n s) := by
  unfold burnishXlat
  extract_lets +onlyGivenNames -underBinder s0
  clear_value s0
  extract_lets +onlyGivenNames -underBinder s1
  have h2 : Keeps a s1 := by
    unfold s1
    apply forgetDescs_keeps
    exact hs
  clear_value s1
  extract_lets +onlyGivenNames -underBinder s3
  have h4 : Keeps a s3 := by
    unfold s3
    apply dropPrg_keeps
    exact h2
  clear_value s3
  refine Keeps.same (s := s3) ?_ rfl rfl rfl rfl rfl rfl rfl rfl rfl
  exact h4

theorem burnishSesOps_keeps {a : State} (n : Nat) {s : State} (hs : Keeps a s) :
    Keeps a (burnishSesOps n s) := by
  unfold burnishSesOps
  extract_lets +onlyGivenNames -underBinder s0
  clear_value s0
  apply dropSesOps_keeps
  apply forgetDescs_keeps
  exact hs

theorem wipeLogs_keeps {a : State} (n : Nat) {s : State} (hs : Keeps a s) :
    Keeps a (wipeLogs n s) := by
  unfold wipeLogs
  extract_lets +onlyGivenNames -underBinder s0
  have h1 : Keeps a s0 := by
    unfold s0
    refine keeps_ite ?_ ?_
    · apply rst_keeps
      apply rst_keeps
      apply rst_keeps
      apply rst_keeps
      apply rst_keeps
      exact hs
    · exact hs
  clear_value s0
  extract_lets +onlyGivenNames -underBinder s2
  have h3 : Keeps a s2 := by
    unfold s2
    refine keeps_ite ?_ ?_
    · apply rst_keeps
      apply rst_keeps
      apply rst_keeps
      apply rst_keeps
      apply rst_keeps
      apply rst_keeps
      exact h1
    · exact h1
  clear_value s2
  refine keeps_ite ?_ ?_
  · apply rst_keeps
    apply rst_keeps
    apply rst_keeps
    apply rst_keeps
    apply rst_keeps
    apply rst_keeps
    apply rst_keeps
    exact h3
  · exact h3

theorem dropWatches_keeps {a : State} (n : Nat) {s : State} (hs : Keeps a s) :
    Keeps a (dropWatches n s) := by
  unfold dropWatches
  apply forEach_keeps
  · intro x0 x1 x2
    apply releaseWatch_keeps
    exact x2
  · exact hs

theorem burnishOwn_keeps {a : State} (n : Nat) {s : State} (hs : Keeps a s) :
    Keeps a (burnishOwn n s) := by
  unfold burnishOwn
  apply setSec_keeps
  apply wipeLogs_keeps
  apply burnishCounters_keeps
  apply freeObjects_keeps
  apply dropWatches_keeps
  apply burnishSesOps_keeps
  apply burnishXlat_keeps
  exact hs

theorem burnishItsPart_keeps {a : State} (n : Nat) {s : State} (hs : Keeps a s) :
    Keeps a (burnishItsPart n s).2 := by
  unfold burnishItsPart
  split
  · apply burnishPart_keeps
    exact hs
  · refine keeps_mk ?_
    exact hs

theorem burnishFn_keeps {a : State} (n : Nat) {s : State} (hs : Keeps a s) : Keeps a (burnishFn n s).2.2 := by
  unfold burnishFn
  refine keeps_mk2 ?_
  exact burnExts_keeps _ (burnishItsPart_keeps _ (burnishOwn_keeps _ hs))

theorem tdiError_keeps {a : State} (n : Nat) {s : State} (hs : Keeps a s) :
    Keeps a (tdiError n s) := by
  unfold tdiError
  refine keeps_ite ?_ ?_
  · apply burnishFn_keeps
    apply silenceFn_keeps
    apply wr_keeps
    exact hs
  · exact hs

theorem zeroise_keeps {a : State} {s : State} (hs : Keeps a s) :
    Keeps a (zeroise s).2.2 := by
  unfold zeroise
  extract_lets +onlyGivenNames -underBinder s0
  have h1 : Keeps a s0 := by
    unfold s0
    apply bumpSat_keeps
    exact hs
  clear_value s0
  extract_lets +onlyGivenNames -underBinder s2
  have h3 : Keeps a s2 := by
    unfold s2
    apply forEach_keeps
    · intro x4 x5 x6
      refine keeps_ite ?_ ?_
      · apply silenceFn_keeps
        apply wr_keeps
        exact x6
      · exact x6
    · exact h1
  clear_value s2
  extract_lets +onlyGivenNames -underBinder s7
  have h8 : Keeps a s7.2.2 := by
    unfold s7
    apply foldl_keeps_snd2
    · intro x9 x10 x11
      extract_lets +onlyGivenNames -underBinder s12
      have h13 : Keeps a s12.2.2 := by
        unfold s12
        apply burnishFn_keeps
        exact x11
      clear_value s12
      refine keeps_mk2 ?_
      exact h13
    · refine keeps_mk2 ?_
      exact h3
  clear_value s7
  extract_lets +onlyGivenNames -underBinder s14
  have h15 : Keeps a s14 := by
    unfold s14
    apply forEach_keeps
    · intro x16 x17 x18
      apply withdrawKey_keeps
      exact x18
    · apply forEach_keeps
      · intro x19 x20 x21
        apply takePortDown_keeps
        exact x21
      · exact h8
  clear_value s14
  refine keeps_mk2 ?_
  apply setSec_keeps
  exact h15

theorem fipsEnter_keeps {a : State} {s : State} (hs : Keeps a s) :
    Keeps a (fipsEnter s) := by
  unfold fipsEnter
  extract_lets +onlyGivenNames -underBinder s0
  have h1 : Keeps a s0 := by
    unfold s0
    apply zeroise_keeps
    exact hs
  clear_value s0
  apply bumpSat_keeps
  apply clrB_keeps
  apply setB_keeps
  exact h1

theorem mbxEnd_keeps {a : State} (op : Nat) (st : Status) (result : Nat) {s : State} (hs : Keeps a s) :
    Keeps a (mbxEnd op st result s) := by
  unfold mbxEnd
  apply wr_keeps
  apply wr_keeps
  apply wr_keeps
  apply clrB_keeps
  exact hs

theorem cmdEnd_keeps {a : State} (bmc : Bool) (op : Nat) (st : Status) (result : Nat) {s : State} (hs : Keeps a s) :
    Keeps a (cmdEnd bmc op st result s) := by
  unfold cmdEnd
  refine keeps_ite ?_ ?_
  · apply emit_keeps
    apply setSec_keeps
    exact hs
  · apply mbxEnd_keeps
    exact hs

theorem endWait_keeps {a : State} (z0 : SecAct) {s : State} (hs : Keeps a s) :
    Keeps a (endWait z0 s) := by
  unfold endWait
  split
  · apply cmdEnd_keeps
    exact hs
  · extract_lets +onlyGivenNames -underBinder s0
    have h1 : Keeps a s0 := by
      unfold s0
      apply setSec_keeps
      apply wr_keeps
      exact hs
    clear_value s0
    split
    · apply emit_keeps
      exact h1
    · exact h1
  · apply cmdEnd_keeps
    apply bumpSat_keeps
    apply wr_keeps
    apply wr_keeps
    exact hs
  · exact hs

theorem settleWaits_keeps {a : State} (fin' : SecAct → State → State) {s : State} (hfin' : ∀ y0 y1, Keeps a y1 → Keeps a (fin' y0 y1)) (hs : Keeps a s) :
    Keeps a (settleWaits fin' s) := by
  unfold settleWaits
  extract_lets +onlyGivenNames -underBinder s0
  clear_value s0
  extract_lets +onlyGivenNames -underBinder s1
  clear_value s1
  apply forEach_keeps
  · intro x2 x3 x4
    apply hfin'
    exact x4
  · apply setSec_keeps
    exact hs

theorem endBurn_keeps {a : State} (b : Burn) {s : State} (hs : Keeps a s) :
    Keeps a (endBurn b s) := by
  unfold endBurn
  extract_lets +onlyGivenNames -underBinder s0
  have h1 : Keeps a s0 := by
    unfold s0
    split
    · refine keeps_ite ?_ ?_
      · apply withdrawKey_keeps
        exact hs
      · exact hs
    · apply zeroExts_keeps
      exact hs
  clear_value s0
  extract_lets +onlyGivenNames -underBinder s2
  have h3 : Keeps a s2 := by
    unfold s2
    apply forEach_keeps
    · intro x4 x5 x6
      apply freeExt_keeps
      exact x6
    · exact h1
  clear_value s2
  extract_lets +onlyGivenNames -underBinder s7
  have h8 : Keeps a s7 := by
    unfold s7
    apply setSec_keeps
    exact h3
  clear_value s7
  extract_lets +onlyGivenNames -underBinder s9
  have h10 : Keeps a s9 := by
    unfold s9
    apply bump_keeps
    exact h8
  clear_value s9
  refine keeps_ite ?_ ?_
  · apply clrB_keeps
    exact h10
  · exact h10

end Sys2Proof.Machine
end

