-- ==== Sys2Proof/Laws/KeepsLifecycle.lean ====
section
/-! SUPPORT. Sys2Proof/Laws/KeepsLifecycle.lean: every operation of Machine/Lifecycle.lean keeps what `Keeps` says. -/

namespace Sys2Proof.Machine

open Sys2Proof

theorem setLife_keeps {a : State} {f : Life → Life} {s : State} (hf : ∀ l, (f l).state = l.state ∧ (f l).compat = l.compat)
    (h : Keeps a s) : Keeps a (setLife f s) :=
  h.trans { Keeps.refl s with lc := (hf s.life).1, compat := (hf s.life).2 }

theorem setBoot_keeps {a : State} (f : Boot → Boot) {s : State} (hs : Keeps a s) :
    Keeps a (setBoot f s) := by
  unfold setBoot
  refine Keeps.same (s := s) ?_ rfl rfl rfl rfl rfl rfl rfl rfl rfl
  exact hs

theorem noteGroups_keeps {a : State} {s : State} (hs : Keeps a s) :
    Keeps a (noteGroups s) := by
  unfold noteGroups
  extract_lets +onlyGivenNames -underBinder s0
  clear_value s0
  extract_lets +onlyGivenNames -underBinder s1
  have h2 : Keeps a s1 := by
    unfold s1
    apply wr_keeps
    exact hs
  clear_value s1
  refine keeps_ite ?_ ?_
  · apply wr_keeps
    exact h2
  · exact h2

theorem stateLevel_keeps {a : State} {s : State} (hs : Keeps a s) :
    Keeps a (stateLevel s) := by
  unfold stateLevel
  apply wr_keeps
  apply wr_keeps
  exact hs

theorem programBit_state (b : OtpGroup × Nat) (l : Life) : (programBit b l).state = l.state ∧ (programBit b l).compat = l.compat := by
  unfold programBit
  repeat' split
  all_goals exact ⟨rfl, rfl⟩

theorem program_keeps {a : State} (p : OtpProg) {s : State} (hs : Keeps a s) :
    Keeps a (program p s) := by
  unfold program
  apply setLife_keeps
  · intro x0
    exact ⟨rfl, rfl⟩
  · exact hs

theorem endProgram_keeps {a : State} (p : OtpProg) {s : State} (hs : Keeps a s) :
    Keeps a (endProgram p s) := by
  unfold endProgram
  split
  · extract_lets +onlyGivenNames -underBinder s0
    have h1 : Keeps a s0 := by
      unfold s0
      apply noteGroups_keeps
      apply wr_keeps
      apply setB_keeps
      exact hs
    clear_value s0
    extract_lets +onlyGivenNames -underBinder s2
    have h3 : Keeps a s2 := by
      unfold s2
      apply cmdEnd_keeps
      exact h1
    clear_value s2
    refine keeps_ite ?_ ?_
    · apply fipsEnter_keeps
      apply setLife_keeps
      · intro x4
        exact ⟨rfl, rfl⟩
      · exact h3
    · exact h3
  · apply cmdEnd_keeps
    apply noteGroups_keeps
    apply setB_keeps
    exact hs
  · exact hs

theorem stepProgram_keeps {a : State} {s : State} (hs : Keeps a s) : Keeps a (stepProgram s) := by
  unfold stepProgram
  split
  · exact hs
  · split
    · apply endProgram_keeps
      exact setLife_keeps (fun _ => ⟨rfl, rfl⟩) hs
    · refine keeps_ite hs ?_
      exact setLife_keeps (fun l => programBit_state _ l) hs

theorem dropToken_keeps {a : State} {s : State} (hs : Keeps a s) :
    Keeps a (dropToken s) := by
  unfold dropToken
  apply setSec_keeps
  exact hs

theorem tokenFailed_keeps {a : State} (bmc : Bool) (op : Nat) (st : Status) {s : State} (hs : Keeps a s) :
    Keeps a (tokenFailed bmc op st s) := by
  unfold tokenFailed
  apply cmdEnd_keeps
  apply dropToken_keeps
  apply bumpSat_keeps
  exact hs

theorem beginCmd_keeps {a : State} (bmc : Option (List Nat)) (op : Nat) (accepted : List Nat) (f : State → State) {s : State} (hf : ∀ y0, Keeps a y0 → Keeps a (f y0)) (hs : Keeps a s) :
    Keeps a (beginCmd bmc op accepted f s) := by
  unfold beginCmd
  refine keeps_ite ?_ ?_
  · exact hs
  · extract_lets +onlyGivenNames -underBinder s0
    have h1 : Keeps a s0 := by
      unfold s0
      refine keeps_ite ?_ ?_
      · apply setSec_keeps
        exact hs
      · apply wr_keeps
        apply setB_keeps
        exact hs
    clear_value s0
    refine keeps_ite ?_ ?_
    · apply cmdEnd_keeps
      exact h1
    · apply hf
      exact h1

theorem doLcTokenLoad_keeps {a : State} (bmc : Option (List Nat)) {s : State} (hs : Keeps a s) :
    Keeps a (doLcTokenLoad bmc s) := by
  unfold doLcTokenLoad
  apply beginCmd_keeps
  · intro x0 x1
    extract_lets +onlyGivenNames -underBinder s2
    clear_value s2
    extract_lets +onlyGivenNames -underBinder s3
    clear_value s3
    refine keeps_ite ?_ ?_
    · apply cmdEnd_keeps
      exact x1
    · extract_lets +onlyGivenNames -underBinder s4
      clear_value s4
      extract_lets +onlyGivenNames -underBinder s5
      have h6 : Keeps a s5 := by
        unfold s5
        apply setSec_keeps
        exact x1
      clear_value s5
      apply cmdEnd_keeps
      exact h6
  · exact hs

theorem commitBody_keeps {a : State} (body : List Byte) {s : State} (hs : Keeps a s) :
    Keeps a (commitBody body s) := by
  unfold commitBody
  extract_lets +onlyGivenNames -underBinder s0
  clear_value s0
  extract_lets +onlyGivenNames -underBinder s1
  clear_value s1
  extract_lets +onlyGivenNames -underBinder s2
  clear_value s2
  apply setBoot_keeps
  exact hs

theorem reduceStore_keeps {a : State} {s : State} (hs : Keeps a s) :
    Keeps a (reduceStore s) := by
  unfold reduceStore
  extract_lets +onlyGivenNames -underBinder s0
  clear_value s0
  extract_lets +onlyGivenNames -underBinder s1
  have h2 : Keeps a s1 := by
    unfold s1
    apply commitBody_keeps
    exact hs
  clear_value s1
  extract_lets +onlyGivenNames -underBinder s3
  have h4 : Keeps a s3 := by
    unfold s3
    apply setBoot_keeps
    exact h2
  clear_value s3
  apply emit_keeps
  exact h4

theorem startWipe_keeps {a : State} {s : State} (hs : Keeps a s) :
    Keeps a (startWipe s) := by
  unfold startWipe
  refine keeps_ite ?_ ?_
  · exact hs
  · extract_lets +onlyGivenNames -underBinder s0
    clear_value s0
    split
    · refine keeps_ite ?_ ?_
      · apply emit_keeps
        exact hs
      · apply reduceStore_keeps
        exact hs
    · apply emit_keeps
      exact hs

theorem enterAnalysis_keeps {a : State} (bmc : Bool) {s : State} (hs : Keeps a s) :
    Keeps a (enterAnalysis bmc s) := by
  unfold enterAnalysis
  extract_lets +onlyGivenNames -underBinder s0
  have h1 : Keeps a s0 := by
    unfold s0
    apply reduceStore_keeps
    exact hs
  clear_value s0
  apply program_keeps
  exact h1

theorem endSecWait_keeps {a : State} (z0 : SecAct) {s : State} (hs : Keeps a s) :
    Keeps a (endSecWait z0 s) := by
  unfold endSecWait
  split
  · apply enterAnalysis_keeps
    exact hs
  · apply endWait_keeps
    exact hs

theorem settleSec_keeps {a : State} {s : State} (hs : Keeps a s) :
    Keeps a (settleSec s) := by
  unfold settleSec
  apply settleWaits_keeps
  · intro x0 x1 x2
    apply endSecWait_keeps
    exact x2
  · exact hs

theorem doLcTransition_keeps {a : State} (bmc : Option (List Nat)) {s : State} (hs : Keeps a s) :
    Keeps a (doLcTransition bmc s) := by
  unfold doLcTransition
  apply beginCmd_keeps
  · intro x0 x1
    extract_lets +onlyGivenNames -underBinder s2
    clear_value s2
    refine keeps_ite ?_ ?_
    · apply tokenFailed_keeps
      exact x1
    · extract_lets +onlyGivenNames -underBinder s3
      clear_value s3
      refine keeps_ite ?_ ?_
      · apply tokenFailed_keeps
        exact x1
      · refine keeps_ite ?_ ?_
        · extract_lets +onlyGivenNames -underBinder s4
          have h5 : Keeps a s4.2.2 := by
            unfold s4
            apply zeroise_keeps
            apply dropToken_keeps
            exact x1
          clear_value s4
          apply settleSec_keeps
          apply setSec_keeps
          exact h5
        · refine keeps_ite ?_ ?_
          · apply enterAnalysis_keeps
            apply dropToken_keeps
            exact x1
          · apply program_keeps
            apply dropToken_keeps
            exact x1
  · exact hs

theorem doLcChallenge_keeps {a : State} (bmc : Option (List Nat)) {s : State} (hs : Keeps a s) :
    Keeps a (doLcChallenge bmc s) := by
  unfold doLcChallenge
  apply beginCmd_keeps
  · intro x0 x1
    extract_lets +onlyGivenNames -underBinder s2
    clear_value s2
    extract_lets +onlyGivenNames -underBinder s3
    clear_value s3
    extract_lets +onlyGivenNames -underBinder s4
    have h5 : Keeps a s4 := by
      unfold s4
      apply setSec_keeps
      apply drewN_keeps
      exact x1
    clear_value s4
    refine keeps_ite ?_ ?_
    · apply emit_keeps
      apply setSec_keeps
      exact h5
    · apply mbxEnd_keeps
      apply forEach_keeps
      · intro x6 x7 x8
        apply wr_keeps
        exact x8
      · exact h5
  · exact hs

theorem doDebugGrant_keeps {a : State} (bmc : Option (List Nat)) {s : State} (hs : Keeps a s) :
    Keeps a (doDebugGrant bmc s) := by
  unfold doDebugGrant
  apply beginCmd_keeps
  · intro x0 x1
    extract_lets +onlyGivenNames -underBinder s2
    clear_value s2
    extract_lets +onlyGivenNames -underBinder s3
    clear_value s3
    refine keeps_ite ?_ ?_
    · apply tokenFailed_keeps
      exact x1
    · refine keeps_ite ?_ ?_
      · apply cmdEnd_keeps
        apply dropToken_keeps
        exact x1
      · extract_lets +onlyGivenNames -underBinder s4
        clear_value s4
        extract_lets +onlyGivenNames -underBinder s5
        have h6 : Keeps a s5 := by
          unfold s5
          apply dropToken_keeps
          exact x1
        clear_value s5
        refine keeps_ite ?_ ?_
        · extract_lets +onlyGivenNames -underBinder s7
          have h8 : Keeps a s7.2.2 := by
            unfold s7
            apply zeroise_keeps
            exact h6
          clear_value s7
          apply settleSec_keeps
          apply setSec_keeps
          exact h8
        · apply endWait_keeps
          exact h6
  · exact hs

theorem doDebugRevoke_keeps {a : State} (bmc : Option (List Nat)) {s : State} (hs : Keeps a s) :
    Keeps a (doDebugRevoke bmc s) := by
  unfold doDebugRevoke
  apply beginCmd_keeps
  · intro x0 x1
    extract_lets +onlyGivenNames -underBinder s2
    have h3 : Keeps a s2 := by
      unfold s2
      apply stateLevel_keeps
      exact x1
    clear_value s2
    apply cmdEnd_keeps
    exact h3
  · exact hs

theorem doLcSelectCompat_keeps {a : State} (bmc : Option (List Nat)) {s : State} (hs : Keeps a s) :
    Keeps a (doLcSelectCompat bmc s) := by
  unfold doLcSelectCompat
  extract_lets +onlyGivenNames -underBinder s0
  clear_value s0
  apply beginCmd_keeps
  · intro x1 x2
    extract_lets +onlyGivenNames -underBinder s3
    clear_value s3
    refine keeps_ite ?_ ?_
    · apply tokenFailed_keeps
      exact x2
    · apply program_keeps
      apply dropToken_keeps
      exact x2
  · exact hs

end Sys2Proof.Machine
end

