-- ==== Sys2Proof/Laws/KeepsSecurity.lean ====
section
/-! SUPPORT. Sys2Proof/Laws/KeepsSecurity.lean: every operation of Machine/Security.lean keeps what `Keeps` says. -/

namespace Sys2Proof.Machine

open Sys2Proof

theorem secCmd_keeps {a : State} (op : Nat) (f : State → State) {s : State} (hf : ∀ y0, Keeps a y0 → Keeps a (f y0)) (hs : Keeps a s) :
    Keeps a (secCmd op f s) := by
  unfold secCmd
  apply beginCmd_keeps
  · intro x0 x1
    apply hf
    exact x1
  · exact hs

theorem giveExt_keeps {a : State} (e : Nat) (n : Nat) (key : Bool) (remote : Bool) (siteOk : Bool) {s : State} (hs : Keeps a s) :
    Keeps a (giveExt e n key remote siteOk s) := by
  unfold giveExt
  apply wrb_keeps
  apply wrb_keeps
  apply wrb_keeps
  apply wr_keeps
  apply wr_keeps
  exact hs

theorem doExtentAssign_keeps {a : State} {s : State} (hs : Keeps a s) :
    Keeps a (doExtentAssign s) := by
  unfold doExtentAssign
  apply secCmd_keeps
  · intro x0 x1
    refine keeps_ite ?_ ?_
    · apply mbxEnd_keeps
      exact x1
    · refine keeps_ite ?_ ?_
      · apply mbxEnd_keeps
        exact x1
      · extract_lets +onlyGivenNames -underBinder s2
        clear_value s2
        extract_lets +onlyGivenNames -underBinder s3
        clear_value s3
        extract_lets +onlyGivenNames -underBinder s4
        clear_value s4
        extract_lets +onlyGivenNames -underBinder s5
        have h6 : Keeps a s5 := by
          unfold s5
          apply tdiError_keeps
          exact x1
        clear_value s5
        extract_lets +onlyGivenNames -underBinder s7
        have h8 : Keeps a s7 := by
          unfold s7
          refine keeps_ite ?_ ?_
          · apply newKey_keeps
            exact h6
          · exact h6
        clear_value s7
        apply mbxEnd_keeps
        apply forEach_keeps
        · intro x9 x10 x11
          apply giveExt_keeps
          exact x11
        · exact h8
  · exact hs

theorem doExtentRelease_keeps {a : State} {s : State} (hs : Keeps a s) :
    Keeps a (doExtentRelease s) := by
  unfold doExtentRelease
  apply secCmd_keeps
  · intro x0 x1
    refine keeps_ite ?_ ?_
    · apply mbxEnd_keeps
      exact x1
    · extract_lets +onlyGivenNames -underBinder s2
      clear_value s2
      extract_lets +onlyGivenNames -underBinder s3
      clear_value s3
      refine keeps_ite ?_ ?_
      · apply mbxEnd_keeps
        exact x1
      · extract_lets +onlyGivenNames -underBinder s4
        clear_value s4
        extract_lets +onlyGivenNames -underBinder s5
        have h6 : Keeps a s5.2.2 := by
          unfold s5
          apply burnishFn_keeps
          apply silenceFn_keeps
          apply wr_keeps
          exact x1
        clear_value s5
        extract_lets +onlyGivenNames -underBinder s7
        have h8 : Keeps a s7.2.2 := by
          unfold s7
          apply burnishFn_keeps
          exact x1
        clear_value s7
        extract_lets +onlyGivenNames -underBinder s9
        have h10 : Keeps a s9.2 := by
          unfold s9
          refine keeps_ite_snd ?_ ?_
          · refine keeps_mk ?_
            exact h6
          · refine keeps_ite_snd ?_ ?_
            · refine keeps_mk ?_
              exact h8
            · apply burnExts_keeps
              exact x1
        clear_value s9
        apply setSec_keeps
        exact h10
  · exact hs

theorem doPartAssign_keeps {a : State} {s : State} (hs : Keeps a s) :
    Keeps a (doPartAssign s) := by
  unfold doPartAssign
  apply secCmd_keeps
  · intro x0 x1
    extract_lets +onlyGivenNames -underBinder s2
    clear_value s2
    extract_lets +onlyGivenNames -underBinder s3
    clear_value s3
    extract_lets +onlyGivenNames -underBinder s4
    clear_value s4
    refine keeps_ite ?_ ?_
    · apply mbxEnd_keeps
      exact x1
    · refine keeps_ite ?_ ?_
      · apply mbxEnd_keeps
        exact x1
      · extract_lets +onlyGivenNames -underBinder s5
        have h6 : Keeps a s5 := by
          unfold s5
          apply wr_keeps
          apply setB_keeps
          exact x1
        clear_value s5
        apply mbxEnd_keeps
        apply forEach_keeps
        · intro x7 x8 x9
          apply wr_keeps
          apply setB_keeps
          exact x9
        · exact h6
  · exact hs

theorem stopTile_keeps {a : State} (t : Nat) {s : State} (hs : Keeps a s) :
    Keeps a (stopTile t s) := by
  unfold stopTile
  extract_lets +onlyGivenNames -underBinder s0
  have h1 : Keeps a s0 := by
    unfold s0
    apply tileLost_keeps
    apply abortRun_keeps
    exact hs
  clear_value s0
  extract_lets +onlyGivenNames -underBinder s2
  clear_value s2
  apply forEach_keeps
  · intro x3 x4 x5
    apply failDesc_keeps
    exact x5
  · apply setGrv_keeps
    exact h1

theorem doPartRelease_keeps {a : State} {s : State} (hs : Keeps a s) :
    Keeps a (doPartRelease s) := by
  unfold doPartRelease
  apply secCmd_keeps
  · intro x0 x1
    extract_lets +onlyGivenNames -underBinder s2
    clear_value s2
    refine keeps_ite ?_ ?_
    · apply mbxEnd_keeps
      exact x1
    · extract_lets +onlyGivenNames -underBinder s3
      have h4 : Keeps a s3 := by
        unfold s3
        apply forEach_keeps
        · intro x5 x6 x7
          apply tdiError_keeps
          exact x7
        · exact x1
      clear_value s3
      extract_lets +onlyGivenNames -underBinder s8
      have h9 : Keeps a s8 := by
        unfold s8
        apply forEach_keeps
        · intro x10 x11 x12
          apply stopTile_keeps
          exact x12
        · exact h4
      clear_value s8
      extract_lets +onlyGivenNames -underBinder s13
      have h14 : Keeps a s13.2 := by
        unfold s13
        apply burnishPart_keeps
        exact h9
      clear_value s13
      extract_lets +onlyGivenNames -underBinder s15
      have h16 : Keeps a s15 := by
        unfold s15
        apply forEach_keeps
        · intro x17 x18 x19
          apply wr_keeps
          apply clrB_keeps
          exact x19
        · exact h14
      clear_value s15
      extract_lets +onlyGivenNames -underBinder s20
      have h21 : Keeps a s20 := by
        unfold s20
        apply forEach_keeps
        · intro x22 x23 x24
          refine keeps_ite ?_ ?_
          · apply wr_keeps
            apply clrB_keeps
            exact x24
          · exact x24
        · exact h16
      clear_value s20
      extract_lets +onlyGivenNames -underBinder s25
      have h26 : Keeps a s25 := by
        unfold s25
        apply wr_keeps
        apply clrB_keeps
        exact h21
      clear_value s25
      apply setSec_keeps
      exact h26
  · exact hs

theorem doFuncBind_keeps {a : State} {s : State} (hs : Keeps a s) :
    Keeps a (doFuncBind s) := by
  unfold doFuncBind
  apply secCmd_keeps
  · intro x0 x1
    extract_lets +onlyGivenNames -underBinder s2
    clear_value s2
    extract_lets +onlyGivenNames -underBinder s3
    clear_value s3
    extract_lets +onlyGivenNames -underBinder s4
    clear_value s4
    refine keeps_ite ?_ ?_
    · refine keeps_ite ?_ ?_
      · apply mbxEnd_keeps
        exact x1
      · apply mbxEnd_keeps
        apply wr_keeps
        apply setB_keeps
        apply tdiError_keeps
        exact x1
    · refine keeps_ite ?_ ?_
      · apply mbxEnd_keeps
        exact x1
      · apply mbxEnd_keeps
        apply wr_keeps
        apply clrB_keeps
        apply tdiError_keeps
        exact x1
  · exact hs

theorem doConfEnter_keeps {a : State} {s : State} (hs : Keeps a s) :
    Keeps a (doConfEnter s) := by
  unfold doConfEnter
  apply secCmd_keeps
  · intro x0 x1
    split
    · apply mbxEnd_keeps
      exact x1
    · apply setB_keeps
      apply setSec_keeps
      exact x1
  · exact hs

theorem endConf_keeps {a : State} (st : Status) (result : Nat) {s : State} (hs : Keeps a s) :
    Keeps a (endConf st result s) := by
  unfold endConf
  apply mbxEnd_keeps
  apply clrB_keeps
  apply setSec_keeps
  exact hs

theorem doConfEnterTimeout_keeps {a : State} {s : State} (hs : Keeps a s) :
    Keeps a (doConfEnterTimeout s) := by
  unfold doConfEnterTimeout
  split
  · refine keeps_ite ?_ ?_
    · apply endConf_keeps
      exact hs
    · exact hs
  · exact hs

theorem rekeyPort_keeps {a : State} (p : Nat) {s : State} (hs : Keeps a s) :
    Keeps a (rekeyPort p s) := by
  unfold rekeyPort
  apply newKey_keeps
  apply setPort_keeps
  exact hs

theorem doPortRekey_keeps {a : State} {s : State} (hs : Keeps a s) :
    Keeps a (doPortRekey s) := by
  unfold doPortRekey
  apply secCmd_keeps
  · intro x0 x1
    extract_lets +onlyGivenNames -underBinder s2
    clear_value s2
    refine keeps_ite ?_ ?_
    · apply mbxEnd_keeps
      exact x1
    · extract_lets +onlyGivenNames -underBinder s3
      have h4 : Keeps a s3 := by
        unfold s3
        apply rekeyPort_keeps
        exact x1
      clear_value s3
      apply mbxEnd_keeps
      exact h4
  · exact hs

theorem doCodewordCountRekey_keeps {a : State} (p : Nat) {s : State} (hs : Keeps a s) :
    Keeps a (doCodewordCountRekey p s) := by
  unfold doCodewordCountRekey
  refine keeps_ite ?_ ?_
  · apply rekeyPort_keeps
    exact hs
  · exact hs

theorem doZeroize_keeps {a : State} {s : State} (hs : Keeps a s) :
    Keeps a (doZeroize s) := by
  unfold doZeroize
  apply secCmd_keeps
  · intro x0 x1
    extract_lets +onlyGivenNames -underBinder s2
    have h3 : Keeps a s2.2.2 := by
      unfold s2
      apply zeroise_keeps
      exact x1
    clear_value s2
    apply setSec_keeps
    exact h3
  · exact hs

theorem doBurnishDone_keeps {a : State} {s : State} (hs : Keeps a s) :
    Keeps a (doBurnishDone s) := by
  unfold doBurnishDone
  split
  · exact hs
  · refine keeps_ite ?_ ?_
    · exact hs
    · refine keeps_ite ?_ ?_
      · exact hs
      · extract_lets +onlyGivenNames -underBinder s0
        clear_value s0
        refine keeps_ite ?_ ?_
        · apply forEach_keeps
          · intro x1 x2 x3
            apply startEvict_keeps
            exact x3
          · exact hs
        · apply settleSec_keeps
          apply endBurn_keeps
          exact hs

theorem doFipsErrorEnter_keeps {a : State} {s : State} (hs : Keeps a s) :
    Keeps a (doFipsErrorEnter s) := by
  unfold doFipsErrorEnter
  apply fipsEnter_keeps
  exact hs

theorem spdmSay_keeps {a : State} (sid : Nat) (args : List Nat) {s : State} (hs : Keeps a s) :
    Keeps a (spdmSay sid args s) := by
  unfold spdmSay
  apply emit_keeps
  exact hs

theorem spdmError_keeps {a : State} (sid : Nat) (code : Nat) {s : State} (hs : Keeps a s) :
    Keeps a (spdmError sid code s) := by
  unfold spdmError
  apply spdmSay_keeps
  exact hs

theorem tdispSay_keeps {a : State} (sid : Nat) (code : Nat) (n : Nat) (more : List Nat) {s : State} (hs : Keeps a s) :
    Keeps a (tdispSay sid code n more s) := by
  unfold tdispSay
  apply spdmSay_keeps
  exact hs

theorem tdispError_keeps {a : State} (sid : Nat) (n : Nat) {s : State} (hs : Keeps a s) :
    Keeps a (tdispError sid n s) := by
  unfold tdispError
  apply tdispSay_keeps
  exact hs

theorem doSpdmRequest_keeps {a : State} (r : SpdmReq) {s : State} (hs : Keeps a s) :
    Keeps a (doSpdmRequest r s) := by
  unfold doSpdmRequest
  refine keeps_ite ?_ ?_
  · apply spdmError_keeps
    exact hs
  · split
    · apply spdmSay_keeps
      exact hs
    · apply spdmSay_keeps
      exact hs
    · refine keeps_ite ?_ ?_
      · apply spdmSay_keeps
        exact hs
      · apply spdmError_keeps
        exact hs
    · apply spdmSay_keeps
      exact hs
    · refine keeps_ite ?_ ?_
      · apply spdmSay_keeps
        exact hs
      · apply spdmError_keeps
        exact hs
    · refine keeps_ite ?_ ?_
      · apply spdmSay_keeps
        exact hs
      · apply spdmError_keeps
        exact hs
    · refine keeps_ite ?_ ?_
      · apply spdmError_keeps
        exact hs
      · refine keeps_ite ?_ ?_
        · apply spdmSay_keeps
          exact hs
        · refine keeps_ite ?_ ?_
          · apply spdmSay_keeps
            exact hs
          · refine keeps_ite ?_ ?_
            · apply spdmSay_keeps
              exact hs
            · apply spdmError_keeps
              exact hs
    · refine keeps_ite ?_ ?_
      · apply spdmError_keeps
        exact hs
      · refine keeps_ite ?_ ?_
        · apply spdmError_keeps
          exact hs
        · refine keeps_ite ?_ ?_
          · apply spdmError_keeps
            exact hs
          · extract_lets +onlyGivenNames -underBinder s0
            clear_value s0
            apply spdmSay_keeps
            apply setSec_keeps
            exact hs
    · refine keeps_ite ?_ ?_
      · apply spdmError_keeps
        exact hs
      · extract_lets +onlyGivenNames -underBinder s1
        have h2 : Keeps a s1 := by
          unfold s1
          apply setSec_keeps
          exact hs
        clear_value s1
        refine keeps_ite ?_ ?_
        · apply spdmSay_keeps
          apply setSec_keeps
          exact h2
        · apply spdmError_keeps
          exact h2
    · refine keeps_ite ?_ ?_
      · apply spdmSay_keeps
        exact hs
      · apply spdmError_keeps
        exact hs
    · refine keeps_ite ?_ ?_
      · apply spdmSay_keeps
        exact hs
      · apply spdmError_keeps
        exact hs
    · apply spdmSay_keeps
      exact hs
    · refine keeps_ite ?_ ?_
      · apply spdmSay_keeps
        apply setSec_keeps
        exact hs
      · apply spdmError_keeps
        exact hs
    · refine keeps_ite ?_ ?_
      · apply spdmError_keeps
        exact hs
      · refine keeps_ite ?_ ?_
        · apply spdmSay_keeps
          exact hs
        · apply spdmSay_keeps
          apply setSec_keeps
          exact hs
    · refine keeps_ite ?_ ?_
      · apply spdmError_keeps
        exact hs
      · refine keeps_ite ?_ ?_
        · apply tdispError_keeps
          exact hs
        · apply tdispSay_keeps
          exact hs
    · refine keeps_ite ?_ ?_
      · apply spdmError_keeps
        exact hs
      · refine keeps_ite ?_ ?_
        · apply tdispError_keeps
          exact hs
        · extract_lets +onlyGivenNames -underBinder s3
          clear_value s3
          extract_lets +onlyGivenNames -underBinder s4
          clear_value s4
          apply tdispSay_keeps
          exact hs
    · refine keeps_ite ?_ ?_
      · apply spdmError_keeps
        exact hs
      · refine keeps_ite ?_ ?_
        · apply tdispSay_keeps
          apply setSec_keeps
          apply wr_keeps
          exact hs
        · apply tdispError_keeps
          exact hs
    · apply spdmError_keeps
      exact hs

theorem doLockInterfaceRequest_keeps {a : State} (sid : Nat) (n : Nat) {s : State} (hs : Keeps a s) :
    Keeps a (doLockInterfaceRequest sid n s) := by
  unfold doLockInterfaceRequest
  refine keeps_ite ?_ ?_
  · apply spdmError_keeps
    exact hs
  · refine keeps_ite ?_ ?_
    · apply spdmError_keeps
      exact hs
    · refine keeps_ite ?_ ?_
      · apply tdispError_keeps
        exact hs
      · extract_lets +onlyGivenNames -underBinder s0
        clear_value s0
        apply tdispSay_keeps
        apply drew_keeps
        apply setSec_keeps
        apply wr_keeps
        exact hs

theorem unlockFn_keeps {a : State} (n : Nat) (sid : Option Nat) {s : State} (hs : Keeps a s) :
    Keeps a (unlockFn n sid s) := by
  unfold unlockFn
  extract_lets +onlyGivenNames -underBinder s0
  have h1 : Keeps a s0.2.2 := by
    unfold s0
    apply burnishFn_keeps
    apply silenceFn_keeps
    apply wr_keeps
    exact hs
  clear_value s0
  apply settleSec_keeps
  apply setSec_keeps
  exact h1

theorem doStopInterfaceRequest_keeps {a : State} (sid : Nat) (n : Nat) {s : State} (hs : Keeps a s) :
    Keeps a (doStopInterfaceRequest sid n s) := by
  unfold doStopInterfaceRequest
  refine keeps_ite ?_ ?_
  · apply spdmError_keeps
    exact hs
  · refine keeps_ite ?_ ?_
    · apply spdmError_keeps
      exact hs
    · refine keeps_ite ?_ ?_
      · apply tdispError_keeps
        exact hs
      · refine keeps_ite ?_ ?_
        · apply tdispSay_keeps
          exact hs
        · apply unlockFn_keeps
          exact hs

end Sys2Proof.Machine
end

