-- ==== Sys2Proof/Laws/KeepsMesh.lean ====
section
/-! SUPPORT. Sys2Proof/Laws/KeepsMesh.lean: every operation of Machine/Mesh.lean keeps what `Keeps` says. -/

namespace Sys2Proof.Machine

open Sys2Proof

theorem takeAnswer_keeps {a : State} (f : Flight) (st : Status) (data : List Byte) {s : State} (hs : Keeps a s) :
    Keeps a (takeAnswer f st data s) := by
  unfold takeAnswer
  extract_lets +onlyGivenNames -underBinder s0
  have h1 : ∀ y0, Keeps a y0 → Keeps a (s0 y0) := by
    unfold s0
    intro x2 x3
    apply emit_keeps
    exact x3
  clear_value s0
  split
  · apply h1
    exact hs
  · split
    · apply h1
      apply retireReq_keeps
      exact hs
    · refine keeps_ite ?_ ?_
      · apply bump_keeps
        exact hs
      · exact hs

theorem doMeshPacketDeliver_keeps {a : State} (vn : Nat) (plane : Nat) (src : Nat) (dst : Nat) (err : Nat) {s : State} (hs : Keeps a s) :
    Keeps a (doMeshPacketDeliver vn plane src dst err s) := by
  unfold doMeshPacketDeliver
  split
  · exact hs
  · extract_lets +onlyGivenNames -underBinder s0
    have h1 : Keeps a s0 := by
      unfold s0
      apply travel_keeps
      apply setMesh_keeps
      exact hs
    clear_value s0
    refine keeps_ite ?_ ?_
    · apply bumpSat_keeps
      exact h1
    · refine keeps_ite ?_ ?_
      · apply emit_keeps
        exact h1
      · refine keeps_ite ?_ ?_
        · apply takeAnswer_keeps
          apply bumpSat_keeps
          exact h1
        · apply takeAnswer_keeps
          refine keeps_ite ?_ ?_
          · apply bumpSat_keeps
            exact h1
          · exact h1

theorem doRouterGate_keeps {a : State} (r : Nat) {s : State} (hs : Keeps a s) :
    Keeps a (doRouterGate r s) := by
  unfold doRouterGate
  refine keeps_ite ?_ ?_
  · apply setMesh_keeps
    exact hs
  · exact hs

theorem timedOut_keeps {a : State} (r : Req) {s : State} (hs : Keeps a s) :
    Keeps a (timedOut r s) := by
  unfold timedOut
  split
  · apply windowFailed_keeps
    exact hs
  · apply fenceSite_keeps
    exact hs
  · exact hs
  · exact hs
  · split
    · apply settleJobs_keeps
      apply answerOut_keeps
      exact hs
    · exact hs
  · extract_lets +onlyGivenNames -underBinder s0
    clear_value s0
    extract_lets +onlyGivenNames -underBinder s1
    clear_value s1
    apply settleJobs_keeps
    apply forEach_keeps
    · intro x2 x3 x4
      apply accessFailed_keeps
      exact x4
    · refine Keeps.same (s := s) ?_ rfl rfl rfl rfl rfl rfl rfl rfl rfl
      exact hs
  · exact hs
  · apply deviceAnswer_keeps
    exact hs
  · apply emit_keeps
    exact hs
  · apply settleJobs_keeps
    apply accessFailed_keeps
    exact hs

theorem noteTimeout_keeps {a : State} (r : Req) {s : State} (hs : Keeps a s) :
    Keeps a (noteTimeout r s) := by
  unfold noteTimeout
  apply entomb_keeps
  apply bump_keeps
  apply tmoLog_keeps
  exact hs

theorem doInitiatorTimeout_keeps {a : State} (cls : Nat) (port : Nat) (tag : Nat) {s : State} (hs : Keeps a s) :
    Keeps a (doInitiatorTimeout cls port tag s) := by
  unfold doInitiatorTimeout
  split
  · exact hs
  · refine keeps_ite ?_ ?_
    · exact hs
    · split
      · exact hs
      · extract_lets +onlyGivenNames -underBinder s0
        have h1 : Keeps a s0 := by
          unfold s0
          apply noteTimeout_keeps
          exact hs
        clear_value s0
        apply timedOut_keeps
        refine keeps_ite ?_ ?_
        · apply reportAer_keeps
          exact h1
        · exact h1

theorem pumpAll_keeps {a : State} {s : State} (hs : Keeps a s) :
    Keeps a (pumpAll s) := by
  unfold pumpAll
  apply forEach_keeps
  · intro x0 x1 x2
    apply zcpPump_keeps
    exact x2
  · apply pumpWaiting_keeps
    exact hs

theorem doTombstoneExpire_keeps {a : State} (cls : Nat) (port : Nat) (tag : Nat) {s : State} (hs : Keeps a s) :
    Keeps a (doTombstoneExpire cls port tag s) := by
  unfold doTombstoneExpire
  split
  · exact hs
  · apply pumpAll_keeps
    refine Keeps.same (s := s) ?_ rfl rfl rfl rfl rfl rfl rfl rfl rfl
    exact hs

theorem doLateCompletionDrop_keeps {a : State} (cls : Nat) (port : Nat) (tag : Nat) {s : State} (hs : Keeps a s) :
    Keeps a (doLateCompletionDrop cls port tag s) := by
  unfold doLateCompletionDrop
  refine keeps_ite ?_ ?_
  · apply bump_keeps
    exact hs
  · exact hs

theorem setAtTarget_keeps {a : State} (o : OnDie) (f : OnDie → OnDie) {s : State} (hs : Keeps a s) :
    Keeps a (setAtTarget o f s) := by
  unfold setAtTarget
  apply setMesh_keeps
  exact hs

theorem doHeldNotice_keeps {a : State} (k : Nat) (id : Nat) {s : State} (hs : Keeps a s) :
    Keeps a (doHeldNotice k id s) := by
  unfold doHeldNotice
  split
  · exact hs
  · refine keeps_ite ?_ ?_
    · exact hs
    · apply pauseReqs_keeps
      apply setAtTarget_keeps
      exact hs

theorem doResumedNotice_keeps {a : State} (k : Nat) (id : Nat) {s : State} (hs : Keeps a s) :
    Keeps a (doResumedNotice k id s) := by
  unfold doResumedNotice
  split
  · exact hs
  · split
    · exact hs
    · refine keeps_ite ?_ ?_
      · exact hs
      · apply resumeReqs_keeps
        apply setAtTarget_keeps
        exact hs

theorem dropOnDie_keeps {a : State} (k : Nat) (id : Nat) {s : State} (hs : Keeps a s) :
    Keeps a (dropOnDie k id s) := by
  unfold dropOnDie
  extract_lets +onlyGivenNames -underBinder s0
  have h1 : Keeps a s0 := by
    unfold s0
    apply setMem_keeps
    · intro x2
      exact ⟨rfl, rfl⟩
    · exact hs
  clear_value s0
  apply setCoh_keeps
  exact h1

theorem doTargetAbandon_keeps {a : State} (k : Nat) (id : Nat) {s : State} (hs : Keeps a s) :
    Keeps a (doTargetAbandon k id s) := by
  unfold doTargetAbandon
  split
  · exact hs
  · refine keeps_ite ?_ ?_
    · exact hs
    · apply dropOnDie_keeps
      apply setMesh_keeps
      exact hs

theorem doTmoWrite_keeps {a : State} (cls : Nat) (v : Nat) {s : State} (hs : Keeps a s) :
    Keeps a (doTmoWrite cls v s) := by
  unfold doTmoWrite
  refine keeps_ite ?_ ?_
  · exact hs
  · split
    · apply wr_keeps
      exact hs
    · apply wr_keeps
      exact hs
    · apply wr_keeps
      exact hs
    · exact hs

theorem enterConfidential_keeps {a : State} {s : State} (hs : Keeps a s) :
    Keeps a (enterConfidential s) := by
  unfold enterConfidential
  extract_lets +onlyGivenNames -underBinder s0
  have h1 : Keeps a s0 := by
    unfold s0
    apply setB_keeps
    exact hs
  clear_value s0
  extract_lets +onlyGivenNames -underBinder s2
  clear_value s2
  apply forEach_keeps
  · intro x3 x4 x5
    apply stopRing_keeps
    exact x5
  · exact h1

theorem doStaticBoundary_keeps {a : State} {s : State} (hs : Keeps a s) :
    Keeps a (doStaticBoundary s) := by
  unfold doStaticBoundary
  refine keeps_ite ?_ ?_
  · exact hs
  · extract_lets +onlyGivenNames -underBinder s0
    have h1 : Keeps a s0 := by
      unfold s0
      apply setRuling_keeps
      · intro x2
        exact ⟨Nat.le_refl _, id⟩
      · exact hs
    clear_value s0
    extract_lets +onlyGivenNames -underBinder s3
    clear_value s3
    extract_lets +onlyGivenNames -underBinder s4
    have h5 : Keeps a s4 := by
      unfold s4
      refine keeps_ite ?_ ?_
      · exact h1
      · refine keeps_ite ?_ ?_
        · apply setB_keeps
          exact h1
        · apply wrb_keeps
          exact h1
    clear_value s4
    refine keeps_ite ?_ ?_
    · exact h5
    · refine keeps_ite ?_ ?_
      · apply endConf_keeps
        apply enterConfidential_keeps
        exact h5
      · apply endConf_keeps
        exact h5

end Sys2Proof.Machine
end

