-- ==== Sys2Proof/Laws/KeepsPower.lean ====
section
/-! SUPPORT. Sys2Proof/Laws/KeepsPower.lean: every operation of Machine/Power.lean keeps what `Keeps` says. -/

namespace Sys2Proof.Machine

open Sys2Proof

theorem evictAll_keeps {a : State} {s : State} (hs : Keeps a s) :
    Keeps a (evictAll s) := by
  unfold evictAll
  apply forEach_keeps
  · intro x0 x1 x2
    refine keeps_ite ?_ ?_
    · exact x2
    · apply startEvict_keeps
      exact x2
  · exact hs

theorem flushSlices_keeps {a : State} {s : State} (hs : Keeps a s) :
    Keeps a (flushSlices s) := by
  unfold flushSlices
  extract_lets +onlyGivenNames -underBinder s0
  have h1 : Keeps a s0 := by
    unfold s0
    apply forEach_keeps
    · intro x2 x3 x4
      apply evictLine_keeps
      exact x4
    · exact hs
  clear_value s0
  apply forEach_keeps
  · intro x5 x6 x7
    apply forEach_keeps
    · intro x8 x9 x10
      apply serve_keeps
      exact x10
    · exact x7
  · exact h1

theorem noteOutcome_keeps {a : State} (target : Nat) (outcome : Nat) (cause : Nat) (idx : Nat) {s : State} (hs : Keeps a s) :
    Keeps a (noteOutcome target outcome cause idx s) := by
  unfold noteOutcome
  extract_lets +onlyGivenNames -underBinder s0
  have h1 : Keeps a s0 := by
    unfold s0
    refine keeps_ite ?_ ?_
    · exact hs
    · apply bumpSat_keeps
      exact hs
  clear_value s0
  apply wr_keeps
  apply wr_keeps
  apply wr_keeps
  apply wr_keeps
  apply wr_keeps
  exact h1

theorem tellAsker_keeps {a : State} (w : PwrWho) (st : Status) (result : Nat) {s : State} (hs : Keeps a s) :
    Keeps a (tellAsker w st result s) := by
  unfold tellAsker
  split
  · apply completeDesc_keeps
    exact hs
  · split
    · apply endIssued_keeps
      exact hs
    · exact hs
  · exact hs

theorem endRequest_keeps {a : State} (w : PwrWho) (target : Nat) (outcome : Nat) (cause : Nat) (idx : Nat) {s : State} (hs : Keeps a s) :
    Keeps a (endRequest w target outcome cause idx s) := by
  unfold endRequest
  extract_lets +onlyGivenNames -underBinder s0
  have h1 : Keeps a s0 := by
    unfold s0
    refine keeps_ite ?_ ?_
    · exact hs
    · apply noteOutcome_keeps
      exact hs
  clear_value s0
  apply tellAsker_keeps
  exact h1

theorem busyWork_keepsO {a s : State} {i : Nat} {t : State} (e : busyWork s = some (i, t)) (h : Keeps a s) : Keeps a t := by
  unfold busyWork at e
  repeat' split at e
  all_goals first
    | (simp at e; done)
    | (simp only [Option.some.injEq, Prod.mk.injEq] at e; rw [← e.2]; first | exact h | exact drew_keeps h)

theorem refuser_keepsO {a : State} {w : PwrWho} {k : Nat} {s : State} {c i : Nat} {t : State} (e : refuser w k s = some (c, i, t))
    (h : Keeps a s) : Keeps a t := by
  unfold refuser at e
  split at e
  · simp only [Option.some.injEq, Prod.mk.injEq] at e; rw [← e.2.2]; exact h
  split at e
  · simp only [Option.some.injEq, Prod.mk.injEq] at e; rw [← e.2.2]; exact h
  split at e
  · rename_i e1
    simp only [Option.some.injEq, Prod.mk.injEq] at e
    rw [← e.2.2]
    exact busyWork_keepsO e1 h
  dsimp only at e
  repeat' split at e
  all_goals first
    | (simp at e; done)
    | (simp only [Option.some.injEq, Prod.mk.injEq] at e; rw [← e.2.2]; exact h)

theorem resumeRings_keeps {a : State} {s : State} (hs : Keeps a s) :
    Keeps a (resumeRings s) := by
  unfold resumeRings
  apply forEach_keeps
  · intro x0 x1 x2
    apply resumeRing_keeps
    exact x2
  · exact hs

theorem resumeSites_keeps {a : State} {s : State} (hs : Keeps a s) :
    Keeps a (resumeSites s) := by
  unfold resumeSites
  apply forEach_keeps
  · intro x0 x1 x2
    refine keeps_ite ?_ ?_
    · exact x2
    · extract_lets +onlyGivenNames -underBinder s3
      have h4 : Keeps a s3 := by
        unfold s3
        apply setSite_keeps
        exact x2
      clear_value s3
      apply sendResume_keeps
      exact h4
  · exact hs

theorem railOperation_keeps {a : State} (r : Nat) (v : Nat) {s : State} (hs : Keeps a s) :
    Keeps a (railOperation r v s) := by
  unfold railOperation
  apply emit_keeps
  exact hs

theorem commitH3_keeps {a : State} {s : State} (hs : Keeps a s) :
    Keeps a (commitH3 s) := by
  unfold commitH3
  extract_lets +onlyGivenNames -underBinder s0
  have h1 : Keeps a s0 := by
    unfold s0
    apply setPower_keeps
    exact hs
  clear_value s0
  extract_lets +onlyGivenNames -underBinder s2
  have h3 : Keeps a s2 := by
    unfold s2
    apply forEach_keeps
    · intro x4 x5 x6
      apply takePortDown_keeps
      exact x6
    · apply releasePins_keeps
      exact h1
  clear_value s2
  extract_lets +onlyGivenNames -underBinder s7
  have h8 : Keeps a s7 := by
    unfold s7
    refine keeps_ite ?_ ?_
    · apply enterUnlocked_keeps
      exact h3
    · exact h3
  clear_value s7
  extract_lets +onlyGivenNames -underBinder s9
  have h10 : Keeps a s9 := by
    unfold s9
    apply forEach_keeps
    · intro x11 x12 x13
      refine keeps_ite ?_ ?_
      · exact x13
      · apply driveSiteRst_keeps
        apply setSite_keeps
        apply wr_keeps
        exact x13
    · exact h8
  clear_value s9
  apply forEach_keeps
  · intro x14 x15 x16
    apply railOperation_keeps
    exact x16
  · exact h10

theorem commitEntry_keeps {a : State} (w : PwrWho) (t : Nat) {s : State} (hs : Keeps a s) :
    Keeps a (commitEntry w t s) := by
  unfold commitEntry
  extract_lets +onlyGivenNames -underBinder s0
  have h1 : Keeps a s0 := by
    unfold s0
    apply count_keeps
    apply setPower_keeps
    apply clrB_keeps
    apply wr_keeps
    exact hs
  clear_value s0
  extract_lets +onlyGivenNames -underBinder s2
  have h3 : Keeps a s2 := by
    unfold s2
    refine keeps_ite ?_ ?_
    · exact h1
    · apply noteOutcome_keeps
      exact h1
  clear_value s2
  extract_lets +onlyGivenNames -underBinder s4
  have h5 : Keeps a s4 := by
    unfold s4
    apply tellAsker_keeps
    exact h3
  clear_value s4
  split
  · apply setMesh_keeps
    exact h5
  · apply forEach_keeps
    · intro x6 x7 x8
      apply setEx_keeps
      apply setB_keeps
      exact x8
    · exact h5
  · apply commitH3_keeps
    exact h5

theorem unwind_keeps {a : State} (e : PEntry) (outcome : Nat) (cause : Nat) (idx : Nat) {s : State} (hs : Keeps a s) :
    Keeps a (unwind e outcome cause idx s) := by
  unfold unwind
  extract_lets +onlyGivenNames -underBinder s0
  have h1 : Keeps a s0 := by
    unfold s0
    apply resumeSites_keeps
    apply setPower_keeps
    apply clrB_keeps
    apply wr_keeps
    exact hs
  clear_value s0
  apply resumeRings_keeps
  apply endRequest_keeps
  exact h1

theorem stepDone_keeps {a : State} (e : PEntry) (n : Nat) {s : State} (hs : Keeps a s) :
    Keeps a (stepDone e n s) := by
  unfold stepDone
  split
  · apply unwind_keeps
    exact hs
  · apply setPower_keeps
    exact hs

theorem saveSteering_keepsO {a s t : State} (e : saveSteering s = some t) (h : Keeps a s) : Keeps a t := by
  unfold saveSteering at e
  dsimp only at e
  split at e
  · simp at e
  · simp only [Option.some.injEq] at e
    rw [← e]
    exact commitBody_keeps _ h

theorem stepEntry_keeps {a : State} {s : State} (hs : Keeps a s) :
    Keeps a (stepEntry s) := by
  unfold stepEntry
  split
  · exact hs
  · split
    · extract_lets +onlyGivenNames -underBinder s0
      clear_value s0
      split
      · apply unwind_keeps
        exact hs
      · refine keeps_ite ?_ ?_
        · apply stepDone_keeps
          exact hs
        · exact hs
    · extract_lets +onlyGivenNames -underBinder s1
      have h2 : Keeps a s1 := by
        unfold s1
        apply evictAll_keeps
        exact hs
      clear_value s1
      refine keeps_ite ?_ ?_
      · apply stepDone_keeps
        apply flushSlices_keeps
        exact h2
      · exact h2
    · refine keeps_ite ?_ ?_
      · apply stepDone_keeps
        exact hs
      · refine keeps_ite ?_ ?_
        · exact hs
        · split
          · apply stepDone_keeps
            refine saveSteering_keepsO (e := by assumption) ?_
            exact hs
          · apply unwind_keeps
            exact hs
    · apply stepDone_keeps
      exact hs
    · apply commitEntry_keeps
      exact hs

theorem settleEntry_keeps {a : State} {s : State} (hs : Keeps a s) :
    Keeps a (settleEntry s) := by
  unfold settleEntry
  refine keeps_ite ?_ ?_
  · exact hs
  · apply forEach_keeps
    · intro x0 x1 x2
      apply stepEntry_keeps
      exact x2
    · exact hs

theorem beginEntry_keeps {a : State} (w : PwrWho) (t : Nat) {s : State} (hs : Keeps a s) :
    Keeps a (beginEntry w t s) := by
  unfold beginEntry
  split
  · apply endRequest_keeps
    refine refuser_keepsO (e := by assumption) ?_
    exact hs
  · refine keeps_ite ?_ ?_
    · apply commitEntry_keeps
      exact hs
    · extract_lets +onlyGivenNames -underBinder s0
      clear_value s0
      extract_lets +onlyGivenNames -underBinder s1
      have h2 : Keeps a s1 := by
        unfold s1
        apply setB_keeps
        apply setPower_keeps
        exact hs
      clear_value s1
      extract_lets +onlyGivenNames -underBinder s3
      have h4 : Keeps a s3 := by
        unfold s3
        apply forEach_keeps
        · intro x5 x6 x7
          apply zcpSend_keeps
          apply setSite_keeps
          exact x7
        · exact h2
      clear_value s3
      apply settleEntry_keeps
      exact h4

theorem leaveLow_keeps {a : State} {s : State} (hs : Keeps a s) :
    Keeps a (leaveLow s) := by
  unfold leaveLow
  extract_lets +onlyGivenNames -underBinder s0
  clear_value s0
  extract_lets +onlyGivenNames -underBinder s1
  have h2 : Keeps a s1 := by
    unfold s1
    apply count_keeps
    apply setPower_keeps
    apply wr_keeps
    exact hs
  clear_value s1
  extract_lets +onlyGivenNames -underBinder s3
  have h4 : Keeps a s3 := by
    unfold s3
    apply forEach_keeps
    · intro x5 x6 x7
      apply railOperation_keeps
      exact x7
    · exact h2
  clear_value s3
  extract_lets +onlyGivenNames -underBinder s8
  have h9 : Keeps a s8 := by
    unfold s8
    apply forEach_keeps
    · intro x10 x11 x12
      refine keeps_ite ?_ ?_
      · apply joinAxis_keeps
        exact x12
      · exact x12
    · exact h4
  clear_value s8
  extract_lets +onlyGivenNames -underBinder s13
  have h14 : Keeps a s13 := by
    unfold s13
    apply forEach_keeps
    · intro x15 x16 x17
      apply setPort_keeps
      exact x17
    · exact h9
  clear_value s13
  extract_lets +onlyGivenNames -underBinder s18
  have h19 : Keeps a s18 := by
    unfold s18
    refine keeps_ite ?_ ?_
    · apply forEach_keeps
      · intro x20 x21 x22
        apply wakePattern_keeps
        exact x22
      · exact h2
    · refine keeps_ite ?_ ?_
      · apply commitBody_keeps
        exact h14
      · exact h14
  clear_value s18
  extract_lets +onlyGivenNames -underBinder s23
  clear_value s23
  extract_lets +onlyGivenNames -underBinder s24
  have h25 : Keeps a s24 := by
    unfold s24
    apply forEach_keeps
    · intro x26 x27 x28
      apply hubEvent_keeps
      exact x28
    · apply setPower_keeps
      apply resumeSites_keeps
      exact h19
  clear_value s24
  apply resumeRings_keeps
  apply releaseWindows_keeps
  apply releaseHomes_keeps
  apply releaseHeld_keeps
  exact h25

theorem raiseWake_keeps {a : State} (code : Nat) (idx : Nat) {s : State} (hs : Keeps a s) :
    Keeps a (raiseWake code idx s) := by
  unfold raiseWake
  refine keeps_ite ?_ ?_
  · apply setPower_keeps
    exact hs
  · refine keeps_ite ?_ ?_
    · apply leaveLow_keeps
      exact hs
    · exact hs

theorem settleWake_keeps {a : State} {s : State} (hs : Keeps a s) :
    Keeps a (settleWake s) := by
  unfold settleWake
  refine keeps_ite ?_ ?_
  · apply leaveLow_keeps
    exact hs
  · exact hs

theorem doWakeEvent_keeps {a : State} (code : Nat) (idx : Nat) {s : State} (hs : Keeps a s) :
    Keeps a (doWakeEvent code idx s) := by
  unfold doWakeEvent
  refine keeps_ite ?_ ?_
  · exact hs
  · apply settleEntry_keeps
    apply raiseWake_keeps
    exact hs

theorem doPowerExitWake_keeps {a : State} (code : Nat) {s : State} (hs : Keeps a s) :
    Keeps a (doPowerExitWake code s) := by
  unfold doPowerExitWake
  refine keeps_ite ?_ ?_
  · apply leaveLow_keeps
    exact hs
  · exact hs

theorem doWakePattern_keeps {a : State} (p : Nat) {s : State} (hs : Keeps a s) :
    Keeps a (doWakePattern p s) := by
  unfold doWakePattern
  refine keeps_ite ?_ ?_
  · exact hs
  · apply raiseWake_keeps
    apply clrB_keeps
    exact hs

theorem doH1IdleExpire_keeps {a : State} {s : State} (hs : Keeps a s) :
    Keeps a (doH1IdleExpire s) := by
  unfold doH1IdleExpire
  refine keeps_ite ?_ ?_
  · exact hs
  · apply commitEntry_keeps
    exact hs

theorem noteBusy_keeps {a : State} {s : State} (hs : Keeps a s) :
    Keeps a (noteBusy s) := by
  unfold noteBusy
  refine keeps_ite ?_ ?_
  · apply setPower_keeps
    exact hs
  · exact hs

theorem setCaps_keeps {a : State} (pkg : Nat) (z1 : Nat) {s : State} (hs : Keeps a s) :
    Keeps a (setCaps pkg z1 s) := by
  unfold setCaps
  extract_lets +onlyGivenNames -underBinder s0
  have h1 : Keeps a s0 := by
    unfold s0
    apply wr_keeps
    apply wr_keeps
    exact hs
  clear_value s0
  refine keeps_ite ?_ ?_
  · exact h1
  · apply forEach_keeps
    · intro x2 x3 x4
      apply regrant_keeps
      exact x4
    · exact h1

theorem beginPower_keeps {a : State} (g : Nat) (k : Nat) (d : Desc) {s : State} (hs : Keeps a s) :
    Keeps a (beginPower g k d s) := by
  unfold beginPower
  extract_lets +onlyGivenNames -underBinder s0
  clear_value s0
  refine keeps_ite ?_ ?_
  · apply beginEntry_keeps
    exact hs
  · refine keeps_ite ?_ ?_
    · apply completeDesc_keeps
      apply setCaps_keeps
      exact hs
    · apply failDesc_keeps
      exact hs

theorem powerAt_keeps {a : State} (g : Nat) (k : Nat) (d : Desc) (atEn : Bool) {s : State} (hs : Keeps a s) :
    Keeps a (powerAt g k d atEn s) := by
  unfold powerAt
  refine keeps_ite ?_ ?_
  · apply setPower_keeps
    exact hs
  · apply beginPower_keeps
    exact hs

theorem doEnter_keeps {a : State} (g : Nat) (k : Nat) {s : State} (hs : Keeps a s) :
    Keeps a (doEnter g k s) := by
  unfold doEnter
  split
  · exact hs
  · refine keeps_ite ?_ ?_
    · exact hs
    · apply powerAt_keeps
      exact hs

theorem doExit_keeps {a : State} (g : Nat) (k : Nat) {s : State} (hs : Keeps a s) :
    Keeps a (doExit g k s) := by
  unfold doExit
  split
  · exact hs
  · apply completeDesc_keeps
    apply clrB_keeps
    apply startWork_keeps
    exact hs

theorem doSetCap_keeps {a : State} (g : Nat) (k : Nat) {s : State} (hs : Keeps a s) :
    Keeps a (doSetCap g k s) := by
  unfold doSetCap
  split
  · exact hs
  · apply powerAt_keeps
    exact hs

theorem doGroup_keeps {a : State} (g : Nat) (k : Nat) {s : State} (hs : Keeps a s) :
    Keeps a (doGroup g k s) := by
  unfold doGroup
  split
  · exact hs
  · extract_lets +onlyGivenNames -underBinder s0
    clear_value s0
    extract_lets +onlyGivenNames -underBinder s1
    clear_value s1
    extract_lets +onlyGivenNames -underBinder s2
    have h3 : Keeps a s2 := by
      unfold s2
      apply wr_keeps
      apply wr_keeps
      apply wr_keeps
      apply wr_keeps
      apply wr_keeps
      apply wr_keeps
      exact hs
    clear_value s2
    extract_lets +onlyGivenNames -underBinder s4
    have h5 : Keeps a s4 := by
      unfold s4
      apply setPower_keeps
      exact h3
    clear_value s4
    apply completeDesc_keeps
    exact h5

theorem doPowerAtReached_keeps {a : State} (g : Nat) (k : Nat) {s : State} (hs : Keeps a s) :
    Keeps a (doPowerAtReached g k s) := by
  unfold doPowerAtReached
  split
  · exact hs
  · refine keeps_ite ?_ ?_
    · exact hs
    · apply beginPower_keeps
      apply setPower_keeps
      exact hs

theorem sendAvs_keeps {a : State} (z0 : Avs) {s : State} (hs : Keeps a s) :
    Keeps a (sendAvs z0 s) := by
  unfold sendAvs
  apply emit_keeps
  exact hs

theorem startAvs_keeps {a : State} (r : Nat) (mv : Nat) (p : Option Nat) {s : State} (hs : Keeps a s) :
    Keeps a (startAvs r mv p s) := by
  unfold startAvs
  refine keeps_ite ?_ ?_
  · exact hs
  · extract_lets +onlyGivenNames -underBinder s0
    clear_value s0
    apply sendAvs_keeps
    apply setPower_keeps
    exact hs

theorem setPoint_keeps {a : State} (p : Nat) {s : State} (hs : Keeps a s) :
    Keeps a (setPoint p s) := by
  unfold setPoint
  extract_lets +onlyGivenNames -underBinder s0
  have h1 : Keeps a s0 := by
    unfold s0
    apply setPower_keeps
    exact hs
  clear_value s0
  refine keeps_ite ?_ ?_
  · refine keeps_ite ?_ ?_
    · apply startAvs_keeps
      exact h1
    · exact h1
  · refine keeps_ite ?_ ?_
    · apply startAvs_keeps
      apply wr_keeps
      exact h1
    · refine keeps_ite ?_ ?_
      · exact h1
      · refine keeps_ite ?_ ?_
        · apply setPower_keeps
          exact h1
        · refine keeps_ite ?_ ?_
          · apply wr_keeps
            exact h1
          · refine keeps_ite ?_ ?_
            · exact h1
            · apply startAvs_keeps
              exact h1

theorem doAvsAck_keeps {a : State} (r : Nat) (mv : Nat) {s : State} (hs : Keeps a s) :
    Keeps a (doAvsAck r mv s) := by
  unfold doAvsAck
  split
  · exact hs
  · refine keeps_ite ?_ ?_
    · exact hs
    · extract_lets +onlyGivenNames -underBinder s0
      have h1 : Keeps a s0 := by
        unfold s0
        apply wr_keeps
        apply setPower_keeps
        exact hs
      clear_value s0
      split
      · refine keeps_ite ?_ ?_
        · exact h1
        · refine keeps_ite ?_ ?_
          · apply setPower_keeps
            exact h1
          · apply wr_keeps
            exact h1
      · exact h1

theorem doAvsRetryTimeout_keeps {a : State} (r : Nat) {s : State} (hs : Keeps a s) :
    Keeps a (doAvsRetryTimeout r s) := by
  unfold doAvsRetryTimeout
  split
  · exact hs
  · refine keeps_ite ?_ ?_
    · exact hs
    · extract_lets +onlyGivenNames -underBinder s0
      clear_value s0
      apply sendAvs_keeps
      apply setPower_keeps
      exact hs

theorem doAvsAckTimeout_keeps {a : State} (r : Nat) {s : State} (hs : Keeps a s) :
    Keeps a (doAvsAckTimeout r s) := by
  unfold doAvsAckTimeout
  split
  · exact hs
  · refine keeps_ite ?_ ?_
    · exact hs
    · apply setB_keeps
      apply setB_keeps
      apply setPower_keeps
      exact hs

theorem doPmbusPoll_keeps {a : State} (mv : List Nat) (ma : List Nat) {s : State} (hs : Keeps a s) :
    Keeps a (doPmbusPoll mv ma s) := by
  unfold doPmbusPoll
  refine keeps_ite ?_ ?_
  · exact hs
  · extract_lets +onlyGivenNames -underBinder s0
    have h1 : Keeps a s0 := by
      unfold s0
      apply setPower_keeps
      exact hs
    clear_value s0
    apply forEach_keeps
    · intro x2 x3 x4
      apply wr_keeps
      exact x4
    · exact h1

theorem doDroopDetect_keeps {a : State} (t : Nat) {s : State} (hs : Keeps a s) :
    Keeps a (doDroopDetect t s) := by
  unfold doDroopDetect
  refine keeps_ite ?_ ?_
  · exact hs
  · apply count_keeps
    apply setPower_keeps
    exact hs

theorem doDroopClear_keeps {a : State} (t : Nat) {s : State} (hs : Keeps a s) :
    Keeps a (doDroopClear t s) := by
  unfold doDroopClear
  split
  · refine keeps_ite ?_ ?_
    · apply setPower_keeps
      exact hs
    · exact hs
  · exact hs

theorem doSupplyDipStart_keeps {a : State} (rails : Nat) {s : State} (hs : Keeps a s) :
    Keeps a (doSupplyDipStart rails s) := by
  unfold doSupplyDipStart
  extract_lets +onlyGivenNames -underBinder s0
  have h1 : Keeps a s0 := by
    unfold s0
    apply setPower_keeps
    exact hs
  clear_value s0
  apply setB_keeps
  exact h1

theorem doSupplyDipEnd_keeps {a : State} {s : State} (hs : Keeps a s) :
    Keeps a (doSupplyDipEnd s) := by
  unfold doSupplyDipEnd
  split
  · exact hs
  · refine keeps_ite ?_ ?_
    · exact hs
    · extract_lets +onlyGivenNames -underBinder s0
      clear_value s0
      extract_lets +onlyGivenNames -underBinder s1
      clear_value s1
      extract_lets +onlyGivenNames -underBinder s2
      have h3 : Keeps a s2 := by
        unfold s2
        apply wr_keeps
        apply bumpSat_keeps
        apply setPower_keeps
        apply clrB_keeps
        exact hs
      clear_value s2
      extract_lets +onlyGivenNames -underBinder s4
      have h5 : Keeps a s4 := by
        unfold s4
        split
        · apply setPoint_keeps
          exact h3
        · exact h3
      clear_value s4
      refine keeps_ite ?_ ?_
      · apply setPower_keeps
        exact h5
      · apply hubEvent_keeps
        exact h5

theorem showPower_keeps {a : State} {s : State} (hs : Keeps a s) :
    Keeps a (showPower s) := by
  unfold showPower
  refine keeps_ite ?_ ?_
  · apply wr_keeps
    apply wr_keeps
    exact hs
  · refine keeps_ite ?_ ?_
    · apply setPower_keeps
      apply wr_keeps
      apply wr_keeps
      exact hs
    · exact hs

theorem doPowerPeriod_keeps {a : State} {s : State} (hs : Keeps a s) :
    Keeps a (doPowerPeriod s) := by
  unfold doPowerPeriod
  refine keeps_ite ?_ ?_
  · exact hs
  · extract_lets +onlyGivenNames -underBinder s0
    have h1 : Keeps a s0 := by
      unfold s0
      apply showPower_keeps
      apply setPower_keeps
      exact hs
    clear_value s0
    extract_lets +onlyGivenNames -underBinder s2
    clear_value s2
    extract_lets +onlyGivenNames -underBinder s3
    have h4 : Keeps a s3 := by
      unfold s3
      apply setPower_keeps
      exact h1
    clear_value s3
    refine keeps_ite ?_ ?_
    · exact h4
    · extract_lets +onlyGivenNames -underBinder s5
      clear_value s5
      extract_lets +onlyGivenNames -underBinder s6
      clear_value s6
      extract_lets +onlyGivenNames -underBinder s7
      have h8 : Keeps a s7 := by
        unfold s7
        refine keeps_ite ?_ ?_
        · apply setPoint_keeps
          apply setPower_keeps
          exact h4
        · refine keeps_ite ?_ ?_
          · refine keeps_ite ?_ ?_
            · apply setPoint_keeps
              apply setPower_keeps
              exact h4
            · apply setPower_keeps
              exact h4
          · apply setPower_keeps
            exact h4
      clear_value s7
      apply forEach_keeps
      · intro x9 x10 x11
        apply regrant_keeps
        exact x11
      · exact h8

theorem doThrottleEpoch_keeps {a : State} {s : State} (hs : Keeps a s) :
    Keeps a (doThrottleEpoch s) := by
  unfold doThrottleEpoch
  extract_lets +onlyGivenNames -underBinder s0
  clear_value s0
  refine keeps_ite ?_ ?_
  · exact hs
  · extract_lets +onlyGivenNames -underBinder s1
    clear_value s1
    extract_lets +onlyGivenNames -underBinder s2
    clear_value s2
    extract_lets +onlyGivenNames -underBinder s3
    clear_value s3
    extract_lets +onlyGivenNames -underBinder s4
    clear_value s4
    extract_lets +onlyGivenNames -underBinder s5
    clear_value s5
    extract_lets +onlyGivenNames -underBinder s6
    clear_value s6
    extract_lets +onlyGivenNames -underBinder s7
    clear_value s7
    extract_lets +onlyGivenNames -underBinder s8
    have h9 : Keeps a s8 := by
      unfold s8
      apply setPower_keeps
      exact hs
    clear_value s8
    extract_lets +onlyGivenNames -underBinder s10
    have h11 : Keeps a s10 := by
      unfold s10
      apply setPoint_keeps
      apply wr_keeps
      exact h9
    clear_value s10
    extract_lets +onlyGivenNames -underBinder s12
    have h13 : Keeps a s12 := by
      unfold s12
      apply forEach_keeps
      · intro x14 x15 x16
        apply regrant_keeps
        exact x16
      · exact h11
    clear_value s12
    extract_lets +onlyGivenNames -underBinder s17
    have h18 : Keeps a s17 := by
      unfold s17
      refine keeps_ite ?_ ?_
      · exact h13
      · apply thermalEvent_keeps
        exact h13
    clear_value s17
    split
    · apply startRetrain_keeps
      apply setMem_keeps
      · intro x19
        exact ⟨rfl, rfl⟩
      · exact h18
    · exact h18

theorem takeReport_keeps {a : State} (r : GrpRep) {s : State} (hs : Keeps a s) :
    Keeps a (takeReport r s) := by
  unfold takeReport
  refine keeps_ite ?_ ?_
  · apply setPower_keeps
    exact hs
  · exact hs

theorem doPowerGroupReport_keeps {a : State} {s : State} (hs : Keeps a s) :
    Keeps a (doPowerGroupReport s) := by
  unfold doPowerGroupReport
  extract_lets +onlyGivenNames -underBinder s0
  clear_value s0
  refine keeps_ite ?_ ?_
  · exact hs
  · extract_lets +onlyGivenNames -underBinder s1
    clear_value s1
    extract_lets +onlyGivenNames -underBinder s2
    clear_value s2
    extract_lets +onlyGivenNames -underBinder s3
    clear_value s3
    extract_lets +onlyGivenNames -underBinder s4
    clear_value s4
    extract_lets +onlyGivenNames -underBinder s5
    have h6 : Keeps a s5 := by
      unfold s5
      apply setPower_keeps
      exact hs
    clear_value s5
    refine keeps_ite ?_ ?_
    · apply takeReport_keeps
      exact h6
    · apply tellHub_keeps
      exact h6

theorem takeCap_keeps {a : State} (c : Nat) {s : State} (hs : Keeps a s) :
    Keeps a (takeCap c s) := by
  unfold takeCap
  apply setPower_keeps
  exact hs

theorem doPowerGroupDecide_keeps {a : State} {s : State} (hs : Keeps a s) :
    Keeps a (doPowerGroupDecide s) := by
  unfold doPowerGroupDecide
  refine keeps_ite ?_ ?_
  · exact hs
  · extract_lets +onlyGivenNames -underBinder s0
    clear_value s0
    extract_lets +onlyGivenNames -underBinder s1
    have h2 : Keeps a s1 := by
      unfold s1
      apply setPower_keeps
      exact hs
    clear_value s1
    apply forEach_keeps
    · intro x3 x4 x5
      refine keeps_ite ?_ ?_
      · apply takeCap_keeps
        exact x5
      · apply tellHub_keeps
        exact x5
    · exact h2

theorem doPowerGroupApply_keeps {a : State} {s : State} (hs : Keeps a s) :
    Keeps a (doPowerGroupApply s) := by
  unfold doPowerGroupApply
  split
  · refine keeps_ite ?_ ?_
    · exact hs
    · apply setCaps_keeps
      apply setPower_keeps
      exact hs
  · exact hs

theorem addEnergy_keeps {a : State} (n : Nat) (uj : Nat) {s : State} (hs : Keeps a s) :
    Keeps a (addEnergy n uj s) := by
  unfold addEnergy
  apply bump_keeps
  exact hs

theorem workShares_keeps {a s : State} (hs : Keeps a s) : Keeps a (workShares s).2 := by
  unfold workShares forEach
  refine foldl_keeps_snd (fun y b h => ?_) hs
  dsimp -zeta only
  extract_lets w
  refine keeps_ite_snd (drew_keeps h) (keeps_ite_snd h h)

theorem doEnergyTick_keeps {a : State} {s : State} (hs : Keeps a s) :
    Keeps a (doEnergyTick s) := by
  unfold doEnergyTick
  extract_lets +onlyGivenNames -underBinder s0
  clear_value s0
  extract_lets +onlyGivenNames -underBinder s1
  clear_value s1
  refine keeps_ite ?_ ?_
  · exact hs
  · extract_lets +onlyGivenNames -underBinder s2
    clear_value s2
    extract_lets +onlyGivenNames -underBinder s3
    clear_value s3
    extract_lets +onlyGivenNames -underBinder s4
    clear_value s4
    extract_lets +onlyGivenNames -underBinder s5
    have h6 : Keeps a s5.2 := by
      unfold s5
      apply workShares_keeps
      exact hs
    clear_value s5
    extract_lets +onlyGivenNames -underBinder s7
    clear_value s7
    extract_lets +onlyGivenNames -underBinder s8
    have h9 : Keeps a s8 := by
      unfold s8
      exact h6
    clear_value s8
    extract_lets +onlyGivenNames -underBinder s10
    clear_value s10
    extract_lets +onlyGivenNames -underBinder s11
    clear_value s11
    extract_lets +onlyGivenNames -underBinder s12
    have h13 : Keeps a s12 := by
      unfold s12
      apply forEach_keeps
      · intro x14 x15 x16
        apply addEnergy_keeps
        exact x16
      · exact h9
    clear_value s12
    extract_lets +onlyGivenNames -underBinder s17
    have h18 : Keeps a s17 := by
      unfold s17
      apply addEnergy_keeps
      exact h13
    clear_value s17
    extract_lets +onlyGivenNames -underBinder s19
    clear_value s19
    extract_lets +onlyGivenNames -underBinder s20
    clear_value s20
    extract_lets +onlyGivenNames -underBinder s21
    have h22 : Keeps a s21 := by
      unfold s21
      apply forEach_keeps
      · intro x23 x24 x25
        split
        · apply addEnergy_keeps
          exact x25
        · exact x25
      · exact h18
    clear_value s21
    extract_lets +onlyGivenNames -underBinder s26
    have h27 : Keeps a s26 := by
      unfold s26
      apply bump_keeps
      exact h22
    clear_value s26
    apply setPower_keeps
    exact h27

theorem thermTrip_keeps {a : State} {s : State} (hs : Keeps a s) :
    Keeps a (thermTrip s) := by
  unfold thermTrip
  apply setPower_keeps
  apply releasePins_keeps
  apply emit_keeps
  exact hs

theorem doThermalSample_keeps {a : State} (t : Nat) {s : State} (hs : Keeps a s) :
    Keeps a (doThermalSample t s) := by
  unfold doThermalSample
  refine keeps_ite ?_ ?_
  · exact hs
  · extract_lets +onlyGivenNames -underBinder s0
    clear_value s0
    extract_lets +onlyGivenNames -underBinder s1
    clear_value s1
    extract_lets +onlyGivenNames -underBinder s2
    clear_value s2
    extract_lets +onlyGivenNames -underBinder s3
    clear_value s3
    extract_lets +onlyGivenNames -underBinder s4
    have h5 : Keeps a s4 := by
      unfold s4
      apply wr_keeps
      apply setPower_keeps
      exact hs
    clear_value s4
    refine keeps_ite ?_ ?_
    · apply thermTrip_keeps
      exact h5
    · extract_lets +onlyGivenNames -underBinder s6
      have h7 : Keeps a s6 := by
        unfold s6
        refine keeps_ite ?_ ?_
        · apply setB_keeps
          apply emit_keeps
          exact h5
        · refine keeps_ite ?_ ?_
          · apply setPower_keeps
            apply clrB_keeps
            apply emit_keeps
            exact h5
          · exact h5
      clear_value s6
      extract_lets +onlyGivenNames -underBinder s8
      have h9 : Keeps a s8 := by
        unfold s8
        refine keeps_ite ?_ ?_
        · apply setPower_keeps
          exact h7
        · exact h7
      clear_value s8
      extract_lets +onlyGivenNames -underBinder s10
      have h11 : Keeps a s10 := by
        unfold s10
        refine keeps_ite ?_ ?_
        · apply setPoint_keeps
          apply setPower_keeps
          exact h9
        · exact h9
      clear_value s10
      refine keeps_ite ?_ ?_
      · apply thermalEvent_keeps
        exact h11
      · refine keeps_ite ?_ ?_
        · apply thermalEvent_keeps
          exact h11
        · exact h11

theorem takeProchot_keeps {a : State} {s : State} (hs : Keeps a s) :
    Keeps a (takeProchot s) := by
  unfold takeProchot
  extract_lets +onlyGivenNames -underBinder s0
  have h1 : Keeps a s0 := by
    unfold s0
    apply setB_keeps
    apply setPower_keeps
    exact hs
  clear_value s0
  extract_lets +onlyGivenNames -underBinder s2
  have h3 : Keeps a s2 := by
    unfold s2
    refine keeps_ite ?_ ?_
    · exact h1
    · apply forEach_keeps
      · intro x4 x5 x6
        apply regrant_keeps
        exact x6
      · apply setPoint_keeps
        exact h1
  clear_value s2
  apply thermalEvent_keeps
  exact h3

theorem followProchot_keeps {a : State} {s : State} (hs : Keeps a s) :
    Keeps a (followProchot s) := by
  unfold followProchot
  refine keeps_ite ?_ ?_
  · exact hs
  · refine keeps_ite ?_ ?_
    · apply takeProchot_keeps
      exact hs
    · apply thermalEvent_keeps
      apply clrB_keeps
      exact hs

theorem doProchotAssert_keeps {a : State} {s : State} (hs : Keeps a s) :
    Keeps a (doProchotAssert s) := by
  unfold doProchotAssert
  apply followProchot_keeps
  apply setPower_keeps
  exact hs

theorem doProchotDeassert_keeps {a : State} {s : State} (hs : Keeps a s) :
    Keeps a (doProchotDeassert s) := by
  unfold doProchotDeassert
  apply followProchot_keeps
  apply setPower_keeps
  exact hs

end Sys2Proof.Machine
end

