-- ==== Sys2Proof/Laws/KeepsFirmware.lean ====
section
/-! SUPPORT. Sys2Proof/Laws/KeepsFirmware.lean: every operation of Machine/Firmware.lean keeps what `Keeps` says. -/

namespace Sys2Proof.Machine

open Sys2Proof

theorem doCfgRead_keeps {a : State} {s : State} (hs : Keeps a s) :
    Keeps a (doCfgRead s) := by
  unfold doCfgRead
  apply beginCmd_keeps
  · intro x0 x1
    extract_lets +onlyGivenNames -underBinder s2
    clear_value s2
    extract_lets +onlyGivenNames -underBinder s3
    clear_value s3
    extract_lets +onlyGivenNames -underBinder s4
    clear_value s4
    refine keeps_ite ?_ ?_
    · apply cmdEnd_keeps
      exact x1
    · split
      · apply cmdEnd_keeps
        exact x1
      · extract_lets +onlyGivenNames -underBinder s5
        clear_value s5
        extract_lets +onlyGivenNames -underBinder s6
        clear_value s6
        extract_lets +onlyGivenNames -underBinder s7
        have h8 : Keeps a s7 := by
          unfold s7
          apply forEach_keeps
          · intro x9 x10 x11
            apply wr_keeps
            exact x11
          · exact x1
        clear_value s7
        apply cmdEnd_keeps
        exact h8
  · exact hs

theorem commitCfg_keeps {a : State} {s : State} (hs : Keeps a s) :
    Keeps a (commitCfg s) := by
  unfold commitCfg
  extract_lets +onlyGivenNames -underBinder s0
  clear_value s0
  apply cmdEnd_keeps
  apply setBoot_keeps
  apply commitBody_keeps
  exact hs

theorem doCfgWrite_keeps {a : State} {s : State} (hs : Keeps a s) :
    Keeps a (doCfgWrite s) := by
  unfold doCfgWrite
  apply beginCmd_keeps
  · intro x0 x1
    extract_lets +onlyGivenNames -underBinder s2
    clear_value s2
    extract_lets +onlyGivenNames -underBinder s3
    clear_value s3
    extract_lets +onlyGivenNames -underBinder s4
    clear_value s4
    extract_lets +onlyGivenNames -underBinder s5
    clear_value s5
    extract_lets +onlyGivenNames -underBinder s6
    clear_value s6
    refine keeps_ite ?_ ?_
    · apply cmdEnd_keeps
      exact x1
    · extract_lets +onlyGivenNames -underBinder s7
      clear_value s7
      extract_lets +onlyGivenNames -underBinder s8
      have h9 : Keeps a s8 := by
        unfold s8
        apply setBoot_keeps
        exact x1
      clear_value s8
      refine keeps_ite ?_ ?_
      · apply cmdEnd_keeps
        exact h9
      · refine keeps_ite ?_ ?_
        · apply setBoot_keeps
          exact h9
        · apply commitCfg_keeps
          exact h9
  · exact hs

theorem setStaging_keeps {a : State} (t : Nat) (b : FwBank) {s : State} (hs : Keeps a s) :
    Keeps a (setStaging t b s) := by
  unfold setStaging
  extract_lets +onlyGivenNames -underBinder s0
  clear_value s0
  apply setBoot_keeps
  exact hs

theorem setStage_keeps {a : State} (t : Nat) (st : Nat) (missing : Nat) (ver : Nat) {s : State} (hs : Keeps a s) :
    Keeps a (setStage t st missing ver s) := by
  unfold setStage
  apply wr_keeps
  apply wr_keeps
  apply wr_keeps
  exact hs

theorem stageGraver_keeps {a : State} (t : Nat) (ver : Nat) (img : List Byte) {s : State} (hs : Keeps a s) :
    Keeps a (stageGraver t ver img s) := by
  unfold stageGraver
  refine keeps_ite ?_ ?_
  · exact hs
  · apply forEach_keeps
    · intro x0 x1 x2
      apply stageSet_keeps
      exact x2
    · exact hs

theorem stageImage_keeps {a : State} (t : Nat) (b : FwBank) {s : State} (hs : Keeps a s) :
    Keeps a (stageImage t b s) := by
  unfold stageImage
  apply stageGraver_keeps
  apply setStage_keeps
  apply setStaging_keeps
  exact hs

theorem commitImage_keeps {a : State} {s : State} (hs : Keeps a s) :
    Keeps a (commitImage s) := by
  unfold commitImage
  extract_lets +onlyGivenNames -underBinder s0
  clear_value s0
  extract_lets +onlyGivenNames -underBinder s1
  clear_value s1
  extract_lets +onlyGivenNames -underBinder s2
  clear_value s2
  extract_lets +onlyGivenNames -underBinder s3
  clear_value s3
  extract_lets +onlyGivenNames -underBinder s4
  clear_value s4
  extract_lets +onlyGivenNames -underBinder s5
  have h6 : Keeps a s5 := by
    unfold s5
    apply setBoot_keeps
    exact hs
  clear_value s5
  refine keeps_ite ?_ ?_
  · apply cmdEnd_keeps
    apply stageImage_keeps
    exact h6
  · apply cmdEnd_keeps
    apply setStage_keeps
    apply setStaging_keeps
    exact h6

theorem doImageLoad_keeps {a : State} {s : State} (hs : Keeps a s) :
    Keeps a (doImageLoad s) := by
  unfold doImageLoad
  apply beginCmd_keeps
  · intro x0 x1
    extract_lets +onlyGivenNames -underBinder s2
    clear_value s2
    extract_lets +onlyGivenNames -underBinder s3
    clear_value s3
    extract_lets +onlyGivenNames -underBinder s4
    clear_value s4
    extract_lets +onlyGivenNames -underBinder s5
    clear_value s5
    extract_lets +onlyGivenNames -underBinder s6
    clear_value s6
    refine keeps_ite ?_ ?_
    · apply cmdEnd_keeps
      exact x1
    · extract_lets +onlyGivenNames -underBinder s7
      clear_value s7
      extract_lets +onlyGivenNames -underBinder s8
      have h9 : Keeps a s8 := by
        unfold s8
        apply setBoot_keeps
        exact x1
      clear_value s8
      refine keeps_ite ?_ ?_
      · apply cmdEnd_keeps
        exact h9
      · refine keeps_ite ?_ ?_
        · apply setBoot_keeps
          exact h9
        · apply commitImage_keeps
          exact h9
  · exact hs

theorem settleCommits_keeps {a : State} {s : State} (hs : Keeps a s) :
    Keeps a (settleCommits s) := by
  unfold settleCommits
  refine keeps_ite ?_ ?_
  · exact hs
  · split
    · exact hs
    · extract_lets +onlyGivenNames -underBinder s0
      have h1 : Keeps a s0 := by
        unfold s0
        apply setBoot_keeps
        exact hs
      clear_value s0
      refine keeps_ite ?_ ?_
      · apply commitCfg_keeps
        exact h1
      · apply commitImage_keeps
        exact h1

theorem doFwStage_keeps {a : State} (g : Nat) (k : Nat) {s : State} (hs : Keeps a s) :
    Keeps a (doFwStage g k s) := by
  unfold doFwStage
  split
  · exact hs
  · refine keeps_ite ?_ ?_
    · exact hs
    · extract_lets +onlyGivenNames -underBinder s0
      clear_value s0
      extract_lets +onlyGivenNames -underBinder s1
      clear_value s1
      refine keeps_ite ?_ ?_
      · apply claim_keeps
        exact hs
      · extract_lets +onlyGivenNames -underBinder s2
        have h3 : Keeps a s2.2.2 := by
          unfold s2
          apply homeGet_keeps
          exact hs
        clear_value s2
        refine keeps_ite ?_ ?_
        · apply failDesc_keeps
          exact h3
        · extract_lets +onlyGivenNames -underBinder s4
          clear_value s4
          extract_lets +onlyGivenNames -underBinder s5
          clear_value s5
          refine keeps_ite ?_ ?_
          · apply failDesc_keeps
            exact h3
          · apply completeDesc_keeps
            apply stageImage_keeps
            exact h3

theorem mcastOut_keeps {a : State} (grp : Nat) (k : Pkt) {s : State} (hs : Keeps a s) :
    Keeps a (mcastOut grp k s) := by
  unfold mcastOut
  extract_lets +onlyGivenNames -underBinder s0
  clear_value s0
  extract_lets +onlyGivenNames -underBinder s1
  clear_value s1
  refine keeps_ite ?_ ?_
  · apply bumpSat_keeps
    exact hs
  · apply forEach_keeps
    · intro x2 x3 x4
      refine keeps_ite ?_ ?_
      · apply setB_keeps
        exact x4
      · apply sendDir_keeps
        exact x4
    · exact hs

theorem sendChunk_keeps {a : State} (grp : Nat) (t : Nat) (transfer : Nat) (manifest : Bool) (idx : Nat) (data : List Byte) {s : State} (hs : Keeps a s) :
    Keeps a (sendChunk grp t transfer manifest idx data s) := by
  unfold sendChunk
  apply forEach_keeps
  · intro x0 x1 x2
    apply mcastOut_keeps
    exact x2
  · exact hs

theorem doFwBroadcast_keeps {a : State} (g : Nat) (k : Nat) {s : State} (hs : Keeps a s) :
    Keeps a (doFwBroadcast g k s) := by
  unfold doFwBroadcast
  split
  · exact hs
  · extract_lets +onlyGivenNames -underBinder s0
    clear_value s0
    extract_lets +onlyGivenNames -underBinder s1
    clear_value s1
    refine keeps_ite ?_ ?_
    · apply failDesc_keeps
      exact hs
    · refine keeps_ite ?_ ?_
      · apply failDesc_keeps
        exact hs
      · extract_lets +onlyGivenNames -underBinder s2
        clear_value s2
        extract_lets +onlyGivenNames -underBinder s3
        clear_value s3
        extract_lets +onlyGivenNames -underBinder s4
        have h5 : Keeps a s4 := by
          unfold s4
          apply setBoot_keeps
          exact hs
        clear_value s4
        extract_lets +onlyGivenNames -underBinder s6
        have h7 : Keeps a s6 := by
          unfold s6
          apply forEach_keeps
          · intro x8 x9 x10
            apply sendChunk_keeps
            exact x10
          · exact h5
        clear_value s6
        extract_lets +onlyGivenNames -underBinder s11
        have h12 : Keeps a s11 := by
          unfold s11
          apply forEach_keeps
          · intro x13 x14 x15
            apply sendChunk_keeps
            exact x15
          · exact h7
        clear_value s11
        apply completeDesc_keeps
        exact h12

theorem doFwStatus_keeps {a : State} (g : Nat) (k : Nat) {s : State} (hs : Keeps a s) :
    Keeps a (doFwStatus g k s) := by
  unfold doFwStatus
  split
  · exact hs
  · extract_lets +onlyGivenNames -underBinder s0
    clear_value s0
    refine keeps_ite ?_ ?_
    · apply failDesc_keeps
      exact hs
    · extract_lets +onlyGivenNames -underBinder s1
      clear_value s1
      apply completeDesc_keeps
      exact hs

theorem setXfer_keeps {a : State} (t : Nat) (x : FwXfer) {s : State} (hs : Keeps a s) :
    Keeps a (setXfer t x s) := by
  unfold setXfer
  apply setBoot_keeps
  exact hs

theorem dropXfer_keeps {a : State} (t : Nat) {s : State} (hs : Keeps a s) :
    Keeps a (dropXfer t s) := by
  unfold dropXfer
  apply setBoot_keeps
  exact hs

theorem askChunk_keeps {a : State} (origin : Nat) (t : Nat) (transfer : Nat) (manifest : Bool) (idx : Nat) {s : State} (hs : Keeps a s) :
    Keeps a (askChunk origin t transfer manifest idx s) := by
  unfold askChunk
  apply tellHub_keeps
  exact hs

theorem giveChunk_keeps {a : State} (z0 : Nat) (t : Nat) (transfer : Nat) (manifest : Bool) (idx : Nat) (c : List Byte) {s : State} (hs : Keeps a s) :
    Keeps a (giveChunk z0 t transfer manifest idx c s) := by
  unfold giveChunk
  apply emit_keeps
  exact hs

theorem answerAsks_keeps {a : State} (t : Nat) (transfer : Nat) {s : State} (hs : Keeps a s) :
    Keeps a (answerAsks t transfer s) := by
  unfold answerAsks
  apply forEach_keeps
  · intro x0 x1 x2
    refine keeps_ite ?_ ?_
    · exact x2
    · split
      · apply giveChunk_keeps
        apply setBoot_keeps
        exact x2
      · exact x2
  · exact hs

theorem settleXfer_keeps {a : State} (t : Nat) (x : FwXfer) {s : State} (hs : Keeps a s) :
    Keeps a (settleXfer t x s) := by
  unfold settleXfer
  extract_lets +onlyGivenNames -underBinder s0
  have h1 : Keeps a s0 := by
    unfold s0
    apply setXfer_keeps
    exact hs
  clear_value s0
  split
  · exact h1
  · refine keeps_ite ?_ ?_
    · apply dropXfer_keeps
      apply setStage_keeps
      exact h1
    · extract_lets +onlyGivenNames -underBinder s2
      clear_value s2
      extract_lets +onlyGivenNames -underBinder s3
      have h4 : Keeps a s3 := by
        unfold s3
        apply answerAsks_keeps
        apply setStage_keeps
        exact h1
      clear_value s3
      refine keeps_ite ?_ ?_
      · exact h4
      · extract_lets +onlyGivenNames -underBinder s5
        clear_value s5
        extract_lets +onlyGivenNames -underBinder s6
        have h7 : Keeps a s6 := by
          unfold s6
          apply stageImage_keeps
          apply dropXfer_keeps
          exact h4
        clear_value s6
        extract_lets +onlyGivenNames -underBinder s8
        have h9 : Keeps a s8 := by
          unfold s8
          apply hubEvent_keeps
          exact h7
        clear_value s8
        apply tellHub_keeps
        exact h9

theorem takePart_keeps {a : State} (t : Nat) (origin : Nat) (transfer : Nat) (manifest : Bool) (idx : Nat) (part : Nat) (data : List Byte) {s : State} (hs : Keeps a s) :
    Keeps a (takePart t origin transfer manifest idx part data s) := by
  unfold takePart
  refine keeps_ite ?_ ?_
  · exact hs
  · extract_lets +onlyGivenNames -underBinder s0
    have h1 : ∀ y0 y1, Keeps a y1 → Keeps a (s0 y0 y1) := by
      unfold s0
      intro x2 x3 x4
      apply settleXfer_keeps
      exact x4
    clear_value s0
    split
    · refine keeps_ite ?_ ?_
      · apply h1
        exact hs
      · refine keeps_ite ?_ ?_
        · apply h1
          apply setStage_keeps
          apply setStaging_keeps
          exact hs
        · exact hs
    · refine keeps_ite ?_ ?_
      · apply h1
        apply setStage_keeps
        apply setStaging_keeps
        exact hs
      · exact hs

theorem takeChunkPacket_keeps {a : State} (k : Pkt) {s : State} (hs : Keeps a s) :
    Keeps a (takeChunkPacket k s) := by
  unfold takeChunkPacket
  extract_lets +onlyGivenNames -underBinder s0
  clear_value s0
  apply takePart_keeps
  exact hs

theorem takeChunkRequest_keeps {a : State} (src : Nat) (t : Nat) (transfer : Nat) (manifest : Bool) (idx : Nat) (origin : Nat) {s : State} (hs : Keeps a s) :
    Keeps a (takeChunkRequest src t transfer manifest idx origin s) := by
  unfold takeChunkRequest
  refine keeps_ite ?_ ?_
  · exact hs
  · split
    · apply giveChunk_keeps
      exact hs
    · apply askChunk_keeps
      apply setBoot_keeps
      exact hs

theorem takeChunk_keeps {a : State} (t : Nat) (transfer : Nat) (manifest : Bool) (idx : Nat) (data : List Byte) {s : State} (hs : Keeps a s) :
    Keeps a (takeChunk t transfer manifest idx data s) := by
  unfold takeChunk
  split
  · refine keeps_ite ?_ ?_
    · exact hs
    · extract_lets +onlyGivenNames -underBinder s0
      clear_value s0
      apply settleXfer_keeps
      exact hs
  · exact hs

theorem takeStaged_keeps {a : State} (src : Nat) (transfer : Nat) {s : State} (hs : Keeps a s) :
    Keeps a (takeStaged src transfer s) := by
  unfold takeStaged
  apply setBoot_keeps
  exact hs

theorem doFwChunkTimeout_keeps {a : State} (t : Nat) {s : State} (hs : Keeps a s) :
    Keeps a (doFwChunkTimeout t s) := by
  unfold doFwChunkTimeout
  split
  · exact hs
  · refine keeps_ite ?_ ?_
    · exact hs
    · refine keeps_ite ?_ ?_
      · apply dropXfer_keeps
        apply wr_keeps
        exact hs
      · extract_lets +onlyGivenNames -underBinder s0
        have h1 : Keeps a s0 := by
          unfold s0
          apply setXfer_keeps
          exact hs
        clear_value s0
        split
        · apply forEach_keeps
          · intro x2 x3 x4
            apply askChunk_keeps
            exact x4
          · exact h1
        · extract_lets +onlyGivenNames -underBinder s5
          clear_value s5
          apply forEach_keeps
          · intro x6 x7 x8
            apply askChunk_keeps
            exact x8
          · exact h1

theorem startRtpReset_keeps {a : State} {s : State} (hs : Keeps a s) :
    Keeps a (startRtpReset s) := by
  unfold startRtpReset
  extract_lets +onlyGivenNames -underBinder s0
  have h1 : Keeps a s0 := by
    unfold s0
    apply resetWhere_keeps
    exact hs
  clear_value s0
  extract_lets +onlyGivenNames -underBinder s2
  have h3 : Keeps a s2 := by
    unfold s2
    refine keeps_ite ?_ ?_
    · apply setB_keeps
      exact h1
    · exact h1
  clear_value s2
  extract_lets +onlyGivenNames -underBinder s4
  have h5 : Keeps a s4 := by
    unfold s4
    apply setLife_keeps
    · intro x6
      exact ⟨rfl, rfl⟩
    · exact h3
  clear_value s4
  extract_lets +onlyGivenNames -underBinder s7
  clear_value s7
  extract_lets +onlyGivenNames -underBinder s8
  have h9 : Keeps a s8 := by
    unfold s8
    apply setSec_keeps
    exact h5
  clear_value s8
  extract_lets +onlyGivenNames -underBinder s10
  have h11 : Keeps a s10 := by
    unfold s10
    apply setBoot_keeps
    exact h9
  clear_value s10
  apply setB_keeps
  apply clrB_keeps
  exact h11

theorem doRtpReset_keeps {a : State} {s : State} (hs : Keeps a s) :
    Keeps a (doRtpReset s) := by
  unfold doRtpReset
  refine keeps_ite ?_ ?_
  · exact hs
  · apply startRtpReset_keeps
    exact hs

theorem selftestsPass_keeps {a : State} {s : State} (hs : Keeps a s) :
    Keeps a (selftestsPass s) := by
  unfold selftestsPass
  extract_lets +onlyGivenNames -underBinder s0
  have h1 : Keeps a s0 := by
    unfold s0
    refine keeps_ite ?_ ?_
    · exact hs
    · apply setSec_keeps
      exact hs
  clear_value s0
  refine keeps_ite ?_ ?_
  · exact h1
  · apply setB_keeps
    exact h1

theorem endRtpReset_keeps {a : State} {s : State} (hs : Keeps a s) :
    Keeps a (endRtpReset s) := by
  unfold endRtpReset
  extract_lets +onlyGivenNames -underBinder s0
  have h1 : Keeps a s0 := by
    unfold s0
    apply setSec_keeps
    exact hs
  clear_value s0
  apply noteGroups_keeps
  apply selftestsPass_keeps
  apply startWipe_keeps
  apply clrB_keeps
  exact h1

theorem settleRtp_keeps {a : State} {s : State} (hs : Keeps a s) :
    Keeps a (settleRtp s) := by
  unfold settleRtp
  split
  · refine keeps_ite ?_ ?_
    · apply endRtpReset_keeps
      exact hs
    · exact hs
  · exact hs

theorem activateImage_keeps {a : State} (t : Nat) {s : State} (hs : Keeps a s) :
    Keeps a (activateImage t s) := by
  unfold activateImage
  extract_lets +onlyGivenNames -underBinder s0
  clear_value s0
  extract_lets +onlyGivenNames -underBinder s1
  clear_value s1
  extract_lets +onlyGivenNames -underBinder s2
  have h3 : Keeps a s2 := by
    unfold s2
    apply wr_keeps
    apply wr_keeps
    apply wr_keeps
    exact hs
  clear_value s2
  extract_lets +onlyGivenNames -underBinder s4
  have h5 : Keeps a s4 := by
    unfold s4
    apply setBoot_keeps
    exact h3
  clear_value s4
  extract_lets +onlyGivenNames -underBinder s6
  clear_value s6
  extract_lets +onlyGivenNames -underBinder s7
  have h8 : Keeps a s7 := by
    unfold s7
    refine keeps_ite ?_ ?_
    · exact h5
    · apply program_keeps
      exact h5
  clear_value s7
  extract_lets +onlyGivenNames -underBinder s9
  have h10 : Keeps a s9 := by
    unfold s9
    apply hubEvent_keeps
    exact h8
  clear_value s9
  split
  · refine keeps_ite ?_ ?_
    · exact h10
    · apply startRtpReset_keeps
      exact h10
  · apply forEach_keeps
    · intro x11 x12 x13
      apply activateSet_keeps
      exact x13
    · exact h10
  · exact h10

theorem activateFw_keeps {a : State} (t : Nat) (ver : Nat) {s : State} (hs : Keeps a s) :
    Keeps a (activateFw t ver s).2 := by
  unfold activateFw
  split
  · refine keeps_mk ?_
    apply activateImage_keeps
    exact hs
  · refine keeps_mk ?_
    apply hubEvent_keeps
    exact hs

theorem settleDirs_keeps {a : State} {s : State} (hs : Keeps a s) :
    Keeps a (settleDirs s) := by
  unfold settleDirs
  apply forEach_keeps
  · intro x0 x1 x2
    refine keeps_ite ?_ ?_
    · exact x2
    · apply setBoot_keeps
      exact x2
  · exact hs

end Sys2Proof.Machine
end

