-- ==== Sys2Proof/Laws/KeepsService.lean ====
section
/-! SUPPORT. Sys2Proof/Laws/KeepsService.lean: every operation of Machine/Service.lean keeps what `Keeps` says. -/

namespace Sys2Proof.Machine

open Sys2Proof

theorem loadBuiltIn_keeps {a : State} (t : Nat) {s : State} (hs : Keeps a s) :
    Keeps a (loadBuiltIn t s) := by
  unfold loadBuiltIn
  extract_lets +onlyGivenNames -underBinder s0
  clear_value s0
  extract_lets +onlyGivenNames -underBinder s1
  clear_value s1
  extract_lets +onlyGivenNames -underBinder s2
  clear_value s2
  apply setGrv_keeps
  apply wr_keeps
  exact hs

theorem resetTile_keeps {a : State} (t : Nat) {s : State} (hs : Keeps a s) :
    Keeps a (resetTile t s) := by
  unfold resetTile
  extract_lets +onlyGivenNames -underBinder s0
  clear_value s0
  extract_lets +onlyGivenNames -underBinder s1
  clear_value s1
  extract_lets +onlyGivenNames -underBinder s2
  have h3 : Keeps a s2 := by
    unfold s2
    apply resetWhere_keeps
    exact hs
  clear_value s2
  extract_lets +onlyGivenNames -underBinder s4
  have h5 : Keeps a s4 := by
    unfold s4
    apply setGrv_keeps
    apply zeroUnit_keeps
    exact h3
  clear_value s4
  extract_lets +onlyGivenNames -underBinder s6
  have h7 : Keeps a s6 := by
    unfold s6
    apply loadBuiltIn_keeps
    exact h5
  clear_value s6
  refine keeps_ite ?_ ?_
  · apply wr_keeps
    exact h7
  · exact h7

theorem changeEvent_keeps {a : State} (v : Svc) (start : Bool) {s : State} (hs : Keeps a s) :
    Keeps a (changeEvent v start s) := by
  unfold changeEvent
  apply hubEvent_keeps
  exact hs

theorem setSvc_keeps {a : State} (v : Svc) {s : State} (hs : Keeps a s) :
    Keeps a (setSvc v s) := by
  unfold setSvc
  apply setBoot_keeps
  exact hs

theorem startSvc_keeps {a : State} (v : Svc) (phase : Nat) {s : State} (hs : Keeps a s) :
    Keeps a (startSvc v phase s) := by
  unfold startSvc
  apply changeEvent_keeps
  apply setSvc_keeps
  exact hs

theorem endSvc_keeps {a : State} (v : Svc) (st : Status) (result : Nat) {s : State} (hs : Keeps a s) :
    Keeps a (endSvc v st result s) := by
  unfold endSvc
  extract_lets +onlyGivenNames -underBinder s0
  have h1 : Keeps a s0 := by
    unfold s0
    apply setBoot_keeps
    exact hs
  clear_value s0
  extract_lets +onlyGivenNames -underBinder s2
  have h3 : Keeps a s2 := by
    unfold s2
    refine keeps_ite ?_ ?_
    · exact h1
    · apply changeEvent_keeps
      exact h1
  clear_value s2
  apply completeDesc_keeps
  exact h3

theorem planBuckets_keeps {a : State} (l : List (Nat × Nat)) {s : State} (hs : Keeps a s) :
    Keeps a (planBuckets l s) := by
  unfold planBuckets
  apply startBucketMove_keeps
  apply setMem_keeps
  · intro x0
    exact ⟨rfl, rfl⟩
  · exact hs

theorem dropQueue_keeps {a : State} (t : Nat) {s : State} (hs : Keeps a s) :
    Keeps a (dropQueue t s) := by
  unfold dropQueue
  extract_lets +onlyGivenNames -underBinder s0
  clear_value s0
  apply forEach_keeps
  · intro x1 x2 x3
    split
    · apply failDesc_keeps
      exact x3
    · apply launchRecord_keeps
      exact x3
    · apply rerunItem_keeps
      exact x3
  · apply setGrv_keeps
    exact hs

theorem beginTileOut_keeps {a : State} (v : Svc) {s : State} (hs : Keeps a s) :
    Keeps a (beginTileOut v s) := by
  unfold beginTileOut
  refine keeps_ite ?_ ?_
  · exact hs
  · refine keeps_ite ?_ ?_
    · apply endSvc_keeps
      exact hs
    · apply dropQueue_keeps
      apply startSvc_keeps
      exact hs

theorem stepTileOut_keeps {a : State} (v : Svc) {s : State} (hs : Keeps a s) :
    Keeps a (stepTileOut v s) := by
  unfold stepTileOut
  refine keeps_ite ?_ ?_
  · refine keeps_ite ?_ ?_
    · exact hs
    · extract_lets +onlyGivenNames -underBinder s0
      clear_value s0
      apply planBuckets_keeps
      apply setSvc_keeps
      exact hs
  · refine keeps_ite ?_ ?_
    · exact hs
    · apply endSvc_keeps
      apply wr_keeps
      apply resetTile_keeps
      exact hs

theorem beginTileIn_keeps {a : State} (v : Svc) {s : State} (hs : Keeps a s) :
    Keeps a (beginTileIn v s) := by
  unfold beginTileIn
  refine keeps_ite ?_ ?_
  · exact hs
  · refine keeps_ite ?_ ?_
    · apply endSvc_keeps
      exact hs
    · extract_lets +onlyGivenNames -underBinder s0
      have h1 : Keeps a s0 := by
        unfold s0
        apply startSvc_keeps
        exact hs
      clear_value s0
      extract_lets +onlyGivenNames -underBinder s2
      clear_value s2
      refine keeps_ite ?_ ?_
      · apply endSvc_keeps
        exact h1
      · extract_lets +onlyGivenNames -underBinder s3
        have h4 : Keeps a s3 := by
          unfold s3
          apply wipeTile_keeps
          apply resetTile_keeps
          exact h1
        clear_value s3
        extract_lets +onlyGivenNames -underBinder s5
        clear_value s5
        apply planBuckets_keeps
        apply setSvc_keeps
        exact h4

theorem stepTileIn_keeps {a : State} (v : Svc) {s : State} (hs : Keeps a s) :
    Keeps a (stepTileIn v s) := by
  unfold stepTileIn
  refine keeps_ite ?_ ?_
  · exact hs
  · apply endSvc_keeps
    apply wr_keeps
    exact hs

theorem planMoves_keeps {a : State} (l : List (Nat × Nat × Nat)) {s : State} (hs : Keeps a s) :
    Keeps a (planMoves l s) := by
  unfold planMoves
  apply nextMove_keeps
  apply setMem_keeps
  · intro x0
    exact ⟨rfl, rfl⟩
  · exact hs

theorem beginSiteOut_keeps {a : State} (v : Svc) {s : State} (hs : Keeps a s) :
    Keeps a (beginSiteOut v s) := by
  unfold beginSiteOut
  extract_lets +onlyGivenNames -underBinder s0
  clear_value s0
  extract_lets +onlyGivenNames -underBinder s1
  clear_value s1
  extract_lets +onlyGivenNames -underBinder s2
  clear_value s2
  refine keeps_ite ?_ ?_
  · apply endSvc_keeps
    exact hs
  · extract_lets +onlyGivenNames -underBinder s3
    clear_value s3
    extract_lets +onlyGivenNames -underBinder s4
    have h5 : Keeps a s4 := by
      unfold s4
      apply startSvc_keeps
      exact hs
    clear_value s4
    extract_lets +onlyGivenNames -underBinder s6
    clear_value s6
    extract_lets +onlyGivenNames -underBinder s7
    have h8 : Keeps a s7 := by
      unfold s7
      apply setBoot_keeps
      exact h5
    clear_value s7
    apply planMoves_keeps
    exact h8

theorem stepSiteOut_keeps {a : State} (v : Svc) {s : State} (hs : Keeps a s) :
    Keeps a (stepSiteOut v s) := by
  unfold stepSiteOut
  refine keeps_ite ?_ ?_
  · exact hs
  · refine keeps_ite ?_ ?_
    · apply endSvc_keeps
      exact hs
    · apply endSvc_keeps
      apply wr_keeps
      apply wr_keeps
      exact hs

theorem setSiteMode_keeps {a : State} (j : Nat) (ok : Nat) {s : State} (hs : Keeps a s) :
    Keeps a (setSiteMode j ok s) := by
  unfold setSiteMode
  extract_lets +onlyGivenNames -underBinder s0
  have h1 : Keeps a s0 := by
    unfold s0
    apply wr_keeps
    exact hs
  clear_value s0
  refine keeps_ite ?_ ?_
  · apply wr_keeps
    apply wr_keeps
    apply wr_keeps
    exact h1
  · refine keeps_ite ?_ ?_
    · apply wr_keeps
      apply wr_keeps
      apply wr_keeps
      exact h1
    · refine keeps_ite ?_ ?_
      · apply wr_keeps
        apply wr_keeps
        apply wr_keeps
        exact h1
      · apply wr_keeps
        apply wr_keeps
        apply wr_keeps
        exact h1

theorem beginSiteIn_keeps {a : State} (v : Svc) {s : State} (hs : Keeps a s) :
    Keeps a (beginSiteIn v s) := by
  unfold beginSiteIn
  extract_lets +onlyGivenNames -underBinder s0
  clear_value s0
  refine keeps_ite ?_ ?_
  · apply endSvc_keeps
    exact hs
  · extract_lets +onlyGivenNames -underBinder s1
    have h2 : Keeps a s1 := by
      unfold s1
      apply startSvc_keeps
      apply bump_keeps
      exact hs
    clear_value s1
    extract_lets +onlyGivenNames -underBinder s3
    clear_value s3
    extract_lets +onlyGivenNames -underBinder s4
    have h5 : Keeps a s4 := by
      unfold s4
      apply setSiteMode_keeps
      exact h2
    clear_value s4
    extract_lets +onlyGivenNames -underBinder s6
    have h7 : Keeps a s6 := by
      unfold s6
      apply forEach_keeps
      · intro x8 x9 x10
        refine keeps_ite ?_ ?_
        · apply trainRate_keeps
          exact x10
        · apply noteFailed_keeps
          exact x10
      · exact h5
    clear_value s6
    extract_lets +onlyGivenNames -underBinder s11
    clear_value s11
    extract_lets +onlyGivenNames -underBinder s12
    have h13 : Keeps a s12 := by
      unfold s12
      apply setBoot_keeps
      exact h7
    clear_value s12
    refine keeps_ite ?_ ?_
    · apply endSvc_keeps
      exact h13
    · extract_lets +onlyGivenNames -underBinder s14
      clear_value s14
      extract_lets +onlyGivenNames -underBinder s15
      clear_value s15
      extract_lets +onlyGivenNames -underBinder s16
      clear_value s16
      extract_lets +onlyGivenNames -underBinder s17
      have h18 : Keeps a s17 := by
        unfold s17
        refine keeps_ite ?_ ?_
        · exact h13
        · apply wr_keeps
          exact h13
      clear_value s17
      apply planMoves_keeps
      apply setSvc_keeps
      exact h18

theorem stepSiteIn_keeps {a : State} (v : Svc) {s : State} (hs : Keeps a s) :
    Keeps a (stepSiteIn v s) := by
  unfold stepSiteIn
  refine keeps_ite ?_ ?_
  · exact hs
  · refine keeps_ite ?_ ?_
    · apply endSvc_keeps
      exact hs
    · apply endSvc_keeps
      exact hs

theorem stepSvc_keeps {a : State} {s : State} (hs : Keeps a s) :
    Keeps a (stepSvc s) := by
  unfold stepSvc
  split
  · exact hs
  · split
    · apply beginTileOut_keeps
      exact hs
    · apply stepTileOut_keeps
      exact hs
    · apply beginTileIn_keeps
      exact hs
    · apply stepTileIn_keeps
      exact hs
    · apply beginSiteOut_keeps
      exact hs
    · apply stepSiteOut_keeps
      exact hs
    · apply beginSiteIn_keeps
      exact hs
    · apply stepSiteIn_keeps
      exact hs

theorem settleSvc_keeps {a : State} {s : State} (hs : Keeps a s) :
    Keeps a (settleSvc s) := by
  unfold settleSvc
  apply forEach_keeps
  · intro x0 x1 x2
    apply stepSvc_keeps
    exact x2
  · exact hs

theorem acceptSvc_keeps {a : State} (v : Svc) {s : State} (hs : Keeps a s) :
    Keeps a (acceptSvc v s) := by
  unfold acceptSvc
  refine keeps_ite ?_ ?_
  · exact hs
  · apply settleSvc_keeps
    apply setBoot_keeps
    exact hs

theorem doTileOut_keeps {a : State} (g : Nat) (k : Nat) {s : State} (hs : Keeps a s) :
    Keeps a (doTileOut g k s) := by
  unfold doTileOut
  split
  · exact hs
  · extract_lets +onlyGivenNames -underBinder s0
    clear_value s0
    refine keeps_ite ?_ ?_
    · apply failDesc_keeps
      exact hs
    · apply acceptSvc_keeps
      exact hs

theorem doTileLaunchGraceTimeout_keeps {a : State} {s : State} (hs : Keeps a s) :
    Keeps a (doTileLaunchGraceTimeout s) := by
  unfold doTileLaunchGraceTimeout
  split
  · refine keeps_ite ?_ ?_
    · extract_lets +onlyGivenNames -underBinder s0
      have h1 : Keeps a s0 := by
        unfold s0
        split
        · refine keeps_ite ?_ ?_
          · apply tileLost_keeps
            exact hs
          · apply abortRun_keeps
            exact hs
        · assumption
      clear_value s0
      apply settleSvc_keeps
      exact h1
    · exact hs
  · exact hs

theorem doTileIn_keeps {a : State} (g : Nat) (k : Nat) (pass : Bool) {s : State} (hs : Keeps a s) :
    Keeps a (doTileIn g k pass s) := by
  unfold doTileIn
  split
  · exact hs
  · extract_lets +onlyGivenNames -underBinder s0
    clear_value s0
    refine keeps_ite ?_ ?_
    · apply failDesc_keeps
      exact hs
    · apply acceptSvc_keeps
      exact hs

theorem doMemsiteOut_keeps {a : State} (g : Nat) (k : Nat) {s : State} (hs : Keeps a s) :
    Keeps a (doMemsiteOut g k s) := by
  unfold doMemsiteOut
  split
  · exact hs
  · extract_lets +onlyGivenNames -underBinder s0
    clear_value s0
    refine keeps_ite ?_ ?_
    · apply failDesc_keeps
      exact hs
    · apply acceptSvc_keeps
      exact hs

theorem doMemsiteIn_keeps {a : State} (g : Nat) (k : Nat) (trained : Nat) {s : State} (hs : Keeps a s) :
    Keeps a (doMemsiteIn g k trained s) := by
  unfold doMemsiteIn
  split
  · exact hs
  · extract_lets +onlyGivenNames -underBinder s0
    clear_value s0
    refine keeps_ite ?_ ?_
    · apply failDesc_keeps
      exact hs
    · apply acceptSvc_keeps
      exact hs

theorem acceptRetrain_keeps {a : State} (v : Svc) (f : State → State) {s : State} (hf : ∀ y0, Keeps a y0 → Keeps a (f y0)) (hs : Keeps a s) :
    Keeps a (acceptRetrain v f s) := by
  unfold acceptRetrain
  refine keeps_ite ?_ ?_
  · exact hs
  · apply hf
    apply setBoot_keeps
    exact hs

theorem doChanRetrain_keeps {a : State} (g : Nat) (k : Nat) {s : State} (hs : Keeps a s) :
    Keeps a (doChanRetrain g k s) := by
  unfold doChanRetrain
  split
  · exact hs
  · extract_lets +onlyGivenNames -underBinder s0
    clear_value s0
    extract_lets +onlyGivenNames -underBinder s1
    clear_value s1
    refine keeps_ite ?_ ?_
    · apply failDesc_keeps
      exact hs
    · refine keeps_ite ?_ ?_
      · apply failDesc_keeps
        exact hs
      · apply acceptRetrain_keeps
        · intro x2 x3
          apply startRetrain_keeps
          exact x3
        · exact hs

theorem doPortRetrain_keeps {a : State} (g : Nat) (k : Nat) {s : State} (hs : Keeps a s) :
    Keeps a (doPortRetrain g k s) := by
  unfold doPortRetrain
  split
  · exact hs
  · extract_lets +onlyGivenNames -underBinder s0
    clear_value s0
    refine keeps_ite ?_ ?_
    · apply failDesc_keeps
      exact hs
    · refine keeps_ite ?_ ?_
      · apply failDesc_keeps
        exact hs
      · apply acceptRetrain_keeps
        · intro x1 x2
          apply setPort_keeps
          apply takePortDown_keeps
          exact x2
        · exact hs

theorem settleRetrains_keeps {a : State} {s : State} (hs : Keeps a s) :
    Keeps a (settleRetrains s) := by
  unfold settleRetrains
  apply forEach_keeps
  · intro x0 x1 x2
    extract_lets +onlyGivenNames -underBinder s3
    have h4 : ∀ y0 y1, Keeps a (s3 y0 y1) := by
      unfold s3
      intro x5 x6
      apply completeDesc_keeps
      apply setBoot_keeps
      exact x2
    clear_value s3
    refine keeps_ite ?_ ?_
    · extract_lets +onlyGivenNames -underBinder s7
      clear_value s7
      extract_lets +onlyGivenNames -underBinder s8
      clear_value s8
      extract_lets +onlyGivenNames -underBinder s9
      clear_value s9
      refine keeps_ite ?_ ?_
      · exact x2
      · refine keeps_ite ?_ ?_
        · apply h4
        · apply h4
    · refine keeps_ite ?_ ?_
      · apply h4
      · refine keeps_ite ?_ ?_
        · apply h4
        · exact x2
  · exact hs

theorem abortCopies_keeps {a : State} {s : State} (hs : Keeps a s) :
    Keeps a (abortCopies s) := by
  unfold abortCopies
  apply forEach_keeps
  · intro x0 x1 x2
    split
    · extract_lets +onlyGivenNames -underBinder s3
      clear_value s3
      apply failDesc_keeps
      apply dropJob_keeps
      refine Keeps.same (s := x1) ?_ rfl rfl rfl rfl rfl rfl rfl rfl rfl
      exact x2
    · exact x2
  · exact hs

theorem abortTileChange_keeps {a : State} {s : State} (hs : Keeps a s) :
    Keeps a (abortTileChange s) := by
  unfold abortTileChange
  split
  · refine keeps_ite ?_ ?_
    · exact hs
    · extract_lets +onlyGivenNames -underBinder s0
      have h1 : Keeps a s0 := by
        unfold s0
        split
        · apply clrB_keeps
          apply clrB_keeps
          exact hs
        · exact hs
      clear_value s0
      extract_lets +onlyGivenNames -underBinder s2
      have h3 : Keeps a s2 := by
        unfold s2
        apply releaseHeld_keeps
        apply setMem_keeps
        · intro x4
          exact ⟨rfl, rfl⟩
        · exact h1
      clear_value s2
      apply endSvc_keeps
      apply wr_keeps
      exact h3
  · exact hs

theorem settlePartial_keeps {a : State} {s : State} (hs : Keeps a s) :
    Keeps a (settlePartial s) := by
  unfold settlePartial
  refine keeps_ite ?_ ?_
  · exact hs
  · extract_lets +onlyGivenNames -underBinder s0
    have h1 : Keeps a s0 := by
      unfold s0
      apply evictAll_keeps
      exact hs
    clear_value s0
    refine keeps_ite ?_ ?_
    · exact h1
    · extract_lets +onlyGivenNames -underBinder s2
      have h3 : Keeps a s2 := by
        unfold s2
        apply forEach_keeps
        · intro x4 x5 x6
          apply resetTile_keeps
          exact x6
        · apply flushSlices_keeps
          exact h1
      clear_value s2
      extract_lets +onlyGivenNames -underBinder s7
      have h8 : Keeps a s7 := by
        unfold s7
        apply setBoot_keeps
        exact h3
      clear_value s7
      apply resumeRings_keeps
      apply hubEvent_keeps
      exact h8

theorem doPartialReset_keeps {a : State} {s : State} (hs : Keeps a s) :
    Keeps a (doPartialReset s) := by
  unfold doPartialReset
  refine keeps_ite ?_ ?_
  · exact hs
  · extract_lets +onlyGivenNames -underBinder s0
    have h1 : Keeps a s0 := by
      unfold s0
      apply bumpSat_keeps
      apply setBoot_keeps
      exact hs
    clear_value s0
    extract_lets +onlyGivenNames -underBinder s2
    have h3 : Keeps a s2 := by
      unfold s2
      apply abortTileChange_keeps
      exact h1
    clear_value s2
    extract_lets +onlyGivenNames -underBinder s4
    have h5 : Keeps a s4 := by
      unfold s4
      apply forEach_keeps
      · intro x6 x7 x8
        split
        · refine keeps_ite ?_ ?_
          · exact x8
          · apply abortRun_keeps
            exact x8
        · exact x8
      · exact h3
    clear_value s4
    extract_lets +onlyGivenNames -underBinder s9
    have h10 : Keeps a s9 := by
      unfold s9
      apply abortCopies_keeps
      apply abortBatches_keeps
      exact h5
    clear_value s9
    apply settlePartial_keeps
    apply forEach_keeps
    · intro x11 x12 x13
      apply failColl_keeps
      exact x13
    · exact h10

end Sys2Proof.Machine
end

