-- ==== Sys2Proof/Laws/KeepsCalendar.lean ====
section
/-! SUPPORT. Sys2Proof/Laws/KeepsCalendar.lean: every operation of Machine/Calendar.lean keeps what `Keeps` says. -/

namespace Sys2Proof.Machine

open Sys2Proof

theorem armEntry_keeps {a : State} (w : List Nat) {s : State} (hs : Keeps a s) :
    Keeps a (armEntry w s).2 := by
  unfold armEntry
  extract_lets +onlyGivenNames -underBinder s0
  clear_value s0
  extract_lets +onlyGivenNames -underBinder s1
  clear_value s1
  extract_lets +onlyGivenNames -underBinder s2
  clear_value s2
  refine keeps_mk ?_
  apply putCal_keeps
  exact hs

theorem doCalArm_keeps {a : State} (z0 : CalAsk) {s : State} (hs : Keeps a s) :
    Keeps a (doCalArm z0 s) := by
  unfold doCalArm
  split
  · refine keeps_ite ?_ ?_
    · apply armEntry_keeps
      exact hs
    · exact hs
  · split
    · exact hs
    · extract_lets +onlyGivenNames -underBinder s0
      clear_value s0
      extract_lets +onlyGivenNames -underBinder s1
      clear_value s1
      refine keeps_ite ?_ ?_
      · apply failDesc_keeps
        exact hs
      · apply completeDesc_keeps
        apply armEntry_keeps
        exact hs

theorem doCalCancel_keeps {a : State} (z0 : CalAsk) {s : State} (hs : Keeps a s) :
    Keeps a (doCalCancel z0 s) := by
  unfold doCalCancel
  split
  · refine keeps_ite ?_ ?_
    · apply freeCal_keeps
      exact hs
    · exact hs
  · split
    · exact hs
    · extract_lets +onlyGivenNames -underBinder s0
      clear_value s0
      split
      · apply failDesc_keeps
        exact hs
      · apply completeDesc_keeps
        apply freeCal_keeps
        exact hs

theorem noteFired_keeps {a : State} {s : State} (hs : Keeps a s) :
    Keeps a (noteFired s) := by
  unfold noteFired
  refine Keeps.same (s := s) ?_ rfl rfl rfl rfl rfl rfl rfl rfl rfl
  exact hs

theorem sendDoorbell_keeps {a : State} (f : Firing) (mark : Nat) (j : Nat) {s : State} (hs : Keeps a s) :
    Keeps a (sendDoorbell f mark j s) := by
  unfold sendDoorbell
  extract_lets +onlyGivenNames -underBinder s0
  clear_value s0
  extract_lets +onlyGivenNames -underBinder s1
  clear_value s1
  split
  · refine keeps_ite ?_ ?_
    · refine keeps_ite ?_ ?_
      · exact hs
      · apply cxlDoorbell_keeps
        exact hs
    · apply zcpSend_keeps
      exact hs
  · exact hs

theorem addFiring_keeps {a : State} (f : Firing) {s : State} (hs : Keeps a s) :
    Keeps a (addFiring f s) := by
  unfold addFiring
  refine Keeps.same (s := s) ?_ rfl rfl rfl rfl rfl rfl rfl rfl rfl
  exact hs

theorem endWith_keeps {a : State} (f : Firing) (st : Status) {s : State} (hs : Keeps a s) :
    Keeps a (endWith f st s) := by
  unfold endWith
  apply endIssued_keeps
  exact hs

theorem fireDoorbell_keeps {a : State} (f : Firing) (mark : Nat) {s : State} (hs : Keeps a s) :
    Keeps a (fireDoorbell f mark s) := by
  unfold fireDoorbell
  extract_lets +onlyGivenNames -underBinder s0
  have h1 : Keeps a s0 := by
    unfold s0
    apply doBeaconSend_keeps
    exact hs
  clear_value s0
  extract_lets +onlyGivenNames -underBinder s2
  clear_value s2
  extract_lets +onlyGivenNames -underBinder s3
  clear_value s3
  extract_lets +onlyGivenNames -underBinder s4
  have h5 : Keeps a s4 := by
    unfold s4
    apply forEach_keeps
    · intro x6 x7 x8
      apply sendDoorbell_keeps
      exact x8
    · exact h1
  clear_value s4
  extract_lets +onlyGivenNames -underBinder s9
  clear_value s9
  refine keeps_ite ?_ ?_
  · apply endIssued_keeps
    exact h5
  · refine Keeps.same (s := s4) ?_ rfl rfl rfl rfl rfl rfl rfl rfl rfl
    exact h5

theorem firePower_keeps {a : State} (f : Firing) {s : State} (hs : Keeps a s) :
    Keeps a (firePower f s) := by
  unfold firePower
  refine keeps_ite ?_ ?_
  · apply beginEntry_keeps
    exact hs
  · extract_lets +onlyGivenNames -underBinder s0
    clear_value s0
    extract_lets +onlyGivenNames -underBinder s1
    clear_value s1
    refine keeps_ite ?_ ?_
    · apply endWith_keeps
      apply setCaps_keeps
      exact hs
    · apply endWith_keeps
      exact hs

theorem fireAction_keeps {a : State} (f : Firing) (mark : Nat) {s : State} (hs : Keeps a s) :
    Keeps a (fireAction f mark s) := by
  unfold fireAction
  split
  · apply fireDoorbell_keeps
    exact hs
  · refine keeps_ite ?_ ?_
    · apply endWith_keeps
      exact hs
    · apply endWith_keeps
      apply addRelease_keeps
      apply startWork_keeps
      exact hs
  · apply launchColl_keeps
    apply startWork_keeps
    exact hs
  · extract_lets +onlyGivenNames -underBinder s0
    clear_value s0
    refine keeps_ite ?_ ?_
    · apply freezeSnap_keeps
      apply startWork_keeps
      exact hs
    · apply endWith_keeps
      exact hs
  · extract_lets +onlyGivenNames -underBinder s1
    have h2 : Keeps a s1.2 := by
      unfold s1
      apply activateFw_keeps
      exact hs
    clear_value s1
    apply endWith_keeps
    exact h2
  · apply firePower_keeps
    exact hs

theorem doCalFire_keeps {a : State} (i : Nat) {s : State} (hs : Keeps a s) :
    Keeps a (doCalFire i s) := by
  unfold doCalFire
  split
  · exact hs
  · refine keeps_ite ?_ ?_
    · exact hs
    · extract_lets +onlyGivenNames -underBinder s0
      clear_value s0
      extract_lets +onlyGivenNames -underBinder s1
      clear_value s1
      extract_lets +onlyGivenNames -underBinder s2
      clear_value s2
      extract_lets +onlyGivenNames -underBinder s3
      have h4 : Keeps a s3 := by
        unfold s3
        apply count_keeps
        exact hs
      clear_value s3
      extract_lets +onlyGivenNames -underBinder s5
      have h6 : Keeps a s5 := by
        unfold s5
        refine keeps_ite ?_ ?_
        · apply countLate_keeps
          apply count_keeps
          exact h4
        · exact h4
      clear_value s5
      apply fireAction_keeps
      apply advanceCal_keeps
      apply addFiring_keeps
      apply noteFired_keeps
      exact h6

theorem doCalGateTimeout_keeps {a : State} (i : Nat) {s : State} (hs : Keeps a s) :
    Keeps a (doCalGateTimeout i s) := by
  unfold doCalGateTimeout
  split
  · exact hs
  · refine keeps_ite ?_ ?_
    · apply endFiring_keeps
      exact hs
    · exact hs

theorem doCalCtlWrite_keeps {a : State} (en : Bool) {s : State} (hs : Keeps a s) :
    Keeps a (doCalCtlWrite en s) := by
  unfold doCalCtlWrite
  apply wrb_keeps
  exact hs

theorem doArrivalWrite_keeps {a : State} (g : Nat) (v : Nat) {s : State} (hs : Keeps a s) :
    Keeps a (doArrivalWrite g v s) := by
  unfold doArrivalWrite
  refine keeps_ite ?_ ?_
  · exact hs
  · apply wr_keeps
    exact hs

theorem doCalLowPowerExit_keeps {a : State} {s : State} (hs : Keeps a s) :
    Keeps a (doCalLowPowerExit s) := by
  unfold doCalLowPowerExit
  extract_lets +onlyGivenNames -underBinder s0
  clear_value s0
  refine keeps_ite ?_ ?_
  · exact hs
  · split
    · exact hs
    · refine keeps_ite ?_ ?_
      · apply leaveH1_keeps
        exact hs
      · apply raiseWake_keeps
        exact hs

end Sys2Proof.Machine
end

