-- ==== Sys2Proof/Laws/KeepsHost.lean ====
section
/-! SUPPORT. Sys2Proof/Laws/KeepsHost.lean: every operation of Machine/Host.lean keeps what `Keeps` says. -/

namespace Sys2Proof.Machine

open Sys2Proof

theorem hostCpl_keeps {a : State} (tag : Nat) (cpl : Nat) (data : List Byte) {s : State} (hs : Keeps a s) :
    Keeps a (hostCpl tag cpl data s) := by
  unfold hostCpl
  apply emit_keeps
  exact hs

theorem unsupportedReq_keeps {a : State} (fn : Nat) (tag : Nat) (posted : Bool) {s : State} (hs : Keeps a s) :
    Keeps a (unsupportedReq fn tag posted s) := by
  unfold unsupportedReq
  extract_lets +onlyGivenNames -underBinder s0
  have h1 : Keeps a s0 := by
    unfold s0
    apply reportAer_keeps
    apply bumpSat_keeps
    exact hs
  clear_value s0
  refine keeps_ite ?_ ?_
  · exact h1
  · apply hostCpl_keeps
    exact h1

theorem completerAbort_keeps {a : State} (fn : Nat) (bar : Nat) (off : Nat) (tag : Nat) (posted : Bool) {s : State} (hs : Keeps a s) :
    Keeps a (completerAbort fn bar off tag posted s) := by
  unfold completerAbort
  refine keeps_ite ?_ ?_
  · apply hostErr_keeps
    exact hs
  · apply hostCpl_keeps
    apply reportAer_keeps
    apply bumpSat_keeps
    exact hs

theorem hostOutcome_keeps {a : State} (fn : Nat) (bar : Nat) (off : Nat) (tag : Nat) (posted : Bool) (st : Status) (data : List Byte) {s : State} (hs : Keeps a s) :
    Keeps a (hostOutcome fn bar off tag posted st data s) := by
  unfold hostOutcome
  split
  · refine keeps_ite ?_ ?_
    · exact hs
    · apply hostCpl_keeps
      exact hs
  · refine keeps_ite ?_ ?_
    · exact hs
    · apply hostCpl_keeps
      exact hs
  · apply unsupportedReq_keeps
    exact hs
  · apply unsupportedReq_keeps
    exact hs
  · apply unsupportedReq_keeps
    exact hs
  · apply completerAbort_keeps
    exact hs

theorem beginFlr_keeps {a : State} (n : Nat) {s : State} (hs : Keeps a s) :
    Keeps a (beginFlr n s) := by
  unfold beginFlr
  refine keeps_ite ?_ ?_
  · exact hs
  · extract_lets +onlyGivenNames -underBinder s0
    have h1 : Keeps a s0 := by
      unfold s0
      apply silenceFn_keeps
      apply setFnCfg_keeps
      exact hs
    clear_value s0
    refine keeps_ite ?_ ?_
    · exact h1
    · apply unlockFn_keeps
      exact h1

theorem initiateFlr_keeps {a : State} (n : Nat) {s : State} (hs : Keeps a s) :
    Keeps a (initiateFlr n s) := by
  unfold initiateFlr
  extract_lets +onlyGivenNames -underBinder s0
  have h1 : Keeps a s0 := by
    unfold s0
    apply raiseWake_keeps
    exact hs
  clear_value s0
  refine keeps_ite ?_ ?_
  · extract_lets +onlyGivenNames -underBinder s2
    clear_value s2
    extract_lets +onlyGivenNames -underBinder s3
    have h4 : Keeps a s3 := by
      unfold s3
      apply forEach_keeps
      · intro x5 x6 x7
        apply beginFlr_keeps
        exact x7
      · refine Keeps.same (s := s0) ?_ rfl rfl rfl rfl rfl rfl rfl rfl rfl
        exact h1
    clear_value s3
    refine Keeps.same (s := s3) ?_ rfl rfl rfl rfl rfl rfl rfl rfl rfl
    exact h4
  · apply beginFlr_keeps
    exact h1

theorem doFlrInitiate_keeps {a : State} (n : Nat) {s : State} (hs : Keeps a s) :
    Keeps a (doFlrInitiate n s) := by
  unfold doFlrInitiate
  refine keeps_ite ?_ ?_
  · exact hs
  · apply initiateFlr_keeps
    exact hs

theorem dropVectors_keeps {a : State} (n : Nat) {s : State} (hs : Keeps a s) :
    Keeps a (dropVectors n s) :=
  Keeps.same hs rfl rfl rfl rfl rfl rfl rfl rfl rfl

theorem endFlr_keeps {a : State} (n : Nat) {s : State} (hs : Keeps a s) :
    Keeps a (endFlr n s) := by
  unfold endFlr
  exact keeps_ite hs (dropVectors_keeps _ (setFnCfg_keeps _ _ (resetFn_keeps _ (freeObjects_keeps _ (setSec_keeps _ hs)))))

theorem doFlrComplete_keeps {a : State} (n : Nat) {s : State} (hs : Keeps a s) :
    Keeps a (doFlrComplete n s) := by
  unfold doFlrComplete
  refine keeps_ite ?_ ?_
  · apply forEach_keeps
    · intro x0 x1 x2
      apply endFlr_keeps
      exact x2
    · exact hs
  · apply endFlr_keeps
    exact hs

theorem setLink_keeps {a : State} (l : HostLink) {s : State} (hs : Keeps a s) :
    Keeps a (setLink l s) := by
  unfold setLink
  extract_lets +onlyGivenNames -underBinder s0
  clear_value s0
  apply wrb_keeps
  apply wrb_keeps
  apply wrb_keeps
  apply wr_keeps
  apply wr_keeps
  exact hs

theorem doHotReset_keeps {a : State} (link : Option HostLink) {s : State} (hs : Keeps a s) :
    Keeps a (doHotReset link s) := by
  unfold doHotReset
  extract_lets +onlyGivenNames -underBinder s0
  have h1 : Keeps a s0 := by
    unfold s0
    apply initiateFlr_keeps
    apply bumpSat_keeps
    exact hs
  clear_value s0
  split
  · apply setLink_keeps
    exact h1
  · exact h1

theorem cfgRead_keeps {a : State} (n : Nat) (r : CfgReg) {s : State} (hs : Keeps a s) :
    Keeps a (cfgRead n r s).2 := by
  unfold cfgRead
  extract_lets +onlyGivenNames -underBinder s0
  clear_value s0
  extract_lets +onlyGivenNames -underBinder s1
  have h2 : ∀ y0, Keeps a (s1 y0).2 := by
    unfold s1
    intro x3
    refine keeps_mk ?_
    exact hs
  clear_value s1
  split
  · apply h2
  · apply h2
  · apply h2
  · apply h2
  · apply h2
  · apply h2
  · refine keeps_mk ?_
    apply drew_keeps
    exact hs
  · apply h2
  · apply h2
  · apply h2
  · apply h2
  · apply h2
  · apply h2
  · apply h2
  · apply h2
  · apply h2
  · apply h2
  · apply h2
  · refine keeps_mk ?_
    apply drew_keeps
    exact hs

theorem doDevctl2Write_keeps {a : State} (v : Nat) {s : State} (hs : Keeps a s) :
    Keeps a (doDevctl2Write v s) := by
  unfold doDevctl2Write
  apply wr_keeps
  apply setFnCfg_keeps
  exact hs

theorem releaseFn_keeps {a : State} (n : Nat) {s : State} (hs : Keeps a s) :
    Keeps a (releaseFn n s) := by
  unfold releaseFn
  extract_lets +onlyGivenNames -underBinder s0
  have h1 : Keeps a s0 := by
    unfold s0
    refine keeps_ite ?_ ?_
    · apply releaseBatches_keeps
      apply pumpWaiting_keeps
      apply pumpMsix_keeps
      exact hs
    · exact hs
  clear_value s0
  apply forEach_keeps
  · intro x2 x3 x4
    apply resumeRing_keeps
    exact x4
  · exact h1

theorem unmaskMsix_keeps {a : State} (n : Nat) {s : State} (hs : Keeps a s) :
    Keeps a (unmaskMsix n s) := by
  unfold unmaskMsix
  refine keeps_ite ?_ ?_
  · exact hs
  · extract_lets +onlyGivenNames -underBinder s0
    clear_value s0
    apply forEach_keeps
    · intro x1 x2 x3
      apply sendMsix_keeps
      refine Keeps.same (s := x2) ?_ rfl rfl rfl rfl rfl rfl rfl rfl rfl
      exact x3
    · exact hs

theorem cfgWrite_keeps {a : State} (n : Nat) (r : CfgReg) (v : Nat) {s : State} (hs : Keeps a s) :
    Keeps a (cfgWrite n r v s) := by
  unfold cfgWrite
  split
  · apply releaseFn_keeps
    apply setFnCfg_keeps
    exact hs
  · refine keeps_ite ?_ ?_
    · apply releaseFn_keeps
      apply setFnCfg_keeps
      exact hs
    · exact hs
  · refine keeps_ite ?_ ?_
    · apply initiateFlr_keeps
      exact hs
    · exact hs
  · refine keeps_ite ?_ ?_
    · apply doDevctl2Write_keeps
      exact hs
    · exact hs
  · refine keeps_ite ?_ ?_
    · exact hs
    · extract_lets +onlyGivenNames -underBinder s0
      have h1 : Keeps a s0 := by
        unfold s0
        refine keeps_ite ?_ ?_
        · apply forEach_keeps
          · intro x2 x3 x4
            apply beginFlr_keeps
            exact x4
          · exact hs
        · exact hs
      clear_value s0
      refine Keeps.same (s := s0) ?_ rfl rfl rfl rfl rfl rfl rfl rfl rfl
      exact h1
  · apply unmaskMsix_keeps
    apply setFnCfg_keeps
    exact hs
  · apply setFnCfg_keeps
    exact hs
  · extract_lets +onlyGivenNames -underBinder s5
    have h6 : Keeps a s5 := by
      unfold s5
      refine keeps_ite ?_ ?_
      · exact hs
      · apply setXlat_keeps
        exact hs
    clear_value s5
    apply setFnCfg_keeps
    exact h6
  · apply setFnCfg_keeps
    exact hs
  · refine keeps_ite ?_ ?_
    · apply setFnCfg_keeps
      exact hs
    · exact hs
  · refine keeps_ite ?_ ?_
    · apply wrb_keeps
      exact hs
    · exact hs
  · exact hs
  · exact hs
  · exact hs
  · exact hs
  · exact hs
  · exact hs
  · exact hs
  · exact hs

theorem doConfigRequest_keeps {a : State} (n : Nat) (r : CfgReg) (w : Option Nat) (tag : Nat) {s : State} (hs : Keeps a s) :
    Keeps a (doConfigRequest n r w tag s) := by
  unfold doConfigRequest
  extract_lets +onlyGivenNames -underBinder s0
  have h1 : Keeps a s0 := by
    unfold s0
    apply raiseWake_keeps
    exact hs
  clear_value s0
  extract_lets +onlyGivenNames -underBinder s2
  have h3 : ∀ y0 y1 y2, Keeps a y2 → Keeps a (s2 y0 y1 y2) := by
    unfold s2
    intro x4 x5 x6 x7
    apply emit_keeps
    exact x7
  clear_value s2
  refine keeps_ite ?_ ?_
  · apply h3
    exact h1
  · refine keeps_ite ?_ ?_
    · apply h3
      exact h1
    · split
      · apply h3
        apply cfgWrite_keeps
        exact h1
      · extract_lets +onlyGivenNames -underBinder s8
        have h9 : Keeps a s8.2 := by
          unfold s8
          apply cfgRead_keeps
          exact h1
        clear_value s8
        apply h3
        exact h9

theorem addAcc_keeps {a : State} (j : Nat) (size : Nat) (tag : Nat) (write : Bool) (stylus : Bool) {s : State} (hs : Keeps a s) :
    Keeps a (addAcc j size tag write stylus s) := by
  unfold addAcc
  extract_lets +onlyGivenNames -underBinder s0
  clear_value s0
  refine Keeps.same (s := s) ?_ rfl rfl rfl rfl rfl rfl rfl rfl rfl
  exact hs

theorem allOnes_keeps {a : State} (size : Nat) (tag : Nat) (write : Bool) {s : State} (hs : Keeps a s) :
    Keeps a (allOnes size tag write s) := by
  unfold allOnes
  refine keeps_ite ?_ ?_
  · exact hs
  · apply hostCpl_keeps
    exact hs

theorem cxlForward_keeps {a : State} (j : Nat) (kind : Nat) (id : Nat) (addr : Nat) (size : Nat) (write : Bool) (data : List Byte) {s : State} (hs : Keeps a s) :
    Keeps a (cxlForward j kind id addr size write data s) := by
  unfold cxlForward
  apply sendReq_keeps
  exact hs

theorem poisonedWrite_keeps {a : State} (fn : Nat) (bar : Nat) (off : Nat) {s : State} (hs : Keeps a s) :
    Keeps a (poisonedWrite fn bar off s) := by
  unfold poisonedWrite
  refine keeps_ite ?_ ?_
  · apply poisonedTlp_keeps
    exact hs
  · apply unsupportedReq_keeps
    exact hs

theorem doBar2Access_keeps {a : State} (off : Nat) (size : Nat) (write : Bool) (v : Nat) (tag : Nat) (poison : Bool) {s : State} (hs : Keeps a s) :
    Keeps a (doBar2Access off size write v tag poison s) := by
  unfold doBar2Access
  extract_lets +onlyGivenNames -underBinder s0
  have h1 : Keeps a s0 := by
    unfold s0
    apply raiseWake_keeps
    exact hs
  clear_value s0
  extract_lets +onlyGivenNames -underBinder s2
  clear_value s2
  extract_lets +onlyGivenNames -underBinder s3
  clear_value s3
  refine keeps_ite ?_ ?_
  · apply poisonedWrite_keeps
    exact h1
  · refine keeps_ite ?_ ?_
    · apply unsupportedReq_keeps
      exact h1
    · refine keeps_ite ?_ ?_
      · apply allOnes_keeps
        exact h1
      · extract_lets +onlyGivenNames -underBinder s4
        clear_value s4
        extract_lets +onlyGivenNames -underBinder s5
        have h6 : Keeps a s5 := by
          unfold s5
          apply addAcc_keeps
          exact h1
        clear_value s5
        refine keeps_ite ?_ ?_
        · apply cxlForward_keeps
          exact h6
        · extract_lets +onlyGivenNames -underBinder s7
          clear_value s7
          apply zcpSend_keeps
          exact h6

theorem doBar4SiteWindowAccess_keeps {a : State} (off : Nat) (size : Nat) (write : Bool) (data : List Byte) (tag : Nat) (stylus : Bool) (poison : Bool) {s : State} (hs : Keeps a s) :
    Keeps a (doBar4SiteWindowAccess off size write data tag stylus poison s) := by
  unfold doBar4SiteWindowAccess
  extract_lets +onlyGivenNames -underBinder s0
  have h1 : Keeps a s0 := by
    unfold s0
    refine keeps_ite ?_ ?_
    · exact hs
    · apply raiseWake_keeps
      exact hs
  clear_value s0
  extract_lets +onlyGivenNames -underBinder s2
  clear_value s2
  extract_lets +onlyGivenNames -underBinder s3
  clear_value s3
  refine keeps_ite ?_ ?_
  · apply poisonedWrite_keeps
    exact h1
  · refine keeps_ite ?_ ?_
    · apply unsupportedReq_keeps
      exact h1
    · refine keeps_ite ?_ ?_
      · apply answerAcc_keeps
        exact h1
      · refine keeps_ite ?_ ?_
        · apply answerAcc_keeps
          exact h1
        · extract_lets +onlyGivenNames -underBinder s4
          clear_value s4
          apply cxlForward_keeps
          apply addAcc_keeps
          exact h1

theorem apertureMiss_keeps {a : State} (r : HostReq) {s : State} (hs : Keeps a s) :
    Keeps a (apertureMiss r s) := by
  unfold apertureMiss
  refine keeps_ite ?_ ?_
  · apply unsupportedReq_keeps
    exact hs
  · refine keeps_ite ?_ ?_
    · exact hs
    · apply hostCpl_keeps
      exact hs

theorem apertureGo_keeps {a : State} (r : HostReq) (off : Nat) {s : State} (hs : Keeps a s) :
    Keeps a (apertureGo r off s) := by
  unfold apertureGo
  extract_lets +onlyGivenNames -underBinder s0
  clear_value s0
  split
  · extract_lets +onlyGivenNames -underBinder s1
    have h2 : Keeps a s1.2.2 := by
      unfold s1
      apply homeGet_keeps
      exact hs
    clear_value s1
    apply hostOutcome_keeps
    exact h2
  · extract_lets +onlyGivenNames -underBinder s3
    have h4 : Keeps a s3.2 := by
      unfold s3
      apply homePut_keeps
      exact hs
    clear_value s3
    apply hostOutcome_keeps
    exact h4
  · extract_lets +onlyGivenNames -underBinder s5
    have h6 : Keeps a s5.2.2 := by
      unfold s5
      apply homeGet_keeps
      exact hs
    clear_value s5
    refine keeps_ite ?_ ?_
    · apply hostOutcome_keeps
      exact h6
    · extract_lets +onlyGivenNames -underBinder s7
      clear_value s7
      extract_lets +onlyGivenNames -underBinder s8
      have h9 : Keeps a s8.2 := by
        unfold s8
        apply homePut_keeps
        exact h6
      clear_value s8
      apply hostOutcome_keeps
      exact h9

theorem hdmOnes_keeps {a : State} (r : HostReq) {s : State} (hs : Keeps a s) :
    Keeps a (hdmOnes r s) := by
  unfold hdmOnes
  refine keeps_ite ?_ ?_
  · exact hs
  · apply emit_keeps
    exact hs

theorem hdmGo_keeps {a : State} (r : HostReq) (off : Nat) {s : State} (hs : Keeps a s) :
    Keeps a (hdmGo r off s) := by
  unfold hdmGo
  refine keeps_ite ?_ ?_
  · apply emit_keeps
    apply homePut_keeps
    exact hs
  · extract_lets +onlyGivenNames -underBinder s0
    have h1 : Keeps a s0.2.2 := by
      unfold s0
      apply homeGet_keeps
      exact hs
    clear_value s0
    refine keeps_ite ?_ ?_
    · apply emit_keeps
      exact h1
    · refine keeps_ite ?_ ?_
      · extract_lets +onlyGivenNames -underBinder s2
        clear_value s2
        apply hdmOnes_keeps
        apply hostErr_keeps
        apply reportAer_keeps
        apply postEvent_keeps
        apply logRec_keeps
        exact h1
      · apply hdmOnes_keeps
        exact h1

theorem hostGo_keeps {a : State} (r : HostReq) {s : State} (hs : Keeps a s) :
    Keeps a (hostGo r s) := by
  unfold hostGo
  split
  · refine keeps_ite ?_ ?_
    · apply apertureGo_keeps
      exact hs
    · apply hdmGo_keeps
      exact hs
  · refine keeps_ite ?_ ?_
    · apply apertureMiss_keeps
      exact hs
    · refine keeps_ite ?_ ?_
      · apply hdmOnes_keeps
        exact hs
      · exact hs

theorem hostClaim_keeps {a : State} (r : HostReq) {s : State} (hs : Keeps a s) :
    Keeps a (hostClaim r s) := by
  unfold hostClaim
  split
  · apply claim_keeps
    exact hs
  · exact hs

theorem nextHost_keeps {a : State} {s : State} (hs : Keeps a s) :
    Keeps a (nextHost s) := by
  unfold nextHost
  split
  · exact hs
  · refine keeps_ite ?_ ?_
    · apply hostGo_keeps
      refine Keeps.same (s := s) ?_ rfl rfl rfl rfl rfl rfl rfl rfl rfl
      exact hs
    · apply hostClaim_keeps
      exact hs

theorem settleHost_keeps {a : State} {s : State} (hs : Keeps a s) :
    Keeps a (settleHost s) := by
  unfold settleHost
  apply forEach_keeps
  · intro x0 x1 x2
    apply nextHost_keeps
    exact x2
  · exact hs

theorem hostRequest_keeps {a : State} (r : HostReq) {s : State} (hs : Keeps a s) :
    Keeps a (hostRequest r s) := by
  unfold hostRequest
  apply settleHost_keeps
  refine Keeps.same (s := s) ?_ rfl rfl rfl rfl rfl rfl rfl rfl rfl
  exact hs

theorem doApertureAccess_keeps {a : State} (z0 : Nat) (len : Nat) (write : Bool) (data : List Byte) (tag : Nat) (poison : Bool) {s : State} (hs : Keeps a s) :
    Keeps a (doApertureAccess z0 len write data tag poison s) := by
  unfold doApertureAccess
  extract_lets +onlyGivenNames -underBinder s0
  have h1 : Keeps a s0 := by
    unfold s0
    apply raiseWake_keeps
    exact hs
  clear_value s0
  refine keeps_ite ?_ ?_
  · apply poisonedWrite_keeps
    exact h1
  · apply hostRequest_keeps
    exact h1

theorem doAtomicop_keeps {a : State} (aperture : Bool) (z1 : Nat) (op : Nat) (n : Nat) (x : Nat) (y : Nat) (tag : Nat) {s : State} (hs : Keeps a s) :
    Keeps a (doAtomicop aperture z1 op n x y tag s) := by
  unfold doAtomicop
  extract_lets +onlyGivenNames -underBinder s0
  have h1 : Keeps a s0 := by
    unfold s0
    apply raiseWake_keeps
    exact hs
  clear_value s0
  extract_lets +onlyGivenNames -underBinder s2
  clear_value s2
  refine keeps_ite ?_ ?_
  · apply unsupportedReq_keeps
    exact h1
  · apply hostRequest_keeps
    exact h1

theorem doHostHdmWrite_keeps {a : State} (base : Nat) (k : Nat) {s : State} (hs : Keeps a s) :
    Keeps a (doHostHdmWrite base k s) := by
  unfold doHostHdmWrite
  refine keeps_ite ?_ ?_
  · exact hs
  · extract_lets +onlyGivenNames -underBinder s0
    clear_value s0
    extract_lets +onlyGivenNames -underBinder s1
    clear_value s1
    extract_lets +onlyGivenNames -underBinder s2
    clear_value s2
    extract_lets +onlyGivenNames -underBinder s3
    clear_value s3
    refine keeps_ite ?_ ?_
    · apply logRec_keeps
      apply hostErr_keeps
      exact hs
    · extract_lets +onlyGivenNames -underBinder s4
      clear_value s4
      extract_lets +onlyGivenNames -underBinder s5
      have h6 : Keeps a s5 := by
        unfold s5
        refine keeps_ite ?_ ?_
        · exact hs
        · apply burnExts_keeps
          exact hs
      clear_value s5
      extract_lets +onlyGivenNames -underBinder s7
      have h8 : Keeps a s7 := by
        unfold s7
        apply wr_keeps
        apply wr_keeps
        exact h6
      clear_value s7
      apply forEach_keeps
      · intro x9 x10 x11
        apply wr_keeps
        exact x11
      · exact h8

theorem doCxlMemRequest_keeps {a : State} (d : Nat) (write : Bool) (data : List Byte) (tag : Nat) {s : State} (hs : Keeps a s) :
    Keeps a (doCxlMemRequest d write data tag s) := by
  unfold doCxlMemRequest
  apply hostRequest_keeps
  apply raiseWake_keeps
  exact hs

theorem doLineDequeue_keeps {a : State} (line : Nat) {s : State} (hs : Keeps a s) :
    Keeps a (doLineDequeue line s) := by
  unfold doLineDequeue
  apply settleHost_keeps
  apply nextOfLine_keeps
  exact hs

end Sys2Proof.Machine
end

