-- ==== Sys2Proof/Laws/KeepsDownstream.lean ====
section
/-! SUPPORT. Sys2Proof/Laws/KeepsDownstream.lean: every operation of Machine/Downstream.lean keeps what `Keeps` says. -/

namespace Sys2Proof.Machine

open Sys2Proof

theorem dsPin_keeps {a : State} (p : Nat) (pin : Nat) (v : Nat) {s : State} (hs : Keeps a s) :
    Keeps a (dsPin p pin v s) := by
  unfold dsPin
  apply emit_keeps
  exact hs

theorem dsEvent_keeps {a : State} (p : Nat) (f : Fld) {s : State} (hs : Keeps a s) :
    Keeps a (dsEvent p f s) := by
  unfold dsEvent
  apply postEvent_keeps
  apply setB_keeps
  exact hs

theorem dropDevice_keeps {a : State} (p : Nat) {s : State} (hs : Keeps a s) :
    Keeps a (dropDevice p s) := by
  unfold dropDevice
  extract_lets +onlyGivenNames -underBinder s0
  clear_value s0
  extract_lets +onlyGivenNames -underBinder s1
  clear_value s1
  extract_lets +onlyGivenNames -underBinder s2
  clear_value s2
  extract_lets +onlyGivenNames -underBinder s3
  clear_value s3
  extract_lets +onlyGivenNames -underBinder s4
  have h5 : Keeps a s4 := by
    unfold s4
    refine Keeps.same (s := s) ?_ rfl rfl rfl rfl rfl rfl rfl rfl rfl
    exact hs
  clear_value s4
  apply forEach_keeps
  · intro x6 x7 x8
    split
    · apply deviceAnswer_keeps
      exact x8
    · exact x8
  · exact h5

theorem powerOff_keeps {a : State} (p : Nat) {s : State} (hs : Keeps a s) :
    Keeps a (powerOff p s) := by
  unfold powerOff
  apply dsPin_keeps
  apply dsPin_keeps
  apply dsPin_keeps
  apply setDs_keeps
  apply wr_keeps
  apply wr_keeps
  apply wr_keeps
  apply clrB_keeps
  apply clrB_keeps
  apply wr_keeps
  apply wr_keeps
  apply clrB_keeps
  exact hs

theorem powerSlot_keeps {a : State} (p : Nat) {s : State} (hs : Keeps a s) :
    Keeps a (powerSlot p s) := by
  unfold powerSlot
  refine keeps_ite ?_ ?_
  · exact hs
  · apply dsPin_keeps
    apply setDs_keeps
    apply setB_keeps
    apply wr_keeps
    exact hs

theorem insertDevice_keeps {a : State} (p : Nat) {s : State} (hs : Keeps a s) :
    Keeps a (insertDevice p s) := by
  unfold insertDevice
  extract_lets +onlyGivenNames -underBinder s0
  have h1 : Keeps a s0 := by
    unfold s0
    apply dsPin_keeps
    apply dsEvent_keeps
    exact hs
  clear_value s0
  refine keeps_ite ?_ ?_
  · apply powerSlot_keeps
    exact h1
  · exact h1

theorem surprise_keeps {a : State} (p : Nat) {s : State} (hs : Keeps a s) :
    Keeps a (surprise p s) := by
  unfold surprise
  extract_lets +onlyGivenNames -underBinder s0
  clear_value s0
  extract_lets +onlyGivenNames -underBinder s1
  have h2 : Keeps a s1 := by
    unfold s1
    apply powerOff_keeps
    apply dropDevice_keeps
    exact hs
  clear_value s1
  apply dsEvent_keeps
  refine keeps_ite ?_ ?_
  · exact h2
  · apply wr_keeps
    exact h2

theorem doDsPresenceChange_keeps {a : State} (p : Nat) (present : Bool) {s : State} (hs : Keeps a s) :
    Keeps a (doDsPresenceChange p present s) := by
  unfold doDsPresenceChange
  refine keeps_ite ?_ ?_
  · exact hs
  · extract_lets +onlyGivenNames -underBinder s0
    have h1 : Keeps a s0 := by
      unfold s0
      apply wrb_keeps
      apply raiseWake_keeps
      exact hs
    clear_value s0
    refine keeps_ite ?_ ?_
    · refine keeps_ite ?_ ?_
      · apply insertDevice_keeps
        exact h1
      · exact h1
    · refine keeps_ite ?_ ?_
      · exact h1
      · apply surprise_keeps
        exact h1

theorem doPowerOn_keeps {a : State} (p : Nat) {s : State} (hs : Keeps a s) :
    Keeps a (doPowerOn p s) := by
  unfold doPowerOn
  refine keeps_ite ?_ ?_
  · exact hs
  · apply powerSlot_keeps
    exact hs

theorem doDsPerstRelease_keeps {a : State} (p : Nat) {s : State} (hs : Keeps a s) :
    Keeps a (doDsPerstRelease p s) := by
  unfold doDsPerstRelease
  split
  · refine keeps_ite ?_ ?_
    · exact hs
    · apply dsPin_keeps
      apply setDs_keeps
      apply wr_keeps
      exact hs
  · exact hs

theorem dsFault_keeps {a : State} (p : Nat) {s : State} (hs : Keeps a s) :
    Keeps a (dsFault p s) := by
  unfold dsFault
  apply dsPin_keeps
  apply wr_keeps
  exact hs

theorem noteDevice_keeps {a : State} (p : Nat) (f : DsFound) {s : State} (hs : Keeps a s) :
    Keeps a (noteDevice p f s) := by
  unfold noteDevice
  apply wr_keeps
  apply wr_keeps
  apply wr_keeps
  apply wrb_keeps
  apply wr_keeps
  apply wr_keeps
  exact hs

theorem doDsPortReady_keeps {a : State} (p : Nat) (f : DsFound) {s : State} (hs : Keeps a s) :
    Keeps a (doDsPortReady p f s) := by
  unfold doDsPortReady
  split
  · exact hs
  · refine keeps_ite ?_ ?_
    · exact hs
    · refine keeps_ite ?_ ?_
      · apply dsFault_keeps
        apply addEntry_keeps
        exact hs
      · extract_lets +onlyGivenNames -underBinder s0
        have h1 : Keeps a s0 := by
          unfold s0
          apply noteDevice_keeps
          exact hs
        clear_value s0
        extract_lets +onlyGivenNames -underBinder s2
        clear_value s2
        refine keeps_ite ?_ ?_
        · apply dsEvent_keeps
          apply wr_keeps
          apply addEntry_keeps
          exact h1
        · refine keeps_ite ?_ ?_
          · apply dsFault_keeps
            apply addEntry_keeps
            exact h1
          · extract_lets +onlyGivenNames -underBinder s3
            have h4 : Keeps a s3 := by
              unfold s3
              refine keeps_ite ?_ ?_
              · apply forEach_keeps
                · intro x5 x6 x7
                  apply emit_keeps
                  exact x7
                · exact h1
              · exact h1
            clear_value s3
            refine keeps_ite ?_ ?_
            · apply dsFault_keeps
              apply dsEvent_keeps
              exact h4
            · apply dsEvent_keeps
              apply dsPin_keeps
              apply wr_keeps
              apply wrb_keeps
              exact h4

theorem startRemove_keeps {a : State} (p : Nat) {s : State} (hs : Keeps a s) :
    Keeps a (startRemove p s) := by
  unfold startRemove
  refine keeps_ite ?_ ?_
  · exact hs
  · apply setDs_keeps
    apply wr_keeps
    exact hs

theorem endRemove_keeps {a : State} (p : Nat) {s : State} (hs : Keeps a s) :
    Keeps a (endRemove p s) := by
  unfold endRemove
  apply dsEvent_keeps
  apply wr_keeps
  apply powerOff_keeps
  exact hs

theorem settleDs_keeps {a : State} {s : State} (hs : Keeps a s) :
    Keeps a (settleDs s) := by
  unfold settleDs
  apply forEach_keeps
  · intro x0 x1 x2
    refine keeps_ite ?_ ?_
    · exact x2
    · refine keeps_ite ?_ ?_
      · apply endRemove_keeps
        exact x2
      · refine keeps_ite ?_ ?_
        · exact x2
        · apply emit_keeps
          apply setDs_keeps
          exact x2
  · exact hs

theorem doRemove_keeps {a : State} (p : Nat) {s : State} (hs : Keeps a s) :
    Keeps a (doRemove p s) := by
  unfold doRemove
  refine keeps_ite ?_ ?_
  · exact hs
  · apply settleDs_keeps
    apply startRemove_keeps
    exact hs

theorem doDsButton_keeps {a : State} (p : Nat) {s : State} (hs : Keeps a s) :
    Keeps a (doDsButton p s) := by
  unfold doDsButton
  refine keeps_ite ?_ ?_
  · exact hs
  · extract_lets +onlyGivenNames -underBinder s0
    have h1 : Keeps a s0 := by
      unfold s0
      apply dsEvent_keeps
      apply raiseWake_keeps
      exact hs
    clear_value s0
    split
    · apply powerSlot_keeps
      exact h1
    · apply dsPin_keeps
      apply setDs_keeps
      exact h1
    · apply dsPin_keeps
      apply setDs_keeps
      exact h1
    · exact h1

theorem doDsButtonTimeout_keeps {a : State} (p : Nat) {s : State} (hs : Keeps a s) :
    Keeps a (doDsButtonTimeout p s) := by
  unfold doDsButtonTimeout
  split
  · refine keeps_ite ?_ ?_
    · apply settleDs_keeps
      apply startRemove_keeps
      exact hs
    · exact hs
  · exact hs

theorem doDsShutdownTimeout_keeps {a : State} (p : Nat) {s : State} (hs : Keeps a s) :
    Keeps a (doDsShutdownTimeout p s) := by
  unfold doDsShutdownTimeout
  split
  · refine keeps_ite ?_ ?_
    · apply endRemove_keeps
      exact hs
    · exact hs
  · exact hs

theorem doClear_keeps {a : State} (p : Nat) {s : State} (hs : Keeps a s) :
    Keeps a (doClear p s) := by
  unfold doClear
  refine keeps_ite ?_ ?_
  · exact hs
  · extract_lets +onlyGivenNames -underBinder s0
    have h1 : Keeps a s0 := by
      unfold s0
      apply dsPin_keeps
      apply wr_keeps
      apply powerOff_keeps
      exact hs
    clear_value s0
    refine keeps_ite ?_ ?_
    · apply insertDevice_keeps
      exact h1
    · exact h1

theorem doDsPowerFault_keeps {a : State} (p : Nat) {s : State} (hs : Keeps a s) :
    Keeps a (doDsPowerFault p s) := by
  unfold doDsPowerFault
  refine keeps_ite ?_ ?_
  · exact hs
  · apply dsEvent_keeps
    apply dsFault_keeps
    apply powerOff_keeps
    apply dropDevice_keeps
    apply raiseWake_keeps
    exact hs

theorem doDsLinkDown_keeps {a : State} (p : Nat) {s : State} (hs : Keeps a s) :
    Keeps a (doDsLinkDown p s) := by
  unfold doDsLinkDown
  split
  · apply settleDs_keeps
    apply setDs_keeps
    apply dropDevice_keeps
    exact hs
  · exact hs
  · apply surprise_keeps
    exact hs

end Sys2Proof.Machine
end

