-- ==== Sys2Proof/Laws/KeepsMirror.lean ====
section
/-! SUPPORT. Sys2Proof/Laws/KeepsMirror.lean: every operation of Machine/Mirror.lean keeps what `Keeps` says. -/

namespace Sys2Proof.Machine

open Sys2Proof

theorem ensurePage_keeps {a : State} (i : Nat) (l : Nat) (z2 : Nat) (o : Nat) {s : State} (hs : Keeps a s) :
    Keeps a (ensurePage i l z2 o s).2 := by
  unfold ensurePage
  split
  · refine keeps_mk ?_
    exact hs
  · extract_lets +onlyGivenNames -underBinder s0
    have h1 : Keeps a s0.2.2 := by
      unfold s0
      apply pageFrame_keeps
      exact hs
    clear_value s0
    refine keeps_ite_snd ?_ ?_
    · refine keeps_mk ?_
      exact h1
    · refine keeps_ite_snd ?_ ?_
      · refine keeps_mk ?_
        exact h1
      · apply openPage_keeps
        exact h1

theorem replicaRows_keeps {a : State} (i : Nat) (e : SesEnt) (l : Nat) (z3 : Nat) (pos : Nat) (ks : List (List Byte)) (vs : List (List Byte)) {s : State} (hs : Keeps a s) :
    Keeps a (replicaRows i e l z3 pos ks vs s).2 := by
  unfold replicaRows
  apply seqSteps_keeps
  · apply steps_append
    · apply steps_map
      intro x0 x1 x2
      apply ensurePage_keeps
      exact x2
    · apply steps_cons
      · intro x3 x4
        apply putRows_keeps
        exact x4
      · exact steps_nil
  · exact hs

theorem applyRows_keeps {a : State} (i : Nat) (e : SesEnt) (w : Nat) (data : List Byte) {s : State} (hs : Keeps a s) :
    Keeps a (applyRows i e w data s).2 := by
  unfold applyRows
  extract_lets +onlyGivenNames -underBinder s0
  clear_value s0
  extract_lets +onlyGivenNames -underBinder s1
  clear_value s1
  extract_lets +onlyGivenNames -underBinder s2
  clear_value s2
  extract_lets +onlyGivenNames -underBinder s3
  clear_value s3
  extract_lets +onlyGivenNames -underBinder s4
  clear_value s4
  extract_lets +onlyGivenNames -underBinder s5
  clear_value s5
  extract_lets +onlyGivenNames -underBinder s6
  clear_value s6
  refine keeps_ite_snd ?_ ?_
  · refine keeps_mk ?_
    exact hs
  · refine keeps_ite_snd ?_ ?_
    · extract_lets +onlyGivenNames -underBinder s7
      clear_value s7
      apply replicaRows_keeps
      exact hs
    · refine keeps_ite_snd ?_ ?_
      · refine keeps_mk ?_
        apply setSyr_keeps
        exact hs
      · split
        · refine keeps_mk ?_
          exact hs
        · apply replicaRows_keeps
          apply setSyr_keeps
          exact hs

theorem applyFrame_keeps {a : State} (i : Nat) (e : SesEnt) (w : Nat) (data : List Byte) {s : State} (hs : Keeps a s) :
    Keeps a (applyFrame i e w data s).2 := by
  unfold applyFrame
  extract_lets +onlyGivenNames -underBinder s0
  clear_value s0
  extract_lets +onlyGivenNames -underBinder s1
  clear_value s1
  refine keeps_ite_snd ?_ ?_
  · refine keeps_mk ?_
    exact hs
  · extract_lets +onlyGivenNames -underBinder s2
    clear_value s2
    extract_lets +onlyGivenNames -underBinder s3
    clear_value s3
    extract_lets +onlyGivenNames -underBinder s4
    have h5 : Keeps a s4.2 := by
      unfold s4
      apply ensurePage_keeps
      exact hs
    clear_value s4
    refine keeps_ite_snd ?_ ?_
    · exact h5
    · extract_lets +onlyGivenNames -underBinder s6
      have h7 : Keeps a s6.2.2 := by
        unfold s6
        apply pageFrame_keeps
        exact h5
      clear_value s6
      split
      · refine keeps_mk ?_
        exact h7
      · extract_lets +onlyGivenNames -underBinder s8
        clear_value s8
        extract_lets +onlyGivenNames -underBinder s9
        clear_value s9
        apply engWrite_keeps
        exact h7

theorem applyMirror_keeps {a : State} (k : Pkt) {s : State} (hs : Keeps a s) :
    Keeps a (applyMirror k s).2 := by
  unfold applyMirror
  extract_lets +onlyGivenNames -underBinder s0
  clear_value s0
  split
  · refine keeps_mk ?_
    exact hs
  · refine keeps_ite_snd ?_ ?_
    · refine keeps_mk ?_
      exact hs
    · split
      · apply applyRows_keeps
        exact hs
      · refine keeps_mk ?_
        apply putEnt_keeps
        exact hs
      · apply applyFrame_keeps
        exact hs
      · refine keeps_mk ?_
        exact hs

theorem doMirror_keeps {a : State} {s : State} (hs : Keeps a s) :
    Keeps a (doMirror s) := by
  unfold doMirror
  split
  · exact hs
  · extract_lets +onlyGivenNames -underBinder s0
    have h1 : Keeps a s0.2 := by
      unfold s0
      apply applyMirror_keeps
      refine takeInbox_keepsO (e := by assumption) ?_
      exact hs
    clear_value s0
    apply syrSend_keeps
    exact h1

theorem ackMirror_keeps {a : State} (i : Nat) (tag : Nat) {s : State} (hs : Keeps a s) :
    Keeps a (ackMirror i tag s) := by
  unfold ackMirror
  extract_lets +onlyGivenNames -underBinder s0
  clear_value s0
  extract_lets +onlyGivenNames -underBinder s1
  clear_value s1
  apply setSyr_keeps
  exact hs

theorem doMirAck_keeps {a : State} {s : State} (hs : Keeps a s) :
    Keeps a (doMirAck s) := by
  unfold doMirAck
  split
  · exact hs
  · split
    · refine takeInbox_keepsO (e := by assumption) ?_
      exact hs
    · extract_lets +onlyGivenNames -underBinder s0
      clear_value s0
      refine keeps_ite ?_ ?_
      · apply breakMirror_keeps
        refine takeInbox_keepsO (e := by assumption) ?_
        exact hs
      · apply mirrorDone_keeps
        apply ackMirror_keeps
        refine takeInbox_keepsO (e := by assumption) ?_
        exact hs

theorem doMirrorLagExpire_keeps {a : State} (i : Nat) {s : State} (hs : Keeps a s) :
    Keeps a (doMirrorLagExpire i s) := by
  unfold doMirrorLagExpire
  refine keeps_ite ?_ ?_
  · apply breakMirror_keeps
    exact hs
  · exact hs

theorem doTwinLost_keeps {a : State} {s : State} (hs : Keeps a s) :
    Keeps a (doTwinLost s) := by
  unfold doTwinLost
  split
  · exact hs
  · refine keeps_ite ?_ ?_
    · exact hs
    · extract_lets +onlyGivenNames -underBinder s0
      have h1 : Keeps a s0 := by
        unfold s0
        apply setB_keeps
        apply setSyr_keeps
        exact hs
      clear_value s0
      extract_lets +onlyGivenNames -underBinder s2
      clear_value s2
      extract_lets +onlyGivenNames -underBinder s3
      have h4 : Keeps a s3 := by
        unfold s3
        apply forEach_keeps
        · intro x5 x6 x7
          apply postEvent_keeps
          exact x7
        · exact h1
      clear_value s3
      apply forEach_keeps
      · intro x8 x9 x10
        apply breakMirror_keeps
        exact x10
      · exact h4

theorem promote_keeps {a : State} (i : Nat) {s : State} (hs : Keeps a s) :
    Keeps a (promote i s).2 := by
  unfold promote
  split
  · refine keeps_mk ?_
    exact hs
  · extract_lets +onlyGivenNames -underBinder s0
    have h1 : Keeps a s0.2 := by
      unfold s0
      apply putPending_keeps
      exact hs
    clear_value s0
    refine keeps_mk ?_
    apply putEnt_keeps
    exact h1

theorem doCpPromote_keeps {a : State} (g : Nat) (k : Nat) {s : State} (hs : Keeps a s) :
    Keeps a (doCpPromote g k s) := by
  unfold doCpPromote
  split
  · exact hs
  · extract_lets +onlyGivenNames -underBinder s0
    clear_value s0
    extract_lets +onlyGivenNames -underBinder s1
    clear_value s1
    extract_lets +onlyGivenNames -underBinder s2
    have h3 : Keeps a s2.2 := by
      unfold s2
      apply foldl_keeps_snd
      · intro x4 x5 x6
        extract_lets +onlyGivenNames -underBinder s7
        have h8 : Keeps a s7.2 := by
          unfold s7
          apply promote_keeps
          exact x6
        clear_value s7
        refine keeps_mk ?_
        exact h8
      · refine keeps_mk ?_
        exact hs
    clear_value s2
    apply completeDesc_keeps
    exact h3

theorem makeFor_keeps {a : State} (n : Nat) (extra : Nat) (ws : List Nat) {s : State} (hs : Keeps a s) :
    Keeps a (makeFor n extra ws s).2.2 := by
  unfold makeFor
  extract_lets +onlyGivenNames -underBinder s0
  clear_value s0
  extract_lets +onlyGivenNames -underBinder s1
  clear_value s1
  refine keeps_ite_snd2 ?_ ?_
  · refine keeps_mk2 ?_
    exact hs
  · apply makeSes_keeps
    exact hs

theorem mgmtAct_keeps {a : State} (src : Nat) (z1 : MgmtAct) {s : State} (hs : Keeps a s) :
    Keeps a (mgmtAct src z1 s) := by
  unfold mgmtAct
  split
  · exact hs
  · exact hs
  · exact hs
  · exact hs
  · exact hs
  · exact hs
  · exact hs
  · exact hs
  · extract_lets +onlyGivenNames -underBinder s0
    have h1 : Keeps a s0.2.2 := by
      unfold s0
      apply makeFor_keeps
      exact hs
    clear_value s0
    extract_lets +onlyGivenNames -underBinder s2
    have h3 : Keeps a s2 := by
      unfold s2
      split
      · apply putEnt_keeps
        exact h1
      · assumption
    clear_value s2
    apply tellHub_keeps
    exact h3
  · split
    · refine keeps_ite ?_ ?_
      · apply eraseSes_keeps
        exact hs
      · exact hs
    · exact hs
  · split
    · refine keeps_ite ?_ ?_
      · exact hs
      · apply postEvent_keeps
        apply putEnt_keeps
        apply forgetMirror_keeps
        exact hs
    · exact hs
  · extract_lets +onlyGivenNames -underBinder s4
    have h5 : Keeps a s4.2.2 := by
      unfold s4
      apply makeFor_keeps
      exact hs
    clear_value s4
    refine keeps_ite ?_ ?_
    · apply tellHub_keeps
      exact h5
    · extract_lets +onlyGivenNames -underBinder s6
      clear_value s6
      extract_lets +onlyGivenNames -underBinder s7
      have h8 : Keeps a s7.2 := by
        unfold s7
        apply seqSteps_keeps
        · apply steps_cons
          · intro x9 x10
            apply placeFrames_keeps
            exact x10
          · apply steps_cons
            · intro x11 x12
              apply engWrite_keeps
              exact x12
            · exact steps_nil
        · exact h5
      clear_value s7
      refine keeps_ite ?_ ?_
      · apply tellHub_keeps
        exact h8
      · apply tellHub_keeps
        apply eraseSes_keeps
        exact h8

end Sys2Proof.Machine
end

