-- ==== Sys2Proof/Laws/KeepsMgmt.lean ====
section
/-! SUPPORT. Sys2Proof/Laws/KeepsMgmt.lean: every operation of Machine/Mgmt.lean keeps what `Keeps` says. -/

namespace Sys2Proof.Machine

open Sys2Proof

theorem sinkPacket_keeps {a : State} (k : Pkt) {s : State} (hs : Keeps a s) :
    Keeps a (sinkPacket k s) := by
  unfold sinkPacket
  apply setSyr_keeps
  exact hs

theorem takeMulticast_keeps {a : State} (k : Pkt) {s : State} (hs : Keeps a s) :
    Keeps a (takeMulticast k s) := by
  unfold takeMulticast
  apply takeChunkPacket_keeps
  apply sinkPacket_keeps
  exact hs

theorem setRoute_keeps {a : State} (d : Nat) (w : Nat) {s : State} (hs : Keeps a s) :
    Keeps a (setRoute d w s) := by
  unfold setRoute
  refine keeps_ite ?_ ?_
  · exact hs
  · apply wr_keeps
    apply wr_keeps
    apply wr_keeps
    exact hs

theorem setGroup_keeps {a : State} (g : Nat) (w : Nat) {s : State} (hs : Keeps a s) :
    Keeps a (setGroup g w s) := by
  unfold setGroup
  refine keeps_ite ?_ ?_
  · exact hs
  · apply wr_keeps
    apply wr_keeps
    apply wr_keeps
    apply wr_keeps
    exact hs

theorem doMcast_keeps {a : State} {s : State} (hs : Keeps a s) :
    Keeps a (doMcast s) := by
  unfold doMcast
  split
  · exact hs
  · extract_lets +onlyGivenNames -underBinder s0
    clear_value s0
    refine keeps_ite ?_ ?_
    · refine takeInbox_keepsO (e := by assumption) ?_
      exact hs
    · extract_lets +onlyGivenNames -underBinder s1
      have h2 : Keeps a s1 := by
        unfold s1
        refine keeps_ite ?_ ?_
        · apply takeMulticast_keeps
          refine takeInbox_keepsO (e := by assumption) ?_
          exact hs
        · refine takeInbox_keepsO (e := by assumption) ?_
          exact hs
      clear_value s1
      apply mcastOut_keeps
      exact h2

theorem takeMgmt_keeps {a : State} (src : Nat) (act : MgmtAct) {s : State} (hs : Keeps a s) :
    Keeps a (takeMgmt src act s) := by
  unfold takeMgmt
  split
  · apply takeReport_keeps
    exact hs
  · apply takeCap_keeps
    exact hs
  · apply takeChunkRequest_keeps
    exact hs
  · apply takeChunk_keeps
    exact hs
  · apply takeStaged_keeps
    exact hs
  · apply setRoute_keeps
    exact hs
  · apply setGroup_keeps
    exact hs
  · apply mgmtAct_keeps
    exact hs
  · apply mgmtAct_keeps
    exact hs
  · apply mgmtAct_keeps
    exact hs
  · apply mgmtAct_keeps
    exact hs
  · apply mgmtAct_keeps
    exact hs

theorem doMgmt_keeps {a : State} (act : MgmtAct) {s : State} (hs : Keeps a s) :
    Keeps a (doMgmt act s) := by
  unfold doMgmt
  split
  · exact hs
  · apply takeMgmt_keeps
    apply sinkPacket_keeps
    refine takeInbox_keepsO (e := by assumption) ?_
    exact hs

end Sys2Proof.Machine
end

