-- ==== Sys2Proof/Laws/KeepsReset.lean ====
section
/-! SUPPORT. Sys2Proof/Laws/KeepsReset.lean: every operation of Machine/Reset.lean keeps what `Keeps` says. -/

namespace Sys2Proof.Machine

open Sys2Proof

theorem resetExtents_keeps {a : State} {s : State} (hs : Keeps a s) :
    Keeps a (resetExtents s) := by
  unfold resetExtents
  extract_lets +onlyGivenNames -underBinder s0
  clear_value s0
  extract_lets +onlyGivenNames -underBinder s1
  clear_value s1
  extract_lets +onlyGivenNames -underBinder s2
  have h3 : Keeps a s2 := by
    unfold s2
    apply setSec_keeps
    apply forEach_keeps
    · intro x4 x5 x6
      apply freeExt_keeps
      exact x6
    · exact hs
  clear_value s2
  refine keeps_ite ?_ ?_
  · exact h3
  · apply startBurn_keeps
    exact h3

theorem resetIsland_keeps {a : State} (warm : Bool) {s : State} (hs : Keeps a s) :
    Keeps a (resetIsland warm s) := by
  unfold resetIsland
  extract_lets +onlyGivenNames -underBinder s0
  have h1 : Keeps a s0 := by
    unfold s0
    refine keeps_ite ?_ ?_
    · apply mbxEnd_keeps
      exact hs
    · exact hs
  clear_value s0
  extract_lets +onlyGivenNames -underBinder s2
  clear_value s2
  extract_lets +onlyGivenNames -underBinder s3
  have h4 : Keeps a s3 := by
    unfold s3
    apply setSec_keeps
    exact h1
  clear_value s3
  apply setLife_keeps
  · intro x5
    exact ⟨rfl, rfl⟩
  · exact h4

theorem resetHost_keeps {a : State} (warm : Bool) {s : State} (hs : Keeps a s) :
    Keeps a (resetHost warm s) := by
  unfold resetHost
  extract_lets +onlyGivenNames -underBinder s0
  have h1 : Keeps a s0 := by
    unfold s0
    apply forEach_keeps
    · intro x2 x3 x4
      refine keeps_ite ?_ ?_
      · apply powerOff_keeps
        exact x4
      · exact x4
    · exact hs
  clear_value s0
  extract_lets +onlyGivenNames -underBinder s5
  clear_value s5
  refine keeps_ite ?_ ?_
  · refine Keeps.same (s := s0) ?_ rfl rfl rfl rfl rfl rfl rfl rfl rfl
    exact h1
  · extract_lets +onlyGivenNames -underBinder s6
    clear_value s6
    extract_lets +onlyGivenNames -underBinder s7
    clear_value s7
    refine Keeps.same (s := s0) ?_ rfl rfl rfl rfl rfl rfl rfl rfl rfl
    exact h1

theorem resetUnits_keeps {a : State} {s : State} (hs : Keeps a s) : Keeps a (resetUnits s) :=
  hs.trans { Keeps.refl s with mem := fun g => g }

theorem resetSiteAll_keeps {a : State} {s : State} (hs : Keeps a s) :
    Keeps a (resetSiteAll s) := by
  unfold resetSiteAll
  apply forEach_keeps
  · intro x0 x1 x2
    apply driveSiteRst_keeps
    apply setSite_keeps
    exact x2
  · refine Keeps.same (s := s) ?_ rfl rfl rfl rfl rfl rfl rfl rfl rfl
    exact hs

theorem hubReset_keeps {a : State} (cls : Nat) {s : State} (hs : Keeps a s) :
    Keeps a (hubReset cls s) := by
  unfold hubReset
  extract_lets +onlyGivenNames -underBinder s0
  clear_value s0
  extract_lets +onlyGivenNames -underBinder s1
  clear_value s1
  extract_lets +onlyGivenNames -underBinder s2
  clear_value s2
  extract_lets +onlyGivenNames -underBinder s3
  clear_value s3
  extract_lets +onlyGivenNames -underBinder s4
  have h5 : Keeps a s4 := by
    unfold s4
    apply clrB_keeps
    apply resetUnits_keeps
    apply resetHost_keeps
    apply resetExtents_keeps
    apply resetIsland_keeps
    exact hs
  clear_value s4
  extract_lets +onlyGivenNames -underBinder s6
  have h7 : Keeps a s6 := by
    unfold s6
    apply forEach_keeps
    · intro x8 x9 x10
      apply takePortDown_keeps
      exact x10
    · apply releasePins_keeps
      exact h5
  clear_value s6
  extract_lets +onlyGivenNames -underBinder s11
  have h12 : Keeps a s11 := by
    unfold s11
    refine keeps_ite ?_ ?_
    · apply enterUnlocked_keeps
      exact h7
    · exact h7
  clear_value s11
  extract_lets +onlyGivenNames -underBinder s13
  have h14 : Keeps a s13 := by
    unfold s13
    apply resetSiteAll_keeps
    exact h12
  clear_value s13
  extract_lets +onlyGivenNames -underBinder s15
  have h16 : Keeps a s15 := by
    unfold s15
    apply resetWhere_keeps
    exact h14
  clear_value s15
  extract_lets +onlyGivenNames -underBinder s17
  have h18 : Keeps a s17 := by
    unfold s17
    apply wr_keeps
    apply wr_keeps
    exact h16
  clear_value s17
  extract_lets +onlyGivenNames -underBinder s19
  have h20 : Keeps a s19 := by
    unfold s19
    refine keeps_ite ?_ ?_
    · exact h18
    · apply setB_keeps
      exact h18
  clear_value s19
  extract_lets +onlyGivenNames -underBinder s21
  have h22 : Keeps a s21 := by
    unfold s21
    refine keeps_ite ?_ ?_
    · exact h20
    · apply wr_keeps
      exact h20
  clear_value s21
  extract_lets +onlyGivenNames -underBinder s23
  have h24 : Keeps a s23 := by
    unfold s23
    refine keeps_ite ?_ ?_
    · apply forEach_keeps
      · intro x25 x26 x27
        apply railOperation_keeps
        exact x27
      · exact h22
    · exact h22
  clear_value s23
  extract_lets +onlyGivenNames -underBinder s28
  have h29 : Keeps a s28 := by
    unfold s28
    apply forEach_keeps
    · intro x30 x31 x32
      apply setPort_keeps
      exact x32
    · exact h24
  clear_value s28
  apply setBoot_keeps
  exact h29

theorem doWarmReset_keeps {a : State} (release : Bool) {s : State} (hs : Keeps a s) :
    Keeps a (doWarmReset release s) := by
  unfold doWarmReset
  refine keeps_ite ?_ ?_
  · refine keeps_ite ?_ ?_
    · apply setBoot_keeps
      exact hs
    · exact hs
  · refine keeps_ite ?_ ?_
    · exact hs
    · split
      · exact hs
      · apply setBoot_keeps
        apply hubReset_keeps
        exact hs

theorem doSoftReset_keeps {a : State} {s : State} (hs : Keeps a s) :
    Keeps a (doSoftReset s) := by
  unfold doSoftReset
  refine keeps_ite ?_ ?_
  · exact hs
  · apply hubReset_keeps
    exact hs

/-- The state that fuse decode starts from at a cold reset. -/
def coldStart (flash : Option Flash) (s : State) : State :=
  { fuses := s.fuses, life := { s.life with prog := [] }, boot := { flash := flash.getD s.boot.flash },
    sec := { nextKey := s.sec.nextKey }, out := s.out, freeCtr := s.freeCtr, pending := s.pending }

/-- The pins at a cold reset. -/
def coldPins (t : State) : State :=
  forEach [0, 1, 2] (fun a s => driveAlive a 1 s) (forEach (List.range (chipSites t)) (fun j s => driveSiteRst j 0 s) t)

/-- What a cold reset keeps of what `Keeps` names; the life-cycle state, the position and the log start anew. -/
theorem doColdReset_keeps (flash : Option Flash) (s : State) :
    (doColdReset flash s).fuses = s.fuses ∧ (doColdReset flash s).pending = s.pending ∧ s.freeCtr ≤ (doColdReset flash s).freeCtr ∧
      s.out <+: (doColdReset flash s).out ∧ sortedKeys (doColdReset flash s).regs = true ∧ (doColdReset flash s).mem.wf := by
  have h0 : Keeps (coldStart flash s) (coldPins (coldStart flash s)) := by
    refine forEach_keeps (fun b t h => driveAlive_keeps _ _ h) (forEach_keeps (fun b t h => driveSiteRst_keeps _ _ h) (Keeps.refl _))
  generalize hx : coldPins (coldStart flash s) = x at h0
  have hd : doColdReset flash s = coldDecode x := by rw [← hx]; rfl
  rw [hd]
  have h1 : Keeps (setLife (fun l => { l with state := decodeLife l, compat := groupRead l.lcc == 1, lcbRead := l.lcb, stuck := false }) x)
      (coldDecode x) := by
    unfold coldDecode
    apply noteGroups_keeps
    exact Keeps.refl _
  exact ⟨h1.fuses.trans h0.fuses, h1.pending.trans h0.pending, Nat.le_trans h0.free h1.free, h0.out.trans h1.out, h1.regs (h0.regs rfl),
    h1.mem (h0.mem ⟨rfl, fun _ h => absurd h List.not_mem_nil⟩)⟩

end Sys2Proof.Machine
end

