-- ==== Sys2Proof/Laws/KeepsRegs.lean ====
section
/-! SUPPORT. Sys2Proof/Laws/KeepsRegs.lean: every operation of Machine/Regs.lean keeps what `Keeps` says. -/

namespace Sys2Proof.Machine

open Sys2Proof

theorem readLatched_keeps {a : State} (fn : Nat) (off : Nat) {s : State} (hs : Keeps a s) :
    Keeps a (readLatched fn off s).2 := by
  unfold readLatched
  extract_lets +onlyGivenNames -underBinder s0
  clear_value s0
  split
  · refine keeps_mk ?_
    refine Keeps.same (s := s) ?_ rfl rfl rfl rfl rfl rfl rfl rfl rfl
    exact hs
  · refine keeps_mk ?_
    refine Keeps.same (s := s) ?_ rfl rfl rfl rfl rfl rfl rfl rfl rfl
    exact hs
  · refine keeps_mk ?_
    exact hs

theorem refuseAccess_keeps {a : State} (fn : Nat) (off : Nat) (tag : Nat) (write : Bool) {s : State} (hs : Keeps a s) :
    Keeps a (refuseAccess fn off tag write s) := by
  unfold refuseAccess
  apply unsupportedReq_keeps
  apply hostErr_keeps
  exact hs

theorem doRegLowHalfRead_keeps {a : State} (fn : Nat) (off : Nat) (size : Nat) (tag : Nat) {s : State} (hs : Keeps a s) :
    Keeps a (doRegLowHalfRead fn off size tag s) := by
  unfold doRegLowHalfRead
  extract_lets +onlyGivenNames -underBinder s0
  have h1 : Keeps a s0 := by
    unfold s0
    apply raiseWake_keeps
    exact hs
  clear_value s0
  refine keeps_ite ?_ ?_
  · apply unsupportedReq_keeps
    exact h1
  · refine keeps_ite ?_ ?_
    · apply refuseAccess_keeps
      exact h1
    · refine keeps_ite ?_ ?_
      · apply hostCpl_keeps
        exact h1
      · extract_lets +onlyGivenNames -underBinder s2
        have h3 : Keeps a s2.2 := by
          unfold s2
          apply readLatched_keeps
          exact h1
        clear_value s2
        apply hostCpl_keeps
        exact h3

theorem doBarAccessInvalid_keeps {a : State} (fn : Nat) (bar : Option Nat) (off : Nat) (size : Nat) (tag : Nat) (write : Bool) {s : State} (hs : Keeps a s) :
    Keeps a (doBarAccessInvalid fn bar off size tag write s) := by
  unfold doBarAccessInvalid
  extract_lets +onlyGivenNames -underBinder s0
  have h1 : Keeps a s0 := by
    unfold s0
    apply raiseWake_keeps
    exact hs
  clear_value s0
  split
  · refine keeps_ite ?_ ?_
    · apply unsupportedReq_keeps
      exact h1
    · refine keeps_ite ?_ ?_
      · exact h1
      · apply refuseAccess_keeps
        exact h1
  · exact h1
  · apply unsupportedReq_keeps
    exact h1

theorem writeFld_keeps {a : State} (f : Fld) (i : Nat) (m : Nat) (v : Nat) {s : State} (hs : Keeps a s) :
    Keeps a (writeFld f i m v s) := by
  unfold writeFld
  extract_lets +onlyGivenNames -underBinder s0
  clear_value s0
  extract_lets +onlyGivenNames -underBinder s1
  clear_value s1
  split
  · apply wr_keeps
    exact hs
  · apply wr_keeps
    exact hs
  · refine keeps_ite ?_ ?_
    · exact hs
    · apply wr_keeps
      exact hs
  · apply wr_keeps
    exact hs
  · exact hs
  · exact hs

theorem writeFields_keeps {a : State} (b : RegBlk) (i : Nat) (m : Nat) (v : Nat) {s : State} (hs : Keeps a s) :
    Keeps a (writeFields b i m v s) := by
  unfold writeFields
  apply forEach_keeps
  · intro x0 x1 x2
    refine keeps_ite ?_ ?_
    · exact x2
    · apply writeFld_keeps
      exact x2
  · exact hs

theorem startCommand_keeps {a : State} (op : Nat) {s : State} (hs : Keeps a s) :
    Keeps a (startCommand op s) := by
  unfold startCommand
  split
  · apply doExtentAssign_keeps
    exact hs
  · apply doExtentRelease_keeps
    exact hs
  · apply doPartAssign_keeps
    exact hs
  · apply doPartRelease_keeps
    exact hs
  · apply doFuncBind_keeps
    exact hs
  · apply doConfEnter_keeps
    exact hs
  · apply doPortRekey_keeps
    exact hs
  · apply doZeroize_keeps
    exact hs
  · apply doLcTokenLoad_keeps
    exact hs
  · apply doLcTransition_keeps
    exact hs
  · apply doLcChallenge_keeps
    exact hs
  · apply doDebugGrant_keeps
    exact hs
  · apply doDebugRevoke_keeps
    exact hs
  · apply doLcSelectCompat_keeps
    exact hs
  · apply doCfgRead_keeps
    exact hs
  · apply doCfgWrite_keeps
    exact hs
  · apply doImageLoad_keeps
    exact hs
  · refine keeps_ite ?_ ?_
    · exact hs
    · apply mbxEnd_keeps
      exact hs

theorem writeSiteCtl_keeps {a : State} (j : Nat) (m : Nat) (v : Nat) {s : State} (hs : Keeps a s) :
    Keeps a (writeSiteCtl j m v s) := by
  unfold writeSiteCtl
  extract_lets +onlyGivenNames -underBinder s0
  have h1 : Keeps a s0 := by
    unfold s0
    apply writeFields_keeps
    exact hs
  clear_value s0
  extract_lets +onlyGivenNames -underBinder s2
  have h3 : Keeps a s2 := by
    unfold s2
    refine keeps_ite ?_ ?_
    · apply doSiteFence_keeps
      exact h1
    · exact h1
  clear_value s2
  refine keeps_ite ?_ ?_
  · apply doSiteReset_keeps
    exact h3
  · exact h3

theorem writeDsCtl_keeps {a : State} (p : Nat) (m : Nat) (v : Nat) {s : State} (hs : Keeps a s) :
    Keeps a (writeDsCtl p m v s) := by
  unfold writeDsCtl
  extract_lets +onlyGivenNames -underBinder s0
  have h1 : Keeps a s0 := by
    unfold s0
    apply writeFields_keeps
    exact hs
  clear_value s0
  extract_lets +onlyGivenNames -underBinder s2
  have h3 : Keeps a s2 := by
    unfold s2
    refine keeps_ite ?_ ?_
    · exact h1
    · apply dsPin_keeps
      exact h1
  clear_value s2
  extract_lets +onlyGivenNames -underBinder s4
  have h5 : Keeps a s4 := by
    unfold s4
    refine keeps_ite ?_ ?_
    · apply doPowerOn_keeps
      exact h3
    · exact h3
  clear_value s4
  extract_lets +onlyGivenNames -underBinder s6
  have h7 : Keeps a s6 := by
    unfold s6
    refine keeps_ite ?_ ?_
    · apply doRemove_keeps
      exact h5
    · exact h5
  clear_value s6
  refine keeps_ite ?_ ?_
  · apply doClear_keeps
    exact h7
  · exact h7

theorem writeRail_keeps {a : State} (r : Nat) (m : Nat) (v : Nat) {s : State} (hs : Keeps a s) :
    Keeps a (writeRail r m v s) := by
  unfold writeRail
  extract_lets +onlyGivenNames -underBinder s0
  have h1 : Keeps a s0 := by
    unfold s0
    apply writeFields_keeps
    exact hs
  clear_value s0
  apply wrb_keeps
  exact h1

theorem writeReg_keeps {a : State} (b : RegBlk) (i : Nat) (z2 : Bool) (v : Nat) {s : State} (hs : Keeps a s) :
    Keeps a (writeReg b i z2 v s) := by
  unfold writeReg
  extract_lets +onlyGivenNames -underBinder s0
  clear_value s0
  extract_lets +onlyGivenNames -underBinder s1
  clear_value s1
  refine keeps_ite ?_ ?_
  · exact hs
  · refine keeps_ite ?_ ?_
    · refine keeps_ite ?_ ?_
      · apply setB_keeps
        exact hs
      · exact hs
    · refine keeps_ite ?_ ?_
      · apply doRuleCtlWrite_keeps
        exact hs
      · refine keeps_ite ?_ ?_
        · apply doCalCtlWrite_keeps
          exact hs
        · refine keeps_ite ?_ ?_
          · apply doArrivalWrite_keeps
            exact hs
          · refine keeps_ite ?_ ?_
            · refine keeps_ite ?_ ?_
              · exact hs
              · apply doHostHdmWrite_keeps
                exact hs
            · refine keeps_ite ?_ ?_
              · apply writeSiteCtl_keeps
                exact hs
              · refine keeps_ite ?_ ?_
                · apply writeDsCtl_keeps
                  exact hs
                · refine keeps_ite ?_ ?_
                  · apply doTmoWrite_keeps
                    exact hs
                  · refine keeps_ite ?_ ?_
                    · apply doTmoWrite_keeps
                      exact hs
                    · refine keeps_ite ?_ ?_
                      · apply doTmoWrite_keeps
                        exact hs
                      · refine keeps_ite ?_ ?_
                        · refine keeps_ite ?_ ?_
                          · exact hs
                          · apply writeFields_keeps
                            exact hs
                        · refine keeps_ite ?_ ?_
                          · exact hs
                          · refine keeps_ite ?_ ?_
                            · extract_lets +onlyGivenNames -underBinder s2
                              have h3 : Keeps a s2 := by
                                unfold s2
                                refine keeps_ite ?_ ?_
                                · exact hs
                                · apply doJoin_keeps
                                  exact hs
                              clear_value s2
                              refine keeps_ite ?_ ?_
                              · apply doSyrFence_keeps
                                exact h3
                              · exact h3
                            · refine keeps_ite ?_ ?_
                              · refine keeps_ite ?_ ?_
                                · apply doRingEnable_keeps
                                  exact hs
                                · apply doRingDisable_keeps
                                  exact hs
                              · refine keeps_ite ?_ ?_
                                · apply doRingIdxWrite_keeps
                                  exact hs
                                · refine keeps_ite ?_ ?_
                                  · exact hs
                                  · refine keeps_ite ?_ ?_
                                    · refine keeps_ite ?_ ?_
                                      · apply startCommand_keeps
                                        exact hs
                                      · exact hs
                                    · refine keeps_ite ?_ ?_
                                      · refine keeps_ite ?_ ?_
                                        · exact hs
                                        · refine keeps_ite ?_ ?_
                                          · apply doSoftReset_keeps
                                            exact hs
                                          · refine keeps_ite ?_ ?_
                                            · apply doPartialReset_keeps
                                              exact hs
                                            · exact hs
                                      · refine keeps_ite ?_ ?_
                                        · apply writeRail_keeps
                                          exact hs
                                        · apply writeFields_keeps
                                          exact hs

theorem writeMsix_keeps {a : State} (n : Nat) (off : Nat) (v : Nat) {s : State} (hs : Keeps a s) :
    Keeps a (writeMsix n off v s) := by
  unfold writeMsix
  extract_lets +onlyGivenNames -underBinder s0
  clear_value s0
  extract_lets +onlyGivenNames -underBinder s1
  clear_value s1
  extract_lets +onlyGivenNames -underBinder s2
  clear_value s2
  apply unmaskMsix_keeps
  refine Keeps.same (s := s) ?_ rfl rfl rfl rfl rfl rfl rfl rfl rfl
  exact hs

theorem writeWord_keeps {a : State} (fn : Nat) (off : Nat) (v : Nat) {s : State} (hs : Keeps a s) :
    Keeps a (writeWord fn off v s) := by
  unfold writeWord
  refine keeps_ite ?_ ?_
  · exact hs
  · refine keeps_ite ?_ ?_
    · apply writeMsix_keeps
      exact hs
    · split
      · apply writeReg_keeps
        exact hs
      · exact hs

theorem guardTdis_keeps {a : State} {old : State} {s : State} (hold : Keeps a old) (hs : Keeps a s) :
    Keeps a (guardTdis old s) := by
  unfold guardTdis
  extract_lets +onlyGivenNames -underBinder s0
  clear_value s0
  apply forEach_keeps
  · intro x1 x2 x3
    refine keeps_ite ?_ ?_
    · exact x3
    · apply tdiError_keeps
      exact x3
  · exact hs

theorem writeBar_keeps {a : State} (fn : Nat) (off : Nat) (size : Nat) (v : Nat) {s : State} (hs : Keeps a s) :
    Keeps a (writeBar fn off size v s) := by
  unfold writeBar
  extract_lets +onlyGivenNames -underBinder s0
  have h1 : Keeps a s0 := by
    unfold s0
    apply writeWord_keeps
    exact hs
  clear_value s0
  apply guardTdis_keeps
  · exact hs
  · refine keeps_ite ?_ ?_
    · apply writeWord_keeps
      exact h1
    · exact h1

theorem doRegWrite_keeps {a : State} (fn : Nat) (off : Nat) (size : Nat) (v : Nat) (poison : Bool) {s : State} (hs : Keeps a s) :
    Keeps a (doRegWrite fn off size v poison s) := by
  unfold doRegWrite
  extract_lets +onlyGivenNames -underBinder s0
  have h1 : Keeps a s0 := by
    unfold s0
    apply raiseWake_keeps
    exact hs
  clear_value s0
  refine keeps_ite ?_ ?_
  · apply unsupportedReq_keeps
    exact h1
  · refine keeps_ite ?_ ?_
    · apply poisonedTlp_keeps
      exact h1
    · refine keeps_ite ?_ ?_
      · apply refuseAccess_keeps
        exact h1
      · apply writeBar_keeps
        exact h1

theorem doSetupLockSet_keeps {a : State} {s : State} (hs : Keeps a s) :
    Keeps a (doSetupLockSet s) := by
  unfold doSetupLockSet
  refine keeps_ite ?_ ?_
  · apply setB_keeps
    exact hs
  · exact hs

end Sys2Proof.Machine
end

