-- ==== Sys2Proof/Laws/KeepsBringup.lean ====
section
/-! SUPPORT. Sys2Proof/Laws/KeepsBringup.lean: every operation of Machine/Bringup.lean keeps what `Keeps` says. -/

namespace Sys2Proof.Machine

open Sys2Proof

theorem selectCfg_keeps {a : State} {s : State} (hs : Keeps a s) :
    Keeps a (selectCfg s) := by
  unfold selectCfg
  extract_lets +onlyGivenNames -underBinder s0
  clear_value s0
  extract_lets +onlyGivenNames -underBinder s1
  have h2 : Keeps a s1 := by
    unfold s1
    apply setBoot_keeps
    exact hs
  clear_value s1
  extract_lets +onlyGivenNames -underBinder s3
  have h4 : Keeps a s3 := by
    unfold s3
    apply wrb_keeps
    apply wr_keeps
    exact h2
  clear_value s3
  refine keeps_ite ?_ ?_
  · apply addEntry_keeps
    exact h4
  · exact h4

theorem startTarget_keeps {a : State} (t : Nat) {s : State} (hs : Keeps a s) :
    Keeps a (startTarget t s) := by
  unfold startTarget
  extract_lets +onlyGivenNames -underBinder s0
  clear_value s0
  split
  · apply addEntry_keeps
    apply wr_keeps
    apply wr_keeps
    exact hs
  · extract_lets +onlyGivenNames -underBinder s1
    clear_value s1
    extract_lets +onlyGivenNames -underBinder s2
    have h3 : Keeps a s2 := by
      unfold s2
      apply wr_keeps
      apply wr_keeps
      exact hs
    clear_value s2
    refine keeps_ite ?_ ?_
    · exact h3
    · extract_lets +onlyGivenNames -underBinder s4
      have h5 : Keeps a s4 := by
        unfold s4
        apply setStage_keeps
        apply wr_keeps
        exact h3
      clear_value s4
      apply addEntry_keeps
      apply setBoot_keeps
      exact h5

theorem trainSite_keeps {a : State} (j : Nat) (f : MemFound) {s : State} (hs : Keeps a s) :
    Keeps a (trainSite j f s) := by
  unfold trainSite
  refine keeps_ite ?_ ?_
  · apply wr_keeps
    apply wr_keeps
    apply wr_keeps
    apply wr_keeps
    apply wr_keeps
    apply wr_keeps
    apply wr_keeps
    exact hs
  · extract_lets +onlyGivenNames -underBinder s0
    have h1 : Keeps a s0 := by
      unfold s0
      apply setSiteMode_keeps
      apply wr_keeps
      apply wrb_keeps
      apply wr_keeps
      exact hs
    clear_value s0
    apply forEach_keeps
    · intro x2 x3 x4
      apply trainRate_keeps
      exact x4
    · exact h1

theorem recordSite_keeps {a : State} (j : Nat) {s : State} (hs : Keeps a s) :
    Keeps a (recordSite j s) := by
  unfold recordSite
  extract_lets +onlyGivenNames -underBinder s0
  clear_value s0
  extract_lets +onlyGivenNames -underBinder s1
  have h2 : Keeps a s1 := by
    unfold s1
    refine keeps_ite ?_ ?_
    · exact hs
    · apply forEach_keeps
      · intro x3 x4 x5
        refine keeps_ite ?_ ?_
        · exact x5
        · apply addEntry_keeps
          exact x5
      · exact hs
  clear_value s1
  split
  · apply addEntry_keeps
    exact h2
  · apply addEntry_keeps
    exact h2
  · apply addEntry_keeps
    exact h2
  · exact h2

theorem bringMemory_keeps {a : State} (cold : Bool) (l : List MemFound) {s : State} (hs : Keeps a s) :
    Keeps a (bringMemory cold l s) := by
  unfold bringMemory
  apply forEach_keeps
  · intro x0 x1 x2
    extract_lets +onlyGivenNames -underBinder s3
    clear_value s3
    extract_lets +onlyGivenNames -underBinder s4
    have h5 : Keeps a s4 := by
      unfold s4
      refine keeps_ite ?_ ?_
      · apply trainSite_keeps
        exact x2
      · refine keeps_ite ?_ ?_
        · exact x2
        · apply setSiteMode_keeps
          exact x2
    clear_value s4
    apply recordSite_keeps
    exact h5
  · exact hs

theorem steeringPlan_keeps {a : State} {s : State} (hs : Keeps a s) :
    Keeps a (steeringPlan s) := by
  unfold steeringPlan
  extract_lets +onlyGivenNames -underBinder s0
  have h1 : Keeps a s0 := by
    unfold s0
    apply setMem_keeps
    · intro x2
      exact ⟨rfl, rfl⟩
    · exact hs
  clear_value s0
  extract_lets +onlyGivenNames -underBinder s3
  clear_value s3
  extract_lets +onlyGivenNames -underBinder s4
  clear_value s4
  extract_lets +onlyGivenNames -underBinder s5
  clear_value s5
  extract_lets +onlyGivenNames -underBinder s6
  clear_value s6
  extract_lets +onlyGivenNames -underBinder s7
  clear_value s7
  extract_lets +onlyGivenNames -underBinder s8
  have h9 : Keeps a s8 := by
    unfold s8
    apply forEach_keeps
    · intro x10 x11 x12
      apply rst_keeps
      apply rst_keeps
      apply rst_keeps
      exact x12
    · exact h1
  clear_value s8
  extract_lets +onlyGivenNames -underBinder s13
  have h14 : Keeps a s13 := by
    unfold s13
    apply forEach_keeps
    · intro x15 x16 x17
      extract_lets +onlyGivenNames -underBinder s18
      clear_value s18
      apply wr_keeps
      apply wr_keeps
      apply wr_keeps
      exact x17
    · exact h9
  clear_value s13
  extract_lets +onlyGivenNames -underBinder s19
  have h20 : Keeps a s19 := by
    unfold s19
    apply forEach_keeps
    · intro x21 x22 x23
      apply wr_keeps
      exact x23
    · exact h14
  clear_value s19
  extract_lets +onlyGivenNames -underBinder s24
  clear_value s24
  extract_lets +onlyGivenNames -underBinder s25
  clear_value s25
  apply wr_keeps
  apply wr_keeps
  apply wr_keeps
  exact h20

theorem bringTiles_keeps {a : State} (ok : Nat) {s : State} (hs : Keeps a s) :
    Keeps a (bringTiles ok s) := by
  unfold bringTiles
  apply forEach_keeps
  · intro x0 x1 x2
    extract_lets +onlyGivenNames -underBinder s3
    have h4 : Keeps a s3 := by
      unfold s3
      apply loadBuiltIn_keeps
      exact x2
    clear_value s3
    refine keeps_ite ?_ ?_
    · exact h4
    · apply addEntry_keeps
      apply wr_keeps
      exact h4
  · exact hs

theorem slicePlan_keeps {a : State} {s : State} (hs : Keeps a s) :
    Keeps a (slicePlan s) := by
  unfold slicePlan
  extract_lets +onlyGivenNames -underBinder s0
  clear_value s0
  apply forEach_keeps
  · intro x1 x2 x3
    apply wr_keeps
    apply wr_keeps
    exact x3
  · exact hs

theorem takeFirmwareExts_keeps {a : State} {s : State} (hs : Keeps a s) :
    Keeps a (takeFirmwareExts s) := by
  unfold takeFirmwareExts
  apply newKey_keeps
  apply forEach_keeps
  · intro x0 x1 x2
    apply setB_keeps
    apply wr_keeps
    exact x2
  · exact hs

theorem applySetup_keeps {a : State} (z0 : Nat) (z1 : List Byte) {z2 : State} (hz2 : Keeps a z2) :
    Keeps a (applySetup z0 z1 z2) := by
  induction z0 generalizing z1 z2 with
  | zero =>
    unfold applySetup
    exact hz2
  | succ n ih =>
    unfold applySetup
    refine keeps_ite ?_ ?_
    · exact hz2
    · apply ih
      apply writeBar_keeps
      exact hz2

theorem applyRuling_keeps {a : State} (d : List Byte) {s : State} (hs : Keeps a s) :
    Keeps a (applyRuling d s) := by
  unfold applyRuling
  extract_lets +onlyGivenNames -underBinder s0
  clear_value s0
  extract_lets +onlyGivenNames -underBinder s1
  have h2 : Keeps a s1 := by
    unfold s1
    apply wr_keeps
    apply wr_keeps
    exact hs
  clear_value s1
  apply doRuleCtlWrite_keeps
  exact h2

theorem applyMemory_keeps {a : State} {s : State} (hs : Keeps a s) :
    Keeps a (applyMemory s) := by
  unfold applyMemory
  split
  · extract_lets +onlyGivenNames -underBinder s0
    clear_value s0
    apply wr_keeps
    apply wr_keeps
    exact hs
  · exact hs

theorem applyItem_keeps {a : State} (p : Nat × List Byte) {s : State} (hs : Keeps a s) :
    Keeps a (applyItem p s) := by
  unfold applyItem
  extract_lets +onlyGivenNames -underBinder s0
  clear_value s0
  split
  · apply setB_keeps
    apply wr_keeps
    apply wr_keeps
    exact hs
  · apply applyRuling_keeps
    exact hs
  · apply setBoot_keeps
    exact hs
  · apply applySetup_keeps
    exact hs
  · exact hs
  · exact hs
  · exact hs
  · exact hs
  · exact hs
  · exact hs
  · exact hs
  · exact hs
  · apply addEntry_keeps
    apply setBoot_keeps
    exact hs

theorem noItems_keeps {a : State} {s : State} (hs : Keeps a s) :
    Keeps a (noItems s) := by
  unfold noItems
  extract_lets +onlyGivenNames -underBinder s0
  have h1 : Keeps a s0 := by
    unfold s0
    apply rst_keeps
    apply rst_keeps
    apply rst_keeps
    apply rst_keeps
    apply rst_keeps
    apply rst_keeps
    apply rst_keeps
    exact hs
  clear_value s0
  apply doRuleCtlWrite_keeps
  apply setBoot_keeps
  exact h1

theorem joinNamed_keeps {a : State} {s : State} (hs : Keeps a s) :
    Keeps a (joinNamed s) := by
  unfold joinNamed
  split
  · apply doJoin_keeps
    exact hs
  · exact hs

theorem bringLink_keeps {a : State} (l : HostLink) {s : State} (hs : Keeps a s) :
    Keeps a (bringLink l s) := by
  unfold bringLink
  extract_lets +onlyGivenNames -underBinder s0
  have h1 : Keeps a s0 := by
    unfold s0
    apply setLink_keeps
    exact hs
  clear_value s0
  refine keeps_ite ?_ ?_
  · exact h1
  · apply addEntry_keeps
    exact h1

theorem coldSelftest_keeps {a : State} (cls : Nat) (ok : Bool) {s : State} (hs : Keeps a s) :
    Keeps a (coldSelftest cls ok s) := by
  unfold coldSelftest
  refine keeps_ite ?_ ?_
  · exact hs
  · refine keeps_ite ?_ ?_
    · apply selftestsPass_keeps
      exact hs
    · apply fipsEnter_keeps
      exact hs

theorem startStore_keeps {a : State} (cls : Nat) {s : State} (hs : Keeps a s) :
    Keeps a (startStore cls s) := by
  unfold startStore
  extract_lets +onlyGivenNames -underBinder s0
  have h1 : Keeps a s0 := by
    unfold s0
    apply selectCfg_keeps
    exact hs
  clear_value s0
  refine keeps_ite ?_ ?_
  · exact h1
  · extract_lets +onlyGivenNames -underBinder s2
    have h3 : Keeps a s2 := by
      unfold s2
      apply startWipe_keeps
      exact h1
    clear_value s2
    apply wr_keeps
    exact h3

theorem hostUp_keeps {a : State} {s : State} (hs : Keeps a s) :
    Keeps a (hostUp s) := by
  unfold hostUp
  refine Keeps.same (s := s) ?_ rfl rfl rfl rfl rfl rfl rfl rfl rfl
  exact hs

theorem bringUpWork_keeps {a : State} (cls : Nat) (since : Nat) (f : BringUp) {s : State} (hs : Keeps a s) :
    Keeps a (bringUpWork cls since f s) := by
  unfold bringUpWork
  extract_lets +onlyGivenNames -underBinder s0
  clear_value s0
  extract_lets +onlyGivenNames -underBinder s1
  have h2 : Keeps a s1 := by
    unfold s1
    apply setB_keeps
    apply setBoot_keeps
    apply hostUp_keeps
    exact hs
  clear_value s1
  extract_lets +onlyGivenNames -underBinder s3
  have h4 : Keeps a s3 := by
    unfold s3
    apply coldSelftest_keeps
    apply startStore_keeps
    exact h2
  clear_value s3
  extract_lets +onlyGivenNames -underBinder s5
  have h6 : Keeps a s5 := by
    unfold s5
    apply forEach_keeps
    · intro x7 x8 x9
      apply startTarget_keeps
      exact x9
    · apply wr_keeps
      apply wr_keeps
      exact h4
  clear_value s5
  extract_lets +onlyGivenNames -underBinder s10
  have h11 : Keeps a s10 := by
    unfold s10
    refine keeps_ite ?_ ?_
    · apply noItems_keeps
      exact h6
    · apply applyMemory_keeps
      exact h6
  clear_value s10
  extract_lets +onlyGivenNames -underBinder s12
  have h13 : Keeps a s12 := by
    unfold s12
    refine keeps_ite ?_ ?_
    · apply setB_keeps
      exact h11
    · exact h11
  clear_value s12
  extract_lets +onlyGivenNames -underBinder s14
  have h15 : Keeps a s14 := by
    unfold s14
    refine keeps_ite ?_ ?_
    · exact h13
    · apply bringLink_keeps
      exact h13
  clear_value s14
  extract_lets +onlyGivenNames -underBinder s16
  have h17 : Keeps a s16 := by
    unfold s16
    apply slicePlan_keeps
    apply bringTiles_keeps
    apply steeringPlan_keeps
    apply bringMemory_keeps
    exact h15
  clear_value s16
  extract_lets +onlyGivenNames -underBinder s18
  have h19 : Keeps a s18 := by
    unfold s18
    apply forEach_keeps
    · intro x20 x21 x22
      apply applyItem_keeps
      exact x22
    · apply takeFirmwareExts_keeps
      exact h17
  clear_value s18
  extract_lets +onlyGivenNames -underBinder s23
  have h24 : Keeps a s23 := by
    unfold s23
    apply forEach_keeps
    · intro x25 x26 x27
      apply setGroup_keeps
      exact x27
    · apply forEach_keeps
      · intro x28 x29 x30
        apply setRoute_keeps
        exact x30
      · exact h19
  clear_value s23
  apply wr_keeps
  exact h24

theorem setReady_keeps {a : State} {s : State} (hs : Keeps a s) :
    Keeps a (setReady s) := by
  unfold setReady
  extract_lets +onlyGivenNames -underBinder s0
  have h1 : Keeps a s0 := by
    unfold s0
    apply setB_keeps
    apply setBoot_keeps
    exact hs
  clear_value s0
  extract_lets +onlyGivenNames -underBinder s2
  have h3 : Keeps a s2 := by
    unfold s2
    apply wrb_keeps
    exact h1
  clear_value s2
  extract_lets +onlyGivenNames -underBinder s4
  have h5 : Keeps a s4 := by
    unfold s4
    refine keeps_ite ?_ ?_
    · apply enterLocked_keeps
      exact h3
    · exact h3
  clear_value s4
  extract_lets +onlyGivenNames -underBinder s6
  have h7 : Keeps a s6 := by
    unfold s6
    apply hubEvent_keeps
    exact h5
  clear_value s6
  apply resumeRings_keeps
  apply joinNamed_keeps
  exact h7

theorem doBringupComplete_keeps {a : State} (f : BringUp) {s : State} (hs : Keeps a s) :
    Keeps a (doBringupComplete f s) := by
  unfold doBringupComplete
  split
  · exact hs
  · refine keeps_ite ?_ ?_
    · exact hs
    · refine keeps_ite ?_ ?_
      · apply setLink_keeps
        apply hostUp_keeps
        apply coldSelftest_keeps
        exact hs
      · extract_lets +onlyGivenNames -underBinder s0
        have h1 : Keeps a s0 := by
          unfold s0
          apply bringUpWork_keeps
          exact hs
        clear_value s0
        refine keeps_ite ?_ ?_
        · apply setReady_keeps
          exact h1
        · exact h1

end Sys2Proof.Machine
end

