-- ==== Sys2Proof/Laws/KeepsTick.lean ====
section
/-! SUPPORT. Sys2Proof/Laws/KeepsTick.lean: every operation of Machine/Tick.lean keeps what `Keeps` says. -/

namespace Sys2Proof.Machine

open Sys2Proof

theorem tickTile_keeps {a : State} (t : Nat) {s : State} (hs : Keeps a s) :
    Keeps a (tickTile t s) := by
  unfold tickTile
  extract_lets +onlyGivenNames -underBinder s0
  clear_value s0
  extract_lets +onlyGivenNames -underBinder s1
  clear_value s1
  extract_lets +onlyGivenNames -underBinder s2
  clear_value s2
  extract_lets +onlyGivenNames -underBinder s3
  have h4 : Keeps a s3 := by
    unfold s3
    split
    · refine keeps_ite ?_ ?_
      · apply countTile_keeps
        exact hs
      · exact hs
    · exact hs
  clear_value s3
  extract_lets +onlyGivenNames -underBinder s5
  have h6 : Keeps a s5 := by
    unfold s5
    refine keeps_ite ?_ ?_
    · apply count_keeps
      exact h4
    · exact h4
  clear_value s5
  extract_lets +onlyGivenNames -underBinder s7
  clear_value s7
  extract_lets +onlyGivenNames -underBinder s8
  have h9 : Keeps a s8 := by
    unfold s8
    refine keeps_ite ?_ ?_
    · refine Keeps.same (s := s5) ?_ rfl rfl rfl rfl rfl rfl rfl rfl rfl
      exact h6
    · refine keeps_ite ?_ ?_
      · exact h6
      · refine Keeps.same (s := s5) ?_ rfl rfl rfl rfl rfl rfl rfl rfl rfl
        exact h6
  clear_value s8
  apply addCycles_keeps
  exact h9

theorem tickMem_keeps {a : State} (j : Nat) {s : State} (hs : Keeps a s) :
    Keeps a (tickMem j s) := by
  unfold tickMem
  extract_lets +onlyGivenNames -underBinder s0
  clear_value s0
  extract_lets +onlyGivenNames -underBinder s1
  clear_value s1
  extract_lets +onlyGivenNames -underBinder s2
  clear_value s2
  extract_lets +onlyGivenNames -underBinder s3
  extract_lets +onlyGivenNames -underBinder s4
  clear_value s4
  extract_lets +onlyGivenNames -underBinder s5
  have h6 : Keeps a s5 := by
    unfold s5
    refine keeps_ite ?_ ?_
    · apply count_keeps
      exact hs
    · exact hs
  clear_value s5
  apply addCycles_keeps
  apply count_keeps
  exact h6

theorem tickCycles_keeps {a : State} {s : State} (hs : Keeps a s) :
    Keeps a (tickCycles s) := by
  unfold tickCycles
  refine keeps_ite ?_ ?_
  · exact hs
  · extract_lets +onlyGivenNames -underBinder s0
    have h1 : Keeps a s0 := by
      unfold s0
      apply forEach_keeps
      · intro x2 x3 x4
        apply tickTile_keeps
        exact x4
      · exact hs
    clear_value s0
    extract_lets +onlyGivenNames -underBinder s5
    have h6 : Keeps a s5 := by
      unfold s5
      apply forEach_keeps
      · intro x7 x8 x9
        apply tickMem_keeps
        exact x9
      · exact h1
    clear_value s5
    apply forEach_keeps
    · intro x10 x11 x12
      apply addCycles_keeps
      exact x12
    · exact h6

theorem settleWork_keeps {a : State} {s : State} (hs : Keeps a s) :
    Keeps a (settleWork s) := by
  unfold settleWork
  apply followProchot_keeps
  apply settleCredits_keeps
  apply settleWake_keeps
  apply settleEntry_keeps
  apply settleHost_keeps
  apply settleDs_keeps
  apply settlePartial_keeps
  apply settleRetrains_keeps
  apply settleSvc_keeps
  apply settleBatches_keeps
  apply flushMirror_keeps
  apply advanceColls_keeps
  apply advanceJobs_keeps
  apply settleJobs_keeps
  apply pumpWaiting_keeps
  exact hs

theorem settleFirmware_keeps {a : State} {s : State} (hs : Keeps a s) :
    Keeps a (settleFirmware s) := by
  unfold settleFirmware
  apply settleDirs_keeps
  apply settleRtp_keeps
  apply settleCommits_keeps
  apply settleSec_keeps
  apply stepProgram_keeps
  exact hs

theorem tick_keeps {a : State} {s : State} (hs : Keeps a s) :
    Keeps a (tick s) := by
  unfold tick
  apply clocked_keeps
  · intro x0 x1
    apply noteBusy_keeps
    apply settleFirmware_keeps
    apply settleWork_keeps
    apply tickCycles_keeps
    apply pauseTimers_keeps
    apply tickRuling_keeps
    exact x1
  · exact hs

end Sys2Proof.Machine
end

