-- ==== Sys2Proof/Laws/State.lean ====
section
/-! SUPPORT. Sys2Proof/Laws/State.lean: what every update of the state does to each of its fields, and what reads of the maps
and of the register fields answer after a write. -/

namespace Sys2Proof.Machine

open Sys2Proof

/-! ## Maps -/

@[simp] theorem look_put_same (k : Nat) (a : α) (m : SMap α) : look (put k a m) k = some a := by
  induction m with
  | nil => simp [put, look]
  | cons q t ih =>
    obtain ⟨j, b⟩ := q
    simp only [put]
    split
    · simp [look]
    · split
      · simp [look]
      · rename_i h; simp [look, h, ih]

theorem look_put_other {k j : Nat} (h : j ≠ k) (a : α) (m : SMap α) : look (put k a m) j = look m j := by
  induction m with
  | nil => simp [put, look, h]
  | cons q t ih =>
    obtain ⟨i, b⟩ := q
    simp only [put]
    split
    · simp [look, h]
    · split
      · rename_i h2; subst h2; simp [look, h]
      · simp [look, ih]

@[simp] theorem look_del_same (k : Nat) (m : SMap α) : look (del k m) k = none := by
  induction m with
  | nil => rfl
  | cons q t ih =>
    obtain ⟨j, b⟩ := q
    by_cases h : j = k
    · simpa [del, h] using ih
    · have h' : k ≠ j := fun e => h e.symm
      simpa [del, h, look, h'] using ih

theorem look_del_other {k j : Nat} (h : j ≠ k) (m : SMap α) : look (del k m) j = look m j := by
  induction m with
  | nil => rfl
  | cons q t ih =>
    obtain ⟨i, b⟩ := q
    by_cases h2 : i = k
    · subst h2; simpa [del, look, h] using ih
    · have := ih; simp only [del] at this; simp [del, h2, look, this]

@[simp] theorem lookD_put_same (d : α) (k : Nat) (a : α) (m : SMap α) : lookD d (put k a m) k = a := by simp [lookD]

theorem lookD_put_other {k j : Nat} (h : j ≠ k) (d a : α) (m : SMap α) : lookD d (put k a m) j = lookD d m j := by
  simp [lookD, look_put_other h]

@[simp] theorem lookD_modD_same (d : α) (k : Nat) (f : α → α) (m : SMap α) : lookD d (modD d k f m) k = f (lookD d m k) := by
  simp [modD]

theorem lookD_modD_other {k j : Nat} (h : j ≠ k) (d : α) (f : α → α) (m : SMap α) : lookD d (modD d k f m) j = lookD d m j := by
  simp [modD, lookD_put_other h]

/-! ## Register fields -/

theorem rstVal_wr (f g : Fld) (i j v : Nat) (s : State) : rstVal f i (wr g j v s) = rstVal f i s := rfl

/-- A field reads as what was written to it, kept to its width. -/
@[simp] theorem rd_wr_same (f : Fld) (i v : Nat) (s : State) : rd f i (wr f i v s) = wrap f.w v := by
  show (look (wr f i v s).regs (f.key i)).getD (rstVal f i s) = _
  simp only [wr]
  split
  · rename_i h; simp [h]
  · simp

/-- A write of one field leaves every field with another key. -/
theorem rd_wr_key {f g : Fld} {i j : Nat} (h : f.key i ≠ g.key j) (v : Nat) (s : State) : rd f i (wr g j v s) = rd f i s := by
  show (look (wr g j v s).regs (f.key i)).getD (rstVal f i s) = _
  simp only [wr]
  split
  · simp [look_del_other h, rd]
  · simp [look_put_other h, rd]

/-- A write of one field leaves the fields of other numbers at the same index. -/
theorem rd_wr_field {f g : Fld} (h : f.code ≠ g.code) (i v : Nat) (s : State) : rd f i (wr g i v s) = rd f i s :=
  rd_wr_key (by simp only [Fld.key]; omega) v s

/-- A write of one field leaves the fields of other numbers at every index. -/
theorem rd_wr_other {f g : Fld} (h : f.code ≠ g.code) {i j : Nat} (hi : i < 65536) (hj : j < 65536) (v : Nat) (s : State) :
    rd f i (wr g j v s) = rd f i s :=
  rd_wr_key (by simp only [Fld.key]; omega) v s

/-- A write of one field at one index leaves it at the others. -/
theorem rd_wr_index {f : Fld} {i j : Nat} (h : i ≠ j) (v : Nat) (s : State) : rd f i (wr f j v s) = rd f i s :=
  rd_wr_key (by simp only [Fld.key]; omega) v s

/-- A field that is reset reads its reset value. -/
@[simp] theorem rd_rst_same (f : Fld) (i : Nat) (s : State) : rd f i (rst f i s) = rstVal f i s := by
  show (look (rst f i s).regs (f.key i)).getD (rstVal f i s) = _
  simp [rst]

/-! ## One lemma per update, a conjunct per field -/

@[simp] theorem setPower_fields (f : Power → Power) (s : State) :
    (setPower f s).fuses = s.fuses ∧ (setPower f s).life = s.life ∧ (setPower f s).regs = s.regs ∧
    (setPower f s).latches = s.latches ∧ (setPower f s).ruling = s.ruling ∧ (setPower f s).cal = s.cal ∧
    (setPower f s).rings = s.rings ∧ (setPower f s).xlat = s.xlat ∧ (setPower f s).host = s.host ∧
    (setPower f s).sites = s.sites ∧ (setPower f s).mem = s.mem ∧ (setPower f s).coh = s.coh ∧ (setPower f s).syr = s.syr ∧
    (setPower f s).grv = s.grv ∧ (setPower f s).ses = s.ses ∧ (setPower f s).attn = s.attn ∧ (setPower f s).cnt = s.cnt ∧
    (setPower f s).mesh = s.mesh ∧ (setPower f s).power = f s.power ∧ (setPower f s).boot = s.boot ∧
    (setPower f s).sec = s.sec ∧ (setPower f s).timers = s.timers ∧ (setPower f s).out = s.out ∧ (setPower f s).log = s.log ∧
    (setPower f s).freeCtr = s.freeCtr ∧ (setPower f s).pending = s.pending :=
  ⟨rfl, rfl, rfl, rfl, rfl, rfl, rfl, rfl, rfl, rfl, rfl, rfl, rfl, rfl, rfl, rfl, rfl, rfl, rfl, rfl, rfl, rfl, rfl, rfl, rfl, rfl⟩

@[simp] theorem rd_setPower (g : Power → Power) (x : Fld) (i : Nat) (s : State) :
    rd x i (setPower g s) = rd x i s ∧ rdb x i (setPower g s) = rdb x i s := ⟨rfl, rfl⟩

@[simp] theorem setRuling_fields (f : Ruling → Ruling) (s : State) :
    (setRuling f s).fuses = s.fuses ∧ (setRuling f s).life = s.life ∧ (setRuling f s).regs = s.regs ∧
    (setRuling f s).latches = s.latches ∧ (setRuling f s).ruling = f s.ruling ∧ (setRuling f s).cal = s.cal ∧
    (setRuling f s).rings = s.rings ∧ (setRuling f s).xlat = s.xlat ∧ (setRuling f s).host = s.host ∧
    (setRuling f s).sites = s.sites ∧ (setRuling f s).mem = s.mem ∧ (setRuling f s).coh = s.coh ∧ (setRuling f s).syr = s.syr ∧
    (setRuling f s).grv = s.grv ∧ (setRuling f s).ses = s.ses ∧ (setRuling f s).attn = s.attn ∧ (setRuling f s).cnt = s.cnt ∧
    (setRuling f s).mesh = s.mesh ∧ (setRuling f s).power = s.power ∧ (setRuling f s).boot = s.boot ∧
    (setRuling f s).sec = s.sec ∧ (setRuling f s).timers = s.timers ∧ (setRuling f s).out = s.out ∧
    (setRuling f s).log = s.log ∧ (setRuling f s).freeCtr = s.freeCtr ∧ (setRuling f s).pending = s.pending :=
  ⟨rfl, rfl, rfl, rfl, rfl, rfl, rfl, rfl, rfl, rfl, rfl, rfl, rfl, rfl, rfl, rfl, rfl, rfl, rfl, rfl, rfl, rfl, rfl, rfl, rfl, rfl⟩

@[simp] theorem rd_setRuling (g : Ruling → Ruling) (x : Fld) (i : Nat) (s : State) :
    rd x i (setRuling g s) = rd x i s ∧ rdb x i (setRuling g s) = rdb x i s := ⟨rfl, rfl⟩

@[simp] theorem setMem_fields (f : Mem → Mem) (s : State) :
    (setMem f s).fuses = s.fuses ∧ (setMem f s).life = s.life ∧ (setMem f s).regs = s.regs ∧ (setMem f s).latches = s.latches ∧
    (setMem f s).ruling = s.ruling ∧ (setMem f s).cal = s.cal ∧ (setMem f s).rings = s.rings ∧ (setMem f s).xlat = s.xlat ∧
    (setMem f s).host = s.host ∧ (setMem f s).sites = s.sites ∧ (setMem f s).mem = f s.mem ∧ (setMem f s).coh = s.coh ∧
    (setMem f s).syr = s.syr ∧ (setMem f s).grv = s.grv ∧ (setMem f s).ses = s.ses ∧ (setMem f s).attn = s.attn ∧
    (setMem f s).cnt = s.cnt ∧ (setMem f s).mesh = s.mesh ∧ (setMem f s).power = s.power ∧ (setMem f s).boot = s.boot ∧
    (setMem f s).sec = s.sec ∧ (setMem f s).timers = s.timers ∧ (setMem f s).out = s.out ∧ (setMem f s).log = s.log ∧
    (setMem f s).freeCtr = s.freeCtr ∧ (setMem f s).pending = s.pending :=
  ⟨rfl, rfl, rfl, rfl, rfl, rfl, rfl, rfl, rfl, rfl, rfl, rfl, rfl, rfl, rfl, rfl, rfl, rfl, rfl, rfl, rfl, rfl, rfl, rfl, rfl, rfl⟩

@[simp] theorem rd_setMem (g : Mem → Mem) (x : Fld) (i : Nat) (s : State) :
    rd x i (setMem g s) = rd x i s ∧ rdb x i (setMem g s) = rdb x i s := ⟨rfl, rfl⟩

@[simp] theorem setCoh_fields (f : Coh → Coh) (s : State) :
    (setCoh f s).fuses = s.fuses ∧ (setCoh f s).life = s.life ∧ (setCoh f s).regs = s.regs ∧ (setCoh f s).latches = s.latches ∧
    (setCoh f s).ruling = s.ruling ∧ (setCoh f s).cal = s.cal ∧ (setCoh f s).rings = s.rings ∧ (setCoh f s).xlat = s.xlat ∧
    (setCoh f s).host = s.host ∧ (setCoh f s).sites = s.sites ∧ (setCoh f s).mem = s.mem ∧ (setCoh f s).coh = f s.coh ∧
    (setCoh f s).syr = s.syr ∧ (setCoh f s).grv = s.grv ∧ (setCoh f s).ses = s.ses ∧ (setCoh f s).attn = s.attn ∧
    (setCoh f s).cnt = s.cnt ∧ (setCoh f s).mesh = s.mesh ∧ (setCoh f s).power = s.power ∧ (setCoh f s).boot = s.boot ∧
    (setCoh f s).sec = s.sec ∧ (setCoh f s).timers = s.timers ∧ (setCoh f s).out = s.out ∧ (setCoh f s).log = s.log ∧
    (setCoh f s).freeCtr = s.freeCtr ∧ (setCoh f s).pending = s.pending :=
  ⟨rfl, rfl, rfl, rfl, rfl, rfl, rfl, rfl, rfl, rfl, rfl, rfl, rfl, rfl, rfl, rfl, rfl, rfl, rfl, rfl, rfl, rfl, rfl, rfl, rfl, rfl⟩

@[simp] theorem rd_setCoh (g : Coh → Coh) (x : Fld) (i : Nat) (s : State) :
    rd x i (setCoh g s) = rd x i s ∧ rdb x i (setCoh g s) = rdb x i s := ⟨rfl, rfl⟩

@[simp] theorem setMesh_fields (f : Mesh → Mesh) (s : State) :
    (setMesh f s).fuses = s.fuses ∧ (setMesh f s).life = s.life ∧ (setMesh f s).regs = s.regs ∧
    (setMesh f s).latches = s.latches ∧ (setMesh f s).ruling = s.ruling ∧ (setMesh f s).cal = s.cal ∧
    (setMesh f s).rings = s.rings ∧ (setMesh f s).xlat = s.xlat ∧ (setMesh f s).host = s.host ∧ (setMesh f s).sites = s.sites ∧
    (setMesh f s).mem = s.mem ∧ (setMesh f s).coh = s.coh ∧ (setMesh f s).syr = s.syr ∧ (setMesh f s).grv = s.grv ∧
    (setMesh f s).ses = s.ses ∧ (setMesh f s).attn = s.attn ∧ (setMesh f s).cnt = s.cnt ∧ (setMesh f s).mesh = f s.mesh ∧
    (setMesh f s).power = s.power ∧ (setMesh f s).boot = s.boot ∧ (setMesh f s).sec = s.sec ∧ (setMesh f s).timers = s.timers ∧
    (setMesh f s).out = s.out ∧ (setMesh f s).log = s.log ∧ (setMesh f s).freeCtr = s.freeCtr ∧
    (setMesh f s).pending = s.pending :=
  ⟨rfl, rfl, rfl, rfl, rfl, rfl, rfl, rfl, rfl, rfl, rfl, rfl, rfl, rfl, rfl, rfl, rfl, rfl, rfl, rfl, rfl, rfl, rfl, rfl, rfl, rfl⟩

@[simp] theorem rd_setMesh (g : Mesh → Mesh) (x : Fld) (i : Nat) (s : State) :
    rd x i (setMesh g s) = rd x i s ∧ rdb x i (setMesh g s) = rdb x i s := ⟨rfl, rfl⟩

@[simp] theorem setSec_fields (f : Sec → Sec) (s : State) :
    (setSec f s).fuses = s.fuses ∧ (setSec f s).life = s.life ∧ (setSec f s).regs = s.regs ∧ (setSec f s).latches = s.latches ∧
    (setSec f s).ruling = s.ruling ∧ (setSec f s).cal = s.cal ∧ (setSec f s).rings = s.rings ∧ (setSec f s).xlat = s.xlat ∧
    (setSec f s).host = s.host ∧ (setSec f s).sites = s.sites ∧ (setSec f s).mem = s.mem ∧ (setSec f s).coh = s.coh ∧
    (setSec f s).syr = s.syr ∧ (setSec f s).grv = s.grv ∧ (setSec f s).ses = s.ses ∧ (setSec f s).attn = s.attn ∧
    (setSec f s).cnt = s.cnt ∧ (setSec f s).mesh = s.mesh ∧ (setSec f s).power = s.power ∧ (setSec f s).boot = s.boot ∧
    (setSec f s).sec = f s.sec ∧ (setSec f s).timers = s.timers ∧ (setSec f s).out = s.out ∧ (setSec f s).log = s.log ∧
    (setSec f s).freeCtr = s.freeCtr ∧ (setSec f s).pending = s.pending :=
  ⟨rfl, rfl, rfl, rfl, rfl, rfl, rfl, rfl, rfl, rfl, rfl, rfl, rfl, rfl, rfl, rfl, rfl, rfl, rfl, rfl, rfl, rfl, rfl, rfl, rfl, rfl⟩

@[simp] theorem rd_setSec (g : Sec → Sec) (x : Fld) (i : Nat) (s : State) :
    rd x i (setSec g s) = rd x i s ∧ rdb x i (setSec g s) = rdb x i s := ⟨rfl, rfl⟩

@[simp] theorem setBoot_fields (f : Boot → Boot) (s : State) :
    (setBoot f s).fuses = s.fuses ∧ (setBoot f s).life = s.life ∧ (setBoot f s).regs = s.regs ∧
    (setBoot f s).latches = s.latches ∧ (setBoot f s).ruling = s.ruling ∧ (setBoot f s).cal = s.cal ∧
    (setBoot f s).rings = s.rings ∧ (setBoot f s).xlat = s.xlat ∧ (setBoot f s).host = s.host ∧ (setBoot f s).sites = s.sites ∧
    (setBoot f s).mem = s.mem ∧ (setBoot f s).coh = s.coh ∧ (setBoot f s).syr = s.syr ∧ (setBoot f s).grv = s.grv ∧
    (setBoot f s).ses = s.ses ∧ (setBoot f s).attn = s.attn ∧ (setBoot f s).cnt = s.cnt ∧ (setBoot f s).mesh = s.mesh ∧
    (setBoot f s).power = s.power ∧ (setBoot f s).boot = f s.boot ∧ (setBoot f s).sec = s.sec ∧
    (setBoot f s).timers = s.timers ∧ (setBoot f s).out = s.out ∧ (setBoot f s).log = s.log ∧
    (setBoot f s).freeCtr = s.freeCtr ∧ (setBoot f s).pending = s.pending :=
  ⟨rfl, rfl, rfl, rfl, rfl, rfl, rfl, rfl, rfl, rfl, rfl, rfl, rfl, rfl, rfl, rfl, rfl, rfl, rfl, rfl, rfl, rfl, rfl, rfl, rfl, rfl⟩

@[simp] theorem rd_setBoot (g : Boot → Boot) (x : Fld) (i : Nat) (s : State) :
    rd x i (setBoot g s) = rd x i s ∧ rdb x i (setBoot g s) = rdb x i s := ⟨rfl, rfl⟩

@[simp] theorem setLife_fields (f : Life → Life) (s : State) :
    (setLife f s).fuses = s.fuses ∧ (setLife f s).life = f s.life ∧ (setLife f s).regs = s.regs ∧
    (setLife f s).latches = s.latches ∧ (setLife f s).ruling = s.ruling ∧ (setLife f s).cal = s.cal ∧
    (setLife f s).rings = s.rings ∧ (setLife f s).xlat = s.xlat ∧ (setLife f s).host = s.host ∧ (setLife f s).sites = s.sites ∧
    (setLife f s).mem = s.mem ∧ (setLife f s).coh = s.coh ∧ (setLife f s).syr = s.syr ∧ (setLife f s).grv = s.grv ∧
    (setLife f s).ses = s.ses ∧ (setLife f s).attn = s.attn ∧ (setLife f s).cnt = s.cnt ∧ (setLife f s).mesh = s.mesh ∧
    (setLife f s).power = s.power ∧ (setLife f s).boot = s.boot ∧ (setLife f s).sec = s.sec ∧ (setLife f s).timers = s.timers ∧
    (setLife f s).out = s.out ∧ (setLife f s).log = s.log ∧ (setLife f s).freeCtr = s.freeCtr ∧
    (setLife f s).pending = s.pending :=
  ⟨rfl, rfl, rfl, rfl, rfl, rfl, rfl, rfl, rfl, rfl, rfl, rfl, rfl, rfl, rfl, rfl, rfl, rfl, rfl, rfl, rfl, rfl, rfl, rfl, rfl, rfl⟩

@[simp] theorem setCnt_fields (f : Cnt → Cnt) (s : State) :
    (setCnt f s).fuses = s.fuses ∧ (setCnt f s).life = s.life ∧ (setCnt f s).regs = s.regs ∧ (setCnt f s).latches = s.latches ∧
    (setCnt f s).ruling = s.ruling ∧ (setCnt f s).cal = s.cal ∧ (setCnt f s).rings = s.rings ∧ (setCnt f s).xlat = s.xlat ∧
    (setCnt f s).host = s.host ∧ (setCnt f s).sites = s.sites ∧ (setCnt f s).mem = s.mem ∧ (setCnt f s).coh = s.coh ∧
    (setCnt f s).syr = s.syr ∧ (setCnt f s).grv = s.grv ∧ (setCnt f s).ses = s.ses ∧ (setCnt f s).attn = s.attn ∧
    (setCnt f s).cnt = f s.cnt ∧ (setCnt f s).mesh = s.mesh ∧ (setCnt f s).power = s.power ∧ (setCnt f s).boot = s.boot ∧
    (setCnt f s).sec = s.sec ∧ (setCnt f s).timers = s.timers ∧ (setCnt f s).out = s.out ∧ (setCnt f s).log = s.log ∧
    (setCnt f s).freeCtr = s.freeCtr ∧ (setCnt f s).pending = s.pending :=
  ⟨rfl, rfl, rfl, rfl, rfl, rfl, rfl, rfl, rfl, rfl, rfl, rfl, rfl, rfl, rfl, rfl, rfl, rfl, rfl, rfl, rfl, rfl, rfl, rfl, rfl, rfl⟩

@[simp] theorem rd_setCnt (g : Cnt → Cnt) (x : Fld) (i : Nat) (s : State) :
    rd x i (setCnt g s) = rd x i s ∧ rdb x i (setCnt g s) = rdb x i s := ⟨rfl, rfl⟩

@[simp] theorem setSes_fields (f : Ses → Ses) (s : State) :
    (setSes f s).fuses = s.fuses ∧ (setSes f s).life = s.life ∧ (setSes f s).regs = s.regs ∧ (setSes f s).latches = s.latches ∧
    (setSes f s).ruling = s.ruling ∧ (setSes f s).cal = s.cal ∧ (setSes f s).rings = s.rings ∧ (setSes f s).xlat = s.xlat ∧
    (setSes f s).host = s.host ∧ (setSes f s).sites = s.sites ∧ (setSes f s).mem = s.mem ∧ (setSes f s).coh = s.coh ∧
    (setSes f s).syr = s.syr ∧ (setSes f s).grv = s.grv ∧ (setSes f s).ses = f s.ses ∧ (setSes f s).attn = s.attn ∧
    (setSes f s).cnt = s.cnt ∧ (setSes f s).mesh = s.mesh ∧ (setSes f s).power = s.power ∧ (setSes f s).boot = s.boot ∧
    (setSes f s).sec = s.sec ∧ (setSes f s).timers = s.timers ∧ (setSes f s).out = s.out ∧ (setSes f s).log = s.log ∧
    (setSes f s).freeCtr = s.freeCtr ∧ (setSes f s).pending = s.pending :=
  ⟨rfl, rfl, rfl, rfl, rfl, rfl, rfl, rfl, rfl, rfl, rfl, rfl, rfl, rfl, rfl, rfl, rfl, rfl, rfl, rfl, rfl, rfl, rfl, rfl, rfl, rfl⟩

@[simp] theorem rd_setSes (g : Ses → Ses) (x : Fld) (i : Nat) (s : State) :
    rd x i (setSes g s) = rd x i s ∧ rdb x i (setSes g s) = rdb x i s := ⟨rfl, rfl⟩

@[simp] theorem setSyr_fields (f : Syr → Syr) (s : State) :
    (setSyr f s).fuses = s.fuses ∧ (setSyr f s).life = s.life ∧ (setSyr f s).regs = s.regs ∧ (setSyr f s).latches = s.latches ∧
    (setSyr f s).ruling = s.ruling ∧ (setSyr f s).cal = s.cal ∧ (setSyr f s).rings = s.rings ∧ (setSyr f s).xlat = s.xlat ∧
    (setSyr f s).host = s.host ∧ (setSyr f s).sites = s.sites ∧ (setSyr f s).mem = s.mem ∧ (setSyr f s).coh = s.coh ∧
    (setSyr f s).syr = f s.syr ∧ (setSyr f s).grv = s.grv ∧ (setSyr f s).ses = s.ses ∧ (setSyr f s).attn = s.attn ∧
    (setSyr f s).cnt = s.cnt ∧ (setSyr f s).mesh = s.mesh ∧ (setSyr f s).power = s.power ∧ (setSyr f s).boot = s.boot ∧
    (setSyr f s).sec = s.sec ∧ (setSyr f s).timers = s.timers ∧ (setSyr f s).out = s.out ∧ (setSyr f s).log = s.log ∧
    (setSyr f s).freeCtr = s.freeCtr ∧ (setSyr f s).pending = s.pending :=
  ⟨rfl, rfl, rfl, rfl, rfl, rfl, rfl, rfl, rfl, rfl, rfl, rfl, rfl, rfl, rfl, rfl, rfl, rfl, rfl, rfl, rfl, rfl, rfl, rfl, rfl, rfl⟩

@[simp] theorem rd_setSyr (g : Syr → Syr) (x : Fld) (i : Nat) (s : State) :
    rd x i (setSyr g s) = rd x i s ∧ rdb x i (setSyr g s) = rdb x i s := ⟨rfl, rfl⟩

@[simp] theorem setXlat_fields (f : Xlat → Xlat) (s : State) :
    (setXlat f s).fuses = s.fuses ∧ (setXlat f s).life = s.life ∧ (setXlat f s).regs = s.regs ∧
    (setXlat f s).latches = s.latches ∧ (setXlat f s).ruling = s.ruling ∧ (setXlat f s).cal = s.cal ∧
    (setXlat f s).rings = s.rings ∧ (setXlat f s).xlat = f s.xlat ∧ (setXlat f s).host = s.host ∧
    (setXlat f s).sites = s.sites ∧ (setXlat f s).mem = s.mem ∧ (setXlat f s).coh = s.coh ∧ (setXlat f s).syr = s.syr ∧
    (setXlat f s).grv = s.grv ∧ (setXlat f s).ses = s.ses ∧ (setXlat f s).attn = s.attn ∧ (setXlat f s).cnt = s.cnt ∧
    (setXlat f s).mesh = s.mesh ∧ (setXlat f s).power = s.power ∧ (setXlat f s).boot = s.boot ∧ (setXlat f s).sec = s.sec ∧
    (setXlat f s).timers = s.timers ∧ (setXlat f s).out = s.out ∧ (setXlat f s).log = s.log ∧
    (setXlat f s).freeCtr = s.freeCtr ∧ (setXlat f s).pending = s.pending :=
  ⟨rfl, rfl, rfl, rfl, rfl, rfl, rfl, rfl, rfl, rfl, rfl, rfl, rfl, rfl, rfl, rfl, rfl, rfl, rfl, rfl, rfl, rfl, rfl, rfl, rfl, rfl⟩

@[simp] theorem rd_setXlat (g : Xlat → Xlat) (x : Fld) (i : Nat) (s : State) :
    rd x i (setXlat g s) = rd x i s ∧ rdb x i (setXlat g s) = rdb x i s := ⟨rfl, rfl⟩

@[simp] theorem setAttn_fields (f : List ABatch → List ABatch) (s : State) :
    (setAttn f s).fuses = s.fuses ∧ (setAttn f s).life = s.life ∧ (setAttn f s).regs = s.regs ∧
    (setAttn f s).latches = s.latches ∧ (setAttn f s).ruling = s.ruling ∧ (setAttn f s).cal = s.cal ∧
    (setAttn f s).rings = s.rings ∧ (setAttn f s).xlat = s.xlat ∧ (setAttn f s).host = s.host ∧ (setAttn f s).sites = s.sites ∧
    (setAttn f s).mem = s.mem ∧ (setAttn f s).coh = s.coh ∧ (setAttn f s).syr = s.syr ∧ (setAttn f s).grv = s.grv ∧
    (setAttn f s).ses = s.ses ∧ (setAttn f s).attn = { s.attn with batches := f s.attn.batches } ∧ (setAttn f s).cnt = s.cnt ∧
    (setAttn f s).mesh = s.mesh ∧ (setAttn f s).power = s.power ∧ (setAttn f s).boot = s.boot ∧ (setAttn f s).sec = s.sec ∧
    (setAttn f s).timers = s.timers ∧ (setAttn f s).out = s.out ∧ (setAttn f s).log = s.log ∧
    (setAttn f s).freeCtr = s.freeCtr ∧ (setAttn f s).pending = s.pending :=
  ⟨rfl, rfl, rfl, rfl, rfl, rfl, rfl, rfl, rfl, rfl, rfl, rfl, rfl, rfl, rfl, rfl, rfl, rfl, rfl, rfl, rfl, rfl, rfl, rfl, rfl, rfl⟩

@[simp] theorem rd_setAttn (g : List ABatch → List ABatch) (x : Fld) (i : Nat) (s : State) :
    rd x i (setAttn g s) = rd x i s ∧ rdb x i (setAttn g s) = rdb x i s := ⟨rfl, rfl⟩

@[simp] theorem setSite_fields (j : Nat) (f : Site → Site) (s : State) :
    (setSite j f s).fuses = s.fuses ∧ (setSite j f s).life = s.life ∧ (setSite j f s).regs = s.regs ∧
    (setSite j f s).latches = s.latches ∧ (setSite j f s).ruling = s.ruling ∧ (setSite j f s).cal = s.cal ∧
    (setSite j f s).rings = s.rings ∧ (setSite j f s).xlat = s.xlat ∧ (setSite j f s).host = s.host ∧
    (setSite j f s).sites = modD {} j f s.sites ∧ (setSite j f s).mem = s.mem ∧ (setSite j f s).coh = s.coh ∧
    (setSite j f s).syr = s.syr ∧ (setSite j f s).grv = s.grv ∧ (setSite j f s).ses = s.ses ∧ (setSite j f s).attn = s.attn ∧
    (setSite j f s).cnt = s.cnt ∧ (setSite j f s).mesh = s.mesh ∧ (setSite j f s).power = s.power ∧
    (setSite j f s).boot = s.boot ∧ (setSite j f s).sec = s.sec ∧ (setSite j f s).timers = s.timers ∧
    (setSite j f s).out = s.out ∧ (setSite j f s).log = s.log ∧ (setSite j f s).freeCtr = s.freeCtr ∧
    (setSite j f s).pending = s.pending :=
  ⟨rfl, rfl, rfl, rfl, rfl, rfl, rfl, rfl, rfl, rfl, rfl, rfl, rfl, rfl, rfl, rfl, rfl, rfl, rfl, rfl, rfl, rfl, rfl, rfl, rfl, rfl⟩

@[simp] theorem rd_setSite (j : Nat) (g : Site → Site) (x : Fld) (i : Nat) (s : State) :
    rd x i (setSite j g s) = rd x i s ∧ rdb x i (setSite j g s) = rdb x i s := ⟨rfl, rfl⟩

@[simp] theorem setGrv_fields (t : Nat) (f : Grv → Grv) (s : State) :
    (setGrv t f s).fuses = s.fuses ∧ (setGrv t f s).life = s.life ∧ (setGrv t f s).regs = s.regs ∧
    (setGrv t f s).latches = s.latches ∧ (setGrv t f s).ruling = s.ruling ∧ (setGrv t f s).cal = s.cal ∧
    (setGrv t f s).rings = s.rings ∧ (setGrv t f s).xlat = s.xlat ∧ (setGrv t f s).host = s.host ∧
    (setGrv t f s).sites = s.sites ∧ (setGrv t f s).mem = s.mem ∧ (setGrv t f s).coh = s.coh ∧ (setGrv t f s).syr = s.syr ∧
    (setGrv t f s).grv = modD {} t f s.grv ∧ (setGrv t f s).ses = s.ses ∧ (setGrv t f s).attn = s.attn ∧
    (setGrv t f s).cnt = s.cnt ∧ (setGrv t f s).mesh = s.mesh ∧ (setGrv t f s).power = s.power ∧ (setGrv t f s).boot = s.boot ∧
    (setGrv t f s).sec = s.sec ∧ (setGrv t f s).timers = s.timers ∧ (setGrv t f s).out = s.out ∧ (setGrv t f s).log = s.log ∧
    (setGrv t f s).freeCtr = s.freeCtr ∧ (setGrv t f s).pending = s.pending :=
  ⟨rfl, rfl, rfl, rfl, rfl, rfl, rfl, rfl, rfl, rfl, rfl, rfl, rfl, rfl, rfl, rfl, rfl, rfl, rfl, rfl, rfl, rfl, rfl, rfl, rfl, rfl⟩

@[simp] theorem rd_setGrv (t : Nat) (g : Grv → Grv) (x : Fld) (i : Nat) (s : State) :
    rd x i (setGrv t g s) = rd x i s ∧ rdb x i (setGrv t g s) = rdb x i s := ⟨rfl, rfl⟩

@[simp] theorem setFnCfg_fields (n : Nat) (f : FnCfg → FnCfg) (s : State) :
    (setFnCfg n f s).fuses = s.fuses ∧ (setFnCfg n f s).life = s.life ∧ (setFnCfg n f s).regs = s.regs ∧
    (setFnCfg n f s).latches = s.latches ∧ (setFnCfg n f s).ruling = s.ruling ∧ (setFnCfg n f s).cal = s.cal ∧
    (setFnCfg n f s).rings = s.rings ∧ (setFnCfg n f s).xlat = s.xlat ∧
    (setFnCfg n f s).host = { s.host with fns := modD {} n f s.host.fns } ∧ (setFnCfg n f s).sites = s.sites ∧
    (setFnCfg n f s).mem = s.mem ∧ (setFnCfg n f s).coh = s.coh ∧ (setFnCfg n f s).syr = s.syr ∧ (setFnCfg n f s).grv = s.grv ∧
    (setFnCfg n f s).ses = s.ses ∧ (setFnCfg n f s).attn = s.attn ∧ (setFnCfg n f s).cnt = s.cnt ∧
    (setFnCfg n f s).mesh = s.mesh ∧ (setFnCfg n f s).power = s.power ∧ (setFnCfg n f s).boot = s.boot ∧
    (setFnCfg n f s).sec = s.sec ∧ (setFnCfg n f s).timers = s.timers ∧ (setFnCfg n f s).out = s.out ∧
    (setFnCfg n f s).log = s.log ∧ (setFnCfg n f s).freeCtr = s.freeCtr ∧ (setFnCfg n f s).pending = s.pending :=
  ⟨rfl, rfl, rfl, rfl, rfl, rfl, rfl, rfl, rfl, rfl, rfl, rfl, rfl, rfl, rfl, rfl, rfl, rfl, rfl, rfl, rfl, rfl, rfl, rfl, rfl, rfl⟩

@[simp] theorem rd_setFnCfg (m : Nat) (g : FnCfg → FnCfg) (x : Fld) (i : Nat) (s : State) :
    rd x i (setFnCfg m g s) = rd x i s ∧ rdb x i (setFnCfg m g s) = rdb x i s := ⟨rfl, rfl⟩

@[simp] theorem setDs_fields (p : Nat) (f : DsPort → DsPort) (s : State) :
    (setDs p f s).fuses = s.fuses ∧ (setDs p f s).life = s.life ∧ (setDs p f s).regs = s.regs ∧
    (setDs p f s).latches = s.latches ∧ (setDs p f s).ruling = s.ruling ∧ (setDs p f s).cal = s.cal ∧
    (setDs p f s).rings = s.rings ∧ (setDs p f s).xlat = s.xlat ∧
    (setDs p f s).host = { s.host with ds := modD {} p f s.host.ds } ∧ (setDs p f s).sites = s.sites ∧
    (setDs p f s).mem = s.mem ∧ (setDs p f s).coh = s.coh ∧ (setDs p f s).syr = s.syr ∧ (setDs p f s).grv = s.grv ∧
    (setDs p f s).ses = s.ses ∧ (setDs p f s).attn = s.attn ∧ (setDs p f s).cnt = s.cnt ∧ (setDs p f s).mesh = s.mesh ∧
    (setDs p f s).power = s.power ∧ (setDs p f s).boot = s.boot ∧ (setDs p f s).sec = s.sec ∧ (setDs p f s).timers = s.timers ∧
    (setDs p f s).out = s.out ∧ (setDs p f s).log = s.log ∧ (setDs p f s).freeCtr = s.freeCtr ∧
    (setDs p f s).pending = s.pending :=
  ⟨rfl, rfl, rfl, rfl, rfl, rfl, rfl, rfl, rfl, rfl, rfl, rfl, rfl, rfl, rfl, rfl, rfl, rfl, rfl, rfl, rfl, rfl, rfl, rfl, rfl, rfl⟩

@[simp] theorem rd_setDs (p : Nat) (g : DsPort → DsPort) (x : Fld) (i : Nat) (s : State) :
    rd x i (setDs p g s) = rd x i s ∧ rdb x i (setDs p g s) = rdb x i s := ⟨rfl, rfl⟩

@[simp] theorem setRt_fields (k : Nat) (f : RingRt → RingRt) (s : State) :
    (setRt k f s).fuses = s.fuses ∧ (setRt k f s).life = s.life ∧ (setRt k f s).regs = s.regs ∧
    (setRt k f s).latches = s.latches ∧ (setRt k f s).ruling = s.ruling ∧ (setRt k f s).cal = s.cal ∧
    (setRt k f s).rings = { s.rings with rt := modD {} k f s.rings.rt } ∧ (setRt k f s).xlat = s.xlat ∧
    (setRt k f s).host = s.host ∧ (setRt k f s).sites = s.sites ∧ (setRt k f s).mem = s.mem ∧ (setRt k f s).coh = s.coh ∧
    (setRt k f s).syr = s.syr ∧ (setRt k f s).grv = s.grv ∧ (setRt k f s).ses = s.ses ∧ (setRt k f s).attn = s.attn ∧
    (setRt k f s).cnt = s.cnt ∧ (setRt k f s).mesh = s.mesh ∧ (setRt k f s).power = s.power ∧ (setRt k f s).boot = s.boot ∧
    (setRt k f s).sec = s.sec ∧ (setRt k f s).timers = s.timers ∧ (setRt k f s).out = s.out ∧ (setRt k f s).log = s.log ∧
    (setRt k f s).freeCtr = s.freeCtr ∧ (setRt k f s).pending = s.pending :=
  ⟨rfl, rfl, rfl, rfl, rfl, rfl, rfl, rfl, rfl, rfl, rfl, rfl, rfl, rfl, rfl, rfl, rfl, rfl, rfl, rfl, rfl, rfl, rfl, rfl, rfl, rfl⟩

@[simp] theorem rd_setRt (k : Nat) (g : RingRt → RingRt) (x : Fld) (i : Nat) (s : State) :
    rd x i (setRt k g s) = rd x i s ∧ rdb x i (setRt k g s) = rdb x i s := ⟨rfl, rfl⟩

@[simp] theorem reportAer_fields (n c : Nat) (s : State) :
    (reportAer n c s).fuses = s.fuses ∧ (reportAer n c s).life = s.life ∧ (reportAer n c s).regs = s.regs ∧
    (reportAer n c s).latches = s.latches ∧ (reportAer n c s).ruling = s.ruling ∧ (reportAer n c s).cal = s.cal ∧
    (reportAer n c s).rings = s.rings ∧ (reportAer n c s).xlat = s.xlat ∧
    (reportAer n c s).host = { s.host with aer := s.host.aer ++ [(n, c)] } ∧ (reportAer n c s).sites = s.sites ∧
    (reportAer n c s).mem = s.mem ∧ (reportAer n c s).coh = s.coh ∧ (reportAer n c s).syr = s.syr ∧
    (reportAer n c s).grv = s.grv ∧ (reportAer n c s).ses = s.ses ∧ (reportAer n c s).attn = s.attn ∧
    (reportAer n c s).cnt = s.cnt ∧ (reportAer n c s).mesh = s.mesh ∧ (reportAer n c s).power = s.power ∧
    (reportAer n c s).boot = s.boot ∧ (reportAer n c s).sec = s.sec ∧ (reportAer n c s).timers = s.timers ∧
    (reportAer n c s).out = s.out ∧ (reportAer n c s).log = s.log ∧ (reportAer n c s).freeCtr = s.freeCtr ∧
    (reportAer n c s).pending = s.pending :=
  ⟨rfl, rfl, rfl, rfl, rfl, rfl, rfl, rfl, rfl, rfl, rfl, rfl, rfl, rfl, rfl, rfl, rfl, rfl, rfl, rfl, rfl, rfl, rfl, rfl, rfl, rfl⟩

@[simp] theorem rd_reportAer (m c : Nat) (x : Fld) (i : Nat) (s : State) :
    rd x i (reportAer m c s) = rd x i s ∧ rdb x i (reportAer m c s) = rdb x i s := ⟨rfl, rfl⟩

@[simp] theorem emit_fields (o : Out) (s : State) :
    (emit o s).fuses = s.fuses ∧ (emit o s).life = s.life ∧ (emit o s).regs = s.regs ∧ (emit o s).latches = s.latches ∧
    (emit o s).ruling = s.ruling ∧ (emit o s).cal = s.cal ∧ (emit o s).rings = s.rings ∧ (emit o s).xlat = s.xlat ∧
    (emit o s).host = s.host ∧ (emit o s).sites = s.sites ∧ (emit o s).mem = s.mem ∧ (emit o s).coh = s.coh ∧
    (emit o s).syr = s.syr ∧ (emit o s).grv = s.grv ∧ (emit o s).ses = s.ses ∧ (emit o s).attn = s.attn ∧
    (emit o s).cnt = s.cnt ∧ (emit o s).mesh = s.mesh ∧ (emit o s).power = s.power ∧ (emit o s).boot = s.boot ∧
    (emit o s).sec = s.sec ∧ (emit o s).timers = s.timers ∧ (emit o s).out = s.out ++ [o] ∧ (emit o s).log = s.log ∧
    (emit o s).freeCtr = s.freeCtr ∧ (emit o s).pending = s.pending :=
  ⟨rfl, rfl, rfl, rfl, rfl, rfl, rfl, rfl, rfl, rfl, rfl, rfl, rfl, rfl, rfl, rfl, rfl, rfl, rfl, rfl, rfl, rfl, rfl, rfl, rfl, rfl⟩

@[simp] theorem rd_emit (o : Out) (x : Fld) (i : Nat) (s : State) :
    rd x i (emit o s) = rd x i s ∧ rdb x i (emit o s) = rdb x i s := ⟨rfl, rfl⟩

@[simp] theorem logRec_fields (k : LogKind) (l : List Nat) (s : State) :
    (logRec k l s).fuses = s.fuses ∧ (logRec k l s).life = s.life ∧ (logRec k l s).regs = s.regs ∧
    (logRec k l s).latches = s.latches ∧ (logRec k l s).ruling = s.ruling ∧ (logRec k l s).cal = s.cal ∧
    (logRec k l s).rings = s.rings ∧ (logRec k l s).xlat = s.xlat ∧ (logRec k l s).host = s.host ∧
    (logRec k l s).sites = s.sites ∧ (logRec k l s).mem = s.mem ∧ (logRec k l s).coh = s.coh ∧ (logRec k l s).syr = s.syr ∧
    (logRec k l s).grv = s.grv ∧ (logRec k l s).ses = s.ses ∧ (logRec k l s).attn = s.attn ∧ (logRec k l s).cnt = s.cnt ∧
    (logRec k l s).mesh = s.mesh ∧ (logRec k l s).power = s.power ∧ (logRec k l s).boot = s.boot ∧ (logRec k l s).sec = s.sec ∧
    (logRec k l s).timers = s.timers ∧ (logRec k l s).out = s.out ∧ (logRec k l s).log = s.log ++ [⟨k, l⟩] ∧
    (logRec k l s).freeCtr = s.freeCtr ∧ (logRec k l s).pending = s.pending :=
  ⟨rfl, rfl, rfl, rfl, rfl, rfl, rfl, rfl, rfl, rfl, rfl, rfl, rfl, rfl, rfl, rfl, rfl, rfl, rfl, rfl, rfl, rfl, rfl, rfl, rfl, rfl⟩

@[simp] theorem rd_logRec (k : LogKind) (l : List Nat) (x : Fld) (i : Nat) (s : State) :
    rd x i (logRec k l s) = rd x i s ∧ rdb x i (logRec k l s) = rdb x i s := ⟨rfl, rfl⟩

@[simp] theorem drew_fields (s : State) :
    (drew s).fuses = s.fuses ∧ (drew s).life = s.life ∧ (drew s).regs = s.regs ∧ (drew s).latches = s.latches ∧
    (drew s).ruling = s.ruling ∧ (drew s).cal = s.cal ∧ (drew s).rings = s.rings ∧ (drew s).xlat = s.xlat ∧
    (drew s).host = s.host ∧ (drew s).sites = s.sites ∧ (drew s).mem = s.mem ∧ (drew s).coh = s.coh ∧ (drew s).syr = s.syr ∧
    (drew s).grv = s.grv ∧ (drew s).ses = s.ses ∧ (drew s).attn = s.attn ∧ (drew s).cnt = s.cnt ∧ (drew s).mesh = s.mesh ∧
    (drew s).power = s.power ∧ (drew s).boot = s.boot ∧ (drew s).sec = s.sec ∧ (drew s).timers = s.timers ∧
    (drew s).out = s.out ∧ (drew s).log = s.log ∧ (drew s).freeCtr = s.freeCtr + 1 ∧ (drew s).pending = s.pending :=
  ⟨rfl, rfl, rfl, rfl, rfl, rfl, rfl, rfl, rfl, rfl, rfl, rfl, rfl, rfl, rfl, rfl, rfl, rfl, rfl, rfl, rfl, rfl, rfl, rfl, rfl, rfl⟩

@[simp] theorem rd_drew (x : Fld) (i : Nat) (s : State) :
    rd x i (drew s) = rd x i s ∧ rdb x i (drew s) = rdb x i s := ⟨rfl, rfl⟩

@[simp] theorem drewN_fields (n : Nat) (s : State) :
    (drewN n s).fuses = s.fuses ∧ (drewN n s).life = s.life ∧ (drewN n s).regs = s.regs ∧ (drewN n s).latches = s.latches ∧
    (drewN n s).ruling = s.ruling ∧ (drewN n s).cal = s.cal ∧ (drewN n s).rings = s.rings ∧ (drewN n s).xlat = s.xlat ∧
    (drewN n s).host = s.host ∧ (drewN n s).sites = s.sites ∧ (drewN n s).mem = s.mem ∧ (drewN n s).coh = s.coh ∧
    (drewN n s).syr = s.syr ∧ (drewN n s).grv = s.grv ∧ (drewN n s).ses = s.ses ∧ (drewN n s).attn = s.attn ∧
    (drewN n s).cnt = s.cnt ∧ (drewN n s).mesh = s.mesh ∧ (drewN n s).power = s.power ∧ (drewN n s).boot = s.boot ∧
    (drewN n s).sec = s.sec ∧ (drewN n s).timers = s.timers ∧ (drewN n s).out = s.out ∧ (drewN n s).log = s.log ∧
    (drewN n s).freeCtr = s.freeCtr + n ∧ (drewN n s).pending = s.pending :=
  ⟨rfl, rfl, rfl, rfl, rfl, rfl, rfl, rfl, rfl, rfl, rfl, rfl, rfl, rfl, rfl, rfl, rfl, rfl, rfl, rfl, rfl, rfl, rfl, rfl, rfl, rfl⟩

@[simp] theorem rd_drewN (m : Nat) (x : Fld) (i : Nat) (s : State) :
    rd x i (drewN m s) = rd x i s ∧ rdb x i (drewN m s) = rdb x i s := ⟨rfl, rfl⟩

@[simp] theorem wr_fields (f : Fld) (i v : Nat) (s : State) :
    (wr f i v s).fuses = s.fuses ∧ (wr f i v s).life = s.life ∧ (wr f i v s).latches = s.latches ∧
    (wr f i v s).ruling = s.ruling ∧ (wr f i v s).cal = s.cal ∧ (wr f i v s).rings = s.rings ∧ (wr f i v s).xlat = s.xlat ∧
    (wr f i v s).host = s.host ∧ (wr f i v s).sites = s.sites ∧ (wr f i v s).mem = s.mem ∧ (wr f i v s).coh = s.coh ∧
    (wr f i v s).syr = s.syr ∧ (wr f i v s).grv = s.grv ∧ (wr f i v s).ses = s.ses ∧ (wr f i v s).attn = s.attn ∧
    (wr f i v s).cnt = s.cnt ∧ (wr f i v s).mesh = s.mesh ∧ (wr f i v s).power = s.power ∧ (wr f i v s).boot = s.boot ∧
    (wr f i v s).sec = s.sec ∧ (wr f i v s).timers = s.timers ∧ (wr f i v s).out = s.out ∧ (wr f i v s).log = s.log ∧
    (wr f i v s).freeCtr = s.freeCtr ∧ (wr f i v s).pending = s.pending :=
  ⟨rfl, rfl, rfl, rfl, rfl, rfl, rfl, rfl, rfl, rfl, rfl, rfl, rfl, rfl, rfl, rfl, rfl, rfl, rfl, rfl, rfl, rfl, rfl, rfl, rfl⟩

@[simp] theorem rst_fields (f : Fld) (i : Nat) (s : State) :
    (rst f i s).fuses = s.fuses ∧ (rst f i s).life = s.life ∧ (rst f i s).latches = s.latches ∧ (rst f i s).ruling = s.ruling ∧
    (rst f i s).cal = s.cal ∧ (rst f i s).rings = s.rings ∧ (rst f i s).xlat = s.xlat ∧ (rst f i s).host = s.host ∧
    (rst f i s).sites = s.sites ∧ (rst f i s).mem = s.mem ∧ (rst f i s).coh = s.coh ∧ (rst f i s).syr = s.syr ∧
    (rst f i s).grv = s.grv ∧ (rst f i s).ses = s.ses ∧ (rst f i s).attn = s.attn ∧ (rst f i s).cnt = s.cnt ∧
    (rst f i s).mesh = s.mesh ∧ (rst f i s).power = s.power ∧ (rst f i s).boot = s.boot ∧ (rst f i s).sec = s.sec ∧
    (rst f i s).timers = s.timers ∧ (rst f i s).out = s.out ∧ (rst f i s).log = s.log ∧ (rst f i s).freeCtr = s.freeCtr ∧
    (rst f i s).pending = s.pending :=
  ⟨rfl, rfl, rfl, rfl, rfl, rfl, rfl, rfl, rfl, rfl, rfl, rfl, rfl, rfl, rfl, rfl, rfl, rfl, rfl, rfl, rfl, rfl, rfl, rfl, rfl⟩

@[simp] theorem resetWhere_fields (p : Fld → Nat → Bool) (s : State) :
    (resetWhere p s).fuses = s.fuses ∧ (resetWhere p s).life = s.life ∧ (resetWhere p s).latches = s.latches ∧
    (resetWhere p s).ruling = s.ruling ∧ (resetWhere p s).cal = s.cal ∧ (resetWhere p s).rings = s.rings ∧
    (resetWhere p s).xlat = s.xlat ∧ (resetWhere p s).host = s.host ∧ (resetWhere p s).sites = s.sites ∧
    (resetWhere p s).mem = s.mem ∧ (resetWhere p s).coh = s.coh ∧ (resetWhere p s).syr = s.syr ∧ (resetWhere p s).grv = s.grv ∧
    (resetWhere p s).ses = s.ses ∧ (resetWhere p s).attn = s.attn ∧ (resetWhere p s).cnt = s.cnt ∧
    (resetWhere p s).mesh = s.mesh ∧ (resetWhere p s).power = s.power ∧ (resetWhere p s).boot = s.boot ∧
    (resetWhere p s).sec = s.sec ∧ (resetWhere p s).timers = s.timers ∧ (resetWhere p s).out = s.out ∧
    (resetWhere p s).log = s.log ∧ (resetWhere p s).freeCtr = s.freeCtr ∧ (resetWhere p s).pending = s.pending :=
  ⟨rfl, rfl, rfl, rfl, rfl, rfl, rfl, rfl, rfl, rfl, rfl, rfl, rfl, rfl, rfl, rfl, rfl, rfl, rfl, rfl, rfl, rfl, rfl, rfl, rfl⟩

@[simp] theorem setB_fields (f : Fld) (i : Nat) (s : State) :
    (setB f i s).fuses = s.fuses ∧ (setB f i s).life = s.life ∧ (setB f i s).latches = s.latches ∧
    (setB f i s).ruling = s.ruling ∧ (setB f i s).cal = s.cal ∧ (setB f i s).rings = s.rings ∧ (setB f i s).xlat = s.xlat ∧
    (setB f i s).host = s.host ∧ (setB f i s).sites = s.sites ∧ (setB f i s).mem = s.mem ∧ (setB f i s).coh = s.coh ∧
    (setB f i s).syr = s.syr ∧ (setB f i s).grv = s.grv ∧ (setB f i s).ses = s.ses ∧ (setB f i s).attn = s.attn ∧
    (setB f i s).cnt = s.cnt ∧ (setB f i s).mesh = s.mesh ∧ (setB f i s).power = s.power ∧ (setB f i s).boot = s.boot ∧
    (setB f i s).sec = s.sec ∧ (setB f i s).timers = s.timers ∧ (setB f i s).out = s.out ∧ (setB f i s).log = s.log ∧
    (setB f i s).freeCtr = s.freeCtr ∧ (setB f i s).pending = s.pending :=
  ⟨rfl, rfl, rfl, rfl, rfl, rfl, rfl, rfl, rfl, rfl, rfl, rfl, rfl, rfl, rfl, rfl, rfl, rfl, rfl, rfl, rfl, rfl, rfl, rfl, rfl⟩

@[simp] theorem clrB_fields (f : Fld) (i : Nat) (s : State) :
    (clrB f i s).fuses = s.fuses ∧ (clrB f i s).life = s.life ∧ (clrB f i s).latches = s.latches ∧
    (clrB f i s).ruling = s.ruling ∧ (clrB f i s).cal = s.cal ∧ (clrB f i s).rings = s.rings ∧ (clrB f i s).xlat = s.xlat ∧
    (clrB f i s).host = s.host ∧ (clrB f i s).sites = s.sites ∧ (clrB f i s).mem = s.mem ∧ (clrB f i s).coh = s.coh ∧
    (clrB f i s).syr = s.syr ∧ (clrB f i s).grv = s.grv ∧ (clrB f i s).ses = s.ses ∧ (clrB f i s).attn = s.attn ∧
    (clrB f i s).cnt = s.cnt ∧ (clrB f i s).mesh = s.mesh ∧ (clrB f i s).power = s.power ∧ (clrB f i s).boot = s.boot ∧
    (clrB f i s).sec = s.sec ∧ (clrB f i s).timers = s.timers ∧ (clrB f i s).out = s.out ∧ (clrB f i s).log = s.log ∧
    (clrB f i s).freeCtr = s.freeCtr ∧ (clrB f i s).pending = s.pending :=
  ⟨rfl, rfl, rfl, rfl, rfl, rfl, rfl, rfl, rfl, rfl, rfl, rfl, rfl, rfl, rfl, rfl, rfl, rfl, rfl, rfl, rfl, rfl, rfl, rfl, rfl⟩

@[simp] theorem wrb_fields (f : Fld) (i : Nat) (b : Bool) (s : State) :
    (wrb f i b s).fuses = s.fuses ∧ (wrb f i b s).life = s.life ∧ (wrb f i b s).latches = s.latches ∧
    (wrb f i b s).ruling = s.ruling ∧ (wrb f i b s).cal = s.cal ∧ (wrb f i b s).rings = s.rings ∧ (wrb f i b s).xlat = s.xlat ∧
    (wrb f i b s).host = s.host ∧ (wrb f i b s).sites = s.sites ∧ (wrb f i b s).mem = s.mem ∧ (wrb f i b s).coh = s.coh ∧
    (wrb f i b s).syr = s.syr ∧ (wrb f i b s).grv = s.grv ∧ (wrb f i b s).ses = s.ses ∧ (wrb f i b s).attn = s.attn ∧
    (wrb f i b s).cnt = s.cnt ∧ (wrb f i b s).mesh = s.mesh ∧ (wrb f i b s).power = s.power ∧ (wrb f i b s).boot = s.boot ∧
    (wrb f i b s).sec = s.sec ∧ (wrb f i b s).timers = s.timers ∧ (wrb f i b s).out = s.out ∧ (wrb f i b s).log = s.log ∧
    (wrb f i b s).freeCtr = s.freeCtr ∧ (wrb f i b s).pending = s.pending :=
  ⟨rfl, rfl, rfl, rfl, rfl, rfl, rfl, rfl, rfl, rfl, rfl, rfl, rfl, rfl, rfl, rfl, rfl, rfl, rfl, rfl, rfl, rfl, rfl, rfl, rfl⟩

@[simp] theorem bump_fields (f : Fld) (i n : Nat) (s : State) :
    (bump f i n s).fuses = s.fuses ∧ (bump f i n s).life = s.life ∧ (bump f i n s).latches = s.latches ∧
    (bump f i n s).ruling = s.ruling ∧ (bump f i n s).cal = s.cal ∧ (bump f i n s).rings = s.rings ∧
    (bump f i n s).xlat = s.xlat ∧ (bump f i n s).host = s.host ∧ (bump f i n s).sites = s.sites ∧ (bump f i n s).mem = s.mem ∧
    (bump f i n s).coh = s.coh ∧ (bump f i n s).syr = s.syr ∧ (bump f i n s).grv = s.grv ∧ (bump f i n s).ses = s.ses ∧
    (bump f i n s).attn = s.attn ∧ (bump f i n s).cnt = s.cnt ∧ (bump f i n s).mesh = s.mesh ∧ (bump f i n s).power = s.power ∧
    (bump f i n s).boot = s.boot ∧ (bump f i n s).sec = s.sec ∧ (bump f i n s).timers = s.timers ∧ (bump f i n s).out = s.out ∧
    (bump f i n s).log = s.log ∧ (bump f i n s).freeCtr = s.freeCtr ∧ (bump f i n s).pending = s.pending :=
  ⟨rfl, rfl, rfl, rfl, rfl, rfl, rfl, rfl, rfl, rfl, rfl, rfl, rfl, rfl, rfl, rfl, rfl, rfl, rfl, rfl, rfl, rfl, rfl, rfl, rfl⟩

@[simp] theorem bumpSat_fields (f : Fld) (i n : Nat) (s : State) :
    (bumpSat f i n s).fuses = s.fuses ∧ (bumpSat f i n s).life = s.life ∧ (bumpSat f i n s).latches = s.latches ∧
    (bumpSat f i n s).ruling = s.ruling ∧ (bumpSat f i n s).cal = s.cal ∧ (bumpSat f i n s).rings = s.rings ∧
    (bumpSat f i n s).xlat = s.xlat ∧ (bumpSat f i n s).host = s.host ∧ (bumpSat f i n s).sites = s.sites ∧
    (bumpSat f i n s).mem = s.mem ∧ (bumpSat f i n s).coh = s.coh ∧ (bumpSat f i n s).syr = s.syr ∧
    (bumpSat f i n s).grv = s.grv ∧ (bumpSat f i n s).ses = s.ses ∧ (bumpSat f i n s).attn = s.attn ∧
    (bumpSat f i n s).cnt = s.cnt ∧ (bumpSat f i n s).mesh = s.mesh ∧ (bumpSat f i n s).power = s.power ∧
    (bumpSat f i n s).boot = s.boot ∧ (bumpSat f i n s).sec = s.sec ∧ (bumpSat f i n s).timers = s.timers ∧
    (bumpSat f i n s).out = s.out ∧ (bumpSat f i n s).log = s.log ∧ (bumpSat f i n s).freeCtr = s.freeCtr ∧
    (bumpSat f i n s).pending = s.pending :=
  ⟨rfl, rfl, rfl, rfl, rfl, rfl, rfl, rfl, rfl, rfl, rfl, rfl, rfl, rfl, rfl, rfl, rfl, rfl, rfl, rfl, rfl, rfl, rfl, rfl, rfl⟩

end Sys2Proof.Machine
end

