-- ==== Sys2Proof/Tests/Slice0.lean ====
section
/-! SUPPORT. Sys2Proof/Tests/Slice0.lean: ill-formed operands that the check refuses, small tests on the spec's worked
examples, and for every statement with hypotheses a witness that meets them, clause by clause. -/

set_option maxRecDepth 20000
set_option Elab.async false

namespace Sys2Proof.Tests

open Sys2Proof Sys2Proof.Machine

/-! ## Well-formed and ill-formed operands -/

/-- A well-formed term of each command, at small operands. -/
theorem test_wf_accepts_0 : ([.regWrite 0 0 4 0 false, .setupLockSet, .regLowHalfRead 0 0 4 0, .barAccessInvalid 0 none 0 0 0 false,
   .ruleCtlWrite 0 0 0 false, .ruleSegment 0 0, .exchangeSymbolTx 0, .delayRemeasure 0, .segmentApply, .ruleSyncMark,
   .parentSilenceTimeout, .lockLossTimeout, .ruleRefLoss, .holdRelease, .beaconSend, .calFire 0, .calGateTimeout 0,
   .calCtlWrite false, .arrivalWrite 0 0, .calLowPowerExit, .graverLoad 0 0, .graverLaunch 0 0, .launchStart 0,
   .graverNop 0, .fma 0, .add 0, .mul 0, .min 0, .max 0, .cmp 0, .sel 0, .cvt 0, .scale2 0, .ex2 0, .rcp 0, .mov 0,
   .mop 0, .pwait 0, .prel 0, .launchComplete 0] : List Instr).all (fun i => i.wf == true) = true := by decide +kernel

/-- A well-formed term of each command, at small operands. -/
theorem test_wf_accepts_1 : ([.launchTimeout 0, .panelLoadDone 0 0, .panelDrainDone 0 0, .kvPoolAdd 0 0, .sesCreate 0 0, .kvAppend 0 0,
   .sesFork 0 0, .sesPark 0 0, .sesRestore 0 0, .sesDelete 0 0, .sesQuery 0 0, .streamAdmit 0 0, .streamRetire 0 0,
   .dsDeviceCompletion 0 0 0 [], .attnBatch 0 0, .attnBatchStart, .attnItemComplete 0, .memRead 0 0 0 false 0,
   .memWrite 0 0 0 false 0, .patrolScrub 0 false, .mr4Poll 0 0 0 0, .chanRetrainDone 0 0 false, .moveFrameCopy 0 false,
   .keySlotWithdraw 0 false, .scRequest 0 0 0 false [] 0 0 0 none, .bucketMoveDone, .rdS 0 0, .rdX 0 0, .upg 0 0,
   .rdOnce 0 0, .wrP 0 0, .wb 0, .invAck 0, .snpData 0, .grantAck 0, .lineDequeue 0, .homeRead 0 0 0 0 0 0 0,
   .homeWrite 0 0 0 0 (List.replicate 64 0) 0 0 0, .homeAtomic 0 0 0 0 4 0 0 0 0 0, .cxlCacheMessage 0 0 0 0 [] 0 0] : List Instr).all (fun i => i.wf == true) = true := by decide +kernel

/-- A well-formed term of each command, at small operands. -/
theorem test_wf_accepts_2 : ([.arrive 0, .pwrReq 0, .mgmtAck 0, .chipEvent 0, .mmioData 0, .zcpCmp 0, .siteRetrainDone 0 0, .siteFence 0,
   .siteReset 0, .siteQuiesceTimeout 0, .siteReady 0, .cxlIoWrite 0 0 0 0 false [], .meshPacketDeliver 0 0 0 0 0,
   .routerGate 0, .initiatorTimeout 0 0 0, .tombstoneExpire 0 0 0, .lateCompletionDrop 0 0 0, .heldNotice 0 0,
   .resumedNotice 0 0, .targetAbandon 0 0, .tmoWrite 0 0, .staticBoundary, .quotaRelease 0, .portSignalLoss 0,
   .portTrainDone 0 0 0 false 0 false 0, .creditCell 0, .authCell 0, .syrelPacketForward 0,
   .fabricWindowRequest 0 0 0 0 0 0 [] 0, .rread, .rwrite, .ratomic, .rdata, .rcmp, .mirror, .mirAck, .redUp, .redDown,
   .mcast, .collTimeout 0] : List Instr).all (fun i => i.wf == true) = true := by decide +kernel

/-- A well-formed term of each command, at small operands. -/
theorem test_wf_accepts_3 : ([.syrHoldExpire 0, .hubAliveRelease false, .join 0, .syrFence, .mirrorLagExpire 0, .twinLost, .cpPromote 0 0,
   .wakePattern 0, .devctl2Write 0, .bar2Access 0 4 false 0 0 false, .bar4SiteWindowAccess 0 0 false [] 0 false false,
   .apertureAccess 0 0 false [] 0 false, .atomicop false 0 0 4 0 0 0, .watchSnoop 0 0,
   .watchReadData 0 (.data (List.replicate 64 0)), .cxlMemRequest 0 false [] 0, .hostHdmWrite 0 0, .warmReset false,
   .flrInitiate 0, .flrComplete 0, .dsPresenceChange 0 false, .powerOn 0, .dsPerstRelease 0, .dsButton 0,
   .dsButtonTimeout 0, .remove 0, .dsShutdownTimeout 0, .clear 0, .dsPowerFault 0, .dsLinkDown 0,
   .doorbellPoll 0 (.data (List.replicate 64 0)), .descriptorFetched 0 0 (.data (List.replicate 64 0)),
   .descriptorStart 0 0, .nopDesc 0 0, .copy 0 0 0, .atomic 0 0, .collSetup 0 0, .invalidate 0 0,
   .headLineRead 0 (.data (List.replicate 64 0)), .queuedRecordWrite 0] : List Instr).all (fun i => i.wf == true) = true := by decide +kernel

/-- A well-formed term of each command, at small operands. -/
theorem test_wf_accepts_4 : ([.irqModTimeout 0, .ringEnable 0, .ringDisable 0, .ringStopped 0, .ringIdxWrite 0 none none,
   .atsCompletion 0 0 0 12 0 false false, .priGatherExpire 0 0, .pageGroupResponse 0 0 0, .prgTimeout 0 0,
   .atsInvalidate 0 none 0 none 0, .invalComplete 0, .invalDrainAbandon 0, .extentAssign, .extentRelease, .partAssign,
   .partRelease, .funcBind, .confEnter, .confEnterTimeout, .portRekey, .zeroize, .burnishDone,
   .lockInterfaceRequest 0 0, .stopInterfaceRequest 0 0, .fipsErrorEnter, .lcTokenLoad none, .lcTransition none,
   .lcChallenge none, .debugGrant none, .debugRevoke none, .lcSelectCompat none, .cfgRead, .cfgWrite, .imageLoad,
   .softReset, .partialReset, .rtpReset, .tileOut 0 0, .tileLaunchGraceTimeout, .tileIn 0 0 false] : List Instr).all (fun i => i.wf == true) = true := by decide +kernel

/-- A well-formed term of each command, at small operands. -/
theorem test_wf_accepts_5 : ([.memsiteOut 0 0, .memsiteIn 0 0 0, .chanRetrain 0 0, .portRetrain 0 0, .fwStage 0 0, .fwBroadcast 0 0, .fwStatus 0 0,
   .fwChunkTimeout 1, .enter 0 0, .exit 0 0, .setCap 0 0, .group 0 0, .powerAtReached 0 0, .wakeEvent 0 0,
   .powerExitWake 0, .h1IdleExpire, .avsAck 0 0, .avsRetryTimeout 0, .avsAckTimeout 0, .droopDetect 0, .droopClear 0,
   .supplyDipStart 0, .supplyDipEnd, .powerPeriod, .throttleEpoch, .powerGroupReport, .powerGroupDecide,
   .powerGroupApply, .energyTick, .thermalSample 0, .prochotAssert, .prochotDeassert, .counterOverflow,
   .snapshotWritten, .hostCompletion 0 0 [], .driftTrackingLimit 0 0 false, .codewordCountRekey 0,
   .cxlSiteResponse 0 0 (.data (List.replicate 64 0)), .barAccessInvalid 0 (some 4) 0 0 0 false,
   .exchangeSymbolRx 0 ({ state := 0, depth := 0, exseq := 0, txT := 0, echo := none, seg := {}, pend := (some {}) })] : List Instr).all (fun i => i.wf == true) = true := by decide +kernel

/-- A well-formed term of each command, at small operands. -/
theorem test_wf_accepts_6 : ([
   .ruleSyncFrame { preamble := 0, refAtMark := 0, segStartRef := 0, segStartPos := 0, segRate := 0, segSeqKind := 0, crc := 0 },
   .calArm (.desc 0 0), .calArm (.herva [0] 0), .sesMirror 0 0 (some (.ok, 0)),
   .zcpFlitRx 7 7 5 0 (List.replicate 14 0), .moduleDown 7 7 [65535], .siteResetRelease 0 { mods := 15 },
   .mgmt (.createReplica 0 0 []), .configRequest 0 .ids (some 0) 0, .hotReset (some { rate := 6 }),
   .spdmRequest (.challenge 7), .coldReset (some {}), .bringupComplete {},
   .pmbusPoll [0, 0, 0, 0, 0, 0] [0, 0, 0, 0, 0, 0], .dsPortReady 0 { rate := 5 }, .codewordRx 0 0 0 0 false []] : List Instr).all (fun i => i.wf == true) = true := by decide +kernel

/-- Terms with one operand out of its range, each refused. -/
theorem test_wf_refuses_0 : ([.regWrite 0 0 5 0 false, .regWrite (64) 0 4 0 false, .regWrite 0 (2 ^ 28) 4 0 false, .regWrite 0 0 4 (2 ^ 64) false,
   .regLowHalfRead 0 0 5 0, .regLowHalfRead (64) 0 4 0, .regLowHalfRead 0 (2 ^ 28) 4 0,
   .barAccessInvalid (64) none 0 0 0 false, .ruleCtlWrite (4) 0 0 false, .ruleCtlWrite 0 (32) 0 false,
   .ruleCtlWrite 0 0 (32) false, .ruleSegment 8192 0, .ruleSegment 0 (2 ^ 32), .exchangeSymbolTx (20),
   .delayRemeasure (20), .calFire (8192), .calGateTimeout (8192), .arrivalWrite (1024) 0, .arrivalWrite 0 (2 ^ 32),
   .graverLoad 8192 0, .graverLoad 0 (2 ^ 32), .graverLaunch 8192 0, .graverLaunch 0 (2 ^ 32), .launchStart (64),
   .graverNop (64), .fma (64), .add (64), .mul (64), .min (64), .max (64), .cmp (64), .sel (64), .cvt (64),
   .scale2 (64), .ex2 (64), .rcp (64), .mov (64), .mop (64), .pwait (64), .prel (64)] : List Instr).all (fun i => i.wf == false) = true := by decide +kernel

/-- Terms with one operand out of its range, each refused. -/
theorem test_wf_refuses_1 : ([.launchComplete (64), .launchTimeout (64), .panelLoadDone (64) 0, .panelLoadDone 0 (4), .panelDrainDone (64) 0,
   .panelDrainDone 0 (4), .kvPoolAdd 8192 0, .kvPoolAdd 0 (2 ^ 32), .sesCreate 8192 0, .sesCreate 0 (2 ^ 32),
   .kvAppend 8192 0, .kvAppend 0 (2 ^ 32), .sesFork 8192 0, .sesFork 0 (2 ^ 32), .sesPark 8192 0, .sesPark 0 (2 ^ 32),
   .sesRestore 8192 0, .sesRestore 0 (2 ^ 32), .sesDelete 8192 0, .sesDelete 0 (2 ^ 32), .sesQuery 8192 0,
   .sesQuery 0 (2 ^ 32), .streamAdmit 8192 0, .streamAdmit 0 (2 ^ 32), .streamRetire 8192 0, .streamRetire 0 (2 ^ 32),
   .dsDeviceCompletion (4) 0 0 [], .attnBatch 8192 0, .attnBatch 0 (2 ^ 32), .attnItemComplete (64),
   .memRead (20) 0 0 false 0, .memRead 0 (8) 0 false 0, .memRead 0 0 0 false (32), .memWrite (20) 0 0 false 0,
   .memWrite 0 (8) 0 false 0, .memWrite 0 0 0 false (32), .mr4Poll (20) 0 0 0, .mr4Poll 0 (8) 0 0, .mr4Poll 0 0 (32) 0,
   .mr4Poll 0 0 0 (5)] : List Instr).all (fun i => i.wf == false) = true := by decide +kernel

/-- Terms with one operand out of its range, each refused. -/
theorem test_wf_refuses_2 : ([.chanRetrainDone (20) 0 false, .chanRetrainDone 0 (8) false, .keySlotWithdraw (85) false,
   .scRequest 0 0 0 false [0] 0 0 0 none, .scRequest (128) 0 0 false [] 0 0 0 none,
   .scRequest 0 (64) 0 false [] 0 0 0 none, .scRequest 0 0 (2 ^ 38) false [] 0 0 0 none,
   .scRequest 0 0 0 false [] (2 ^ 64) 0 0 none, .scRequest 0 0 0 false [] 0 (3) 0 none,
   .scRequest 0 0 0 false [] 0 0 (4) none, .rdS (8) 0, .rdX (8) 0, .upg (8) 0, .rdOnce (8) 0, .wrP (8) 0, .wb (8),
   .invAck (8), .snpData (8), .grantAck (8), .lineDequeue (2 ^ 38), .homeRead (128) 0 0 0 0 0 0,
   .homeRead 0 0 (64) 0 0 0 0, .homeRead 0 0 0 0 0 (4) 0, .homeRead 0 0 0 0 (64 + 1) 0 0,
   .homeWrite (128) 0 0 0 (List.replicate 64 0) 0 0 0, .homeWrite 0 0 (64) 0 (List.replicate 64 0) 0 0 0,
   .homeWrite 0 0 0 (2 ^ 38) (List.replicate 64 0) 0 0 0, .homeWrite 0 0 0 0 (List.replicate 64 0) (2 ^ 64) 0 0,
   .homeWrite 0 0 0 0 (List.replicate 64 0) 0 (4) 0, .homeWrite 0 0 0 0 [0] 0 0 0, .homeAtomic (128) 0 0 0 4 0 0 0 0 0,
   .homeAtomic 0 0 (64) 0 4 0 0 0 0 0, .homeAtomic 0 0 0 0 4 (3) 0 0 0 0, .homeAtomic 0 0 0 0 4 0 (2 ^ 32) 0 0 0,
   .homeAtomic 0 0 0 0 4 0 0 (2 ^ 32) 0 0, .homeAtomic 0 0 0 0 4 0 0 0 (4) 0, .homeAtomic 0 0 0 0 7 0 0 0 0 0,
   .cxlCacheMessage 0 0 0 0 [0] 0 0, .cxlCacheMessage (8) 0 0 0 [] 0 0, .cxlCacheMessage 0 0 0 (2 ^ 38) [] 0 0] : List Instr).all (fun i => i.wf == false) = true := by decide +kernel

/-- Terms with one operand out of its range, each refused. -/
theorem test_wf_refuses_3 : ([.cxlCacheMessage 0 0 0 0 [] (2 ^ 64) 0, .arrive (8), .pwrReq (8), .mgmtAck (8), .chipEvent (8), .mmioData (8),
   .zcpCmp (8), .siteRetrainDone (8) 0, .siteRetrainDone 0 (256), .siteFence (8), .siteReset (8),
   .siteQuiesceTimeout (8), .siteReady (8), .cxlIoWrite (8) 0 0 0 false [], .meshPacketDeliver (4) 0 0 0 0,
   .meshPacketDeliver 0 (2) 0 0 0, .meshPacketDeliver 0 0 (128) 0 0, .meshPacketDeliver 0 0 0 (128) 0,
   .meshPacketDeliver 0 0 0 0 (4), .routerGate (72), .initiatorTimeout (4) 0 0, .initiatorTimeout 0 (128) 0,
   .initiatorTimeout 0 0 (2 ^ 16), .tombstoneExpire (4) 0 0, .tombstoneExpire 0 (128) 0, .tombstoneExpire 0 0 (2 ^ 16),
   .lateCompletionDrop (4) 0 0, .lateCompletionDrop 0 (128) 0, .lateCompletionDrop 0 0 (2 ^ 16), .heldNotice (128) 0,
   .resumedNotice (128) 0, .targetAbandon (128) 0, .tmoWrite (3) 0, .tmoWrite 0 (2 ^ 32), .quotaRelease (128),
   .portSignalLoss (20), .portTrainDone (20) 0 0 false 0 false 0, .portTrainDone 0 0 (4096) false 0 false 0,
   .portTrainDone 0 0 0 false (20) false 0, .portTrainDone 0 0 0 false 0 false (2 ^ 16)] : List Instr).all (fun i => i.wf == false) = true := by decide +kernel

/-- Terms with one operand out of its range, each refused. -/
theorem test_wf_refuses_4 : ([.portTrainDone 0 (4 + 1) 0 false 0 false 0, .creditCell (20), .authCell (20), .syrelPacketForward (20),
   .fabricWindowRequest (128) 0 0 0 0 0 [] 0, .fabricWindowRequest 0 0 (64) 0 0 0 [] 0,
   .fabricWindowRequest 0 0 0 0 (4) 0 [] 0, .collTimeout (256), .syrHoldExpire (7), .join (8),
   .mirrorLagExpire (2 ^ 18), .cpPromote 8192 0, .cpPromote 0 (2 ^ 32), .wakePattern (20), .devctl2Write (16),
   .bar2Access 0 5 false 0 0 false, .bar2Access 0 4 false (2 ^ 64) 0 false, .apertureAccess (2 ^ 52) 0 false [] 0 false,
   .atomicop false 0 (3) 4 0 0 0, .atomicop false 0 0 4 (2 ^ 32) 0 0, .atomicop false 0 0 4 0 (2 ^ 32) 0,
   .atomicop false 0 0 7 0 0 0, .watchSnoop 8192 0, .watchSnoop 0 (3),
   .watchReadData 8192 (.data (List.replicate 64 0)), .watchReadData 0 (.data [0]), .watchReadData 0 (.fail .ok),
   .cxlMemRequest (2 ^ 52) false [] 0, .hostHdmWrite (2 ^ 14) 0, .hostHdmWrite 0 (2 ^ 11), .flrInitiate (64),
   .flrComplete (64), .dsPresenceChange (4) false, .powerOn (4), .dsPerstRelease (4), .dsButton (4),
   .dsButtonTimeout (4), .remove (4), .dsShutdownTimeout (4), .clear (4)] : List Instr).all (fun i => i.wf == false) = true := by decide +kernel

/-- Terms with one operand out of its range, each refused. -/
theorem test_wf_refuses_5 : ([.dsPowerFault (4), .dsLinkDown (4), .doorbellPoll 8192 (.data (List.replicate 64 0)), .doorbellPoll 0 (.data [0]),
   .doorbellPoll 0 (.fail .ok), .descriptorFetched 8192 0 (.data (List.replicate 64 0)),
   .descriptorFetched 0 (2 ^ 32) (.data (List.replicate 64 0)), .descriptorFetched 0 0 (.data [0]),
   .descriptorFetched 0 0 (.fail .ok), .descriptorStart 8192 0, .descriptorStart 0 (2 ^ 32), .nopDesc 8192 0,
   .nopDesc 0 (2 ^ 32), .copy 8192 0 0, .copy 0 (2 ^ 32) 0, .copy 0 0 (64), .atomic 8192 0, .atomic 0 (2 ^ 32),
   .collSetup 8192 0, .collSetup 0 (2 ^ 32), .invalidate 8192 0, .invalidate 0 (2 ^ 32),
   .headLineRead 8192 (.data (List.replicate 64 0)), .headLineRead 0 (.data [0]), .headLineRead 0 (.fail .ok),
   .queuedRecordWrite (64), .irqModTimeout 8192, .ringEnable 8192, .ringDisable 8192, .ringStopped 8192,
   .ringIdxWrite 8192 none none, .ringIdxWrite 0 (some (2 ^ 32)) none, .ringIdxWrite 0 none (some (2 ^ 32)),
   .atsCompletion (64) 0 0 12 0 false false, .atsCompletion 0 0 (2 ^ 52) 12 0 false false,
   .atsCompletion 0 (2 ^ 20 + 1) 0 12 0 false false, .atsCompletion 0 0 0 7 0 false false, .priGatherExpire (64) 0,
   .priGatherExpire 0 (2 ^ 20 + 1), .pageGroupResponse (64) 0 0] : List Instr).all (fun i => i.wf == false) = true := by decide +kernel

/-- Terms with one operand out of its range, each refused. -/
theorem test_wf_refuses_6 : ([.pageGroupResponse 0 (512) 0, .pageGroupResponse 0 0 (16), .prgTimeout (64) 0, .prgTimeout 0 (512),
   .atsInvalidate (64) none 0 none 0, .atsInvalidate 0 none 0 none (32), .atsInvalidate 0 (some (2 ^ 20)) 0 none 0,
   .lockInterfaceRequest 0 (64), .stopInterfaceRequest 0 (64), .lcTokenLoad (some [2 ^ 64]),
   .lcTransition (some [2 ^ 64]), .lcChallenge (some [2 ^ 64]), .debugGrant (some [2 ^ 64]),
   .debugRevoke (some [2 ^ 64]), .lcSelectCompat (some [2 ^ 64]), .tileOut 8192 0, .tileOut 0 (2 ^ 32),
   .tileIn 8192 0 false, .tileIn 0 (2 ^ 32) false, .memsiteOut 8192 0, .memsiteOut 0 (2 ^ 32), .memsiteIn 8192 0 0,
   .memsiteIn 0 (2 ^ 32) 0, .memsiteIn 0 0 (256), .chanRetrain 8192 0, .chanRetrain 0 (2 ^ 32), .portRetrain 8192 0,
   .portRetrain 0 (2 ^ 32), .fwStage 8192 0, .fwStage 0 (2 ^ 32), .fwBroadcast 8192 0, .fwBroadcast 0 (2 ^ 32),
   .fwStatus 8192 0, .fwStatus 0 (2 ^ 32), .fwChunkTimeout 0, .fwChunkTimeout (4), .enter 8192 0, .enter 0 (2 ^ 32),
   .exit 8192 0, .exit 0 (2 ^ 32)] : List Instr).all (fun i => i.wf == false) = true := by decide +kernel

/-- Terms with one operand out of its range, each refused. -/
theorem test_wf_refuses_7 : ([.setCap 8192 0, .setCap 0 (2 ^ 32), .group 8192 0, .group 0 (2 ^ 32), .powerAtReached 8192 0,
   .powerAtReached 0 (2 ^ 32), .wakeEvent (256) 0, .wakeEvent 0 (2 ^ 16), .powerExitWake (256), .avsAck (6) 0,
   .avsAck 0 (2 ^ 16), .avsRetryTimeout (6), .avsAckTimeout (6), .droopDetect (64), .droopClear (64),
   .supplyDipStart (128), .thermalSample (256), .hostCompletion 0 (4) [], .driftTrackingLimit (20) 0 false,
   .driftTrackingLimit 0 (8) false, .codewordCountRekey (20), .cxlSiteResponse (8) 0 (.data (List.replicate 64 0)),
   .barAccessInvalid 0 (some 1) 0 0 0 false,
   .exchangeSymbolRx 20 ({ state := 0, depth := 0, exseq := 0, txT := 0, echo := none, seg := {}, pend := none }),
   .exchangeSymbolRx 0 ({ state := 8, depth := 0, exseq := 0, txT := 0, echo := none, seg := {}, pend := none }),
   .exchangeSymbolRx 0 ({ state := 0, depth := 256, exseq := 0, txT := 0, echo := none, seg := {}, pend := none }),
   .exchangeSymbolRx 0 ({ state := 0, depth := 0, exseq := (2 ^ 16), txT := 0, echo := none, seg := {}, pend := none }),
   .exchangeSymbolRx 0 ({ state := 0, depth := 0, exseq := 0, txT := 0, echo := none, seg := { startRef := 2 ^ 64 }, pend := none }),
   .exchangeSymbolRx 0 ({ state := 0, depth := 0, exseq := 0, txT := 0, echo := none, seg := {}, pend := (some { startRef := 2 ^ 64 }) }),
   .exchangeSymbolRx 0 ({ state := 0, depth := 0, exseq := 0, txT := 0, echo := none, seg := { startPos := 2 ^ 64 }, pend := none }),
   .exchangeSymbolRx 0 ({ state := 0, depth := 0, exseq := 0, txT := 0, echo := none, seg := {}, pend := (some { startPos := 2 ^ 64 }) }),
   .exchangeSymbolRx 0 ({ state := 0, depth := 0, exseq := 0, txT := 0, echo := none, seg := { rate := 2 ^ 24 }, pend := none }),
   .exchangeSymbolRx 0 ({ state := 0, depth := 0, exseq := 0, txT := 0, echo := none, seg := {}, pend := (some { rate := 2 ^ 24 }) }),
   .exchangeSymbolRx 0 ({ state := 0, depth := 0, exseq := 0, txT := 0, echo := none, seg := { kind := 4 }, pend := none }),
   .exchangeSymbolRx 0 ({ state := 0, depth := 0, exseq := 0, txT := 0, echo := none, seg := {}, pend := (some { kind := 4 }) }),
   .exchangeSymbolRx 0 ({ state := 0, depth := 0, exseq := 0, txT := 0, echo := none, seg := { seq := 2 ^ 16 }, pend := none }),
   .exchangeSymbolRx 0 ({ state := 0, depth := 0, exseq := 0, txT := 0, echo := none, seg := {}, pend := (some { seq := 2 ^ 16 }) }),
   .ruleSyncFrame { preamble := 2 ^ 16, refAtMark := 0, segStartRef := 0, segStartPos := 0, segRate := 0, segSeqKind := 0, crc := 0 },
   .ruleSyncFrame { preamble := 0, refAtMark := 2 ^ 64, segStartRef := 0, segStartPos := 0, segRate := 0, segSeqKind := 0, crc := 0 },
   .ruleSyncFrame { preamble := 0, refAtMark := 0, segStartRef := 2 ^ 64, segStartPos := 0, segRate := 0, segSeqKind := 0, crc := 0 }] : List Instr).all (fun i => i.wf == false) = true := by decide +kernel

/-- Terms with one operand out of its range, each refused. -/
theorem test_wf_refuses_8 : ([
   .ruleSyncFrame { preamble := 0, refAtMark := 0, segStartRef := 0, segStartPos := 2 ^ 64, segRate := 0, segSeqKind := 0, crc := 0 },
   .ruleSyncFrame { preamble := 0, refAtMark := 0, segStartRef := 0, segStartPos := 0, segRate := 2 ^ 32, segSeqKind := 0, crc := 0 },
   .ruleSyncFrame { preamble := 0, refAtMark := 0, segStartRef := 0, segStartPos := 0, segRate := 0, segSeqKind := 2 ^ 32, crc := 0 },
   .ruleSyncFrame { preamble := 0, refAtMark := 0, segStartRef := 0, segStartPos := 0, segRate := 0, segSeqKind := 0, crc := 2 ^ 32 },
   .calArm (.desc 8192 0), .calArm (.desc 0 (2 ^ 32)), .calArm (.herva [2 ^ 64] 0), .calArm (.herva [0] 8192),
   .calCancel (.desc 8192 0), .calCancel (.desc 0 (2 ^ 32)), .calCancel (.herva [2 ^ 64] 0),
   .calCancel (.herva [0] 8192), .sesMirror 8192 0 none, .sesMirror 0 (2 ^ 32) none,
   .sesMirror 0 0 (some (.ok, 2 ^ 64)), .sesMigrate 8192 0 none, .sesMigrate 0 (2 ^ 32) none,
   .sesMigrate 0 0 (some (.ok, 2 ^ 64)), .zcpFlitRx 8 0 0 0 (List.replicate 14 0),
   .zcpFlitRx 0 8 0 0 (List.replicate 14 0), .zcpFlitRx 0 0 6 0 (List.replicate 14 0),
   .zcpFlitRx 0 0 0 (2 ^ 128) (List.replicate 14 0), .zcpFlitRx 0 0 0 0 (List.replicate 15 0),
   .zcpFlitRx 0 0 0 0 (List.replicate 14 (2 ^ 128)), .moduleDown 8 0 [], .moduleDown 0 8 [], .moduleDown 0 0 [2 ^ 16],
   .portTrainDone 0 3 0 false 0 false 0, .siteResetRelease 8 { mods := 0 }, .siteResetRelease 0 { mods := 256 },
   .siteResetRelease 0 { mods := 0, x8 := 256 }, .siteResetRelease 0 { mods := 0, ident := List.replicate 65 0 },
   .mgmt (.createReplica 64 0 []), .mgmt (.deleteReplica 64 0), .mgmt (.replicaGone 64 0),
   .mgmt (.takeSession 64 [] [] []), .mgmt (.chunkRequest 0 0 false 0 0), .mgmt (.chunkRequest 4 0 false 0 0),
   .mgmt (.chunk 0 0 false 0 []), .mgmt (.chunk 4 0 false 0 [])] : List Instr).all (fun i => i.wf == false) = true := by decide +kernel

/-- Terms with one operand out of its range, each refused. -/
theorem test_wf_refuses_9 : ([.mgmt (.route 4096 0), .mgmt (.route 0 (2 ^ 32)), .mgmt (.group 256 0), .mgmt (.group 0 (2 ^ 32)),
   .configRequest 256 .ids none 0, .configRequest 0 .ids (some (2 ^ 32)) 0, .hotReset (some { rate := 8 }),
   .spdmRequest (.interfaceState 0 64), .spdmRequest (.interfaceReport 0 64), .spdmRequest (.startInterface 0 64 0),
   .spdmRequest (.getCertificate 8), .spdmRequest (.challenge 8), .spdmRequest (.other 256),
   .coldReset (some { fw := [] }), .coldReset (some { active := [] }), .bringupComplete { mem := List.replicate 21 {} },
   .bringupComplete { mem := [{ ok := 256 }] }, .bringupComplete { routes := [(4096, 0)] },
   .bringupComplete { routes := [(0, 2 ^ 32)] }, .bringupComplete { groups := [(256, 0)] },
   .bringupComplete { groups := [(0, 2 ^ 32)] }, .pmbusPoll [] [0, 0, 0, 0, 0, 0], .pmbusPoll [0, 0, 0, 0, 0, 0] [],
   .dsPortReady 0 { rate := 8 }, .dsPortReady 0 { rate := 0, width := 8 },
   .dsPortReady 0 { rate := 0, vendor := 2 ^ 16 }, .dsPortReady 0 { rate := 0, device := 2 ^ 16 },
   .dsPortReady 0 { rate := 0, cls := 2 ^ 24 }, .dsPortReady 4 { rate := 0 }, .codewordRx 20 0 0 0 false [],
   .codewordRx 0 3 0 0 false [], .codewordRx 0 0 512 0 false [], .codewordRx 0 0 0 512 false [],
   .bar4SiteWindowAccess 0 1 true [] 0 true false, .apertureAccess 0 1 true [] 0 false, .cxlMemRequest 0 true [] 0,
   .cxlIoWrite 0 0 0 1 true []] : List Instr).all (fun i => i.wf == false) = true := by decide +kernel

/-! ## Worked examples of the spec -/

/-- The hub of the worked example: 1,000 entries, MEM_3 full with 50 slots, entry 643 at MEM_3 slot 32. -/
def exampleHub : State :=
  State.reset |> wr MEM_GEOM_NE 0 1000 |> wr SITE_SLOTS_SLOTS 3 50 |> wr MEM_STATUS_STATE 3 1 |> wr SITE_STEER_SITE 643 3
    |> wr SITE_STEER_SLOT 643 32

/-- spec/07_memory_and_system_cache.md, the example of R163: entry and frame of offset 0x0100_0000_0A40. -/
theorem test_place_entry : steerOf (0x010000000A40 / 256) exampleHub = (643, 4294967) := by decide +kernel

/-- The same example: site, channel, raw granule, bank and row. -/
theorem test_place_granule : (fun l => (l.site, l.ch, l.raw, l.bank, l.row)) (locate 0x010000000A40 exampleHub) =
    (3, 5, 27709467, 14, 216480) := by decide +kernel

/-- The same example: its home bucket (R165), and its set in the example of spec/08_coherence.md (R182). -/
theorem test_place_home : (bucketOf 0x010000000A40, scSet (0x010000000A40 / 64)) = (266, 0x429) := by decide +kernel

/-- spec/00_scope.md, the example of R17: ACCESS_DENIED outranks UNREACHABLE. -/
theorem test_status_worst : Status.worst [.accessDenied, .unreachable] = .accessDenied := by decide

/-- spec/09_chiplet_sites.md, the DOORBELL header of the example. -/
theorem test_doorbell_header : hdrDoorbell 2 3 true 20006382000 = 0x00010000_00030220 + 2 ^ 64 * 0x00000004_A87929B0 := by decide +kernel

/-- Members of the power group of the example of spec/18_power_and_thermal.md R468. -/
def exampleGroup : List GrpRep :=
  [0, 1, 2, 3, 4, 5, 6, 7].map (fun h => GrpRep.mk h 3000 2000 (if h = 3 then 40 else if h = 5 then 12 else 0) (if h = 3 then 400 else 0))

/-- The caps that the leader decides: 3,300 W for hub 3, 2,950 W for six donors, 3,000 W for hub 5. -/
theorem test_group_caps : newCaps 50 2600 exampleGroup =
    [(3, 3300), (0, 2950), (1, 2950), (2, 2950), (4, 2950), (6, 2950), (7, 2950), (5, 3000)] := by decide +kernel

/-- n / 16 as a value. -/
def sixteenths (n : Int) : Fv := .fin (n < 0) n.natAbs (-4)

/-- The 32 inputs of the example of spec/04_number_formats.md R102, in sixteenths. -/
def exampleBlock : List Fv :=
  ([4, -6, 14, 0, -3, 152, 8, -13, 1, 2, -4, 5, 12, -8, 3, -1, 6, -2, 4, -12, -88, 10, -14, 0, 8, -6, 2, -4, 7, -10, 4, -2]
    : List Int).map sixteenths

/-- Its 22 bytes in Hatch-4. -/
theorem test_hatch4_block : (hatchEncode true exampleBlock).map BitVec.toNat =
    [0x7C, 0xD2, 0x07, 0x0E, 0xA4, 0x10, 0x2E, 0xC6, 0x02, 0xF3, 0xA2, 0x50, 0x09, 0xD4, 0xE1, 0xB4, 0xF2, 0x6A, 0xE3, 0x85,
     0x02, 0x02] := by decide +kernel

/-- Its scale in Hatch-3. -/
theorem test_hatch3_scale : ((hatchEncode false exampleBlock).map BitVec.toNat).headD 0 = 0x7E := by decide +kernel

/-- R81: MIN orders minus zero below plus zero. -/
theorem test_min_zeros : (minMax false (f32 0) (f32 0x80000000)).1 = 0x80000000 := by decide

/-- R29: a rate of 2^20 adds a 1,024th of the elapsed count, floored. -/
theorem test_segment_floor : segPos { startRef := 10, startPos := 5, rate := 2 ^ 20 } (10 + 1025) = 5 + 1026 := by decide +kernel

/-- FIPS 197, appendix C.3: a block under AES-256, and back. -/
theorem test_aes_256 : let ws := keyWords (List.range 32)
    let b := (List.range 16).map (fun i => 17 * i)
    let c := [0x8E, 0xA2, 0xB7, 0xCA, 0x51, 0x67, 0x45, 0xBF, 0xEA, 0xFC, 0x49, 0x90, 0x4B, 0x49, 0x60, 0x89]
    (aesEnc ws b == c && aesDec ws c == b) = true := by decide +kernel

/-- No word of the table spells a command, since its rows give no bits. -/
theorem test_table_words : [(0, 0), (16, 0x1234), (64, 0)].all (fun p => (decodeTableWord p.1 p.2).isNone) = true := by decide

/-- A step on one pending command: an arrival word takes its value, and the queue is empty after it. -/
theorem test_step_arrival : (match step { State.reset with pending := [.arrivalWrite 1023 7] } with
    | .next t => decide (rd ARRIVAL_VALUE 1023 t = 7) && t.pending.isEmpty
    | _ => false) = true := by decide +kernel

/-- A step on an empty queue: the reference count moves on by a nanosecond. -/
theorem test_step_tick : (match step State.reset with
    | .next t => decide (t.ruling.refT = 16)
    | _ => false) = true := by decide +kernel

/-! ## States of the witnesses -/
/-- The state after reset. -/
abbrev r0 : State := State.reset
/-- The calendar entry of the tests. -/
def cal0 : CalEntry := { mark := 0, action := 0, gateEn := true, localOk := false, stepDiscard := false, notify := false, fn := 0, gate := 1023, thresh := 0, period := 0, rep := 0, thrStep := 0, tag := 0, arg := 0 }
/-- The hub at reset, with its clocks stopped by an overheat. -/
def stopped0 : State := setPower (fun p => { p with stopped := true }) r0
/-- Memory Space Enable of the PF is 1. -/
def mse0 : State := setFnCfg 0 (fun c => { c with mse := true }) r0
/-- And the high half of RULE_POS is latched. -/
def latch0 : State := { mse0 with latches := [(latchKey RULE_POS_blk 0, 7)] }
/-- The life cycle is SCRAPPED. -/
def scrap0 : State := setLife (fun l => { l with state := 4 }) r0

/-- A descriptor that runs, at ring `g` and count `k`, in the state `s`. -/
def running (g k : Nat) (words : List Nat) (s : State) : State :=
  { s with rings := { s.rings with descs := s.rings.descs ++ [{ ring := g, count := k, words := words, st := .started }] } }
/-- Counter 7 of unit 0 has overflowed. -/
def ovf0 : State := setCnt (fun c => { c with ovf := [(0, 7)] }) (wr CNT_SEL_OVF_IRQ (cntIx 0 7) 1 r0)
/-- And its bit is set. -/
def ovf1 : State := setCnt (fun c => { c with ovf := [] }) (wr CNT_OVF_OVF 0 128 ovf0)
/-- A frozen set of counters, and the firing that it completes. -/
def snap0 : Snap := { firing := 3, fn := 0, base := 0, units := [], words := [] }
/-- A part of the witnesses below. -/
def firing0 : Firing := { id := 3, entry := 8191, fn := 0, tag := 0, index := 0, notify := true, pos := 0 }
/-- A part of the witnesses below. -/
def snaps0 : State := { setCnt (fun c => { c with snaps := [snap0] }) r0 with cal := { firings := [firing0] } }
/-- A part of the witnesses below. -/
def snapW : Status × State := homePut (.agent 0) 128 [] snaps0
/-- Line 0 is held by a site. -/
def heldLine0 : State := setCoh (fun h => { h with dir := [(0, { st := 2 })] }) snaps0
/-- A packet is in the inbox. -/
def inbox (k : Pkt) (s : State) : State := setSyr (fun y => { y with inbox := [k] }) s
/-- A part of the witnesses below. -/
def pkt (opc : Nat) : Pkt := { opc := opc, vn := 0, dst := 0, src := 0 }
/-- A mirroring session. -/
def ses0 : SesEnt := { fn := 0, mirror := true, twinValid := true, kvFmt := 0, dim := 0, layersM1 := 0, headsM1 := 0, gen := 1, maxTokens := 128, root := 0 }
/-- A part of the witnesses below. -/
def mir0 : State := setSes (fun x => { x with tab := [(5, ses0)] }) r0
/-- A replica of a session. -/
def rep0 : State := setSes (fun x => { x with tab := [(5, { ses0 with replica := true })] }) r0
/-- A mirror record of session 5 waits for its acknowledgement, and the time it may take is over. -/
def lag0 : State := setSyr (fun y => { y with mirPend := [{ ses := 5, tag := 0, at16 := 0 }] }) (setRuling (fun r => { r with refT := us16 10000 }) r0)
/-- The twin is down, and the time after which its sessions are lost is over. -/
def down0 : State := setSyr (fun y => { y with twinDownAt := some 0 }) (setRuling (fun r => { r with refT := us16 5000 }) r0)

/-- The reference count stands at `t` (1/16 ns). -/
def later (t : Nat) (s : State) : State := setRuling (fun r => { r with refT := t }) s
/-- What the ruling block keeps of port `p`. -/
def exp (p : Nat) (e : ExPort) (s : State) : State := setRuling (fun r => { r with ports := [(p, e)] }) s
/-- An announced segment. -/
def pend (x : Seg) (s : State) : State := setRuling (fun r => { r with pend := some x }) s
/-- A part of the witnesses below. -/
def seg1 : Seg := { startRef := 2000000, startPos := 2000000 + 2 ^ 48, rate := 214748, seq := 1 }
/-- A part of the witnesses below. -/
def seg2 : Seg := { startRef := 1, startPos := 0, kind := 1, seq := 1 }
/-- A part of the witnesses below. -/
def frame0 : SyncFrame := { preamble := 0, refAtMark := 0, segStartRef := 0, segStartPos := 0, segRate := 0, segSeqKind := 0, crc := 1 }
/-- A part of the witnesses below. -/
def master0 : State := wr RULE_CTL_ROLE 0 1 r0
/-- A part of the witnesses below. -/
def locked0 : State := wr RULE_STATUS_STATE 0 2 r0
/-- A calendar entry is armed. -/
def armed (i : Nat) (e : CalEntry) (s : State) : State := { s with cal := { s.cal with entries := put i e s.cal.entries } }
/-- A part of the witnesses below. -/
def cal1 : CalEntry := { cal0 with gateEn := false, localOk := true, dueAt := some 0 }
/-- A part of the witnesses below. -/
def ring0 (g k : Nat) (w : List Nat) : Desc := { ring := g, count := k, words := w, st := .started }
/-- A part of the witnesses below. -/
def free1 : State := wr RULE_STATUS_STATE 0 1 r0

/-- Function 0 owns tile 63. -/
def own0 : State := setB FUNC_CFG_BOUND 0 (setB TGRP_VALID 15 r0)
/-- Work in the queue of tile 63's engine. -/
def queue63 (w : GWork) (s : State) : State := setGrv 63 (fun e => { e with queue := [w] }) s
/-- A part of the witnesses below. -/
def work0 (kind : Nat) : GWork := { kind := kind, fn := 0, g := 127, k := 5, ring := 127 }
/-- A part of the witnesses below. -/
def load0 : State := running 127 5 [8, 0, 0, 63 * 2 ^ 20] r0
/-- Tile 63's engine runs a launch that stands at an instruction of operation code `o`, with buffer 0 in state `x`. -/
def run0 (x : PanelSt) : GRun := { work := work0 1, blk := [0], x := 2048, startAt := 0, bufs := [{ st := x }] }
/-- A part of the witnesses below. -/
def eng0 (o : Nat) (x : PanelSt) : State := setGrv 63 (fun e => { e with prog := [(2048, o)], run := some (run0 x) }) r0
/-- A part of the witnesses below. -/
def buf0 (x : PBuf) : GRun := { run0 .engine with bufs := [x] }
/-- A part of the witnesses below. -/
def engBuf (x : PBuf) : State := setGrv 63 (fun e => { e with run := some (buf0 x) }) r0
/-- A part of the witnesses below. -/
def drain0 : Job := { who := .drain 63 0, fn := 0, pasid := 0, tile := 63, pieces := [] }
/-- A part of the witnesses below. -/
def engRun (r : GRun) (s : State) : State := setGrv 63 (fun e => { e with run := some r }) s
/-- The hub is READY. -/
def ready0 : State := setB HUB_GLOBAL_READY 0 r0
/-- A part of the witnesses below. -/
def bme (n : Nat) (s : State) : State := setFnCfg n (fun c => { c with bme := true }) s
/-- A part of the witnesses below. -/
def descs (l : List Desc) (s : State) : State := { s with rings := { s.rings with descs := l } }
/-- A part of the witnesses below. -/
def reqs (l : List Req) (s : State) : State := { s with timers := { s.timers with reqs := l } }
/-- A part of the witnesses below. -/
def req0 (p : Purpose) : Req := { cls := 0, port := 0, tag := 0, fn := 0, purpose := p, limit := 0, deadline := 0 }

/-- One site of one slot holds 1 GiB of memory, whose extent is of kind `kind` and function 0's. -/
def mem1 (kind : Nat) (s : State) : State :=
  s |> wr MEM_SIZE_BYTES 0 (2 ^ 30) |> wr MEM_GEOM_NE 0 1 |> wr SITE_SLOTS_SLOTS 0 1 |> wr MEM_STATUS_STATE 0 1
    |> wr MEM_STATUS_CH_OK 0 255 |> wr EXT_KIND 0 kind
/-- The PF's memory window is decoded over it. -/
def apert0 : State := mem1 1 (setB HOST_APERTURE_ENABLE 0 (wr HOST_APERTURE_SIZE_GIB 0 1 mse0))
/-- A part of the witnesses below. -/
def hdm0 : State := mem1 3 (setB HOST_STATUS_CXL_MEM 0 (wr HOST_HDM_EXTENTS 0 1 r0))
/-- A part of the witnesses below. -/
def cfg0 : State := { r0 with host := { cfgReady := true, vfEnable := true } }
/-- The device of downstream port 3. -/
def dsp (d : DsPort) (st : Nat) (t : Nat) : State := later t (setDs 3 (fun _ => d) (wr DS_STATUS_STATE 3 st r0))

/-- Function 0 owns tile 63 and an extent of memory, and has session 5, whose root frame is frame 0. -/
def ses1 : SesEnt := { fn := 0, kvFmt := 0, dim := 0, layersM1 := 0, headsM1 := 0, gen := 1, maxTokens := 128, root := 0 }
/-- A part of the witnesses below. -/
def own1 : State := mem1 1 own0
/-- A part of the witnesses below. -/
def tab (e : SesEnt) (s : State) : State := setSes (fun x => { x with tab := [(5, e)] }) s
/-- The handle of session 5. -/
def h5 : Nat := 5 + 2 ^ 18
/-- A part of the witnesses below. -/
def st0 : StrEnt := { session := 5, gen := 1, fn := 0, sketchSel := false, pageBudget := 0, batch := 0, pos := 0, qSlot := 0 }
/-- A part of the witnesses below. -/
def streams (t : Nat) (x : StrEnt) (s : State) : State := setSes (fun y => { y with streams := [(t, x)] }) s
/-- A search that its first index ends. -/
theorem firstBelow_zero (n : Nat) (p : Nat → Bool) (h : p 0 = true) : firstBelow (n + 1) p = some 0 := by
  simp [firstBelow, List.range_succ_eq_map, h]

/-- Function 0's session pool holds two frames. -/
def pool0 : State := setMem (fun m => { m with held := [(0, 0, 2)] }) own1
/-- Collective 0 runs, with one child, in direction 0; a packet of it is in the inbox. -/
def coll0 : Coll := { fn := 0, op := 0, fmt := 0, unit := 0, parent := 0, childs := 1, arrive := none, lines := 1, src := 0, dst := 0 }
/-- A part of the witnesses below. -/
def crun0 : CollRun := { seq := 0, firing := 0, start := 0 }
/-- A part of the witnesses below. -/
def cst0 (l : List Pkt) : State :=
  setSyr (fun y => { y with colls := [(0, coll0)], runs := [(0, crun0)], inbox := l })
    (r0 |> setB SYR_PORT_UP 0 |> wr SYR_PORT_LANES 0 1 |> setB SYR_PORT_PARTNER_VALID 0 |> wr SYR_PORT_PARTNER_HUB 0 5)
/-- An attention batch. -/
def bat0 : ABatch := { id := 7, g := 0, k := 0, fn := 0, num := 0, items := [{ str := 0, head := 0, pass := 0, lo := 0, hi := 1, tile := 63 }] }
/-- A part of the witnesses below. -/
def bats (b : ABatch) (s : State) : State := { s with attn := { batches := [b] } }
/-- A part of the witnesses below. -/
def arun0 : GRun := { work := { kind := 2, fn := 0, g := 7, k := 0, ring := 0 }, blk := [0], x := 0, startAt := 0, ended := true }

/-- A channel engine of memory site 19, and its state. -/
def chans (c : Chan) (s : State) : State := setMem (fun m => { m with chans := [(159, c)] }) s
/-- A part of the witnesses below. -/
def move0 (s : State) : State := setMem (fun m => { m with moveTo := some (19, 3) }) s
/-- A request that a target holds, and a channel that is being retrained. -/
def onDie0 : OnDie := { port := 79, id := 3, tgt := 0 }
/-- A part of the witnesses below. -/
def held0 (o : OnDie) (s : State) : State := setMesh (fun m => { m with held := [o] }) s
/-- A part of the witnesses below. -/
def retr0 : State := setMem (fun m => { m with chans := [(0, { retrainAt := some 0 })] }) r0
/-- A part of the witnesses below. -/
def tomb0 (t : Nat) : Tomb := { cls := 0, port := 79, tag := 65535, till := t }
/-- A part of the witnesses below. -/
def tombs (l : List Tomb) (s : State) : State := { s with timers := { s.timers with tombs := l } }
/-- A part of the witnesses below. -/
def flight0 : Flight := { vn := 3, src := 79, dst := 72, id := 0, tag := none, st := .ok, data := [] }
/-- A part of the witnesses below. -/
def bound0 : State := setRuling (fun r => { r with pos := 1000000 }) (setB REG_CTL_STATIC 0 free1)

/-- Site 7 is READY and coherent over function 0's memory; it has sent message `m`; the directory holds `d`. -/
def siteMem : State :=
  own1 |> wr SITE_STATUS_STATE 7 3 |> setB EXT_SITE_OK 0 |> wr DIR_CTL_COH_EN 0 128
/-- A part of the witnesses below. -/
def rx7 (m : ZMsg) (s : State) : State := setSite 7 (fun x => { x with rx := [m] }) s
/-- A part of the witnesses below. -/
def dir0 (d : DEnt) (s : State) : State := setCoh (fun h => { h with dir := [(0, d)] }) s
/-- A part of the witnesses below. -/
def zm (o : Nat) : ZMsg := { opc := o, cls := 0, hdr := 0 }
/-- A part of the witnesses below. -/
def hreq0 : HReq := { kind := .rdS, line := 0, who := .site 7 0 }
/-- A part of the witnesses below. -/
def trn0 : Trans := { req := hreq0, phase := .ba, waits := [7] }
/-- A part of the witnesses below. -/
def trans0 (t : Trans) (s : State) : State := setCoh (fun h => { h with trans := [(0, t)] }) s
/-- A part of the witnesses below. -/
def snoop7 (s : State) : State := reqs [{ req0 (.snoop 7 0) with cls := 1, port := 71 }] s

/-- A part of the witnesses below. -/
def inv0 : Inval := { id := 5, fn := 63, pasid := none, lo := 0, pages := none, tags := [9] }
/-- A part of the witnesses below. -/
def xlat (x : Xlat) (s : State) : State := { s with xlat := x }
/-- A part of the witnesses below. -/
def wait0 (stale : Bool) : XWait := { fn := 63, pasid := 7, page := 9, write := false, purpose := .onDie 0, stale := stale }
/-- A part of the witnesses below. -/
def batch0 (sent : Bool) : Batch := { fn := 63, pasid := 7, prg := 5, openedAt := 0, sent := sent }

/-- And function 0 owns the partition of site 7. -/
def siteOwn : State := setB PART_CFG_VALID 0 siteMem
/-- A part of the witnesses below. -/
def rst7 (r : SiteRst) (s : State) : State := setSite 7 (fun x => { x with rst := r }) s
/-- A part of the witnesses below. -/
def win7 (w : Bool) (s : State) : State := reqs [{ req0 (.window 7 2 w) with cls := 1, port := 71 }] s
/-- A part of the witnesses below. -/
def quiet7 (s : State) : State := reqs [{ req0 (.quiesce 7 0) with cls := 1, port := 71 }] s
/-- A part of the witnesses below. -/
def acc0 : HostAcc := { id := 2, site := 7, write := false, size := 4, tag := 0 }
/-- A part of the witnesses below. -/
def accs (s : State) : State := { s with host := { s.host with accs := [acc0] } }
/-- A Syrel port holds cells. -/
def port (p : Nat) (x : SyrPort) (s : State) : State := setPort p (fun _ => x) s
/-- A part of the witnesses below. -/
def sync0 : State := later 0 (setB HUB_GLOBAL_READY 0 (setB EXT_REMOTE 0 own1))

/-- The power manager, entering H2. -/
def pent : PEntry := { target := 2, who := .auto, since := 0 }
/-- A part of the witnesses below. -/
def pow (f : Power → Power) (s : State) : State := setPower f s
/-- A part of the witnesses below. -/
def conf0 (s : State) : State := setB SEC_STATUS_CONFIDENTIAL 0 s
/-- A part of the witnesses below. -/
def avs0 : Avs := { rail := 3, mv := 800, since := 0, sentAt := 0 }

/-- A part of the witnesses below. -/
def boot (f : Boot → Boot) (s : State) : State := setBoot f s
/-- A part of the witnesses below. -/
def sec (f : Sec → Sec) (s : State) : State := setSec f s
/-- A part of the witnesses below. -/
def mbx (w : Nat) (s : State) : State := wr MBX_DATA_DATA 0 w s
/-- A part of the witnesses below. -/
def svc0 (sub t : Nat) : Svc := { sub := sub, g := 0, k := 0, idx := t, phase := 1, since := 0 }
/-- A part of the witnesses below. -/
def burn0 : Burn := { id := 0, exts := [0], slot := some (0, 0) }

/-- A part of the witnesses below. -/
def xfer0 : FwXfer := { origin := 9, transfer := 2, parts := (List.range 8).map (fun p => (p, [])), lastAt := 0, tries := 8 }

/-- A cell as a partner that has never received one sends it; a PIN_ROOT that has seen a mark. -/
def cell0 (st : Nat) : RuleCell := { state := st, depth := 0, exseq := 0, txT := 0, echo := none, seg := {}, pend := none }
/-- A part of the witnesses below. -/
def root0 (s : State) : State := setRuling (fun r => { r with markAt := some 0 }) (wr RULE_CTL_ROLE 0 2 s)
/-- A part of the witnesses below. -/
def frame1 (ref : Nat) : SyncFrame := { preamble := 0xA5, refAtMark := 0, segStartRef := ref, segStartPos := 0, segRate := 0, segSeqKind := 0, crc := frameCrc { preamble := 0xA5, refAtMark := 0, segStartRef := ref, segStartPos := 0, segRate := 0, segSeqKind := 0, crc := 0 } }

/-- A load job of tile 63's buffer 0 that has ended. -/
def load1 : Job := { drain0 with who := .load 63 0 }
/-- Function 0's ring translates its addresses. -/
def ats0 (n : Nat) (s : State) : State := setFnCfg n (fun c => { c with atsEn := true }) s

/-- A built-in item that reads no token: its stream, its batch, and the launch that runs it. -/
def str0 : AStr := { idx := 0, ses := 5, slot := 0, len := 0, served := true }
/-- A part of the witnesses below. -/
def item0 : AItem := { str := 0, head := 0, pass := 0, lo := 0, hi := 0, tile := 63 }
/-- A part of the witnesses below. -/
def bat1 (l : List AItem) : ABatch := { id := 7, g := 0, k := 0, fn := 0, num := 0, running := true, streams := [str0], items := l }
/-- A part of the witnesses below. -/
def arun1 : GRun := { work := { kind := 2, fn := 0, g := 7, k := 0, ring := 0 }, blk := [], x := 0, startAt := 0 }
/-- An MR4 poll of channel 7 of site 19 outside and inside confidential mode. -/
def conf1 (s : State) : State := setB SEC_STATUS_CONFIDENTIAL 0 s

/-- Static regulation is in force, with `m` the directory ways of every class. -/
def static0 (m : Nat) (s : State) : State :=
  wr SC_WAYS_ALLOC_MASK 0 m (wr REG_STATIC_CLASS_MASK 0 (2 ^ 32 - 1) (setB REG_STATUS_STATIC_ACTIVE 0 s))

/-- A quiesce of site 7 for an entry waits for its answer. -/
def quiet8 (s : State) : State := reqs [{ req0 (.quiesce 7 1) with cls := 1, port := 71 }] s

/-! ## Witnesses: states and operands that meet the hypotheses of each clause -/

/-- Every clause of `Obligations.StepKeepsPosition` has a state and operands that meet its hypotheses. -/
theorem test_StepKeepsPosition_met :
    (∃ (s t : State), step s = .next t ∧ (∀ f, s.pending.head? ≠ some (.coldReset f)) ∧ s.ruling.everSet = true) :=
  ⟨setRuling (fun r => { r with everSet := true }) r0, tick (setRuling (fun r => { r with everSet := true }) r0), (rfl), (fun _ h => by cases h), (rfl)⟩

/-- Every clause of `Obligations.StepKeepsLifeCycleState` has a state and operands that meet its hypotheses. -/
theorem test_StepKeepsLifeCycleState_met :
    (∃ (s t : State), step s = .next t ∧ (∀ f, s.pending.head? ≠ some (.coldReset f))) :=
  ⟨r0, tick r0, (rfl), (fun _ h => by cases h)⟩

/-- Every clause of `Obligations.StepKeepsStores` has a state and operands that meet its hypotheses. -/
theorem test_StepKeepsStores_met :
    (∃ (s t : State), sortedKeys s.regs = true ∧ s.mem.wf ∧ step s = .next t) :=
  ⟨{ r0 with pending := [.coldReset none] }, doColdReset none r0, (rfl), (⟨rfl, fun _ h => by cases h⟩), (rfl)⟩

/-- Every clause of `Obligations.StepKeepsOutputsAndFuses` has a state and operands that meet its hypotheses. -/
theorem test_StepKeepsOutputsAndFuses_met :
    (∃ (s t : State), step s = .next t) :=
  ⟨{ r0 with pending := [.coldReset none] }, doColdReset none r0, (rfl)⟩

/-- Every clause of `Obligations.StoppedHubRunsOnlyColdReset` has a state and operands that meet its hypotheses. -/
theorem test_StoppedHubRunsOnlyColdReset_met :
    (∃ (c : Instr) (s : State), s.power.stopped = true ∧ (∀ f, c ≠ .coldReset f)) :=
  ⟨.prochotAssert, stopped0, (by first | decide | rfl), (fun _ h => by cases h)⟩

/-- Every clause of `Obligations.GateSatisfied` has a state and operands that meet its hypotheses. -/
theorem test_GateSatisfied_met :
    (∃ (e : CalEntry) (s : State), e.gateEn = false) ∧
    (∃ (e : CalEntry) (s : State), e.gateEn = true) :=
  ⟨⟨{ cal0 with gateEn := false }, r0, (by first | decide | rfl)⟩,
   ⟨cal0, r0, (by first | decide | rfl)⟩⟩

/-- Every clause of `Obligations.RegisterReadAfterWrite` has a state and operands that meet its hypotheses. -/
theorem test_RegisterReadAfterWrite_met :
    (∃ (f g : Fld) (i j v : Nat) (s : State), i < 65536 ∧ j < 65536 ∧ f.code ≠ g.code) ∧
    (∃ (f g : Fld) (i j v : Nat) (s : State), i < 65536 ∧ j < 65536 ∧ i ≠ j) ∧
    (∃ (f g : Fld) (i j v : Nat) (s : State), i < 65536 ∧ j < 65536 ∧ sortedKeys s.regs = true) :=
  ⟨⟨CAL_CTL_ENABLE, CAL_QUOTA_MAX, 65535, 0, 2, r0, (by decide), (by decide), (by decide)⟩,
   ⟨CAL_QUOTA_MAX, CAL_QUOTA_MAX, 0, 65535, 2, r0, (by decide), (by decide), (by decide)⟩,
   ⟨CAL_QUOTA_MAX, CAL_QUOTA_MAX, 0, 65535, 2, r0, (by decide), (by decide), (by first | decide | rfl)⟩⟩

/-- Every clause of `Obligations.SegmentPosition` has a state and operands that meet its hypotheses. -/
theorem test_SegmentPosition_met :
    (∃ (g : Seg) (ref : Nat) (rate : Int), -214748 ≤ rate ∧ rate ≤ 214748 ∧ (g.rate : Int) = rate % 2 ^ 24 ∧ g.startRef ≤ ref ∧ g.kind = 0) ∧
    (∃ (g : Seg) (ref : Nat) (rate : Int), -214748 ≤ rate ∧ rate ≤ 214748 ∧ (g.rate : Int) = rate % 2 ^ 24 ∧ g.startRef ≤ ref ∧ g.kind = 1) :=
  ⟨⟨{ rate := 2 ^ 24 - 214748 }, 0, -214748, (by decide), (by decide), (by first | decide | rfl), (by decide), (by first | decide | rfl)⟩,
   ⟨{ rate := 214748, kind := 1 }, 0, 214748, (by decide), (by decide), (by first | decide | rfl), (by decide), (by first | decide | rfl)⟩⟩

/-- Every clause of `Obligations.FloatCodesRoundTrip` has a state and operands that meet its hypotheses. -/
theorem test_FloatCodesRoundTrip_met :
    (∃ f, f ∈ [fp32, bf16, fp16, e4m3, e5m2, e2m3, e3m2, e2m1] ∧ ∃ c, c ≤ f.maxCode) ∧
    (∃ w, w < 2 ^ 32 ∧ (f32 w).isNan = false) ∧
    (∃ w, w < 2 ^ 32 ∧ (f32 w).isNan = true) :=
  ⟨⟨e4m3, (by first | rfl | decide), 0x7E, (by decide)⟩,
   ⟨0x807FFFFF, (by decide), (by first | decide | rfl)⟩,
   ⟨0xFFFFFFFF, (by decide), (by first | decide | rfl)⟩⟩

/-- Every clause of `Obligations.MinMaxCompare` has a state and operands that meet its hypotheses. -/
theorem test_MinMaxCompare_met :
    (∃ (a b : Nat), a < 2 ^ 32 ∧ b < 2 ^ 32 ∧ (f32 a).isNan = false ∧ (f32 b).isNan = false) ∧
    (∃ (a b : Nat), a < 2 ^ 32 ∧ b < 2 ^ 32 ∧ ((f32 a).isNan = true ∨ (f32 b).isNan = true) ∧ ∃ cond, cond < 4) :=
  ⟨⟨0x80000000, 0xFF800000, (by decide), (by decide), (by first | decide | rfl), (by first | decide | rfl)⟩,
   ⟨0, 0xFFC00000, (by decide), (by decide), (by decide), 3, (by decide)⟩⟩

/-- Every clause of `Obligations.RegisterAccesses` has a state and operands that meet its hypotheses. -/
theorem test_RegisterAccesses_met :
    (∃ (s : State) (fn off size tag v : Nat), s.power.stopped = false ∧ let s1 := raiseWake 0x13 fn s; memSpace fn s1 = true ∧ size = 8 ∧ off % 8 = 0 ∧ off + 8 ≤ barSize fn) ∧
    (∃ (s : State) (fn off size tag v : Nat), s.power.stopped = false ∧ let s1 := raiseWake 0x13 fn s; memSpace fn s1 = true ∧ size = 4 ∧ off % 4 = 0 ∧ off + 4 ≤ barSize fn ∧ latchAt fn off s1 = none) ∧
    (∃ (s : State) (fn off size tag v : Nat), s.power.stopped = false ∧ let s1 := raiseWake 0x13 fn s; ∃ k, memSpace fn s1 = true ∧ size = 4 ∧ off % 4 = 0 ∧ off + 4 ≤ barSize fn ∧ latchAt fn off s1 = some (k, false)) ∧
    (∃ (s : State) (fn off size tag v : Nat), s.power.stopped = false ∧ let s1 := raiseWake 0x13 fn s; ∃ k, memSpace fn s1 = true ∧ size = 4 ∧ off % 4 = 0 ∧ off + 4 ≤ barSize fn ∧ latchAt fn off s1 = some (k, true)) ∧
    (∃ (s : State) (fn off size tag v : Nat), s.power.stopped = false ∧ let s1 := raiseWake 0x13 fn s; memSpace fn s1 = false) ∧
    (∃ (s : State) (fn off size tag v : Nat), s.power.stopped = false ∧ let s1 := raiseWake 0x13 fn s; memSpace fn s1 = true ∧ accessOk fn off size = false) ∧
    (∃ (s : State) (fn off size tag v : Nat), s.power.stopped = false ∧ let s1 := raiseWake 0x13 fn s; memSpace fn s1 = true ∧ off % 4 = 0 ∧ off + 4 ≤ barSize fn) ∧
    (∃ (s : State) (fn off size tag v : Nat), s.power.stopped = false ∧ let s1 := raiseWake 0x13 fn s; memSpace fn s1 = true ∧ off % 8 = 0 ∧ off + 8 ≤ barSize fn) :=
  ⟨⟨mse0, 0, 0x3FFFFF8, 8, 3, 0, (by first | decide | rfl), (by first | decide | rfl), (by rfl), (by first | decide | rfl), (by decide)⟩,
   ⟨mse0, 0, 0x3FFFFFC, 4, 3, 0, (by first | decide | rfl), (by first | decide | rfl), (by rfl), (by first | decide | rfl), (by decide), (by first | decide | rfl)⟩,
   ⟨mse0, 0, 0x100008, 4, 3, 0, (by first | decide | rfl), latchKey RULE_POS_blk 0, (by first | decide | rfl), (by rfl), (by first | decide | rfl), (by decide), (by rfl)⟩,
   ⟨latch0, 0, 0x10000C, 4, 3, 0, (by first | decide | rfl), latchKey RULE_POS_blk 0, (by first | decide | rfl), (by rfl), (by first | decide | rfl), (by decide), (by rfl)⟩,
   ⟨r0, 0, 0, 4, 3, 0, (by first | decide | rfl), (by first | decide | rfl)⟩,
   ⟨mse0, 0, 2, 4, 3, 0, (by first | decide | rfl), (by first | decide | rfl), (by first | decide | rfl)⟩,
   ⟨mse0, 0, 0x3FFFFFC, 4, 3, 0, (by first | decide | rfl), (by first | decide | rfl), (by first | decide | rfl), (by decide)⟩,
   ⟨mse0, 0, 0x3FFFFF8, 8, 3, 0, (by first | decide | rfl), (by first | decide | rfl), (by first | decide | rfl), (by decide)⟩⟩

/-- Every clause of `Obligations.RegisterAccessCodesAndCounters` has a state and operands that meet its hypotheses. -/
theorem test_RegisterAccessCodesAndCounters_met :
    (∃ (s : State) (f : Fld) (i m v : Nat), (f.acc = .ro ∨ f.acc = .wo)) ∧
    (∃ (s : State) (f : Fld) (i m v : Nat), f.acc = .rwl ∧ rdb HUB_GLOBAL_SETUP_LOCK 0 s = true) ∧
    (∃ (s : State) (f : Fld) (i m v : Nat), f.acc = .rw1c) ∧
    (∃ (s : State) (f : Fld) (i m v : Nat), f.acc = .wo) ∧
    (∃ (s : State) (f : Fld) (i m v : Nat), s.power.stopped = false ∧ offOpen 0 0x10 s = true) ∧
    (∃ (s : State) (f : Fld) (i m v : Nat), s.power.stopped = false ∧ offOpen 0 0x10 s = false) ∧
    (∃ (s : State), s.power.stopped = false ∧ ∃ u k t v, s.cnt.ovf = (u, k) :: t ∧ v = rd CNT_OVF_OVF u s ∧ k < 8 ∧ rdb CNT_SEL_OVF_IRQ (cntIx u k) (setCnt (fun c => { c with ovf := t }) (wr CNT_OVF_OVF u (if bit v k then v else v + 2 ^ k) s)) = false) ∧
    (∃ (s : State), s.power.stopped = false ∧ ∃ u k t v s1 p, s.cnt.ovf = (u, k) :: t ∧ v = rd CNT_OVF_OVF u s ∧ s1 = setCnt (fun c => { c with ovf := t }) (wr CNT_OVF_OVF u (if bit v k then v else v + 2 ^ k) s) ∧ rdb CNT_SEL_OVF_IRQ (cntIx u k) s1 = true ∧ p = sampleOf u s1) ∧
    (∃ (s : State), s.power.stopped = false ∧ s.cnt.ovf = []) ∧
    (∃ (s : State), s.power.stopped = false ∧ ∃ x t w h f, s.cnt.snaps = x :: t ∧ claimed x.base 12928 true s = true ∧ w = homePut (.agent x.fn) (x.base + 128) ((x.words.drop 16).flatMap (toBytes 8)) s ∧ h = homePut (.agent x.fn) x.base ((x.words.take 16).flatMap (toBytes 8)) w.2 ∧ (setCnt (fun c => { c with snaps := t }) h.2).cal.firings.find? (fun f => f.id == x.firing) = some f) ∧
    (∃ (s : State), s.power.stopped = false ∧ ∃ x t, s.cnt.snaps = x :: t ∧ claimed x.base 12928 true s = false) ∧
    (∃ (s : State), s.power.stopped = false ∧ s.cnt.snaps = []) :=
  ⟨⟨r0, RULE_POS_POS, 0, 0, 1, (by decide)⟩,
   ⟨setB HUB_GLOBAL_SETUP_LOCK 0 r0, CAL_GATE_LIMIT_LIMIT, 0, 1, 1, (by first | decide | rfl), (by first | decide | rfl)⟩,
   ⟨r0, PWR_RAIL_FAULT, 0, 1, 1, (by first | decide | rfl)⟩,
   ⟨r0, SITE_CTL_RESET, 0, 1, 1, (by first | decide | rfl)⟩,
   ⟨r0, RULE_POS_POS, 0, 0, 1, (by first | decide | rfl), (by first | decide | rfl)⟩,
   ⟨scrap0, RULE_POS_POS, 0, 0, 1, (by first | decide | rfl), (by first | decide | rfl)⟩,
   ⟨setCnt (fun c => { c with ovf := [(0, 7)] }) r0, (by first | decide | rfl), 0, 7, [], 0, (by rfl), (by rfl), (by decide), (by first | decide | rfl)⟩,
   ⟨ovf0, (by first | decide | rfl), 0, 7, [], 0, ovf1, sampleOf 0 ovf1, (by rfl), (by rfl), (by rfl), (by first | decide | rfl), (by rfl)⟩,
   ⟨r0, (by first | decide | rfl), (by first | decide | rfl)⟩,
   ⟨snaps0, (by first | decide | rfl), snap0, [], snapW, homePut (.agent 0) 0 [] snapW.2, firing0, (by rfl), (by first | decide | rfl), (by rfl), (by rfl), (by rfl)⟩,
   ⟨heldLine0, (by first | decide | rfl), snap0, [], (by rfl), (by first | decide | rfl)⟩,
   ⟨r0, (by first | decide | rfl), (by first | decide | rfl)⟩⟩

/-- Every clause of `Obligations.MirrorAndManagement` has a state and operands that meet its hypotheses. -/
theorem test_MirrorAndManagement_met :
    (∃ (s s1 : State), s.power.stopped = false ∧ ∃ k, takeInbox (fun k => k.opc == 0x6) s = some (k, s1)) ∧
    (∃ (s s1 : State), s.power.stopped = false ∧ ∃ k i, takeInbox (fun k => k.opc == 0x7) s = some (k, s1) ∧ primaryOf k.fn (slice k.addr 0 18) s1 = some i ∧ Status.ofCode k.status = .ok) ∧
    (∃ (s s1 : State), s.power.stopped = false ∧ ∃ k i, takeInbox (fun k => k.opc == 0x7) s = some (k, s1) ∧ primaryOf k.fn (slice k.addr 0 18) s1 = some i ∧ Status.ofCode k.status ≠ .ok) ∧
    (∃ (s s1 : State), s.power.stopped = false ∧ ∃ i m, m ∈ s.syr.mirPend ∧ m.ses = i ∧ m.at16 + us16 (1000 * rd CP_CTL_LAG_MS 0 s) ≤ now16 s) ∧
    (∃ (s s1 : State), s.power.stopped = false ∧ ∃ i, (∀ m ∈ s.syr.mirPend, m.ses = i → now16 s < m.at16 + us16 (1000 * rd CP_CTL_LAG_MS 0 s))) ∧
    (∃ (s s1 : State), s.power.stopped = false ∧ ∃ t s2 s3, s.syr.twinDownAt = some t ∧ s.syr.twinLost = false ∧ t + us16 (1000 * rd CP_CTL_DEAD_MS 0 s) ≤ now16 s ∧ s2 = setB SYR_EVENT_TWIN_LOST 0 (setSyr (fun y => { y with twinLost := true }) s) ∧ s3 = forEach ((List.range 64).filter (fun n => s2.ses.tab.any (fun p => p.2.fn == n && (p.2.mirror || p.2.state == 5 || p.2.replica)))) (fun n s => postEvent n 0x0009 0 .unreachable 0 s) s2) ∧
    (∃ (s s1 : State), s.power.stopped = false ∧ ∃ t, s.syr.twinDownAt = some t ∧ now16 s < t + us16 (1000 * rd CP_CTL_DEAD_MS 0 s)) ∧
    (∃ (s s1 : State), s.power.stopped = false ∧ s.syr.twinDownAt = none) ∧
    (∃ (s s1 : State), s.power.stopped = false ∧ ∃ g k d, runningDesc g k 0x32 s = some d ∧ (∀ p ∈ s.ses.tab, p.2.replica = true → p.2.fn ≠ slice (d.word 2) 0 6)) ∧
    (∃ (s s1 : State), s.power.stopped = false ∧ ∃ g k d p, runningDesc g k 0x32 s = some d ∧ s.ses.tab.filter (fun p => p.2.replica && p.2.fn == slice (d.word 2) 0 6) = [p]) ∧
    (∃ (s s1 : State), s.power.stopped = false ∧ ∃ k, takeInbox (fun k => k.opc == 0xA) s = some (k, s1) ∧ rdb MC_GROUP_VALID (k.addr % 256) s1 = true ∧ rdb MC_GROUP_LOCAL (k.addr % 256) s1 = false) ∧
    (∃ (s s1 : State), s.power.stopped = false ∧ ∃ k, takeInbox (fun k => k.opc == 0xA) s = some (k, s1) ∧ rdb MC_GROUP_VALID (k.addr % 256) s1 = true ∧ rdb MC_GROUP_LOCAL (k.addr % 256) s1 = true) ∧
    (∃ (s s1 : State), s.power.stopped = false ∧ ∃ k, takeInbox (fun k => k.opc == 0xA) s = some (k, s1) ∧ rdb MC_GROUP_VALID (k.addr % 256) s1 = false) ∧
    (∃ (s s1 : State), s.power.stopped = false ∧ ∃ k, takeInbox (fun k => k.opc == 0xB) s = some (k, s1)) :=
  ⟨⟨inbox (pkt 6) r0, r0, (by first | decide | rfl), pkt 6, (by rfl)⟩,
   ⟨inbox (pkt 7) mir0, mir0, (by first | decide | rfl), pkt 7, 5, (by rfl), (by rfl), (by first | decide | rfl)⟩,
   ⟨inbox { pkt 7 with status := 8 } mir0, mir0, (by first | decide | rfl), { pkt 7 with status := 8 }, 5, (by rfl), (by rfl), (by decide)⟩,
   ⟨lag0, r0, (by first | decide | rfl), 5, { ses := 5, tag := 0, at16 := 0 }, (by first | decide | rfl), (by first | decide | rfl), (by decide)⟩,
   ⟨r0, r0, (by first | decide | rfl), 5, (fun _ h => by cases h)⟩,
   ⟨down0, r0, (by first | decide | rfl), 0, _, _, (by rfl), (by first | decide | rfl), (by decide), (rfl), (rfl)⟩,
   ⟨later (us16 5000 - 1) down0, r0, (by first | decide | rfl), 0, (by rfl), (by decide)⟩,
   ⟨r0, r0, (by first | decide | rfl), (by first | decide | rfl)⟩,
   ⟨running 8191 0 [0x32] r0, r0, (by first | decide | rfl), 8191, 0, { ring := 8191, count := 0, words := [0x32], st := .started }, (by rfl), (fun _ h => by cases h)⟩,
   ⟨running 8191 0 [0x32] rep0, r0, (by first | decide | rfl), 8191, 0, { ring := 8191, count := 0, words := [0x32], st := .started }, (5, { ses0 with replica := true }), (by rfl), (by first | decide | rfl)⟩,
   ⟨inbox (pkt 0xA) (setB MC_GROUP_VALID 0 r0), setB MC_GROUP_VALID 0 r0, (by first | decide | rfl), pkt 0xA, (by rfl), (by first | decide | rfl), (by first | decide | rfl)⟩,
   ⟨inbox (pkt 0xA) (setB MC_GROUP_LOCAL 0 (setB MC_GROUP_VALID 0 r0)), _, (by first | decide | rfl), pkt 0xA, (rfl), (by first | decide | rfl), (by first | decide | rfl)⟩,
   ⟨inbox { pkt 0xA with addr := 255 } r0, r0, (by first | decide | rfl), { pkt 0xA with addr := 255 }, (by rfl), (by first | decide | rfl)⟩,
   ⟨inbox (pkt 0xB) r0, r0, (by first | decide | rfl), pkt 0xB, (by rfl)⟩⟩

/-- Every clause of `Obligations.RuleCellsAndSegments` has a state and operands that meet its hypotheses. -/
theorem test_RuleCellsAndSegments_met :
    (∃ (s : State), s.power.stopped = false ∧ ∃ (p : _) (e : _) (q : _) (cell : RuleCell), rdb SYR_PORT_UP p s = true ∧ e = exPort p s ∧ (∀ t, e.txAt = some t → t + us16 (if portLpi p s then 16 else 1) ≤ now16 s) ∧ q = wrap 8 (e.txSeq + 1) ∧ cell = { state := rd RULE_STATUS_STATE 0 s, depth := rd RULE_STATUS_DEPTH 0 s, exseq := q, txT := wrap 64 (now16 s), echo := e.rxAt.map (fun t => (e.rxSeq, wrap 32 (now16 s - t))), seg := s.ruling.seg, pend := s.ruling.pend }) ∧
    (∃ (s : State), s.power.stopped = false ∧ ∃ p t, (exPort p s).txAt = some t ∧ now16 s < t + us16 (if portLpi p s then 16 else 1)) ∧
    (∃ (s : State), s.power.stopped = false ∧ ∃ p, rdb SYR_PORT_UP p s = false) ∧
    (∃ (s : State), s.power.stopped = false ∧ ∃ (p : _) (c : RuleCell) (s1 : _), twinPort p s = s ∧ c.echo = none ∧ s1 = setEx p (fun e => { e with rxAt := some (now16 s), rxSeq := c.exseq, state := c.state, depth := c.depth, seg := c.seg, pend := c.pend, lockedAt := if c.state = 2 then some (now16 s) else e.lockedAt, t1 := if e.t2.isNone then c.txT else e.t1, t2 := if e.t2.isNone then some (now16 s) else e.t2, t3 := e.t3, slow := portLpi p s }) s ∧ disciplines p s = false) ∧
    (∃ (s : State), s.power.stopped = false ∧ ∃ (p : _) (c : RuleCell) (s1 : _), twinPort p s = s ∧ c.echo = none ∧ s1 = setEx p (fun e => { e with rxAt := some (now16 s), rxSeq := c.exseq, state := c.state, depth := c.depth, seg := c.seg, pend := c.pend, lockedAt := if c.state = 2 then some (now16 s) else e.lockedAt, t1 := if e.t2.isNone then c.txT else e.t1, t2 := if e.t2.isNone then some (now16 s) else e.t2, t3 := e.t3, slow := portLpi p s }) s ∧ disciplines p s = true ∧ c.state = 2 ∧ rd RULE_STATUS_STATE 0 s = 0) ∧
    (∃ (s : State), s.power.stopped = false ∧ ∃ (p : _) (c : RuleCell) (s1 : _), twinPort p s = s ∧ c.echo = none ∧ s1 = setEx p (fun e => { e with rxAt := some (now16 s), rxSeq := c.exseq, state := c.state, depth := c.depth, seg := c.seg, pend := c.pend, lockedAt := if c.state = 2 then some (now16 s) else e.lockedAt, t1 := if e.t2.isNone then c.txT else e.t1, t2 := if e.t2.isNone then some (now16 s) else e.t2, t3 := e.t3, slow := portLpi p s }) s ∧ disciplines p s = true ∧ c.state = 2 ∧ (rd RULE_STATUS_STATE 0 s = 1 ∨ rd RULE_STATUS_STATE 0 s = 2)) ∧
    (∃ (s : State), s.power.stopped = false ∧ ∃ (p : _) (c : RuleCell) (s1 : _), twinPort p s = s ∧ c.echo = none ∧ s1 = setEx p (fun e => { e with rxAt := some (now16 s), rxSeq := c.exseq, state := c.state, depth := c.depth, seg := c.seg, pend := c.pend, lockedAt := if c.state = 2 then some (now16 s) else e.lockedAt, t1 := if e.t2.isNone then c.txT else e.t1, t2 := if e.t2.isNone then some (now16 s) else e.t2, t3 := e.t3, slow := portLpi p s }) s ∧ disciplines p s = true ∧ c.state = 2 ∧ rd RULE_STATUS_STATE 0 s = 3) ∧
    (∃ (s : State), s.power.stopped = false ∧ ∃ (p : _) (c : RuleCell) (s1 : _), twinPort p s = s ∧ c.echo = none ∧ s1 = setEx p (fun e => { e with rxAt := some (now16 s), rxSeq := c.exseq, state := c.state, depth := c.depth, seg := c.seg, pend := c.pend, lockedAt := if c.state = 2 then some (now16 s) else e.lockedAt, t1 := if e.t2.isNone then c.txT else e.t1, t2 := if e.t2.isNone then some (now16 s) else e.t2, t3 := e.t3, slow := portLpi p s }) s ∧ disciplines p s = true ∧ c.state = 0 ∧ rd RULE_STATUS_STATE 0 s = 0) ∧
    (∃ (s : State), s.power.stopped = false ∧ ∃ (p : _) (c : RuleCell) (s1 : _) (q : _) (hold : _) (t2 : _) (t3 : _), twinPort p s = s ∧ c.echo = some (q, hold) ∧ (exPort p s).t2 = some t2 ∧ (exPort p s).t3 = some (q, t3) ∧ s1 = setEx p (fun e => { e with rxAt := some (now16 s), rxSeq := c.exseq, state := c.state, depth := c.depth, seg := c.seg, pend := c.pend, lockedAt := if c.state = 2 then some (now16 s) else e.lockedAt, t1 := c.txT, t2 := some (now16 s), t3 := none, slow := portLpi p s }) s ∧ c.state = 2 ∧ disciplines p s = false) ∧
    (∃ (s : State), s.power.stopped = false ∧ ∃ (p : _) (c : RuleCell) (s1 : _) (q : _) (hold : _) (t2 : _) (t3 : _), twinPort p s = s ∧ c.echo = some (q, hold) ∧ (exPort p s).t2 = some t2 ∧ (exPort p s).t3 = some (q, t3) ∧ s1 = setEx p (fun e => { e with rxAt := some (now16 s), rxSeq := c.exseq, state := c.state, depth := c.depth, seg := c.seg, pend := c.pend, lockedAt := if c.state = 2 then some (now16 s) else e.lockedAt, t1 := c.txT, t2 := some (now16 s), t3 := none, slow := portLpi p s }) s ∧ c.state = 2 ∧ disciplines p s = true ∧ (rd RULE_STATUS_STATE 0 s = 1 ∨ rd RULE_STATUS_STATE 0 s = 2)) ∧
    (∃ (s : State), s.power.stopped = false ∧ ∃ p, 256 ≤ (exPort p s).delayN ∧ (exPort p s).delayAt + us16 16000 ≤ now16 s) ∧
    (∃ (s : State), s.power.stopped = false ∧ ∃ p, ((exPort p s).delayN < 256 ∨ now16 s < (exPort p s).delayAt + us16 16000)) ∧
    (∃ (s : State), s.power.stopped = false ∧ ∃ (g : _) (k : _) (d : _) (x : Seg), runningDesc g k 0x30 s = some d ∧ x = { startRef := d.word 2, startPos := d.word 3, rate := wrap 24 (d.word 4), kind := slice (d.word 4) 24 2, seq := wrap 6 (s.ruling.seg.seq + 1) } ∧ x.kind ≤ 1 ∧ (x.kind = 0 → (toSigned 24 x.rate).natAbs ≤ 214748) ∧ role s = 1 ∧ segBad x s = false ∧ s.ruling.pend = none ∧ nowNs s + 2000000 ≤ x.startRef) ∧
    (∃ (s : State), s.power.stopped = false ∧ ∃ g k d, runningDesc g k 0x30 s = some d ∧ (1 < slice (d.word 4) 24 2 ∨ (slice (d.word 4) 24 2 = 0 ∧ 214748 < (toSigned 24 (wrap 24 (d.word 4))).natAbs))) ∧
    (∃ (s : State), s.power.stopped = false ∧ ∃ g k d, runningDesc g k 0x30 s = some d ∧ slice (d.word 4) 24 2 = 1 ∧ role s ≠ 1) ∧
    (∃ (s : State), s.power.stopped = false ∧ ∃ (g : _) (k : _) (d : _) (x : Seg), runningDesc g k 0x30 s = some d ∧ x = { startRef := d.word 2, startPos := d.word 3, rate := wrap 24 (d.word 4), kind := slice (d.word 4) 24 2, seq := wrap 6 (s.ruling.seg.seq + 1) } ∧ x.kind = 1 ∧ role s = 1 ∧ (x.startPos < segPos s.ruling.seg x.startRef ∨ segPos s.ruling.seg x.startRef + 2 ^ 48 < x.startPos)) ∧
    (∃ (s : State), s.power.stopped = false ∧ ∃ (x : Seg), s.ruling.pend = some x ∧ x.startRef ≤ nowNs s ∧ segPos s.ruling.seg x.startRef ≤ x.startPos ∧ x.startPos ≤ segPos s.ruling.seg x.startRef + 2 ^ 48 ∧ segPos s.ruling.seg x.startRef = x.startPos) ∧
    (∃ (s : State), s.power.stopped = false ∧ ∃ (x : Seg) (s1 : _), s.ruling.pend = some x ∧ x.startRef ≤ nowNs s ∧ segPos s.ruling.seg x.startRef < x.startPos ∧ x.startPos ≤ segPos s.ruling.seg x.startRef + 2 ^ 48 ∧ s1 = setB RULE_EVENT_SEG_APPLIED 0 (setRuling (fun r => { r with seg := x, pend := none, prev := some r.seg }) s)) ∧
    (∃ (s : State), s.power.stopped = false ∧ ∃ (x : Seg), s.ruling.pend = some x ∧ x.startRef ≤ nowNs s ∧ (x.startPos < segPos s.ruling.seg x.startRef ∨ segPos s.ruling.seg x.startRef + 2 ^ 48 < x.startPos)) ∧
    (∃ (s : State), s.power.stopped = false ∧ ∃ (x : Seg), s.ruling.pend = some x ∧ nowNs s < x.startRef) :=
  ⟨⟨setB SYR_PORT_UP 19 r0, (by first | decide | rfl), 19, _, _, _, (by first | decide | rfl), (rfl), (by decide), (rfl), (rfl)⟩,
   ⟨exp 19 { txAt := some 0 } (setB SYR_PORT_UP 19 r0), (by first | decide | rfl), 19, 0, (by rfl), (by decide)⟩,
   ⟨r0, (by first | decide | rfl), 19, (by first | decide | rfl)⟩,
   ⟨r0, (by first | decide | rfl), 18, cell0 2, _, (by first | decide | rfl), (by first | decide | rfl), (rfl), (by first | decide | rfl)⟩,
   ⟨(setB SYR_PORT_UP 19 (wr RULE_CTL_PARENT_PORT 0 19 (wr RULE_STATUS_PARENT_USED 0 19 r0))), (by first | decide | rfl), 19, cell0 2, _, (by first | decide | rfl), (by first | decide | rfl), (rfl), (by first | decide | rfl), (by first | decide | rfl), (by first | decide | rfl)⟩,
   ⟨(setB SYR_PORT_UP 19 (wr RULE_CTL_PARENT_PORT 0 19 (wr RULE_STATUS_PARENT_USED 0 19 locked0))), (by first | decide | rfl), 19, cell0 2, _, (by first | decide | rfl), (by first | decide | rfl), (rfl), (by first | decide | rfl), (by first | decide | rfl), (by decide)⟩,
   ⟨(setB SYR_PORT_UP 19 (wr RULE_CTL_PARENT_PORT 0 19 (wr RULE_STATUS_PARENT_USED 0 19 (wr RULE_STATUS_STATE 0 3 r0)))), (by first | decide | rfl), 19, cell0 2, _, (by first | decide | rfl), (by first | decide | rfl), (rfl), (by first | decide | rfl), (by first | decide | rfl), (by first | decide | rfl)⟩,
   ⟨(setB SYR_PORT_UP 19 (wr RULE_CTL_PARENT_PORT 0 19 (wr RULE_STATUS_PARENT_USED 0 19 r0))), (by first | decide | rfl), 19, cell0 0, _, (by first | decide | rfl), (by first | decide | rfl), (rfl), (by first | decide | rfl), (by first | decide | rfl), (by first | decide | rfl)⟩,
   ⟨exp 18 { t2 := some 0, t3 := some (0, 0) } r0, (by first | decide | rfl), 18, { cell0 2 with echo := some (0, 5) }, _, 0, 5, 0, 0, (by first | decide | rfl), (by rfl), (by rfl), (by rfl), (rfl), (by first | decide | rfl), (by first | decide | rfl)⟩,
   ⟨exp 19 { t2 := some 0, t3 := some (0, 0) } (setB SYR_PORT_UP 19 (wr RULE_CTL_PARENT_PORT 0 19 (wr RULE_STATUS_PARENT_USED 0 19 locked0))), (by first | decide | rfl), 19, { cell0 2 with echo := some (0, 5) }, _, 0, 5, 0, 0, (by first | decide | rfl), (by rfl), (by rfl), (by rfl), (rfl), (by first | decide | rfl), (by first | decide | rfl), (by decide)⟩,
   ⟨later (us16 16000) (exp 65535 { delayN := 256, delaySum := 256 * 65535 } r0), (by first | decide | rfl), 65535, (by decide), (by decide)⟩,
   ⟨exp 19 { delayN := 255 } r0, (by first | decide | rfl), 19, (by decide)⟩,
   ⟨running 8191 0 [0x30, 0, 2000000, 2000000 + 2 ^ 48, 214748] master0, (by first | decide | rfl), 8191, 0, ring0 8191 0 [0x30, 0, 2000000, 2000000 + 2 ^ 48, 214748], seg1, (by rfl), (by rfl), (by decide), (fun _ => by decide), (by first | decide | rfl), (by first | decide | rfl), (by first | decide | rfl), (by decide)⟩,
   ⟨running 0 0 [0x30, 0, 0, 0, 2 ^ 25] r0, (by first | decide | rfl), 0, 0, ring0 0 0 [0x30, 0, 0, 0, 2 ^ 25], (by rfl), (by decide)⟩,
   ⟨running 0 0 [0x30, 0, 0, 0, 2 ^ 24] r0, (by first | decide | rfl), 0, 0, ring0 0 0 [0x30, 0, 0, 0, 2 ^ 24], (by rfl), (by first | decide | rfl), (by decide)⟩,
   ⟨running 0 0 [0x30, 0, 1, 0, 2 ^ 24] master0, (by first | decide | rfl), 0, 0, ring0 0 0 [0x30, 0, 1, 0, 2 ^ 24], seg2, (by rfl), (by rfl), (by first | decide | rfl), (by first | decide | rfl), (by decide)⟩,
   ⟨pend {} r0, (by first | decide | rfl), {}, (by rfl), (by decide), (by decide), (by decide), (by first | decide | rfl)⟩,
   ⟨pend { startPos := 2 ^ 48 } r0, (by first | decide | rfl), { startPos := 2 ^ 48 }, _, (by rfl), (by decide), (by decide), (by decide), (rfl)⟩,
   ⟨pend { startPos := 2 ^ 48 + 1 } r0, (by first | decide | rfl), { startPos := 2 ^ 48 + 1 }, (by rfl), (by decide), (by decide)⟩,
   ⟨pend { startRef := 1 } r0, (by first | decide | rfl), { startRef := 1 }, (by rfl), (by decide)⟩⟩

/-- Every clause of `Obligations.RuleRolesAndLock` has a state and operands that meet its hypotheses. -/
theorem test_RuleRolesAndLock_met :
    (∃ (s : State), s.power.stopped = false ∧ rdb HUB_GLOBAL_SETUP_LOCK 0 s = true) ∧
    (∃ (s : State), s.power.stopped = false ∧ ∃ r p a e s1, rdb HUB_GLOBAL_SETUP_LOCK 0 s = false ∧ r < 4 ∧ p < 32 ∧ s1 = wrb RULE_CTL_ALT_EN 0 e (wr RULE_CTL_ALT_PORT 0 a (wr RULE_CTL_PARENT_PORT 0 p (wr RULE_CTL_ROLE 0 r s))) ∧ r = role s ∧ (r ≠ 0 ∨ rd RULE_CTL_PARENT_PORT 0 s = p)) ∧
    (∃ (s : State), s.power.stopped = false ∧ ∃ r p a e s1, rdb HUB_GLOBAL_SETUP_LOCK 0 s = false ∧ r < 4 ∧ p < 32 ∧ s1 = wrb RULE_CTL_ALT_EN 0 e (wr RULE_CTL_ALT_PORT 0 a (wr RULE_CTL_PARENT_PORT 0 p (wr RULE_CTL_ROLE 0 r s))) ∧ role s = 0 ∧ r = 0 ∧ rd RULE_CTL_PARENT_PORT 0 s ≠ p ∧ locked s1 = false) ∧
    (∃ (s : State), s.power.stopped = false ∧ ∃ r p a e s1, rdb HUB_GLOBAL_SETUP_LOCK 0 s = false ∧ r < 4 ∧ p < 32 ∧ s1 = wrb RULE_CTL_ALT_EN 0 e (wr RULE_CTL_ALT_PORT 0 a (wr RULE_CTL_PARENT_PORT 0 p (wr RULE_CTL_ROLE 0 r s))) ∧ role s = 0 ∧ r = 0 ∧ rd RULE_CTL_PARENT_PORT 0 s ≠ p ∧ locked s1 = true ∧ senderLocked p s1 = true) ∧
    (∃ (s : State), s.power.stopped = false ∧ ∃ r p a e s1, rdb HUB_GLOBAL_SETUP_LOCK 0 s = false ∧ r < 4 ∧ p < 32 ∧ s1 = wrb RULE_CTL_ALT_EN 0 e (wr RULE_CTL_ALT_PORT 0 a (wr RULE_CTL_PARENT_PORT 0 p (wr RULE_CTL_ROLE 0 r s))) ∧ role s = 0 ∧ r = 0 ∧ rd RULE_CTL_PARENT_PORT 0 s ≠ p ∧ locked s1 = true ∧ senderLocked p s1 = false) ∧
    (∃ (s : State), s.power.stopped = false ∧ ∃ r p a e s1, rdb HUB_GLOBAL_SETUP_LOCK 0 s = false ∧ r < 4 ∧ p < 32 ∧ s1 = wrb RULE_CTL_ALT_EN 0 e (wr RULE_CTL_ALT_PORT 0 a (wr RULE_CTL_PARENT_PORT 0 p (wr RULE_CTL_ROLE 0 r s))) ∧ r ≠ role s ∧ r = 1) ∧
    (∃ (s : State), s.power.stopped = false ∧ ∃ r p a e s1, rdb HUB_GLOBAL_SETUP_LOCK 0 s = false ∧ r < 4 ∧ p < 32 ∧ s1 = wrb RULE_CTL_ALT_EN 0 e (wr RULE_CTL_ALT_PORT 0 a (wr RULE_CTL_PARENT_PORT 0 p (wr RULE_CTL_ROLE 0 r s))) ∧ ∃ s2, r ≠ role s ∧ r ≠ 1 ∧ s2 = wr RULE_STATUS_PARENT_USED 0 (if r = 3 then 18 else p) (setRuling (fun x => { x with good := 0, bad := 0, framesGood := 0, framesBad := 0, markAt := none, rebase := true }) (if r = 0 then s1 else wr RULE_STATUS_DEPTH 0 0 s1)) ∧ locked s2 = false) ∧
    (∃ (s : State), s.power.stopped = false ∧ ∃ r p a e s1, rdb HUB_GLOBAL_SETUP_LOCK 0 s = false ∧ r < 4 ∧ p < 32 ∧ s1 = wrb RULE_CTL_ALT_EN 0 e (wr RULE_CTL_ALT_PORT 0 a (wr RULE_CTL_PARENT_PORT 0 p (wr RULE_CTL_ROLE 0 r s))) ∧ ∃ s2, r ≠ role s ∧ r ≠ 1 ∧ s2 = wr RULE_STATUS_PARENT_USED 0 (if r = 3 then 18 else p) (setRuling (fun x => { x with good := 0, bad := 0, framesGood := 0, framesBad := 0, markAt := none, rebase := true }) (if r = 0 then s1 else wr RULE_STATUS_DEPTH 0 0 s1)) ∧ ∃ s3, locked s2 = true ∧ s3 = enterUnlocked false s2) ∧
    (∃ (s : State), s.power.stopped = false ∧ role s ≠ 2) ∧
    (∃ (s : State), s.power.stopped = false ∧ ∃ f m g ref s1, role s = 2 ∧ f.preamble = 0xA5 ∧ s.ruling.markAt = some m ∧ f.crc = frameCrc f ∧ g = { startRef := f.segStartRef, startPos := f.segStartPos, rate := f.segRate, kind := slice f.segSeqKind 0 2, seq := slice f.segSeqKind 2 6 } ∧ ref = f.refAtMark * 16 + (now16 s - m) + rd RULE_PIN_DELAY_DELAY 0 s ∧ s1 = setRuling (fun r => { r with framesGood := r.framesGood + 1, framesBad := 0, markAt := none }) s ∧ ∃ t, rd RULE_STATUS_STATE 0 s = 0 ∧ g.startRef ≤ nowNs s ∧ t = firstReference g none ref s1) ∧
    (∃ (s : State), s.power.stopped = false ∧ ∃ f m g ref s1, role s = 2 ∧ f.preamble = 0xA5 ∧ s.ruling.markAt = some m ∧ f.crc = frameCrc f ∧ g = { startRef := f.segStartRef, startPos := f.segStartPos, rate := f.segRate, kind := slice f.segSeqKind 0 2, seq := slice f.segSeqKind 2 6 } ∧ ref = f.refAtMark * 16 + (now16 s - m) + rd RULE_PIN_DELAY_DELAY 0 s ∧ s1 = setRuling (fun r => { r with framesGood := r.framesGood + 1, framesBad := 0, markAt := none }) s ∧ ∃ t, rd RULE_STATUS_STATE 0 s = 0 ∧ nowNs s < g.startRef ∧ t = firstReference {} (some g) ref s1) ∧
    (∃ (s : State), s.power.stopped = false ∧ ∃ f m g ref s1, role s = 2 ∧ f.preamble = 0xA5 ∧ s.ruling.markAt = some m ∧ f.crc = frameCrc f ∧ g = { startRef := f.segStartRef, startPos := f.segStartPos, rate := f.segRate, kind := slice f.segSeqKind 0 2, seq := slice f.segSeqKind 2 6 } ∧ ref = f.refAtMark * 16 + (now16 s - m) + rd RULE_PIN_DELAY_DELAY 0 s ∧ s1 = setRuling (fun r => { r with framesGood := r.framesGood + 1, framesBad := 0, markAt := none }) s ∧ ∃ s2 s3 t, rd RULE_STATUS_STATE 0 s ≠ 0 ∧ s2 = (if (now16 s : Int) - (ref : Int) < -16 ∧ locked s = false then moveRef ref (setRuling (fun r => { r with corr := 0 }) s1) else setRuling (fun r => { r with corr := (now16 s : Int) - (ref : Int) }) s1) ∧ s3 = (if nowNs s < g.startRef then takeSegs s2.ruling.seg (some g) s2 else takeSegs g none s2) ∧ t = (if rd RULE_STATUS_STATE 0 s = 3 then setLock 1 s3 else s3)) ∧
    (∃ (s : State), s.power.stopped = false ∧ ∃ f m, role s = 2 ∧ f.preamble = 0xA5 ∧ s.ruling.markAt = some m ∧ f.crc ≠ frameCrc f ∧ rd RULE_STATUS_STATE 0 s ≠ 2) ∧
    (∃ (s : State), s.power.stopped = false ∧ (s.ruling.markAt = none ∨ role s ≠ 2)) ∧
    (∃ (s : State), s.power.stopped = false ∧ locked s = true ∧ role s = 0 ∧ silentFor (exPort (rd RULE_STATUS_PARENT_USED 0 s) s).rxAt (silence (rd RULE_STATUS_PARENT_USED 0 s) s) s = true ∧ altUsable s = true) ∧
    (∃ (s : State), s.power.stopped = false ∧ altUsable s = false) ∧
    (∃ (s : State), s.power.stopped = false ∧ locked s = true ∧ 16 ≤ s.ruling.bad) ∧
    (∃ (s : State), s.power.stopped = false ∧ locked s = true ∧ role s = 0 ∧ (∀ q, q = rd RULE_CTL_PARENT_PORT 0 s ∨ q = rd RULE_STATUS_PARENT_USED 0 s ∨ (q = rd RULE_CTL_ALT_PORT 0 s ∧ rdb RULE_CTL_ALT_EN 0 s = true) → silentFor (exPort q s).lockedAt (lockSilence q s) s = true)) ∧
    (∃ (s : State), s.power.stopped = false ∧ locked s = false) ∧
    (∃ (s : State), s.power.stopped = false ∧ role s = 1) ∧
    (∃ (s : State), s.power.stopped = false ∧ role s = 2 ∧ rd RULE_STATUS_STATE 0 s = 2) ∧
    (∃ (s : State), s.power.stopped = false ∧ s.ruling.holding = true ∧ pos s ≤ rootPos s) ∧
    (∃ (s : State), s.power.stopped = false ∧ (s.ruling.holding = false ∨ rootPos s < pos s)) :=
  ⟨⟨setB HUB_GLOBAL_SETUP_LOCK 0 r0, (by first | decide | rfl), (by first | decide | rfl)⟩,
   ⟨wr RULE_CTL_ROLE 0 3 r0, (by first | decide | rfl), 3, 31, 0, false, _, (by first | decide | rfl), (by decide), (by decide), (rfl), (by rfl), (by decide)⟩,
   ⟨r0, (by first | decide | rfl), 0, 31, 0, false, _, (by first | decide | rfl), (by decide), (by decide), (rfl), (by first | decide | rfl), (by rfl), (by decide), (by first | decide | rfl)⟩,
   ⟨exp 19 { state := 2, rxAt := some 0 } (setB SYR_PORT_UP 19 locked0), (by first | decide | rfl), 0, 19, 0, false, _, (by first | decide | rfl), (by decide), (by decide), (rfl), (by first | decide | rfl), (by rfl), (by decide), (by first | decide | rfl), (by first | decide | rfl)⟩,
   ⟨locked0, (by first | decide | rfl), 0, 31, 0, false, _, (by first | decide | rfl), (by decide), (by decide), (rfl), (by first | decide | rfl), (by rfl), (by decide), (by first | decide | rfl), (by first | decide | rfl)⟩,
   ⟨r0, (by first | decide | rfl), 1, 31, 0, false, _, (by first | decide | rfl), (by decide), (by decide), (rfl), (by decide), (by rfl)⟩,
   ⟨r0, (by first | decide | rfl), 3, 31, 0, false, _, (by first | decide | rfl), (by decide), (by decide), (rfl), _, (by decide), (by decide), (rfl), (by first | decide | rfl)⟩,
   ⟨locked0, (by first | decide | rfl), 3, 31, 0, false, _, (by first | decide | rfl), (by decide), (by decide), (rfl), _, (by decide), (by decide), (rfl), _, (by first | decide | rfl), (rfl)⟩,
   ⟨r0, (by first | decide | rfl), (by decide)⟩,
   ⟨root0 r0, (by first | decide | rfl), frame1 0, 0, _, _, _, (by first | decide | rfl), (by first | decide | rfl), (by rfl), (by first | decide | rfl), (rfl), (rfl), (rfl), _, (by first | decide | rfl), (by decide), (rfl)⟩,
   ⟨root0 r0, (by first | decide | rfl), frame1 1, 0, _, _, _, (by first | decide | rfl), (by first | decide | rfl), (by rfl), (by first | decide | rfl), (rfl), (rfl), (rfl), _, (by first | decide | rfl), (by decide), (rfl)⟩,
   ⟨root0 locked0, (by first | decide | rfl), frame1 0, 0, _, _, _, (by first | decide | rfl), (by first | decide | rfl), (by rfl), (by first | decide | rfl), (rfl), (rfl), (rfl), _, _, _, (by decide), (rfl), (rfl), (rfl)⟩,
   ⟨root0 r0, (by first | decide | rfl), { frame0 with preamble := 0xA5 }, 0, (by first | decide | rfl), (by first | decide | rfl), (by rfl), (by decide), (by decide)⟩,
   ⟨r0, (by first | decide | rfl), (by decide)⟩,
   ⟨exp 1 { state := 2, rxAt := some 0 } (wr RULE_CTL_ALT_PORT 0 1 (setB RULE_CTL_ALT_EN 0 locked0)), (by first | decide | rfl), (by first | decide | rfl), (by first | decide | rfl), (by first | decide | rfl), (by first | decide | rfl)⟩,
   ⟨r0, (by first | decide | rfl), (by first | decide | rfl)⟩,
   ⟨setRuling (fun r => { r with bad := 16 }) locked0, (by first | decide | rfl), (by first | decide | rfl), (by decide)⟩,
   ⟨later (us16 8) (setB SYR_PORT_UP 19 locked0), (by first | decide | rfl), (by first | decide | rfl), (by first | decide | rfl), (by intro q _; exact rfl)⟩,
   ⟨r0, (by first | decide | rfl), (by first | decide | rfl)⟩,
   ⟨master0, (by first | decide | rfl), (by first | decide | rfl)⟩,
   ⟨wr RULE_CTL_ROLE 0 2 locked0, (by first | decide | rfl), (by first | decide | rfl), (by first | decide | rfl)⟩,
   ⟨setRuling (fun r => { r with holding := true }) r0, (by first | decide | rfl), (by first | decide | rfl), (by decide)⟩,
   ⟨r0, (by first | decide | rfl), (by decide)⟩⟩

/-- Every clause of `Obligations.CalendarCommands` has a state and operands that meet its hypotheses. -/
theorem test_CalendarCommands_met :
    (∃ (s : State), s.power.stopped = false ∧ ∃ g k d, runningDesc g k 0x20 s = some d ∧ let w := [d.word 2, d.word 3, d.word 4, d.word 5]; armStatus (ringFn g) w s = .ok) ∧
    (∃ (s : State), s.power.stopped = false ∧ ∃ g k d, runningDesc g k 0x20 s = some d ∧ let w := [d.word 2, d.word 3, d.word 4, d.word 5]; armStatus (ringFn g) w s ≠ .ok) ∧
    (∃ (s : State), s.power.stopped = false ∧ ∃ w, armStatus 0 w s = .ok) ∧
    (∃ (s : State), s.power.stopped = false ∧ ∃ w, armStatus 0 w s ≠ .ok) ∧
    (∃ (s : State), s.power.stopped = false ∧ ∃ (g : _) (k : _) (d : _) (e : CalEntry), runningDesc g k 0x21 s = some d ∧ calEntry (slice (d.word 6) 0 13) s = some e ∧ e.fn = (calOfWords [d.word 2, d.word 3, d.word 4, d.word 5]).fn ∧ e.tag = (calOfWords [d.word 2, d.word 3, d.word 4, d.word 5]).tag ∧ (ringFn g = 0 ∨ e.fn = ringFn g)) ∧
    (∃ (s : State), s.power.stopped = false ∧ ∃ g k d, runningDesc g k 0x21 s = some d ∧ calEntry (slice (d.word 6) 0 13) s = none) ∧
    (∃ (s : State), s.power.stopped = false ∧ ∃ (g : _) (k : _) (d : _) (e : CalEntry), runningDesc g k 0x21 s = some d ∧ calEntry (slice (d.word 6) 0 13) s = some e ∧ (e.fn ≠ (calOfWords [d.word 2, d.word 3, d.word 4, d.word 5]).fn ∨ e.tag ≠ (calOfWords [d.word 2, d.word 3, d.word 4, d.word 5]).tag ∨ (ringFn g ≠ 0 ∧ e.fn ≠ ringFn g))) ∧
    (∃ (s : State), s.power.stopped = false ∧ ∃ (w : _) (i : _) (e : CalEntry), calEntry i s = some e ∧ e.fn = (calOfWords w).fn ∧ e.tag = (calOfWords w).tag) ∧
    (∃ (s : State), s.power.stopped = false ∧ ∃ i, calEntry i s = none) ∧
    (∃ (s : State), s.power.stopped = false ∧ ∃ (i : _) (e : CalEntry) (late : _) (f : Firing) (s1 : _), calEntry i s = some e ∧ canFire e s = true ∧ turnOf i e s = true ∧ late = lateNow e s ∧ f = { id := s.cal.nextId, entry := i, fn := e.fn, tag := e.tag, index := e.firing, notify := e.notify, pos := pos s, status := if late then .late else .ok, action := e.action, arg := e.arg, lateness := pos s - e.mark, counted := late } ∧ s1 = (if late then countLate e.fn (pos s - e.mark) (count ctlUnit 0xC3 (some e.fn) 1 (count ctlUnit 0xC2 (some e.fn) 1 s)) else count ctlUnit 0xC2 (some e.fn) 1 s)) ∧
    (∃ (s : State), s.power.stopped = false ∧ ∃ (i : _) (e : CalEntry), calEntry i s = some e ∧ (e.dueAt = none ∨ gateOpen e s = false ∨ e.gateMiss = true ∨ calHeld e s = true)) ∧
    (∃ (s : State), s.power.stopped = false ∧ ∃ (i : _) (e : CalEntry), calEntry i s = some e ∧ turnOf i e s = false) ∧
    (∃ (s : State), s.power.stopped = false ∧ ∃ (i : _) (e : CalEntry), calEntry i s = some e ∧ e.dueAt ≠ none ∧ (e.gateMiss = true ∨ (gateOpen e s = false ∧ e.mark + rd CAL_GATE_LIMIT_LIMIT 0 s ≤ pos s))) ∧
    (∃ (s : State), s.power.stopped = false ∧ ∃ (i : _) (e : CalEntry), calEntry i s = some e ∧ e.gateMiss = false ∧ (gateOpen e s = true ∨ pos s < e.mark + rd CAL_GATE_LIMIT_LIMIT 0 s)) ∧
    (∃ (s : State), s.power.stopped = false ∧ ∃ g v, g < 1024 ∧ v < 2 ^ 32) ∧
    (∃ (s : State), s.power.stopped = false ∧ ∃ g, 1024 ≤ g) ∧
    (∃ (s : State), s.power.stopped = false ∧ ∃ i, s.power.entry = none ∧ pwrState s = 1 ∧ exitEntry 1 s = some i) ∧
    (∃ (s : State), s.power.stopped = false ∧ ∃ t i, (s.power.entry = none ∧ pwrState s = t ∨ ∃ e, s.power.entry = some e ∧ e.target = t) ∧ t ≠ 0 ∧ pwrState s ≠ 1 ∧ exitEntry t s = some i) ∧
    (∃ (s : State), s.power.stopped = false ∧ s.power.entry = none ∧ pwrState s = 0) :=
  ⟨⟨running 127 0 [0x20, 0, 0, 3, 0, 0] free1, (by first | decide | rfl), 127, 0, ring0 127 0 [0x20, 0, 0, 3, 0, 0], (by rfl), (by first | decide | rfl)⟩,
   ⟨running 127 0 [0x20, 0, 0, 3, 0, 0] r0, (by first | decide | rfl), 127, 0, ring0 127 0 [0x20, 0, 0, 3, 0, 0], (by rfl), (by decide)⟩,
   ⟨free1, (by first | decide | rfl), [0, 3, 0, 0], (by first | decide | rfl)⟩,
   ⟨r0, (by first | decide | rfl), [0, 3, 0, 0], (by decide)⟩,
   ⟨running 127 0 [0x21, 0, 0, 0, 0, 0, 8191] (armed 8191 cal0 r0), (by first | decide | rfl), 127, 0, ring0 127 0 [0x21, 0, 0, 0, 0, 0, 8191], cal0, (by rfl), (by rfl), (by first | decide | rfl), (by first | decide | rfl), (by decide)⟩,
   ⟨running 127 0 [0x21, 0, 0, 0, 0, 0, 8191] r0, (by first | decide | rfl), 127, 0, ring0 127 0 [0x21, 0, 0, 0, 0, 0, 8191], (by rfl), (by first | decide | rfl)⟩,
   ⟨running 127 0 [0x21, 0, 0, 0, 0, 0, 8191] (armed 8191 { cal0 with tag := 1 } r0), (by first | decide | rfl), 127, 0, ring0 127 0 [0x21, 0, 0, 0, 0, 0, 8191], { cal0 with tag := 1 }, (by rfl), (by rfl), (by decide)⟩,
   ⟨armed 8191 cal0 r0, (by first | decide | rfl), [], 8191, cal0, (by rfl), (by first | decide | rfl), (by first | decide | rfl)⟩,
   ⟨r0, (by first | decide | rfl), 8191, (by first | decide | rfl)⟩,
   ⟨armed 8191 cal1 locked0, (by first | decide | rfl), 8191, cal1, false, _, _, (by rfl), (by first | decide | rfl), (by first | decide | rfl), (by rfl), (rfl), (rfl)⟩,
   ⟨armed 8191 cal0 r0, (by first | decide | rfl), 8191, cal0, (by rfl), (by decide)⟩,
   ⟨armed 0 cal1 (armed 1 { cal1 with mark := 1 } locked0), (by first | decide | rfl), 1, { cal1 with mark := 1 }, (by rfl), (by first | decide | rfl)⟩,
   ⟨setRuling (fun r => { r with pos := 10000000 }) (armed 8191 { cal0 with thresh := 1, dueAt := some 0 } r0), (by first | decide | rfl), 8191, { cal0 with thresh := 1, dueAt := some 0 }, (by rfl), (by decide), (by decide)⟩,
   ⟨setRuling (fun r => { r with pos := 9999999 }) (armed 8191 cal0 r0), (by first | decide | rfl), 8191, cal0, (by rfl), (by first | decide | rfl), (by decide)⟩,
   ⟨r0, (by first | decide | rfl), 1023, 2 ^ 32 - 1, (by decide), (by decide)⟩,
   ⟨r0, (by first | decide | rfl), 1024, (by decide)⟩,
   ⟨armed 8191 cal0 (wr PWR_STATUS_STATE 0 1 r0), (by first | decide | rfl), 8191, (by first | decide | rfl), (by first | decide | rfl), (by rfl)⟩,
   ⟨armed 8191 cal0 (wr PWR_STATUS_STATE 0 3 r0), (by first | decide | rfl), 3, 8191, (.inl ⟨rfl, rfl⟩), (by decide), (by decide), (by rfl)⟩,
   ⟨r0, (by first | decide | rfl), (by first | decide | rfl), (by first | decide | rfl)⟩⟩

/-- Every clause of `Obligations.GraverLoadLaunch` has a state and operands that meet its hypotheses. -/
theorem test_GraverLoadLaunch_met :
    (∃ (s : State) (g k : Nat) (d : Desc), s.power.stopped = false ∧ runningDesc g k 0x09 s = some d ∧ workKnown (slice (d.word 3) 0 6) g k s = false ∧ graverRefusal (ringFn g) (slice (d.word 3) 0 6) true (d.word 2 % 128 != 0) s = .ok) ∧
    (∃ (s : State) (g k : Nat) (d : Desc), s.power.stopped = false ∧ ∃ st, runningDesc g k 0x09 s = some d ∧ workKnown (slice (d.word 3) 0 6) g k s = false ∧ graverRefusal (ringFn g) (slice (d.word 3) 0 6) true (d.word 2 % 128 != 0) s = st ∧ st ≠ .ok) ∧
    (∃ (s : State) (g k : Nat) (d : Desc), s.power.stopped = false ∧ ∃ t n m b s1, runningDesc g k 0x08 s = some d ∧ descOf g k s = some d ∧ t = slice (d.word 3) 20 6 ∧ n = slice (d.word 3) 0 12 ∧ m = slice (d.word 3) 12 8 ∧ (grv t s).queue = [{ kind := 0, fn := ringFn g, g := g, k := k, ring := g }] ∧ (grv t s).run = none ∧ claimed (d.word 2) (16 * (n + m)) false s = true ∧ homeGet (.agent (ringFn g) t) (d.word 2) (16 * (n + m)) (setGrv t (fun e => { e with queue := [] }) s) = (.ok, b, s1) ∧ ((entriesOf b).take n).any instrBad = false ∧ ((entriesOf b).drop n).any (fun v => decide (v / 2 ^ 96 ≠ 0)) = false) :=
  ⟨⟨running 127 5 [9, 0, 0, 63] own0, 127, 5, ring0 127 5 [9, 0, 0, 63], (by first | decide | rfl), (by rfl), (by first | decide | rfl), (by first | decide | rfl)⟩,
   ⟨running 127 5 [9, 0, 0, 63] r0, 127, 5, ring0 127 5 [9, 0, 0, 63], (by first | decide | rfl), .accessDenied, (by rfl), (by first | decide | rfl), (by first | decide | rfl), (by decide)⟩,
   ⟨queue63 (work0 0) load0, 127, 5, ring0 127 5 [8, 0, 0, 63 * 2 ^ 20], (by first | decide | rfl), 63, 0, 0, [], setGrv 63 (fun e => { e with queue := [] }) (queue63 (work0 0) load0), (by rfl), (by rfl), (by rfl), (by rfl), (by rfl), (by first | decide | rfl), (by first | decide | rfl), (by first | decide | rfl), (by first | decide | rfl), (by first | decide | rfl), (by decide)⟩⟩

/-- Every clause of `Obligations.GraverInstructions` has a state and operands that meet its hypotheses. -/
theorem test_GraverInstructions_met :
    (∃ (s : State) (t w : Nat) (r : GRun) (a b d : Int) (c : Instr) (o : Nat), s.power.stopped = false ∧ (c, o) ∈ plainInstrs t ∧ (grv t s).run = some r ∧ r.ended = false ∧ r.blk.isEmpty = false ∧ w = instrOf t r.x s ∧ iOpc w = o ∧ a = effAddr (grv t s) (iAAddr w) (iAStep w) (seenIdx r.blk r.x r.idx) ∧ b = effAddr (grv t s) (iBAddr w) (iBStep w) (seenIdx r.blk r.x r.idx) ∧ d = effAddr (grv t s) (iDAddr w) (iDStep w) (seenIdx r.blk r.x r.idx) ∧ holds r (reads w a b ++ writes w d) = true) ∧
    (∃ (s : State) (t w : Nat) (r : GRun) (a b d : Int) (c : Instr) (o : Nat), s.power.stopped = false ∧ (c, o) ∈ plainInstrs t ∧ (grv t s).run = some r ∧ r.ended = false ∧ r.blk.isEmpty = false ∧ w = instrOf t r.x s ∧ iOpc w = o ∧ a = effAddr (grv t s) (iAAddr w) (iAStep w) (seenIdx r.blk r.x r.idx) ∧ b = effAddr (grv t s) (iBAddr w) (iBStep w) (seenIdx r.blk r.x r.idx) ∧ d = effAddr (grv t s) (iDAddr w) (iDStep w) (seenIdx r.blk r.x r.idx) ∧ holds r (reads w a b ++ writes w d) = false) :=
  ⟨⟨eng0 0 .engine, 63, 0, run0 .engine, 0, 0, 0, .graverNop 63, 0, (by first | decide | rfl), (by first | decide | rfl), (by rfl), (by first | decide | rfl), (by first | decide | rfl), (by rfl), (by first | decide | rfl), (by rfl), (by rfl), (by rfl), (by first | decide | rfl)⟩,
   ⟨eng0 1 .loading, 63, 1, run0 .loading, 0, 0, 0, .fma 63, 1, (by first | decide | rfl), (by first | decide | rfl), (by rfl), (by first | decide | rfl), (by first | decide | rfl), (by rfl), (by first | decide | rfl), (by rfl), (by rfl), (by rfl), (by first | decide | rfl)⟩⟩

/-- Every clause of `Obligations.GraverPanelsAndLaunchEnd` has a state and operands that meet its hypotheses. -/
theorem test_GraverPanelsAndLaunchEnd_met :
    (∃ (s : State) (t w : Nat) (r : GRun) (a : Int), s.power.stopped = false ∧ (grv t s).run = some r ∧ r.ended = false ∧ r.blk.isEmpty = false ∧ w = instrOf t r.x s ∧ a = effAddr (grv t s) (iAAddr w) (iAStep w) (seenIdx r.blk r.x r.idx) ∧ iOpc w = 0x10 ∧ (nth {} r.bufs (a.toNat / 0x8000)).st = .ready) ∧
    (∃ (s : State) (t w : Nat) (r : GRun) (a : Int), s.power.stopped = false ∧ (grv t s).run = some r ∧ r.ended = false ∧ r.blk.isEmpty = false ∧ w = instrOf t r.x s ∧ a = effAddr (grv t s) (iAAddr w) (iAStep w) (seenIdx r.blk r.x r.idx) ∧ iOpc w = 0x10 ∧ (nth {} r.bufs (a.toNat / 0x8000)).st = .loading) ∧
    (∃ (s : State) (t w : Nat) (r : GRun) (a : Int), s.power.stopped = false ∧ (grv t s).run = some r ∧ r.ended = false ∧ r.blk.isEmpty = false ∧ w = instrOf t r.x s ∧ a = effAddr (grv t s) (iAAddr w) (iAStep w) (seenIdx r.blk r.x r.idx) ∧ ∃ st, iOpc w = 0x10 ∧ (nth {} r.bufs (a.toNat / 0x8000)).st = .failed st) ∧
    (∃ (s : State) (t w : Nat) (r : GRun) (a : Int), s.power.stopped = false ∧ (grv t s).run = some r ∧ r.ended = false ∧ r.blk.isEmpty = false ∧ w = instrOf t r.x s ∧ a = effAddr (grv t s) (iAAddr w) (iAStep w) (seenIdx r.blk r.x r.idx) ∧ iOpc w = 0x11 ∧ (nth {} r.bufs (a.toNat / 0x8000)).st = .engine) ∧
    (∃ (s : State) (t w : Nat) (r : GRun) (a : Int), s.power.stopped = false ∧ (grv t s).run = some r ∧ r.ended = false ∧ r.blk.isEmpty = false ∧ w = instrOf t r.x s ∧ a = effAddr (grv t s) (iAAddr w) (iAStep w) (seenIdx r.blk r.x r.idx) ∧ iOpc w = 0x11 ∧ (nth {} r.bufs (a.toNat / 0x8000)).st ≠ .engine) ∧
    (∃ (s : State) (t w : Nat) (r : GRun) (a : Int), s.power.stopped = false ∧ (grv t s).run = some r ∧ r.ended = false ∧ r.blk.isEmpty = false ∧ w = instrOf t r.x s ∧ a = effAddr (grv t s) (iAAddr w) (iAStep w) (seenIdx r.blk r.x r.idx) ∧ ∃ b x e, bufAt t b s = some x ∧ x.st = .loading ∧ x.entries[x.k]? = some e ∧ entryBad e = false ∧ peKind e = 0) ∧
    (∃ (s : State) (t w : Nat) (r : GRun) (a : Int), s.power.stopped = false ∧ (grv t s).run = some r ∧ r.ended = false ∧ r.blk.isEmpty = false ∧ w = instrOf t r.x s ∧ a = effAddr (grv t s) (iAAddr w) (iAStep w) (seenIdx r.blk r.x r.idx) ∧ ∃ b x e p s1, bufAt t b s = some x ∧ x.st = .loading ∧ x.entries[x.k]? = some e ∧ entryBad e = false ∧ peKind e ≠ 0 ∧ peKind e ≠ 1 ∧ claimed (gatherClaims e).1 (gatherClaims e).2 false s = true ∧ gather r.work.fn t (r.work.kind == 2) false e s = (p, s1)) ∧
    (∃ (s : State) (t w : Nat) (r : GRun) (a : Int), s.power.stopped = false ∧ (grv t s).run = some r ∧ r.ended = false ∧ r.blk.isEmpty = false ∧ w = instrOf t r.x s ∧ a = effAddr (grv t s) (iAAddr w) (iAStep w) (seenIdx r.blk r.x r.idx) ∧ ∃ (b : _) (x : _) (e : _) (j : _) (z : _) (p : Panel), bufAt t b s = some x ∧ x.st = .loading ∧ x.entries[x.k]? = some e ∧ entryBad e = false ∧ peKind e = 1 ∧ x.job = some j ∧ jobOf j (advanceJob j s) = some z ∧ z.ended = true ∧ p.st = z.status ∧ p.data = (if z.status.good then (chunks 1024 129 z.image).zipIdx.map (fun q => (1024 * q.2, q.1)) else []) ∧ p.scales = []) ∧
    (∃ (s : State) (t w : Nat) (r : GRun) (a : Int), s.power.stopped = false ∧ (grv t s).run = some r ∧ r.ended = false ∧ r.blk.isEmpty = false ∧ w = instrOf t r.x s ∧ a = effAddr (grv t s) (iAAddr w) (iAStep w) (seenIdx r.blk r.x r.idx) ∧ ∃ b x l j z, bufAt t b s = some x ∧ x.st = .draining l ∧ x.job = some j ∧ jobOf j (advanceJob j s) = some z ∧ z.ended = true ∧ z.status.good = true) ∧
    (∃ (s : State) (t : Nat), s.power.stopped = false ∧ ∃ r, (grv t s).run = some r ∧ r.ended = true ∧ drained r = true ∧ r.work.kind = 1) ∧
    (∃ (s : State) (t : Nat), s.power.stopped = false ∧ ∃ r, (grv t s).run = some r ∧ r.ended = false ∧ rd GRV_LIMIT_LIMIT t s ≠ 0 ∧ us16 (rd GRV_LIMIT_LIMIT t s) < now16 s - r.startAt - r.paused) ∧
    (∃ (s : State) (t : Nat), s.power.stopped = false ∧ ∃ w rest, (grv t s).run = none ∧ tileServes t s = true ∧ (grv t s).queue = w :: rest ∧ w.kind = 0) ∧
    (∃ (s : State) (t : Nat), s.power.stopped = false ∧ ∃ w rest, (grv t s).run = none ∧ tileServes t s = true ∧ (grv t s).queue = w :: rest ∧ w.kind = 1) ∧
    (∃ (s : State) (t : Nat), s.power.stopped = false ∧ ∃ w rest, (grv t s).run = none ∧ tileServes t s = true ∧ (grv t s).queue = w :: rest ∧ w.kind = 2) :=
  ⟨⟨eng0 0x10 .ready, 63, 0x10, run0 .ready, 0, (by first | decide | rfl), (by rfl), (by first | decide | rfl), (by first | decide | rfl), (by rfl), (by rfl), (by first | decide | rfl), (by first | decide | rfl)⟩,
   ⟨eng0 0x10 .loading, 63, 0x10, run0 .loading, 0, (by first | decide | rfl), (by rfl), (by first | decide | rfl), (by first | decide | rfl), (by rfl), (by rfl), (by first | decide | rfl), (by first | decide | rfl)⟩,
   ⟨eng0 0x10 (.failed .timeout), 63, 0x10, run0 (.failed .timeout), 0, (by first | decide | rfl), (by rfl), (by first | decide | rfl), (by first | decide | rfl), (by rfl), (by rfl), .timeout, (by first | decide | rfl), (by first | decide | rfl)⟩,
   ⟨eng0 0x11 .engine, 63, 0x11, run0 .engine, 0, (by first | decide | rfl), (by rfl), (by first | decide | rfl), (by first | decide | rfl), (by rfl), (by rfl), (by first | decide | rfl), (by first | decide | rfl)⟩,
   ⟨eng0 0x11 .gone, 63, 0x11, run0 .gone, 0, (by first | decide | rfl), (by rfl), (by first | decide | rfl), (by first | decide | rfl), (by rfl), (by rfl), (by first | decide | rfl), (by decide)⟩,
   ⟨engBuf { entries := [[0, 0, 0, 0]], st := .loading }, 63, 0, buf0 { entries := [[0, 0, 0, 0]], st := .loading }, 0, (by first | decide | rfl), (by rfl), (by first | decide | rfl), (by first | decide | rfl), (by rfl), (by rfl), 0, { entries := [[0, 0, 0, 0]], st := .loading }, [0, 0, 0, 0], (by rfl), (by first | decide | rfl), (by rfl), (by first | decide | rfl), (by first | decide | rfl)⟩,
   ⟨engBuf { entries := [[6, 0, 0, 0]], st := .loading }, 63, 0, buf0 { entries := [[6, 0, 0, 0]], st := .loading }, 0, (by first | decide | rfl), (by rfl), (by first | decide | rfl), (by first | decide | rfl), (by rfl), (by rfl), 0, { entries := [[6, 0, 0, 0]], st := .loading }, [6, 0, 0, 0], { st := .accessDenied }, engBuf { entries := [[6, 0, 0, 0]], st := .loading }, (by rfl), (by first | decide | rfl), (by rfl), (by first | decide | rfl), (by decide), (by decide), (by first | decide | rfl), (by first | decide | rfl)⟩,
   ⟨{ engBuf { entries := [[1, 0, 0, 0]], st := .loading, job := some 2 } with xlat := { jobs := [(2, load1)] } }, 63, 0, buf0 { entries := [[1, 0, 0, 0]], st := .loading, job := some 2 }, 0, (by first | decide | rfl), (by rfl), (by first | decide | rfl), (by first | decide | rfl), (by rfl), (by rfl), 0, { entries := [[1, 0, 0, 0]], st := .loading, job := some 2 }, [1, 0, 0, 0], 2, load1, { st := .ok, data := (chunks 1024 129 []).zipIdx.map (fun q => (1024 * q.2, q.1)) }, (by rfl), (by first | decide | rfl), (by rfl), (by first | decide | rfl), (by first | decide | rfl), (by rfl), (by rfl), (by first | decide | rfl), (by first | decide | rfl), (by first | decide | rfl), (by first | decide | rfl)⟩,
   ⟨{ engBuf { st := .draining 1, job := some 2 } with xlat := { jobs := [(2, drain0)] } }, 63, 0, buf0 { st := .draining 1, job := some 2 }, 0, (by first | decide | rfl), (by rfl), (by first | decide | rfl), (by first | decide | rfl), (by rfl), (by rfl), 0, { st := .draining 1, job := some 2 }, 1, 2, drain0, (by rfl), (by first | decide | rfl), (by rfl), (by rfl), (by first | decide | rfl), (by first | decide | rfl)⟩,
   ⟨engRun { run0 .engine with ended := true } r0, 63, (by first | decide | rfl), { run0 .engine with ended := true }, (by rfl), (by first | decide | rfl), (by first | decide | rfl), (by first | decide | rfl)⟩,
   ⟨engRun (run0 .engine) (later (us16 50000 + 1) r0), 63, (by first | decide | rfl), run0 .engine, (by rfl), (by first | decide | rfl), (by decide), (by decide)⟩,
   ⟨queue63 (work0 0) r0, 63, (by first | decide | rfl), work0 0, [], (by first | decide | rfl), (by first | decide | rfl), (by rfl), (by first | decide | rfl)⟩,
   ⟨queue63 (work0 1) r0, 63, (by first | decide | rfl), work0 1, [], (by first | decide | rfl), (by first | decide | rfl), (by rfl), (by first | decide | rfl)⟩,
   ⟨queue63 (work0 2) r0, 63, (by first | decide | rfl), work0 2, [], (by first | decide | rfl), (by first | decide | rfl), (by rfl), (by first | decide | rfl)⟩⟩

/-- Every clause of `Obligations.RingEnableDisable` has a state and operands that meet its hypotheses. -/
theorem test_RingEnableDisable_met :
    (∃ (s : State) (g : Nat), s.power.stopped = false ∧ g < 8192 ∧ rd RING_STATUS_STATE g s = 0 ∧ rdb RING_CFG_KIND g s = false ∧ rdb RING_CFG_MODE g s = false ∧ rd RING_CFG_CQ g s < 128 ∧ 4 ≤ rd RING_CFG_SIZE_LOG2 g s ∧ rd RING_CFG_SIZE_LOG2 g s ≤ 16 ∧ rdb RING_CFG_KIND (ringCq g s) s = true ∧ rdb RING_CTL_ENABLE (ringCq g s) s = true ∧ rd RING_MOD_VECTOR g s < vectorCount (ringFn g)) ∧
    (∃ (s : State) (g : Nat), s.power.stopped = false ∧ g < 8192 ∧ rd RING_STATUS_STATE g s = 0 ∧ 16 < rd RING_CFG_SIZE_LOG2 g s ∧ rdb RING_CFG_KIND g s = false ∧ rdb RING_STATUS_WATCHED g s = false) ∧
    (∃ (s : State) (g : Nat), s.power.stopped = false ∧ g < 8192 ∧ ∃ s1, rd RING_STATUS_STATE g s = 0 ∧ s1 = (s |> setB RING_CTL_ENABLE g |> wr RING_STATUS_STATE g 1 |> wr RING_STATUS_CAUSE g 0 |> wr RING_STATUS_FAIL_STATUS g 0 |> setRt g (fun _ => { producer := rd RING_IDX_NEXT g s, consumed := rd RING_IDX_NEXT g s })) ∧ ringConfigBad g s1 = true) ∧
    (∃ (s : State) (g : Nat), s.power.stopped = false ∧ g < 8192 ∧ ∃ s1, rd RING_STATUS_STATE g s = 0 ∧ s1 = (s |> setB RING_CTL_ENABLE g |> wr RING_STATUS_STATE g 1 |> wr RING_STATUS_CAUSE g 0 |> wr RING_STATUS_FAIL_STATUS g 0 |> setRt g (fun _ => { producer := rd RING_IDX_NEXT g s, consumed := rd RING_IDX_NEXT g s })) ∧ ringConfigBad g s1 = false ∧ (rdb RING_CFG_KIND g s1 = true ∨ rdb RING_CFG_MODE g s1 = false)) ∧
    (∃ (s : State) (g : Nat), s.power.stopped = false ∧ g < 8192 ∧ ∃ s1, rd RING_STATUS_STATE g s = 0 ∧ s1 = (s |> setB RING_CTL_ENABLE g |> wr RING_STATUS_STATE g 1 |> wr RING_STATUS_CAUSE g 0 |> wr RING_STATUS_FAIL_STATUS g 0 |> setRt g (fun _ => { producer := rd RING_IDX_NEXT g s, consumed := rd RING_IDX_NEXT g s })) ∧ ringConfigBad g s1 = false ∧ rdb RING_CFG_KIND g s1 = false ∧ rdb RING_CFG_MODE g s1 = true) ∧
    (∃ (s : State) (g : Nat), s.power.stopped = false ∧ g < 8192 ∧ ∃ s1, s1 = clrB RING_CTL_ENABLE g s ∧ (rdb RING_CFG_KIND g s = false ∨ ringNamed g s = false) ∧ rd RING_STATUS_STATE g s1 = 1) ∧
    (∃ (s : State) (g : Nat), s.power.stopped = false ∧ g < 8192 ∧ ∃ s1, s1 = clrB RING_CTL_ENABLE g s ∧ (rdb RING_CFG_KIND g s = false ∨ ringNamed g s = false) ∧ rd RING_STATUS_STATE g s1 = 3) ∧
    (∃ (s : State) (g : Nat), s.power.stopped = false ∧ g < 8192 ∧ ∃ s1, s1 = clrB RING_CTL_ENABLE g s ∧ (rdb RING_CFG_KIND g s = false ∨ ringNamed g s = false) ∧ rd RING_STATUS_STATE g s1 ≠ 1 ∧ rd RING_STATUS_STATE g s1 ≠ 3) ∧
    (∃ (s : State) (g : Nat), s.power.stopped = false ∧ g < 8192 ∧ ∃ s1, rd RING_STATUS_STATE g s = 2 ∧ ringDrained g s = true ∧ s1 = wr RING_STATUS_STATE g (if rdb RING_CTL_ENABLE g s then 3 else 0) s ∧ (rd RING_STATUS_CAUSE g s = 0 ∨ (rdb RING_FN_CTL_EVENT_EN (ringFn g) s1 = true ∧ 128 * ringFn g + rd RING_FN_CTL_EVENT_CQ (ringFn g) s1 = g))) ∧
    (∃ (s : State) (g : Nat), s.power.stopped = false ∧ g < 8192 ∧ ∃ s1, rd RING_STATUS_STATE g s = 2 ∧ ringDrained g s = true ∧ s1 = wr RING_STATUS_STATE g (if rdb RING_CTL_ENABLE g s then 3 else 0) s ∧ rd RING_STATUS_CAUSE g s ≠ 0 ∧ (rdb RING_FN_CTL_EVENT_EN (ringFn g) s1 = false ∨ 128 * ringFn g + rd RING_FN_CTL_EVENT_CQ (ringFn g) s1 ≠ g)) ∧
    (∃ (s : State) (g : Nat), s.power.stopped = false ∧ g < 8192 ∧ (rd RING_STATUS_STATE g s ≠ 2 ∨ ringDrained g s = false)) ∧
    (∃ (s : State) (g : Nat), s.power.stopped = false ∧ g < 8192 ∧ rdb RING_CFG_KIND g s = false ∧ rd RING_STATUS_STATE g s = 1 ∧ rdb RING_STATUS_WATCHED g s = false) ∧
    (∃ (s : State) (g : Nat), s.power.stopped = false ∧ g < 8192 ∧ rdb RING_CFG_KIND g s = false ∧ rd RING_STATUS_STATE g s = 3 ∧ rdb RING_STATUS_WATCHED g s = false) ∧
    (∃ (s : State) (g : Nat), s.power.stopped = false ∧ g < 8192 ∧ rdb RING_CFG_KIND g s = true ∧ ringNamed g s = true) ∧
    (∃ (s : State) (g : Nat), s.power.stopped = false ∧ g < 8192 ∧ rd RING_STATUS_STATE g s = 2 ∧ ringDrained g s = true ∧ rdb RING_CTL_ENABLE g s = false ∧ rd RING_STATUS_CAUSE g s = 0) ∧
    (∃ (s : State) (g : Nat), s.power.stopped = false ∧ g < 8192 ∧ rd RING_STATUS_STATE g s ≠ 0) :=
  ⟨⟨wr RING_CFG_CQ 8191 126 (wr RING_CFG_SIZE_LOG2 8191 16 (setB RING_CFG_KIND 8190 (setB RING_CTL_ENABLE 8190 r0))), 8191, (by first | decide | rfl), (by decide), (by first | decide | rfl), (by first | decide | rfl), (by first | decide | rfl), (by decide), (by decide), (by decide), (by first | decide | rfl), (by first | decide | rfl), (by decide)⟩,
   ⟨wr RING_CFG_SIZE_LOG2 8191 17 r0, 8191, (by first | decide | rfl), (by decide), (by first | decide | rfl), (by decide), (by first | decide | rfl), (by first | decide | rfl)⟩,
   ⟨wr RING_CFG_SIZE_LOG2 8191 17 r0, 8191, (by first | decide | rfl), (by decide), _, (by first | decide | rfl), (rfl), (by first | decide | rfl)⟩,
   ⟨setB RING_CFG_KIND 8191 (wr RING_CFG_SIZE_LOG2 8191 16 r0), 8191, (by first | decide | rfl), (by decide), _, (by first | decide | rfl), (rfl), (by first | decide | rfl), (by decide)⟩,
   ⟨setB RING_CFG_MODE 8191 (wr RING_CFG_CQ 8191 126 (wr RING_CFG_SIZE_LOG2 8191 16 (setB RING_CFG_KIND 8190 (setB RING_CTL_ENABLE 8190 r0)))), 8191, (by first | decide | rfl), (by decide), _, (by first | decide | rfl), (rfl), (by first | decide | rfl), (by first | decide | rfl), (by first | decide | rfl)⟩,
   ⟨wr RING_STATUS_STATE 8191 1 r0, 8191, (by first | decide | rfl), (by decide), _, (rfl), (by decide), (by first | decide | rfl)⟩,
   ⟨wr RING_STATUS_STATE 8191 3 r0, 8191, (by first | decide | rfl), (by decide), _, (rfl), (by decide), (by first | decide | rfl)⟩,
   ⟨wr RING_STATUS_STATE 8191 2 r0, 8191, (by first | decide | rfl), (by decide), _, (rfl), (by decide), (by decide), (by decide)⟩,
   ⟨wr RING_STATUS_STATE 8191 2 r0, 8191, (by first | decide | rfl), (by decide), _, (by first | decide | rfl), (by first | decide | rfl), (rfl), (by decide)⟩,
   ⟨wr RING_STATUS_CAUSE 8191 6 (wr RING_STATUS_STATE 8191 2 r0), 8191, (by first | decide | rfl), (by decide), _, (by first | decide | rfl), (by first | decide | rfl), (rfl), (by decide), (by decide)⟩,
   ⟨r0, 8191, (by first | decide | rfl), (by decide), (by decide)⟩,
   ⟨wr RING_STATUS_STATE 8191 1 r0, 8191, (by first | decide | rfl), (by decide), (by first | decide | rfl), (by first | decide | rfl), (by first | decide | rfl)⟩,
   ⟨wr RING_STATUS_STATE 8191 3 r0, 8191, (by first | decide | rfl), (by decide), (by first | decide | rfl), (by first | decide | rfl), (by first | decide | rfl)⟩,
   ⟨setB RING_CFG_KIND 127 (setB RING_FN_CTL_CAL_EN 0 (wr RING_FN_CTL_CAL_CQ 0 127 r0)), 127, (by first | decide | rfl), (by decide), (by first | decide | rfl), (by first | decide | rfl)⟩,
   ⟨wr RING_STATUS_STATE 8191 2 r0, 8191, (by first | decide | rfl), (by decide), (by first | decide | rfl), (by first | decide | rfl), (by first | decide | rfl), (by first | decide | rfl)⟩,
   ⟨wr RING_STATUS_STATE 8191 1 r0, 8191, (by first | decide | rfl), (by decide), (by decide)⟩⟩

/-- Every clause of `Obligations.RingFetchAndStart` has a state and operands that meet its hypotheses. -/
theorem test_RingFetchAndStart_met :
    (∃ (s : State) (g k : Nat), s.power.stopped = false ∧ ringRunning g s = true ∧ rdb RING_CFG_KIND g s = false ∧ rdb RING_CFG_MODE g s = false ∧ (∀ t, (rt g s).polledAt = some t → t + pollEvery g s ≤ now16 s) ∧ dispatching s = true ∧ busMaster (ringFn g) s = true ∧ ringReadable g (ringDb g s) s = true) ∧
    (∃ (s : State) (g k : Nat), s.power.stopped = false ∧ ringRunning g s = true ∧ rdb RING_CFG_KIND g s = false ∧ rdb RING_CFG_MODE g s = false ∧ (∀ t, (rt g s).polledAt = some t → t + pollEvery g s ≤ now16 s) ∧ dispatching s = true ∧ busMaster (ringFn g) s = true ∧ ringReadable g (ringDb g s) s = false) ∧
    (∃ (s : State) (g k : Nat), s.power.stopped = false ∧ ∃ (d : _) (st : Status), descOf g k s = some d ∧ d.st = .fetching ∧ (reqFor (.descFetch g k) s).isSome = true ∧ (earlier g k s).any (fun e => decide (e.st = .fetching)) = false) ∧
    (∃ (s : State) (g k : Nat), s.power.stopped = false ∧ ∃ w0, slice w0 32 32 = rd RING_EPOCH_EPOCH g s ∧ wrap 32 (wrap 32 w0 + 2 ^ 32 - rd RING_IDX_NEXT g s) ≤ ringSize g s) ∧
    (∃ (s : State) (g k : Nat), s.power.stopped = false ∧ ∃ w0, slice w0 32 32 ≠ rd RING_EPOCH_EPOCH g s) ∧
    (∃ (s : State) (g k : Nat), s.power.stopped = false ∧ ∃ w0, slice w0 32 32 = rd RING_EPOCH_EPOCH g s ∧ ringSize g s < wrap 32 (wrap 32 w0 + 2 ^ 32 - rd RING_IDX_NEXT g s)) ∧
    (∃ (s : State) (g k : Nat), s.power.stopped = false ∧ ∃ (d : _) (b : List Byte), descOf g k s = some d ∧ d.st = .fetching ∧ (reqFor (.descFetch g k) s).isSome = true ∧ (earlier g k s).any (fun e => decide (e.st = .fetching)) = false ∧ headerFail g (wordsOf 8 b) (setDesc g k (fun d => { d with words := wordsOf 8 b, st := .ready }) (count hostUnit 0x81 (some (ringFn g)) 1 (retireFor (.descFetch g k) s))) = none) ∧
    (∃ (s : State) (g k : Nat), s.power.stopped = false ∧ ∃ d, descOf g k s = some d ∧ canStart g k d s = true ∧ needsTile (wrap 8 (d.word 0)) = false) ∧
    (∃ (s : State) (g k : Nat), s.power.stopped = false ∧ ∃ d, descOf g k s = some d ∧ canStart g k d s = true ∧ needsTile (wrap 8 (d.word 0)) = true) ∧
    (∃ (s : State) (g k : Nat), s.power.stopped = false ∧ ∃ d, runningDesc g k 0x00 s = some d) ∧
    (∃ (s : State) (g k : Nat), s.power.stopped = false ∧ rdb RING_CFG_KIND g s = true ∧ cqWrites g s = true ∧ ringFree g s = 0 ∧ (∀ t, (rt g s).headAt = some t → t + us16 1 ≤ now16 s) ∧ busMaster (ringFn g) s = true ∧ ringReadable g (ringDb g s) s = true ∧ ∃ (b : List Byte), ringSize g s < wrap 32 (rd RING_IDX_NEXT g s + 2 ^ 32 - wrap 32 (ofBytes (b.take 4)))) ∧
    (∃ (s : State) (g k : Nat), s.power.stopped = false ∧ ∃ (b : List Byte), rdb RING_CFG_KIND g s = true ∧ cqWrites g s = true ∧ ringFree g s = 0 ∧ (∀ t, (rt g s).headAt = some t → t + us16 1 ≤ now16 s) ∧ busMaster (ringFn g) s = true ∧ ringReadable g (ringDb g s) s = true ∧ wrap 32 (rd RING_IDX_NEXT g s + 2 ^ 32 - wrap 32 (ofBytes (b.take 4))) ≤ ringSize g s) :=
  ⟨⟨bme 63 (wr RING_STATUS_STATE 8191 1 ready0), 8191, 0, (by first | decide | rfl), (by first | decide | rfl), (by first | decide | rfl), (by first | decide | rfl), (by intro t h; cases h), (by first | decide | rfl), (by first | decide | rfl), (by first | decide | rfl)⟩,
   ⟨ats0 63 (bme 63 (wr RING_STATUS_STATE 8191 1 ready0)), 8191, 0, (by first | decide | rfl), (by first | decide | rfl), (by first | decide | rfl), (by first | decide | rfl), (by intro t h; cases h), (by first | decide | rfl), (by first | decide | rfl), (by first | decide | rfl)⟩,
   ⟨reqs [req0 (.descFetch 8191 7)] (descs [{ ring := 8191, count := 7 }] r0), 8191, 7, (by first | decide | rfl), { ring := 8191, count := 7 }, .timeout, (by rfl), (by first | decide | rfl), (by first | decide | rfl), (by first | decide | rfl)⟩,
   ⟨r0, 8191, 0, (by first | decide | rfl), 0, (by first | decide | rfl), (by decide)⟩,
   ⟨r0, 8191, 0, (by first | decide | rfl), 2 ^ 32, (by decide)⟩,
   ⟨r0, 8191, 0, (by first | decide | rfl), 2 ^ 32 - 1, (by first | decide | rfl), (by decide)⟩,
   ⟨reqs [req0 (.descFetch 8191 7)] (descs [{ ring := 8191, count := 7 }] r0), 8191, 7, (by first | decide | rfl), { ring := 8191, count := 7 }, [], (by rfl), (by first | decide | rfl), (by first | decide | rfl), (by first | decide | rfl), (by rfl)⟩,
   ⟨descs [{ ring := 8191, count := 7, words := [0], st := .ready }] ready0, 8191, 7, (by first | decide | rfl), { ring := 8191, count := 7, words := [0], st := .ready }, (by rfl), (by first | decide | rfl), (by first | decide | rfl)⟩,
   ⟨descs [{ ring := 8191, count := 7, words := [1], st := .ready }] ready0, 8191, 7, (by first | decide | rfl), { ring := 8191, count := 7, words := [1], st := .ready }, (by rfl), (by first | decide | rfl), (by first | decide | rfl)⟩,
   ⟨running 8191 7 [0] r0, 8191, 7, (by first | decide | rfl), ring0 8191 7 [0], (by rfl)⟩,
   ⟨bme 63 (setRt 8191 (fun r => { r with reserved := 1 }) (setB RING_CFG_KIND 8191 (wr RING_STATUS_STATE 8191 1 r0))), 8191, 0, (by first | decide | rfl), (by first | decide | rfl), (by first | decide | rfl), (by first | decide | rfl), (by intro t h; cases h), (by first | decide | rfl), (by first | decide | rfl), [1], (by decide)⟩,
   ⟨bme 63 (setRt 8191 (fun r => { r with reserved := 1 }) (setB RING_CFG_KIND 8191 (wr RING_STATUS_STATE 8191 1 r0))), 8191, 0, (by first | decide | rfl), [], (by first | decide | rfl), (by first | decide | rfl), (by first | decide | rfl), (by intro t h; cases h), (by first | decide | rfl), (by first | decide | rfl), (by decide)⟩⟩

/-- Every clause of `Obligations.RingWatchAndRecords` has a state and operands that meet its hypotheses. -/
theorem test_RingWatchAndRecords_met :
    (∃ (s : State) (g n : Nat), s.power.stopped = false ∧ rdb RING_STATUS_WATCHED g s = true ∧ (rt g s).watchBusy = false ∧ mayPickUp g s = true ∧ ringReadable g (ringDb g s) s = true) ∧
    (∃ (s : State) (g n : Nat), s.power.stopped = false ∧ ∃ c, c ≠ 0 ∧ rdb RING_STATUS_WATCHED g s = true ∧ (rt g s).watchBusy = false) ∧
    (∃ (s : State) (g n : Nat), s.power.stopped = false ∧ rdb RING_STATUS_WATCHED g s = true ∧ (rt g s).watchBusy = true ∧ (rt g s).watchAgain = false ∧ mayPickUp g s = true ∧ ringRunning g s = true) ∧
    (∃ (s : State) (g n : Nat), s.power.stopped = false ∧ ∃ s1, rdb RING_STATUS_WATCHED g s = true ∧ (rt g s).watchBusy = true ∧ (rt g s).watchAgain = true ∧ s1 = setRt g (fun r => { r with watchBusy := false, watchAgain := false }) s ∧ (mayPickUp g s = false ∨ ringRunning g s = false)) ∧
    (∃ (s : State) (g n : Nat), s.power.stopped = false ∧ ∃ r rest, lookD [] s.rings.queued n = (g, r) :: rest ∧ cqWrites g s = true ∧ ringFree g s ≠ 0) ∧
    (∃ (s : State) (g n : Nat), s.power.stopped = false ∧ ∃ r rest, lookD [] s.rings.queued n = (g, r) :: rest ∧ cqWrites g s = false) ∧
    (∃ (s : State) (g n : Nat), s.power.stopped = false ∧ rdb RING_MOD_IRQ_EN g s = true ∧ 0 < (rt g s).unsignalled ∧ (rt g s).oldest + us16 (rd RING_MOD_MOD_US g s) ≤ now16 s) :=
  ⟨⟨bme 63 (setB RING_STATUS_WATCHED 8191 ready0), 8191, 0, (by first | decide | rfl), (by first | decide | rfl), (by first | decide | rfl), (by first | decide | rfl), (by first | decide | rfl)⟩,
   ⟨setB RING_STATUS_WATCHED 8191 r0, 8191, 0, (by first | decide | rfl), 1, (by decide), (by first | decide | rfl), (by first | decide | rfl)⟩,
   ⟨bme 63 (wr RING_STATUS_STATE 8191 1 (setB RING_STATUS_WATCHED 8191 (setRt 8191 (fun r => { r with watchBusy := true }) ready0))), 8191, 0, (by first | decide | rfl), (by first | decide | rfl), (by first | decide | rfl), (by first | decide | rfl), (by first | decide | rfl), (by first | decide | rfl)⟩,
   ⟨setB RING_STATUS_WATCHED 8191 (setRt 8191 (fun r => { r with watchBusy := true, watchAgain := true }) r0), 8191, 0, (by first | decide | rfl), _, (by first | decide | rfl), (by first | decide | rfl), (by first | decide | rfl), (rfl), (by decide)⟩,
   ⟨{ wr RING_STATUS_STATE 8191 1 r0 with rings := { queued := [(0, [(8191, { kind := 0, status := .ok })])] } }, 8191, 0, (by first | decide | rfl), { kind := 0, status := .ok }, [], (by rfl), (by first | decide | rfl), (by decide)⟩,
   ⟨{ r0 with rings := { queued := [(0, [(8191, { kind := 0, status := .ok })])] } }, 8191, 0, (by first | decide | rfl), { kind := 0, status := .ok }, [], (by rfl), (by first | decide | rfl)⟩,
   ⟨later (us16 0) (setRt 8191 (fun r => { r with unsignalled := 1 }) (setB RING_MOD_IRQ_EN 8191 r0)), 8191, 0, (by first | decide | rfl), (by first | decide | rfl), (by decide), (by decide)⟩⟩

/-- Every clause of `Obligations.FunctionResetAndTimeout` has a state and operands that meet its hypotheses. -/
theorem test_FunctionResetAndTimeout_met :
    (∃ (s : State) (n : Nat), s.power.stopped = false ∧ 0 < n ∧ n < 64 ∧ (fnCfg n (raiseWake 0x15 n s)).flrAt = none) ∧
    (∃ (s : State) (n : Nat), s.power.stopped = false ∧ ∃ s1, s1 = setFnCfg n (fun c => { c with flrAt := some (now16 s) }) s ∧ (fnCfg n s).flrAt = none ∧ rd FUNC_CFG_TDI n (silenceFn n s1) = 0) ∧
    (∃ (s : State) (n : Nat), s.power.stopped = false ∧ 0 < n ∧ (fnCfg n s).flrAt.isSome = true) ∧
    (∃ (s : State) (n : Nat), s.power.stopped = false ∧ 64 ≤ n) ∧
    (∃ (s : State) (n : Nat), s.power.stopped = false ∧ 0 < n ∧ (fnCfg n s).flrAt = none) ∧
    (∃ (s : State) (n : Nat), s.power.stopped = false ∧ ∃ (l : HostLink), l.rate = 0) :=
  ⟨⟨r0, 63, (by first | decide | rfl), (by decide), (by decide), (by first | decide | rfl)⟩,
   ⟨r0, 63, (by first | decide | rfl), setFnCfg 63 (fun c => { c with flrAt := some 0 }) r0, (by rfl), (by first | decide | rfl), (by first | decide | rfl)⟩,
   ⟨setFnCfg 63 (fun c => { c with flrAt := some 0 }) r0, 63, (by first | decide | rfl), (by decide), (by first | decide | rfl)⟩,
   ⟨r0, 64, (by first | decide | rfl), (by decide)⟩,
   ⟨r0, 63, (by first | decide | rfl), (by decide), (by first | decide | rfl)⟩,
   ⟨r0, 63, (by first | decide | rfl), { rate := 0 }, (by first | decide | rfl)⟩⟩

/-- Every clause of `Obligations.ConfigAndWindowAccesses` has a state and operands that meet its hypotheses. -/
theorem test_ConfigAndWindowAccesses_met :
    (∃ (s s1 : State) (n tag : Nat), s.power.stopped = false ∧ s1 = raiseWake 0x13 (n % 64) s ∧ cfgReady s1 = false) ∧
    (∃ (s s1 : State) (n tag : Nat), s.power.stopped = false ∧ ∃ (r : CfgReg) (w : Option Nat), s1 = raiseWake 0x13 (n % 64) s ∧ (n ≠ 0 ∧ rd FUNC_CFG_TDI n s1 = 3 ∧ ¬∃ v, r = .devctl ∧ w = some v ∧ bit v 15 = true)) ∧
    (∃ (s s1 : State) (n tag : Nat), s.power.stopped = false ∧ s1 = raiseWake 0x13 (n % 64) s ∧ (fnCfg n s1).flrAt.isSome = true) ∧
    (∃ (s s1 : State) (n tag : Nat), s.power.stopped = false ∧ ∃ (r : CfgReg) (w : Option Nat), s1 = raiseWake 0x13 (n % 64) s ∧ 64 ≤ n ∧ cfgRetry n r w s1 = false) ∧
    (∃ (s s1 : State) (n tag : Nat), s.power.stopped = false ∧ s1 = raiseWake 0x13 (n % 64) s ∧ n < 64 ∧ cfgReady s1 = true ∧ (fnCfg n s1).flrAt = none ∧ (n = 0 ∨ rd FUNC_CFG_TDI n s1 ≠ 3) ∧ (n = 0 ∨ s1.host.vfEnable = true)) ∧
    (∃ (s s1 : State) (n tag : Nat), s.power.stopped = false ∧ ∃ (r : CfgReg) (v : Nat), s1 = raiseWake 0x13 (n % 64) s ∧ n < 64 ∧ cfgReady s1 = true ∧ (fnCfg n s1).flrAt = none ∧ (n = 0 ∨ rd FUNC_CFG_TDI n s1 ≠ 3 ∨ (r = .devctl ∧ bit v 15 = true)) ∧ (n = 0 ∨ s1.host.vfEnable = true)) ∧
    (∃ (s s1 : State) (n tag : Nat), s.power.stopped = false ∧ ∃ off size w, s1 = raiseWake 0x13 0 s ∧ memSpace 0 s1 = true ∧ off / 2 ^ 24 < 8 ∧ (size = 4 ∨ size = 8) ∧ off % 2 ^ 24 % size = 0 ∧ siteOn (off / 2 ^ 24) s1 = true ∧ rdb SITE_CTL_ENABLE (off / 2 ^ 24) s1 = true ∧ siteReady (off / 2 ^ 24) s1 = true ∧ siteCxl (off / 2 ^ 24) (addAcc (off / 2 ^ 24) size tag w false s1) = false) ∧
    (∃ (s s1 : State) (n tag : Nat), s.power.stopped = false ∧ s1 = raiseWake 0x13 0 s ∧ memSpace 0 s1 = false) ∧
    (∃ (s s1 : State) (n tag : Nat), s.power.stopped = false ∧ ∃ off size, s1 = raiseWake 0x13 0 s ∧ (memSpace 0 s1 = false ∨ 8 ≤ off / 2 ^ 24 ∨ (size ≠ 4 ∧ size ≠ 8) ∨ off % 2 ^ 24 % size ≠ 0)) ∧
    (∃ (s s1 : State) (n tag : Nat), s.power.stopped = false ∧ ∃ off size, s1 = raiseWake 0x13 0 s ∧ memSpace 0 s1 = true ∧ off / 2 ^ 24 < 8 ∧ (size = 4 ∨ size = 8) ∧ off % 2 ^ 24 % size = 0 ∧ siteOn (off / 2 ^ 24) s1 = true ∧ rdb SITE_CTL_ENABLE (off / 2 ^ 24) s1 = true ∧ siteReady (off / 2 ^ 24) s1 = true ∧ siteCxl (off / 2 ^ 24) s1 = true) ∧
    (∃ (s s1 : State) (n tag : Nat), s.power.stopped = false ∧ ∃ off size, s1 = raiseWake 0x13 0 s ∧ memSpace 0 s1 = true ∧ off / 2 ^ 24 < 8 ∧ (size = 4 ∨ size = 8) ∧ off % 2 ^ 24 % size = 0 ∧ siteReady (off / 2 ^ 24) s1 = false) ∧
    (∃ (s s1 : State) (n tag : Nat), s.power.stopped = false ∧ ∃ off, s1 = raiseWake 0x13 0 s ∧ (memSpace 0 s1 = false ∨ 8 ≤ off / 2 ^ 36)) ∧
    (∃ (s s1 : State) (n tag : Nat), s.power.stopped = false ∧ ∃ off size st, s1 = (if st then s else raiseWake 0x13 0 s) ∧ (st = false → memSpace 0 s1 = true) ∧ off / 2 ^ 36 < 8 ∧ (siteOn (off / 2 ^ 36) s1 = false ∨ siteCxl (off / 2 ^ 36) s1 = false ∨ rd SITE_MWIN_SIZE (off / 2 ^ 36) s1 * 2 ^ 30 < off % 2 ^ 36 + size)) ∧
    (∃ (s s1 : State) (n tag : Nat), s.power.stopped = false ∧ ∃ off size st, s1 = (if st then s else raiseWake 0x13 0 s) ∧ (st = false → memSpace 0 s1 = true) ∧ off / 2 ^ 36 < 8 ∧ siteOn (off / 2 ^ 36) s1 = true ∧ siteCxl (off / 2 ^ 36) s1 = true ∧ off % 2 ^ 36 + size ≤ rd SITE_MWIN_SIZE (off / 2 ^ 36) s1 * 2 ^ 30 ∧ siteReady (off / 2 ^ 36) s1 = true) ∧
    (∃ (s s1 : State) (n tag : Nat), s.power.stopped = false ∧ ∃ off size st, s1 = (if st then s else raiseWake 0x13 0 s) ∧ (st = false → memSpace 0 s1 = true) ∧ off / 2 ^ 36 < 8 ∧ siteOn (off / 2 ^ 36) s1 = true ∧ siteCxl (off / 2 ^ 36) s1 = true ∧ off % 2 ^ 36 + size ≤ rd SITE_MWIN_SIZE (off / 2 ^ 36) s1 * 2 ^ 30 ∧ siteReady (off / 2 ^ 36) s1 = false) :=
  ⟨⟨r0, _, 63, 0, (by first | decide | rfl), (rfl), (by first | decide | rfl)⟩,
   ⟨wr FUNC_CFG_TDI 63 3 cfg0, _, 63, 0, (by first | decide | rfl), .devctl, none, (rfl), (⟨by decide, by decide +kernel, by simp⟩)⟩,
   ⟨setFnCfg 63 (fun c => { c with flrAt := some 0 }) cfg0, _, 63, 0, (by first | decide | rfl), (rfl), (by first | decide | rfl)⟩,
   ⟨cfg0, _, 64, 0, (by first | decide | rfl), .devctl, none, (rfl), (by decide), (by first | decide | rfl)⟩,
   ⟨cfg0, _, 63, 0, (by first | decide | rfl), (rfl), (by decide), (by first | decide | rfl), (by first | decide | rfl), (by decide), (by decide)⟩,
   ⟨wr FUNC_CFG_TDI 63 3 cfg0, _, 63, 0, (by first | decide | rfl), .devctl, 2 ^ 15, (rfl), (by decide), (by first | decide | rfl), (by first | decide | rfl), (by decide +kernel), (by decide)⟩,
   ⟨wr SITE_STATUS_STATE 7 3 mse0, _, 0, 0, (by first | decide | rfl), 2 ^ 27 - 8, 8, true, (rfl), (by first | decide | rfl), (by decide), (by decide), (by first | decide | rfl), (by first | decide | rfl), (by first | decide | rfl), (by first | decide | rfl), (by first | decide | rfl)⟩,
   ⟨r0, _, 0, 0, (by first | decide | rfl), (rfl), (by first | decide | rfl)⟩,
   ⟨mse0, _, 0, 0, (by first | decide | rfl), 2 ^ 27, 4, (rfl), (by decide)⟩,
   ⟨setB SITE_CFG_PERSONALITY 7 (wr SITE_MWIN_SIZE 7 1 (wr SITE_STATUS_STATE 7 3 mse0)), _, 0, 0, (by first | decide | rfl), 2 ^ 27 - 8, 8, (rfl), (by first | decide | rfl), (by decide), (by decide), (by first | decide | rfl), (by first | decide | rfl), (by first | decide | rfl), (by first | decide | rfl), (by first | decide | rfl)⟩,
   ⟨mse0, _, 0, 0, (by first | decide | rfl), 2 ^ 27 - 4, 4, (rfl), (by first | decide | rfl), (by decide), (by decide), (by first | decide | rfl), (by first | decide | rfl)⟩,
   ⟨mse0, _, 0, 0, (by first | decide | rfl), 2 ^ 39, (rfl), (by decide)⟩,
   ⟨setB SITE_CFG_PERSONALITY 7 (wr SITE_MWIN_SIZE 7 1 (wr SITE_STATUS_STATE 7 3 mse0)), _, 0, 0, (by first | decide | rfl), 7 * 2 ^ 36 + 2 ^ 30 - 3, 4, false, (rfl), (by decide), (by decide), (by decide)⟩,
   ⟨setB SITE_CFG_PERSONALITY 7 (wr SITE_MWIN_SIZE 7 1 (wr SITE_STATUS_STATE 7 3 mse0)), _, 0, 0, (by first | decide | rfl), 7 * 2 ^ 36 + 2 ^ 30 - 4, 4, false, (rfl), (by decide), (by decide), (by first | decide | rfl), (by first | decide | rfl), (by decide), (by first | decide | rfl)⟩,
   ⟨setB SITE_CFG_PERSONALITY 7 (wr SITE_MWIN_SIZE 7 1 mse0), _, 0, 0, (by first | decide | rfl), 7 * 2 ^ 36, 2 ^ 30, true, (rfl), (by decide), (by decide), (by first | decide | rfl), (by first | decide | rfl), (by decide), (by first | decide | rfl)⟩⟩

/-- Every clause of `Obligations.HostMemoryAccesses` has a state and operands that meet its hypotheses. -/
theorem test_HostMemoryAccesses_met :
    (∃ (s s1 : State) (tag : Nat), s.power.stopped = false ∧ s1 = raiseWake 0x13 0 s ∧ ∃ a len, s1.host.waits = [] ∧ memSpace 0 s1 = true ∧ apertureAt a len s1 = none) ∧
    (∃ (s s1 : State) (tag : Nat), s.power.stopped = false ∧ s1 = raiseWake 0x13 0 s ∧ ∃ a len off st b s2, s1.host.waits = [] ∧ memSpace 0 s1 = true ∧ apertureAt a len s1 = some off ∧ claimed off len false s1 = true ∧ homeGet (.agent (rd HOST_APERTURE_FUNCTION 0 s1) 77) off len s1 = (st, b, s2)) ∧
    (∃ (s s1 : State) (tag : Nat), s.power.stopped = false ∧ s1 = raiseWake 0x13 0 s ∧ ∃ a data off st s2, s1.host.waits = [] ∧ memSpace 0 s1 = true ∧ apertureAt a data.length s1 = some off ∧ claimed off data.length true s1 = true ∧ homePut (.agent (rd HOST_APERTURE_FUNCTION 0 s1) 77) off data s1 = (st, s2)) ∧
    (∃ (s s1 : State) (tag : Nat), s.power.stopped = false ∧ s1 = raiseWake 0x13 0 s ∧ ∃ r off len wr, s1.host.waits = [] ∧ hostRange r s1 = some (off, len, wr) ∧ claimed off len wr s1 = false) ∧
    (∃ (s s1 : State) (tag : Nat), s.power.stopped = false ∧ s1 = raiseWake 0x13 0 s ∧ ∃ a op n, op < 3 ∧ (n = 4 ∨ n = 8) ∧ a % n = 0) ∧
    (∃ (s s1 : State) (tag : Nat), s.power.stopped = false ∧ s1 = raiseWake 0x13 0 s ∧ ∃ a op n x y off b s2 st s3, s1.host.waits = [] ∧ memSpace 0 s1 = true ∧ op < 3 ∧ (n = 4 ∨ n = 8) ∧ a % n = 0 ∧ apertureAt a n s1 = some off ∧ claimed off n true s1 = true ∧ homeGet (.agent (rd HOST_APERTURE_FUNCTION 0 s1) 77) off n s1 = (.ok, b, s2) ∧ homePut (.agent (rd HOST_APERTURE_FUNCTION 0 s1) 77) off (toBytes n (atomicNew op n (ofBytes b) (wrap (8 * n) x) (wrap (8 * n) y))) s2 = (st, s3)) ∧
    (∃ (s s1 : State) (tag : Nat), s.power.stopped = false ∧ s1 = raiseWake 0x13 0 s ∧ rdb HUB_GLOBAL_SETUP_LOCK 0 s = true) ∧
    (∃ (s s1 : State) (tag : Nat), s.power.stopped = false ∧ s1 = raiseWake 0x13 0 s ∧ ∃ base k, rdb HUB_GLOBAL_SETUP_LOCK 0 s = false ∧ rdb HOST_HDM_COMMITTED 0 s = false ∧ base < 2 ^ 14 ∧ k ≤ 1907 ∧ base + k ≤ memSize s / 2 ^ 30 ∧ (hdmRange base k).any (fun e => extKind e s != 0 && extKind e s != 3) = false ∧ (hdmRange (rd HOST_HDM_BASE_GIB 0 s) (rd HOST_HDM_EXTENTS 0 s)).filter (fun e => extKind e s == 3 && !(hdmRange base k).contains e) = []) ∧
    (∃ (s s1 : State) (tag : Nat), s.power.stopped = false ∧ s1 = raiseWake 0x13 0 s ∧ ∃ d b s2, s1.host.waits = [] ∧ rdb HOST_STATUS_CXL_MEM 0 s1 = true ∧ d < rd HOST_HDM_EXTENTS 0 s1 * 2 ^ 30 ∧ claimed (rd HOST_HDM_BASE_GIB 0 s1 * 2 ^ 30 + d / 64 * 64) 64 false s1 = true ∧ homeGet .hdm (rd HOST_HDM_BASE_GIB 0 s1 * 2 ^ 30 + d / 64 * 64) 64 s1 = (.ok, b, s2)) ∧
    (∃ (s s1 : State) (tag : Nat), s.power.stopped = false ∧ s1 = raiseWake 0x13 0 s ∧ ∃ (d : _) (data : List Byte) (st : _) (s2 : _), s1.host.waits = [] ∧ rdb HOST_STATUS_CXL_MEM 0 s1 = true ∧ d < rd HOST_HDM_EXTENTS 0 s1 * 2 ^ 30 ∧ claimed (rd HOST_HDM_BASE_GIB 0 s1 * 2 ^ 30 + d / 64 * 64) 64 true s1 = true ∧ homePut .hdm (rd HOST_HDM_BASE_GIB 0 s1 * 2 ^ 30 + d / 64 * 64) (data.take 64) s1 = (st, s2)) :=
  ⟨⟨mse0, _, 0, (by first | decide | rfl), (rfl), 0, 4, (by first | decide | rfl), (by first | decide | rfl), (by first | decide | rfl)⟩,
   ⟨apert0, _, 0, (by first | decide | rfl), (rfl), 2 ^ 30 - 4, 4, 2 ^ 30 - 4, _, _, _, (by first | decide | rfl), (by first | decide | rfl), (by rfl), (by first | decide | rfl), (rfl)⟩,
   ⟨apert0, _, 0, (by first | decide | rfl), (rfl), 2 ^ 30 - 4, [1, 2, 3, 4], 2 ^ 30 - 4, _, _, (by first | decide | rfl), (by first | decide | rfl), (by rfl), (by first | decide | rfl), (rfl)⟩,
   ⟨dir0 { st := 2 } apert0, _, 0, (by first | decide | rfl), (rfl), { kind := 0, a := 0, len := 4, data := [], tag := 0 }, 0, 4, false, (by first | decide | rfl), (by rfl), (by first | decide | rfl)⟩,
   ⟨mse0, _, 0, (by first | decide | rfl), (rfl), 8, 2, 8, (by decide), (by decide), (by first | decide | rfl)⟩,
   ⟨apert0, _, 0, (by first | decide | rfl), (rfl), 2 ^ 30 - 8, 2, 8, 0, 1, 2 ^ 30 - 8, _, _, _, _, (by first | decide | rfl), (by first | decide | rfl), (by decide), (by decide), (by first | decide | rfl), (by rfl), (by first | decide | rfl), (Prod.ext (by first | decide | rfl) rfl), (rfl)⟩,
   ⟨setB HUB_GLOBAL_SETUP_LOCK 0 r0, _, 0, (by first | decide | rfl), (rfl), (by first | decide | rfl)⟩,
   ⟨mem1 3 r0, _, 0, (by first | decide | rfl), (rfl), 0, 1, (by first | decide | rfl), (by first | decide | rfl), (by decide), (by decide), (by decide), (by first | decide | rfl), (by first | decide | rfl)⟩,
   ⟨hdm0, _, 0, (by first | decide | rfl), (rfl), 2 ^ 30 - 1, _, _, (by first | decide | rfl), (by first | decide | rfl), (by decide), (by first | decide | rfl), (Prod.ext (by first | decide | rfl) rfl)⟩,
   ⟨hdm0, _, 0, (by first | decide | rfl), (rfl), 2 ^ 30 - 1, [1], _, _, (by first | decide | rfl), (by first | decide | rfl), (by decide), (by first | decide | rfl), (rfl)⟩⟩

/-- Every clause of `Obligations.DownstreamPorts` has a state and operands that meet its hypotheses. -/
theorem test_DownstreamPorts_met :
    (∃ (s : State) (p : Nat), s.power.stopped = false ∧ p < 4 ∧ rdb DS_STATUS_PRESENT p s = true ∧ rd DS_STATUS_STATE p s = 0) ∧
    (∃ (s : State) (p : Nat), s.power.stopped = false ∧ p < 4 ∧ rd DS_STATUS_STATE p s ≠ 0) ∧
    (∃ (s : State) (p : Nat), s.power.stopped = false ∧ p < 4 ∧ ∃ t, (dsPort p s).poweredAt = some t ∧ rd DS_STATUS_STATE p s = 1 ∧ t + us16 100000 ≤ now16 s) ∧
    (∃ (s : State) (p : Nat), s.power.stopped = false ∧ p < 4 ∧ ∃ (t : _) (f : DsFound), (dsPort p s).perstAt = some t ∧ rd DS_STATUS_STATE p s = 2 ∧ t + us16 100000 ≤ now16 s ∧ f.rate ≠ 0 ∧ (f.cxl = true ∨ f.cls = 0x010802) ∧ f.enabled = true ∧ rdb DS_CTL_ATTEST_REQ p (noteDevice p f s) = false) ∧
    (∃ (s : State) (p : Nat), s.power.stopped = false ∧ p < 4 ∧ ∃ (t : _) (f : DsFound), (dsPort p s).perstAt = some t ∧ rd DS_STATUS_STATE p s = 2 ∧ t + us16 100000 ≤ now16 s ∧ f.rate ≠ 0 ∧ (f.cxl = true ∨ f.cls = 0x010802) ∧ f.enabled = true ∧ rdb DS_CTL_ATTEST_REQ p (noteDevice p f s) = true ∧ f.attested = true) ∧
    (∃ (s : State) (p : Nat), s.power.stopped = false ∧ p < 4 ∧ ∃ (t : _) (f : DsFound), (dsPort p s).perstAt = some t ∧ rd DS_STATUS_STATE p s = 2 ∧ t + us16 100000 ≤ now16 s ∧ f.rate = 0) ∧
    (∃ (s : State) (p : Nat), s.power.stopped = false ∧ p < 4 ∧ ∃ s1, s1 = setB DS_STATUS_PRESENT p (raiseWake 0x16 p s) ∧ rdb DS_STATUS_PRESENT p s = false ∧ rd DS_STATUS_STATE p s1 = 0) ∧
    (∃ (s : State) (p : Nat), s.power.stopped = false ∧ p < 4 ∧ ∃ s1, s1 = clrB DS_STATUS_PRESENT p (raiseWake 0x16 p s) ∧ rdb DS_STATUS_PRESENT p s = true ∧ rd DS_STATUS_STATE p s1 ≠ 4) ∧
    (∃ (s : State) (p : Nat), s.power.stopped = false ∧ p < 4 ∧ ∃ s1, s1 = dsEvent p DS_EVENT_BUTTON (raiseWake 0x16 p s) ∧ rd DS_STATUS_STATE p s1 = 0) ∧
    (∃ (s : State) (p : Nat), s.power.stopped = false ∧ p < 4 ∧ ∃ s1, s1 = dsEvent p DS_EVENT_BUTTON (raiseWake 0x16 p s) ∧ rd DS_STATUS_STATE p s1 = 3 ∧ (dsPort p s1).pressedAt = none) ∧
    (∃ (s : State) (p : Nat), s.power.stopped = false ∧ p < 4 ∧ ∃ s1, s1 = emit { kind := .pin, dest := p, args := [7, rd DS_CTL_ATTN_LED p s] } (wr DS_STATUS_STATE p 0 (powerOff p s)) ∧ rd DS_STATUS_STATE p s = 5 ∧ rdb DS_STATUS_PRESENT p s1 = false) ∧
    (∃ (s : State) (p : Nat), s.power.stopped = false ∧ p < 4 ∧ rd DS_STATUS_STATE p s = 3) ∧
    (∃ (s : State) (p : Nat), s.power.stopped = false ∧ p < 4 ∧ ∃ t, (dsPort p s).pressedAt = some t ∧ rd DS_STATUS_STATE p s = 3 ∧ t + us16 5000000 ≤ now16 s) ∧
    (∃ (s : State) (p : Nat), s.power.stopped = false ∧ p < 4 ∧ ∃ t, (dsPort p s).shutAt = some t ∧ rd DS_STATUS_STATE p s = 4 ∧ t + us16 10000000 ≤ now16 s) ∧
    (∃ (s : State) (p : Nat), s.power.stopped = false ∧ p < 4 ∧ rdb DS_STATUS_POWERED p s = true) ∧
    (∃ (s : State) (p : Nat), s.power.stopped = false ∧ p < 4 ∧ rd DS_STATUS_STATE p s = 4) :=
  ⟨⟨setB DS_STATUS_PRESENT 3 r0, 3, (by first | decide | rfl), (by decide), (by first | decide | rfl), (by first | decide | rfl)⟩,
   ⟨dsp {} 6 0, 3, (by first | decide | rfl), (by decide), (by decide)⟩,
   ⟨dsp { poweredAt := some 0 } 1 (us16 100000), 3, (by first | decide | rfl), (by decide), 0, (by rfl), (by first | decide | rfl), (by decide)⟩,
   ⟨dsp { perstAt := some 0 } 2 (us16 100000), 3, (by first | decide | rfl), (by decide), 0, { rate := 5 }, (by rfl), (by first | decide | rfl), (by decide), (by decide), (by decide), (by first | decide | rfl), (by first | decide | rfl)⟩,
   ⟨setB DS_CTL_ATTEST_REQ 3 (dsp { perstAt := some 0 } 2 (us16 100000)), 3, (by first | decide | rfl), (by decide), 0, { rate := 5, attested := true }, (by rfl), (by first | decide | rfl), (by decide), (by decide), (by decide), (by first | decide | rfl), (by first | decide | rfl), (by first | decide | rfl)⟩,
   ⟨dsp { perstAt := some 0 } 2 (us16 100000), 3, (by first | decide | rfl), (by decide), 0, { rate := 0 }, (by rfl), (by first | decide | rfl), (by decide), (by first | decide | rfl)⟩,
   ⟨r0, 3, (by first | decide | rfl), (by decide), setB DS_STATUS_PRESENT 3 r0, (by rfl), (by first | decide | rfl), (by first | decide | rfl)⟩,
   ⟨setB DS_STATUS_PRESENT 3 r0, 3, (by first | decide | rfl), (by decide), clrB DS_STATUS_PRESENT 3 (setB DS_STATUS_PRESENT 3 r0), (by rfl), (by first | decide | rfl), (by decide)⟩,
   ⟨r0, 3, (by first | decide | rfl), (by decide), dsEvent 3 DS_EVENT_BUTTON r0, (by rfl), (by first | decide | rfl)⟩,
   ⟨dsp {} 3 0, 3, (by first | decide | rfl), (by decide), dsEvent 3 DS_EVENT_BUTTON (dsp {} 3 0), (by rfl), (by first | decide | rfl), (by first | decide | rfl)⟩,
   ⟨dsp {} 5 0, 3, (by first | decide | rfl), (by decide), _, (rfl), (by first | decide | rfl), (by first | decide | rfl)⟩,
   ⟨dsp {} 3 0, 3, (by first | decide | rfl), (by decide), (by first | decide | rfl)⟩,
   ⟨dsp { pressedAt := some 0 } 3 (us16 5000000), 3, (by first | decide | rfl), (by decide), 0, (by rfl), (by first | decide | rfl), (by decide)⟩,
   ⟨dsp { shutAt := some 0 } 4 (us16 10000000), 3, (by first | decide | rfl), (by decide), 0, (by rfl), (by first | decide | rfl), (by decide)⟩,
   ⟨setB DS_STATUS_POWERED 3 r0, 3, (by first | decide | rfl), (by decide), (by first | decide | rfl)⟩,
   ⟨dsp {} 4 0, 3, (by first | decide | rfl), (by decide), (by first | decide | rfl)⟩⟩

/-- Every clause of `Obligations.SessionPoolsAndTokens` has a state and operands that meet its hypotheses. -/
theorem test_SessionPoolsAndTokens_met :
    (∃ (s : State) (g k : Nat) (d : Desc) (i : Nat) (e : SesEnt), s.power.stopped = false ∧ ∃ base n, runningDesc g k 0x10 s = some d ∧ base = slice (d.word 2) 0 44 ∧ n = slice (d.word 3) 0 29 ∧ poolAddStatus (ringFn g) base n s = .ok ∧ wideClaimed base (n * 32768) s = true) ∧
    (∃ (s : State) (g k : Nat) (d : Desc) (i : Nat) (e : SesEnt), s.power.stopped = false ∧ ∃ base n, runningDesc g k 0x10 s = some d ∧ base = slice (d.word 2) 0 44 ∧ n = slice (d.word 3) 0 29 ∧ poolAddStatus (ringFn g) base n s ≠ .ok) ∧
    (∃ (s : State) (g k : Nat) (d : Desc) (i : Nat) (e : SesEnt), s.power.stopped = false ∧ ∃ (x : SesEnt) (r : _), runningDesc g k 0x11 s = some d ∧ sesHeld (ringFn g) 0x11 s = false ∧ sesGate (ringFn g) 0x11 s = .ok ∧ x = { fn := ringFn g, kvFmt := slice (d.word 2) 0 4, dim := slice (d.word 2) 4 2, layersM1 := slice (d.word 2) 6 8, headsM1 := slice (d.word 2) 14 6, gen := 0, maxTokens := slice (d.word 3) 0 23, root := 0 } ∧ createStatus (ringFn g) (geometryBad x.kvFmt x.dim x.layersM1 x.headsM1 x.maxTokens) (x.leaves + 1) s = .ok ∧ r = makeSes x s) ∧
    (∃ (s : State) (g k : Nat) (d : Desc) (i : Nat) (e : SesEnt), s.power.stopped = false ∧ runningDesc g k 0x11 s = some d ∧ sesHeld (ringFn g) 0x11 s = false ∧ sesGate (ringFn g) 0x11 s = .ok ∧ slice (d.word 3) 0 23 = 0) ∧
    (∃ (s : State) (g k : Nat) (d : Desc) (i : Nat) (e : SesEnt), s.power.stopped = false ∧ ∃ layer count fmt at' src w, sessionNamed 0x12 g k d i e s ∧ layer = slice (d.word 2) 32 8 ∧ count = slice (d.word 2) 40 6 + 1 ∧ fmt = slice (d.word 2) 48 2 ∧ at' = slice (d.word 3) 0 23 ∧ src = slice (d.word 4) 0 44 ∧ appendStatus e layer fmt at' count (pendingOf e s).2.1 = .ok ∧ appendReady e count fmt src s = true ∧ w = appendRun i e layer count fmt at' src s) ∧
    (∃ (s : State) (g k : Nat) (d : Desc) (i : Nat) (e : SesEnt), s.power.stopped = false ∧ sessionNamed 0x12 g k d i e s ∧ e.maxTokens < slice (d.word 3) 0 23 + (slice (d.word 2) 40 6 + 1) ∧ slice (d.word 2) 32 8 < e.layers ∧ slice (d.word 2) 48 2 ≤ 2) ∧
    (∃ (s : State) (g k : Nat) (d : Desc) (i : Nat) (e : SesEnt), s.power.stopped = false ∧ ∃ buf r w, sessionNamed 0x19 g k d i e s ∧ buf = slice (d.word 3) 0 44 ∧ buf % 64 = 0 ∧ rangeStatus (.agent e.fn) buf 96 true s = .ok ∧ claimed buf 96 true s = true ∧ r = homeGet (.engine e.fn) (frameOff e.root) 64 s ∧ r.1.good = true ∧ w = homePut (.agent e.fn) buf (e.image ++ r.2.1) r.2.2) ∧
    (∃ (s : State) (g k : Nat) (d : Desc) (i : Nat) (e : SesEnt), s.power.stopped = false ∧ sessionNamed 0x19 g k d i e s ∧ slice (d.word 3) 0 44 % 64 ≠ 0 ∧ rangeStatus (.agent e.fn) (slice (d.word 3) 0 44) 96 true s = .ok) ∧
    (∃ (s : State) (g k : Nat) (d : Desc) (i : Nat) (e : SesEnt), s.power.stopped = false ∧ ∃ (t : _) (x : StrEnt), sessionNamed 0x1A g k d i e s ∧ strHeldBy e.fn s < rd STR_QUOTA_MAX e.fn s ∧ freeStr s = some t ∧ x = { session := i, gen := e.gen, fn := e.fn, sketchSel := bit (d.word 2) 40, pageBudget := slice (d.word 2) 41 16, batch := slice (d.word 2) 32 8, pos := e.len, qSlot := slice (d.word 3) 0 16 }) ∧
    (∃ (s : State) (g k : Nat) (d : Desc) (i : Nat) (e : SesEnt), s.power.stopped = false ∧ sessionNamed 0x1A g k d i e s ∧ rd STR_QUOTA_MAX e.fn s ≤ strHeldBy e.fn s) ∧
    (∃ (s : State) (g k : Nat) (d : Desc) (i : Nat) (e : SesEnt), s.power.stopped = false ∧ ∃ t x, runningDesc g k 0x1B s = some d ∧ t = slice (d.word 2) 0 17 ∧ look s.ses.streams t = some x ∧ x.fn = ringFn g ∧ sesGate (ringFn g) 0x1B s = .ok ∧ (∀ b ∈ s.attn.batches, b.running = true → ∀ y ∈ b.streams, y.idx ≠ t)) ∧
    (∃ (s : State) (g k : Nat) (d : Desc) (i : Nat) (e : SesEnt), s.power.stopped = false ∧ ∃ t x, runningDesc g k 0x1B s = some d ∧ t = slice (d.word 2) 0 17 ∧ look s.ses.streams t = some x ∧ x.fn ≠ ringFn g ∧ sesGate (ringFn g) 0x1B s = .ok ∧ (∀ b ∈ s.attn.batches, b.running = true → ∀ y ∈ b.streams, y.idx ≠ t)) :=
  ⟨⟨running 0 0 [0x10, 0, 0, 32768] (own1), 0, 0, ring0 0 0 [0x10, 0, 0, 32768], 5, ses1, (by first | decide | rfl), 0, 32768, (by rfl), (by rfl), (by rfl), (by first | decide | rfl), (by first | decide | rfl)⟩,
   ⟨running 0 0 [0x10, 0, 0, 0] (own1), 0, 0, ring0 0 0 [0x10, 0, 0, 0], 5, ses1, (by first | decide | rfl), 0, 0, (by rfl), (by rfl), (by rfl), (by decide)⟩,
   ⟨running 0 0 [0x11, 0, 0, 1] (pool0), 0, 0, ring0 0 0 [0x11, 0, 0, 1], 5, ses1, (by first | decide | rfl), { fn := 0, kvFmt := 0, dim := 0, layersM1 := 0, headsM1 := 0, gen := 0, maxTokens := 1, root := 0 }, _, (by rfl), (by first | decide | rfl), (by first | decide | rfl), (by rfl), (by first | decide | rfl), (rfl)⟩,
   ⟨running 0 0 [0x11, 0, 0, 0] (own1), 0, 0, ring0 0 0 [0x11, 0, 0, 0], 5, ses1, (by first | decide | rfl), (by rfl), (by first | decide | rfl), (by first | decide | rfl), (by first | decide | rfl)⟩,
   ⟨running 0 0 [0x12, 0, h5, 0, 0] (tab ses1 own1), 0, 0, ring0 0 0 [0x12, 0, h5, 0, 0], 5, ses1, (by first | decide | rfl), 0, 1, 0, 0, 0, _, (⟨rfl, by first | decide | rfl, by first | decide | rfl, by rfl, by first | decide | rfl⟩), (by rfl), (by rfl), (by rfl), (by first | decide | rfl), (by rfl), (by first | decide | rfl), (by first | decide | rfl), (rfl)⟩,
   ⟨running 0 0 [0x12, 0, h5, 128, 0] (tab ses1 own1), 0, 0, ring0 0 0 [0x12, 0, h5, 128, 0], 5, ses1, (by first | decide | rfl), (⟨rfl, by first | decide | rfl, by first | decide | rfl, by rfl, by first | decide | rfl⟩), (by decide), (by decide), (by decide)⟩,
   ⟨running 0 0 [0x19, 0, h5, 2 ^ 30 - 128] (tab ses1 own1), 0, 0, ring0 0 0 [0x19, 0, h5, 2 ^ 30 - 128], 5, ses1, (by first | decide | rfl), 2 ^ 30 - 128, _, _, (⟨rfl, by first | decide | rfl, by first | decide | rfl, by rfl, by first | decide | rfl⟩), (by rfl), (by first | decide | rfl), (by first | decide | rfl), (by first | decide | rfl), (rfl), (by first | decide | rfl), (rfl)⟩,
   ⟨running 0 0 [0x19, 0, h5, 1] (tab ses1 own1), 0, 0, ring0 0 0 [0x19, 0, h5, 1], 5, ses1, (by first | decide | rfl), (⟨rfl, by first | decide | rfl, by first | decide | rfl, by rfl, by first | decide | rfl⟩), (by decide), (by first | decide | rfl)⟩,
   ⟨running 0 0 [0x1A, 0, h5, 65535] (tab ses1 own1), 0, 0, ring0 0 0 [0x1A, 0, h5, 65535], 5, ses1, (by first | decide | rfl), 0, { session := 5, gen := 1, fn := 0, sketchSel := false, pageBudget := 0, batch := 0, pos := 0, qSlot := 65535 }, (⟨rfl, by first | decide | rfl, by first | decide | rfl, by rfl, by first | decide | rfl⟩), (by decide), (firstBelow_zero 131071 _ (by decide)), (by rfl)⟩,
   ⟨running 0 0 [0x1A, 0, h5, 65535] (wr STR_QUOTA_MAX 0 0 (tab ses1 own1)), 0, 0, ring0 0 0 [0x1A, 0, h5, 65535], 5, ses1, (by first | decide | rfl), (⟨rfl, by first | decide | rfl, by first | decide | rfl, by rfl, by first | decide | rfl⟩), (by decide)⟩,
   ⟨running 0 0 [0x1B, 0, 131071] (streams 131071 st0 own1), 0, 0, ring0 0 0 [0x1B, 0, 131071], 5, ses1, (by first | decide | rfl), 131071, st0, (by rfl), (by rfl), (by rfl), (by first | decide | rfl), (by first | decide | rfl), (by decide)⟩,
   ⟨running 0 0 [0x1B, 0, 131071] (streams 131071 { st0 with fn := 1 } own1), 0, 0, ring0 0 0 [0x1B, 0, 131071], 5, ses1, (by first | decide | rfl), 131071, { st0 with fn := 1 }, (by rfl), (by rfl), (by rfl), (by decide), (by first | decide | rfl), (by decide)⟩⟩

/-- Every clause of `Obligations.SessionForkMirrorMigratePark` has a state and operands that meet its hypotheses. -/
theorem test_SessionForkMirrorMigratePark_met :
    (∃ (s : State) (g k : Nat) (d : Desc) (i : Nat) (e : SesEnt), s.power.stopped = false ∧ ∃ x r w, sessionNamed 0x13 g k d i e s ∧ x = childOf d e ∧ x.len ≤ e.len ∧ x.len ≤ x.maxTokens ∧ geometryBad x.kvFmt x.dim x.layersM1 x.headsM1 x.maxTokens = false ∧ createStatus e.fn false (x.leaves + 1 + (if x.len % e.n = 0 then 0 else e.layers * e.heads)) s = .ok ∧ r = makeSes x s ∧ w = seqSteps ((List.range e.layers).flatMap (fun l => (List.range e.heads).flatMap (fun h => forkSteps i r.2.1 x.len e.n l h))) r.2.2) ∧
    (∃ (s : State) (g k : Nat) (d : Desc) (i : Nat) (e : SesEnt), s.power.stopped = false ∧ sessionNamed 0x13 g k d i e s ∧ e.len < (childOf d e).len) ∧
    (∃ (s : State) (g k : Nat) (d : Desc) (i : Nat) (e : SesEnt), s.power.stopped = false ∧ ∃ u v w, sessionNamed 0x18 g k d i e s ∧ sesOpOf i s = none ∧ u = (if mirrors e then tellHub (twinId s) 2 [e.twinIndex, e.fn] (forgetMirror i s) else s) ∧ v = (if e.replica then tellHub (twinId u) 3 [e.twinIndex, e.fn] u else u) ∧ w = (if e.streamValid then dropStream e.stream v else v)) ∧
    (∃ (s : State) (g k : Nat) (d : Desc) (i : Nat) (e : SesEnt), s.power.stopped = false ∧ ∃ ty c, (ty = 0x18 ∧ c = exec (.sesDelete g k) s ∨ ty = 0x19 ∧ c = exec (.sesQuery g k) s) ∧ runningDesc g k ty s = some d ∧ sesHeld (ringFn g) ty s = false ∧ sesGate (ringFn g) ty s = .ok ∧ sesOf (ringFn g) (wrap 32 (d.word 2)) s = none) ∧
    (∃ (s : State) (g k : Nat) (d : Desc) (i : Nat) (e : SesEnt), s.power.stopped = false ∧ ∃ (o : SesOp), sesOpAt g k s = none ∧ sessionNamed 0x16 g k d i e s ∧ mirrorDenied e.fn s = false ∧ bit (d.word 2) 32 = true ∧ e.mirror = false ∧ goodPorts 6 s ≠ [] ∧ o = { ty := 0x16, g := g, k := k, ses := i }) ∧
    (∃ (s : State) (g k : Nat) (d : Desc) (i : Nat) (e : SesEnt), s.power.stopped = false ∧ ∃ o, sesOpAt g k s = some o ∧ o.ty = 0x16 ∧ o.phase = 0) ∧
    (∃ (s : State) (g k : Nat) (d : Desc) (i : Nat) (e : SesEnt), s.power.stopped = false ∧ ∃ (o : SesOp) (b : _), sesOpAt g k s = none ∧ sessionNamed 0x17 g k d i e s ∧ slice (d.word 2) 32 12 ≠ rd HUB_ID_ID 0 s ∧ rdb SYR_ROUTE_VALID (slice (d.word 2) 32 12) s = true ∧ o = { ty := 0x17, g := g, k := k, ses := i } ∧ b = migrateBundle i e s ∧ b.1.good = true) ∧
    (∃ (s : State) (g k : Nat) (d : Desc) (i : Nat) (e : SesEnt), s.power.stopped = false ∧ ∃ b, sesOpAt g k s = none ∧ sessionNamed 0x17 g k d i e s ∧ slice (d.word 2) 32 12 ≠ rd HUB_ID_ID 0 s ∧ rdb SYR_ROUTE_VALID (slice (d.word 2) 32 12) s = true ∧ b = migrateBundle i e s ∧ b.1.good = false) ∧
    (∃ (s : State) (g k : Nat) (d : Desc) (i : Nat) (e : SesEnt), s.power.stopped = false ∧ ∃ o, sesOpAt g k s = some o ∧ o.ty = 0x17) ∧
    (∃ (s : State) (g k : Nat) (d : Desc) (i : Nat) (e : SesEnt), s.power.stopped = false ∧ sesOpAt g k s = none ∧ sessionNamed 0x17 g k d i e s ∧ slice (d.word 2) 32 12 = rd HUB_ID_ID 0 s) ∧
    (∃ (s : State) (g k : Nat) (d : Desc) (i : Nat) (e : SesEnt), s.power.stopped = false ∧ ∃ (f : _) (root : _) (nonce : _) (img : _) (o : SesOp), sessionNamed 0x14 g k d i e s ∧ targetStatus e.fn (slice (d.word 3) 0 2) (slice (d.word 3) 2 2) (slice (d.word 3) 4 32) (d.word 4) (imageBytes (imageEntries e).length) s = .ok ∧ f = readFrames e (imageEntries e) s ∧ f.1.good = true ∧ root = parkRoot e.fn f.2.2 ∧ nonce = ofBytes (freeBytes root.2.freeCtr 12) ∧ img = parkImage (Config.parkKey root.1 e.fn nonce) nonce e f.2.1 ∧ o = { ty := 0x14, g := g, k := k, ses := i, kind := slice (d.word 3) 0 2, port := slice (d.word 3) 2 2, nsid := slice (d.word 3) 4 32, target := d.word 4, image := img.take 4096 }) ∧
    (∃ (s : State) (g k : Nat) (d : Desc) (i : Nat) (e : SesEnt), s.power.stopped = false ∧ ∃ (kind : _) (port : _) (nsid : _) (target : _) (s1 : _) (o : SesOp), runningDesc g k 0x15 s = some d ∧ sesHeld (ringFn g) 0x15 s = false ∧ sesGate (ringFn g) 0x15 s = .ok ∧ sesOpAt g k s = none ∧ sesBehind g k s = false ∧ wrap 32 (d.word 2) ≠ 0 ∧ sesOf (ringFn g) (wrap 32 (d.word 2)) s = some (i, e) ∧ tableRuns 0x15 e = true ∧ restoreTarget d (some e) s = (.ok, (kind, port, nsid, target), s1) ∧ targetStatus (ringFn g) kind port nsid target 4096 s1 = .ok ∧ o = { ty := 0x15, g := g, k := k, ses := i, kind := kind, port := port, nsid := nsid, target := target }) ∧
    (∃ (s : State) (g k : Nat) (d : Desc) (i : Nat) (e : SesEnt), s.power.stopped = false ∧ ∃ (kind : _) (port : _) (nsid : _) (target : _) (s1 : _) (o : SesOp), runningDesc g k 0x15 s = some d ∧ sesHeld (ringFn g) 0x15 s = false ∧ sesGate (ringFn g) 0x15 s = .ok ∧ sesOpAt g k s = none ∧ sesBehind g k s = false ∧ wrap 32 (d.word 2) = 0 ∧ restoreTarget d none s = (.ok, (kind, port, nsid, target), s1) ∧ targetStatus (ringFn g) kind port nsid target 4096 s1 = .ok ∧ o = { ty := 0x15, g := g, k := k, ses := 262144, kind := kind, port := port, nsid := nsid, target := target }) ∧
    (∃ (s : State) (g k : Nat) (d : Desc) (i : Nat) (e : SesEnt), s.power.stopped = false ∧ ∃ p tag r id, tag ≠ shutdownTag ∧ reqOf 3 78 tag s = some r ∧ r.purpose = .device p id) :=
  ⟨⟨running 0 0 [0x13, 0, h5, 2 ^ 23] (tab ses1 pool0), 0, 0, ring0 0 0 [0x13, 0, h5, 2 ^ 23], 5, ses1, (by first | decide | rfl), childOf (ring0 0 0 [0x13, 0, h5, 2 ^ 23]) ses1, _, _, (⟨rfl, by first | decide | rfl, by first | decide | rfl, by rfl, by first | decide | rfl⟩), (by rfl), (by decide), (by decide), (by first | decide | rfl), (by first | decide | rfl), (rfl), (rfl)⟩,
   ⟨running 0 0 [0x13, 0, h5, 1 + 2 ^ 23] (tab ses1 own1), 0, 0, ring0 0 0 [0x13, 0, h5, 1 + 2 ^ 23], 5, ses1, (by first | decide | rfl), (⟨rfl, by first | decide | rfl, by first | decide | rfl, by rfl, by first | decide | rfl⟩), (by decide)⟩,
   ⟨running 0 0 [0x18, 0, h5] (tab ses1 own1), 0, 0, ring0 0 0 [0x18, 0, h5], 5, ses1, (by first | decide | rfl), _, _, _, (⟨rfl, by first | decide | rfl, by first | decide | rfl, by rfl, by first | decide | rfl⟩), (by first | decide | rfl), (rfl), (rfl), (rfl)⟩,
   ⟨running 0 0 [0x18, 0, h5] (own1), 0, 0, ring0 0 0 [0x18, 0, h5], 5, ses1, (by first | decide | rfl), 0x18, exec (.sesDelete 0 0) (running 0 0 [0x18, 0, h5] (own1)), (.inl ⟨rfl, rfl⟩), (by rfl), (by first | decide | rfl), (by first | decide | rfl), (by first | decide | rfl)⟩,
   ⟨running 0 0 [0x16, 0, h5 + 2 ^ 32] (setB SYR_PORT_UP 19 (wr SYR_PORT_LANES 19 1 (tab ses1 own1))), 0, 0, ring0 0 0 [0x16, 0, h5 + 2 ^ 32], 5, ses1, (by first | decide | rfl), { ty := 0x16, g := 0, k := 0, ses := 5 }, (by first | decide | rfl), (⟨rfl, by first | decide | rfl, by first | decide | rfl, by rfl, by first | decide | rfl⟩), (by first | decide | rfl), (by first | decide | rfl), (by first | decide | rfl), (by decide), (by rfl)⟩,
   ⟨running 0 0 [0x16, 0, h5 + 2 ^ 32] (setSes (fun x => { x with ops := [{ ty := 0x16, g := 0, k := 0, ses := 5 }] }) (tab ses1 own1)), 0, 0, ring0 0 0 [0x16, 0, h5 + 2 ^ 32], 5, ses1, (by first | decide | rfl), { ty := 0x16, g := 0, k := 0, ses := 5 }, (by rfl), (by first | decide | rfl), (by first | decide | rfl)⟩,
   ⟨running 0 0 [0x17, 0, h5 + 2 ^ 32] (setB SYR_ROUTE_VALID 1 (tab ses1 own1)), 0, 0, ring0 0 0 [0x17, 0, h5 + 2 ^ 32], 5, ses1, (by first | decide | rfl), { ty := 0x17, g := 0, k := 0, ses := 5 }, _, (by first | decide | rfl), (⟨rfl, by first | decide | rfl, by first | decide | rfl, by rfl, by first | decide | rfl⟩), (by decide), (by first | decide | rfl), (by rfl), (rfl), (by decide +kernel)⟩,
   ⟨running 0 0 [0x17, 0, h5 + 2 ^ 32] (setB SYR_ROUTE_VALID 1 (setMem (fun m => { m with lost := [0] }) (tab ses1 own1))), 0, 0, ring0 0 0 [0x17, 0, h5 + 2 ^ 32], 5, ses1, (by first | decide | rfl), _, (by first | decide | rfl), (⟨rfl, by first | decide | rfl, by first | decide | rfl, by rfl, by first | decide | rfl⟩), (by decide), (by first | decide | rfl), (rfl), (by decide +kernel)⟩,
   ⟨running 0 0 [0x17, 0, h5] (setSes (fun x => { x with ops := [{ ty := 0x17, g := 0, k := 0, ses := 5 }] }) (tab ses1 own1)), 0, 0, ring0 0 0 [0x17, 0, h5], 5, ses1, (by first | decide | rfl), { ty := 0x17, g := 0, k := 0, ses := 5 }, (by rfl), (by first | decide | rfl)⟩,
   ⟨running 0 0 [0x17, 0, h5] (tab ses1 own1), 0, 0, ring0 0 0 [0x17, 0, h5], 5, ses1, (by first | decide | rfl), (by first | decide | rfl), (⟨rfl, by first | decide | rfl, by first | decide | rfl, by rfl, by first | decide | rfl⟩), (by first | decide | rfl)⟩,
   ⟨running 0 0 [0x14, 0, h5, 1, 0] (setB DS_ASSIGN_VALID 0 (wr DS_STATUS_STATE 0 3 (tab ses1 own1))), 0, 0, ring0 0 0 [0x14, 0, h5, 1, 0], 5, ses1, (by first | decide | rfl), _, _, _, _, _, (⟨rfl, by first | decide | rfl, by first | decide | rfl, by rfl, by first | decide | rfl⟩), (by first | decide | rfl), (rfl), (by first | decide | rfl), (rfl), (rfl), (rfl), (rfl)⟩,
   ⟨running 0 0 [0x15, 0, h5] (setMem (fun m => { m with bytes := [(40, 1)] }) (setB DS_ASSIGN_VALID 0 (wr DS_STATUS_STATE 0 3 (tab { ses1 with state := 2 } own1)))), 0, 0, ring0 0 0 [0x15, 0, h5], 5, { ses1 with state := 2 }, (by first | decide | rfl), 1, 0, 0, 0, _, { ty := 0x15, g := 0, k := 0, ses := 5, kind := 1 }, (by rfl), (by first | decide | rfl), (by first | decide | rfl), (by first | decide | rfl), (by first | decide | rfl), (by decide), (by rfl), (by first | decide | rfl), (Prod.ext (by decide) (Prod.ext (by decide) rfl)), (by first | decide | rfl), (by rfl)⟩,
   ⟨running 0 0 [0x15, 0, 0, 1] (setB DS_ASSIGN_VALID 0 (wr DS_STATUS_STATE 0 3 (tab ses1 own1))), 0, 0, ring0 0 0 [0x15, 0, 0, 1], 5, ses1, (by first | decide | rfl), 1, 0, 0, 0, _, { ty := 0x15, g := 0, k := 0, ses := 262144, kind := 1 }, (by rfl), (by first | decide | rfl), (by first | decide | rfl), (by first | decide | rfl), (by first | decide | rfl), (by first | decide | rfl), (Prod.ext (by decide) (Prod.ext (by decide) rfl)), (by first | decide | rfl), (by rfl)⟩,
   ⟨running 0 0 [0, 0] (reqs [{ req0 (.device 3 7) with cls := 3, port := 78 }] own1), 0, 0, ring0 0 0 [0, 0], 5, ses1, (by first | decide | rfl), 3, 0, { req0 (.device 3 7) with cls := 3, port := 78 }, 7, (by decide), (by rfl), (by first | decide | rfl)⟩⟩

/-- Every clause of `Obligations.CollectivesAndAttention` has a state and operands that meet its hypotheses. -/
theorem test_CollectivesAndAttention_met :
    (∃ (s s1 : State), s.power.stopped = false ∧ ∃ g k d b, runningDesc g k 0x22 s = some d ∧ slice (d.word 3) 0 44 % 64 = 0 ∧ rangeStatus (.agent (ringFn g)) (slice (d.word 3) 0 44) 64 false s = .ok ∧ claimed (slice (d.word 3) 0 44) 64 false s = true ∧ homeGet (.agent (ringFn g)) (slice (d.word 3) 0 44) 64 s = (.ok, b, s1) ∧ collStatus (ringFn g) (slice (d.word 2) 0 8) b s1 = .ok ∧ bit (ofBytes (b.take 8)) 0 = true) ∧
    (∃ (s s1 : State), s.power.stopped = false ∧ ∃ g k d b, runningDesc g k 0x22 s = some d ∧ slice (d.word 3) 0 44 % 64 = 0 ∧ rangeStatus (.agent (ringFn g)) (slice (d.word 3) 0 44) 64 false s = .ok ∧ claimed (slice (d.word 3) 0 44) 64 false s = true ∧ homeGet (.agent (ringFn g)) (slice (d.word 3) 0 44) 64 s = (.ok, b, s1) ∧ collStatus (ringFn g) (slice (d.word 2) 0 8) b s1 ≠ .ok) ∧
    (∃ (s s1 : State), s.power.stopped = false ∧ ∃ p r c d, takeInbox (fun q => q.opc == 0x8 && redReady s q) s = some (p, s1) ∧ look s1.syr.runs (redId p) = some r ∧ look s1.syr.colls (redId p) = some c ∧ fromDir p ((List.range 6).filter (bit c.childs)) s1 = some d ∧ p.seq = r.seq ∧ redBlock p < c.blocks ∧ p.data.length = c.blockLen (redBlock p)) ∧
    (∃ (s s1 : State), s.power.stopped = false ∧ ∃ p r c, takeInbox (fun q => q.opc == 0x9 && redReady s q) s = some (p, s1) ∧ look s1.syr.runs (redId p) = some r ∧ look s1.syr.colls (redId p) = some c ∧ p.seq = r.seq ∧ p.status ≠ 0) ∧
    (∃ (s s1 : State), s.power.stopped = false ∧ ∃ p r c, takeInbox (fun q => q.opc == 0x9 && redReady s q) s = some (p, s1) ∧ look s1.syr.runs (redId p) = some r ∧ look s1.syr.colls (redId p) = some c ∧ p.seq = r.seq ∧ p.status = 0 ∧ fromDir p [c.parent] s1 = some c.parent ∧ redBlock p < c.blocks ∧ p.data.length = c.blockLen (redBlock p) ∧ claimed (c.dst + 512 * redBlock p) (c.blockLen (redBlock p)) true s = true) ∧
    (∃ (s s1 : State), s.power.stopped = false ∧ ∃ n r, look s.syr.runs n = some r ∧ r.start + r.limit ≤ now16 s) ∧
    (∃ (s : State), s.power.stopped = false ∧ ∃ g k d s1, runningDesc g k 0x0A s = some d ∧ s.attn.batches.any (fun b => b.g == g && b.k == k) = false ∧ batchStatus (ringFn g) d s = .ok ∧ s1 = count ctlUnit 0xC4 (some (ringFn g)) 1 s) ∧
    (∃ (s : State), s.power.stopped = false ∧ ∃ g k d st, runningDesc g k 0x0A s = some d ∧ s.attn.batches.any (fun b => b.g == g && b.k == k) = false ∧ batchStatus (ringFn g) d s = st ∧ st ≠ .ok) ∧
    (∃ (s : State), s.power.stopped = false ∧ ∃ b d r s1, s.attn.batches.find? (fun b => mayStart b s) = some b ∧ descOf b.g b.k s = some d ∧ (selectClaims d b).find? (fun p => !claimed p.1 p.2 false s) = none ∧ planAll (nth 79 (liveTiles b.fn s) 0) d b.streams s = (r, s1)) ∧
    (∃ (s : State), s.power.stopped = false ∧ ∃ t r b d it, (grv t s).run = some r ∧ r.work.kind = 2 ∧ aBatchOf r.work.g s = some b ∧ descOf b.g b.k s = some d ∧ b.items[r.work.k]? = some it ∧ r.blk.isEmpty = false ∧ r.ended = true ∧ drained r = true) ∧
    (∃ (s : State), s.power.stopped = false ∧ ∃ t r b d it x e a res draw w, (grv t s).run = some r ∧ r.work.kind = 2 ∧ aBatchOf r.work.g s = some b ∧ descOf b.g b.k s = some d ∧ b.items[r.work.k]? = some it ∧ r.blk = [] ∧ r.ended = false ∧ b.streams[it.str]? = some x ∧ x.live s = some e ∧ (itemRanges d e x b r.work.k it (lastSegment b r.work.k it && passClean b it)).find? (fun p => !claimed p.1 p.2.1 p.2.2 s) = none ∧ a = itemReads t d e x it s ∧ a.1.st = .ok ∧ res = segSofts d e x it a.1 ∧ draw = Config.kernelDraw (kernelKey (grv t s) d a.1) ∧ w = keepSegment t d e b.id r.work.k it res (setItem b.id r.work.k (fun y => { y with res := res }) a.2) ∧ (lastSegment b r.work.k it && passClean b it) = false) ∧
    (∃ (s : State), s.power.stopped = false ∧ ∃ t r b d it x e a res draw w, (grv t s).run = some r ∧ r.work.kind = 2 ∧ aBatchOf r.work.g s = some b ∧ descOf b.g b.k s = some d ∧ b.items[r.work.k]? = some it ∧ r.blk = [] ∧ r.ended = false ∧ b.streams[it.str]? = some x ∧ x.live s = some e ∧ (itemRanges d e x b r.work.k it (lastSegment b r.work.k it && passClean b it)).find? (fun p => !claimed p.1 p.2.1 p.2.2 s) = none ∧ a = itemReads t d e x it s ∧ a.1.st = .ok ∧ res = segSofts d e x it a.1 ∧ draw = Config.kernelDraw (kernelKey (grv t s) d a.1) ∧ w = keepSegment t d e b.id r.work.k it res (setItem b.id r.work.k (fun y => { y with res := res }) a.2) ∧ ∃ u, (lastSegment b r.work.k it && passClean b it) = true ∧ w.1.good = true ∧ u = mergePass t d e x { b with items := modNth r.work.k (fun y => { y with res := res }) b.items } it w.2) :=
  ⟨⟨(setMem (fun m => { m with bytes := [(0, 1)] }) (running 0 0 [0x22, 0, 0, 0] (own1))), _, (by first | decide | rfl), 0, 0, ring0 0 0 [0x22, 0, 0, 0], _, (by rfl), (by first | decide | rfl), (by first | decide | rfl), (by first | decide | rfl), (Prod.ext (by first | decide | rfl) rfl), (by first | decide | rfl), (by first | decide | rfl)⟩,
   ⟨setMem (fun m => { m with bytes := [(0, 2)] }) (running 0 0 [0x22, 0, 0, 0] (own1)), _, (by first | decide | rfl), 0, 0, ring0 0 0 [0x22, 0, 0, 0], _, (by rfl), (by first | decide | rfl), (by first | decide | rfl), (by first | decide | rfl), (Prod.ext (by first | decide | rfl) rfl), (by decide +kernel)⟩,
   ⟨cst0 [{ pkt 8 with src := 5, data := List.replicate 64 0 }], cst0 [], (by first | decide | rfl), { pkt 8 with src := 5, data := List.replicate 64 0 }, crun0, coll0, 0, (by decide +kernel), (by rfl), (by rfl), (by rfl), (by first | decide | rfl), (by decide), (by first | decide | rfl)⟩,
   ⟨cst0 [{ pkt 9 with status := 1 }], cst0 [], (by first | decide | rfl), { pkt 9 with status := 1 }, crun0, coll0, (by decide +kernel), (by rfl), (by rfl), (by first | decide | rfl), (by decide)⟩,
   ⟨cst0 [{ pkt 9 with src := 5, data := List.replicate 64 0 }], cst0 [], (by first | decide | rfl), { pkt 9 with src := 5, data := List.replicate 64 0 }, crun0, coll0, (by decide +kernel), (by rfl), (by rfl), (by first | decide | rfl), (by first | decide | rfl), (by rfl), (by decide), (by first | decide | rfl), (by first | decide | rfl)⟩,
   ⟨later (us16 5000) (cst0 []), r0, (by first | decide | rfl), 0, crun0, (by rfl), (by decide)⟩,
   ⟨running 0 0 [0x0A, 0, 1, 0x3F800000, 0, 0, 0, 0] own1, (by first | decide | rfl), 0, 0, ring0 0 0 [0x0A, 0, 1, 0x3F800000, 0, 0, 0, 0], _, (by rfl), (by first | decide | rfl), (by first | decide | rfl), (rfl)⟩,
   ⟨running 0 0 [0x0A, 0, 1, 0x3F800000, 0, 0, 0, 0] r0, (by first | decide | rfl), 0, 0, ring0 0 0 [0x0A, 0, 1, 0x3F800000, 0, 0, 0, 0], .accessDenied, (by rfl), (by first | decide | rfl), (by first | decide | rfl), (by decide)⟩,
   ⟨bats bat0 (running 0 0 [0x0A, 0, 1, 0x3F800000, 0, 0, 0, 0] own1), (by first | decide | rfl), bat0, ring0 0 0 [0x0A, 0, 1, 0x3F800000, 0, 0, 0, 0], [], bats bat0 (running 0 0 [0x0A, 0, 1, 0x3F800000, 0, 0, 0, 0] own1), (by rfl), (by rfl), (by first | decide | rfl), (by first | decide | rfl)⟩,
   ⟨engRun arun0 (bats bat0 (running 0 0 [0x0A, 0, 1, 0x3F800000, 0, 0, 0, 0] own1)), (by first | decide | rfl), 63, arun0, bat0, ring0 0 0 [0x0A, 0, 1, 0x3F800000, 0, 0, 0, 0], { str := 0, head := 0, pass := 0, lo := 0, hi := 1, tile := 63 }, (by rfl), (by first | decide | rfl), (by rfl), (by rfl), (by rfl), (by first | decide | rfl), (by first | decide | rfl), (by first | decide | rfl)⟩,
   ⟨engRun arun1 (bats (bat1 [item0, item0]) (running 0 0 [0x0A, 0, 1, 0x3F800000, 0, 0, 0, 0] (tab ses1 own1))), (by first | decide | rfl), 63, arun1, bat1 [item0, item0], ring0 0 0 [0x0A, 0, 1, 0x3F800000, 0, 0, 0, 0], item0, str0, ses1, _, _, _, _, (by rfl), (by first | decide | rfl), (by rfl), (by rfl), (by rfl), (by first | decide | rfl), (by first | decide | rfl), (by rfl), (by rfl), (by first | decide | rfl), (rfl), (by first | decide | rfl), (rfl), (rfl), (rfl), (by first | decide | rfl)⟩,
   ⟨engRun arun1 (bats (bat1 [item0]) (running 0 0 [0x0A, 0, 1, 0x3F800000, 0, 0, 0, 0] (tab ses1 own1))), (by first | decide | rfl), 63, arun1, bat1 [item0], ring0 0 0 [0x0A, 0, 1, 0x3F800000, 0, 0, 0, 0], item0, str0, ses1, _, _, _, _, (by rfl), (by first | decide | rfl), (by rfl), (by rfl), (by rfl), (by first | decide | rfl), (by first | decide | rfl), (by rfl), (by rfl), (by first | decide | rfl), (rfl), (by first | decide | rfl), (rfl), (rfl), (rfl), _, (by first | decide | rfl), (by first | decide | rfl), (rfl)⟩⟩

/-- Every clause of `Obligations.ChannelCommands` has a state and operands that meet its hypotheses. -/
theorem test_ChannelCommands_met :
    (∃ (s : State), s.power.stopped = false ∧ ∃ j ch slot r, nextReq (chanKey j ch) slot s = some r ∧ r.write = false ∧ chanOpen j ch s = true) ∧
    (∃ (s : State), s.power.stopped = false ∧ ∃ j ch, chanOpen j ch s = false) ∧
    (∃ (s : State), s.power.stopped = false ∧ ∃ j ch slot r, nextReq (chanKey j ch) slot s = some r ∧ r.write = true ∧ chanOpen j ch s = true ∧ r.bytes.length = 256) ∧
    (∃ (s : State), s.power.stopped = false ∧ ∃ j ch slot r, nextReq (chanKey j ch) slot s = some r ∧ r.write = true ∧ chanOpen j ch s = true ∧ r.bytes.length ≠ 256) ∧
    (∃ (s : State), s.power.stopped = false ∧ ∃ j ch slot, nextReq (chanKey j ch) slot s = none) ∧
    (∃ (s : State), s.power.stopped = false ∧ ∃ (errs : _) (again : _) (l : _) (c : _) (s1 : State), l = locate (256 * s.mem.scrub) s ∧ rd MEM_SCRUB_HOURS 0 s ≠ 0 ∧ memSize s ≠ 0 ∧ scrubDue s = true ∧ ((chan (chanKey l.site l.ch) s).queue = [] ∨ confStatic s = true) ∧ granHeld s.mem.scrub s = false ∧ chanFailed l.site l.ch s = false ∧ c = fwClass l.site s ∧ s1 = meetErrors l.site l.ch s.mem.scrub errs c again (noteCheck (chanKey l.site l.ch) l.block (serveBytes (chanKey l.site l.ch) c (nextScrub s)))) ∧
    (∃ (s : State), s.power.stopped = false ∧ rd MEM_SCRUB_HOURS 0 s = 0) ∧
    (∃ (s : State), s.power.stopped = false ∧ ∃ j, rdb MEM_CTL_PERIODIC_RT j s = true) ∧
    (∃ (s : State), s.power.stopped = false ∧ ∃ j ch, trainedRate (chanKey j ch) s ≤ 1) ∧
    (∃ (s : State), s.power.stopped = false ∧ ∃ j, rdb MEM_CTL_PERIODIC_RT j s = false) ∧
    (∃ (s : State), s.power.stopped = false ∧ ∃ (j : _) (ch : _) (ok : Bool) (t : _) (s1 : State) (s2 : State) (s3 : State), (chan (chanKey j ch) s).retrainAt = some t ∧ s1 = bump MEM_RETRAIN_COUNT j 1 (clrB MEM_STATUS_RETRAINING j (setChan (chanKey j ch) (fun c => { c with retrainAt := none, ceTimes := [], hold := (now16 s - t) / 16000 }) s)) ∧ s2 = wr MEM_RETRAIN_LONGEST j (max (rd MEM_RETRAIN_LONGEST j s1) (sat 16 ((now16 s1 - t) / 16000))) s1 ∧ s3 = (if ok then trainRate j ch s2 else failChannel j ch s2) ∧ s3.mem.retrain.find? (fun p => p.1 == j) = none) ∧
    (∃ (s : State), s.power.stopped = false ∧ ∃ (j : _) (ch : _) (ok : Bool) (t : _) (s1 : State) (s2 : State) (s3 : State), (chan (chanKey j ch) s).retrainAt = some t ∧ s1 = bump MEM_RETRAIN_COUNT j 1 (clrB MEM_STATUS_RETRAINING j (setChan (chanKey j ch) (fun c => { c with retrainAt := none, ceTimes := [], hold := (now16 s - t) / 16000 }) s)) ∧ s2 = wr MEM_RETRAIN_LONGEST j (max (rd MEM_RETRAIN_LONGEST j s1) (sat 16 ((now16 s1 - t) / 16000))) s1 ∧ s3 = (if ok then trainRate j ch s2 else failChannel j ch s2) ∧ ∃ (p : Nat × Nat), s3.mem.retrain.find? (fun p => p.1 == j) = some p) ∧
    (∃ (s : State), s.power.stopped = false ∧ ∃ j ch, (chan (chanKey j ch) s).retrainAt = none) :=
  ⟨⟨chans { queue := [{ gran := 0, write := false }] } r0, (by first | decide | rfl), 19, 7, 0, { gran := 0, write := false }, (by rfl), (by first | decide | rfl), (by first | decide | rfl)⟩,
   ⟨chans { retrainAt := some 0 } r0, (by first | decide | rfl), 19, 7, (by first | decide | rfl)⟩,
   ⟨chans { queue := [{ gran := 0, write := true, bytes := (List.range 256).map (fun i => (i, 0)) }] } r0, (by first | decide | rfl), 19, 7, 0, { gran := 0, write := true, bytes := (List.range 256).map (fun i => (i, 0)) }, (by rfl), (by first | decide | rfl), (by first | decide | rfl), (by first | decide | rfl)⟩,
   ⟨chans { queue := [{ gran := 0, write := true, bytes := [(0, 0)] }] } r0, (by first | decide | rfl), 19, 7, 0, { gran := 0, write := true, bytes := [(0, 0)] }, (by rfl), (by first | decide | rfl), (by first | decide | rfl), (by decide)⟩,
   ⟨r0, (by first | decide | rfl), 19, 7, 31, (by first | decide | rfl)⟩,
   ⟨own1, (by first | decide | rfl), 0, true, _, _, _, (rfl), (by decide), (by decide), (by first | decide | rfl), (by decide), (by first | decide | rfl), (by first | decide | rfl), (rfl), (rfl)⟩,
   ⟨wr MEM_SCRUB_HOURS 0 0 r0, (by first | decide | rfl), (by first | decide | rfl)⟩,
   ⟨r0, (by first | decide | rfl), 19, (by first | decide | rfl)⟩,
   ⟨setMem (fun m => { m with rates := [(159, 1)] }) r0, (by first | decide | rfl), 19, 7, (by decide)⟩,
   ⟨clrB MEM_CTL_PERIODIC_RT 19 r0, (by first | decide | rfl), 19, (by first | decide | rfl)⟩,
   ⟨chans { retrainAt := some 0 } r0, (by first | decide | rfl), 19, 7, true, 0, _, _, _, (by rfl), (rfl), (rfl), (rfl), (by first | decide | rfl)⟩,
   ⟨setMem (fun m => { m with retrain := [(19, 3)] }) (chans { retrainAt := some 0 } r0), (by first | decide | rfl), 19, 7, true, 0, _, _, _, (by rfl), (rfl), (rfl), (rfl), (19, 3), (by rfl)⟩,
   ⟨r0, (by first | decide | rfl), 19, 7, (by first | decide | rfl)⟩⟩

/-- Every clause of `Obligations.MovesKeysAndTemperature` has a state and operands that meet its hypotheses. -/
theorem test_MovesKeysAndTemperature_met :
    (∃ (s : State), s.power.stopped = false ∧ ∃ errs again j k e s1, rdb MEM_MOVE_ACTIVE 0 s = true ∧ s.mem.moveTo = some (j, k) ∧ movePaused s = false ∧ e = rd MEM_MOVE_ENTRY 0 s ∧ s1 = copyGran (granOf e (rd MEM_MOVE_FRAME 0 s) s) errs again j k s ∧ rd MEM_MOVE_FRAME 0 s1 + 1 < rd MEM_NF_NF 0 s1) ∧
    (∃ (s : State), s.power.stopped = false ∧ ∃ errs again j k e s1, rdb MEM_MOVE_ACTIVE 0 s = true ∧ s.mem.moveTo = some (j, k) ∧ movePaused s = false ∧ e = rd MEM_MOVE_ENTRY 0 s ∧ s1 = copyGran (granOf e (rd MEM_MOVE_FRAME 0 s) s) errs again j k s ∧ rd MEM_NF_NF 0 s1 ≤ rd MEM_MOVE_FRAME 0 s1 + 1) ∧
    (∃ (s : State), s.power.stopped = false ∧ ∃ j k, s.mem.moveTo = some (j, k) ∧ siteRetraining j s = true) ∧
    (∃ (s : State), s.power.stopped = false ∧ rdb MEM_MOVE_ACTIVE 0 s = false) ∧
    (∃ (s : State), s.power.stopped = false ∧ ∃ j ch raw cat f s1 s2 old lvl, ch < 8 ∧ mr4Flds[ch]? = some f ∧ (∀ t, look s.mem.mr4At (chanKey j ch) = some t → t + us16 4000 ≤ now16 s) ∧ s1 = wr f j raw (setMem (fun m => { m with mr4At := put (chanKey j ch) (now16 s) m.mr4At }) s) ∧ old = (chan (chanKey j ch) s1).level ∧ lvl = (if old ≤ mr4Level cat then mr4Level cat else if (chan (chanKey j ch) s1).cooler then old - 1 else old) ∧ s2 = setChan (chanKey j ch) (fun c => { c with level := lvl, cooler := decide (mr4Level cat < old) && !(c.cooler && decide (mr4Level cat < old)), refresh := cat }) s1 ∧ confStatic s2 = true) ∧
    (∃ (s : State), s.power.stopped = false ∧ ∃ j ch raw cat f s1 s2 old lvl, ch < 8 ∧ mr4Flds[ch]? = some f ∧ (∀ t, look s.mem.mr4At (chanKey j ch) = some t → t + us16 4000 ≤ now16 s) ∧ s1 = wr f j raw (setMem (fun m => { m with mr4At := put (chanKey j ch) (now16 s) m.mr4At }) s) ∧ old = (chan (chanKey j ch) s1).level ∧ lvl = (if old ≤ mr4Level cat then mr4Level cat else if (chan (chanKey j ch) s1).cooler then old - 1 else old) ∧ s2 = setChan (chanKey j ch) (fun c => { c with level := lvl, cooler := decide (mr4Level cat < old) && !(c.cooler && decide (mr4Level cat < old)), refresh := cat }) s1 ∧ confStatic s2 = false ∧ ∃ s3, s3 = wr MEM_STATUS_THROTTLE j (((List.range 8).map (fun i => (chan (chanKey j i) s2).level)).foldl max 0) s2) ∧
    (∃ (s : State), s.power.stopped = false ∧ ∃ j ch t, look s.mem.mr4At (chanKey j ch) = some t ∧ now16 s < t + us16 4000) :=
  ⟨⟨move0 (setB MEM_MOVE_ACTIVE 0 (wr MEM_NF_NF 0 2 r0)), (by first | decide | rfl), 0, true, 19, 3, _, _, (by first | decide | rfl), (by rfl), (by first | decide | rfl), (rfl), (rfl), (by decide)⟩,
   ⟨move0 (setB MEM_MOVE_ACTIVE 0 (wr MEM_NF_NF 0 1 r0)), (by first | decide | rfl), 0, true, 19, 3, _, _, (by first | decide | rfl), (by rfl), (by first | decide | rfl), (rfl), (rfl), (by decide)⟩,
   ⟨move0 (setB MEM_STATUS_RETRAINING 19 r0), (by first | decide | rfl), 19, 3, (by rfl), (by first | decide | rfl)⟩,
   ⟨r0, (by first | decide | rfl), (by first | decide | rfl)⟩,
   ⟨conf1 (setB REG_STATUS_STATIC_ACTIVE 0 r0), (by first | decide | rfl), 19, 7, 5, 0, MEM_TEMP_MR4_7, _, _, _, _, (by decide), (by rfl), (by intro t h; cases h), (rfl), (rfl), (rfl), (rfl), (by first | decide | rfl)⟩,
   ⟨r0, (by first | decide | rfl), 19, 7, 5, 0, MEM_TEMP_MR4_7, _, _, _, _, (by decide), (by rfl), (by intro t h; cases h), (rfl), (rfl), (rfl), (rfl), (by first | decide | rfl), _, (rfl)⟩,
   ⟨later (us16 4000 - 1) (setMem (fun m => { m with mr4At := [(159, 0)] }) r0), (by first | decide | rfl), 19, 7, 0, (by rfl), (by decide)⟩⟩

/-- Every clause of `Obligations.MeshAndRequestTimeouts` has a state and operands that meet its hypotheses. -/
theorem test_MeshAndRequestTimeouts_met :
    (∃ (s s1 : State), s.power.stopped = false ∧ ∃ vn pl src dst f, s.mesh.flight.find? (fun f => f.vn == vn && f.plane == pl && f.src == src && f.dst == dst) = some f ∧ s1 = travel src dst (setMesh (fun m => { m with flight := m.flight.erase f }) s) ∧ portTakes dst s1 = true) ∧
    (∃ (s s1 : State), s.power.stopped = false ∧ ∃ vn pl src dst f, s.mesh.flight.find? (fun f => f.vn == vn && f.plane == pl && f.src == src && f.dst == dst) = some f ∧ s1 = travel src dst (setMesh (fun m => { m with flight := m.flight.erase f }) s) ∧ portTakes dst s1 = false) ∧
    (∃ (s s1 : State), s.power.stopped = false ∧ ∃ vn pl src dst, s.mesh.flight.find? (fun f => f.vn == vn && f.plane == pl && f.src == src && f.dst == dst) = none) ∧
    (∃ (s s1 : State), s.power.stopped = false ∧ ∃ r, r < 72 ∧ rdb MESH_CTL_GATE_EN 0 s = true ∧ r ∉ s.mesh.gated ∧ lookD 0 s.mesh.used r + 128 * max 1 (rd MESH_CTL_GATE_IDLE 0 s) ≤ now16 s) ∧
    (∃ (s s1 : State), s.power.stopped = false ∧ rdb MESH_CTL_GATE_EN 0 s = false) ∧
    (∃ (s s1 : State), s.power.stopped = false ∧ rdb HUB_GLOBAL_SETUP_LOCK 0 s = false) ∧
    (∃ (s s1 : State), s.power.stopped = false ∧ rdb HUB_GLOBAL_SETUP_LOCK 0 s = true) ∧
    (∃ (s s1 : State), s.power.stopped = false ∧ atBoundary s = true ∧ s1 = setRuling (fun r => { r with staticAt := r.pos }) s ∧ rdb REG_CTL_STATIC 0 s1 = true ∧ staticOn s1 = false ∧ oversub s1 = true ∧ rdb SEC_STATUS_CONF_PENDING 0 (setB REG_STATUS_STATIC_REFUSED 0 s1) = false) ∧
    (∃ (s s1 : State), s.power.stopped = false ∧ atBoundary s = true ∧ s1 = setRuling (fun r => { r with staticAt := r.pos }) s ∧ rdb REG_CTL_STATIC 0 s1 = true ∧ staticOn s1 = false ∧ oversub s1 = false ∧ rdb SEC_STATUS_CONF_PENDING 0 (setB REG_STATUS_STATIC_ACTIVE 0 s1) = false) ∧
    (∃ (s s1 : State), s.power.stopped = false ∧ atBoundary s = true ∧ s1 = setRuling (fun r => { r with staticAt := r.pos }) s ∧ rdb REG_CTL_STATIC 0 s1 = staticOn s1 ∧ rdb SEC_STATUS_CONF_PENDING 0 s1 = true) ∧
    (∃ (s s1 : State), s.power.stopped = false ∧ atBoundary s = false) ∧
    (∃ (s : State), s.power.stopped = false ∧ ∃ cls port tag r, reqOf cls port tag s = some r ∧ expired r s = true ∧ (∀ a b, r.purpose ≠ .pri a b) ∧ (cls ≠ 3 ∨ port ≠ 77)) ∧
    (∃ (s : State), s.power.stopped = false ∧ ∃ tag r, reqOf 3 77 tag s = some r ∧ expired r s = true ∧ (∀ a b, r.purpose ≠ .pri a b)) ∧
    (∃ (s : State), s.power.stopped = false ∧ ∃ cls port tag r a b, reqOf cls port tag s = some r ∧ r.purpose = .pri a b) ∧
    (∃ (s : State), s.power.stopped = false ∧ ∃ cls port tag r, reqOf cls port tag s = some r ∧ expired r s = false) ∧
    (∃ (s : State), s.power.stopped = false ∧ ∃ cls port tag t, s.timers.tombs.find? (fun t => t.cls == cls && t.port == port && t.tag == tag && due t.till s) = some t) ∧
    (∃ (s : State), s.power.stopped = false ∧ (∀ t ∈ s.timers.tombs, now16 s < t.till)) ∧
    (∃ (s : State), s.power.stopped = false ∧ ∃ cls port tag t, t ∈ s.timers.tombs ∧ t.cls = cls ∧ t.tag = tag ∧ samePort cls t.port port = true) ∧
    (∃ (s : State), s.power.stopped = false ∧ s.timers.tombs = []) ∧
    (∃ (s : State), s.power.stopped = false ∧ ∃ k id o, atTarget k id s = some o ∧ o.heldSince = none ∧ targetHolds o s = true) ∧
    (∃ (s : State), s.power.stopped = false ∧ ∃ k id o, atTarget k id s = some o ∧ targetHolds o s = false) ∧
    (∃ (s : State), s.power.stopped = false ∧ ∃ k id o t, atTarget k id s = some o ∧ o.heldSince = some t ∧ targetHolds o s = false) ∧
    (∃ (s : State), s.power.stopped = false ∧ ∃ k id o, atTarget k id s = some o ∧ o.heldSince = none ∧ o.at16 + o.heldFor + o.limit < now16 s) ∧
    (∃ (s : State), s.power.stopped = false ∧ ∃ k id o, atTarget k id s = some o ∧ (o.heldSince ≠ none ∨ now16 s ≤ o.at16 + o.heldFor + o.limit)) :=
  ⟨⟨setMesh (fun m => { m with flight := [flight0] }) r0, _, (by first | decide | rfl), 3, 0, 79, 72, flight0, (by rfl), (rfl), (by first | decide | rfl)⟩,
   ⟨wr GRV_STATUS_STATE 63 3 (setMesh (fun m => { m with flight := [{ flight0 with dst := 63 }] }) r0), _, (by first | decide | rfl), 3, 0, 79, 63, { flight0 with dst := 63 }, (by rfl), (rfl), (by first | decide | rfl)⟩,
   ⟨r0, r0, (by first | decide | rfl), 3, 0, 79, 72, (by first | decide | rfl)⟩,
   ⟨later 2048 r0, r0, (by first | decide | rfl), 71, (by decide), (by first | decide | rfl), (by first | decide | rfl), (by decide)⟩,
   ⟨clrB MESH_CTL_GATE_EN 0 r0, r0, (by first | decide | rfl), (by first | decide | rfl)⟩,
   ⟨r0, r0, (by first | decide | rfl), (by first | decide | rfl)⟩,
   ⟨setB HUB_GLOBAL_SETUP_LOCK 0 r0, r0, (by first | decide | rfl), (by first | decide | rfl)⟩,
   ⟨wr REG_CLASS_BW_SHARE 1 1 bound0, _, (by first | decide | rfl), (by first | decide | rfl), (rfl), (by first | decide | rfl), (by first | decide | rfl), (by first | decide | rfl), (by first | decide | rfl)⟩,
   ⟨bound0, _, (by first | decide | rfl), (by first | decide | rfl), (rfl), (by first | decide | rfl), (by first | decide | rfl), (by first | decide | rfl), (by first | decide | rfl)⟩,
   ⟨setB SEC_STATUS_CONF_PENDING 0 (setRuling (fun r => { r with pos := 1000000 }) free1), _, (by first | decide | rfl), (by first | decide | rfl), (rfl), (by first | decide | rfl), (by first | decide | rfl)⟩,
   ⟨r0, r0, (by first | decide | rfl), (by first | decide | rfl)⟩,
   ⟨reqs [req0 (.onDie 0)] r0, (by first | decide | rfl), 0, 0, 0, req0 (.onDie 0), (by rfl), (by first | decide | rfl), (fun _ _ h => by cases h), (by decide)⟩,
   ⟨reqs [{ req0 (.onDie 0) with cls := 3, port := 77 }] r0, (by first | decide | rfl), 0, { req0 (.onDie 0) with cls := 3, port := 77 }, (by rfl), (by first | decide | rfl), (by intro a b h; cases h)⟩,
   ⟨reqs [req0 (.pri 63 5)] r0, (by first | decide | rfl), 0, 0, 0, req0 (.pri 63 5), 63, 5, (by rfl), (by first | decide | rfl)⟩,
   ⟨reqs [{ req0 (.onDie 0) with deadline := 1 }] r0, (by first | decide | rfl), 0, 0, 0, { req0 (.onDie 0) with deadline := 1 }, (by rfl), (by first | decide | rfl)⟩,
   ⟨tombs [tomb0 0] r0, (by first | decide | rfl), 0, 79, 65535, tomb0 0, (by rfl)⟩,
   ⟨tombs [tomb0 1] r0, (by first | decide | rfl), (by decide)⟩,
   ⟨tombs [tomb0 1] r0, (by first | decide | rfl), 0, 79, 65535, tomb0 1, (by first | decide | rfl), (by first | decide | rfl), (by first | decide | rfl), (by first | decide | rfl)⟩,
   ⟨r0, (by first | decide | rfl), (by first | decide | rfl)⟩,
   ⟨held0 onDie0 retr0, (by first | decide | rfl), 79, 3, onDie0, (by rfl), (by first | decide | rfl), (by first | decide | rfl)⟩,
   ⟨held0 onDie0 r0, (by first | decide | rfl), 79, 3, onDie0, (by rfl), (by first | decide | rfl)⟩,
   ⟨held0 { onDie0 with heldSince := some 0 } r0, (by first | decide | rfl), 79, 3, { onDie0 with heldSince := some 0 }, 0, (by rfl), (by rfl), (by first | decide | rfl)⟩,
   ⟨later (us16 20 + 1) (held0 onDie0 r0), (by first | decide | rfl), 79, 3, onDie0, (by rfl), (by first | decide | rfl), (by decide)⟩,
   ⟨later (us16 20) (held0 { onDie0 with limit := us16 20 } r0), (by first | decide | rfl), 79, 3, { onDie0 with limit := us16 20 }, (by rfl), (by decide)⟩⟩

/-- Every clause of `Obligations.MemoryReadAfterWrite` has a state and operands that meet its hypotheses. -/
theorem test_MemoryReadAfterWrite_met :
    (∃ (off : Nat) (l : List Byte) (a : Nat) (s : State), (a < off ∨ off + l.length ≤ a)) ∧
    (∃ (off : Nat) (l : List Byte) (a : Nat) (s : State), off ≤ a ∧ a < off + l.length) ∧
    (∃ (off : Nat) (l : List Byte) (a : Nat) (s : State), s.mem.wf) :=
  ⟨⟨4, [1], 5, r0, (by decide)⟩,
   ⟨4, [1], 4, r0, (by decide), (by decide)⟩,
   ⟨4, [1], 4, r0, (⟨rfl, fun _ h => by cases h⟩)⟩⟩

/-- Every clause of `Obligations.GranulePlacementInjective` has a state and operands that meet its hypotheses. -/
theorem test_GranulePlacementInjective_met :
    (∃ (s : State) (a b : Nat), 0 < rd MEM_GEOM_NE 0 s ∧ s.mem.partMoves = [] ∧ rdb MEM_MOVE_ACTIVE 0 s = false ∧ (∀ e < rd MEM_GEOM_NE 0 s, rd SITE_STEER_SLOT e s < rd SITE_SLOTS_SLOTS (rd SITE_STEER_SITE e s) s) ∧ (∀ e < rd MEM_GEOM_NE 0 s, ∀ e' < rd MEM_GEOM_NE 0 s, rd SITE_STEER_SITE e s = rd SITE_STEER_SITE e' s → rd SITE_STEER_SLOT e s = rd SITE_STEER_SLOT e' s → e = e') ∧ (locate a s).site = (locate b s).site ∧ (locate a s).ch = (locate b s).ch ∧ (locate a s).raw = (locate b s).raw) :=
  ⟨wr MEM_GEOM_NE 0 2 (wr SITE_SLOTS_SLOTS 0 2 (wr SITE_STEER_SLOT 1 1 r0)), 0, 255, (by decide), (by first | decide | rfl), (by first | decide | rfl), (by decide), (by decide), (by first | decide | rfl), (by first | decide | rfl), (by first | decide | rfl)⟩

/-- Every clause of `Obligations.SiteRequestsAndSnoopAnswers` has a state and operands that meet its hypotheses. -/
theorem test_SiteRequestsAndSnoopAnswers_met :
    (∃ (s s1 s2 : State) (j line err : Nat) (m : ZMsg) (who : Who) (e : DEnt) (r : HReq) (t : Trans), s.power.stopped = false ∧ line = qLine m.hdr ∧ who = .site j (qTag m.hdr) ∧ e = dent line s2 ∧ t = { req := r, phase := .ba, owner := none, sharers := e.sharers } ∧ siteAsks j 0x01 err m { kind := .rdS, line := 0, who := .hub } r s s1 s2 ∧ coherentRefusal j line s1 = .ok ∧ lineBusy line s2 = false ∧ e.st = 1) ∧
    (∃ (s s1 s2 : State) (j line err : Nat) (m : ZMsg) (who : Who) (e : DEnt) (r : HReq) (t : Trans), s.power.stopped = false ∧ line = qLine m.hdr ∧ who = .site j (qTag m.hdr) ∧ e = dent line s2 ∧ t = { req := r, phase := .ba, owner := none, sharers := e.sharers } ∧ siteAsks j 0x01 err m { kind := .rdS, line := 0, who := .hub } r s s1 s2 ∧ coherentRefusal j line s1 = .ok ∧ lineBusy line s2 = false ∧ ∃ w, e.st = 0 ∧ entryRoom line r.cls s2 = .way w) ∧
    (∃ (s s1 s2 : State) (j line err : Nat) (m : ZMsg) (who : Who) (e : DEnt) (r : HReq) (t : Trans), s.power.stopped = false ∧ line = qLine m.hdr ∧ who = .site j (qTag m.hdr) ∧ e = dent line s2 ∧ t = { req := r, phase := .ba, owner := none, sharers := e.sharers } ∧ siteAsks j 0x01 err m { kind := .rdS, line := 0, who := .hub } r s s1 s2 ∧ coherentRefusal j line s1 = .ok ∧ lineBusy line s2 = false ∧ e.st = 0 ∧ entryRoom line r.cls s2 = .full) ∧
    (∃ (s s1 s2 : State) (j line err : Nat) (m : ZMsg) (who : Who) (e : DEnt) (r : HReq) (t : Trans), s.power.stopped = false ∧ line = qLine m.hdr ∧ who = .site j (qTag m.hdr) ∧ e = dent line s2 ∧ t = { req := r, phase := .ba, owner := none, sharers := e.sharers } ∧ siteAsks j 0x01 err m { kind := .rdS, line := 0, who := .hub } r s s1 s2 ∧ coherentRefusal j line s1 = .ok ∧ lineBusy line s2 = false ∧ ∃ w, e.st = 0 ∧ entryRoom line r.cls s2 = .victim w false) ∧
    (∃ (s s1 s2 : State) (j line err : Nat) (m : ZMsg) (who : Who) (e : DEnt) (r : HReq) (t : Trans), s.power.stopped = false ∧ line = qLine m.hdr ∧ who = .site j (qTag m.hdr) ∧ e = dent line s2 ∧ t = { req := r, phase := .ba, owner := none, sharers := e.sharers } ∧ siteAsks j 0x01 err m { kind := .rdS, line := 0, who := .hub } r s s1 s2 ∧ coherentRefusal j line s1 = .ok ∧ lineBusy line s2 = false ∧ e.st = 2 ∧ e.owner ≠ j) ∧
    (∃ (s s1 s2 : State) (j line err : Nat) (m : ZMsg) (who : Who) (e : DEnt) (r : HReq) (t : Trans), s.power.stopped = false ∧ line = qLine m.hdr ∧ who = .site j (qTag m.hdr) ∧ e = dent line s2 ∧ t = { req := r, phase := .ba, owner := none, sharers := e.sharers } ∧ siteAsks j 0x01 err m { kind := .rdS, line := 0, who := .hub } r s s1 s2 ∧ coherentRefusal j line s1 = .ok ∧ lineBusy line s2 = false ∧ e.st = 4) ∧
    (∃ (s s1 s2 : State) (j line err : Nat) (m : ZMsg) (who : Who) (e : DEnt) (r : HReq) (t : Trans), s.power.stopped = false ∧ line = qLine m.hdr ∧ who = .site j (qTag m.hdr) ∧ e = dent line s2 ∧ t = { req := r, phase := .ba, owner := none, sharers := e.sharers } ∧ siteAsks j 0x01 err m { kind := .rdS, line := 0, who := .hub } r s s1 s2 ∧ coherentRefusal j line s1 = .ok ∧ lineBusy line s2 = true) ∧
    (∃ (s s1 s2 : State) (j line err : Nat) (m : ZMsg) (who : Who) (e : DEnt) (r : HReq) (t : Trans), s.power.stopped = false ∧ line = qLine m.hdr ∧ who = .site j (qTag m.hdr) ∧ e = dent line s2 ∧ t = { req := r, phase := .ba, owner := none, sharers := e.sharers } ∧ takeRx j 0x01 s = some (m, s1) ∧ mayLeaveMesh (portClass (64 + j) 0 s) line s = true ∧ coherentRefusal j line s1 ≠ .ok) ∧
    (∃ (s s1 s2 : State) (j line err : Nat) (m : ZMsg) (who : Who) (e : DEnt) (r : HReq) (t : Trans), s.power.stopped = false ∧ line = qLine m.hdr ∧ who = .site j (qTag m.hdr) ∧ e = dent line s2 ∧ t = { req := r, phase := .ba, owner := none, sharers := e.sharers } ∧ siteAsks j 0x02 err m { kind := .rdX, line := 0, who := .hub } r s s1 s2 ∧ coherentRefusal j line s1 = .ok ∧ lineBusy line s2 = false ∧ e.st = 1) ∧
    (∃ (s s1 s2 : State) (j line err : Nat) (m : ZMsg) (who : Who) (e : DEnt) (r : HReq) (t : Trans), s.power.stopped = false ∧ line = qLine m.hdr ∧ who = .site j (qTag m.hdr) ∧ e = dent line s2 ∧ t = { req := r, phase := .ba, owner := none, sharers := e.sharers } ∧ siteAsks j 0x02 err m { kind := .rdX, line := 0, who := .hub } r s s1 s2 ∧ coherentRefusal j line s1 = .ok ∧ lineBusy line s2 = false ∧ ∃ w, e.st = 0 ∧ entryRoom line r.cls s2 = .way w) ∧
    (∃ (s s1 s2 : State) (j line err : Nat) (m : ZMsg) (who : Who) (e : DEnt) (r : HReq) (t : Trans), s.power.stopped = false ∧ line = qLine m.hdr ∧ who = .site j (qTag m.hdr) ∧ e = dent line s2 ∧ t = { req := r, phase := .ba, owner := none, sharers := e.sharers } ∧ siteAsks j 0x02 err m { kind := .rdX, line := 0, who := .hub } r s s1 s2 ∧ coherentRefusal j line s1 = .ok ∧ lineBusy line s2 = false ∧ e.st = 2 ∧ e.owner ≠ j) ∧
    (∃ (s s1 s2 : State) (j line err : Nat) (m : ZMsg) (who : Who) (e : DEnt) (r : HReq) (t : Trans), s.power.stopped = false ∧ line = qLine m.hdr ∧ who = .site j (qTag m.hdr) ∧ e = dent line s2 ∧ t = { req := r, phase := .ba, owner := none, sharers := e.sharers } ∧ siteAsks j 0x03 err m { kind := .upg, line := 0, who := .hub } r s s1 s2 ∧ coherentRefusal j line s1 = .ok ∧ lineBusy line s2 = false ∧ e.st = 1 ∧ bit e.sharers j = true) ∧
    (∃ (s s1 s2 : State) (j line err : Nat) (m : ZMsg) (who : Who) (e : DEnt) (r : HReq) (t : Trans), s.power.stopped = false ∧ line = qLine m.hdr ∧ who = .site j (qTag m.hdr) ∧ e = dent line s2 ∧ t = { req := r, phase := .ba, owner := none, sharers := e.sharers } ∧ siteAsks j 0x03 err m { kind := .upg, line := 0, who := .hub } r s s1 s2 ∧ coherentRefusal j line s1 = .ok ∧ lineBusy line s2 = false ∧ e.st = 3 ∧ e.owner = j) ∧
    (∃ (s s1 s2 : State) (j line err : Nat) (m : ZMsg) (who : Who) (e : DEnt) (r : HReq) (t : Trans), s.power.stopped = false ∧ line = qLine m.hdr ∧ who = .site j (qTag m.hdr) ∧ e = dent line s2 ∧ t = { req := r, phase := .ba, owner := none, sharers := e.sharers } ∧ siteAsks j 0x03 err m { kind := .upg, line := 0, who := .hub } r s s1 s2 ∧ coherentRefusal j line s1 = .ok ∧ lineBusy line s2 = false ∧ e.st = 2 ∧ e.owner = j) ∧
    (∃ (s s1 s2 : State) (j line err : Nat) (m : ZMsg) (who : Who) (e : DEnt) (r : HReq) (t : Trans), s.power.stopped = false ∧ line = qLine m.hdr ∧ who = .site j (qTag m.hdr) ∧ e = dent line s2 ∧ t = { req := r, phase := .ba, owner := none, sharers := e.sharers } ∧ siteAsks j 0x04 err m { kind := .rdOnce, line := 0, who := .hub } r s s1 s2 ∧ homeStatus (.site j) (64 * line) false s1 = .ok ∧ lineBusy line s2 = false ∧ ∃ x, e.st ≤ 1 ∧ x = readLine line r.cls s2) ∧
    (∃ (s s1 s2 : State) (j line err : Nat) (m : ZMsg) (who : Who) (e : DEnt) (r : HReq) (t : Trans), s.power.stopped = false ∧ line = qLine m.hdr ∧ who = .site j (qTag m.hdr) ∧ e = dent line s2 ∧ t = { req := r, phase := .ba, owner := none, sharers := e.sharers } ∧ siteAsks j 0x04 err m { kind := .rdOnce, line := 0, who := .hub } r s s1 s2 ∧ homeStatus (.site j) (64 * line) false s1 = .ok ∧ lineBusy line s2 = false ∧ e.st = 2) ∧
    (∃ (s s1 s2 : State) (j line err : Nat) (m : ZMsg) (who : Who) (e : DEnt) (r : HReq) (t : Trans), s.power.stopped = false ∧ line = qLine m.hdr ∧ who = .site j (qTag m.hdr) ∧ e = dent line s2 ∧ t = { req := r, phase := .ba, owner := none, sharers := e.sharers } ∧ ∃ w, takeRx j 0x04 s = some (m, s1) ∧ fabricWindow (64 * line) = some w ∧ meshUp s = true) ∧
    (∃ (s s1 s2 : State) (j line err : Nat) (m : ZMsg) (who : Who) (e : DEnt) (r : HReq) (t : Trans), s.power.stopped = false ∧ line = qLine m.hdr ∧ who = .site j (qTag m.hdr) ∧ e = dent line s2 ∧ t = { req := r, phase := .ba, owner := none, sharers := e.sharers } ∧ siteAsks j 0x05 err m { kind := .wrP, line := 0, who := .hub, data := m.data, mask := m.mask } r s s1 s2 ∧ homeStatus (.site j) (64 * line) true s1 = .ok ∧ lineBusy line s2 = false ∧ e.st = 0) ∧
    (∃ (s s1 s2 : State) (j line err : Nat) (m : ZMsg) (who : Who) (e : DEnt) (r : HReq) (t : Trans), s.power.stopped = false ∧ line = qLine m.hdr ∧ who = .site j (qTag m.hdr) ∧ e = dent line s2 ∧ t = { req := r, phase := .ba, owner := none, sharers := e.sharers } ∧ siteAsks j 0x05 err m { kind := .wrP, line := 0, who := .hub, data := m.data, mask := m.mask } r s s1 s2 ∧ homeStatus (.site j) (64 * line) true s1 = .ok ∧ lineBusy line s2 = false ∧ e.st = 1) ∧
    (∃ (s s1 s2 : State) (j line err : Nat) (m : ZMsg) (who : Who) (e : DEnt) (r : HReq) (t : Trans), s.power.stopped = false ∧ line = qLine m.hdr ∧ who = .site j (qTag m.hdr) ∧ e = dent line s2 ∧ t = { req := r, phase := .ba, owner := none, sharers := e.sharers } ∧ ∃ w, takeRx j 0x05 s = some (m, s1) ∧ fabricWindow (64 * line) = some w ∧ meshUp s = true) ∧
    (∃ (s s1 s2 : State) (j line err : Nat) (m : ZMsg) (who : Who) (e : DEnt) (r : HReq) (t : Trans), s.power.stopped = false ∧ line = qLine m.hdr ∧ who = .site j (qTag m.hdr) ∧ e = dent line s2 ∧ t = { req := r, phase := .ba, owner := none, sharers := e.sharers } ∧ takeRx j 0x05 s = some (m, s1) ∧ fabricWindow (64 * line) = none ∧ mayLeaveMesh (portClass (64 + j) 0 s) line s = true ∧ homeStatus (.site j) (64 * line) true s1 ≠ .ok) ∧
    (∃ (s s1 s2 : State) (j line err : Nat) (m : ZMsg) (who : Who) (e : DEnt) (r : HReq) (t : Trans), s.power.stopped = false ∧ line = qLine m.hdr ∧ who = .site j (qTag m.hdr) ∧ e = dent line s2 ∧ t = { req := r, phase := .ba, owner := none, sharers := e.sharers } ∧ ∃ (op : _) (k : HKind) (c : Instr), (op, k, c) ∈ [(0x01, HKind.rdS, Instr.rdS j err), (0x02, .rdX, .rdX j err), (0x03, .upg, .upg j err)] ∧ siteAsks j op err m { kind := k, line := 0, who := .hub } r s s1 s2 ∧ coherentRefusal j line s1 = .ok) ∧
    (∃ (s s1 s2 : State) (j line err : Nat) (m : ZMsg) (who : Who) (e : DEnt) (r : HReq) (t : Trans), s.power.stopped = false ∧ line = qLine m.hdr ∧ who = .site j (qTag m.hdr) ∧ e = dent line s2 ∧ t = { req := r, phase := .ba, owner := none, sharers := e.sharers } ∧ ∃ (op : _) (k : HKind) (c : Instr), (op, k, c) ∈ [(0x01, HKind.rdS, Instr.rdS j err), (0x02, .rdX, .rdX j err), (0x03, .upg, .upg j err)] ∧ takeRx j op s = some (m, s1) ∧ mayLeaveMesh (portClass (64 + j) 0 s) line s = true ∧ coherentRefusal j line s1 ≠ .ok) ∧
    (∃ (s s1 s2 : State) (j line err : Nat) (m : ZMsg) (who : Who) (e : DEnt) (r : HReq) (t : Trans), s.power.stopped = false ∧ line = qLine m.hdr ∧ who = .site j (qTag m.hdr) ∧ e = dent line s2 ∧ t = { req := r, phase := .ba, owner := none, sharers := e.sharers } ∧ takeRx j 0x04 s = some (m, s1) ∧ fabricWindow (64 * line) = none ∧ mayLeaveMesh (portClass (64 + j) 0 s) line s = true ∧ homeStatus (.site j) (64 * line) false s1 ≠ .ok) ∧
    (∃ (s s1 s2 : State) (j line err : Nat) (m : ZMsg) (who : Who) (e : DEnt) (r : HReq) (t : Trans), s.power.stopped = false ∧ line = qLine m.hdr ∧ who = .site j (qTag m.hdr) ∧ e = dent line s2 ∧ t = { req := r, phase := .ba, owner := none, sharers := e.sharers } ∧ trans line s = none ∧ lineHeld line s = false ∧ ∃ q rest, lookD [] s.coh.queue line = q :: rest) ∧
    (∃ (s s1 s2 : State) (j line err : Nat) (m : ZMsg) (who : Who) (e : DEnt) (r : HReq) (t : Trans), s.power.stopped = false ∧ line = qLine m.hdr ∧ who = .site j (qTag m.hdr) ∧ e = dent line s2 ∧ t = { req := r, phase := .ba, owner := none, sharers := e.sharers } ∧ trans line s = none ∧ lineHeld line s = false ∧ lookD [] s.coh.queue line = []) ∧
    (∃ (s s1 s2 : State) (j line err : Nat) (m : ZMsg) (who : Who) (e : DEnt) (r : HReq) (t : Trans), s.power.stopped = false ∧ line = qLine m.hdr ∧ who = .site j (qTag m.hdr) ∧ e = dent line s2 ∧ t = { req := r, phase := .ba, owner := none, sharers := e.sharers } ∧ trans line s = none ∧ lineHeld line s = true) ∧
    (∃ (s s1 s2 : State) (j line : Nat) (m : ZMsg) (t : Trans), s.power.stopped = false ∧ takeRx j 0x1C s = some (m, s1) ∧ line = qLine m.hdr ∧ trans line s1 = none ∧ (dent line s1).st = 2 ∧ (dent line s1).owner = j) ∧
    (∃ (s s1 s2 : State) (j line : Nat) (m : ZMsg) (t : Trans), s.power.stopped = false ∧ takeRx j 0x1C s = some (m, s1) ∧ line = qLine m.hdr ∧ trans line s1 = none ∧ (dent line s1).st = 3 ∧ (dent line s1).owner = j) ∧
    (∃ (s s1 s2 : State) (j line : Nat) (m : ZMsg) (t : Trans), s.power.stopped = false ∧ takeRx j 0x1C s = some (m, s1) ∧ line = qLine m.hdr ∧ trans line s1 = none ∧ (dent line s1).st ≤ 1) ∧
    (∃ (s s1 s2 : State) (j line : Nat) (m : ZMsg) (t : Trans), s.power.stopped = false ∧ takeRx j 0x10 s = some (m, s1) ∧ snoopOf j (qTag m.hdr) s1 = (some line, s2) ∧ trans line s2 = some t ∧ j ∈ t.waits ∧ t.owner ≠ some j) ∧
    (∃ (s s1 s2 : State) (j line : Nat) (m : ZMsg) (t : Trans), s.power.stopped = false ∧ takeRx j 0x10 s = some (m, s1) ∧ snoopOf j (qTag m.hdr) s1 = (some line, s2) ∧ trans line s2 = none) ∧
    (∃ (s s1 s2 : State) (j line : Nat) (m : ZMsg) (t : Trans), s.power.stopped = false ∧ ∃ d keep, takeRx j 0x18 s = some (m, s1) ∧ snoopOf j (qTag m.hdr) s1 = (some line, s2) ∧ d = slice m.hdr 26 1 ∧ keep = slice m.hdr 24 2 ∧ trans line s2 = some t ∧ t.phase = .bd ∧ t.owner = some j ∧ j ∈ t.waits ∧ badData j d keep t s2 = false) ∧
    (∃ (s s1 s2 : State) (j line : Nat) (m : ZMsg) (t : Trans), s.power.stopped = false ∧ ∃ d keep, takeRx j 0x18 s = some (m, s1) ∧ snoopOf j (qTag m.hdr) s1 = (some line, s2) ∧ d = slice m.hdr 26 1 ∧ keep = slice m.hdr 24 2 ∧ trans line s2 = some t ∧ t.owner ≠ some j) ∧
    (∃ (s s1 s2 : State) (j line : Nat) (m : ZMsg) (t : Trans), s.power.stopped = false ∧ takeRx j 0x11 s = some (m, s1) ∧ s1.coh.trans.find? (fun p => decide (p.2.phase = .bg) && decide (p.2.req.who = .site j (qTag m.hdr))) = some (line, t) ∧ t.lostOwner = false) ∧
    (∃ (s s1 s2 : State) (j line : Nat) (m : ZMsg) (t : Trans), s.power.stopped = false ∧ takeRx j 0x11 s = some (m, s1) ∧ s1.coh.trans.find? (fun p => decide (p.2.phase = .bg) && decide (p.2.req.who = .site j (qTag m.hdr))) = some (line, t) ∧ t.lostOwner = true) ∧
    (∃ (s s1 s2 : State) (j line : Nat) (m : ZMsg) (t : Trans), s.power.stopped = false ∧ takeRx j 0x11 s = some (m, s1) ∧ s1.coh.trans.find? (fun p => decide (p.2.phase = .bg) && decide (p.2.req.who = .site j (qTag m.hdr))) = none) ∧
    (∃ (s s1 s2 : State) (j line : Nat) (m : ZMsg) (t : Trans), s.power.stopped = false ∧ takeRx j 0x1C s = none) ∧
    (∃ (s s1 s2 : State) (j line : Nat) (m : ZMsg) (t : Trans), s.power.stopped = false ∧ takeRx j 0x10 s = none) ∧
    (∃ (s s1 s2 : State) (j line : Nat) (m : ZMsg) (t : Trans), s.power.stopped = false ∧ takeRx j 0x18 s = none) ∧
    (∃ (s s1 s2 : State) (j line : Nat) (m : ZMsg) (t : Trans), s.power.stopped = false ∧ takeRx j 0x11 s = none) :=
  ⟨⟨rx7 (zm 0x01) (dir0 { st := 1, owner := 0, sharers := 64 } siteMem), _, _, 7, 0, 0, (zm 0x01), .site 7 0, _, _, _, (by first | decide | rfl), (by rfl), (by rfl), (rfl), (rfl), (⟨rfl, by decide +kernel, by decide, rfl, rfl⟩), (by first | decide | rfl), (by first | decide | rfl), (by first | decide | rfl)⟩,
   ⟨rx7 (zm 0x01) (siteMem), _, _, 7, 0, 0, (zm 0x01), .site 7 0, _, _, _, (by first | decide | rfl), (by rfl), (by rfl), (rfl), (rfl), (⟨rfl, by decide +kernel, by decide, rfl, rfl⟩), (by first | decide | rfl), (by first | decide | rfl), 0, (by first | decide | rfl), (by first | decide | rfl)⟩,
   ⟨rx7 (zm 0x01) (static0 0 siteMem), _, _, 7, 0, 0, (zm 0x01), .site 7 0, _, _, _, (by first | decide | rfl), (by rfl), (by rfl), (rfl), (rfl), (⟨rfl, by decide +kernel, by decide, rfl, rfl⟩), (by first | decide | rfl), (by first | decide | rfl), (by first | decide | rfl), (by first | decide | rfl)⟩,
   ⟨rx7 (zm 0x01) (static0 1 (setCoh (fun h => { h with dir := [(16388, { st := 1, use := false })] }) siteMem)), _, _, 7, 0, 0, (zm 0x01), .site 7 0, _, _, _, (by first | decide | rfl), (by rfl), (by rfl), (rfl), (rfl), (⟨rfl, by decide +kernel, by decide, rfl, rfl⟩), (by first | decide | rfl), (by first | decide | rfl), 16388, (by first | decide | rfl), (by first | decide | rfl)⟩,
   ⟨rx7 (zm 0x01) (dir0 { st := 2, owner := 6, sharers := 0 } siteMem), _, _, 7, 0, 0, (zm 0x01), .site 7 0, _, _, _, (by first | decide | rfl), (by rfl), (by rfl), (rfl), (rfl), (⟨rfl, by decide +kernel, by decide, rfl, rfl⟩), (by first | decide | rfl), (by first | decide | rfl), (by first | decide | rfl), (by decide)⟩,
   ⟨rx7 (zm 0x01) (dir0 { st := 4, owner := 0, sharers := 0 } siteMem), _, _, 7, 0, 0, (zm 0x01), .site 7 0, _, _, _, (by first | decide | rfl), (by rfl), (by rfl), (rfl), (rfl), (⟨rfl, by decide +kernel, by decide, rfl, rfl⟩), (by first | decide | rfl), (by first | decide | rfl), (by first | decide | rfl)⟩,
   ⟨rx7 (zm 0x01) (trans0 trn0 siteMem), _, _, 7, 0, 0, (zm 0x01), .site 7 0, _, _, _, (by first | decide | rfl), (by rfl), (by rfl), (rfl), (rfl), (⟨rfl, by decide +kernel, by decide, rfl, rfl⟩), (by first | decide | rfl), (by first | decide | rfl)⟩,
   ⟨rx7 (zm 0x01) (wr SITE_STATUS_STATE 7 3 r0), _, r0, 7, 0, 0, (zm 0x01), .site 7 0, _, hreq0, _, (by first | decide | rfl), (by rfl), (by rfl), (rfl), (rfl), (by rfl), (by first | decide | rfl), (by decide)⟩,
   ⟨rx7 (zm 0x02) (dir0 { st := 1, owner := 0, sharers := 64 } siteMem), _, _, 7, 0, 0, (zm 0x02), .site 7 0, _, _, _, (by first | decide | rfl), (by rfl), (by rfl), (rfl), (rfl), (⟨rfl, by decide +kernel, by decide, rfl, rfl⟩), (by first | decide | rfl), (by first | decide | rfl), (by first | decide | rfl)⟩,
   ⟨rx7 (zm 0x02) (siteMem), _, _, 7, 0, 0, (zm 0x02), .site 7 0, _, _, _, (by first | decide | rfl), (by rfl), (by rfl), (rfl), (rfl), (⟨rfl, by decide +kernel, by decide, rfl, rfl⟩), (by first | decide | rfl), (by first | decide | rfl), 0, (by first | decide | rfl), (by first | decide | rfl)⟩,
   ⟨rx7 (zm 0x02) (dir0 { st := 2, owner := 6, sharers := 0 } siteMem), _, _, 7, 0, 0, (zm 0x02), .site 7 0, _, _, _, (by first | decide | rfl), (by rfl), (by rfl), (rfl), (rfl), (⟨rfl, by decide +kernel, by decide, rfl, rfl⟩), (by first | decide | rfl), (by first | decide | rfl), (by first | decide | rfl), (by decide)⟩,
   ⟨rx7 (zm 0x03) (dir0 { st := 1, owner := 0, sharers := 128 } siteMem), _, _, 7, 0, 0, (zm 0x03), .site 7 0, _, _, _, (by first | decide | rfl), (by rfl), (by rfl), (rfl), (rfl), (⟨rfl, by decide +kernel, by decide, rfl, rfl⟩), (by first | decide | rfl), (by first | decide | rfl), (by first | decide | rfl), (by first | decide | rfl)⟩,
   ⟨rx7 (zm 0x03) (dir0 { st := 3, owner := 7, sharers := 0 } siteMem), _, _, 7, 0, 0, (zm 0x03), .site 7 0, _, _, _, (by first | decide | rfl), (by rfl), (by rfl), (rfl), (rfl), (⟨rfl, by decide +kernel, by decide, rfl, rfl⟩), (by first | decide | rfl), (by first | decide | rfl), (by first | decide | rfl), (by first | decide | rfl)⟩,
   ⟨rx7 (zm 0x03) (dir0 { st := 2, owner := 7, sharers := 0 } siteMem), _, _, 7, 0, 0, (zm 0x03), .site 7 0, _, _, _, (by first | decide | rfl), (by rfl), (by rfl), (rfl), (rfl), (⟨rfl, by decide +kernel, by decide, rfl, rfl⟩), (by first | decide | rfl), (by first | decide | rfl), (by first | decide | rfl), (by first | decide | rfl)⟩,
   ⟨rx7 (zm 0x04) (dir0 { st := 1, owner := 0, sharers := 64 } siteMem), _, _, 7, 0, 0, (zm 0x04), .site 7 0, _, _, _, (by first | decide | rfl), (by rfl), (by rfl), (rfl), (rfl), (⟨rfl, by decide +kernel, by decide, rfl, rfl⟩), (by first | decide | rfl), (by first | decide | rfl), _, (by decide), (rfl)⟩,
   ⟨rx7 (zm 0x04) (dir0 { st := 2, owner := 6, sharers := 0 } siteMem), _, _, 7, 0, 0, (zm 0x04), .site 7 0, _, _, _, (by first | decide | rfl), (by rfl), (by rfl), (rfl), (rfl), (⟨rfl, by decide +kernel, by decide, rfl, rfl⟩), (by first | decide | rfl), (by first | decide | rfl), (by first | decide | rfl)⟩,
   ⟨rx7 { zm 4 with hdr := 2 ^ 57 } (siteMem), _, r0, 7, 2 ^ 37, 0, { zm 4 with hdr := 2 ^ 57 }, .site 7 0, _, hreq0, _, (by first | decide | rfl), (by rfl), (by rfl), (rfl), (rfl), 0, (by rfl), (by rfl), (by first | decide | rfl)⟩,
   ⟨rx7 (zm 0x05) (siteMem), _, _, 7, 0, 0, (zm 0x05), .site 7 0, _, _, _, (by first | decide | rfl), (by rfl), (by rfl), (rfl), (rfl), (⟨rfl, by decide +kernel, by decide, rfl, rfl⟩), (by first | decide | rfl), (by first | decide | rfl), (by first | decide | rfl)⟩,
   ⟨rx7 (zm 0x05) (dir0 { st := 1, owner := 0, sharers := 64 } siteMem), _, _, 7, 0, 0, (zm 0x05), .site 7 0, _, _, _, (by first | decide | rfl), (by rfl), (by rfl), (rfl), (rfl), (⟨rfl, by decide +kernel, by decide, rfl, rfl⟩), (by first | decide | rfl), (by first | decide | rfl), (by first | decide | rfl)⟩,
   ⟨rx7 { zm 5 with hdr := 2 ^ 57 } (siteMem), _, r0, 7, 2 ^ 37, 0, { zm 5 with hdr := 2 ^ 57 }, .site 7 0, _, hreq0, _, (by first | decide | rfl), (by rfl), (by rfl), (rfl), (rfl), 0, (by rfl), (by rfl), (by first | decide | rfl)⟩,
   ⟨rx7 (zm 0x05) (wr SITE_STATUS_STATE 7 3 r0), _, r0, 7, 0, 0, (zm 0x05), .site 7 0, _, hreq0, _, (by first | decide | rfl), (by rfl), (by rfl), (rfl), (rfl), (by rfl), (by first | decide | rfl), (by first | decide | rfl), (by decide)⟩,
   ⟨rx7 (zm 0x03) (dir0 { st := 1, owner := 0, sharers := 128 } siteMem), _, _, 7, 0, 0, (zm 0x03), .site 7 0, _, _, _, (by first | decide | rfl), (by rfl), (by rfl), (rfl), (rfl), 3, .upg, .upg 7 0, (by simp), (⟨rfl, by decide +kernel, by decide, rfl, rfl⟩), (by first | decide | rfl)⟩,
   ⟨rx7 (zm 0x02) (wr SITE_STATUS_STATE 7 3 r0), _, r0, 7, 0, 0, (zm 0x02), .site 7 0, _, hreq0, _, (by first | decide | rfl), (by rfl), (by rfl), (rfl), (rfl), 2, .rdX, .rdX 7 0, (by simp), (by rfl), (by first | decide | rfl), (by decide)⟩,
   ⟨rx7 (zm 0x04) (wr SITE_STATUS_STATE 7 3 r0), _, r0, 7, 0, 0, (zm 0x04), .site 7 0, _, hreq0, _, (by first | decide | rfl), (by rfl), (by rfl), (rfl), (rfl), (by rfl), (by first | decide | rfl), (by first | decide | rfl), (by decide)⟩,
   ⟨setCoh (fun h => { h with queue := [(0, [hreq0, hreq0])] }) (dir0 { st := 1 } r0), r0, r0, 7, 0, 0, zm 1, .site 7 0, _, hreq0, _, (by first | decide | rfl), (by rfl), (by rfl), (rfl), (rfl), (by first | decide | rfl), (by first | decide | rfl), hreq0, [hreq0], (by rfl)⟩,
   ⟨r0, r0, r0, 7, 0, 0, zm 1, .site 7 0, _, hreq0, _, (by first | decide | rfl), (by rfl), (by rfl), (rfl), (rfl), (by first | decide | rfl), (by first | decide | rfl), (by first | decide | rfl)⟩,
   ⟨setB SLICE_STEER_MOVING 0 r0, r0, r0, 7, 0, 0, zm 1, .site 7 0, _, hreq0, _, (by first | decide | rfl), (by rfl), (by rfl), (rfl), (rfl), (by first | decide | rfl), (by first | decide | rfl)⟩,
   ⟨rx7 (zm 0x1C) (dir0 { st := 2, owner := 7, sharers := 0 } siteMem), _, r0, 7, 0, zm 0x1C, trn0, (by first | decide | rfl), (rfl), (by rfl), (by first | decide | rfl), (by first | decide | rfl), (by first | decide | rfl)⟩,
   ⟨rx7 (zm 0x1C) (dir0 { st := 3, owner := 7, sharers := 0 } siteMem), _, r0, 7, 0, zm 0x1C, trn0, (by first | decide | rfl), (rfl), (by rfl), (by first | decide | rfl), (by first | decide | rfl), (by first | decide | rfl)⟩,
   ⟨rx7 (zm 0x1C) (dir0 { st := 1, owner := 7, sharers := 0 } siteMem), _, r0, 7, 0, zm 0x1C, trn0, (by first | decide | rfl), (rfl), (by rfl), (by first | decide | rfl), (by decide)⟩,
   ⟨rx7 (zm 0x10) (snoop7 (trans0 trn0 siteMem)), _, _, 7, 0, zm 0x10, trn0, (by first | decide | rfl), (rfl), (rfl), (by rfl), (by first | decide | rfl), (by decide)⟩,
   ⟨rx7 (zm 0x10) (snoop7 siteMem), _, _, 7, 0, zm 0x10, trn0, (by first | decide | rfl), (rfl), (rfl), (by first | decide | rfl)⟩,
   ⟨rx7 (zm 0x18) (snoop7 (trans0 { trn0 with phase := .bd, owner := some 7 } siteMem)), _, _, 7, 0, zm 0x18, { trn0 with phase := .bd, owner := some 7 }, (by first | decide | rfl), 0, 0, (rfl), (rfl), (by rfl), (by rfl), (by rfl), (by first | decide | rfl), (by rfl), (by first | decide | rfl), (by first | decide | rfl)⟩,
   ⟨rx7 (zm 0x18) (snoop7 (trans0 trn0 siteMem)), _, _, 7, 0, zm 0x18, trn0, (by first | decide | rfl), 0, 0, (rfl), (rfl), (by rfl), (by rfl), (by rfl), (by decide)⟩,
   ⟨rx7 (zm 0x11) (trans0 { trn0 with phase := .bg } siteMem), _, r0, 7, 0, zm 0x11, { trn0 with phase := .bg }, (by first | decide | rfl), (rfl), (by rfl), (by first | decide | rfl)⟩,
   ⟨rx7 (zm 0x11) (trans0 { trn0 with phase := .bg, lostOwner := true } siteMem), _, r0, 7, 0, zm 0x11, { trn0 with phase := .bg, lostOwner := true }, (by first | decide | rfl), (rfl), (by rfl), (by first | decide | rfl)⟩,
   ⟨rx7 (zm 0x11) (trans0 trn0 siteMem), _, r0, 7, 0, zm 0x11, trn0, (by first | decide | rfl), (rfl), (by first | decide | rfl)⟩,
   ⟨r0, r0, r0, 7, 0, zm 1, trn0, (by first | decide | rfl), (by first | decide | rfl)⟩,
   ⟨r0, r0, r0, 7, 0, zm 1, trn0, (by first | decide | rfl), (by first | decide | rfl)⟩,
   ⟨r0, r0, r0, 7, 0, zm 1, trn0, (by first | decide | rfl), (by first | decide | rfl)⟩,
   ⟨r0, r0, r0, 7, 0, zm 1, trn0, (by first | decide | rfl), (by first | decide | rfl)⟩⟩

/-- Every clause of `Obligations.HubAndCxlRequestsAtHome` has a state and operands that meet its hypotheses. -/
theorem test_HubAndCxlRequestsAtHome_met :
    (∃ (s s1 s2 : State) (k id fn err : Nat) (h : HomeHeld), s.power.stopped = false ∧ ∃ off len, h = portRequest k id fn off false (lineForm off len) { kind := .homeRead, line := off / 64, who := .hub, off := off % 64, len := len } s ∧ homeMay h s = true ∧ s1 = departMesh k id fn (homeTile off s) (off / 64) s ∧ s2 = meetAt err h.req (addOut h.req.who h.req.cls (off / 64) s1) ∧ homeStatus (portReqr k fn) off false s1 = .ok ∧ off % 64 + len ≤ 64 ∧ lineBusy (off / 64) s2 = false ∧ ∃ (x : Status × List Byte × State), (dent (off / 64) s2).st ≤ 1 ∧ x = readLine (off / 64) h.req.cls s2) ∧
    (∃ (s s1 s2 : State) (k id fn err : Nat) (h : HomeHeld), s.power.stopped = false ∧ ∃ off len, h = portRequest k id fn off false (lineForm off len) { kind := .homeRead, line := off / 64, who := .hub, off := off % 64, len := len } s ∧ homeMay h s = true ∧ s1 = departMesh k id fn (homeTile off s) (off / 64) s ∧ s2 = meetAt err h.req (addOut h.req.who h.req.cls (off / 64) s1) ∧ homeStatus (portReqr k fn) off false s1 = .ok ∧ off % 64 + len ≤ 64 ∧ lineBusy (off / 64) s2 = false ∧ (dent (off / 64) s2).st = 2) ∧
    (∃ (s s1 s2 : State) (k id fn err : Nat) (h : HomeHeld), s.power.stopped = false ∧ ∃ off len, h = portRequest k id fn off false (lineForm off len) { kind := .homeRead, line := off / 64, who := .hub, off := off % 64, len := len } s ∧ homeMay h s = true ∧ s1 = departMesh k id fn (homeTile off s) (off / 64) s ∧ s2 = meetAt err h.req (addOut h.req.who h.req.cls (off / 64) s1) ∧ homeStatus (portReqr k fn) off false s1 = .ok ∧ off % 64 + len ≤ 64 ∧ lineBusy (off / 64) s2 = false ∧ (dent (off / 64) s2).st = 4) ∧
    (∃ (s s1 s2 : State) (k id fn err : Nat) (h : HomeHeld), s.power.stopped = false ∧ ∃ off len, h = portRequest k id fn off false (lineForm off len) { kind := .homeRead, line := off / 64, who := .hub, off := off % 64, len := len } s ∧ homeMay h s = true ∧ s1 = departMesh k id fn (homeTile off s) (off / 64) s ∧ homeStatus (portReqr k fn) off false s1 = .ok ∧ 64 < off % 64 + len) ∧
    (∃ (s s1 s2 : State) (k id fn err : Nat) (h : HomeHeld), s.power.stopped = false ∧ ∃ (line : _) (data : List Byte) (mask : _), h = portRequest k id fn (64 * line) true .ok { kind := .homeWrite, line := line, who := .hub, data := data, mask := mask } s ∧ homeMay h s = true ∧ s1 = departMesh k id fn (homeTile (64 * line) s) line s ∧ s2 = meetAt err h.req (addOut h.req.who h.req.cls line s1) ∧ homeStatus (portReqr k fn) (64 * line) true s1 = .ok ∧ lineBusy line s2 = false ∧ (dent line s2).st = 0) ∧
    (∃ (s s1 s2 : State) (k id fn err : Nat) (h : HomeHeld), s.power.stopped = false ∧ ∃ (line : _) (data : List Byte) (mask : _), h = portRequest k id fn (64 * line) true .ok { kind := .homeWrite, line := line, who := .hub, data := data, mask := mask } s ∧ homeMay h s = true ∧ s1 = departMesh k id fn (homeTile (64 * line) s) line s ∧ s2 = meetAt err h.req (addOut h.req.who h.req.cls line s1) ∧ homeStatus (portReqr k fn) (64 * line) true s1 = .ok ∧ lineBusy line s2 = false ∧ (dent line s2).st = 1) ∧
    (∃ (s s1 s2 : State) (k id fn err : Nat) (h : HomeHeld), s.power.stopped = false ∧ ∃ off len op a b, h = portRequest k id fn off true (lineForm off len) { kind := .homeAtomic, line := off / 64, who := .hub, off := off % 64, len := len, op := op, a := a, b := b } s ∧ homeMay h s = true ∧ s1 = departMesh k id fn (homeTile off s) (off / 64) s ∧ s2 = meetAt err h.req (addOut h.req.who h.req.cls (off / 64) s1) ∧ homeStatus (portReqr k fn) off true s1 = .ok ∧ off % 64 + len ≤ 64 ∧ lineBusy (off / 64) s2 = false ∧ (dent (off / 64) s2).st = 0) ∧
    (∃ (s s1 s2 : State) (k id fn err : Nat) (h : HomeHeld), s.power.stopped = false ∧ ∃ off len, h = portRequest k id fn off false (lineForm off len) { kind := .homeRead, line := off / 64, who := .hub, off := off % 64, len := len } s ∧ homeMay h s = false ∧ atTarget k id s = none) ∧
    (∃ (s s1 : State) (j tag line mask err : Nat) (data : List Byte) (r : HReq), s.power.stopped = false ∧ j < 8 ∧ siteCxl j s = true ∧ siteReady j s = true ∧ mayLeaveMesh (portClass (64 + j) 0 s) line s = true ∧ homeStatus (.site j) (64 * line) true s = .ok ∧ r = { kind := .wrP, line := line, who := .cxl j tag, data := data, mask := mask, cls := portClass (64 + j) 0 s, deadline := classDeadline (portClass (64 + j) 0 s) none s } ∧ s1 = meetAt err r (addOut r.who r.cls line s) ∧ lineBusy line s1 = false ∧ (dent line s1).st = 0) ∧
    (∃ (s s1 : State) (j tag line mask err : Nat) (data : List Byte) (r : HReq), s.power.stopped = false ∧ j < 8 ∧ siteCxl j s = true ∧ siteReady j s = true ∧ mayLeaveMesh (portClass (64 + j) 0 s) line s = true ∧ homeStatus (.site j) (64 * line) false s = .ok ∧ coherentRefusal j line s = .ok ∧ r = { kind := .rdX, line := line, who := .cxl j tag, cls := portClass (64 + j) 0 s, deadline := classDeadline (portClass (64 + j) 0 s) none s } ∧ s1 = meetAt err r (addOut r.who r.cls line s) ∧ lineBusy line s1 = false) ∧
    (∃ (s s1 : State) (j tag line mask err : Nat) (data : List Byte) (r : HReq), s.power.stopped = false ∧ ∃ (msg : _) (kind : HKind) (onlyS : Bool), (msg, kind, onlyS) ∈ [(0, HKind.rdS, true), (1, .rdS, false), (2, .rdX, false), (3, .ownNoData, false)] ∧ j < 8 ∧ siteCxl j s = true ∧ siteReady j s = true ∧ mayLeaveMesh (portClass (64 + j) 0 s) line s = true ∧ homeStatus (.site j) (64 * line) false s = .ok ∧ coherentRefusal j line s = .ok ∧ r = { kind := kind, line := line, who := .cxl j tag, onlyS := onlyS, cls := portClass (64 + j) 0 s, deadline := classDeadline (portClass (64 + j) 0 s) none s } ∧ s1 = meetAt err r (addOut r.who r.cls line s)) ∧
    (∃ (s s1 : State) (j tag line mask err : Nat) (data : List Byte) (r : HReq), s.power.stopped = false ∧ j < 8 ∧ siteCxl j s = true ∧ siteReady j s = true ∧ mayLeaveMesh (portClass (64 + j) 0 s) line s = true ∧ homeStatus (.site j) (64 * line) false s = .ok ∧ r = { kind := .rdOnce, line := line, who := .cxl j tag, cls := portClass (64 + j) 0 s, deadline := classDeadline (portClass (64 + j) 0 s) none s } ∧ s1 = meetAt err r (addOut r.who r.cls line s)) ∧
    (∃ (s s1 : State) (j tag line mask err : Nat) (data : List Byte) (r : HReq), s.power.stopped = false ∧ siteCxl j s = true ∧ siteReady j s = true) ∧
    (∃ (s s1 : State) (j tag line mask err : Nat) (data : List Byte) (r : HReq), s.power.stopped = false ∧ trans line s = none ∧ (dent line s).st = 2 ∧ (dent line s).owner = j) ∧
    (∃ (s s1 : State) (j tag line mask err : Nat) (data : List Byte) (r : HReq), s.power.stopped = false ∧ ∃ l s2, siteCxl j s = true ∧ siteReady j s = true ∧ snoopOf j tag s = (some l, s2)) ∧
    (∃ (s s1 : State) (j tag line mask err : Nat) (data : List Byte) (r : HReq), s.power.stopped = false ∧ siteCxl j s = false) :=
  ⟨⟨own1, _, _, 79, 5, 0, 0, _, (by first | decide | rfl), 2 ^ 30 - 4, 4, (rfl), (by first | decide | rfl), (rfl), (rfl), (by first | decide | rfl), (by decide), (by first | decide | rfl), _, (by decide), (rfl)⟩,
   ⟨dir0 { st := 2, owner := 7 } own1, _, _, 79, 5, 0, 0, _, (by first | decide | rfl), 60, 4, (rfl), (by first | decide | rfl), (rfl), (rfl), (by first | decide | rfl), (by decide), (by first | decide | rfl), (by first | decide | rfl)⟩,
   ⟨dir0 { st := 4, owner := 7 } own1, _, _, 79, 5, 0, 0, _, (by first | decide | rfl), 60, 4, (rfl), (by first | decide | rfl), (rfl), (rfl), (by first | decide | rfl), (by decide), (by first | decide | rfl), (by first | decide | rfl)⟩,
   ⟨own1, _, r0, 79, 5, 0, 0, _, (by first | decide | rfl), 2 ^ 30 - 4, 5, (rfl), (by first | decide | rfl), (rfl), (by first | decide | rfl), (by decide)⟩,
   ⟨own1, _, _, 79, 5, 0, 0, _, (by first | decide | rfl), 2 ^ 24 - 1, [], 0, (rfl), (by first | decide | rfl), (rfl), (rfl), (by first | decide | rfl), (by first | decide | rfl), (by first | decide | rfl)⟩,
   ⟨dir0 { st := 1, owner := 7 } own1, _, _, 79, 5, 0, 0, _, (by first | decide | rfl), 0, [], 0, (rfl), (by first | decide | rfl), (rfl), (rfl), (by first | decide | rfl), (by first | decide | rfl), (by first | decide | rfl)⟩,
   ⟨own1, _, _, 79, 5, 0, 0, _, (by first | decide | rfl), 2 ^ 30 - 8, 8, 2, 0, 1, (rfl), (by first | decide | rfl), (rfl), (rfl), (by first | decide | rfl), (by decide), (by first | decide | rfl), (by first | decide | rfl)⟩,
   ⟨wr PWR_STATUS_STATE 0 2 r0, r0, r0, 79, 5, 0, 0, _, (by first | decide | rfl), 0, 4, (rfl), (by first | decide | rfl), (by first | decide | rfl)⟩,
   ⟨(setB SITE_CFG_PERSONALITY 7 siteMem), _, 7, 0, 2 ^ 24 - 1, 0, 0, [], _, (by first | decide | rfl), (by decide), (by first | decide | rfl), (by first | decide | rfl), (by first | decide | rfl), (by first | decide | rfl), (rfl), (rfl), (by first | decide | rfl), (by first | decide | rfl)⟩,
   ⟨(setB SITE_CFG_PERSONALITY 7 siteMem), _, 7, 0, 0, 0, 0, [], _, (by first | decide | rfl), (by decide), (by first | decide | rfl), (by first | decide | rfl), (by first | decide | rfl), (by first | decide | rfl), (by first | decide | rfl), (rfl), (rfl), (by first | decide | rfl)⟩,
   ⟨(setB SITE_CFG_PERSONALITY 7 siteMem), _, 7, 0, 0, 0, 0, [], _, (by first | decide | rfl), 3, .ownNoData, false, (by simp), (by decide), (by first | decide | rfl), (by first | decide | rfl), (by first | decide | rfl), (by first | decide | rfl), (by first | decide | rfl), (rfl), (rfl)⟩,
   ⟨(setB SITE_CFG_PERSONALITY 7 siteMem), _, 7, 0, 0, 0, 0, [], _, (by first | decide | rfl), (by decide), (by first | decide | rfl), (by first | decide | rfl), (by first | decide | rfl), (by first | decide | rfl), (rfl), (rfl)⟩,
   ⟨(setB SITE_CFG_PERSONALITY 7 siteMem), r0, 7, 0, 0, 0, 0, [], hreq0, (by first | decide | rfl), (by first | decide | rfl), (by first | decide | rfl)⟩,
   ⟨dir0 { st := 2, owner := 7 } (setB SITE_CFG_PERSONALITY 7 siteMem), r0, 7, 0, 0, 0, 0, [], hreq0, (by first | decide | rfl), (by first | decide | rfl), (by first | decide | rfl), (by first | decide | rfl)⟩,
   ⟨snoop7 (setB SITE_CFG_PERSONALITY 7 siteMem), r0, 7, 0, 0, 0, 0, [], hreq0, (by first | decide | rfl), 0, _, (by first | decide | rfl), (by first | decide | rfl), (rfl)⟩,
   ⟨r0, r0, 7, 0, 0, 0, 0, [], hreq0, (by first | decide | rfl), (by first | decide | rfl)⟩⟩

/-- Every clause of `Obligations.SystemCacheRequests` has a state and operands that meet its hypotheses. -/
theorem test_SystemCacheRequests_met :
    (∃ (s s1 s2 : State) (k fn line mask err : Nat) (wrt : Bool) (data : List Byte) (dl : Option Nat) (r : MReq), s.power.stopped = false ∧ s1 = setCoh (fun h => { h with nextId := s.coh.nextId + 1 }) s ∧ r = { gran := line / 4, write := wrt, line := line, port := k, id := s.coh.nextId, fn := fn, cls := portClass k fn s, bytes := if wrt then (maskedBytes mask data).map (fun p => (line % 4 * 64 + p.1, p.2)) else [], deadline := classDeadline (portClass k fn s) dl s1, at16 := now16 s1 } ∧ s2 = departMesh k r.id fn (homeTile (64 * line) s1) line s1 ∧ (mayDepart r s1 && mayIssue k r.id s1) = true ∧ homeStatus (portReqr k fn) (64 * line) wrt s2 = .ok) ∧
    (∃ (s s1 s2 : State) (k fn line mask err : Nat) (wrt : Bool) (data : List Byte) (dl : Option Nat) (r : MReq), s.power.stopped = false ∧ s1 = setCoh (fun h => { h with nextId := s.coh.nextId + 1 }) s ∧ r = { gran := line / 4, write := wrt, line := line, port := k, id := s.coh.nextId, fn := fn, cls := portClass k fn s, bytes := if wrt then (maskedBytes mask data).map (fun p => (line % 4 * 64 + p.1, p.2)) else [], deadline := classDeadline (portClass k fn s) dl s1, at16 := now16 s1 } ∧ s2 = departMesh k r.id fn (homeTile (64 * line) s1) line s1 ∧ (mayDepart r s1 && mayIssue k r.id s1) = true ∧ homeStatus (portReqr k fn) (64 * line) wrt s2 ≠ .ok) ∧
    (∃ (s s1 s2 : State) (k fn line mask err : Nat) (wrt : Bool) (data : List Byte) (dl : Option Nat) (r : MReq), s.power.stopped = false ∧ s1 = setCoh (fun h => { h with nextId := s.coh.nextId + 1 }) s ∧ r = { gran := line / 4, write := wrt, line := line, port := k, id := s.coh.nextId, fn := fn, cls := portClass k fn s, bytes := if wrt then (maskedBytes mask data).map (fun p => (line % 4 * 64 + p.1, p.2)) else [], deadline := classDeadline (portClass k fn s) dl s1, at16 := now16 s1 } ∧ s2 = departMesh k r.id fn (homeTile (64 * line) s1) line s1 ∧ (mayDepart r s1 && mayIssue k r.id s1) = false) ∧
    (∃ (s s1 s2 : State) (k fn line mask err : Nat) (wrt : Bool) (data : List Byte) (dl : Option Nat) (r : MReq), s.power.stopped = false ∧ s1 = setCoh (fun h => { h with nextId := s.coh.nextId + 1 }) s ∧ r = { gran := line / 4, write := wrt, line := line, port := k, id := s.coh.nextId, fn := fn, cls := portClass k fn s, bytes := if wrt then (maskedBytes mask data).map (fun p => (line % 4 * 64 + p.1, p.2)) else [], deadline := classDeadline (portClass k fn s) dl s1, at16 := now16 s1 } ∧ s2 = departMesh k r.id fn (homeTile (64 * line) s1) line s1 ∧ ∃ q, s.coh.held.find? (fun r => r.port == k && mayDepart r s && mayIssue k r.id s) = some q) ∧
    (∃ (s s1 s2 : State) (k fn line mask err : Nat) (wrt : Bool) (data : List Byte) (dl : Option Nat) (r : MReq), s.power.stopped = false ∧ s1 = setCoh (fun h => { h with nextId := s.coh.nextId + 1 }) s ∧ r = { gran := line / 4, write := wrt, line := line, port := k, id := s.coh.nextId, fn := fn, cls := portClass k fn s, bytes := if wrt then (maskedBytes mask data).map (fun p => (line % 4 * 64 + p.1, p.2)) else [], deadline := classDeadline (portClass k fn s) dl s1, at16 := now16 s1 } ∧ s2 = departMesh k r.id fn (homeTile (64 * line) s1) line s1 ∧ ∃ q, s.coh.held.find? (fun r => r.port == k && mayDepart r s && mayIssue k r.id s) = none ∧ s.coh.heldHome.find? (fun h => h.port == k && homeMay h s) = some q) ∧
    (∃ (s s1 s2 : State) (k fn line mask err : Nat) (wrt : Bool) (data : List Byte) (dl : Option Nat) (r : MReq), s.power.stopped = false ∧ s1 = setCoh (fun h => { h with nextId := s.coh.nextId + 1 }) s ∧ r = { gran := line / 4, write := wrt, line := line, port := k, id := s.coh.nextId, fn := fn, cls := portClass k fn s, bytes := if wrt then (maskedBytes mask data).map (fun p => (line % 4 * 64 + p.1, p.2)) else [], deadline := classDeadline (portClass k fn s) dl s1, at16 := now16 s1 } ∧ s2 = departMesh k r.id fn (homeTile (64 * line) s1) line s1 ∧ s.coh.held.find? (fun r => r.port == k && mayDepart r s && mayIssue k r.id s) = none ∧ s.coh.heldHome.find? (fun h => h.port == k && homeMay h s) = none) ∧
    (∃ (s s1 s2 : State) (k fn line mask err : Nat) (wrt : Bool) (data : List Byte) (dl : Option Nat) (r : MReq), s.power.stopped = false ∧ s1 = setCoh (fun h => { h with nextId := s.coh.nextId + 1 }) s ∧ r = { gran := line / 4, write := wrt, line := line, port := k, id := s.coh.nextId, fn := fn, cls := portClass k fn s, bytes := if wrt then (maskedBytes mask data).map (fun p => (line % 4 * 64 + p.1, p.2)) else [], deadline := classDeadline (portClass k fn s) dl s1, at16 := now16 s1 } ∧ s2 = departMesh k r.id fn (homeTile (64 * line) s1) line s1 ∧ s.mem.buckets = []) ∧
    (∃ (s s1 s2 : State) (k fn line mask err : Nat) (wrt : Bool) (data : List Byte) (dl : Option Nat) (r : MReq), s.power.stopped = false ∧ s1 = setCoh (fun h => { h with nextId := s.coh.nextId + 1 }) s ∧ r = { gran := line / 4, write := wrt, line := line, port := k, id := s.coh.nextId, fn := fn, cls := portClass k fn s, bytes := if wrt then (maskedBytes mask data).map (fun p => (line % 4 * 64 + p.1, p.2)) else [], deadline := classDeadline (portClass k fn s) dl s1, at16 := now16 s1 } ∧ s2 = departMesh k r.id fn (homeTile (64 * line) s1) line s1 ∧ ∃ b tile rest, s.mem.buckets = (b, tile) :: rest ∧ rdb SLICE_STEER_MOVING b s = false) ∧
    (∃ (s s1 s2 : State) (k fn line mask err : Nat) (wrt : Bool) (data : List Byte) (dl : Option Nat) (r : MReq), s.power.stopped = false ∧ s1 = setCoh (fun h => { h with nextId := s.coh.nextId + 1 }) s ∧ r = { gran := line / 4, write := wrt, line := line, port := k, id := s.coh.nextId, fn := fn, cls := portClass k fn s, bytes := if wrt then (maskedBytes mask data).map (fun p => (line % 4 * 64 + p.1, p.2)) else [], deadline := classDeadline (portClass k fn s) dl s1, at16 := now16 s1 } ∧ s2 = departMesh k r.id fn (homeTile (64 * line) s1) line s1 ∧ ∃ b tile rest, s.mem.buckets = (b, tile) :: rest ∧ rdb SLICE_STEER_MOVING b s = true ∧ (∀ l ∈ ofBucket b (s.coh.dir.map Prod.fst), (dent l s).st = 4)) ∧
    (∃ (s s1 s2 : State) (k fn line mask err : Nat) (wrt : Bool) (data : List Byte) (dl : Option Nat) (r : MReq), s.power.stopped = false ∧ s1 = setCoh (fun h => { h with nextId := s.coh.nextId + 1 }) s ∧ r = { gran := line / 4, write := wrt, line := line, port := k, id := s.coh.nextId, fn := fn, cls := portClass k fn s, bytes := if wrt then (maskedBytes mask data).map (fun p => (line % 4 * 64 + p.1, p.2)) else [], deadline := classDeadline (portClass k fn s) dl s1, at16 := now16 s1 } ∧ s2 = departMesh k r.id fn (homeTile (64 * line) s1) line s1 ∧ ∃ b tile rest l, s.mem.buckets = (b, tile) :: rest ∧ rdb SLICE_STEER_MOVING b s = true ∧ l ∈ ofBucket b (s.coh.dir.map Prod.fst) ∧ (dent l s).st ≠ 4 ∧ (trans l s).isSome = true) :=
  ⟨⟨own1, _, _, 79, 0, 2 ^ 24 - 1, 0, 0, true, [], none, _, (by first | decide | rfl), (rfl), (rfl), (rfl), (by first | decide | rfl), (by first | decide | rfl)⟩,
   ⟨r0, _, _, 79, 0, 0, 0, 0, false, [], none, _, (by first | decide | rfl), (rfl), (rfl), (rfl), (by first | decide | rfl), (by decide)⟩,
   ⟨setB SLICE_STEER_MOVING 0 own1, _, _, 79, 0, 0, 0, 0, false, [], none, _, (by first | decide | rfl), (rfl), (rfl), (rfl), (by first | decide | rfl)⟩,
   ⟨setCoh (fun h => { h with held := [{ gran := 0, write := false, port := 79 }] }) own1, _, _, 79, 0, 0, 0, 0, false, [], none, _, (by first | decide | rfl), (rfl), (rfl), (rfl), { gran := 0, write := false, port := 79 }, (by rfl)⟩,
   ⟨setCoh (fun h => { h with heldHome := [{ req := { hreq0 with who := .hub }, port := 79, id := 0, fn := 0, off := 0, write := false, form := .ok }] }) own1, _, _, 79, 0, 0, 0, 0, false, [], none, _, (by first | decide | rfl), (rfl), (rfl), (rfl), { req := { hreq0 with who := .hub }, port := 79, id := 0, fn := 0, off := 0, write := false, form := .ok }, (by first | decide | rfl), (by rfl)⟩,
   ⟨own1, _, _, 79, 0, 0, 0, 0, false, [], none, _, (by first | decide | rfl), (rfl), (rfl), (rfl), (by first | decide | rfl), (by first | decide | rfl)⟩,
   ⟨r0, _, _, 79, 0, 0, 0, 0, false, [], none, _, (by first | decide | rfl), (rfl), (rfl), (rfl), (by first | decide | rfl)⟩,
   ⟨setMem (fun m => { m with buckets := [(4095, 63)] }) r0, _, _, 79, 0, 0, 0, 0, false, [], none, _, (by first | decide | rfl), (rfl), (rfl), (rfl), 4095, 63, [], (by rfl), (by first | decide | rfl)⟩,
   ⟨setMem (fun m => { m with buckets := [(4095, 63)] }) (setB SLICE_STEER_MOVING 4095 r0), _, _, 79, 0, 0, 0, 0, false, [], none, _, (by first | decide | rfl), (rfl), (rfl), (rfl), 4095, 63, [], (by rfl), (by first | decide | rfl), (by first | decide | rfl)⟩,
   ⟨setMem (fun m => { m with buckets := [(0, 63)] }) (setB SLICE_STEER_MOVING 0 (trans0 trn0 (dir0 { st := 1 } r0))), _, _, 79, 0, 0, 0, 0, false, [], none, _, (by first | decide | rfl), (rfl), (rfl), (rfl), 0, 63, [], 0, (by rfl), (by first | decide | rfl), (by first | decide | rfl), (by decide), (by first | decide | rfl)⟩⟩

/-- Every clause of `Obligations.TranslationAnswers` has a state and operands that meet its hypotheses. -/
theorem test_TranslationAnswers_met :
    (∃ (s s1 : State) (fn : Nat), s.power.stopped = false ∧ ∃ pasid page ws, (reqFor (.ats fn pasid page) s).isSome = true ∧ s1 = retireFor (.ats fn pasid page) s ∧ ws = s1.xlat.waits.filter (fun x => x.fn == fn && x.pasid == pasid && x.page == page) ∧ ws.any XWait.stale = true) ∧
    (∃ (s s1 : State) (fn : Nat), s.power.stopped = false ∧ ∃ pasid page ws, (reqFor (.ats fn pasid page) s).isSome = true ∧ s1 = retireFor (.ats fn pasid page) s ∧ ws = s1.xlat.waits.filter (fun x => x.fn == fn && x.pasid == pasid && x.page == page) ∧ ws.any XWait.stale = false) ∧
    (∃ (s s1 : State) (fn : Nat), s.power.stopped = false ∧ ∃ (pasid : _) (page : _) (size : _) (tp : Nat) (r : _) (w : _) (ws : _) (es : _), (reqFor (.ats fn pasid page) s).isSome = true ∧ (r || w) = true ∧ s1 = retireFor (.ats fn pasid page) s ∧ ws = s1.xlat.waits.filter (fun x => x.fn == fn && x.pasid == pasid && x.page == page) ∧ ws.any XWait.stale = false ∧ es = entriesFor fn pasid page (max 12 size) tp r w) ∧
    (∃ (s s1 : State) (fn : Nat), s.power.stopped = false ∧ ∃ pasid page, reqFor (.ats fn pasid page) s = none) ∧
    (∃ (s s1 : State) (fn : Nat), s.power.stopped = false ∧ ∃ pasid b, s.xlat.batches.find? (fun b => !b.sent && b.fn == fn && b.pasid == pasid) = some b ∧ b.openedAt + gatherTime s ≤ now16 s) ∧
    (∃ (s s1 : State) (fn : Nat), s.power.stopped = false ∧ ∃ pasid b, s.xlat.batches.find? (fun b => !b.sent && b.fn == fn && b.pasid == pasid) = some b ∧ now16 s < b.openedAt + gatherTime s) ∧
    (∃ (s s1 : State) (fn : Nat), s.power.stopped = false ∧ ∃ prg b, s.xlat.batches.find? (fun b => b.sent && b.fn == fn && b.prg == prg) = some b ∧ s1 = dropBatch fn prg (retireFor (.pri fn prg) s)) ∧
    (∃ (s s1 : State) (fn : Nat), s.power.stopped = false ∧ ∃ prg, (∀ b ∈ s.xlat.batches, b.sent = true → b.fn = fn → b.prg ≠ prg)) ∧
    (∃ (s s1 : State) (fn : Nat), s.power.stopped = false ∧ ∃ prg b r, s.xlat.batches.find? (fun b => b.sent && b.fn == fn && b.prg == prg) = some b ∧ reqFor (.pri fn prg) s = some r ∧ expired r s = true ∧ s1 = bumpSat TRN_COUNT_PRG_TIMEOUT 0 1 (dropBatch fn prg (entomb r s))) ∧
    (∃ (s s1 : State) (fn : Nat), s.power.stopped = false ∧ ∃ prg r, reqFor (.pri fn prg) s = some r ∧ expired r s = false) ∧
    (∃ (s s1 : State) (fn : Nat), s.power.stopped = false ∧ ∃ tag r j p, reqOf 3 77 tag s = some r ∧ r.purpose = .piece j p) ∧
    (∃ (s s1 : State) (fn : Nat), s.power.stopped = false ∧ ∃ tag kind r j p, reqOf 3 77 tag s = some r ∧ r.purpose = .piece j p ∧ (kind = 1 ∨ kind = 2) ∧ s1 = retireReq r s) ∧
    (∃ (s s1 : State) (fn : Nat), s.power.stopped = false ∧ ∃ tag kind r pasid page, reqOf 3 77 tag s = some r ∧ r.purpose = .ats fn pasid page ∧ (kind = 1 ∨ kind = 2)) ∧
    (∃ (s s1 : State) (fn : Nat), s.power.stopped = false ∧ ∃ tag, reqOf 3 77 tag s = none) :=
  ⟨⟨reqs [req0 (.ats 63 7 9)] (xlat { waits := [wait0 true] } r0), _, 63, (by first | decide | rfl), 7, 9, _, (by first | decide | rfl), (rfl), (rfl), (by first | decide | rfl)⟩,
   ⟨reqs [req0 (.ats 63 7 9)] (xlat { waits := [wait0 false] } r0), _, 63, (by first | decide | rfl), 7, 9, _, (by first | decide | rfl), (rfl), (rfl), (by first | decide | rfl)⟩,
   ⟨reqs [req0 (.ats 63 7 9)] (xlat { waits := [wait0 false] } r0), _, 63, (by first | decide | rfl), 7, 9, 0, 0, true, false, _, _, (by first | decide | rfl), (by first | decide | rfl), (rfl), (rfl), (by first | decide | rfl), (rfl)⟩,
   ⟨r0, r0, 63, (by first | decide | rfl), 7, 9, (by first | decide | rfl)⟩,
   ⟨later (us16 2) (xlat { batches := [batch0 false] } r0), r0, 63, (by first | decide | rfl), 7, batch0 false, (by rfl), (by decide)⟩,
   ⟨later (us16 2 - 1) (xlat { batches := [batch0 false] } r0), r0, 63, (by first | decide | rfl), 7, batch0 false, (by rfl), (by decide)⟩,
   ⟨xlat { batches := [batch0 true] } r0, _, 63, (by first | decide | rfl), 5, batch0 true, (by rfl), (rfl)⟩,
   ⟨xlat { batches := [batch0 false] } r0, r0, 63, (by first | decide | rfl), 5, (by decide)⟩,
   ⟨reqs [req0 (.pri 63 5)] (xlat { batches := [batch0 true] } r0), _, 63, (by first | decide | rfl), 5, batch0 true, req0 (.pri 63 5), (by rfl), (by rfl), (by first | decide | rfl), (rfl)⟩,
   ⟨reqs [{ req0 (.pri 63 5) with deadline := 1 }] r0, r0, 63, (by first | decide | rfl), 5, { req0 (.pri 63 5) with deadline := 1 }, (by rfl), (by first | decide | rfl)⟩,
   ⟨reqs [{ req0 (.piece 3 4) with cls := 3, port := 77, tag := 5 }] r0, r0, 0, (by first | decide | rfl), 5, { req0 (.piece 3 4) with cls := 3, port := 77, tag := 5 }, 3, 4, (by rfl), (by first | decide | rfl)⟩,
   ⟨reqs [{ req0 (.piece 3 4) with cls := 3, port := 77, tag := 5 }] r0, _, 0, (by first | decide | rfl), 5, 2, { req0 (.piece 3 4) with cls := 3, port := 77, tag := 5 }, 3, 4, (by rfl), (by first | decide | rfl), (by decide), (rfl)⟩,
   ⟨reqs [{ req0 (.ats 63 7 9) with cls := 3, port := 77, tag := 5 }] r0, r0, 63, (by first | decide | rfl), 5, 1, { req0 (.ats 63 7 9) with cls := 3, port := 77, tag := 5 }, 7, 9, (by rfl), (by first | decide | rfl), (by decide)⟩,
   ⟨r0, r0, 0, (by first | decide | rfl), 5, (by first | decide | rfl)⟩⟩

/-- Every clause of `Obligations.InvalidationCopyAndAtomic` has a state and operands that meet its hypotheses. -/
theorem test_InvalidationCopyAndAtomic_met :
    (∃ (s : State), s.power.stopped = false ∧ ∃ (fn : _) (pasid : _) (lo : _) (pages : _) (itag : _) (i : Inval), s.xlat.invals.length < 32 ∧ i = { id := s.xlat.nextInval, fn := fn, pasid := pasid, lo := lo, pages := pages, host := some itag }) ∧
    (∃ (s : State), s.power.stopped = false ∧ ∃ (fn : _) (pasid : _) (lo : _) (pages : _) (itag : _) (i : Inval), 32 ≤ s.xlat.invals.length ∧ i = { id := s.xlat.nextInval, fn := fn, pasid := pasid, lo := lo, pages := pages, host := some itag }) ∧
    (∃ (s : State), s.power.stopped = false ∧ ∃ g k d, runningDesc g k 0x31 s = some d ∧ (s.xlat.invals ++ s.xlat.queuedInvals).any (fun i => decide (i.desc = some (g, k))) = false ∧ bit (d.word 2) 27 = true ∧ bit (d.word 2) 26 = false) ∧
    (∃ (s : State), s.power.stopped = false ∧ ∃ g k d, runningDesc g k 0x31 s = some d ∧ (s.xlat.invals ++ s.xlat.queuedInvals).any (fun i => decide (i.desc = some (g, k))) = false ∧ bit (d.word 2) 27 = false ∧ slice (d.word 4) 0 32 = 0) ∧
    (∃ (s : State), s.power.stopped = false ∧ ∃ id i, s.xlat.invals.find? (fun i => i.id == id) = some i ∧ i.busy s = false) ∧
    (∃ (s : State), s.power.stopped = false ∧ ∃ id i, s.xlat.invals.find? (fun i => i.id == id) = some i ∧ i.busy s = true) ∧
    (∃ (s : State), s.power.stopped = false ∧ ∃ id i, s.xlat.invals.find? (fun i => i.id == id) = some i ∧ i.at16 + us16 150 ≤ now16 s) ∧
    (∃ (s : State), s.power.stopped = false ∧ ∃ id i, s.xlat.invals.find? (fun i => i.id == id) = some i ∧ now16 s < i.at16 + us16 150) ∧
    (∃ (s : State), s.power.stopped = false ∧ ∃ g k t d n len, runningDesc g k 0x01 s = some d ∧ s.xlat.jobs.find? (fun p => decide (p.2.who = .copy g k)) = none ∧ n = ringFn g ∧ len = slice (d.word 4) 0 19 ∧ 0 < len ∧ len ≤ 262144 ∧ slice (d.word 4) 19 2 ≠ 3 ∧ sideStatus n len false (copySides d).1 s = .ok ∧ sideStatus n len true (copySides d).2 s = .ok ∧ (partOf n s).isSome = true ∧ tileOwned n t s = true ∧ tileServes t s = true) ∧
    (∃ (s : State), s.power.stopped = false ∧ ∃ g k d, runningDesc g k 0x01 s = some d ∧ s.xlat.jobs.find? (fun p => decide (p.2.who = .copy g k)) = none ∧ slice (d.word 4) 0 19 = 0 ∧ (partOf (ringFn g) s).isSome = true) ∧
    (∃ (s : State), s.power.stopped = false ∧ ∃ g k d a n c r s1, runningDesc g k 0x02 s = some d ∧ inFlight (.desc g k) s = false ∧ a = slice (d.word 2) 0 44 ∧ n = (if bit (d.word 2) 46 then 8 else 4) ∧ slice (d.word 2) 44 2 ≠ 3 ∧ a % n = 0 ∧ fabricWindow a = none ∧ accessStatus (.agent (ringFn g)) a true s = .ok ∧ sliceStatus a s = .ok ∧ c = portClass 79 (ringFn g) s ∧ mayLeaveMesh c (a / 64) s = true ∧ r = { kind := .homeAtomic, line := a / 64, who := .desc g k, off := a % 64, len := n, op := slice (d.word 2) 44 2, a := wrap (8 * n) (d.word 3), b := wrap (8 * n) (d.word 4), cls := c, deadline := classDeadline c d.deadline s } ∧ s1 = meetAt 0 r (addOut r.who r.cls r.line s) ∧ lineBusy (a / 64) s1 = false ∧ (dent (a / 64) s1).st = 0) ∧
    (∃ (s : State), s.power.stopped = false ∧ ∃ g k d a w, runningDesc g k 0x02 s = some d ∧ inFlight (.desc g k) s = false ∧ a = slice (d.word 2) 0 44 ∧ bit (d.word 2) 46 = true ∧ slice (d.word 2) 44 2 ≠ 3 ∧ a % 8 = 0 ∧ fabricWindow a = some w) ∧
    (∃ (s : State), s.power.stopped = false ∧ ∃ g k d, runningDesc g k 0x02 s = some d ∧ inFlight (.desc g k) s = false ∧ fabricWindow (slice (d.word 2) 0 44) = none ∧ slice (d.word 2) 44 2 = 3 ∧ accessStatus (.agent (ringFn g)) (slice (d.word 2) 0 44) true s = .ok) :=
  ⟨⟨xlat { invals := List.replicate 31 inv0 } r0, (by first | decide | rfl), 63, none, 0, none, 31, _, (by decide), (rfl)⟩,
   ⟨xlat { invals := List.replicate 32 inv0 } r0, (by first | decide | rfl), 63, none, 0, none, 31, _, (by decide), (rfl)⟩,
   ⟨running 0 0 [0x31, 0, 2 ^ 27, 0, 0] r0, (by first | decide | rfl), 0, 0, ring0 0 0 [0x31, 0, 2 ^ 27, 0, 0], (by rfl), (by rfl), (by first | decide | rfl), (by first | decide | rfl)⟩,
   ⟨running 0 0 [0x31, 0, 0, 0, 0] r0, (by first | decide | rfl), 0, 0, ring0 0 0 [0x31, 0, 0, 0, 0], (by rfl), (by rfl), (by first | decide | rfl), (by first | decide | rfl)⟩,
   ⟨xlat { invals := [inv0] } r0, (by first | decide | rfl), 5, inv0, (by rfl), (by first | decide | rfl)⟩,
   ⟨reqs [{ req0 (.onDie 0) with cls := 3, port := 77, tag := 9 }] (xlat { invals := [inv0] } r0), (by first | decide | rfl), 5, inv0, (by rfl), (by first | decide | rfl)⟩,
   ⟨later (us16 150) (reqs [{ req0 (.onDie 0) with cls := 3, port := 77, tag := 9 }] (xlat { invals := [inv0] } r0)), (by first | decide | rfl), 5, inv0, (by rfl), (by decide)⟩,
   ⟨later (us16 150 - 1) (xlat { invals := [inv0] } r0), (by first | decide | rfl), 5, inv0, (by rfl), (by decide)⟩,
   ⟨running 0 0 [1, 0, 0, 2 ^ 29, 1 + 2 ^ 20] own1, (by first | decide | rfl), 0, 0, 63, ring0 0 0 [1, 0, 0, 2 ^ 29, 1 + 2 ^ 20], 0, 1, (by rfl), (by first | decide | rfl), (by rfl), (by rfl), (by decide), (by decide), (by decide), (by first | decide | rfl), (by first | decide | rfl), (by first | decide | rfl), (by first | decide | rfl), (by first | decide | rfl)⟩,
   ⟨running 0 0 [1, 0, 0, 0, 0] own1, (by first | decide | rfl), 0, 0, ring0 0 0 [1, 0, 0, 0, 0], (by rfl), (by first | decide | rfl), (by first | decide | rfl), (by first | decide | rfl)⟩,
   ⟨running 0 0 [2, 0, 2 ^ 30 - 8 + 2 ^ 45 + 2 ^ 46] own1, (by first | decide | rfl), 0, 0, ring0 0 0 [2, 0, 2 ^ 30 - 8 + 2 ^ 45 + 2 ^ 46], 2 ^ 30 - 8, 8, _, _, _, (by rfl), (by first | decide | rfl), (by rfl), (by rfl), (by decide), (by first | decide | rfl), (by first | decide | rfl), (by first | decide | rfl), (by first | decide | rfl), (rfl), (by first | decide | rfl), (rfl), (rfl), (by first | decide | rfl), (by first | decide | rfl)⟩,
   ⟨running 0 0 [2, 0, 2 ^ 43 + 2 ^ 45 + 2 ^ 46] own1, (by first | decide | rfl), 0, 0, ring0 0 0 [2, 0, 2 ^ 43 + 2 ^ 45 + 2 ^ 46], 2 ^ 43, 0, (by rfl), (by first | decide | rfl), (by rfl), (by first | decide | rfl), (by decide), (by first | decide | rfl), (by rfl)⟩,
   ⟨running 0 0 [2, 0, 3 * 2 ^ 44] own1, (by first | decide | rfl), 0, 0, ring0 0 0 [2, 0, 3 * 2 ^ 44], (by rfl), (by first | decide | rfl), (by first | decide | rfl), (by first | decide | rfl), (by first | decide | rfl)⟩⟩

/-- Every clause of `Obligations.ChipletMessagesAndFlits` has a state and operands that meet its hypotheses. -/
theorem test_ChipletMessagesAndFlits_met :
    (∃ (s s1 : State) (j : Nat) (m : ZMsg), s.power.stopped = false ∧ ∃ s2 s3, takeRx j 0x07 s = some (m, s1) ∧ s2 = setSite j (fun x => { x with want := slice m.hdr 20 16, reqAt := some (now16 s1) }) s1 ∧ s3 = wr SITE_PWR_MEASURED j (slice m.hdr 36 16) s2) ∧
    (∃ (s s1 : State) (j : Nat) (m : ZMsg), s.power.stopped = false ∧ ∃ g, writesOpen j s = false ∧ takeRx j 0x06 s = some (m, s1) ∧ g = slice m.hdr 20 10 ∧ siteOwner j s1 = some (rd ARRIVAL_CFG_FUNCTION g s1) ∧ rdb ARRIVAL_CFG_EN g s1 = true) ∧
    (∃ (s s1 : State) (j : Nat) (m : ZMsg), s.power.stopped = false ∧ ∃ g, writesOpen j s = false ∧ takeRx j 0x06 s = some (m, s1) ∧ g = slice m.hdr 20 10 ∧ siteOwner j s1 ≠ some (rd ARRIVAL_CFG_FUNCTION g s1)) ∧
    (∃ (s s1 : State) (j : Nat) (m : ZMsg), s.power.stopped = false ∧ ∃ g, writesOpen j s = false ∧ takeRx j 0x06 s = some (m, s1) ∧ g = slice m.hdr 20 10 ∧ siteOwner j s1 = some (rd ARRIVAL_CFG_FUNCTION g s1) ∧ rdb ARRIVAL_CFG_EN g s1 = false) ∧
    (∃ (s s1 : State) (j : Nat) (m : ZMsg), s.power.stopped = false ∧ writesOpen j s = true) ∧
    (∃ (s s1 : State) (j : Nat) (m : ZMsg), s.power.stopped = false ∧ ∃ n, takeRx j 0x17 s = some (m, s1) ∧ siteOwner j s1 = some n) ∧
    (∃ (s s1 : State) (j : Nat) (m : ZMsg), s.power.stopped = false ∧ takeRx j 0x17 s = some (m, s1) ∧ siteOwner j s1 = none) ∧
    (∃ (s s1 : State) (j : Nat) (m : ZMsg), s.power.stopped = false ∧ ∃ r a id q, takeRx j 0x1A s = some (m, s1) ∧ reqOf 1 (64 + j) (qTag m.hdr) s1 = some r ∧ r.purpose = .window a id false ∧ slice m.hdr 20 4 = 0 ∧ (retireReq r s1).host.accs.find? (fun a => a.id == id) = some q) ∧
    (∃ (s s1 : State) (j : Nat) (m : ZMsg), s.power.stopped = false ∧ ∃ r a id u, takeRx j 0x1A s = some (m, s1) ∧ u = (if Status.reservedCode (slice m.hdr 20 4) then logRec .reservedStatus [0, j, slice m.hdr 20 4] s1 else s1) ∧ reqOf 1 (64 + j) (qTag m.hdr) u = some r ∧ r.purpose = .window a id false ∧ slice m.hdr 20 4 ≠ 0) ∧
    (∃ (s s1 : State) (j : Nat) (m : ZMsg), s.power.stopped = false ∧ ∃ r a id, takeRx j 0x14 s = some (m, s1) ∧ Status.reservedCode (slice m.hdr 20 4) = false ∧ reqOf 1 (64 + j) (qTag m.hdr) s1 = some r ∧ r.purpose = .window a id true) ∧
    (∃ (s s1 : State) (j : Nat) (m : ZMsg), s.power.stopped = false ∧ ∃ r code, takeRx j 0x16 s = some (m, s1) ∧ code = slice m.hdr 20 4 ∧ Status.reservedCode code = false ∧ reqOf 1 (64 + j) (qTag m.hdr) s1 = some r ∧ r.purpose = .quiesce j 1 ∧ (retireReq r s1).power.entry.isSome = true) ∧
    (∃ (s s1 : State) (j : Nat) (m : ZMsg), s.power.stopped = false ∧ ∃ r, takeRx j 0x16 s = some (m, s1) ∧ slice m.hdr 20 4 = 0 ∧ reqOf 1 (64 + j) (qTag m.hdr) s1 = some r ∧ r.purpose = .quiesce j 1 ∧ (retireReq r s1).power.entry = none) ∧
    (∃ (s s1 : State) (j : Nat) (m : ZMsg), s.power.stopped = false ∧ ∃ r t, takeRx j 0x16 s = some (m, s1) ∧ Status.reservedCode (slice m.hdr 20 4) = false ∧ reqOf 1 (64 + j) (qTag m.hdr) s1 = some r ∧ r.purpose = .quiesce j 0 ∧ (site j (retireReq r s1)).rst = .quiescing t) ∧
    (∃ (s s1 : State) (j : Nat), s.power.stopped = false ∧ ∃ n ctrl s2, flitOpen j s = true ∧ siteCxl j s = false ∧ n ≤ 4 ∧ s1 = count (siteUnit j) 0x41 none 1 (noteWake 0x12 j (count (siteUnit j) 0x42 none n (bumpSat SITE_ERR_RETRIES j n s))) ∧ s2 = slice ctrl 0 16 + 65536 - (site j s1).rxSeq ∧ s2 % 65536 = 0) ∧
    (∃ (s s1 : State) (j : Nat), s.power.stopped = false ∧ ∃ n ctrl s2, flitOpen j s = true ∧ siteCxl j s = false ∧ n ≤ 4 ∧ s1 = count (siteUnit j) 0x41 none 1 (noteWake 0x12 j (count (siteUnit j) 0x42 none n (bumpSat SITE_ERR_RETRIES j n s))) ∧ s2 = slice ctrl 0 16 + 65536 - (site j s1).rxSeq ∧ 32768 ≤ s2 % 65536) ∧
    (∃ (s s1 : State) (j : Nat), s.power.stopped = false ∧ ∃ n ctrl s2, flitOpen j s = true ∧ siteCxl j s = false ∧ n ≤ 4 ∧ s1 = count (siteUnit j) 0x41 none 1 (noteWake 0x12 j (count (siteUnit j) 0x42 none n (bumpSat SITE_ERR_RETRIES j n s))) ∧ s2 = slice ctrl 0 16 + 65536 - (site j s1).rxSeq ∧ 0 < s2 % 65536 ∧ s2 % 65536 < 32768) ∧
    (∃ (s s1 : State) (j : Nat), s.power.stopped = false ∧ ∃ n, flitOpen j s = true ∧ siteCxl j s = false ∧ 4 < n) ∧
    (∃ (s s1 : State) (j : Nat), s.power.stopped = false ∧ flitOpen j s = false) ∧
    (∃ (s s1 : State) (j : Nat), s.power.stopped = false ∧ ∃ (data : List Byte) (g : _), siteCxl j s = true ∧ siteReady j s = true ∧ data.length = 4 ∧ g < 1024 ∧ arriveStatus j g s = .ok) ∧
    (∃ (s s1 : State) (j : Nat), s.power.stopped = false ∧ ∃ (data : List Byte) (g : _), siteCxl j s = true ∧ siteReady j s = true ∧ data.length = 4 ∧ g < 1024 ∧ arriveStatus j g s = .accessDenied) ∧
    (∃ (s s1 : State) (j : Nat), s.power.stopped = false ∧ ∃ (data : List Byte) (g : _), siteCxl j s = true ∧ siteReady j s = true ∧ data.length = 4 ∧ g < 1024 ∧ arriveStatus j g s = .refused) ∧
    (∃ (s s1 : State) (j : Nat), s.power.stopped = false ∧ ∃ line, siteCxl j s = true ∧ siteReady j s = true ∧ 64 * line < 0x0F0000000000 ∧ accessStatus (.site j) (64 * line) false s = .ok) ∧
    (∃ (s s1 : State) (j : Nat), s.power.stopped = false ∧ siteReady j s = false) ∧
    (∃ (s s1 : State) (j : Nat), s.power.stopped = false ∧ ∃ tag r a w id, siteCxl j s = true ∧ reqOf 1 (64 + j) tag s = some r ∧ r.purpose = .window a id w) ∧
    (∃ (s s1 : State) (j : Nat), s.power.stopped = false ∧ siteCxl j s = false) :=
  ⟨⟨rx7 (zm 0x07) (siteOwn), _, 7, (zm 0x07), (by first | decide | rfl), _, _, (rfl), (rfl), (rfl)⟩,
   ⟨rx7 { zm 6 with hdr := 1023 * 2 ^ 20 } (setB ARRIVAL_CFG_EN 1023 siteOwn), _, 7, { zm 6 with hdr := 1023 * 2 ^ 20 }, (by first | decide | rfl), 1023, (by first | decide | rfl), (rfl), (by rfl), (by decide), (by first | decide | rfl)⟩,
   ⟨rx7 { zm 6 with hdr := 1023 * 2 ^ 20 } (siteMem), _, 7, { zm 6 with hdr := 1023 * 2 ^ 20 }, (by first | decide | rfl), 1023, (by first | decide | rfl), (rfl), (by rfl), (by decide)⟩,
   ⟨rx7 { zm 6 with hdr := 1023 * 2 ^ 20 } (siteOwn), _, 7, { zm 6 with hdr := 1023 * 2 ^ 20 }, (by first | decide | rfl), 1023, (by first | decide | rfl), (rfl), (by rfl), (by decide), (by first | decide | rfl)⟩,
   ⟨rx7 (zm 5) siteOwn, r0, 7, zm 5, (by first | decide | rfl), (by first | decide | rfl)⟩,
   ⟨rx7 (zm 0x17) (siteOwn), _, 7, (zm 0x17), (by first | decide | rfl), 0, (rfl), (by rfl)⟩,
   ⟨rx7 (zm 0x17) (siteMem), _, 7, (zm 0x17), (by first | decide | rfl), (rfl), (by first | decide | rfl)⟩,
   ⟨rx7 (zm 0x1A) (accs (win7 false siteOwn)), _, 7, (zm 0x1A), (by first | decide | rfl), { req0 (.window 7 2 false) with cls := 1, port := 71 }, 7, 2, acc0, (rfl), (by rfl), (by first | decide | rfl), (by first | decide | rfl), (by rfl)⟩,
   ⟨rx7 { zm 0x1A with hdr := 2 ^ 20 } (win7 false siteOwn), _, 7, { zm 0x1A with hdr := 2 ^ 20 }, (by first | decide | rfl), { req0 (.window 7 2 false) with cls := 1, port := 71 }, 7, 2, _, (rfl), (rfl), (by rfl), (by first | decide | rfl), (by decide)⟩,
   ⟨rx7 (zm 0x14) (win7 true siteOwn), _, 7, (zm 0x14), (by first | decide | rfl), { req0 (.window 7 2 true) with cls := 1, port := 71 }, 7, 2, (rfl), (by first | decide | rfl), (by rfl), (by first | decide | rfl)⟩,
   ⟨rx7 (zm 0x16) (quiet8 (pow (fun p => { p with entry := some pent }) siteOwn)), _, 7, (zm 0x16), (by first | decide | rfl), { req0 (.quiesce 7 1) with cls := 1, port := 71 }, 0, (rfl), (by rfl), (by first | decide | rfl), (by rfl), (by first | decide | rfl), (by first | decide | rfl)⟩,
   ⟨rx7 (zm 0x16) (quiet8 siteOwn), _, 7, (zm 0x16), (by first | decide | rfl), { req0 (.quiesce 7 1) with cls := 1, port := 71 }, (rfl), (by first | decide | rfl), (by rfl), (by first | decide | rfl), (by first | decide | rfl)⟩,
   ⟨rx7 (zm 0x16) (quiet7 (rst7 (.quiescing 5) siteOwn)), _, 7, (zm 0x16), (by first | decide | rfl), { req0 (.quiesce 7 0) with cls := 1, port := 71 }, 5, (rfl), (by first | decide | rfl), (by rfl), (by first | decide | rfl), (by first | decide | rfl)⟩,
   ⟨siteOwn, _, 7, (by first | decide | rfl), 4, 0, _, (by first | decide | rfl), (by first | decide | rfl), (by decide), (rfl), (rfl), (by first | decide | rfl)⟩,
   ⟨siteOwn, _, 7, (by first | decide | rfl), 4, 32768, _, (by first | decide | rfl), (by first | decide | rfl), (by decide), (rfl), (rfl), (by decide)⟩,
   ⟨siteOwn, _, 7, (by first | decide | rfl), 4, 32767, _, (by first | decide | rfl), (by first | decide | rfl), (by decide), (rfl), (rfl), (by decide), (by decide)⟩,
   ⟨siteOwn, r0, 7, (by first | decide | rfl), 5, (by first | decide | rfl), (by first | decide | rfl), (by decide)⟩,
   ⟨r0, r0, 7, (by first | decide | rfl), (by first | decide | rfl)⟩,
   ⟨setB ARRIVAL_CFG_EN 1023 (setB SITE_CFG_PERSONALITY 7 siteOwn), r0, 7, (by first | decide | rfl), [0, 0, 0, 0], 1023, (by first | decide | rfl), (by first | decide | rfl), (by first | decide | rfl), (by decide), (by first | decide | rfl)⟩,
   ⟨setB SITE_CFG_PERSONALITY 7 siteMem, r0, 7, (by first | decide | rfl), [0, 0, 0, 0], 1023, (by first | decide | rfl), (by first | decide | rfl), (by first | decide | rfl), (by decide), (by first | decide | rfl)⟩,
   ⟨setB SITE_CFG_PERSONALITY 7 siteOwn, r0, 7, (by first | decide | rfl), [0, 0, 0, 0], 1023, (by first | decide | rfl), (by first | decide | rfl), (by first | decide | rfl), (by decide), (by first | decide | rfl)⟩,
   ⟨setB SITE_CFG_PERSONALITY 7 siteMem, r0, 7, (by first | decide | rfl), 0, (by first | decide | rfl), (by first | decide | rfl), (by decide), (by first | decide | rfl)⟩,
   ⟨r0, r0, 7, (by first | decide | rfl), (by first | decide | rfl)⟩,
   ⟨win7 true (setB SITE_CFG_PERSONALITY 7 siteOwn), r0, 7, (by first | decide | rfl), 0, { req0 (.window 7 2 true) with cls := 1, port := 71 }, 7, true, 2, (by first | decide | rfl), (by rfl), (by first | decide | rfl)⟩,
   ⟨r0, r0, 7, (by first | decide | rfl), (by first | decide | rfl)⟩⟩

/-- Every clause of `Obligations.SiteResetAndModules` has a state and operands that meet its hypotheses. -/
theorem test_SiteResetAndModules_met :
    (∃ (s : State) (j : Nat), s.power.stopped = false ∧ siteOn j s = true ∧ gangedOdd j s = false ∧ (site j s).rst = .none ∧ siteReady j s = true ∧ siteCxl j s = false) ∧
    (∃ (s : State) (j : Nat), s.power.stopped = false ∧ siteOn j s = true ∧ gangedOdd j s = false ∧ (site j s).rst = .none ∧ siteReady j s = false) ∧
    (∃ (s : State) (j : Nat), s.power.stopped = false ∧ siteOn j s = false) ∧
    (∃ (s : State) (j : Nat), s.power.stopped = false ∧ siteOn j s = true ∧ gangedOdd j s = false ∧ 2 ≤ siteState j s ∧ siteState j s ≠ 4) ∧
    (∃ (s : State) (j : Nat), s.power.stopped = false ∧ siteOn j s = true ∧ gangedOdd j s = false ∧ (siteState j s ≤ 1 ∨ siteState j s = 4)) ∧
    (∃ (s : State) (j : Nat), s.power.stopped = false ∧ ∃ t, (site j s).rst = .quiescing t ∧ t ≤ now16 s) ∧
    (∃ (s : State) (j : Nat), s.power.stopped = false ∧ ∃ t, (site j s).rst = .quiescing t ∧ now16 s < t) ∧
    (∃ (s : State) (j : Nat), s.power.stopped = false ∧ ∃ t, (site j s).rst = .low t ∧ t + us16 10 ≤ now16 s ∧ rdb SITE_CTL_ENABLE j s = false) ∧
    (∃ (s : State) (j : Nat), s.power.stopped = false ∧ ∃ (t : _) (f : SiteFound) (s1 : _) (s2 : _) (s3 : _) (s4 : _), (site j s).rst = .low t ∧ t + us16 10 ≤ now16 s ∧ rdb SITE_CTL_ENABLE j s = true ∧ siteOn j s = true ∧ gangedOdd j s = false ∧ s1 = trainModules j f (gangOdd j (driveSiteRst j 1 s)) ∧ (rdb SITE_CFG_GANG j s1 && siteCxl j s1) = false ∧ siteMods j s1 ≠ 0 ∧ s2 = takeIdent j f.ident s1 ∧ identBad j f.ident s2 = false ∧ s3 = attestChiplet j (wr SITE_STATUS_STATE j 2 s2) ∧ (rdb SITE_CFG_ATTEST_REQ j s3 = true → f.attested = true) ∧ s4 = writeBoot j (wrb SITE_STATUS_ATTESTED j (rdb SITE_CFG_ATTEST_REQ j s3) s3)) ∧
    (∃ (s : State) (j : Nat), s.power.stopped = false ∧ ∃ (t : _) (f : SiteFound) (s1 : _), (site j s).rst = .low t ∧ t + us16 10 ≤ now16 s ∧ rdb SITE_CTL_ENABLE j s = true ∧ siteOn j s = true ∧ gangedOdd j s = false ∧ s1 = trainModules j f (gangOdd j (driveSiteRst j 1 s)) ∧ (rdb SITE_CFG_GANG j s1 && siteCxl j s1) = false ∧ siteMods j s1 = 0) ∧
    (∃ (s : State) (j : Nat), s.power.stopped = false ∧ ∃ t, (site j s).rst = .low t ∧ now16 s < t + us16 10) ∧
    (∃ (s : State) (j : Nat), s.power.stopped = false ∧ ∃ s1 s2, (site j s).rst = .bringing ∧ (siteCxl j s || (site j s).granted) = true ∧ s1 = setSite j (fun x => { x with rst := .none, lost := 0 }) s ∧ s2 = wr SITE_PWR_CAP j (pwrMin j s1) (setB SITE_EVENT_READY j (wr SITE_STATUS_STATE j 3 s1)) ∧ siteOwner j s2 = none) ∧
    (∃ (s : State) (j : Nat), s.power.stopped = false ∧ ∃ s1 s2, (site j s).rst = .bringing ∧ (siteCxl j s || (site j s).granted) = true ∧ s1 = setSite j (fun x => { x with rst := .none, lost := 0 }) s ∧ s2 = wr SITE_PWR_CAP j (pwrMin j s1) (setB SITE_EVENT_READY j (wr SITE_STATUS_STATE j 3 s1)) ∧ ∃ n, siteOwner j s2 = some n) ∧
    (∃ (s : State) (j : Nat), s.power.stopped = false ∧ (site j s).rst = .none) ∧
    (∃ (s : State) (j : Nat), s.power.stopped = false ∧ ∃ k, (siteReady j s || siteState j s == 5) = true ∧ bit (siteMods j s) k = true) ∧
    (∃ (s : State) (j : Nat), s.power.stopped = false ∧ ∃ k, bit (siteMods j s) k = false) ∧
    (∃ (s : State) (j : Nat), s.power.stopped = false ∧ ∃ mods left s1, siteState j s = 5 ∧ left = Nat.land mods (siteMods j s) ∧ left ≠ 0 ∧ s1 = setSite j (fun x => { x with txq := markLate x.txq }) (resumeReqs (onSite j) (wr SITE_STATUS_STATE j 3 (setMods j left s)))) ∧
    (∃ (s : State) (j : Nat), s.power.stopped = false ∧ ∃ mods, siteState j s = 5 ∧ Nat.land mods (siteMods j s) = 0) ∧
    (∃ (s : State) (j : Nat), s.power.stopped = false ∧ siteState j s ≠ 5) :=
  ⟨⟨rst7 .none siteMem, 7, (by first | decide | rfl), (by first | decide | rfl), (by first | decide | rfl), (by first | decide | rfl), (by first | decide | rfl), (by first | decide | rfl)⟩,
   ⟨rst7 .none r0, 7, (by first | decide | rfl), (by first | decide | rfl), (by first | decide | rfl), (by first | decide | rfl), (by first | decide | rfl)⟩,
   ⟨r0, 8, (by first | decide | rfl), (by first | decide | rfl)⟩,
   ⟨wr SITE_STATUS_STATE 7 5 r0, 7, (by first | decide | rfl), (by first | decide | rfl), (by first | decide | rfl), (by decide), (by decide)⟩,
   ⟨wr SITE_STATUS_STATE 7 4 r0, 7, (by first | decide | rfl), (by first | decide | rfl), (by first | decide | rfl), (by decide)⟩,
   ⟨rst7 (.quiescing 0) r0, 7, (by first | decide | rfl), 0, (by first | decide | rfl), (by decide)⟩,
   ⟨rst7 (.quiescing 1) r0, 7, (by first | decide | rfl), 1, (by first | decide | rfl), (by decide)⟩,
   ⟨later (us16 10) (clrB SITE_CTL_ENABLE 7 r0), 7, (by first | decide | rfl), 0, (by first | decide | rfl), (by decide), (by first | decide | rfl)⟩,
   ⟨later (us16 10) (setB SITE_CTL_ENABLE 7 (rst7 (.low 0) r0)), 7, (by first | decide | rfl), 0, { mods := 15, attested := true, ident := [0, 0, 0, 0, 0x10, 1, 3] }, _, _, _, _, (by first | decide | rfl), (by decide), (by first | decide | rfl), (by first | decide | rfl), (by first | decide | rfl), (rfl), (by first | decide | rfl), (by decide), (rfl), (by first | decide | rfl), (rfl), (by first | decide | rfl), (rfl)⟩,
   ⟨later (us16 10) (setB SITE_CTL_ENABLE 7 (rst7 (.low 0) r0)), 7, (by first | decide | rfl), 0, { mods := 0 }, _, (by first | decide | rfl), (by decide), (by first | decide | rfl), (by first | decide | rfl), (by first | decide | rfl), (rfl), (by first | decide | rfl), (by first | decide | rfl)⟩,
   ⟨later (us16 10 - 1) r0, 7, (by first | decide | rfl), 0, (by first | decide | rfl), (by decide)⟩,
   ⟨setSite 7 (fun x => { x with rst := .bringing, granted := true }) siteMem, 7, (by first | decide | rfl), _, _, (by first | decide | rfl), (by first | decide | rfl), (rfl), (rfl), (by first | decide | rfl)⟩,
   ⟨setSite 7 (fun x => { x with rst := .bringing, granted := true }) siteOwn, 7, (by first | decide | rfl), _, _, (by first | decide | rfl), (by first | decide | rfl), (rfl), (rfl), 0, (by rfl)⟩,
   ⟨rst7 .none r0, 7, (by first | decide | rfl), (by first | decide | rfl)⟩,
   ⟨wr SITE_STATUS_MOD_OK 7 8 siteMem, 7, (by first | decide | rfl), 3, (by first | decide | rfl), (by first | decide | rfl)⟩,
   ⟨r0, 7, (by first | decide | rfl), 0, (by first | decide | rfl)⟩,
   ⟨wr SITE_STATUS_STATE 7 5 (wr SITE_STATUS_MOD_OK 7 8 r0), 7, (by first | decide | rfl), 8, _, _, (by first | decide | rfl), (rfl), (by decide), (rfl)⟩,
   ⟨wr SITE_STATUS_STATE 7 5 (wr SITE_STATUS_MOD_OK 7 8 r0), 7, (by first | decide | rfl), 7, (by first | decide | rfl), (by first | decide | rfl)⟩,
   ⟨r0, 7, (by first | decide | rfl), (by decide)⟩⟩

/-- Every clause of `Obligations.SyrelPortsAndFabricPins` has a state and operands that meet its hypotheses. -/
theorem test_SyrelPortsAndFabricPins_met :
    (∃ (s : State) (p : Nat), s.power.stopped = false ∧ ∃ (cseq : _) (k : _) (s1 : State), rdb SYR_PORT_UP p s = true ∧ s1 = count (spaUnit p) 0x61 none (pktCells k) (noteWake 0x11 p s) ∧ cseq = ((syrPort p (noteWake 0x11 p s)).rxSeq + 1) % 512 ∧ rdb SYR_PORT_SECURE p s1 = false) ∧
    (∃ (s : State) (p : Nat), s.power.stopped = false ∧ ∃ (fec : _) (cseq : _) (cells : List Cell) (s1 : State), rdb SYR_PORT_UP p s = true ∧ (((∃ k, Cell.pkt k ∈ cells) ∧ s1 = noteWake 0x11 p s) ∨ ((∀ k, Cell.pkt k ∉ cells) ∧ s1 = s)) ∧ (fec = 2 ∨ cseq ≠ ((syrPort p s1).rxSeq + 1) % 512)) ∧
    (∃ (s : State) (p : Nat), s.power.stopped = false ∧ rdb SYR_PORT_UP p s = false) ∧
    (∃ (s : State) (p : Nat), s.power.stopped = false ∧ ∃ vcs sh, headCell p s = some (.credit vcs sh)) ∧
    (∃ (s : State) (p : Nat), s.power.stopped = false ∧ headCell p s = none) ∧
    (∃ (s : State) (p : Nat), s.power.stopped = false ∧ ∃ before after, (syrPort p s).unverified = before ++ .auth true :: after ∧ (∀ b, .auth b ∉ before)) ∧
    (∃ (s : State) (p : Nat), s.power.stopped = false ∧ ∃ before after, (syrPort p s).unverified = before ++ .auth false :: after ∧ (∀ b, .auth b ∉ before)) ∧
    (∃ (s : State) (p : Nat), s.power.stopped = false ∧ (∀ b, .auth b ∉ (syrPort p s).unverified)) ∧
    (∃ (s : State) (p : Nat), s.power.stopped = false ∧ mayTrain p s = true) ∧
    (∃ (s : State) (p : Nat), s.power.stopped = false ∧ ∃ (lanes : _) (hub : _) (t : _) (q : _) (ok : _) (s1 : State), mayTrain p s = true ∧ lanes ≠ 0 ∧ ok = true ∧ noCrypto s = false ∧ s1 = setPort p (fun x => { x with training := none }) (setB SYR_PORT_PARTNER_VALID p (wr SYR_PORT_PARTNER_PORT p q (wrb SYR_PORT_PARTNER_TWIN p t (wr SYR_PORT_PARTNER_HUB p hub (wr SYR_PORT_LANES p lanes s))))) ∧ miswired p hub t q s1 = true) ∧
    (∃ (s : State) (p : Nat), s.power.stopped = false ∧ mayTrain p s = false) ∧
    (∃ (s : State), s.power.stopped = false ∧ (hubReady s = false ∨ aliveOk s = false ∨ s.fuses.variant = 3)) ∧
    (∃ (s : State), s.power.stopped = false ∧ hubReady s = true ∧ aliveOk s = true ∧ s.fuses.variant ≠ 3 ∧ rd SYR_STATUS_ALIVE 0 s = 0) :=
  ⟨⟨setB SYR_PORT_UP 19 r0, 19, (by first | decide | rfl), 0, pkt 1, _, (by first | decide | rfl), (rfl), (rfl), (by first | decide | rfl)⟩,
   ⟨setB SYR_PORT_UP 19 r0, 19, (by first | decide | rfl), 2, 0, [], _, (by first | decide | rfl), (.inr ⟨(fun k h => by cases h), rfl⟩), (by decide)⟩,
   ⟨r0, 19, (by first | decide | rfl), (by first | decide | rfl)⟩,
   ⟨port 19 { rx := [.credit [1] 2] } r0, 19, (by first | decide | rfl), [1], 2, (by rfl)⟩,
   ⟨r0, 19, (by first | decide | rfl), (by first | decide | rfl)⟩,
   ⟨port 19 { unverified := [.auth true] } r0, 19, (by first | decide | rfl), [], [], (by rfl), (fun _ h => by cases h)⟩,
   ⟨port 19 { unverified := [.auth false] } r0, 19, (by first | decide | rfl), [], [], (by rfl), (fun _ h => by cases h)⟩,
   ⟨r0, 19, (by first | decide | rfl), (fun _ h => by cases h)⟩,
   ⟨r0, 19, (by first | decide | rfl), (by first | decide | rfl)⟩,
   ⟨r0, 19, (by first | decide | rfl), 4, 5, true, 18, true, _, (by first | decide | rfl), (by decide), (by rfl), (by first | decide | rfl), (rfl), (by first | decide | rfl)⟩,
   ⟨setB SYR_PORT_UP 19 r0, 19, (by first | decide | rfl), (by first | decide | rfl)⟩,
   ⟨r0, (by first | decide | rfl), (by decide)⟩,
   ⟨setB SYR_STATUS_CLK_OK 0 ready0, (by first | decide | rfl), (by first | decide | rfl), (by first | decide | rfl), (by decide), (by first | decide | rfl)⟩⟩

/-- Every clause of `Obligations.SyrelPackets` has a state and operands that meet its hypotheses. -/
theorem test_SyrelPackets_met :
    (∃ (s s1 : State), s.power.stopped = false ∧ ∃ p k, rd PWR_STATUS_STATE 0 s < 2 ∧ headCell p s = some (.pkt k) ∧ pktBad k = true) ∧
    (∃ (s s1 : State), s.power.stopped = false ∧ ∃ p k k2 s2, rd PWR_STATUS_STATE 0 s < 2 ∧ headCell p s = some (.pkt k) ∧ pktBad k = false ∧ s1 = freeCells p k (popCell p s) ∧ s2 = (if Status.reservedCode k.status then logRec .reservedStatus [1, p, k.status] s1 else s1) ∧ k2 = { k with secure := rdb SYR_PORT_SECURE p s2, port := p, status := if Status.reservedCode k.status then 4 else k.status } ∧ k.opc < 8) ∧
    (∃ (s s1 : State), s.power.stopped = false ∧ ∃ p k k2 s2, rd PWR_STATUS_STATE 0 s < 2 ∧ headCell p s = some (.pkt k) ∧ pktBad k = false ∧ s1 = freeCells p k (popCell p s) ∧ s2 = (if Status.reservedCode k.status then logRec .reservedStatus [1, p, k.status] s1 else s1) ∧ k2 = { k with secure := rdb SYR_PORT_SECURE p s2, port := p, status := if Status.reservedCode k.status then 4 else k.status } ∧ (k.opc = 0x8 ∨ k.opc = 0x9 ∨ k.opc = 0xA)) ∧
    (∃ (s s1 : State), s.power.stopped = false ∧ ∃ (k : _) (id : _) (fn : _) (off : _) (data : List Byte) (w : _) (dl : _), fabricWindow off = some w ∧ atTarget k id s = none ∧ meshUp s = true ∧ dl = classDeadline (portClass k fn s) none s ∧ s1 = setMesh (fun m => { m with held := m.held ++ [{ port := k, id := id, tgt := 72, at16 := now16 s }] }) s ∧ off % 8 = 0 ∧ data.length = 16) ∧
    (∃ (s s1 : State), s.power.stopped = false ∧ ∃ k id fn off w dl, fabricWindow off = some w ∧ atTarget k id s = none ∧ meshUp s = true ∧ dl = classDeadline (portClass k fn s) none s ∧ s1 = setMesh (fun m => { m with held := m.held ++ [{ port := k, id := id, tgt := 72, at16 := now16 s }] }) s ∧ off % 8 ≠ 0) ∧
    (∃ (s s1 : State), s.power.stopped = false ∧ ∃ k id off w, fabricWindow off = some w ∧ atTarget k id s = none ∧ meshUp s = false) ∧
    (∃ (s s1 : State), s.power.stopped = false ∧ ∃ off, fabricWindow off = none) ∧
    (∃ (s s1 : State), s.power.stopped = false ∧ ∃ k off len, takeReqPkt 0x1 s = some (k, s1) ∧ off = pktOff k ∧ len = slice k.aux 0 10 ∧ 0 < len ∧ len ≤ 512 ∧ remoteStatus k len false s1 = .ok) ∧
    (∃ (s s1 : State), s.power.stopped = false ∧ ∃ k, takeReqPkt 0x1 s = some (k, s1) ∧ slice k.aux 0 10 = 0) ∧
    (∃ (s s1 : State), s.power.stopped = false ∧ ∃ k, takeReqPkt 0x2 s = some (k, s1) ∧ k.data ≠ [] ∧ (k.masked = true → k.data.length = 64 ∧ pktOff k % 64 = 0) ∧ remoteStatus k k.data.length true s1 = .ok) ∧
    (∃ (s s1 : State), s.power.stopped = false ∧ ∃ k, takeReqPkt 0x3 s = some (k, s1) ∧ slice k.aux 0 2 ≠ 3 ∧ pktOff k % 8 = 0 ∧ k.data.length = 16 ∧ remoteStatus k 8 true s1 = .ok) ∧
    (∃ (s s1 : State), s.power.stopped = false ∧ ∃ k r id w, takeInbox (fun k => k.opc == 0x4) s = some (k, s1) ∧ reqOf 2 72 k.tag s1 = some r ∧ r.purpose = .remote id ∧ look (retireReq r s1).syr.outbound id = some w) ∧
    (∃ (s s1 : State), s.power.stopped = false ∧ ∃ k r id w, takeInbox (fun k => k.opc == 0x5) s = some (k, s1) ∧ reqOf 2 72 k.tag s1 = some r ∧ r.purpose = .remote id ∧ look (retireReq r s1).syr.outbound id = some w) ∧
    (∃ (s s1 : State), s.power.stopped = false ∧ ∃ k t, takeInbox (fun k => k.opc == 0x5) s = some (k, s1) ∧ reqOf 2 72 k.tag s1 = none ∧ t ∈ s1.timers.tombs ∧ t.cls = 2 ∧ t.tag = k.tag) ∧
    (∃ (s s1 : State), s.power.stopped = false ∧ ∃ d, (∀ h ∈ s.syr.held, h.1 = d → now16 s < h.2.1 + us16 (rd SYR_HOLD_US 0 s))) ∧
    (∃ (s s1 : State), s.power.stopped = false ∧ ∃ (d : _) (late : List (Nat × Nat × Pkt)), late = s.syr.held.filter (fun h => h.1 == d && decide (h.2.1 + us16 (rd SYR_HOLD_US 0 s) ≤ now16 s)) ∧ late ≠ []) :=
  ⟨⟨port 19 { rx := [.pkt { pkt 1 with rsvd := true }] } r0, r0, (by first | decide | rfl), 19, { pkt 1 with rsvd := true }, (by decide), (by rfl), (by first | decide | rfl)⟩,
   ⟨port 19 { rx := [.pkt (pkt 1)] } r0, _, (by first | decide | rfl), 19, pkt 1, _, _, (by decide), (by rfl), (by first | decide | rfl), (rfl), (rfl), (rfl), (by decide)⟩,
   ⟨port 19 { rx := [.pkt { pkt 8 with vn := 3 }] } r0, _, (by first | decide | rfl), 19, { pkt 8 with vn := 3 }, _, _, (by decide), (by rfl), (by first | decide | rfl), (rfl), (rfl), (rfl), (by decide)⟩,
   ⟨r0, _, (by first | decide | rfl), 79, 5, 0, 2 ^ 43, List.replicate 16 0, 0, _, (by rfl), (by first | decide | rfl), (by first | decide | rfl), (rfl), (rfl), (by first | decide | rfl), (by first | decide | rfl)⟩,
   ⟨r0, _, (by first | decide | rfl), 79, 5, 0, 2 ^ 43 + 1, 0, _, (by rfl), (by first | decide | rfl), (by first | decide | rfl), (rfl), (rfl), (by decide)⟩,
   ⟨wr PWR_STATUS_STATE 0 2 r0, r0, (by first | decide | rfl), 79, 5, 2 ^ 43, 0, (by rfl), (by first | decide | rfl), (by first | decide | rfl)⟩,
   ⟨r0, r0, (by first | decide | rfl), 2 ^ 43 - 1, (by first | decide | rfl)⟩,
   ⟨inbox { pkt 1 with addr := 2 ^ 30 - 512, aux := 512 } (sync0), _, (by first | decide | rfl), { pkt 1 with addr := 2 ^ 30 - 512, aux := 512 }, 2 ^ 30 - 512, 512, (rfl), (by rfl), (by rfl), (by decide), (by decide), (by first | decide | rfl)⟩,
   ⟨inbox (pkt 1) (sync0), _, (by first | decide | rfl), (pkt 1), (rfl), (by first | decide | rfl)⟩,
   ⟨inbox { pkt 2 with addr := 2 ^ 30 - 1, data := [1] } (sync0), _, (by first | decide | rfl), { pkt 2 with addr := 2 ^ 30 - 1, data := [1] }, (rfl), (by decide), (by decide), (by first | decide | rfl)⟩,
   ⟨inbox { pkt 3 with addr := 2 ^ 30 - 8, aux := 2, data := List.replicate 16 0 } (sync0), _, (by first | decide | rfl), { pkt 3 with addr := 2 ^ 30 - 8, aux := 2, data := List.replicate 16 0 }, (rfl), (by decide), (by first | decide | rfl), (by first | decide | rfl), (by first | decide | rfl)⟩,
   ⟨inbox (pkt 4) (reqs [{ req0 (.remote 3) with cls := 2, port := 72 }] (setSyr (fun y => { y with outbound := [(3, { who := .desc 0 0 })] }) r0)), _, (by first | decide | rfl), (pkt 4), { req0 (.remote 3) with cls := 2, port := 72 }, 3, { who := .desc 0 0 }, (rfl), (by rfl), (by first | decide | rfl), (by rfl)⟩,
   ⟨inbox (pkt 5) (reqs [{ req0 (.remote 3) with cls := 2, port := 72 }] (setSyr (fun y => { y with outbound := [(3, { who := .desc 0 0 })] }) r0)), _, (by first | decide | rfl), (pkt 5), { req0 (.remote 3) with cls := 2, port := 72 }, 3, { who := .desc 0 0 }, (rfl), (by rfl), (by first | decide | rfl), (by rfl)⟩,
   ⟨inbox (pkt 5) (tombs [{ cls := 2, port := 72, tag := 0, till := 1 }] r0), _, (by first | decide | rfl), (pkt 5), { cls := 2, port := 72, tag := 0, till := 1 }, (rfl), (by first | decide | rfl), (by first | decide | rfl), (by first | decide | rfl), (by first | decide | rfl)⟩,
   ⟨later (us16 3000 - 1) (setSyr (fun y => { y with held := [(0, 0, pkt 1)] }) r0), r0, (by first | decide | rfl), 0, (by decide)⟩,
   ⟨later (us16 3000) (setSyr (fun y => { y with held := [(0, 0, { pkt 1 with vn := 1 })] }) r0), r0, (by first | decide | rfl), 0, _, (rfl), (by decide +kernel)⟩⟩

/-- Every clause of `Obligations.RegisterCommandFrames` has a state and operands that meet its hypotheses. -/
theorem test_RegisterCommandFrames_met :
    (∃ (c : Instr) (W : List Fld) (s t : State), registerCommandWrites c = some W ∧ c.wf = true ∧ exec c s = .next t ∧ ∃ (f : Fld) (i : _), i < 65536 ∧ (∀ w ∈ W, f.code ≠ w.code)) :=
  ⟨.arrivalWrite 1023 (2 ^ 32 - 1), [ARRIVAL_VALUE], r0, _, (by rfl), (by decide), (rfl), CAL_CTL_ENABLE, 65535, (by decide), (by decide)⟩

/-- Every clause of `Obligations.PowerEntryAndExit` has a state and operands that meet its hypotheses. -/
theorem test_PowerEntryAndExit_met :
    (∃ (s : State) (g k : Nat), s.power.stopped = false ∧ ∃ e code, s.power.entry = some e ∧ 0x11 ≤ code ∧ code ≤ 0x17) ∧
    (∃ (s : State) (g k : Nat), s.power.stopped = false ∧ ∃ code, 2 ≤ pwrState s ∧ 0x11 ≤ code ∧ code ≤ 0x17) ∧
    (∃ (s : State) (g k : Nat), s.power.stopped = false ∧ ∃ p, rdb SYR_PORT_LPI p s = true) ∧
    (∃ (s : State) (g k : Nat), s.power.stopped = false ∧ ∃ p, rdb SYR_PORT_LPI p s = false) ∧
    (∃ (s : State) (g k : Nat), s.power.stopped = false ∧ rdb PWR_CTL_H1_AUTO 0 s = true ∧ pwrState s = 0 ∧ s.power.entry = none ∧ dispatching s = true ∧ s.power.workAt + us16 (max 1 (rd PWR_CTL_H1_IDLE_US 0 s)) ≤ now16 s ∧ refuser .auto 1 s = none) ∧
    (∃ (s : State) (g k : Nat), s.power.stopped = false ∧ ∃ d, powerDesc g k 0x01 s = some d ∧ s.power.entry = none ∧ bit (d.word 2) 10 = false) ∧
    (∃ (s : State) (g k : Nat), s.power.stopped = false ∧ ∃ d, powerDesc g k 0x01 s = some d ∧ s.power.entry = none ∧ bit (d.word 2) 10 = true ∧ pos s < wrap 64 (d.word 3)) ∧
    (∃ (s : State) (g k : Nat), s.power.stopped = false ∧ ∃ d c i s1, powerDesc g k 0x01 s = some d ∧ s.power.entry = none ∧ bit (d.word 2) 10 = false ∧ refuser (.desc g k) (slice (d.word 2) 8 2) s = some (c, i, s1)) ∧
    (∃ (s : State) (g k : Nat), s.power.stopped = false ∧ ∃ d, powerDesc g k 0x02 s = some d) ∧
    (∃ (s : State) (g k : Nat), s.power.stopped = false ∧ ∃ d, runningDesc g k 0x34 s = some d ∧ s.power.waits.contains (g, k) = true ∧ wrap 64 (d.word 3) ≤ pos s) :=
  ⟨⟨pow (fun p => { p with entry := some pent }) r0, 0, 0, (by first | decide | rfl), pent, 0x17, (by rfl), (by decide), (by decide)⟩,
   ⟨wr PWR_STATUS_STATE 0 2 r0, 0, 0, (by first | decide | rfl), 0x11, (by decide), (by decide), (by decide)⟩,
   ⟨setB SYR_PORT_LPI 19 r0, 0, 0, (by first | decide | rfl), 19, (by first | decide | rfl)⟩,
   ⟨r0, 0, 0, (by first | decide | rfl), 19, (by first | decide | rfl)⟩,
   ⟨later (us16 65535) (setB PWR_CTL_H1_AUTO 0 (wr PWR_CTL_H1_IDLE_US 0 65535 ready0)), 0, 0, (by first | decide | rfl), (by first | decide | rfl), (by first | decide | rfl), (by first | decide | rfl), (by first | decide | rfl), (by decide), (by first | decide | rfl)⟩,
   ⟨running 0 0 [0x34, 0, 1] (r0), 0, 0, (by first | decide | rfl), ring0 0 0 [0x34, 0, 1], (by rfl), (by first | decide | rfl), (by first | decide | rfl)⟩,
   ⟨running 0 0 [0x34, 0, 1 + 2 ^ 10, 1] (r0), 0, 0, (by first | decide | rfl), ring0 0 0 [0x34, 0, 1 + 2 ^ 10, 1], (by rfl), (by first | decide | rfl), (by first | decide | rfl), (by decide)⟩,
   ⟨engRun (run0 .engine) (running 0 0 [0x34, 0, 1 + 2 * 2 ^ 8] r0), 0, 0, (by first | decide | rfl), ring0 0 0 [0x34, 0, 1 + 2 * 2 ^ 8], 2, 63, _, (by rfl), (by first | decide | rfl), (by first | decide | rfl), (rfl)⟩,
   ⟨running 0 0 [0x34, 0, 2] (r0), 0, 0, (by first | decide | rfl), ring0 0 0 [0x34, 0, 2], (by rfl)⟩,
   ⟨running 0 0 [0x34, 0, 1 + 2 ^ 10, 0] (pow (fun p => { p with waits := [(0, 0)] }) r0), 0, 0, (by first | decide | rfl), ring0 0 0 [0x34, 0, 1 + 2 ^ 10, 0], (by rfl), (by first | decide | rfl), (by decide)⟩⟩

/-- Every clause of `Obligations.PowerCapsVoltagesAndDips` has a state and operands that meet its hypotheses. -/
theorem test_PowerCapsVoltagesAndDips_met :
    (∃ (s : State) (g k : Nat), s.power.stopped = false ∧ ∃ d, powerDesc g k 0x03 s = some d ∧ bit (d.word 2) 48 = false ∧ capsOk (slice (d.word 2) 16 16) (slice (d.word 2) 32 16) s = true) ∧
    (∃ (s : State) (g k : Nat), s.power.stopped = false ∧ ∃ d, powerDesc g k 0x03 s = some d ∧ bit (d.word 2) 48 = false ∧ capsOk (slice (d.word 2) 16 16) (slice (d.word 2) 32 16) s = false) ∧
    (∃ (s : State) (g k : Nat), s.power.stopped = false ∧ ∃ d s1, powerDesc g k 0x04 s = some d ∧ s1 = (s |> wr PWR_GROUP_ENABLE 0 (slice (d.word 2) 8 1) |> wr PWR_GROUP_LEADER 0 (slice (d.word 2) 9 12) |> wr PWR_GROUP_MEMBERS 0 (slice (d.word 2) 21 13) |> wr PWR_GROUP_FUNCTION 0 (slice (d.word 2) 34 6) |> wr PWR_GROUP_CAP_MIN 0 (slice (d.word 3) 0 16) |> wr PWR_GROUP_SHIFT_W 0 (slice (d.word 3) 16 16))) ∧
    (∃ (s : State) (g k : Nat), s.power.stopped = false ∧ ∃ n m s1, rdb PWR_GROUP_ENABLE 0 s = true ∧ s.power.grpAt < pos s / 10000000 ∧ n = rd CAL_LATE_COUNT (rd PWR_GROUP_FUNCTION 0 s) s ∧ m = rd CAL_LATE_MAX_LATE (rd PWR_GROUP_FUNCTION 0 s) s ∧ rd PWR_GROUP_LEADER 0 s ≠ rd HUB_ID_ID 0 s ∧ s1 = setPower (fun p => { p with grpAt := pos s / 10000000, grpDone := false, grpCount := n, grpMax := m }) s) ∧
    (∃ (s : State) (g k : Nat), s.power.stopped = false ∧ ∃ n m, rdb PWR_GROUP_ENABLE 0 s = true ∧ s.power.grpAt < pos s / 10000000 ∧ n = rd CAL_LATE_COUNT (rd PWR_GROUP_FUNCTION 0 s) s ∧ m = rd CAL_LATE_MAX_LATE (rd PWR_GROUP_FUNCTION 0 s) s ∧ rd PWR_GROUP_LEADER 0 s = rd HUB_ID_ID 0 s) ∧
    (∃ (s : State) (g k : Nat), s.power.stopped = false ∧ rdb PWR_GROUP_ENABLE 0 s = false) ∧
    (∃ (s : State) (g k : Nat), s.power.stopped = false ∧ groupLeader s = true ∧ s.power.grpDone = false ∧ newCaps (rd PWR_GROUP_SHIFT_W 0 s) (rd PWR_GROUP_CAP_MIN 0 s) s.power.reports = []) ∧
    (∃ (s : State) (g k : Nat), s.power.stopped = false ∧ ∃ s1, groupLeader s = true ∧ s.power.grpDone = false ∧ s1 = setPower (fun p => { p with grpDone := true, reports := [] }) s) ∧
    (∃ (s : State) (g k : Nat), s.power.stopped = false ∧ (groupLeader s = false ∨ s.power.grpDone = true)) ∧
    (∃ (s : State) (g k : Nat), s.power.stopped = false ∧ ∃ c e, s.power.nextCap = some (c, e) ∧ rdb PWR_GROUP_ENABLE 0 s = true ∧ e < pos s / 10000000) ∧
    (∃ (s : State) (g k : Nat), s.power.stopped = false ∧ rdb SEC_STATUS_CONFIDENTIAL 0 s = true) ∧
    (∃ (s : State) (r : Nat), s.power.stopped = false ∧ ∃ a mv, s.power.avs.find? (fun a => a.rail == r) = some a ∧ mv ≤ a.mv + 10 ∧ a.mv ≤ mv + 10 ∧ a.point = none) ∧
    (∃ (s : State) (r : Nat), s.power.stopped = false ∧ ∃ a mv, s.power.avs.find? (fun a => a.rail == r) = some a ∧ a.mv + 10 < mv) ∧
    (∃ (s : State) (r : Nat), s.power.stopped = false ∧ ∃ a, s.power.avs.find? (fun a => a.rail == r) = some a ∧ a.sends < 4 ∧ a.sentAt + us16 10 ≤ now16 s) ∧
    (∃ (s : State) (r : Nat), s.power.stopped = false ∧ ∃ a, s.power.avs.find? (fun a => a.rail == r) = some a ∧ a.since + us16 100 ≤ now16 s) ∧
    (∃ (s : State) (r : Nat), s.power.stopped = false ∧ again s.power.pollAt 100 s = true) ∧
    (∃ (s : State) (r : Nat), s.power.stopped = false ∧ ∃ t, look s.power.droops t = none ∧ t < tiles s) ∧
    (∃ (s : State) (r : Nat), s.power.stopped = false ∧ ∃ t since, look s.power.droops t = some since ∧ since + 8192 / graverRate s ≤ now16 s) ∧
    (∃ (s : State) (r : Nat), s.power.stopped = false ∧ ∃ t us s1 s2, s.power.dipAt = some t ∧ t + us16 10 ≤ now16 s ∧ us = sat 32 ((now16 s - t) / 16000) ∧ s1 = (s |> clrB PWR_STATUS_STRETCH 0 |> setPower (fun p => { p with dipAt := none, dipRails := 0 }) |> bumpSat PWR_DIP_COUNT 0 1 |> wr PWR_DIP_LONGEST 0 (max (rd PWR_DIP_LONGEST 0 s) us)) ∧ s2 = (match s.power.raiseTo with | some p => setPoint p s1 | none => s1) ∧ pwrState s2 < 2) ∧
    (∃ (s : State) (r : Nat), s.power.stopped = false ∧ ∃ t us s1 s2, s.power.dipAt = some t ∧ t + us16 10 ≤ now16 s ∧ us = sat 32 ((now16 s - t) / 16000) ∧ s1 = (s |> clrB PWR_STATUS_STRETCH 0 |> setPower (fun p => { p with dipAt := none, dipRails := 0 }) |> bumpSat PWR_DIP_COUNT 0 1 |> wr PWR_DIP_LONGEST 0 (max (rd PWR_DIP_LONGEST 0 s) us)) ∧ s2 = (match s.power.raiseTo with | some p => setPoint p s1 | none => s1) ∧ 2 ≤ pwrState s2) ∧
    (∃ (s : State) (r : Nat), s.power.stopped = false ∧ ∃ a mv p s1, s.power.avs.find? (fun a => a.rail == r) = some a ∧ mv ≤ a.mv + 10 ∧ a.mv ≤ mv + 10 ∧ a.point = some p ∧ s1 = wr PWR_RAIL_SET_MV r a.mv (setPower (fun x => { x with avs := x.avs.filter (fun b => b.rail != r) }) s) ∧ rdb PWR_RAIL_FAULT r s1 = false ∧ rdb PWR_STATUS_STRETCH 0 s1 = false) ∧
    (∃ (s : State) (r : Nat), s.power.stopped = false ∧ ∃ a mv p s1, s.power.avs.find? (fun a => a.rail == r) = some a ∧ mv ≤ a.mv + 10 ∧ a.mv ≤ mv + 10 ∧ a.point = some p ∧ s1 = wr PWR_RAIL_SET_MV r a.mv (setPower (fun x => { x with avs := x.avs.filter (fun b => b.rail != r) }) s) ∧ rdb PWR_RAIL_FAULT r s1 = false ∧ rdb PWR_STATUS_STRETCH 0 s1 = true) ∧
    (∃ (s : State) (r : Nat), s.power.stopped = false ∧ again s.power.pollAt 100 s = false) :=
  ⟨⟨running 0 0 [0x34, 0, 3 + 2 ^ 16 * 3600 + 2 ^ 32 * 100] (r0), 0, 0, (by first | decide | rfl), ring0 0 0 [0x34, 0, 3 + 2 ^ 16 * 3600 + 2 ^ 32 * 100], (by rfl), (by first | decide | rfl), (by first | decide | rfl)⟩,
   ⟨running 0 0 [0x34, 0, 3 + 2 ^ 16 * 3601 + 2 ^ 32 * 100] (r0), 0, 0, (by first | decide | rfl), ring0 0 0 [0x34, 0, 3 + 2 ^ 16 * 3601 + 2 ^ 32 * 100], (by rfl), (by first | decide | rfl), (by first | decide | rfl)⟩,
   ⟨running 0 0 [0x34, 0, 4 + 256 + 2 ^ 9 * 5, 0] (r0), 0, 0, (by first | decide | rfl), ring0 0 0 [0x34, 0, 4 + 256 + 2 ^ 9 * 5, 0], _, (by rfl), (rfl)⟩,
   ⟨setB PWR_GROUP_ENABLE 0 (wr PWR_GROUP_LEADER 0 1 (setRuling (fun r => { r with pos := 10000000 }) r0)), 0, 0, (by first | decide | rfl), 0, 0, _, (by first | decide | rfl), (by decide), (by rfl), (by rfl), (by decide), (rfl)⟩,
   ⟨setB PWR_GROUP_ENABLE 0 (setRuling (fun r => { r with pos := 10000000 }) r0), 0, 0, (by first | decide | rfl), _, _, (by first | decide | rfl), (by decide), (rfl), (rfl), (by first | decide | rfl)⟩,
   ⟨r0, 0, 0, (by first | decide | rfl), (by first | decide | rfl)⟩,
   ⟨setB PWR_GROUP_ENABLE 0 (pow (fun p => { p with grpDone := false }) r0), 0, 0, (by first | decide | rfl), (by first | decide | rfl), (by first | decide | rfl), (by first | decide | rfl)⟩,
   ⟨setB PWR_GROUP_ENABLE 0 (pow (fun p => { p with grpDone := false }) r0), 0, 0, (by first | decide | rfl), _, (by first | decide | rfl), (by first | decide | rfl), (rfl)⟩,
   ⟨r0, 0, 0, (by first | decide | rfl), (by decide)⟩,
   ⟨setB PWR_GROUP_ENABLE 0 (pow (fun p => { p with nextCap := some (500, 0) }) (setRuling (fun r => { r with pos := 10000000 }) r0)), 0, 0, (by first | decide | rfl), 500, 0, (by rfl), (by first | decide | rfl), (by decide)⟩,
   ⟨conf0 r0, 0, 0, (by first | decide | rfl), (by first | decide | rfl)⟩,
   ⟨pow (fun p => { p with avs := [avs0] }) r0, 3, (by first | decide | rfl), avs0, 810, (by rfl), (by decide), (by decide), (by first | decide | rfl)⟩,
   ⟨pow (fun p => { p with avs := [avs0] }) r0, 3, (by first | decide | rfl), avs0, 811, (by rfl), (by decide)⟩,
   ⟨later (us16 10) (pow (fun p => { p with avs := [{ avs0 with sends := 3 }] }) r0), 3, (by first | decide | rfl), { avs0 with sends := 3 }, (by rfl), (by decide), (by decide)⟩,
   ⟨later (us16 100) (pow (fun p => { p with avs := [avs0] }) r0), 3, (by first | decide | rfl), avs0, (by rfl), (by decide)⟩,
   ⟨later (us16 100) (pow (fun p => { p with pollAt := some 0 }) r0), 0, (by first | decide | rfl), (by first | decide | rfl)⟩,
   ⟨r0, 0, (by first | decide | rfl), 63, (by first | decide | rfl), (by decide)⟩,
   ⟨later 1024 (pow (fun p => { p with droops := [(63, 0)] }) r0), 0, (by first | decide | rfl), 63, 0, (by rfl), (by decide)⟩,
   ⟨later (us16 10) (pow (fun p => { p with dipAt := some 0 }) r0), 0, (by first | decide | rfl), 0, 10, _, _, (by rfl), (by decide), (by rfl), (rfl), (rfl), (by decide)⟩,
   ⟨later (us16 10) (pow (fun p => { p with dipAt := some 0 }) (wr PWR_STATUS_STATE 0 2 r0)), 0, (by first | decide | rfl), 0, 10, _, _, (by rfl), (by decide), (by rfl), (rfl), (rfl), (by decide)⟩,
   ⟨pow (fun p => { p with avs := [{ avs0 with point := some 3 }] }) r0, 3, (by first | decide | rfl), { avs0 with point := some 3 }, 810, 3, _, (by rfl), (by decide), (by decide), (by rfl), (rfl), (by first | decide | rfl), (by first | decide | rfl)⟩,
   ⟨setB PWR_STATUS_STRETCH 0 (pow (fun p => { p with avs := [{ avs0 with point := some 3 }] }) r0), 3, (by first | decide | rfl), { avs0 with point := some 3 }, 790, 3, _, (by rfl), (by decide), (by decide), (by rfl), (rfl), (by first | decide | rfl), (by first | decide | rfl)⟩,
   ⟨later (us16 100 - 1) (pow (fun p => { p with pollAt := some 0 }) r0), 0, (by first | decide | rfl), (by first | decide | rfl)⟩⟩

/-- Every clause of `Obligations.PowerPeriodsAndThermal` has a state and operands that meet its hypotheses. -/
theorem test_PowerPeriodsAndThermal_met :
    (∃ (s : State), s.power.stopped = false ∧ ∃ s1 cool, again s.power.periodAt 100 s = true ∧ s1 = showPower (setPower (fun p => { p with periodAt := some (now16 s), epSum := p.epSum + pkgW s, epN := p.epN + 1 }) s) ∧ cool = (if rd PWR_THERM_HOTTEST 0 s1 + 5 < thermLimit s1 then s1.power.coolN + 1 else 0) ∧ rdb SEC_STATUS_CONFIDENTIAL 0 s1 = true) ∧
    (∃ (s : State), s.power.stopped = false ∧ ∃ s1 s2 cool, again s.power.periodAt 100 s = true ∧ s1 = showPower (setPower (fun p => { p with periodAt := some (now16 s), epSum := p.epSum + pkgW s, epN := p.epN + 1 }) s) ∧ cool = (if rd PWR_THERM_HOTTEST 0 s1 + 5 < thermLimit s1 then s1.power.coolN + 1 else 0) ∧ rdb SEC_STATUS_CONFIDENTIAL 0 s1 = false ∧ s2 = setPower (fun p => { p with coolN := cool, hot := p.hot && decide (cool < 10) }) s1 ∧ effectiveCap s2 < hubW s2) ∧
    (∃ (s : State), s.power.stopped = false ∧ again s.power.periodAt 100 s = false) ∧
    (∃ (s : State), s.power.stopped = false ∧ ∃ s1 u, rdb SEC_STATUS_CONFIDENTIAL 0 s = true ∧ s.power.epoch < pos s / 1000000 ∧ rdb PWR_STATUS_PROCHOT_IN 0 s = true ∧ rd PWR_STATUS_LEVEL 0 s ≠ 3 ∧ s1 = setPower (fun p => { p with epoch := pos s / 1000000, epSum := 0, epN := 0, epHot := false, epProchot := false }) s ∧ u = setPoint 3 (wr PWR_STATUS_LEVEL 0 3 s1) ∧ (thermalEvent 6 3 (forEach (readySites u) regrant u)).mem.retrain.find? (fun r => 8 * r.1 + r.2 == pos s / 1000000 % 1024) = none) ∧
    (∃ (s : State), s.power.stopped = false ∧ ∃ ms hub ended ws s1 given s2 sites s3, ms = (if rdb SEC_STATUS_CONFIDENTIAL 0 s then 100 else 1) ∧ s.power.energyAt + us16 (1000 * ms) ≤ now16 s ∧ hub = (if rdb SEC_STATUS_CONFIDENTIAL 0 s then hubW s / 8 * 8 * 1000000 else hubUw s) * ms / 1000 ∧ ended = ((if rdb SEC_STATUS_CONFIDENTIAL 0 s then hubW s / 8 * 8 * 1000000 else hubUw s) - Config.h1Power) * ms / 1000 ∧ workShares s = (ws, s1) ∧ given = ws.map (fun p => (p.1, ended * p.2 / max 1 (ws.map Prod.snd).sum)) ∧ s2 = addEnergy 0 (hub - (given.map Prod.snd).sum) (forEach given (fun p u => addEnergy p.1 p.2 u) s1) ∧ sites = (List.range (chipSites s2)).map (fun j => (j, (if rdb SEC_STATUS_CONFIDENTIAL 0 s then rd SITE_PWR_MEASURED j s2 / 8 * 8 else rd SITE_PWR_MEASURED j s2) * ms * 1000)) ∧ s3 = bump PKG_ENERGY_UJ 0 (hub + (sites.map Prod.snd).sum) (forEach sites (fun p u => match siteOwner p.1 u with | some n => addEnergy n p.2 u | none => u) s2)) ∧
    (∃ (s : State), s.power.stopped = false ∧ rdb SEC_STATUS_CONFIDENTIAL 0 s = false ∧ now16 s < s.power.energyAt + us16 1000) ∧
    (∃ (s s1 : State) (t : Nat), s.power.stopped = false ∧ again s.power.sampleAt 10 s = true ∧ 115 ≤ t ∧ s1 = wr PWR_THERM_HOTTEST 0 (sat 8 t) (setPower (fun p => { p with sampleAt := some (now16 s) }) s)) ∧
    (∃ (s s1 : State) (t : Nat), s.power.stopped = false ∧ again s.power.sampleAt 10 s = true ∧ t < thermLimit s ∧ rd PWR_THERM_HOTTEST 0 s < thermLimit s ∧ rdb PWR_STATUS_PROCHOT_OUT 0 s = false ∧ s1 = wr PWR_THERM_HOTTEST 0 (sat 8 t) (setPower (fun p => { p with sampleAt := some (now16 s) }) s)) ∧
    (∃ (s s1 : State) (t : Nat), s.power.stopped = false ∧ again s.power.sampleAt 10 s = false) ∧
    (∃ (s s1 : State) (t : Nat), s.power.stopped = false ∧ pinSettled s = true ∧ rdb PWR_STATUS_PROCHOT_IN 0 s = false ∧ rdb SEC_STATUS_CONFIDENTIAL 0 s = true ∧ s1 = setB PWR_STATUS_PROCHOT_IN 0 (setPower (fun p => { p with board := true, epProchot := true }) s)) ∧
    (∃ (s s1 : State) (t : Nat), s.power.stopped = false ∧ pinSettled s = true ∧ rdb PWR_STATUS_PROCHOT_IN 0 s = false ∧ rdb SEC_STATUS_CONFIDENTIAL 0 s = false ∧ s1 = forEach (readySites (setB PWR_STATUS_PROCHOT_IN 0 (setPower (fun p => { p with board := true, epProchot := true }) s))) regrant (setPoint 3 (setB PWR_STATUS_PROCHOT_IN 0 (setPower (fun p => { p with board := true, epProchot := true }) s)))) ∧
    (∃ (s s1 : State) (t : Nat), s.power.stopped = false ∧ pinSettled s = true ∧ rdb PWR_STATUS_PROCHOT_IN 0 s = true ∧ s1 = setPower (fun p => { p with board := false }) s) ∧
    (∃ (s s1 : State) (t : Nat), s.power.stopped = false ∧ (pinSettled s = false ∨ rdb PWR_STATUS_PROCHOT_IN 0 s = true)) ∧
    (∃ (s s1 : State) (t : Nat), s.power.stopped = false ∧ (pinSettled s = false ∨ rdb PWR_STATUS_PROCHOT_IN 0 s = false)) :=
  ⟨⟨conf0 r0, (by first | decide | rfl), _, _, (by first | decide | rfl), (rfl), (rfl), (by first | decide | rfl)⟩,
   ⟨wr PWR_RAIL_READ_MV 0 1000 (pow (fun p => { p with iout := [3600000, 0, 0, 0, 0, 0] }) (wr PWR_CAP_HUB_CAP 0 0 r0)), (by first | decide | rfl), _, _, _, (by first | decide | rfl), (rfl), (rfl), (by first | decide | rfl), (rfl), (by decide)⟩,
   ⟨later (us16 100 - 1) (pow (fun p => { p with periodAt := some 0 }) r0), (by first | decide | rfl), (by first | decide | rfl)⟩,
   ⟨wr PWR_STATUS_PROCHOT_IN 0 1 (conf0 (setRuling (fun r => { r with pos := 1000000 }) r0)), (by first | decide | rfl), _, _, (by first | decide | rfl), (by decide), (by first | decide | rfl), (by decide), (rfl), (rfl), (by first | decide | rfl)⟩,
   ⟨later (us16 1000) r0, (by first | decide | rfl), 1, _, _, _, _, _, _, _, _, (by rfl), (by decide), (rfl), (rfl), (rfl), (rfl), (rfl), (rfl), (rfl)⟩,
   ⟨later (us16 1000 - 1) r0, (by first | decide | rfl), (by first | decide | rfl), (by decide)⟩,
   ⟨r0, _, 115, (by first | decide | rfl), (by first | decide | rfl), (by decide), (rfl)⟩,
   ⟨r0, _, 94, (by first | decide | rfl), (by first | decide | rfl), (by decide), (by decide), (by first | decide | rfl), (rfl)⟩,
   ⟨later (us16 10 - 1) (pow (fun p => { p with sampleAt := some 0 }) r0), r0, 200, (by first | decide | rfl), (by first | decide | rfl)⟩,
   ⟨conf0 r0, _, 0, (by first | decide | rfl), (by first | decide | rfl), (by first | decide | rfl), (by first | decide | rfl), (rfl)⟩,
   ⟨r0, _, 0, (by first | decide | rfl), (by first | decide | rfl), (by first | decide | rfl), (by first | decide | rfl), (rfl)⟩,
   ⟨setB PWR_STATUS_PROCHOT_IN 0 r0, _, 0, (by first | decide | rfl), (by first | decide | rfl), (by first | decide | rfl), (rfl)⟩,
   ⟨setB PWR_STATUS_PROCHOT_OUT 0 r0, r0, 0, (by first | decide | rfl), (by decide)⟩,
   ⟨setPower (fun p => { p with letGoAt := some 0 }) r0, r0, 0, (by first | decide | rfl), (by decide)⟩⟩

/-- Every clause of `Obligations.ServiceChanges` has a state and operands that meet its hypotheses. -/
theorem test_ServiceChanges_met :
    (∃ (s : State), s.power.stopped = false ∧ ∃ g k d t, serviceDesc g k 0x01 s = some d ∧ t = slice (d.word 2) 8 6 ∧ t < tiles s ∧ s.boot.svc.any (fun w => w.g == g && w.k == k) = false) ∧
    (∃ (s : State), s.power.stopped = false ∧ ∃ g k d t, serviceDesc g k 0x02 s = some d ∧ t = slice (d.word 2) 8 6 ∧ t < tiles s ∧ s.boot.svc.any (fun w => w.g == g && w.k == k) = false) ∧
    (∃ (s : State), s.power.stopped = false ∧ ∃ g k d j, serviceDesc g k 0x03 s = some d ∧ j = slice (d.word 2) 8 5 ∧ j < memSites s ∧ s.boot.svc.any (fun w => w.g == g && w.k == k) = false) ∧
    (∃ (s : State), s.power.stopped = false ∧ ∃ g k d j, serviceDesc g k 0x04 s = some d ∧ j = slice (d.word 2) 8 5 ∧ j < memSites s ∧ s.boot.svc.any (fun w => w.g == g && w.k == k) = false) ∧
    (∃ (s : State), s.power.stopped = false ∧ ∃ g k d, serviceDesc g k 0x01 s = some d ∧ tiles s ≤ slice (d.word 2) 8 6) ∧
    (∃ (s : State), s.power.stopped = false ∧ ∃ g k d, serviceDesc g k 0x03 s = some d ∧ memSites s ≤ slice (d.word 2) 8 5) ∧
    (∃ (s : State), s.power.stopped = false ∧ ∃ g k d j c, serviceDesc g k 0x05 s = some d ∧ j = slice (d.word 2) 8 5 ∧ c = slice (d.word 2) 16 3 ∧ j < memSites s ∧ chanFailed j c s = false ∧ s.boot.retrains.any (fun w => w.g == g && w.k == k) = false) ∧
    (∃ (s : State), s.power.stopped = false ∧ ∃ g k d j c, serviceDesc g k 0x05 s = some d ∧ j = slice (d.word 2) 8 5 ∧ c = slice (d.word 2) 16 3 ∧ j < memSites s ∧ chanFailed j c s = true) ∧
    (∃ (s : State), s.power.stopped = false ∧ ∃ g k d p, serviceDesc g k 0x06 s = some d ∧ p = slice (d.word 2) 8 5 ∧ syrPortOk p s = true ∧ rdb SYR_PORT_UP p s = true ∧ s.boot.retrains.any (fun w => w.g == g && w.k == k) = false) ∧
    (∃ (s : State), s.power.stopped = false ∧ ∃ v rest r, s.boot.svc = v :: rest ∧ v.sub = 1 ∧ v.phase = 1 ∧ v.since + stretched 1000 s ≤ now16 s ∧ (grv v.idx s).run = some r ∧ r.work.kind ≠ 2) ∧
    (∃ (s : State), s.power.stopped = false ∧ ∃ v rest r, s.boot.svc = v :: rest ∧ v.sub = 1 ∧ v.phase = 1 ∧ v.since + stretched 1000 s ≤ now16 s ∧ (grv v.idx s).run = some r ∧ r.work.kind = 2) ∧
    (∃ (s : State), s.power.stopped = false ∧ s.boot.svc = []) ∧
    (∃ (s : State), s.power.stopped = false ∧ ∃ s1 s2 s3, s.boot.bring = none ∧ tilesHeld s = false ∧ s1 = abortTileChange (bumpSat HUB_BOOT_PARTIALS 0 1 (setBoot (fun x => { x with partialAt := some (now16 s) }) s)) ∧ s2 = forEach (List.range (tiles s1)) (fun t u => match (grv t u).run with | some r => if r.work.kind = 2 then u else abortRun t u | none => u) s1 ∧ s3 = abortCopies (abortBatches (fun _ => true) s2)) ∧
    (∃ (s : State), s.power.stopped = false ∧ (s.boot.bring.isSome = true ∨ tilesHeld s = true)) :=
  ⟨⟨running 0 0 [0x33, 0, 1 + 63 * 2 ^ 8] (r0), (by first | decide | rfl), 0, 0, ring0 0 0 [0x33, 0, 1 + 63 * 2 ^ 8], 63, (by rfl), (by rfl), (by decide), (by first | decide | rfl)⟩,
   ⟨running 0 0 [0x33, 0, 2 + 63 * 2 ^ 8] (r0), (by first | decide | rfl), 0, 0, ring0 0 0 [0x33, 0, 2 + 63 * 2 ^ 8], 63, (by rfl), (by rfl), (by decide), (by first | decide | rfl)⟩,
   ⟨running 0 0 [0x33, 0, 3 + 19 * 2 ^ 8] (r0), (by first | decide | rfl), 0, 0, ring0 0 0 [0x33, 0, 3 + 19 * 2 ^ 8], 19, (by rfl), (by rfl), (by decide), (by first | decide | rfl)⟩,
   ⟨running 0 0 [0x33, 0, 4 + 19 * 2 ^ 8] (r0), (by first | decide | rfl), 0, 0, ring0 0 0 [0x33, 0, 4 + 19 * 2 ^ 8], 19, (by rfl), (by rfl), (by decide), (by first | decide | rfl)⟩,
   ⟨running 0 0 [0x33, 0, 1 + 48 * 2 ^ 8] ({ r0 with fuses := { r0.fuses with variant := 3 } }), (by first | decide | rfl), 0, 0, ring0 0 0 [0x33, 0, 1 + 48 * 2 ^ 8], (by rfl), (by decide)⟩,
   ⟨running 0 0 [0x33, 0, 3 + 20 * 2 ^ 8] (r0), (by first | decide | rfl), 0, 0, ring0 0 0 [0x33, 0, 3 + 20 * 2 ^ 8], (by rfl), (by decide)⟩,
   ⟨running 0 0 [0x33, 0, 5 + 7 * 2 ^ 16] (mem1 0 r0), (by first | decide | rfl), 0, 0, ring0 0 0 [0x33, 0, 5 + 7 * 2 ^ 16], 0, 7, (by rfl), (by rfl), (by rfl), (by decide), (by first | decide | rfl), (by first | decide | rfl)⟩,
   ⟨running 0 0 [0x33, 0, 5 + 7 * 2 ^ 16 + 19 * 2 ^ 8] (r0), (by first | decide | rfl), 0, 0, ring0 0 0 [0x33, 0, 5 + 7 * 2 ^ 16 + 19 * 2 ^ 8], 19, 7, (by rfl), (by rfl), (by rfl), (by decide), (by first | decide | rfl)⟩,
   ⟨running 0 0 [0x33, 0, 6 + 19 * 2 ^ 8] (setB SYR_PORT_UP 19 r0), (by first | decide | rfl), 0, 0, ring0 0 0 [0x33, 0, 6 + 19 * 2 ^ 8], 19, (by rfl), (by rfl), (by first | decide | rfl), (by first | decide | rfl), (by first | decide | rfl)⟩,
   ⟨later (us16 1000) (boot (fun x => { x with svc := [svc0 1 63] }) (engRun (run0 .engine) r0)), (by first | decide | rfl), svc0 1 63, [], run0 .engine, (by rfl), (by first | decide | rfl), (by first | decide | rfl), (by decide), (by rfl), (by decide)⟩,
   ⟨later (us16 1000) (boot (fun x => { x with svc := [svc0 1 63] }) (engRun { run0 .engine with work := work0 2 } r0)), (by first | decide | rfl), svc0 1 63, [], { run0 .engine with work := work0 2 }, (by rfl), (by first | decide | rfl), (by first | decide | rfl), (by decide), (by rfl), (by first | decide | rfl)⟩,
   ⟨r0, (by first | decide | rfl), (by first | decide | rfl)⟩,
   ⟨boot (fun x => { x with bring := none }) r0, (by first | decide | rfl), _, _, _, (by first | decide | rfl), (by first | decide | rfl), (rfl), (rfl), (rfl)⟩,
   ⟨r0, (by first | decide | rfl), (.inl rfl)⟩⟩

/-- Every clause of `Obligations.MailboxTurnsAway` has a state and operands that meet its hypotheses. -/
theorem test_MailboxTurnsAway_met :
    (∃ (s : State) (c : Instr) (op : Nat) (l : List Nat), s.power.stopped = false ∧ (c, op, l) ∈ mbxCommands ∧ rdb MBX_STATUS_BUSY 0 s = true) ∧
    (∃ (s : State) (c : Instr) (op : Nat) (l : List Nat), s.power.stopped = false ∧ (c, op, l) ∈ mbxCommands ∧ rdb MBX_STATUS_BUSY 0 s = false ∧ rdb SEC_STATUS_FIPS_ERROR 0 s = true ∧ op ≠ 0x08) ∧
    (∃ (s : State) (c : Instr) (op : Nat) (l : List Nat), s.power.stopped = false ∧ (c, op, l) ∈ mbxCommands ∧ rdb MBX_STATUS_BUSY 0 s = false ∧ lifeState s ∉ l) :=
  ⟨⟨setB MBX_STATUS_BUSY 0 r0, .imageLoad, 0x12, [0, 1, 2, 3], (by first | decide | rfl), (by first | decide | rfl), (by first | decide | rfl)⟩,
   ⟨setB SEC_STATUS_FIPS_ERROR 0 r0, .imageLoad, 0x12, [0, 1, 2, 3], (by first | decide | rfl), (by first | decide | rfl), (by first | decide | rfl), (by first | decide | rfl), (by decide)⟩,
   ⟨scrap0, .debugRevoke none, 0x0D, [0, 1, 2, 3], (by first | decide | rfl), (by first | decide | rfl), (by first | decide | rfl), (by first | decide | rfl)⟩⟩

/-- Every clause of `Obligations.ExtentAndPartitionCommands` has a state and operands that meet its hypotheses. -/
theorem test_ExtentAndPartitionCommands_met :
    (∃ (s s1 : State), mbxOpen [0, 1, 2, 3] s ∧ s1 = mbxTaken 0x01 s ∧ rangeBad s1 = false ∧ (argExts s1).all (fun e => extKind e s1 == 0) = true ∧ bit (mbxArg 1 s1) 6 = false) ∧
    (∃ (s s1 : State), mbxOpen [0, 1, 2, 3] s ∧ s1 = mbxTaken 0x01 s ∧ rangeBad s1 = false ∧ (argExts s1).all (fun e => extKind e s1 == 0) = false) ∧
    (∃ (s s1 : State), mbxOpen [0, 1, 2, 3] s ∧ ∃ n, s1 = mbxTaken 0x02 s ∧ rangeBad s1 = false ∧ n = rd EXT_FUNCTION ((argExts s1).headD 0) s1 ∧ (argExts s1).all (fun e => extOwned n e s1) = true ∧ rd FUNC_CFG_TDI n s1 = 0 ∧ ((usedExts s1).filter (fun e => extOwned n e s1)).all (argExts s1).contains = false) ∧
    (∃ (s s1 : State), mbxOpen [0, 1, 2, 3] s ∧ ∃ p gs, s1 = mbxTaken 0x03 s ∧ p = slice (mbxArg 0 s1) 0 4 ∧ gs = (List.range 16).filter (fun g => bit (mbxArg 0 s1) (16 + g)) ∧ gs ≠ [] ∧ gs.any (fun g => decide (tiles s1 / 4 ≤ g)) = false ∧ rdb PART_CFG_VALID p s1 = false ∧ gs.any (fun g => rdb TGRP_VALID g s1) = false) ∧
    (∃ (s s1 : State), mbxOpen [0, 1, 2, 3] s ∧ s1 = mbxTaken 0x04 s ∧ rdb PART_CFG_VALID (slice (mbxArg 0 s1) 0 4) s1 = false) ∧
    (∃ (s s1 : State), mbxOpen [0, 1, 2, 3] s ∧ ∃ p, s1 = mbxTaken 0x04 s ∧ p = slice (mbxArg 0 s1) 0 4 ∧ rdb PART_CFG_VALID p s1 = true) ∧
    (∃ (s s1 : State), mbxOpen [0, 1, 2, 3] s ∧ ∃ n p, s1 = mbxTaken 0x05 s ∧ n = slice (mbxArg 0 s1) 0 6 ∧ p = slice (mbxArg 0 s1) 6 4 ∧ bit (mbxArg 0 s1) 10 = true ∧ rdb PART_CFG_VALID p s1 = true) ∧
    (∃ (s s1 : State), mbxOpen [0, 1, 2, 3] s ∧ ∃ n p, s1 = mbxTaken 0x05 s ∧ n = slice (mbxArg 0 s1) 0 6 ∧ p = slice (mbxArg 0 s1) 6 4 ∧ bit (mbxArg 0 s1) 10 = false ∧ partOf n s1 = some p) :=
  ⟨⟨mbx (2559 + 2 ^ 12) r0, _, (⟨rfl, rfl, rfl, by decide⟩), (rfl), (by first | decide | rfl), (by first | decide | rfl), (by first | decide | rfl)⟩,
   ⟨mbx (2 ^ 12) own1, _, (⟨rfl, rfl, rfl, by decide⟩), (rfl), (by first | decide | rfl), (by first | decide | rfl)⟩,
   ⟨mbx (2 ^ 12) (wr EXT_KIND 1 1 own1), _, (⟨rfl, rfl, rfl, by decide⟩), 0, (rfl), (by first | decide | rfl), (by rfl), (by first | decide | rfl), (by first | decide | rfl), (by first | decide | rfl)⟩,
   ⟨mbx (15 + 2 ^ 31) r0, _, (⟨rfl, rfl, rfl, by decide⟩), 15, [15], (rfl), (by rfl), (by rfl), (by decide), (by decide), (by first | decide | rfl), (by first | decide | rfl)⟩,
   ⟨mbx 15 r0, _, (⟨rfl, rfl, rfl, by decide⟩), (rfl), (by first | decide | rfl)⟩,
   ⟨mbx 15 (setB PART_CFG_VALID 15 r0), _, (⟨rfl, rfl, rfl, by decide⟩), 15, (rfl), (by rfl), (by first | decide | rfl)⟩,
   ⟨mbx (63 + 2 ^ 6 * 15 + 2 ^ 10) (setB PART_CFG_VALID 15 r0), _, (⟨rfl, rfl, rfl, by decide⟩), 63, 15, (rfl), (by rfl), (by rfl), (by first | decide | rfl), (by first | decide | rfl)⟩,
   ⟨mbx (63 + 2 ^ 6 * 15) (wr FUNC_CFG_PARTITION 63 15 (setB FUNC_CFG_BOUND 63 r0)), _, (⟨rfl, rfl, rfl, by decide⟩), 63, 15, (rfl), (by rfl), (by rfl), (by first | decide | rfl), (by rfl)⟩⟩

/-- Every clause of `Obligations.ConfidentialModeAndKeys` has a state and operands that meet its hypotheses. -/
theorem test_ConfidentialModeAndKeys_met :
    (∃ (s s1 : State), mbxOpen [0, 1, 2, 3] s ∧ s1 = mbxTaken 0x06 s ∧ confFails s1 = none) ∧
    (∃ (s s1 : State), mbxOpen [0, 1, 2, 3] s ∧ ∃ k, s1 = mbxTaken 0x06 s ∧ confFails s1 = some k) ∧
    (∃ (s s1 : State), mbxOpen [0, 1, 2, 3] s ∧ ∃ t, s.sec.confAt = some t ∧ t + us16 20000 ≤ now16 s) ∧
    (∃ (s s1 : State), mbxOpen [0, 1, 2, 3] s ∧ ∃ p s2, s1 = mbxTaken 0x07 s ∧ p = slice (mbxArg 0 s1) 0 5 ∧ p < 20 ∧ rdb SYR_PORT_UP p s1 = true ∧ rdb SYR_PORT_SECURE p s1 = true ∧ s2 = newKey (64 + p) (setPort p (fun x => { x with epoch := wrap 32 (x.epoch + 1), cwCount := 0 }) s1)) ∧
    (∃ (s s1 : State), mbxOpen [0, 1, 2, 3] s ∧ ∃ p, p < 20 ∧ rdb SYR_PORT_UP p s = true ∧ rdb SYR_PORT_SECURE p s = true ∧ 2 ^ 39 ≤ (syrPort p s).cwCount) ∧
    (∃ (s s1 : State), mbxOpen [0, 1, 2, 3] s ∧ s1 = mbxTaken 0x08 s) ∧
    (∃ (s s1 : State), mbxOpen [0, 1, 2, 3] s ∧ ∃ b rest, s.sec.burns = b :: rest ∧ (b.slot.isSome = true ∨ (List.range 4096).any (fun i => rdb SLICE_STEER_MOVING i s) = false) ∧ s.coh.trans.any (fun p => inExts b.exts (64 * p.1)) = false ∧ heldLines b.exts s = []) ∧
    (∃ (s s1 : State), mbxOpen [0, 1, 2, 3] s ∧ ∃ st, s1 = mbxTaken 0x0E s ∧ lifeState s = 0 ∧ tokenStatus 2 s1 = st) :=
  ⟨⟨setB HUB_GLOBAL_SETUP_LOCK 0 (setB REG_CTL_STATIC 0 (setB TRN_CTL_SHARED_PART 0 r0)), _, (⟨rfl, rfl, rfl, by decide⟩), (rfl), (by first | decide | rfl)⟩,
   ⟨r0, _, (⟨rfl, rfl, rfl, by decide⟩), 1, (rfl), (by rfl)⟩,
   ⟨later (us16 20000) (sec (fun x => { x with confAt := some 0 }) r0), r0, (⟨rfl, rfl, rfl, by decide⟩), 0, (by rfl), (by decide)⟩,
   ⟨mbx 19 (setB SYR_PORT_UP 19 (setB SYR_PORT_SECURE 19 r0)), _, (⟨rfl, rfl, rfl, by decide⟩), 19, _, (rfl), (by rfl), (by decide), (by first | decide | rfl), (by first | decide | rfl), (rfl)⟩,
   ⟨setB SYR_PORT_UP 19 (setB SYR_PORT_SECURE 19 (setPort 19 (fun x => { x with cwCount := 2 ^ 39 }) r0)), r0, (⟨rfl, rfl, rfl, by decide⟩), 19, (by decide), (by first | decide | rfl), (by first | decide | rfl), (by decide)⟩,
   ⟨r0, _, (⟨rfl, rfl, rfl, by decide⟩), (rfl)⟩,
   ⟨sec (fun x => { x with burns := [burn0] }) r0, r0, (⟨rfl, rfl, rfl, by decide⟩), burn0, [], (by rfl), (.inl rfl), (by first | decide | rfl), (by first | decide | rfl)⟩,
   ⟨setLife (fun l => { l with state := 0 }) r0, _, (⟨rfl, rfl, rfl, by decide⟩), _, (rfl), (by first | decide | rfl), (rfl)⟩⟩

/-- Every clause of `Obligations.AttestationProtocol` has a state and operands that meet its hypotheses. -/
theorem test_AttestationProtocol_met :
    (∃ (s : State) (sid n : Nat), s.power.stopped = false ∧ noCrypto s = true) ∧
    (∃ (s : State) (sid n : Nat), s.power.stopped = false ∧ noCrypto s = false ∧ ∃ k, canSign k s = true) ∧
    (∃ (s : State) (sid n : Nat), s.power.stopped = false ∧ noCrypto s = false ∧ ∃ i, canSign 0 s = true ∧ 1 ≤ i ∧ i ≤ 13) ∧
    (∃ (s : State) (sid n : Nat), s.power.stopped = false ∧ noCrypto s = false ∧ s.sec.sessions.contains sid = true ∧ n < 64) ∧
    (∃ (s : State) (sid n : Nat), s.power.stopped = false ∧ noCrypto s = false ∧ ∃ v, s.sec.sessions.contains sid = true ∧ 0 < n ∧ n < 64 ∧ rd FUNC_CFG_TDI n s = 1 ∧ look s.sec.tdiNonce n = some v) ∧
    (∃ (s : State) (sid n : Nat), s.power.stopped = false ∧ noCrypto s = false ∧ s.sec.sessions.contains sid = true ∧ lockOk n s = true) ∧
    (∃ (s : State) (sid n : Nat), s.power.stopped = false ∧ noCrypto s = false ∧ s.sec.sessions.contains sid = true ∧ lockOk n s = false) ∧
    (∃ (s : State) (sid n : Nat), s.power.stopped = false ∧ noCrypto s = false ∧ s.sec.sessions.contains sid = true ∧ 0 < n ∧ n < 64 ∧ rd FUNC_CFG_TDI n s = 0) ∧
    (∃ (s : State) (sid n : Nat), s.power.stopped = false ∧ noCrypto s = false ∧ s.sec.sessions.contains sid = true ∧ 0 < n ∧ n < 64 ∧ rd FUNC_CFG_TDI n s ≠ 0) ∧
    (∃ (s : State) (sid n : Nat), s.power.stopped = false ∧ noCrypto s = false ∧ s.sec.sessions.contains sid = false) :=
  ⟨⟨setB SEC_STATUS_FIPS_ERROR 0 r0, 7, 0, (by first | decide | rfl), (by first | decide | rfl)⟩,
   ⟨sec (fun x => { x with aliasKey := some 9 }) r0, 7, 0, (by first | decide | rfl), (by first | decide | rfl), 0, (by first | decide | rfl)⟩,
   ⟨sec (fun x => { x with aliasKey := some 9 }) r0, 7, 0, (by first | decide | rfl), (by first | decide | rfl), 13, (by first | decide | rfl), (by decide), (by decide)⟩,
   ⟨sec (fun x => { x with sessions := [7] }) r0, 7, 63, (by first | decide | rfl), (by first | decide | rfl), (by first | decide | rfl), (by decide)⟩,
   ⟨sec (fun x => { x with sessions := [7], tdiNonce := [(63, 5)] }) (wr FUNC_CFG_TDI 63 1 r0), 7, 63, (by first | decide | rfl), (by first | decide | rfl), 5, (by first | decide | rfl), (by decide), (by decide), (by first | decide | rfl), (by rfl)⟩,
   ⟨sec (fun x => { x with sessions := [7] }) (conf0 (setB PART_CFG_VALID 0 (wr PART_CFG_OWNER 0 63 (setB FUNC_CFG_BOUND 63 r0)))), 7, 63, (by first | decide | rfl), (by first | decide | rfl), (by first | decide | rfl), (by first | decide | rfl)⟩,
   ⟨sec (fun x => { x with sessions := [7] }) r0, 7, 63, (by first | decide | rfl), (by first | decide | rfl), (by first | decide | rfl), (by first | decide | rfl)⟩,
   ⟨sec (fun x => { x with sessions := [7] }) r0, 7, 63, (by first | decide | rfl), (by first | decide | rfl), (by first | decide | rfl), (by decide), (by decide), (by first | decide | rfl)⟩,
   ⟨sec (fun x => { x with sessions := [7] }) (wr FUNC_CFG_TDI 63 3 r0), 7, 63, (by first | decide | rfl), (by first | decide | rfl), (by first | decide | rfl), (by decide), (by decide), (by decide)⟩,
   ⟨r0, 7, 0, (by first | decide | rfl), (by first | decide | rfl), (by first | decide | rfl)⟩⟩

/-- Every clause of `Obligations.LifeCycleCommands` has a state and operands that meet its hypotheses. -/
theorem test_LifeCycleCommands_met :
    (∃ (s s1 : State), mbxOpen [1, 2] s ∧ ∃ off len, s1 = mbxTaken 0x09 s ∧ off = slice (cmdWord none 0 s1) 0 14 ∧ len = slice (cmdWord none 0 s1) 14 12 ∧ 0 < len ∧ len ≤ 4092 ∧ off + len ≤ 9510) ∧
    (∃ (s s1 : State), mbxOpen [1, 2] s ∧ ∃ st t, s1 = mbxTaken 0x0A s ∧ tokenStatus 0 s1 = st ∧ t = tokenField 6 1 s1 ∧ t ≠ 1 ∧ t ≠ 3) ∧
    (∃ (s s1 : State), mbxOpen [1, 2] s ∧ ∃ ws, s1 = mbxTaken 0x0B s ∧ ws = (List.range 8).map (fun i => wrap 32 (Config.freeValue (s1.freeCtr + i)).toNat)) ∧
    (∃ (s s1 : State), mbxOpen [1, 2] s ∧ ∃ st, s1 = mbxTaken 0x0C s ∧ (rdb SEC_STATUS_CONFIDENTIAL 0 s1 || rdb SEC_STATUS_CONF_PENDING 0 s1) = false ∧ tokenStatus 1 s1 = st ∧ tokenField 6 1 s1 = 1) ∧
    (∃ (s s1 : State), mbxOpen [1, 2] s ∧ s1 = mbxTaken 0x0D s) :=
  ⟨⟨mbx (9509 + 2 ^ 14) r0, _, (⟨rfl, rfl, rfl, by decide⟩), 9509, 1, (rfl), (by rfl), (by rfl), (by decide), (by decide), (by decide)⟩,
   ⟨r0, _, (⟨rfl, rfl, rfl, by decide⟩), _, _, (rfl), (rfl), (rfl), (by decide), (by decide)⟩,
   ⟨r0, _, (⟨rfl, rfl, rfl, by decide⟩), _, (rfl), (rfl)⟩,
   ⟨sec (fun x => { x with token := [(0, 0), (1, 0), (2, 0), (3, 0), (4, 0), (5, 0), (6, 1)] }) r0, _, (⟨rfl, rfl, rfl, by decide⟩), _, (rfl), (by first | decide | rfl), (rfl), (by first | decide | rfl)⟩,
   ⟨r0, _, (⟨rfl, rfl, rfl, by decide⟩), (rfl)⟩⟩

/-- Every clause of `Obligations.BoardControllerCommands` has a state and operands that meet its hypotheses. -/
theorem test_BoardControllerCommands_met :
    (∃ (s : State) (ws : List Nat) (c : Instr) (op : Nat) (l : List Nat), s.power.stopped = false ∧ (c, op, l) ∈ bmcCommands ws s ∧ s.sec.bmcBusy = true) ∧
    (∃ (s : State) (ws : List Nat) (c : Instr) (op : Nat) (l : List Nat), s.power.stopped = false ∧ (c, op, l) ∈ bmcCommands ws s ∧ s.sec.bmcBusy = false ∧ rdb SEC_STATUS_FIPS_ERROR 0 s = true) ∧
    (∃ (s : State) (ws : List Nat) (c : Instr) (op : Nat) (l : List Nat), s.power.stopped = false ∧ (c, op, l) ∈ bmcCommands ws s ∧ s.sec.bmcBusy = false ∧ lifeState s ∉ l) ∧
    (∃ (s : State) (ws : List Nat) (c : Instr) (op : Nat) (l : List Nat), s.power.stopped = false ∧ ∃ off len t, s.sec.bmcBusy = false ∧ rdb SEC_STATUS_FIPS_ERROR 0 s = false ∧ lifeState s ≠ 4 ∧ lifeState s < 6 ∧ off = slice (nth 0 ws 0 % 2 ^ 32) 0 14 ∧ len = slice (nth 0 ws 0 % 2 ^ 32) 14 12 ∧ 0 < len ∧ len ≤ 4092 ∧ off + len ≤ 9510 ∧ t = setSec (fun x => { x with token := (cmdBytes (some ws) 1 len (bmcTaken s)).zipIdx.foldl (fun m p => put (off + p.2) p.1 m) x.token }) (bmcTaken s)) ∧
    (∃ (s : State) (ws : List Nat) (c : Instr) (op : Nat) (l : List Nat), s.power.stopped = false ∧ ∃ rs, s.sec.bmcBusy = false ∧ rdb SEC_STATUS_FIPS_ERROR 0 s = false ∧ (lifeState s = 1 ∨ lifeState s = 2) ∧ rs = (List.range 8).map (fun i => wrap 32 (Config.freeValue (s.freeCtr + i)).toNat)) ∧
    (∃ (s : State) (ws : List Nat) (c : Instr) (op : Nat) (l : List Nat), s.power.stopped = false ∧ ∃ st t, s.sec.bmcBusy = false ∧ rdb SEC_STATUS_FIPS_ERROR 0 s = false ∧ lifeState s < 4 ∧ tokenStatus 0 (bmcTaken s) = st ∧ t = tokenField 6 1 (bmcTaken s) ∧ t ≠ 1 ∧ t ≠ 3) ∧
    (∃ (s : State) (ws : List Nat) (c : Instr) (op : Nat) (l : List Nat), s.power.stopped = false ∧ s.sec.bmcBusy = false ∧ rdb SEC_STATUS_FIPS_ERROR 0 s = false ∧ lifeState s < 4) :=
  ⟨⟨sec (fun x => { x with bmcBusy := true }) r0, [0], .debugRevoke (some [0]), 0x0D, [0, 1, 2, 3], (by first | decide | rfl), (by simp [bmcCommands]), (by first | decide | rfl)⟩,
   ⟨setB SEC_STATUS_FIPS_ERROR 0 r0, [0], .debugRevoke (some [0]), 0x0D, [0, 1, 2, 3], (by first | decide | rfl), (by simp [bmcCommands]), (by first | decide | rfl), (by first | decide | rfl)⟩,
   ⟨scrap0, [0], .debugRevoke (some [0]), 0x0D, [0, 1, 2, 3], (by first | decide | rfl), (by simp [bmcCommands]), (by first | decide | rfl), (by first | decide | rfl)⟩,
   ⟨r0, [9509 + 2 ^ 14], .debugRevoke (some [0]), 0x0D, [], (by first | decide | rfl), 9509, 1, _, (by first | decide | rfl), (by first | decide | rfl), (by decide), (by decide), (by rfl), (by rfl), (by decide), (by decide), (by decide), (rfl)⟩,
   ⟨r0, [0], .debugRevoke (some [0]), 0x0D, [], (by first | decide | rfl), _, (by first | decide | rfl), (by first | decide | rfl), (.inl rfl), (rfl)⟩,
   ⟨r0, [0], .debugRevoke (some [0]), 0x0D, [], (by first | decide | rfl), _, _, (by first | decide | rfl), (by first | decide | rfl), (by decide), (rfl), (rfl), (by decide), (by decide)⟩,
   ⟨r0, [0], .debugRevoke (some [0]), 0x0D, [], (by first | decide | rfl), (by first | decide | rfl), (by first | decide | rfl), (by decide)⟩⟩

/-- Every clause of `Obligations.ConfigurationAndFirmware` has a state and operands that meet its hypotheses. -/
theorem test_ConfigurationAndFirmware_met :
    (∃ (s s1 : State) (w off len : Nat), mbxOpen [0, 1, 2, 3] s ∧ off = slice w 0 18 ∧ len = slice w 18 12 ∧ 0 < len ∧ len ≤ 4092 ∧ off + len ≤ 262080 ∧ ∃ b data, s1 = mbxTaken 0x10 s ∧ w = cmdWord none 0 s1 ∧ w < 2 ^ 30 ∧ bankUsed s1 = some b ∧ data = ((b.body.take b.len).drop off).take len) ∧
    (∃ (s s1 : State) (w off len : Nat), mbxOpen [0, 1, 2, 3] s ∧ off = slice w 0 18 ∧ len = slice w 18 12 ∧ 0 < len ∧ len ≤ 4092 ∧ off + len ≤ 262080 ∧ ∃ s2, s1 = mbxTaken 0x11 s ∧ w = cmdWord none 0 s1 ∧ w < 2 ^ 30 ∧ rdb SEC_STATUS_CONFIDENTIAL 0 s1 = false ∧ (pwrState s1 == 3 || s1.power.entry.any (fun e => e.target == 3)) = false ∧ s2 = setBoot (fun x => { x with cfgBuf := (cmdBytes none 1 len s1).zipIdx.foldl (fun m p => put (off + p.2) p.1 m) x.cfgBuf }) s1) ∧
    (∃ (s s1 : State) (w off len : Nat), mbxOpen [0, 1, 2, 3] s ∧ off = slice w 0 18 ∧ len = slice w 18 12 ∧ 0 < len ∧ len ≤ 4092 ∧ off + len ≤ 262080 ∧ ∃ t n s2, s1 = mbxTaken 0x12 s ∧ cmdWord none 0 s1 < 2 ^ 27 ∧ cmdWord none 1 s1 < 2 ^ 14 ∧ n = slice (cmdWord none 1 s1) 0 12 ∧ 0 < n ∧ n ≤ 4088 ∧ t = slice (cmdWord none 1 s1) 12 2 ∧ 0 < t ∧ s2 = setBoot (fun x => { x with imgFor := t, imgBuf := (cmdBytes none 2 n s1).zipIdx.foldl (fun m p => put (cmdWord none 0 s1 + p.2) p.1 m) (if x.imgFor = t then x.imgBuf else []) }) s1) ∧
    (∃ (s s1 : State) (w off len : Nat), mbxOpen [0, 1, 2, 3] s ∧ off = slice w 0 18 ∧ len = slice w 18 12 ∧ 0 < len ∧ len ≤ 4092 ∧ off + len ≤ 262080 ∧ s.sec.rtpAt = none) ∧
    (∃ (s s1 : State) (w off len : Nat), mbxOpen [0, 1, 2, 3] s ∧ off = slice w 0 18 ∧ len = slice w 18 12 ∧ 0 < len ∧ len ≤ 4092 ∧ off + len ≤ 262080 ∧ s.sec.rtpAt.isSome = true) ∧
    (∃ (s s1 : State) (g k t : Nat) (d : Desc), s.power.stopped = false ∧ ∃ l b st, serviceDesc g k 0x07 s = some d ∧ rdb PWR_STATUS_STRETCH 0 s = false ∧ claimed (d.word 3) (d.word 4) false s = true ∧ homeGet (.agent 0) (d.word 3) (d.word 4) s = (.ok, l, s1) ∧ b = { man := l.take (manBytes l), img := l.drop (manBytes l) } ∧ b.img.length = manLength b.man ∧ stageStatus b s1 = st) ∧
    (∃ (s s1 : State) (g k t : Nat) (d : Desc), s.power.stopped = false ∧ serviceDesc g k 0x08 s = some d ∧ t = slice (d.word 2) 8 2 ∧ t ≠ 0 ∧ rd FW_STAGE_STATE (t - 1) s = 2 ∧ rdb MC_GROUP_VALID (slice (d.word 2) 16 8) s = true ∧ s1 = setBoot (fun y => { y with nextTransfer := wrap 16 (s.boot.nextTransfer + 1), sent := y.sent ++ [{ target := t, transfer := s.boot.nextTransfer }] }) s) ∧
    (∃ (s s1 : State) (g k t : Nat) (d : Desc), s.power.stopped = false ∧ ∃ x, serviceDesc g k 0x09 s = some d ∧ t = slice (d.word 2) 8 2 ∧ t ≠ 0 ∧ s.boot.sent.find? (fun x => x.target == t && x.transfer == d.word 3) = some x) ∧
    (∃ (s s1 : State) (g k t : Nat) (d : Desc), s.power.stopped = false ∧ serviceDesc g k 0x09 s = some d ∧ t = slice (d.word 2) 8 2 ∧ t ≠ 0 ∧ s.boot.sent.find? (fun x => x.target == t && x.transfer == d.word 3) = none) ∧
    (∃ (s s1 : State) (g k t : Nat) (d : Desc), s.power.stopped = false ∧ serviceDesc g k 0x07 s = some d ∧ rdb PWR_STATUS_STRETCH 0 s = false ∧ claimed (d.word 3) (d.word 4) false s = false) ∧
    (∃ (s s1 : State) (g k t : Nat) (d : Desc), s.power.stopped = false ∧ ∃ x, look s.boot.xfers t = some x ∧ x.lastAt + us16 5000 ≤ now16 s ∧ 9 ≤ x.tries) ∧
    (∃ (s s1 : State) (g k t : Nat) (d : Desc), s.power.stopped = false ∧ ∃ x m, look s.boot.xfers t = some x ∧ x.lastAt + us16 5000 ≤ now16 s ∧ x.tries < 9 ∧ gotManifest { x with lastAt := now16 s, tries := x.tries + 1 } = some m ∧ gotManifest x = some m) :=
  ⟨⟨mbx (262079 + 2 ^ 18) (boot (fun x => { x with cfgUse := some 0 }) r0), _, 262079 + 2 ^ 18, 262079, 1, (⟨rfl, rfl, rfl, by decide⟩), (by rfl), (by rfl), (by decide), (by decide), (by decide), _, _, (rfl), (by rfl), (by decide), (rfl), (rfl)⟩,
   ⟨mbx (262079 + 2 ^ 18) r0, _, 262079 + 2 ^ 18, 262079, 1, (⟨rfl, rfl, rfl, by decide⟩), (by rfl), (by rfl), (by decide), (by decide), (by decide), _, (rfl), (by rfl), (by decide), (by first | decide | rfl), (by first | decide | rfl), (rfl)⟩,
   ⟨mbx 0 (wr MBX_DATA_DATA 1 (1 + 3 * 2 ^ 12) r0), _, 2 ^ 18, 0, 1, (⟨rfl, rfl, rfl, by decide⟩), (by rfl), (by rfl), (by decide), (by decide), (by decide), 3, 1, _, (rfl), (by decide), (by decide), (by rfl), (by decide), (by decide), (by rfl), (by decide), (rfl)⟩,
   ⟨r0, r0, 2 ^ 18, 0, 1, (⟨rfl, rfl, rfl, by decide⟩), (by rfl), (by rfl), (by decide), (by decide), (by decide), (by first | decide | rfl)⟩,
   ⟨sec (fun x => { x with rtpAt := some 0 }) r0, r0, 2 ^ 18, 0, 1, (⟨rfl, rfl, rfl, by decide⟩), (by rfl), (by rfl), (by decide), (by decide), (by decide), (by first | decide | rfl)⟩,
   ⟨running 0 0 [0x33, 0, 7, 0, 64] siteMem, _, 0, 0, 0, ring0 0 0 [0x33, 0, 7, 0, 64], (by first | decide | rfl), _, _, _, (by rfl), (by first | decide | rfl), (by first | decide | rfl), (rfl), (rfl), (by decide), (rfl)⟩,
   ⟨running 0 0 [0x33, 0, 8 + 2 ^ 8 * 3 + 2 ^ 16 * 255] (wr FW_STAGE_STATE 2 2 (setB MC_GROUP_VALID 255 r0)), _, 0, 0, 3, ring0 0 0 [0x33, 0, 8 + 2 ^ 8 * 3 + 2 ^ 16 * 255], (by first | decide | rfl), (by rfl), (by rfl), (by decide), (by first | decide | rfl), (by first | decide | rfl), (rfl)⟩,
   ⟨running 0 0 [0x33, 0, 9 + 2 ^ 8 * 3, 2] (boot (fun x => { x with sent := [{ target := 3, transfer := 2 }] }) r0), r0, 0, 0, 3, ring0 0 0 [0x33, 0, 9 + 2 ^ 8 * 3, 2], (by first | decide | rfl), { target := 3, transfer := 2 }, (by rfl), (by rfl), (by decide), (by rfl)⟩,
   ⟨running 0 0 [0x33, 0, 9 + 2 ^ 8 * 3, 2] r0, r0, 0, 0, 3, ring0 0 0 [0x33, 0, 9 + 2 ^ 8 * 3, 2], (by first | decide | rfl), (by rfl), (by rfl), (by decide), (by first | decide | rfl)⟩,
   ⟨running 0 0 [0x33, 0, 7, 0, 64] (dir0 { st := 2 } siteMem), r0, 0, 0, 0, ring0 0 0 [0x33, 0, 7, 0, 64], (by first | decide | rfl), (by rfl), (by first | decide | rfl), (by first | decide | rfl)⟩,
   ⟨later (us16 5000) (boot (fun x => { x with xfers := [(3, { xfer0 with tries := 9 })] }) r0), r0, 0, 0, 3, ring0 0 0 [], (by first | decide | rfl), { xfer0 with tries := 9 }, (by rfl), (by decide), (by decide)⟩,
   ⟨later (us16 5000) (boot (fun x => { x with xfers := [(3, xfer0)] }) r0), r0, 0, 0, 3, ring0 0 0 [], (by first | decide | rfl), xfer0, _, (by rfl), (by decide), (by decide), (rfl), (rfl)⟩⟩

/-- Every clause of `Obligations.ResetsAndBringUp` has a state and operands that meet its hypotheses. -/
theorem test_ResetsAndBringUp_met :
    (∃ (s : State), s.power.stopped = false ∧ s.boot.bring.isSome = true) ∧
    (∃ (s : State), s.power.stopped = false ∧ s.boot.bring = none) ∧
    (∃ (s : State), s.power.stopped = false ∧ s.boot.perst = false ∧ (∀ x, s.boot.bring ≠ some (0, x))) ∧
    (∃ (s : State), s.power.stopped = false ∧ s.boot.perst = true) ∧
    (∃ (s : State), s.power.stopped = false ∧ ∃ cls since, s.boot.bring = some (cls, since) ∧ s.boot.perst = false ∧ s.sec.burns = [] ∧ s.sec.rtpAt = none ∧ s.life.state < 4) ∧
    (∃ (s : State), s.power.stopped = false ∧ ∃ cls since, s.boot.bring = some (cls, since) ∧ s.boot.perst = false ∧ s.sec.burns = [] ∧ s.sec.rtpAt = none ∧ 4 ≤ s.life.state) :=
  ⟨⟨r0, (by first | decide | rfl), (by first | decide | rfl)⟩,
   ⟨boot (fun x => { x with bring := none }) (r0), (by first | decide | rfl), (by first | decide | rfl)⟩,
   ⟨boot (fun x => { x with bring := some (1, 0) }) (r0), (by first | decide | rfl), (by first | decide | rfl), (fun _ h => by cases h)⟩,
   ⟨boot (fun x => { x with perst := true }) r0, (by first | decide | rfl), (by first | decide | rfl)⟩,
   ⟨boot (fun x => { x with bring := some (2, 5) }) (r0), (by first | decide | rfl), 2, 5, (by rfl), (by first | decide | rfl), (by first | decide | rfl), (by first | decide | rfl), (by decide)⟩,
   ⟨scrap0, (by first | decide | rfl), 0, 0, (by rfl), (by first | decide | rfl), (by first | decide | rfl), (by first | decide | rfl), (by decide)⟩⟩

end Sys2Proof.Tests
end

namespace Sys2Proof.Machine

open Sys2Proof

/-! # Register scope: what the shared operations answer

The reading rules that the statements of spec/00_scope.md, the ruling block, the host endpoint, the memory block and the mesh
need in common. -/

/-! ## Commands while the clocks run -/

@[simp] theorem clocked_of_running {f : State → State} {s : State} (h : s.power.stopped = false) : clocked f s = f s := by
  simp [clocked, h]

/-- A command whose meaning is the clocked operation `f` answers `f s` while the clocks run. -/
theorem next_clocked {f : State → State} {s t : State} (h : s.power.stopped = false) (e : f s = t) :
    (.next (clocked f s) : Host.Outcome State Fault Refusal) = .next t := by
  rw [clocked_of_running h, e]

/-! ## Writes of register fields -/

theorem setB_eq_wr (f : Fld) (i : Nat) (s : State) : setB f i s = wr f i 1 s := rfl

@[simp] theorem wrb_true (f : Fld) (i : Nat) (s : State) : wrb f i true s = setB f i s := rfl

/-- A write keeps the register store sorted. -/
theorem sortedKeys_wr {s : State} (f : Fld) (i v : Nat) (h : sortedKeys s.regs = true) :
    sortedKeys (wr f i v s).regs = true :=
  (wr_keeps f i v (Keeps.refl s)).regs h

/-! ## A register field reads what was last written to it -/

/-- Settles O10: the store answers a field's own key with what was put or deleted there, and every other key as before. -/
theorem registerReadAfterWrite : Obligations.RegisterReadAfterWrite := by
  unfold Obligations.RegisterReadAfterWrite
  intro f g i j v s hi hj
  refine ⟨rd_wr_same f i v s, rd_rst_same f i s, fun h => rd_wr_other h hi hj v s, fun h => rd_wr_index h v s, ?_, ?_⟩
  · rfl
  · exact sortedKeys_wr f i v

/-! ## Access codes (Table 2) -/

theorem writeFld_ro_wo {f : Fld} (h : f.acc = .ro ∨ f.acc = .wo) (i m v : Nat) (s : State) : writeFld f i m v s = s := by
  obtain h | h := h <;> simp [writeFld, h]

theorem writeFld_rwl_locked {f : Fld} {s : State} (h : f.acc = .rwl) (hl : rdb HUB_GLOBAL_SETUP_LOCK 0 s = true) (i m v : Nat) :
    writeFld f i m v s = s := by
  simp [writeFld, h, setupLocked, hl]

theorem rd_writeFld_rw1c {f : Fld} (h : f.acc = .rw1c) (i m v : Nat) (s : State) :
    rd f i (writeFld f i m v s) = wrap f.w (rd f i s - Nat.land (rd f i s) (Nat.land v m)) := by
  simp [writeFld, h]

theorem viewFld_wo {f : Fld} (h : f.acc = .wo) (i : Nat) (s : State) : viewFld f i s = 0 := by
  simp [viewFld, h]

/-! ## The set-up lock (R13) -/

theorem doSetupLockSet_open {s : State} (h : offOpen 0 0x10 s = true) : doSetupLockSet s = setB HUB_GLOBAL_SETUP_LOCK 0 s := by
  simp [doSetupLockSet, h]

theorem doSetupLockSet_closed {s : State} (h : offOpen 0 0x10 s = false) : doSetupLockSet s = s := by
  simp [doSetupLockSet, h]

theorem rdb_setB_setupLock (s : State) : rdb HUB_GLOBAL_SETUP_LOCK 0 (setB HUB_GLOBAL_SETUP_LOCK 0 s) = true := by
  simp only [rdb, setB_eq_wr, rd_wr_same]
  decide

/-! ## Counter overflow (R478) and snapshots (R480) -/

/-- The state once the overflow of counter `k` of unit `u` is taken: `t` is left to take, and its OVF bit is set. -/
def overflowTaken (u k : Nat) (t : List (Nat × Nat)) (s : State) : State :=
  setCnt (fun c => { c with ovf := t })
    (wr CNT_OVF_OVF u (if bit (rd CNT_OVF_OVF u s) k then rd CNT_OVF_OVF u s else rd CNT_OVF_OVF u s + 2 ^ k) s)

theorem doCounterOverflow_none {s : State} (h : s.cnt.ovf = []) : doCounterOverflow s = s := by
  simp [doCounterOverflow, h]

theorem doCounterOverflow_silent {s : State} {u k : Nat} {t : List (Nat × Nat)} (h : s.cnt.ovf = (u, k) :: t)
    (hi : rdb CNT_SEL_OVF_IRQ (cntIx u k) (overflowTaken u k t s) = false) : doCounterOverflow s = overflowTaken u k t s := by
  unfold overflowTaken at hi ⊢
  simp only [doCounterOverflow, h, hi]
  rfl

theorem doCounterOverflow_sampled {s s1 : State} {u k : Nat} {t : List (Nat × Nat)} (h : s.cnt.ovf = (u, k) :: t)
    (h1 : s1 = overflowTaken u k t s) (hi : rdb CNT_SEL_OVF_IRQ (cntIx u k) s1 = true) :
    doCounterOverflow s = sendMsix (rd CNT_OWN_FUNCTION u s1) (rd CNT_OWN_VECTOR u s1) (wr CNT_SAMPLE_POS u (pos s1)
      (wr CNT_SAMPLE_COUNTER u k (wr CNT_SAMPLE_OWNER u (sampleOf u s1).2.1
        (wr CNT_SAMPLE_PC u (sampleOf u s1).1 (sampleOf u s1).2.2)))) := by
  subst h1
  unfold overflowTaken at hi ⊢
  simp only [doCounterOverflow, h, hi]
  rfl

theorem doSnapshotWritten_none {s : State} (h : s.cnt.snaps = []) : doSnapshotWritten s = s := by
  simp [doSnapshotWritten, h]

theorem doSnapshotWritten_claims {s : State} {x : Snap} {t : List Snap} (h : s.cnt.snaps = x :: t)
    (hc : claimed x.base 12928 true s = false) : doSnapshotWritten s = claim (.agent x.fn) x.base 12928 true s := by
  simp [doSnapshotWritten, h, hc]

theorem doSnapshotWritten_ends {s : State} {x : Snap} {t : List Snap} {w h : Status × State} {f : Firing}
    (hs : s.cnt.snaps = x :: t) (hc : claimed x.base 12928 true s = true)
    (hw : w = homePut (.agent x.fn) (x.base + 128) ((x.words.drop 16).flatMap (toBytes 8)) s)
    (hh : h = homePut (.agent x.fn) x.base ((x.words.take 16).flatMap (toBytes 8)) w.2)
    (hf : (setCnt (fun c => { c with snaps := t }) h.2).cal.firings.find? (fun f => f.id == x.firing) = some f) :
    doSnapshotWritten s = endIssued { f with status := Status.worst [f.status, w.1, h.1] } (setCnt (fun c => { c with snaps := t }) h.2) := by
  subst hw hh
  simp only [doSnapshotWritten, hs, hc, hf]
  rfl

/-- Settles O15: each access code, the lock, the overflow and the snapshot by the case of its operation that applies. -/
theorem registerAccessCodesAndCounters : Obligations.RegisterAccessCodesAndCounters := by
  unfold Obligations.RegisterAccessCodesAndCounters
  refine ⟨fun s f i m v => ⟨?_, ?_, ?_, ?_, ?_, ?_⟩, fun s hs => ⟨?_, ?_, ?_, ?_, ?_, ?_⟩⟩
  · exact fun h => writeFld_ro_wo h i m v s
  · exact fun h hl => writeFld_rwl_locked h hl i m v
  · exact fun h => rd_writeFld_rw1c h i m v s
  · exact fun h => viewFld_wo h i s
  · intro hs ho
    refine ⟨setB HUB_GLOBAL_SETUP_LOCK 0 s, next_clocked hs (doSetupLockSet_open ho), rdb_setB_setupLock s, ?_, rfl, rfl⟩
    exact fun g k hk hg => rd_wr_other hg hk (by decide) 1 s
  · exact fun hs ho => next_clocked hs (doSetupLockSet_closed ho)
  · rintro u k t v ho rfl - hi
    exact next_clocked hs (doCounterOverflow_silent ho hi)
  · rintro u k t v s1 p ho rfl h1 hi rfl
    exact next_clocked hs (doCounterOverflow_sampled ho h1 hi)
  · exact fun h => next_clocked hs (doCounterOverflow_none h)
  · exact fun x t w h f hx hc hw hh hf => next_clocked hs (doSnapshotWritten_ends hx hc hw hh hf)
  · exact fun x t hx hc => next_clocked hs (doSnapshotWritten_claims hx hc)
  · exact fun h => next_clocked hs (doSnapshotWritten_none h)

end Sys2Proof.Machine

namespace Sys2Proof.Machine

open Sys2Proof

/-! # Roles, lock and loss of the ruling block (R37 to R41, R500, R504) -/

theorem role_wr {g : Fld} (h : RULE_CTL_ROLE.code ≠ g.code) (v : Nat) (s : State) : role (wr g 0 v s) = role s :=
  rd_wr_field h 0 v s

theorem locked_wr {g : Fld} (h : RULE_STATUS_STATE.code ≠ g.code) (v : Nat) (s : State) : locked (wr g 0 v s) = locked s := by
  simp only [locked, rd_wr_field h]

theorem locked_iff (s : State) : locked s = true ↔ rd RULE_STATUS_STATE 0 s = 2 := by simp [locked]

theorem locked_eq_false_iff (s : State) : locked s = false ↔ rd RULE_STATUS_STATE 0 s ≠ 2 := by simp [locked]

@[simp] theorem locked_setRuling (f : Ruling → Ruling) (s : State) : locked (setRuling f s) = locked s := rfl

/-! ## RULE_CTL_WRITE (R504) -/

/-- The four fields of RULE_CTL as a write leaves them. -/
def ctlWritten (r p a : Nat) (e : Bool) (s : State) : State :=
  wrb RULE_CTL_ALT_EN 0 e (wr RULE_CTL_ALT_PORT 0 a (wr RULE_CTL_PARENT_PORT 0 p (wr RULE_CTL_ROLE 0 r s)))

theorem role_ctlWritten {r : Nat} (hr : r < 4) (p a : Nat) (e : Bool) (s : State) : role (ctlWritten r p a e s) = r := by
  simp (disch := decide) only [ctlWritten, wrb, role_wr]
  simp only [role, rd_wr_same]
  exact Nat.mod_eq_of_lt hr

theorem rd_parent_ctlWritten {p : Nat} (hp : p < 32) (r a : Nat) (e : Bool) (s : State) :
    rd RULE_CTL_PARENT_PORT 0 (ctlWritten r p a e s) = p := by
  simp (disch := decide) only [ctlWritten, wrb, rd_wr_field, rd_wr_same]
  exact Nat.mod_eq_of_lt hp

/-- The progress towards lock as a change of role leaves it (R504); `follows`: the new role takes its segments from a reference. -/
def forgetLock (follows : Bool) (s : State) : State :=
  setRuling (fun x => { x with good := 0, bad := 0, framesGood := 0, framesBad := 0, markAt := none, rebase := follows }) s

/-- A change of role leaves whether the position was ever set. -/
theorem everSet_roleTaken (r p a : Nat) (e : Bool) (s : State) :
    (wr RULE_STATUS_PARENT_USED 0 (if r = 3 then 18 else p) (forgetLock true
      (if r = 0 then ctlWritten r p a e s else wr RULE_STATUS_DEPTH 0 0 (ctlWritten r p a e s)))).ruling.everSet =
      s.ruling.everSet := by
  by_cases h : r = 0
  · simp only [h, if_true]; rfl
  · simp only [if_neg h]; rfl

theorem doRuleCtlWrite_locked {s : State} (h : rdb HUB_GLOBAL_SETUP_LOCK 0 s = true) (r p a : Nat) (e : Bool) :
    doRuleCtlWrite r p a e s = s := by
  simp [doRuleCtlWrite, h]

section
variable {s : State} {r p a : Nat} {e : Bool} (hl : rdb HUB_GLOBAL_SETUP_LOCK 0 s = false) (hr : r < 4) (hp : p < 32)
include hl hr hp

/-- An accepted write goes by the role it leaves in force, and by the parent where a FOLLOWER keeps its role. -/
theorem doRuleCtlWrite_open : doRuleCtlWrite r p a e s =
    (let s1 := ctlWritten r p a e s
    if r ≠ role s then
      let s2 := forgetLock (r != 1) (if r = 0 then s1 else wr RULE_STATUS_DEPTH 0 0 s1)
      if r = 1 then becomeMaster s2
      else
        let s3 := wr RULE_STATUS_PARENT_USED 0 (if r = 3 then 18 else p) s2
        let s4 := if locked s3 then enterUnlocked false s3 else s3
        if s4.ruling.everSet then setLock 1 s4 else s4
    else if r = 0 ∧ p ≠ rd RULE_CTL_PARENT_PORT 0 s then
      let s2 := wr RULE_STATUS_PARENT_USED 0 p s1
      if !locked s1 then s2 else if senderLocked p s1 then switchParent p s1 else enterUnlocked false s2
    else s1) := by
  have h1 := role_ctlWritten hr p a e s
  have h2 := rd_parent_ctlWritten hp r a e s
  unfold ctlWritten at h1 h2
  simp only [doRuleCtlWrite, hl, h1, h2]
  rfl

theorem doRuleCtlWrite_kept (h : r = role s) (hq : r ≠ 0 ∨ rd RULE_CTL_PARENT_PORT 0 s = p) :
    doRuleCtlWrite r p a e s = ctlWritten r p a e s := by
  have hn : ¬(r = 0 ∧ p ≠ rd RULE_CTL_PARENT_PORT 0 s) := by rintro ⟨h0, hn⟩; exact hq.elim (· h0) (hn ·.symm)
  rw [doRuleCtlWrite_open hl hr hp]
  simp only [h, ne_eq, not_true_eq_false, if_false] at hn ⊢
  exact if_neg hn

theorem doRuleCtlWrite_parent (h : r = role s) (h0 : r = 0) (hq : rd RULE_CTL_PARENT_PORT 0 s ≠ p) :
    doRuleCtlWrite r p a e s =
      if !locked (ctlWritten r p a e s) then wr RULE_STATUS_PARENT_USED 0 p (ctlWritten r p a e s)
      else if senderLocked p (ctlWritten r p a e s) then switchParent p (ctlWritten r p a e s)
      else enterUnlocked false (wr RULE_STATUS_PARENT_USED 0 p (ctlWritten r p a e s)) := by
  rw [doRuleCtlWrite_open hl hr hp]
  simp only [h, ne_eq, not_true_eq_false, if_false]
  exact if_pos ⟨h ▸ h0, hq.symm⟩

theorem doRuleCtlWrite_master (h : r ≠ role s) (h1 : r = 1) : doRuleCtlWrite r p a e s =
    becomeMaster (forgetLock false (wr RULE_STATUS_DEPTH 0 0 (ctlWritten r p a e s))) := by
  subst h1
  rw [doRuleCtlWrite_open hl hr hp]
  exact if_pos h

theorem doRuleCtlWrite_role {s2 : State} (h : r ≠ role s) (h1 : r ≠ 1)
    (h2 : s2 = wr RULE_STATUS_PARENT_USED 0 (if r = 3 then 18 else p)
      (forgetLock true (if r = 0 then ctlWritten r p a e s else wr RULE_STATUS_DEPTH 0 0 (ctlWritten r p a e s)))) :
    doRuleCtlWrite r p a e s =
      (let s3 := if locked s2 then enterUnlocked false s2 else s2
       if s3.ruling.everSet then setLock 1 s3 else s3) := by
  subst h2
  have hb : (r != 1) = true := by simp [h1]
  rw [doRuleCtlWrite_open hl hr hp]
  simp only [if_pos h, if_neg h1, hb]

end

/-! ## Marks and frames of RULE_SYNC (R37 to R39, R500) -/

theorem doRuleSyncMark_pinRoot {s : State} (h : role s = 2) :
    doRuleSyncMark s = setRuling (fun r => { r with markAt := some (now16 s) }) (setB RULE_STATUS_PIN_REF_OK 0 s) := by
  have hr : role (setB RULE_STATUS_PIN_REF_OK 0 s) = 2 := (role_wr (by decide) 1 s).trans h
  simp only [doRuleSyncMark, hr]
  rfl

theorem doRuleSyncMark_other {s : State} (h : role s ≠ 2) : doRuleSyncMark s = setB RULE_STATUS_PIN_REF_OK 0 s := by
  have hr : role (setB RULE_STATUS_PIN_REF_OK 0 s) ≠ 2 := fun e => h ((role_wr (by decide) 1 s).symm.trans e)
  simp only [doRuleSyncMark, if_pos hr]

/-- The segment that a frame carries (Table 3). -/
def frameSeg (f : SyncFrame) : Seg :=
  { startRef := f.segStartRef, startPos := f.segStartPos, rate := f.segRate, kind := slice f.segSeqKind 0 2, seq := slice f.segSeqKind 2 6 }

/-- The master's count that a frame gives for now, for a mark stamped `m`. -/
def frameRef (f : SyncFrame) (m : Nat) (s : State) : Nat := f.refAtMark * 16 + (now16 s - m) + rd RULE_PIN_DELAY_DELAY 0 s

/-- A good frame is counted, and its mark is used. -/
def frameTaken (s : State) : State := setRuling (fun r => { r with framesGood := r.framesGood + 1, framesBad := 0, markAt := none }) s

/-- Two good frames in ACQUIRING give the lock (R39). -/
def lockAfterTwo (t : State) : State := if rd RULE_STATUS_STATE 0 t = 1 ∧ 2 ≤ t.ruling.framesGood then enterLocked t else t

theorem lockAfterTwo_eq (t : State) :
    (if (rd RULE_STATUS_STATE 0 t = 1 && decide (2 ≤ t.ruling.framesGood)) = true then enterLocked t else t) = lockAfterTwo t := by
  simp [lockAfterTwo]

/-- The offset that a frame's count `ref` shows is corrected, by a jump where the hub is behind and not LOCKED. -/
def frameOffset (ref : Nat) (s : State) : State :=
  if (now16 s : Int) - (ref : Int) < -16 ∧ locked s = false then moveRef ref (setRuling (fun r => { r with corr := 0 }) s)
  else setRuling (fun r => { r with corr := (now16 s : Int) - (ref : Int) }) s

theorem frameOffset_eq (ref : Nat) (s : State) :
    (if (decide ((now16 s : Int) - (ref : Int) < -16) && !locked s) = true then moveRef ref (setRuling (fun r => { r with
        corr := if (decide ((now16 s : Int) - (ref : Int) < -16) && !locked s) = true then 0 else (now16 s : Int) - (ref : Int) }) s)
      else setRuling (fun r => { r with
        corr := if (decide ((now16 s : Int) - (ref : Int) < -16) && !locked s) = true then 0 else (now16 s : Int) - (ref : Int) }) s) =
      frameOffset ref s := by
  by_cases h : (now16 s : Int) - (ref : Int) < -16 ∧ locked s = false
  · simp [frameOffset, h]
  · have hb : ¬(decide ((now16 s : Int) - (ref : Int) < -16) && !locked s) = true := by simpa using h
    simp only [frameOffset, if_neg h, if_neg hb]

section
variable {s : State} {f : SyncFrame} {m : Nat} (hr : role s = 2) (hf : f.preamble = 0xA5) (hm : s.ruling.markAt = some m)
include hr hf hm

theorem doRuleSyncFrame_first (hc : f.crc = frameCrc f) (h0 : rd RULE_STATUS_STATE 0 s = 0) : doRuleSyncFrame f s =
    lockAfterTwo (firstReference (if nowNs s < (frameSeg f).startRef then {} else frameSeg f)
      (if nowNs s < (frameSeg f).startRef then some (frameSeg f) else none) (frameRef f m s) (frameTaken s)) := by
  have h0' : rd RULE_STATUS_STATE 0 (frameTaken s) = 0 := h0
  unfold frameTaken at h0'
  simp only [doRuleSyncFrame, hr, hf, hm, hc, h0', ne_eq, not_true_eq_false, or_self, if_false, decide_eq_true_eq]
  exact lockAfterTwo_eq _

theorem doRuleSyncFrame_current {t : State} (hc : f.crc = frameCrc f) (h0 : rd RULE_STATUS_STATE 0 s = 0)
    (hp : (frameSeg f).startRef ≤ nowNs s) (ht : t = firstReference (frameSeg f) none (frameRef f m s) (frameTaken s)) :
    doRuleSyncFrame f s = lockAfterTwo t := by
  rw [doRuleSyncFrame_first hr hf hm hc h0, if_neg (Nat.not_lt.2 hp), if_neg (Nat.not_lt.2 hp), ht]

theorem doRuleSyncFrame_pending {t : State} (hc : f.crc = frameCrc f) (h0 : rd RULE_STATUS_STATE 0 s = 0)
    (hp : nowNs s < (frameSeg f).startRef) (ht : t = firstReference {} (some (frameSeg f)) (frameRef f m s) (frameTaken s)) :
    doRuleSyncFrame f s = lockAfterTwo t := by
  rw [doRuleSyncFrame_first hr hf hm hc h0, if_pos hp, if_pos hp, ht]

theorem doRuleSyncFrame_later {s2 s3 t : State} (hc : f.crc = frameCrc f) (h0 : rd RULE_STATUS_STATE 0 s ≠ 0)
    (h2 : s2 = frameOffset (frameRef f m s) (frameTaken s))
    (h3 : s3 = if nowNs s < (frameSeg f).startRef then takeSegs s2.ruling.seg (some (frameSeg f)) s2 else takeSegs (frameSeg f) none s2)
    (ht : t = if rd RULE_STATUS_STATE 0 s = 3 then setLock 1 s3 else s3) : doRuleSyncFrame f s = lockAfterTwo t := by
  subst ht h3 h2
  obtain ⟨n, hn⟩ := Nat.exists_eq_succ_of_ne_zero h0
  have hn' : rd RULE_STATUS_STATE 0 (frameTaken s) = n + 1 := hn
  unfold frameTaken at hn'
  simp only [doRuleSyncFrame, hr, hf, hm, hc, ne_eq, not_true_eq_false, or_self, if_false, hn', hn,
    frameOffset_eq, decide_eq_true_eq, lockAfterTwo_eq]
  rfl

theorem doRuleSyncFrame_badCheck (hc : f.crc ≠ frameCrc f) (hu : rd RULE_STATUS_STATE 0 s ≠ 2) : doRuleSyncFrame f s =
    setRuling (fun r => { r with framesGood := 0, framesBad := r.framesBad + 1, frameErrs := r.frameErrs + 1, markAt := none })
      (setB RULE_EVENT_PIN_FRAME_ERR 0 s) := by
  have hl : locked (setB RULE_EVENT_PIN_FRAME_ERR 0 s) = false :=
    (locked_wr (by decide) 1 s).trans ((locked_eq_false_iff s).2 hu)
  simp only [doRuleSyncFrame, hr, hf, hm, ne_eq, not_true_eq_false, or_self, if_false, if_pos hc, locked_setRuling, hl]
  rfl

end

theorem doRuleSyncFrame_ignored {s : State} (h : s.ruling.markAt = none ∨ role s ≠ 2) (f : SyncFrame) : doRuleSyncFrame f s = s := by
  obtain h | h := h
  · simp [doRuleSyncFrame, h]
  · simp [doRuleSyncFrame, h]

/-! ## Silence, loss of lock and of the reference, held positions (R40, R41) -/

theorem doParentSilenceTimeout_switches {s : State} (hl : locked s = true) (hr : role s = 0)
    (hq : silentFor (exPort (rd RULE_STATUS_PARENT_USED 0 s) s).rxAt (silence (rd RULE_STATUS_PARENT_USED 0 s) s) s = true)
    (ha : altUsable s = true) : doParentSilenceTimeout s = switchParent (rd RULE_CTL_ALT_PORT 0 s) s := by
  simp [doParentSilenceTimeout, hl, hr, hq, ha]

theorem doParentSilenceTimeout_noAlternate {s : State} (ha : altUsable s = false) : doParentSilenceTimeout s = s := by
  simp [doParentSilenceTimeout, ha]

theorem doLockLossTimeout_offsets {s : State} (hl : locked s = true) (hb : 16 ≤ s.ruling.bad) :
    doLockLossTimeout s = enterUnlocked false s := by
  simp [doLockLossTimeout, hl, hb]

theorem doLockLossTimeout_noLockedSender {s : State} (hl : locked s = true) (hr : role s = 0)
    (hq : ∀ q, q = rd RULE_CTL_PARENT_PORT 0 s ∨ q = rd RULE_STATUS_PARENT_USED 0 s ∨
        (q = rd RULE_CTL_ALT_PORT 0 s ∧ rdb RULE_CTL_ALT_EN 0 s = true) →
      silentFor (exPort q s).lockedAt (lockSilence q s) s = true) : doLockLossTimeout s = enterUnlocked false s := by
  have hp := hq _ (.inl rfl)
  have hu := hq _ (.inr (.inl rfl))
  cases ha : rdb RULE_CTL_ALT_EN 0 s
  case false => simp [doLockLossTimeout, hl, hr, hp, hu, ha]
  case true =>
    have hx := hq _ (.inr (.inr ⟨rfl, ha⟩))
    simp [doLockLossTimeout, hl, hr, hp, hu, hx]

theorem doLockLossTimeout_unlocked {s : State} (hl : locked s = false) : doLockLossTimeout s = s := by
  simp [doLockLossTimeout, hl]

theorem doRuleRefLoss_master {s : State} (hr : role s = 1) :
    doRuleRefLoss s = setB RULE_EVENT_RULE_REF_LOST 0 (clrB RULE_STATUS_PIN_REF_OK 0 s) := by
  have h : role (clrB RULE_STATUS_PIN_REF_OK 0 s) = 1 := (role_wr (by decide) 0 s).trans hr
  simp only [doRuleRefLoss, h]

theorem doRuleRefLoss_pinRoot {s : State} (hr : role s = 2) (hl : rd RULE_STATUS_STATE 0 s = 2) : doRuleRefLoss s =
    enterUnlocked false (setRuling (fun r => { r with framesGood := 0, markAt := none }) (clrB RULE_STATUS_PIN_REF_OK 0 s)) := by
  have h : role (clrB RULE_STATUS_PIN_REF_OK 0 s) = 2 := (role_wr (by decide) 0 s).trans hr
  have hk : locked (clrB RULE_STATUS_PIN_REF_OK 0 s) = true := (locked_wr (by decide) 0 s).trans ((locked_iff s).2 hl)
  simp only [doRuleRefLoss, h, hk, if_true]

theorem doHoldRelease_reached {s : State} (hh : s.ruling.holding = true) (hp : pos s ≤ rootPos s) : doHoldRelease s =
    markDue (setRuling (fun r => { r with pos := max r.pos (rootPos s), holding := false, dev := 0 }) s) := by
  simp [doHoldRelease, hh, hp]

theorem doHoldRelease_waits {s : State} (h : s.ruling.holding = false ∨ rootPos s < pos s) : doHoldRelease s = s := by
  obtain h | h := h
  · simp only [doHoldRelease, h, Bool.false_and, Bool.false_eq_true, if_false]
  · simp only [doHoldRelease, decide_eq_false (Nat.not_le.2 h), Bool.and_false, Bool.false_eq_true, if_false]

/-- Settles O18: every clause is one case of the command's operation: the set-up lock, the role left in force, a good or a bad
frame, the silence of a sender, and the position that a hold waits for. -/
theorem ruleRolesAndLock : Obligations.RuleRolesAndLock := by
  unfold Obligations.RuleRolesAndLock
  intro s hs
  refine ⟨?_, ?_, ?_, ?_, ?_, ?_, ?_, ?_, ?_, ?_, ?_, ?_, ?_, ?_, ?_, ?_⟩
  · exact fun r p a e hl => next_clocked hs (doRuleCtlWrite_locked hl r p a e)
  · intro r p a e s1 hl hr hp h1
    obtain rfl : s1 = ctlWritten r p a e s := h1
    refine ⟨?_, ?_, ?_, ?_, ?_, ?_⟩
    · exact fun h hq => next_clocked hs (doRuleCtlWrite_kept hl hr hp h hq)
    · intro h0 hr0 hq hk
      exact next_clocked hs ((doRuleCtlWrite_parent hl hr hp (hr0.trans h0.symm) hr0 hq).trans (by simp [hk]))
    · intro h0 hr0 hq hk hn
      exact next_clocked hs ((doRuleCtlWrite_parent hl hr hp (hr0.trans h0.symm) hr0 hq).trans (by simp [hk, hn]))
    · intro h0 hr0 hq hk hn
      exact next_clocked hs ((doRuleCtlWrite_parent hl hr hp (hr0.trans h0.symm) hr0 hq).trans (by simp [hk, hn]))
    · exact fun h h1 => next_clocked hs (doRuleCtlWrite_master hl hr hp h h1)
    · intro s2 h h1 h2
      have he : s2.ruling.everSet = s.ruling.everSet := h2 ▸ everSet_roleTaken r p a e s
      have hd := doRuleCtlWrite_role hl hr hp h h1 h2
      refine ⟨fun hk => next_clocked hs (hd.trans ?_), fun s3 hk h3 => next_clocked hs (hd.trans ?_)⟩
      · simp [hk, he]
      · simp [hk, h3]
  · exact fun h => next_clocked hs (doRuleSyncMark_pinRoot h)
  · exact fun h => next_clocked hs (doRuleSyncMark_other h)
  · intro f m g ref s1 hr hf hm hc hg href h1
    obtain rfl : g = frameSeg f := hg
    obtain rfl : ref = frameRef f m s := href
    obtain rfl : s1 = frameTaken s := h1
    refine ⟨?_, ?_, ?_⟩
    · exact fun t h0 hp ht => next_clocked hs (doRuleSyncFrame_current hr hf hm hc h0 hp ht)
    · exact fun t h0 hp ht => next_clocked hs (doRuleSyncFrame_pending hr hf hm hc h0 hp ht)
    · exact fun s2 s3 t h0 h2 h3 ht => next_clocked hs (doRuleSyncFrame_later hr hf hm hc h0 h2 h3 ht)
  · exact fun f m hr hf hm hc hu => next_clocked hs (doRuleSyncFrame_badCheck hr hf hm hc hu)
  · exact fun f h => next_clocked hs (doRuleSyncFrame_ignored h f)
  · exact fun hl hr hq ha => next_clocked hs (doParentSilenceTimeout_switches hl hr hq ha)
  · exact fun ha => next_clocked hs (doParentSilenceTimeout_noAlternate ha)
  · exact fun hl hb => next_clocked hs (doLockLossTimeout_offsets hl hb)
  · exact fun hl hr hq => next_clocked hs (doLockLossTimeout_noLockedSender hl hr hq)
  · exact fun hl => next_clocked hs (doLockLossTimeout_unlocked hl)
  · exact fun hr => next_clocked hs (doRuleRefLoss_master hr)
  · exact fun hr hl => next_clocked hs (doRuleRefLoss_pinRoot hr hl)
  · exact fun hh hp => next_clocked hs (doHoldRelease_reached hh hp)
  · exact fun h => next_clocked hs (doHoldRelease_waits h)

end Sys2Proof.Machine

namespace Sys2Proof.Machine

open Sys2Proof

/-! # Moves, key slots and temperature of the memory (R171, R179 to R181, R467) -/

/-! ## MOVE_FRAME_COPY (R179) -/

theorem movePaused_of_target {s : State} {j k : Nat} (hm : s.mem.moveTo = some (j, k)) (hr : siteRetraining j s = true) :
    movePaused s = true := by
  simp [movePaused, hm, hr]

theorem doMoveFrameCopy_idle {s : State} (h : rdb MEM_MOVE_ACTIVE 0 s = false) (errs : Nat) (again : Bool) :
    doMoveFrameCopy errs again s = s := by
  simp only [doMoveFrameCopy, h]

theorem doMoveFrameCopy_paused {s : State} (h : movePaused s = true) (errs : Nat) (again : Bool) :
    doMoveFrameCopy errs again s = s := by
  unfold doMoveFrameCopy
  split
  · exact if_pos h
  · rfl

section
variable {s s1 : State} {errs : Nat} {again : Bool} {j k e : Nat} (ha : rdb MEM_MOVE_ACTIVE 0 s = true)
  (hm : s.mem.moveTo = some (j, k)) (hp : movePaused s = false) (he : e = rd MEM_MOVE_ENTRY 0 s)
  (h1 : s1 = copyGran (granOf e (rd MEM_MOVE_FRAME 0 s) s) errs again j k s)
include ha hm hp he h1

theorem doMoveFrameCopy_advances (hf : rd MEM_MOVE_FRAME 0 s1 + 1 < rd MEM_NF_NF 0 s1) :
    doMoveFrameCopy errs again s = wr MEM_MOVE_FRAME 0 (rd MEM_MOVE_FRAME 0 s1 + 1) s1 := by
  subst h1 he
  simp only [doMoveFrameCopy, ha, hm, hp, Bool.false_eq_true, if_false, if_pos hf]

theorem doMoveFrameCopy_steers (hf : rd MEM_NF_NF 0 s1 ≤ rd MEM_MOVE_FRAME 0 s1 + 1) :
    doMoveFrameCopy errs again s = nextMove (setMem (fun m => { m with moveTo := none, partMoves := del e m.partMoves })
      (wr MEM_MOVE_FRAME 0 (rd MEM_MOVE_FRAME 0 s1 + 1)
        (clrB MEM_MOVE_ACTIVE 0 (wr SITE_STEER_SLOT e k (wr SITE_STEER_SITE e j s1))))) := by
  subst h1 he
  simp only [doMoveFrameCopy, ha, hm, hp, Bool.false_eq_true, if_false, if_neg (Nat.not_lt.2 hf)]

end

/-! ## KEY_SLOT_WITHDRAW (R171) -/

theorem look_keys_withdrawKey (k : Nat) (s : State) : look (withdrawKey k s).sec.keys k = none :=
  look_del_same k _

theorem look_keys_newKey (k : Nat) (s : State) : look (newKey k s).sec.keys k = some s.sec.nextKey :=
  look_put_same k _ _

theorem nextKey_newKey (k : Nat) (s : State) : (newKey k s).sec.nextKey = s.sec.nextKey + 1 := rfl

/-! ## MR4_POLL (R180, R181, R467) -/

/-- The state once a poll has noted its time and written the raw code to field `f`. -/
def pollNoted (j ch raw : Nat) (f : Fld) (s : State) : State :=
  wr f j raw (setMem (fun m => { m with mr4At := put (chanKey j ch) (now16 s) m.mr4At }) s)

theorem doMr4Poll_early {s : State} {j ch t : Nat} (hl : look s.mem.mr4At (chanKey j ch) = some t)
    (ht : now16 s < t + us16 4000) (raw cat : Nat) : doMr4Poll j ch raw cat s = s := by
  simp [doMr4Poll, hl, due, ht]

/-- The worst level of the channels of MEM_j. -/
def worstLevel (j : Nat) (s : State) : Nat := ((List.range 8).map (fun i => (chan (chanKey j i) s).level)).foldl max 0

theorem doMr4Poll_ready {s s1 s2 : State} {j ch raw cat old lvl : Nat} {f : Fld} (hf : mr4Flds[ch]? = some f)
    (ht : ∀ t, look s.mem.mr4At (chanKey j ch) = some t → t + us16 4000 ≤ now16 s) (h1 : s1 = pollNoted j ch raw f s)
    (ho : old = (chan (chanKey j ch) s1).level)
    (hv : lvl = if old ≤ mr4Level cat then mr4Level cat else if (chan (chanKey j ch) s1).cooler then old - 1 else old)
    (h2 : s2 = setChan (chanKey j ch) (fun c => { c with
      level := lvl,
      cooler := decide (mr4Level cat < old) && !(c.cooler && decide (mr4Level cat < old)), refresh := cat }) s1) :
    doMr4Poll j ch raw cat s =
      if confStatic s2 then wr MEM_STATUS_THROTTLE j 0 s2
      else if lvl = 3 ∧ old ≠ 3 then thermalEvent 5 lvl (wr MEM_STATUS_THROTTLE j (worstLevel j s2) s2)
      else wr MEM_STATUS_THROTTLE j (worstLevel j s2) s2 := by
  subst h2 hv ho h1
  cases hk : look s.mem.mr4At (chanKey j ch) with
  | none =>
    simp only [doMr4Poll, hk, hf]
    rfl
  | some t =>
    have hd : due (t + us16 4000) s = true := decide_eq_true (ht t hk)
    simp only [doMr4Poll, hk, hd, hf]
    rfl

/-- Settles O34: the move, the withdrawal and the poll by the case of their operation that applies. -/
theorem movesKeysAndTemperature : Obligations.MovesKeysAndTemperature := by
  unfold Obligations.MovesKeysAndTemperature
  intro s hs
  refine ⟨?_, ?_, ?_, ?_, ?_, ?_, ?_⟩
  · exact fun errs again j k e s1 ha hm hp he h1 =>
      ⟨fun hf => next_clocked hs (doMoveFrameCopy_advances ha hm hp he h1 hf),
       fun hf => next_clocked hs (doMoveFrameCopy_steers ha hm hp he h1 hf)⟩
  · exact fun errs again j k hm hr => next_clocked hs (doMoveFrameCopy_paused (movePaused_of_target hm hr) errs again)
  · exact fun errs again ha => next_clocked hs (doMoveFrameCopy_idle ha errs again)
  · exact fun k => ⟨withdrawKey k s, next_clocked hs rfl, look_keys_withdrawKey k s, rfl⟩
  · exact fun k => ⟨newKey k (withdrawKey k s), next_clocked hs rfl, look_keys_newKey k _, nextKey_newKey k _⟩
  · intro j ch raw cat f s1 s2 old lvl _ hf ht h1 ho hv h2
    have hp := doMr4Poll_ready hf ht h1 ho hv h2
    refine ⟨fun hc => next_clocked hs (hp.trans (if_pos hc)), fun hc s3 h3 => next_clocked hs (hp.trans ?_)⟩
    rw [hc, h3]
    rfl
  · exact fun j ch raw cat t hl ht => next_clocked hs (doMr4Poll_early hl ht raw cat)

end Sys2Proof.Machine

namespace Sys2Proof.Machine

open Sys2Proof

/-! # The mesh, its timeouts and its boundaries (R246 to R256, R265) -/

/-! ## MESH_PACKET_DELIVER (R245, R246, R248, R249) -/

/-- The oldest packet of network `vn` on plane `pl` from port `src` to port `dst`. -/
def oldestPacket (vn pl src dst : Nat) (s : State) : Option Flight :=
  s.mesh.flight.find? (fun f => f.vn == vn && f.plane == pl && f.src == src && f.dst == dst)

/-- The state once packet `f` has left the mesh at port `dst`. -/
def packetOut (src dst : Nat) (f : Flight) (s : State) : State :=
  travel src dst (setMesh (fun m => { m with flight := m.flight.erase f }) s)

theorem doMeshPacketDeliver_none {s : State} {vn pl src dst : Nat} (h : oldestPacket vn pl src dst s = none) (err : Nat) :
    doMeshPacketDeliver vn pl src dst err s = s := by
  unfold oldestPacket at h
  simp only [doMeshPacketDeliver, h]

theorem doMeshPacketDeliver_untaken {s : State} {vn pl src dst : Nat} {f : Flight} (h : oldestPacket vn pl src dst s = some f)
    (hp : portTakes dst (packetOut src dst f s) = false) : doMeshPacketDeliver vn pl src dst 0 s =
      emit { kind := .mesh, dest := src, tag := f.id, args := [Status.unreachable.code] } (packetOut src dst f s) := by
  unfold oldestPacket at h
  unfold packetOut at hp ⊢
  simp only [doMeshPacketDeliver, h, hp]
  rfl

section
variable {s : State} {vn pl src dst : Nat} {f : Flight} (h : oldestPacket vn pl src dst s = some f)
  (hp : portTakes dst (packetOut src dst f s) = true)
include h hp

/-- A packet whose port takes it answers by its flit error. -/
theorem doMeshPacketDeliver_taken (err : Nat) : doMeshPacketDeliver vn pl src dst err s =
    (if err = 3 then bumpSat MESH_STATUS_FLIT_UE 0 1 (packetOut src dst f s)
     else if err = 2 then takeAnswer f .dataErr [] (bumpSat MESH_STATUS_FLIT_UE 0 1 (packetOut src dst f s))
     else takeAnswer f f.st f.data (if err = 1 then bumpSat MESH_STATUS_FLIT_CE 0 1 (packetOut src dst f s) else packetOut src dst f s)) := by
  unfold oldestPacket at h
  unfold packetOut at hp ⊢
  simp only [doMeshPacketDeliver, h, hp]
  rfl

end

/-! ## ROUTER_GATE (R250) -/

theorem doRouterGate_off {s : State} (h : rdb MESH_CTL_GATE_EN 0 s = false) (r : Nat) : doRouterGate r s = s := by
  simp [doRouterGate, h]

theorem doRouterGate_idle {s : State} {r : Nat} (hr : r < 72) (he : rdb MESH_CTL_GATE_EN 0 s = true) (hg : r ∉ s.mesh.gated)
    (hi : lookD 0 s.mesh.used r + 128 * max 1 (rd MESH_CTL_GATE_IDLE 0 s) ≤ now16 s) :
    doRouterGate r s = setMesh (fun m => { m with gated := m.gated ++ [r] }) s := by
  have hd : due (lookD 0 s.mesh.used r + gateAfter s) s = true := decide_eq_true (by unfold gateAfter; omega)
  simp [doRouterGate, hr, he, hg, hd]

/-! ## TMO_WRITE (R252) -/

theorem doTmoWrite_locked {s : State} (h : rdb HUB_GLOBAL_SETUP_LOCK 0 s = true) (c v : Nat) : doTmoWrite c v s = s := by
  simp [doTmoWrite, h]

section
variable {s : State} (h : rdb HUB_GLOBAL_SETUP_LOCK 0 s = false) (v : Nat)
include h

theorem doTmoWrite_onDie : doTmoWrite 0 v s = wr TMO_ONDIE_US 0 (min 1000 (max 5 v)) s := by
  simp [doTmoWrite, h, clamp]

theorem doTmoWrite_site : doTmoWrite 1 v s = wr TMO_SITE_US 0 (min 10000 (max 50 v)) s := by
  simp [doTmoWrite, h, clamp]

theorem doTmoWrite_syrel : doTmoWrite 2 v s = wr TMO_SYREL_MS 0 (min 100 (max 1 v)) s := by
  simp [doTmoWrite, h, clamp]

end

/-! ## STATIC_BOUNDARY (R265, R395) -/

/-- The boundary at which the hub stands is noted. -/
def boundaryNoted (s : State) : State := setRuling (fun r => { r with staticAt := r.pos }) s

theorem doStaticBoundary_between {s : State} (h : atBoundary s = false) : doStaticBoundary s = s := by
  simp [doStaticBoundary, h]

section
variable {s : State} (hb : atBoundary s = true)
include hb

/-- A boundary brings in the mode that is asked for where the quotas allow it, and then ends a pending CONF_ENTER. -/
theorem doStaticBoundary_reached : doStaticBoundary s =
    (let s1 := boundaryNoted s
     let s2 := if rdb REG_CTL_STATIC 0 s1 == staticOn s1 then s1
       else if oversub s1 then setB REG_STATUS_STATIC_REFUSED 0 s1
       else wrb REG_STATUS_STATIC_ACTIVE 0 (rdb REG_CTL_STATIC 0 s1) s1
     if !rdb SEC_STATUS_CONF_PENDING 0 s2 then s2
     else if staticOn s2 then endConf .ok 0 (enterConfidential s2) else endConf .refused 2 s2) := by
  simp only [doStaticBoundary, hb]
  rfl

theorem doStaticBoundary_refused (hw : rdb REG_CTL_STATIC 0 (boundaryNoted s) = true) (ho : staticOn (boundaryNoted s) = false)
    (hq : oversub (boundaryNoted s) = true)
    (hc : rdb SEC_STATUS_CONF_PENDING 0 (setB REG_STATUS_STATIC_REFUSED 0 (boundaryNoted s)) = false) :
    doStaticBoundary s = setB REG_STATUS_STATIC_REFUSED 0 (boundaryNoted s) := by
  rw [doStaticBoundary_reached hb]
  simp [hw, ho, hq, hc]

theorem doStaticBoundary_activates (hw : rdb REG_CTL_STATIC 0 (boundaryNoted s) = true) (ho : staticOn (boundaryNoted s) = false)
    (hq : oversub (boundaryNoted s) = false)
    (hc : rdb SEC_STATUS_CONF_PENDING 0 (setB REG_STATUS_STATIC_ACTIVE 0 (boundaryNoted s)) = false) :
    doStaticBoundary s = setB REG_STATUS_STATIC_ACTIVE 0 (boundaryNoted s) := by
  rw [doStaticBoundary_reached hb]
  simp [hw, ho, hq, hc]

theorem doStaticBoundary_endsConf (hw : rdb REG_CTL_STATIC 0 (boundaryNoted s) = staticOn (boundaryNoted s))
    (hc : rdb SEC_STATUS_CONF_PENDING 0 (boundaryNoted s) = true) :
    doStaticBoundary s = if staticOn (boundaryNoted s) then endConf .ok 0 (enterConfidential (boundaryNoted s))
      else endConf .refused 2 (boundaryNoted s) := by
  rw [doStaticBoundary_reached hb]
  simp [hw, hc]

end

/-! ## INITIATOR_TIMEOUT (R254) -/

theorem doInitiatorTimeout_running {s : State} {cls port tag : Nat} {r : Req} (h : reqOf cls port tag s = some r)
    (he : expired r s = false) : doInitiatorTimeout cls port tag s = s := by
  simp [doInitiatorTimeout, h, he]

theorem doInitiatorTimeout_pageRequest {s : State} {cls port tag a b : Nat} {r : Req} (h : reqOf cls port tag s = some r)
    (hp : r.purpose = .pri a b) : doInitiatorTimeout cls port tag s = s := by
  simp [doInitiatorTimeout, h, hp]

theorem doInitiatorTimeout_expired {s : State} {cls port tag : Nat} {r : Req} (h : reqOf cls port tag s = some r)
    (he : expired r s = true) (hp : ∀ a b, r.purpose ≠ .pri a b) : doInitiatorTimeout cls port tag s =
      timedOut r (if cls = 3 ∧ port = 77 then reportAer r.fn 4 (noteTimeout r s) else noteTimeout r s) := by
  simp only [doInitiatorTimeout, h, he, Bool.not_true, Bool.false_eq_true, if_false]

/-! ## Tombstones and late completions (R255) -/

theorem doTombstoneExpire_frees {s : State} {cls port tag : Nat} {t : Tomb}
    (h : s.timers.tombs.find? (fun t => t.cls == cls && t.port == port && t.tag == tag && due t.till s) = some t) :
    doTombstoneExpire cls port tag s = pumpAll { s with timers := { s.timers with tombs := s.timers.tombs.erase t } } := by
  simp only [doTombstoneExpire, h]

theorem doTombstoneExpire_none {s : State} (h : ∀ t ∈ s.timers.tombs, now16 s < t.till) (cls port tag : Nat) :
    doTombstoneExpire cls port tag s = s := by
  have hn : s.timers.tombs.find? (fun t => t.cls == cls && t.port == port && t.tag == tag && due t.till s) = none := by
    rw [List.find?_eq_none]
    intro t ht
    simp [due, h t ht]
  simp only [doTombstoneExpire, hn]

theorem doLateCompletionDrop_quarantined {s : State} {cls port tag : Nat} {t : Tomb} (ht : t ∈ s.timers.tombs)
    (hc : t.cls = cls) (hg : t.tag = tag) (hp : samePort cls t.port port = true) :
    doLateCompletionDrop cls port tag s = bump TMO_COUNT_LATE_DROP 0 1 s :=
  if_pos (List.any_eq_true.2 ⟨t, ht, by simp [hc, hg, hp]⟩)

theorem doLateCompletionDrop_none {s : State} (h : s.timers.tombs = []) (cls port tag : Nat) :
    doLateCompletionDrop cls port tag s = s := by
  simp [doLateCompletionDrop, h]

/-! ## Requests held by their target (R253, R256) -/

section
variable {s : State} {k id : Nat} {o : OnDie} (h : atTarget k id s = some o)
include h

theorem doHeldNotice_pauses (hs : o.heldSince = none) (ht : targetHolds o s = true) : doHeldNotice k id s =
    pauseReqs (ofEntry o) (setAtTarget o (fun x => { x with heldSince := some (now16 s) }) s) := by
  simp [doHeldNotice, h, hs, ht]

theorem doHeldNotice_free (ht : targetHolds o s = false) : doHeldNotice k id s = s := by
  simp [doHeldNotice, h, ht]

theorem doResumedNotice_resumes {t : Nat} (hs : o.heldSince = some t) (ht : targetHolds o s = false) : doResumedNotice k id s =
    resumeReqs (ofEntry o) (setAtTarget o (fun x => { x with heldSince := none, heldFor := x.heldFor + (now16 s - t) }) s) := by
  simp [doResumedNotice, h, hs, ht]

theorem doResumedNotice_notHeld (hs : o.heldSince = none) : doResumedNotice k id s = s := by
  simp [doResumedNotice, h, hs]

theorem doTargetAbandon_late (hs : o.heldSince = none) (ht : o.at16 + o.heldFor + o.limit < now16 s) : doTargetAbandon k id s =
    dropOnDie k id (setMesh (fun m => { m with held := m.held.filter (fun x => !decide (x = o)) }) s) := by
  simp [doTargetAbandon, h, hs, due, Nat.succ_le_of_lt ht]

theorem doTargetAbandon_waits (ht : o.heldSince ≠ none ∨ now16 s ≤ o.at16 + o.heldFor + o.limit) : doTargetAbandon k id s = s := by
  obtain ht | ht := ht
  · simp [doTargetAbandon, h, Option.isSome_iff_ne_none.2 ht]
  · have hd : due (o.at16 + o.heldFor + o.limit + 1) s = false := decide_eq_false (Nat.not_le.2 (Nat.lt_succ_of_le ht))
    simp only [doTargetAbandon, h, hd, Bool.not_false, Bool.or_true, if_true]

end

/-- Settles O35: packets, gating, time limits, boundaries and timeouts, each by the case of its operation that applies. -/
theorem meshAndRequestTimeouts : Obligations.MeshAndRequestTimeouts := by
  unfold Obligations.MeshAndRequestTimeouts
  refine ⟨fun s s1 hs => ⟨?_, ?_, ?_, ?_, ?_, ?_, ?_, ?_, ?_, ?_, ?_⟩,
    fun s hs => ⟨?_, ?_, ?_, ?_, ?_, ?_, ?_, ?_, ?_, ?_, ?_, ?_, ?_, ?_⟩⟩
  · rintro vn pl src dst f h rfl hp
    exact ⟨next_clocked hs (doMeshPacketDeliver_taken h hp 0), next_clocked hs (doMeshPacketDeliver_taken h hp 1),
      next_clocked hs (doMeshPacketDeliver_taken h hp 2), next_clocked hs (doMeshPacketDeliver_taken h hp 3)⟩
  · rintro vn pl src dst f h rfl hp
    exact next_clocked hs (doMeshPacketDeliver_untaken h hp)
  · exact fun vn pl src dst err h => next_clocked hs (doMeshPacketDeliver_none h err)
  · exact fun r hr he hg hi => next_clocked hs (doRouterGate_idle hr he hg hi)
  · exact fun r h => next_clocked hs (doRouterGate_off h r)
  · exact fun h v => ⟨next_clocked hs (doTmoWrite_onDie h v), next_clocked hs (doTmoWrite_site h v),
      next_clocked hs (doTmoWrite_syrel h v)⟩
  · exact fun h c v => next_clocked hs (doTmoWrite_locked h c v)
  · rintro hb rfl hw ho hq hc
    exact next_clocked hs (doStaticBoundary_refused hb hw ho hq hc)
  · rintro hb rfl hw ho hq hc
    exact next_clocked hs (doStaticBoundary_activates hb hw ho hq hc)
  · rintro hb rfl hw hc
    exact next_clocked hs (doStaticBoundary_endsConf hb hw hc)
  · exact fun h => next_clocked hs (doStaticBoundary_between h)
  · intro cls port tag r h he hp hn
    exact next_clocked hs ((doInitiatorTimeout_expired h he hp).trans (by rw [if_neg (fun h => hn.elim (· h.1) (· h.2))]; rfl))
  · exact fun tag r h he hp => next_clocked hs (doInitiatorTimeout_expired h he hp)
  · exact fun cls port tag r a b h hp => next_clocked hs (doInitiatorTimeout_pageRequest h hp)
  · exact fun cls port tag r h he => next_clocked hs (doInitiatorTimeout_running h he)
  · exact fun cls port tag t h => next_clocked hs (doTombstoneExpire_frees h)
  · exact fun cls port tag h => next_clocked hs (doTombstoneExpire_none h cls port tag)
  · exact fun cls port tag t ht hc hg hp => next_clocked hs (doLateCompletionDrop_quarantined ht hc hg hp)
  · exact fun cls port tag h => next_clocked hs (doLateCompletionDrop_none h cls port tag)
  · exact fun k id o h hn ht => next_clocked hs (doHeldNotice_pauses h hn ht)
  · exact fun k id o h ht => next_clocked hs (doHeldNotice_free h ht)
  · exact fun k id o t h hn ht => next_clocked hs (doResumedNotice_resumes h hn ht)
  · exact fun k id o h hn => next_clocked hs (doResumedNotice_notHeld h hn)
  · exact fun k id o h hn ht => next_clocked hs (doTargetAbandon_late h hn ht)
  · exact fun k id o h ht => next_clocked hs (doTargetAbandon_waits h ht)

end Sys2Proof.Machine

namespace Sys2Proof.Machine

open Sys2Proof

/-! # Configuration requests and the windows of BAR 2 and BAR 4 (R229, R241, R313, R317, R323, R326, R327) -/

/-! ## Configuration requests -/

/-- The completion `c` of a configuration request of function `n`, with the bytes of a read. -/
def cfgCompletion (n tag c : Nat) (d : List Byte) : Out := { kind := .cfgCpl, dest := n, tag := tag, args := [c], data := d }

theorem cfgRetry_notReady {s : State} (h : cfgReady s = false) (n : Nat) (r : CfgReg) (w : Option Nat) : cfgRetry n r w s = true := by
  simp [cfgRetry, h]

theorem cfgRetry_flr {n : Nat} {s : State} (h : (fnCfg n s).flrAt.isSome = true) (r : CfgReg) (w : Option Nat) :
    cfgRetry n r w s = true := by
  simp [cfgRetry, h]

/-- A request to a TDI in ERROR is retried unless it is the write that initiates an FLR. -/
theorem cfgRetry_error {n : Nat} {s : State} {r : CfgReg} {w : Option Nat} (h0 : n ≠ 0) (ht : rd FUNC_CFG_TDI n s = 3)
    (hw : ¬∃ v, r = .devctl ∧ w = some v ∧ bit v 15 = true) : cfgRetry n r w s = true := by
  unfold cfgRetry
  split
  next v => simp [h0, ht, show bit v 15 = false by simpa using hw]
  next => simp [h0, ht]

section
variable {n : Nat} {s : State} {r : CfgReg} (hc : cfgReady s = true) (hf : (fnCfg n s).flrAt = none)
include hc hf

theorem cfgRetry_taken (w : Option Nat) (ht : n = 0 ∨ rd FUNC_CFG_TDI n s ≠ 3) : cfgRetry n r w s = false := by
  simp only [cfgRetry, hc, hf]
  obtain ht | ht := ht <;> simp [ht]

theorem cfgRetry_initiateFlr {v : Nat} (hr : r = .devctl) (hv : bit v 15 = true) : cfgRetry n r (some v) s = false := by
  simp [cfgRetry, hc, hf, hr, hv]

end

section
variable {n : Nat} {r : CfgReg} {w : Option Nat} {s s1 : State} (h1 : s1 = raiseWake 0x13 (n % 64) s)
include h1

theorem doConfigRequest_retry (h : cfgRetry n r w s1 = true) (tag : Nat) :
    doConfigRequest n r w tag s = emit (cfgCompletion n tag 2 []) s1 := by
  subst h1
  simp only [doConfigRequest, h]
  rfl

theorem doConfigRequest_absent (h : cfgRetry n r w s1 = false) (hn : 64 ≤ n) (tag : Nat) :
    doConfigRequest n r w tag s = emit (cfgCompletion n tag 1 []) s1 := by
  subst h1
  simp only [doConfigRequest, h, hn, true_or]
  rfl

theorem doConfigRequest_read (h : cfgRetry n r none s1 = false) (hn : n < 64) (hv : n = 0 ∨ s1.host.vfEnable = true) (tag : Nat) :
    doConfigRequest n r none tag s = emit (cfgCompletion n tag 0 (toBytes 4 (cfgRead n r s1).1)) (cfgRead n r s1).2 := by
  subst h1
  have ha : ¬(64 ≤ n ∨ (n ≠ 0 ∧ !(raiseWake 0x13 (n % 64) s).host.vfEnable)) := by
    obtain hv | hv := hv <;> simp [hn, hv]
  simp only [doConfigRequest, h, if_neg ha]
  rfl

theorem doConfigRequest_write {v : Nat} (h : cfgRetry n r (some v) s1 = false) (hn : n < 64) (hv : n = 0 ∨ s1.host.vfEnable = true)
    (tag : Nat) : doConfigRequest n r (some v) tag s = emit (cfgCompletion n tag 0 []) (cfgWrite n r v s1) := by
  subst h1
  have ha : ¬(64 ≤ n ∨ (n ≠ 0 ∧ !(raiseWake 0x13 (n % 64) s).host.vfEnable)) := by
    obtain hv | hv := hv <;> simp [hn, hv]
  simp only [doConfigRequest, h, if_neg ha]
  rfl

end

/-! ## Windows -/

/-- What makes an access of BAR 2 an Unsupported Request (R229, R315). -/
theorem window2_refused_iff (off size : Nat) (s : State) :
    (!memSpace 0 s || decide (8 ≤ off / 2 ^ 24) || !(size == 4 || size == 8) || off % 2 ^ 24 % size != 0) = true ↔
      memSpace 0 s = false ∨ 8 ≤ off / 2 ^ 24 ∨ (size ≠ 4 ∧ size ≠ 8) ∨ off % 2 ^ 24 % size ≠ 0 := by
  simp only [Bool.or_eq_true, Bool.not_eq_true', decide_eq_true_eq, bne_iff_ne, Bool.or_eq_false_iff, beq_eq_false_iff_ne,
    or_assoc]

section
variable {s s1 : State} (h1 : s1 = raiseWake 0x13 0 s)
include h1

theorem doBar2Access_poisoned (off size v tag : Nat) : doBar2Access off size true v tag true s =
    if memSpace 0 s1 then poisonedTlp 0 2 off s1 else unsupportedReq 0 0 true s1 := by
  subst h1
  rfl

theorem doApertureAccess_poisoned (a len tag : Nat) (d : List Byte) : doApertureAccess a len true d tag true s =
    if memSpace 0 s1 then poisonedTlp 0 4 (2 ^ 39 + a) s1 else unsupportedReq 0 0 true s1 := by
  subst h1
  rfl

theorem doBar4SiteWindowAccess_poisoned (off size tag : Nat) (d : List Byte) : doBar4SiteWindowAccess off size true d tag false true s =
    if memSpace 0 s1 then poisonedTlp 0 4 off s1 else unsupportedReq 0 0 true s1 := by
  subst h1
  rfl

variable {off size : Nat} (w : Bool) (v tag : Nat)

theorem doBar2Access_bad (h : memSpace 0 s1 = false ∨ 8 ≤ off / 2 ^ 24 ∨ (size ≠ 4 ∧ size ≠ 8) ∨ off % 2 ^ 24 % size ≠ 0) :
    doBar2Access off size w v tag false s = unsupportedReq 0 tag w s1 := by
  subst h1
  simp only [doBar2Access, Bool.and_false, Bool.false_eq_true, if_false]
  exact if_pos ((window2_refused_iff off size _).2 h)

section
variable (hm : memSpace 0 s1 = true) (hj : off / 2 ^ 24 < 8) (hz : size = 4 ∨ size = 8) (ha : off % 2 ^ 24 % size = 0)
include hm hj hz ha

/-- A good access of BAR 2 goes to a READY site, by its protocol; another site answers all ones. -/
theorem doBar2Access_good : doBar2Access off size w v tag false s =
    (if !siteOn (off / 2 ^ 24) s1 || !rdb SITE_CTL_ENABLE (off / 2 ^ 24) s1 || !siteReady (off / 2 ^ 24) s1 then allOnes size tag w s1
     else if siteCxl (off / 2 ^ 24) (addAcc (off / 2 ^ 24) size tag w false s1) then
       cxlForward (off / 2 ^ 24) 0x21 s1.host.nextAcc (off % 2 ^ 24) size w (if w then toBytes size v else [])
         (addAcc (off / 2 ^ 24) size tag w false s1)
     else zcpSend (off / 2 ^ 24)
       { opc := if w then 0x0C else 0x0B, cls := 1,
         hdr := hdrM (if w then 0x0C else 0x0B) (size == 8) (off % 2 ^ 24) (if w then wrap (8 * size) v else 0),
         purpose := some (.window (off / 2 ^ 24) s1.host.nextAcc w) } (addAcc (off / 2 ^ 24) size tag w false s1)) := by
  subst h1
  have hb : ¬(!memSpace 0 (raiseWake 0x13 0 s) || decide (8 ≤ off / 2 ^ 24) || !(size == 4 || size == 8) ||
      off % 2 ^ 24 % size != 0) = true := by
    rw [window2_refused_iff]
    rintro (h | h | ⟨h4, h8⟩ | h)
    · exact absurd (hm.symm.trans h) (by decide)
    · exact absurd h (Nat.not_le.2 hj)
    · exact hz.elim h4 h8
    · exact h ha
  simp only [doBar2Access, Bool.and_false, Bool.false_eq_true, if_false, if_neg hb]

theorem doBar2Access_notReady (hr : siteReady (off / 2 ^ 24) s1 = false) : doBar2Access off size w v tag false s =
    if w then s1 else hostCpl tag 0 (List.replicate size 0xFF) s1 := by
  rw [doBar2Access_good h1 w v tag hm hj hz ha, hr, Bool.not_false, Bool.or_true]
  rfl

variable (ho : siteOn (off / 2 ^ 24) s1 = true) (he : rdb SITE_CTL_ENABLE (off / 2 ^ 24) s1 = true)
  (hr : siteReady (off / 2 ^ 24) s1 = true)
include ho he hr

theorem doBar2Access_zcp (hx : siteCxl (off / 2 ^ 24) (addAcc (off / 2 ^ 24) size tag w false s1) = false) :
    doBar2Access off size w v tag false s = zcpSend (off / 2 ^ 24)
      { opc := if w then 0x0C else 0x0B, cls := 1,
        hdr := hdrM (if w then 0x0C else 0x0B) (size == 8) (off % 2 ^ 24) (if w then wrap (8 * size) v else 0),
        purpose := some (.window (off / 2 ^ 24) s1.host.nextAcc w) } (addAcc (off / 2 ^ 24) size tag w false s1) := by
  rw [doBar2Access_good h1 w v tag hm hj hz ha, ho, he, hr, hx]
  simp only [Bool.not_true, Bool.or_self, Bool.false_eq_true, if_false]

theorem doBar2Access_cxl (hx : siteCxl (off / 2 ^ 24) s1 = true) : doBar2Access off size w v tag false s =
    cxlForward (off / 2 ^ 24) 0x21 s1.host.nextAcc (off % 2 ^ 24) size w (if w then toBytes size v else [])
      (addAcc (off / 2 ^ 24) size tag w false s1) := by
  have hx' : siteCxl (off / 2 ^ 24) (addAcc (off / 2 ^ 24) size tag w false s1) = true := hx
  rw [doBar2Access_good h1 w v tag hm hj hz ha, ho, he, hr, hx']
  simp only [Bool.not_true, Bool.or_self, Bool.false_eq_true, if_false, if_true]

end
end

/-! ## Site memory windows of BAR 4 -/

theorem doBar4SiteWindowAccess_bad {s s1 : State} {off : Nat} (h1 : s1 = raiseWake 0x13 0 s)
    (h : memSpace 0 s1 = false ∨ 8 ≤ off / 2 ^ 36) (size tag : Nat) (w : Bool) (d : List Byte) :
    doBar4SiteWindowAccess off size w d tag false false s = unsupportedReq 0 tag w s1 := by
  subst h1
  have hb : (!memSpace 0 (raiseWake 0x13 0 s) || decide (8 ≤ off / 2 ^ 36)) = true := by
    simp only [Bool.or_eq_true, Bool.not_eq_true', decide_eq_true_eq]
    exact h
  simp only [doBar4SiteWindowAccess, Bool.and_false, Bool.not_false, Bool.true_and, Bool.false_eq_true, if_false, if_pos hb]

section
variable {s s1 : State} {off size : Nat} {st : Bool} (h1 : s1 = if st then s else raiseWake 0x13 0 s)
  (hm : st = false → memSpace 0 s1 = true) (hj : off / 2 ^ 36 < 8) (w : Bool) (d : List Byte) (tag : Nat)
include h1 hm hj

/-- An access of BAR 4 that a window of it takes, of the host or of a stylus, goes by the site and by its window's size. -/
theorem doBar4SiteWindowAccess_window : doBar4SiteWindowAccess off size w d tag st false s =
    (if siteOn (off / 2 ^ 36) s1 = false ∨ siteCxl (off / 2 ^ 36) s1 = false ∨
        rd SITE_MWIN_SIZE (off / 2 ^ 36) s1 * 2 ^ 30 < off % 2 ^ 36 + size then
      answerAcc st w tag (List.replicate size 0) s1
    else if siteReady (off / 2 ^ 36) s1 = false then answerAcc st w tag (List.replicate size 0xFF) s1
    else cxlForward (off / 2 ^ 36) 0x22 s1.host.nextAcc (rd SITE_MWIN_HDM_BASE (off / 2 ^ 36) s1 + off % 2 ^ 36) size w d
      (addAcc (off / 2 ^ 36) size tag w st s1)) := by
  have hb : ¬(!st && (!memSpace 0 s1 || decide (8 ≤ off / 2 ^ 36))) = true := by
    cases st
    case true => simp
    case false => simp only [hm rfl, decide_eq_false (Nat.not_le.2 hj), Bool.not_true, Bool.or_self, Bool.and_false]; decide
  unfold doBar4SiteWindowAccess
  rw [← h1]
  simp only [Bool.and_false, Bool.false_eq_true, if_false, if_neg hb]
  simp only [Nat.not_le.2 hj, false_or, Bool.not_eq_true']

end

/-- Settles O27: a request is retried, absent or taken, and an access of a window is poisoned, bad, refused by its site or sent on. -/
theorem configAndWindowAccesses : Obligations.ConfigAndWindowAccesses := by
  unfold Obligations.ConfigAndWindowAccesses
  intro s s1 n tag hs
  refine ⟨?_, ?_, ?_, ?_, ?_, ?_, ?_, ?_, ?_, ?_, ?_, ?_, ?_, ?_, ?_, ?_, ?_, ?_⟩
  · exact fun r w h1 h => next_clocked hs (doConfigRequest_retry h1 (cfgRetry_notReady h n r w) tag)
  · exact fun r w h1 ⟨h0, ht, hw⟩ => next_clocked hs (doConfigRequest_retry h1 (cfgRetry_error h0 ht hw) tag)
  · exact fun r w h1 h => next_clocked hs (doConfigRequest_retry h1 (cfgRetry_flr h r w) tag)
  · exact fun r w h1 hn h => next_clocked hs (doConfigRequest_absent h1 h hn tag)
  · exact fun r h1 hn hc hf ht hv => next_clocked hs (doConfigRequest_read h1 (cfgRetry_taken hc hf none ht) hn hv tag)
  · intro r v h1 hn hc hf ht hv
    have hy : cfgRetry n r (some v) s1 = false := by
      obtain ht | ht | ⟨hr, hb⟩ := ht
      · exact cfgRetry_taken hc hf (some v) (.inl ht)
      · exact cfgRetry_taken hc hf (some v) (.inr ht)
      · exact cfgRetry_initiateFlr hc hf hr hb
    exact next_clocked hs (doConfigRequest_write h1 hy hn hv tag)
  · exact fun off size v w h1 hm hj hz ha ho he hr hx => next_clocked hs (doBar2Access_zcp h1 w v tag hm hj hz ha ho he hr hx)
  · exact fun off size v h1 hm => next_clocked hs (doBar2Access_bad h1 false v tag (.inl hm))
  · exact fun off size v w h1 h => next_clocked hs (doBar2Access_bad h1 w v tag h)
  · exact fun off size v w h1 hm hj hz ha ho he hr hx => next_clocked hs (doBar2Access_cxl h1 w v tag hm hj hz ha ho he hr hx)
  · exact fun off size v w h1 hm hj hz ha hr => next_clocked hs (doBar2Access_notReady h1 w v tag hm hj hz ha hr)
  · exact fun off size d w h1 h => next_clocked hs (doBar4SiteWindowAccess_bad h1 h size tag w d)
  · exact fun off size d w st h1 hm hj hx =>
      next_clocked hs ((doBar4SiteWindowAccess_window h1 hm hj w d tag).trans (if_pos hx))
  · intro off size d w st h1 hm hj ho hx hl hr
    refine next_clocked hs ((doBar4SiteWindowAccess_window h1 hm hj w d tag).trans ?_)
    simp only [ho, hx, hr, Nat.not_lt.2 hl, Bool.true_eq_false, or_self, if_false]
  · intro off size d w st h1 hm hj ho hx hl hr
    refine next_clocked hs ((doBar4SiteWindowAccess_window h1 hm hj w d tag).trans ?_)
    simp only [ho, hx, hr, Nat.not_lt.2 hl, Bool.true_eq_false, or_self, if_false, if_true]
  · exact fun off size v h1 => next_clocked hs (doBar2Access_poisoned h1 off size v tag)
  · exact fun off size d h1 => next_clocked hs (doBar4SiteWindowAccess_poisoned h1 off size tag d)
  · exact fun a len d h1 => next_clocked hs (doApertureAccess_poisoned h1 a len tag d)

end Sys2Proof.Machine

namespace Sys2Proof.Machine

open Sys2Proof

/-! # What a register command leaves unchanged (R13)

`RegFrame W a s` says it once: `s` differs from `a` in the fields of `W` and in the timers and outputs alone. Each operation that a
register command is made of keeps it, so each command does. -/

/-- The parts of the state that no register command touches. -/
def keptParts (s : State) : Mem × SMap Grv × Ses × Attn × SMap CalEntry × List Instr × Life × SMap Nat :=
  (s.mem, s.grv, s.ses, s.attn, s.cal.entries, s.pending, s.life, s.latches)

/-- `s` is what a command that writes only the fields of `W` may make of `a`. -/
structure RegFrame (W : List Fld) (a s : State) : Prop where
  parts : keptParts s = keptParts a
  regs : ∀ f i, i < 65536 → (∀ w ∈ W, f.code ≠ w.code) → rd f i s = rd f i a

section
variable {W : List Fld} {a s t : State}

theorem RegFrame.refl (W : List Fld) (s : State) : RegFrame W s s := ⟨rfl, fun _ _ _ _ => rfl⟩

/-- An update of another part of the state, which reads of registers do not see. -/
theorem RegFrame.same (h : RegFrame W a s) (hp : keptParts t = keptParts s) (hr : ∀ f i, rd f i t = rd f i s) : RegFrame W a t :=
  ⟨hp.trans h.parts, fun f i hi hf => (hr f i).trans (h.regs f i hi hf)⟩

theorem RegFrame.wr {w : Fld} (h : RegFrame W a s) (hw : w ∈ W) {j : Nat} (hj : j < 65536) (v : Nat) :
    RegFrame W a (wr w j v s) :=
  ⟨h.parts, fun f i hi hf => (rd_wr_other (hf w hw) hi hj v s).trans (h.regs f i hi hf)⟩

theorem RegFrame.ite {c : Prop} [Decidable c] (hs : RegFrame W a s) (ht : RegFrame W a t) : RegFrame W a (if c then s else t) := by
  split
  · exact hs
  · exact ht

theorem RegFrame.setPower (h : RegFrame W a s) (f : Power → Power) : RegFrame W a (setPower f s) := h.same rfl fun _ _ => rfl

theorem RegFrame.setRuling (h : RegFrame W a s) (f : Ruling → Ruling) : RegFrame W a (setRuling f s) := h.same rfl fun _ _ => rfl

theorem RegFrame.setMesh (h : RegFrame W a s) (f : Mesh → Mesh) : RegFrame W a (setMesh f s) := h.same rfl fun _ _ => rfl

theorem RegFrame.setSec (h : RegFrame W a s) (f : Sec → Sec) : RegFrame W a (setSec f s) := h.same rfl fun _ _ => rfl

theorem RegFrame.setFnCfg (h : RegFrame W a s) (n : Nat) (f : FnCfg → FnCfg) : RegFrame W a (setFnCfg n f s) :=
  h.same rfl fun _ _ => rfl

theorem RegFrame.setDs (h : RegFrame W a s) (p : Nat) (f : DsPort → DsPort) : RegFrame W a (setDs p f s) := h.same rfl fun _ _ => rfl

theorem RegFrame.emit (h : RegFrame W a s) (o : Out) : RegFrame W a (emit o s) := h.same rfl fun _ _ => rfl

theorem RegFrame.drew (h : RegFrame W a s) : RegFrame W a (drew s) := h.same rfl fun _ _ => rfl

theorem RegFrame.pauseReqs (h : RegFrame W a s) (p : Req → Bool) : RegFrame W a (pauseReqs p s) := h.same rfl fun _ _ => rfl

theorem RegFrame.resumeReqs (h : RegFrame W a s) (p : Req → Bool) : RegFrame W a (resumeReqs p s) := h.same rfl fun _ _ => rfl

/-- A field of `W` written at each index of a list. -/
theorem RegFrame.forEach_wr {w : Fld} {l : List Nat} (h : RegFrame W a s) (hw : w ∈ W)
    (hl : ∀ j ∈ l, j < 65536) (v : Nat → Nat) : RegFrame W a (forEach l (fun j s => Machine.wr w j (v j) s) s) := by
  induction l generalizing s with
  | nil => exact h
  | cons j t ih => exact ih (h.wr hw (hl j (by simp)) _) (fun i hi => hl i (by simp [hi]))

theorem RegFrame.clocked {f : State → State} (h : RegFrame W s (f s)) : RegFrame W s (clocked f s) := (RegFrame.refl W s).ite h

/-- A command that answers its clocked operation `f` has the frame that `f` has. -/
theorem RegFrame.of_next {f : State → State} (h : RegFrame W s (f s))
    (e : (.next (Machine.clocked f s) : Host.Outcome State Fault Refusal) = .next t) : RegFrame W s t := by
  cases e
  exact h.clocked

end

/-! ## The commands -/

theorem doSetupLockSet_frame (s : State) : RegFrame [HUB_GLOBAL_SETUP_LOCK] s (doSetupLockSet s) :=
  .ite ((RegFrame.refl _ s).wr (by simp) (by decide) 1) (.refl _ s)

theorem doRuleSyncMark_frame (s : State) : RegFrame [RULE_STATUS_PIN_REF_OK] s (doRuleSyncMark s) := by
  have h : RegFrame [RULE_STATUS_PIN_REF_OK] s (setB RULE_STATUS_PIN_REF_OK 0 s) := (RegFrame.refl _ s).wr (by simp) (by decide) 1
  exact h.ite (h.setRuling _)

theorem doCalCtlWrite_frame (en : Bool) (s : State) : RegFrame [CAL_CTL_ENABLE] s (doCalCtlWrite en s) :=
  (RegFrame.refl _ s).wr (by simp) (by decide) _

theorem doArrivalWrite_frame {g : Nat} (hg : g < 1024) (v : Nat) (s : State) : RegFrame [ARRIVAL_VALUE] s (doArrivalWrite g v s) :=
  .ite (.refl _ s) ((RegFrame.refl _ s).wr (by simp) (by omega) v)

theorem doRouterGate_frame (r : Nat) (s : State) : RegFrame [] s (doRouterGate r s) :=
  .ite ((RegFrame.refl _ s).setMesh _) (.refl _ s)

theorem doLateCompletionDrop_frame (cls port tag : Nat) (s : State) :
    RegFrame [TMO_COUNT_LATE_DROP] s (doLateCompletionDrop cls port tag s) :=
  .ite ((RegFrame.refl _ s).wr (by simp) (by decide) _) (.refl _ s)

theorem doHeldNotice_frame (k id : Nat) (s : State) : RegFrame [] s (doHeldNotice k id s) := by
  unfold doHeldNotice
  split
  next => exact .refl _ s
  next o _ => exact .ite (.refl _ s) (((RegFrame.refl _ s).setMesh _).pauseReqs _)

theorem doResumedNotice_frame (k id : Nat) (s : State) : RegFrame [] s (doResumedNotice k id s) := by
  unfold doResumedNotice
  split
  next => exact .refl _ s
  next o _ =>
    split
    next => exact .refl _ s
    next t _ => exact .ite (.refl _ s) (((RegFrame.refl _ s).setMesh _).resumeReqs _)

theorem doTmoWrite_frame (c v : Nat) (s : State) : RegFrame [TMO_ONDIE_US, TMO_SITE_US, TMO_SYREL_MS] s (doTmoWrite c v s) := by
  refine .ite (.refl _ s) ?_
  split
  · exact (RegFrame.refl _ s).wr (by simp) (by decide) _
  · exact (RegFrame.refl _ s).wr (by simp) (by decide) _
  · exact (RegFrame.refl _ s).wr (by simp) (by decide) _
  · exact .refl _ s

theorem doDevctl2Write_frame (v : Nat) (s : State) : RegFrame [TMO_HOST_US] s (doDevctl2Write v s) :=
  ((RegFrame.refl _ s).setFnCfg 0 _).wr (by simp) (by decide) _

theorem doDsPerstRelease_frame {p : Nat} (hp : p < 4) (s : State) : RegFrame [DS_STATUS_STATE] s (doDsPerstRelease p s) := by
  unfold doDsPerstRelease
  split
  next t _ => exact .ite (.refl _ s) ((((RegFrame.refl _ s).wr (by simp) (by omega) 2).setDs p _).emit _)
  next => exact .refl _ s

theorem doRingIdxWrite_frame {g : Nat} (hg : g < 8192) (next release : Option Nat) (s : State) :
    RegFrame [RING_IDX_NEXT, RING_IDX_RELEASE] s (doRingIdxWrite g next release s) := by
  have hn : RegFrame [RING_IDX_NEXT, RING_IDX_RELEASE] s (match next with | some v => wr RING_IDX_NEXT g v s | none => s) := by
    cases next with
    | none => exact .refl _ s
    | some v => exact (RegFrame.refl _ s).wr (by simp) (by omega) v
  refine .ite (.refl _ s) ?_
  cases release with
  | none => exact hn
  | some v => exact hn.wr (w := RING_IDX_RELEASE) (by simp) (by omega) v

theorem doLockInterfaceRequest_frame {n : Nat} (hn : n < 64) (sid : Nat) (s : State) :
    RegFrame [FUNC_CFG_TDI] s (doLockInterfaceRequest sid n s) :=
  .ite ((RegFrame.refl _ s).emit _) (.ite ((RegFrame.refl _ s).emit _) (.ite ((RegFrame.refl _ s).emit _)
    (((((RegFrame.refl _ s).wr (by simp) (by omega) 1).setSec _).drew).emit _)))

theorem doAvsRetryTimeout_frame (r : Nat) (s : State) : RegFrame [] s (doAvsRetryTimeout r s) := by
  unfold doAvsRetryTimeout
  split
  next => exact .refl _ s
  next a _ => exact .ite (.refl _ s) (((RegFrame.refl _ s).setPower _).emit _)

theorem doAvsAckTimeout_frame {r : Nat} (hr : r < 6) (s : State) :
    RegFrame [PWR_STATUS_RAIL_FAULT, PWR_RAIL_FAULT] s (doAvsAckTimeout r s) := by
  unfold doAvsAckTimeout
  split
  next => exact .refl _ s
  next a _ => exact .ite (.refl _ s) ((((RegFrame.refl _ s).setPower _).wr (by simp) (by omega) 1).wr (by simp) (by decide) 1)

theorem doPmbusPoll_frame (mv ma : List Nat) (s : State) : RegFrame [PWR_RAIL_READ_MV] s (doPmbusPoll mv ma s) :=
  .ite (.refl _ s) (((RegFrame.refl _ s).setPower _).forEach_wr (by simp) (fun j hj => Nat.lt_trans (List.mem_range.1 hj) (by decide)) _)

theorem doDroopClear_frame (t : Nat) (s : State) : RegFrame [] s (doDroopClear t s) := by
  unfold doDroopClear
  split
  next since _ => exact .ite ((RegFrame.refl _ s).setPower _) (.refl _ s)
  next => exact .refl _ s

theorem doSupplyDipStart_frame (rails : Nat) (s : State) : RegFrame [PWR_STATUS_STRETCH] s (doSupplyDipStart rails s) :=
  ((RegFrame.refl _ s).setPower _).wr (by simp) (by decide) 1

/-- Every well-formed command that `registerCommandWrites` names keeps the frame of its fields. -/
theorem exec_registerCommand_frame {c : Instr} {W : List Fld} {s t : State} (hW : registerCommandWrites c = some W)
    (hc : c.wf = true) (he : exec c s = .next t) : RegFrame W s t := by
  unfold registerCommandWrites at hW
  split at hW <;> cases hW
  case h_1 => exact .of_next (doSetupLockSet_frame s) he
  case h_2 => exact .of_next (doRuleSyncMark_frame s) he
  case h_3 en => exact .of_next (doCalCtlWrite_frame en s) he
  case h_4 g v =>
    simp only [Instr.wf, Bool.and_eq_true, decide_eq_true_eq] at hc
    exact .of_next (doArrivalWrite_frame hc.1 v s) he
  case h_5 r => exact .of_next (doRouterGate_frame r s) he
  case h_6 cls port tag => exact .of_next (doLateCompletionDrop_frame cls port tag s) he
  case h_7 k id => exact .of_next (doHeldNotice_frame k id s) he
  case h_8 k id => exact .of_next (doResumedNotice_frame k id s) he
  case h_9 cls v => exact .of_next (doTmoWrite_frame cls v s) he
  case h_10 v => exact .of_next (doDevctl2Write_frame v s) he
  case h_11 p => exact .of_next (doDsPerstRelease_frame (of_decide_eq_true hc) s) he
  case h_12 g next release =>
    simp only [Instr.wf, ringNo, Bool.and_eq_true, decide_eq_true_eq] at hc
    exact .of_next (doRingIdxWrite_frame hc.1.1 next release s) he
  case h_13 sid n => exact .of_next (doLockInterfaceRequest_frame (of_decide_eq_true hc) sid s) he
  case h_14 r => exact .of_next (doAvsRetryTimeout_frame r s) he
  case h_15 r => exact .of_next (doAvsAckTimeout_frame (of_decide_eq_true hc) s) he
  case h_16 mv ma => exact .of_next (doPmbusPoll_frame mv ma s) he
  case h_17 t => exact .of_next (doDroopClear_frame t s) he
  case h_18 rails => exact .of_next (doSupplyDipStart_frame rails s) he

/-- Settles O47, from the frame that each of the commands keeps. -/
theorem registerCommandFrames : Obligations.RegisterCommandFrames := by
  unfold Obligations.RegisterCommandFrames
  intro c W s t hW hc he
  obtain ⟨hp, hr⟩ := exec_registerCommand_frame hW hc he
  simp only [keptParts, Prod.mk.injEq] at hp
  obtain ⟨hm, hg, hs, ha, hcal, hq, hl, hla⟩ := hp
  exact ⟨fun off => by simp only [storedByte, hm], hg, hs, ha, hcal, hq, hl, hla, hr⟩

end Sys2Proof.Machine

namespace Sys2Proof.Machine

open Sys2Proof

/-! # Accesses to the registers of BAR 0 (R25, R26, R323, R503; log entry 164) -/

/-! ## Which accesses R26 allows -/

theorem accessOk_four {fn off : Nat} (ha : off % 4 = 0) (hb : off + 4 ≤ barSize fn) : accessOk fn off 4 = true := by
  simp [accessOk, ha, hb]

theorem accessOk_eight {fn off : Nat} (ha : off % 8 = 0) (hb : off + 8 ≤ barSize fn) : accessOk fn off 8 = true := by
  simp [accessOk, ha, hb]

/-! ## The latch of a 64-bit register (R503) -/

section
variable {fn off : Nat} {s : State}

theorem readLatched_unlatched (h : latchAt fn off s = none) : readLatched fn off s = (readWord fn off s, s) := by
  simp only [readLatched, h]

theorem readLatched_low {k : Nat} (h : latchAt fn off s = some (k, false)) :
    readLatched fn off s = (readWord fn off s, { s with latches := put k (readWord fn (off + 4) s) s.latches }) := by
  simp only [readLatched, h]

theorem readLatched_high {k : Nat} (h : latchAt fn off s = some (k, true)) :
    readLatched fn off s = ((look s.latches k).getD (readWord fn off s), { s with latches := del k s.latches }) := by
  simp only [readLatched, h]

end

section
variable {s s1 : State} {fn : Nat} (h1 : s1 = raiseWake 0x13 fn s)
include h1

/-! ## Accesses refused before they reach a register -/

theorem doRegLowHalfRead_closed (hm : memSpace fn s1 = false) (off size tag : Nat) :
    doRegLowHalfRead fn off size tag s = unsupportedReq fn tag false s1 := by
  subst h1
  simp [doRegLowHalfRead, hm]

theorem doBarAccessInvalid_closed (hm : memSpace fn s1 = false) (off size tag : Nat) (w : Bool) :
    doBarAccessInvalid fn (some 0) off size tag w s = unsupportedReq fn tag w s1 := by
  subst h1
  simp [doBarAccessInvalid, hm]

theorem doBarAccessInvalid_outside (off size tag : Nat) (w : Bool) :
    doBarAccessInvalid fn none off size tag w s = unsupportedReq fn tag w s1 := by
  subst h1
  rfl

theorem doRegWrite_closed (hm : memSpace fn s1 = false) (off size v : Nat) (p : Bool) :
    doRegWrite fn off size v p s = unsupportedReq fn 0 true s1 := by
  subst h1
  simp [doRegWrite, hm]

section
variable (hm : memSpace fn s1 = true)
include hm

/-- A poisoned write is dropped whatever its size and place (log entry 164). -/
theorem doRegWrite_poisoned (off size v : Nat) : doRegWrite fn off size v true s = poisonedTlp fn 0 off s1 := by
  subst h1
  simp [doRegWrite, hm]

section
variable {off size : Nat} (ha : accessOk fn off size = false)
include ha

theorem doRegLowHalfRead_refused (tag : Nat) : doRegLowHalfRead fn off size tag s = refuseAccess fn off tag false s1 := by
  subst h1
  simp [doRegLowHalfRead, hm, ha]

theorem doBarAccessInvalid_refused (tag : Nat) (w : Bool) :
    doBarAccessInvalid fn (some 0) off size tag w s = refuseAccess fn off tag w s1 := by
  subst h1
  simp [doBarAccessInvalid, hm, ha]

theorem doRegWrite_refused (v : Nat) : doRegWrite fn off size v false s = refuseAccess fn off 0 true s1 := by
  subst h1
  simp [doRegWrite, hm, ha]

end

/-! ## Accesses that act on the registers -/

theorem doRegLowHalfRead_eight {off : Nat} (ha : accessOk fn off 8 = true) (tag : Nat) :
    doRegLowHalfRead fn off 8 tag s =
      hostCpl tag 0 (toBytes 8 (readWord fn off s1 + 2 ^ 32 * readWord fn (off + 4) s1)) s1 := by
  subst h1
  simp [doRegLowHalfRead, hm, ha]

/-- A good read of 4 bytes answers, and leaves the latch, as `readLatched` gives them. -/
theorem doRegLowHalfRead_four {off : Nat} (ha : accessOk fn off 4 = true) {r : Nat × State} (hr : readLatched fn off s1 = r)
    (tag : Nat) : doRegLowHalfRead fn off 4 tag s = hostCpl tag 0 (toBytes 4 r.1) r.2 := by
  subst h1 hr
  simp [doRegLowHalfRead, hm, ha]

theorem doRegWrite_good {off size : Nat} (ha : accessOk fn off size = true) (v : Nat) :
    doRegWrite fn off size v false s = writeBar fn off size v s1 := by
  subst h1
  simp [doRegWrite, hm, ha]

end
end

theorem writeBar_four (fn off v : Nat) (s : State) : writeBar fn off 4 v s = guardTdis s (writeWord fn off v s) := rfl

theorem writeBar_eight (fn off v : Nat) (s : State) :
    writeBar fn off 8 v s = guardTdis s (writeWord fn (off + 4) (v / 2 ^ 32) (writeWord fn off v s)) := rfl

/-- Settles O14: an access is closed, poisoned, refused or good; a good read of 4 bytes goes by the latch at its place. -/
theorem registerAccesses : Obligations.RegisterAccesses := by
  unfold Obligations.RegisterAccesses
  intro s fn off size tag v hs
  refine ⟨?_, ?_, ?_, ?_, ?_, ?_, ?_, ?_, ?_, ?_, ?_, ?_, ?_, ?_⟩
  · rintro hm rfl ha hb
    exact next_clocked hs (doRegLowHalfRead_eight rfl hm (accessOk_eight ha hb) tag)
  · rintro hm rfl ha hb hl
    exact next_clocked hs (doRegLowHalfRead_four rfl hm (accessOk_four ha hb) (readLatched_unlatched hl) tag)
  · rintro k hm rfl ha hb hl
    exact next_clocked hs (doRegLowHalfRead_four rfl hm (accessOk_four ha hb) (readLatched_low hl) tag)
  · rintro k hm rfl ha hb hl
    exact next_clocked hs (doRegLowHalfRead_four rfl hm (accessOk_four ha hb) (readLatched_high hl) tag)
  · exact fun hm => next_clocked hs (doRegLowHalfRead_closed rfl hm off size tag)
  · exact fun hm ha => next_clocked hs (doRegLowHalfRead_refused rfl hm ha tag)
  · exact fun w hm ha => next_clocked hs (doBarAccessInvalid_refused rfl hm ha tag w)
  · exact fun w hm => next_clocked hs (doBarAccessInvalid_closed rfl hm off size tag w)
  · exact fun w => next_clocked hs (doBarAccessInvalid_outside rfl off size tag w)
  · exact fun hm ha hb => next_clocked hs ((doRegWrite_good rfl hm (accessOk_four ha hb) v).trans (writeBar_four fn off v _))
  · exact fun hm ha hb => next_clocked hs ((doRegWrite_good rfl hm (accessOk_eight ha hb) v).trans (writeBar_eight fn off v _))
  · exact fun hm ha => next_clocked hs (doRegWrite_refused rfl hm ha v)
  · exact fun p hm => next_clocked hs (doRegWrite_closed rfl hm off size v p)
  · exact fun hm => next_clocked hs (doRegWrite_poisoned rfl hm off size v)

end Sys2Proof.Machine

namespace Sys2Proof.Machine

open Sys2Proof

/-! # What a step keeps (R30, R32, R39, R41, R504)

Every operation keeps what `Keeps` says (Laws/Keeps*.lean); here every command but COLD_RESET does, and so every step but one. -/

section
variable {s t : State}

theorem keeps_of_next {f : State → State} (he : (.next (clocked f s) : Host.Outcome State Fault Refusal) = .next t)
    (hf : ∀ {y}, Keeps s y → Keeps s (f y)) : Keeps s t := by
  cases he
  exact clocked_keeps f (fun _ => hf) (Keeps.refl s)

/-- Every command but COLD_RESET, by what the operation that is its meaning keeps. -/
theorem exec_keeps {c : Instr} (hc : ∀ f, c ≠ .coldReset f) (he : exec c s = .next t) : Keeps s t := by
  cases c with
  | regWrite fn off size v poison => exact keeps_of_next he (doRegWrite_keeps fn off size v poison)
  | setupLockSet => exact keeps_of_next he doSetupLockSet_keeps
  | regLowHalfRead fn off size tag => exact keeps_of_next he (doRegLowHalfRead_keeps fn off size tag)
  | barAccessInvalid fn bar off size tag write => exact keeps_of_next he (doBarAccessInvalid_keeps fn bar off size tag write)
  | ruleCtlWrite role parent alt altEn => exact keeps_of_next he (doRuleCtlWrite_keeps role parent alt altEn)
  | ruleSegment g k => exact keeps_of_next he (doRuleSegment_keeps g k)
  | exchangeSymbolTx p => exact keeps_of_next he (doExchangeSymbolTx_keeps p)
  | exchangeSymbolRx p c => exact keeps_of_next he (doExchangeSymbolRx_keeps p c)
  | delayRemeasure p => exact keeps_of_next he (doDelayRemeasure_keeps p)
  | segmentApply => exact keeps_of_next he doSegmentApply_keeps
  | ruleSyncMark => exact keeps_of_next he doRuleSyncMark_keeps
  | ruleSyncFrame f => exact keeps_of_next he (doRuleSyncFrame_keeps f)
  | parentSilenceTimeout => exact keeps_of_next he doParentSilenceTimeout_keeps
  | lockLossTimeout => exact keeps_of_next he doLockLossTimeout_keeps
  | ruleRefLoss => exact keeps_of_next he doRuleRefLoss_keeps
  | holdRelease => exact keeps_of_next he doHoldRelease_keeps
  | beaconSend => exact keeps_of_next he doBeaconSend_keeps
  | calArm a => exact keeps_of_next he (doCalArm_keeps a)
  | calCancel a => exact keeps_of_next he (doCalCancel_keeps a)
  | calFire ix => exact keeps_of_next he (doCalFire_keeps ix)
  | calGateTimeout ix => exact keeps_of_next he (doCalGateTimeout_keeps ix)
  | calCtlWrite en => exact keeps_of_next he (doCalCtlWrite_keeps en)
  | arrivalWrite g v => exact keeps_of_next he (doArrivalWrite_keeps g v)
  | calLowPowerExit => exact keeps_of_next he doCalLowPowerExit_keeps
  | graverLoad g k => exact keeps_of_next he (doGraverLoad_keeps g k)
  | graverLaunch g k => exact keeps_of_next he (doGraverLaunch_keeps g k)
  | launchStart t => exact keeps_of_next he (doLaunchStart_keeps t)
  | graverNop t => exact keeps_of_next he (engineIssue_keeps t 0x00)
  | fma t => exact keeps_of_next he (engineIssue_keeps t 0x01)
  | add t => exact keeps_of_next he (engineIssue_keeps t 0x02)
  | mul t => exact keeps_of_next he (engineIssue_keeps t 0x03)
  | min t => exact keeps_of_next he (engineIssue_keeps t 0x04)
  | max t => exact keeps_of_next he (engineIssue_keeps t 0x05)
  | cmp t => exact keeps_of_next he (engineIssue_keeps t 0x06)
  | sel t => exact keeps_of_next he (engineIssue_keeps t 0x07)
  | cvt t => exact keeps_of_next he (engineIssue_keeps t 0x08)
  | scale2 t => exact keeps_of_next he (engineIssue_keeps t 0x09)
  | ex2 t => exact keeps_of_next he (engineIssue_keeps t 0x0A)
  | rcp t => exact keeps_of_next he (engineIssue_keeps t 0x0B)
  | mov t => exact keeps_of_next he (engineIssue_keeps t 0x0C)
  | mop t => exact keeps_of_next he (engineIssue_keeps t 0x0D)
  | pwait t => exact keeps_of_next he (engineIssue_keeps t 0x10)
  | prel t => exact keeps_of_next he (engineIssue_keeps t 0x11)
  | launchComplete t => exact keeps_of_next he (doLaunchComplete_keeps t)
  | launchTimeout t => exact keeps_of_next he (doLaunchTimeout_keeps t)
  | panelLoadDone t b => exact keeps_of_next he (doPanelLoadDone_keeps t b)
  | panelDrainDone t b => exact keeps_of_next he (doPanelDrainDone_keeps t b)
  | kvPoolAdd g k => exact keeps_of_next he (doKvPoolAdd_keeps g k)
  | sesCreate g k => exact keeps_of_next he (doSesCreate_keeps g k)
  | kvAppend g k => exact keeps_of_next he (doKvAppend_keeps g k)
  | sesFork g k => exact keeps_of_next he (doSesFork_keeps g k)
  | sesPark g k => exact keeps_of_next he (doSesPark_keeps g k)
  | sesRestore g k => exact keeps_of_next he (doSesRestore_keeps g k)
  | sesMirror g k ans => exact keeps_of_next he (doSesMirror_keeps g k ans)
  | sesMigrate g k ans => exact keeps_of_next he (doSesMigrate_keeps g k ans)
  | sesDelete g k => exact keeps_of_next he (doSesDelete_keeps g k)
  | sesQuery g k => exact keeps_of_next he (doSesQuery_keeps g k)
  | streamAdmit g k => exact keeps_of_next he (doStreamAdmit_keeps g k)
  | streamRetire g k => exact keeps_of_next he (doStreamRetire_keeps g k)
  | dsDeviceCompletion p tag outcome data => exact keeps_of_next he (doDsDeviceCompletion_keeps p tag outcome data)
  | attnBatch g k => exact keeps_of_next he (doAttnBatch_keeps g k)
  | attnBatchStart => exact keeps_of_next he doAttnBatchStart_keeps
  | attnItemComplete t => exact keeps_of_next he (doAttnItemComplete_keeps t)
  | memRead j ch errs again slot => exact keeps_of_next he (doMemRead_keeps j ch errs again slot)
  | memWrite j ch errs again slot => exact keeps_of_next he (doMemWrite_keeps j ch errs again slot)
  | patrolScrub errs again => exact keeps_of_next he (doPatrolScrub_keeps errs again)
  | mr4Poll j ch raw cat => exact keeps_of_next he (doMr4Poll_keeps j ch raw cat)
  | chanRetrainDone j ch ok => exact keeps_of_next he (doChanRetrainDone_keeps j ch ok)
  | moveFrameCopy errs again => exact keeps_of_next he (doMoveFrameCopy_keeps errs again)
  | keySlotWithdraw k fresh => exact keeps_of_next he (doKeySlotWithdraw_keeps k fresh)
  | scRequest k fn line wrt data mask err flit dl => exact keeps_of_next he (doScRequest_keeps k fn line wrt data mask err flit dl)
  | bucketMoveDone => exact keeps_of_next he doBucketMoveDone_keeps
  | rdS j err => exact keeps_of_next he (doCoherent_keeps j 0x01 err .rdS)
  | rdX j err => exact keeps_of_next he (doCoherent_keeps j 0x02 err .rdX)
  | upg j err => exact keeps_of_next he (doCoherent_keeps j 0x03 err .upg)
  | rdOnce j err => exact keeps_of_next he (doRdOnce_keeps j err)
  | wrP j err => exact keeps_of_next he (doWrP_keeps j err)
  | wb j => exact keeps_of_next he (doWb_keeps j)
  | invAck j => exact keeps_of_next he (doInvAck_keeps j)
  | snpData j => exact keeps_of_next he (doSnpData_keeps j)
  | grantAck j => exact keeps_of_next he (doGrantAck_keeps j)
  | lineDequeue line => exact keeps_of_next he (doLineDequeue_keeps line)
  | homeRead k id fn off len flit err => exact keeps_of_next he (doHomeRead_keeps k id fn off len flit err)
  | homeWrite k id fn line data mask flit err => exact keeps_of_next he (doHomeWrite_keeps k id fn line data mask flit err)
  | homeAtomic k id fn off len op a b flit err => exact keeps_of_next he (doHomeAtomic_keeps k id fn off len op a b flit err)
  | cxlCacheMessage j msg tag line data mask err => exact keeps_of_next he (doCxlCacheMessage_keeps j msg tag line data mask err)
  | zcpFlitRx j k retries ctrl slots => exact keeps_of_next he (doZcpFlitRx_keeps j k retries ctrl slots)
  | arrive j => exact keeps_of_next he (doArrive_keeps j)
  | pwrReq j => exact keeps_of_next he (doPwrReq_keeps j)
  | mgmtAck j => exact keeps_of_next he (doMgmtAck_keeps j)
  | chipEvent j => exact keeps_of_next he (doChipEvent_keeps j)
  | mmioData j => exact keeps_of_next he (doMmioData_keeps j)
  | zcpCmp j => exact keeps_of_next he (doZcpCmp_keeps j)
  | moduleDown j k unacked => exact keeps_of_next he (doModuleDown_keeps j k unacked)
  | siteRetrainDone j mods => exact keeps_of_next he (doSiteRetrainDone_keeps j mods)
  | siteFence j => exact keeps_of_next he (doSiteFence_keeps j)
  | siteReset j => exact keeps_of_next he (doSiteReset_keeps j)
  | siteQuiesceTimeout j => exact keeps_of_next he (doSiteQuiesceTimeout_keeps j)
  | siteResetRelease j f => exact keeps_of_next he (doSiteResetRelease_keeps j f)
  | siteReady j => exact keeps_of_next he (doSiteReady_keeps j)
  | cxlIoWrite j tag off len wrt data => exact keeps_of_next he (doCxlIoWrite_keeps j tag off len wrt data)
  | meshPacketDeliver vn plane src dst err => exact keeps_of_next he (doMeshPacketDeliver_keeps vn plane src dst err)
  | routerGate r => exact keeps_of_next he (doRouterGate_keeps r)
  | initiatorTimeout cls port tag => exact keeps_of_next he (doInitiatorTimeout_keeps cls port tag)
  | tombstoneExpire cls port tag => exact keeps_of_next he (doTombstoneExpire_keeps cls port tag)
  | lateCompletionDrop cls port tag => exact keeps_of_next he (doLateCompletionDrop_keeps cls port tag)
  | heldNotice k id => exact keeps_of_next he (doHeldNotice_keeps k id)
  | resumedNotice k id => exact keeps_of_next he (doResumedNotice_keeps k id)
  | targetAbandon k id => exact keeps_of_next he (doTargetAbandon_keeps k id)
  | tmoWrite cls v => exact keeps_of_next he (doTmoWrite_keeps cls v)
  | staticBoundary => exact keeps_of_next he doStaticBoundary_keeps
  | quotaRelease k => exact keeps_of_next he (doQuotaRelease_keeps k)
  | codewordRx p fec cseq ack nak cells => exact keeps_of_next he (doCodewordRx_keeps p fec cseq ack nak cells)
  | portSignalLoss p => exact keeps_of_next he (doPortSignalLoss_keeps p)
  | portTrainDone p lanes hub twin q secureOk delay => exact keeps_of_next he (doPortTrainDone_keeps p lanes hub twin q secureOk delay)
  | creditCell p => exact keeps_of_next he (doCreditCell_keeps p)
  | authCell p => exact keeps_of_next he (doAuthCell_keeps p)
  | syrelPacketForward p => exact keeps_of_next he (doSyrelPacketForward_keeps p)
  | fabricWindowRequest k id fn off op len data aux => exact keeps_of_next he (doFabricWindowRequest_keeps k id fn off op len data aux)
  | rread => exact keeps_of_next he doRread_keeps
  | rwrite => exact keeps_of_next he doRwrite_keeps
  | ratomic => exact keeps_of_next he doRatomic_keeps
  | rdata => exact keeps_of_next he (takeResponse_keeps 0x4)
  | rcmp => exact keeps_of_next he (takeResponse_keeps 0x5)
  | mirror => exact keeps_of_next he doMirror_keeps
  | mirAck => exact keeps_of_next he doMirAck_keeps
  | redUp => exact keeps_of_next he doRedUp_keeps
  | redDown => exact keeps_of_next he doRedDown_keeps
  | mcast => exact keeps_of_next he doMcast_keeps
  | mgmt act => exact keeps_of_next he (doMgmt_keeps act)
  | collTimeout n => exact keeps_of_next he (doCollTimeout_keeps n)
  | syrHoldExpire d => exact keeps_of_next he (doSyrHoldExpire_keeps d)
  | hubAliveRelease clk => exact keeps_of_next he (doHubAliveRelease_keeps clk)
  | join axes => exact keeps_of_next he (doJoin_keeps axes)
  | syrFence => exact keeps_of_next he doSyrFence_keeps
  | mirrorLagExpire ix => exact keeps_of_next he (doMirrorLagExpire_keeps ix)
  | twinLost => exact keeps_of_next he doTwinLost_keeps
  | cpPromote g k => exact keeps_of_next he (doCpPromote_keeps g k)
  | wakePattern p => exact keeps_of_next he (doWakePattern_keeps p)
  | configRequest n r w tag => exact keeps_of_next he (doConfigRequest_keeps n r w tag)
  | devctl2Write v => exact keeps_of_next he (doDevctl2Write_keeps v)
  | bar2Access off size write v tag poison => exact keeps_of_next he (doBar2Access_keeps off size write v tag poison)
  | bar4SiteWindowAccess off size write data tag stylus poison => exact keeps_of_next he (doBar4SiteWindowAccess_keeps off size write data tag stylus poison)
  | apertureAccess a len write data tag poison => exact keeps_of_next he (doApertureAccess_keeps a len write data tag poison)
  | atomicop aperture a op n x y tag => exact keeps_of_next he (doAtomicop_keeps aperture a op n x y tag)
  | watchSnoop g kind => exact keeps_of_next he (doWatchSnoop_keeps g kind)
  | watchReadData g a => exact keeps_of_next he (doWatchReadData_keeps g a)
  | cxlMemRequest d write data tag => exact keeps_of_next he (doCxlMemRequest_keeps d write data tag)
  | hostHdmWrite base k => exact keeps_of_next he (doHostHdmWrite_keeps base k)
  | warmReset release => exact keeps_of_next he (doWarmReset_keeps release)
  | hotReset link => exact keeps_of_next he (doHotReset_keeps link)
  | flrInitiate n => exact keeps_of_next he (doFlrInitiate_keeps n)
  | flrComplete n => exact keeps_of_next he (doFlrComplete_keeps n)
  | dsPresenceChange p present => exact keeps_of_next he (doDsPresenceChange_keeps p present)
  | powerOn p => exact keeps_of_next he (doPowerOn_keeps p)
  | dsPerstRelease p => exact keeps_of_next he (doDsPerstRelease_keeps p)
  | dsButton p => exact keeps_of_next he (doDsButton_keeps p)
  | dsButtonTimeout p => exact keeps_of_next he (doDsButtonTimeout_keeps p)
  | remove p => exact keeps_of_next he (doRemove_keeps p)
  | dsShutdownTimeout p => exact keeps_of_next he (doDsShutdownTimeout_keeps p)
  | clear p => exact keeps_of_next he (doClear_keeps p)
  | dsPowerFault p => exact keeps_of_next he (doDsPowerFault_keeps p)
  | dsLinkDown p => exact keeps_of_next he (doDsLinkDown_keeps p)
  | doorbellPoll g a => exact keeps_of_next he (doDoorbellPoll_keeps g a)
  | descriptorFetched g k a => exact keeps_of_next he (doDescriptorFetched_keeps g k a)
  | descriptorStart g k => exact keeps_of_next he (doDescriptorStart_keeps g k)
  | nopDesc g k => exact keeps_of_next he (doNopDesc_keeps g k)
  | copy g k t => exact keeps_of_next he (doCopy_keeps g k t)
  | atomic g k => exact keeps_of_next he (doAtomic_keeps g k)
  | collSetup g k => exact keeps_of_next he (doCollSetup_keeps g k)
  | invalidate g k => exact keeps_of_next he (doInvalidate_keeps g k)
  | headLineRead g a => exact keeps_of_next he (doHeadLineRead_keeps g a)
  | queuedRecordWrite n => exact keeps_of_next he (doQueuedRecordWrite_keeps n)
  | irqModTimeout g => exact keeps_of_next he (doIrqModTimeout_keeps g)
  | ringEnable g => exact keeps_of_next he (doRingEnable_keeps g)
  | ringDisable g => exact keeps_of_next he (doRingDisable_keeps g)
  | ringStopped g => exact keeps_of_next he (doRingStopped_keeps g)
  | ringIdxWrite g next release => exact keeps_of_next he (doRingIdxWrite_keeps g next release)
  | atsCompletion fn pasid page size tp r w => exact keeps_of_next he (doAtsCompletion_keeps fn pasid page size tp r w)
  | priGatherExpire fn pasid => exact keeps_of_next he (doPriGatherExpire_keeps fn pasid)
  | pageGroupResponse fn prg code => exact keeps_of_next he (doPageGroupResponse_keeps fn prg code)
  | prgTimeout fn prg => exact keeps_of_next he (doPrgTimeout_keeps fn prg)
  | atsInvalidate fn pasid lo pages itag => exact keeps_of_next he (doAtsInvalidate_keeps fn pasid lo pages itag)
  | invalComplete id => exact keeps_of_next he (doInvalComplete_keeps id)
  | invalDrainAbandon id => exact keeps_of_next he (doInvalDrainAbandon_keeps id)
  | extentAssign => exact keeps_of_next he doExtentAssign_keeps
  | extentRelease => exact keeps_of_next he doExtentRelease_keeps
  | partAssign => exact keeps_of_next he doPartAssign_keeps
  | partRelease => exact keeps_of_next he doPartRelease_keeps
  | funcBind => exact keeps_of_next he doFuncBind_keeps
  | confEnter => exact keeps_of_next he doConfEnter_keeps
  | confEnterTimeout => exact keeps_of_next he doConfEnterTimeout_keeps
  | portRekey => exact keeps_of_next he doPortRekey_keeps
  | zeroize => exact keeps_of_next he doZeroize_keeps
  | burnishDone => exact keeps_of_next he doBurnishDone_keeps
  | spdmRequest r => exact keeps_of_next he (doSpdmRequest_keeps r)
  | lockInterfaceRequest sid n => exact keeps_of_next he (doLockInterfaceRequest_keeps sid n)
  | stopInterfaceRequest sid n => exact keeps_of_next he (doStopInterfaceRequest_keeps sid n)
  | fipsErrorEnter => exact keeps_of_next he doFipsErrorEnter_keeps
  | lcTokenLoad bmc => exact keeps_of_next he (doLcTokenLoad_keeps bmc)
  | lcTransition bmc => exact keeps_of_next he (doLcTransition_keeps bmc)
  | lcChallenge bmc => exact keeps_of_next he (doLcChallenge_keeps bmc)
  | debugGrant bmc => exact keeps_of_next he (doDebugGrant_keeps bmc)
  | debugRevoke bmc => exact keeps_of_next he (doDebugRevoke_keeps bmc)
  | lcSelectCompat bmc => exact keeps_of_next he (doLcSelectCompat_keeps bmc)
  | cfgRead => exact keeps_of_next he doCfgRead_keeps
  | cfgWrite => exact keeps_of_next he doCfgWrite_keeps
  | imageLoad => exact keeps_of_next he doImageLoad_keeps
  | coldReset flash => exact absurd rfl (hc flash)
  | softReset => exact keeps_of_next he doSoftReset_keeps
  | partialReset => exact keeps_of_next he doPartialReset_keeps
  | rtpReset => exact keeps_of_next he doRtpReset_keeps
  | bringupComplete f => exact keeps_of_next he (doBringupComplete_keeps f)
  | tileOut g k => exact keeps_of_next he (doTileOut_keeps g k)
  | tileLaunchGraceTimeout => exact keeps_of_next he doTileLaunchGraceTimeout_keeps
  | tileIn g k pass => exact keeps_of_next he (doTileIn_keeps g k pass)
  | memsiteOut g k => exact keeps_of_next he (doMemsiteOut_keeps g k)
  | memsiteIn g k trained => exact keeps_of_next he (doMemsiteIn_keeps g k trained)
  | chanRetrain g k => exact keeps_of_next he (doChanRetrain_keeps g k)
  | portRetrain g k => exact keeps_of_next he (doPortRetrain_keeps g k)
  | fwStage g k => exact keeps_of_next he (doFwStage_keeps g k)
  | fwBroadcast g k => exact keeps_of_next he (doFwBroadcast_keeps g k)
  | fwStatus g k => exact keeps_of_next he (doFwStatus_keeps g k)
  | fwChunkTimeout t => exact keeps_of_next he (doFwChunkTimeout_keeps t)
  | enter g k => exact keeps_of_next he (doEnter_keeps g k)
  | exit g k => exact keeps_of_next he (doExit_keeps g k)
  | setCap g k => exact keeps_of_next he (doSetCap_keeps g k)
  | group g k => exact keeps_of_next he (doGroup_keeps g k)
  | powerAtReached g k => exact keeps_of_next he (doPowerAtReached_keeps g k)
  | wakeEvent code idx => exact keeps_of_next he (doWakeEvent_keeps code idx)
  | powerExitWake code => exact keeps_of_next he (doPowerExitWake_keeps code)
  | h1IdleExpire => exact keeps_of_next he doH1IdleExpire_keeps
  | avsAck r mv => exact keeps_of_next he (doAvsAck_keeps r mv)
  | avsRetryTimeout r => exact keeps_of_next he (doAvsRetryTimeout_keeps r)
  | avsAckTimeout r => exact keeps_of_next he (doAvsAckTimeout_keeps r)
  | pmbusPoll mv ma => exact keeps_of_next he (doPmbusPoll_keeps mv ma)
  | droopDetect t => exact keeps_of_next he (doDroopDetect_keeps t)
  | droopClear t => exact keeps_of_next he (doDroopClear_keeps t)
  | supplyDipStart rails => exact keeps_of_next he (doSupplyDipStart_keeps rails)
  | supplyDipEnd => exact keeps_of_next he doSupplyDipEnd_keeps
  | powerPeriod => exact keeps_of_next he doPowerPeriod_keeps
  | throttleEpoch => exact keeps_of_next he doThrottleEpoch_keeps
  | powerGroupReport => exact keeps_of_next he doPowerGroupReport_keeps
  | powerGroupDecide => exact keeps_of_next he doPowerGroupDecide_keeps
  | powerGroupApply => exact keeps_of_next he doPowerGroupApply_keeps
  | energyTick => exact keeps_of_next he doEnergyTick_keeps
  | thermalSample t => exact keeps_of_next he (doThermalSample_keeps t)
  | prochotAssert => exact keeps_of_next he doProchotAssert_keeps
  | prochotDeassert => exact keeps_of_next he doProchotDeassert_keeps
  | counterOverflow => exact keeps_of_next he doCounterOverflow_keeps
  | snapshotWritten => exact keeps_of_next he doSnapshotWritten_keeps
  | dsPortReady p f => exact keeps_of_next he (doDsPortReady_keeps p f)
  | hostCompletion tag kind data => exact keeps_of_next he (doHostCompletion_keeps tag kind data)
  | driftTrackingLimit j ch link => exact keeps_of_next he (doDriftTrackingLimit_keeps j ch link)
  | codewordCountRekey p => exact keeps_of_next he (doCodewordCountRekey_keeps p)
  | cxlSiteResponse j tag a => exact keeps_of_next he (doCxlSiteResponse_keeps j tag a)

/-- A step whose front command is no COLD_RESET keeps all but the queue, from which it takes that command. -/
theorem step_keeps (he : step s = .next t) (hc : ∀ f, s.pending.head? ≠ some (.coldReset f)) :
    Keeps { s with pending := s.pending.tail } t := by
  cases hp : s.pending with
  | nil =>
    have ht : tick s = t := by simpa [step, hp] using he
    have hs : ({ s with pending := [] } : State) = s := by rw [← hp]
    rw [List.tail_nil, hs, ← ht]
    exact tick_keeps (Keeps.refl s)
  | cons c rest =>
    have hx : exec c { s with pending := rest } = .next t := by simpa [step, hp] using he
    exact exec_keeps (fun f h => hc f (by simp [hp, h])) hx

end

/-- Settles O3: the position and the mark that it was ever set are two parts of what a step keeps. -/
theorem stepKeepsPosition : Obligations.StepKeepsPosition := by
  unfold Obligations.StepKeepsPosition
  intro s t he hc
  have h := step_keeps he hc
  exact ⟨h.pos, h.ever⟩

end Sys2Proof.Machine

namespace Sys2Proof.Machine

open Sys2Proof

/-! # The position that a segment gives (R29) and the gate of a calendar entry (R47) -/

theorem segPos_run {g : Seg} (hk : g.kind ≠ 1) (ref : Nat) :
    segPos g ref = g.startPos + (((ref - g.startRef : Nat) : Int) * (2 ^ 30 + toSigned 24 g.rate) / 2 ^ 30).toNat :=
  if_neg hk

theorem segPos_hold {g : Seg} (hk : g.kind = 1) (ref : Nat) : segPos g ref = g.startPos := if_pos hk

/-- Settles O11: the RATE field reads back as the signed rate, and the elapsed count at that rate is not negative. -/
theorem segmentPosition : Obligations.SegmentPosition := by
  unfold Obligations.SegmentPosition
  intro g ref rate h1 h2 hr hs
  refine ⟨fun hk => ?_, fun hk => segPos_hold hk ref⟩
  have hsig : toSigned 24 g.rate = rate := by unfold toSigned; omega
  have hpos : 0 ≤ ((ref - g.startRef : Nat) : Int) * (2 ^ 30 + rate) / 2 ^ 30 :=
    Int.ediv_nonneg (Int.mul_nonneg (by omega) (by omega)) (by decide)
  rw [segPos_run (by omega), hsig, Int.natCast_add, Int.toNat_of_nonneg hpos, Int.natCast_sub hs]

theorem gateOpen_disabled {e : CalEntry} (h : e.gateEn = false) (s : State) : gateOpen e s = true := by simp [gateOpen, h]

/-- The difference that a gate takes is that of two 32-bit words. -/
theorem wrap_gate_difference (v t : Nat) : wrap 32 (v + 2 ^ 32 - wrap 32 t) = (BitVec.ofNat 32 v - BitVec.ofNat 32 t).toNat := by
  simp only [wrap, BitVec.toNat_sub, BitVec.toNat_ofNat]
  omega

theorem gateOpen_iff {e : CalEntry} (h : e.gateEn = true) (s : State) :
    gateOpen e s = true ↔ 0 ≤ (BitVec.ofNat 32 (rd ARRIVAL_VALUE e.gate s) - BitVec.ofNat 32 e.thresh).toInt := by
  simp only [gateOpen, h, wrap_gate_difference, Bool.not_true, Bool.false_or, decide_eq_true_iff, BitVec.toInt_pos_iff]
  omega

/-- Settles O9: the difference of the arrival word and THRESH modulo 2^32 lies in the lower half. -/
theorem gateSatisfied : Obligations.GateSatisfied := by
  unfold Obligations.GateSatisfied
  exact fun e s => ⟨fun h => gateOpen_disabled h s, fun h => gateOpen_iff h s⟩

end Sys2Proof.Machine

namespace Sys2Proof.Machine

open Sys2Proof

/-! # RULE cells, delays, beacons and segments (R30, R31, R33, R35, R36, R39, R40, R227, R276, R277, R352) -/

/-! ## EXCHANGE_SYMBOL_TX (R35, R276, R306) -/

/-- The cell that port `p` sends now. -/
def cellOut (p : Nat) (s : State) : RuleCell :=
  { state := rd RULE_STATUS_STATE 0 s, depth := rd RULE_STATUS_DEPTH 0 s, exseq := wrap 8 ((exPort p s).txSeq + 1),
    txT := wrap 64 (now16 s), echo := (exPort p s).rxAt.map (fun t => ((exPort p s).rxSeq, wrap 32 (now16 s - t))),
    seg := s.ruling.seg, pend := s.ruling.pend }

/-- The words of that cell as the output gives them. -/
def cellOutWords (p : Nat) (s : State) : List Nat :=
  [0x3, rd RULE_STATUS_STATE 0 s, rd RULE_STATUS_DEPTH 0 s, wrap 8 ((exPort p s).txSeq + 1), wrap 64 (now16 s)] ++
    (match (exPort p s).rxAt with | some t => [1, (exPort p s).rxSeq, wrap 32 (now16 s - t)] | none => [0, 0, 0]) ++
    segWords s.ruling.seg ++ (match s.ruling.pend with | some g => 1 :: segWords g | none => [0, 0, 0, 0])

/-- The state once port `p` has noted the number and the time of that cell. -/
def cellOutNoted (p : Nat) (s : State) : State :=
  setEx p (fun e => { e with
    txSeq := wrap 8 ((exPort p s).txSeq + 1), txAt := some (now16 s),
    t3 := if e.t2.isSome && e.t3.isNone then some (wrap 8 ((exPort p s).txSeq + 1), now16 s) else e.t3 }) s

/-- The time for the next cell of port `p` has come. -/
def cellDue (p : Nat) (s : State) : Bool :=
  match (exPort p s).txAt with
  | some t => due (t + (if portLpi p s then us16 16 else us16 1)) s
  | none => true

section
variable {p : Nat} {s : State}

theorem cellDue_iff : cellDue p s = true ↔
    ∀ t, (exPort p s).txAt = some t → t + us16 (if portLpi p s then 16 else 1) ≤ now16 s := by
  unfold cellDue
  rw [← apply_ite us16]
  cases (exPort p s).txAt with
  | none => simp
  | some t => simp [due]

theorem doExchangeSymbolTx_eq (p : Nat) (s : State) : doExchangeSymbolTx p s =
    if !(rdb SYR_PORT_UP p s && cellDue p s) then s
    else sendCells p { kind := .syrCell, args := cellOutWords p s } (ruleImage (cellOut p s)) (cellOutNoted p s) := rfl

theorem doExchangeSymbolTx_sends (hu : rdb SYR_PORT_UP p s = true) (hd : cellDue p s = true) : doExchangeSymbolTx p s =
    sendCells p { kind := .syrCell, args := cellOutWords p s } (ruleImage (cellOut p s)) (cellOutNoted p s) := by
  simp [doExchangeSymbolTx_eq, hu, hd]

theorem doExchangeSymbolTx_early (hd : cellDue p s = false) : doExchangeSymbolTx p s = s := by
  simp [doExchangeSymbolTx_eq, hd]

theorem doExchangeSymbolTx_down (hu : rdb SYR_PORT_UP p s = false) : doExchangeSymbolTx p s = s := by
  simp [doExchangeSymbolTx_eq, hu]

end

/-! ## EXCHANGE_SYMBOL_RX (R35, R36, R39, R40, R277) -/

/-- The four times of the exchange that cell `c` ends at port `p`: it echoes the cell that the port sent last in it. -/
def endedExchange (p : Nat) (c : RuleCell) (s : State) : Option (Nat × Nat × Nat × Nat) :=
  match c.echo, (exPort p s).t2, (exPort p s).t3 with
  | some (q, hold), some t2, some (b, t3) => if q = b then some ((exPort p s).t1, t2, t3, c.txT - hold) else none
  | _, _, _ => none

/-- What port `p` keeps of cell `c`; `ended`: the cell ends an exchange, and begins the next. -/
def cellKept (ended : Bool) (p : Nat) (c : RuleCell) (s : State) : State :=
  setEx p (fun e => { e with
    rxAt := some (now16 s), rxSeq := c.exseq, state := c.state, depth := c.depth, seg := c.seg, pend := c.pend,
    lockedAt := if c.state = 2 then some (now16 s) else e.lockedAt, t1 := if ended || e.t2.isNone then c.txT else e.t1,
    t2 := if ended || e.t2.isNone then some (now16 s) else e.t2, t3 := if ended then none else e.t3, slow := portLpi p s }) s

/-- The hub stands one hub below the sender of `c`, a TWIN_ROOT at the root. -/
def depthTaken (c : RuleCell) (s : State) : State := wr RULE_STATUS_DEPTH 0 (if role s = 3 then 0 else c.depth + 1) s

/-- What cell `c` is to a hub that its port disciplines, over a hop of the given delay. -/
def cellTaken (c : RuleCell) (delay : Nat) (s : State) : State :=
  match rd RULE_STATUS_STATE 0 (depthTaken c s) with
  | 0 => if c.state = 0 then depthTaken c s else firstReference c.seg c.pend (c.txT + delay) (depthTaken c s)
  | 3 => setLock 1 (takeSegs c.seg c.pend (depthTaken c s))
  | _ => takeSegs c.seg c.pend (depthTaken c s)

/-- An exchange that has ended is evaluated. -/
def exchangeTaken (p : Nat) (done : Option (Nat × Nat × Nat × Nat)) (s : State) : State :=
  match done with
  | some (t1, t2, t3, t4) => exchangeDone p t1 t2 t3 t4 s
  | none => s

theorem rd_state_depthTaken (c : RuleCell) (s : State) : rd RULE_STATUS_STATE 0 (depthTaken c s) = rd RULE_STATUS_STATE 0 s :=
  rd_wr_field (by decide) 0 _ s

/-- What a port keeps of a cell changes no register. -/
theorem rd_cellKept (f : Fld) (i : Nat) (ended : Bool) (p : Nat) (c : RuleCell) (s : State) :
    rd f i (cellKept ended p c s) = rd f i s := rfl

theorem depthTaken_cellKept (ended : Bool) (p : Nat) (c : RuleCell) (s : State) : depthTaken c (cellKept ended p c s) =
    wr RULE_STATUS_DEPTH 0 (if role s = 3 then 0 else c.depth + 1) (cellKept ended p c s) := rfl

section
variable {c : RuleCell} {s : State}

theorem cellTaken_freeSender (h : rd RULE_STATUS_STATE 0 s = 0) (hc : c.state = 0) (delay : Nat) :
    cellTaken c delay s = depthTaken c s := by
  simp only [cellTaken, rd_state_depthTaken, h, hc, if_true]

theorem cellTaken_first (h : rd RULE_STATUS_STATE 0 s = 0) (hc : c.state ≠ 0) (delay : Nat) :
    cellTaken c delay s = firstReference c.seg c.pend (c.txT + delay) (depthTaken c s) := by
  simp only [cellTaken, rd_state_depthTaken, h, if_neg hc]

theorem cellTaken_following (h : rd RULE_STATUS_STATE 0 s = 1 ∨ rd RULE_STATUS_STATE 0 s = 2) (delay : Nat) :
    cellTaken c delay s = takeSegs c.seg c.pend (depthTaken c s) := by
  obtain h | h := h <;> simp only [cellTaken, rd_state_depthTaken, h]

theorem cellTaken_unlocked (h : rd RULE_STATUS_STATE 0 s = 3) (delay : Nat) :
    cellTaken c delay s = setLock 1 (takeSegs c.seg c.pend (depthTaken c s)) := by
  simp only [cellTaken, rd_state_depthTaken, h]

variable {p : Nat}

theorem endedExchange_noEcho (h : c.echo = none) : endedExchange p c s = none := by simp only [endedExchange, h]

theorem endedExchange_echo {q hold t2 t3 : Nat} (h : c.echo = some (q, hold)) (h2 : (exPort p s).t2 = some t2)
    (h3 : (exPort p s).t3 = some (q, t3)) : endedExchange p c s = some ((exPort p s).t1, t2, t3, c.txT - hold) := by
  simp only [endedExchange, h, h2, h3, if_true]

/-- The state once cell `c` is kept, taken by a hub that its port disciplines, and the exchange that it ends evaluated. -/
def cellIn (p : Nat) (c : RuleCell) (s : State) : State :=
  exchangeTaken p (endedExchange p c s)
    (if !disciplines p s then cellKept (endedExchange p c s).isSome p c s
     else cellTaken c (exPort p s).delay (cellKept (endedExchange p c s).isSome p c s))

theorem cellIn_noEcho (he : c.echo = none) : cellIn p c s =
    if !disciplines p s then cellKept false p c s else cellTaken c (exPort p s).delay (cellKept false p c s) := by
  simp only [cellIn, endedExchange_noEcho he]
  rfl

theorem cellIn_echo {q hold t2 t3 : Nat} (h : c.echo = some (q, hold)) (h2 : (exPort p s).t2 = some t2)
    (h3 : (exPort p s).t3 = some (q, t3)) : cellIn p c s = exchangeDone p (exPort p s).t1 t2 t3 (c.txT - hold)
      (if !disciplines p s then cellKept true p c s else cellTaken c (exPort p s).delay (cellKept true p c s)) := by
  simp only [cellIn, endedExchange_echo h h2 h3]
  rfl

variable (ht : twinPort p s = s)
include ht

/-- A cell whose port was in force before does what `cellIn` says; a LOCKED follower then leaves a sender that is not LOCKED. -/
theorem doExchangeSymbolRx_eq (c : RuleCell) : doExchangeSymbolRx p c s =
    if locked (cellIn p c s) && role (cellIn p c s) == 0 && disciplines p (cellIn p c s) && c.state != 2 &&
        altUsable (cellIn p c s) then
      switchParent (rd RULE_CTL_ALT_PORT 0 (cellIn p c s)) (cellIn p c s)
    else cellIn p c s := by
  unfold doExchangeSymbolRx
  rw [ht]
  rfl

theorem doExchangeSymbolRx_lockedSender (hc : c.state = 2) : doExchangeSymbolRx p c s = cellIn p c s := by
  simp [doExchangeSymbolRx_eq ht c, hc]

section
variable (he : c.echo = none)
include he

theorem doExchangeSymbolRx_undisciplined (hd : disciplines p s = false) : doExchangeSymbolRx p c s = cellKept false p c s := by
  have hk : disciplines p (cellKept false p c s) = false := hd
  simp [doExchangeSymbolRx_eq ht c, cellIn_noEcho he, hd, hk]

variable (hd : disciplines p s = true)
include hd

theorem doExchangeSymbolRx_taken (hc : c.state = 2) :
    doExchangeSymbolRx p c s = cellTaken c (exPort p s).delay (cellKept false p c s) := by
  simp [doExchangeSymbolRx_lockedSender ht hc, cellIn_noEcho he, hd]

theorem doExchangeSymbolRx_freeSender (hc : c.state = 0) (h : rd RULE_STATUS_STATE 0 s = 0) :
    doExchangeSymbolRx p c s = depthTaken c (cellKept false p c s) := by
  have h0 : rd RULE_STATUS_STATE 0 (cellKept false p c s) = 0 := (rd_cellKept ..).trans h
  have hi : cellIn p c s = depthTaken c (cellKept false p c s) := by
    simp [cellIn_noEcho he, hd, cellTaken_freeSender h0 hc]
  have hl : locked (depthTaken c (cellKept false p c s)) = false :=
    (locked_eq_false_iff _).2 (by simp [rd_state_depthTaken, h0])
  simp [doExchangeSymbolRx_eq ht c, hi, hl]

end

theorem doExchangeSymbolRx_echo {q hold t2 t3 : Nat} (h : c.echo = some (q, hold)) (h2 : (exPort p s).t2 = some t2)
    (h3 : (exPort p s).t3 = some (q, t3)) (hc : c.state = 2) : doExchangeSymbolRx p c s =
      exchangeDone p (exPort p s).t1 t2 t3 (c.txT - hold)
        (if !disciplines p s then cellKept true p c s else cellTaken c (exPort p s).delay (cellKept true p c s)) :=
  (doExchangeSymbolRx_lockedSender ht hc).trans (cellIn_echo h h2 h3)

end

/-! ## DELAY_REMEASURE (R36) and BEACON_SEND (R227) -/

section
variable {p : Nat} {s : State}

theorem doDelayRemeasure_averages (hn : 256 ≤ (exPort p s).delayN) (ht : (exPort p s).delayAt + us16 16000 ≤ now16 s) :
    doDelayRemeasure p s = takeDelay p ((exPort p s).delaySum / (exPort p s).delayN) s := by
  simp [doDelayRemeasure, due, Nat.not_lt.2 hn, ht]

theorem doDelayRemeasure_waits (h : (exPort p s).delayN < 256 ∨ now16 s < (exPort p s).delayAt + us16 16000) :
    doDelayRemeasure p s = s := by
  simp only [doDelayRemeasure, due, Bool.not_eq_true', decide_eq_false_iff_not, Nat.not_le, if_pos h]

end

/-! ## RULE_SEGMENT (R31, R352) and SEGMENT_APPLY (R30, R33) -/

/-- The segment that descriptor `d` asks for. -/
def askedSeg (d : Desc) (s : State) : Seg :=
  { startRef := d.word 2, startPos := d.word 3, rate := wrap 24 (d.word 4), kind := slice (d.word 4) 24 2,
    seq := wrap 6 (s.ruling.seg.seq + 1) }

/-- The kind of a segment is reserved, or its rate beyond 200 ppm. -/
def segUnsupported (x : Seg) : Prop := 1 < x.kind ∨ (x.kind = 0 ∧ 214748 < (toSigned 24 x.rate).natAbs)

theorem not_segUnsupported_of_hold {x : Seg} (h : x.kind = 1) : ¬segUnsupported x := by
  unfold segUnsupported
  omega

theorem segBad_iff (x : Seg) (s : State) : segBad x s = true ↔
    x.startPos < segPos s.ruling.seg x.startRef ∨ segPos s.ruling.seg x.startRef + 2 ^ 48 < x.startPos := by
  simp only [segBad, Bool.or_eq_true, decide_eq_true_iff]
  rfl

section
variable {s : State} {g k : Nat} {d : Desc} (hd : runningDesc g k 0x30 s = some d)
include hd

theorem doRuleSegment_unsupported (hu : segUnsupported (askedSeg d s)) : doRuleSegment g k s = failDesc g k .unsupported s := by
  simp only [doRuleSegment, hd]
  exact if_pos hu

variable (hu : ¬segUnsupported (askedSeg d s))
include hu

theorem doRuleSegment_notMaster (hr : role s ≠ 1) : doRuleSegment g k s = failDesc g k .refused s := by
  simp only [doRuleSegment, hd, if_pos hr]
  exact if_neg hu

variable (hr : role s = 1)
include hr

theorem doRuleSegment_bad (hb : segBad (askedSeg d s) s = true) :
    doRuleSegment g k s = failDesc g k .refused (refuseSeg (askedSeg d s) s) := by
  simp only [doRuleSegment, hd, hr]
  exact (if_neg hu).trans (if_pos hb)

theorem doRuleSegment_announces (hb : segBad (askedSeg d s) s = false) (hp : s.ruling.pend = none)
    (hl : nowNs s + 2000000 ≤ (askedSeg d s).startRef) :
    doRuleSegment g k s = completeDesc g k .ok (askedSeg d s).seq 0 0 (setRuling (fun r => { r with pend := some (askedSeg d s) }) s) := by
  have hn : ¬(s.ruling.pend.isSome = true ∨ (askedSeg d s).startRef < nowNs s + 2000000) := by simp [hp, hl]
  unfold askedSeg at hb hn
  simp only [doRuleSegment, hd, hr, hb, if_neg hn]
  exact if_neg hu

end

/-- The state once the pending segment `x` is the current one. -/
def segApplied (x : Seg) (s : State) : State :=
  setB RULE_EVENT_SEG_APPLIED 0 (setRuling (fun r => { r with seg := x, pend := none, prev := some r.seg }) s)

section
variable {s : State} {x : Seg} (hp : s.ruling.pend = some x)
include hp

theorem doSegmentApply_waits (hn : nowNs s < x.startRef) : doSegmentApply s = s := by
  simp only [doSegmentApply, hp, if_pos hn]

variable (hn : x.startRef ≤ nowNs s)
include hn

theorem doSegmentApply_refuses (hb : segBad x s = true) :
    doSegmentApply s = refuseSeg x (setRuling (fun r => { r with pend := none }) s) := by
  simp only [doSegmentApply, hp, if_neg (Nat.not_lt.2 hn), if_pos hb]

theorem doSegmentApply_applies (hb : segBad x s = false) : doSegmentApply s =
    if segPos s.ruling.seg x.startRef < x.startPos then stepTo (target (segApplied x s)) (segApplied x s)
    else sendBeacons x.startPos (segApplied x s) := by
  simp only [doSegmentApply, hp, if_neg (Nat.not_lt.2 hn), hb]
  rfl

end

/-- Settles O17: each clause is one case of its command's operation: a cell sent or kept, a cell taken by the lock state, an
exchange ended, and a segment by its kind, its position and its time. -/
theorem ruleCellsAndSegments : Obligations.RuleCellsAndSegments := by
  unfold Obligations.RuleCellsAndSegments
  refine ⟨fun s hs => ⟨?_, ?_, ?_, ?_, ?_, ?_, ?_, ?_⟩, fun s hs => ⟨?_, ?_, ?_, ?_, ?_, ?_, ?_, ?_⟩⟩
  · rintro p e q cell hu rfl ht rfl rfl
    exact next_clocked hs (doExchangeSymbolTx_sends hu (cellDue_iff.2 ht))
  · intro p t he ht
    have hd : cellDue p s = false := Bool.eq_false_iff.2 fun h => Nat.not_le.2 ht (cellDue_iff.1 h t he)
    exact next_clocked hs (doExchangeSymbolTx_early hd)
  · exact fun p hu => next_clocked hs (doExchangeSymbolTx_down hu)
  · intro p c s1 ht he h1
    obtain rfl : s1 = cellKept false p c s := h1
    rw [← depthTaken_cellKept]
    have hr := rd_cellKept RULE_STATUS_STATE 0 false p c s
    refine ⟨?_, ?_, ?_, ?_, ?_⟩
    · exact fun hd => next_clocked hs (doExchangeSymbolRx_undisciplined ht he hd)
    · intro hd hc h
      exact next_clocked hs ((doExchangeSymbolRx_taken ht he hd hc).trans (cellTaken_first (hr.trans h) (by omega) _))
    · intro hd hc h
      exact next_clocked hs ((doExchangeSymbolRx_taken ht he hd hc).trans (cellTaken_following (hr ▸ h) _))
    · intro hd hc h
      exact next_clocked hs ((doExchangeSymbolRx_taken ht he hd hc).trans (cellTaken_unlocked (hr.trans h) _))
    · exact fun hd hc h => next_clocked hs (doExchangeSymbolRx_freeSender ht he hd hc h)
  · intro p c s1 q hold t2 t3 ht he h2 h3 h1 hc
    obtain rfl : s1 = cellKept true p c s := h1
    rw [← depthTaken_cellKept]
    have hx := doExchangeSymbolRx_echo ht he h2 h3 hc
    refine ⟨fun hd => next_clocked hs (hx.trans ?_), fun hd h => next_clocked hs (hx.trans ?_)⟩
    · rw [hd]
      rfl
    · rw [← rd_cellKept RULE_STATUS_STATE 0 true p c s] at h
      rw [hd, cellTaken_following h]
      rfl
  · exact fun p hn ht => next_clocked hs (doDelayRemeasure_averages hn ht)
  · exact fun p h => next_clocked hs (doDelayRemeasure_waits h)
  · exact next_clocked hs rfl
  · rintro g k d x hd rfl hk hq hr hb hp hl
    have hu : ¬segUnsupported (askedSeg d s) := fun h => h.elim (Nat.not_lt.2 hk) fun h => Nat.not_lt.2 (hq h.1) h.2
    exact next_clocked hs (doRuleSegment_announces hd hu hr hb hp hl)
  · exact fun g k d hd hu => next_clocked hs (doRuleSegment_unsupported hd hu)
  · exact fun g k d hd hk hr => next_clocked hs (doRuleSegment_notMaster hd (not_segUnsupported_of_hold hk) hr)
  · rintro g k d x hd rfl hk hr hb
    exact next_clocked hs (doRuleSegment_bad hd (not_segUnsupported_of_hold hk) hr ((segBad_iff _ s).2 hb))
  · intro x hp hn hlo hhi heq
    have hb : segBad x s = false := Bool.eq_false_iff.2 fun h => by have := (segBad_iff x s).1 h; omega
    exact next_clocked hs ((doSegmentApply_applies hp hn hb).trans (if_neg (by omega)))
  · rintro x s1 hp hn hlo hhi rfl
    have hb : segBad x s = false := Bool.eq_false_iff.2 fun h => by have := (segBad_iff x s).1 h; omega
    exact next_clocked hs ((doSegmentApply_applies hp hn hb).trans (if_pos hlo))
  · exact fun x hp hn hb => next_clocked hs (doSegmentApply_refuses hp hn ((segBad_iff x s).2 hb))
  · exact fun x hp hn => next_clocked hs (doSegmentApply_waits hp hn)

end Sys2Proof.Machine

namespace Sys2Proof.Machine

open Sys2Proof

/-! # Calendar entries (R45 to R58) -/

/-! ## CAL_ARM and CAL_CANCEL (R45, R46, R56, R352) -/

section
variable {s : State}

theorem doCalArm_herva (w : List Nat) (i : Nat) :
    doCalArm (.herva w i) s = if armStatus 0 w s = .ok then (armEntry w s).2 else s := rfl

theorem doCalCancel_herva (w : List Nat) (i : Nat) :
    doCalCancel (.herva w i) s = if (mayCancel 0 i w s).isSome then freeCal i s else s := rfl

/-- The image of an entry that descriptor `d` carries. -/
def calImage (d : Desc) : List Nat := [d.word 2, d.word 3, d.word 4, d.word 5]

section
variable {g k : Nat} {d : Desc}

theorem doCalArm_desc (hd : runningDesc g k 0x20 s = some d) : doCalArm (.desc g k) s =
    if armStatus (ringFn g) (calImage d) s ≠ .ok then failDesc g k (armStatus (ringFn g) (calImage d) s) s
    else completeDesc g k .ok (armEntry (calImage d) s).1 0 0 (armEntry (calImage d) s).2 := by
  simp only [doCalArm, hd]
  rfl

theorem doCalCancel_cancels {e : CalEntry} (hd : runningDesc g k 0x21 s = some d)
    (hc : mayCancel (ringFn g) (slice (d.word 6) 0 13) (calImage d) s = some e) :
    doCalCancel (.desc g k) s = completeDesc g k .ok e.made 0 0 (freeCal (slice (d.word 6) 0 13) s) := by
  unfold calImage at hc
  simp only [doCalCancel, hd, hc]

theorem doCalCancel_denied (hd : runningDesc g k 0x21 s = some d)
    (hc : mayCancel (ringFn g) (slice (d.word 6) 0 13) (calImage d) s = none) :
    doCalCancel (.desc g k) s = failDesc g k .accessDenied s := by
  unfold calImage at hc
  simp only [doCalCancel, hd, hc]

end

section
variable {i : Nat}

theorem mayCancel_free (h : calEntry i s = none) (r : Nat) (w : List Nat) : mayCancel r i w s = none := by
  simp [mayCancel, h]

variable {e : CalEntry} (h : calEntry i s = some e)
include h

theorem mayCancel_shown {r : Nat} {w : List Nat} (hf : e.fn = (calOfWords w).fn) (ht : e.tag = (calOfWords w).tag)
    (hr : r = 0 ∨ e.fn = r) : mayCancel r i w s = some e := by
  simp [mayCancel, h, ← hf, ← ht, hr]

theorem mayCancel_other {r : Nat} {w : List Nat}
    (hn : e.fn ≠ (calOfWords w).fn ∨ e.tag ≠ (calOfWords w).tag ∨ (r ≠ 0 ∧ e.fn ≠ r)) : mayCancel r i w s = none := by
  have hm : ¬(e.fn = (calOfWords w).fn ∧ e.tag = (calOfWords w).tag ∧ (r = 0 ∨ e.fn = r)) := by
    rintro ⟨hf, ht, hr⟩
    obtain hn | hn | ⟨h0, hn⟩ := hn
    · exact hn hf
    · exact hn ht
    · exact hr.elim h0 hn
  simpa [mayCancel, h] using hm

/-! ## CAL_FIRE (R49 to R54) and CAL_GATE_TIMEOUT (R48) -/

/-- The firing of entry `i` that is made now. -/
def firingNow (i : Nat) (e : CalEntry) (s : State) : Firing :=
  { id := s.cal.nextId, entry := i, fn := e.fn, tag := e.tag, index := e.firing, notify := e.notify, pos := pos s,
    status := if lateNow e s then .late else .ok, action := e.action, arg := e.arg, lateness := pos s - e.mark, counted := lateNow e s }

/-- A firing of `e` is counted, and its lateness where it is late. -/
def firingCounted (e : CalEntry) (s : State) : State :=
  if lateNow e s then countLate e.fn (pos s - e.mark) (count ctlUnit 0xC3 (some e.fn) 1 (count ctlUnit 0xC2 (some e.fn) 1 s))
  else count ctlUnit 0xC2 (some e.fn) 1 s

theorem doCalFire_fires (hc : canFire e s = true) (ht : turnOf i e s = true) : doCalFire i s =
    fireAction (firingNow i e s) e.mark (advanceCal i { e with made := e.made + 1 }
      (addFiring (firingNow i e s) (noteFired (firingCounted e s)))) := by
  simp only [doCalFire, h, hc, ht]
  rfl

theorem doCalFire_cannot (hc : canFire e s = false) : doCalFire i s = s := by
  simp [doCalFire, h, hc]

theorem doCalFire_notTurn (ht : turnOf i e s = false) : doCalFire i s = s := by
  simp [doCalFire, h, ht]

theorem doCalGateTimeout_misses (hd : e.dueAt ≠ none)
    (hm : e.gateMiss = true ∨ (gateOpen e s = false ∧ e.mark + rd CAL_GATE_LIMIT_LIMIT 0 s ≤ pos s)) :
    doCalGateTimeout i s = endFiring i e .timeout s := by
  have hs : e.dueAt.isSome = true := Option.isSome_iff_ne_none.2 hd
  simp only [doCalGateTimeout, h]
  refine if_pos ?_
  simpa [hs] using hm

theorem doCalGateTimeout_waits (hm : e.gateMiss = false)
    (hg : gateOpen e s = true ∨ pos s < e.mark + rd CAL_GATE_LIMIT_LIMIT 0 s) : doCalGateTimeout i s = s := by
  simp only [doCalGateTimeout, h, hm]
  refine if_neg ?_
  obtain hg | hg := hg
  · simp [hg]
  · simp [Nat.not_le.2 hg]

end

theorem canFire_false {e : CalEntry} (h : e.dueAt = none ∨ gateOpen e s = false ∨ e.gateMiss = true ∨ calHeld e s = true) :
    canFire e s = false := by
  obtain h | h | h | h := h <;> simp [canFire, h]

/-! ## Arrival words (Table 10) and CAL_LOW_POWER_EXIT (R58) -/

theorem doArrivalWrite_below {g : Nat} (hg : g < 1024) (v : Nat) : doArrivalWrite g v s = wr ARRIVAL_VALUE g v s :=
  if_neg (Nat.not_le.2 hg)

theorem doArrivalWrite_beyond {g : Nat} (hg : 1024 ≤ g) (v : Nat) : doArrivalWrite g v s = s := if_pos hg

/-- The low-power state from which an exit would begin: the one that an entry under way leads to, or that the hub is in. -/
def exitFrom (s : State) : Nat :=
  match s.power.entry with
  | some e => e.target
  | none => pwrState s

theorem exitFrom_eq {t : Nat} (h : (s.power.entry = none ∧ pwrState s = t) ∨ ∃ e, s.power.entry = some e ∧ e.target = t) :
    exitFrom s = t := by
  obtain ⟨hn, ht⟩ | ⟨e, he, ht⟩ := h
  · simp only [exitFrom, hn, ht]
  · simp only [exitFrom, he, ht]

theorem doCalLowPowerExit_eq (s : State) : doCalLowPowerExit s =
    if exitFrom s = 0 then s else match exitEntry (exitFrom s) s with
      | none => s
      | some i => if pwrState s = 1 then leaveH1 s else raiseWake 0x14 i s := rfl

theorem doCalLowPowerExit_none (h : exitFrom s = 0) : doCalLowPowerExit s = s := if_pos h

theorem doCalLowPowerExit_exits {i : Nat} (h0 : exitFrom s ≠ 0) (he : exitEntry (exitFrom s) s = some i) :
    doCalLowPowerExit s = if pwrState s = 1 then leaveH1 s else raiseWake 0x14 i s := by
  simp only [doCalLowPowerExit_eq, if_neg h0, he]

end

/-- Settles O19: an entry is armed by its status, cancelled by its owner and tag, fired where it may and it is its turn, and ended
by its gate; the enable and the arrival words are register fields. -/
theorem calendarCommands : Obligations.CalendarCommands := by
  unfold Obligations.CalendarCommands
  refine ⟨fun s hs => ⟨?_, ?_, ?_, ?_, ?_, ?_, ?_, ?_, ?_⟩, fun s hs => ⟨?_, ?_, ?_, ?_, ?_, ?_, ?_, ?_, ?_, ?_, ?_, ?_⟩⟩
  · exact fun g k d hd ha => next_clocked hs ((doCalArm_desc hd).trans (if_neg (not_not_intro ha)))
  · exact fun g k d hd ha => next_clocked hs ((doCalArm_desc hd).trans (if_pos ha))
  · exact fun w i ha => next_clocked hs ((doCalArm_herva w i).trans (if_pos ha))
  · exact fun w i ha => next_clocked hs ((doCalArm_herva w i).trans (if_neg ha))
  · exact fun g k d e hd he hf ht hr => next_clocked hs (doCalCancel_cancels hd (mayCancel_shown he hf ht hr))
  · exact fun g k d hd he => next_clocked hs (doCalCancel_denied hd (mayCancel_free he _ _))
  · exact fun g k d e hd he hn => next_clocked hs (doCalCancel_denied hd (mayCancel_other he hn))
  · exact fun w i e he hf ht => next_clocked hs ((doCalCancel_herva w i).trans (by simp [mayCancel_shown he hf ht (.inl rfl)]))
  · exact fun w i he => next_clocked hs ((doCalCancel_herva w i).trans (by simp [mayCancel_free he]))
  · rintro i e late f s1 he hc ht rfl rfl rfl
    exact next_clocked hs (doCalFire_fires he hc ht)
  · exact fun i e he h => next_clocked hs (doCalFire_cannot he (canFire_false h))
  · exact fun i e he ht => next_clocked hs (doCalFire_notTurn he ht)
  · exact fun i e he hd hm => next_clocked hs (doCalGateTimeout_misses he hd hm)
  · exact fun i e he hm hg => next_clocked hs (doCalGateTimeout_waits he hm hg)
  · exact ⟨_, next_clocked hs rfl, rd_wr_same .., fun f i hi hf => rd_wr_other hf hi (by decide) 1 s, rfl, rfl⟩
  · exact ⟨_, next_clocked hs rfl, rd_wr_same ..⟩
  · intro g v hg hv
    refine ⟨_, next_clocked hs (doArrivalWrite_below hg v), ?_, fun h _ hn => rd_wr_index hn v s, rfl, rfl⟩
    exact (rd_wr_same ..).trans (Nat.mod_eq_of_lt hv)
  · exact fun g v hg => next_clocked hs (doArrivalWrite_beyond hg v)
  · intro i hn h1 he
    have ht : exitFrom s = 1 := exitFrom_eq (.inl ⟨hn, h1⟩)
    exact next_clocked hs ((doCalLowPowerExit_exits (by simp [ht]) (ht ▸ he)).trans (if_pos h1))
  · intro t i h h0 h1 he
    have ht := exitFrom_eq h
    exact next_clocked hs ((doCalLowPowerExit_exits (ht ▸ h0) (ht ▸ he)).trans (if_neg h1))
  · exact fun hn h0 => next_clocked hs (doCalLowPowerExit_none (exitFrom_eq (.inl ⟨hn, h0⟩)))

end Sys2Proof.Machine

namespace Sys2Proof.Machine

open Sys2Proof

/-! # Syrel ports and the pins of the fabric (R272 to R274, R280, R282, R298, R299, R307) -/

/-! ## CODEWORD_RX and PORT_SIGNAL_LOSS (R273, R274) -/

section
variable {p : Nat} {s : State}

theorem doCodewordRx_down (h : rdb SYR_PORT_UP p s = false) (fec cseq ack : Nat) (nak : Bool) (cells : List Cell) :
    doCodewordRx p fec cseq ack nak cells s = s := by
  simp [doCodewordRx, h]

theorem takePortDown_down (h : rdb SYR_PORT_UP p s = false) : takePortDown p s = s := by
  simp [takePortDown, h]

/-- The state once a packet among the cells has woken the hub (R251). -/
def cellsNoted (p : Nat) (cells : List Cell) (s : State) : State :=
  if cells.any (fun c => match c with | .pkt _ => true | _ => false) then noteWake 0x11 p s else s

theorem cellsNoted_packet {k : Pkt} {cells : List Cell} (h : .pkt k ∈ cells) : cellsNoted p cells s = noteWake 0x11 p s :=
  if_pos (List.any_eq_true.2 ⟨.pkt k, h, rfl⟩)

theorem cellsNoted_noPacket {cells : List Cell} (h : ∀ k, .pkt k ∉ cells) : cellsNoted p cells s = s := by
  refine if_neg fun hn => ?_
  obtain ⟨c, hc, hp⟩ := List.any_eq_true.1 hn
  cases c with
  | pkt k => exact h k hc
  | _ => cases hp

section
variable (hu : rdb SYR_PORT_UP p s = true)
include hu

theorem doCodewordRx_bad {fec cseq : Nat} {cells : List Cell}
    (h : fec = 2 ∨ cseq ≠ ((syrPort p (cellsNoted p cells s)).rxSeq + 1) % 512) (ack : Nat) (nak : Bool) :
    doCodewordRx p fec cseq ack nak cells s = sendAck p (setPort p (fun x => { x with nak := true }) (cellsNoted p cells s)) := by
  unfold cellsNoted at h ⊢
  simp only [doCodewordRx, hu, Bool.not_true, Bool.false_eq_true, if_false]
  exact if_pos h

/-- A clean codeword in sequence with one packet: the packet waits at the port, and the codeword is acknowledged. -/
theorem doCodewordRx_packet {cseq : Nat} {k : Pkt} {s1 : State}
    (h1 : s1 = count (spaUnit p) 0x61 none (pktCells k) (noteWake 0x11 p s))
    (hc : cseq = ((syrPort p (noteWake 0x11 p s)).rxSeq + 1) % 512) (hs : rdb SYR_PORT_SECURE p s1 = false) (ack : Nat) :
    doCodewordRx p 0 cseq ack false [.pkt k] s = pumpPort p (sendAck p (setPort p (fun x => { x with
      rxSeq := cseq, nak := false, unacked := takeAck ack x.unacked, rx := x.rx ++ [.pkt k] }) s1)) := by
  subst h1
  simp only [doCodewordRx, hu]
  simp [hc, hs, keptCells, cellReserved]

end

/-! ## CREDIT_CELL (R280) and a port with no cell -/

theorem doCreditCell_credits {vcs : List Nat} {sh : Nat} (h : headCell p s = some (.credit vcs sh)) : doCreditCell p s =
    pumpPort p (setPort p (fun x => { x with crd := x.crd.zipIdx.map (fun c => c.1 + nth 0 vcs c.2), shared := x.shared + sh })
      (popCell p s)) := by
  simp only [doCreditCell, h]

theorem doCreditCell_none (h : headCell p s = none) : doCreditCell p s = s := by
  simp only [doCreditCell, h]

theorem doSyrelPacketForward_none (h : headCell p s = none) : doSyrelPacketForward p s = s := by
  simp [doSyrelPacketForward, h]

/-! ## AUTH_CELL (R307) -/

/-- An AUTH cell. -/
def isAuthCell (c : Cell) : Bool := match c with | .auth _ => true | _ => false

theorem isAuthCell_auth (b : Bool) : isAuthCell (.auth b) = true := rfl

theorem isAuthCell_false_of_not_mem {l : List Cell} (h : ∀ b, .auth b ∉ l) {c : Cell} (hc : c ∈ l) : isAuthCell c = false := by
  cases c with
  | auth b => exact absurd hc (h b)
  | _ => rfl

/-- AUTH_CELL goes by the oldest AUTH cell that waits, if there is one. -/
theorem doAuthCell_eq (p : Nat) (s : State) : doAuthCell p s =
    match (syrPort p s).unverified.find? isAuthCell with
    | none => s
    | some c =>
      if decide (c = .auth true) then
        setPort p (fun x => { x with
          rx := x.rx ++ (syrPort p s).unverified.takeWhile (fun c => !isAuthCell c),
          unverified := ((syrPort p s).unverified.dropWhile (fun c => !isAuthCell c)).drop 1 }) s
      else takePortDown p (setB SYR_EVENT_AUTH_FAIL 0 (bumpSat SYR_PERR_AUTH_FAIL p 1
        (setPort p (fun x => { x with unverified := [] }) s))) := rfl

theorem doAuthCell_none (h : ∀ b, .auth b ∉ (syrPort p s).unverified) : doAuthCell p s = s := by
  have hn : (syrPort p s).unverified.find? isAuthCell = none :=
    List.find?_eq_none.2 fun c hc => by simp [isAuthCell_false_of_not_mem h hc]
  simp only [doAuthCell_eq, hn]

/-- The oldest AUTH cell is checked over the cells before it. -/
theorem doAuthCell_checks {b : Bool} {before after : List Cell} (h : (syrPort p s).unverified = before ++ .auth b :: after)
    (hb : ∀ b, .auth b ∉ before) : doAuthCell p s =
    if b then setPort p (fun x => { x with rx := x.rx ++ before, unverified := after }) s
    else takePortDown p (setB SYR_EVENT_AUTH_FAIL 0 (bumpSat SYR_PERR_AUTH_FAIL p 1 (setPort p (fun x => { x with unverified := [] }) s))) := by
  have ha : ∀ c ∈ before, (!isAuthCell c) = true := fun c hc => by simp [isAuthCell_false_of_not_mem hb hc]
  have hf : (before ++ .auth b :: after).find? isAuthCell = some (.auth b) := by
    rw [List.find?_append, List.find?_eq_none.2 fun c hc => by simpa using ha c hc]
    rfl
  have ht : (before ++ .auth b :: after).takeWhile (fun c => !isAuthCell c) = before := by
    simp [List.takeWhile_append_of_pos ha, isAuthCell_auth]
  have hr : (before ++ .auth b :: after).dropWhile (fun c => !isAuthCell c) = .auth b :: after := by
    simp [List.dropWhile_append_of_pos ha, isAuthCell_auth]
  simp only [doAuthCell_eq, h, hf, ht, hr, List.drop_succ_cons, List.drop_zero, decide_eq_true_eq,
    Cell.auth.injEq]

/-! ## PORT_TRAIN_DONE (R272, R299) -/

theorem doPortTrainDone_notAllowed (h : mayTrain p s = false) (lanes hub : Nat) (t : Bool) (q : Nat) (ok : Bool) (dly : Nat) :
    doPortTrainDone p lanes hub t q ok dly s = s := by
  simp [doPortTrainDone, h]

section
variable (hm : mayTrain p s = true)
include hm

theorem doPortTrainDone_noLanes (hub : Nat) (t : Bool) (q : Nat) (ok : Bool) (dly : Nat) : doPortTrainDone p 0 hub t q ok dly s =
    addEntry 0x6 p 3 0 (setPort p (fun x => { x with training := none }) (wr SYR_PORT_LANES p 0 s)) := by
  simp [doPortTrainDone, hm]

/-- Training gives the lanes and the partner. -/
def partnerNoted (p lanes hub : Nat) (t : Bool) (q : Nat) (s : State) : State :=
  setPort p (fun x => { x with training := none }) (setB SYR_PORT_PARTNER_VALID p (wr SYR_PORT_PARTNER_PORT p q
    (wrb SYR_PORT_PARTNER_TWIN p t (wr SYR_PORT_PARTNER_HUB p hub (wr SYR_PORT_LANES p lanes s)))))

theorem doPortTrainDone_miswired {lanes hub q : Nat} {t : Bool} (hl : lanes ≠ 0) (hn : noCrypto s = false)
    (hw : miswired p hub t q (partnerNoted p lanes hub t q s) = true) (dly : Nat) : doPortTrainDone p lanes hub t q true dly s =
      addEntry 0x6 p 4 hub (setB SYR_EVENT_MISWIRED 0 (setB SYR_PORT_MISWIRED p (partnerNoted p lanes hub t q s))) := by
  unfold partnerNoted at hw ⊢
  simp only [doPortTrainDone, hm, if_neg hl, hn, hw]
  rfl

end
end

/-! ## The alive pins and JOIN (R298, R299) -/

section
variable {s : State}

theorem doJoin_ignored (h : hubReady s = false ∨ aliveOk s = false ∨ s.fuses.variant = 3) (axes : Nat) : doJoin axes s = s := by
  obtain h | h | h := h <;> simp [doJoin, h]

variable (hr : hubReady s = true) (ha : aliveOk s = true) (hv : s.fuses.variant ≠ 3)
include hr ha hv

theorem doJoin_joins (axes : Nat) : doJoin axes s =
    forEach [0, 1, 2] (fun a s => if bit axes a && !bit (rd SYR_STATUS_ALIVE 0 s) a then joinAxis a s else s) s := by
  simp [doJoin, hr, ha, hv]

theorem doJoin_first (h : rd SYR_STATUS_ALIVE 0 s = 0) : doJoin 1 s = joinAxis 0 s := by
  have h0 : (bit 1 0 && !bit (rd SYR_STATUS_ALIVE 0 s) 0) = true := by rw [h]; rfl
  rw [doJoin_joins hr ha hv]
  simp only [forEach, List.foldl, if_pos h0]
  rfl

end

/-- Settles O45: a codeword by its check and number, an AUTH cell by its tag, a training by its lanes and its partner, and the pins
by what ceases or is joined. -/
theorem syrelPortsAndFabricPins : Obligations.SyrelPortsAndFabricPins := by
  unfold Obligations.SyrelPortsAndFabricPins
  refine ⟨fun s p hs => ⟨?_, ?_, ?_, ?_, ?_, ?_, ?_, ?_, ?_, ?_, ?_, ?_⟩, fun s hs => ⟨?_, ?_, ?_, ?_, ?_, ?_⟩⟩
  · exact fun cseq ack k s1 hu h1 hc hn => next_clocked hs (doCodewordRx_packet hu h1 hc hn ack)
  · intro fec cseq ack nak cells s1 hu h1 h
    have h1 : s1 = cellsNoted p cells s := by
      obtain ⟨⟨k, hk⟩, rfl⟩ | ⟨hk, rfl⟩ := h1
      · exact (cellsNoted_packet hk).symm
      · exact (cellsNoted_noPacket hk).symm
    subst h1
    exact next_clocked hs (doCodewordRx_bad hu h ack nak)
  · exact fun fec cseq ack nak cells hu => next_clocked hs (doCodewordRx_down hu fec cseq ack nak cells)
  · exact ⟨next_clocked hs rfl, fun hu => next_clocked hs (takePortDown_down hu)⟩
  · exact fun vcs sh h => next_clocked hs (doCreditCell_credits h)
  · exact fun h => ⟨next_clocked hs (doCreditCell_none h), next_clocked hs (doSyrelPacketForward_none h)⟩
  · exact fun before after h hb => next_clocked hs (doAuthCell_checks h hb)
  · exact fun before after h hb => next_clocked hs (doAuthCell_checks h hb)
  · exact fun h => next_clocked hs (doAuthCell_none h)
  · exact fun hub t q ok dly hm => next_clocked hs (doPortTrainDone_noLanes hm hub t q ok dly)
  · rintro lanes hub t q ok dly s1 hm hl rfl hn rfl hw
    exact next_clocked hs (doPortTrainDone_miswired hm hl hn hw dly)
  · exact fun lanes hub t q ok dly hm => next_clocked hs (doPortTrainDone_notAllowed hm lanes hub t q ok dly)
  · exact next_clocked hs rfl
  · exact next_clocked hs rfl
  · exact next_clocked hs rfl
  · exact fun axes h => next_clocked hs (doJoin_ignored h axes)
  · exact fun axes hr ha hv => next_clocked hs (doJoin_joins hr ha hv axes)
  · exact fun hr ha hv h => next_clocked hs (doJoin_first hr ha hv h)

end Sys2Proof.Machine

namespace Sys2Proof.Machine

open Sys2Proof

/-! # Float codes (R79, R94): the magnitude of a finite code rounds to that code

A code's magnitude is a whole number of the quanta of its own binade, so that rounding finds nothing left over. -/

/-! ## Magnitudes that are a whole number of quanta -/

section
variable {f : FF} {m : Nat} {e : Int}

/-- A magnitude whose exponent is that of its quantum holds `m` quanta and nothing over. -/
theorem quanta_ownExponent (h : max ((Nat.log2 m : Int) + e - f.mb) (1 - (f.bias : Int) - f.mb) = e) :
    quanta f m e = (m, e, 0, 1) := by
  simp [quanta, h]

theorem roundNear_wholeQuanta (hm : m ≠ 0) (h : quanta f m e = (m, e, 0, 1)) : roundNear f m e = (quantaCode f m e, false) := by
  simp [roundNear, hm, h, b2n]

theorem roundNear_zero (f : FF) (e : Int) : roundNear f 0 e = (0, false) := rfl

end

/-! ## Magnitudes of codes -/

section
variable {f : FF} {c : Nat}

theorem codeMag_subnormal (h : c < 2 ^ f.mb) : codeMag f c = (c, 1 - (f.bias : Int) - f.mb) := by
  simp [codeMag, Nat.div_eq_of_lt h, Nat.mod_eq_of_lt h]

theorem codeMag_normal (h : 2 ^ f.mb ≤ c) :
    codeMag f c = (2 ^ f.mb + c % 2 ^ f.mb, ((c / 2 ^ f.mb : Nat) : Int) - f.bias - f.mb) :=
  if_neg (Nat.ne_of_gt (Nat.div_pos h (Nat.two_pow_pos _)))

/-- The exponent of a subnormal code is the least that a quantum has. -/
theorem quanta_subnormal (h0 : c ≠ 0) (h : c < 2 ^ f.mb) :
    quanta f c (1 - (f.bias : Int) - f.mb) = (c, 1 - (f.bias : Int) - f.mb, 0, 1) := by
  have hl : Nat.log2 c < f.mb := (Nat.log2_lt h0).2 h
  exact quanta_ownExponent (by omega)

theorem quantaCode_subnormal (f : FF) (c : Nat) : quantaCode f c (1 - (f.bias : Int) - f.mb) = c := by
  have hq : (1 - (f.bias : Int) - f.mb) + f.bias + f.mb - 1 = 0 := by omega
  simp [quantaCode, hq]

/-- The mantissa of a normal code fills its binade. -/
theorem quanta_normal (h : 2 ^ f.mb ≤ c) :
    quanta f (2 ^ f.mb + c % 2 ^ f.mb) (((c / 2 ^ f.mb : Nat) : Int) - f.bias - f.mb) =
      (2 ^ f.mb + c % 2 ^ f.mb, ((c / 2 ^ f.mb : Nat) : Int) - f.bias - f.mb, 0, 1) := by
  have hp := Nat.two_pow_pos f.mb
  have hm := Nat.mod_lt c hp
  have hl : Nat.log2 (2 ^ f.mb + c % 2 ^ f.mb) = f.mb :=
    (Nat.log2_eq_iff (by omega)).2 ⟨by omega, by rw [Nat.pow_succ]; omega⟩
  have he : 0 < c / 2 ^ f.mb := Nat.div_pos h hp
  exact quanta_ownExponent (by rw [hl]; omega)

theorem quantaCode_normal (f : FF) (c : Nat) :
    quantaCode f (2 ^ f.mb + c % 2 ^ f.mb) (((c / 2 ^ f.mb : Nat) : Int) - f.bias - f.mb) = c := by
  have hq : ((c / 2 ^ f.mb : Nat) : Int) - f.bias - f.mb + f.bias + f.mb - 1 = ((c / 2 ^ f.mb : Nat) : Int) - 1 := by omega
  have hc : ((2 ^ f.mb * (c / 2 ^ f.mb) + c % 2 ^ f.mb : Nat) : Int) = c := by rw [Nat.div_add_mod]
  have hz : (((c / 2 ^ f.mb : Nat) : Int) - 1) * 2 ^ f.mb + ((2 ^ f.mb + c % 2 ^ f.mb : Nat) : Int) = c := by
    rw [← hc, Int.sub_mul, Int.one_mul, Int.mul_comm]
    simp only [Int.natCast_add, Int.natCast_mul, Int.natCast_pow, Int.cast_ofNat_Int]
    omega
  rw [quantaCode, hq, hz, Int.toNat_natCast]

/-- The magnitude of a code rounds to that code, exactly. -/
theorem roundNear_codeMag (f : FF) (c : Nat) : roundNear f (codeMag f c).1 (codeMag f c).2 = (c, false) := by
  rcases Nat.lt_or_ge c (2 ^ f.mb) with h | h
  · rw [codeMag_subnormal h]
    by_cases h0 : c = 0
    · rw [h0, roundNear_zero]
    · rw [roundNear_wholeQuanta h0 (quanta_subnormal h0 h), quantaCode_subnormal]
  · rw [codeMag_normal h, roundNear_wholeQuanta (by have := Nat.two_pow_pos f.mb; omega) (quanta_normal h), quantaCode_normal]

end

/-! ## Binary32 words -/

section
variable {w : Nat}

theorem f32_finite (h : w % 2 ^ 31 ≤ fp32.maxCode) :
    f32 w = .fin (bit w 31) (codeMag fp32 (w % 2 ^ 31)).1 (codeMag fp32 (w % 2 ^ 31)).2 := if_pos h

theorem f32_infinity (h : w % 2 ^ 31 = fp32.maxCode + 1) : f32 w = .inf (bit w 31) :=
  (if_neg (show ¬ w % 2 ^ 31 ≤ fp32.maxCode by omega)).trans (if_pos ⟨rfl, h⟩)

theorem isNan_f32_above (h : fp32.maxCode + 1 < w % 2 ^ 31) : (f32 w).isNan = true := by
  have h1 : ¬ w % 2 ^ 31 ≤ fp32.maxCode := by omega
  have h2 : ¬(fp32.hasInf = true ∧ w % 2 ^ 31 = fp32.maxCode + 1) := by omega
  have hd : f32 w = .nan (bit w 31) (fp32.hasInf && !bit (w % 2 ^ 31) (fp32.mb - 1)) := (if_neg h1).trans (if_neg h2)
  rw [hd]
  rfl

/-- A word is its sign bit and the 31 bits below it. -/
theorem signBit_add_low (hw : w < 2 ^ 32) : signBit fp32 (bit w 31) + w % 2 ^ 31 = w := by
  have hd := Nat.div_add_mod w (2 ^ 31)
  obtain h | h : w / 2 ^ 31 = 0 ∨ w / 2 ^ 31 = 1 := by omega
  · have hb : bit w 31 = false := by rw [bit, h]; rfl
    rw [hb, show signBit fp32 false = 0 from rfl]
    omega
  · have hb : bit w 31 = true := by rw [bit, h]; rfl
    rw [hb, show signBit fp32 true = 2 ^ 31 from rfl]
    omega

theorem toF32_code {c : Nat} (neg : Bool) (h : c ≤ fp32.maxCode) :
    toF32 neg (codeMag fp32 c).1 (codeMag fp32 c).2 = (signBit fp32 neg + c, 0) := by
  simp only [toF32, roundNear_codeMag, if_neg (Nat.not_lt.2 h)]
  rfl

/-- The value of a word that is no NaN is that word's alone (R79). -/
theorem valF32_f32 (hw : w < 2 ^ 32) (hn : (f32 w).isNan = false) : valF32 (f32 w) = (w, 0) := by
  rcases Nat.lt_trichotomy (w % 2 ^ 31) (fp32.maxCode + 1) with h | h | h
  · rw [f32_finite (Nat.le_of_lt_succ h)]
    exact (toF32_code _ (Nat.le_of_lt_succ h)).trans (by rw [signBit_add_low hw])
  · have hs : signBit fp32 (bit w 31) + (fp32.maxCode + 1) = w := h ▸ signBit_add_low hw
    rw [f32_infinity h]
    exact congrArg (·, 0) hs
  · rw [isNan_f32_above h] at hn
    cases hn

end

theorem valF32_nan {v : Fv} (h : v.isNan = true) : valF32 v = (qnan, 0) := by
  cases v with
  | nan neg sig => rfl
  | inf neg => cases h
  | fin neg mag exp => cases h

/-- Settles O12: every code of every format is a whole number of the quanta of its binade; a word is its sign and its code. -/
theorem floatCodesRoundTrip : Obligations.FloatCodesRoundTrip := by
  unfold Obligations.FloatCodesRoundTrip
  refine ⟨?_, ?_, ?_⟩
  · exact fun f _ c _ => roundNear_codeMag f c
  · exact fun w hw hn => valF32_f32 hw hn
  · exact fun w _ hn => valF32_nan hn

/-! # MIN, MAX and CMP (R81) -/

section
variable {a b : Fv}

theorem minMax_nan (h : a.isNan = true ∨ b.isNan = true) (m : Bool) : (minMax m a b).1 = qnan := by
  rw [minMax, if_pos (by simpa using h)]

theorem minMax_number (ha : a.isNan = false) (hb : b.isNan = false) (m : Bool) :
    (minMax m a b).1 = (valF32 (if fvLt true a b == m then b else a)).1 := by
  simp [minMax, ha, hb]

theorem compareFv_nan (h : a.isNan = true ∨ b.isNan = true) (cond : Nat) : compareFv cond a b = decide (cond = 3) := by
  unfold compareFv
  rw [if_pos (by simpa using h)]
  rfl

variable (ha : a.isNan = false) (hb : b.isNan = false)
include ha hb

theorem compareFv_lt : compareFv 0 a b = fvLt false a b := by simp [compareFv, ha, hb]

theorem compareFv_le : compareFv 1 a b = !fvLt false b a := by simp [compareFv, ha, hb]

theorem compareFv_eq : compareFv 2 a b = (!fvLt false a b && !fvLt false b a) := by simp [compareFv, ha, hb]

theorem compareFv_ne : compareFv 3 a b = (fvLt false a b || fvLt false b a) := by simp [compareFv, ha, hb]

theorem compareFv_ne_not_eq : compareFv 3 a b = !compareFv 2 a b := by
  rw [compareFv_ne ha hb, compareFv_eq ha hb, Bool.not_and, Bool.not_not, Bool.not_not]

theorem compareFv_le_not_lt : compareFv 1 a b = !compareFv 0 b a := by rw [compareFv_le ha hb, compareFv_lt hb ha]

end

/-- MIN and MAX of words that are no NaN answer one of them, bit for bit. -/
theorem minMax_f32_mem {a b : Nat} (ha : a < 2 ^ 32) (hb : b < 2 ^ 32) (na : (f32 a).isNan = false)
    (nb : (f32 b).isNan = false) (m : Bool) : (minMax m (f32 a) (f32 b)).1 = a ∨ (minMax m (f32 a) (f32 b)).1 = b := by
  rw [minMax_number na nb]
  split
  · exact .inr (by rw [valF32_f32 hb nb])
  · exact .inl (by rw [valF32_f32 ha na])

/-- Settles O13: a NaN decides every result; without one MIN and MAX answer a word that comes back as it is, and the conditions
are LT of the two orders; the zeros by evaluation. -/
theorem minMaxCompare : Obligations.MinMaxCompare := by
  unfold Obligations.MinMaxCompare
  refine fun a b ha hb => ⟨?_, ?_, ?_, ?_, ?_, ?_, ?_, ?_, ?_, ?_, ?_⟩
  · exact fun h m => minMax_nan h m
  · exact fun na nb m => minMax_f32_mem ha hb na nb m
  · exact fun h cond _ => compareFv_nan h cond
  · exact fun na nb => compareFv_ne_not_eq na nb
  · exact fun na nb => compareFv_le_not_lt na nb
  all_goals decide

end Sys2Proof.Machine

namespace Sys2Proof.Machine

open Sys2Proof

/-! # Graver loads and launches (R70, R73, R74, R351) -/

/-! ## Engines -/

/-- A change of an engine is what it makes of that engine's present contents. -/
theorem setGrv_congr {t : Nat} {f g : Grv → Grv} {s : State} (h : f (grv t s) = g (grv t s)) : setGrv t f s = setGrv t g s :=
  congrArg (fun x => { s with grv := put t x s.grv }) h

/-- The head of a queue of one entry leaves it empty. -/
theorem setGrv_popQueue {t : Nat} {s : State} {w : GWork} (h : (grv t s).queue = [w]) :
    setGrv t (fun g => { g with queue := g.queue.drop 1 }) s = setGrv t (fun g => { g with queue := [] }) s :=
  setGrv_congr (by rw [h]; rfl)

/-! ## GRAVER_LAUNCH -/

section
variable {s : State} {g k : Nat} {d : Desc} (hd : runningDesc g k 0x09 s = some d)
  (hk : workKnown (slice (d.word 3) 0 6) g k s = false)
include hd hk

theorem doGraverLaunch_queues (hr : graverRefusal (ringFn g) (slice (d.word 3) 0 6) true (d.word 2 % 128 != 0) s = .ok) :
    doGraverLaunch g k s =
      queueWork (slice (d.word 3) 0 6) { kind := 1, fn := ringFn g, g := g, k := k, ring := g } s := by
  simp [doGraverLaunch, hd, hk, hr]

theorem doGraverLaunch_refuses {st : Status}
    (hr : graverRefusal (ringFn g) (slice (d.word 3) 0 6) true (d.word 2 % 128 != 0) s = st) (h : st ≠ .ok) :
    doGraverLaunch g k s = failDesc g k st s := by
  simp [doGraverLaunch, hd, hk, hr, h]

end

/-! ## GRAVER_LOAD -/

/-- The work that a load of ring `g` and count `k` queues. -/
def loadWork (g k : Nat) : GWork := { kind := 0, fn := ringFn g, g := g, k := k, ring := g }

/-- The custom region takes instructions from 2048 on and step words from 128 on. -/
def storeCustom (t : Nat) (ins steps : List Nat) (s : State) : State :=
  setGrv t (fun e =>
    { e with prog := ins.zipIdx.foldl (fun p x => put (2048 + x.2) x.1 p) e.prog,
             steps := steps.zipIdx.foldl (fun p x => put (128 + x.2) x.1 p) e.steps }) s

theorem workKnown_of_queued {t g k : Nat} {s : State} (h : loadWork g k ∈ (grv t s).queue) : workKnown t g k s = true := by
  have hq : (grv t s).queue.any (fun w => w.kind != 2 && w.g == g && w.k == k) = true :=
    List.any_eq_true.2 ⟨loadWork g k, h, by simp [loadWork]⟩
  simp [workKnown, hq]

section
variable {s : State} {g k t : Nat} {d : Desc}

/-- A load whose work heads the queue of an idle tile runs. -/
theorem doGraverLoad_runs (hd : runningDesc g k 0x08 s = some d) (ht : t = slice (d.word 3) 20 6)
    (hq : (grv t s).queue = [loadWork g k]) (hr : (grv t s).run = none) :
    doGraverLoad g k s = runLoad t (loadWork g k) s := by
  subst ht
  have hk : workKnown (slice (d.word 3) 20 6) g k s = true := workKnown_of_queued (by simp [hq])
  unfold loadWork at hq ⊢
  simp [doGraverLoad, hd, hk, hq, hr]

/-- A load whose lines are claimed, whose bytes are read and whose words are good is stored and completes OK. -/
theorem runLoad_stores {w : GWork} {n m : Nat} {b : List Byte} {s1 : State} (hd : descOf w.g w.k s = some d)
    (hn : n = slice (d.word 3) 0 12) (hm : m = slice (d.word 3) 12 8)
    (hc : claimed (d.word 2) (16 * (n + m)) false s = true)
    (hb : homeGet (.agent w.fn t) (d.word 2) (16 * (n + m)) (setGrv t (fun g => { g with queue := g.queue.drop 1 }) s) =
      (.ok, b, s1))
    (hi : ((entriesOf b).take n).any instrBad = false)
    (hs : ((entriesOf b).drop n).any (fun v => decide (v / 2 ^ 96 ≠ 0)) = false) :
    runLoad t w s = completeDesc w.g w.k .ok n 0 0
      (wr GRV_PROG_CUSTOM_OWNER t w.fn (setB GRV_PROG_CUSTOM_LOADED t
        (storeCustom t ((entriesOf b).take n) ((entriesOf b).drop n) (clearCustom t s1)))) := by
  subst hn hm
  have hg : Status.ok.good = true := rfl
  have hw : ¬(((entriesOf b).take (slice (d.word 3) 0 12)).any instrBad = true ∨
      ((entriesOf b).drop (slice (d.word 3) 0 12)).any (fun v => decide (v / 2 ^ 96 ≠ 0)) = true) := by
    rw [hi, hs]
    decide
  simp only [runLoad, hd, hc, hb, hg, Bool.not_true, Bool.false_eq_true, if_false, if_neg hw]
  rfl

end

/-- Settles O20: a launch is queued or fails with its refusal, and a load that heads the queue of its idle tile runs and stores. -/
theorem graverLoadLaunch : Obligations.GraverLoadLaunch := by
  unfold Obligations.GraverLoadLaunch
  refine fun s g k d hs => ⟨?_, ?_, ?_⟩
  · exact fun hd hk hr => next_clocked hs (doGraverLaunch_queues hd hk hr)
  · exact fun st hd hk hr h => next_clocked hs (doGraverLaunch_refuses hd hk hr h)
  · intro t n m b s1 hd hf ht hn hm hq hr hc hb hi hb2
    refine next_clocked hs ((doGraverLoad_runs hd ht hq hr).trans ?_)
    rw [← setGrv_popQueue hq] at hb
    exact runLoad_stores (w := loadWork g k) hf hn hm hc hb hi hb2

/-! # Graver instructions (R65 to R67, R75, R76) -/

/-- The effective address of operand A of the instruction `w` that run `r` of TILE_t is at. -/
def atA (t w : Nat) (r : GRun) (s : State) : Int := effAddr (grv t s) (iAAddr w) (iAStep w) (seenIdx r.blk r.x r.idx)
/-- That of operand B. -/
def atB (t w : Nat) (r : GRun) (s : State) : Int := effAddr (grv t s) (iBAddr w) (iBStep w) (seenIdx r.blk r.x r.idx)
/-- That of D. -/
def atD (t w : Nat) (r : GRun) (s : State) : Int := effAddr (grv t s) (iDAddr w) (iDStep w) (seenIdx r.blk r.x r.idx)

/-- An instruction other than PWAIT and PREL issues where the launch holds the buffers it names, or stops the launch. -/
def issuePlain (t w : Nat) (a b d : Int) (r : GRun) (s : State) : State :=
  if !holds r (reads w a b ++ writes w d) then stopRun t .unsupported s
  else issue t w a b d (fun _ => (operate (grv t s) w a b d).1) (operate (grv t s) w a b d).2 s

section
variable {s : State} {t w : Nat} {a b d : Int} {r : GRun}

theorem issuePlain_held (h : holds r (reads w a b ++ writes w d) = true) : issuePlain t w a b d r s =
    issue t w a b d (fun _ => (operate (grv t s) w a b d).1) (operate (grv t s) w a b d).2 s := by
  simp [issuePlain, h]

theorem issuePlain_notHeld (h : holds r (reads w a b ++ writes w d) = false) :
    issuePlain t w a b d r s = stopRun t .unsupported s := by
  simp [issuePlain, h]

end

section
variable {s : State} {t w : Nat} {r : GRun} (hr : (grv t s).run = some r) (he : r.ended = false) (hb : r.blk.isEmpty = false)
  (hw : w = instrOf t r.x s)
include hr he hb hw

theorem engineIssue_plain {o : Nat} (ho : iOpc w = o) (h1 : o ≠ 0x10) (h2 : o ≠ 0x11) :
    engineIssue t o s = issuePlain t w (atA t w r s) (atB t w r s) (atD t w r s) r s := by
  subst hw
  simp only [engineIssue, hr, he, hb, ho, ne_eq, not_true_eq_false, or_self, Bool.false_eq_true, if_false, if_neg h1, if_neg h2]
  rfl

theorem engineIssue_pwait (ho : iOpc w = 0x10) : engineIssue t 0x10 s = issuePwait t w (atA t w r s) r s := by
  subst hw
  simp [engineIssue, hr, he, hb, ho, atA]

theorem engineIssue_prel (ho : iOpc w = 0x11) : engineIssue t 0x11 s = issuePrel t w (atA t w r s) r s := by
  subst hw
  simp [engineIssue, hr, he, hb, ho, atA]

end

theorem plainInstrs_opc {c : Instr} {o t : Nat} (h : (c, o) ∈ plainInstrs t) : o ≠ 0x10 ∧ o ≠ 0x11 := by
  simp only [plainInstrs, List.mem_cons, Prod.mk.injEq, List.not_mem_nil, or_false] at h
  omega

/-- The command of each instruction issues its operation code on its tile while the clocks run. -/
theorem exec_plainInstr {c : Instr} {o t : Nat} {s : State} (hs : s.power.stopped = false) (h : (c, o) ∈ plainInstrs t) :
    exec c s = .next (engineIssue t o s) := by
  simp only [plainInstrs, List.mem_cons, Prod.mk.injEq, List.not_mem_nil, or_false] at h
  obtain ⟨rfl, rfl⟩ | ⟨rfl, rfl⟩ | ⟨rfl, rfl⟩ | ⟨rfl, rfl⟩ | ⟨rfl, rfl⟩ | ⟨rfl, rfl⟩ | ⟨rfl, rfl⟩ | ⟨rfl, rfl⟩ |
    ⟨rfl, rfl⟩ | ⟨rfl, rfl⟩ | ⟨rfl, rfl⟩ | ⟨rfl, rfl⟩ | ⟨rfl, rfl⟩ | ⟨rfl, rfl⟩ := h
  all_goals exact next_clocked hs rfl

/-- Settles O21: each command issues its own operation code, and the issue goes by the buffers that the launch holds. -/
theorem graverInstructions : Obligations.GraverInstructions := by
  unfold Obligations.GraverInstructions
  rintro s t w r a b d c o hs hc hr he hb hw ho rfl rfl rfl
  obtain ⟨h1, h2⟩ := plainInstrs_opc hc
  rw [exec_plainInstr hs hc, engineIssue_plain hr he hb hw ho h1 h2]
  exact ⟨fun hh => congrArg _ (issuePlain_held hh), fun hh => congrArg _ (issuePlain_notHeld hh)⟩

end Sys2Proof.Machine

namespace Sys2Proof.Machine

open Sys2Proof

/-! # Panels and the end of a launch (R62, R63, R72, R74, R77, R88 to R91, R132) -/

/-! ## PWAIT and PREL -/

section
variable {s : State} {t w : Nat} {a : Int} {r : GRun}

theorem issuePwait_ready (h : (nth {} r.bufs (a.toNat / 0x8000)).st = .ready) : issuePwait t w a r s =
    setBuf t (a.toNat / 0x8000) (fun x => { x with st := .engine }) (issue t w a 0 0 id 0 s) := by
  simp only [issuePwait, h]

theorem issuePwait_loading (h : (nth {} r.bufs (a.toNat / 0x8000)).st = .loading) :
    issuePwait t w a r s = wr GRV_STATUS_STATE t 2 s := by
  simp only [issuePwait, h]

theorem issuePwait_failed {st : Status} (h : (nth {} r.bufs (a.toNat / 0x8000)).st = .failed st) :
    issuePwait t w a r s = stopRun t st s := by
  simp only [issuePwait, h]

theorem issuePrel_held (h : (nth {} r.bufs (a.toNat / 0x8000)).st = .engine) : issuePrel t w a r s =
    handOver t (a.toNat / 0x8000) r.x (iCond w == 1) (issue t w a 0 0 id 0 s) := by
  simp [issuePrel, h]

theorem issuePrel_notHeld (h : (nth {} r.bufs (a.toNat / 0x8000)).st ≠ .engine) :
    issuePrel t w a r s = stopRun t .unsupported s := by
  simp [issuePrel, h]

end

/-! ## Panel loads and drains -/

/-- The panel that a move with outcome `z` gives: its bytes in rows of 1,024, where they are good. -/
def movedPanel (z : Job) : Panel :=
  { st := z.status,
    data := if z.status.good then (chunks 1024 129 z.image).zipIdx.map (fun q => (1024 * q.2, q.1)) else [] }

theorem endLoad_good {s : State} {t b : Nat} {p : Panel} {r : GRun} (hr : (grv t s).run = some r) (hp : p.st.good = true) :
    endLoad t b p s = countTile t 0x05 r.work.fn 1 (setBuf t b (fun x => { x with st := .ready, job := none })
      (setGrv t (fillBuffer b p) s)) := by
  simp only [endLoad, hr, hp]
  rfl

section
variable {s : State} {t b : Nat} {r : GRun} {x : PBuf} {e : List Nat} (hr : (grv t s).run = some r)
  (hx : bufAt t b s = some x) (hl : x.st = .loading) (he : x.entries[x.k]? = some e) (hg : entryBad e = false)
include hr hx hl he hg

theorem doPanelLoadDone_zero (hk : peKind e = 0) : doPanelLoadDone t b s = endLoad t b {} s := by
  simp [doPanelLoadDone, hr, hx, hl, he, hg, hk]

theorem doPanelLoadDone_gather (h0 : peKind e ≠ 0) (h1 : peKind e ≠ 1)
    (hc : claimed (gatherClaims e).1 (gatherClaims e).2 false s = true) {p : Panel} {s1 : State}
    (hp : gather r.work.fn t (r.work.kind == 2) false e s = (p, s1)) :
    doPanelLoadDone t b s =
      endLoad t b p (countTile t 0x06 r.work.fn ((p.data ++ p.scales).map (fun x => x.2.length)).sum s1) := by
  simp [doPanelLoadDone, hr, hx, hl, he, hg, h0, h1, hc, hp]

theorem doPanelLoadDone_plain (hk : peKind e = 1) {j : Nat} {z : Job} (hj : x.job = some j)
    (hz : jobOf j (advanceJob j s) = some z) (hd : z.ended = true) :
    doPanelLoadDone t b s = endLoad t b (movedPanel z) (dropJob j (advanceJob j s)) := by
  simp [doPanelLoadDone, movedPanel, hr, hx, hl, he, hg, hk, hj, hz, hd]

end

theorem doPanelDrainDone_drained {s : State} {t b l j : Nat} {x : PBuf} {z : Job} (hx : bufAt t b s = some x)
    (hl : x.st = .draining l) (hj : x.job = some j) (hz : jobOf j (advanceJob j s) = some z) (hd : z.ended = true)
    (hg : z.status.good = true) : doPanelDrainDone t b s =
      beginLoad t b (setBuf t b (fun y => { y with k := y.k + 1, job := none })
        (setRun t (fun r => { r with drained := r.drained + 1 }) (dropJob j (advanceJob j s)))) := by
  simp [doPanelDrainDone, hx, hl, hj, hz, hd, hg]

/-! ## LAUNCH_COMPLETE, LAUNCH_TIMEOUT and LAUNCH_START -/

theorem doLaunchComplete_completes {s : State} {t : Nat} {r : GRun} (hr : (grv t s).run = some r) (he : r.ended = true)
    (hd : drained r = true) (hk : r.work.kind = 1) : doLaunchComplete t s =
      launchRecord r.work.g r.work.k r.status r.stop r.cycles r.drained r.flags (retireRun t r s) := by
  simp [doLaunchComplete, hr, he, hd, hk]

theorem doLaunchTimeout_stops {s : State} {t : Nat} {r : GRun} (hr : (grv t s).run = some r) (he : r.ended = false)
    (h0 : rd GRV_LIMIT_LIMIT t s ≠ 0) (hl : us16 (rd GRV_LIMIT_LIMIT t s) < now16 s - r.startAt - r.paused) :
    doLaunchTimeout t s = stopRun t .timeout s := by
  simp [doLaunchTimeout, overLimit, hr, he, h0, hl]

section
variable {s : State} {t : Nat} {w : GWork} {rest : List GWork} (hr : (grv t s).run = none) (ht : tileServes t s = true)
  (hq : (grv t s).queue = w :: rest)
include hr ht hq

theorem doLaunchStart_load (hk : w.kind = 0) : doLaunchStart t s = runLoad t w s := by simp [doLaunchStart, hr, ht, hq, hk]

theorem doLaunchStart_launch (hk : w.kind = 1) : doLaunchStart t s = startRun t w s := by simp [doLaunchStart, hr, ht, hq, hk]

theorem doLaunchStart_item (hk : w.kind = 2) : doLaunchStart t s = startItem t w s := by simp [doLaunchStart, hr, ht, hq, hk]

end

/-- Settles O22: PWAIT and PREL by the state of their buffer, a load by the kind of its entry, and the end, the time limit and the
start by the case of their operation that applies. -/
theorem graverPanelsAndLaunchEnd : Obligations.GraverPanelsAndLaunchEnd := by
  unfold Obligations.GraverPanelsAndLaunchEnd
  refine ⟨?_, fun s t hs => ⟨?_, ?_, ?_⟩⟩
  · rintro s t w r a hs hr he hb hw rfl
    have pwait {x : State} (ho : iOpc w = 0x10) (h : issuePwait t w (atA t w r s) r s = x) : exec (.pwait t) s = .next x :=
      next_clocked hs ((engineIssue_pwait hr he hb hw ho).trans h)
    have prel {x : State} (ho : iOpc w = 0x11) (h : issuePrel t w (atA t w r s) r s = x) : exec (.prel t) s = .next x :=
      next_clocked hs ((engineIssue_prel hr he hb hw ho).trans h)
    refine ⟨?_, ?_, ?_, ?_, ?_, ?_, ?_, ?_, ?_⟩
    · exact fun ho h => pwait ho (issuePwait_ready h)
    · exact fun ho h => pwait ho (issuePwait_loading h)
    · exact fun st ho h => pwait ho (issuePwait_failed h)
    · exact fun ho h => prel ho (issuePrel_held h)
    · exact fun ho h => prel ho (issuePrel_notHeld h)
    · intro b x e hx hl hn hg hk
      exact next_clocked hs ((doPanelLoadDone_zero hr hx hl hn hg hk).trans (endLoad_good hr rfl))
    · exact fun b x e p s1 hx hl hn hg h0 h1 hc hp => next_clocked hs (doPanelLoadDone_gather hr hx hl hn hg h0 h1 hc hp)
    · rintro b x e j z ⟨_, _, _⟩ hx hl hn hg hk hj hz hd rfl rfl rfl
      exact next_clocked hs (doPanelLoadDone_plain hr hx hl hn hg hk hj hz hd)
    · exact fun b x l j z hx hl hj hz hd hg => next_clocked hs (doPanelDrainDone_drained hx hl hj hz hd hg)
  · exact fun r hr he hd hk => next_clocked hs (doLaunchComplete_completes hr he hd hk)
  · exact fun r hr he h0 hl => next_clocked hs (doLaunchTimeout_stops hr he h0 hl)
  · intro w rest hr ht hq
    refine ⟨?_, ?_, ?_⟩
    · exact fun hk => next_clocked hs (doLaunchStart_load hr ht hq hk)
    · exact fun hk => next_clocked hs (doLaunchStart_launch hr ht hq hk)
    · exact fun hk => next_clocked hs (doLaunchStart_item hr ht hq hk)

end Sys2Proof.Machine

namespace Sys2Proof.Machine

open Sys2Proof

/-! # Sessions: acceptance of a descriptor (R114, R118, R119) -/

/-! ## Statuses (R17) -/

@[simp] theorem ok_worse (a : Status) : Status.ok.worse a = a := by cases a <;> rfl

@[simp] theorem worse_ok (a : Status) : a.worse .ok = a := by cases a <;> rfl

@[simp] theorem worst_pair (a b : Status) : Status.worst [a, b] = a.worse b := by simp [Status.worst]

@[simp] theorem ok_good : Status.ok.good = true := rfl

/-! ## Descriptors that are accepted -/

theorem sesDesc_runs {ty g k : Nat} {s : State} {d : Desc} (hd : runningDesc g k ty s = some d)
    (hh : sesHeld (ringFn g) ty s = false) (f : Desc → State) : sesDesc ty g k s f = f d := by
  simp [sesDesc, hd, hh]

/-- An operation that needs no panel mover waits for no tile. -/
theorem sesHeld_withoutMover {ty : Nat} (h : needsMover ty = false) (n : Nat) (s : State) : sesHeld n ty s = false := by
  simp [sesHeld, h]

section
variable {s : State} {ty g k : Nat} {d : Desc} (extra : Desc → Nat → SesEnt → Status)
  (f : Desc → Nat → SesEnt → State)

theorem handleStatus_runs {n h i : Nat} {e : SesEnt} (ho : sesOf n h s = some (i, e)) (ht : tableRuns ty e = true) :
    handleStatus n ty h s = .ok := by
  simp [handleStatus, ho, ht]

theorem handleStatus_unknown {n h : Nat} (ho : sesOf n h s = none) : handleStatus n ty h s = .accessDenied := by
  simp [handleStatus, ho]

/-- What becomes of an operation that may run on its session is `extra`'s to say. -/
theorem onSession_named {i : Nat} {e : SesEnt} (h : sessionNamed ty g k d i e s) :
    onSession ty g k extra f s = if extra d i e ≠ .ok then failDesc g k (extra d i e) s else f d i e := by
  obtain ⟨hd, hh, hg, ho, ht, hb⟩ := h
  simp [onSession, sesDesc_runs hd hh, hg, handleStatus_runs ho ht, ho, hb]

variable {extra f}

theorem onSession_runs {i : Nat} {e : SesEnt} (h : sessionNamed ty g k d i e s) (hx : extra d i e = .ok) :
    onSession ty g k extra f s = f d i e :=
  (onSession_named extra f h).trans (if_neg (Classical.not_not.2 hx))

theorem onSession_refuses {i : Nat} {e : SesEnt} {st : Status} (h : sessionNamed ty g k d i e s) (hx : extra d i e = st)
    (hn : st ≠ .ok) : onSession ty g k extra f s = failDesc g k st s := by
  subst hx
  exact (onSession_named extra f h).trans (if_pos hn)

theorem onSession_unknown (hd : runningDesc g k ty s = some d) (hh : sesHeld (ringFn g) ty s = false)
    (hg : sesGate (ringFn g) ty s = .ok) (ho : sesOf (ringFn g) (wrap 32 (d.word 2)) s = none) :
    onSession ty g k extra f s = failDesc g k .accessDenied s := by
  simp [onSession, sesDesc_runs hd hh, hg, handleStatus_unknown ho, ho]

end

/-! # Pool, creation, append, query and streams (R116, R117, R120 to R122, R131, R141, R505) -/

/-! ## KV_POOL_ADD (R116) -/

/-- The range that function `n` adds to its pool is held. -/
def holdRange (n first frames : Nat) (s : State) : State :=
  setMem (fun m => { m with held := m.held ++ [(n, first, frames)] }) s

section
variable {s : State} {g k : Nat} {d : Desc} (hd : runningDesc g k 0x10 s = some d)
include hd

theorem doKvPoolAdd_adds {base n : Nat} (hb : base = slice (d.word 2) 0 44) (hn : n = slice (d.word 3) 0 29)
    (hp : poolAddStatus (ringFn g) base n s = .ok) (hc : wideClaimed base (n * 32768) s = true) :
    doKvPoolAdd g k s = completeDesc g k .ok (poolTotal (ringFn g) (holdRange (ringFn g) (base / 32768) n s)) 0 0
      (holdRange (ringFn g) (base / 32768) n s) := by
  subst hb hn
  simp [doKvPoolAdd, sesDesc_runs hd (sesHeld_withoutMover rfl _ _), hp, hc, holdRange]

theorem doKvPoolAdd_refuses {base n : Nat} (hb : base = slice (d.word 2) 0 44) (hn : n = slice (d.word 3) 0 29)
    (hp : poolAddStatus (ringFn g) base n s ≠ .ok) :
    doKvPoolAdd g k s = failDesc g k (poolAddStatus (ringFn g) base n s) s := by
  subst hb hn
  simp [doKvPoolAdd, sesDesc_runs hd (sesHeld_withoutMover rfl _ _), hp]

end

/-! ## SES_CREATE (R120) -/

theorem geometryBad_noTokens (kv dim lm hm : Nat) : geometryBad kv dim lm hm 0 = true := by simp [geometryBad]

theorem createStatus_bad (n frames : Nat) (s : State) : createStatus n true frames s = .unsupported := rfl

/-- The entry that the words of a SES_CREATE descriptor ask for. -/
def entryAsked (n : Nat) (d : Desc) : SesEnt :=
  { fn := n, kvFmt := slice (d.word 2) 0 4, dim := slice (d.word 2) 4 2, layersM1 := slice (d.word 2) 6 8,
    headsM1 := slice (d.word 2) 14 6, gen := 0, maxTokens := slice (d.word 3) 0 23, root := 0 }

section
variable {s : State} {g k : Nat} {d : Desc} (hd : runningDesc g k 0x11 s = some d)
  (hh : sesHeld (ringFn g) 0x11 s = false) (hg : sesGate (ringFn g) 0x11 s = .ok)
include hd hh hg

theorem doSesCreate_makes {x : SesEnt} {r : Status × Nat × State} (hx : x = entryAsked (ringFn g) d)
    (hc : createStatus (ringFn g) (geometryBad x.kvFmt x.dim x.layersM1 x.headsM1 x.maxTokens) (x.leaves + 1) s = .ok)
    (hr : r = makeSes x s) :
    doSesCreate g k s = if r.1.good then completeDesc g k .ok (handleOf r.2.1 (sesGen r.2.1 r.2.2)) 0 0 r.2.2
      else failDesc g k r.1 r.2.2 := by
  subst hx
  rw [hr]
  unfold entryAsked at hc
  unfold entryAsked
  simp [doSesCreate, sesDesc_runs hd hh, hg, hc]

theorem doSesCreate_noTokens (ht : slice (d.word 3) 0 23 = 0) : doSesCreate g k s = failDesc g k .unsupported s := by
  simp [doSesCreate, sesDesc_runs hd hh, hg, ht, geometryBad_noTokens, createStatus_bad]

end

/-! ## KV_APPEND (R121, R122, R505) -/

theorem appendStatus_quota {e : SesEnt} {layer fmt at' count : Nat} (hl : layer < e.layers) (hf : fmt ≤ 2)
    (ht : e.maxTokens < at' + count) (p : Nat × Nat × Nat) : appendStatus e layer fmt at' count p = .quota := by
  rw [appendStatus, if_neg (by omega), if_pos ht]

section
variable {s : State} {g k i : Nat} {d : Desc} {e : SesEnt} (h : sessionNamed 0x12 g k d i e s)
include h

theorem doKvAppend_writes {layer count fmt at' src : Nat} (hl : layer = slice (d.word 2) 32 8)
    (hc : count = slice (d.word 2) 40 6 + 1) (hf : fmt = slice (d.word 2) 48 2) (ha : at' = slice (d.word 3) 0 23)
    (hs : src = slice (d.word 4) 0 44) (hx : appendStatus e layer fmt at' count (pendingOf e s).2.1 = .ok)
    (hr : appendReady e count fmt src s = true) {w : Status × State} (hw : w = appendRun i e layer count fmt at' src s) :
    doKvAppend g k s = if w.1.good then completeDesc g k .ok (((sesEnt i w.2).map SesEnt.len).getD 0) 0 0 w.2
      else failDesc g k w.1 w.2 := by
  subst hl hc hf ha hs hw
  refine (onSession_runs h hx).trans ?_
  simp only [hr, Bool.not_true, Bool.false_eq_true, if_false]

theorem doKvAppend_quota (ht : e.maxTokens < slice (d.word 3) 0 23 + (slice (d.word 2) 40 6 + 1))
    (hl : slice (d.word 2) 32 8 < e.layers) (hf : slice (d.word 2) 48 2 ≤ 2) :
    doKvAppend g k s = failDesc g k .quota s :=
  onSession_refuses h (appendStatus_quota hl hf ht _) (by decide)

end

/-! ## SES_QUERY (R117) -/

section
variable {s : State} {g k i : Nat} {d : Desc} {e : SesEnt} (h : sessionNamed 0x19 g k d i e s)
include h

theorem doSesQuery_writes {buf : Nat} {r : Status × List Byte × State} {w : Status × State}
    (hb : buf = slice (d.word 3) 0 44) (ha : buf % 64 = 0) (ht : rangeStatus (.agent e.fn) buf 96 true s = .ok)
    (hc : claimed buf 96 true s = true) (hr : r = homeGet (.engine e.fn) (frameOff e.root) 64 s) (hg : r.1.good = true)
    (hw : w = homePut (.agent e.fn) buf (e.image ++ r.2.1) r.2.2) : doSesQuery g k s = failDesc g k w.1 w.2 := by
  subst hb hw hr
  refine (onSession_runs h (by simp [ha, ht])).trans ?_
  simp only [hc, hg, Bool.not_true, Bool.false_eq_true, if_false]

theorem doSesQuery_misaligned (ha : slice (d.word 3) 0 44 % 64 ≠ 0)
    (ht : rangeStatus (.agent e.fn) (slice (d.word 3) 0 44) 96 true s = .ok) :
    doSesQuery g k s = failDesc g k .unsupported s :=
  onSession_refuses h (by simp [ha, ht]) (by decide)

end

/-! ## STREAM_ADMIT (R131) -/

section
variable {s : State} {g k i : Nat} {d : Desc} {e : SesEnt} (h : sessionNamed 0x1A g k d i e s)
include h

theorem doStreamAdmit_admits {t : Nat} {x : StrEnt} (hq : strHeldBy e.fn s < rd STR_QUOTA_MAX e.fn s) (ht : freeStr s = some t)
    (hx : x = { session := i, gen := e.gen, fn := e.fn, sketchSel := bit (d.word 2) 40, pageBudget := slice (d.word 2) 41 16,
                batch := slice (d.word 2) 32 8, pos := e.len, qSlot := slice (d.word 3) 0 16 }) :
    doStreamAdmit g k s = completeDesc g k .ok t 0 0 (putEnt i { e with stream := t, streamValid := true }
      (setSes (fun y => { y with streams := put t x y.streams }) s)) := by
  subst hx
  refine (onSession_runs h (by simp [ht, Nat.not_le.2 hq])).trans ?_
  simp only [ht]

theorem doStreamAdmit_quota (hq : rd STR_QUOTA_MAX e.fn s ≤ strHeldBy e.fn s) :
    doStreamAdmit g k s = failDesc g k .quota s :=
  onSession_refuses h (if_pos (.inl hq)) (by decide)

end

/-! ## STREAM_RETIRE (R131, R141) -/

/-- Stream `t` is in a batch that runs. -/
def inRunningBatch (t : Nat) (s : State) : Bool :=
  s.attn.batches.any (fun b => b.running && b.streams.any (fun x => x.idx == t))

theorem inRunningBatch_eq_false {t : Nat} {s : State}
    (h : ∀ b ∈ s.attn.batches, b.running = true → ∀ y ∈ b.streams, y.idx ≠ t) : inRunningBatch t s = false := by
  simpa [inRunningBatch] using h

section
variable {s : State} {g k t : Nat} {d : Desc} {x : StrEnt} (hd : runningDesc g k 0x1B s = some d)
  (ht : t = slice (d.word 2) 0 17) (hx : look s.ses.streams t = some x) (hg : sesGate (ringFn g) 0x1B s = .ok)
  (hb : inRunningBatch t s = false)
include hd ht hx hg hb

theorem doStreamRetire_own (ho : x.fn = ringFn g) :
    doStreamRetire g k s = completeDesc g k .ok 0 0 0 (retireStream t s) := by
  subst ht
  unfold inRunningBatch at hb
  simp only [doStreamRetire, sesDesc_runs hd (sesHeld_withoutMover rfl _ _), hx, hg, hb, if_pos ho, ok_worse]
  rfl

theorem doStreamRetire_foreign (ho : x.fn ≠ ringFn g) : doStreamRetire g k s = failDesc g k .accessDenied s := by
  subst ht
  unfold inRunningBatch at hb
  simp only [doStreamRetire, sesDesc_runs hd (sesHeld_withoutMover rfl _ _), hx, hg, hb, if_neg ho, ok_worse]
  rfl

end

/-- Settles O30: each clause is one case of its descriptor's operation: what it does once accepted, or the status that
refuses it. -/
theorem sessionPoolsAndTokens : Obligations.SessionPoolsAndTokens := by
  unfold Obligations.SessionPoolsAndTokens
  refine fun s g k d i e hs => ⟨?_, ?_, ?_, ?_, ?_, ?_, ?_, ?_, ?_, ?_, ?_, ?_⟩
  · exact fun base n hd hb hn hp hc => next_clocked hs (doKvPoolAdd_adds hd hb hn hp hc)
  · exact fun base n hd hb hn hp => next_clocked hs (doKvPoolAdd_refuses hd hb hn hp)
  · exact fun x r hd hh hg hx hc hr => next_clocked hs (doSesCreate_makes hd hh hg hx hc hr)
  · exact fun hd hh hg ht => next_clocked hs (doSesCreate_noTokens hd hh hg ht)
  · exact fun layer count fmt at' src w h hl hc hf ha hsrc hx hr hw =>
      next_clocked hs (doKvAppend_writes h hl hc hf ha hsrc hx hr hw)
  · exact fun h ht hl hf => next_clocked hs (doKvAppend_quota h ht hl hf)
  · exact fun buf r w h hb ha ht hc hr hg hw => next_clocked hs (doSesQuery_writes h hb ha ht hc hr hg hw)
  · exact fun h ha ht => next_clocked hs (doSesQuery_misaligned h ha ht)
  · exact fun t x h hq ht hx => next_clocked hs (doStreamAdmit_admits h hq ht hx)
  · exact fun h hq => next_clocked hs (doStreamAdmit_quota h hq)
  · exact fun t x hd ht hx ho hg hb => next_clocked hs (doStreamRetire_own hd ht hx hg (inRunningBatch_eq_false hb) ho)
  · exact fun t x hd ht hx ho hg hb => next_clocked hs (doStreamRetire_foreign hd ht hx hg (inRunningBatch_eq_false hb) ho)

end Sys2Proof.Machine

namespace Sys2Proof.Machine

open Sys2Proof

/-! # Fork, delete, mirror, migrate, park and restore (R117, R123, R125 to R129, R331, R333, R505) -/

/-! ## SES_FORK (R123, R505) -/

section
variable {s : State} {g k i : Nat} {d : Desc} {e : SesEnt} (h : sessionNamed 0x13 g k d i e s)
include h

theorem doSesFork_forks {x : SesEnt} {r : Status × Nat × State} {w : Status × State} (hx : x = childOf d e)
    (hl : x.len ≤ e.len) (ht : x.len ≤ x.maxTokens)
    (hb : geometryBad x.kvFmt x.dim x.layersM1 x.headsM1 x.maxTokens = false)
    (hc : createStatus e.fn false (x.leaves + 1 + (if x.len % e.n = 0 then 0 else e.layers * e.heads)) s = .ok)
    (hr : r = makeSes x s)
    (hw : w = seqSteps ((List.range e.layers).flatMap (fun l => (List.range e.heads).flatMap (fun h =>
      forkSteps i r.2.1 x.len e.n l h))) r.2.2) :
    doSesFork g k s = if !r.1.good then failDesc g k r.1 r.2.2
      else if w.1.good then completeDesc g k .ok (handleOf r.2.1 (sesGen r.2.1 w.2)) 0 0 w.2
      else failDesc g k w.1 (setSes (fun z => { z with gens := put r.2.1 (sesGen r.2.1 s) z.gens })
        (eraseSes r.2.1 w.2).2.2) := by
  subst hx
  rw [hw, hr]
  refine (onSession_runs h ?_).trans rfl
  simp only [decide_eq_false (Nat.not_lt.2 hl), decide_eq_false (Nat.not_lt.2 ht), hb, Bool.or_self, hc]

theorem doSesFork_pastParent (hl : e.len < (childOf d e).len) : doSesFork g k s = failDesc g k .unsupported s := by
  refine onSession_refuses h ?_ (by decide)
  simp only [decide_eq_true hl, Bool.true_or, createStatus_bad]

end

/-! ## SES_DELETE (R129) -/

section
variable {s : State} {i : Nat} (ho : sesOpOf i s = none)
include ho

/-- With no operation waiting on the session, only a mirrored one has a replica to drop. -/
theorem dropReplica_idle (e : SesEnt) : dropReplica i e s =
    if mirrors e then tellHub (twinId s) 2 [e.twinIndex, e.fn] (forgetMirror i s) else s := by
  simp [dropReplica, ho]

theorem sesOpOf_dropReplica (e : SesEnt) : sesOpOf i (dropReplica i e s) = none := by
  rw [dropReplica_idle ho]
  split <;> exact ho

theorem doSesDelete_erases {g k : Nat} {d : Desc} {e : SesEnt} {u v w : State} (h : sessionNamed 0x18 g k d i e s)
    (hu : u = if mirrors e then tellHub (twinId s) 2 [e.twinIndex, e.fn] (forgetMirror i s) else s)
    (hv : v = if e.replica then tellHub (twinId u) 3 [e.twinIndex, e.fn] u else u)
    (hw : w = if e.streamValid then dropStream e.stream v else v) :
    doSesDelete g k s = completeDesc g k (eraseSes i w).1 (eraseSes i w).2.1 0 0 (eraseSes i w).2.2 := by
  rw [← dropReplica_idle ho] at hu
  rw [hw, hv, hu]
  refine (onSession_runs h rfl).trans ?_
  simp only [sesOpOf_dropReplica ho]

end

/-! ## SES_MIRROR (R127) -/

section
variable {s : State} {g k : Nat}

theorem doSesMirror_asks {d : Desc} {i : Nat} {e : SesEnt} {o : SesOp} (hn : sesOpAt g k s = none)
    (h : sessionNamed 0x16 g k d i e s) (hd : mirrorDenied e.fn s = false) (hb : bit (d.word 2) 32 = true)
    (hm : e.mirror = false) (hp : goodPorts 6 s ≠ []) (ho : o = { ty := 0x16, g := g, k := k, ses := i }) :
    doSesMirror g k none s =
      tellHub (twinId s) 1 (e.words ++ [i]) (setState i 5 (setSes (fun x => { x with ops := x.ops ++ [o] }) s)) := by
  subst ho
  simp only [doSesMirror, hn]
  refine (onSession_runs h (by simp [hd, hp])).trans ?_
  simp only [hb, hm, if_true, Bool.false_eq_true, if_false]

theorem doSesMirror_answered {o : SesOp} (hn : sesOpAt g k s = some o) (ht : o.ty = 0x16) (hp : o.phase = 0) (st : Status)
    (handle : Nat) : doSesMirror g k (some (st, handle)) s = mirrorAnswer o st handle s := by
  simp [doSesMirror, hn, ht, hp]

/-! ## SES_MIGRATE (R128) -/

theorem doSesMigrate_answered {o : SesOp} (hn : sesOpAt g k s = some o) (ht : o.ty = 0x17) (st : Status) (handle : Nat) :
    doSesMigrate g k (some (st, handle)) s = migrateAnswer o st handle s := by
  simp [doSesMigrate, hn, ht]

variable {d : Desc} {i : Nat} {e : SesEnt} (hn : sesOpAt g k s = none) (h : sessionNamed 0x17 g k d i e s)
include hn h

/-- A migration to another hub that a route leads to takes the session's pages along, where they can be read. -/
theorem doSesMigrate_asks {b : Status × (List Nat × List Byte) × State}
    (hd : slice (d.word 2) 32 12 ≠ rd HUB_ID_ID 0 s) (hv : rdb SYR_ROUTE_VALID (slice (d.word 2) 32 12) s = true)
    (hb : b = migrateBundle i e s) : doSesMigrate g k none s = if !b.1.good then failDesc g k b.1 b.2.2 else
      tellFirmware (4096 * rd HUB_ID_TWIN 0 s + slice (d.word 2) 32 12) 4 b.2.1.1 b.2.1.2 (setState i 4
        (setSes (fun x => { x with ops := x.ops ++ [{ ty := 0x17, g := g, k := k, ses := i }] }) b.2.2)) := by
  rw [hb]
  simp only [doSesMigrate, hn]
  refine (onSession_runs h ?_).trans rfl
  simp [hd, hv]

theorem doSesMigrate_toItself (hd : slice (d.word 2) 32 12 = rd HUB_ID_ID 0 s) :
    doSesMigrate g k none s = failDesc g k .unsupported s := by
  simp only [doSesMigrate, hn]
  exact onSession_refuses h (if_pos hd) (by decide)

end

/-! ## SES_PARK (R125) -/

theorem doSesPark_sends {s : State} {g k i : Nat} {d : Desc} {e : SesEnt} {f : Status × List (List Byte) × State}
    {root : Nat × State} {nonce : Nat} {img : List Byte} {o : SesOp} (h : sessionNamed 0x14 g k d i e s)
    (ht : targetStatus e.fn (slice (d.word 3) 0 2) (slice (d.word 3) 2 2) (slice (d.word 3) 4 32) (d.word 4)
      (imageBytes (imageEntries e).length) s = .ok)
    (hf : f = readFrames e (imageEntries e) s) (hg : f.1.good = true) (hr : root = parkRoot e.fn f.2.2)
    (hn : nonce = ofBytes (freeBytes root.2.freeCtr 12))
    (hi : img = parkImage (Config.parkKey root.1 e.fn nonce) nonce e f.2.1)
    (ho : o = { ty := 0x14, g := g, k := k, ses := i, kind := slice (d.word 3) 0 2, port := slice (d.word 3) 2 2,
                nsid := slice (d.word 3) 4 32, target := d.word 4, image := img.take 4096 }) :
    doSesPark g k s = sendDevice o e.fn 0 0 img.length img
      (setState i 1 (setSes (fun x => { x with ops := x.ops ++ [o] }) (drewN 12 root.2))) := by
  rw [hf] at hg
  rw [ho, hi, hn, hr, hf]
  refine (onSession_runs h ht).trans ?_
  simp only [hg, Bool.not_true, Bool.false_eq_true, if_false]

/-! ## SES_RESTORE (R126) -/

section
variable {s : State} {g k : Nat} {d : Desc} (hd : runningDesc g k 0x15 s = some d)
  (hh : sesHeld (ringFn g) 0x15 s = false) (hg : sesGate (ringFn g) 0x15 s = .ok) (hn : sesOpAt g k s = none)
  (hb : sesBehind g k s = false)
include hd hh hg hn hb

/-- A restore, of the session `known` or with none of a new one, asks the device for the image's header. -/
theorem doSesRestore_asks {known : Option (Nat × SesEnt)} {kind port nsid target : Nat} {s1 : State}
    (hk : (if wrap 32 (d.word 2) = 0 then none else sesOf (ringFn g) (wrap 32 (d.word 2)) s) = known)
    (hs : (if wrap 32 (d.word 2) = 0 then .ok else handleStatus (ringFn g) 0x15 (wrap 32 (d.word 2)) s) = Status.ok)
    (hr : restoreTarget d (known.map Prod.snd) s = (.ok, (kind, port, nsid, target), s1))
    (ht : targetStatus (ringFn g) kind port nsid target 4096 s1 = .ok) {o : SesOp}
    (ho : o = { ty := 0x15, g := g, k := k, ses := (known.map Prod.fst).getD 262144, kind := kind, port := port,
                nsid := nsid, target := target }) :
    doSesRestore g k s = sendDevice o (ringFn g) 2 0 4096 []
      (known.elim id (fun p => setState p.1 3) (setSes (fun x => { x with ops := x.ops ++ [o] }) s1)) := by
  have hw : Status.worst [.ok, .ok, .ok] = .ok := rfl
  subst ho
  simp only [doSesRestore, sesDesc_runs hd hh, hn, hb, hk, hs, hr, hg, ht, hw, ok_good, Option.isSome_none,
    Bool.false_eq_true, ne_eq, not_true_eq_false, if_false, if_true]
  cases known <;> rfl

theorem doSesRestore_session {i kind port nsid target : Nat} {e : SesEnt} {s1 : State} {o : SesOp}
    (h0 : wrap 32 (d.word 2) ≠ 0) (hs : sesOf (ringFn g) (wrap 32 (d.word 2)) s = some (i, e)) (ht : tableRuns 0x15 e = true)
    (hr : restoreTarget d (some e) s = (.ok, (kind, port, nsid, target), s1))
    (hq : targetStatus (ringFn g) kind port nsid target 4096 s1 = .ok)
    (ho : o = { ty := 0x15, g := g, k := k, ses := i, kind := kind, port := port, nsid := nsid, target := target }) :
    doSesRestore g k s = sendDevice o (ringFn g) 2 0 4096 []
      (setState i 3 (setSes (fun x => { x with ops := x.ops ++ [o] }) s1)) :=
  doSesRestore_asks hd hh hg hn hb (known := some (i, e)) ((if_neg h0).trans hs)
    ((if_neg h0).trans (handleStatus_runs hs ht)) hr hq ho

theorem doSesRestore_newSession {kind port nsid target : Nat} {s1 : State} {o : SesOp} (h0 : wrap 32 (d.word 2) = 0)
    (hr : restoreTarget d none s = (.ok, (kind, port, nsid, target), s1))
    (hq : targetStatus (ringFn g) kind port nsid target 4096 s1 = .ok)
    (ho : o = { ty := 0x15, g := g, k := k, ses := 262144, kind := kind, port := port, nsid := nsid, target := target }) :
    doSesRestore g k s = sendDevice o (ringFn g) 2 0 4096 [] (setSes (fun x => { x with ops := x.ops ++ [o] }) s1) :=
  doSesRestore_asks hd hh hg hn hb (known := none) (if_pos h0) (if_pos h0) hr hq ho

end

/-! ## DS_DEVICE_COMPLETION (R331, R333) -/

theorem doDsDeviceCompletion_drives {s : State} {p tag id : Nat} {r : Req} (ht : tag ≠ shutdownTag)
    (hr : reqOf 3 78 tag s = some r) (hp : r.purpose = .device p id) (outcome : Nat) (data : List Byte) :
    doDsDeviceCompletion p tag outcome data s = deviceAnswer id (deviceStatus outcome) data (retireReq r s) := by
  simp [doDsDeviceCompletion, ht, hr, hp]

theorem doDsDeviceCompletion_shutdown (p outcome : Nat) (data : List Byte) (s : State) :
    doDsDeviceCompletion p shutdownTag outcome data s =
      setDs p (fun x => if x.shutAt.isSome then { x with shutDone := true } else x) s := by
  simp [doDsDeviceCompletion]

/-- Settles O31: each clause is one case of its operation: the session's own part once accepted, the status that refuses it, or
the answer of the other hub or of the device. -/
theorem sessionForkMirrorMigratePark : Obligations.SessionForkMirrorMigratePark := by
  unfold Obligations.SessionForkMirrorMigratePark
  refine ⟨fun s g k d i e hs => ⟨?_, ?_, ?_, ?_, ?_, ?_, ?_, ?_, ?_, ?_⟩, fun s g k d i e hs => ⟨?_, ?_, ?_, ?_, ?_⟩⟩
  · exact fun x r w h hx hl ht hb hc hr hw => next_clocked hs (doSesFork_forks h hx hl ht hb hc hr hw)
  · exact fun h hl => next_clocked hs (doSesFork_pastParent h hl)
  · exact fun u v w h ho hu hv hw => next_clocked hs (doSesDelete_erases ho h hu hv hw)
  · rintro ty c (⟨rfl, rfl⟩ | ⟨rfl, rfl⟩) hd hh hg ho
    · exact next_clocked hs (onSession_unknown hd hh hg ho)
    · exact next_clocked hs (onSession_unknown hd hh hg ho)
  · exact fun o hn h hd hb hm hp ho => next_clocked hs (doSesMirror_asks hn h hd hb hm hp ho)
  · exact fun o st handle hn ht hp => next_clocked hs (doSesMirror_answered hn ht hp st handle)
  · rintro o b hn h hd hv rfl hb hg
    exact next_clocked hs ((doSesMigrate_asks hn h hd hv hb).trans (by simp [hg]))
  · intro b hn h hd hv hb hg
    exact next_clocked hs ((doSesMigrate_asks hn h hd hv hb).trans (by simp [hg]))
  · exact fun o st handle hn ht => next_clocked hs (doSesMigrate_answered hn ht st handle)
  · exact fun hn h hd => next_clocked hs (doSesMigrate_toItself hn h hd)
  · exact fun f root nonce img o h ht hf hg hr hn hi ho => next_clocked hs (doSesPark_sends h ht hf hg hr hn hi ho)
  · exact fun kind port nsid target s1 o hd hh hg hn hb h0 hk ht hr hq ho =>
      next_clocked hs (doSesRestore_session hd hh hg hn hb h0 hk ht hr hq ho)
  · exact fun kind port nsid target s1 o hd hh hg hn hb h0 hr hq ho =>
      next_clocked hs (doSesRestore_newSession hd hh hg hn hb h0 hr hq ho)
  · exact fun p tag outcome data r id ht hr hp => next_clocked hs (doDsDeviceCompletion_drives ht hr hp outcome data)
  · exact fun p outcome data => next_clocked hs (doDsDeviceCompletion_shutdown p outcome data s)

end Sys2Proof.Machine

namespace Sys2Proof.Machine

open Sys2Proof

/-! # Collectives: set-up, blocks going up and down, and time-out (R292 to R294) -/

/-! ## COLL_SETUP (R292) -/

section
variable {s s1 : State} {g k : Nat} {d : Desc} {b : List Byte} (hd : runningDesc g k 0x22 s = some d)
  (ha : slice (d.word 3) 0 44 % 64 = 0) (hr : rangeStatus (.agent (ringFn g)) (slice (d.word 3) 0 44) 64 false s = .ok)
  (hc : claimed (slice (d.word 3) 0 44) 64 false s = true)
  (hb : homeGet (.agent (ringFn g)) (slice (d.word 3) 0 44) 64 s = (.ok, b, s1))
include hd ha hr hc hb

/-- A record that has been read with VALID = 1 and passes its checks is stored. -/
theorem doCollSetup_stores (hk : collStatus (ringFn g) (slice (d.word 2) 0 8) b s1 = .ok)
    (hv : bit (ofBytes (b.take 8)) 0 = true) : doCollSetup g k s =
      completeDesc g k .ok 0 0 0 (wr COLL_STAT_FUNCTION (slice (d.word 2) 0 8) (collOf b).fn (wr COLL_STAT_VALID (slice (d.word 2) 0 8) 1
        (setSyr (fun y => { y with colls := put (slice (d.word 2) 0 8) (collOf b) y.colls, ended := del (slice (d.word 2) 0 8) y.ended }) s1))) := by
  simp [doCollSetup, hd, ha, hr, hc, hb, hk, hv, setB_eq_wr]

theorem doCollSetup_refuses (hk : collStatus (ringFn g) (slice (d.word 2) 0 8) b s1 ≠ .ok) :
    doCollSetup g k s = failDesc g k (collStatus (ringFn g) (slice (d.word 2) 0 8) b s1) s1 := by
  simp [doCollSetup, hd, ha, hr, hc, hb, hk]

end

/-! ## RED_UP and RED_DOWN (R293, R294) -/

theorem blockFits_of {c : Coll} {p : Pkt} (hk : redBlock p < c.blocks) (hl : p.data.length = c.blockLen (redBlock p)) :
    blockFits c p = true := by
  simp [blockFits, hk, hl]

section
variable {s s1 : State} {p : Pkt} {r : CollRun} {c : Coll}

theorem doRedUp_adds {d : Nat} (ht : takeInbox (fun q => q.opc == 0x8 && redReady s q) s = some (p, s1))
    (hr : look s1.syr.runs (redId p) = some r) (hc : look s1.syr.colls (redId p) = some c)
    (hd : fromDir p ((List.range 6).filter (bit c.childs)) s1 = some d) (hq : p.seq = r.seq) (hf : blockFits c p = true) :
    doRedUp s = advanceColls (setCollRun (redId p) (fun r => { r with got := r.got ++ [(d, redBlock p, p.data)] }) s1) := by
  simp [doRedUp, ht, hr, hc, hd, hq, hf]

variable (ht : takeInbox (fun q => q.opc == 0x9 && redReady s q) s = some (p, s1))
  (hr : look s1.syr.runs (redId p) = some r) (hc : look s1.syr.colls (redId p) = some c) (hq : p.seq = r.seq)
include ht hr hc hq

theorem doRedDown_fails (hp : p.status ≠ 0) :
    doRedDown s = failColl (redId p) (Status.ofCode p.status) (fromDir p (treeDirs c) s1) s1 := by
  simp [doRedDown, ht, hr, hc, hq, hp]

theorem doRedDown_lands (hp : p.status = 0) (hd : fromDir p [c.parent] s1 = some c.parent) (hf : blockFits c p = true)
    (hl : claimed (c.dst + 512 * redBlock p) (c.blockLen (redBlock p)) true s = true) :
    doRedDown s = advanceColls (landBlock (redId p) (redBlock p) c r.seq p.data s1) := by
  simp [doRedDown, ht, hr, hc, hq, hp, hd, hf, hl]

end

/-! ## COLL_TIMEOUT (R294) -/

theorem doCollTimeout_fails {s : State} {n : Nat} {r : CollRun} (hr : look s.syr.runs n = some r)
    (hl : r.start + r.limit ≤ now16 s) : doCollTimeout n s = failColl n .timeout none s := by
  simp [doCollTimeout, hr, due, hl]

/-! # Attention batches: acceptance, start and the end of an item (R140, R141, R143 to R146, R150) -/

/-! ## ATTN_BATCH (R140, R141) -/

section
variable {s : State} {g k : Nat} {d : Desc} (hd : runningDesc g k 0x0A s = some d)
  (hn : s.attn.batches.any (fun b => b.g == g && b.k == k) = false)
include hd hn

theorem doAttnBatch_accepts {s1 : State} (hs : batchStatus (ringFn g) d s = .ok)
    (h1 : s1 = count ctlUnit 0xC4 (some (ringFn g)) 1 s) : doAttnBatch g k s =
      { s1 with attn := { nextId := s1.attn.nextId + 1, batches := s1.attn.batches ++
        [{ id := s1.attn.nextId, g := g, k := k, fn := ringFn g, num := slice (d.word 2) 8 8, streams := streamSet (ringFn g) d s1,
           owing := if atArriveEn d && atPerTile d then ownerTiles (ringFn g) s1 else [] }] } } := by
  subst h1
  simp [doAttnBatch, hd, hn, hs]

theorem doAttnBatch_refuses {st : Status} (hs : batchStatus (ringFn g) d s = st) (h : st ≠ .ok) :
    doAttnBatch g k s = failDesc g k st (bump ATTN_COUNT_BATCHES (ringFn g) 1 s) := by
  simp [doAttnBatch, hd, hn, hs, h]

end

/-! ## ATTN_BATCH_START (R141, R145, R150) -/

/-- Batch `b` once its selection has given its streams as `r` and its items are dealt to `tiles`. -/
def batchStarted (b : ABatch) (d : Desc) (tiles : List Nat) (r : List AStr) (s : State) : ABatch :=
  { b with running := true, streams := r, items := dealItems d tiles r s }

theorem doAttnBatchStart_starts {s s1 : State} {b : ABatch} {d : Desc} {r : List AStr}
    (hb : s.attn.batches.find? (fun b => mayStart b s) = some b) (hd : descOf b.g b.k s = some d)
    (hc : (selectClaims d b).find? (fun p => !claimed p.1 p.2 false s) = none)
    (hp : planAll (nth 79 (liveTiles b.fn s) 0) d b.streams s = (r, s1)) : doAttnBatchStart s =
      settleBatch b.id (queueItems (batchStarted b d (liveTiles b.fn s) r s1) (spoil (atWork d) workBytes
        (setABatch b.id (fun _ => batchStarted b d (liveTiles b.fn s) r s1) s1))) := by
  simp only [doAttnBatchStart, hb, hd, hc, hp]
  rfl

/-! ## ATTN_ITEM_COMPLETE (R143 to R147) -/

section
variable {s : State} {t : Nat} {r : GRun} {b : ABatch} {d : Desc} {it : AItem} (hr : (grv t s).run = some r)
  (hk : r.work.kind = 2) (hb : aBatchOf r.work.g s = some b) (hd : descOf b.g b.k s = some d)
  (hi : b.items[r.work.k]? = some it)
include hr hk hb hd hi

theorem doAttnItemComplete_program (hp : r.blk.isEmpty = false) (he : r.ended = true) (hf : drained r = true) :
    doAttnItemComplete t s = endItem b.id r.work.k r.status r.flags (retireRun t r s) := by
  simp only [doAttnItemComplete, hr, hk, hb, hd, hi, hp, he, hf]
  rfl

theorem doAttnItemComplete_builtIn (hp : r.blk = []) : doAttnItemComplete t s = finishKernel t r b d it s := by
  simp [doAttnItemComplete, hr, hk, hb, hd, hi, hp]

end

section
variable {s : State} {t : Nat} {r : GRun} {b : ABatch} {d : Desc} {it : AItem} {x : AStr} {e : SesEnt} {a : ItemIn × State}
  {w : Status × State} (he : r.ended = false) (hx : b.streams[it.str]? = some x) (hl : x.live s = some e)
  (hc : (itemRanges d e x b r.work.k it (lastSegment b r.work.k it && passClean b it)).find?
    (fun p => !claimed p.1 p.2.1 p.2.2 s) = none)
  (ha : a = itemReads t d e x it s) (hg : a.1.st = .ok)
  (hw : w = keepSegment t d e b.id r.work.k it (segSofts d e x it a.1)
    (setItem b.id r.work.k (fun y => { y with res := segSofts d e x it a.1 }) a.2))
include he hx hl hc ha hg hw

/-- An item whose lines are claimed and whose reads are good keeps its segment; the last of a clean pass merges where that went
well. -/
theorem finishKernel_reads : finishKernel t r b d it s =
    (let m := if w.1.good && (lastSegment b r.work.k it && passClean b it) then
        mergePass t d e x { b with items := modNth r.work.k (fun y => { y with res := segSofts d e x it a.1 }) b.items } it w.2
      else w
    doneKernel t r b.id (Config.kernelDraw (kernelKey (grv t s) d a.1)) m.1 m.2) := by
  subst ha hw
  simp only [finishKernel, he, hx, Option.bind_some, hl, hc, hg]
  rfl

theorem finishKernel_keepsSegment (hm : (lastSegment b r.work.k it && passClean b it) = false) :
    finishKernel t r b d it s = doneKernel t r b.id (Config.kernelDraw (kernelKey (grv t s) d a.1)) w.1 w.2 := by
  simp [finishKernel_reads he hx hl hc ha hg hw, hm]

theorem finishKernel_mergesPass {u : Status × State} (hm : (lastSegment b r.work.k it && passClean b it) = true) (hq : w.1.good = true)
    (hu : u = mergePass t d e x { b with items := modNth r.work.k (fun y => { y with res := segSofts d e x it a.1 }) b.items } it w.2) :
    finishKernel t r b d it s = doneKernel t r b.id (Config.kernelDraw (kernelKey (grv t s) d a.1)) u.1 u.2 := by
  subst hu
  simp [finishKernel_reads he hx hl hc ha hg hw, hm, hq]

end

/-- Settles O32: each clause is one case of its operation: a record stored or refused, a packet taken by its collective, a batch
accepted, refused or started, and an item's end by the kernel that ran it. -/
theorem collectivesAndAttention : Obligations.CollectivesAndAttention := by
  unfold Obligations.CollectivesAndAttention
  refine ⟨fun s s1 hs => ⟨?_, ?_, ?_, ?_, ?_⟩, fun s hs => ⟨?_, ?_, ?_, ?_, ?_⟩⟩
  · exact fun g k d b hd ha hr hc hb hk hv => next_clocked hs (doCollSetup_stores hd ha hr hc hb hk hv)
  · exact fun g k d b hd ha hr hc hb hk => next_clocked hs (doCollSetup_refuses hd ha hr hc hb hk)
  · exact fun p r c d ht hr hc hd hq hk hl => next_clocked hs (doRedUp_adds ht hr hc hd hq (blockFits_of hk hl))
  · refine fun p r c ht hr hc hq => ⟨fun hp => next_clocked hs (doRedDown_fails ht hr hc hq hp), ?_⟩
    exact fun hp hd hk hl hm => next_clocked hs (doRedDown_lands ht hr hc hq hp hd (blockFits_of hk hl) hm)
  · exact fun n r hr hl => next_clocked hs (doCollTimeout_fails hr hl)
  · exact fun g k d s1 hd hn hb h1 => next_clocked hs (doAttnBatch_accepts hd hn hb h1)
  · exact fun g k d st hd hn hb h => next_clocked hs (doAttnBatch_refuses hd hn hb h)
  · exact fun b d r s1 hb hd hc hp => next_clocked hs (doAttnBatchStart_starts hb hd hc hp)
  · exact fun t r b d it hr hk hb hd hi hp he hf => next_clocked hs (doAttnItemComplete_program hr hk hb hd hi hp he hf)
  · rintro t r b d it x e a res draw w hr hk hb hd hi hp he hx hl hc ha hg rfl rfl hw
    have item := doAttnItemComplete_builtIn hr hk hb hd hi hp
    refine ⟨fun hm => next_clocked hs (item.trans (finishKernel_keepsSegment he hx hl hc ha hg hw hm)), ?_⟩
    exact fun u hm hq hu => next_clocked hs (item.trans (finishKernel_mergesPass he hx hl hc ha hg hw hm hq hu))

end Sys2Proof.Machine

namespace Sys2Proof.Machine

open Sys2Proof

/-! # Service changes: tiles and sites out and in, retrainings, the compute-partial reset (R433 to R435, R446 to R448) -/

/-! ## Changes of tiles and memory sites (R446 to R448) -/

/-- A change that its ring's slot does not wait for yet joins the queue. -/
theorem acceptSvc_queues {v : Svc} {s : State} (h : s.boot.svc.any (fun w => w.g == v.g && w.k == v.k) = false) :
    acceptSvc v s = settleSvc (setBoot (fun x => { x with svc := x.svc ++ [v] }) s) := by
  simp [acceptSvc, h]

section
variable {s : State} {g k : Nat} {d : Desc}

theorem doTileOut_queues (hd : serviceDesc g k 0x01 s = some d) (ht : slice (d.word 2) 8 6 < tiles s)
    (hn : s.boot.svc.any (fun w => w.g == g && w.k == k) = false) : doTileOut g k s =
      settleSvc (setBoot (fun x => { x with svc := x.svc ++ [{ sub := 1, g := g, k := k, idx := slice (d.word 2) 8 6 }] }) s) := by
  refine .trans ?_ (acceptSvc_queues hn)
  simp [doTileOut, hd, Nat.not_le.2 ht]

theorem doTileOut_absent (hd : serviceDesc g k 0x01 s = some d) (ht : tiles s ≤ slice (d.word 2) 8 6) :
    doTileOut g k s = failDesc g k .unsupported s := by
  simp [doTileOut, hd, ht]

theorem doTileIn_queues (hd : serviceDesc g k 0x02 s = some d) (ht : slice (d.word 2) 8 6 < tiles s)
    (hn : s.boot.svc.any (fun w => w.g == g && w.k == k) = false) (p : Bool) : doTileIn g k p s =
      settleSvc (setBoot (fun x =>
        { x with svc := x.svc ++ [{ sub := 2, g := g, k := k, idx := slice (d.word 2) 8 6, found := b2n p }] }) s) := by
  refine .trans ?_ (acceptSvc_queues hn)
  simp [doTileIn, hd, Nat.not_le.2 ht]

theorem doMemsiteOut_queues (hd : serviceDesc g k 0x03 s = some d) (hj : slice (d.word 2) 8 5 < memSites s)
    (hn : s.boot.svc.any (fun w => w.g == g && w.k == k) = false) : doMemsiteOut g k s =
      settleSvc (setBoot (fun x => { x with svc := x.svc ++ [{ sub := 3, g := g, k := k, idx := slice (d.word 2) 8 5 }] }) s) := by
  refine .trans ?_ (acceptSvc_queues hn)
  simp [doMemsiteOut, hd, Nat.not_le.2 hj]

theorem doMemsiteOut_absent (hd : serviceDesc g k 0x03 s = some d) (hj : memSites s ≤ slice (d.word 2) 8 5) :
    doMemsiteOut g k s = failDesc g k .unsupported s := by
  simp [doMemsiteOut, hd, hj]

theorem doMemsiteIn_queues (hd : serviceDesc g k 0x04 s = some d) (hj : slice (d.word 2) 8 5 < memSites s)
    (hn : s.boot.svc.any (fun w => w.g == g && w.k == k) = false) (n : Nat) : doMemsiteIn g k n s =
      settleSvc (setBoot (fun x =>
        { x with svc := x.svc ++ [{ sub := 4, g := g, k := k, idx := slice (d.word 2) 8 5, found := wrap 8 n }] }) s) := by
  refine .trans ?_ (acceptSvc_queues hn)
  simp [doMemsiteIn, hd, Nat.not_le.2 hj]

end

/-! ## Retrainings (R177, R272, R448) -/

theorem acceptRetrain_runs {v : Svc} {s : State} (h : s.boot.retrains.any (fun w => w.g == v.g && w.k == v.k) = false)
    (f : State → State) : acceptRetrain v f s = f (setBoot (fun x => { x with retrains := x.retrains ++ [v] }) s) := by
  simp [acceptRetrain, h]

/-- Port `p` goes down and trains again (R272). -/
def retrainPort (p : Nat) (s : State) : State := setPort p (fun x => { x with training := some (now16 s) }) (takePortDown p s)

section
variable {s : State} {g k : Nat} {d : Desc}

theorem doChanRetrain_retrains (hd : serviceDesc g k 0x05 s = some d) (hj : slice (d.word 2) 8 5 < memSites s)
    (hc : chanFailed (slice (d.word 2) 8 5) (slice (d.word 2) 16 3) s = false)
    (hn : s.boot.retrains.any (fun w => w.g == g && w.k == k) = false) : doChanRetrain g k s =
      startRetrain (slice (d.word 2) 8 5) (slice (d.word 2) 16 3) (setBoot (fun x => { x with retrains := x.retrains ++
        [{ sub := 5, g := g, k := k, idx := 8 * slice (d.word 2) 8 5 + slice (d.word 2) 16 3 }] }) s) := by
  refine .trans ?_ (acceptRetrain_runs hn _)
  simp [doChanRetrain, hd, Nat.not_le.2 hj, hc]

theorem doChanRetrain_failed (hd : serviceDesc g k 0x05 s = some d) (hj : slice (d.word 2) 8 5 < memSites s)
    (hc : chanFailed (slice (d.word 2) 8 5) (slice (d.word 2) 16 3) s = true) :
    doChanRetrain g k s = failDesc g k .unreachable s := by
  simp [doChanRetrain, hd, Nat.not_le.2 hj, hc]

theorem doPortRetrain_retrains (hd : serviceDesc g k 0x06 s = some d) (hp : syrPortOk (slice (d.word 2) 8 5) s = true)
    (hu : rdb SYR_PORT_UP (slice (d.word 2) 8 5) s = true)
    (hn : s.boot.retrains.any (fun w => w.g == g && w.k == k) = false) : doPortRetrain g k s =
      retrainPort (slice (d.word 2) 8 5) (setBoot (fun x => { x with retrains := x.retrains ++
        [{ sub := 6, g := g, k := k, idx := slice (d.word 2) 8 5 }] }) s) := by
  refine .trans ?_ (acceptRetrain_runs hn _)
  simp only [doPortRetrain, hd, hp, hu]
  rfl

end

/-! ## TILE_LAUNCH_GRACE_TIMEOUT (R147, R446) -/

theorem doTileLaunchGraceTimeout_idle {s : State} (h : s.boot.svc = []) : doTileLaunchGraceTimeout s = s := by
  simp [doTileLaunchGraceTimeout, h]

section
variable {s : State} {v : Svc} {rest : List Svc} {r : GRun} (hv : s.boot.svc = v :: rest) (h1 : v.sub = 1) (hp : v.phase = 1)
  (ht : v.since + stretched 1000 s ≤ now16 s) (hr : (grv v.idx s).run = some r)
include hv h1 hp ht hr

/-- At the end of its millisecond a launch is aborted, and an attention item is lost with its tile. -/
theorem doTileLaunchGraceTimeout_due : doTileLaunchGraceTimeout s =
    settleSvc (if r.work.kind = 2 then tileLost v.idx s else abortRun v.idx s) := by
  simp [doTileLaunchGraceTimeout, hv, h1, hp, due, ht, hr]

theorem doTileLaunchGraceTimeout_launch (hk : r.work.kind ≠ 2) : doTileLaunchGraceTimeout s = settleSvc (abortRun v.idx s) := by
  rw [doTileLaunchGraceTimeout_due hv h1 hp ht hr, if_neg hk]

theorem doTileLaunchGraceTimeout_item (hk : r.work.kind = 2) : doTileLaunchGraceTimeout s = settleSvc (tileLost v.idx s) := by
  rw [doTileLaunchGraceTimeout_due hv h1 hp ht hr, if_pos hk]

end

/-! ## PARTIAL_RESET (R433 to R435) -/

/-- The launch that runs on TILE_t is aborted; an item of an attention batch is left to its batch. -/
def abortLaunch (t : Nat) (s : State) : State :=
  match (grv t s).run with
  | some r => if r.work.kind = 2 then s else abortRun t s
  | none => s

theorem doPartialReset_resets {s s1 s2 s3 : State} (hb : s.boot.bring = none) (ht : tilesHeld s = false)
    (h1 : s1 = abortTileChange (bumpSat HUB_BOOT_PARTIALS 0 1 (setBoot (fun x => { x with partialAt := some (now16 s) }) s)))
    (h2 : s2 = forEach (List.range (tiles s1)) abortLaunch s1) (h3 : s3 = abortCopies (abortBatches (fun _ => true) s2)) :
    doPartialReset s = settlePartial (forEach (s3.syr.runs.map Prod.fst) (fun n u => failColl n .aborted none u) s3) := by
  subst h1 h2 h3
  simp only [doPartialReset, hb, ht]
  rfl

theorem doPartialReset_busy {s : State} (h : s.boot.bring.isSome = true ∨ tilesHeld s = true) : doPartialReset s = s := by
  simp only [doPartialReset, Bool.or_eq_true, if_pos h]

/-- Settles O51: each clause is one case of its operation: a change or a retraining accepted or turned away, the end of a tile's
millisecond by what runs on it, and the reset by whether bring-up or another is under way. -/
theorem serviceChanges : Obligations.ServiceChanges := by
  unfold Obligations.ServiceChanges
  refine fun s hs => ⟨?_, ?_, ?_, ?_, ?_, ?_, ?_, ?_, ?_, ?_, ?_, ?_, ?_, ?_⟩
  · rintro g k d t hd rfl ht hn
    exact next_clocked hs (doTileOut_queues hd ht hn)
  · rintro g k d p t hd rfl ht hn
    exact next_clocked hs (doTileIn_queues hd ht hn p)
  · rintro g k d j hd rfl hj hn
    exact next_clocked hs (doMemsiteOut_queues hd hj hn)
  · rintro g k d j n hd rfl hj hn
    exact next_clocked hs (doMemsiteIn_queues hd hj hn n)
  · exact fun g k d hd ht => next_clocked hs (doTileOut_absent hd ht)
  · exact fun g k d hd hj => next_clocked hs (doMemsiteOut_absent hd hj)
  · rintro g k d j c hd rfl rfl hj hc hn
    exact next_clocked hs (doChanRetrain_retrains hd hj hc hn)
  · rintro g k d j c hd rfl rfl hj hc
    exact next_clocked hs (doChanRetrain_failed hd hj hc)
  · rintro g k d p hd rfl hp hu hn
    exact next_clocked hs (doPortRetrain_retrains hd hp hu hn)
  · exact fun v rest r hv h1 hp ht hr hk => next_clocked hs (doTileLaunchGraceTimeout_launch hv h1 hp ht hr hk)
  · exact fun v rest r hv h1 hp ht hr hk => next_clocked hs (doTileLaunchGraceTimeout_item hv h1 hp ht hr hk)
  · exact fun h => next_clocked hs (doTileLaunchGraceTimeout_idle h)
  · exact fun s1 s2 s3 hb ht h1 h2 h3 => next_clocked hs (doPartialReset_resets hb ht h1 h2 h3)
  · exact fun h => next_clocked hs (doPartialReset_busy h)

end Sys2Proof.Machine

namespace Sys2Proof.Machine

open Sys2Proof

/-! # Placement of granules (R163) -/

/-! ## The fold and the raw granule -/

theorem eq_of_xor_eq {a b c : Nat} (h : Nat.xor a c = Nat.xor b c) : a = b := by
  have hc : (a ^^^ c) ^^^ c = (b ^^^ c) ^^^ c := congrArg (· ^^^ c) h
  simpa only [Nat.xor_assoc, Nat.xor_self, Nat.xor_zero] using hc

/-- The fold is invertible for fixed high bits. -/
theorem eq_of_foldXor_eq {w n x y : Nat} (hd : x / 2 ^ w = y / 2 ^ w) (h : foldXor w (n + 1) x = foldXor w (n + 1) y) : x = y := by
  have hm : x % 2 ^ w = y % 2 ^ w := by
    rw [foldXor, foldXor, hd] at h
    exact eq_of_xor_eq h
  rw [← Nat.div_add_mod x (2 ^ w), hd, hm, Nat.div_add_mod]

/-- The raw granule of data granule `c` of a channel: 31 data granules to a block of 32. -/
def rawOfData (c : Nat) : Nat := 32 * (c / 31) + c % 31

theorem rawOfData_mod_ne (c : Nat) : rawOfData c % 32 ≠ 31 := by
  unfold rawOfData
  omega

theorem rawOfData_injective : Function.Injective rawOfData := by
  intro c d h
  unfold rawOfData at h
  omega

/-! ## The channel of a site's granule -/

/-- The channel of granule `x` of MEM_j, and the data granule of that channel that it is. -/
def chanPlace (j x : Nat) (s : State) : Nat × Nat :=
  if rd MEM_STATUS_STATE j s != 2 then (foldXor 3 16 x, x / 8) else (4 * rd MEM_STATUS_HALF_HIGH j s + foldXor 2 24 x, x / 4)

theorem eq_of_chanPlace_eq {j x y : Nat} {s : State} (h : chanPlace j x s = chanPlace j y s) : x = y := by
  unfold chanPlace at h
  split at h
  case isTrue =>
    obtain ⟨hch, hc⟩ := Prod.mk.inj h
    exact eq_of_foldXor_eq (w := 3) hc hch
  case isFalse =>
    obtain ⟨hch, hc⟩ := Prod.mk.inj h
    exact eq_of_foldXor_eq (w := 2) hc (Nat.add_left_cancel hch)

/-! ## The steering entry and its frame -/

theorem steerOf_fst_lt {s : State} (h : 0 < rd MEM_GEOM_NE 0 s) (g : Nat) : (steerOf g s).1 < rd MEM_GEOM_NE 0 s :=
  Nat.mod_lt _ h

theorem mod_eq_of_add_mod_eq {a b c n : Nat} (h : (a + c) % n = (b + c) % n) : a % n = b % n := by
  have hi : ((a : Int) + c) % n = (b + c) % n := by exact_mod_cast h
  exact_mod_cast (Int.emod_add_cancel_right (c : Int)).1 hi

/-- For each frame the entry runs through every entry once. -/
theorem steerOf_injective (s : State) : Function.Injective (fun g => steerOf g s) := by
  intro g g' h
  obtain ⟨he, hf⟩ := Prod.mk.inj h
  rw [hf] at he
  have ht : g % rd MEM_GEOM_NE 0 s = g' % rd MEM_GEOM_NE 0 s := by
    simpa only [Nat.mod_mod] using mod_eq_of_add_mod_eq he
  rw [← Nat.div_add_mod g (rd MEM_GEOM_NE 0 s), hf, ht, Nat.div_add_mod]

theorem placeOf_unmoved {s : State} (hp : s.mem.partMoves = []) (ha : rdb MEM_MOVE_ACTIVE 0 s = false) (e f : Nat) :
    placeOf e f s = (rd SITE_STEER_SITE e s, rd SITE_STEER_SLOT e s) := by
  simp [placeOf, hp, ha, lookD, look]

/-! ## The place of an offset -/

/-- The granule within its site of frame `f` at `slot` of MEM_j. -/
def siteGranule (j f slot : Nat) (s : State) : Nat := f * rd SITE_SLOTS_SLOTS j s + slot

theorem eq_of_siteGranule_eq {j f f' k k' : Nat} {s : State} (hk : k < rd SITE_SLOTS_SLOTS j s) (hk' : k' < rd SITE_SLOTS_SLOTS j s)
    (h : siteGranule j f k s = siteGranule j f' k' s) : f = f' ∧ k = k' := by
  have hkk : k = k' := by
    have hm : (f * rd SITE_SLOTS_SLOTS j s + k) % rd SITE_SLOTS_SLOTS j s = (f' * rd SITE_SLOTS_SLOTS j s + k') % rd SITE_SLOTS_SLOTS j s :=
      congrArg (· % rd SITE_SLOTS_SLOTS j s) h
    rwa [Nat.mul_add_mod_of_lt hk, Nat.mul_add_mod_of_lt hk'] at hm
  subst hkk
  exact ⟨Nat.eq_of_mul_eq_mul_right (Nat.zero_lt_of_lt hk) (Nat.add_right_cancel h), rfl⟩

theorem locate_raw_mod_ne (off : Nat) (s : State) : (locate off s).raw % 32 ≠ 31 := rawOfData_mod_ne _

/-- The site, channel and raw granule of an offset, by its entry and frame and where these stand. -/
theorem locate_of_place {s : State} {off e f j k : Nat} (hs : steerOf (off / 256) s = (e, f)) (hp : placeOf e f s = (j, k)) :
    (locate off s).site = j ∧ (locate off s).ch = (chanPlace j (siteGranule j f k s) s).1 ∧
      (locate off s).raw = rawOfData (chanPlace j (siteGranule j f k s) s).2 := by
  simp only [locate, hs, hp, chanPlace, siteGranule, rawOfData]
  split <;> simp

/-- Settles O37: channel and raw granule give the granule of the site, this the frame and the slot, site and slot the entry, and
entry and frame the granule of the offset. -/
theorem granulePlacementInjective : Obligations.GranulePlacementInjective := by
  unfold Obligations.GranulePlacementInjective
  intro s a b hne hp hm hslot hinj
  refine ⟨locate_raw_mod_ne a s, fun hsite hch hraw => ?_⟩
  have hea := steerOf_fst_lt hne (a / 256)
  have heb := steerOf_fst_lt hne (b / 256)
  obtain ⟨hsa, hca, hra⟩ := locate_of_place rfl (placeOf_unmoved hp hm (steerOf (a / 256) s).1 (steerOf (a / 256) s).2)
  obtain ⟨hsb, hcb, hrb⟩ := locate_of_place rfl (placeOf_unmoved hp hm (steerOf (b / 256) s).1 (steerOf (b / 256) s).2)
  have hj := hsa.symm.trans (hsite.trans hsb)
  have hkb := hslot _ heb
  rw [← hj] at hcb hrb hkb
  have hc := rawOfData_injective (hra.symm.trans (hraw.trans hrb))
  have hx := eq_of_chanPlace_eq (Prod.ext (hca.symm.trans (hch.trans hcb)) hc)
  obtain ⟨hf, hk⟩ := eq_of_siteGranule_eq (hslot _ hea) hkb hx
  exact steerOf_injective s (Prod.ext (hinj _ hea _ heb hj hk) hf)

end Sys2Proof.Machine

namespace Sys2Proof.Machine

open Sys2Proof

/-! # Commands of the memory channels (R168, R172, R177, R178, R181, R187, R188) -/

/-! ## MEM_READ and MEM_WRITE -/

section
variable {s : State} {j ch slot : Nat} (errs : Nat) (again : Bool)

theorem doMemRead_none (h : nextReq (chanKey j ch) slot s = none) : doMemRead j ch errs again slot s = s := by
  simp only [doMemRead, h]

theorem doMemWrite_none (h : nextReq (chanKey j ch) slot s = none) : doMemWrite j ch errs again slot s = s := by
  simp only [doMemWrite, h]

theorem doMemRead_closed (ho : chanOpen j ch s = false) : doMemRead j ch errs again slot s = s := by
  cases h : nextReq (chanKey j ch) slot s with
  | none => exact doMemRead_none errs again h
  | some r => simp [doMemRead, h, ho]

variable {r : MReq} (h : nextReq (chanKey j ch) slot s = some r) (ho : chanOpen j ch s = true)
include h ho

theorem doMemRead_serves (hw : r.write = false) : doMemRead j ch errs again slot s =
    serve (chanKey j ch) r (meetErrors j ch r.gran errs r.cls again (noteServed (chanKey j ch) r s)) := by
  simp [doMemRead, h, hw, ho]

/-- A write of less than the granule reads it first, and meets its errors (R172). -/
theorem doMemWrite_serves (hw : r.write = true) : doMemWrite j ch errs again slot s = serve (chanKey j ch) r
    (if r.bytes.length = 256 then noteServed (chanKey j ch) r s
     else meetErrors j ch r.gran errs r.cls again (noteServed (chanKey j ch) r s)) := by
  simp [doMemWrite, h, hw, ho]

theorem doMemWrite_whole (hw : r.write = true) (hl : r.bytes.length = 256) :
    doMemWrite j ch errs again slot s = serve (chanKey j ch) r (noteServed (chanKey j ch) r s) := by
  rw [doMemWrite_serves errs again h ho hw, if_pos hl]

theorem doMemWrite_part (hw : r.write = true) (hl : r.bytes.length ≠ 256) : doMemWrite j ch errs again slot s =
    serve (chanKey j ch) r (meetErrors j ch r.gran errs r.cls again (noteServed (chanKey j ch) r s)) := by
  rw [doMemWrite_serves errs again h ho hw, if_neg hl]

end

/-! ## PATROL_SCRUB (R168) -/

theorem chanFailed_nextScrub (j ch : Nat) (s : State) : chanFailed j ch (nextScrub s) = chanFailed j ch s := rfl

theorem fwClass_nextScrub (j : Nat) (s : State) : fwClass j (nextScrub s) = fwClass j s := rfl

theorem doPatrolScrub_off {s : State} (h : rd MEM_SCRUB_HOURS 0 s = 0) (errs : Nat) (again : Bool) :
    doPatrolScrub errs again s = s := by
  simp [doPatrolScrub, h]

theorem doPatrolScrub_visits {s s1 : State} {errs : Nat} {again : Bool} {l : Loc} (hl : l = locate (256 * s.mem.scrub) s)
    (hh : rd MEM_SCRUB_HOURS 0 s ≠ 0) (hz : memSize s ≠ 0) (hd : scrubDue s = true)
    (hq : (chan (chanKey l.site l.ch) s).queue = [] ∨ confStatic s = true) (hg : granHeld s.mem.scrub s = false)
    (hf : chanFailed l.site l.ch s = false)
    (h1 : s1 = meetErrors l.site l.ch s.mem.scrub errs (fwClass l.site s) again
      (noteCheck (chanKey l.site l.ch) l.block (serveBytes (chanKey l.site l.ch) (fwClass l.site s) (nextScrub s)))) :
    doPatrolScrub errs again s = if granBad s.mem.scrub s1 then meetUe s.mem.scrub s1 else s1 := by
  subst h1 hl
  have hgo : ¬ (rd MEM_SCRUB_HOURS 0 s = 0 ∨ memSize s = 0 ∨ !scrubDue s ∨
      (!(chan (chanKey (locate (256 * s.mem.scrub) s).site (locate (256 * s.mem.scrub) s).ch) s).queue.isEmpty ∧ !confStatic s) ∨
      granHeld s.mem.scrub s) := by
    obtain h | h := hq <;> simp [hh, hz, hd, hg, h]
  simp only [doPatrolScrub, if_neg hgo, chanFailed_nextScrub, fwClass_nextScrub, hf, Bool.false_eq_true, if_false]
  rfl

/-! ## DRIFT_TRACKING_LIMIT and CHAN_RETRAIN_DONE (R177, R178) -/

theorem doDriftTrackingLimit_drift {s : State} {j : Nat} (h : rdb MEM_CTL_PERIODIC_RT j s = true) (ch : Nat) :
    doDriftTrackingLimit j ch false s = startRetrain j ch s := by
  simp [doDriftTrackingLimit, h]

theorem doDriftTrackingLimit_driftOff {s : State} {j : Nat} (h : rdb MEM_CTL_PERIODIC_RT j s = false) (ch : Nat) :
    doDriftTrackingLimit j ch false s = s := by
  simp [doDriftTrackingLimit, h]

theorem doDriftTrackingLimit_link {s : State} {j ch : Nat} (h : trainedRate (chanKey j ch) s ≤ 1) :
    doDriftTrackingLimit j ch true s = startRetrain j ch s := by
  simp [doDriftTrackingLimit, h]

/-- The next channel of MEM_j that waits for its retraining begins it. -/
def nextRetrain (j : Nat) (s : State) : State :=
  match s.mem.retrain.find? (fun p => p.1 == j) with
  | some p => startRetrain j p.2 (setMem (fun m => { m with retrain := m.retrain.erase p }) s)
  | none => s

theorem nextRetrain_none {j : Nat} {s : State} (h : s.mem.retrain.find? (fun p => p.1 == j) = none) : nextRetrain j s = s := by
  simp only [nextRetrain, h]

theorem nextRetrain_some {j : Nat} {s : State} {p : Nat × Nat} (h : s.mem.retrain.find? (fun p => p.1 == j) = some p) :
    nextRetrain j s = startRetrain j p.2 (setMem (fun m => { m with retrain := m.retrain.erase p }) s) := by
  simp only [nextRetrain, h]

theorem doChanRetrainDone_idle {s : State} {j ch : Nat} (h : (chan (chanKey j ch) s).retrainAt = none) (ok : Bool) :
    doChanRetrainDone j ch ok s = s := by
  simp only [doChanRetrainDone, h]

theorem doChanRetrainDone_ends {s s1 s2 s3 : State} {j ch t : Nat} {ok : Bool} (h : (chan (chanKey j ch) s).retrainAt = some t)
    (h1 : s1 = bump MEM_RETRAIN_COUNT j 1 (clrB MEM_STATUS_RETRAINING j
      (setChan (chanKey j ch) (fun c => { c with retrainAt := none, ceTimes := [], hold := (now16 s - t) / 16000 }) s)))
    (h2 : s2 = wr MEM_RETRAIN_LONGEST j (max (rd MEM_RETRAIN_LONGEST j s1) (sat 16 ((now16 s1 - t) / 16000))) s1)
    (h3 : s3 = if ok then trainRate j ch s2 else failChannel j ch s2) : doChanRetrainDone j ch ok s = nextRetrain j s3 := by
  subst h1 h2 h3
  simp only [doChanRetrainDone, h]
  rfl

/-- Settles O33: a request is served by its kind where the channel is open, the scrub visits a granule where nothing holds it back,
and a retraining starts by its cause and ends with the next one of its site. -/
theorem channelCommands : Obligations.ChannelCommands := by
  unfold Obligations.ChannelCommands
  refine fun s hs => ⟨?_, ?_, ?_, ?_, ?_, ?_, ?_, ?_, ?_, ?_, ?_, ?_⟩
  · exact fun j ch errs again slot r h hw ho => next_clocked hs (doMemRead_serves errs again h ho hw)
  · exact fun j ch errs again slot ho => next_clocked hs (doMemRead_closed errs again ho)
  · exact fun j ch errs again slot r h hw ho hl => next_clocked hs (doMemWrite_whole errs again h ho hw hl)
  · exact fun j ch errs again slot r h hw ho hl => next_clocked hs (doMemWrite_part errs again h ho hw hl)
  · exact fun j ch errs again slot h =>
      ⟨next_clocked hs (doMemRead_none errs again h), next_clocked hs (doMemWrite_none errs again h)⟩
  · rintro errs again l c s1 hl hh hz hd hq hg hf rfl h1
    exact next_clocked hs (doPatrolScrub_visits hl hh hz hd hq hg hf h1)
  · exact fun errs again h => next_clocked hs (doPatrolScrub_off h errs again)
  · exact fun j ch h => next_clocked hs (doDriftTrackingLimit_drift h ch)
  · exact fun j ch h => next_clocked hs (doDriftTrackingLimit_link h)
  · exact fun j ch h => next_clocked hs (doDriftTrackingLimit_driftOff h ch)
  · intro j ch ok t s1 s2 s3 h h1 h2 h3
    have he := doChanRetrainDone_ends h h1 h2 h3
    exact ⟨fun hn => next_clocked hs (he.trans (nextRetrain_none hn)), fun p hp => next_clocked hs (he.trans (nextRetrain_some hp))⟩
  · exact fun j ch ok h => next_clocked hs (doChanRetrainDone_idle h ok)

end Sys2Proof.Machine

namespace Sys2Proof.Machine

open Sys2Proof

/-! # Requests to the system cache and bucket moves (R183, R186, R260) -/

/-! ## SC_REQUEST (R183, R260) -/

/-- A slice request with a clean header and payload reaches its slice, which answers by the status of the line's home. -/
theorem departSc_clean {r : MReq} {s s2 : State} (h2 : s2 = departMesh r.port r.id r.fn (homeTile (64 * r.line) s) r.line s)
    (err : Nat) : departSc r err 0 s =
      if homeStatus (portReqr r.port r.fn) (64 * r.line) r.write s2 ≠ .ok then
        meshAnswer r.port r.id (homeStatus (portReqr r.port r.fn) (64 * r.line) r.write s2) [] s2
      else sliceServe r err s2 := by
  subst h2
  rfl

/-- The state once a request has taken its number. -/
def scNumbered (s : State) : State := setCoh (fun h => { h with nextId := s.coh.nextId + 1 }) s

/-- What SC_REQUEST asks of the slice. -/
def scReq (k fn line : Nat) (wrt : Bool) (data : List Byte) (mask : Nat) (dl : Option Nat) (s : State) : MReq :=
  { gran := line / 4, write := wrt, line := line, port := k, id := s.coh.nextId, fn := fn, cls := portClass k fn s,
    bytes := if wrt then (maskedBytes mask data).map (fun p => (line % 4 * 64 + p.1, p.2)) else [],
    deadline := classDeadline (portClass k fn s) dl (scNumbered s), at16 := now16 (scNumbered s) }

section
variable {s s1 : State} {k fn line mask : Nat} {wrt : Bool} {data : List Byte} {dl : Option Nat} {r : MReq}
  (h1 : s1 = scNumbered s) (hr : r = scReq k fn line wrt data mask dl s) (err flit : Nat)
include h1 hr

theorem doScRequest_eq : doScRequest k fn line wrt data mask err flit dl s =
    if mayDepart r s1 && mayIssue k r.id s1 then departSc r err flit s1
    else wakePort k fn (setCoh (fun h => { h with held := h.held ++ [r] }) s1) := by
  subst h1 hr
  rfl

theorem doScRequest_held (hm : (mayDepart r s1 && mayIssue k r.id s1) = false) : doScRequest k fn line wrt data mask err flit dl s =
    wakePort k fn (setCoh (fun h => { h with held := h.held ++ [r] }) s1) := by
  rw [doScRequest_eq h1 hr, hm, if_neg Bool.false_ne_true]

theorem doScRequest_departs (hm : (mayDepart r s1 && mayIssue k r.id s1) = true) :
    doScRequest k fn line wrt data mask err flit dl s = departSc r err flit s1 := by
  rw [doScRequest_eq h1 hr, if_pos hm]

section
variable {s2 : State} (h2 : s2 = departMesh k r.id fn (homeTile (64 * line) s1) line s1)
  (hm : (mayDepart r s1 && mayIssue k r.id s1) = true)
include h2 hm

/-- A request that may depart is answered by the status of its line's home. -/
theorem doScRequest_reaches : doScRequest k fn line wrt data mask err 0 dl s =
    if homeStatus (portReqr k fn) (64 * line) wrt s2 ≠ .ok then
      meshAnswer k r.id (homeStatus (portReqr k fn) (64 * line) wrt s2) [] s2
    else sliceServe r err s2 := by
  rw [doScRequest_departs h1 hr err 0 hm]
  subst hr
  exact departSc_clean h2 err

theorem doScRequest_served (ho : homeStatus (portReqr k fn) (64 * line) wrt s2 = .ok) :
    doScRequest k fn line wrt data mask err 0 dl s = sliceServe r err s2 := by
  rw [doScRequest_reaches h1 hr err h2 hm, if_neg (fun hn => hn ho)]

theorem doScRequest_refused (hn : homeStatus (portReqr k fn) (64 * line) wrt s2 ≠ .ok) :
    doScRequest k fn line wrt data mask err 0 dl s =
      meshAnswer k r.id (homeStatus (portReqr k fn) (64 * line) wrt s2) [] s2 := by
  rw [doScRequest_reaches h1 hr err h2 hm, if_pos hn]

end

end

/-! ## QUOTA_RELEASE (R260) -/

section
variable {s : State} {k : Nat}

theorem doQuotaRelease_slice {q : MReq} (h : s.coh.held.find? (fun r => r.port == k && mayDepart r s && mayIssue k r.id s) = some q) :
    doQuotaRelease k s = departSc q 0 0 (setCoh (fun h => { h with held := h.held.erase q }) s) := by
  simp only [doQuotaRelease, h]

theorem doQuotaRelease_noSlice (h : s.coh.held.find? (fun r => r.port == k && mayDepart r s && mayIssue k r.id s) = none) :
    doQuotaRelease k s = releaseHome k s := by
  simp only [doQuotaRelease, h]

theorem releaseHome_some {q : HomeHeld} (h : s.coh.heldHome.find? (fun h => h.port == k && homeMay h s) = some q) :
    releaseHome k s = homeGo 0 0 q (setCoh (fun c => { c with heldHome := c.heldHome.erase q }) s) := by
  simp only [releaseHome, h]

theorem releaseHome_none (h : s.coh.heldHome.find? (fun h => h.port == k && homeMay h s) = none) : releaseHome k s = s := by
  simp only [releaseHome, h]

end

/-! ## BUCKET_MOVE_DONE (R186) -/

/-- A moved bucket's home is switched, and what was held for it is released. -/
def switchBucket (b tile : Nat) (rest : List (Nat × Nat)) (s : State) : State :=
  releaseHeld (setMem (fun m => { m with buckets := rest })
    (clrB SC_STATUS_MOVING 0 (clrB SLICE_STEER_MOVING b (wr SLICE_STEER_TILE b tile s))))

theorem doBucketMoveDone_idle {s : State} (h : s.mem.buckets = []) : doBucketMoveDone s = s := by
  simp only [doBucketMoveDone, h]

section
variable {s : State} {b tile : Nat} {rest : List (Nat × Nat)} (hb : s.mem.buckets = (b, tile) :: rest)
include hb

theorem doBucketMoveDone_starts (hm : rdb SLICE_STEER_MOVING b s = false) : doBucketMoveDone s = startBucketMove s := by
  simp [doBucketMoveDone, hb, hm]

/-- A bucket whose entries in the directory are all lost ones is switched. -/
theorem doBucketMoveDone_switches (hm : rdb SLICE_STEER_MOVING b s = true)
    (hl : ∀ l ∈ ofBucket b (s.coh.dir.map Prod.fst), (dent l s).st = 4) :
    doBucketMoveDone s = startBucketMove (switchBucket b tile rest s) := by
  have hleft : (ofBucket b (s.coh.dir.map Prod.fst)).filter (fun l => (dent l s).st != 4) = [] :=
    List.filter_eq_nil_iff.2 fun l h => by simp [hl l h]
  have hany (p : Nat → Bool) : (ofBucket b (s.coh.dir.map Prod.fst)).any (fun l => (dent l s).st != 4 && p l) = false :=
    List.any_eq_false.2 fun l h => by simp [hl l h]
  have hdone := hany fun _ => true
  simp only [Bool.and_true] at hdone
  simp only [doBucketMoveDone, hb, hm, hany, hleft, forEach, List.foldl_nil, hdone]
  rfl

theorem doBucketMoveDone_waits {l : Nat} (hm : rdb SLICE_STEER_MOVING b s = true) (hl : l ∈ ofBucket b (s.coh.dir.map Prod.fst))
    (hs : (dent l s).st ≠ 4) (ht : (trans l s).isSome = true) : doBucketMoveDone s = s := by
  have hany : (ofBucket b (s.coh.dir.map Prod.fst)).any (fun l => (dent l s).st != 4 && (trans l s).isSome) = true :=
    List.any_eq_true.2 ⟨l, hl, by simp [hs, ht]⟩
  simp [doBucketMoveDone, hb, hm, hany]

end

/-- Settles O40: a request departs or is held, a departed one is served or answered by the status of its home, a release takes
the first that may go, and a bucket move starts, waits or switches by the entries left. -/
theorem systemCacheRequests : Obligations.SystemCacheRequests := by
  unfold Obligations.SystemCacheRequests
  intro s s1 s2 k fn line mask err wrt data dl r hs h1 hr h2
  subst h1
  refine ⟨?_, ?_, ?_, ?_, ?_, ?_, ?_, ?_, ?_, ?_⟩
  · exact fun hm ho => next_clocked hs (doScRequest_served rfl hr err h2 hm ho)
  · exact fun hm hn => next_clocked hs (doScRequest_refused rfl hr err h2 hm hn)
  · exact fun hm => next_clocked hs (doScRequest_held rfl hr err 0 hm)
  · exact fun q hq => next_clocked hs (doQuotaRelease_slice hq)
  · exact fun q hn hq => next_clocked hs ((doQuotaRelease_noSlice hn).trans (releaseHome_some hq))
  · exact fun hn hh => next_clocked hs ((doQuotaRelease_noSlice hn).trans (releaseHome_none hh))
  · exact fun hb => next_clocked hs (doBucketMoveDone_idle hb)
  · exact fun b tile rest hb hm => next_clocked hs (doBucketMoveDone_starts hb hm)
  · exact fun b tile rest hb hm hl => next_clocked hs (doBucketMoveDone_switches hb hm hl)
  · exact fun b tile rest l hb hm hl hn ht => next_clocked hs (doBucketMoveDone_waits hb hm hl hn ht)

end Sys2Proof.Machine

namespace Sys2Proof.Machine

open Sys2Proof

/-! # Requests at the home of a line (R198, R200, R204) -/

theorem homeArrive_busy {r : HReq} {s : State} (h : lineBusy r.line s = true) : homeArrive r s = queueReq r s := if_pos h

theorem homeArrive_free {r : HReq} {s : State} (h : lineBusy r.line s = false) : homeArrive r s = takeStable r s := by
  simp [homeArrive, h]

/-! ## What the line's entry makes of a request (Table 6) -/

/-- The transaction that a request opens on a line with entry `e`, before anything is snooped. -/
def openTrans (r : HReq) (e : DEnt) : Trans := { req := r, phase := .ba, owner := none, sharers := e.sharers }

/-- The snoop that fetches a line from its owner for a request that takes a copy. -/
def fetchSnoop (k : HKind) : Nat := if k = .rdS then 0x08 else if k = .ownNoData then 0x0A else 0x09

section
variable {r : HReq} {s : State}

theorem takeStable_lost_read (he : (dent r.line s).st = 4) (hk : r.kind = .rdS ∨ r.kind = .homeRead) :
    takeStable r s = answer r.who .dataErr [] s := by
  obtain hk | hk := hk <;> simp [takeStable, he, hk]

/-! A site asks for a copy. -/

section
variable {j : Nat} (hw : whoSite r.who = some j)
include hw

theorem takeStable_rdS_shared (he : (dent r.line s).st = 1) (hk : r.kind = .rdS) : takeStable r s =
    grantHome r.line 1 (openTrans r (dent r.line s)) { st := 1, sharers := addSite (dent r.line s).sharers j } s := by
  simp [takeStable, he, hk, hw, openTrans]

theorem takeStable_rdX_shared (he : (dent r.line s).st = 1) (hk : r.kind = .rdX) : takeStable r s =
    startTrans r.line (openTrans r (dent r.line s)) 0x0A (sitesOf (subSite (dent r.line s).sharers j)) s := by
  have hn : (HKind.rdX == HKind.upg) = false := rfl
  simp [takeStable, he, hk, hw, hn, openTrans]

/-- A sharer that upgrades needs no data. -/
theorem takeStable_upg_sharer (he : (dent r.line s).st = 1) (hj : bit (dent r.line s).sharers j = true) (hk : r.kind = .upg) :
    takeStable r s = startTrans r.line { openTrans r (dent r.line s) with holder := true } 0x0A
      (sitesOf (subSite (dent r.line s).sharers j)) s := by
  simp [takeStable, he, hj, hk, hw, openTrans]

theorem takeStable_copy_fetches (he : (dent r.line s).st = 2) (ho : (dent r.line s).owner ≠ j) (hk : r.kind = .rdS ∨ r.kind = .rdX) :
    takeStable r s =
      startTrans r.line { openTrans r (dent r.line s) with owner := some (dent r.line s).owner } (fetchSnoop r.kind) [] s := by
  obtain hk | hk := hk <;> simp [takeStable, he, hk, hw, ho, openTrans, fetchSnoop]

theorem takeStable_upg_owner (he : (dent r.line s).st = 3) (ho : (dent r.line s).owner = j) (hk : r.kind = .upg) : takeStable r s =
    startTrans r.line { openTrans r (dent r.line s) with holder := true } 0x0A (sitesOf (dent r.line s).sharers) s := by
  simp [takeStable, he, hk, hw, ho, openTrans]

theorem takeStable_upg_exclusive (he : (dent r.line s).st = 2) (ho : (dent r.line s).owner = j) (hk : r.kind = .upg) :
    takeStable r s = fenceProtocol j r.line s := by
  simp [takeStable, he, hk, hw, ho]

/-! The line has no entry yet. -/

section
variable (he : (dent r.line s).st = 0) (hv : r.victim = none)
include he hv

theorem takeStable_copy_noRoom (hk : r.kind = .rdS) (hm : entryRoom r.line r.cls s = .full) :
    takeStable r s = answer r.who .quota [] s := by
  simp [takeStable, he, hk, hw, hv, hm]

theorem takeStable_copy_evicts {v : Nat} (hk : r.kind = .rdS) (hm : entryRoom r.line r.cls s = .victim v false) :
    takeStable r s = startEvict v .evict r.cls (requeue { r with victim := some v } s) := by
  simp [takeStable, he, hk, hw, hv, hm]

theorem takeStable_copy_allocates {w : Nat} (hk : r.kind = .rdS ∨ r.kind = .rdX) (ha : r.onlyS = false)
    (hm : entryRoom r.line r.cls s = .way w) : takeStable r s =
      grantHome r.line 2 (openTrans r (dent r.line s)) (recX j)
        (setCoh (fun h => { h with dir := put r.line { st := 1, way := w } h.dir }) s) := by
  obtain hk | hk := hk <;> simp [takeStable, he, hk, hw, hv, hm, ha, openTrans]

end

end

/-! A read that takes no copy. -/

section
variable (hk : r.kind = .rdOnce ∨ r.kind = .homeRead)
include hk

theorem takeStable_read_home {x : Status × List Byte × State} (he : (dent r.line s).st ≤ 1) (hx : x = readLine r.line r.cls s) :
    takeStable r s = answerReq r x.1 ((x.2.1.drop r.off).take r.len) x.2.2 := by
  have hn : (dent r.line s).st ≠ 4 := by omega
  subst hx
  obtain hk | hk := hk <;> simp [takeStable, he, hn, hk]

theorem takeStable_read_owned (he : (dent r.line s).st = 2) : takeStable r s =
    startTrans r.line { openTrans r (dent r.line s) with owner := some (dent r.line s).owner } 0x08 [] s := by
  obtain hk | hk := hk <;> simp [takeStable, he, hk, openTrans]

end

/-! A write or an atomic. -/

section
variable (hk : r.kind = .wrP ∨ r.kind = .homeWrite ∨ r.kind = .homeAtomic)
include hk

theorem takeStable_write_uncached (he : (dent r.line s).st = 0) : takeStable r s = performEnd r.line r s := by
  obtain hk | hk | hk := hk <;> simp [takeStable, he, hk]

theorem takeStable_write_shared (he : (dent r.line s).st = 1) : takeStable r s =
    startTrans r.line (openTrans r (dent r.line s)) 0x0A (sitesOf (dent r.line s).sharers) s := by
  obtain hk | hk | hk := hk <;> simp [takeStable, he, hk, openTrans]

end

end


/-! # Coherent requests and answers of chiplet sites (R194, R198, R200, R201, R203, R204, R206, R288) -/

/-! ## A site's request reaches the home -/

section
variable {j err : Nat} {st : Status} {r : HReq} {s : State}

theorem siteRequest_refused (h : st ≠ .ok) (hdr : Nat) : siteRequest j hdr err st r s = answer r.who st [] s := if_pos h

theorem siteRequest_taken (h : st = .ok) (hdr : Nat) : siteRequest j hdr err st r s =
    enterHome err { r with cls := portClass (64 + j) 0 s, deadline := siteDeadline j hdr s } s := if_neg fun hn => hn h

end

theorem siteAsks_req {j opc err : Nat} {m : ZMsg} {r0 r : HReq} {s s1 s2 : State} (h : siteAsks j opc err m r0 r s s1 s2) :
    r = { r0 with line := qLine m.hdr, who := .site j (qTag m.hdr), cls := portClass (64 + j) 0 s1,
                  deadline := siteDeadline j m.hdr s1 } := by
  obtain ⟨-, -, -, hr, -⟩ := h
  exact hr

section
variable {j opc err : Nat} {s s1 : State} {m : ZMsg}

theorem doCoherent_leaves (hm : takeRx j opc s = some (m, s1)) (hl : mayLeaveMesh (portClass (64 + j) 0 s) (qLine m.hdr) s = true)
    (kind : HKind) : doCoherent j opc err kind s = siteRequest j m.hdr err (coherentRefusal j (qLine m.hdr) s1)
      { kind := kind, line := qLine m.hdr, who := .site j (qTag m.hdr) } s1 := by
  simp [doCoherent, hm, hl]

theorem doCoherent_refused (hm : takeRx j opc s = some (m, s1)) (hl : mayLeaveMesh (portClass (64 + j) 0 s) (qLine m.hdr) s = true)
    (hn : coherentRefusal j (qLine m.hdr) s1 ≠ .ok) (kind : HKind) :
    doCoherent j opc err kind s = answer (.site j (qTag m.hdr)) (coherentRefusal j (qLine m.hdr) s1) [] s1 :=
  (doCoherent_leaves hm hl kind).trans (siteRequest_refused hn _)

theorem doCoherent_arrives {kind : HKind} {r : HReq} {s2 : State}
    (h : siteAsks j opc err m { kind := kind, line := 0, who := .hub } r s s1 s2) (ho : coherentRefusal j (qLine m.hdr) s1 = .ok) :
    doCoherent j opc err kind s = homeArrive r s2 := by
  obtain ⟨hm, hl, -, rfl, rfl⟩ := h
  exact (doCoherent_leaves hm hl kind).trans (siteRequest_taken ho _)

theorem doRdOnce_window {w : Nat} (hm : takeRx j 0x04 s = some (m, s1)) (hf : fabricWindow (64 * qLine m.hdr) = some w)
    (hu : meshUp s = true) : doRdOnce j err s = fabricSend (.site j (qTag m.hdr)) (siteWindowFn j w s1) w (64 * qLine m.hdr) 0x1 64
      [] none 64 (siteDeadline j m.hdr s1) s1 := by
  simp [doRdOnce, hm, hf, hu]

theorem doWrP_window {w : Nat} (hm : takeRx j 0x05 s = some (m, s1)) (hf : fabricWindow (64 * qLine m.hdr) = some w)
    (hu : meshUp s = true) : doWrP j err s = fabricSend (.site j (qTag m.hdr)) (siteWindowFn j w s1) w (64 * qLine m.hdr) 0x2 64
      m.data (some m.mask) 0 (siteDeadline j m.hdr s1) s1 := by
  simp [doWrP, hm, hf, hu]

section
variable (hf : fabricWindow (64 * qLine m.hdr) = none) (hl : mayLeaveMesh (portClass (64 + j) 0 s) (qLine m.hdr) s = true)
include hf hl

theorem doRdOnce_leaves (hm : takeRx j 0x04 s = some (m, s1)) : doRdOnce j err s =
    siteRequest j m.hdr err (homeStatus (.site j) (64 * qLine m.hdr) false s1)
      { kind := .rdOnce, line := qLine m.hdr, who := .site j (qTag m.hdr) } s1 := by
  simp [doRdOnce, hm, hf, hl]

theorem doWrP_leaves (hm : takeRx j 0x05 s = some (m, s1)) : doWrP j err s =
    siteRequest j m.hdr err (homeStatus (.site j) (64 * qLine m.hdr) true s1)
      { kind := .wrP, line := qLine m.hdr, who := .site j (qTag m.hdr), data := m.data, mask := m.mask } s1 := by
  simp [doWrP, hm, hf, hl]

theorem doRdOnce_refused (hm : takeRx j 0x04 s = some (m, s1)) (hn : homeStatus (.site j) (64 * qLine m.hdr) false s1 ≠ .ok) :
    doRdOnce j err s = answer (.site j (qTag m.hdr)) (homeStatus (.site j) (64 * qLine m.hdr) false s1) [] s1 :=
  (doRdOnce_leaves hf hl hm).trans (siteRequest_refused hn _)

theorem doWrP_refused (hm : takeRx j 0x05 s = some (m, s1)) (hn : homeStatus (.site j) (64 * qLine m.hdr) true s1 ≠ .ok) :
    doWrP j err s = answer (.site j (qTag m.hdr)) (homeStatus (.site j) (64 * qLine m.hdr) true s1) [] s1 :=
  (doWrP_leaves hf hl hm).trans (siteRequest_refused hn _)

end

theorem doRdOnce_arrives {r : HReq} {s2 : State} (h : siteAsks j 0x04 err m { kind := .rdOnce, line := 0, who := .hub } r s s1 s2)
    (ho : homeStatus (.site j) (64 * qLine m.hdr) false s1 = .ok) : doRdOnce j err s = homeArrive r s2 := by
  obtain ⟨hm, hl, hf, rfl, rfl⟩ := h
  exact (doRdOnce_leaves hf hl hm).trans (siteRequest_taken ho _)

theorem doWrP_arrives {r : HReq} {s2 : State}
    (h : siteAsks j 0x05 err m { kind := .wrP, line := 0, who := .hub, data := m.data, mask := m.mask } r s s1 s2)
    (ho : homeStatus (.site j) (64 * qLine m.hdr) true s1 = .ok) : doWrP j err s = homeArrive r s2 := by
  obtain ⟨hm, hl, hf, rfl, rfl⟩ := h
  exact (doWrP_leaves hf hl hm).trans (siteRequest_taken ho _)

end

/-- The commands of the requests that take a copy, each with its message code and its kind. -/
theorem exec_coherent {op j err : Nat} {k : HKind} {c : Instr} {s : State} (hs : s.power.stopped = false)
    (h : (op, k, c) ∈ [(0x01, HKind.rdS, Instr.rdS j err), (0x02, .rdX, .rdX j err), (0x03, .upg, .upg j err)]) :
    exec c s = .next (doCoherent j op err k s) := by
  simp only [List.mem_cons, Prod.mk.injEq, List.not_mem_nil, or_false] at h
  obtain ⟨rfl, rfl, rfl⟩ | ⟨rfl, rfl, rfl⟩ | ⟨rfl, rfl, rfl⟩ := h
  all_goals exact next_clocked hs rfl

/-! ## LINE_DEQUEUE -/

section
variable {line : Nat} {s : State} (ht : trans line s = none)
include ht

theorem nextOfLine_takes {q : HReq} {rest : List HReq} (hh : lineHeld line s = false) (hq : lookD [] s.coh.queue line = q :: rest) :
    nextOfLine line s = takeStable q
      (setCoh (fun h => { h with queue := if rest.isEmpty then del line h.queue else put line rest h.queue }) s) := by
  simp [nextOfLine, ht, hh, hq]

theorem nextOfLine_empty (hh : lineHeld line s = false) (hq : lookD [] s.coh.queue line = []) : nextOfLine line s = s := by
  simp [nextOfLine, ht, hh, hq]

theorem nextOfLine_held (hh : lineHeld line s = true) : nextOfLine line s = s := by simp [nextOfLine, ht, hh]

end

/-! ## WB (R201) -/

section
variable {j line : Nat} {s : State} {data : List Byte}

theorem doWb_none (h : takeRx j 0x1C s = none) : doWb j s = s := by simp only [doWb, h]

theorem doWb_takes {m : ZMsg} {s1 : State} (h : takeRx j 0x1C s = some (m, s1)) :
    doWb j s = zcpAnswer j 0x13 (qTag m.hdr) .ok (takeWb j (qLine m.hdr) m.data s1) := by simp only [doWb, h]

variable (ht : trans line s = none)
include ht

theorem takeWb_exclusive (he : (dent line s).st = 2) (ho : (dent line s).owner = j) :
    takeWb j line data s = setDent line { st := 0 } (writeHome line (portClass (64 + j) 0 s) data s) := by
  simp [takeWb, ht, he, ho]

theorem takeWb_owned (he : (dent line s).st = 3) (ho : (dent line s).owner = j) : takeWb j line data s =
    setDent line { dent line s with st := 1, owner := 0 } (writeHome line (portClass (64 + j) 0 s) data s) := by
  simp [takeWb, ht, he, ho]

theorem takeWb_unowned (he : (dent line s).st ≤ 1) : takeWb j line data s = s := by
  have h2 : (dent line s).st ≠ 2 := by omega
  have h3 : (dent line s).st ≠ 3 := by omega
  simp [takeWb, ht, h2, h3]

end

/-! ## INV_ACK and SNP_DATA (R201, R203) -/

section
variable {j line : Nat} {s : State}

theorem doInvAck_none (h : takeRx j 0x10 s = none) : doInvAck j s = s := by simp only [doInvAck, h]

theorem doSnpData_none (h : takeRx j 0x18 s = none) : doSnpData j s = s := by simp only [doSnpData, h]

section
variable {m : ZMsg} {s1 s2 : State} (hr : snoopOf j (qTag m.hdr) s1 = (some line, s2))
include hr

theorem doInvAck_answers (h : takeRx j 0x10 s = some (m, s1)) : doInvAck j s = takeInvAck j line s2 := by
  simp only [doInvAck, h, hr]

theorem doSnpData_answers (h : takeRx j 0x18 s = some (m, s1)) :
    doSnpData j s = takeSnpData j line (slice m.hdr 26 1) (slice m.hdr 24 2) m.data s2 := by
  simp only [doSnpData, h, hr]

end

theorem takeInvAck_stray (ht : trans line s = none) : takeInvAck j line s = fenceProtocol j line s := by
  simp only [takeInvAck, ht]

variable {t : Trans} (ht : trans line s = some t)
include ht

theorem takeInvAck_sharer (hw : j ∈ t.waits) (ho : t.owner ≠ some j) :
    takeInvAck j line s = advanceTrans line { t with waits := t.waits.filter (· != j) } s := by
  have hn : (t.owner == some j) = false := beq_eq_false_iff_ne.2 ho
  simp [takeInvAck, ht, hw, hn]

variable {d keep : Nat} {data : List Byte}

theorem takeSnpData_owner (hp : t.phase = .bd) (ho : t.owner = some j) (hw : j ∈ t.waits) (hb : badData j d keep t s = false) :
    takeSnpData j line d keep data s = advanceTrans line
      { t with waits := t.waits.filter (· != j), ownerDone := true, ans := some (d, keep, data) } s := by
  simp [takeSnpData, ht, hp, ho, hw, hb]

theorem takeSnpData_notOwner (ho : t.owner ≠ some j) : takeSnpData j line d keep data s = fenceProtocol j line s := by
  simp [takeSnpData, ht, ho]

end

/-! ## GRANT_ACK (R201, R206) -/

/-- The transaction whose grant SITE_j acknowledges with a tag. -/
def grantAwaited (j tag : Nat) (s : State) : Option (Nat × Trans) :=
  s.coh.trans.find? (fun p => decide (p.2.phase = .bg) && decide (p.2.req.who = .site j tag))

theorem closeGrant_kept {line : Nat} {t : Trans} {s : State} (h : t.lostOwner = false) :
    closeGrant line t s = endTrans line (setDent line (finalRecord t) s) := by
  simp [closeGrant, h]

theorem closeGrant_lost {line : Nat} {t : Trans} {s : State} (h : t.lostOwner = true) : closeGrant line t s =
    loseSharers line (finalRecord t).sharers (endTrans line (loseLine line (finalRecord t).owner s)) := if_pos h

section
variable {j : Nat} {s : State}

theorem doGrantAck_none (h : takeRx j 0x11 s = none) : doGrantAck j s = s := by simp only [doGrantAck, h]

variable {m : ZMsg} {s1 : State} (h : takeRx j 0x11 s = some (m, s1))
include h

theorem doGrantAck_closes {line : Nat} {t : Trans} (ht : grantAwaited j (qTag m.hdr) s1 = some (line, t)) :
    doGrantAck j s = closeGrant line t s1 := by
  unfold grantAwaited at ht
  simp only [doGrantAck, h, ht]

theorem doGrantAck_stray (ht : grantAwaited j (qTag m.hdr) s1 = none) : doGrantAck j s = fenceProtocol j 0 s1 := by
  unfold grantAwaited at ht
  simp only [doGrantAck, h, ht]

end

/-! ## The statement -/

section
variable {j err : Nat} {s s1 s2 : State} {m : ZMsg} {r : HReq} (hb : lineBusy r.line s2 = false)
include hb

/-- A request that takes a copy, at a free line, is taken by the entry of its line. -/
theorem doCoherent_taken {opc : Nat} {kind : HKind} (h : siteAsks j opc err m { kind := kind, line := 0, who := .hub } r s s1 s2)
    (ho : coherentRefusal j (qLine m.hdr) s1 = .ok) : doCoherent j opc err kind s = takeStable r s2 :=
  (doCoherent_arrives h ho).trans (homeArrive_free hb)

theorem doRdOnce_taken (h : siteAsks j 0x04 err m { kind := .rdOnce, line := 0, who := .hub } r s s1 s2)
    (ho : homeStatus (.site j) (64 * qLine m.hdr) false s1 = .ok) : doRdOnce j err s = takeStable r s2 :=
  (doRdOnce_arrives h ho).trans (homeArrive_free hb)

theorem doWrP_taken (h : siteAsks j 0x05 err m { kind := .wrP, line := 0, who := .hub, data := m.data, mask := m.mask } r s s1 s2)
    (ho : homeStatus (.site j) (64 * qLine m.hdr) true s1 = .ok) : doWrP j err s = takeStable r s2 :=
  (doWrP_arrives h ho).trans (homeArrive_free hb)

end

/-- Settles O38: a request that nothing refuses is taken by the entry of its free line or queued at a busy one, and an answer
advances the transaction it belongs to or fences its site. -/
theorem siteRequestsAndSnoopAnswers : Obligations.SiteRequestsAndSnoopAnswers := by
  unfold Obligations.SiteRequestsAndSnoopAnswers
  refine ⟨?_, ?_⟩
  · rintro s s1 s2 j line err m who e r t hs rfl rfl rfl rfl
    refine ⟨?_, ?_, ?_, ?_, ?_, ?_, ?_, ?_, ?_, ?_, ?_, ?_, ?_, ?_, ?_, ?_, ?_⟩
    · intro h ho hb
      obtain rfl := siteAsks_req h
      have hd := doCoherent_taken hb h ho
      refine ⟨?_, ?_, ?_, ?_, ?_, ?_⟩
      · exact fun he => next_clocked hs (hd.trans (takeStable_rdS_shared rfl he rfl))
      · exact fun w he hm => next_clocked hs (hd.trans (takeStable_copy_allocates rfl he rfl (.inl rfl) rfl hm))
      · exact fun he hm => next_clocked hs (hd.trans (takeStable_copy_noRoom rfl he rfl rfl hm))
      · exact fun w he hm => next_clocked hs (hd.trans (takeStable_copy_evicts rfl he rfl rfl hm))
      · exact fun he hn => next_clocked hs (hd.trans (takeStable_copy_fetches rfl he hn (.inl rfl)))
      · exact fun he => next_clocked hs (hd.trans (takeStable_lost_read he (.inl rfl)))
    · intro h ho hb
      obtain rfl := siteAsks_req h
      exact next_clocked hs ((doCoherent_arrives h ho).trans (homeArrive_busy hb))
    · exact fun hm hl hn => next_clocked hs (doCoherent_refused hm hl hn .rdS)
    · intro h ho hb
      obtain rfl := siteAsks_req h
      have hd := doCoherent_taken hb h ho
      refine ⟨?_, ?_, ?_⟩
      · exact fun he => next_clocked hs (hd.trans (takeStable_rdX_shared rfl he rfl))
      · exact fun w he hm => next_clocked hs (hd.trans (takeStable_copy_allocates rfl he rfl (.inr rfl) rfl hm))
      · exact fun he hn => next_clocked hs (hd.trans (takeStable_copy_fetches rfl he hn (.inr rfl)))
    · intro h ho hb
      obtain rfl := siteAsks_req h
      have hd := doCoherent_taken hb h ho
      refine ⟨?_, ?_, ?_⟩
      · exact fun he hj => next_clocked hs (hd.trans (takeStable_upg_sharer rfl he hj rfl))
      · exact fun he hj => next_clocked hs (hd.trans (takeStable_upg_owner rfl he hj rfl))
      · exact fun he hj => next_clocked hs (hd.trans (takeStable_upg_exclusive rfl he hj rfl))
    · intro h ho hb
      obtain rfl := siteAsks_req h
      have hd := doRdOnce_taken hb h ho
      exact ⟨fun x he hx => next_clocked hs (hd.trans (takeStable_read_home (.inl rfl) he hx)),
        fun he => next_clocked hs (hd.trans (takeStable_read_owned (.inl rfl) he))⟩
    · exact fun w hm hf hu => next_clocked hs (doRdOnce_window hm hf hu)
    · intro h ho hb
      obtain rfl := siteAsks_req h
      have hd := doWrP_taken hb h ho
      exact ⟨fun he => next_clocked hs (hd.trans (takeStable_write_uncached (.inl rfl) he)),
        fun he => next_clocked hs (hd.trans (takeStable_write_shared (.inl rfl) he))⟩
    · exact fun w hm hf hu => next_clocked hs (doWrP_window hm hf hu)
    · exact fun hm hf hl hn => next_clocked hs (doWrP_refused hf hl hm hn)
    · intro op k c hc
      rw [exec_coherent hs hc]
      exact ⟨fun h ho => congrArg _ (doCoherent_arrives h ho), fun hm hl hn => congrArg _ (doCoherent_refused hm hl hn k)⟩
    · exact fun h ho => next_clocked hs (doRdOnce_arrives h ho)
    · exact fun h ho => next_clocked hs (doWrP_arrives h ho)
    · exact fun hm hf hl hn => next_clocked hs (doRdOnce_refused hf hl hm hn)
    · exact fun ht hh q rest hq => next_clocked hs (congrArg settleHost (nextOfLine_takes ht hh hq))
    · exact fun ht hh hq => next_clocked hs (congrArg settleHost (nextOfLine_empty ht hh hq))
    · exact fun ht hh => next_clocked hs (congrArg settleHost (nextOfLine_held ht hh))
  · rintro s s1 s2 j line m t hs
    refine ⟨?_, ?_, ?_, ?_, ?_, ?_, ?_, ?_, ?_, ?_, ?_, ?_, ?_, ?_⟩
    · rintro h rfl ht he ho
      exact next_clocked hs ((doWb_takes h).trans (congrArg _ (takeWb_exclusive ht he ho)))
    · rintro h rfl ht he ho
      exact next_clocked hs ((doWb_takes h).trans (congrArg _ (takeWb_owned ht he ho)))
    · rintro h rfl ht he
      exact next_clocked hs ((doWb_takes h).trans (congrArg _ (takeWb_unowned ht he)))
    · exact fun h hr ht hw ho => next_clocked hs ((doInvAck_answers hr h).trans (takeInvAck_sharer ht hw ho))
    · exact fun h hr ht => next_clocked hs ((doInvAck_answers hr h).trans (takeInvAck_stray ht))
    · rintro d keep h hr rfl rfl ht hp ho hw hb
      exact next_clocked hs ((doSnpData_answers hr h).trans (takeSnpData_owner ht hp ho hw hb))
    · rintro d keep h hr rfl rfl ht ho
      exact next_clocked hs ((doSnpData_answers hr h).trans (takeSnpData_notOwner ht ho))
    · exact fun h ht hl => next_clocked hs ((doGrantAck_closes h ht).trans (closeGrant_kept hl))
    · exact fun h ht hl => next_clocked hs ((doGrantAck_closes h ht).trans (closeGrant_lost hl))
    · exact fun h ht => next_clocked hs (doGrantAck_stray h ht)
    · exact fun h => next_clocked hs (doWb_none h)
    · exact fun h => next_clocked hs (doInvAck_none h)
    · exact fun h => next_clocked hs (doSnpData_none h)
    · exact fun h => next_clocked hs (doGrantAck_none h)

end Sys2Proof.Machine

namespace Sys2Proof.Machine

open Sys2Proof

/-! # Requests of the hub's agents and of CXL chiplets at the home (R200, R205, R209, R210, R249, R251) -/

/-! ## A request leaves its master port (R251, R260) -/

section
variable {flit err : Nat} {h : HomeHeld} {s : State}

theorem homeRequest_departs (hm : homeMay h s = true) : homeRequest flit err h s = homeGo flit err h s := if_pos hm

theorem homeRequest_held (hm : homeMay h s = false) (hn : atTarget h.port h.id s = none) : homeRequest flit err h s =
    wakePort h.port h.fn (setCoh (fun c => { c with heldHome := c.heldHome ++ [h] }) s) := by
  simp [homeRequest, hm, hn]

theorem homeTake_refused (hn : (homeStatus h.reqr h.off h.write s).worse h.form ≠ .ok) : homeTake err h s =
    answer h.req.who ((homeStatus h.reqr h.off h.write s).worse h.form) [] s := if_pos hn

theorem homeTake_arrives (ho : homeStatus h.reqr h.off h.write s = .ok) (hf : h.form = .ok) :
    homeTake err h s = homeArrive h.req (meetAt err h.req (addOut h.req.who h.req.cls h.req.line s)) := by
  simp [homeTake, ho, hf, enterHome]

/-! A request that does not cross the mesh needs no tag, and is at the home at once. -/

section
variable (hw : ∀ k id, h.req.who ≠ .mesh k id)
include hw

theorem homeMay_offMesh : homeMay h s = mayLeaveMesh h.req.cls h.req.line s := by
  cases hq : h.req.who with
  | mesh k id => exact absurd hq (hw k id)
  | _ => simp [homeMay, hq]

theorem homeGo_offMesh : homeGo flit err h s = homeTake err h s := by
  cases hq : h.req.who with
  | mesh k id => exact absurd hq (hw k id)
  | _ => simp only [homeGo, hq]

theorem homeRequest_offMesh_arrives (hl : mayLeaveMesh h.req.cls h.req.line s = true)
    (ho : homeStatus h.reqr h.off h.write s = .ok) (hf : h.form = .ok) : homeRequest flit err h s =
      homeArrive h.req (meetAt err h.req (addOut h.req.who h.req.cls h.req.line s)) := by
  rw [homeRequest_departs ((homeMay_offMesh hw).trans hl), homeGo_offMesh hw, homeTake_arrives ho hf]

end

end

/-! ## HOME_READ, HOME_WRITE and HOME_ATOMIC -/

theorem lineForm_within {off len : Nat} (h : off % 64 + len ≤ 64) : lineForm off len = .ok := if_neg (Nat.not_lt.2 h)

theorem lineForm_across {off len : Nat} (h : 64 < off % 64 + len) : lineForm off len = .unsupported := if_pos h

section
variable {k id fn off err : Nat} {write : Bool} {form : Status} {q : HReq} {s s1 s2 : State} {h : HomeHeld}
  (hh : h = portRequest k id fn off write form q s)
include hh

theorem portRequest_held (hm : homeMay h s = false) (hn : atTarget k id s = none) (flit : Nat) :
    homeRequest flit err (portRequest k id fn off write form q s) s =
      wakePort k fn (setCoh (fun c => { c with heldHome := c.heldHome ++ [h] }) s) := by
  subst hh
  exact homeRequest_held hm hn

variable (hm : homeMay h s = true)
include hm

/-- A request whose payload is damaged on the mesh is not performed. -/
theorem portRequest_damaged : homeRequest 2 err (portRequest k id fn off write form q s) s =
    meshAnswer k id .dataErr [] (bumpSat MESH_STATUS_FLIT_UE 0 1 (departMesh k id fn (homeTile off s) q.line s)) := by
  subst hh
  exact homeRequest_departs hm

variable (h1 : s1 = departMesh k id fn (homeTile off s) q.line s)
include h1

theorem portRequest_reaches : homeRequest 0 err (portRequest k id fn off write form q s) s = homeTake err h s1 := by
  subst hh h1
  exact homeRequest_departs hm

variable (ho : homeStatus (portReqr k fn) off write s1 = .ok)
include ho

theorem portRequest_badForm {st : Status} (hf : form = st) (hn : st ≠ .ok) :
    homeRequest 0 err (portRequest k id fn off write form q s) s = answer (.mesh k id) st [] s1 := by
  have hst : (homeStatus h.reqr h.off h.write s1).worse h.form = st := by
    subst hh hf
    exact (congrArg (Status.worse · form) ho).trans (ok_worse form)
  rw [portRequest_reaches hh hm h1, homeTake_refused (hst ▸ hn), hst, hh]
  rfl

theorem portRequest_arrives (hf : form = .ok) (h2 : s2 = meetAt err h.req (addOut h.req.who h.req.cls q.line s1)) :
    homeRequest 0 err (portRequest k id fn off write form q s) s = homeArrive h.req s2 := by
  rw [portRequest_reaches hh hm h1]
  subst hh h2
  exact homeTake_arrives ho hf

end

/-! ## Messages of CXL.cache (R209, R210) -/

/-- The request at the home that SITE_j's CXL chiplet makes with a tag, of the kind and operands of `q`. -/
def cxlReq (j tag : Nat) (q : HReq) (s : State) : HReq :=
  { q with who := .cxl j tag, cls := portClass (64 + j) 0 s, deadline := classDeadline (portClass (64 + j) 0 s) none s }

/-- That request at the site's master port. -/
def cxlHeld (j tag line : Nat) (write : Bool) (form : Status) (q : HReq) (s : State) : HomeHeld :=
  { req := cxlReq j tag q s, port := 64 + j, id := tag, fn := 0, off := 64 * line, write := write, form := form }

theorem portReqr_site {j : Nat} (hj : j < 8) (fn : Nat) : portReqr (64 + j) fn = .site j := by
  have hk : 64 + j < 72 := by omega
  simp [portReqr, hk]

theorem cxlHeld_arrives {j tag line err : Nat} {write : Bool} {form : Status} {q r : HReq} {s s1 : State} (hj : j < 8)
    (hl : mayLeaveMesh (portClass (64 + j) 0 s) q.line s = true) (ho : homeStatus (.site j) (64 * line) write s = .ok)
    (hf : form = .ok) (hr : r = cxlReq j tag q s) (h1 : s1 = meetAt err r (addOut r.who r.cls q.line s)) :
    homeRequest 0 err (cxlHeld j tag line write form q s) s = homeArrive r s1 := by
  subst hr h1
  rw [← portReqr_site hj 0] at ho
  exact homeRequest_offMesh_arrives nofun hl ho hf

section
variable {j tag line mask err : Nat} {data : List Byte} {s : State}

theorem doCxlCacheMessage_zcp (hx : siteCxl j s = false) (msg : Nat) : doCxlCacheMessage j msg tag line data mask err s = s := by
  simp [doCxlCacheMessage, hx]

variable (hx : siteCxl j s = true) (hr : siteReady j s = true)
include hx hr

/-- The messages that ask for a copy. -/
theorem doCxlCacheMessage_coherent {msg : Nat} {kind : HKind} {onlyS : Bool}
    (h : (msg, kind, onlyS) ∈ [(0, HKind.rdS, true), (1, .rdS, false), (2, .rdX, false), (3, .ownNoData, false)]) :
    doCxlCacheMessage j msg tag line data mask err s =
      homeRequest 0 err (cxlHeld j tag line false (coherentRefusal j line s)
        { kind := kind, line := line, who := .cxl j tag, onlyS := onlyS } s) s := by
  simp only [List.mem_cons, Prod.mk.injEq, List.not_mem_nil, or_false] at h
  obtain ⟨rfl, rfl, rfl⟩ | ⟨rfl, rfl, rfl⟩ | ⟨rfl, rfl, rfl⟩ | ⟨rfl, rfl, rfl⟩ := h
  all_goals simp [doCxlCacheMessage, hx, hr, cxlHeld, cxlReq]

theorem doCxlCacheMessage_readsOnce : doCxlCacheMessage j 4 tag line data mask err s =
    homeRequest 0 err (cxlHeld j tag line false .ok { kind := .rdOnce, line := line, who := .cxl j tag } s) s := by
  simp [doCxlCacheMessage, hx, hr, cxlHeld, cxlReq]

theorem doCxlCacheMessage_drops : doCxlCacheMessage j 5 tag line data mask err s =
    emit { kind := .cxlSite, dest := j, tag := tag, args := [3] } (dropSite j line s) := by
  simp [doCxlCacheMessage, hx, hr]

theorem doCxlCacheMessage_writesBack : doCxlCacheMessage j 6 tag line data mask err s =
    emit { kind := .cxlSite, dest := j, tag := tag, args := [4] } (takeWb j line data s) := by
  simp [doCxlCacheMessage, hx, hr]

theorem doCxlCacheMessage_writes : doCxlCacheMessage j 7 tag line data mask err s = homeRequest 0 err
    (cxlHeld j tag line true .ok { kind := .wrP, line := line, who := .cxl j tag, data := data, mask := mask } s) s := by
  simp [doCxlCacheMessage, hx, hr, cxlHeld, cxlReq]

theorem doCxlCacheMessage_reserved : doCxlCacheMessage j 8 tag line data mask err s =
    logRec .protocol [j, 8, line] (answer (.cxl j tag) .unsupported [] s) := by
  simp [doCxlCacheMessage, hx, hr]

variable {l : Nat} {s2 : State} (hs : snoopOf j tag s = (some l, s2))
include hs

theorem doCxlCacheMessage_invalidated : doCxlCacheMessage j 9 tag line data mask err s = takeInvAck j l s2 := by
  simp [doCxlCacheMessage, hx, hr, hs]

theorem doCxlCacheMessage_forwardsShared : doCxlCacheMessage j 11 tag line data mask err s = takeSnpData j l 1 1 data s2 := by
  simp [doCxlCacheMessage, hx, hr, hs]

theorem doCxlCacheMessage_forwardsInvalid : doCxlCacheMessage j 12 tag line data mask err s = takeSnpData j l 1 0 data s2 := by
  simp [doCxlCacheMessage, hx, hr, hs]

end

/-! A READY site's request that nothing refuses arrives at the home. -/

section
variable {j tag line mask err : Nat} {data : List Byte} {r : HReq} {s s1 : State} (hj : j < 8) (hx : siteCxl j s = true)
  (hy : siteReady j s = true) (hl : mayLeaveMesh (portClass (64 + j) 0 s) line s = true)
  (h1 : s1 = meetAt err r (addOut r.who r.cls line s))
include hj hx hy hl h1

theorem doCxlCacheMessage_coherent_arrives {msg : Nat} {kind : HKind} {onlyS : Bool}
    (h : (msg, kind, onlyS) ∈ [(0, HKind.rdS, true), (1, .rdS, false), (2, .rdX, false), (3, .ownNoData, false)])
    (ho : homeStatus (.site j) (64 * line) false s = .ok) (hc : coherentRefusal j line s = .ok)
    (hr : r = cxlReq j tag { kind := kind, line := line, who := .cxl j tag, onlyS := onlyS } s) :
    doCxlCacheMessage j msg tag line data mask err s = homeArrive r s1 :=
  (doCxlCacheMessage_coherent hx hy h).trans (cxlHeld_arrives hj hl ho hc hr h1)

theorem doCxlCacheMessage_readOnce_arrives (ho : homeStatus (.site j) (64 * line) false s = .ok)
    (hr : r = cxlReq j tag { kind := .rdOnce, line := line, who := .cxl j tag } s) :
    doCxlCacheMessage j 4 tag line data mask err s = homeArrive r s1 :=
  (doCxlCacheMessage_readsOnce hx hy).trans (cxlHeld_arrives hj hl ho rfl hr h1)

theorem doCxlCacheMessage_write_arrives (ho : homeStatus (.site j) (64 * line) true s = .ok)
    (hr : r = cxlReq j tag { kind := .wrP, line := line, who := .cxl j tag, data := data, mask := mask } s) :
    doCxlCacheMessage j 7 tag line data mask err s = homeArrive r s1 :=
  (doCxlCacheMessage_writes hx hy).trans (cxlHeld_arrives hj hl ho rfl hr h1)

end

theorem dropSite_exclusive {j line : Nat} {s : State} (ht : trans line s = none) (he : (dent line s).st = 2)
    (ho : (dent line s).owner = j) : dropSite j line s = setDent line { st := 0 } s := by
  simp [dropSite, ht, he, ho]

/-! ## The statement -/

/-- Settles O39: a request of a port departs and is taken by the entry of its line, answered or held, and a message of a CXL
chiplet is the request, the drop, the write-back or the answer that Table 9 makes of it. -/
theorem hubAndCxlRequestsAtHome : Obligations.HubAndCxlRequestsAtHome := by
  unfold Obligations.HubAndCxlRequestsAtHome
  refine ⟨?_, ?_⟩
  · intro s s1 s2 k id fn err h hs
    refine ⟨?_, ?_, ?_, ?_, ?_, ?_, ?_, ?_, ?_⟩
    · intro off len hh hm h1 h2 ho hl hb
      have hd := (portRequest_arrives hh hm h1 ho (lineForm_within hl) h2).trans (homeArrive_free (hh ▸ hb))
      obtain rfl := hh
      refine ⟨?_, ?_, ?_⟩
      · exact fun x he hx => next_clocked hs (hd.trans (takeStable_read_home (.inr rfl) he hx))
      · exact fun he => next_clocked hs (hd.trans (takeStable_read_owned (.inr rfl) he))
      · exact fun he => next_clocked hs (hd.trans (takeStable_lost_read he (.inr rfl)))
    · exact fun off len hh hm h1 ho hl =>
        next_clocked hs (portRequest_badForm hh hm h1 ho (lineForm_across hl) (by decide))
    · intro line data mask hh hm h1 h2 ho hb
      have hd := (portRequest_arrives hh hm h1 ho rfl h2).trans (homeArrive_free (hh ▸ hb))
      obtain rfl := hh
      exact ⟨fun he => next_clocked hs (hd.trans (takeStable_write_uncached (.inr (.inl rfl)) he)),
        fun he => next_clocked hs (hd.trans (takeStable_write_shared (.inr (.inl rfl)) he))⟩
    · intro off len op a b hh hm h1 h2 ho hl hb he
      have hd := (portRequest_arrives hh hm h1 ho (lineForm_within hl) h2).trans (homeArrive_free (hh ▸ hb))
      obtain rfl := hh
      exact next_clocked hs (hd.trans (takeStable_write_uncached (.inr (.inr rfl)) he))
    · exact fun off len hh hm h1 h2 ho hl => next_clocked hs (portRequest_arrives hh hm h1 ho (lineForm_within hl) h2)
    · exact fun line data mask hh hm h1 h2 ho => next_clocked hs (portRequest_arrives hh hm h1 ho rfl h2)
    · exact fun off len op a b hh hm h1 h2 ho hl => next_clocked hs (portRequest_arrives hh hm h1 ho (lineForm_within hl) h2)
    · exact fun off len flit hh hm hn => next_clocked hs (portRequest_held hh hm hn flit)
    · exact fun off len hh hm => next_clocked hs (portRequest_damaged hh hm)
  · intro s s1 j tag line mask err data r hs
    refine ⟨?_, ?_, ?_, ?_, ?_, ?_, ?_, ?_, ?_, ?_⟩
    · intro hj hx hy hl ho hr h1 hb he
      have hd := doCxlCacheMessage_write_arrives hj hx hy hl h1 ho hr
      obtain rfl := hr
      exact next_clocked hs (hd.trans ((homeArrive_free hb).trans (takeStable_write_uncached (.inl rfl) he)))
    · intro hj hx hy hl ho hc hr h1 hb
      have hd := doCxlCacheMessage_coherent_arrives (data := data) (mask := mask) hj hx hy hl h1
        (msg := 2) (kind := .rdX) (onlyS := false) (by decide) ho hc hr
      obtain rfl := hr
      exact next_clocked hs (hd.trans (homeArrive_free hb))
    · exact fun msg kind onlyS hk hj hx hy hl ho hc hr h1 =>
        next_clocked hs (doCxlCacheMessage_coherent_arrives hj hx hy hl h1 hk ho hc hr)
    · exact fun hj hx hy hl ho hr h1 => next_clocked hs (doCxlCacheMessage_readOnce_arrives hj hx hy hl h1 ho hr)
    · exact fun hx hy => next_clocked hs (doCxlCacheMessage_drops hx hy)
    · exact fun ht he ho => dropSite_exclusive ht he ho
    · exact fun hx hy => next_clocked hs (doCxlCacheMessage_writesBack hx hy)
    · exact fun hx hy => next_clocked hs (doCxlCacheMessage_reserved hx hy)
    · exact fun l s2 hx hy hn => ⟨next_clocked hs (doCxlCacheMessage_invalidated hx hy hn),
        next_clocked hs (doCxlCacheMessage_forwardsShared hx hy hn), next_clocked hs (doCxlCacheMessage_forwardsInvalid hx hy hn)⟩
    · exact fun msg hx => next_clocked hs (doCxlCacheMessage_zcp hx msg)

end Sys2Proof.Machine

namespace Sys2Proof.Machine

open Sys2Proof

/-! # Invalidation, COPY and ATOMIC (R205, R349, R350, R352, R375, R376, R377, R386) -/

/-! ## Invalidations (R352, R375 to R377) -/

/-- An invalidation with the next number. -/
def numbered (i : Inval) (s : State) : Inval := { i with id := s.xlat.nextInval }

/-- The state once an invalidation has taken its number. -/
def invalNumbered (s : State) : State := setXlat (fun x => { x with nextInval := x.nextInval + 1 }) s

section
variable {i : Inval} {s : State}

theorem addInval_starts (h : s.xlat.invals.length < 32) : addInval i s = startInval (numbered i s) (invalNumbered s) := if_pos h

theorem addInval_queues (h : 32 ≤ s.xlat.invals.length) : addInval i s =
    setXlat (fun x => { x with queuedInvals := x.queuedInvals ++ [numbered i s] }) (invalNumbered s) := if_neg (Nat.not_lt.2 h)

end

section
variable {g k : Nat} {d : Desc} {s : State} (hd : runningDesc g k 0x31 s = some d)
  (hn : (s.xlat.invals ++ s.xlat.queuedInvals).any (fun i => decide (i.desc = some (g, k))) = false)
include hd hn

/-- A descriptor that covers every page and no single PASID starts the invalidation of its whole function. -/
theorem doInvalidate_all (ha : bit (d.word 2) 27 = true) (hp : bit (d.word 2) 26 = false) : doInvalidate g k s = addInval
    { id := 0, fn := slice (d.word 2) 0 6, pasid := none, lo := d.word 3 / 4096, pages := none, desc := some (g, k) } s := by
  simp only [doInvalidate, hd, hn, ha, hp, Bool.false_eq_true, if_false, if_true, Bool.not_true, Bool.false_and]

theorem doInvalidate_noPages (ha : bit (d.word 2) 27 = false) (hz : slice (d.word 4) 0 32 = 0) :
    doInvalidate g k s = failDesc g k .unsupported s := by
  simp [doInvalidate, hd, hn, ha, hz]

end

/-- A read that an invalidation no longer waits for: its tag is in quarantine, and its operation has TIMEOUT. -/
def abandonRead (r : Req) (s : State) : State :=
  accessFailed r.purpose .timeout (trnLog 3 r.fn (match r.xkey with | some x => x.2.1 | none => 0) 0
    (logRec .readAbandoned [r.fn, r.tag] (bumpSat TRN_COUNT_DRAIN_ABANDON 0 1 (entomb r s))))

section
variable {id : Nat} {i : Inval} {s : State} (h : s.xlat.invals.find? (fun i => i.id == id) = some i)
include h

theorem doInvalComplete_ends (hb : i.busy s = false) : doInvalComplete id s = endInval i s := by
  simp [doInvalComplete, h, hb]

theorem doInvalComplete_waits (hb : i.busy s = true) : doInvalComplete id s = s := by
  simp [doInvalComplete, h, hb]

theorem doInvalDrainAbandon_abandons (ht : i.at16 + us16 150 ≤ now16 s) : doInvalDrainAbandon id s = settleJobs
    (forEach (s.timers.reqs.filter (fun r => r.cls == 3 && r.port == 77 && i.tags.contains r.tag)) abandonRead s) := by
  have hdue : due (i.at16 + us16 150) s = true := decide_eq_true ht
  simp only [doInvalDrainAbandon, h, hdue, Bool.not_true, Bool.false_eq_true, if_false]
  rfl

theorem doInvalDrainAbandon_early (ht : now16 s < i.at16 + us16 150) : doInvalDrainAbandon id s = s := by
  have hdue : due (i.at16 + us16 150) s = false := decide_eq_false (Nat.not_le.2 ht)
  simp [doInvalDrainAbandon, h, hdue]

end

/-! ## COPY (R349, R386) -/

/-- The job of a COPY of `len` bytes on the panel mover of TILE_t. -/
def copyJob (g k t len : Nat) (d : Desc) (s : State) : Job :=
  { who := .copy g k, fn := ringFn g, pasid := ringPasid g s, tile := t, alloc := bit (d.word 4) 21, deadline := d.deadline,
    pieces := piecesOf (copySides d).1 (copySides d).2 len }

section
variable {g k t : Nat} {d : Desc} {s : State} (hd : runningDesc g k 0x01 s = some d)
  (hj : s.xlat.jobs.find? (fun p => decide (p.2.who = .copy g k)) = none)
include hd hj

theorem doCopy_starts {len : Nat} (hl : len = slice (d.word 4) 0 19) (h0 : 0 < len) (hm : len ≤ 262144)
    (hs : slice (d.word 4) 19 2 ≠ 3) (hsrc : sideStatus (ringFn g) len false (copySides d).1 s = .ok)
    (hdst : sideStatus (ringFn g) len true (copySides d).2 s = .ok) (hp : (partOf (ringFn g) s).isSome = true)
    (ho : tileOwned (ringFn g) t s = true) (ht : tileServes t s = true) :
    doCopy g k t s = settleJob s.xlat.nextJob (addJob (copyJob g k t len d s) s) := by
  subst hl
  have hz : slice (d.word 4) 0 19 ≠ 0 := by omega
  have hpn : (partOf (ringFn g) s).isNone = false := by simpa using hp
  simp [doCopy, hd, hj, hz, Nat.not_lt.2 hm, hs, hsrc, hdst, hpn, ho, ht, copyJob]

theorem doCopy_empty (hz : slice (d.word 4) 0 19 = 0) (hp : (partOf (ringFn g) s).isSome = true) :
    doCopy g k t s = failDesc g k .unsupported s := by
  have hpn : (partOf (ringFn g) s).isNone = false := by simpa using hp
  have hw : Status.worst [.unsupported] = .unsupported := rfl
  simp [doCopy, hd, hj, hz, hpn, hw]

end

/-! ## ATOMIC (R205, R350) -/

/-- The operands of an ATOMIC descriptor on `n` bytes at offset `a`, at the home. -/
def atomicReq (g k a n : Nat) (d : Desc) (s : State) : HReq :=
  { kind := .homeAtomic, line := a / 64, who := .desc g k, off := a % 64, len := n, op := slice (d.word 2) 44 2,
    a := wrap (8 * n) (d.word 3), b := wrap (8 * n) (d.word 4), cls := portClass 79 (ringFn g) s,
    deadline := classDeadline (portClass 79 (ringFn g) s) d.deadline s }

/-- That request at the control cluster's port. -/
def atomicHeld (g k a n : Nat) (d : Desc) (s : State) : HomeHeld :=
  { req := atomicReq g k a n d s, port := 79, id := 0, fn := ringFn g, off := a, write := true, form := .ok }

section
variable {g k a : Nat} {d : Desc} {s : State} (hd : runningDesc g k 0x02 s = some d) (hi : inFlight (.desc g k) s = false)
  (ha : a = slice (d.word 2) 0 44)
include hd hi ha

theorem doAtomic_asksHome {n : Nat} (hn : n = if bit (d.word 2) 46 then 8 else 4) (ho : slice (d.word 2) 44 2 ≠ 3)
    (hm : a % n = 0) (hf : fabricWindow a = none) (hs : accessStatus (.agent (ringFn g)) a true s = .ok) :
    doAtomic g k s = homeRequest 0 0 (atomicHeld g k a n d s) s := by
  subst ha hn
  simp [doAtomic, hd, hi, ho, hm, hf, hs, atomicHeld, atomicReq]

theorem doAtomic_window {w : Nat} (hb : bit (d.word 2) 46 = true) (ho : slice (d.word 2) 44 2 ≠ 3) (hm : a % 8 = 0)
    (hf : fabricWindow a = some w) : doAtomic g k s =
      fabricSend (.desc g k) (ringFn g) w a 0x3 8 (toBytes 8 (d.word 3) ++ toBytes 8 (d.word 4)) none (slice (d.word 2) 44 2)
        (classDeadline (portClass 79 (ringFn g) s) d.deadline s) s := by
  subst ha
  simp [doAtomic, hd, hi, hb, ho, hm, hf]

theorem doAtomic_reserved (hf : fabricWindow a = none) (ho : slice (d.word 2) 44 2 = 3)
    (hs : accessStatus (.agent (ringFn g)) a true s = .ok) : doAtomic g k s = failDesc g k .unsupported s := by
  subst ha
  simp [doAtomic, hd, hi, ho, hf, hs]

end

theorem atomicHeld_arrives {g k a n : Nat} {d : Desc} {s : State}
    (hl : mayLeaveMesh (portClass 79 (ringFn g) s) (a / 64) s = true)
    (hs : accessStatus (.agent (ringFn g)) a true s = .ok) (ht : sliceStatus a s = .ok) {r : HReq} {s1 : State}
    (hr : r = atomicReq g k a n d s) (h1 : s1 = meetAt 0 r (addOut r.who r.cls r.line s)) :
    homeRequest 0 0 (atomicHeld g k a n d s) s = homeArrive r s1 := by
  have ho : homeStatus (.agent (ringFn g)) a true s = .ok := by simp [homeStatus, hs, ht]
  subst hr h1
  exact homeRequest_offMesh_arrives nofun hl ho rfl

/-! ## The statement -/

/-- Settles O42: an invalidation starts or queues, ends or abandons its reads; a COPY starts its job, and an ATOMIC is performed at
the home or leaves for its window. -/
theorem invalidationCopyAndAtomic : Obligations.InvalidationCopyAndAtomic := by
  unfold Obligations.InvalidationCopyAndAtomic
  intro s hs
  refine ⟨?_, ?_, ?_, ?_, ?_, ?_, ?_, ?_, ?_, ?_, ?_, ?_, ?_⟩
  · rintro fn pasid lo pages itag i h rfl
    exact next_clocked hs (addInval_starts h)
  · rintro fn pasid lo pages itag i h rfl
    exact next_clocked hs (addInval_queues h)
  · exact fun g k d hd hn ha hp => next_clocked hs (doInvalidate_all hd hn ha hp)
  · exact fun g k d hd hn ha hz => next_clocked hs (doInvalidate_noPages hd hn ha hz)
  · exact fun id i h hb => next_clocked hs (doInvalComplete_ends h hb)
  · exact fun id i h hb => next_clocked hs (doInvalComplete_waits h hb)
  · exact fun id i h ht => next_clocked hs (doInvalDrainAbandon_abandons h ht)
  · exact fun id i h ht => next_clocked hs (doInvalDrainAbandon_early h ht)
  · rintro g k t d n len hd hj rfl hl h0 hm hx hsrc hdst hp ho ht
    exact next_clocked hs (doCopy_starts hd hj hl h0 hm hx hsrc hdst hp ho ht)
  · exact fun g k t d hd hj hz hp => next_clocked hs (doCopy_empty hd hj hz hp)
  · rintro g k d a n c r s1 hd hi ha hn ho hm hf hx ht rfl hl hr h1 hb he
    have hq := (doAtomic_asksHome hd hi ha hn ho hm hf hx).trans (atomicHeld_arrives hl hx ht hr h1)
    obtain rfl := hr
    exact next_clocked hs (hq.trans ((homeArrive_free hb).trans (takeStable_write_uncached (.inr (.inr rfl)) he)))
  · exact fun g k d a w hd hi ha hb ho hm hf => next_clocked hs (doAtomic_window hd hi ha hb ho hm hf)
  · exact fun g k d hd hi hf ho hx => next_clocked hs (doAtomic_reserved hd hi rfl hf ho hx)

end Sys2Proof.Machine

namespace Sys2Proof.Machine

open Sys2Proof

/-! # Downstream ports (R235, R328, R330 to R332) -/

theorem due_of_le {t : Nat} {s : State} (h : t ≤ now16 s) : due t s = true := decide_eq_true h

theorem due_of_lt {t : Nat} {s : State} (h : now16 s < t) : due t s = false := decide_eq_false (Nat.not_le.2 h)

@[simp] theorem wrb_false (f : Fld) (i : Nat) (s : State) : wrb f i false s = clrB f i s := rfl

/-- Outputs leave the registers as they are. -/
theorem rd_forEach_emit (l : List Nat) (o : Nat → Out) (f : Fld) (i : Nat) (s : State) :
    rd f i (forEach l (fun n => emit (o n)) s) = rd f i s := by
  induction l generalizing s with
  | nil => rfl
  | cons n t ih => exact (ih (emit (o n) s)).trans (rd_emit (o n) f i s).1

/-! ## Insertion, power and PERST# (R330) -/

section
variable {p : Nat} {s : State}

theorem powerSlot_powers (hp : rdb DS_STATUS_PRESENT p s = true) (he : rd DS_STATUS_STATE p s = 0) : powerSlot p s =
    dsPin p 5 1 (setDs p (fun _ => { poweredAt := some (now16 s) }) (setB DS_STATUS_POWERED p (wr DS_STATUS_STATE p 1 s))) := by
  simp [powerSlot, dsState, hp, he]

theorem powerSlot_notEmpty (he : rd DS_STATUS_STATE p s ≠ 0) : powerSlot p s = s := by
  simp [powerSlot, dsState, he]

theorem doPowerOn_slot (hp : p < 4) : doPowerOn p s = powerSlot p s := if_neg (Nat.not_le.2 hp)

theorem doDsPerstRelease_releases {t : Nat} (ht : (dsPort p s).poweredAt = some t) (he : rd DS_STATUS_STATE p s = 1)
    (hd : t + us16 100000 ≤ now16 s) : doDsPerstRelease p s =
      dsPin p 6 1 (setDs p (fun x => { x with perstAt := some (now16 s) }) (wr DS_STATUS_STATE p 2 s)) := by
  simp [doDsPerstRelease, ht, dsState, he, due_of_le hd]

theorem doDsPresenceChange_inserts (hp : p < 4) (ha : rdb DS_STATUS_PRESENT p s = false)
    (he : rd DS_STATUS_STATE p (setB DS_STATUS_PRESENT p (raiseWake 0x16 p s)) = 0) :
    doDsPresenceChange p true s = insertDevice p (setB DS_STATUS_PRESENT p (raiseWake 0x16 p s)) := by
  simp [doDsPresenceChange, Nat.not_le.2 hp, ha, dsState, he]

theorem doDsPresenceChange_removed (hp : p < 4) (ha : rdb DS_STATUS_PRESENT p s = true)
    (he : rd DS_STATUS_STATE p (clrB DS_STATUS_PRESENT p (raiseWake 0x16 p s)) ≠ 4) :
    doDsPresenceChange p false s = surprise p (clrB DS_STATUS_PRESENT p (raiseWake 0x16 p s)) := by
  have hn : ¬ (4 ≤ p ∨ rdb DS_STATUS_PRESENT p s = false) := by simp [ha, hp]
  exact (if_neg hn).trans (if_neg he)

end

/-! ## The end of training (R235, R328, R330) -/

/-- A device that is a CXL device or an NVMe controller is not refused. -/
theorem notRefused_of_known {f : DsFound} (hc : f.cxl = true ∨ f.cls = 0x010802) : (!f.cxl && f.cls != 0x010802) = false := by
  obtain h | h := hc <;> simp [h]

section
variable {p t : Nat} {f : DsFound} {s : State} (ht : (dsPort p s).perstAt = some t) (he : rd DS_STATUS_STATE p s = 2)
  (hd : t + us16 100000 ≤ now16 s)
include ht he hd

theorem doDsPortReady_untrained (hr : f.rate = 0) : doDsPortReady p f s = dsFault p (addEntry 0x8 p 1 0 s) := by
  simp [doDsPortReady, ht, dsState, he, due_of_le hd, hr]

variable (hr : f.rate ≠ 0) (hc : f.cxl = true ∨ f.cls = 0x010802) (hf : f.enabled = true)
include hr hc hf

theorem doDsPortReady_unattested (ha : rdb DS_CTL_ATTEST_REQ p (noteDevice p f s) = false) : doDsPortReady p f s =
    dsEvent p DS_EVENT_READY (dsPin p 8 1 (wr DS_STATUS_STATE p 3 (clrB DS_STATUS_ATTESTED p (noteDevice p f s)))) := by
  simp [doDsPortReady, ht, dsState, he, due_of_le hd, hr, notRefused_of_known hc, hf, ha]

/-- Attestation is asked for in seven requests and, where it succeeds, is shown in ATTESTED. -/
theorem doDsPortReady_attested (ha : rdb DS_CTL_ATTEST_REQ p (noteDevice p f s) = true) (hs : f.attested = true) :
    doDsPortReady p f s = dsEvent p DS_EVENT_READY (dsPin p 8 1 (wr DS_STATUS_STATE p 3 (setB DS_STATUS_ATTESTED p
      (forEach (List.range 7) (fun i => emit { kind := .ds, dest := p, args := [3, i] }) (noteDevice p f s))))) := by
  have hq : rdb DS_CTL_ATTEST_REQ p (forEach (List.range 7)
      (fun i => emit { kind := .ds, dest := p, args := [3, i] }) (noteDevice p f s)) = true := by
    rw [rdb, rd_forEach_emit]
    exact ha
  simp [doDsPortReady, ht, dsState, he, due_of_le hd, hr, notRefused_of_known hc, hf, ha, hs, hq]

end

/-! ## The button and removal (R330, R331) -/

section
variable {p : Nat} {s : State}

section
variable {s1 : State} (hp : p < 4) (h1 : s1 = dsEvent p DS_EVENT_BUTTON (raiseWake 0x16 p s))
include hp h1

theorem doDsButton_powers (he : rd DS_STATUS_STATE p s1 = 0) : doDsButton p s = powerSlot p s1 := by
  subst h1
  simp only [doDsButton, Nat.not_le.2 hp, if_false, dsState, he]

theorem doDsButton_opensWindow (he : rd DS_STATUS_STATE p s1 = 3) (ha : (dsPort p s1).pressedAt = none) :
    doDsButton p s = dsPin p 8 2 (setDs p (fun x => { x with pressedAt := some (now16 s1) }) s1) := by
  subst h1
  simp only [doDsButton, Nat.not_le.2 hp, if_false, dsState, he, ha]

end

/-- A READY port starts its removal, and its window for a second press is over. -/
theorem startRemove_ready (he : rd DS_STATUS_STATE p s = 3) :
    startRemove p s = setDs p (fun x => { x with pressedAt := none }) (wr DS_STATUS_STATE p 4 s) :=
  if_neg (not_not_intro he)

theorem doRemove_ready (hp : p < 4) (he : rd DS_STATUS_STATE p s = 3) :
    doRemove p s = settleDs (setDs p (fun x => { x with pressedAt := none }) (wr DS_STATUS_STATE p 4 s)) := by
  rw [← startRemove_ready he]
  exact if_neg (Nat.not_le.2 hp)

theorem doDsButtonTimeout_removes {t : Nat} (ht : (dsPort p s).pressedAt = some t) (he : rd DS_STATUS_STATE p s = 3)
    (hd : t + us16 5000000 ≤ now16 s) : doDsButtonTimeout p s =
      settleDs (setDs p (fun x => { x with pressedAt := none }) (wr DS_STATUS_STATE p 4 s)) := by
  simp only [doDsButtonTimeout, ht, dsState, he, due_of_le hd, and_self, if_true, startRemove_ready he]

theorem doDsShutdownTimeout_ends {t : Nat} (ht : (dsPort p s).shutAt = some t) (he : rd DS_STATUS_STATE p s = 4)
    (hd : t + us16 10000000 ≤ now16 s) : doDsShutdownTimeout p s = endRemove p s := by
  simp only [doDsShutdownTimeout, ht, dsState, he, due_of_le hd, and_self, if_true]

end

/-! ## Faults (R332) -/

section
variable {p : Nat} {s : State}

theorem doClear_empties {s1 : State} (hp : p < 4) (h1 : s1 = dsPin p 7 (rd DS_CTL_ATTN_LED p s) (wr DS_STATUS_STATE p 0 (powerOff p s)))
    (he : rd DS_STATUS_STATE p s = 5) (ha : rdb DS_STATUS_PRESENT p s1 = false) : doClear p s = s1 := by
  subst h1
  simp [doClear, Nat.not_le.2 hp, dsState, he, ha]

theorem doDsPowerFault_faults (hp : p < 4) (ho : rdb DS_STATUS_POWERED p s = true) : doDsPowerFault p s =
    dsEvent p DS_EVENT_POWER_FAULT (dsFault p (powerOff p (dropDevice p (raiseWake 0x16 p s)))) := by
  simp [doDsPowerFault, Nat.not_le.2 hp, ho]

theorem doDsLinkDown_ready (he : rd DS_STATUS_STATE p s = 3) : doDsLinkDown p s =
    dsEvent p DS_EVENT_SURPRISE (wr DS_STATUS_STATE p 0 (powerOff p (dropDevice p s))) := by
  simp [doDsLinkDown, surprise, dsState, he]

/-- In REMOVING the removal goes on, with the wait for the shutdown ended (log entry 54). -/
theorem doDsLinkDown_removing (he : rd DS_STATUS_STATE p s = 4) : doDsLinkDown p s =
    settleDs (setDs p (fun x => { x with shutAt := some (now16 s), shutDone := true }) (dropDevice p s)) := by
  simp only [doDsLinkDown, dsState, he]

end

/-! ## What powering off clears -/

/-- The fields that say what is in a slot. -/
def slotFields : List Fld := [DS_STATUS_POWERED, DS_STATUS_RATE, DS_STATUS_WIDTH, DS_STATUS_CXL, DS_STATUS_ATTESTED, DS_DEV_VENDOR,
  DS_DEV_DEVICE, DS_DEV_CLASS]

/-- A field keeps its value while fields of other numbers are cleared. -/
theorem rd_forEach_clear_other {l : List Fld} {f : Fld} (h : ∀ g ∈ l, f.code ≠ g.code) (i : Nat) (s : State) :
    rd f i (forEach l (fun g => wr g i 0) s) = rd f i s := by
  induction l generalizing s with
  | nil => rfl
  | cons g t ih =>
    exact (ih (fun k hk => h k (.tail g hk)) (wr g i 0 s)).trans (rd_wr_field (h g (.head t)) i 0 s)

/-- Of fields with numbers of their own that are cleared, each reads 0. -/
theorem rd_forEach_clear_mem {l : List Fld} (hl : l.Pairwise (fun g k => g.code ≠ k.code)) {f : Fld} (hf : f ∈ l) (i : Nat)
    (s : State) : rd f i (forEach l (fun g => wr g i 0) s) = 0 := by
  induction hl generalizing s with
  | nil => exact absurd hf List.not_mem_nil
  | cons hg _ ih =>
    obtain rfl | hf := List.mem_cons.1 hf
    · exact (rd_forEach_clear_other hg i _).trans ((rd_wr_same f i 0 s).trans (Nat.zero_mod _))
    · exact ih hf _

theorem rd_powerOff (f : Fld) (p : Nat) (s : State) :
    rd f p (powerOff p s) = rd f p (forEach slotFields (fun g => wr g p 0) s) := rfl

theorem rd_powerOff_slotField {f : Fld} (hf : f ∈ slotFields) (p : Nat) (s : State) : rd f p (powerOff p s) = 0 :=
  (rd_powerOff f p s).trans (rd_forEach_clear_mem (by decide) hf p s)

theorem rd_powerOff_state (p : Nat) (s : State) : rd DS_STATUS_STATE p (powerOff p s) = rd DS_STATUS_STATE p s :=
  (rd_powerOff DS_STATUS_STATE p s).trans (rd_forEach_clear_other (by decide) p s)

/-! ## The statement -/

/-- Settles O29: each event of a downstream port is its operation in the state that takes it, and powering off clears the fields of
the slot alone. -/
theorem downstreamPorts : Obligations.DownstreamPorts := by
  unfold Obligations.DownstreamPorts
  refine ⟨?_, ?_⟩
  · intro s p hs hp
    refine ⟨?_, ?_, ?_, ?_, ?_, ?_, ?_, ?_, ?_, ?_⟩
    · exact fun ha he => next_clocked hs ((doPowerOn_slot hp).trans (powerSlot_powers ha he))
    · exact fun he => next_clocked hs ((doPowerOn_slot hp).trans (powerSlot_notEmpty he))
    · exact fun t ht he hd => next_clocked hs (doDsPerstRelease_releases ht he hd)
    · exact fun t f ht he hd hr hc hf ha => next_clocked hs (doDsPortReady_unattested ht he hd hr hc hf ha)
    · exact fun t f ht he hd hr hc hf ha hk => next_clocked hs (doDsPortReady_attested ht he hd hr hc hf ha hk)
    · exact fun t f ht he hd hr => next_clocked hs (doDsPortReady_untrained ht he hd hr)
    · rintro s1 rfl ha he
      exact next_clocked hs (doDsPresenceChange_inserts hp ha he)
    · rintro s1 rfl ha he
      exact next_clocked hs (doDsPresenceChange_removed hp ha he)
    · exact fun s1 h1 => ⟨fun he => next_clocked hs (doDsButton_powers hp h1 he),
        fun he ha => next_clocked hs (doDsButton_opensWindow hp h1 he ha)⟩
    · exact fun s1 h1 he ha => next_clocked hs (doClear_empties hp h1 he ha)
  · intro s p hs hp
    refine ⟨?_, ?_, ?_, ?_, ?_, ?_, ?_⟩
    · exact fun he => next_clocked hs (doRemove_ready hp he)
    · exact fun t ht he hd => next_clocked hs (doDsButtonTimeout_removes ht he hd)
    · exact fun t ht he hd => next_clocked hs (doDsShutdownTimeout_ends ht he hd)
    · exact fun ho => next_clocked hs (doDsPowerFault_faults hp ho)
    · exact fun he => next_clocked hs (doDsLinkDown_ready he)
    · exact fun he => next_clocked hs (doDsLinkDown_removing he)
    · exact ⟨rd_powerOff_slotField (by decide) p s, rd_powerOff_slotField (by decide) p s, rd_powerOff_slotField (by decide) p s,
        rd_powerOff_slotField (by decide) p s, rd_powerOff_slotField (by decide) p s, rd_powerOff_slotField (by decide) p s,
        rd_powerOff_slotField (by decide) p s, rd_powerOff_slotField (by decide) p s, rd_powerOff_state p s⟩

end Sys2Proof.Machine

namespace Sys2Proof.Machine

open Sys2Proof

/-! # Messages, flits and CXL.io requests of chiplets (R217 to R219, R225, R228 to R232, R239, R240, R251) -/

/-! ## PWR_REQ, ARRIVE and EVENT (R225, R228, R231) -/

section
variable {j g : Nat} {s : State}

theorem arriveStatus_ok (ho : siteOwner j s = some (rd ARRIVAL_CFG_FUNCTION g s)) (he : rdb ARRIVAL_CFG_EN g s = true) :
    arriveStatus j g s = .ok := by
  simp [arriveStatus, ho, he]

theorem arriveStatus_denied (ho : siteOwner j s ≠ some (rd ARRIVAL_CFG_FUNCTION g s)) : arriveStatus j g s = .accessDenied := if_pos ho

theorem arriveStatus_refused (ho : siteOwner j s = some (rd ARRIVAL_CFG_FUNCTION g s)) (he : rdb ARRIVAL_CFG_EN g s = false) :
    arriveStatus j g s = .refused := by
  simp [arriveStatus, ho, he]

theorem arrivalAdd_enabled (he : rdb ARRIVAL_CFG_EN g s = true) (n : Nat) : arrivalAdd g n s = bump ARRIVAL_VALUE g n s := if_pos he

theorem doArrive_waits (hw : writesOpen j s = true) : doArrive j s = s := if_pos hw

end

section
variable {j g : Nat} {m : ZMsg} {s s1 s2 s3 : State}

theorem doPwrReq_grants (hm : takeRx j 0x07 s = some (m, s1))
    (h2 : s2 = setSite j (fun x => { x with want := slice m.hdr 20 16, reqAt := some (now16 s1) }) s1)
    (h3 : s3 = wr SITE_PWR_MEASURED j (slice m.hdr 36 16) s2) : doPwrReq j s =
      zcpSend j { opc := 0x1B, cls := 2, hdr := hdrR 0x1B (qTag m.hdr) .ok 0 0 (siteGrant j s3) }
        (wr SITE_PWR_CAP j (siteGrant j s3) s3) := by
  subst h2 h3
  simp only [doPwrReq, hm]

section
variable (hw : writesOpen j s = false) (hm : takeRx j 0x06 s = some (m, s1)) (hg : g = slice m.hdr 20 10)
include hw hm hg

theorem doArrive_adds (ho : siteOwner j s1 = some (rd ARRIVAL_CFG_FUNCTION g s1)) (he : rdb ARRIVAL_CFG_EN g s1 = true) :
    doArrive j s = zcpAnswer j 0x14 (qTag m.hdr) .ok (bump ARRIVAL_VALUE g (slice m.hdr 32 32) s1) := by
  rw [← arrivalAdd_enabled he]
  subst hg
  simp [doArrive, hw, hm, arriveStatus_ok ho he]

theorem doArrive_denied (ho : siteOwner j s1 ≠ some (rd ARRIVAL_CFG_FUNCTION g s1)) :
    doArrive j s = zcpAnswer j 0x15 (qTag m.hdr) .accessDenied s1 := by
  subst hg
  simp [doArrive, hw, hm, arriveStatus_denied ho]

theorem doArrive_refused (ho : siteOwner j s1 = some (rd ARRIVAL_CFG_FUNCTION g s1)) (he : rdb ARRIVAL_CFG_EN g s1 = false) :
    doArrive j s = zcpAnswer j 0x15 (qTag m.hdr) .refused (arrivalAdd g (slice m.hdr 32 32) s1) := by
  subst hg
  simp [doArrive, hw, hm, arriveStatus_refused ho he]

end

section
variable (hm : takeRx j 0x17 s = some (m, s1))
include hm

theorem doChipEvent_owned {n : Nat} (ho : siteOwner j s1 = some n) : doChipEvent j s =
    postEvent n 0x0004 j .ok (slice m.hdr 8 8 + 2 ^ 32 * slice m.hdr 32 32) s1 := by
  simp only [doChipEvent, hm, ho]

theorem doChipEvent_unowned (ho : siteOwner j s1 = none) :
    doChipEvent j s = logRec .siteEvent [j, slice m.hdr 8 8, slice m.hdr 32 32] s1 := by
  simp only [doChipEvent, hm, ho]

end

end

/-! ## Answers of a chiplet (R18, R229, R230) -/

theorem ofCode_eq_ok_iff {c : Nat} : Status.ofCode c = .ok ↔ c = 0 := by
  unfold Status.ofCode
  split <;> simp_all

theorem rStatus_defined {m : ZMsg} (h : Status.reservedCode (slice m.hdr 20 4) = false) (j : Nat) (s : State) :
    rStatus j m s = (Status.ofCode (slice m.hdr 20 4), s) := by
  simp [rStatus, h]

/-- An answer to an outstanding request of the purpose it may answer retires the request. -/
theorem hubReqOf_answers {j tag : Nat} {p : Purpose → Bool} {r : Req} {s : State} (hr : reqOf 1 (64 + j) tag s = some r)
    (hp : p r.purpose = true) : hubReqOf j tag p s = (some r.purpose, retireReq r s) := by
  simp [hubReqOf, hr, hp]

section
variable {j a id : Nat} {m : ZMsg} {r : Req} {s s1 : State}

section
variable (hm : takeRx j 0x1A s = some (m, s1))
include hm

theorem doMmioData_completes {q : HostAcc} (hr : reqOf 1 (64 + j) (qTag m.hdr) s1 = some r) (hw : r.purpose = .window a id false)
    (hc : slice m.hdr 20 4 = 0) (hq : (retireReq r s1).host.accs.find? (fun a => a.id == id) = some q) :
    doMmioData j s = finishAcc id (some (toBytes q.size (slice m.hdr 64 64))) (retireReq r s1) := by
  have hd : Status.reservedCode (slice m.hdr 20 4) = false := by rw [hc]; rfl
  simp [doMmioData, hm, rStatus_defined hd, hubReqOf_answers hr, hw, ofCode_eq_ok_iff.2 hc, hq]

theorem doMmioData_fails {u : State} (hu : u = (rStatus j m s1).2) (hr : reqOf 1 (64 + j) (qTag m.hdr) u = some r)
    (hw : r.purpose = .window a id false) (hc : slice m.hdr 20 4 ≠ 0) :
    doMmioData j s = windowFailed j id false SITE_EVENT_PROTOCOL (retireReq r u) := by
  have hk : (rStatus j m s1).1 ≠ .ok := mt ofCode_eq_ok_iff.1 hc
  subst hu
  simp [doMmioData, hm, hubReqOf_answers hr, hw, hk]

end

theorem doZcpCmp_completes (hm : takeRx j 0x14 s = some (m, s1)) (hd : Status.reservedCode (slice m.hdr 20 4) = false)
    (hr : reqOf 1 (64 + j) (qTag m.hdr) s1 = some r) (hw : r.purpose = .window a id true) :
    doZcpCmp j s = finishAcc id none (retireReq r s1) := by
  simp [doZcpCmp, hm, rStatus_defined hd, hubReqOf_answers hr, hw]

section
variable (hm : takeRx j 0x16 s = some (m, s1)) (hd : Status.reservedCode (slice m.hdr 20 4) = false)
  (hr : reqOf 1 (64 + j) (qTag m.hdr) s1 = some r)
include hm hd hr

/-- The answer to the QUIESCE of a low-power entry is kept for the entry. -/
theorem doMgmtAck_kept {c : Status} (hc : c = Status.ofCode (slice m.hdr 20 4)) (hw : r.purpose = .quiesce j 1)
    (he : (retireReq r s1).power.entry.isSome = true) : doMgmtAck j s =
      setSite j (fun x => { x with lpAns := some c.code, quiesced := x.quiesced || c == .ok }) (retireReq r s1) := by
  subst hc
  simp [doMgmtAck, hm, rStatus_defined hd, hubReqOf_answers hr, hw, he]

/-- Where the entry has unwound, the quiescence ends at once. -/
theorem doMgmtAck_unwound (hc : slice m.hdr 20 4 = 0) (hw : r.purpose = .quiesce j 1) (he : (retireReq r s1).power.entry = none) :
    doMgmtAck j s = sendResume j (retireReq r s1) := by
  simp [doMgmtAck, hm, rStatus_defined hd, hubReqOf_answers hr, hw, he, ofCode_eq_ok_iff.2 hc]

theorem doMgmtAck_resets {t : Nat} (hw : r.purpose = .quiesce j 0) (ht : (site j (retireReq r s1)).rst = .quiescing t) :
    doMgmtAck j s = siteDown j (retireReq r s1) := by
  simp [doMgmtAck, hm, rStatus_defined hd, hubReqOf_answers hr, hw, ht]

end

end

/-! ## ZCP_FLIT_RX (R217 to R219, R232) -/

/-- The state once a flit has arrived at SITE_j after `n` replays: they are counted, and the wake is noted. -/
def replaysNoted (j n : Nat) (s : State) : State :=
  noteWake 0x12 j (count (siteUnit j) 0x42 none n (bumpSat SITE_ERR_RETRIES j n s))

section
variable {j k n ctrl : Nat} {slots : List Nat} {s : State}

theorem doZcpFlitRx_closed (ho : flitOpen j s = false) : doZcpFlitRx j k n ctrl slots s = s := by
  simp [doZcpFlitRx, ho]

section
variable (ho : flitOpen j s = true) (hx : siteCxl j s = false)
include ho hx

/-- A fifth CRC failure takes the module down (log entry 144). -/
theorem doZcpFlitRx_moduleDown (hn : 4 < n) : doZcpFlitRx j k n ctrl slots s = doModuleDown j k [] (replaysNoted j 4 s) := by
  simp [doZcpFlitRx, ho, hx, hn, Nat.min_eq_left (Nat.le_of_lt hn), replaysNoted]

variable {s1 : State} {d : Nat} (hn : n ≤ 4) (h1 : s1 = count (siteUnit j) 0x41 none 1 (replaysNoted j n s))
  (hd : d = slice ctrl 0 16 + 65536 - (site j s1).rxSeq)
include hn h1 hd

/-- A flit is early or late by half of the range of FSEQ (log entry 80). -/
theorem doZcpFlitRx_cases : doZcpFlitRx j k n ctrl slots s =
    if 32768 ≤ d % 65536 then s1
    else if d % 65536 ≠ 0 then setSite j (fun x => { x with early := put (slice ctrl 0 16) (ctrl :: slots) x.early }) s1
    else deliverEarly j 256 (deliverFlit j (ctrl :: slots) s1) := by
  subst h1 hd
  simp only [doZcpFlitRx, ho, hx, Nat.min_eq_right hn, Nat.not_lt.2 hn, replaysNoted]
  rfl

theorem doZcpFlitRx_delivers (h : d % 65536 = 0) :
    doZcpFlitRx j k n ctrl slots s = deliverEarly j 256 (deliverFlit j (ctrl :: slots) s1) := by
  rw [doZcpFlitRx_cases ho hx hn h1 hd, if_neg (by omega), if_neg (not_not_intro h)]

theorem doZcpFlitRx_drops (h : 32768 ≤ d % 65536) : doZcpFlitRx j k n ctrl slots s = s1 :=
  (doZcpFlitRx_cases ho hx hn h1 hd).trans (if_pos h)

theorem doZcpFlitRx_keepsEarly (h0 : 0 < d % 65536) (h : d % 65536 < 32768) : doZcpFlitRx j k n ctrl slots s =
    setSite j (fun x => { x with early := put (slice ctrl 0 16) (ctrl :: slots) x.early }) s1 := by
  rw [doZcpFlitRx_cases ho hx hn h1 hd, if_neg (Nat.not_le.2 h), if_pos (Nat.ne_of_gt h0)]

end

end

/-! ## CXL_IO_WRITE and CXL_SITE_RESPONSE (R239, R240) -/

/-- A whole line is one line. -/
theorem lineOffs_line (line : Nat) : lineOffs (64 * line) 64 = [64 * line] := by
  have hn : (64 * line + 64 - 1) / 64 - 64 * line / 64 + 1 = 1 := by omega
  rw [lineOffs, if_neg (by decide), hn]
  simp [Nat.mul_comm]

section
variable {j tag : Nat} {s : State}

theorem doCxlIoWrite_notReady (hy : siteReady j s = false) (off len : Nat) (w : Bool) (data : List Byte) :
    doCxlIoWrite j tag off len w data s = s := by
  simp [doCxlIoWrite, hy]

section
variable (hx : siteCxl j s = true) (hy : siteReady j s = true)
include hx hy

theorem doCxlIoWrite_readsLine {line : Nat} (ha : accessStatus (.site j) (64 * line) false s = .ok) (data : List Byte) :
    doCxlIoWrite j tag (64 * line) 64 false data s =
      homeArrive { kind := .homeRead, line := line, who := .cxlIo j tag, cls := portClass (64 + j) 0 s } s := by
  simp [doCxlIoWrite, hx, hy, lineOffs_line, forEach, ha]

/-! A write of four bytes at the address of arrival word `g` is an ARRIVE. -/

variable {len g : Nat} {data : List Byte} (hl : data.length = 4) (hg : g < 1024)
include hl hg

theorem doCxlIoWrite_arrives (ha : arriveStatus j g s = .ok) :
    doCxlIoWrite j tag (0x0F0000000000 + 4 * g) len true data s = bump ARRIVAL_VALUE g (ofBytes data) s := by
  have hb : 0x0F0000000000 + 4 * g < 0x0F0000001000 := by omega
  simp [doCxlIoWrite, hx, hy, hl, hb, ha]

theorem doCxlIoWrite_denied (ha : arriveStatus j g s = .accessDenied) : doCxlIoWrite j tag (0x0F0000000000 + 4 * g) len true data s =
    logRec .siteEvent [j, g, Status.accessDenied.code] s := by
  have hb : 0x0F0000000000 + 4 * g < 0x0F0000001000 := by omega
  simp [doCxlIoWrite, hx, hy, hl, hb, ha]

theorem doCxlIoWrite_refused (ha : arriveStatus j g s = .refused) : doCxlIoWrite j tag (0x0F0000000000 + 4 * g) len true data s =
    arrivalAdd g (ofBytes data) (logRec .siteEvent [j, g, Status.refused.code] s) := by
  have hb : 0x0F0000000000 + 4 * g < 0x0F0000001000 := by omega
  simp [doCxlIoWrite, hx, hy, hl, hb, ha]

end

theorem doCxlSiteResponse_zcp (hx : siteCxl j s = false) (a : Answer) : doCxlSiteResponse j tag a s = s := by
  simp [doCxlSiteResponse, hx]

section
variable {a id : Nat} {w : Bool} {r : Req} (hx : siteCxl j s = true) (hr : reqOf 1 (64 + j) tag s = some r)
  (hw : r.purpose = .window a id w)
include hx hr hw

theorem doCxlSiteResponse_data (b : List Byte) : doCxlSiteResponse j tag (.data b) s = finishAcc id (some b) (retireReq r s) := by
  simp [doCxlSiteResponse, hx, hubReqOf_answers hr, hw]

theorem doCxlSiteResponse_fails (st : Status) :
    doCxlSiteResponse j tag (.fail st) s = windowFailed j id w SITE_EVENT_PROTOCOL (retireReq r s) := by
  simp [doCxlSiteResponse, hx, hubReqOf_answers hr, hw]

end

end

/-! ## The statement -/

/-- Settles O43: a message of a ZCP chiplet, an answer of its, a flit and a CXL.io request or answer are each the case of their
operation that applies. -/
theorem chipletMessagesAndFlits : Obligations.ChipletMessagesAndFlits := by
  unfold Obligations.ChipletMessagesAndFlits
  refine ⟨?_, ?_⟩
  · intro s s1 j m hs
    refine ⟨?_, ?_, ?_, ?_, ?_, ?_, ?_, ?_, ?_, ?_, ?_, ?_, ?_⟩
    · exact fun s2 s3 hm h2 h3 => next_clocked hs (doPwrReq_grants hm h2 h3)
    · exact fun g hw hm hg ho he => next_clocked hs (doArrive_adds hw hm hg ho he)
    · exact fun g hw hm hg ho => next_clocked hs (doArrive_denied hw hm hg ho)
    · exact fun g hw hm hg ho he => next_clocked hs (doArrive_refused hw hm hg ho he)
    · exact fun hw => next_clocked hs (doArrive_waits hw)
    · exact fun n hm ho => next_clocked hs (doChipEvent_owned hm ho)
    · exact fun hm ho => next_clocked hs (doChipEvent_unowned hm ho)
    · exact fun r a id q hm hr hw hc hq => next_clocked hs (doMmioData_completes hm hr hw hc hq)
    · exact fun r a id u hm hu hr hw hc => next_clocked hs (doMmioData_fails hm hu hr hw hc)
    · exact fun r a id hm hd hr hw => next_clocked hs (doZcpCmp_completes hm hd hr hw)
    · rintro r code hm rfl hd hr hw he
      exact next_clocked hs (doMgmtAck_kept hm hd hr rfl hw he)
    · exact fun r hm hc hr hw he => next_clocked hs (doMgmtAck_unwound hm (hc ▸ rfl) hr hc hw he)
    · exact fun r t hm hd hr hw ht => next_clocked hs (doMgmtAck_resets hm hd hr hw ht)
  · intro s s1 j hs
    refine ⟨?_, ?_, ?_, ?_, ?_, ?_, ?_, ?_, ?_, ?_, ?_⟩
    · exact fun k n ctrl slots s2 ho hx hn h1 h2 => ⟨fun h => next_clocked hs (doZcpFlitRx_delivers ho hx hn h1 h2 h),
        fun h => next_clocked hs (doZcpFlitRx_drops ho hx hn h1 h2 h),
        fun h0 h => next_clocked hs (doZcpFlitRx_keepsEarly ho hx hn h1 h2 h0 h)⟩
    · exact fun k n ctrl slots ho hx hn => next_clocked hs (doZcpFlitRx_moduleDown ho hx hn)
    · exact fun k n ctrl slots ho => next_clocked hs (doZcpFlitRx_closed ho)
    · exact fun tag len data g hx hy hl hg ha => next_clocked hs (doCxlIoWrite_arrives hx hy hl hg ha)
    · exact fun tag len data g hx hy hl hg ha => next_clocked hs (doCxlIoWrite_denied hx hy hl hg ha)
    · exact fun tag len data g hx hy hl hg ha => next_clocked hs (doCxlIoWrite_refused hx hy hl hg ha)
    · exact fun tag line data hx hy _ ha => next_clocked hs (doCxlIoWrite_readsLine hx hy ha data)
    · exact fun tag off len w data hy => next_clocked hs (doCxlIoWrite_notReady hy off len w data)
    · exact fun tag r a w id b hx hr hw => next_clocked hs (doCxlSiteResponse_data hx hr hw b)
    · exact fun tag r a w id st hx hr hw => next_clocked hs (doCxlSiteResponse_fails hx hr hw st)
    · exact fun tag a hx => next_clocked hs (doCxlSiteResponse_zcp hx a)

end Sys2Proof.Machine

namespace Sys2Proof.Machine

open Sys2Proof

/-! # Reset, fence, bring-up and modules of a chiplet site (R214 to R216, R233 to R238) -/

/-! ## SITE_RESET, SITE_FENCE and SITE_QUIESCE_TIMEOUT (R237, R238) -/

section
variable {j : Nat} {s : State}

theorem doSiteReset_absent (h : siteOn j s = false) : doSiteReset j s = s := by simp [doSiteReset, h]

theorem doSiteFence_absent (h : siteOn j s = false) : doSiteFence j s = s := by simp [doSiteFence, h]

theorem fenceSite_forces (h2 : 2 ≤ siteState j s) (h4 : siteState j s ≠ 4) : fenceSite j s = forceFence j s :=
  if_neg (by omega)

theorem fenceSite_idle (h : siteState j s ≤ 1 ∨ siteState j s = 4) : fenceSite j s = s := if_pos (by omega)

section
variable (ho : siteOn j s = true) (hg : gangedOdd j s = false)
include ho hg

theorem doSiteReset_starts (hr : (site j s).rst = .none) : doSiteReset j s = startSiteReset j s := by
  simp [doSiteReset, ho, hg, hr]

theorem doSiteFence_fences : doSiteFence j s = fenceSite j s := by simp [doSiteFence, ho, hg]

end

theorem startSiteReset_quiesces (hy : siteReady j s = true) (hx : siteCxl j s = false) : startSiteReset j s =
    zcpSend j { opc := 0x0D, cls := 1, hdr := hdrQuiesce 0x0D 0, purpose := some (.quiesce j 0) }
      (setSite j (fun x => { x with rst := .quiescing (now16 s + us16 (rd SITE_CFG_QUIESCE_LIMIT j s)) }) s) := by
  simp [startSiteReset, hy, hx]

theorem startSiteReset_notReady (hy : siteReady j s = false) : startSiteReset j s = siteDown j s := by
  simp [startSiteReset, hy]

section
variable {t : Nat} (hr : (site j s).rst = .quiescing t)
include hr

theorem doSiteQuiesceTimeout_resets (ht : t ≤ now16 s) : doSiteQuiesceTimeout j s = siteDown j s := by
  simp only [doSiteQuiesceTimeout, hr, due_of_le ht, if_true]

theorem doSiteQuiesceTimeout_waits (ht : now16 s < t) : doSiteQuiesceTimeout j s = s := by
  simp [doSiteQuiesceTimeout, hr, due_of_lt ht]

end

end

/-! ## SITE_RESET_RELEASE (R214 to R216, R234 to R236, R238) -/

section
variable {j t : Nat} {f : SiteFound} {s : State} (hr : (site j s).rst = .low t)
include hr

theorem doSiteResetRelease_early (ht : now16 s < t + us16 10) : doSiteResetRelease j f s = s := by
  simp [doSiteResetRelease, hr, due_of_lt ht]

variable (ht : t + us16 10 ≤ now16 s)
include ht

theorem doSiteResetRelease_disabled (he : rdb SITE_CTL_ENABLE j s = false) :
    doSiteResetRelease j f s = wr SITE_STATUS_STATE j 0 (setSite j (fun x => { x with rst := .none }) s) := by
  simp [doSiteResetRelease, hr, due_of_le ht, he]

variable {s1 : State} (he : rdb SITE_CTL_ENABLE j s = true) (ho : siteOn j s = true) (hg : gangedOdd j s = false)
  (h1 : s1 = trainModules j f (gangOdd j (driveSiteRst j 1 s))) (hx : (rdb SITE_CFG_GANG j s1 && siteCxl j s1) = false)
include he ho hg h1 hx

theorem doSiteResetRelease_noModules (hm : siteMods j s1 = 0) : doSiteResetRelease j f s = siteEmpty j 1 0 s1 := by
  subst h1
  simp [doSiteResetRelease, hr, due_of_le ht, he, ho, hg, hx, hm]

/-- The identity record fits, and attestation succeeds where it is asked for. -/
theorem doSiteResetRelease_boots {s2 s3 s4 : State} (hm : siteMods j s1 ≠ 0) (h2 : s2 = takeIdent j f.ident s1)
    (hb : identBad j f.ident s2 = false) (h3 : s3 = attestChiplet j (wr SITE_STATUS_STATE j 2 s2))
    (ha : rdb SITE_CFG_ATTEST_REQ j s3 = true → f.attested = true)
    (h4 : s4 = writeBoot j (wrb SITE_STATUS_ATTESTED j (rdb SITE_CFG_ATTEST_REQ j s3) s3)) :
    doSiteResetRelease j f s = if siteCxl j s4 then s4 else zcpLinkUp j s4 := by
  have hn : (rdb SITE_CFG_ATTEST_REQ j s3 && !f.attested) = false := by
    simpa using ha
  subst h1 h2 h3 h4
  simp only [doSiteResetRelease, hr, due_of_le ht, he, ho, hg, hx, hm, hb, hn]
  rfl

end

/-! ## SITE_READY (R238) -/

section
variable {j : Nat} {s : State}

theorem doSiteReady_notBringing (hr : (site j s).rst = .none) : doSiteReady j s = s := by
  simp [doSiteReady, hr]

section
variable {s1 s2 : State} (hr : (site j s).rst = .bringing) (hc : (siteCxl j s || (site j s).granted) = true)
  (h1 : s1 = setSite j (fun x => { x with rst := .none, lost := 0 }) s)
  (h2 : s2 = wr SITE_PWR_CAP j (pwrMin j s1) (setB SITE_EVENT_READY j (wr SITE_STATUS_STATE j 3 s1)))
include hr hc h1 h2

theorem doSiteReady_unowned (ho : siteOwner j s2 = none) : doSiteReady j s = s2 := by
  subst h1 h2
  simp [doSiteReady, hr, hc, ho]

theorem doSiteReady_tellsOwner {n : Nat} (ho : siteOwner j s2 = some n) : doSiteReady j s = postEvent n 0x0005 j .ok 3 s2 := by
  subst h1 h2
  simp [doSiteReady, hr, hc, ho]

end

end

/-! ## MODULE_DOWN and SITE_RETRAIN_DONE (R233) -/

section
variable {j : Nat} {s : State}

theorem doModuleDown_retrains {k : Nat} (hy : (siteReady j s || siteState j s == 5) = true) (hk : bit (siteMods j s) k = true)
    (u : List Nat) : doModuleDown j k u s =
      pauseReqs (onSite j) (wr SITE_STATUS_STATE j 5 (setSite j (fun x => { x with lost := x.lost + 2 ^ k, resend := x.resend ++ u })
        (bumpSat SITE_ERR_MOD_LOSS j 1 (setB SITE_EVENT_MODULE_LOST j (setMods j (siteMods j s - 2 ^ k) s))))) := by
  simp only [doModuleDown, hy, hk, Bool.not_true, Bool.or_self, Bool.false_eq_true, if_false]

theorem doModuleDown_down {k : Nat} (hk : bit (siteMods j s) k = false) (u : List Nat) : doModuleDown j k u s = s := by
  simp [doModuleDown, hk]

theorem doSiteRetrainDone_other (he : siteState j s ≠ 5) (mods : Nat) : doSiteRetrainDone j mods s = s := if_pos he

section
variable {mods : Nat} (he : siteState j s = 5)
include he

theorem doSiteRetrainDone_resumes {left : Nat} {s1 : State} (hl : left = Nat.land mods (siteMods j s)) (h0 : left ≠ 0)
    (h1 : s1 = setSite j (fun x => { x with txq := markLate x.txq }) (resumeReqs (onSite j) (wr SITE_STATUS_STATE j 3 (setMods j left s)))) :
    doSiteRetrainDone j mods s = siteOutcome j .late (lateCxl j (zcpPump j (resendFlits j s1))) := by
  subst hl h1
  simp only [doSiteRetrainDone, he, h0, ne_eq, not_true_eq_false, if_false]

theorem doSiteRetrainDone_noModules (hl : Nat.land mods (siteMods j s) = 0) :
    doSiteRetrainDone j mods s = fenceSite j (setMods j 0 s) := by
  simp only [doSiteRetrainDone, he, hl, ne_eq, not_true_eq_false, if_false, if_true]

end

end

/-! ## The statement -/

/-- Settles O44: a reset asks for quiescence or acts at once, a release brings the site up as far as what it finds allows, and a
lost module retrains the site, which resumes or is fenced. -/
theorem siteResetAndModules : Obligations.SiteResetAndModules := by
  unfold Obligations.SiteResetAndModules
  intro s j hs
  refine ⟨?_, ?_, ?_, ?_, ?_, ?_, ?_, ?_, ?_, ?_, ?_, ?_, ?_, ?_, ?_, ?_, ?_, ?_⟩
  · exact fun ho hg hr hy hx => next_clocked hs ((doSiteReset_starts ho hg hr).trans (startSiteReset_quiesces hy hx))
  · exact fun ho hg hr hy => next_clocked hs ((doSiteReset_starts ho hg hr).trans (startSiteReset_notReady hy))
  · exact fun ho => ⟨next_clocked hs (doSiteReset_absent ho), next_clocked hs (doSiteFence_absent ho)⟩
  · exact fun ho hg h2 h4 => next_clocked hs ((doSiteFence_fences ho hg).trans (fenceSite_forces h2 h4))
  · exact fun ho hg h => next_clocked hs ((doSiteFence_fences ho hg).trans (fenceSite_idle h))
  · exact fun t hr ht => next_clocked hs (doSiteQuiesceTimeout_resets hr ht)
  · exact fun t hr ht => next_clocked hs (doSiteQuiesceTimeout_waits hr ht)
  · exact fun t f hr ht he => next_clocked hs (doSiteResetRelease_disabled hr ht he)
  · exact fun t f s1 s2 s3 s4 hr ht he ho hg h1 hx hm h2 hb h3 ha h4 =>
      next_clocked hs (doSiteResetRelease_boots hr ht he ho hg h1 hx hm h2 hb h3 ha h4)
  · exact fun t f s1 hr ht he ho hg h1 hx hm => next_clocked hs (doSiteResetRelease_noModules hr ht he ho hg h1 hx hm)
  · exact fun t f hr ht => next_clocked hs (doSiteResetRelease_early hr ht)
  · exact fun s1 s2 hr hc h1 h2 => ⟨fun ho => next_clocked hs (doSiteReady_unowned hr hc h1 h2 ho),
      fun n ho => next_clocked hs (doSiteReady_tellsOwner hr hc h1 h2 ho)⟩
  · exact fun hr => next_clocked hs (doSiteReady_notBringing hr)
  · exact fun k u hy hk => next_clocked hs (doModuleDown_retrains hy hk u)
  · exact fun k u hk => next_clocked hs (doModuleDown_down hk u)
  · exact fun mods left s1 he hl h0 h1 => next_clocked hs (doSiteRetrainDone_resumes he hl h0 h1)
  · exact fun mods he hl => next_clocked hs (doSiteRetrainDone_noModules he hl)
  · exact fun mods he => next_clocked hs (doSiteRetrainDone_other he mods)

end Sys2Proof.Machine

namespace Sys2Proof.Machine

open Sys2Proof

/-! # Syrel packets: routing, the fabric window, remote memory operations and holding (R251, R282, R283, R288, R289, R297) -/

/-- A form that is not supported is refused, whatever the other condition (R17). -/
theorem unsupported_worse_ne_ok (a : Status) : Status.worse .unsupported a ≠ .ok := by cases a <;> decide

/-! ## SYREL_PACKET_FORWARD (R282, R283) -/

section
variable {p : Nat} {k : Pkt} {s : State} (hp : rd PWR_STATUS_STATE 0 s < 2) (hh : headCell p s = some (.pkt k))
include hp hh

theorem doSyrelPacketForward_bad (hb : pktBad k = true) : doSyrelPacketForward p s =
    takePortDown p (setB SYR_EVENT_PORT_DOWN 0 (bumpSat SYR_PERR_REPLAYS p 1 (popCell p s))) := by
  simp only [doSyrelPacketForward, Nat.not_le.2 hp, hh, hb, if_true, if_false]

theorem doSyrelPacketForward_good (hb : pktBad k = false) :
    doSyrelPacketForward p s = routeIn p k (freeCells p k (popCell p s)) := by
  simp only [doSyrelPacketForward, Nat.not_le.2 hp, hh, hb, Bool.false_eq_true, if_false]

end

section
variable {p : Nat} {k k2 : Pkt} {s s2 : State}
  (h2 : s2 = if Status.reservedCode k.status then logRec .reservedStatus [1, p, k.status] s else s)
  (hk : k2 = { k with secure := rdb SYR_PORT_SECURE p s2, port := p, status := if Status.reservedCode k.status then 4 else k.status })
include h2 hk

/-- A collective or multicast packet goes no further by itself. -/
theorem routeIn_delivers (ho : k.opc = 0x8 ∨ k.opc = 0x9 ∨ k.opc = 0xA) : routeIn p k s = deliver k2 s2 := by
  subst hk h2
  exact if_pos ho

theorem routeIn_routes (ho : k.opc < 8) :
    routeIn p k s = routePkt 3 (decide (18 ≤ p)) (if p < 18 then some p else none) k2 s2 := by
  subst hk h2
  exact if_neg (by change ¬(k.opc = 0x8 ∨ k.opc = 0x9 ∨ k.opc = 0xA); omega)

end

/-! ## FABRIC_WINDOW_REQUEST (R251, R288) -/

section
variable {k id fn off op len aux : Nat} {data : List Byte} {s : State}

theorem doFabricWindowRequest_outside (hw : fabricWindow off = none) : doFabricWindowRequest k id fn off op len data aux s = s := by
  simp [doFabricWindowRequest, hw]

section
variable {w : Nat} (hw : fabricWindow off = some w) (ha : atTarget k id s = none)
include hw ha

theorem doFabricWindowRequest_departs (hm : meshUp s = true) : doFabricWindowRequest k id fn off op len data aux s =
    windowGo { port := k, id := id, fn := fn, off := off, op := op, len := len, data := data, aux := aux } s := by
  simp [doFabricWindowRequest, hw, ha, hm]

theorem doFabricWindowRequest_held (hm : meshUp s = false) : doFabricWindowRequest k id fn off op len data aux s =
    wakePort k fn (setSyr (fun y => { y with heldWin := y.heldWin ++
      [{ port := k, id := id, fn := fn, off := off, op := op, len := len, data := data, aux := aux }] }) s) := by
  simp [doFabricWindowRequest, hw, ha, hm]

end
end

section
variable {r : WinReq} {w : Nat} {dl : Option Nat} {s s1 : State} (hw : fabricWindow r.off = some w)
  (hd : dl = classDeadline (portClass r.port r.fn s) none s)
  (h1 : s1 = setMesh (fun m => { m with held := m.held ++ [{ port := r.port, id := r.id, tgt := 72, at16 := now16 s }] }) s)
include hw hd h1

theorem windowGo_read (ho : r.op = 1) :
    windowGo r s = fabricSend (.mesh r.port r.id) r.fn w r.off 0x1 r.len [] none r.len dl s1 := by
  subst hd h1
  simp only [windowGo, hw, ho]

theorem windowGo_write (ho : r.op = 2) :
    windowGo r s = fabricSend (.mesh r.port r.id) r.fn w r.off 0x2 r.data.length r.data none 0 dl s1 := by
  subst hd h1
  simp only [windowGo, hw, ho]

theorem windowGo_atomic (ho : r.op = 3) (ha : r.off % 8 = 0) (hl : r.data.length = 16) :
    windowGo r s = fabricSend (.mesh r.port r.id) r.fn w r.off 0x3 8 r.data none r.aux dl s1 := by
  subst hd h1
  simp only [windowGo, hw, ho, ha, hl, and_self, if_true]

omit hd

theorem windowGo_unalignedAtomic (ho : r.op = 3) (ha : r.off % 8 ≠ 0) :
    windowGo r s = answer (.mesh r.port r.id) (Status.worse .unsupported (windowStatus r.fn w r.off 8 s1)) [] s1 := by
  subst h1
  simp only [windowGo, hw, ho, ha, false_and, if_false]

theorem windowGo_coherent (ho : r.op = 0) :
    windowGo r s = answer (.mesh r.port r.id) (Status.worse .unsupported (windowStatus r.fn w r.off 0 s1)) [] s1 := by
  subst h1
  simp only [windowGo, hw, ho]

end

/-! ## RREAD, RWRITE and RATOMIC (R289) -/

section
variable {k : Pkt} {s s1 : State}

/-- A read of 1 to 512 bytes becomes a home read of each line it touches. -/
theorem doRread_serves {off len : Nat} (ht : takeReqPkt 0x1 s = some (k, s1)) (ho : off = pktOff k) (hl : len = slice k.aux 0 10)
    (h0 : 0 < len) (h512 : len ≤ 512) (hs : remoteStatus k len false s1 = .ok) :
    doRread s = serveRemote k ((lineOffs off len).map (fun o =>
      { kind := .homeRead, line := o / 64, who := .hub, off := max o off - o, len := min (o + 64) (off + len) - max o off })) s1 := by
  subst ho hl
  have hf : ¬(slice k.aux 0 10 = 0 ∨ 512 < slice k.aux 0 10) := by omega
  simp only [doRread, ht, if_neg hf, hs, worse_ok, ne_eq, not_true_eq_false, if_false]

theorem doRread_noBytes (ht : takeReqPkt 0x1 s = some (k, s1)) (hl : slice k.aux 0 10 = 0) :
    doRread s = syrAnswer k (Status.worse .unsupported (remoteStatus k 0 false s1)) [] s1 := by
  simp only [doRread, ht, hl, true_or, if_true, if_pos (unsupported_worse_ne_ok _)]

/-- A write that is not empty, and where masked one whole line, becomes a home write of each line it touches. -/
theorem doRwrite_serves (ht : takeReqPkt 0x2 s = some (k, s1)) (h0 : k.data ≠ [])
    (hm : k.masked = true → k.data.length = 64 ∧ pktOff k % 64 = 0) (hs : remoteStatus k k.data.length true s1 = .ok) :
    doRwrite s = serveRemote k ((lineOffs (pktOff k) k.data.length).map (fun o =>
      { kind := .homeWrite, line := o / 64, who := .hub, data := (linePart o (pktOff k) k.data).1,
        mask := if k.masked then k.aux else (linePart o (pktOff k) k.data).2 })) s1 := by
  have hf : (k.data.isEmpty || (k.masked && (k.data.length != 64 || pktOff k % 64 != 0))) = false := by
    simpa [h0] using hm
  simp only [doRwrite, ht, hf, Bool.false_eq_true, hs, worse_ok, ne_eq, not_true_eq_false, if_false]

theorem doRatomic_serves (ht : takeReqPkt 0x3 s = some (k, s1)) (ho : slice k.aux 0 2 ≠ 3) (ha : pktOff k % 8 = 0)
    (hl : k.data.length = 16) (hs : remoteStatus k 8 true s1 = .ok) :
    doRatomic s = serveRemote k
      [{ kind := .homeAtomic, line := pktOff k / 64, who := .hub, off := pktOff k % 64, len := 8,
         op := slice k.aux 0 2, a := ofBytes (k.data.take 8), b := ofBytes (k.data.drop 8) }] s1 := by
  have hf : ¬(slice k.aux 0 2 = 3 ∨ pktOff k % 8 ≠ 0 ∨ k.data.length ≠ 16) := by omega
  simp only [doRatomic, ht, if_neg hf, hs, worse_ok, ne_eq, not_true_eq_false, if_false]

end

/-! ## RDATA and RCMP (R255, R289) -/

section
variable {opc : Nat} {k : Pkt} {s s1 : State} (ht : takeInbox (fun k => k.opc == opc) s = some (k, s1))
include ht

theorem takeResponse_answers {r : Req} {id : Nat} {w : OutReq} (hr : reqOf 2 72 k.tag s1 = some r) (hu : r.purpose = .remote id)
    (hw : look (retireReq r s1).syr.outbound id = some w) :
    takeResponse opc s = settleJobs (answerOut id w (Status.ofCode k.status) k.data (retireReq r s1)) := by
  simp only [takeResponse, ht, hr, hu, hw]

/-- The tag of an answer that comes late is in quarantine. -/
theorem takeResponse_late {t : Tomb} (hr : reqOf 2 72 k.tag s1 = none) (hm : t ∈ s1.timers.tombs) (hc : t.cls = 2)
    (hg : t.tag = k.tag) : takeResponse opc s = bump TMO_COUNT_LATE_DROP 0 1 s1 := by
  have hq : s1.timers.tombs.any (fun t => t.cls == 2 && t.tag == k.tag) = true :=
    List.any_eq_true.2 ⟨t, hm, by simp [hc, hg]⟩
  simp only [takeResponse, ht, hr, hq, if_true]

end

/-! ## SYR_HOLD_EXPIRE (R297) -/

section
variable {d : Nat} {s : State}

theorem doSyrHoldExpire_waits (hw : ∀ h ∈ s.syr.held, h.1 = d → now16 s < h.2.1 + us16 (rd SYR_HOLD_US 0 s)) :
    doSyrHoldExpire d s = s := by
  have hn : s.syr.held.filter (fun h => h.1 == d && due (h.2.1 + us16 (rd SYR_HOLD_US 0 s)) s) = [] :=
    List.filter_eq_nil_iff.2 fun x hx => by
      rw [Bool.and_eq_true, beq_iff_eq]
      exact fun ⟨hd, hu⟩ => by simp [due_of_lt (hw x hx hd)] at hu
  simp only [doSyrHoldExpire, hn, List.isEmpty_nil, if_true]

theorem doSyrHoldExpire_bounces {late : List (Nat × Nat × Pkt)}
    (hl : late = s.syr.held.filter (fun h => h.1 == d && decide (h.2.1 + us16 (rd SYR_HOLD_US 0 s) ≤ now16 s))) (h0 : late ≠ []) :
    doSyrHoldExpire d s = forEach late (fun h u => bounce h.2.2 u)
      (setB SYR_EVENT_HOLD_EXPIRED 0 (setSyr (fun y => { y with held := y.held.filter (fun h => !late.contains h) }) s)) := by
  subst hl
  exact if_neg (mt List.isEmpty_iff.1 h0)

end

/-! ## The statement -/

/-- Settles O46: a packet by its header and kind, a request in a fabric window by its form and the mesh, a remote operation by what
refuses it, an answer by its tag, and a held packet by the time it has waited. -/
theorem syrelPackets : Obligations.SyrelPackets := by
  unfold Obligations.SyrelPackets
  intro s s1 hs
  refine ⟨?_, ?_, ?_, ?_, ?_, ?_, ?_, ?_, ?_, ?_, ?_, ?_, ?_, ?_⟩
  · exact fun p k hp hh hb => next_clocked hs (doSyrelPacketForward_bad hp hh hb)
  · rintro p k k2 s2 hp hh hb rfl h2 hk
    have hg := doSyrelPacketForward_good hp hh hb
    exact ⟨fun ho => next_clocked hs (hg.trans (routeIn_routes h2 hk ho)),
      fun ho => next_clocked hs (hg.trans (routeIn_delivers h2 hk ho))⟩
  · intro k id fn off len data aux w dl hw ha hm hd h1
    refine ⟨?_, ?_, fun h8 hl => ?_, fun h8 => ?_, ?_⟩
      <;> refine next_clocked hs ((doFabricWindowRequest_departs hw ha hm).trans ?_)
    · exact windowGo_read hw hd h1 rfl
    · exact windowGo_write hw hd h1 rfl
    · exact windowGo_atomic hw hd h1 rfl h8 hl
    · exact windowGo_unalignedAtomic hw h1 rfl h8
    · exact windowGo_coherent hw h1 rfl
  · exact fun k id fn off op len data aux w hw ha hm => next_clocked hs (doFabricWindowRequest_held hw ha hm)
  · exact fun k id fn off op len data aux hw => next_clocked hs (doFabricWindowRequest_outside hw)
  · exact fun k off len ht ho hl h0 h512 hr => next_clocked hs (doRread_serves ht ho hl h0 h512 hr)
  · exact fun k ht hl => next_clocked hs (doRread_noBytes ht hl)
  · exact fun k ht h0 hm hr => next_clocked hs (doRwrite_serves ht h0 hm hr)
  · exact fun k ht ho ha hl hr => next_clocked hs (doRatomic_serves ht ho ha hl hr)
  · exact fun k r id w ht hr hu hw => next_clocked hs (takeResponse_answers ht hr hu hw)
  · exact fun k r id w ht hr hu hw => next_clocked hs (takeResponse_answers ht hr hu hw)
  · exact fun k t ht hr hm hc hg => next_clocked hs (takeResponse_late ht hr hm hc hg)
  · exact fun d h => next_clocked hs (doSyrHoldExpire_waits h)
  · exact fun d late hl h0 => next_clocked hs (doSyrHoldExpire_bounces hl h0)

end Sys2Proof.Machine

namespace Sys2Proof.Machine

open Sys2Proof

/-! # The twin: mirror records, its loss, promotion, multicast and management packets (R278, R291, R301, R303 to R305) -/

/-! ## MIRROR, MIR_ACK and MIRROR_LAG_EXPIRE (R301, R303) -/

section
variable {k : Pkt} {s s1 : State}

theorem doMirror_acknowledges (ht : takeInbox (fun k => k.opc == 0x6) s = some (k, s1)) : doMirror s =
    syrSend { opc := 0x7, vn := 1, dst := k.src, src := selfId (applyMirror k s1).2, tag := k.tag, fn := k.fn,
              status := (applyMirror k s1).1.code, addr := k.addr } (applyMirror k s1).2 := by
  simp only [doMirror, ht]

section
variable {i : Nat} (ht : takeInbox (fun k => k.opc == 0x7) s = some (k, s1))
  (hi : primaryOf k.fn (slice k.addr 0 18) s1 = some i)
include ht hi

theorem doMirAck_ends (hk : Status.ofCode k.status = .ok) : doMirAck s = mirrorDone i (ackMirror i k.tag s1) := by
  simp only [doMirAck, ht, hi, hk, ne_eq, not_true_eq_false, if_false]

theorem doMirAck_breaks (hk : Status.ofCode k.status ≠ .ok) :
    doMirAck s = breakMirror i (Status.ofCode k.status) true s1 := by
  simp only [doMirAck, ht, hi, if_pos hk]

end

theorem doMirrorLagExpire_breaks {i : Nat} {m : MirPend} (hm : m ∈ s.syr.mirPend) (hi : m.ses = i)
    (hl : m.at16 + us16 (1000 * rd CP_CTL_LAG_MS 0 s) ≤ now16 s) : doMirrorLagExpire i s = breakMirror i .timeout true s :=
  if_pos (List.any_eq_true.2 ⟨m, hm, by simp [hi, due_of_le hl]⟩)

theorem doMirrorLagExpire_waits {i : Nat}
    (hw : ∀ m ∈ s.syr.mirPend, m.ses = i → now16 s < m.at16 + us16 (1000 * rd CP_CTL_LAG_MS 0 s)) :
    doMirrorLagExpire i s = s :=
  if_neg fun h => by
    obtain ⟨m, hm, hd⟩ := List.any_eq_true.1 h
    obtain ⟨hi, hd⟩ := Bool.and_eq_true_iff.1 hd
    simp [due_of_lt (hw m hm (eq_of_beq hi))] at hd

end

/-! ## TWIN_LOST (R304) -/

section
variable {t : Nat} {s s2 s3 : State}

theorem doTwinLost_breaks (ht : s.syr.twinDownAt = some t) (hl : s.syr.twinLost = false)
    (hd : t + us16 (1000 * rd CP_CTL_DEAD_MS 0 s) ≤ now16 s)
    (h2 : s2 = setB SYR_EVENT_TWIN_LOST 0 (setSyr (fun y => { y with twinLost := true }) s))
    (h3 : s3 = forEach ((List.range 64).filter (fun n =>
        s2.ses.tab.any (fun p => p.2.fn == n && (p.2.mirror || p.2.state == 5 || p.2.replica))))
      (fun n s => postEvent n 0x0009 0 .unreachable 0 s) s2) :
    doTwinLost s = forEach (s3.ses.tab.filter (fun p => p.2.mirror || p.2.state == 5))
      (fun p s => breakMirror p.1 .unreachable false s) s3 := by
  subst h3 h2
  simp only [doTwinLost, ht, hl, due_of_le hd, Bool.not_true, Bool.or_false, Bool.false_eq_true, if_false]

theorem doTwinLost_waits (ht : s.syr.twinDownAt = some t) (hd : now16 s < t + us16 (1000 * rd CP_CTL_DEAD_MS 0 s)) :
    doTwinLost s = s := by
  simp only [doTwinLost, ht, due_of_lt hd, Bool.not_false, Bool.or_true, if_true]

theorem doTwinLost_twinUp (ht : s.syr.twinDownAt = none) : doTwinLost s = s := by
  simp only [doTwinLost, ht]

end

/-! ## CP_PROMOTE (R305) -/

section
variable {g k : Nat} {s : State} {d : Desc} (hd : runningDesc g k 0x32 s = some d)
include hd

theorem doCpPromote_withoutReplica (hn : ∀ p ∈ s.ses.tab, p.2.replica = true → p.2.fn ≠ slice (d.word 2) 0 6) :
    doCpPromote g k s = completeDesc g k .ok 0 0 0 s := by
  have he : s.ses.tab.filter (fun p => p.2.replica && p.2.fn == slice (d.word 2) 0 6) = [] :=
    List.filter_eq_nil_iff.2 fun p hp => by simpa using hn p hp
  simp only [doCpPromote, hd, he, List.map_nil, List.foldl_nil, List.length_nil]

theorem doCpPromote_oneReplica {p : Nat × SesEnt}
    (hp : s.ses.tab.filter (fun p => p.2.replica && p.2.fn == slice (d.word 2) 0 6) = [p]) :
    doCpPromote g k s = completeDesc g k (Status.worse .ok (promote p.1 s).1) 1 0 0 (promote p.1 s).2 := by
  simp only [doCpPromote, hd, hp, List.map_cons, List.map_nil, List.foldl_cons, List.foldl_nil, List.length_cons,
    List.length_nil, Nat.zero_add]

end

/-! ## MCAST and MGMT (R278, R291) -/

section
variable {k : Pkt} {s s1 : State}

section
variable (ht : takeInbox (fun k => k.opc == 0xA) s = some (k, s1))
include ht

theorem doMcast_forwards (hv : rdb MC_GROUP_VALID (k.addr % 256) s1 = true) (hl : rdb MC_GROUP_LOCAL (k.addr % 256) s1 = false) :
    doMcast s = mcastOut (k.addr % 256) k s1 := by
  simp only [doMcast, ht, hv, hl, Bool.not_true, Bool.false_eq_true, if_false]

theorem doMcast_delivers (hv : rdb MC_GROUP_VALID (k.addr % 256) s1 = true) (hl : rdb MC_GROUP_LOCAL (k.addr % 256) s1 = true) :
    doMcast s = mcastOut (k.addr % 256) k (takeMulticast k s1) := by
  simp only [doMcast, ht, hv, hl, Bool.not_true, Bool.false_eq_true, if_false, if_true]

theorem doMcast_drops (hv : rdb MC_GROUP_VALID (k.addr % 256) s1 = false) : doMcast s = s1 := by
  simp only [doMcast, ht, hv, Bool.not_false, if_true]

end

theorem doMgmt_sinks (act : MgmtAct) (ht : takeInbox (fun k => k.opc == 0xB) s = some (k, s1)) :
    doMgmt act s = takeMgmt k.src act (sinkPacket k s1) := by
  simp only [doMgmt, ht]

end

/-! ## The statement -/

/-- Settles O16: a record and its acknowledgement by their packet, the lag limit by the records that wait, the loss of the twin by
the time it has been down, a promotion by the replicas of its function, and a multicast by its group. -/
theorem mirrorAndManagement : Obligations.MirrorAndManagement := by
  unfold Obligations.MirrorAndManagement
  intro s s1 hs
  refine ⟨?_, ?_, ?_, ?_, ?_, ?_, ?_, ?_, ?_, ?_, ?_, ?_, ?_, ?_⟩
  · exact fun k ht => next_clocked hs (doMirror_acknowledges ht)
  · exact fun k i ht hi hk => next_clocked hs (doMirAck_ends ht hi hk)
  · exact fun k i ht hi hk => next_clocked hs (doMirAck_breaks ht hi hk)
  · exact fun i m hm hi hl => next_clocked hs (doMirrorLagExpire_breaks hm hi hl)
  · exact fun i hw => next_clocked hs (doMirrorLagExpire_waits hw)
  · exact fun t s2 s3 ht hl hd h2 h3 => next_clocked hs (doTwinLost_breaks ht hl hd h2 h3)
  · exact fun t ht hd => next_clocked hs (doTwinLost_waits ht hd)
  · exact fun ht => next_clocked hs (doTwinLost_twinUp ht)
  · exact fun g k d hd hn => next_clocked hs (doCpPromote_withoutReplica hd hn)
  · exact fun g k d p hd hp => next_clocked hs (doCpPromote_oneReplica hd hp)
  · exact fun k ht hv hl => next_clocked hs (doMcast_forwards ht hv hl)
  · exact fun k ht hv hl => next_clocked hs (doMcast_delivers ht hv hl)
  · exact fun k ht hv => next_clocked hs (doMcast_drops ht hv)
  · exact fun act k ht => next_clocked hs (doMgmt_sinks act ht)

end Sys2Proof.Machine

namespace Sys2Proof.Machine

open Sys2Proof

/-! # Entry to and exit from low-power states (R306, R451, R453, R458, R461) -/

/-! ## Wake events (R306, R451, R458) -/

section
variable {code idx : Nat} {s : State}

theorem wakeCode_of_bounds (h1 : 0x11 ≤ code) (h2 : code ≤ 0x17) : wakeCode code = true := by
  simp [wakeCode, h1, h2]

/-- An entry keeps the wake event for its next abort point. -/
theorem raiseWake_entering {e : PEntry} (he : s.power.entry = some e) :
    raiseWake code idx s = setPower (fun p => { p with wakes := p.wakes ++ [(code, idx)] }) s :=
  if_pos (by rw [he]; rfl)

theorem doWakeEvent_settles {e : PEntry} (he : s.power.entry = some e) (h1 : 0x11 ≤ code) (h2 : code ≤ 0x17) :
    doWakeEvent code idx s = settleEntry (setPower (fun p => { p with wakes := p.wakes ++ [(code, idx)] }) s) := by
  rw [doWakeEvent, he, wakeCode_of_bounds h1 h2, raiseWake_entering he]
  exact if_neg Bool.false_ne_true

theorem doPowerExitWake_leaves (hp : 2 ≤ pwrState s) (h1 : 0x11 ≤ code) (h2 : code ≤ 0x17) :
    doPowerExitWake code s = leaveLow s :=
  if_pos ⟨hp, wakeCode_of_bounds h1 h2⟩

theorem doWakePattern_wakes {p : Nat} (hl : rdb SYR_PORT_LPI p s = true) :
    doWakePattern p s = raiseWake 0x11 p (clrB SYR_PORT_LPI p s) :=
  if_neg (by simp [hl])

theorem doWakePattern_fullTraffic {p : Nat} (hl : rdb SYR_PORT_LPI p s = false) : doWakePattern p s = s :=
  if_pos (by simp [hl])

end

/-! ## H1_IDLE_EXPIRE (R461) -/

theorem doH1IdleExpire_enters {s : State} (ha : rdb PWR_CTL_H1_AUTO 0 s = true) (hp : pwrState s = 0)
    (he : s.power.entry = none) (hd : dispatching s = true)
    (hi : s.power.workAt + us16 (max 1 (rd PWR_CTL_H1_IDLE_US 0 s)) ≤ now16 s) (hr : refuser .auto 1 s = none) :
    doH1IdleExpire s = commitEntry .auto 1 s :=
  if_neg (by simp [ha, hp, he, hd, due_of_le hi, hr])

/-! ## ENTER, EXIT and POWER_AT_REACHED (R453) -/

section
variable {g k : Nat} {d : Desc} {s : State}

/-- A POWER descriptor that is found carries the SUBOP it was looked up by. -/
theorem powerDesc_subop {sub : Nat} (hd : powerDesc g k sub s = some d) : wrap 8 (d.word 2) = sub :=
  eq_of_beq (Bool.and_eq_true_iff.1 (Option.filter_eq_some_iff.1 hd).2).1

theorem beginPower_enter (hd : powerDesc g k 0x01 s = some d) :
    beginPower g k d s = beginEntry (.desc g k) (slice (d.word 2) 8 2) s :=
  if_pos (powerDesc_subop hd)

section
variable (hd : powerDesc g k 0x01 s = some d) (he : s.power.entry = none)
include hd he

theorem doEnter_eq_powerAt : doEnter g k s = powerAt g k d (bit (d.word 2) 10) s := by
  simp only [doEnter, hd, he, Option.any_none, Bool.false_eq_true, if_false]

theorem doEnter_begins (ha : bit (d.word 2) 10 = false) :
    doEnter g k s = beginEntry (.desc g k) (slice (d.word 2) 8 2) s := by
  rw [doEnter_eq_powerAt hd he, ha]
  exact beginPower_enter hd

theorem doEnter_waits (ha : bit (d.word 2) 10 = true) (hp : pos s < wrap 64 (d.word 3)) :
    doEnter g k s = setPower (fun p => { p with waits := p.waits ++ [(g, k)] }) s :=
  (doEnter_eq_powerAt hd he).trans (if_pos (by simp [ha, hp]))

theorem doEnter_refused {c i : Nat} {s1 : State} (ha : bit (d.word 2) 10 = false)
    (hr : refuser (.desc g k) (slice (d.word 2) 8 2) s = some (c, i, s1)) :
    doEnter g k s = endRequest (.desc g k) (slice (d.word 2) 8 2) 2 c i s1 := by
  rw [doEnter_begins hd he ha]
  simp only [beginEntry, hr]

end

theorem doExit_completes (hd : powerDesc g k 0x02 s = some d) :
    doExit g k s = completeDesc g k .ok 0 0 0 (clrB PWR_CTL_H1_AUTO 0 (startWork s)) := by
  simp only [doExit, hd]

theorem doPowerAtReached_begins (hd : runningDesc g k 0x34 s = some d) (hw : s.power.waits.contains (g, k) = true)
    (hp : wrap 64 (d.word 3) ≤ pos s) :
    doPowerAtReached g k s = beginPower g k d (setPower (fun p => { p with waits := p.waits.erase (g, k) }) s) := by
  simp only [doPowerAtReached, hd, hw, Nat.not_lt.2 hp, Bool.not_true, decide_false, Bool.or_self, Bool.false_eq_true, if_false]

end

/-! ## The statement -/

/-- Settles O48: a wake event by the entry or the state it meets, an idle hub by its checks, and a POWER descriptor by the
position it waits for and what refuses it. -/
theorem powerEntryAndExit : Obligations.PowerEntryAndExit := by
  unfold Obligations.PowerEntryAndExit
  intro s g k hs
  refine ⟨?_, ?_, ?_, ?_, ?_, ?_, ?_, ?_, ?_, ?_⟩
  · exact fun e code idx he h1 h2 => next_clocked hs (doWakeEvent_settles he h1 h2)
  · exact fun code hp h1 h2 => next_clocked hs (doPowerExitWake_leaves hp h1 h2)
  · exact fun p hl => next_clocked hs (doWakePattern_wakes hl)
  · exact fun p hl => next_clocked hs (doWakePattern_fullTraffic hl)
  · exact fun ha hp he hd hi hr => next_clocked hs (doH1IdleExpire_enters ha hp he hd hi hr)
  · exact fun d hd he ha => next_clocked hs (doEnter_begins hd he ha)
  · exact fun d hd he ha hp => next_clocked hs (doEnter_waits hd he ha hp)
  · exact fun d c i s1 hd he ha hr => next_clocked hs (doEnter_refused hd he ha hr)
  · exact fun d hd => next_clocked hs (doExit_completes hd)
  · exact fun d hd hw hp => next_clocked hs (doPowerAtReached_begins hd hw hp)

end Sys2Proof.Machine

namespace Sys2Proof.Machine

open Sys2Proof

/-! # Steps, stores and reset (R4, R14, R408, R424, R472, R497; spec/00_scope.md, spec/07_memory_and_system_cache.md) -/

/-! ## What a command answers -/

/-- Every command but COLD_RESET is an operation that acts only while the clocks run (R472). -/
theorem exec_clocked {c : Instr} (hc : ∀ f, c ≠ .coldReset f) : ∃ f : State → State, ∀ s, exec c s = .next (clocked f s) := by
  cases c with
  | coldReset flash => exact absurd rfl (hc flash)
  | _ => exact ⟨_, fun _ => rfl⟩

theorem exec_coldReset (flash : Option Flash) (s : State) : exec (.coldReset flash) s = .next (doColdReset flash s) := rfl

theorem clocked_of_stopped {s : State} (f : State → State) (h : s.power.stopped = true) : clocked f s = s := by
  simp [clocked, h]

/-- A command is a COLD_RESET or is none. -/
theorem coldReset_or_not (c : Instr) : (∃ f, c = .coldReset f) ∨ ∀ f, c ≠ .coldReset f := by
  by_cases h : ∃ f, c = .coldReset f
  · exact .inl h
  · exact .inr fun f e => h ⟨f, e⟩

/-- A step runs COLD_RESET, or keeps what every other command keeps. -/
theorem step_coldReset_or_keeps {s t : State} (he : step s = .next t) :
    (∃ f, t = doColdReset f { s with pending := s.pending.tail }) ∨ Keeps { s with pending := s.pending.tail } t := by
  cases hp : s.pending with
  | nil => exact .inr (hp ▸ step_keeps he (by simp [hp]))
  | cons c rest =>
    obtain ⟨f, rfl⟩ | hc := coldReset_or_not c
    · have hx : exec (.coldReset f) { s with pending := rest } = .next t := by simpa [step, hp] using he
      rw [exec_coldReset] at hx
      exact .inl ⟨f, by cases hx; rfl⟩
    · exact .inr (hp ▸ step_keeps he fun f => by simpa [hp] using hc f)

/-- Settles O1: both are the equations of `step`. -/
theorem stepRunsFrontCommand : Obligations.StepRunsFrontCommand := by
  unfold Obligations.StepRunsFrontCommand
  exact fun s c rest => ⟨rfl, rfl⟩

/-- Settles O2: COLD_RESET keeps the queue, and so does what every other command keeps. -/
theorem everyCommandAnswersNext : Obligations.EveryCommandAnswersNext := by
  unfold Obligations.EveryCommandAnswersNext
  intro c s
  obtain ⟨f, rfl⟩ | hc := coldReset_or_not c
  · obtain ⟨-, hpending, -⟩ := doColdReset_keeps f s
    exact ⟨_, exec_coldReset f s, hpending⟩
  · obtain ⟨f, hf⟩ := exec_clocked hc
    exact ⟨_, hf s, (exec_keeps hc (hf s)).pending⟩

/-- Settles O4: the life-cycle state in force and the mark are two parts of what a step keeps. -/
theorem stepKeepsLifeCycleState : Obligations.StepKeepsLifeCycleState := by
  unfold Obligations.StepKeepsLifeCycleState
  intro s t he hc
  have h := step_keeps he hc
  exact ⟨h.lc, h.compat⟩

/-- Settles O5: COLD_RESET answers canonical stores, every other step keeps them so. -/
theorem stepKeepsStores : Obligations.StepKeepsStores := by
  unfold Obligations.StepKeepsStores
  intro s t hregs hmem he
  obtain ⟨f, rfl⟩ | h := step_coldReset_or_keeps he
  · obtain ⟨-, -, -, -, hr, hm⟩ := doColdReset_keeps f { s with pending := s.pending.tail }
    exact ⟨hr, hm⟩
  · exact ⟨h.regs hregs, h.mem hmem⟩

/-- Settles O6: COLD_RESET and every other step keep the fuses, the rest of the queue, the outputs and the free values. -/
theorem stepKeepsOutputsAndFuses : Obligations.StepKeepsOutputsAndFuses := by
  unfold Obligations.StepKeepsOutputsAndFuses
  intro s t he
  obtain ⟨f, rfl⟩ | h := step_coldReset_or_keeps he
  · obtain ⟨hfuses, hpending, hfree, hout, -⟩ := doColdReset_keeps f { s with pending := s.pending.tail }
    exact ⟨hfuses, hpending, hout, hfree⟩
  · exact ⟨h.fuses, h.pending, h.out, h.free⟩

/-- Settles O8: a clocked operation leaves a stopped state, and the tick is one. -/
theorem stoppedHubRunsOnlyColdReset : Obligations.StoppedHubRunsOnlyColdReset := by
  unfold Obligations.StoppedHubRunsOnlyColdReset
  refine fun c s hs => ⟨fun hc => ?_, clocked_of_stopped _ hs⟩
  obtain ⟨f, hf⟩ := exec_clocked hc
  rw [hf, clocked_of_stopped f hs]

/-! ## The state after reset -/

/-- After reset no field is stored, so each reads its reset value. -/
theorem rd_reset (f : Fld) (i : Nat) : rd f i State.reset = rstVal f i State.reset := rfl

/-- A field whose reset value is a number reads it after reset, at every index. -/
theorem rd_reset_const {f : Fld} {n : Nat} (h : f.rv = .const n) (i : Nat) : rd f i State.reset = n := by
  rw [rd_reset, rstVal, h]

/-- Settles O7: nothing is stored, so every field reads its reset value and every byte what an unlisted one does. -/
theorem resetState : Obligations.ResetState := by
  unfold Obligations.ResetState
  refine ⟨rfl, rfl, rfl, ⟨rfl, fun _ h => absurd h List.not_mem_nil⟩, fun _ => rfl, rfl, rfl, ?_⟩
  exact ⟨rd_reset_const rfl 0, rd_reset_const rfl 0, rd_reset_const rfl 0, rd_reset_const rfl 0, rd_reset_const rfl 0,
    rd_reset_const rfl, rd_reset_const rfl, rd_reset_const rfl, rd_reset_const rfl 0, rd_reset_const rfl, rd_reset_const rfl 0,
    rd_reset_const rfl 0, rd_reset_const rfl 0, rd_reset_const rfl 0, rd_reset_const rfl 0, rd_reset_const rfl,
    rd_reset_const rfl, rd_reset_const rfl 0⟩

/-! ## Memory reads what was written -/

theorem lookD_putD_same {α : Type} [DecidableEq α] (d : α) (k : Nat) (v : α) (m : SMap α) :
    (look (putD d k v m) k).getD d = v := by
  unfold putD
  split
  case isTrue h => simp [h]
  case isFalse => simp

theorem look_putD_other {α : Type} [DecidableEq α] {k j : Nat} (h : j ≠ k) (d v : α) (m : SMap α) :
    look (putD d k v m) j = look m j := by
  unfold putD
  split
  · exact look_del_other h m
  · exact look_put_other h v m

/-- The listed bytes `b` of memory `m` once those of `l` are stored from `off` on. -/
def pokeList (m : Mem) (off : Nat) (l : List (Byte × Nat)) (b : SMap Byte) : SMap Byte :=
  l.foldl (fun b p => putD (unlistedByte m (off + p.2)) (off + p.2) p.1 b) b

theorem storedByte_pokeBytes (off a : Nat) (l : List Byte) (s : State) :
    storedByte a (pokeBytes off l s) = (look (pokeList s.mem off l.zipIdx s.mem.bytes) a).getD (unlistedByte s.mem a) := rfl

/-- Storing touches no address outside. -/
theorem look_pokeList_outside {m : Mem} {off a n : Nat} {l : List Byte} {b : SMap Byte} (h : a < off + n ∨ off + n + l.length ≤ a) :
    look (pokeList m off (l.zipIdx n) b) a = look b a := by
  induction l generalizing n b with
  | nil => rfl
  | cons x t ih =>
    simp only [List.length_cons] at h
    have ht := ih (n := n + 1) (b := putD (unlistedByte m (off + n)) (off + n) x b) (by omega)
    exact ht.trans (look_putD_other (by omega) _ _ _)

/-- Storing leaves at each address inside the byte that stands there in the list. -/
theorem look_pokeList_inside {m : Mem} {off a n : Nat} {l : List Byte} {b : SMap Byte} (h : off + n ≤ a) (h' : a < off + n + l.length) :
    (look (pokeList m off (l.zipIdx n) b) a).getD (unlistedByte m a) = nth 0 l (a - (off + n)) := by
  induction l generalizing n b with
  | nil => simp at h'; omega
  | cons x t ih =>
    simp only [List.length_cons] at h'
    by_cases ha : a = off + n
    · subst ha
      have ht := look_pokeList_outside (m := m) (off := off) (a := off + n) (n := n + 1) (l := t)
        (b := putD (unlistedByte m (off + n)) (off + n) x b) (.inl (by omega))
      rw [show pokeList m off ((x :: t).zipIdx n) b =
        pokeList m off (t.zipIdx (n + 1)) (putD (unlistedByte m (off + n)) (off + n) x b) from rfl, ht, lookD_putD_same]
      simp [nth]
    · have ht := ih (n := n + 1) (b := putD (unlistedByte m (off + n)) (off + n) x b) (by omega) (by omega)
      refine ht.trans ?_
      rw [show a - (off + n) = a - (off + (n + 1)) + 1 by omega]
      rfl

/-- Settles O36: a byte is the last one stored at its address, and the canonical form is one that storing keeps. -/
theorem memoryReadAfterWrite : Obligations.MemoryReadAfterWrite := by
  unfold Obligations.MemoryReadAfterWrite
  intro off l a s
  refine ⟨fun h => ?_, fun h h' => ?_, (pokeBytes_keeps off l (Keeps.refl s)).mem, rfl⟩
  · rw [storedByte_pokeBytes, look_pokeList_outside (n := 0) h]
    rfl
  · exact (storedByte_pokeBytes off a l s).trans (look_pokeList_inside (n := 0) h h')

/-! ## COLD_RESET (R424, R497) -/

/-- Sending a list of outputs only adds them. -/
theorem forEach_emit {α : Type} (l : List α) (o : α → Out) (s : State) :
    forEach l (fun j s => emit (o j) s) s = { s with out := s.out ++ l.map o } := by
  induction l generalizing s with
  | nil => simp [forEach]
  | cons x t ih =>
    have h := ih (emit (o x) s)
    rw [forEach] at h ⊢
    rw [List.foldl_cons, h]
    simp [emit]

/-- The pins of a cold reset add their levels to the outputs. -/
theorem coldPins_eq (s : State) : coldPins s = { s with
    out := s.out ++ (List.range (chipSites s)).map (fun j => { kind := .pin, dest := j, args := [1, 0] }) ++
      [{ kind := .pin, dest := 0, args := [2, 1] }, { kind := .pin, dest := 1, args := [2, 1] }, { kind := .pin, dest := 2, args := [2, 1] }] } :=
  (congrArg _ (forEach_emit (List.range (chipSites s)) (fun j => { kind := .pin, dest := j, args := [1, 0] }) s)).trans
    (forEach_emit [0, 1, 2] (fun a => { kind := .pin, dest := a, args := [2, 1] }) _)

/-- Noting the groups writes registers only. -/
theorem noteGroups_eq (s : State) : ∃ r, noteGroups s = { s with regs := r } := by
  unfold noteGroups
  extract_lets g s1
  split
  · exact ⟨_, rfl⟩
  · exact ⟨_, rfl⟩

theorem rd_ready_noteGroups (s : State) : rd HUB_GLOBAL_READY 0 (noteGroups s) = rd HUB_GLOBAL_READY 0 s := by
  have h (f : Fld) (hf : HUB_GLOBAL_READY.code ≠ f.code) (v : Nat) (s : State) :
      rd HUB_GLOBAL_READY 0 (wr f 0 v s) = rd HUB_GLOBAL_READY 0 s := rd_wr_other hf (by decide) (by decide) v s
  unfold noteGroups
  extract_lets g s1
  have h1 : rd HUB_GLOBAL_READY 0 s1 = rd HUB_GLOBAL_READY 0 s := h _ (by decide) g s
  split
  · exact (h _ (by decide) _ s1).trans h1
  · exact h1

/-- The life cycle as fuse decode leaves it (R408, R412, R422). -/
def decodedLife (l : Life) : Life :=
  { l with state := decodeLife l, compat := groupRead l.lcc == 1, lcbRead := l.lcb, stuck := false }

/-- COLD_RESET decodes the fuses of the state it starts from once the pins are driven. -/
theorem doColdReset_eq (flash : Option Flash) (s : State) :
    doColdReset flash s = noteGroups (setLife decodedLife (coldPins (coldStart flash s))) := rfl

/-- Settles O60: all is new but what fuse decode starts from, and the decode writes only the life-cycle state and LC_STATUS. -/
theorem coldReset : Obligations.ColdReset := by
  unfold Obligations.ColdReset
  intro s fl
  refine ⟨_, exec_coldReset fl s, ?_⟩
  have hready := rd_ready_noteGroups (setLife decodedLife (coldPins (coldStart fl s)))
  obtain ⟨r, hr⟩ := noteGroups_eq (setLife decodedLife (coldPins (coldStart fl s)))
  rw [doColdReset_eq]
  rw [coldPins_eq] at hready hr ⊢
  rw [hr] at hready ⊢
  exact ⟨rfl, rfl, rfl, rfl, rfl, rfl, rfl, rfl, rfl, rfl, rfl, rfl, rfl, rfl, rfl, rfl, rfl, rfl, rfl, rfl, rfl, rfl, rfl, rfl,
    hready⟩

end Sys2Proof.Machine

namespace Sys2Proof.Machine

open Sys2Proof

/-! # Commands of the mailbox and of the board management controller (R390, R391, R408, R419) -/

/-! ## Which commands are turned away -/

/-- The RTP turns a command away: in the FIPS error state all but ZEROIZE, and in a life-cycle state that does not accept it. -/
def turnedAway (op : Nat) (accepted : List Nat) (s : State) : Bool :=
  (rdb SEC_STATUS_FIPS_ERROR 0 s && op != 0x08) || !accepted.contains (lifeState s)

theorem turnedAway_of_fipsError {op : Nat} {s : State} (hf : rdb SEC_STATUS_FIPS_ERROR 0 s = true) (ho : op ≠ 0x08)
    (accepted : List Nat) : turnedAway op accepted s = true := by
  simp [turnedAway, hf, ho]

theorem turnedAway_of_state {accepted : List Nat} {s : State} (h : lifeState s ∉ accepted) (op : Nat) :
    turnedAway op accepted s = true := by
  simp [turnedAway, h]

theorem turnedAway_of_accepted {accepted : List Nat} {s : State} (hf : rdb SEC_STATUS_FIPS_ERROR 0 s = false)
    (h : lifeState s ∈ accepted) (op : Nat) : turnedAway op accepted s = false := by
  simp [turnedAway, hf, h]

section
variable {op : Nat} {accepted : List Nat} {f : State → State} {s : State} {ws : List Nat}

theorem rdb_fipsError_mbxTaken (op : Nat) (s : State) :
    rdb SEC_STATUS_FIPS_ERROR 0 (mbxTaken op s) = rdb SEC_STATUS_FIPS_ERROR 0 s := by
  simp only [rdb, mbxTaken, setB_eq_wr]
  rw [rd_wr_other (by decide) (by decide) (by decide), rd_wr_other (by decide) (by decide) (by decide)]

theorem turnedAway_mbxTaken : turnedAway op accepted (mbxTaken op s) = turnedAway op accepted s := by
  rw [turnedAway, rdb_fipsError_mbxTaken]
  rfl

/-- A mailbox that is busy ignores a command. -/
theorem beginCmd_mailbox_busy (hb : rdb MBX_STATUS_BUSY 0 s = true) : beginCmd none op accepted f s = s := if_pos hb

theorem beginCmd_mailbox (hb : rdb MBX_STATUS_BUSY 0 s = false) : beginCmd none op accepted f s =
    if turnedAway op accepted s then mbxEnd op .refused 0 (mbxTaken op s) else f (mbxTaken op s) := by
  rw [← turnedAway_mbxTaken]
  exact if_neg (Bool.eq_false_iff.1 hb)

theorem beginCmd_mailbox_open {l : List Nat} (h : mbxOpen l s) (hl : l ⊆ accepted) :
    beginCmd none op accepted f s = f (mbxTaken op s) := by
  obtain ⟨-, hb, hf, hs⟩ := h
  rw [beginCmd_mailbox hb, turnedAway_of_accepted hf (hl hs)]
  rfl

/-- The board management controller has one command at a time. -/
theorem beginCmd_bmc_busy (hb : s.sec.bmcBusy = true) : beginCmd (some ws) op accepted f s = s := if_pos hb

theorem beginCmd_bmc (hb : s.sec.bmcBusy = false) : beginCmd (some ws) op accepted f s =
    if turnedAway op accepted s then bmcEnd op .refused [0] (bmcTaken s) else f (bmcTaken s) :=
  if_neg (Bool.eq_false_iff.1 hb)

theorem beginCmd_bmc_open (hb : s.sec.bmcBusy = false) (hf : rdb SEC_STATUS_FIPS_ERROR 0 s = false) (hl : lifeState s ∈ accepted) :
    beginCmd (some ws) op accepted f s = f (bmcTaken s) := by
  rw [beginCmd_bmc hb, turnedAway_of_accepted hf hl]
  rfl

end

theorem secCmd_eq (op : Nat) (f : State → State) (s : State) : secCmd op f s = beginCmd none op [0, 1, 2, 3] f s := rfl

/-- Every mailbox command of the list begins by its opcode and the states that accept it. -/
theorem exec_mbxCommands {c : Instr} {op : Nat} {l : List Nat} {s : State} (hs : s.power.stopped = false)
    (h : (c, op, l) ∈ mbxCommands) : ∃ f, exec c s = .next (beginCmd none op l f s) := by
  simp only [mbxCommands, List.mem_cons, Prod.mk.injEq, List.not_mem_nil, or_false] at h
  obtain ⟨rfl, rfl, rfl⟩ | ⟨rfl, rfl, rfl⟩ | ⟨rfl, rfl, rfl⟩ | ⟨rfl, rfl, rfl⟩ | ⟨rfl, rfl, rfl⟩ | ⟨rfl, rfl, rfl⟩ | ⟨rfl, rfl, rfl⟩ |
    ⟨rfl, rfl, rfl⟩ | ⟨rfl, rfl, rfl⟩ | ⟨rfl, rfl, rfl⟩ | ⟨rfl, rfl, rfl⟩ | ⟨rfl, rfl, rfl⟩ | ⟨rfl, rfl, rfl⟩ | ⟨rfl, rfl, rfl⟩ |
    ⟨rfl, rfl, rfl⟩ | ⟨rfl, rfl, rfl⟩ := h
  iterate 8 exact ⟨_, next_clocked hs (secCmd_eq _ _ _)⟩
  all_goals exact ⟨_, next_clocked hs rfl⟩

/-- Settles O52: a busy mailbox ignores the command, and what turns it away ends it REFUSED. -/
theorem mailboxTurnsAway : Obligations.MailboxTurnsAway := by
  unfold Obligations.MailboxTurnsAway
  intro s c op l hs hc
  obtain ⟨f, hf⟩ := exec_mbxCommands hs hc
  refine ⟨fun hb => ?_, fun hb he ho => ?_, fun hb hl => ?_⟩
  · rw [hf, beginCmd_mailbox_busy hb]
  · rw [hf, beginCmd_mailbox hb, turnedAway_of_fipsError he ho]
    rfl
  · rw [hf, beginCmd_mailbox hb, turnedAway_of_state hl]
    rfl

/-- Every command of the board management controller begins by its opcode and the states that accept it, and none is ZEROIZE. -/
theorem exec_bmcCommands {c : Instr} {op : Nat} {l ws : List Nat} {s : State} (hs : s.power.stopped = false)
    (h : (c, op, l) ∈ bmcCommands ws s) : op ≠ 0x08 ∧ ∃ f, exec c s = .next (beginCmd (some ws) op l f s) := by
  simp only [bmcCommands, List.mem_cons, Prod.mk.injEq, List.not_mem_nil, or_false] at h
  obtain ⟨rfl, rfl, rfl⟩ | ⟨rfl, rfl, rfl⟩ | ⟨rfl, rfl, rfl⟩ | ⟨rfl, rfl, rfl⟩ | ⟨rfl, rfl, rfl⟩ | ⟨rfl, rfl, rfl⟩ := h
  iterate 5 exact ⟨by decide, _, next_clocked hs rfl⟩
  refine ⟨by decide, ?_⟩
  rw [show exec (.lcSelectCompat (some ws)) s = .next (clocked (doLcSelectCompat (some ws)) s) from rfl, clocked_of_running hs]
  unfold doLcSelectCompat
  exact ⟨_, rfl⟩

/-! # Attestation: SPDM, IDE and TDISP (R397 to R399, R405, R414) -/

section
variable {s : State} {sid n : Nat}

theorem doSpdmRequest_noCrypto (h : noCrypto s = true) (m : SpdmReq) :
    doSpdmRequest m s = emit { kind := .spdm, dest := 0, args := [0x7F, 5] } s := if_pos h

theorem doLockInterfaceRequest_noCrypto (h : noCrypto s = true) :
    doLockInterfaceRequest sid n s = emit { kind := .spdm, dest := sid, args := [0x7F, 5] } s := if_pos h

theorem doStopInterfaceRequest_noCrypto (h : noCrypto s = true) :
    doStopInterfaceRequest sid n s = emit { kind := .spdm, dest := sid, args := [0x7F, 5] } s := if_pos h

theorem doSpdmRequest_challenge {k : Nat} (h : noCrypto s = false) (hk : canSign k s = true) :
    doSpdmRequest (.challenge k) s = emit { kind := .spdm, dest := 0, args := [0x03, k] } s := by
  simp only [doSpdmRequest, h, hk]
  rfl

theorem doSpdmRequest_measurement {i : Nat} (h : noCrypto s = false) (hk : canSign 0 s = true) (h1 : 1 ≤ i) (h13 : i ≤ 13) :
    doSpdmRequest (.getMeasurements i true) s = emit { kind := .spdm, dest := 0, args := [0x60, measurement i s] } s := by
  have h0 : i ≠ 0 := by omega
  have h255 : i ≠ 0xFF := by omega
  simp only [doSpdmRequest, h, hk, h0, h255, h13]
  rfl

theorem doSpdmRequest_ideKeyProg (h : noCrypto s = false) (hs : s.sec.sessions.contains sid = true) (hn : n < 64) :
    doSpdmRequest (.ideKeyProg sid n) s = emit { kind := .spdm, dest := sid, args := [0x7E, 0x00, 0x03, n, 0] }
      (setSec (fun x => { x with ide := put n x.nextKey x.ide, nextKey := x.nextKey + 1 }) s) := by
  simp only [doSpdmRequest, h, sessionOpen, hs, Nat.not_le.2 hn]
  rfl

theorem doSpdmRequest_startInterface {v : Nat} (h : noCrypto s = false) (hs : s.sec.sessions.contains sid = true) (hn : n < 64)
    (ht : rd FUNC_CFG_TDI n s = 1) (hv : look s.sec.tdiNonce n = some v) :
    doSpdmRequest (.startInterface sid n v) s = emit { kind := .spdm, dest := sid, args := [0x7E, 0x06, n] }
      (setSec (fun x => { x with tdiNonce := del n x.tdiNonce }) (wr FUNC_CFG_TDI n 2 s)) := by
  simp only [doSpdmRequest, h, sessionOpen, hs, hn, ht, hv]
  rfl

theorem doLockInterfaceRequest_locks (h : noCrypto s = false) (hs : s.sec.sessions.contains sid = true) (hl : lockOk n s = true) :
    doLockInterfaceRequest sid n s = emit { kind := .spdm, dest := sid, args := [0x7E, 0x03, n, freeVal 64 s] }
      (drew (setSec (fun x => { x with tdiNonce := put n (freeVal 64 s) x.tdiNonce }) (wr FUNC_CFG_TDI n 1 s))) := by
  simp only [doLockInterfaceRequest, h, sessionOpen, hs, hl]
  rfl

theorem doLockInterfaceRequest_refused (h : noCrypto s = false) (hs : s.sec.sessions.contains sid = true) (hl : lockOk n s = false) :
    doLockInterfaceRequest sid n s = emit { kind := .spdm, dest := sid, args := [0x7E, 0x7F, n] } s := by
  simp only [doLockInterfaceRequest, h, sessionOpen, hs, hl]
  rfl

/-- In a session, STOP_INTERFACE_REQUEST of a VF goes by the state of its interface. -/
theorem doStopInterfaceRequest_inSession (h : noCrypto s = false) (hs : s.sec.sessions.contains sid = true) (h0 : 0 < n) (hn : n < 64) :
    doStopInterfaceRequest sid n s = if rd FUNC_CFG_TDI n s = 0 then emit { kind := .spdm, dest := sid, args := [0x7E, 0x07, n] } s
      else unlockFn n (some sid) s := by
  have hvf : ¬(n = 0 ∨ 64 ≤ n) := by omega
  rw [doStopInterfaceRequest, if_neg (by simp [h]), if_neg (by simpa [sessionOpen] using hs), if_neg hvf]
  rfl

theorem doStopInterfaceRequest_noSession (h : noCrypto s = false) (hs : s.sec.sessions.contains sid = false) :
    doStopInterfaceRequest sid n s = emit { kind := .spdm, dest := sid, args := [0x7F, 4] } s := by
  simp only [doStopInterfaceRequest, h, sessionOpen, hs]
  rfl

end

/-- Settles O55: a request is answered by the service that the RTP gives, the session it names and the state of the interface. -/
theorem attestationProtocol : Obligations.AttestationProtocol := by
  unfold Obligations.AttestationProtocol
  intro s sid n hs
  refine ⟨fun h => ⟨fun m => ?_, ?_, ?_⟩, fun h => ⟨?_, ?_, ?_, ?_, ?_, ?_, ?_, ?_, ?_⟩⟩
  · exact next_clocked hs (doSpdmRequest_noCrypto h m)
  · exact next_clocked hs (doLockInterfaceRequest_noCrypto h)
  · exact next_clocked hs (doStopInterfaceRequest_noCrypto h)
  · exact fun k hk => next_clocked hs (doSpdmRequest_challenge h hk)
  · exact fun i hk h1 h13 => next_clocked hs (doSpdmRequest_measurement h hk h1 h13)
  · exact fun ho hn => next_clocked hs (doSpdmRequest_ideKeyProg h ho hn)
  · exact fun v ho _ hn ht hv => next_clocked hs (doSpdmRequest_startInterface h ho hn ht hv)
  · exact fun ho hl => next_clocked hs (doLockInterfaceRequest_locks h ho hl)
  · exact fun ho hl => next_clocked hs (doLockInterfaceRequest_refused h ho hl)
  · exact fun ho h0 hn ht => next_clocked hs ((doStopInterfaceRequest_inSession h ho h0 hn).trans (if_pos ht))
  · exact fun ho h0 hn ht => next_clocked hs ((doStopInterfaceRequest_inSession h ho h0 hn).trans (if_neg ht))
  · exact fun ho => next_clocked hs (doStopInterfaceRequest_noSession h ho)

/-! # Life-cycle commands (R411, R413, R415, R417, R418, R420) -/

/-- The command `op` that arrives in `s` is accepted, and acts on `s1`. -/
def Begins (bmc : Option (List Nat)) (op : Nat) (accepted : List Nat) (s s1 : State) : Prop :=
  ∀ f, beginCmd bmc op accepted f s = f s1

theorem begins_mailbox {l accepted : List Nat} {s s1 : State} {op : Nat} (h : mbxOpen l s) (h1 : s1 = mbxTaken op s) (hl : l ⊆ accepted) :
    Begins none op accepted s s1 := h1 ▸ fun _ => beginCmd_mailbox_open h hl

theorem begins_bmc {accepted ws : List Nat} {s : State} (hb : s.sec.bmcBusy = false) (hf : rdb SEC_STATUS_FIPS_ERROR 0 s = false)
    (hl : lifeState s ∈ accepted) (op : Nat) : Begins (some ws) op accepted s (bmcTaken s) := fun _ => beginCmd_bmc_open hb hf hl

/-- The token with the bytes of a TOKEN_LOAD stored from `off` on. -/
def tokenStored (off : Nat) (data : List Byte) (s : State) : State :=
  setSec (fun x => { x with token := data.zipIdx.foldl (fun m p => put (off + p.2) p.1 m) x.token }) s

/-- The nonce made of the words of a challenge. -/
def challenged (ws : List Nat) (s : State) : State := setSec (fun x => { x with nonce := some (ofBytes (ws.flatMap (toBytes 4))) }) (drewN 8 s)

section
variable {bmc : Option (List Nat)} {s s1 : State}

theorem doLcTokenLoad_stores {off len : Nat} (h : Begins bmc 0x09 [0, 1, 2, 3, 5] s s1) (ho : off = slice (cmdWord bmc 0 s1) 0 14)
    (hl : len = slice (cmdWord bmc 0 s1) 14 12) (h0 : 0 < len) (h1 : len ≤ 4092) (h2 : off + len ≤ 9510) :
    doLcTokenLoad bmc s = cmdEnd bmc.isSome 0x09 .ok (tokenStored off (cmdBytes bmc 1 len s1) s1).sec.token.length
      (tokenStored off (cmdBytes bmc 1 len s1) s1) := by
  subst ho hl
  rw [doLcTokenLoad, h]
  exact if_neg (by omega)

theorem doLcTransition_programs {t : Nat} (h : Begins bmc 0x0A [0, 1, 2, 3, 5] s s1) (ht : t = tokenField 6 1 s1) (h1 : t ≠ 1) (h3 : t ≠ 3) :
    doLcTransition bmc s = if tokenStatus 0 s1 = .ok then
        program { bits := transitionBits t s1, due := now16 s1 + us16 50, target := some t, bmc := bmc.isSome } (dropToken s1)
      else tokenFailed bmc.isSome 0x0A (tokenStatus 0 s1) s1 := by
  subst ht
  rw [doLcTransition, h]
  by_cases hs : tokenStatus 0 s1 = .ok
  · simp only [hs, h1, h3, ne_eq, not_true_eq_false, false_and, if_false, if_true]
  · simp only [hs, ne_eq, not_false_eq_true, if_true, if_false]

theorem doLcChallenge_mailbox {ws : List Nat} (h : Begins none 0x0B [1, 2] s s1)
    (hw : ws = (List.range 8).map (fun i => wrap 32 (Config.freeValue (s1.freeCtr + i)).toNat)) :
    doLcChallenge none s = mbxEnd 0x0B .ok 0 (forEach ws.zipIdx (fun p s => wr MBX_DATA_DATA p.2 p.1 s) (challenged ws s1)) := by
  rw [doLcChallenge, h, ← hw]
  rfl

theorem doLcChallenge_bmc {ms ws : List Nat} (h : Begins (some ms) 0x0B [1, 2] s s1)
    (hw : ws = (List.range 8).map (fun i => wrap 32 (Config.freeValue (s1.freeCtr + i)).toNat)) :
    doLcChallenge (some ms) s = bmcEnd 0x0B .ok (0 :: ws) (challenged ws s1) := by
  rw [doLcChallenge, h, ← hw]
  rfl

theorem doDebugGrant_level1 (h : Begins bmc 0x0C [1, 2] s s1)
    (hc : (rdb SEC_STATUS_CONFIDENTIAL 0 s1 || rdb SEC_STATUS_CONF_PENDING 0 s1) = false) (hl : tokenField 6 1 s1 = 1) :
    doDebugGrant bmc s = if tokenStatus 1 s1 = .ok then endWait (.grant bmc.isSome 1) (dropToken s1)
      else tokenFailed bmc.isSome 0x0C (tokenStatus 1 s1) s1 := by
  rw [doDebugGrant, h]
  by_cases hs : tokenStatus 1 s1 = .ok
  · simp [hs, hc, hl]
  · simp [hs, hc]

theorem doDebugRevoke_returns (h : Begins bmc 0x0D [0, 1, 2, 3] s s1) :
    doDebugRevoke bmc s = cmdEnd bmc.isSome 0x0D .ok (rd LC_DEBUG_LEVEL 0 (stateLevel s1)) (stateLevel s1) := by
  rw [doDebugRevoke, h]

end

/-- Settles O56: each command that the open mailbox takes goes by its words and by what its token's check reports. -/
theorem lifeCycleCommands : Obligations.LifeCycleCommands := by
  unfold Obligations.LifeCycleCommands
  intro s s1 hm
  have hs : s.power.stopped = false := hm.1
  refine ⟨?_, ?_, ?_, ?_, ?_⟩
  · exact fun off len h1 ho hl h0 hlen hoff =>
      ⟨_, next_clocked hs (doLcTokenLoad_stores (begins_mailbox hm h1 (by decide)) ho hl h0 hlen hoff), rfl⟩
  · rintro st t h1 rfl ht ht1 ht3
    exact next_clocked hs (doLcTransition_programs (begins_mailbox hm h1 (by decide)) ht ht1 ht3)
  · exact fun ws h1 hw => next_clocked hs (doLcChallenge_mailbox (begins_mailbox hm h1 (by decide)) hw)
  · rintro st h1 hc rfl hl
    exact next_clocked hs (doDebugGrant_level1 (begins_mailbox hm h1 (by decide)) hc hl)
  · exact fun h1 => next_clocked hs (doDebugRevoke_returns (begins_mailbox hm h1 (by decide)))

/-- Settles O57: a command while one runs, one turned away, and each that is accepted by its words and its token. -/
theorem boardControllerCommands : Obligations.BoardControllerCommands := by
  unfold Obligations.BoardControllerCommands
  intro s ws c op l hs
  refine ⟨fun hc hb => ?_, fun hc hb hf => ?_, fun hc hb hl => ?_, ?_, ?_, ?_, ?_⟩
  · obtain ⟨-, f, he⟩ := exec_bmcCommands hs hc
    rw [he, beginCmd_bmc_busy hb]
  · obtain ⟨ho, f, he⟩ := exec_bmcCommands hs hc
    rw [he, beginCmd_bmc hb, turnedAway_of_fipsError hf ho]
    rfl
  · obtain ⟨-, f, he⟩ := exec_bmcCommands hs hc
    rw [he, beginCmd_bmc hb, turnedAway_of_state hl]
    rfl
  · rintro off len t hb hf h4 h6 ho hl h0 hlen hoff rfl
    have hst : lifeState s ∈ [0, 1, 2, 3, 5] := by simp; omega
    exact next_clocked hs (doLcTokenLoad_stores (begins_bmc hb hf hst 0x09) ho hl h0 hlen hoff)
  · intro rs hb hf hl hr
    exact next_clocked hs (doLcChallenge_bmc (begins_bmc hb hf (by simpa using hl) 0x0B) hr)
  · rintro st t hb hf h4 rfl ht ht1 ht3
    have hst : lifeState s ∈ [0, 1, 2, 3, 5] := by simp; omega
    exact next_clocked hs (doLcTransition_programs (begins_bmc hb hf hst 0x0A) ht ht1 ht3)
  · intro hb hf h4
    have hst : lifeState s ∈ [0, 1, 2, 3] := by simp; omega
    exact next_clocked hs (doDebugRevoke_returns (begins_bmc hb hf hst 0x0D))

end Sys2Proof.Machine

namespace Sys2Proof.Machine

open Sys2Proof

/-! # The configuration store, images and firmware (R430, R433, R440, R441, R464) -/

/-! ## CFG_READ, CFG_WRITE, IMAGE_LOAD and RTP_RESET -/

theorem bit_of_lt {v i : Nat} (h : v < 2 ^ i) : bit v i = false := by
  simp [bit, Nat.div_eq_of_lt h]

/-- The body of the configuration store with bytes written from `off` on. -/
def bodyStored (off : Nat) (data : List Byte) (s : State) : State :=
  setBoot (fun x => { x with cfgBuf := data.zipIdx.foldl (fun m p => put (off + p.2) p.1 m) x.cfgBuf }) s

/-- The image of target `t` with bytes written from `off` on; one of another target is dropped. -/
def imageStored (t off : Nat) (data : List Byte) (s : State) : State :=
  setBoot (fun x => { x with
    imgFor := t, imgBuf := data.zipIdx.foldl (fun m p => put (off + p.2) p.1 m) (if x.imgFor = t then x.imgBuf else []) }) s

section
variable {s s1 : State} {w off len : Nat}

theorem doCfgRead_reads {b : CfgBank} {data : List Byte} (h : Begins none 0x10 [0, 1, 2, 3] s s1) (hw : w = cmdWord none 0 s1)
    (h30 : w < 2 ^ 30) (ho : off = slice w 0 18) (hl : len = slice w 18 12) (h0 : 0 < len) (h1 : len ≤ 4092) (h2 : off + len ≤ 262080)
    (hb : bankUsed s1 = some b) (hd : data = ((b.body.take b.len).drop off).take len) :
    doCfgRead s = mbxEnd 0x10 .ok data.length (forEach ((List.range ((data.length + 3) / 4)).map
       (fun i => ofBytes ((data.drop (4 * i)).take 4))).zipIdx (fun p s => wr MBX_DATA_DATA (p.2 + 1) p.1 s) s1) := by
  subst hw ho hl hd
  have hw : cmdWord none 0 s1 / 2 ^ 30 = 0 := Nat.div_eq_of_lt h30
  rw [doCfgRead, h, if_neg (by omega)]
  simp only [hb]
  rfl

theorem doCfgWrite_stores {s2 : State} (h : Begins none 0x11 [0, 1, 2, 3] s s1) (hw : w = cmdWord none 0 s1)
    (h30 : w < 2 ^ 30) (ho : off = slice w 0 18) (hl : len = slice w 18 12) (h0 : 0 < len) (h1 : len ≤ 4092) (h2 : off + len ≤ 262080)
    (hc : rdb SEC_STATUS_CONFIDENTIAL 0 s1 = false) (h3 : (pwrState s1 == 3 || s1.power.entry.any (fun e => e.target == 3)) = false)
    (hs2 : s2 = bodyStored off (cmdBytes none 1 len s1) s1) :
    doCfgWrite s = mbxEnd 0x11 .ok (wrap 16 (cfgBody s2).length) s2 := by
  subst hw ho hl hs2
  have hf : ¬(slice (cmdWord none 0 s1) 18 12 = 0 ∨ 4092 < slice (cmdWord none 0 s1) 18 12 ∨
    262080 < slice (cmdWord none 0 s1) 0 18 + slice (cmdWord none 0 s1) 18 12 ∨ 2 ^ 31 ≤ cmdWord none 0 s1) := by omega
  rw [doCfgWrite, h]
  simp only [hf, hc, h3, bit_of_lt h30]
  rfl

theorem doImageLoad_stores {t : Nat} {s2 : State} (h : Begins none 0x12 [0, 1, 2, 3] s s1) (h27 : cmdWord none 0 s1 < 2 ^ 27)
    (h14 : cmdWord none 1 s1 < 2 ^ 14) (hl : len = slice (cmdWord none 1 s1) 0 12) (h0 : 0 < len) (h1 : len ≤ 4088)
    (ht : t = slice (cmdWord none 1 s1) 12 2) (ht0 : 0 < t)
    (hs2 : s2 = imageStored t (cmdWord none 0 s1) (cmdBytes none 2 len s1) s1) :
    doImageLoad s = mbxEnd 0x12 .ok (wrap 16 s2.boot.imgBuf.length) s2 := by
  subst hl ht hs2
  have hoff : slice (cmdWord none 0 s1) 0 27 = cmdWord none 0 s1 := by
    rw [slice, Nat.pow_zero, Nat.div_one, Nat.mod_eq_of_lt h27]
  have hf : ¬(slice (cmdWord none 1 s1) 0 12 = 0 ∨ 4088 < slice (cmdWord none 1 s1) 0 12 ∨ slice (cmdWord none 1 s1) 12 2 = 0 ∨
    cmdWord none 0 s1 / 2 ^ 27 ≠ 0 ∨ cmdWord none 1 s1 / 2 ^ 15 ≠ 0) := by omega
  rw [doImageLoad, h]
  simp only [hf, hoff, bit_of_lt h14]
  rfl

theorem doRtpReset_starts (h : s.sec.rtpAt = none) : doRtpReset s = startRtpReset s := by simp [doRtpReset, h]

theorem doRtpReset_absorbed (h : s.sec.rtpAt.isSome = true) : doRtpReset s = s := by simp [doRtpReset, h]

end

/-! ## FW_STAGE, FW_BROADCAST, FW_STATUS and FW_CHUNK_TIMEOUT -/

section
variable {s s1 : State} {g k t : Nat} {d : Desc}

theorem doFwStage_stages {l : List Byte} {b : FwBank} {st : Status} (hd : serviceDesc g k 0x07 s = some d)
    (hp : rdb PWR_STATUS_STRETCH 0 s = false) (hc : claimed (d.word 3) (d.word 4) false s = true)
    (hr : homeGet (.agent 0) (d.word 3) (d.word 4) s = (.ok, l, s1)) (hb : b = { man := l.take (manBytes l), img := l.drop (manBytes l) })
    (hl : b.img.length = manLength b.man) (hst : stageStatus b s1 = st) : doFwStage g k s =
      if st = .ok then completeDesc g k .ok (manVersion b.man) 0 0 (stageImage (manField b.man 2 1) b s1)
      else completeDesc g k st 0 0 0 s1 := by
  subst hb hst
  simp only [doFwStage, hd, hp, hc, hr, ok_good, hl, bne_self_eq_false, Bool.and_false, Bool.not_true, Bool.false_eq_true, if_false,
    failDesc, ite_not]

/-- The lines of the image are claimed first. -/
theorem doFwStage_claims (hd : serviceDesc g k 0x07 s = some d) (hp : rdb PWR_STATUS_STRETCH 0 s = false)
    (hc : claimed (d.word 3) (d.word 4) false s = false) : doFwStage g k s = claim (.agent 0) (d.word 3) (d.word 4) false s := by
  simp [doFwStage, hd, hp, hc]

theorem doFwBroadcast_sends (hd : serviceDesc g k 0x08 s = some d) (ht : t = slice (d.word 2) 8 2) (h0 : t ≠ 0)
    (hr : rd FW_STAGE_STATE (t - 1) s = 2) (hg : rdb MC_GROUP_VALID (slice (d.word 2) 16 8) s = true)
    (h1 : s1 = setBoot (fun y => { y with nextTransfer := wrap 16 (s.boot.nextTransfer + 1), sent := y.sent ++ [{ target := t, transfer := s.boot.nextTransfer }] }) s) :
    doFwBroadcast g k s = completeDesc g k .ok s.boot.nextTransfer 0 0
       (forEach (List.range (manChunks (stagingBank t s).man)) (fun i s' => sendChunk (slice (d.word 2) 16 8) t s.boot.nextTransfer false i (imageChunk (stagingBank t s).img i) s')
         (forEach (List.range (manChunkCount (stagingBank t s).man)) (fun i s' => sendChunk (slice (d.word 2) 16 8) t s.boot.nextTransfer true i (imageChunk (stagingBank t s).man i) s') s1)) := by
  subst ht h1
  simp only [doFwBroadcast, hd, h0, hr, hg]
  rfl

theorem doFwStatus_counts (hd : serviceDesc g k 0x09 s = some d) (ht : t = slice (d.word 2) 8 2) (h0 : t ≠ 0) :
    doFwStatus g k s = completeDesc g k .ok
      (((s.boot.sent.find? (fun x => x.target == t && x.transfer == d.word 3)).map (fun x => x.hubs.length)).getD 0) 0 0 s := by
  subst ht
  simp only [doFwStatus, hd, h0, if_false]

theorem doFwChunkTimeout_givesUp {x : FwXfer} (hx : look s.boot.xfers t = some x) (hd : x.lastAt + us16 5000 ≤ now16 s) (h9 : 9 ≤ x.tries) :
    doFwChunkTimeout t s = dropXfer t (wr FW_STAGE_STATE (t - 1) 3 s) := by
  simp [doFwChunkTimeout, hx, due_of_le hd, h9]

theorem doFwChunkTimeout_asks {x : FwXfer} {m : List Byte} (hx : look s.boot.xfers t = some x) (hd : x.lastAt + us16 5000 ≤ now16 s)
    (h9 : x.tries < 9) (hm : gotManifest x = some m) : doFwChunkTimeout t s = forEach (missingChunks x m)
      (fun i s => askChunk x.origin t x.transfer false i s) (setXfer t { x with lastAt := now16 s, tries := x.tries + 1 } s) := by
  simp [doFwChunkTimeout, hx, due_of_le hd, Nat.not_le.2 h9, hm]

end

/-- Settles O58: a mailbox command by its words, a service descriptor by its words and what it finds, a time-out by its tries. -/
theorem configurationAndFirmware : Obligations.ConfigurationAndFirmware := by
  unfold Obligations.ConfigurationAndFirmware
  refine ⟨fun s s1 w off len hm ho hl h0 h1 h2 => ?_, fun s s1 g k t d hs => ?_⟩
  · have hs : s.power.stopped = false := hm.1
    refine ⟨?_, ?_, ?_, ?_, ?_⟩
    · exact fun b data ht hw h30 hb hd =>
        next_clocked hs (doCfgRead_reads (begins_mailbox hm ht (by decide)) hw h30 ho hl h0 h1 h2 hb hd)
    · exact fun s2 ht hw h30 hc h3 hs2 =>
        next_clocked hs (doCfgWrite_stores (begins_mailbox hm ht (by decide)) hw h30 ho hl h0 h1 h2 hc h3 hs2)
    · exact fun t n s2 ht h27 h14 hn hn0 hn1 hk hk0 hs2 =>
        next_clocked hs (doImageLoad_stores (begins_mailbox hm ht (by decide)) h27 h14 hn hn0 hn1 hk hk0 hs2)
    · exact fun h => next_clocked hs (doRtpReset_starts h)
    · exact fun h => next_clocked hs (doRtpReset_absorbed h)
  · refine ⟨?_, ?_, ?_, ?_, ?_, ?_, ?_⟩
    · exact fun l b st hd hp hc hr hb hl hst => next_clocked hs (doFwStage_stages hd hp hc hr hb hl hst)
    · exact fun hd ht h0 hr hg h1 => next_clocked hs (doFwBroadcast_sends hd ht h0 hr hg h1)
    · exact fun x hd ht h0 hx => next_clocked hs (by rw [doFwStatus_counts hd ht h0, hx]; rfl)
    · exact fun hd ht h0 hx => next_clocked hs (by rw [doFwStatus_counts hd ht h0, hx]; rfl)
    · exact fun hd hp hc => next_clocked hs (doFwStage_claims hd hp hc)
    · exact fun x hx hd h9 => next_clocked hs (doFwChunkTimeout_givesUp hx hd h9)
    · exact fun x m hx hd h9 _ hm => next_clocked hs (doFwChunkTimeout_asks hx hd h9 hm)

/-! # Resets and bring-up (R324, R394, R410, R424, R425, R433, R435) -/

section
variable {s : State}

theorem doSoftReset_ignored (h : s.boot.bring.isSome = true) : doSoftReset s = s := if_pos h

theorem doSoftReset_resets (h : s.boot.bring = none) : doSoftReset s = hubReset 2 s := by simp [doSoftReset, h]

theorem doWarmReset_asserted (hp : s.boot.perst = false) (hb : ∀ x, s.boot.bring ≠ some (0, x)) :
    doWarmReset false s = setBoot (fun x => { x with perst := true }) (hubReset 1 s) := by
  rcases hx : s.boot.bring with _ | ⟨_ | cls, since⟩
  · simp [doWarmReset, hp, hx]
  · exact absurd hx (hb since)
  · simp [doWarmReset, hp, hx]

theorem doWarmReset_held (hp : s.boot.perst = true) : doWarmReset false s = s := by simp [doWarmReset, hp]

theorem doWarmReset_released (hp : s.boot.perst = true) :
    doWarmReset true s = setBoot (fun x => { x with perst := false, bring := some (1, now16 s) }) s := by simp [doWarmReset, hp]

/-- Bring-up ends by the work that the life-cycle state allows, once PERST#, burnishes and the RTP let it. -/
theorem doBringupComplete_ends {cls since : Nat} (f : BringUp) (hb : s.boot.bring = some (cls, since)) (hp : s.boot.perst = false)
    (hz : s.sec.burns = []) (hr : s.sec.rtpAt = none) : doBringupComplete f s =
      if 4 ≤ s.life.state then setLink f.link (hostUp (coldSelftest cls f.selftest s))
      else if mayReady (bringUpWork cls since f s) then setReady (bringUpWork cls since f s) else bringUpWork cls since f s := by
  simp [doBringupComplete, hb, hp, hz, hr]

end

/-- Settles O59: a reset by what runs, PERST# by its level, and the end of bring-up by the life-cycle state. -/
theorem resetsAndBringUp : Obligations.ResetsAndBringUp := by
  unfold Obligations.ResetsAndBringUp
  intro s hs
  refine ⟨?_, ?_, ?_, ?_, ?_, ?_, ?_⟩
  · exact fun h => next_clocked hs (doSoftReset_ignored h)
  · exact fun h => next_clocked hs (doSoftReset_resets h)
  · exact fun hp hb => next_clocked hs (doWarmReset_asserted hp hb)
  · exact fun hp => next_clocked hs (doWarmReset_held hp)
  · exact fun hp => next_clocked hs (doWarmReset_released hp)
  · exact fun f cls since hb hp hz hr hl =>
      next_clocked hs ((doBringupComplete_ends f hb hp hz hr).trans (if_neg (Nat.not_le.2 hl)))
  · exact fun f cls since hb hp hz hr hl => next_clocked hs ((doBringupComplete_ends f hb hp hz hr).trans (if_pos hl))

end Sys2Proof.Machine

namespace Sys2Proof.Machine

open Sys2Proof

/-! # Enabling, disabling and stopping a ring (R359 to R361) -/

/-! ## The set-up of an enabled ring -/

/-- Ring `g` as it runs from its NEXT index. -/
def ringEnabled (g : Nat) (s : State) : State :=
  s |> setB RING_CTL_ENABLE g |> wr RING_STATUS_STATE g 1 |> wr RING_STATUS_CAUSE g 0 |> wr RING_STATUS_FAIL_STATUS g 0
    |> setRt g (fun _ => { producer := rd RING_IDX_NEXT g s, consumed := rd RING_IDX_NEXT g s })

section
variable {s : State} {g : Nat}

/-- Enabling writes ENABLE and the fields of RING_STATUS but WATCHED. -/
theorem rd_ringEnabled {f : Fld} {i : Nat} (hi : i < 65536) (hg : g < 8192) (hf : f.code ∉ [328, 329, 330, 331]) :
    rd f i (ringEnabled g s) = rd f i s := by
  simp only [List.mem_cons, List.not_mem_nil, or_false, not_or] at hf
  obtain ⟨he, hs, hc, hx⟩ := hf
  have hg : g < 65536 := by omega
  simp only [ringEnabled, (rd_setRt _ _ _ _ _).1]
  rw [rd_wr_other (g := RING_STATUS_FAIL_STATUS) hx hi hg, rd_wr_other (g := RING_STATUS_CAUSE) hc hi hg,
    rd_wr_other (g := RING_STATUS_STATE) hs hi hg, setB_eq_wr, rd_wr_other (g := RING_CTL_ENABLE) he hi hg]

theorem rdb_ringEnabled {f : Fld} {i : Nat} (hi : i < 65536) (hg : g < 8192) (hf : f.code ∉ [328, 329, 330, 331]) :
    rdb f i (ringEnabled g s) = rdb f i s := by
  rw [rdb, rd_ringEnabled hi hg hf, rdb]

/-- The ENABLE bits but that of `g` are as before. -/
theorem rdb_enable_ringEnabled {i : Nat} (hi : i < 65536) (hg : g < 8192) (h : i ≠ g) :
    rdb RING_CTL_ENABLE i (ringEnabled g s) = rdb RING_CTL_ENABLE i s := by
  have hg : g < 65536 := by omega
  simp only [rdb, ringEnabled, (rd_setRt _ _ _ _ _).1]
  rw [rd_wr_other (by decide) hi hg, rd_wr_other (by decide) hi hg, rd_wr_other (by decide) hi hg, setB_eq_wr, rd_wr_index h]

theorem ringCq_ringEnabled (hg : g < 8192) : ringCq g (ringEnabled g s) = ringCq g s := by
  rw [ringCq, rd_ringEnabled (by omega) hg (by decide), ringCq]

theorem doRingEnable_starts (h0 : rd RING_STATUS_STATE g s = 0) (hg : g < 8192) : doRingEnable g s =
    if ringConfigBad g (ringEnabled g s) then stopRing g 6 .ok (ringEnabled g s)
    else if rdb RING_CFG_KIND g (ringEnabled g s) || !rdb RING_CFG_MODE g (ringEnabled g s) then ringEnabled g s
    else if watchUnavailable g (ringEnabled g s) then stopRing g 5 .ok (ringEnabled g s)
    else watchRead g (setB RING_STATUS_WATCHED g (ringEnabled g s)) :=
  if_neg (by simp only [ringCount]; omega)

/-- The set-up of a submission ring is good where its size, its completion ring and its vector are. -/
theorem ringConfigBad_ringEnabled (hg : g < 8192) (hk : rdb RING_CFG_KIND g s = false) (hc : rd RING_CFG_CQ g s < 128)
    (h4 : 4 ≤ rd RING_CFG_SIZE_LOG2 g s) (h16 : rd RING_CFG_SIZE_LOG2 g s ≤ 16) (hck : rdb RING_CFG_KIND (ringCq g s) s = true)
    (hce : rdb RING_CTL_ENABLE (ringCq g s) s = true) (hv : rd RING_MOD_VECTOR g s < vectorCount (ringFn g)) :
    ringConfigBad g (ringEnabled g s) = false := by
  have hi : g < 65536 := by omega
  have hq : ringCq g s < 65536 := by simp only [ringCq, ringFn]; omega
  have hne : ringCq g s ≠ g := fun h => by rw [h, hk] at hck; exact Bool.noConfusion hck
  rw [ringConfigBad, ringCq_ringEnabled hg, rd_ringEnabled hi hg (by decide), rd_ringEnabled hi hg (by decide),
    rdb_ringEnabled hi hg (by decide), rdb_ringEnabled hq hg (by decide), rdb_enable_ringEnabled hq hg hne, hk, hck, hce]
  simp only [Nat.not_lt.2 h4, Nat.not_lt.2 h16, Nat.not_le.2 hv]
  rfl

theorem doRingEnable_runs (h0 : rd RING_STATUS_STATE g s = 0) (hg : g < 8192)
    (hb : ringConfigBad g (ringEnabled g s) = false)
    (hm : rdb RING_CFG_KIND g (ringEnabled g s) = true ∨ rdb RING_CFG_MODE g (ringEnabled g s) = false) :
    doRingEnable g s = ringEnabled g s := by
  rw [doRingEnable_starts h0 hg, hb, if_neg Bool.false_ne_true, if_pos]
  obtain hm | hm := hm <;> simp [hm]

theorem doRingEnable_bad (h0 : rd RING_STATUS_STATE g s = 0) (hg : g < 8192)
    (hb : ringConfigBad g (ringEnabled g s) = true) : doRingEnable g s = stopRing g 6 .ok (ringEnabled g s) := by
  rw [doRingEnable_starts h0 hg, if_pos hb]

theorem doRingEnable_watched (h0 : rd RING_STATUS_STATE g s = 0) (hg : g < 8192)
    (hb : ringConfigBad g (ringEnabled g s) = false) (hk : rdb RING_CFG_KIND g (ringEnabled g s) = false)
    (hm : rdb RING_CFG_MODE g (ringEnabled g s) = true) : doRingEnable g s =
      if watchUnavailable g (ringEnabled g s) then stopRing g 5 .ok (ringEnabled g s)
      else watchRead g (setB RING_STATUS_WATCHED g (ringEnabled g s)) := by
  rw [doRingEnable_starts h0 hg, hb, hk, hm]
  rfl

/-! ## Stopping -/

theorem releaseWatch_unwatched (h : rdb RING_STATUS_WATCHED g s = false) : releaseWatch g s = s := by
  simp [releaseWatch, h]

/-- A running submission ring that has no watched line stops with its cause. -/
theorem stopRing_submission {cause : Nat} {st : Status} (hg : g < 8192) (hk : rdb RING_CFG_KIND g s = false)
    (hr : rd RING_STATUS_STATE g s = 1) (hw : rdb RING_STATUS_WATCHED g s = false) : stopRing g cause st s =
      (s |> wr RING_STATUS_STATE g 2 |> wr RING_STATUS_CAUSE g cause |> wr RING_STATUS_FAIL_STATUS g st.code) := by
  have hi : g < 65536 := by omega
  have hs : stopOne g cause st s = (s |> wr RING_STATUS_STATE g 2 |> wr RING_STATUS_CAUSE g cause |> wr RING_STATUS_FAIL_STATUS g st.code) := by
    rw [stopOne, if_pos (.inl hr), releaseWatch_unwatched]
    rw [rdb, rd_wr_other (by decide) hi hi, rd_wr_other (by decide) hi hi, rd_wr_other (by decide) hi hi]
    exact hw
  have hk' : rdb RING_CFG_KIND g (stopOne g cause st s) = false := by
    rw [hs, rdb, rd_wr_other (by decide) hi hi, rd_wr_other (by decide) hi hi, rd_wr_other (by decide) hi hi]
    exact hk
  rw [stopRing]
  simp only [hk', Bool.false_eq_true, if_false]
  exact hs

/-- A submission ring that is too large stops with CAUSE 6 as it is enabled. -/
theorem doRingEnable_tooLarge (hg : g < 8192) (h0 : rd RING_STATUS_STATE g s = 0) (hz : 16 < rd RING_CFG_SIZE_LOG2 g s)
    (hk : rdb RING_CFG_KIND g s = false) (hw : rdb RING_STATUS_WATCHED g s = false) :
    rd RING_CTL_ENABLE g (doRingEnable g s) = 1 ∧ rd RING_STATUS_STATE g (doRingEnable g s) = 2 ∧
      rd RING_STATUS_CAUSE g (doRingEnable g s) = 6 := by
  have hi : g < 65536 := by omega
  have hb : ringConfigBad g (ringEnabled g s) = true := by
    simp [ringConfigBad, rd_ringEnabled (s := s) hi hg (f := RING_CFG_SIZE_LOG2) (by decide), hz]
  have hstate : rd RING_STATUS_STATE g (ringEnabled g s) = 1 := by
    simp only [ringEnabled, (rd_setRt _ _ _ _ _).1]
    rw [rd_wr_other (by decide) hi hi, rd_wr_other (by decide) hi hi, rd_wr_same]
    rfl
  have henable : rd RING_CTL_ENABLE g (ringEnabled g s) = 1 := by
    simp only [ringEnabled, (rd_setRt _ _ _ _ _).1]
    rw [rd_wr_other (by decide) hi hi, rd_wr_other (by decide) hi hi, rd_wr_other (by decide) hi hi, setB_eq_wr, rd_wr_same]
    rfl
  rw [doRingEnable_bad h0 hg hb,
    stopRing_submission hg ((rdb_ringEnabled hi hg (by decide)).trans hk) hstate ((rdb_ringEnabled hi hg (by decide)).trans hw)]
  refine ⟨?_, ?_, ?_⟩
  · rw [rd_wr_other (by decide) hi hi, rd_wr_other (by decide) hi hi, rd_wr_other (by decide) hi hi, henable]
  · rw [rd_wr_other (by decide) hi hi, rd_wr_other (by decide) hi hi, rd_wr_same]
    rfl
  · rw [rd_wr_other (by decide) hi hi, rd_wr_same]
    rfl

/-! ## Disabling -/

theorem doRingDisable_named (hk : rdb RING_CFG_KIND g s = true) (hn : ringNamed g s = true) : doRingDisable g s = s := by
  simp [doRingDisable, hk, hn]

/-- A ring that may be disabled is stopped where it runs or has failed. -/
theorem doRingDisable_clears (h : rdb RING_CFG_KIND g s = false ∨ ringNamed g s = false) : doRingDisable g s =
    if rd RING_STATUS_STATE g (clrB RING_CTL_ENABLE g s) = 1 ∨ rd RING_STATUS_STATE g (clrB RING_CTL_ENABLE g s) = 3 then
      releaseWatch g (wr RING_STATUS_CAUSE g 0 (wr RING_STATUS_STATE g 2 (clrB RING_CTL_ENABLE g s)))
    else clrB RING_CTL_ENABLE g s := by
  rw [doRingDisable, if_neg (by obtain h | h := h <;> simp [h])]
  dsimp only
  split
  next h1 => rw [if_pos (.inl h1)]
  next h3 => rw [if_pos (.inr h3)]
  next h1 h3 => rw [if_neg (by rintro (h | h); exacts [h1 h, h3 h])]

/-- Without a watched line, disabling a submission ring that runs or has failed makes it STOPPING with CAUSE 0. -/
theorem doRingDisable_submission (hg : g < 8192) (hk : rdb RING_CFG_KIND g s = false)
    (hs : rd RING_STATUS_STATE g s = 1 ∨ rd RING_STATUS_STATE g s = 3) (hw : rdb RING_STATUS_WATCHED g s = false) :
    doRingDisable g s = (s |> clrB RING_CTL_ENABLE g |> wr RING_STATUS_STATE g 2 |> wr RING_STATUS_CAUSE g 0) := by
  have hi : g < 65536 := by omega
  have hstate : rd RING_STATUS_STATE g (clrB RING_CTL_ENABLE g s) = rd RING_STATUS_STATE g s := rd_wr_other (by decide) hi hi 0 s
  rw [doRingDisable_clears (.inl hk), hstate, if_pos hs, releaseWatch_unwatched]
  rw [rdb, rd_wr_other (by decide) hi hi, rd_wr_other (by decide) hi hi, clrB, rd_wr_other (by decide) hi hi]
  exact hw

/-! ## RING_STOPPED and RING_IDX_WRITE -/

theorem doRingStopped_waits (h : rd RING_STATUS_STATE g s ≠ 2 ∨ ringDrained g s = false) : doRingStopped g s = s :=
  if_pos (by obtain h | h := h <;> simp [h])

/-- A drained ring reaches its resting state, and posts the stop where it has a cause and another ring takes the event. -/
theorem doRingStopped_stops {t : State} (h : rd RING_STATUS_STATE g s = 2) (hd : ringDrained g s = true)
    (ht : t = wr RING_STATUS_STATE g (if rdb RING_CTL_ENABLE g s then 3 else 0) s) : doRingStopped g s =
      if rd RING_STATUS_CAUSE g s = 0 ∨
        (rdb RING_FN_CTL_EVENT_EN (ringFn g) t = true ∧ 128 * ringFn g + rd RING_FN_CTL_EVENT_CQ (ringFn g) t = g) then t
      else postEvent (ringFn g) 0x000A (g % 128) (Status.ofCode (rd RING_STATUS_FAIL_STATUS g s)) (rd RING_STATUS_CAUSE g s) t := by
  subst ht
  exact if_neg (by simp [h, hd])

theorem doRingIdxWrite_running (h : rd RING_STATUS_STATE g s ≠ 0) (v w : Option Nat) : doRingIdxWrite g v w s = s := if_pos h

theorem doRingIdxWrite_disabled (h : rd RING_STATUS_STATE g s = 0) (v w : Option Nat) : doRingIdxWrite g v w s =
    w.elim id (wr RING_IDX_RELEASE g) (v.elim id (wr RING_IDX_NEXT g) s) := by
  have h' : ¬rd RING_STATUS_STATE g s ≠ 0 := not_not.2 h
  cases v <;> cases w <;> exact if_neg h'

end

/-- Settles O23: a ring is enabled by its set-up, disabled by its state, stopped once drained, and its indices are written by
its state. -/
theorem ringEnableDisable : Obligations.RingEnableDisable := by
  unfold Obligations.RingEnableDisable
  intro s g hs hg
  refine ⟨?_, ?_, ?_, ?_, ?_, ?_, ?_, ?_, ?_, ?_, ?_, ?_, ?_⟩
  · intro h0 hk hm hc h4 h16 hck hce hv
    have hm' : rdb RING_CFG_MODE g (ringEnabled g s) = false := (rdb_ringEnabled (by omega) hg (by decide)).trans hm
    exact next_clocked hs (doRingEnable_runs h0 hg (ringConfigBad_ringEnabled hg hk hc h4 h16 hck hce hv) (.inr hm'))
  · exact fun h0 hz hk hw => ⟨_, next_clocked hs rfl, doRingEnable_tooLarge hg h0 hz hk hw⟩
  · rintro s1 h0 rfl
    refine ⟨fun hb => ?_, fun hb hm => ?_, fun hb hk hm => ?_⟩
    · exact next_clocked hs (doRingEnable_bad h0 hg hb)
    · exact next_clocked hs (doRingEnable_runs h0 hg hb hm)
    · exact next_clocked hs (doRingEnable_watched h0 hg hb hk hm)
  · rintro s1 rfl h
    refine ⟨fun h1 => ?_, fun h3 => ?_, fun h1 h3 => ?_⟩
    · exact next_clocked hs ((doRingDisable_clears h).trans (if_pos (.inl h1)))
    · exact next_clocked hs ((doRingDisable_clears h).trans (if_pos (.inr h3)))
    · exact next_clocked hs ((doRingDisable_clears h).trans (if_neg (not_or.2 ⟨h1, h3⟩)))
  · intro s1 h2 hd h1
    refine ⟨fun hc => ?_, fun hc he => ?_⟩
    · exact next_clocked hs ((doRingStopped_stops h2 hd h1).trans (if_pos hc))
    · refine next_clocked hs ((doRingStopped_stops h2 hd h1).trans (if_neg ?_))
      rintro (h | ⟨hen, hcq⟩)
      · exact hc h
      · obtain he | he := he
        · rw [he] at hen
          exact Bool.noConfusion hen
        · exact he hcq
  · exact fun h => next_clocked hs (doRingStopped_waits h)
  · exact fun v h => ⟨next_clocked hs (doRingIdxWrite_disabled h _ _), next_clocked hs (doRingIdxWrite_disabled h _ _),
      next_clocked hs (doRingIdxWrite_disabled h _ _)⟩
  · exact fun hk h1 hw => next_clocked hs (doRingDisable_submission hg hk (.inl h1) hw)
  · exact fun hk h3 hw => next_clocked hs (doRingDisable_submission hg hk (.inr h3) hw)
  · exact fun hk hn => next_clocked hs (doRingDisable_named hk hn)
  · intro h2 hd he hc
    refine next_clocked hs ((doRingStopped_stops h2 hd rfl).trans ((if_pos (.inl hc)).trans ?_))
    rw [he]
    rfl
  · exact fun v w h => next_clocked hs (doRingIdxWrite_disabled h _ _)
  · exact fun v w h => next_clocked hs (doRingIdxWrite_running h v w)

end Sys2Proof.Machine

namespace Sys2Proof.Machine

open Sys2Proof

/-! # Doorbells, descriptors and head lines (R319, R339, R341 to R343, R345, R348, R356, R358, R359, R461) -/

section
variable {s : State} {g k : Nat}

/-! ## What a failed read of the host leaves -/

/-- Of the ways a read fails, a refused translation is counted, and the first one logged. -/
theorem noteAnswer_fail (st : Status) (fn p va : Nat) (s : State) : noteAnswer (.fail st) fn p va s =
    if st = .pageFault then trnLog 0 fn p (va / 4096) (bumpSat TRN_COUNT_REFUSED 0 1 s) else s := by
  cases st <;> rfl

/-! ## DOORBELL_POLL and DOORBELL_PICKUP -/

/-- The poll of ring `g` falls due now, and may be made. -/
def PollDue (g : Nat) (s : State) : Prop :=
  ringRunning g s = true ∧ rdb RING_CFG_KIND g s = false ∧ rdb RING_CFG_MODE g s = false ∧
    (∀ t, (rt g s).polledAt = some t → t + pollEvery g s ≤ now16 s) ∧ dispatching s = true ∧ busMaster (ringFn g) s = true

theorem doDoorbellPoll_due (h : PollDue g s) (a : Answer) : doDoorbellPoll g a s =
    if ringReadable g (ringDb g s) s then doorbellRead g a (setRt g (fun r => { r with polledAt := some (now16 s) }) s)
    else askRing g (ringDb g s) (.doorbell g) s := by
  obtain ⟨hr, hk, hm, ht, hd, hb⟩ := h
  unfold doDoorbellPoll
  extract_lets ready
  have hready : ready = true := by
    cases hp : (rt g s).polledAt with
    | none => simp only [ready, hp]
    | some t => simp only [ready, hp, due_of_le (ht t hp)]
  rw [hready, hr, hk, hm, hd, hb]
  cases ringReadable g (ringDb g s) s <;> rfl

theorem pickup_fetches {w0 : Nat} (he : slice w0 32 32 = rd RING_EPOCH_EPOCH g s)
    (hn : wrap 32 (wrap 32 w0 + 2 ^ 32 - rd RING_IDX_NEXT g s) ≤ ringSize g s) :
    pickup g w0 s = fetchMore g (setRt g (fun r => { r with producer := wrap 32 w0 }) s) := by
  simp only [pickup, he, ne_eq, not_true_eq_false, if_false, if_neg (Nat.not_lt.2 hn)]

theorem pickup_wrongEpoch {w0 : Nat} (he : slice w0 32 32 ≠ rd RING_EPOCH_EPOCH g s) : pickup g w0 s = stopRing g 3 .ok s :=
  if_pos he

theorem pickup_tooFar {w0 : Nat} (he : slice w0 32 32 = rd RING_EPOCH_EPOCH g s)
    (hn : ringSize g s < wrap 32 (wrap 32 w0 + 2 ^ 32 - rd RING_IDX_NEXT g s)) : pickup g w0 s = stopRing g 2 .ok s := by
  simp only [pickup, he, ne_eq, not_true_eq_false, if_false, if_pos hn]

/-! ## Descriptors -/

theorem doDescriptorFetched_fails {d : Desc} (st : Status) (hd : descOf g k s = some d) (hf : d.st = .fetching)
    (hq : (reqFor (.descFetch g k) s).isSome = true) (he : (earlier g k s).any (fun e => decide (e.st = .fetching)) = false) :
    doDescriptorFetched g k (.fail st) s = fetchFailed g k st
      (noteAnswer (.fail st) (ringFn g) (ringPasid g s) (slotVa g k s) (retireFor (.descFetch g k) s)) := by
  simp only [doDescriptorFetched, hd]
  exact if_neg (by simp [hf, he, Option.isSome_iff_ne_none.1 hq])

theorem doDescriptorFetched_ready {d : Desc} {b : List Byte} {t : State} (hd : descOf g k s = some d) (hf : d.st = .fetching)
    (hq : (reqFor (.descFetch g k) s).isSome = true) (he : (earlier g k s).any (fun e => decide (e.st = .fetching)) = false)
    (ht : t = setDesc g k (fun d => { d with words := wordsOf 8 b, st := .ready })
      (count hostUnit 0x81 (some (ringFn g)) 1 (retireFor (.descFetch g k) s)))
    (hh : headerFail g (wordsOf 8 b) t = none) : doDescriptorFetched g k (.data b) s = t := by
  subst ht
  simp only [doDescriptorFetched, hd]
  rw [if_neg (by simp [hf, he, Option.isSome_iff_ne_none.1 hq]), hh]

theorem doDescriptorStart_starts {d : Desc} (hd : descOf g k s = some d) (hc : canStart g k d s = true) :
    doDescriptorStart g k s = if needsTile (wrap 8 (d.word 0)) then startWork (startDesc g k s) else startDesc g k s := by
  simp only [doDescriptorStart, hd, hc]
  rfl

theorem doNopDesc_completes {d : Desc} (hd : runningDesc g k 0x00 s = some d) : doNopDesc g k s = completeDesc g k .ok 0 0 0 s := by
  simp only [doNopDesc, hd]

/-! ## HEAD_LINE_READ -/

/-- The head line of completion ring `g` is to be read now, and can be. -/
def HeadDue (g : Nat) (s : State) : Prop :=
  rdb RING_CFG_KIND g s = true ∧ cqWrites g s = true ∧ ringFree g s = 0 ∧
    (∀ t, (rt g s).headAt = some t → t + us16 1 ≤ now16 s) ∧ busMaster (ringFn g) s = true ∧ ringReadable g (ringDb g s) s = true

/-- Ring `g` once its head line is read. -/
def headRead (g : Nat) (s : State) : State := setRt g (fun r => { r with headAt := some (now16 s) }) s

/-- What becomes of ring `g` with the head line that was read. -/
def headTaken (g : Nat) (a : Answer) (s : State) : State :=
  match a with
  | .fail st => stopRing g 4 st (noteAnswer (.fail st) (ringFn g) (ringPasid g s) (ringDb g s) s)
  | .data b =>
    if ringSize g s < wrap 32 (rd RING_IDX_NEXT g s + 2 ^ 32 - wrap 32 (ofBytes (b.take 4))) then stopRing g 2 .ok s
    else forEach (ringUsers g s) fetchMore (setRt g (fun r => { r with consumed := wrap 32 (ofBytes (b.take 4)) }) s)

theorem doHeadLineRead_due (h : HeadDue g s) (a : Answer) : doHeadLineRead g a s = headTaken g a (headRead g s) := by
  obtain ⟨hk, hw, hf, ht, hb, hr⟩ := h
  unfold doHeadLineRead
  extract_lets ready
  have hready : ready = true := by
    cases hp : (rt g s).headAt with
    | none => simp only [ready, hp]
    | some t => simp only [ready, hp, due_of_le (ht t hp)]
  simp only [hready, hk, hw, hf, hb, hr, beq_self_eq_true, Bool.and_self, Bool.not_true, Bool.false_eq_true, if_false]
  cases a <;> rfl

theorem headTaken_data {b : List Byte} (hn : wrap 32 (rd RING_IDX_NEXT g s + 2 ^ 32 - wrap 32 (ofBytes (b.take 4))) ≤ ringSize g s) :
    headTaken g (.data b) s =
      forEach (ringUsers g s) fetchMore (setRt g (fun r => { r with consumed := wrap 32 (ofBytes (b.take 4)) }) s) :=
  if_neg (Nat.not_lt.2 hn)

theorem headTaken_tooFar {b : List Byte} (hn : ringSize g s < wrap 32 (rd RING_IDX_NEXT g s + 2 ^ 32 - wrap 32 (ofBytes (b.take 4)))) :
    headTaken g (.data b) s = stopRing g 2 .ok s := if_pos hn

/-! ## WATCH_SNOOP and WATCH_READ_DATA -/

/-- The response of ring `g` to a snoop of its watched line: 3 RspIHitI, 4 RspSHitSE. -/
def snoopAnswered (g rsp : Nat) (s : State) : State := emit { kind := .cxlCache, dest := ringFn g, args := [rsp, ringDb g s] } s

theorem doWatchSnoop_answers (kind : Nat) (hw : rdb RING_STATUS_WATCHED g s = true) : doWatchSnoop g kind s =
    if (rt g s).watchBusy then setRt g (fun r => { r with watchAgain := true }) (snoopAnswered g (if kind = 0 then 3 else 4) s)
    else if kind = 0 then watchRead g (snoopAnswered g 3 s) else snoopAnswered g 4 s := by
  rw [doWatchSnoop, if_neg (by simp [hw])]
  by_cases hk : kind = 0
  · simp only [hk, if_true]
    rfl
  · simp only [hk, if_false]
    rfl

theorem watchRead_reads (hp : mayPickUp g s = true) (hr : ringReadable g (ringDb g s) s = true) : watchRead g s =
    emit { kind := .cxlCache, dest := ringFn g, args := [0, ringDb g s] }
      (setRt g (fun r => { r with watchBusy := true, watchAgain := false }) s) := by
  simp only [watchRead, hp, hr]
  rfl

/-- The watched line of ring `g` once its read is answered. -/
def watchAnswered (g : Nat) (s : State) : State := setRt g (fun r => { r with watchBusy := false, watchAgain := false }) s

/-- The data read is taken as a doorbell where it may be. -/
def watchTaken (g : Nat) (a : Answer) (s : State) : State :=
  if mayPickUp g s && ringRunning g s then doorbellRead g a s else s

theorem doWatchReadData_answered (hw : rdb RING_STATUS_WATCHED g s = true) (hb : (rt g s).watchBusy = true) (a : Answer) :
    doWatchReadData g a s =
      if ((rt g s).watchAgain || !mayPickUp g s) && rdb RING_STATUS_WATCHED g (watchTaken g a (watchAnswered g s)) then
        watchRead g (watchTaken g a (watchAnswered g s))
      else watchTaken g a (watchAnswered g s) := if_neg (by simp [hw, hb])

theorem doWatchReadData_taken (hw : rdb RING_STATUS_WATCHED g s = true) (hb : (rt g s).watchBusy = true)
    (ha : (rt g s).watchAgain = false) (hp : mayPickUp g s = true) (hr : ringRunning g s = true) (a : Answer) :
    doWatchReadData g a s = doorbellRead g a (watchAnswered g s) := by
  have ht : watchTaken g a (watchAnswered g s) = doorbellRead g a (watchAnswered g s) := if_pos (Bool.and_eq_true_iff.2 ⟨hp, hr⟩)
  rw [doWatchReadData_answered hw hb, ht, ha, hp]
  rfl

/-- A line that was snooped again is read again where its data cannot be taken. -/
theorem doWatchReadData_again (hw : rdb RING_STATUS_WATCHED g s = true) (hb : (rt g s).watchBusy = true)
    (ha : (rt g s).watchAgain = true) (hn : mayPickUp g s = false ∨ ringRunning g s = false) (a : Answer) :
    doWatchReadData g a s = watchRead g (watchAnswered g s) := by
  have ht : watchTaken g a (watchAnswered g s) = watchAnswered g s := if_neg (Bool.eq_false_iff.1 (Bool.and_eq_false_iff.2 hn))
  have hw' : rdb RING_STATUS_WATCHED g (watchAnswered g s) = true := hw
  rw [doWatchReadData_answered hw hb, ht, ha, hw']
  rfl

/-! ## Queued records and interrupt moderation -/

/-- The queue of function `n` once its oldest record has left it. -/
def recordPopped (n : Nat) (rest : List (Nat × Rec)) (s : State) : State :=
  { s with rings := { s.rings with queued := put n rest s.rings.queued } }

theorem doQueuedRecordWrite_writes {n : Nat} {r : Rec} {rest : List (Nat × Rec)} (hq : lookD [] s.rings.queued n = (g, r) :: rest)
    (hw : cqWrites g s = true) (hf : ringFree g s ≠ 0) : doQueuedRecordWrite n s = writeRec g 8192 0 r (recordPopped n rest s) := by
  simp only [doQueuedRecordWrite, hq, hw, hf]
  rfl

theorem doQueuedRecordWrite_loses {n : Nat} {r : Rec} {rest : List (Nat × Rec)} (hq : lookD [] s.rings.queued n = (g, r) :: rest)
    (hw : cqWrites g s = false) : doQueuedRecordWrite n s = cqLost n (recordPopped n rest s) := by
  simp only [doQueuedRecordWrite, hq, hw]
  rfl

theorem doIrqModTimeout_signals (he : rdb RING_MOD_IRQ_EN g s = true) (hu : 0 < (rt g s).unsignalled)
    (ht : (rt g s).oldest + us16 (rd RING_MOD_MOD_US g s) ≤ now16 s) : doIrqModTimeout g s = signalRing g s :=
  if_pos (by simp [he, hu, due_of_le ht])

end

/-! ## The statements -/

/-- Settles O24: a poll, a doorbell, a fetched descriptor and a head line by what the read found and by what the ring may do. -/
theorem ringFetchAndStart : Obligations.RingFetchAndStart := by
  unfold Obligations.RingFetchAndStart
  intro s g k hs
  refine ⟨?_, ?_, ?_, ?_, ?_, ?_, ?_, ?_, ?_, ?_, ?_, ?_, ?_, noteAnswer_fail (s := s)⟩
  · exact fun b hr hk hm ht hd hb hx => next_clocked hs ((doDoorbellPoll_due ⟨hr, hk, hm, ht, hd, hb⟩ _).trans (if_pos hx))
  · exact fun a hr hk hm ht hd hb hx =>
      next_clocked hs ((doDoorbellPoll_due ⟨hr, hk, hm, ht, hd, hb⟩ a).trans (if_neg (Bool.eq_false_iff.1 hx)))
  · exact fun st hr hk hm ht hd hb hx => next_clocked hs ((doDoorbellPoll_due ⟨hr, hk, hm, ht, hd, hb⟩ _).trans (if_pos hx))
  · exact fun d st hd hf hq he => next_clocked hs (doDescriptorFetched_fails st hd hf hq he)
  · exact fun w0 he hn => pickup_fetches he hn
  · exact fun w0 he => pickup_wrongEpoch he
  · exact fun w0 he hn => pickup_tooFar he hn
  · exact fun d b hd hf hq he hh => next_clocked hs (doDescriptorFetched_ready hd hf hq he rfl hh)
  · exact fun d hd hc ht => next_clocked hs ((doDescriptorStart_starts hd hc).trans (if_neg (Bool.eq_false_iff.1 ht)))
  · exact fun d hd hc ht => next_clocked hs ((doDescriptorStart_starts hd hc).trans (if_pos ht))
  · exact fun d hd => next_clocked hs (doNopDesc_completes hd)
  · exact fun hk hw hf ht hb hr => ⟨fun st => next_clocked hs (doHeadLineRead_due ⟨hk, hw, hf, ht, hb, hr⟩ _),
      fun b hn => next_clocked hs ((doHeadLineRead_due ⟨hk, hw, hf, ht, hb, hr⟩ _).trans (headTaken_tooFar hn))⟩
  · exact fun b hk hw hf ht hb hr hn =>
      next_clocked hs ((doHeadLineRead_due ⟨hk, hw, hf, ht, hb, hr⟩ _).trans (headTaken_data hn))

/-- Settles O25: a snoop and the data of a watched line by what is under way, a queued record by its queue, moderation by its
time. -/
theorem ringWatchAndRecords : Obligations.RingWatchAndRecords := by
  unfold Obligations.RingWatchAndRecords
  intro s g n hs
  refine ⟨?_, ?_, ?_, ?_, ?_, ?_, ?_, ?_, ?_⟩
  · intro hw hb hp hr
    refine next_clocked hs ((doWatchSnoop_answers 0 hw).trans ?_)
    rw [hb, if_neg Bool.false_ne_true, if_pos rfl]
    exact watchRead_reads hp hr
  · exact fun hw hb => next_clocked hs ((doWatchSnoop_answers 0 hw).trans (if_pos hb))
  · intro c hc hw hb
    refine next_clocked hs ((doWatchSnoop_answers c hw).trans ?_)
    rw [hb, if_neg Bool.false_ne_true, if_neg hc]
    rfl
  · exact fun b hw hb ha hp hr => next_clocked hs (doWatchReadData_taken hw hb ha hp hr _)
  · exact fun st hw hb ha hp hr => next_clocked hs (doWatchReadData_taken hw hb ha hp hr _)
  · rintro s1 a hw hb ha rfl hn
    exact next_clocked hs (doWatchReadData_again hw hb ha hn a)
  · exact fun r rest hq hw hf => next_clocked hs (doQueuedRecordWrite_writes hq hw hf)
  · exact fun r rest hq hw => next_clocked hs (doQueuedRecordWrite_loses hq hw)
  · exact fun he hu ht => next_clocked hs (doIrqModTimeout_signals he hu ht)

end Sys2Proof.Machine

namespace Sys2Proof.Machine

open Sys2Proof

/-! # Function-level reset, hot reset, the link and the completion time-out (R314, R324, R326) -/

section
variable {s : State} {n : Nat}

/-! ## FLR_INITIATE -/

theorem doFlrInitiate_absent (h : 64 ≤ n) : doFlrInitiate n s = s := if_pos h

theorem doFlrInitiate_vf (h0 : 0 < n) (h64 : n < 64) : doFlrInitiate n s = beginFlr n (raiseWake 0x15 n s) := by
  rw [doFlrInitiate, if_neg (Nat.not_le.2 h64)]
  exact if_neg (by omega)

theorem doFlrInitiate_pf (s : State) : doFlrInitiate 0 s = initiateFlr 0 s := if_neg (by decide)

/-- The FLR of the PF ends with the VFs disabled. -/
theorem initiateFlr_pf (s : State) : (initiateFlr 0 s).host.vfEnable = false ∧ (initiateFlr 0 s).host.vfMse = false := by
  rw [initiateFlr, if_pos rfl]
  exact ⟨rfl, rfl⟩

theorem beginFlr_silences {s1 : State} (h1 : s1 = setFnCfg n (fun c => { c with flrAt := some (now16 s) }) s)
    (hf : (fnCfg n s).flrAt = none) (ht : rd FUNC_CFG_TDI n (silenceFn n s1) = 0) : beginFlr n s = silenceFn n s1 := by
  subst h1
  rw [beginFlr, if_neg (by simp [hf])]
  exact if_pos ht

/-! ## FLR_COMPLETE -/

theorem doFlrComplete_pf (s : State) : doFlrComplete 0 s = forEach (List.range 64) endFlr s := if_pos rfl

theorem doFlrComplete_vf (h0 : 0 < n) : doFlrComplete n s = endFlr n s := if_neg (by omega)

theorem endFlr_none (hf : (fnCfg n s).flrAt = none) : endFlr n s = s := if_pos (by simp [hf])

theorem endFlr_restores (hf : (fnCfg n s).flrAt.isSome = true) : endFlr n s = dropVectors n (setFnCfg n (fun _ => {}) (resetFn n
    (freeObjects n (setSec (fun x => { x with parkRoots := del n x.parkRoots }) s)))) :=
  if_neg (by simp [Option.isSome_iff_ne_none.1 hf])

/-! ## The link -/

theorem rd_setLink_rate (l : HostLink) (s : State) : rd HOST_STATUS_RATE 0 (setLink l s) = wrap 3 l.rate := by
  simp only [setLink, wrb]
  rw [rd_wr_other (by decide) (by decide) (by decide), rd_wr_other (by decide) (by decide) (by decide),
    rd_wr_other (by decide) (by decide) (by decide), rd_wr_other (by decide) (by decide) (by decide), rd_wr_same]
  rfl

/-- A link that is down has no width and no CXL. -/
theorem rd_setLink_down {l : HostLink} (h : l.rate = 0) (s : State) : rd HOST_STATUS_WIDTH 0 (setLink l s) = 0 ∧
    rd HOST_STATUS_CXL_MEM 0 (setLink l s) = 0 ∧ rd HOST_STATUS_CXL_CACHE 0 (setLink l s) = 0 := by
  simp only [setLink, wrb, h, bne_self_eq_false, Bool.false_and, Bool.false_eq_true, if_false]
  refine ⟨?_, ?_, ?_⟩
  · rw [rd_wr_other (by decide) (by decide) (by decide), rd_wr_other (by decide) (by decide) (by decide),
      rd_wr_other (by decide) (by decide) (by decide), rd_wr_same]
    rfl
  · rw [rd_wr_same]
    rfl
  · rw [rd_wr_other (by decide) (by decide) (by decide), rd_wr_same]
    rfl

end

/-- Settles O26: an FLR by the function it is of and by what runs, the link by its rate, the time-out by its code. -/
theorem functionResetAndTimeout : Obligations.FunctionResetAndTimeout := by
  unfold Obligations.FunctionResetAndTimeout
  intro s n hs
  refine ⟨?_, ?_, ?_, ?_, ?_, ?_, ?_, ?_, ?_, ?_, ?_, by decide⟩
  · exact fun h0 h64 _ => next_clocked hs (doFlrInitiate_vf h0 h64)
  · exact ⟨_, next_clocked hs (doFlrInitiate_pf s), initiateFlr_pf s⟩
  · exact fun s1 h1 hf ht => beginFlr_silences h1 hf ht
  · exact fun h0 hf => next_clocked hs ((doFlrComplete_vf h0).trans (endFlr_restores hf))
  · exact next_clocked hs (doFlrComplete_pf s)
  · exact fun h => next_clocked hs (doFlrInitiate_absent h)
  · exact fun h0 hf => next_clocked hs ((doFlrComplete_vf h0).trans (endFlr_none hf))
  · exact next_clocked hs rfl
  · exact fun l => next_clocked hs rfl
  · exact fun l => ⟨rd_setLink_rate l s, fun h => rd_setLink_down h s⟩
  · exact fun v => next_clocked hs rfl

/-! # Host accesses to hub memory (R311, R317, R321, R322, R389) -/

section
variable {s : State}

/-! ## The queue of host accesses -/

/-- `s` with the accesses `l` waiting. -/
def hostWaits (l : List HostReq) (s : State) : State := { s with host := { s.host with waits := l } }

theorem hostWaits_nil (h : s.host.waits = []) : hostWaits [] s = s := by
  rw [← h]
  rfl

theorem hostRequest_alone {r : HostReq} (h : s.host.waits = []) : hostRequest r s = nextHost (hostWaits [r] s) := by
  rw [hostRequest, h]
  rfl

/-- Which memory an access names does not depend on what waits. -/
theorem hostRange_hostWaits (r : HostReq) (l : List HostReq) (s : State) : hostRange r (hostWaits l s) = hostRange r s := rfl

/-- An access that names no hub memory is made at once. -/
theorem hostRequest_unmapped {r : HostReq} (h : s.host.waits = []) (hr : hostRange r s = none) : hostRequest r s = hostGo r s := by
  have hready : hostReady r (hostWaits [r] s) = true := by rw [hostReady, hostRange_hostWaits, hr]
  rw [hostRequest_alone h]
  refine (if_pos hready).trans ?_
  show hostGo r (hostWaits [] s) = _
  rw [hostWaits_nil h]

/-- An access whose lines are at home is made at once. -/
theorem hostRequest_claimed {r : HostReq} {off len : Nat} {w : Bool} (h : s.host.waits = [])
    (hr : hostRange r s = some (off, len, w)) (hc : claimed off len w s = true) :
    hostRequest r s = if r.kind < 3 then apertureGo r off s else hdmGo r off s := by
  have hready : hostReady r (hostWaits [r] s) = true := by
    rw [hostReady, hostRange_hostWaits, hr]
    exact hc
  rw [hostRequest_alone h]
  refine (if_pos hready).trans ?_
  show hostGo r (hostWaits [] s) = _
  rw [hostWaits_nil h, hostGo, hr]

/-- An access whose lines chiplets hold waits for them. -/
theorem hostRequest_unclaimed {r : HostReq} {off len : Nat} {w : Bool} (h : s.host.waits = [])
    (hr : hostRange r s = some (off, len, w)) (hc : claimed off len w s = false) :
    hostRequest r s = claim (if r.kind < 3 then apertureReqr s else .hdm) off len w (hostWaits [r] s) := by
  have hready : hostReady r (hostWaits [r] s) = false := by
    rw [hostReady, hostRange_hostWaits, hr]
    exact hc
  rw [hostRequest_alone h]
  refine (if_neg (Bool.eq_false_iff.1 hready)).trans ?_
  rw [hostClaim, hostRange_hostWaits, hr]
  rfl

theorem hostRange_aperture {r : HostReq} {off : Nat} (hk : r.kind < 3) (hm : memSpace 0 s = true)
    (ha : apertureAt r.a r.len s = some off) : hostRange r s = some (off, r.len, r.kind != 0) := by
  rw [hostRange, if_pos hk, if_pos hm, ha]
  rfl

theorem hostRange_hdm {r : HostReq} (hk : ¬r.kind < 3) (hm : rdb HOST_STATUS_CXL_MEM 0 s = true)
    (ha : r.a < rd HOST_HDM_EXTENTS 0 s * 2 ^ 30) :
    hostRange r s = some (rd HOST_HDM_BASE_GIB 0 s * 2 ^ 30 + r.a / 64 * 64, 64, r.kind == 4) := by
  rw [hostRange, if_neg hk, hdmAt, if_pos (by rw [hm, decide_eq_true ha]; rfl)]
  rfl

/-! ## The aperture -/

/-- An access of `data` or of `len` bytes at offset `a` of the aperture. -/
def apertureReq (a len : Nat) (w : Bool) (data : List Byte) (tag : Nat) : HostReq :=
  { kind := b2n w, a := a, len := if w then data.length else len, data := data, tag := tag }

/-- An AtomicOp at offset `a` of the aperture. -/
def apertureAtomic (a op n x y tag : Nat) : HostReq := { kind := 2, a := a, len := n, tag := tag, op := op, x := x, y := y }

theorem doApertureAccess_queues (a len : Nat) (w : Bool) (data : List Byte) (tag : Nat) :
    doApertureAccess a len w data tag false s = hostRequest (apertureReq a len w data tag) (raiseWake 0x13 0 s) :=
  if_neg (by simp)

/-- Reserved space of the aperture reads zeros. -/
theorem hostGo_read_reserved {r : HostReq} (hk : r.kind = 0) (hm : memSpace 0 s = true) (ha : apertureAt r.a r.len s = none) :
    hostRange r s = none ∧ hostGo r s = hostCpl r.tag 0 (List.replicate r.len 0) s := by
  have hr : hostRange r s = none := by simp [hostRange, hk, hm, ha]
  exact ⟨hr, by simp [hostGo, hr, hk, apertureMiss, hm]⟩

theorem apertureGo_read {r : HostReq} {off : Nat} {b : List Byte} {st : Status} {s2 : State} (hk : r.kind = 0)
    (hg : homeGet (apertureReqr s) off r.len s = (st, b, s2)) :
    apertureGo r off s = hostOutcome 0 4 (2 ^ 39 + r.a) r.tag false st b s2 := by
  simp only [apertureGo, hk, hg]

theorem apertureGo_write {r : HostReq} {off : Nat} {st : Status} {s2 : State} (hk : r.kind = 1)
    (hp : homePut (apertureReqr s) off r.data s = (st, s2)) :
    apertureGo r off s = hostOutcome 0 4 (2 ^ 39 + r.a) r.tag true st [] s2 := by
  simp only [apertureGo, hk, hp]

/-- An AtomicOp answers what stood there, and leaves what it computes of it. -/
theorem apertureGo_atomic {r : HostReq} {off : Nat} {b : List Byte} {st : Status} {s2 s3 : State} (hk : r.kind = 2)
    (hg : homeGet (apertureReqr s) off r.len s = (.ok, b, s2))
    (hp : homePut (apertureReqr s) off
      (toBytes r.len (atomicNew r.op r.len (ofBytes b) (wrap (8 * r.len) r.x) (wrap (8 * r.len) r.y))) s2 = (st, s3)) :
    apertureGo r off s = hostOutcome 0 4 (2 ^ 39 + r.a) r.tag false st b s3 := by
  simp only [apertureGo, hk, hg, hp, ok_good, Bool.not_true, Bool.false_eq_true, if_false]

theorem hostRequest_aperture {r : HostReq} {off : Nat} (h : s.host.waits = []) (hk : r.kind < 3) (hm : memSpace 0 s = true)
    (ha : apertureAt r.a r.len s = some off) (hc : claimed off r.len (r.kind != 0) s = true) :
    hostRequest r s = apertureGo r off s :=
  (hostRequest_claimed h (hostRange_aperture hk hm ha) hc).trans (if_pos hk)

/-! ## AtomicOps -/

/-- An AtomicOp of a form that the aperture takes. -/
theorem doAtomicop_queues {a op n : Nat} (x y tag : Nat) (ho : op < 3) (hn : n = 4 ∨ n = 8) (ha : a % n = 0) :
    doAtomicop true a op n x y tag s = hostRequest (apertureAtomic a op n x y tag) (raiseWake 0x13 0 s) :=
  if_neg (by obtain rfl | rfl := hn <;> simp [ho, ha])

theorem doAtomicop_outside (a op n x y tag : Nat) : doAtomicop false a op n x y tag s =
    hostCpl tag 1 [] (reportAer 0 2 (bumpSat HOST_COUNT_UR 0 1 (raiseWake 0x13 0 s))) := rfl

/-! ## The HDM decoder and CXL.mem -/

theorem doHostHdmWrite_locked (base k : Nat) (h : rdb HUB_GLOBAL_SETUP_LOCK 0 s = true) : doHostHdmWrite base k s = s :=
  if_pos (by simp [h])

theorem doHostHdmWrite_commits {base k : Nat} (hl : rdb HUB_GLOBAL_SETUP_LOCK 0 s = false) (hc : rdb HOST_HDM_COMMITTED 0 s = false)
    (hb : base < 2 ^ 14) (hk : k ≤ 1907) (hz : base + k ≤ memSize s / 2 ^ 30)
    (hf : (hdmRange base k).any (fun e => extKind e s != 0 && extKind e s != 3) = false)
    (hn : (hdmRange (rd HOST_HDM_BASE_GIB 0 s) (rd HOST_HDM_EXTENTS 0 s)).filter
      (fun e => extKind e s == 3 && !(hdmRange base k).contains e) = []) :
    doHostHdmWrite base k s = forEach (hdmRange base k) (fun e s => wr EXT_KIND e 3 s)
      (s |> wr HOST_HDM_BASE_GIB 0 base |> wr HOST_HDM_EXTENTS 0 k) := by
  have hwb : wrap 14 base = base := Nat.mod_eq_of_lt hb
  have hwk : wrap 11 k = k := Nat.mod_eq_of_lt (by omega)
  rw [doHostHdmWrite, if_neg (by simp [hl, hc]), hwb, hwk]
  simp only [hf, Nat.not_lt.2 hk, Nat.not_lt.2 hz, hn]
  rfl

/-- A CXL.mem access of device address `d`. -/
def hdmReq (d : Nat) (w : Bool) (data : List Byte) (tag : Nat) : HostReq := { kind := 3 + b2n w, a := d, data := data, tag := tag }

theorem hdmGo_read {r : HostReq} {off : Nat} {b : List Byte} {s2 : State} (hk : r.kind = 3) (hg : homeGet .hdm off 64 s = (.ok, b, s2)) :
    hdmGo r off s = emit { kind := .cxlMem, tag := r.tag, args := [0], data := b } s2 := by
  simp [hdmGo, hk, hg]

theorem hdmGo_write {r : HostReq} {off : Nat} {st : Status} {s2 : State} (hk : r.kind = 4)
    (hp : homePut .hdm off (r.data.take 64) s = (st, s2)) : hdmGo r off s = emit { kind := .cxlMem, tag := r.tag, args := [1] } s2 := by
  simp [hdmGo, hk, hp]

theorem hostRequest_hdm {r : HostReq} {off : Nat} (h : s.host.waits = []) (hk : ¬r.kind < 3) (hm : rdb HOST_STATUS_CXL_MEM 0 s = true)
    (ha : r.a < rd HOST_HDM_EXTENTS 0 s * 2 ^ 30) (ho : off = rd HOST_HDM_BASE_GIB 0 s * 2 ^ 30 + r.a / 64 * 64)
    (hc : claimed off 64 (r.kind == 4) s = true) : hostRequest r s = hdmGo r off s := by
  subst ho
  exact (hostRequest_claimed h (hostRange_hdm hk hm ha) hc).trans (if_neg hk)

end

/-- Settles O28: an access is queued, and with none before it is made, or waits for its lines, by the memory that it names. -/
theorem hostMemoryAccesses : Obligations.HostMemoryAccesses := by
  unfold Obligations.HostMemoryAccesses
  rintro s s1 tag hs rfl
  refine ⟨?_, ?_, ?_, ?_, ?_, ?_, ?_, ?_, ?_, ?_, ?_, ?_, ?_⟩
  · exact fun a len w data => next_clocked hs (doApertureAccess_queues a len w data tag)
  · intro a len data h hm ha
    obtain ⟨hr, hg⟩ := hostGo_read_reserved (r := apertureReq a len false data tag) rfl hm ha
    exact next_clocked hs ((doApertureAccess_queues a len false data tag).trans ((hostRequest_unmapped h hr).trans hg))
  · exact fun a len data off st b s2 h hm ha hc hg => next_clocked hs ((doApertureAccess_queues a len false data tag).trans
      ((hostRequest_aperture h (show 0 < 3 by decide) hm ha hc).trans (apertureGo_read rfl hg)))
  · exact fun a len data off st s2 h hm ha hc hp => next_clocked hs ((doApertureAccess_queues a len true data tag).trans
      ((hostRequest_aperture h (show 1 < 3 by decide) hm ha hc).trans (apertureGo_write rfl hp)))
  · exact fun r off len w h hr hc => hostRequest_unclaimed h hr hc
  · exact fun a op n x y ho hn ha => next_clocked hs (doAtomicop_queues x y tag ho hn ha)
  · exact fun a op n x y off b s2 st s3 h hm ho hn han ha hc hg hp => next_clocked hs ((doAtomicop_queues x y tag ho hn han).trans
      ((hostRequest_aperture h (show 2 < 3 by decide) hm ha hc).trans (apertureGo_atomic rfl hg hp)))
  · exact fun a op n x y => next_clocked hs (doAtomicop_outside a op n x y tag)
  · exact fun base k h => next_clocked hs (doHostHdmWrite_locked base k h)
  · exact fun base k hl hc hb hk hz hf hn => next_clocked hs (doHostHdmWrite_commits hl hc hb hk hz hf hn)
  · exact fun d w data => next_clocked hs rfl
  · exact fun d data b s2 h hm hd hc hg => next_clocked hs
      ((hostRequest_hdm (r := hdmReq d false data tag) h (show ¬3 < 3 by decide) hm hd rfl hc).trans (hdmGo_read rfl hg))
  · exact fun d data st s2 h hm hd hc hp => next_clocked hs
      ((hostRequest_hdm (r := hdmReq d true data tag) h (show ¬4 < 3 by decide) hm hd rfl hc).trans (hdmGo_write rfl hp))

end Sys2Proof.Machine

namespace Sys2Proof.Machine

open Sys2Proof

/-! # ATS completions, page-request batches and host completions (R318, R323, R366, R368 to R371, R376) -/

section
variable {s s1 : State} {fn pasid page size tp prg : Nat} {r w : Bool} {ws : List XWait}

/-! ## ATS_COMPLETION -/

/-- The accesses that wait for a translation of the page. -/
def pageWaits (fn pasid page : Nat) (s : State) : List XWait :=
  s.xlat.waits.filter (fun x => x.fn == fn && x.pasid == pasid && x.page == page)

/-- `s` with them taken off the list. -/
def pageTaken (fn pasid page : Nat) (s : State) : State :=
  setXlat (fun x => { x with waits := x.waits.filter (fun q => !(q.fn == fn && q.pasid == pasid && q.page == page)) }) s

theorem doAtsCompletion_unasked (h : reqFor (.ats fn pasid page) s = none) : doAtsCompletion fn pasid page size tp r w s = s :=
  if_pos (by simp [h])

theorem doAtsCompletion_stale (h : (reqFor (.ats fn pasid page) s).isSome = true) (h1 : s1 = retireFor (.ats fn pasid page) s)
    (hw : ws = pageWaits fn pasid page s1) (hs : ws.any XWait.stale = true) :
    doAtsCompletion fn pasid page size tp r w s = hostReq
        { cls := 3, port := 77, fn := fn, purpose := .ats fn pasid page, out := { kind := .atsRequest, dest := fn, args := [pasid, page] } }
      (count hostUnit 0x83 (some fn) 1 (setXlat (fun x => { x with waits := x.waits.map (fun q =>
        if q.fn == fn && q.pasid == pasid && q.page == page then { q with stale := false } else q) }) s1)) := by
  subst h1 hw
  rw [doAtsCompletion, if_neg (by simp [Option.isSome_iff_ne_none.1 h])]
  exact if_pos hs

/-- An access goes on with the entry that covers it, or has no permission. -/
def grantOrRefuse (es : List XEntry) (q : XWait) (s : State) : State :=
  match es.find? (xCovers q.fn q.pasid (q.page * 4096) q.write) with
  | some e => granted q e s
  | none => noPermission q s

/-- The entries that a completion grants; none without a permission. -/
def grantedEntries (fn pasid page size tp : Nat) (r w : Bool) : List XEntry :=
  if r || w then entriesFor fn pasid page (max 12 size) tp r w else []

theorem doAtsCompletion_answers (h : (reqFor (.ats fn pasid page) s).isSome = true) (h1 : s1 = retireFor (.ats fn pasid page) s)
    (hw : ws = pageWaits fn pasid page s1) (hs : ws.any XWait.stale = false) :
    doAtsCompletion fn pasid page size tp r w s = settleJobs (forEach ws (grantOrRefuse (grantedEntries fn pasid page size tp r w))
      (forEach (grantedEntries fn pasid page size tp r w) fillShared (pageTaken fn pasid page s1))) := by
  subst h1 hw
  rw [doAtsCompletion, if_neg (by simp [Option.isSome_iff_ne_none.1 h])]
  exact if_neg (Bool.eq_false_iff.1 hs)

/-! ## PRI_GATHER_EXPIRE, PAGE_GROUP_RESPONSE and PRG_TIMEOUT -/

theorem doPriGatherExpire_gathered {b : Batch} (hb : s.xlat.batches.find? (fun b => !b.sent && b.fn == fn && b.pasid == pasid) = some b) :
    doPriGatherExpire fn pasid s = if due (b.openedAt + gatherTime s) s then sendBatch b s else s := by
  simp only [doPriGatherExpire, hb]

theorem doPageGroupResponse_success {b : Batch} (hb : s.xlat.batches.find? (fun b => b.sent && b.fn == fn && b.prg == prg) = some b) :
    doPageGroupResponse fn prg 0 s =
      settleJobs (regather fn (forEach b.waits retranslate (dropBatch fn prg (retireFor (.pri fn prg) s)))) := by
  simp only [doPageGroupResponse, hb]

theorem doPageGroupResponse_invalid {b : Batch} (hb : s.xlat.batches.find? (fun b => b.sent && b.fn == fn && b.prg == prg) = some b) :
    doPageGroupResponse fn prg 1 s = settleJobs (regather fn (refuseAll b.waits (dropBatch fn prg (retireFor (.pri fn prg) s)))) := by
  simp only [doPageGroupResponse, hb]

theorem doPageGroupResponse_unexpected (hb : ∀ b ∈ s.xlat.batches, b.sent = true → b.fn = fn → b.prg ≠ prg) (code : Nat) :
    doPageGroupResponse fn prg code s = unexpected 3 (prgPort fn) prg fn s := by
  have hn : s.xlat.batches.find? (fun b => b.sent && b.fn == fn && b.prg == prg) = none := by
    rw [List.find?_eq_none]
    intro b hm hp
    simp only [Bool.and_eq_true, beq_iff_eq] at hp
    obtain ⟨⟨hsent, hfn⟩, hprg⟩ := hp
    exact hb b hm hsent hfn hprg
  simp only [doPageGroupResponse, hn]

theorem doPrgTimeout_expires {b : Batch} {q : Req} (hb : s.xlat.batches.find? (fun b => b.sent && b.fn == fn && b.prg == prg) = some b)
    (hq : reqFor (.pri fn prg) s = some q) (he : expired q s = true)
    (h1 : s1 = bumpSat TRN_COUNT_PRG_TIMEOUT 0 1 (dropBatch fn prg (entomb q s))) :
    doPrgTimeout fn prg s = settleJobs (regather fn (refuseAll b.waits (trnLog 1 fn b.pasid (nth 0 b.pages 0) s1))) := by
  subst h1
  simp only [doPrgTimeout, hb, hq, he, Bool.not_true, Bool.false_eq_true, if_false]

theorem doPrgTimeout_waits {q : Req} (hq : reqFor (.pri fn prg) s = some q) (he : expired q s = false) : doPrgTimeout fn prg s = s := by
  rw [doPrgTimeout, hq]
  cases s.xlat.batches.find? (fun b => b.sent && b.fn == fn && b.prg == prg) with
  | none => rfl
  | some b => exact if_pos (by simp [he])

/-! ## HOST_COMPLETION -/

variable {tag kind j p : Nat} {data : List Byte} {q : Req}

theorem doHostCompletion_unexpected (h : reqOf 3 77 tag s = none) : doHostCompletion tag kind data s = unexpected 3 77 tag 0 s := by
  simp only [doHostCompletion, h]

theorem doHostCompletion_piece_data (h : reqOf 3 77 tag s = some q) (hp : q.purpose = .piece j p) :
    doHostCompletion tag 0 data s = settleJobs (setPiece j p (.have data) (retireReq q s)) := by
  simp only [doHostCompletion, h, hp]
  rfl

theorem doHostCompletion_piece_poisoned (h : reqOf 3 77 tag s = some q) (hp : q.purpose = .piece j p) :
    doHostCompletion tag 3 data s = settleJobs (setPiece j p (.failed .dataErr) (retireReq q (poisonedTlp q.fn 0 0 s))) := by
  simp only [doHostCompletion, h, hp]
  rfl

/-- Unsupported Request and Completer Abort are no data and no poison. -/
theorem completion_refused (hk : kind = 1 ∨ kind = 2) : kind ≠ 0 ∧ kind ≠ 3 := by omega

theorem doHostCompletion_piece_refused (h : reqOf 3 77 tag s = some q) (hp : q.purpose = .piece j p) (hk : kind = 1 ∨ kind = 2)
    (h1 : s1 = retireReq q s) : doHostCompletion tag kind data s = settleJobs (setPiece j p .refused
      (noteRefused q.fn (((jobOf j s1).map Job.pasid).getD 0) (pieceVa j p s1) s1)) := by
  subst h1
  obtain ⟨h0, h3⟩ := completion_refused hk
  simp only [doHostCompletion, h, hp, h0, h3, if_false]
  rfl

/-- A refused translation request is one that grants nothing. -/
theorem doHostCompletion_ats_refused (h : reqOf 3 77 tag s = some q) (hp : q.purpose = .ats fn pasid page) (hk : kind = 1 ∨ kind = 2) :
    doHostCompletion tag kind data s = doAtsCompletion fn pasid page 12 0 false false s := by
  obtain ⟨h0, h3⟩ := completion_refused hk
  simp only [doHostCompletion, h, hp, h0, h3, if_false, atsFailed]

end

/-- Settles O41: a completion by the accesses that wait for its page, a batch by its time and its response, a host completion by
what its request was made for. -/
theorem translationAnswers : Obligations.TranslationAnswers := by
  unfold Obligations.TranslationAnswers
  intro s s1 fn hs
  refine ⟨?_, ?_, ?_, ?_, ?_, ?_, ?_, ?_, ?_, ?_, ?_, ?_, ?_, ?_, ?_⟩
  · exact fun pasid page size tp r w ws h h1 hw hst => next_clocked hs (doAtsCompletion_stale h h1 hw hst)
  · exact fun pasid page size tp ws h h1 hw hst => next_clocked hs (doAtsCompletion_answers h h1 hw hst)
  · intro pasid page size tp r w ws es h hrw h1 hw hst he
    have hes : grantedEntries fn pasid page size tp r w = es := (if_pos hrw).trans he.symm
    refine next_clocked hs ((doAtsCompletion_answers h h1 hw hst).trans ?_)
    rw [hes]
    rfl
  · exact fun pasid page size tp r w h => next_clocked hs (doAtsCompletion_unasked h)
  · exact fun pasid b hb ht => next_clocked hs ((doPriGatherExpire_gathered hb).trans (if_pos (due_of_le ht)))
  · exact fun pasid b hb ht => next_clocked hs ((doPriGatherExpire_gathered hb).trans (if_neg (Bool.eq_false_iff.1 (due_of_lt ht))))
  · rintro prg b hb rfl
    exact ⟨next_clocked hs (doPageGroupResponse_success hb), next_clocked hs (doPageGroupResponse_invalid hb)⟩
  · exact fun prg code hb => next_clocked hs (doPageGroupResponse_unexpected hb code)
  · exact fun prg b q hb hq he h1 => next_clocked hs (doPrgTimeout_expires hb hq he h1)
  · exact fun prg q hq he => next_clocked hs (doPrgTimeout_waits hq he)
  · exact fun tag data q j p h hp => next_clocked hs (doHostCompletion_piece_data h hp)
  · exact fun tag data q j p h hp => next_clocked hs (doHostCompletion_piece_poisoned h hp)
  · exact fun tag kind data q j p h hp hk h1 => next_clocked hs (doHostCompletion_piece_refused h hp hk h1)
  · exact fun tag kind data q pasid page h hp hk =>
      (next_clocked hs (doHostCompletion_ats_refused h hp hk)).trans (next_clocked hs rfl).symm
  · exact fun tag kind data h => next_clocked hs (doHostCompletion_unexpected h)

/-! # Caps, groups, rails, droops and dips (R454, R463 to R465, R468) -/

section
variable {s s1 : State} {g k : Nat} {d : Desc}

/-! ## Caps and power groups -/

/-- A SET_CAP without AT is carried out at once. -/
theorem doSetCap_now (hd : powerDesc g k 0x03 s = some d) (ha : bit (d.word 2) 48 = false) : doSetCap g k s =
    if capsOk (slice (d.word 2) 16 16) (slice (d.word 2) 32 16) s then
      completeDesc g k .ok 0 0 0 (setCaps (slice (d.word 2) 16 16) (slice (d.word 2) 32 16) s)
    else completeDesc g k .unsupported 0 0 0 s := by
  have hsub : wrap 8 (d.word 2) = 0x03 := by
    simp only [powerDesc, Option.filter_eq_some_iff, Bool.and_eq_true, beq_iff_eq] at hd
    obtain ⟨-, hsub, -⟩ := hd
    exact hsub
  simp only [doSetCap, hd, ha, powerAt, beginPower, hsub, failDesc, Bool.false_and, Bool.false_eq_true, if_false]
  rfl

theorem setCaps_confidential (pk hb : Nat) (h : rdb SEC_STATUS_CONFIDENTIAL 0 s = true) :
    setCaps pk hb s = wr PWR_CAP_HUB_CAP 0 hb (wr PWR_CAP_PKG_CAP 0 pk s) := by
  refine if_pos ?_
  rw [rdb, rd_wr_other (by decide) (by decide) (by decide), rd_wr_other (by decide) (by decide) (by decide)]
  exact h

/-- The hub with the fields of its power group set by the words of a GROUP descriptor. -/
def groupSet (d : Desc) (s : State) : State :=
  s |> wr PWR_GROUP_ENABLE 0 (slice (d.word 2) 8 1) |> wr PWR_GROUP_LEADER 0 (slice (d.word 2) 9 12)
    |> wr PWR_GROUP_MEMBERS 0 (slice (d.word 2) 21 13) |> wr PWR_GROUP_FUNCTION 0 (slice (d.word 2) 34 6)
    |> wr PWR_GROUP_CAP_MIN 0 (slice (d.word 3) 0 16) |> wr PWR_GROUP_SHIFT_W 0 (slice (d.word 3) 16 16)

theorem doGroup_sets (hd : powerDesc g k 0x04 s = some d) (h1 : s1 = groupSet d s) :
    doGroup g k s = completeDesc g k .ok 0 0 0 (setPower (fun p => { p with
      grpAt := pos s / 10000000, grpDone := true, grpCount := rd CAL_LATE_COUNT (slice (d.word 2) 34 6) s1,
      grpMax := rd CAL_LATE_MAX_LATE (slice (d.word 2) 34 6) s1, reports := [], nextCap := none }) s1) := by
  subst h1
  simp only [doGroup, hd]
  rfl

/-- The report of this hub for the period that has ended. -/
def groupReport (s : State) : GrpRep :=
  { hub := rd HUB_ID_ID 0 s, cap := rd PWR_CAP_PKG_CAP 0 s, power := pkgW s,
    late := wrap 32 (rd CAL_LATE_COUNT (rd PWR_GROUP_FUNCTION 0 s) s + 2 ^ 32 - s.power.grpCount),
    maxLate := rd CAL_LATE_MAX_LATE (rd PWR_GROUP_FUNCTION 0 s) s - s.power.grpMax }

/-- The hub from which the next report counts. -/
def reportCounted (s : State) : State :=
  setPower (fun p => { p with
    grpAt := pos s / 10000000, grpDone := false, grpCount := rd CAL_LATE_COUNT (rd PWR_GROUP_FUNCTION 0 s) s,
    grpMax := rd CAL_LATE_MAX_LATE (rd PWR_GROUP_FUNCTION 0 s) s }) s

theorem doPowerGroupReport_none (h : rdb PWR_GROUP_ENABLE 0 s = false) : doPowerGroupReport s = s := if_pos (by simp [h])

theorem doPowerGroupReport_reports (h : rdb PWR_GROUP_ENABLE 0 s = true) (he : s.power.grpAt < pos s / 10000000) :
    doPowerGroupReport s = if groupLeader (reportCounted s) then takeReport (groupReport s) (reportCounted s)
      else tellHub (4096 * rd HUB_ID_TWIN 0 (reportCounted s) + rd PWR_GROUP_LEADER 0 (reportCounted s)) 8
        [(groupReport s).hub, (groupReport s).cap, (groupReport s).power, (groupReport s).late, (groupReport s).maxLate] (reportCounted s) :=
  if_neg (by simp [h, he])

theorem groupLeader_of_eq (h : rdb PWR_GROUP_ENABLE 0 s = true) (hl : rd PWR_GROUP_LEADER 0 s = rd HUB_ID_ID 0 s) :
    groupLeader (reportCounted s) = true := by
  show groupLeader s = true
  simp [groupLeader, h, hl]

theorem groupLeader_of_ne (hl : rd PWR_GROUP_LEADER 0 s ≠ rd HUB_ID_ID 0 s) : groupLeader (reportCounted s) = false := by
  show groupLeader s = false
  simp [groupLeader, hl]

theorem doPowerGroupDecide_waits (h : groupLeader s = false ∨ s.power.grpDone = true) : doPowerGroupDecide s = s :=
  if_pos (by obtain h | h := h <;> simp [h])

theorem doPowerGroupDecide_decides (hl : groupLeader s = true) (hd : s.power.grpDone = false)
    (h1 : s1 = setPower (fun p => { p with grpDone := true, reports := [] }) s) :
    doPowerGroupDecide s = forEach (newCaps (rd PWR_GROUP_SHIFT_W 0 s) (rd PWR_GROUP_CAP_MIN 0 s) s.power.reports)
      (fun c u => if c.1 = rd HUB_ID_ID 0 u then takeCap c.2 u else tellHub (4096 * rd HUB_ID_TWIN 0 u + c.1) 9 [c.2] u) s1 := by
  subst h1
  exact if_neg (by simp [hl, hd])

theorem doPowerGroupApply_applies {c e : Nat} (hc : s.power.nextCap = some (c, e)) (hg : rdb PWR_GROUP_ENABLE 0 s = true)
    (he : e < pos s / 10000000) :
    doPowerGroupApply s = setCaps c (rd PWR_CAP_HUB_CAP 0 s) (setPower (fun p => { p with nextCap := none }) s) := by
  simp only [doPowerGroupApply, hc, hg, Nat.not_le.2 he]
  rfl

end

section
variable {s s1 : State} {r mv : Nat} {a : Avs}

/-! ## Voltage changes (R463) -/

/-- Rail `r` once its change has ended. -/
def avsEnded (r : Nat) (s : State) : State := setPower (fun x => { x with avs := x.avs.filter (fun b => b.rail != r) }) s

theorem doAvsAck_far (ha : s.power.avs.find? (fun a => a.rail == r) = some a) (h : a.mv + 10 < mv) : doAvsAck r mv s = s := by
  simp only [doAvsAck, ha]
  exact if_pos (by omega)

/-- A voltage within 10 mV of its target is taken, and with it the point that it was for. -/
theorem doAvsAck_near (ha : s.power.avs.find? (fun a => a.rail == r) = some a) (h : mv ≤ a.mv + 10) (h' : a.mv ≤ mv + 10)
    (h1 : s1 = wr PWR_RAIL_SET_MV r a.mv (avsEnded r s)) : doAvsAck r mv s = match a.point with
      | some p =>
        if rdb PWR_RAIL_FAULT r s1 then s1
        else if rdb PWR_STATUS_STRETCH 0 s1 then setPower (fun x => { x with raiseTo := some p }) s1 else wr PWR_STATUS_POINT 0 p s1
      | none => s1 := by
  subst h1
  simp only [doAvsAck, ha]
  exact if_neg (by omega)

theorem doAvsRetryTimeout_resends (ha : s.power.avs.find? (fun a => a.rail == r) = some a) (h4 : a.sends < 4)
    (ht : a.sentAt + us16 10 ≤ now16 s) : doAvsRetryTimeout r s = sendAvs { a with sends := a.sends + 1, sentAt := now16 s }
      (setPower (fun x => { x with avs := x.avs.map (fun c => if c.rail = r then { a with sends := a.sends + 1, sentAt := now16 s } else c) }) s) := by
  simp only [doAvsRetryTimeout, ha]
  exact if_neg (by simp [h4, due_of_le ht])

theorem doAvsAckTimeout_faults (ha : s.power.avs.find? (fun a => a.rail == r) = some a) (ht : a.since + us16 100 ≤ now16 s) :
    doAvsAckTimeout r s = setB PWR_STATUS_RAIL_FAULT 0 (setB PWR_RAIL_FAULT r (avsEnded r s)) := by
  simp only [doAvsAckTimeout, ha]
  exact if_neg (by simp [due_of_le ht])

theorem doPmbusPoll_reads (mv ma : List Nat) (h : again s.power.pollAt 100 s = true) : doPmbusPoll mv ma s =
    forEach (List.range 6) (fun r s => wr PWR_RAIL_READ_MV r (nth 0 mv r) s)
      (setPower (fun p => { p with pollAt := some (now16 s), iout := (List.range 6).map (fun r => nth 0 ma r) }) s) :=
  if_neg (by simp [h])

theorem doPmbusPoll_waits (mv ma : List Nat) (h : again s.power.pollAt 100 s = false) : doPmbusPoll mv ma s = s := if_pos (by simp [h])

/-! ## Droops and supply dips (R464, R465) -/

theorem doDroopDetect_counts {t : Nat} (hl : look s.power.droops t = none) (ht : t < tiles s) :
    doDroopDetect t s = count t 0x0C none 1 (setPower (fun p => { p with droops := put t (now16 s) p.droops }) s) :=
  if_neg (by simp [hl, ht])

theorem doDroopClear_clears {t since : Nat} (hl : look s.power.droops t = some since) (ht : since + 8192 / graverRate s ≤ now16 s) :
    doDroopClear t s = setPower (fun p => { p with droops := del t p.droops }) s := by
  simp only [doDroopClear, hl]
  exact if_pos (due_of_le ht)

/-- The hub once a dip of `us` microseconds is over and counted. -/
def dipCounted (us : Nat) (s : State) : State :=
  s |> clrB PWR_STATUS_STRETCH 0 |> setPower (fun p => { p with dipAt := none, dipRails := 0 })
    |> bumpSat PWR_DIP_COUNT 0 1 |> wr PWR_DIP_LONGEST 0 (max (rd PWR_DIP_LONGEST 0 s) us)

/-- The point that waited for the end of the dip is taken. -/
def raiseTaken (o : Option Nat) (s : State) : State :=
  match o with
  | some p => setPoint p s
  | none => s

theorem doSupplyDipEnd_ends {t us : Nat} {s2 : State} (hd : s.power.dipAt = some t) (ht : t + us16 10 ≤ now16 s)
    (hu : us = sat 32 ((now16 s - t) / 16000)) (h1 : s1 = dipCounted us s) (h2 : s2 = raiseTaken s.power.raiseTo s1) :
    doSupplyDipEnd s = if 2 ≤ pwrState s2 then
        setPower (fun p => { p with dipsOwed := p.dipsOwed ++ [s.power.dipRails + 2 ^ 32 * us] }) s2
      else hubEvent (extentHolders s2) 0x0009 .ok (s.power.dipRails + 2 ^ 32 * us) s2 := by
  subst hu h1 h2
  simp only [doSupplyDipEnd, hd]
  exact if_neg (by simp [due_of_le ht])

end

/-- Settles O49: a descriptor by its words, a group by its leader and its period, a rail by its acknowledgement and its times, a
droop and a dip by their times. -/
theorem powerCapsVoltagesAndDips : Obligations.PowerCapsVoltagesAndDips := by
  unfold Obligations.PowerCapsVoltagesAndDips
  refine ⟨fun s g k hs => ⟨?_, ?_, ?_, ?_, ?_, ?_, ?_, ?_, ?_, ?_, ?_⟩, fun s r hs => ⟨?_, ?_, ?_, ?_, ?_, ?_, ?_, ?_, ?_, ?_, ?_⟩⟩
  · exact fun d hd ha hc => next_clocked hs ((doSetCap_now hd ha).trans (if_pos hc))
  · exact fun d hd ha hc => next_clocked hs ((doSetCap_now hd ha).trans (if_neg (Bool.eq_false_iff.1 hc)))
  · exact fun d s1 hd h1 => next_clocked hs (doGroup_sets hd h1)
  · rintro n m s1 hg he rfl rfl hl rfl
    exact next_clocked hs ((doPowerGroupReport_reports hg he).trans (if_neg (Bool.eq_false_iff.1 (groupLeader_of_ne hl))))
  · rintro n m hg he rfl rfl hl
    have hlead := groupLeader_of_eq hg hl
    exact next_clocked hs ((doPowerGroupReport_reports hg he).trans ((if_pos hlead).trans (if_pos hlead)))
  · exact fun h => next_clocked hs (doPowerGroupReport_none h)
  · intro hl hd hn
    refine next_clocked hs ((doPowerGroupDecide_decides hl hd rfl).trans ?_)
    rw [hn]
    rfl
  · exact fun s1 hl hd h1 => next_clocked hs (doPowerGroupDecide_decides hl hd h1)
  · exact fun h => next_clocked hs (doPowerGroupDecide_waits h)
  · exact fun c e hc hg he => next_clocked hs (doPowerGroupApply_applies hc hg he)
  · exact fun pk hb h => setCaps_confidential pk hb h
  · intro a mv ha h h' hp
    refine next_clocked hs ((doAvsAck_near ha h h' rfl).trans ?_)
    rw [hp]
    rfl
  · exact fun a mv ha h => next_clocked hs (doAvsAck_far ha h)
  · exact fun a ha h4 ht => next_clocked hs (doAvsRetryTimeout_resends ha h4 ht)
  · exact fun a ha ht => next_clocked hs (doAvsAckTimeout_faults ha ht)
  · exact fun mv ma h => next_clocked hs (doPmbusPoll_reads mv ma h)
  · exact fun t hl ht => next_clocked hs (doDroopDetect_counts hl ht)
  · exact fun t since hl ht => next_clocked hs (doDroopClear_clears hl ht)
  · exact fun rails => next_clocked hs rfl
  · intro t us s1 s2 hd ht hu h1 h2
    have h2' : s2 = raiseTaken s.power.raiseTo s1 := h2
    exact ⟨fun hp => next_clocked hs ((doSupplyDipEnd_ends hd ht hu h1 h2').trans (if_neg (Nat.not_le.2 hp))),
      fun hp => next_clocked hs ((doSupplyDipEnd_ends hd ht hu h1 h2').trans (if_pos hp))⟩
  · intro a mv p s1 ha h h' hp h1 hf
    have hack := doAvsAck_near ha h h' h1
    simp only [hp, hf, Bool.false_eq_true, if_false] at hack
    exact ⟨fun hd => next_clocked hs (hack.trans (if_neg (Bool.eq_false_iff.1 hd))), fun hd => next_clocked hs (hack.trans (if_pos hd))⟩
  · exact fun h mv ma => next_clocked hs (doPmbusPoll_waits mv ma h)

end Sys2Proof.Machine
